-- ==== Sys2Proof/Word.lean ====
section
/-! DEFINITION. The word types of the DN40 and their plainest arithmetic.
Bits are numbered from 0, the least significant (R3); a byte string is little-endian (R3). -/

namespace Sys2Proof

/-- A byte of memory, scratchpad or a packet. -/
abbrev Byte := BitVec 8

/-- An S-stream register, a CSR, an a-register (R16, R24). -/
abbrev Word := BitVec 64

/-- An instruction or command word (R52). -/
abbrev Word32 := BitVec 32

/-- A v register: 512 bytes, byte `i` at bits `[8i+7:8i]` (R16, R117). -/
abbrev VWord := BitVec 4096

/-- A predicate register (R16). -/
abbrev PWord := BitVec 1024

end Sys2Proof
end

