-- ==== Sys2Proof/Syntax.lean ====
section
/-! DEFINITION. The instructions of the machine: every row of the opcode table as a constructor.
Codes of fields stand in Decode.lean. -/

namespace Sys2Proof

/-- An x register number (R16). -/
abbrev XReg := BitVec 6
/-- A mortise register number (R16). -/
abbrev TReg := BitVec 5
/-- A v register number (R16). -/
abbrev VReg := BitVec 5
/-- A predicate register field; 24 to 31 are reserved (R63). -/
abbrev PReg := BitVec 5
/-- An a-register number (R16). -/
abbrev AReg := BitVec 4
/-- A semaphore number; 0 means none (R16). -/
abbrev SemId := BitVec 6
/-- A stage ring number (R16). -/
abbrev RingId := BitVec 5
/-- A panel barrier number (R16). -/
abbrev BarId := BitVec 5
/-- The stall count of an S word (R54). -/
abbrev SStall := BitVec 3
/-- The stall count of a V word (R59). -/
abbrev VStall := BitVec 2
/-- The number of a task core (R1). -/
abbrev CoreId := BitVec 8
/-- The number of a core of any kind: 0 to 255 the task cores, 256 to 259 those of Bench A, 260 to 263 those of Bench B (R1, R420). -/
abbrev CoreNum := BitVec 9
/-- A queue slot (R313). -/
abbrev SlotId := BitVec 7
/-- A jig walker pair (R273). -/
abbrev WalkerId := BitVec 6
/-- A gang (R279). -/
abbrev GangId := BitVec 7

/-- Element types, in the order of their codes (R60). -/
inductive ETy where
  | si32 | si16 | si8 | si4 | fp32 | fp16 | bf16 | fx
  deriving DecidableEq, Repr

/-- Class Int of R60. -/
def ETy.isInt : ETy → Bool
  | .si32 | .si16 | .si8 | .si4 => true
  | _ => false

/-- Class Float of R60. -/
def ETy.isFloat : ETy → Bool
  | .fp32 | .fp16 | .bf16 => true
  | _ => false

/-- The element types an MMA may name (R160). -/
def ETy.isMma : ETy → Bool
  | .si8 | .si4 | .fp16 | .bf16 => true
  | _ => false

/-- Rounding modes (R43). -/
inductive Round where
  | rne | rtz | rto | raz
  deriving DecidableEq, Repr

/-- Scopes: core, panel, device, system (R55, R248). -/
inductive Scope where
  | core | panel | device | system
  deriving DecidableEq, Repr

/-- The functions of AMO (R97). -/
inductive AmoOp where
  | add | min | max | minu | maxu | and | or | xchg
  deriving DecidableEq, Repr

/-- The kinds of FENCE (R200). -/
inductive FenceKind where
  | acq | rel | ar
  deriving DecidableEq, Repr

/-- The ring an RAPP appends to (R190). -/
inductive RingSel where
  | v | m | c
  deriving DecidableEq, Repr

/-- The kinds of VCMP (R124). -/
inductive CmpKind where
  | eq | ne | lt | le | gt | ge | unord | ord
  deriving DecidableEq, Repr

/-- The functions of VRED and VSCAN (R134). -/
inductive RedFn where
  | add | min | max
  deriving DecidableEq, Repr

/-- The functions of AOP (R149). -/
inductive AopFn where
  | add | sub | mul | and | or | xor | sll | srl
  deriving DecidableEq, Repr

/-- The streams a word may belong to (R14). -/
inductive StreamKind where
  | s | v | m | c
  deriving DecidableEq, Repr

/-- The two engines that run commands (R154). -/
inductive EngineSel where
  | m | c
  deriving DecidableEq, Repr

/-- What moves on a core: its four streams (R14). -/
inductive Agent where
  | s | v | m | c
  deriving DecidableEq, Repr

/-- A host access: bytes written, with poison or without (R399), or a count of bytes read (R311, R255). -/
inductive HostAccess where
  | write (bytes : List Byte) (poison : Bool)
  | read (count : Nat)
  deriving DecidableEq, Repr

/-- A revocation request record (R348); the event that carries it is its REASON. -/
structure RevokeReq where
  /-- INDEX. -/
  ix : BitVec 64
  /-- OLDPA. -/
  oldPa : BitVec 64
  /-- NEWPA. -/
  newPa : BitVec 64
  /-- LEAFPA. -/
  leafPa : BitVec 64
  /-- UNITS. -/
  units : BitVec 32
  /-- The bytes [23:16] and [11:9], which must be zero. -/
  pad : BitVec 88
  deriving DecidableEq, Repr

/-- Types of Dovetail packet (R372). -/
inductive DvType where
  | write | release | gap | openReq | openAck | shut | shutAck | fault | faultAck | busy
  deriving DecidableEq, Repr

/-- A Dovetail packet (R372). -/
structure DvPacket where
  ty : DvType
  epoch : BitVec 2
  gen : BitVec 4
  slot : BitVec 12
  dst : BitVec 22
  src : BitVec 22
  win : BitVec 16
  off : BitVec 64
  count : BitVec 32
  value : BitVec 32
  /-- The payload of a WRITE. -/
  data : List Byte
  /-- The payload sectors that carry poison, by number (R373). -/
  poisoned : List Nat
  /-- Whether every sector passes its check value (R373). -/
  intact : Bool
  deriving DecidableEq, Repr

/-- An epoch of a receiver's arrival slot (R381). -/
structure ArrivalEpoch where
  slot : BitVec 12
  epoch : BitVec 2
  deriving DecidableEq, Repr

/-- A Dovetail flit as a port receives it (R370, R371): its number, what its link header says of the flits sent the other way (the
last one acknowledged, one asked for again), its 240 packet bytes with their poison, and whether every sector of a packet in it
passes its check value. -/
structure LinkFlit where
  seq : BitVec 12
  ack : Option (BitVec 12)
  again : Option (BitVec 12)
  body : List (Byte × Bool)
  sound : Bool
  deriving DecidableEq, Repr

/-- An SPDM request: its version byte, its parameters and its payload after the four header bytes (R426). -/
structure SpdmReq where
  version : Byte
  code : Byte
  param1 : Byte
  param2 : Byte
  payload : List Byte
  deriving DecidableEq, Repr

/-- Where an uncorrectable error of a core's SRAM lies (R416). -/
inductive SramSite where
  | scratchpad (sector : BitVec 17)
  | vreg (n : VReg) (sector : BitVec 4)
  | acc (bank : BitVec 2) (row col : BitVec 7)
  | control
  deriving DecidableEq, Repr

/-- Whose Dovetail control packet waits for its acknowledgement: OPEN or SHUT of a channel, FAULT of an arrival slot (R377). -/
inductive ControlOwner where
  | chan (gang : GangId) (ch : BitVec 12)
  | slot (sl : BitVec 12)
  deriving DecidableEq, Repr

/-- What the Bench finds when it compares the two copies of the integrity structures (R418). -/
inductive CompareResult where
  | good | oneLost | bothLost
  deriving DecidableEq, Repr

/-- How the scrub of the lease gate ends (R428): failures met in each of the 13 regions, and whether spares absorb
every failure outside the DRAM. -/
structure ScrubResult where
  failures : List (BitVec 32)
  absorbed : Bool
  /-- The physical addresses of the DRAM words that failed (R415). -/
  words : List (BitVec 51) := []
  deriving DecidableEq, Repr

/-- The instructions, commands and events of the machine, one constructor for each row of the opcode table.
`st` is the stall count (R54, R59); `ws`, `ss` and `rl` are the fields of word 0 of a command (R66). -/
inductive Instr where
  /-- ADD (R81): x(d) := x(a) + x(b) modulo 2^64. -/
  | add (st : SStall) (d a b : XReg)
  /-- SUB (R81): x(d) := x(a) - x(b) modulo 2^64. -/
  | sub (st : SStall) (d a b : XReg)
  /-- AND (R81): bitwise and. -/
  | and (st : SStall) (d a b : XReg)
  /-- OR (R81): bitwise or. -/
  | or (st : SStall) (d a b : XReg)
  /-- XOR (R81): bitwise exclusive or. -/
  | xor (st : SStall) (d a b : XReg)
  /-- SLL (R81): left shift by x(b)[5:0]. -/
  | sll (st : SStall) (d a b : XReg)
  /-- SRL (R81): logical right shift by x(b)[5:0]. -/
  | srl (st : SStall) (d a b : XReg)
  /-- SRA (R81): arithmetic right shift by x(b)[5:0]. -/
  | sra (st : SStall) (d a b : XReg)
  /-- SLT (R81): 1 if x(a) < x(b) signed. -/
  | slt (st : SStall) (d a b : XReg)
  /-- SLTU (R81): 1 if x(a) < x(b) unsigned. -/
  | sltu (st : SStall) (d a b : XReg)
  /-- SEQ (R81): 1 if x(a) = x(b). -/
  | seq (st : SStall) (d a b : XReg)
  /-- MIN (R81): signed minimum. -/
  | min (st : SStall) (d a b : XReg)
  /-- MAX (R81): signed maximum. -/
  | max (st : SStall) (d a b : XReg)
  /-- MINU (R81): unsigned minimum. -/
  | minu (st : SStall) (d a b : XReg)
  /-- MAXU (R81): unsigned maximum. -/
  | maxu (st : SStall) (d a b : XReg)
  /-- MUL (R81): low 64 bits of the product. -/
  | mul (st : SStall) (d a b : XReg)
  /-- MULH (R81): high 64 bits of the signed product. -/
  | mulh (st : SStall) (d a b : XReg)
  /-- MULHU (R81): high 64 bits of the unsigned product. -/
  | mulhu (st : SStall) (d a b : XReg)
  /-- DIV (R82): integer division. -/
  | div (st : SStall) (d a b : XReg)
  /-- DIVU (R82): integer division. -/
  | divu (st : SStall) (d a b : XReg)
  /-- REM (R82): integer division. -/
  | rem (st : SStall) (d a b : XReg)
  /-- REMU (R82): integer division. -/
  | remu (st : SStall) (d a b : XReg)
  /-- CLZ (R81): leading zeros of x(a). -/
  | clz (st : SStall) (d a : XReg)
  /-- POPC (R81): set bits of x(a). -/
  | popc (st : SStall) (d a : XReg)
  /-- ADDI (R83): with the sign-extended immediate. -/
  | addi (st : SStall) (d a : XReg) (imm : BitVec 11)
  /-- ANDI (R83): with the sign-extended immediate. -/
  | andi (st : SStall) (d a : XReg) (imm : BitVec 11)
  /-- ORI (R83): with the sign-extended immediate. -/
  | ori (st : SStall) (d a : XReg) (imm : BitVec 11)
  /-- XORI (R83): with the sign-extended immediate. -/
  | xori (st : SStall) (d a : XReg) (imm : BitVec 11)
  /-- SLLI (R83): shift by the immediate. -/
  | slli (st : SStall) (d a : XReg) (sh : BitVec 6)
  /-- SRLI (R83): shift by the immediate. -/
  | srli (st : SStall) (d a : XReg) (sh : BitVec 6)
  /-- SRAI (R83): shift by the immediate. -/
  | srai (st : SStall) (d a : XReg) (sh : BitVec 6)
  /-- SLTI (R83): 1 if x(a) < immediate, signed. -/
  | slti (st : SStall) (d a : XReg) (imm : BitVec 11)
  /-- LI (R84): x(d) := sign-extended 17-bit immediate. -/
  | li (st : SStall) (d : XReg) (imm : BitVec 17)
  /-- LIS (R84): x(d) := x(d) * 2^16 + immediate. -/
  | lis (st : SStall) (d : XReg) (imm : BitVec 16)
  /-- FADD (R88): scalar FP32. -/
  | fadd (st : SStall) (d a b : XReg)
  /-- FSUB (R88): scalar FP32. -/
  | fsub (st : SStall) (d a b : XReg)
  /-- FMUL (R88): scalar FP32. -/
  | fmul (st : SStall) (d a b : XReg)
  /-- FDIV (R88): scalar FP32. -/
  | fdiv (st : SStall) (d a b : XReg)
  /-- FMIN (R89): scalar FP32. -/
  | fmin (st : SStall) (d a b : XReg)
  /-- FMAX (R89): scalar FP32. -/
  | fmax (st : SStall) (d a b : XReg)
  /-- FSQRT (R88): scalar FP32. -/
  | fsqrt (st : SStall) (d a : XReg)
  /-- FEQ (R90): scalar FP32. -/
  | feq (st : SStall) (d a b : XReg)
  /-- FLT (R90): scalar FP32. -/
  | flt (st : SStall) (d a b : XReg)
  /-- FLE (R90): scalar FP32. -/
  | fle (st : SStall) (d a b : XReg)
  /-- FCVTSW (R88): scalar FP32. -/
  | fcvtsw (st : SStall) (d a : XReg)
  /-- FCVTWS (R88): scalar FP32. -/
  | fcvtws (st : SStall) (d a : XReg)
  /-- FCVTBS (R88): scalar FP32. -/
  | fcvtbs (st : SStall) (d a : XReg)
  /-- FCVTSB (R88): scalar FP32. -/
  | fcvtsb (st : SStall) (d a : XReg)
  /-- FMA (R91): fused multiply-add with x(d) the addend. -/
  | fma (st : SStall) (d a b : XReg)
  /-- FMS (R91): fused multiply-add with x(d) the addend. -/
  | fms (st : SStall) (d a b : XReg)
  /-- FNMA (R91): fused multiply-add with x(d) the addend. -/
  | fnma (st : SStall) (d a b : XReg)
  /-- BEQ (R85): branch by a signed word offset. -/
  | beq (st : SStall) (a b : XReg) (off : BitVec 11)
  /-- BNE (R85): branch by a signed word offset. -/
  | bne (st : SStall) (a b : XReg) (off : BitVec 11)
  /-- BLT (R85): branch by a signed word offset. -/
  | blt (st : SStall) (a b : XReg) (off : BitVec 11)
  /-- BGE (R85): branch by a signed word offset. -/
  | bge (st : SStall) (a b : XReg) (off : BitVec 11)
  /-- BLTU (R85): branch by a signed word offset. -/
  | bltu (st : SStall) (a b : XReg) (off : BitVec 11)
  /-- BGEU (R85): branch by a signed word offset. -/
  | bgeu (st : SStall) (a b : XReg) (off : BitVec 11)
  /-- JAL (R86): jump and link. -/
  | jal (st : SStall) (d : XReg) (off : BitVec 17)
  /-- JALR (R86): jump to x(a) + 4 * offset and link. -/
  | jalr (st : SStall) (d a : XReg) (imm : BitVec 11)
  /-- LDB (R94): token access; offset x(o) + imm * size. -/
  | ldb (st : SStall) (d : XReg) (t : TReg) (o : XReg) (imm : BitVec 6)
  /-- LDH (R94): token access; offset x(o) + imm * size. -/
  | ldh (st : SStall) (d : XReg) (t : TReg) (o : XReg) (imm : BitVec 6)
  /-- LDW (R94): token access; offset x(o) + imm * size. -/
  | ldw (st : SStall) (d : XReg) (t : TReg) (o : XReg) (imm : BitVec 6)
  /-- LDD (R94): token access; offset x(o) + imm * size. -/
  | ldd (st : SStall) (d : XReg) (t : TReg) (o : XReg) (imm : BitVec 6)
  /-- STB (R94): token access; offset x(o) + imm * size. -/
  | stb (st : SStall) (d : XReg) (t : TReg) (o : XReg) (imm : BitVec 6)
  /-- STH (R94): token access; offset x(o) + imm * size. -/
  | sth (st : SStall) (d : XReg) (t : TReg) (o : XReg) (imm : BitVec 6)
  /-- STW (R94): token access; offset x(o) + imm * size. -/
  | stw (st : SStall) (d : XReg) (t : TReg) (o : XReg) (imm : BitVec 6)
  /-- STD (R94): token access; offset x(o) + imm * size. -/
  | std (st : SStall) (d : XReg) (t : TReg) (o : XReg) (imm : BitVec 6)
  /-- AMO (R97): atomic read-modify-write; dw selects a doubleword. -/
  | amo (st : SStall) (d : XReg) (t : TReg) (o : XReg) (f : AmoOp) (dw : Bool) (sc : Scope)
  /-- CAS (R98): compare and swap; x(d) compare value, x(d+1) new value. -/
  | cas (st : SStall) (d : XReg) (t : TReg) (o : XReg) (imm : BitVec 6)
  /-- LDS (R101): scratchpad doubleword at x(a) + 8 * imm. -/
  | lds (st : SStall) (d a : XReg) (imm : BitVec 11)
  /-- STS (R101): scratchpad doubleword at x(a) + 8 * imm. -/
  | sts (st : SStall) (d a : XReg) (imm : BitVec 11)
  /-- SPS (R102): spill store slot. -/
  | sps (st : SStall) (d : XReg) (slot : BitVec 10)
  /-- SPL (R102): spill store slot. -/
  | spl (st : SStall) (d : XReg) (slot : BitVec 10)
  /-- XLAT (R103): translate base x(a), length x(b), rights r and w, into t(t). -/
  | xlat (st : SStall) (t : TReg) (a b : XReg) (r w : Bool)
  /-- XLATQ (R106): translate base x(a), length x(b), rights r and w, into t(t). -/
  | xlatq (st : SStall) (t : TReg) (a b : XReg) (r w : Bool)
  /-- TREL (R108): release t(t). -/
  | trel (st : SStall) (t : TReg)
  /-- TMOV (R108): t(t) := t(u) with a reference of its own. -/
  | tmov (st : SStall) (t u : TReg)
  /-- TSUB (R109): t(t) := sub-extent of t(u), offset x(a), length and rights x(a+1). -/
  | tsub (st : SStall) (t u : TReg) (a : XReg)
  /-- TINFO (R110): x(a) := description of t(u). -/
  | tinfo (st : SStall) (u : TReg) (a : XReg)
  /-- TCHK (R111): x(a) := state of t(u). -/
  | tchk (st : SStall) (u : TReg) (a : XReg)
  /-- LOOK (R114): look a tag up in the drawer table. -/
  | look (st : SStall) (d a : XReg)
  /-- DTAG (R115): write a drawer tag. -/
  | dtag (st : SStall) (a b : XReg)
  /-- FORK (R189): start the engines from the fork table at x(a). -/
  | fork (st : SStall) (a : XReg)
  /-- RDV (R193): wait until every engine has ended. -/
  | rdv (st : SStall)
  /-- SEND (R195): put x(a), x(b) into mailbox entry m. -/
  | send (st : SStall) (a b : XReg) (m : BitVec 4)
  /-- VFENCE (R194): wait until the V-stream is not busy. -/
  | vfence (st : SStall)
  /-- RAPP (R196): append x(a)[31:0] to a ring. -/
  | rapp (st : SStall) (a : XReg) (r : RingSel)
  /-- RAPP_PAIR (R196): append x(a)[31:0] then x(b)[31:0] to a ring. -/
  | rappPair (st : SStall) (a b : XReg) (r : RingSel)
  /-- POST (R198): raise semaphore n. -/
  | post (st : SStall) (n : SemId)
  /-- WAITS (R198): await semaphore n. -/
  | waits (st : SStall) (n : SemId)
  /-- MARK (R199): order earlier stores before later ones at a scope. -/
  | mark (st : SStall) (sc : Scope)
  /-- FENCE (R200): acquire, release or both at a scope. -/
  | fence (st : SStall) (k : FenceKind) (sc : Scope)
  /-- BAR (R201): panel barrier n. -/
  | bar (st : SStall) (n : BarId)
  /-- SACQ (R202): acquire a producer slot of ring n. -/
  | sacq (st : SStall) (d : XReg) (n : RingId)
  /-- SCOMMIT (R202): commit the oldest FILLING slot of ring n. -/
  | scommit (st : SStall) (n : RingId)
  /-- SAWAIT (R202): await the head slot of ring n. -/
  | sawait (st : SStall) (d : XReg) (n : RingId)
  /-- SREL (R202): release the oldest DRAINING slot of ring n. -/
  | srel (st : SStall) (n : RingId)
  /-- JLAUNCH (R203): launch the jig whose record x(a) names. -/
  | jlaunch (st : SStall) (d a : XReg)
  /-- FLUSHH (R204): write back or discard device-side copies of host lines, offset x(a), length x(b). -/
  | flushh (st : SStall) (t : TReg) (a b : XReg)
  /-- INVH (R204): write back or discard device-side copies of host lines, offset x(a), length x(b). -/
  | invh (st : SStall) (t : TReg) (a b : XReg)
  /-- SKIPR (R205): read a skip bit. -/
  | skipr (st : SStall) (d a b : XReg)
  /-- SKIPW (R205): write a skip bit from x(d). -/
  | skipw (st : SStall) (d a b : XReg)
  /-- CSRR (R206): x(d) := CSR. -/
  | csrr (st : SStall) (d : XReg) (c : BitVec 11)
  /-- CSRW (R206): x(d) := CSR; then write x(a). -/
  | csrw (st : SStall) (d a : XReg) (c : BitVec 11)
  /-- CSRS (R206): x(d) := CSR; then set the bits of x(a). -/
  | csrs (st : SStall) (d a : XReg) (c : BitVec 11)
  /-- CSRC (R206): x(d) := CSR; then clear the bits of x(a). -/
  | csrc (st : SStall) (d a : XReg) (c : BitVec 11)
  /-- TRAP (R214): take the trap TRAP with a code. -/
  | trap (st : SStall) (code : BitVec 8)
  /-- ERET (R210): return from a trap. -/
  | eret (st : SStall)
  /-- HALT (R214): end the step on this core. -/
  | halt (st : SStall)
  /-- WFI (R214): wait for an event. -/
  | wfi (st : SStall)
  /-- BKPT (R214): breakpoint trap. -/
  | bkpt (st : SStall)
  /-- VADD (R120): element-wise. -/
  | vadd (et : ETy) (st : VStall) (g : PReg) (d a b : VReg) (sat : Bool)
  /-- VSUB (R120): element-wise. -/
  | vsub (et : ETy) (st : VStall) (g : PReg) (d a b : VReg) (sat : Bool)
  /-- VMUL (R120): element-wise. -/
  | vmul (et : ETy) (st : VStall) (g : PReg) (d a b : VReg) (sat : Bool)
  /-- VFMA (R120): va * vb + vd. -/
  | vfma (et : ETy) (st : VStall) (g : PReg) (d a b : VReg) (sat : Bool)
  /-- VMIN (R120): element-wise. -/
  | vmin (et : ETy) (st : VStall) (g : PReg) (d a b : VReg) (uns : Bool)
  /-- VMAX (R120): element-wise. -/
  | vmax (et : ETy) (st : VStall) (g : PReg) (d a b : VReg) (uns : Bool)
  /-- VABS (R120): element-wise. -/
  | vabs (et : ETy) (st : VStall) (g : PReg) (d a : VReg) (sat : Bool)
  /-- VNEG (R120): element-wise. -/
  | vneg (et : ETy) (st : VStall) (g : PReg) (d a : VReg) (sat : Bool)
  /-- VAND (R123): bitwise. -/
  | vand (et : ETy) (st : VStall) (g : PReg) (d a b : VReg)
  /-- VOR (R123): bitwise. -/
  | vor (et : ETy) (st : VStall) (g : PReg) (d a b : VReg)
  /-- VXOR (R123): bitwise. -/
  | vxor (et : ETy) (st : VStall) (g : PReg) (d a b : VReg)
  /-- VSHL (R123): left shift. -/
  | vshl (et : ETy) (st : VStall) (g : PReg) (d a b : VReg)
  /-- VSHR (R123): right shift, logical with uns. -/
  | vshr (et : ETy) (st : VStall) (g : PReg) (d a b : VReg) (uns : Bool)
  /-- VCMP (R124): compare into predicate p. -/
  | vcmp (et : ETy) (st : VStall) (p : PReg) (k : CmpKind) (a b : VReg) (uns : Bool)
  /-- VSEL (R125): select by predicate p. -/
  | vsel (et : ETy) (st : VStall) (p : PReg) (d a b : VReg)
  /-- VMOV (R125): copy containers. -/
  | vmov (et : ETy) (st : VStall) (g : PReg) (d a : VReg)
  /-- VEXP2 (R126): special function. -/
  | vexp2 (et : ETy) (st : VStall) (g : PReg) (d a : VReg)
  /-- VLOG2 (R126): special function. -/
  | vlog2 (et : ETy) (st : VStall) (g : PReg) (d a : VReg)
  /-- VRCP (R126): special function. -/
  | vrcp (et : ETy) (st : VStall) (g : PReg) (d a : VReg)
  /-- VRSQ (R126): special function. -/
  | vrsq (et : ETy) (st : VStall) (g : PReg) (d a : VReg)
  /-- VTANH (R126): special function. -/
  | vtanh (et : ETy) (st : VStall) (g : PReg) (d a : VReg)
  /-- VERF (R126): special function. -/
  | verf (et : ETy) (st : VStall) (g : PReg) (d a : VReg)
  /-- VCVT (R128): convert in place to type y. -/
  | vcvt (et : ETy) (st : VStall) (g : PReg) (d a : VReg) (y : ETy) (r : Round) (sat : Bool)
  /-- VWID (R129): widen to type y. -/
  | vwid (et : ETy) (st : VStall) (g : PReg) (d a : VReg) (y : ETy) (uns : Bool)
  /-- VNAR (R130): narrow to type y. -/
  | vnar (et : ETy) (st : VStall) (g : PReg) (d a : VReg) (y : ETy) (r : Round) (sat : Bool)
  /-- VPERM (R132): permute within windows. -/
  | vperm (et : ETy) (st : VStall) (g : PReg) (d a b : VReg)
  /-- VZIP (R133): zip or unzip into the pair d, d+1. -/
  | vzip (et : ETy) (st : VStall) (g : PReg) (d a b : VReg)
  /-- VUNZ (R133): zip or unzip into the pair d, d+1. -/
  | vunz (et : ETy) (st : VStall) (g : PReg) (d a b : VReg)
  /-- VRED (R134): reduction or prefix reduction. -/
  | vred (et : ETy) (st : VStall) (g : PReg) (d a : VReg) (f : RedFn) (uns : Bool)
  /-- VSCAN (R135): reduction or prefix reduction. -/
  | vscan (et : ETy) (st : VStall) (g : PReg) (d a : VReg) (f : RedFn) (uns : Bool)
  /-- VIOTA (R136): element i := i. -/
  | viota (et : ETy) (st : VStall) (g : PReg) (d : VReg)
  /-- VBCAST (R136): every active element := a(b). -/
  | vbcast (et : ETy) (st : VStall) (g : PReg) (d : VReg) (b : AReg)
  /-- VADDI (R137): immediate form. -/
  | vaddi (et : ETy) (st : VStall) (d : VReg) (imm : BitVec 16)
  /-- VMULI (R137): immediate form. -/
  | vmuli (et : ETy) (st : VStall) (d : VReg) (imm : BitVec 16)
  /-- VMAXI (R137): immediate form. -/
  | vmaxi (et : ETy) (st : VStall) (d : VReg) (imm : BitVec 16)
  /-- VMINI (R137): immediate form. -/
  | vmini (et : ETy) (st : VStall) (d : VReg) (imm : BitVec 16)
  /-- VMOVI (R137): immediate form. -/
  | vmovi (et : ETy) (st : VStall) (d : VReg) (imm : BitVec 16)
  /-- VANDI (R137): immediate form. -/
  | vandi (et : ETy) (st : VStall) (d : VReg) (imm : BitVec 16)
  /-- VSHLI (R137): immediate form. -/
  | vshli (et : ETy) (st : VStall) (d : VReg) (imm : BitVec 16)
  /-- VSUBI (R137): immediate form. -/
  | vsubi (et : ETy) (st : VStall) (d : VReg) (imm : BitVec 16)
  /-- VLD (R139): load through a token. -/
  | vld (et : ETy) (st : VStall) (g : PReg) (d : VReg) (t : TReg) (o : AReg) (gauge raw : Bool)
  /-- VST (R140): store through a token. -/
  | vst (et : ETy) (st : VStall) (g : PReg) (d : VReg) (t : TReg) (o : AReg) (raw : Bool)
  /-- VLDS (R142): scratchpad access at a(b) + 512 * imm. -/
  | vlds (et : ETy) (st : VStall) (g : PReg) (d : VReg) (b : AReg) (imm : BitVec 7)
  /-- VSTS (R142): scratchpad access at a(b) + 512 * imm. -/
  | vsts (et : ETy) (st : VStall) (g : PReg) (d : VReg) (b : AReg) (imm : BitVec 7)
  /-- VGATH (R143): gather or scatter; elems counts offsets in elements. -/
  | vgath (et : ETy) (st : VStall) (g : PReg) (d : VReg) (t : TReg) (b : VReg) (elems : Bool)
  /-- VSCAT (R143): gather or scatter; elems counts offsets in elements. -/
  | vscat (et : ETy) (st : VStall) (g : PReg) (d : VReg) (t : TReg) (b : VReg) (elems : Bool)
  /-- VSLOT_ACQ (R145): stage ring n. -/
  | vslotAcq (st : VStall) (d : AReg) (n : RingId)
  /-- VSLOT_COMMIT (R145): stage ring n. -/
  | vslotCommit (st : VStall) (n : RingId)
  /-- VSLOT_AWAIT (R145): stage ring n. -/
  | vslotAwait (st : VStall) (d : AReg) (n : RingId)
  /-- VSLOT_REL (R145): stage ring n. -/
  | vslotRel (st : VStall) (n : RingId)
  /-- VSETF_SETFMT (R146): VFMT.INDEX := k. -/
  | vsetfSetfmt (st : VStall) (k : BitVec 4)
  /-- VSETF_SELPAT (R146): enable or disable gauge selection of pattern k. -/
  | vsetfSelpat (st : VStall) (en : Bool) (k : BitVec 3)
  /-- VSETF_LDPAT (R146): load pattern k from scratchpad a(h). -/
  | vsetfLdpat (st : VStall) (h : AReg) (k : BitVec 3)
  /-- PAND (R147): predicate logic. -/
  | pand (st : VStall) (d a b : PReg)
  /-- POR (R147): predicate logic. -/
  | por (st : VStall) (d a b : PReg)
  /-- PXOR (R147): predicate logic. -/
  | pxor (st : VStall) (d a b : PReg)
  /-- PNOT (R147): predicate complement. -/
  | pnot (st : VStall) (d a : PReg)
  /-- PCNT (R147): count or find set bits below N(et). -/
  | pcnt (et : ETy) (st : VStall) (d : AReg) (a : PReg)
  /-- PFIRST (R147): count or find set bits below N(et). -/
  | pfirst (et : ETy) (st : VStall) (d : AReg) (a : PReg)
  /-- ARECV (R148): receive mailbox entry m into a(d), a(d+1). -/
  | arecv (st : VStall) (d : AReg) (m : BitVec 4)
  /-- AOP_IMM (R149): a(d) := a(a) f imm. -/
  | aopImm (f : AopFn) (st : VStall) (d a : AReg) (imm : BitVec 12)
  /-- AOP_REG (R149): a(d) := a(a) f a(b). -/
  | aopReg (f : AopFn) (st : VStall) (d a b : AReg)
  /-- VPOST (R150): semaphore n. -/
  | vpost (st : VStall) (n : SemId)
  /-- VWAIT (R150): semaphore n. -/
  | vwait (st : VStall) (n : SemId)
  /-- VMARK (R150): order the V queues at a scope. -/
  | vmark (st : VStall) (sc : Scope)
  /-- VLOOP (R151): repeat the next len words count times. -/
  | vloop (st : VStall) (len : BitVec 5) (count : BitVec 16)
  /-- VEND (R78): end of the V program. -/
  | vend
  /-- MSYNC (R173): wait for every earlier M command; with e end. -/
  | msync (ws ss : SemId) (e : Bool)
  /-- MMA (R162): accumulate nslab K-slabs of rings ar and br into a bank. -/
  | mma (ws ss : SemId) (rl : Bool) (bank : BitVec 2) (z : Bool) (ar br : RingId) (t : Bool) (nslab : BitVec 8) (klast : BitVec 7) (afmt bfmt : BitVec 4) (et : ETy) (ua ub ck : Bool)
  /-- MMAP (R164): accumulate nslab K-slabs of rings ar and br into a bank. -/
  | mmap (ws ss : SemId) (bank : BitVec 2) (z : Bool) (ar br : RingId) (t : Bool) (nslab : BitVec 8) (klast : BitVec 7) (afmt bfmt : BitVec 4) (et : ETy) (ua ub ck : Bool)
  /-- MZERO (R167): clear a bank. -/
  | mzero (ws ss : SemId) (rl : Bool) (bank : BitVec 2)
  /-- MDRAIN (R168): drain a bank to scratchpad. -/
  | mdrain (ws ss : SemId) (rl : Bool) (bank : BitVec 2) (ot : ETy) (r : Round) (sk sat : Bool) (scale : BitVec 16) (dest : BitVec 12) (xf : BitVec 4)
  /-- MLDACC (R170): load a bank from scratchpad. -/
  | mldacc (ws ss : SemId) (rl : Bool) (bank : BitVec 2) (it : ETy) (src : BitVec 12) (xf : BitVec 4)
  /-- MFMT (R171): write FMT(entry) from scratchpad src. -/
  | mfmt (ws ss : SemId) (entry : BitVec 4) (src : BitVec 22)
  /-- MLOOP (R172): repeat the next len commands count times. -/
  | mloop (len : BitVec 6) (count : BitVec 16)
  /-- MCHK (R166): check a bank and write a report. -/
  | mchk (ws ss : SemId) (bank : BitVec 2) (rep : BitVec 22)
  /-- CSYNC (R173): wait for every earlier C command; with e end. -/
  | csync (ws ss : SemId) (e : Bool)
  /-- COPY (R174): copy between an extent and scratchpad or a stage-ring slot; out is D. -/
  | copy (ws ss : SemId) (rl out : Bool) (t : TReg) (g : Bool) (ring : RingId) (off : BitVec 32) (spa len : BitVec 13) (j : Bool)
  /-- COPYT (R176): run a copy template. -/
  | copyt (ws ss : SemId) (rl : Bool) (tm : BitVec 6) (ed : BitVec 19) (sd : BitVec 13)
  /-- IMWIN (R178): gather image windows. -/
  | imwin (ws ss : SemId) (rl : Bool) (t : TReg) (off : BitVec 32) (spa : BitVec 13) (p : BitVec 10) (kw : BitVec 4) (sx : BitVec 2) (cg : BitVec 3)
  /-- GATHER (R179): move rows by an index list. -/
  | gather (ws ss : SemId) (rl : Bool) (t : TReg) (count : BitVec 10) (idxa : BitVec 22) (spa row : BitVec 13)
  /-- SCATTER (R179): move rows by an index list. -/
  | scatter (ws ss : SemId) (rl : Bool) (t : TReg) (count : BitVec 10) (idxa : BitVec 22) (spa row : BitVec 13)
  /-- FILL (R180): fill scratchpad or a slot with a pattern. -/
  | fill (ws ss : SemId) (rl : Bool) (w : BitVec 2) (value : BitVec 32) (spa len : BitVec 13) (g : Bool) (ring : RingId)
  /-- SKETCH (R181): sketch 2^logn elements. -/
  | sketch (ws ss : SemId) (rl : Bool) (et : ETy) (src : BitVec 12) (logn : BitVec 4) (dst : BitVec 16)
  /-- PCOPY (R182): copy between this scratchpad and a sibling; out is D. -/
  | pcopy (ws ss : SemId) (out : Bool) (rank : BitVec 4) (sib len own : BitVec 13)
  /-- DVOPEN (R183): open a Dovetail channel. -/
  | dvopen (ws ss : SemId) (ch : BitVec 12) (dev : BitVec 22) (win : BitVec 16)
  /-- DVW (R183): send scratchpad bytes to a window. -/
  | dvw (ws ss : SemId) (ch : BitVec 12) (woff : BitVec 32) (spa len : BitVec 13)
  /-- DVREL (R183): release the epoch with a flag write. -/
  | dvrel (ws ss : SemId) (ch : BitVec 12) (woff flag : BitVec 32)
  /-- DVSHUT (R183): shut a Dovetail channel. -/
  | dvshut (ws ss : SemId) (ch : BitVec 12)
  /-- CLOOP (R172): repeat the next len commands count times. -/
  | cloop (len : BitVec 6) (count : BitVec 16)
  /-- CFLUSH (R184): write back or discard device-side copies of host lines. -/
  | cflush (ws ss : SemId) (t : TReg) (inv : Bool) (off len : BitVec 32)
  /-- ENGINE_COMMAND_ISSUE (R154): An M or C command whose WS is satisfied issues and reads its tokens and tables. -/
  | engineCommandIssue (core : CoreId) (eng : EngineSel)
  /-- ENGINE_COMMAND_COMPLETE (R154): A command finishes, makes its writes visible at core scope and raises SS. -/
  | engineCommandComplete (core : CoreId) (eng : EngineSel)
  /-- RELOCATE_TAKE (R185): An idle sibling engine takes an RL command from a busy owner's ring. -/
  | relocateTake (core : CoreId) (eng : EngineSel)
  /-- APERTURE_COPY_START (R177): A queued aperture copy starts when its channel reaches it. -/
  | apertureCopyStart (core : CoreId) (chan : BitVec 2)
  /-- STREAM_WAKE (R217): A waiting stream returns to the ready set on the raise, phase change or refresh it awaited. -/
  | streamWake (core : CoreId) (ag : Agent)
  /-- TAKE_ASYNC_TRAP (R211): A pending TOKEN_LOST or ENGINE_ERROR is taken at the next instruction boundary. -/
  | takeAsyncTrap (core : CoreId)
  /-- REPLY_RESOLVED (R343): The Bench reply RESOLVED releases the stall and restarts the walk for the page. -/
  | replyResolved (ix : BitVec 64)
  /-- REPLY_DECLINED (R343): The Bench reply DECLINED releases the stall and makes XLAT trap XLAT_UNMAPPED. -/
  | replyDeclined (ix : BitVec 64)
  /-- REPLY_NOFRAME (R346): The Bench reply NOFRAME releases the stall and holds the XLAT for pin release. -/
  | replyNoframe (ix : BitVec 64)
  /-- REPLY_NOFRAME_OWN (R343): The Bench reply NOFRAME_OWN ends the walk with XLAT_PIN_EXHAUSTED. -/
  | replyNoframeOwn (ix : BitVec 64)
  /-- PINWAIT_EXPIRY (R346): PINWAIT passes after a NOFRAME reply and XLAT traps XLAT_PIN_EXHAUSTED. -/
  | pinwaitExpiry (ix : BitVec 64)
  /-- REVOKE_UNMAP (R348): A request record with reason UNMAP starts a revocation. -/
  | revokeUnmap (rq : RevokeReq)
  /-- REVOKE_MIGRATE (R355): A MIGRATE request enters a migration pair and revokes the old units. -/
  | revokeMigrate (rq : RevokeReq)
  /-- REVOKE_DISCARD (R353): A DISCARD request sets directory DSC and revokes the units. -/
  | revokeDiscard (rq : RevokeReq)
  /-- REVOKE_ATTRIBUTE (R348): An ATTRIBUTE request revokes units whose leaf attributes changed. -/
  | revokeAttribute (rq : RevokeReq)
  /-- REVOCATION_SETTLED (R349): Every marked core has reported and the revocation completes to the Bench. -/
  | revocationSettled (ix : BitVec 64)
  /-- REWALK_COMPLETE (R351): A STALE MTE's re-walk succeeds to LIVE or fails to DEAD, releasing held accesses. -/
  | rewalkComplete (core : CoreId) (mte : BitVec 6)
  /-- MIGRATION_LINE_PULL (R356): A missing line is pulled from the old home into the new unit. -/
  | migrationLinePull (pair : BitVec 7)
  /-- TAIL_WRITE (R315): A QTAIL write or doorbell-word store raises TAIL or is refused with OVR. -/
  | tailWrite (slot : SlotId) (w : BitVec 64)
  /-- QCAN_WRITE (R321): A write of i to QCAN cancels a taken, incomplete JIG or GRAPH packet. -/
  | qcanWrite (slot : SlotId) (w : BitVec 64)
  /-- CLEAR_OVR (R315): Writing 1 to QSTAT.OVR clears the overrun halt. -/
  | clearOvr (slot : SlotId)
  /-- CLEAR_MAL (R320): Writing 1 to QSTAT.MAL makes the dispatcher read the packet again. -/
  | clearMal (slot : SlotId)
  /-- CLEAR_XLF (R448): Writing 1 to QSTAT.XLF makes the dispatcher retry the SIGNAL or WAIT access. -/
  | clearXlf (slot : SlotId)
  /-- REGISTER_WRITE (R6): A write to a register with no behaviour of its own updates its RW fields. -/
  | registerWrite (off : BitVec 24) (val : BitVec 64)
  /-- HOST_BAR2_ACCESS (R311): A host read or write of partition device memory through BAR2. -/
  | hostBar2Access (part : BitVec 3) (off : BitVec 64) (acc : HostAccess)
  /-- CXL_MEM_ACCESS (R255): A host access to the coherent window through CXL.mem. -/
  | cxlMemAccess (part : BitVec 3) (off : BitVec 64) (acc : HostAccess)
  /-- PACKET_JIG (R316): The dispatcher takes a JIG packet and launches its jig. -/
  | packetJig (slot : SlotId)
  /-- PACKET_GRAPH (R286): The dispatcher takes a GRAPH packet, validates the descriptor and starts the graph. -/
  | packetGraph (slot : SlotId)
  /-- PACKET_COPY (R318): The dispatcher takes a COPY packet and starts the copy. -/
  | packetCopy (slot : SlotId)
  /-- PACKET_COPY_DONE (R318): A COPY packet's copy ends and its completion record is written. -/
  | packetCopyDone (slot : SlotId)
  /-- PACKET_SIGNAL (R318): After earlier packets complete, a SIGNAL performs its store or add and sends its vector. -/
  | packetSignal (slot : SlotId)
  /-- PACKET_WAIT (R318): The dispatcher takes a WAIT packet and holds the queue until its comparison holds. -/
  | packetWait (slot : SlotId)
  /-- DISPATCHER_REREAD (R316): Every 2 us the dispatcher re-reads a held stamp or WAIT word. -/
  | dispatcherReread (slot : SlotId)
  /-- LAUNCHED_TAKE (R285): The dispatcher takes a JLAUNCH unit from a slot's launched list. -/
  | launchedTake (slot : SlotId)
  /-- STEP_HANDOUT (R273): A walker hands its next step to the lowest free panel and prepares the cores. -/
  | stepHandout (wk : WalkerId)
  /-- SKIP_DECISION (R298): The sequencer decides whether a skip-eligible tile step is skipped or computed. -/
  | skipDecision (wk : WalkerId)
  /-- STEP_END (R264): A dispatched step has halted with drained queues and its cores return. -/
  | stepEnd (core : CoreId)
  /-- TLIMIT_EXPIRY (R276): A step exceeding its time limit ends ERROR with cause 0x0201. -/
  | tlimitExpiry (core : CoreId)
  /-- PANEL_RESERVE (R278): After 1 ms waiting, the dispatcher reserves an aligned group for a panel. -/
  | panelReserve (wk : WalkerId)
  /-- NODE_READY (R287): A graph node whose in-edges have all delivered starts, is cancelled or is poisoned. -/
  | nodeReady (gr : BitVec 16) (node : BitVec 10)
  /-- NODE_COND (R288): A COND node reads its word and sends done and skip on its two edges. -/
  | nodeCond (gr : BitVec 16) (node : BitVec 10)
  /-- NODE_HOSTRING (R325): A HOSTRING node with room appends a DATA entry to its host ring. -/
  | nodeHostring (gr : BitVec 16) (node : BitVec 10)
  /-- HOSTRING_TIME_EXPIRY (R327): TIME microseconds after the first uncovered entry, the ring sends its vector. -/
  | hostringTimeExpiry (ring : BitVec 8)
  /-- MULTI_COMMIT (R329): All named partitions have reserved and the parts of a MULTI launch start together. -/
  | multiCommit (gid : BitVec 32)
  /-- MULTI_TIMEOUT (R329): Reservations not complete within 10 ms are released and the parts end ERROR 0x0205. -/
  | multiTimeout (gid : BitVec 32)
  /-- PREEMPT_REQUEST (R360): A pre-emption request for a gang halts every victim stream at its stop point. -/
  | preemptRequest (gang : GangId)
  /-- PREEMPT_SAVE_DONE (R361): Every context record of the victim is written and its cores returned. -/
  | preemptSaveDone (gang : GangId)
  /-- RESTORE_REQUEST (R368): A gang's contexts are restored onto formed panels and resume together. -/
  | restoreRequest (gang : GangId)
  /-- MAP_GANG (R279): The Bench maps all of a gang's queue slots in one step. -/
  | mapGang (gang : GangId) (slots : List SlotId) (root : BitVec 64) (part : BitVec 3) (save : BitVec 64)
  /-- UNMAP_GANG (R279): The Bench unmaps a gang's slots and pre-empts its running steps. -/
  | unmapGang (gang : GangId)
  /-- SET_PARTITIONS (R328): The Bench splits the device into 1, 2, 4 or 8 partitions. -/
  | setPartitions (n : BitVec 4)
  /-- BIND_DESCRIPTOR (R291): The Bench writes a skip-eligible descriptor from a valid image. -/
  | bindDescriptor (n : BitVec 6) (gang : GangId) (image : List Byte)
  /-- FREE_DESCRIPTOR (R291): The Bench frees a skip-eligible descriptor. -/
  | freeDescriptor (n : BitVec 6)
  /-- EXPORT_WINDOW (R374): The Bench exports a Dovetail window with its remote token. -/
  | exportWindow (win : BitVec 16) (gang : GangId) (base len : BitVec 64) (src : BitVec 22) (anySrc : Bool)
  /-- LOAD_KEY (R420): The active Bench's crypto engine writes a key slot. -/
  | loadKey (slot : BitVec 13) (key : BitVec 512)
  /-- GOVCEIL_WRITE (R435): The Bench sets a half's ceiling, rounded down to a level. -/
  | govceilWrite (half : Bool) (val : BitVec 8)
  /-- GOV_RAMP_UP (R187): After 1,024 active cycles an array's rate level rises one quarter. -/
  | govRampUp (core : CoreId)
  /-- GOV_RAMP_DOWN (R187): After 1,024 consecutive idle cycles an array's rate level falls one quarter. -/
  | govRampDown (core : CoreId)
  /-- ROTATION_TEST_START (R402): The dispatcher drains the next core, preserves its state and starts its scan test. -/
  | rotationTestStart (core : CoreId)
  /-- ROTATION_TEST_PASS (R404): A passing test increments SEASON and C and ends the core's dirty marks. -/
  | rotationTestPass (core : CoreId)
  /-- ROTATION_TEST_FAIL (R408): A failing test retires the core and replays the affected set. -/
  | rotationTestFail (core : CoreId)
  /-- ROTATION_DEADLINE (R403): A core about to miss its 12 ms bound has its gang pre-empted for the test. -/
  | rotationDeadline (core : CoreId)
  /-- DRAM_UNCORRECTABLE (R415): An uncorrectable DRAM sector is poisoned. -/
  | dramUncorrectable (addr : BitVec 51)
  /-- DRAM_ROW_REMAP (R415): A row with 4 corrected errors in one second is remapped to a spare. -/
  | dramRowRemap (addr : BitVec 51)
  /-- POISON_RECORD_THRESHOLD (R401): A poison record three-quarters full makes the Bench retire the worst frames. -/
  | poisonRecordThreshold
  /-- SRAM_UNCORRECTABLE (R416): An uncorrectable core SRAM error poisons data or ends and replays the step. -/
  | sramUncorrectable (core : CoreId) (site : SramSite)
  /-- DISPATCHER_MEM_ERROR (R417): An uncorrectable dispatcher memory error halts and reloads that dispatcher. -/
  | dispatcherMemError (half : Bool)
  /-- STRUCTURE_COMPARE (R418): Every millisecond the Bench compares the two copies of the integrity structures. -/
  | structureCompare (res : CompareResult)
  /-- DV_RECV_WRITE (R382): A receiver checks and counts an arriving WRITE packet or drops an old one. -/
  | dvRecvWrite (pk : DvPacket)
  /-- DV_RECV_RELEASE (R383): A receiver holds a RELEASE or writes its flag at once. -/
  | dvRecvRelease (pk : DvPacket)
  /-- DV_RECV_GAP (R387): A sender receiving GAP replays the epoch's log at the next generation. -/
  | dvRecvGap (pk : DvPacket)
  /-- DV_RECV_BUSY (R384): A sender receiving BUSY stops sending copies of that release. -/
  | dvRecvBusy (pk : DvPacket)
  /-- DV_BUSY_RESTART (R384): T_gap after BUSY the sender restarts the release copy schedule. -/
  | dvBusyRestart (gang : GangId) (ch : BitVec 12)
  /-- DV_RECV_OPEN (R377): A receiver allocates an arrival slot and answers OPENACK. -/
  | dvRecvOpen (pk : DvPacket)
  /-- DV_RECV_OPENACK (R377): The sender's channel becomes OPEN or FAULTED and DVOPEN completes. -/
  | dvRecvOpenack (pk : DvPacket)
  /-- DV_RECV_SHUT (R377): A receiver frees the slot and answers SHUTACK. -/
  | dvRecvShut (pk : DvPacket)
  /-- DV_RECV_SHUTACK (R377): The channel becomes CLOSED and DVSHUT completes. -/
  | dvRecvShutack (pk : DvPacket)
  /-- DV_RECV_FAULT (R388): A sender receiving FAULT makes the channel FAULTED and completes its waiting commands. -/
  | dvRecvFault (pk : DvPacket)
  /-- DV_RECV_FAULTACK (R388): A receiver frees a faulted channel's slot. -/
  | dvRecvFaultack (pk : DvPacket)
  /-- DV_RELEASE_COPY (R380): A scheduled identical RELEASE copy is sent at its quarter of T_gap. -/
  | dvReleaseCopy (gang : GangId) (ch : BitVec 12)
  /-- DV_TGAP_EXPIRY (R386): A held release waiting T_gap is withheld, GAP is sent and the generation advances. -/
  | dvTgapExpiry (x : ArrivalEpoch)
  /-- DV_GAP_REPEAT (R386): GAP is repeated every T_gap/2 until a packet of the next generation arrives. -/
  | dvGapRepeat (x : ArrivalEpoch)
  /-- DV_REPLAY_TIMEOUT (R386): No release of the new generation within 3 x T_gap counts a failed replay. -/
  | dvReplayTimeout (x : ArrivalEpoch)
  /-- DV_SETTLE (R390): 3 x T_gap after the final generation's first copy, DVREL raises SS and drops the log. -/
  | dvSettle (gang : GangId) (ch : BitVec 12)
  /-- DV_CONTROL_RESEND (R377): An unacknowledged control packet is resent, or its channel faults after the fifth. -/
  | dvControlResend (own : ControlOwner)
  /-- PACKET_EXPIRY (R371): A packet older than T_life is dropped at a hop. -/
  | packetExpiry (ix : BitVec 32)
  /-- FLIT_RECEIVE (R371): A flit is acknowledged, or requested again when it fails its CRC. -/
  | flitReceive (port : BitVec 4) (f : LinkFlit) (ok : Bool)
  /-- LINK_DOWN (R371): A link goes down, losing flits in its retry buffer and clearing its DVP bit. -/
  | linkDown (port : BitVec 4)
  /-- PORT_TRAINED (R370): A port trains on all 8 lanes and sets its DVP bit. -/
  | portTrained (port : BitVec 4)
  /-- POWER_ON (R437): Power good starts the Plinth and a lease gate with trigger 3. -/
  | powerOn
  /-- LEASE_N (R427): LEASE_N held low for 10 us starts a lease gate. -/
  | leaseN
  /-- GATE (R427): The sideband GATE command starts a lease gate or is answered BUSY. -/
  | gate
  /-- SET_NONCE (R427): The sideband command stores the nonce and operator time. -/
  | setNonce (nonce : BitVec 256) (time : BitVec 64)
  /-- READ_STATUS (R427): The sideband command returns LGSTAT. -/
  | readStatus
  /-- READ_RECORD (R427): The sideband command returns the 512-byte scrub record. -/
  | readRecord
  /-- SCRUB_COMPLETE (R428): The scrub ends and the record is signed, leading to CLEAN or FAILED. -/
  | scrubComplete (res : ScrubResult)
  /-- LDCTL_GO (R429): Setting GO in CLEAN checks, measures and loads the staged image and starts the Benches. -/
  | ldctlGo
  /-- LIVE_LOAD (R422): A mailbox request loads a new image into the standby Bench for live update. -/
  | liveLoad (image : List Byte) (versionOk : Bool)
  /-- EXTEND (R425): A mailbox request extends MEAS5-MEAS15, refused for MEAS0-MEAS4. -/
  | extend (n : BitVec 4) (digest : BitVec 384)
  /-- BENCH_HEARTBEAT_TIMEOUT (R421): 1 ms without the active Bench's heartbeat makes the standby take over. -/
  | benchHeartbeatTimeout
  /-- GET_VERSION (R426): The SPDM responder reports version 1.3. -/
  | getVersion (tr : Bool) (rq : SpdmReq)
  /-- GET_CAPABILITIES (R426): The SPDM responder reports its capabilities. -/
  | getCapabilities (tr : Bool) (rq : SpdmReq)
  /-- NEGOTIATE_ALGORITHMS (R426): The SPDM responder selects P-384 ECDSA and SHA-384. -/
  | negotiateAlgorithms (tr : Bool) (rq : SpdmReq)
  /-- GET_DIGESTS (R426): The SPDM responder returns the certificate digests. -/
  | getDigests (tr : Bool) (rq : SpdmReq)
  /-- GET_CERTIFICATE (R426): The SPDM responder returns the slot-0 chain. -/
  | getCertificate (tr : Bool) (rq : SpdmReq)
  /-- CHALLENGE (R426): The SPDM responder answers with a signed CHALLENGE_AUTH. -/
  | challenge (tr : Bool) (rq : SpdmReq)
  /-- GET_MEASUREMENTS (R426): The SPDM responder returns signed MEAS registers. -/
  | getMeasurements (tr : Bool) (rq : SpdmReq)
  /-- SPDM_UNSUPPORTED_REQUEST (R426): Another request code gets ERROR UnsupportedRequest. -/
  | spdmUnsupportedRequest (tr : Bool) (rq : SpdmReq)
  /-- DRAM_TEMP_THRESHOLD (R436): The hottest DRAM layer crosses a threshold, changing refresh, ceilings or tripping. -/
  | dramTempThreshold (half : Bool) (temp : BitVec 16)
  /-- POWER_LOSS (R427): Module power is removed, every part of the device loses its state, and a gate in progress is abandoned. -/
  | powerLoss
  /-- BENCH_SRAM_UNCORRECTABLE (R421): An uncorrectable error in the active Bench's SRAM makes the standby take over. -/
  | benchSramUncorrectable
  /-- APERTURE_COPY_DONE (R177): A running aperture copy ends, detaches from its slot (which may then become FULL) and frees its channel place. -/
  | apertureCopyDone (core : CoreId) (chan : BitVec 2)
  /-- PREDICTED_FRAME_CONFIRMED (R246): The walk behind a predicted XLAT finishes, confirming or correcting its frames, releasing held accesses and clearing PRED, or discarding the later instructions and trapping. -/
  | predictedFrameConfirmed (core : CoreId)
  /-- STORE_VISIBLE (R249): A store in a queue becomes visible at a wider scope after a bounded time, letting waiting releases, fences and doorbell observers proceed. -/
  | storeVisible (core : CoreId) (ag : Agent)
  /-- MSIX_VECTOR_UNMASK (R327): The host unmasks an MSI-X vector whose PBA bit is set, and the pending message is sent. -/
  | msixVectorUnmask (vec : BitVec 11)
  deriving DecidableEq, Repr

end Sys2Proof
end

