-- ==== Sys2Proof/WellFormed.lean ====
section
/-! DEFINITION. The limits on fields that an instruction's constructor does not already keep
(R55-R57, R62-R64, R67-R70, R160-R184). -/

namespace Sys2Proof

/-- An instruction whose fields all lie in their limits: those of a constructor that is not named have no other. -/
def Instr.wellFormed : Instr → Bool
  | .cas _ d _ _ _ => d.toNat % 2 == 0
  | .xlat _ _ _ _ r w => (r || w)
  | .xlatq _ _ _ _ r w => (r || w)
  | .tsub _ _ _ a => a.toNat % 2 == 0
  | .post _ n => n != 0#6
  | .waits _ n => n != 0#6
  | .vadd _ _ g _ _ _ _ => decide (g.toNat < 24)
  | .vsub _ _ g _ _ _ _ => decide (g.toNat < 24)
  | .vmul _ _ g _ _ _ _ => decide (g.toNat < 24)
  | .vfma _ _ g _ _ _ _ => decide (g.toNat < 24)
  | .vmin et _ g _ _ _ uns => decide (g.toNat < 24) && (!uns || et.isInt)
  | .vmax et _ g _ _ _ uns => decide (g.toNat < 24) && (!uns || et.isInt)
  | .vabs _ _ g _ _ _ => decide (g.toNat < 24)
  | .vneg _ _ g _ _ _ => decide (g.toNat < 24)
  | .vand et _ g _ _ _ => et.isInt && decide (g.toNat < 24)
  | .vor et _ g _ _ _ => et.isInt && decide (g.toNat < 24)
  | .vxor et _ g _ _ _ => et.isInt && decide (g.toNat < 24)
  | .vshl et _ g _ _ _ => et.isInt && decide (g.toNat < 24)
  | .vshr et _ g _ _ _ uns => et.isInt && decide (g.toNat < 24) && (!uns || et.isInt)
  | .vcmp et _ p _ _ _ uns => decide (p.toNat < 24) && (!uns || et.isInt)
  | .vsel _ _ p _ _ _ => decide (p.toNat < 24)
  | .vmov _ _ g _ _ => decide (g.toNat < 24)
  | .vexp2 et _ g _ _ => et.isFloat && decide (g.toNat < 24)
  | .vlog2 et _ g _ _ => et.isFloat && decide (g.toNat < 24)
  | .vrcp et _ g _ _ => et.isFloat && decide (g.toNat < 24)
  | .vrsq et _ g _ _ => et.isFloat && decide (g.toNat < 24)
  | .vtanh et _ g _ _ => et.isFloat && decide (g.toNat < 24)
  | .verf et _ g _ _ => et.isFloat && decide (g.toNat < 24)
  | .vcvt _ _ g _ _ _ _ _ => decide (g.toNat < 24)
  | .vwid et _ g _ _ _ uns => decide (g.toNat < 24) && (!uns || et.isInt)
  | .vnar et _ g _ _ y r _ => decide (g.toNat < 24) && !(et.isInt && y.isInt && r != .rne)
  | .vperm _ _ g _ _ _ => decide (g.toNat < 24)
  | .vzip _ _ g d _ _ => decide (g.toNat < 24) && d.toNat % 2 == 0
  | .vunz _ _ g d _ _ => decide (g.toNat < 24) && d.toNat % 2 == 0
  | .vred et _ g _ _ _ uns => decide (g.toNat < 24) && (!uns || et.isInt)
  | .vscan et _ g _ _ _ uns => decide (g.toNat < 24) && (!uns || et.isInt)
  | .viota et _ g _ => et.isInt && decide (g.toNat < 24)
  | .vbcast _ _ g _ _ => decide (g.toNat < 24)
  | .vandi et _ _ _ => et.isInt
  | .vshli et _ _ _ => et.isInt
  | .vld _ _ g _ _ _ _ _ => decide (g.toNat < 24)
  | .vst _ _ g _ _ _ _ => decide (g.toNat < 24)
  | .vlds _ _ g _ _ _ => decide (g.toNat < 24)
  | .vsts _ _ g _ _ _ => decide (g.toNat < 24)
  | .vgath _ _ g _ _ _ _ => decide (g.toNat < 24)
  | .vscat _ _ g _ _ _ _ => decide (g.toNat < 24)
  | .vsetfSelpat _ en k => (en || k == 0#3)
  | .pand _ d a b => decide (d.toNat < 24) && decide (a.toNat < 24) && decide (b.toNat < 24)
  | .por _ d a b => decide (d.toNat < 24) && decide (a.toNat < 24) && decide (b.toNat < 24)
  | .pxor _ d a b => decide (d.toNat < 24) && decide (a.toNat < 24) && decide (b.toNat < 24)
  | .pnot _ d a => decide (d.toNat < 24) && decide (a.toNat < 24)
  | .pcnt _ _ _ a => decide (a.toNat < 24)
  | .pfirst _ _ _ a => decide (a.toNat < 24)
  | .arecv _ d _ => d.toNat % 2 == 0
  | .vpost _ n => n != 0#6
  | .vwait _ n => n != 0#6
  | .vloop _ len _ => len != 0#5
  | .mma _ _ _ _ _ _ _ _ nslab _ _ _ et _ _ _ => nslab != 0#8 && et.isMma
  | .mmap _ _ _ _ _ _ _ nslab _ _ _ et _ _ _ => nslab != 0#8 && et.isMma
  | .mdrain _ _ _ _ ot _ _ _ _ _ xf => (ot == .fx || xf == 0#4)
  | .mldacc _ _ _ _ it _ xf => (it == .fx || xf == 0#4)
  | .mfmt _ _ _ src => src.toNat % 8 == 0
  | .mloop len _ => len != 0#6
  | .mchk _ _ _ rep => rep.toNat % 16 == 0
  | .copy _ _ _ out _ g ring _ _ len j => (g || (ring == 0#5 && !j)) && !(g && out) && len != 0#13
  | .imwin _ _ _ _ _ _ p kw sx _ => p != 0#10 && kw != 0#4 && sx != 3#2
  | .gather _ _ _ _ _ idxa _ row => idxa.toNat % 4 == 0 && row != 0#13
  | .scatter _ _ _ _ _ idxa _ row => idxa.toNat % 4 == 0 && row != 0#13
  | .fill _ _ _ w _ _ len g ring => w != 3#2 && len != 0#13 && (g || ring == 0#5)
  | .sketch _ _ _ et _ logn _ => et != .fx && decide (4 ≤ logn.toNat)
  | .pcopy _ _ _ _ _ len _ => len != 0#13
  | .dvw _ _ _ _ _ len => len != 0#13
  | .dvrel _ _ _ woff _ => woff.toNat % 8 == 0
  | .cloop len _ => len != 0#6
  | _ => true

end Sys2Proof
end

