-- ==== Sys2Proof/Decode.lean ====
section
/-! DEFINITION. Words to instructions and back (R52-R70, R160-R184).
Decoding is total: a word that is no instruction is rejected under a name of `DecodeError`. -/

namespace Sys2Proof

/-- Why a word or a command is not an instruction (R57, R64, R70). -/
inductive DecodeError where
  /-- OP is reserved. -/
  | reservedOp
  /-- A function, kind or sub-code field holds a reserved value. -/
  | reservedCode
  /-- A field that must be zero is not (R56). -/
  | mustBeZero
  /-- A field lies outside its limits. -/
  | outOfLimit
  /-- There are fewer bytes than the instruction has. -/
  | truncated
  deriving DecidableEq, Repr

/-- The field of `n` bits of `w` whose lowest bit is `lo`. -/
def fld (w lo n : Nat) : Nat := w / 2 ^ lo % 2 ^ n

/-- The code of an element type (R60). -/
def ETy.code : ETy → Nat
  | .si32 => 0 | .si16 => 1 | .si8 => 2 | .si4 => 3 | .fp32 => 4 | .fp16 => 5 | .bf16 => 6 | .fx => 7

/-- The element type of a code (R60). -/
def ETy.ofCode : Nat → ETy
  | 0 => .si32 | 1 => .si16 | 2 => .si8 | 3 => .si4 | 4 => .fp32 | 5 => .fp16 | 6 => .bf16 | _ => .fx

/-- The code of a rounding mode (R43). -/
def Round.code : Round → Nat
  | .rne => 0 | .rtz => 1 | .rto => 2 | .raz => 3

/-- The rounding mode of a code (R43). -/
def Round.ofCode : Nat → Round
  | 0 => .rne | 1 => .rtz | 2 => .rto | _ => .raz

/-- The code of a scope (R55: 00 .C, 01 .P, 10 .D, 11 .Y). -/
def Scope.code : Scope → Nat
  | .core => 0 | .panel => 1 | .device => 2 | .system => 3

/-- The scope of a code (R55). -/
def Scope.ofCode : Nat → Scope
  | 0 => .core | 1 => .panel | 2 => .device | _ => .system

/-- The code of an AMO function (R55). -/
def AmoOp.code : AmoOp → Nat
  | .add => 0 | .min => 1 | .max => 2 | .minu => 3 | .maxu => 4 | .and => 5 | .or => 6 | .xchg => 7

/-- The AMO function of a code (R55). -/
def AmoOp.ofCode : Nat → AmoOp
  | 0 => .add | 1 => .min | 2 => .max | 3 => .minu | 4 => .maxu | 5 => .and | 6 => .or | _ => .xchg

/-- The code of a FENCE kind (R55). -/
def FenceKind.code : FenceKind → Nat
  | .acq => 1 | .rel => 2 | .ar => 3

/-- The FENCE kind of a code; 0 is reserved (R55). -/
def FenceKind.ofCode : Nat → Option FenceKind
  | 1 => some .acq | 2 => some .rel | 3 => some .ar | _ => none

/-- The code of a ring (R55). -/
def RingSel.code : RingSel → Nat
  | .v => 0 | .m => 1 | .c => 2

/-- The ring of a code; 3 is reserved (R55). -/
def RingSel.ofCode : Nat → Option RingSel
  | 0 => some .v | 1 => some .m | 2 => some .c | _ => none

/-- The code of a comparison (R124). -/
def CmpKind.code : CmpKind → Nat
  | .eq => 0 | .ne => 1 | .lt => 2 | .le => 3 | .gt => 4 | .ge => 5 | .unord => 6 | .ord => 7

/-- The comparison of a code; 8 to 31 are reserved (R62). -/
def CmpKind.ofCode : Nat → Option CmpKind
  | 0 => some .eq | 1 => some .ne | 2 => some .lt | 3 => some .le
  | 4 => some .gt | 5 => some .ge | 6 => some .unord | 7 => some .ord | _ => none

/-- The code of a reduction (R62). -/
def RedFn.code : RedFn → Nat
  | .add => 0 | .min => 1 | .max => 2

/-- The reduction of a code; 3 to 31 are reserved (R62). -/
def RedFn.ofCode : Nat → Option RedFn
  | 0 => some .add | 1 => some .min | 2 => some .max | _ => none

/-- The code of an AOP function (R62). -/
def AopFn.code : AopFn → Nat
  | .add => 0 | .sub => 1 | .mul => 2 | .and => 3 | .or => 4 | .xor => 5 | .sll => 6 | .srl => 7

/-- The AOP function of a code (R62). -/
def AopFn.ofCode : Nat → AopFn
  | 0 => .add | 1 => .sub | 2 => .mul | 3 => .and | 4 => .or | 5 => .xor | 6 => .sll | _ => .srl

/-- An instruction built from its fields is accepted if they lie in their limits. -/
def check (i : Instr) : Except DecodeError Instr :=
  if i.wellFormed then .ok i else .error .outOfLimit

/-- ADD (R81). -/
def decAdd (w : Nat) : Except DecodeError Instr :=
  check (.add (BitVec.ofNat 3 (fld w 23 3)) (BitVec.ofNat 6 (fld w 17 6)) (BitVec.ofNat 6 (fld w 11 6)) (BitVec.ofNat 6 (fld w 5 6)))

/-- SUB (R81). -/
def decSub (w : Nat) : Except DecodeError Instr :=
  check (.sub (BitVec.ofNat 3 (fld w 23 3)) (BitVec.ofNat 6 (fld w 17 6)) (BitVec.ofNat 6 (fld w 11 6)) (BitVec.ofNat 6 (fld w 5 6)))

/-- AND (R81). -/
def decAnd (w : Nat) : Except DecodeError Instr :=
  check (.and (BitVec.ofNat 3 (fld w 23 3)) (BitVec.ofNat 6 (fld w 17 6)) (BitVec.ofNat 6 (fld w 11 6)) (BitVec.ofNat 6 (fld w 5 6)))

/-- OR (R81). -/
def decOr (w : Nat) : Except DecodeError Instr :=
  check (.or (BitVec.ofNat 3 (fld w 23 3)) (BitVec.ofNat 6 (fld w 17 6)) (BitVec.ofNat 6 (fld w 11 6)) (BitVec.ofNat 6 (fld w 5 6)))

/-- XOR (R81). -/
def decXor (w : Nat) : Except DecodeError Instr :=
  check (.xor (BitVec.ofNat 3 (fld w 23 3)) (BitVec.ofNat 6 (fld w 17 6)) (BitVec.ofNat 6 (fld w 11 6)) (BitVec.ofNat 6 (fld w 5 6)))

/-- SLL (R81). -/
def decSll (w : Nat) : Except DecodeError Instr :=
  check (.sll (BitVec.ofNat 3 (fld w 23 3)) (BitVec.ofNat 6 (fld w 17 6)) (BitVec.ofNat 6 (fld w 11 6)) (BitVec.ofNat 6 (fld w 5 6)))

/-- SRL (R81). -/
def decSrl (w : Nat) : Except DecodeError Instr :=
  check (.srl (BitVec.ofNat 3 (fld w 23 3)) (BitVec.ofNat 6 (fld w 17 6)) (BitVec.ofNat 6 (fld w 11 6)) (BitVec.ofNat 6 (fld w 5 6)))

/-- SRA (R81). -/
def decSra (w : Nat) : Except DecodeError Instr :=
  check (.sra (BitVec.ofNat 3 (fld w 23 3)) (BitVec.ofNat 6 (fld w 17 6)) (BitVec.ofNat 6 (fld w 11 6)) (BitVec.ofNat 6 (fld w 5 6)))

/-- SLT (R81). -/
def decSlt (w : Nat) : Except DecodeError Instr :=
  check (.slt (BitVec.ofNat 3 (fld w 23 3)) (BitVec.ofNat 6 (fld w 17 6)) (BitVec.ofNat 6 (fld w 11 6)) (BitVec.ofNat 6 (fld w 5 6)))

/-- SLTU (R81). -/
def decSltu (w : Nat) : Except DecodeError Instr :=
  check (.sltu (BitVec.ofNat 3 (fld w 23 3)) (BitVec.ofNat 6 (fld w 17 6)) (BitVec.ofNat 6 (fld w 11 6)) (BitVec.ofNat 6 (fld w 5 6)))

/-- SEQ (R81). -/
def decSeq (w : Nat) : Except DecodeError Instr :=
  check (.seq (BitVec.ofNat 3 (fld w 23 3)) (BitVec.ofNat 6 (fld w 17 6)) (BitVec.ofNat 6 (fld w 11 6)) (BitVec.ofNat 6 (fld w 5 6)))

/-- MIN (R81). -/
def decMin (w : Nat) : Except DecodeError Instr :=
  check (.min (BitVec.ofNat 3 (fld w 23 3)) (BitVec.ofNat 6 (fld w 17 6)) (BitVec.ofNat 6 (fld w 11 6)) (BitVec.ofNat 6 (fld w 5 6)))

/-- MAX (R81). -/
def decMax (w : Nat) : Except DecodeError Instr :=
  check (.max (BitVec.ofNat 3 (fld w 23 3)) (BitVec.ofNat 6 (fld w 17 6)) (BitVec.ofNat 6 (fld w 11 6)) (BitVec.ofNat 6 (fld w 5 6)))

/-- MINU (R81). -/
def decMinu (w : Nat) : Except DecodeError Instr :=
  check (.minu (BitVec.ofNat 3 (fld w 23 3)) (BitVec.ofNat 6 (fld w 17 6)) (BitVec.ofNat 6 (fld w 11 6)) (BitVec.ofNat 6 (fld w 5 6)))

/-- MAXU (R81). -/
def decMaxu (w : Nat) : Except DecodeError Instr :=
  check (.maxu (BitVec.ofNat 3 (fld w 23 3)) (BitVec.ofNat 6 (fld w 17 6)) (BitVec.ofNat 6 (fld w 11 6)) (BitVec.ofNat 6 (fld w 5 6)))

/-- MUL (R81). -/
def decMul (w : Nat) : Except DecodeError Instr :=
  check (.mul (BitVec.ofNat 3 (fld w 23 3)) (BitVec.ofNat 6 (fld w 17 6)) (BitVec.ofNat 6 (fld w 11 6)) (BitVec.ofNat 6 (fld w 5 6)))

/-- MULH (R81). -/
def decMulh (w : Nat) : Except DecodeError Instr :=
  check (.mulh (BitVec.ofNat 3 (fld w 23 3)) (BitVec.ofNat 6 (fld w 17 6)) (BitVec.ofNat 6 (fld w 11 6)) (BitVec.ofNat 6 (fld w 5 6)))

/-- MULHU (R81). -/
def decMulhu (w : Nat) : Except DecodeError Instr :=
  check (.mulhu (BitVec.ofNat 3 (fld w 23 3)) (BitVec.ofNat 6 (fld w 17 6)) (BitVec.ofNat 6 (fld w 11 6)) (BitVec.ofNat 6 (fld w 5 6)))

/-- DIV (R82). -/
def decDiv (w : Nat) : Except DecodeError Instr :=
  check (.div (BitVec.ofNat 3 (fld w 23 3)) (BitVec.ofNat 6 (fld w 17 6)) (BitVec.ofNat 6 (fld w 11 6)) (BitVec.ofNat 6 (fld w 5 6)))

/-- DIVU (R82). -/
def decDivu (w : Nat) : Except DecodeError Instr :=
  check (.divu (BitVec.ofNat 3 (fld w 23 3)) (BitVec.ofNat 6 (fld w 17 6)) (BitVec.ofNat 6 (fld w 11 6)) (BitVec.ofNat 6 (fld w 5 6)))

/-- REM (R82). -/
def decRem (w : Nat) : Except DecodeError Instr :=
  check (.rem (BitVec.ofNat 3 (fld w 23 3)) (BitVec.ofNat 6 (fld w 17 6)) (BitVec.ofNat 6 (fld w 11 6)) (BitVec.ofNat 6 (fld w 5 6)))

/-- REMU (R82). -/
def decRemu (w : Nat) : Except DecodeError Instr :=
  check (.remu (BitVec.ofNat 3 (fld w 23 3)) (BitVec.ofNat 6 (fld w 17 6)) (BitVec.ofNat 6 (fld w 11 6)) (BitVec.ofNat 6 (fld w 5 6)))

/-- CLZ (R81). -/
def decClz (w : Nat) : Except DecodeError Instr :=
  if fld w 5 6 == 0 then check (.clz (BitVec.ofNat 3 (fld w 23 3)) (BitVec.ofNat 6 (fld w 17 6)) (BitVec.ofNat 6 (fld w 11 6))) else .error .mustBeZero

/-- POPC (R81). -/
def decPopc (w : Nat) : Except DecodeError Instr :=
  if fld w 5 6 == 0 then check (.popc (BitVec.ofNat 3 (fld w 23 3)) (BitVec.ofNat 6 (fld w 17 6)) (BitVec.ofNat 6 (fld w 11 6))) else .error .mustBeZero

/-- ADDI (R83). -/
def decAddi (w : Nat) : Except DecodeError Instr :=
  check (.addi (BitVec.ofNat 3 (fld w 23 3)) (BitVec.ofNat 6 (fld w 17 6)) (BitVec.ofNat 6 (fld w 11 6)) (BitVec.ofNat 11 (fld w 0 11)))

/-- ANDI (R83). -/
def decAndi (w : Nat) : Except DecodeError Instr :=
  check (.andi (BitVec.ofNat 3 (fld w 23 3)) (BitVec.ofNat 6 (fld w 17 6)) (BitVec.ofNat 6 (fld w 11 6)) (BitVec.ofNat 11 (fld w 0 11)))

/-- ORI (R83). -/
def decOri (w : Nat) : Except DecodeError Instr :=
  check (.ori (BitVec.ofNat 3 (fld w 23 3)) (BitVec.ofNat 6 (fld w 17 6)) (BitVec.ofNat 6 (fld w 11 6)) (BitVec.ofNat 11 (fld w 0 11)))

/-- XORI (R83). -/
def decXori (w : Nat) : Except DecodeError Instr :=
  check (.xori (BitVec.ofNat 3 (fld w 23 3)) (BitVec.ofNat 6 (fld w 17 6)) (BitVec.ofNat 6 (fld w 11 6)) (BitVec.ofNat 11 (fld w 0 11)))

/-- SLLI (R83). -/
def decSlli (w : Nat) : Except DecodeError Instr :=
  if fld w 6 3 == 0 then check (.slli (BitVec.ofNat 3 (fld w 23 3)) (BitVec.ofNat 6 (fld w 17 6)) (BitVec.ofNat 6 (fld w 11 6)) (BitVec.ofNat 6 (fld w 0 6))) else .error .mustBeZero

/-- SRLI (R83). -/
def decSrli (w : Nat) : Except DecodeError Instr :=
  if fld w 6 3 == 0 then check (.srli (BitVec.ofNat 3 (fld w 23 3)) (BitVec.ofNat 6 (fld w 17 6)) (BitVec.ofNat 6 (fld w 11 6)) (BitVec.ofNat 6 (fld w 0 6))) else .error .mustBeZero

/-- SRAI (R83). -/
def decSrai (w : Nat) : Except DecodeError Instr :=
  if fld w 6 3 == 0 then check (.srai (BitVec.ofNat 3 (fld w 23 3)) (BitVec.ofNat 6 (fld w 17 6)) (BitVec.ofNat 6 (fld w 11 6)) (BitVec.ofNat 6 (fld w 0 6))) else .error .mustBeZero

/-- SLTI (R83). -/
def decSlti (w : Nat) : Except DecodeError Instr :=
  check (.slti (BitVec.ofNat 3 (fld w 23 3)) (BitVec.ofNat 6 (fld w 17 6)) (BitVec.ofNat 6 (fld w 11 6)) (BitVec.ofNat 11 (fld w 0 11)))

/-- LI (R84). -/
def decLi (w : Nat) : Except DecodeError Instr :=
  check (.li (BitVec.ofNat 3 (fld w 23 3)) (BitVec.ofNat 6 (fld w 17 6)) (BitVec.ofNat 17 (fld w 0 17)))

/-- LIS (R84). -/
def decLis (w : Nat) : Except DecodeError Instr :=
  if fld w 16 1 == 0 then check (.lis (BitVec.ofNat 3 (fld w 23 3)) (BitVec.ofNat 6 (fld w 17 6)) (BitVec.ofNat 16 (fld w 0 16))) else .error .mustBeZero

/-- FADD (R88). -/
def decFadd (w : Nat) : Except DecodeError Instr :=
  check (.fadd (BitVec.ofNat 3 (fld w 23 3)) (BitVec.ofNat 6 (fld w 17 6)) (BitVec.ofNat 6 (fld w 11 6)) (BitVec.ofNat 6 (fld w 5 6)))

/-- FSUB (R88). -/
def decFsub (w : Nat) : Except DecodeError Instr :=
  check (.fsub (BitVec.ofNat 3 (fld w 23 3)) (BitVec.ofNat 6 (fld w 17 6)) (BitVec.ofNat 6 (fld w 11 6)) (BitVec.ofNat 6 (fld w 5 6)))

/-- FMUL (R88). -/
def decFmul (w : Nat) : Except DecodeError Instr :=
  check (.fmul (BitVec.ofNat 3 (fld w 23 3)) (BitVec.ofNat 6 (fld w 17 6)) (BitVec.ofNat 6 (fld w 11 6)) (BitVec.ofNat 6 (fld w 5 6)))

/-- FDIV (R88). -/
def decFdiv (w : Nat) : Except DecodeError Instr :=
  check (.fdiv (BitVec.ofNat 3 (fld w 23 3)) (BitVec.ofNat 6 (fld w 17 6)) (BitVec.ofNat 6 (fld w 11 6)) (BitVec.ofNat 6 (fld w 5 6)))

/-- FMIN (R89). -/
def decFmin (w : Nat) : Except DecodeError Instr :=
  check (.fmin (BitVec.ofNat 3 (fld w 23 3)) (BitVec.ofNat 6 (fld w 17 6)) (BitVec.ofNat 6 (fld w 11 6)) (BitVec.ofNat 6 (fld w 5 6)))

/-- FMAX (R89). -/
def decFmax (w : Nat) : Except DecodeError Instr :=
  check (.fmax (BitVec.ofNat 3 (fld w 23 3)) (BitVec.ofNat 6 (fld w 17 6)) (BitVec.ofNat 6 (fld w 11 6)) (BitVec.ofNat 6 (fld w 5 6)))

/-- FSQRT (R88). -/
def decFsqrt (w : Nat) : Except DecodeError Instr :=
  if fld w 5 6 == 0 then check (.fsqrt (BitVec.ofNat 3 (fld w 23 3)) (BitVec.ofNat 6 (fld w 17 6)) (BitVec.ofNat 6 (fld w 11 6))) else .error .mustBeZero

/-- FEQ (R90). -/
def decFeq (w : Nat) : Except DecodeError Instr :=
  check (.feq (BitVec.ofNat 3 (fld w 23 3)) (BitVec.ofNat 6 (fld w 17 6)) (BitVec.ofNat 6 (fld w 11 6)) (BitVec.ofNat 6 (fld w 5 6)))

/-- FLT (R90). -/
def decFlt (w : Nat) : Except DecodeError Instr :=
  check (.flt (BitVec.ofNat 3 (fld w 23 3)) (BitVec.ofNat 6 (fld w 17 6)) (BitVec.ofNat 6 (fld w 11 6)) (BitVec.ofNat 6 (fld w 5 6)))

/-- FLE (R90). -/
def decFle (w : Nat) : Except DecodeError Instr :=
  check (.fle (BitVec.ofNat 3 (fld w 23 3)) (BitVec.ofNat 6 (fld w 17 6)) (BitVec.ofNat 6 (fld w 11 6)) (BitVec.ofNat 6 (fld w 5 6)))

/-- FCVTSW (R88). -/
def decFcvtsw (w : Nat) : Except DecodeError Instr :=
  if fld w 5 6 == 0 then check (.fcvtsw (BitVec.ofNat 3 (fld w 23 3)) (BitVec.ofNat 6 (fld w 17 6)) (BitVec.ofNat 6 (fld w 11 6))) else .error .mustBeZero

/-- FCVTWS (R88). -/
def decFcvtws (w : Nat) : Except DecodeError Instr :=
  if fld w 5 6 == 0 then check (.fcvtws (BitVec.ofNat 3 (fld w 23 3)) (BitVec.ofNat 6 (fld w 17 6)) (BitVec.ofNat 6 (fld w 11 6))) else .error .mustBeZero

/-- FCVTBS (R88). -/
def decFcvtbs (w : Nat) : Except DecodeError Instr :=
  if fld w 5 6 == 0 then check (.fcvtbs (BitVec.ofNat 3 (fld w 23 3)) (BitVec.ofNat 6 (fld w 17 6)) (BitVec.ofNat 6 (fld w 11 6))) else .error .mustBeZero

/-- FCVTSB (R88). -/
def decFcvtsb (w : Nat) : Except DecodeError Instr :=
  if fld w 5 6 == 0 then check (.fcvtsb (BitVec.ofNat 3 (fld w 23 3)) (BitVec.ofNat 6 (fld w 17 6)) (BitVec.ofNat 6 (fld w 11 6))) else .error .mustBeZero

/-- FMA (R91). -/
def decFma (w : Nat) : Except DecodeError Instr :=
  check (.fma (BitVec.ofNat 3 (fld w 23 3)) (BitVec.ofNat 6 (fld w 17 6)) (BitVec.ofNat 6 (fld w 11 6)) (BitVec.ofNat 6 (fld w 5 6)))

/-- FMS (R91). -/
def decFms (w : Nat) : Except DecodeError Instr :=
  check (.fms (BitVec.ofNat 3 (fld w 23 3)) (BitVec.ofNat 6 (fld w 17 6)) (BitVec.ofNat 6 (fld w 11 6)) (BitVec.ofNat 6 (fld w 5 6)))

/-- FNMA (R91). -/
def decFnma (w : Nat) : Except DecodeError Instr :=
  check (.fnma (BitVec.ofNat 3 (fld w 23 3)) (BitVec.ofNat 6 (fld w 17 6)) (BitVec.ofNat 6 (fld w 11 6)) (BitVec.ofNat 6 (fld w 5 6)))

/-- BEQ (R85). -/
def decBeq (w : Nat) : Except DecodeError Instr :=
  check (.beq (BitVec.ofNat 3 (fld w 23 3)) (BitVec.ofNat 6 (fld w 17 6)) (BitVec.ofNat 6 (fld w 11 6)) (BitVec.ofNat 11 (fld w 0 11)))

/-- BNE (R85). -/
def decBne (w : Nat) : Except DecodeError Instr :=
  check (.bne (BitVec.ofNat 3 (fld w 23 3)) (BitVec.ofNat 6 (fld w 17 6)) (BitVec.ofNat 6 (fld w 11 6)) (BitVec.ofNat 11 (fld w 0 11)))

/-- BLT (R85). -/
def decBlt (w : Nat) : Except DecodeError Instr :=
  check (.blt (BitVec.ofNat 3 (fld w 23 3)) (BitVec.ofNat 6 (fld w 17 6)) (BitVec.ofNat 6 (fld w 11 6)) (BitVec.ofNat 11 (fld w 0 11)))

/-- BGE (R85). -/
def decBge (w : Nat) : Except DecodeError Instr :=
  check (.bge (BitVec.ofNat 3 (fld w 23 3)) (BitVec.ofNat 6 (fld w 17 6)) (BitVec.ofNat 6 (fld w 11 6)) (BitVec.ofNat 11 (fld w 0 11)))

/-- BLTU (R85). -/
def decBltu (w : Nat) : Except DecodeError Instr :=
  check (.bltu (BitVec.ofNat 3 (fld w 23 3)) (BitVec.ofNat 6 (fld w 17 6)) (BitVec.ofNat 6 (fld w 11 6)) (BitVec.ofNat 11 (fld w 0 11)))

/-- BGEU (R85). -/
def decBgeu (w : Nat) : Except DecodeError Instr :=
  check (.bgeu (BitVec.ofNat 3 (fld w 23 3)) (BitVec.ofNat 6 (fld w 17 6)) (BitVec.ofNat 6 (fld w 11 6)) (BitVec.ofNat 11 (fld w 0 11)))

/-- JAL (R86). -/
def decJal (w : Nat) : Except DecodeError Instr :=
  check (.jal (BitVec.ofNat 3 (fld w 23 3)) (BitVec.ofNat 6 (fld w 17 6)) (BitVec.ofNat 17 (fld w 0 17)))

/-- JALR (R86). -/
def decJalr (w : Nat) : Except DecodeError Instr :=
  check (.jalr (BitVec.ofNat 3 (fld w 23 3)) (BitVec.ofNat 6 (fld w 17 6)) (BitVec.ofNat 6 (fld w 11 6)) (BitVec.ofNat 11 (fld w 0 11)))

/-- LDB (R94). -/
def decLdb (w : Nat) : Except DecodeError Instr :=
  check (.ldb (BitVec.ofNat 3 (fld w 23 3)) (BitVec.ofNat 6 (fld w 17 6)) (BitVec.ofNat 5 (fld w 12 5)) (BitVec.ofNat 6 (fld w 6 6)) (BitVec.ofNat 6 (fld w 0 6)))

/-- LDH (R94). -/
def decLdh (w : Nat) : Except DecodeError Instr :=
  check (.ldh (BitVec.ofNat 3 (fld w 23 3)) (BitVec.ofNat 6 (fld w 17 6)) (BitVec.ofNat 5 (fld w 12 5)) (BitVec.ofNat 6 (fld w 6 6)) (BitVec.ofNat 6 (fld w 0 6)))

/-- LDW (R94). -/
def decLdw (w : Nat) : Except DecodeError Instr :=
  check (.ldw (BitVec.ofNat 3 (fld w 23 3)) (BitVec.ofNat 6 (fld w 17 6)) (BitVec.ofNat 5 (fld w 12 5)) (BitVec.ofNat 6 (fld w 6 6)) (BitVec.ofNat 6 (fld w 0 6)))

/-- LDD (R94). -/
def decLdd (w : Nat) : Except DecodeError Instr :=
  check (.ldd (BitVec.ofNat 3 (fld w 23 3)) (BitVec.ofNat 6 (fld w 17 6)) (BitVec.ofNat 5 (fld w 12 5)) (BitVec.ofNat 6 (fld w 6 6)) (BitVec.ofNat 6 (fld w 0 6)))

/-- STB (R94). -/
def decStb (w : Nat) : Except DecodeError Instr :=
  check (.stb (BitVec.ofNat 3 (fld w 23 3)) (BitVec.ofNat 6 (fld w 17 6)) (BitVec.ofNat 5 (fld w 12 5)) (BitVec.ofNat 6 (fld w 6 6)) (BitVec.ofNat 6 (fld w 0 6)))

/-- STH (R94). -/
def decSth (w : Nat) : Except DecodeError Instr :=
  check (.sth (BitVec.ofNat 3 (fld w 23 3)) (BitVec.ofNat 6 (fld w 17 6)) (BitVec.ofNat 5 (fld w 12 5)) (BitVec.ofNat 6 (fld w 6 6)) (BitVec.ofNat 6 (fld w 0 6)))

/-- STW (R94). -/
def decStw (w : Nat) : Except DecodeError Instr :=
  check (.stw (BitVec.ofNat 3 (fld w 23 3)) (BitVec.ofNat 6 (fld w 17 6)) (BitVec.ofNat 5 (fld w 12 5)) (BitVec.ofNat 6 (fld w 6 6)) (BitVec.ofNat 6 (fld w 0 6)))

/-- STD (R94). -/
def decStd (w : Nat) : Except DecodeError Instr :=
  check (.std (BitVec.ofNat 3 (fld w 23 3)) (BitVec.ofNat 6 (fld w 17 6)) (BitVec.ofNat 5 (fld w 12 5)) (BitVec.ofNat 6 (fld w 6 6)) (BitVec.ofNat 6 (fld w 0 6)))

/-- AMO (R97). -/
def decAmo (w : Nat) : Except DecodeError Instr :=
  check (.amo (BitVec.ofNat 3 (fld w 23 3)) (BitVec.ofNat 6 (fld w 17 6)) (BitVec.ofNat 5 (fld w 12 5)) (BitVec.ofNat 6 (fld w 6 6)) (AmoOp.ofCode (fld w 3 3)) (fld w 2 1 == 1) (Scope.ofCode (fld w 0 2)))

/-- CAS (R98). -/
def decCas (w : Nat) : Except DecodeError Instr :=
  check (.cas (BitVec.ofNat 3 (fld w 23 3)) (BitVec.ofNat 6 (fld w 17 6)) (BitVec.ofNat 5 (fld w 12 5)) (BitVec.ofNat 6 (fld w 6 6)) (BitVec.ofNat 6 (fld w 0 6)))

/-- LDS (R101). -/
def decLds (w : Nat) : Except DecodeError Instr :=
  check (.lds (BitVec.ofNat 3 (fld w 23 3)) (BitVec.ofNat 6 (fld w 17 6)) (BitVec.ofNat 6 (fld w 11 6)) (BitVec.ofNat 11 (fld w 0 11)))

/-- STS (R101). -/
def decSts (w : Nat) : Except DecodeError Instr :=
  check (.sts (BitVec.ofNat 3 (fld w 23 3)) (BitVec.ofNat 6 (fld w 17 6)) (BitVec.ofNat 6 (fld w 11 6)) (BitVec.ofNat 11 (fld w 0 11)))

/-- SPS (R102). -/
def decSps (w : Nat) : Except DecodeError Instr :=
  if fld w 10 7 == 0 then check (.sps (BitVec.ofNat 3 (fld w 23 3)) (BitVec.ofNat 6 (fld w 17 6)) (BitVec.ofNat 10 (fld w 0 10))) else .error .mustBeZero

/-- SPL (R102). -/
def decSpl (w : Nat) : Except DecodeError Instr :=
  if fld w 10 7 == 0 then check (.spl (BitVec.ofNat 3 (fld w 23 3)) (BitVec.ofNat 6 (fld w 17 6)) (BitVec.ofNat 10 (fld w 0 10))) else .error .mustBeZero

/-- XLAT (R103). -/
def decXlat (w : Nat) : Except DecodeError Instr :=
  if fld w 2 4 == 0 then check (.xlat (BitVec.ofNat 3 (fld w 23 3)) (BitVec.ofNat 5 (fld w 18 5)) (BitVec.ofNat 6 (fld w 12 6)) (BitVec.ofNat 6 (fld w 6 6)) (fld w 0 1 == 1) (fld w 1 1 == 1)) else .error .mustBeZero

/-- XLATQ (R106). -/
def decXlatq (w : Nat) : Except DecodeError Instr :=
  if fld w 2 4 == 0 then check (.xlatq (BitVec.ofNat 3 (fld w 23 3)) (BitVec.ofNat 5 (fld w 18 5)) (BitVec.ofNat 6 (fld w 12 6)) (BitVec.ofNat 6 (fld w 6 6)) (fld w 0 1 == 1) (fld w 1 1 == 1)) else .error .mustBeZero

/-- TREL (R108). -/
def decTrel (w : Nat) : Except DecodeError Instr :=
  if fld w 7 11 == 0 then check (.trel (BitVec.ofNat 3 (fld w 23 3)) (BitVec.ofNat 5 (fld w 18 5))) else .error .mustBeZero

/-- TMOV (R108). -/
def decTmov (w : Nat) : Except DecodeError Instr :=
  if fld w 7 6 == 0 then check (.tmov (BitVec.ofNat 3 (fld w 23 3)) (BitVec.ofNat 5 (fld w 18 5)) (BitVec.ofNat 5 (fld w 13 5))) else .error .mustBeZero

/-- TSUB (R109). -/
def decTsub (w : Nat) : Except DecodeError Instr :=
  check (.tsub (BitVec.ofNat 3 (fld w 23 3)) (BitVec.ofNat 5 (fld w 18 5)) (BitVec.ofNat 5 (fld w 13 5)) (BitVec.ofNat 6 (fld w 7 6)))

/-- TINFO (R110). -/
def decTinfo (w : Nat) : Except DecodeError Instr :=
  if fld w 18 5 == 0 then check (.tinfo (BitVec.ofNat 3 (fld w 23 3)) (BitVec.ofNat 5 (fld w 13 5)) (BitVec.ofNat 6 (fld w 7 6))) else .error .mustBeZero

/-- TCHK (R111). -/
def decTchk (w : Nat) : Except DecodeError Instr :=
  if fld w 18 5 == 0 then check (.tchk (BitVec.ofNat 3 (fld w 23 3)) (BitVec.ofNat 5 (fld w 13 5)) (BitVec.ofNat 6 (fld w 7 6))) else .error .mustBeZero

/-- LOOK (R114). -/
def decLook (w : Nat) : Except DecodeError Instr :=
  if fld w 0 11 == 0 then check (.look (BitVec.ofNat 3 (fld w 23 3)) (BitVec.ofNat 6 (fld w 17 6)) (BitVec.ofNat 6 (fld w 11 6))) else .error .mustBeZero

/-- DTAG (R115). -/
def decDtag (w : Nat) : Except DecodeError Instr :=
  if fld w 0 5 == 0 && fld w 17 6 == 0 then check (.dtag (BitVec.ofNat 3 (fld w 23 3)) (BitVec.ofNat 6 (fld w 11 6)) (BitVec.ofNat 6 (fld w 5 6))) else .error .mustBeZero

/-- FORK (R189). -/
def decFork (w : Nat) : Except DecodeError Instr :=
  if fld w 0 11 == 0 && fld w 17 6 == 0 then check (.fork (BitVec.ofNat 3 (fld w 23 3)) (BitVec.ofNat 6 (fld w 11 6))) else .error .mustBeZero

/-- RDV (R193). -/
def decRdv (w : Nat) : Except DecodeError Instr :=
  if fld w 0 23 == 0 then check (.rdv (BitVec.ofNat 3 (fld w 23 3))) else .error .mustBeZero

/-- SEND (R195). -/
def decSend (w : Nat) : Except DecodeError Instr :=
  if fld w 4 1 == 0 && fld w 17 6 == 0 then check (.send (BitVec.ofNat 3 (fld w 23 3)) (BitVec.ofNat 6 (fld w 11 6)) (BitVec.ofNat 6 (fld w 5 6)) (BitVec.ofNat 4 (fld w 0 4))) else .error .mustBeZero

/-- VFENCE (R194). -/
def decVfence (w : Nat) : Except DecodeError Instr :=
  if fld w 0 23 == 0 then check (.vfence (BitVec.ofNat 3 (fld w 23 3))) else .error .mustBeZero

/-- RAPP (R196). -/
def decRapp (w : Nat) : Except DecodeError Instr :=
  if fld w 3 8 == 0 && fld w 17 6 == 0 then (match RingSel.ofCode (fld w 0 2) with
    | some r => check (.rapp (BitVec.ofNat 3 (fld w 23 3)) (BitVec.ofNat 6 (fld w 11 6)) r)
    | none => .error .reservedCode) else .error .mustBeZero

/-- RAPP_PAIR (R196). -/
def decRappPair (w : Nat) : Except DecodeError Instr :=
  if fld w 3 2 == 0 && fld w 17 6 == 0 then (match RingSel.ofCode (fld w 0 2) with
    | some r => check (.rappPair (BitVec.ofNat 3 (fld w 23 3)) (BitVec.ofNat 6 (fld w 11 6)) (BitVec.ofNat 6 (fld w 5 6)) r)
    | none => .error .reservedCode) else .error .mustBeZero

/-- POST (R198). -/
def decPost (w : Nat) : Except DecodeError Instr :=
  if fld w 6 17 == 0 then check (.post (BitVec.ofNat 3 (fld w 23 3)) (BitVec.ofNat 6 (fld w 0 6))) else .error .mustBeZero

/-- WAITS (R198). -/
def decWaits (w : Nat) : Except DecodeError Instr :=
  if fld w 6 17 == 0 then check (.waits (BitVec.ofNat 3 (fld w 23 3)) (BitVec.ofNat 6 (fld w 0 6))) else .error .mustBeZero

/-- MARK (R199). -/
def decMark (w : Nat) : Except DecodeError Instr :=
  if fld w 2 21 == 0 then check (.mark (BitVec.ofNat 3 (fld w 23 3)) (Scope.ofCode (fld w 0 2))) else .error .mustBeZero

/-- FENCE (R200). -/
def decFence (w : Nat) : Except DecodeError Instr :=
  if fld w 4 19 == 0 then (match FenceKind.ofCode (fld w 2 2) with
    | some k => check (.fence (BitVec.ofNat 3 (fld w 23 3)) k (Scope.ofCode (fld w 0 2)))
    | none => .error .reservedCode) else .error .mustBeZero

/-- BAR (R201). -/
def decBar (w : Nat) : Except DecodeError Instr :=
  if fld w 5 18 == 0 then check (.bar (BitVec.ofNat 3 (fld w 23 3)) (BitVec.ofNat 5 (fld w 0 5))) else .error .mustBeZero

/-- SACQ (R202). -/
def decSacq (w : Nat) : Except DecodeError Instr :=
  if fld w 5 6 == 0 && fld w 16 1 == 0 then check (.sacq (BitVec.ofNat 3 (fld w 23 3)) (BitVec.ofNat 6 (fld w 17 6)) (BitVec.ofNat 5 (fld w 11 5))) else .error .mustBeZero

/-- SCOMMIT (R202). -/
def decScommit (w : Nat) : Except DecodeError Instr :=
  if fld w 5 6 == 0 && fld w 16 7 == 0 then check (.scommit (BitVec.ofNat 3 (fld w 23 3)) (BitVec.ofNat 5 (fld w 11 5))) else .error .mustBeZero

/-- SAWAIT (R202). -/
def decSawait (w : Nat) : Except DecodeError Instr :=
  if fld w 5 6 == 0 && fld w 16 1 == 0 then check (.sawait (BitVec.ofNat 3 (fld w 23 3)) (BitVec.ofNat 6 (fld w 17 6)) (BitVec.ofNat 5 (fld w 11 5))) else .error .mustBeZero

/-- SREL (R202). -/
def decSrel (w : Nat) : Except DecodeError Instr :=
  if fld w 5 6 == 0 && fld w 16 7 == 0 then check (.srel (BitVec.ofNat 3 (fld w 23 3)) (BitVec.ofNat 5 (fld w 11 5))) else .error .mustBeZero

/-- JLAUNCH (R203). -/
def decJlaunch (w : Nat) : Except DecodeError Instr :=
  if fld w 0 11 == 0 then check (.jlaunch (BitVec.ofNat 3 (fld w 23 3)) (BitVec.ofNat 6 (fld w 17 6)) (BitVec.ofNat 6 (fld w 11 6))) else .error .mustBeZero

/-- FLUSHH (R204). -/
def decFlushh (w : Nat) : Except DecodeError Instr :=
  if fld w 0 6 == 0 then check (.flushh (BitVec.ofNat 3 (fld w 23 3)) (BitVec.ofNat 5 (fld w 18 5)) (BitVec.ofNat 6 (fld w 12 6)) (BitVec.ofNat 6 (fld w 6 6))) else .error .mustBeZero

/-- INVH (R204). -/
def decInvh (w : Nat) : Except DecodeError Instr :=
  if fld w 0 6 == 0 then check (.invh (BitVec.ofNat 3 (fld w 23 3)) (BitVec.ofNat 5 (fld w 18 5)) (BitVec.ofNat 6 (fld w 12 6)) (BitVec.ofNat 6 (fld w 6 6))) else .error .mustBeZero

/-- SKIPR (R205). -/
def decSkipr (w : Nat) : Except DecodeError Instr :=
  check (.skipr (BitVec.ofNat 3 (fld w 23 3)) (BitVec.ofNat 6 (fld w 17 6)) (BitVec.ofNat 6 (fld w 11 6)) (BitVec.ofNat 6 (fld w 5 6)))

/-- SKIPW (R205). -/
def decSkipw (w : Nat) : Except DecodeError Instr :=
  check (.skipw (BitVec.ofNat 3 (fld w 23 3)) (BitVec.ofNat 6 (fld w 17 6)) (BitVec.ofNat 6 (fld w 11 6)) (BitVec.ofNat 6 (fld w 5 6)))

/-- CSRR (R206). -/
def decCsrr (w : Nat) : Except DecodeError Instr :=
  if fld w 11 6 == 0 then check (.csrr (BitVec.ofNat 3 (fld w 23 3)) (BitVec.ofNat 6 (fld w 17 6)) (BitVec.ofNat 11 (fld w 0 11))) else .error .mustBeZero

/-- CSRW (R206). -/
def decCsrw (w : Nat) : Except DecodeError Instr :=
  check (.csrw (BitVec.ofNat 3 (fld w 23 3)) (BitVec.ofNat 6 (fld w 17 6)) (BitVec.ofNat 6 (fld w 11 6)) (BitVec.ofNat 11 (fld w 0 11)))

/-- CSRS (R206). -/
def decCsrs (w : Nat) : Except DecodeError Instr :=
  check (.csrs (BitVec.ofNat 3 (fld w 23 3)) (BitVec.ofNat 6 (fld w 17 6)) (BitVec.ofNat 6 (fld w 11 6)) (BitVec.ofNat 11 (fld w 0 11)))

/-- CSRC (R206). -/
def decCsrc (w : Nat) : Except DecodeError Instr :=
  check (.csrc (BitVec.ofNat 3 (fld w 23 3)) (BitVec.ofNat 6 (fld w 17 6)) (BitVec.ofNat 6 (fld w 11 6)) (BitVec.ofNat 11 (fld w 0 11)))

/-- TRAP (R214). -/
def decTrap (w : Nat) : Except DecodeError Instr :=
  if fld w 11 12 == 0 then check (.trap (BitVec.ofNat 3 (fld w 23 3)) (BitVec.ofNat 8 (fld w 3 8))) else .error .mustBeZero

/-- ERET (R210). -/
def decEret (w : Nat) : Except DecodeError Instr :=
  if fld w 3 20 == 0 then check (.eret (BitVec.ofNat 3 (fld w 23 3))) else .error .mustBeZero

/-- HALT (R214). -/
def decHalt (w : Nat) : Except DecodeError Instr :=
  if fld w 3 20 == 0 then check (.halt (BitVec.ofNat 3 (fld w 23 3))) else .error .mustBeZero

/-- WFI (R214). -/
def decWfi (w : Nat) : Except DecodeError Instr :=
  if fld w 3 20 == 0 then check (.wfi (BitVec.ofNat 3 (fld w 23 3))) else .error .mustBeZero

/-- BKPT (R214). -/
def decBkpt (w : Nat) : Except DecodeError Instr :=
  if fld w 3 20 == 0 then check (.bkpt (BitVec.ofNat 3 (fld w 23 3))) else .error .mustBeZero

/-- VADD (R120). -/
def decVadd (w : Nat) : Except DecodeError Instr :=
  check (.vadd (ETy.ofCode (fld w 23 3)) (BitVec.ofNat 2 (fld w 21 2)) (BitVec.ofNat 5 (fld w 16 5)) (BitVec.ofNat 5 (fld w 11 5)) (BitVec.ofNat 5 (fld w 6 5)) (BitVec.ofNat 5 (fld w 1 5)) (fld w 0 1 == 1))

/-- VSUB (R120). -/
def decVsub (w : Nat) : Except DecodeError Instr :=
  check (.vsub (ETy.ofCode (fld w 23 3)) (BitVec.ofNat 2 (fld w 21 2)) (BitVec.ofNat 5 (fld w 16 5)) (BitVec.ofNat 5 (fld w 11 5)) (BitVec.ofNat 5 (fld w 6 5)) (BitVec.ofNat 5 (fld w 1 5)) (fld w 0 1 == 1))

/-- VMUL (R120). -/
def decVmul (w : Nat) : Except DecodeError Instr :=
  check (.vmul (ETy.ofCode (fld w 23 3)) (BitVec.ofNat 2 (fld w 21 2)) (BitVec.ofNat 5 (fld w 16 5)) (BitVec.ofNat 5 (fld w 11 5)) (BitVec.ofNat 5 (fld w 6 5)) (BitVec.ofNat 5 (fld w 1 5)) (fld w 0 1 == 1))

/-- VFMA (R120). -/
def decVfma (w : Nat) : Except DecodeError Instr :=
  check (.vfma (ETy.ofCode (fld w 23 3)) (BitVec.ofNat 2 (fld w 21 2)) (BitVec.ofNat 5 (fld w 16 5)) (BitVec.ofNat 5 (fld w 11 5)) (BitVec.ofNat 5 (fld w 6 5)) (BitVec.ofNat 5 (fld w 1 5)) (fld w 0 1 == 1))

/-- VMIN (R120). -/
def decVmin (w : Nat) : Except DecodeError Instr :=
  check (.vmin (ETy.ofCode (fld w 23 3)) (BitVec.ofNat 2 (fld w 21 2)) (BitVec.ofNat 5 (fld w 16 5)) (BitVec.ofNat 5 (fld w 11 5)) (BitVec.ofNat 5 (fld w 6 5)) (BitVec.ofNat 5 (fld w 1 5)) (fld w 0 1 == 1))

/-- VMAX (R120). -/
def decVmax (w : Nat) : Except DecodeError Instr :=
  check (.vmax (ETy.ofCode (fld w 23 3)) (BitVec.ofNat 2 (fld w 21 2)) (BitVec.ofNat 5 (fld w 16 5)) (BitVec.ofNat 5 (fld w 11 5)) (BitVec.ofNat 5 (fld w 6 5)) (BitVec.ofNat 5 (fld w 1 5)) (fld w 0 1 == 1))

/-- VABS (R120). -/
def decVabs (w : Nat) : Except DecodeError Instr :=
  if fld w 1 5 == 0 then check (.vabs (ETy.ofCode (fld w 23 3)) (BitVec.ofNat 2 (fld w 21 2)) (BitVec.ofNat 5 (fld w 16 5)) (BitVec.ofNat 5 (fld w 11 5)) (BitVec.ofNat 5 (fld w 6 5)) (fld w 0 1 == 1)) else .error .mustBeZero

/-- VNEG (R120). -/
def decVneg (w : Nat) : Except DecodeError Instr :=
  if fld w 1 5 == 0 then check (.vneg (ETy.ofCode (fld w 23 3)) (BitVec.ofNat 2 (fld w 21 2)) (BitVec.ofNat 5 (fld w 16 5)) (BitVec.ofNat 5 (fld w 11 5)) (BitVec.ofNat 5 (fld w 6 5)) (fld w 0 1 == 1)) else .error .mustBeZero

/-- VAND (R123). -/
def decVand (w : Nat) : Except DecodeError Instr :=
  check (.vand (ETy.ofCode (fld w 23 3)) (BitVec.ofNat 2 (fld w 21 2)) (BitVec.ofNat 5 (fld w 16 5)) (BitVec.ofNat 5 (fld w 11 5)) (BitVec.ofNat 5 (fld w 6 5)) (BitVec.ofNat 5 (fld w 1 5)))

/-- VOR (R123). -/
def decVor (w : Nat) : Except DecodeError Instr :=
  check (.vor (ETy.ofCode (fld w 23 3)) (BitVec.ofNat 2 (fld w 21 2)) (BitVec.ofNat 5 (fld w 16 5)) (BitVec.ofNat 5 (fld w 11 5)) (BitVec.ofNat 5 (fld w 6 5)) (BitVec.ofNat 5 (fld w 1 5)))

/-- VXOR (R123). -/
def decVxor (w : Nat) : Except DecodeError Instr :=
  check (.vxor (ETy.ofCode (fld w 23 3)) (BitVec.ofNat 2 (fld w 21 2)) (BitVec.ofNat 5 (fld w 16 5)) (BitVec.ofNat 5 (fld w 11 5)) (BitVec.ofNat 5 (fld w 6 5)) (BitVec.ofNat 5 (fld w 1 5)))

/-- VSHL (R123). -/
def decVshl (w : Nat) : Except DecodeError Instr :=
  check (.vshl (ETy.ofCode (fld w 23 3)) (BitVec.ofNat 2 (fld w 21 2)) (BitVec.ofNat 5 (fld w 16 5)) (BitVec.ofNat 5 (fld w 11 5)) (BitVec.ofNat 5 (fld w 6 5)) (BitVec.ofNat 5 (fld w 1 5)))

/-- VSHR (R123). -/
def decVshr (w : Nat) : Except DecodeError Instr :=
  check (.vshr (ETy.ofCode (fld w 23 3)) (BitVec.ofNat 2 (fld w 21 2)) (BitVec.ofNat 5 (fld w 16 5)) (BitVec.ofNat 5 (fld w 11 5)) (BitVec.ofNat 5 (fld w 6 5)) (BitVec.ofNat 5 (fld w 1 5)) (fld w 0 1 == 1))

/-- VCMP (R124). -/
def decVcmp (w : Nat) : Except DecodeError Instr :=
  (match CmpKind.ofCode (fld w 11 5) with
    | some k => check (.vcmp (ETy.ofCode (fld w 23 3)) (BitVec.ofNat 2 (fld w 21 2)) (BitVec.ofNat 5 (fld w 16 5)) k (BitVec.ofNat 5 (fld w 6 5)) (BitVec.ofNat 5 (fld w 1 5)) (fld w 0 1 == 1))
    | none => .error .reservedCode)

/-- VSEL (R125). -/
def decVsel (w : Nat) : Except DecodeError Instr :=
  check (.vsel (ETy.ofCode (fld w 23 3)) (BitVec.ofNat 2 (fld w 21 2)) (BitVec.ofNat 5 (fld w 16 5)) (BitVec.ofNat 5 (fld w 11 5)) (BitVec.ofNat 5 (fld w 6 5)) (BitVec.ofNat 5 (fld w 1 5)))

/-- VMOV (R125). -/
def decVmov (w : Nat) : Except DecodeError Instr :=
  if fld w 1 5 == 0 then check (.vmov (ETy.ofCode (fld w 23 3)) (BitVec.ofNat 2 (fld w 21 2)) (BitVec.ofNat 5 (fld w 16 5)) (BitVec.ofNat 5 (fld w 11 5)) (BitVec.ofNat 5 (fld w 6 5))) else .error .mustBeZero

/-- VEXP2 (R126). -/
def decVexp2 (w : Nat) : Except DecodeError Instr :=
  if fld w 1 5 == 0 then check (.vexp2 (ETy.ofCode (fld w 23 3)) (BitVec.ofNat 2 (fld w 21 2)) (BitVec.ofNat 5 (fld w 16 5)) (BitVec.ofNat 5 (fld w 11 5)) (BitVec.ofNat 5 (fld w 6 5))) else .error .mustBeZero

/-- VLOG2 (R126). -/
def decVlog2 (w : Nat) : Except DecodeError Instr :=
  if fld w 1 5 == 0 then check (.vlog2 (ETy.ofCode (fld w 23 3)) (BitVec.ofNat 2 (fld w 21 2)) (BitVec.ofNat 5 (fld w 16 5)) (BitVec.ofNat 5 (fld w 11 5)) (BitVec.ofNat 5 (fld w 6 5))) else .error .mustBeZero

/-- VRCP (R126). -/
def decVrcp (w : Nat) : Except DecodeError Instr :=
  if fld w 1 5 == 0 then check (.vrcp (ETy.ofCode (fld w 23 3)) (BitVec.ofNat 2 (fld w 21 2)) (BitVec.ofNat 5 (fld w 16 5)) (BitVec.ofNat 5 (fld w 11 5)) (BitVec.ofNat 5 (fld w 6 5))) else .error .mustBeZero

/-- VRSQ (R126). -/
def decVrsq (w : Nat) : Except DecodeError Instr :=
  if fld w 1 5 == 0 then check (.vrsq (ETy.ofCode (fld w 23 3)) (BitVec.ofNat 2 (fld w 21 2)) (BitVec.ofNat 5 (fld w 16 5)) (BitVec.ofNat 5 (fld w 11 5)) (BitVec.ofNat 5 (fld w 6 5))) else .error .mustBeZero

/-- VTANH (R126). -/
def decVtanh (w : Nat) : Except DecodeError Instr :=
  if fld w 1 5 == 0 then check (.vtanh (ETy.ofCode (fld w 23 3)) (BitVec.ofNat 2 (fld w 21 2)) (BitVec.ofNat 5 (fld w 16 5)) (BitVec.ofNat 5 (fld w 11 5)) (BitVec.ofNat 5 (fld w 6 5))) else .error .mustBeZero

/-- VERF (R126). -/
def decVerf (w : Nat) : Except DecodeError Instr :=
  if fld w 1 5 == 0 then check (.verf (ETy.ofCode (fld w 23 3)) (BitVec.ofNat 2 (fld w 21 2)) (BitVec.ofNat 5 (fld w 16 5)) (BitVec.ofNat 5 (fld w 11 5)) (BitVec.ofNat 5 (fld w 6 5))) else .error .mustBeZero

/-- VCVT (R128). -/
def decVcvt (w : Nat) : Except DecodeError Instr :=
  check (.vcvt (ETy.ofCode (fld w 23 3)) (BitVec.ofNat 2 (fld w 21 2)) (BitVec.ofNat 5 (fld w 16 5)) (BitVec.ofNat 5 (fld w 11 5)) (BitVec.ofNat 5 (fld w 6 5)) (ETy.ofCode (fld w 3 3)) (Round.ofCode (fld w 1 2)) (fld w 0 1 == 1))

/-- VWID (R129). -/
def decVwid (w : Nat) : Except DecodeError Instr :=
  if fld w 1 2 == 0 then check (.vwid (ETy.ofCode (fld w 23 3)) (BitVec.ofNat 2 (fld w 21 2)) (BitVec.ofNat 5 (fld w 16 5)) (BitVec.ofNat 5 (fld w 11 5)) (BitVec.ofNat 5 (fld w 6 5)) (ETy.ofCode (fld w 3 3)) (fld w 0 1 == 1)) else .error .mustBeZero

/-- VNAR (R130). -/
def decVnar (w : Nat) : Except DecodeError Instr :=
  check (.vnar (ETy.ofCode (fld w 23 3)) (BitVec.ofNat 2 (fld w 21 2)) (BitVec.ofNat 5 (fld w 16 5)) (BitVec.ofNat 5 (fld w 11 5)) (BitVec.ofNat 5 (fld w 6 5)) (ETy.ofCode (fld w 3 3)) (Round.ofCode (fld w 1 2)) (fld w 0 1 == 1))

/-- VPERM (R132). -/
def decVperm (w : Nat) : Except DecodeError Instr :=
  check (.vperm (ETy.ofCode (fld w 23 3)) (BitVec.ofNat 2 (fld w 21 2)) (BitVec.ofNat 5 (fld w 16 5)) (BitVec.ofNat 5 (fld w 11 5)) (BitVec.ofNat 5 (fld w 6 5)) (BitVec.ofNat 5 (fld w 1 5)))

/-- VZIP (R133). -/
def decVzip (w : Nat) : Except DecodeError Instr :=
  check (.vzip (ETy.ofCode (fld w 23 3)) (BitVec.ofNat 2 (fld w 21 2)) (BitVec.ofNat 5 (fld w 16 5)) (BitVec.ofNat 5 (fld w 11 5)) (BitVec.ofNat 5 (fld w 6 5)) (BitVec.ofNat 5 (fld w 1 5)))

/-- VUNZ (R133). -/
def decVunz (w : Nat) : Except DecodeError Instr :=
  check (.vunz (ETy.ofCode (fld w 23 3)) (BitVec.ofNat 2 (fld w 21 2)) (BitVec.ofNat 5 (fld w 16 5)) (BitVec.ofNat 5 (fld w 11 5)) (BitVec.ofNat 5 (fld w 6 5)) (BitVec.ofNat 5 (fld w 1 5)))

/-- VRED (R134). -/
def decVred (w : Nat) : Except DecodeError Instr :=
  (match RedFn.ofCode (fld w 1 5) with
    | some f => check (.vred (ETy.ofCode (fld w 23 3)) (BitVec.ofNat 2 (fld w 21 2)) (BitVec.ofNat 5 (fld w 16 5)) (BitVec.ofNat 5 (fld w 11 5)) (BitVec.ofNat 5 (fld w 6 5)) f (fld w 0 1 == 1))
    | none => .error .reservedCode)

/-- VSCAN (R135). -/
def decVscan (w : Nat) : Except DecodeError Instr :=
  (match RedFn.ofCode (fld w 1 5) with
    | some f => check (.vscan (ETy.ofCode (fld w 23 3)) (BitVec.ofNat 2 (fld w 21 2)) (BitVec.ofNat 5 (fld w 16 5)) (BitVec.ofNat 5 (fld w 11 5)) (BitVec.ofNat 5 (fld w 6 5)) f (fld w 0 1 == 1))
    | none => .error .reservedCode)

/-- VIOTA (R136). -/
def decViota (w : Nat) : Except DecodeError Instr :=
  if fld w 0 11 == 0 then check (.viota (ETy.ofCode (fld w 23 3)) (BitVec.ofNat 2 (fld w 21 2)) (BitVec.ofNat 5 (fld w 16 5)) (BitVec.ofNat 5 (fld w 11 5))) else .error .mustBeZero

/-- VBCAST (R136). -/
def decVbcast (w : Nat) : Except DecodeError Instr :=
  if fld w 0 1 == 0 && fld w 5 6 == 0 then check (.vbcast (ETy.ofCode (fld w 23 3)) (BitVec.ofNat 2 (fld w 21 2)) (BitVec.ofNat 5 (fld w 16 5)) (BitVec.ofNat 5 (fld w 11 5)) (BitVec.ofNat 4 (fld w 1 4))) else .error .mustBeZero

/-- VADDI (R137). -/
def decVaddi (w : Nat) : Except DecodeError Instr :=
  check (.vaddi (ETy.ofCode (fld w 23 3)) (BitVec.ofNat 2 (fld w 21 2)) (BitVec.ofNat 5 (fld w 16 5)) (BitVec.ofNat 16 (fld w 0 16)))

/-- VMULI (R137). -/
def decVmuli (w : Nat) : Except DecodeError Instr :=
  check (.vmuli (ETy.ofCode (fld w 23 3)) (BitVec.ofNat 2 (fld w 21 2)) (BitVec.ofNat 5 (fld w 16 5)) (BitVec.ofNat 16 (fld w 0 16)))

/-- VMAXI (R137). -/
def decVmaxi (w : Nat) : Except DecodeError Instr :=
  check (.vmaxi (ETy.ofCode (fld w 23 3)) (BitVec.ofNat 2 (fld w 21 2)) (BitVec.ofNat 5 (fld w 16 5)) (BitVec.ofNat 16 (fld w 0 16)))

/-- VMINI (R137). -/
def decVmini (w : Nat) : Except DecodeError Instr :=
  check (.vmini (ETy.ofCode (fld w 23 3)) (BitVec.ofNat 2 (fld w 21 2)) (BitVec.ofNat 5 (fld w 16 5)) (BitVec.ofNat 16 (fld w 0 16)))

/-- VMOVI (R137). -/
def decVmovi (w : Nat) : Except DecodeError Instr :=
  check (.vmovi (ETy.ofCode (fld w 23 3)) (BitVec.ofNat 2 (fld w 21 2)) (BitVec.ofNat 5 (fld w 16 5)) (BitVec.ofNat 16 (fld w 0 16)))

/-- VANDI (R137). -/
def decVandi (w : Nat) : Except DecodeError Instr :=
  check (.vandi (ETy.ofCode (fld w 23 3)) (BitVec.ofNat 2 (fld w 21 2)) (BitVec.ofNat 5 (fld w 16 5)) (BitVec.ofNat 16 (fld w 0 16)))

/-- VSHLI (R137). -/
def decVshli (w : Nat) : Except DecodeError Instr :=
  check (.vshli (ETy.ofCode (fld w 23 3)) (BitVec.ofNat 2 (fld w 21 2)) (BitVec.ofNat 5 (fld w 16 5)) (BitVec.ofNat 16 (fld w 0 16)))

/-- VSUBI (R137). -/
def decVsubi (w : Nat) : Except DecodeError Instr :=
  check (.vsubi (ETy.ofCode (fld w 23 3)) (BitVec.ofNat 2 (fld w 21 2)) (BitVec.ofNat 5 (fld w 16 5)) (BitVec.ofNat 16 (fld w 0 16)))

/-- VLD (R139). -/
def decVld (w : Nat) : Except DecodeError Instr :=
  check (.vld (ETy.ofCode (fld w 23 3)) (BitVec.ofNat 2 (fld w 21 2)) (BitVec.ofNat 5 (fld w 16 5)) (BitVec.ofNat 5 (fld w 11 5)) (BitVec.ofNat 5 (fld w 6 5)) (BitVec.ofNat 4 (fld w 2 4)) (fld w 1 1 == 1) (fld w 0 1 == 1))

/-- VST (R140). -/
def decVst (w : Nat) : Except DecodeError Instr :=
  check (.vst (ETy.ofCode (fld w 23 3)) (BitVec.ofNat 2 (fld w 21 2)) (BitVec.ofNat 5 (fld w 16 5)) (BitVec.ofNat 5 (fld w 11 5)) (BitVec.ofNat 5 (fld w 6 5)) (BitVec.ofNat 4 (fld w 2 4)) (fld w 0 1 == 1))

/-- VLDS (R142). -/
def decVlds (w : Nat) : Except DecodeError Instr :=
  check (.vlds (ETy.ofCode (fld w 23 3)) (BitVec.ofNat 2 (fld w 21 2)) (BitVec.ofNat 5 (fld w 16 5)) (BitVec.ofNat 5 (fld w 11 5)) (BitVec.ofNat 4 (fld w 7 4)) (BitVec.ofNat 7 (fld w 0 7)))

/-- VSTS (R142). -/
def decVsts (w : Nat) : Except DecodeError Instr :=
  check (.vsts (ETy.ofCode (fld w 23 3)) (BitVec.ofNat 2 (fld w 21 2)) (BitVec.ofNat 5 (fld w 16 5)) (BitVec.ofNat 5 (fld w 11 5)) (BitVec.ofNat 4 (fld w 7 4)) (BitVec.ofNat 7 (fld w 0 7)))

/-- VGATH (R143). -/
def decVgath (w : Nat) : Except DecodeError Instr :=
  check (.vgath (ETy.ofCode (fld w 23 3)) (BitVec.ofNat 2 (fld w 21 2)) (BitVec.ofNat 5 (fld w 16 5)) (BitVec.ofNat 5 (fld w 11 5)) (BitVec.ofNat 5 (fld w 6 5)) (BitVec.ofNat 5 (fld w 1 5)) (fld w 0 1 == 1))

/-- VSCAT (R143). -/
def decVscat (w : Nat) : Except DecodeError Instr :=
  check (.vscat (ETy.ofCode (fld w 23 3)) (BitVec.ofNat 2 (fld w 21 2)) (BitVec.ofNat 5 (fld w 16 5)) (BitVec.ofNat 5 (fld w 11 5)) (BitVec.ofNat 5 (fld w 6 5)) (BitVec.ofNat 5 (fld w 1 5)) (fld w 0 1 == 1))

/-- VSLOT_ACQ (R145). -/
def decVslotAcq (w : Nat) : Except DecodeError Instr :=
  if fld w 0 1 == 0 && fld w 15 6 == 0 then check (.vslotAcq (BitVec.ofNat 2 (fld w 21 2)) (BitVec.ofNat 4 (fld w 11 4)) (BitVec.ofNat 5 (fld w 6 5))) else .error .mustBeZero

/-- VSLOT_COMMIT (R145). -/
def decVslotCommit (w : Nat) : Except DecodeError Instr :=
  if fld w 0 1 == 0 && fld w 11 10 == 0 then check (.vslotCommit (BitVec.ofNat 2 (fld w 21 2)) (BitVec.ofNat 5 (fld w 6 5))) else .error .mustBeZero

/-- VSLOT_AWAIT (R145). -/
def decVslotAwait (w : Nat) : Except DecodeError Instr :=
  if fld w 0 1 == 0 && fld w 15 6 == 0 then check (.vslotAwait (BitVec.ofNat 2 (fld w 21 2)) (BitVec.ofNat 4 (fld w 11 4)) (BitVec.ofNat 5 (fld w 6 5))) else .error .mustBeZero

/-- VSLOT_REL (R145). -/
def decVslotRel (w : Nat) : Except DecodeError Instr :=
  if fld w 0 1 == 0 && fld w 11 10 == 0 then check (.vslotRel (BitVec.ofNat 2 (fld w 21 2)) (BitVec.ofNat 5 (fld w 6 5))) else .error .mustBeZero

/-- VSETF_SETFMT (R146). -/
def decVsetfSetfmt (w : Nat) : Except DecodeError Instr :=
  if fld w 4 12 == 0 then check (.vsetfSetfmt (BitVec.ofNat 2 (fld w 21 2)) (BitVec.ofNat 4 (fld w 0 4))) else .error .mustBeZero

/-- VSETF_SELPAT (R146). -/
def decVsetfSelpat (w : Nat) : Except DecodeError Instr :=
  if fld w 4 12 == 0 then check (.vsetfSelpat (BitVec.ofNat 2 (fld w 21 2)) (fld w 3 1 == 1) (BitVec.ofNat 3 (fld w 0 3))) else .error .mustBeZero

/-- VSETF_LDPAT (R146). -/
def decVsetfLdpat (w : Nat) : Except DecodeError Instr :=
  if fld w 3 5 == 0 && fld w 12 4 == 0 then check (.vsetfLdpat (BitVec.ofNat 2 (fld w 21 2)) (BitVec.ofNat 4 (fld w 8 4)) (BitVec.ofNat 3 (fld w 0 3))) else .error .mustBeZero

/-- PAND (R147). -/
def decPand (w : Nat) : Except DecodeError Instr :=
  if fld w 0 1 == 0 && fld w 16 5 == 0 then check (.pand (BitVec.ofNat 2 (fld w 21 2)) (BitVec.ofNat 5 (fld w 11 5)) (BitVec.ofNat 5 (fld w 6 5)) (BitVec.ofNat 5 (fld w 1 5))) else .error .mustBeZero

/-- POR (R147). -/
def decPor (w : Nat) : Except DecodeError Instr :=
  if fld w 0 1 == 0 && fld w 16 5 == 0 then check (.por (BitVec.ofNat 2 (fld w 21 2)) (BitVec.ofNat 5 (fld w 11 5)) (BitVec.ofNat 5 (fld w 6 5)) (BitVec.ofNat 5 (fld w 1 5))) else .error .mustBeZero

/-- PXOR (R147). -/
def decPxor (w : Nat) : Except DecodeError Instr :=
  if fld w 0 1 == 0 && fld w 16 5 == 0 then check (.pxor (BitVec.ofNat 2 (fld w 21 2)) (BitVec.ofNat 5 (fld w 11 5)) (BitVec.ofNat 5 (fld w 6 5)) (BitVec.ofNat 5 (fld w 1 5))) else .error .mustBeZero

/-- PNOT (R147). -/
def decPnot (w : Nat) : Except DecodeError Instr :=
  if fld w 0 6 == 0 && fld w 16 5 == 0 then check (.pnot (BitVec.ofNat 2 (fld w 21 2)) (BitVec.ofNat 5 (fld w 11 5)) (BitVec.ofNat 5 (fld w 6 5))) else .error .mustBeZero

/-- PCNT (R147). -/
def decPcnt (w : Nat) : Except DecodeError Instr :=
  if fld w 0 6 == 0 && fld w 15 6 == 0 then check (.pcnt (ETy.ofCode (fld w 23 3)) (BitVec.ofNat 2 (fld w 21 2)) (BitVec.ofNat 4 (fld w 11 4)) (BitVec.ofNat 5 (fld w 6 5))) else .error .mustBeZero

/-- PFIRST (R147). -/
def decPfirst (w : Nat) : Except DecodeError Instr :=
  if fld w 0 6 == 0 && fld w 15 6 == 0 then check (.pfirst (ETy.ofCode (fld w 23 3)) (BitVec.ofNat 2 (fld w 21 2)) (BitVec.ofNat 4 (fld w 11 4)) (BitVec.ofNat 5 (fld w 6 5))) else .error .mustBeZero

/-- ARECV (R148). -/
def decArecv (w : Nat) : Except DecodeError Instr :=
  if fld w 4 12 == 0 then check (.arecv (BitVec.ofNat 2 (fld w 21 2)) (BitVec.ofNat 4 (fld w 16 4)) (BitVec.ofNat 4 (fld w 0 4))) else .error .mustBeZero

/-- AOP_IMM (R149). -/
def decAopImm (w : Nat) : Except DecodeError Instr :=
  check (.aopImm (AopFn.ofCode (fld w 23 3)) (BitVec.ofNat 2 (fld w 21 2)) (BitVec.ofNat 4 (fld w 16 4)) (BitVec.ofNat 4 (fld w 12 4)) (BitVec.ofNat 12 (fld w 0 12)))

/-- AOP_REG (R149). -/
def decAopReg (w : Nat) : Except DecodeError Instr :=
  if fld w 0 8 == 0 then check (.aopReg (AopFn.ofCode (fld w 23 3)) (BitVec.ofNat 2 (fld w 21 2)) (BitVec.ofNat 4 (fld w 16 4)) (BitVec.ofNat 4 (fld w 12 4)) (BitVec.ofNat 4 (fld w 8 4))) else .error .mustBeZero

/-- VPOST (R150). -/
def decVpost (w : Nat) : Except DecodeError Instr :=
  if fld w 6 15 == 0 then check (.vpost (BitVec.ofNat 2 (fld w 21 2)) (BitVec.ofNat 6 (fld w 0 6))) else .error .mustBeZero

/-- VWAIT (R150). -/
def decVwait (w : Nat) : Except DecodeError Instr :=
  if fld w 6 15 == 0 then check (.vwait (BitVec.ofNat 2 (fld w 21 2)) (BitVec.ofNat 6 (fld w 0 6))) else .error .mustBeZero

/-- VMARK (R150). -/
def decVmark (w : Nat) : Except DecodeError Instr :=
  if fld w 2 19 == 0 then check (.vmark (BitVec.ofNat 2 (fld w 21 2)) (Scope.ofCode (fld w 0 2))) else .error .mustBeZero

/-- VLOOP (R151). -/
def decVloop (w : Nat) : Except DecodeError Instr :=
  check (.vloop (BitVec.ofNat 2 (fld w 21 2)) (BitVec.ofNat 5 (fld w 16 5)) (BitVec.ofNat 16 (fld w 0 16)))

/-- VEND (R78). -/
def decVend (w : Nat) : Except DecodeError Instr :=
  if fld w 0 26 == 0 then check .vend else .error .mustBeZero

/-- MSYNC (R173). -/
def decMsync (w0 w1 : Nat) : Except DecodeError Instr :=
  if fld w0 0 13 == 0 && fld w0 14 1 == 0 && fld w1 0 32 == 0 then check (.msync (BitVec.ofNat 6 (fld w0 21 6)) (BitVec.ofNat 6 (fld w0 15 6)) (fld w0 13 1 == 1)) else .error .mustBeZero

/-- MMA (R162). -/
def decMma (w0 w1 : Nat) : Except DecodeError Instr :=
  if fld w1 1 3 == 0 then check (.mma (BitVec.ofNat 6 (fld w0 21 6)) (BitVec.ofNat 6 (fld w0 15 6)) (fld w0 14 1 == 1) (BitVec.ofNat 2 (fld w0 12 2)) (fld w0 11 1 == 1) (BitVec.ofNat 5 (fld w0 6 5)) (BitVec.ofNat 5 (fld w0 1 5)) (fld w0 0 1 == 1) (BitVec.ofNat 8 (fld w1 24 8)) (BitVec.ofNat 7 (fld w1 17 7)) (BitVec.ofNat 4 (fld w1 13 4)) (BitVec.ofNat 4 (fld w1 9 4)) (ETy.ofCode (fld w1 6 3)) (fld w1 5 1 == 1) (fld w1 4 1 == 1) (fld w1 0 1 == 1)) else .error .mustBeZero

/-- MMAP (R164). -/
def decMmap (w0 w1 : Nat) : Except DecodeError Instr :=
  if fld w0 14 1 == 0 && fld w1 1 3 == 0 then check (.mmap (BitVec.ofNat 6 (fld w0 21 6)) (BitVec.ofNat 6 (fld w0 15 6)) (BitVec.ofNat 2 (fld w0 12 2)) (fld w0 11 1 == 1) (BitVec.ofNat 5 (fld w0 6 5)) (BitVec.ofNat 5 (fld w0 1 5)) (fld w0 0 1 == 1) (BitVec.ofNat 8 (fld w1 24 8)) (BitVec.ofNat 7 (fld w1 17 7)) (BitVec.ofNat 4 (fld w1 13 4)) (BitVec.ofNat 4 (fld w1 9 4)) (ETy.ofCode (fld w1 6 3)) (fld w1 5 1 == 1) (fld w1 4 1 == 1) (fld w1 0 1 == 1)) else .error .mustBeZero

/-- MZERO (R167). -/
def decMzero (w0 w1 : Nat) : Except DecodeError Instr :=
  if fld w0 0 12 == 0 && fld w1 0 32 == 0 then check (.mzero (BitVec.ofNat 6 (fld w0 21 6)) (BitVec.ofNat 6 (fld w0 15 6)) (fld w0 14 1 == 1) (BitVec.ofNat 2 (fld w0 12 2))) else .error .mustBeZero

/-- MDRAIN (R168). -/
def decMdrain (w0 w1 : Nat) : Except DecodeError Instr :=
  if fld w0 0 5 == 0 then check (.mdrain (BitVec.ofNat 6 (fld w0 21 6)) (BitVec.ofNat 6 (fld w0 15 6)) (fld w0 14 1 == 1) (BitVec.ofNat 2 (fld w0 12 2)) (ETy.ofCode (fld w0 9 3)) (Round.ofCode (fld w0 7 2)) (fld w0 6 1 == 1) (fld w0 5 1 == 1) (BitVec.ofNat 16 (fld w1 16 16)) (BitVec.ofNat 12 (fld w1 4 12)) (BitVec.ofNat 4 (fld w1 0 4))) else .error .mustBeZero

/-- MLDACC (R170). -/
def decMldacc (w0 w1 : Nat) : Except DecodeError Instr :=
  if fld w0 0 9 == 0 && fld w1 4 16 == 0 then check (.mldacc (BitVec.ofNat 6 (fld w0 21 6)) (BitVec.ofNat 6 (fld w0 15 6)) (fld w0 14 1 == 1) (BitVec.ofNat 2 (fld w0 12 2)) (ETy.ofCode (fld w0 9 3)) (BitVec.ofNat 12 (fld w1 20 12)) (BitVec.ofNat 4 (fld w1 0 4))) else .error .mustBeZero

/-- MFMT (R171). -/
def decMfmt (w0 w1 : Nat) : Except DecodeError Instr :=
  if fld w0 0 10 == 0 && fld w0 14 1 == 0 && fld w1 22 10 == 0 then check (.mfmt (BitVec.ofNat 6 (fld w0 21 6)) (BitVec.ofNat 6 (fld w0 15 6)) (BitVec.ofNat 4 (fld w0 10 4)) (BitVec.ofNat 22 (fld w1 0 22))) else .error .mustBeZero

/-- MLOOP (R172). -/
def decMloop (w0 w1 : Nat) : Except DecodeError Instr :=
  if fld w0 0 8 == 0 && fld w0 14 13 == 0 && fld w1 16 16 == 0 then check (.mloop (BitVec.ofNat 6 (fld w0 8 6)) (BitVec.ofNat 16 (fld w1 0 16))) else .error .mustBeZero

/-- MCHK (R166). -/
def decMchk (w0 w1 : Nat) : Except DecodeError Instr :=
  if fld w0 0 12 == 0 && fld w0 14 1 == 0 && fld w1 22 10 == 0 then check (.mchk (BitVec.ofNat 6 (fld w0 21 6)) (BitVec.ofNat 6 (fld w0 15 6)) (BitVec.ofNat 2 (fld w0 12 2)) (BitVec.ofNat 22 (fld w1 0 22))) else .error .mustBeZero

/-- CSYNC (R173). -/
def decCsync (w0 w1 : Nat) : Except DecodeError Instr :=
  if fld w0 0 13 == 0 && fld w0 14 1 == 0 && fld w1 0 32 == 0 then check (.csync (BitVec.ofNat 6 (fld w0 21 6)) (BitVec.ofNat 6 (fld w0 15 6)) (fld w0 13 1 == 1)) else .error .mustBeZero

/-- COPY (R174). -/
def decCopy (w0 w1 w2 : Nat) : Except DecodeError Instr :=
  if fld w0 0 2 == 0 && fld w2 1 5 == 0 then check (.copy (BitVec.ofNat 6 (fld w0 21 6)) (BitVec.ofNat 6 (fld w0 15 6)) (fld w0 14 1 == 1) (fld w0 13 1 == 1) (BitVec.ofNat 5 (fld w0 8 5)) (fld w0 7 1 == 1) (BitVec.ofNat 5 (fld w0 2 5)) (BitVec.ofNat 32 (fld w1 0 32)) (BitVec.ofNat 13 (fld w2 19 13)) (BitVec.ofNat 13 (fld w2 6 13)) (fld w2 0 1 == 1)) else .error .mustBeZero

/-- COPYT (R176). -/
def decCopyt (w0 w1 : Nat) : Except DecodeError Instr :=
  if fld w0 0 8 == 0 then check (.copyt (BitVec.ofNat 6 (fld w0 21 6)) (BitVec.ofNat 6 (fld w0 15 6)) (fld w0 14 1 == 1) (BitVec.ofNat 6 (fld w0 8 6)) (BitVec.ofNat 19 (fld w1 13 19)) (BitVec.ofNat 13 (fld w1 0 13))) else .error .mustBeZero

/-- IMWIN (R178). -/
def decImwin (w0 w1 w2 : Nat) : Except DecodeError Instr :=
  if fld w0 0 9 == 0 then check (.imwin (BitVec.ofNat 6 (fld w0 21 6)) (BitVec.ofNat 6 (fld w0 15 6)) (fld w0 14 1 == 1) (BitVec.ofNat 5 (fld w0 9 5)) (BitVec.ofNat 32 (fld w1 0 32)) (BitVec.ofNat 13 (fld w2 19 13)) (BitVec.ofNat 10 (fld w2 9 10)) (BitVec.ofNat 4 (fld w2 5 4)) (BitVec.ofNat 2 (fld w2 3 2)) (BitVec.ofNat 3 (fld w2 0 3))) else .error .mustBeZero

/-- GATHER (R179). -/
def decGather (w0 w1 w2 : Nat) : Except DecodeError Instr :=
  if fld w0 0 9 == 0 && fld w2 0 6 == 0 then check (.gather (BitVec.ofNat 6 (fld w0 21 6)) (BitVec.ofNat 6 (fld w0 15 6)) (fld w0 14 1 == 1) (BitVec.ofNat 5 (fld w0 9 5)) (BitVec.ofNat 10 (fld w1 22 10)) (BitVec.ofNat 22 (fld w1 0 22)) (BitVec.ofNat 13 (fld w2 19 13)) (BitVec.ofNat 13 (fld w2 6 13))) else .error .mustBeZero

/-- SCATTER (R179). -/
def decScatter (w0 w1 w2 : Nat) : Except DecodeError Instr :=
  if fld w0 0 9 == 0 && fld w2 0 6 == 0 then check (.scatter (BitVec.ofNat 6 (fld w0 21 6)) (BitVec.ofNat 6 (fld w0 15 6)) (fld w0 14 1 == 1) (BitVec.ofNat 5 (fld w0 9 5)) (BitVec.ofNat 10 (fld w1 22 10)) (BitVec.ofNat 22 (fld w1 0 22)) (BitVec.ofNat 13 (fld w2 19 13)) (BitVec.ofNat 13 (fld w2 6 13))) else .error .mustBeZero

/-- FILL (R180). -/
def decFill (w0 w1 w2 : Nat) : Except DecodeError Instr :=
  if fld w0 0 12 == 0 then check (.fill (BitVec.ofNat 6 (fld w0 21 6)) (BitVec.ofNat 6 (fld w0 15 6)) (fld w0 14 1 == 1) (BitVec.ofNat 2 (fld w0 12 2)) (BitVec.ofNat 32 (fld w1 0 32)) (BitVec.ofNat 13 (fld w2 19 13)) (BitVec.ofNat 13 (fld w2 6 13)) (fld w2 5 1 == 1) (BitVec.ofNat 5 (fld w2 0 5))) else .error .mustBeZero

/-- SKETCH (R181). -/
def decSketch (w0 w1 : Nat) : Except DecodeError Instr :=
  if fld w0 0 11 == 0 then check (.sketch (BitVec.ofNat 6 (fld w0 21 6)) (BitVec.ofNat 6 (fld w0 15 6)) (fld w0 14 1 == 1) (ETy.ofCode (fld w0 11 3)) (BitVec.ofNat 12 (fld w1 20 12)) (BitVec.ofNat 4 (fld w1 16 4)) (BitVec.ofNat 16 (fld w1 0 16))) else .error .mustBeZero

/-- PCOPY (R182). -/
def decPcopy (w0 w1 w2 : Nat) : Except DecodeError Instr :=
  if fld w0 0 9 == 0 && fld w0 14 1 == 0 && fld w1 0 6 == 0 && fld w2 0 19 == 0 then check (.pcopy (BitVec.ofNat 6 (fld w0 21 6)) (BitVec.ofNat 6 (fld w0 15 6)) (fld w0 13 1 == 1) (BitVec.ofNat 4 (fld w0 9 4)) (BitVec.ofNat 13 (fld w1 19 13)) (BitVec.ofNat 13 (fld w1 6 13)) (BitVec.ofNat 13 (fld w2 19 13))) else .error .mustBeZero

/-- DVOPEN (R183). -/
def decDvopen (w0 w1 w2 : Nat) : Except DecodeError Instr :=
  if fld w0 12 3 == 0 && fld w1 22 10 == 0 && fld w2 16 16 == 0 then check (.dvopen (BitVec.ofNat 6 (fld w0 21 6)) (BitVec.ofNat 6 (fld w0 15 6)) (BitVec.ofNat 12 (fld w0 0 12)) (BitVec.ofNat 22 (fld w1 0 22)) (BitVec.ofNat 16 (fld w2 0 16))) else .error .mustBeZero

/-- DVW (R183). -/
def decDvw (w0 w1 w2 : Nat) : Except DecodeError Instr :=
  if fld w0 12 3 == 0 && fld w2 0 6 == 0 then check (.dvw (BitVec.ofNat 6 (fld w0 21 6)) (BitVec.ofNat 6 (fld w0 15 6)) (BitVec.ofNat 12 (fld w0 0 12)) (BitVec.ofNat 32 (fld w1 0 32)) (BitVec.ofNat 13 (fld w2 19 13)) (BitVec.ofNat 13 (fld w2 6 13))) else .error .mustBeZero

/-- DVREL (R183). -/
def decDvrel (w0 w1 w2 : Nat) : Except DecodeError Instr :=
  if fld w0 12 3 == 0 then check (.dvrel (BitVec.ofNat 6 (fld w0 21 6)) (BitVec.ofNat 6 (fld w0 15 6)) (BitVec.ofNat 12 (fld w0 0 12)) (BitVec.ofNat 32 (fld w1 0 32)) (BitVec.ofNat 32 (fld w2 0 32))) else .error .mustBeZero

/-- DVSHUT (R183). -/
def decDvshut (w0 w1 : Nat) : Except DecodeError Instr :=
  if fld w0 12 3 == 0 && fld w1 0 32 == 0 then check (.dvshut (BitVec.ofNat 6 (fld w0 21 6)) (BitVec.ofNat 6 (fld w0 15 6)) (BitVec.ofNat 12 (fld w0 0 12))) else .error .mustBeZero

/-- CLOOP (R172). -/
def decCloop (w0 w1 : Nat) : Except DecodeError Instr :=
  if fld w0 0 8 == 0 && fld w0 14 13 == 0 && fld w1 16 16 == 0 then check (.cloop (BitVec.ofNat 6 (fld w0 8 6)) (BitVec.ofNat 16 (fld w1 0 16))) else .error .mustBeZero

/-- CFLUSH (R184). -/
def decCflush (w0 w1 w2 : Nat) : Except DecodeError Instr :=
  if fld w0 0 8 == 0 && fld w0 14 1 == 0 then check (.cflush (BitVec.ofNat 6 (fld w0 21 6)) (BitVec.ofNat 6 (fld w0 15 6)) (BitVec.ofNat 5 (fld w0 9 5)) (fld w0 8 1 == 1) (BitVec.ofNat 32 (fld w1 0 32)) (BitVec.ofNat 32 (fld w2 0 32))) else .error .mustBeZero

/-- The S-stream opcode map (R55, R57). -/
def decodeS (w : Nat) : Except DecodeError Instr :=
  match fld w 26 6 with
  | 0 => match fld w 0 5 with
    | 0 => decAdd w
    | 1 => decSub w
    | 2 => decAnd w
    | 3 => decOr w
    | 4 => decXor w
    | 5 => decSll w
    | 6 => decSrl w
    | 7 => decSra w
    | 8 => decSlt w
    | 9 => decSltu w
    | 10 => decSeq w
    | 11 => decMin w
    | 12 => decMax w
    | 13 => decMinu w
    | 14 => decMaxu w
    | 15 => decMul w
    | 16 => decMulh w
    | 17 => decMulhu w
    | 18 => decDiv w
    | 19 => decDivu w
    | 20 => decRem w
    | 21 => decRemu w
    | 22 => decClz w
    | 23 => decPopc w
    | _ => .error .reservedCode
  | 1 => decAddi w
  | 2 => decAndi w
  | 3 => decOri w
  | 4 => decXori w
  | 5 => match fld w 9 2 with
    | 0 => decSlli w
    | 1 => decSrli w
    | 2 => decSrai w
    | _ => .error .reservedCode
  | 6 => decSlti w
  | 7 => decLi w
  | 8 => decLis w
  | 9 => match fld w 0 5 with
    | 0 => decFadd w
    | 1 => decFsub w
    | 2 => decFmul w
    | 3 => decFdiv w
    | 4 => decFmin w
    | 5 => decFmax w
    | 6 => decFsqrt w
    | 7 => decFeq w
    | 8 => decFlt w
    | 9 => decFle w
    | 10 => decFcvtsw w
    | 11 => decFcvtws w
    | 12 => decFcvtbs w
    | 13 => decFcvtsb w
    | _ => .error .reservedCode
  | 10 => match fld w 0 5 with
    | 0 => decFma w
    | 1 => decFms w
    | 2 => decFnma w
    | _ => .error .reservedCode
  | 11 => decBeq w
  | 12 => decBne w
  | 13 => decBlt w
  | 14 => decBge w
  | 15 => decBltu w
  | 16 => decBgeu w
  | 17 => decJal w
  | 18 => decJalr w
  | 19 => decLdb w
  | 20 => decLdh w
  | 21 => decLdw w
  | 22 => decLdd w
  | 23 => decStb w
  | 24 => decSth w
  | 25 => decStw w
  | 26 => decStd w
  | 27 => decAmo w
  | 28 => decCas w
  | 29 => decLds w
  | 30 => decSts w
  | 31 => decSps w
  | 32 => decSpl w
  | 33 => decXlat w
  | 34 => decXlatq w
  | 35 => match fld w 0 7 with
    | 0 => decTrel w
    | 1 => decTmov w
    | 2 => decTsub w
    | 3 => decTinfo w
    | 4 => decTchk w
    | _ => .error .reservedCode
  | 36 => decLook w
  | 37 => decDtag w
  | 38 => decFork w
  | 39 => decRdv w
  | 40 => decSend w
  | 41 => decVfence w
  | 42 => match fld w 2 1 with
    | 0 => decRapp w
    | 1 => decRappPair w
    | _ => .error .reservedCode
  | 43 => decPost w
  | 44 => decWaits w
  | 45 => decMark w
  | 46 => decFence w
  | 47 => decBar w
  | 48 => match fld w 0 5 with
    | 0 => decSacq w
    | 1 => decScommit w
    | 2 => decSawait w
    | 3 => decSrel w
    | _ => .error .reservedCode
  | 49 => decJlaunch w
  | 50 => decFlushh w
  | 51 => decInvh w
  | 52 => match fld w 0 5 with
    | 0 => decSkipr w
    | 1 => decSkipw w
    | _ => .error .reservedCode
  | 53 => decCsrr w
  | 54 => decCsrw w
  | 55 => decCsrs w
  | 56 => decCsrc w
  | 57 => match fld w 0 3 with
    | 1 => decTrap w
    | 2 => decEret w
    | 3 => decHalt w
    | 4 => decWfi w
    | 5 => decBkpt w
    | _ => .error .reservedCode
  | _ => .error .reservedOp

/-- The V-stream opcode map (R62, R64). -/
def decodeV (w : Nat) : Except DecodeError Instr :=
  match fld w 26 6 with
  | 0 => decVadd w
  | 1 => decVsub w
  | 2 => decVmul w
  | 3 => decVfma w
  | 4 => decVmin w
  | 5 => decVmax w
  | 6 => decVabs w
  | 7 => decVneg w
  | 8 => if fld w 0 1 == 0 then decVand w else .error .reservedCode
  | 9 => if fld w 0 1 == 0 then decVor w else .error .reservedCode
  | 10 => if fld w 0 1 == 0 then decVxor w else .error .reservedCode
  | 11 => if fld w 0 1 == 0 then decVshl w else .error .reservedCode
  | 12 => decVshr w
  | 13 => decVcmp w
  | 14 => if fld w 0 1 == 0 then decVsel w else .error .reservedCode
  | 15 => if fld w 0 1 == 0 then decVmov w else .error .reservedCode
  | 16 => if fld w 0 1 == 0 then decVexp2 w else .error .reservedCode
  | 17 => if fld w 0 1 == 0 then decVlog2 w else .error .reservedCode
  | 18 => if fld w 0 1 == 0 then decVrcp w else .error .reservedCode
  | 19 => if fld w 0 1 == 0 then decVrsq w else .error .reservedCode
  | 20 => if fld w 0 1 == 0 then decVtanh w else .error .reservedCode
  | 21 => if fld w 0 1 == 0 then decVerf w else .error .reservedCode
  | 22 => decVcvt w
  | 23 => decVwid w
  | 24 => decVnar w
  | 25 => if fld w 0 1 == 0 then decVperm w else .error .reservedCode
  | 26 => if fld w 0 1 == 0 then decVzip w else .error .reservedCode
  | 27 => if fld w 0 1 == 0 then decVunz w else .error .reservedCode
  | 28 => decVred w
  | 29 => decVscan w
  | 30 => decViota w
  | 31 => decVbcast w
  | 32 => decVaddi w
  | 33 => decVmuli w
  | 34 => decVmaxi w
  | 35 => decVmini w
  | 36 => decVmovi w
  | 37 => decVandi w
  | 38 => decVshli w
  | 39 => decVsubi w
  | 40 => decVld w
  | 41 => if fld w 1 1 == 0 then decVst w else .error .reservedCode
  | 42 => decVlds w
  | 43 => decVsts w
  | 44 => decVgath w
  | 45 => decVscat w
  | 46 => match fld w 1 5 with
    | 0 => if fld w 23 3 == 0 then decVslotAcq w else .error .reservedCode
    | 1 => if fld w 23 3 == 0 then decVslotCommit w else .error .reservedCode
    | 2 => if fld w 23 3 == 0 then decVslotAwait w else .error .reservedCode
    | 3 => if fld w 23 3 == 0 then decVslotRel w else .error .reservedCode
    | _ => .error .reservedCode
  | 47 => match fld w 16 5 with
    | 0 => if fld w 23 3 == 0 then decVsetfSetfmt w else .error .reservedCode
    | 1 => if fld w 23 3 == 0 then decVsetfSelpat w else .error .reservedCode
    | 2 => if fld w 23 3 == 0 then decVsetfLdpat w else .error .reservedCode
    | _ => .error .reservedCode
  | 48 => if fld w 23 3 == 0 then decPand w else .error .reservedCode
  | 49 => if fld w 23 3 == 0 then decPor w else .error .reservedCode
  | 50 => if fld w 23 3 == 0 then decPxor w else .error .reservedCode
  | 51 => if fld w 23 3 == 0 then decPnot w else .error .reservedCode
  | 52 => decPcnt w
  | 53 => decPfirst w
  | 54 => if fld w 23 3 == 0 && fld w 20 1 == 0 then decArecv w else .error .reservedCode
  | 55 => match fld w 20 1 with
    | 0 => decAopImm w
    | 1 => decAopReg w
    | _ => .error .reservedCode
  | 56 => if fld w 23 3 == 0 then decVpost w else .error .reservedCode
  | 57 => if fld w 23 3 == 0 then decVwait w else .error .reservedCode
  | 58 => if fld w 23 3 == 0 then decVmark w else .error .reservedCode
  | 59 => if fld w 23 3 == 0 then decVloop w else .error .reservedCode
  | 60 => decVend w
  | _ => .error .reservedOp

/-- The words of a command of the M ring, from the OP of its word 0 (R67); none for a reserved OP. -/
def cmdWordsM (op : Nat) : Option Nat :=
  match op with
  | 0 => some 2
  | 1 => some 2
  | 2 => some 2
  | 3 => some 2
  | 4 => some 2
  | 5 => some 2
  | 6 => some 2
  | 7 => some 2
  | 8 => some 2
  | _ => none

/-- The M-stream command map (R67, R70). -/
def decodeM (w0 w1 _w2 : Nat) : Except DecodeError Instr :=
  match fld w0 27 5 with
  | 0 => decMsync w0 w1
  | 1 => decMma w0 w1
  | 2 => decMmap w0 w1
  | 3 => decMzero w0 w1
  | 4 => decMdrain w0 w1
  | 5 => decMldacc w0 w1
  | 6 => decMfmt w0 w1
  | 7 => decMloop w0 w1
  | 8 => decMchk w0 w1
  | _ => .error .reservedOp

/-- The words of a command of the C ring, from the OP of its word 0 (R68); none for a reserved OP. -/
def cmdWordsC (op : Nat) : Option Nat :=
  match op with
  | 0 => some 2
  | 1 => some 3
  | 2 => some 2
  | 3 => some 3
  | 4 => some 3
  | 5 => some 3
  | 6 => some 3
  | 7 => some 2
  | 8 => some 3
  | 11 => some 3
  | 9 => some 3
  | 10 => some 3
  | 12 => some 2
  | 13 => some 2
  | 14 => some 3
  | _ => none

/-- The C-stream command map (R68, R70). -/
def decodeC (w0 w1 w2 : Nat) : Except DecodeError Instr :=
  match fld w0 27 5 with
  | 0 => decCsync w0 w1
  | 1 => decCopy w0 w1 w2
  | 2 => decCopyt w0 w1
  | 3 => decImwin w0 w1 w2
  | 4 => decGather w0 w1 w2
  | 5 => decScatter w0 w1 w2
  | 6 => decFill w0 w1 w2
  | 7 => decSketch w0 w1
  | 8 => decPcopy w0 w1 w2
  | 11 => decDvopen w0 w1 w2
  | 9 => decDvw w0 w1 w2
  | 10 => decDvrel w0 w1 w2
  | 12 => decDvshut w0 w1
  | 13 => decCloop w0 w1
  | 14 => decCflush w0 w1 w2
  | _ => .error .reservedOp

/-- The words an instruction has in its stream, from its first word (R52, R67, R68). -/
def wordsOf (k : StreamKind) (w0 : Nat) : Option Nat :=
  match k with
  | .s => some 1
  | .v => some 1
  | .m => cmdWordsM (fld w0 27 5)
  | .c => cmdWordsC (fld w0 27 5)

/-- The instruction that a list of words begins with, in a stream. -/
def decodeWords (k : StreamKind) (ws : List Nat) : Except DecodeError Instr :=
  match k, ws with
  | .s, w :: _ => decodeS w
  | .v, w :: _ => decodeV w
  | .m, w0 :: w1 :: _ => decodeM w0 w1 0
  | .c, w0 :: w1 :: rest =>
    match cmdWordsC (fld w0 27 5), rest with
    | some 3, w2 :: _ => decodeC w0 w1 w2
    | some 3, [] => .error .truncated
    | _, _ => decodeC w0 w1 0
  | .m, [w0] => if (cmdWordsM (fld w0 27 5)).isSome then .error .truncated else .error .reservedOp
  | .c, [w0] => if (cmdWordsC (fld w0 27 5)).isSome then .error .truncated else .error .reservedOp
  | _, [] => .error .truncated

/-- The little-endian number of a list of bytes (R3). -/
def leNat : List Byte → Nat
  | [] => 0
  | b :: bs => b.toNat + 256 * leNat bs

/-- The `n` bytes of a number, little-endian (R3). -/
def leBytes : Nat → Nat → List Byte
  | 0, _ => []
  | n + 1, v => BitVec.ofNat 8 v :: leBytes n (v / 256)

/-- The 32-bit words of a list of bytes; a last incomplete word is left out (R52). -/
def wordsOfBytes : List Byte → List Nat
  | a :: b :: c :: d :: rest => leNat [a, b, c, d] :: wordsOfBytes rest
  | _ => []

/-- Decoding of any bytes: the instruction they begin with and the bytes after it. -/
def decode (k : StreamKind) (bs : List Byte) : Except DecodeError (Instr × List Byte) :=
  match decodeWords k (wordsOfBytes bs) with
  | .error e => .error e
  | .ok i =>
    match wordsOf k (leNat (bs.take 4)) with
    | some n => .ok (i, bs.drop (4 * n))
    | none => .error .reservedOp

/-- ADD (R81). -/
def encAdd (st : SStall) (d a b : XReg) : List Nat :=
  [st.toNat * 8388608 + d.toNat * 131072 + a.toNat * 2048 + b.toNat * 32]

/-- SUB (R81). -/
def encSub (st : SStall) (d a b : XReg) : List Nat :=
  [st.toNat * 8388608 + d.toNat * 131072 + a.toNat * 2048 + b.toNat * 32 + 1]

/-- AND (R81). -/
def encAnd (st : SStall) (d a b : XReg) : List Nat :=
  [st.toNat * 8388608 + d.toNat * 131072 + a.toNat * 2048 + b.toNat * 32 + 2]

/-- OR (R81). -/
def encOr (st : SStall) (d a b : XReg) : List Nat :=
  [st.toNat * 8388608 + d.toNat * 131072 + a.toNat * 2048 + b.toNat * 32 + 3]

/-- XOR (R81). -/
def encXor (st : SStall) (d a b : XReg) : List Nat :=
  [st.toNat * 8388608 + d.toNat * 131072 + a.toNat * 2048 + b.toNat * 32 + 4]

/-- SLL (R81). -/
def encSll (st : SStall) (d a b : XReg) : List Nat :=
  [st.toNat * 8388608 + d.toNat * 131072 + a.toNat * 2048 + b.toNat * 32 + 5]

/-- SRL (R81). -/
def encSrl (st : SStall) (d a b : XReg) : List Nat :=
  [st.toNat * 8388608 + d.toNat * 131072 + a.toNat * 2048 + b.toNat * 32 + 6]

/-- SRA (R81). -/
def encSra (st : SStall) (d a b : XReg) : List Nat :=
  [st.toNat * 8388608 + d.toNat * 131072 + a.toNat * 2048 + b.toNat * 32 + 7]

/-- SLT (R81). -/
def encSlt (st : SStall) (d a b : XReg) : List Nat :=
  [st.toNat * 8388608 + d.toNat * 131072 + a.toNat * 2048 + b.toNat * 32 + 8]

/-- SLTU (R81). -/
def encSltu (st : SStall) (d a b : XReg) : List Nat :=
  [st.toNat * 8388608 + d.toNat * 131072 + a.toNat * 2048 + b.toNat * 32 + 9]

/-- SEQ (R81). -/
def encSeq (st : SStall) (d a b : XReg) : List Nat :=
  [st.toNat * 8388608 + d.toNat * 131072 + a.toNat * 2048 + b.toNat * 32 + 10]

/-- MIN (R81). -/
def encMin (st : SStall) (d a b : XReg) : List Nat :=
  [st.toNat * 8388608 + d.toNat * 131072 + a.toNat * 2048 + b.toNat * 32 + 11]

/-- MAX (R81). -/
def encMax (st : SStall) (d a b : XReg) : List Nat :=
  [st.toNat * 8388608 + d.toNat * 131072 + a.toNat * 2048 + b.toNat * 32 + 12]

/-- MINU (R81). -/
def encMinu (st : SStall) (d a b : XReg) : List Nat :=
  [st.toNat * 8388608 + d.toNat * 131072 + a.toNat * 2048 + b.toNat * 32 + 13]

/-- MAXU (R81). -/
def encMaxu (st : SStall) (d a b : XReg) : List Nat :=
  [st.toNat * 8388608 + d.toNat * 131072 + a.toNat * 2048 + b.toNat * 32 + 14]

/-- MUL (R81). -/
def encMul (st : SStall) (d a b : XReg) : List Nat :=
  [st.toNat * 8388608 + d.toNat * 131072 + a.toNat * 2048 + b.toNat * 32 + 15]

/-- MULH (R81). -/
def encMulh (st : SStall) (d a b : XReg) : List Nat :=
  [st.toNat * 8388608 + d.toNat * 131072 + a.toNat * 2048 + b.toNat * 32 + 16]

/-- MULHU (R81). -/
def encMulhu (st : SStall) (d a b : XReg) : List Nat :=
  [st.toNat * 8388608 + d.toNat * 131072 + a.toNat * 2048 + b.toNat * 32 + 17]

/-- DIV (R82). -/
def encDiv (st : SStall) (d a b : XReg) : List Nat :=
  [st.toNat * 8388608 + d.toNat * 131072 + a.toNat * 2048 + b.toNat * 32 + 18]

/-- DIVU (R82). -/
def encDivu (st : SStall) (d a b : XReg) : List Nat :=
  [st.toNat * 8388608 + d.toNat * 131072 + a.toNat * 2048 + b.toNat * 32 + 19]

/-- REM (R82). -/
def encRem (st : SStall) (d a b : XReg) : List Nat :=
  [st.toNat * 8388608 + d.toNat * 131072 + a.toNat * 2048 + b.toNat * 32 + 20]

/-- REMU (R82). -/
def encRemu (st : SStall) (d a b : XReg) : List Nat :=
  [st.toNat * 8388608 + d.toNat * 131072 + a.toNat * 2048 + b.toNat * 32 + 21]

/-- CLZ (R81). -/
def encClz (st : SStall) (d a : XReg) : List Nat :=
  [st.toNat * 8388608 + d.toNat * 131072 + a.toNat * 2048 + 22]

/-- POPC (R81). -/
def encPopc (st : SStall) (d a : XReg) : List Nat :=
  [st.toNat * 8388608 + d.toNat * 131072 + a.toNat * 2048 + 23]

/-- ADDI (R83). -/
def encAddi (st : SStall) (d a : XReg) (imm : BitVec 11) : List Nat :=
  [67108864 + st.toNat * 8388608 + d.toNat * 131072 + a.toNat * 2048 + imm.toNat]

/-- ANDI (R83). -/
def encAndi (st : SStall) (d a : XReg) (imm : BitVec 11) : List Nat :=
  [134217728 + st.toNat * 8388608 + d.toNat * 131072 + a.toNat * 2048 + imm.toNat]

/-- ORI (R83). -/
def encOri (st : SStall) (d a : XReg) (imm : BitVec 11) : List Nat :=
  [201326592 + st.toNat * 8388608 + d.toNat * 131072 + a.toNat * 2048 + imm.toNat]

/-- XORI (R83). -/
def encXori (st : SStall) (d a : XReg) (imm : BitVec 11) : List Nat :=
  [268435456 + st.toNat * 8388608 + d.toNat * 131072 + a.toNat * 2048 + imm.toNat]

/-- SLLI (R83). -/
def encSlli (st : SStall) (d a : XReg) (sh : BitVec 6) : List Nat :=
  [335544320 + st.toNat * 8388608 + d.toNat * 131072 + a.toNat * 2048 + sh.toNat]

/-- SRLI (R83). -/
def encSrli (st : SStall) (d a : XReg) (sh : BitVec 6) : List Nat :=
  [335544320 + st.toNat * 8388608 + d.toNat * 131072 + a.toNat * 2048 + 512 + sh.toNat]

/-- SRAI (R83). -/
def encSrai (st : SStall) (d a : XReg) (sh : BitVec 6) : List Nat :=
  [335544320 + st.toNat * 8388608 + d.toNat * 131072 + a.toNat * 2048 + 1024 + sh.toNat]

/-- SLTI (R83). -/
def encSlti (st : SStall) (d a : XReg) (imm : BitVec 11) : List Nat :=
  [402653184 + st.toNat * 8388608 + d.toNat * 131072 + a.toNat * 2048 + imm.toNat]

/-- LI (R84). -/
def encLi (st : SStall) (d : XReg) (imm : BitVec 17) : List Nat :=
  [469762048 + st.toNat * 8388608 + d.toNat * 131072 + imm.toNat]

/-- LIS (R84). -/
def encLis (st : SStall) (d : XReg) (imm : BitVec 16) : List Nat :=
  [536870912 + st.toNat * 8388608 + d.toNat * 131072 + imm.toNat]

/-- FADD (R88). -/
def encFadd (st : SStall) (d a b : XReg) : List Nat :=
  [603979776 + st.toNat * 8388608 + d.toNat * 131072 + a.toNat * 2048 + b.toNat * 32]

/-- FSUB (R88). -/
def encFsub (st : SStall) (d a b : XReg) : List Nat :=
  [603979776 + st.toNat * 8388608 + d.toNat * 131072 + a.toNat * 2048 + b.toNat * 32 + 1]

/-- FMUL (R88). -/
def encFmul (st : SStall) (d a b : XReg) : List Nat :=
  [603979776 + st.toNat * 8388608 + d.toNat * 131072 + a.toNat * 2048 + b.toNat * 32 + 2]

/-- FDIV (R88). -/
def encFdiv (st : SStall) (d a b : XReg) : List Nat :=
  [603979776 + st.toNat * 8388608 + d.toNat * 131072 + a.toNat * 2048 + b.toNat * 32 + 3]

/-- FMIN (R89). -/
def encFmin (st : SStall) (d a b : XReg) : List Nat :=
  [603979776 + st.toNat * 8388608 + d.toNat * 131072 + a.toNat * 2048 + b.toNat * 32 + 4]

/-- FMAX (R89). -/
def encFmax (st : SStall) (d a b : XReg) : List Nat :=
  [603979776 + st.toNat * 8388608 + d.toNat * 131072 + a.toNat * 2048 + b.toNat * 32 + 5]

/-- FSQRT (R88). -/
def encFsqrt (st : SStall) (d a : XReg) : List Nat :=
  [603979776 + st.toNat * 8388608 + d.toNat * 131072 + a.toNat * 2048 + 6]

/-- FEQ (R90). -/
def encFeq (st : SStall) (d a b : XReg) : List Nat :=
  [603979776 + st.toNat * 8388608 + d.toNat * 131072 + a.toNat * 2048 + b.toNat * 32 + 7]

/-- FLT (R90). -/
def encFlt (st : SStall) (d a b : XReg) : List Nat :=
  [603979776 + st.toNat * 8388608 + d.toNat * 131072 + a.toNat * 2048 + b.toNat * 32 + 8]

/-- FLE (R90). -/
def encFle (st : SStall) (d a b : XReg) : List Nat :=
  [603979776 + st.toNat * 8388608 + d.toNat * 131072 + a.toNat * 2048 + b.toNat * 32 + 9]

/-- FCVTSW (R88). -/
def encFcvtsw (st : SStall) (d a : XReg) : List Nat :=
  [603979776 + st.toNat * 8388608 + d.toNat * 131072 + a.toNat * 2048 + 10]

/-- FCVTWS (R88). -/
def encFcvtws (st : SStall) (d a : XReg) : List Nat :=
  [603979776 + st.toNat * 8388608 + d.toNat * 131072 + a.toNat * 2048 + 11]

/-- FCVTBS (R88). -/
def encFcvtbs (st : SStall) (d a : XReg) : List Nat :=
  [603979776 + st.toNat * 8388608 + d.toNat * 131072 + a.toNat * 2048 + 12]

/-- FCVTSB (R88). -/
def encFcvtsb (st : SStall) (d a : XReg) : List Nat :=
  [603979776 + st.toNat * 8388608 + d.toNat * 131072 + a.toNat * 2048 + 13]

/-- FMA (R91). -/
def encFma (st : SStall) (d a b : XReg) : List Nat :=
  [671088640 + st.toNat * 8388608 + d.toNat * 131072 + a.toNat * 2048 + b.toNat * 32]

/-- FMS (R91). -/
def encFms (st : SStall) (d a b : XReg) : List Nat :=
  [671088640 + st.toNat * 8388608 + d.toNat * 131072 + a.toNat * 2048 + b.toNat * 32 + 1]

/-- FNMA (R91). -/
def encFnma (st : SStall) (d a b : XReg) : List Nat :=
  [671088640 + st.toNat * 8388608 + d.toNat * 131072 + a.toNat * 2048 + b.toNat * 32 + 2]

/-- BEQ (R85). -/
def encBeq (st : SStall) (a b : XReg) (off : BitVec 11) : List Nat :=
  [738197504 + st.toNat * 8388608 + a.toNat * 131072 + b.toNat * 2048 + off.toNat]

/-- BNE (R85). -/
def encBne (st : SStall) (a b : XReg) (off : BitVec 11) : List Nat :=
  [805306368 + st.toNat * 8388608 + a.toNat * 131072 + b.toNat * 2048 + off.toNat]

/-- BLT (R85). -/
def encBlt (st : SStall) (a b : XReg) (off : BitVec 11) : List Nat :=
  [872415232 + st.toNat * 8388608 + a.toNat * 131072 + b.toNat * 2048 + off.toNat]

/-- BGE (R85). -/
def encBge (st : SStall) (a b : XReg) (off : BitVec 11) : List Nat :=
  [939524096 + st.toNat * 8388608 + a.toNat * 131072 + b.toNat * 2048 + off.toNat]

/-- BLTU (R85). -/
def encBltu (st : SStall) (a b : XReg) (off : BitVec 11) : List Nat :=
  [1006632960 + st.toNat * 8388608 + a.toNat * 131072 + b.toNat * 2048 + off.toNat]

/-- BGEU (R85). -/
def encBgeu (st : SStall) (a b : XReg) (off : BitVec 11) : List Nat :=
  [1073741824 + st.toNat * 8388608 + a.toNat * 131072 + b.toNat * 2048 + off.toNat]

/-- JAL (R86). -/
def encJal (st : SStall) (d : XReg) (off : BitVec 17) : List Nat :=
  [1140850688 + st.toNat * 8388608 + d.toNat * 131072 + off.toNat]

/-- JALR (R86). -/
def encJalr (st : SStall) (d a : XReg) (imm : BitVec 11) : List Nat :=
  [1207959552 + st.toNat * 8388608 + d.toNat * 131072 + a.toNat * 2048 + imm.toNat]

/-- LDB (R94). -/
def encLdb (st : SStall) (d : XReg) (t : TReg) (o : XReg) (imm : BitVec 6) : List Nat :=
  [1275068416 + st.toNat * 8388608 + d.toNat * 131072 + t.toNat * 4096 + o.toNat * 64 + imm.toNat]

/-- LDH (R94). -/
def encLdh (st : SStall) (d : XReg) (t : TReg) (o : XReg) (imm : BitVec 6) : List Nat :=
  [1342177280 + st.toNat * 8388608 + d.toNat * 131072 + t.toNat * 4096 + o.toNat * 64 + imm.toNat]

/-- LDW (R94). -/
def encLdw (st : SStall) (d : XReg) (t : TReg) (o : XReg) (imm : BitVec 6) : List Nat :=
  [1409286144 + st.toNat * 8388608 + d.toNat * 131072 + t.toNat * 4096 + o.toNat * 64 + imm.toNat]

/-- LDD (R94). -/
def encLdd (st : SStall) (d : XReg) (t : TReg) (o : XReg) (imm : BitVec 6) : List Nat :=
  [1476395008 + st.toNat * 8388608 + d.toNat * 131072 + t.toNat * 4096 + o.toNat * 64 + imm.toNat]

/-- STB (R94). -/
def encStb (st : SStall) (d : XReg) (t : TReg) (o : XReg) (imm : BitVec 6) : List Nat :=
  [1543503872 + st.toNat * 8388608 + d.toNat * 131072 + t.toNat * 4096 + o.toNat * 64 + imm.toNat]

/-- STH (R94). -/
def encSth (st : SStall) (d : XReg) (t : TReg) (o : XReg) (imm : BitVec 6) : List Nat :=
  [1610612736 + st.toNat * 8388608 + d.toNat * 131072 + t.toNat * 4096 + o.toNat * 64 + imm.toNat]

/-- STW (R94). -/
def encStw (st : SStall) (d : XReg) (t : TReg) (o : XReg) (imm : BitVec 6) : List Nat :=
  [1677721600 + st.toNat * 8388608 + d.toNat * 131072 + t.toNat * 4096 + o.toNat * 64 + imm.toNat]

/-- STD (R94). -/
def encStd (st : SStall) (d : XReg) (t : TReg) (o : XReg) (imm : BitVec 6) : List Nat :=
  [1744830464 + st.toNat * 8388608 + d.toNat * 131072 + t.toNat * 4096 + o.toNat * 64 + imm.toNat]

/-- AMO (R97). -/
def encAmo (st : SStall) (d : XReg) (t : TReg) (o : XReg) (f : AmoOp) (dw : Bool) (sc : Scope) : List Nat :=
  [1811939328 + st.toNat * 8388608 + d.toNat * 131072 + t.toNat * 4096 + o.toNat * 64 + f.code * 8 + dw.toNat * 4 + sc.code]

/-- CAS (R98). -/
def encCas (st : SStall) (d : XReg) (t : TReg) (o : XReg) (imm : BitVec 6) : List Nat :=
  [1879048192 + st.toNat * 8388608 + d.toNat * 131072 + t.toNat * 4096 + o.toNat * 64 + imm.toNat]

/-- LDS (R101). -/
def encLds (st : SStall) (d a : XReg) (imm : BitVec 11) : List Nat :=
  [1946157056 + st.toNat * 8388608 + d.toNat * 131072 + a.toNat * 2048 + imm.toNat]

/-- STS (R101). -/
def encSts (st : SStall) (d a : XReg) (imm : BitVec 11) : List Nat :=
  [2013265920 + st.toNat * 8388608 + d.toNat * 131072 + a.toNat * 2048 + imm.toNat]

/-- SPS (R102). -/
def encSps (st : SStall) (d : XReg) (slot : BitVec 10) : List Nat :=
  [2080374784 + st.toNat * 8388608 + d.toNat * 131072 + slot.toNat]

/-- SPL (R102). -/
def encSpl (st : SStall) (d : XReg) (slot : BitVec 10) : List Nat :=
  [2147483648 + st.toNat * 8388608 + d.toNat * 131072 + slot.toNat]

/-- XLAT (R103). -/
def encXlat (st : SStall) (t : TReg) (a b : XReg) (r w : Bool) : List Nat :=
  [2214592512 + st.toNat * 8388608 + t.toNat * 262144 + a.toNat * 4096 + b.toNat * 64 + r.toNat + w.toNat * 2]

/-- XLATQ (R106). -/
def encXlatq (st : SStall) (t : TReg) (a b : XReg) (r w : Bool) : List Nat :=
  [2281701376 + st.toNat * 8388608 + t.toNat * 262144 + a.toNat * 4096 + b.toNat * 64 + r.toNat + w.toNat * 2]

/-- TREL (R108). -/
def encTrel (st : SStall) (t : TReg) : List Nat :=
  [2348810240 + st.toNat * 8388608 + t.toNat * 262144]

/-- TMOV (R108). -/
def encTmov (st : SStall) (t u : TReg) : List Nat :=
  [2348810240 + st.toNat * 8388608 + t.toNat * 262144 + u.toNat * 8192 + 1]

/-- TSUB (R109). -/
def encTsub (st : SStall) (t u : TReg) (a : XReg) : List Nat :=
  [2348810240 + st.toNat * 8388608 + t.toNat * 262144 + u.toNat * 8192 + a.toNat * 128 + 2]

/-- TINFO (R110). -/
def encTinfo (st : SStall) (u : TReg) (a : XReg) : List Nat :=
  [2348810240 + st.toNat * 8388608 + u.toNat * 8192 + a.toNat * 128 + 3]

/-- TCHK (R111). -/
def encTchk (st : SStall) (u : TReg) (a : XReg) : List Nat :=
  [2348810240 + st.toNat * 8388608 + u.toNat * 8192 + a.toNat * 128 + 4]

/-- LOOK (R114). -/
def encLook (st : SStall) (d a : XReg) : List Nat :=
  [2415919104 + st.toNat * 8388608 + d.toNat * 131072 + a.toNat * 2048]

/-- DTAG (R115). -/
def encDtag (st : SStall) (a b : XReg) : List Nat :=
  [2483027968 + st.toNat * 8388608 + a.toNat * 2048 + b.toNat * 32]

/-- FORK (R189). -/
def encFork (st : SStall) (a : XReg) : List Nat :=
  [2550136832 + st.toNat * 8388608 + a.toNat * 2048]

/-- RDV (R193). -/
def encRdv (st : SStall) : List Nat :=
  [2617245696 + st.toNat * 8388608]

/-- SEND (R195). -/
def encSend (st : SStall) (a b : XReg) (m : BitVec 4) : List Nat :=
  [2684354560 + st.toNat * 8388608 + a.toNat * 2048 + b.toNat * 32 + m.toNat]

/-- VFENCE (R194). -/
def encVfence (st : SStall) : List Nat :=
  [2751463424 + st.toNat * 8388608]

/-- RAPP (R196). -/
def encRapp (st : SStall) (a : XReg) (r : RingSel) : List Nat :=
  [2818572288 + st.toNat * 8388608 + a.toNat * 2048 + r.code]

/-- RAPP_PAIR (R196). -/
def encRappPair (st : SStall) (a b : XReg) (r : RingSel) : List Nat :=
  [2818572288 + st.toNat * 8388608 + a.toNat * 2048 + b.toNat * 32 + r.code + 4]

/-- POST (R198). -/
def encPost (st : SStall) (n : SemId) : List Nat :=
  [2885681152 + st.toNat * 8388608 + n.toNat]

/-- WAITS (R198). -/
def encWaits (st : SStall) (n : SemId) : List Nat :=
  [2952790016 + st.toNat * 8388608 + n.toNat]

/-- MARK (R199). -/
def encMark (st : SStall) (sc : Scope) : List Nat :=
  [3019898880 + st.toNat * 8388608 + sc.code]

/-- FENCE (R200). -/
def encFence (st : SStall) (k : FenceKind) (sc : Scope) : List Nat :=
  [3087007744 + st.toNat * 8388608 + k.code * 4 + sc.code]

/-- BAR (R201). -/
def encBar (st : SStall) (n : BarId) : List Nat :=
  [3154116608 + st.toNat * 8388608 + n.toNat]

/-- SACQ (R202). -/
def encSacq (st : SStall) (d : XReg) (n : RingId) : List Nat :=
  [3221225472 + st.toNat * 8388608 + d.toNat * 131072 + n.toNat * 2048]

/-- SCOMMIT (R202). -/
def encScommit (st : SStall) (n : RingId) : List Nat :=
  [3221225472 + st.toNat * 8388608 + n.toNat * 2048 + 1]

/-- SAWAIT (R202). -/
def encSawait (st : SStall) (d : XReg) (n : RingId) : List Nat :=
  [3221225472 + st.toNat * 8388608 + d.toNat * 131072 + n.toNat * 2048 + 2]

/-- SREL (R202). -/
def encSrel (st : SStall) (n : RingId) : List Nat :=
  [3221225472 + st.toNat * 8388608 + n.toNat * 2048 + 3]

/-- JLAUNCH (R203). -/
def encJlaunch (st : SStall) (d a : XReg) : List Nat :=
  [3288334336 + st.toNat * 8388608 + d.toNat * 131072 + a.toNat * 2048]

/-- FLUSHH (R204). -/
def encFlushh (st : SStall) (t : TReg) (a b : XReg) : List Nat :=
  [3355443200 + st.toNat * 8388608 + t.toNat * 262144 + a.toNat * 4096 + b.toNat * 64]

/-- INVH (R204). -/
def encInvh (st : SStall) (t : TReg) (a b : XReg) : List Nat :=
  [3422552064 + st.toNat * 8388608 + t.toNat * 262144 + a.toNat * 4096 + b.toNat * 64]

/-- SKIPR (R205). -/
def encSkipr (st : SStall) (d a b : XReg) : List Nat :=
  [3489660928 + st.toNat * 8388608 + d.toNat * 131072 + a.toNat * 2048 + b.toNat * 32]

/-- SKIPW (R205). -/
def encSkipw (st : SStall) (d a b : XReg) : List Nat :=
  [3489660928 + st.toNat * 8388608 + d.toNat * 131072 + a.toNat * 2048 + b.toNat * 32 + 1]

/-- CSRR (R206). -/
def encCsrr (st : SStall) (d : XReg) (c : BitVec 11) : List Nat :=
  [3556769792 + st.toNat * 8388608 + d.toNat * 131072 + c.toNat]

/-- CSRW (R206). -/
def encCsrw (st : SStall) (d a : XReg) (c : BitVec 11) : List Nat :=
  [3623878656 + st.toNat * 8388608 + d.toNat * 131072 + a.toNat * 2048 + c.toNat]

/-- CSRS (R206). -/
def encCsrs (st : SStall) (d a : XReg) (c : BitVec 11) : List Nat :=
  [3690987520 + st.toNat * 8388608 + d.toNat * 131072 + a.toNat * 2048 + c.toNat]

/-- CSRC (R206). -/
def encCsrc (st : SStall) (d a : XReg) (c : BitVec 11) : List Nat :=
  [3758096384 + st.toNat * 8388608 + d.toNat * 131072 + a.toNat * 2048 + c.toNat]

/-- TRAP (R214). -/
def encTrap (st : SStall) (code : BitVec 8) : List Nat :=
  [3825205248 + st.toNat * 8388608 + code.toNat * 8 + 1]

/-- ERET (R210). -/
def encEret (st : SStall) : List Nat :=
  [3825205248 + st.toNat * 8388608 + 2]

/-- HALT (R214). -/
def encHalt (st : SStall) : List Nat :=
  [3825205248 + st.toNat * 8388608 + 3]

/-- WFI (R214). -/
def encWfi (st : SStall) : List Nat :=
  [3825205248 + st.toNat * 8388608 + 4]

/-- BKPT (R214). -/
def encBkpt (st : SStall) : List Nat :=
  [3825205248 + st.toNat * 8388608 + 5]

/-- VADD (R120). -/
def encVadd (et : ETy) (st : VStall) (g : PReg) (d a b : VReg) (sat : Bool) : List Nat :=
  [et.code * 8388608 + st.toNat * 2097152 + g.toNat * 65536 + d.toNat * 2048 + a.toNat * 64 + b.toNat * 2 + sat.toNat]

/-- VSUB (R120). -/
def encVsub (et : ETy) (st : VStall) (g : PReg) (d a b : VReg) (sat : Bool) : List Nat :=
  [67108864 + et.code * 8388608 + st.toNat * 2097152 + g.toNat * 65536 + d.toNat * 2048 + a.toNat * 64 + b.toNat * 2 + sat.toNat]

/-- VMUL (R120). -/
def encVmul (et : ETy) (st : VStall) (g : PReg) (d a b : VReg) (sat : Bool) : List Nat :=
  [134217728 + et.code * 8388608 + st.toNat * 2097152 + g.toNat * 65536 + d.toNat * 2048 + a.toNat * 64 + b.toNat * 2 + sat.toNat]

/-- VFMA (R120). -/
def encVfma (et : ETy) (st : VStall) (g : PReg) (d a b : VReg) (sat : Bool) : List Nat :=
  [201326592 + et.code * 8388608 + st.toNat * 2097152 + g.toNat * 65536 + d.toNat * 2048 + a.toNat * 64 + b.toNat * 2 + sat.toNat]

/-- VMIN (R120). -/
def encVmin (et : ETy) (st : VStall) (g : PReg) (d a b : VReg) (uns : Bool) : List Nat :=
  [268435456 + et.code * 8388608 + st.toNat * 2097152 + g.toNat * 65536 + d.toNat * 2048 + a.toNat * 64 + b.toNat * 2 + uns.toNat]

/-- VMAX (R120). -/
def encVmax (et : ETy) (st : VStall) (g : PReg) (d a b : VReg) (uns : Bool) : List Nat :=
  [335544320 + et.code * 8388608 + st.toNat * 2097152 + g.toNat * 65536 + d.toNat * 2048 + a.toNat * 64 + b.toNat * 2 + uns.toNat]

/-- VABS (R120). -/
def encVabs (et : ETy) (st : VStall) (g : PReg) (d a : VReg) (sat : Bool) : List Nat :=
  [402653184 + et.code * 8388608 + st.toNat * 2097152 + g.toNat * 65536 + d.toNat * 2048 + a.toNat * 64 + sat.toNat]

/-- VNEG (R120). -/
def encVneg (et : ETy) (st : VStall) (g : PReg) (d a : VReg) (sat : Bool) : List Nat :=
  [469762048 + et.code * 8388608 + st.toNat * 2097152 + g.toNat * 65536 + d.toNat * 2048 + a.toNat * 64 + sat.toNat]

/-- VAND (R123). -/
def encVand (et : ETy) (st : VStall) (g : PReg) (d a b : VReg) : List Nat :=
  [536870912 + et.code * 8388608 + st.toNat * 2097152 + g.toNat * 65536 + d.toNat * 2048 + a.toNat * 64 + b.toNat * 2]

/-- VOR (R123). -/
def encVor (et : ETy) (st : VStall) (g : PReg) (d a b : VReg) : List Nat :=
  [603979776 + et.code * 8388608 + st.toNat * 2097152 + g.toNat * 65536 + d.toNat * 2048 + a.toNat * 64 + b.toNat * 2]

/-- VXOR (R123). -/
def encVxor (et : ETy) (st : VStall) (g : PReg) (d a b : VReg) : List Nat :=
  [671088640 + et.code * 8388608 + st.toNat * 2097152 + g.toNat * 65536 + d.toNat * 2048 + a.toNat * 64 + b.toNat * 2]

/-- VSHL (R123). -/
def encVshl (et : ETy) (st : VStall) (g : PReg) (d a b : VReg) : List Nat :=
  [738197504 + et.code * 8388608 + st.toNat * 2097152 + g.toNat * 65536 + d.toNat * 2048 + a.toNat * 64 + b.toNat * 2]

/-- VSHR (R123). -/
def encVshr (et : ETy) (st : VStall) (g : PReg) (d a b : VReg) (uns : Bool) : List Nat :=
  [805306368 + et.code * 8388608 + st.toNat * 2097152 + g.toNat * 65536 + d.toNat * 2048 + a.toNat * 64 + b.toNat * 2 + uns.toNat]

/-- VCMP (R124). -/
def encVcmp (et : ETy) (st : VStall) (p : PReg) (k : CmpKind) (a b : VReg) (uns : Bool) : List Nat :=
  [872415232 + et.code * 8388608 + st.toNat * 2097152 + p.toNat * 65536 + k.code * 2048 + a.toNat * 64 + b.toNat * 2 + uns.toNat]

/-- VSEL (R125). -/
def encVsel (et : ETy) (st : VStall) (p : PReg) (d a b : VReg) : List Nat :=
  [939524096 + et.code * 8388608 + st.toNat * 2097152 + p.toNat * 65536 + d.toNat * 2048 + a.toNat * 64 + b.toNat * 2]

/-- VMOV (R125). -/
def encVmov (et : ETy) (st : VStall) (g : PReg) (d a : VReg) : List Nat :=
  [1006632960 + et.code * 8388608 + st.toNat * 2097152 + g.toNat * 65536 + d.toNat * 2048 + a.toNat * 64]

/-- VEXP2 (R126). -/
def encVexp2 (et : ETy) (st : VStall) (g : PReg) (d a : VReg) : List Nat :=
  [1073741824 + et.code * 8388608 + st.toNat * 2097152 + g.toNat * 65536 + d.toNat * 2048 + a.toNat * 64]

/-- VLOG2 (R126). -/
def encVlog2 (et : ETy) (st : VStall) (g : PReg) (d a : VReg) : List Nat :=
  [1140850688 + et.code * 8388608 + st.toNat * 2097152 + g.toNat * 65536 + d.toNat * 2048 + a.toNat * 64]

/-- VRCP (R126). -/
def encVrcp (et : ETy) (st : VStall) (g : PReg) (d a : VReg) : List Nat :=
  [1207959552 + et.code * 8388608 + st.toNat * 2097152 + g.toNat * 65536 + d.toNat * 2048 + a.toNat * 64]

/-- VRSQ (R126). -/
def encVrsq (et : ETy) (st : VStall) (g : PReg) (d a : VReg) : List Nat :=
  [1275068416 + et.code * 8388608 + st.toNat * 2097152 + g.toNat * 65536 + d.toNat * 2048 + a.toNat * 64]

/-- VTANH (R126). -/
def encVtanh (et : ETy) (st : VStall) (g : PReg) (d a : VReg) : List Nat :=
  [1342177280 + et.code * 8388608 + st.toNat * 2097152 + g.toNat * 65536 + d.toNat * 2048 + a.toNat * 64]

/-- VERF (R126). -/
def encVerf (et : ETy) (st : VStall) (g : PReg) (d a : VReg) : List Nat :=
  [1409286144 + et.code * 8388608 + st.toNat * 2097152 + g.toNat * 65536 + d.toNat * 2048 + a.toNat * 64]

/-- VCVT (R128). -/
def encVcvt (et : ETy) (st : VStall) (g : PReg) (d a : VReg) (y : ETy) (r : Round) (sat : Bool) : List Nat :=
  [1476395008 + et.code * 8388608 + st.toNat * 2097152 + g.toNat * 65536 + d.toNat * 2048 + a.toNat * 64 + y.code * 8 + r.code * 2 + sat.toNat]

/-- VWID (R129). -/
def encVwid (et : ETy) (st : VStall) (g : PReg) (d a : VReg) (y : ETy) (uns : Bool) : List Nat :=
  [1543503872 + et.code * 8388608 + st.toNat * 2097152 + g.toNat * 65536 + d.toNat * 2048 + a.toNat * 64 + y.code * 8 + uns.toNat]

/-- VNAR (R130). -/
def encVnar (et : ETy) (st : VStall) (g : PReg) (d a : VReg) (y : ETy) (r : Round) (sat : Bool) : List Nat :=
  [1610612736 + et.code * 8388608 + st.toNat * 2097152 + g.toNat * 65536 + d.toNat * 2048 + a.toNat * 64 + y.code * 8 + r.code * 2 + sat.toNat]

/-- VPERM (R132). -/
def encVperm (et : ETy) (st : VStall) (g : PReg) (d a b : VReg) : List Nat :=
  [1677721600 + et.code * 8388608 + st.toNat * 2097152 + g.toNat * 65536 + d.toNat * 2048 + a.toNat * 64 + b.toNat * 2]

/-- VZIP (R133). -/
def encVzip (et : ETy) (st : VStall) (g : PReg) (d a b : VReg) : List Nat :=
  [1744830464 + et.code * 8388608 + st.toNat * 2097152 + g.toNat * 65536 + d.toNat * 2048 + a.toNat * 64 + b.toNat * 2]

/-- VUNZ (R133). -/
def encVunz (et : ETy) (st : VStall) (g : PReg) (d a b : VReg) : List Nat :=
  [1811939328 + et.code * 8388608 + st.toNat * 2097152 + g.toNat * 65536 + d.toNat * 2048 + a.toNat * 64 + b.toNat * 2]

/-- VRED (R134). -/
def encVred (et : ETy) (st : VStall) (g : PReg) (d a : VReg) (f : RedFn) (uns : Bool) : List Nat :=
  [1879048192 + et.code * 8388608 + st.toNat * 2097152 + g.toNat * 65536 + d.toNat * 2048 + a.toNat * 64 + f.code * 2 + uns.toNat]

/-- VSCAN (R135). -/
def encVscan (et : ETy) (st : VStall) (g : PReg) (d a : VReg) (f : RedFn) (uns : Bool) : List Nat :=
  [1946157056 + et.code * 8388608 + st.toNat * 2097152 + g.toNat * 65536 + d.toNat * 2048 + a.toNat * 64 + f.code * 2 + uns.toNat]

/-- VIOTA (R136). -/
def encViota (et : ETy) (st : VStall) (g : PReg) (d : VReg) : List Nat :=
  [2013265920 + et.code * 8388608 + st.toNat * 2097152 + g.toNat * 65536 + d.toNat * 2048]

/-- VBCAST (R136). -/
def encVbcast (et : ETy) (st : VStall) (g : PReg) (d : VReg) (b : AReg) : List Nat :=
  [2080374784 + et.code * 8388608 + st.toNat * 2097152 + g.toNat * 65536 + d.toNat * 2048 + b.toNat * 2]

/-- VADDI (R137). -/
def encVaddi (et : ETy) (st : VStall) (d : VReg) (imm : BitVec 16) : List Nat :=
  [2147483648 + et.code * 8388608 + st.toNat * 2097152 + d.toNat * 65536 + imm.toNat]

/-- VMULI (R137). -/
def encVmuli (et : ETy) (st : VStall) (d : VReg) (imm : BitVec 16) : List Nat :=
  [2214592512 + et.code * 8388608 + st.toNat * 2097152 + d.toNat * 65536 + imm.toNat]

/-- VMAXI (R137). -/
def encVmaxi (et : ETy) (st : VStall) (d : VReg) (imm : BitVec 16) : List Nat :=
  [2281701376 + et.code * 8388608 + st.toNat * 2097152 + d.toNat * 65536 + imm.toNat]

/-- VMINI (R137). -/
def encVmini (et : ETy) (st : VStall) (d : VReg) (imm : BitVec 16) : List Nat :=
  [2348810240 + et.code * 8388608 + st.toNat * 2097152 + d.toNat * 65536 + imm.toNat]

/-- VMOVI (R137). -/
def encVmovi (et : ETy) (st : VStall) (d : VReg) (imm : BitVec 16) : List Nat :=
  [2415919104 + et.code * 8388608 + st.toNat * 2097152 + d.toNat * 65536 + imm.toNat]

/-- VANDI (R137). -/
def encVandi (et : ETy) (st : VStall) (d : VReg) (imm : BitVec 16) : List Nat :=
  [2483027968 + et.code * 8388608 + st.toNat * 2097152 + d.toNat * 65536 + imm.toNat]

/-- VSHLI (R137). -/
def encVshli (et : ETy) (st : VStall) (d : VReg) (imm : BitVec 16) : List Nat :=
  [2550136832 + et.code * 8388608 + st.toNat * 2097152 + d.toNat * 65536 + imm.toNat]

/-- VSUBI (R137). -/
def encVsubi (et : ETy) (st : VStall) (d : VReg) (imm : BitVec 16) : List Nat :=
  [2617245696 + et.code * 8388608 + st.toNat * 2097152 + d.toNat * 65536 + imm.toNat]

/-- VLD (R139). -/
def encVld (et : ETy) (st : VStall) (g : PReg) (d : VReg) (t : TReg) (o : AReg) (gauge raw : Bool) : List Nat :=
  [2684354560 + et.code * 8388608 + st.toNat * 2097152 + g.toNat * 65536 + d.toNat * 2048 + t.toNat * 64 + o.toNat * 4 + gauge.toNat * 2 + raw.toNat]

/-- VST (R140). -/
def encVst (et : ETy) (st : VStall) (g : PReg) (d : VReg) (t : TReg) (o : AReg) (raw : Bool) : List Nat :=
  [2751463424 + et.code * 8388608 + st.toNat * 2097152 + g.toNat * 65536 + d.toNat * 2048 + t.toNat * 64 + o.toNat * 4 + raw.toNat]

/-- VLDS (R142). -/
def encVlds (et : ETy) (st : VStall) (g : PReg) (d : VReg) (b : AReg) (imm : BitVec 7) : List Nat :=
  [2818572288 + et.code * 8388608 + st.toNat * 2097152 + g.toNat * 65536 + d.toNat * 2048 + b.toNat * 128 + imm.toNat]

/-- VSTS (R142). -/
def encVsts (et : ETy) (st : VStall) (g : PReg) (d : VReg) (b : AReg) (imm : BitVec 7) : List Nat :=
  [2885681152 + et.code * 8388608 + st.toNat * 2097152 + g.toNat * 65536 + d.toNat * 2048 + b.toNat * 128 + imm.toNat]

/-- VGATH (R143). -/
def encVgath (et : ETy) (st : VStall) (g : PReg) (d : VReg) (t : TReg) (b : VReg) (elems : Bool) : List Nat :=
  [2952790016 + et.code * 8388608 + st.toNat * 2097152 + g.toNat * 65536 + d.toNat * 2048 + t.toNat * 64 + b.toNat * 2 + elems.toNat]

/-- VSCAT (R143). -/
def encVscat (et : ETy) (st : VStall) (g : PReg) (d : VReg) (t : TReg) (b : VReg) (elems : Bool) : List Nat :=
  [3019898880 + et.code * 8388608 + st.toNat * 2097152 + g.toNat * 65536 + d.toNat * 2048 + t.toNat * 64 + b.toNat * 2 + elems.toNat]

/-- VSLOT_ACQ (R145). -/
def encVslotAcq (st : VStall) (d : AReg) (n : RingId) : List Nat :=
  [3087007744 + st.toNat * 2097152 + d.toNat * 2048 + n.toNat * 64]

/-- VSLOT_COMMIT (R145). -/
def encVslotCommit (st : VStall) (n : RingId) : List Nat :=
  [3087007744 + st.toNat * 2097152 + n.toNat * 64 + 2]

/-- VSLOT_AWAIT (R145). -/
def encVslotAwait (st : VStall) (d : AReg) (n : RingId) : List Nat :=
  [3087007744 + st.toNat * 2097152 + d.toNat * 2048 + n.toNat * 64 + 4]

/-- VSLOT_REL (R145). -/
def encVslotRel (st : VStall) (n : RingId) : List Nat :=
  [3087007744 + st.toNat * 2097152 + n.toNat * 64 + 6]

/-- VSETF_SETFMT (R146). -/
def encVsetfSetfmt (st : VStall) (k : BitVec 4) : List Nat :=
  [3154116608 + st.toNat * 2097152 + k.toNat]

/-- VSETF_SELPAT (R146). -/
def encVsetfSelpat (st : VStall) (en : Bool) (k : BitVec 3) : List Nat :=
  [3154116608 + st.toNat * 2097152 + 65536 + en.toNat * 8 + k.toNat]

/-- VSETF_LDPAT (R146). -/
def encVsetfLdpat (st : VStall) (h : AReg) (k : BitVec 3) : List Nat :=
  [3154116608 + st.toNat * 2097152 + 131072 + h.toNat * 256 + k.toNat]

/-- PAND (R147). -/
def encPand (st : VStall) (d a b : PReg) : List Nat :=
  [3221225472 + st.toNat * 2097152 + d.toNat * 2048 + a.toNat * 64 + b.toNat * 2]

/-- POR (R147). -/
def encPor (st : VStall) (d a b : PReg) : List Nat :=
  [3288334336 + st.toNat * 2097152 + d.toNat * 2048 + a.toNat * 64 + b.toNat * 2]

/-- PXOR (R147). -/
def encPxor (st : VStall) (d a b : PReg) : List Nat :=
  [3355443200 + st.toNat * 2097152 + d.toNat * 2048 + a.toNat * 64 + b.toNat * 2]

/-- PNOT (R147). -/
def encPnot (st : VStall) (d a : PReg) : List Nat :=
  [3422552064 + st.toNat * 2097152 + d.toNat * 2048 + a.toNat * 64]

/-- PCNT (R147). -/
def encPcnt (et : ETy) (st : VStall) (d : AReg) (a : PReg) : List Nat :=
  [3489660928 + et.code * 8388608 + st.toNat * 2097152 + d.toNat * 2048 + a.toNat * 64]

/-- PFIRST (R147). -/
def encPfirst (et : ETy) (st : VStall) (d : AReg) (a : PReg) : List Nat :=
  [3556769792 + et.code * 8388608 + st.toNat * 2097152 + d.toNat * 2048 + a.toNat * 64]

/-- ARECV (R148). -/
def encArecv (st : VStall) (d : AReg) (m : BitVec 4) : List Nat :=
  [3623878656 + st.toNat * 2097152 + d.toNat * 65536 + m.toNat]

/-- AOP_IMM (R149). -/
def encAopImm (f : AopFn) (st : VStall) (d a : AReg) (imm : BitVec 12) : List Nat :=
  [3690987520 + f.code * 8388608 + st.toNat * 2097152 + d.toNat * 65536 + a.toNat * 4096 + imm.toNat]

/-- AOP_REG (R149). -/
def encAopReg (f : AopFn) (st : VStall) (d a b : AReg) : List Nat :=
  [3690987520 + f.code * 8388608 + st.toNat * 2097152 + 1048576 + d.toNat * 65536 + a.toNat * 4096 + b.toNat * 256]

/-- VPOST (R150). -/
def encVpost (st : VStall) (n : SemId) : List Nat :=
  [3758096384 + st.toNat * 2097152 + n.toNat]

/-- VWAIT (R150). -/
def encVwait (st : VStall) (n : SemId) : List Nat :=
  [3825205248 + st.toNat * 2097152 + n.toNat]

/-- VMARK (R150). -/
def encVmark (st : VStall) (sc : Scope) : List Nat :=
  [3892314112 + st.toNat * 2097152 + sc.code]

/-- VLOOP (R151). -/
def encVloop (st : VStall) (len : BitVec 5) (count : BitVec 16) : List Nat :=
  [3959422976 + st.toNat * 2097152 + len.toNat * 65536 + count.toNat]

/-- VEND (R78). -/
def encVend : List Nat :=
  [4026531840]

/-- MSYNC (R173). -/
def encMsync (ws ss : SemId) (e : Bool) : List Nat :=
  [ws.toNat * 2097152 + ss.toNat * 32768 + e.toNat * 8192, 0]

/-- MMA (R162). -/
def encMma (ws ss : SemId) (rl : Bool) (bank : BitVec 2) (z : Bool) (ar br : RingId) (t : Bool) (nslab : BitVec 8) (klast : BitVec 7) (afmt bfmt : BitVec 4) (et : ETy) (ua ub ck : Bool) : List Nat :=
  [134217728 + ws.toNat * 2097152 + ss.toNat * 32768 + rl.toNat * 16384 + bank.toNat * 4096 + z.toNat * 2048 + ar.toNat * 64 + br.toNat * 2 + t.toNat, nslab.toNat * 16777216 + klast.toNat * 131072 + afmt.toNat * 8192 + bfmt.toNat * 512 + et.code * 64 + ua.toNat * 32 + ub.toNat * 16 + ck.toNat]

/-- MMAP (R164). -/
def encMmap (ws ss : SemId) (bank : BitVec 2) (z : Bool) (ar br : RingId) (t : Bool) (nslab : BitVec 8) (klast : BitVec 7) (afmt bfmt : BitVec 4) (et : ETy) (ua ub ck : Bool) : List Nat :=
  [268435456 + ws.toNat * 2097152 + ss.toNat * 32768 + bank.toNat * 4096 + z.toNat * 2048 + ar.toNat * 64 + br.toNat * 2 + t.toNat, nslab.toNat * 16777216 + klast.toNat * 131072 + afmt.toNat * 8192 + bfmt.toNat * 512 + et.code * 64 + ua.toNat * 32 + ub.toNat * 16 + ck.toNat]

/-- MZERO (R167). -/
def encMzero (ws ss : SemId) (rl : Bool) (bank : BitVec 2) : List Nat :=
  [402653184 + ws.toNat * 2097152 + ss.toNat * 32768 + rl.toNat * 16384 + bank.toNat * 4096, 0]

/-- MDRAIN (R168). -/
def encMdrain (ws ss : SemId) (rl : Bool) (bank : BitVec 2) (ot : ETy) (r : Round) (sk sat : Bool) (scale : BitVec 16) (dest : BitVec 12) (xf : BitVec 4) : List Nat :=
  [536870912 + ws.toNat * 2097152 + ss.toNat * 32768 + rl.toNat * 16384 + bank.toNat * 4096 + ot.code * 512 + r.code * 128 + sk.toNat * 64 + sat.toNat * 32, scale.toNat * 65536 + dest.toNat * 16 + xf.toNat]

/-- MLDACC (R170). -/
def encMldacc (ws ss : SemId) (rl : Bool) (bank : BitVec 2) (it : ETy) (src : BitVec 12) (xf : BitVec 4) : List Nat :=
  [671088640 + ws.toNat * 2097152 + ss.toNat * 32768 + rl.toNat * 16384 + bank.toNat * 4096 + it.code * 512, src.toNat * 1048576 + xf.toNat]

/-- MFMT (R171). -/
def encMfmt (ws ss : SemId) (entry : BitVec 4) (src : BitVec 22) : List Nat :=
  [805306368 + ws.toNat * 2097152 + ss.toNat * 32768 + entry.toNat * 1024, src.toNat]

/-- MLOOP (R172). -/
def encMloop (len : BitVec 6) (count : BitVec 16) : List Nat :=
  [939524096 + len.toNat * 256, count.toNat]

/-- MCHK (R166). -/
def encMchk (ws ss : SemId) (bank : BitVec 2) (rep : BitVec 22) : List Nat :=
  [1073741824 + ws.toNat * 2097152 + ss.toNat * 32768 + bank.toNat * 4096, rep.toNat]

/-- CSYNC (R173). -/
def encCsync (ws ss : SemId) (e : Bool) : List Nat :=
  [ws.toNat * 2097152 + ss.toNat * 32768 + e.toNat * 8192, 0]

/-- COPY (R174). -/
def encCopy (ws ss : SemId) (rl out : Bool) (t : TReg) (g : Bool) (ring : RingId) (off : BitVec 32) (spa len : BitVec 13) (j : Bool) : List Nat :=
  [134217728 + ws.toNat * 2097152 + ss.toNat * 32768 + rl.toNat * 16384 + out.toNat * 8192 + t.toNat * 256 + g.toNat * 128 + ring.toNat * 4, off.toNat, spa.toNat * 524288 + len.toNat * 64 + j.toNat]

/-- COPYT (R176). -/
def encCopyt (ws ss : SemId) (rl : Bool) (tm : BitVec 6) (ed : BitVec 19) (sd : BitVec 13) : List Nat :=
  [268435456 + ws.toNat * 2097152 + ss.toNat * 32768 + rl.toNat * 16384 + tm.toNat * 256, ed.toNat * 8192 + sd.toNat]

/-- IMWIN (R178). -/
def encImwin (ws ss : SemId) (rl : Bool) (t : TReg) (off : BitVec 32) (spa : BitVec 13) (p : BitVec 10) (kw : BitVec 4) (sx : BitVec 2) (cg : BitVec 3) : List Nat :=
  [402653184 + ws.toNat * 2097152 + ss.toNat * 32768 + rl.toNat * 16384 + t.toNat * 512, off.toNat, spa.toNat * 524288 + p.toNat * 512 + kw.toNat * 32 + sx.toNat * 8 + cg.toNat]

/-- GATHER (R179). -/
def encGather (ws ss : SemId) (rl : Bool) (t : TReg) (count : BitVec 10) (idxa : BitVec 22) (spa row : BitVec 13) : List Nat :=
  [536870912 + ws.toNat * 2097152 + ss.toNat * 32768 + rl.toNat * 16384 + t.toNat * 512, count.toNat * 4194304 + idxa.toNat, spa.toNat * 524288 + row.toNat * 64]

/-- SCATTER (R179). -/
def encScatter (ws ss : SemId) (rl : Bool) (t : TReg) (count : BitVec 10) (idxa : BitVec 22) (spa row : BitVec 13) : List Nat :=
  [671088640 + ws.toNat * 2097152 + ss.toNat * 32768 + rl.toNat * 16384 + t.toNat * 512, count.toNat * 4194304 + idxa.toNat, spa.toNat * 524288 + row.toNat * 64]

/-- FILL (R180). -/
def encFill (ws ss : SemId) (rl : Bool) (w : BitVec 2) (value : BitVec 32) (spa len : BitVec 13) (g : Bool) (ring : RingId) : List Nat :=
  [805306368 + ws.toNat * 2097152 + ss.toNat * 32768 + rl.toNat * 16384 + w.toNat * 4096, value.toNat, spa.toNat * 524288 + len.toNat * 64 + g.toNat * 32 + ring.toNat]

/-- SKETCH (R181). -/
def encSketch (ws ss : SemId) (rl : Bool) (et : ETy) (src : BitVec 12) (logn : BitVec 4) (dst : BitVec 16) : List Nat :=
  [939524096 + ws.toNat * 2097152 + ss.toNat * 32768 + rl.toNat * 16384 + et.code * 2048, src.toNat * 1048576 + logn.toNat * 65536 + dst.toNat]

/-- PCOPY (R182). -/
def encPcopy (ws ss : SemId) (out : Bool) (rank : BitVec 4) (sib len own : BitVec 13) : List Nat :=
  [1073741824 + ws.toNat * 2097152 + ss.toNat * 32768 + out.toNat * 8192 + rank.toNat * 512, sib.toNat * 524288 + len.toNat * 64, own.toNat * 524288]

/-- DVOPEN (R183). -/
def encDvopen (ws ss : SemId) (ch : BitVec 12) (dev : BitVec 22) (win : BitVec 16) : List Nat :=
  [1476395008 + ws.toNat * 2097152 + ss.toNat * 32768 + ch.toNat, dev.toNat, win.toNat]

/-- DVW (R183). -/
def encDvw (ws ss : SemId) (ch : BitVec 12) (woff : BitVec 32) (spa len : BitVec 13) : List Nat :=
  [1207959552 + ws.toNat * 2097152 + ss.toNat * 32768 + ch.toNat, woff.toNat, spa.toNat * 524288 + len.toNat * 64]

/-- DVREL (R183). -/
def encDvrel (ws ss : SemId) (ch : BitVec 12) (woff flag : BitVec 32) : List Nat :=
  [1342177280 + ws.toNat * 2097152 + ss.toNat * 32768 + ch.toNat, woff.toNat, flag.toNat]

/-- DVSHUT (R183). -/
def encDvshut (ws ss : SemId) (ch : BitVec 12) : List Nat :=
  [1610612736 + ws.toNat * 2097152 + ss.toNat * 32768 + ch.toNat, 0]

/-- CLOOP (R172). -/
def encCloop (len : BitVec 6) (count : BitVec 16) : List Nat :=
  [1744830464 + len.toNat * 256, count.toNat]

/-- CFLUSH (R184). -/
def encCflush (ws ss : SemId) (t : TReg) (inv : Bool) (off len : BitVec 32) : List Nat :=
  [1879048192 + ws.toNat * 2097152 + ss.toNat * 32768 + t.toNat * 512 + inv.toNat * 256, off.toNat, len.toNat]

/-- The words of an instruction, from the encoding tables (R54-R70, R160-R184); an event has none. -/
def encode : Instr → List Nat
  | .add st d a b => encAdd st d a b
  | .sub st d a b => encSub st d a b
  | .and st d a b => encAnd st d a b
  | .or st d a b => encOr st d a b
  | .xor st d a b => encXor st d a b
  | .sll st d a b => encSll st d a b
  | .srl st d a b => encSrl st d a b
  | .sra st d a b => encSra st d a b
  | .slt st d a b => encSlt st d a b
  | .sltu st d a b => encSltu st d a b
  | .seq st d a b => encSeq st d a b
  | .min st d a b => encMin st d a b
  | .max st d a b => encMax st d a b
  | .minu st d a b => encMinu st d a b
  | .maxu st d a b => encMaxu st d a b
  | .mul st d a b => encMul st d a b
  | .mulh st d a b => encMulh st d a b
  | .mulhu st d a b => encMulhu st d a b
  | .div st d a b => encDiv st d a b
  | .divu st d a b => encDivu st d a b
  | .rem st d a b => encRem st d a b
  | .remu st d a b => encRemu st d a b
  | .clz st d a => encClz st d a
  | .popc st d a => encPopc st d a
  | .addi st d a imm => encAddi st d a imm
  | .andi st d a imm => encAndi st d a imm
  | .ori st d a imm => encOri st d a imm
  | .xori st d a imm => encXori st d a imm
  | .slli st d a sh => encSlli st d a sh
  | .srli st d a sh => encSrli st d a sh
  | .srai st d a sh => encSrai st d a sh
  | .slti st d a imm => encSlti st d a imm
  | .li st d imm => encLi st d imm
  | .lis st d imm => encLis st d imm
  | .fadd st d a b => encFadd st d a b
  | .fsub st d a b => encFsub st d a b
  | .fmul st d a b => encFmul st d a b
  | .fdiv st d a b => encFdiv st d a b
  | .fmin st d a b => encFmin st d a b
  | .fmax st d a b => encFmax st d a b
  | .fsqrt st d a => encFsqrt st d a
  | .feq st d a b => encFeq st d a b
  | .flt st d a b => encFlt st d a b
  | .fle st d a b => encFle st d a b
  | .fcvtsw st d a => encFcvtsw st d a
  | .fcvtws st d a => encFcvtws st d a
  | .fcvtbs st d a => encFcvtbs st d a
  | .fcvtsb st d a => encFcvtsb st d a
  | .fma st d a b => encFma st d a b
  | .fms st d a b => encFms st d a b
  | .fnma st d a b => encFnma st d a b
  | .beq st a b off => encBeq st a b off
  | .bne st a b off => encBne st a b off
  | .blt st a b off => encBlt st a b off
  | .bge st a b off => encBge st a b off
  | .bltu st a b off => encBltu st a b off
  | .bgeu st a b off => encBgeu st a b off
  | .jal st d off => encJal st d off
  | .jalr st d a imm => encJalr st d a imm
  | .ldb st d t o imm => encLdb st d t o imm
  | .ldh st d t o imm => encLdh st d t o imm
  | .ldw st d t o imm => encLdw st d t o imm
  | .ldd st d t o imm => encLdd st d t o imm
  | .stb st d t o imm => encStb st d t o imm
  | .sth st d t o imm => encSth st d t o imm
  | .stw st d t o imm => encStw st d t o imm
  | .std st d t o imm => encStd st d t o imm
  | .amo st d t o f dw sc => encAmo st d t o f dw sc
  | .cas st d t o imm => encCas st d t o imm
  | .lds st d a imm => encLds st d a imm
  | .sts st d a imm => encSts st d a imm
  | .sps st d slot => encSps st d slot
  | .spl st d slot => encSpl st d slot
  | .xlat st t a b r w => encXlat st t a b r w
  | .xlatq st t a b r w => encXlatq st t a b r w
  | .trel st t => encTrel st t
  | .tmov st t u => encTmov st t u
  | .tsub st t u a => encTsub st t u a
  | .tinfo st u a => encTinfo st u a
  | .tchk st u a => encTchk st u a
  | .look st d a => encLook st d a
  | .dtag st a b => encDtag st a b
  | .fork st a => encFork st a
  | .rdv st => encRdv st
  | .send st a b m => encSend st a b m
  | .vfence st => encVfence st
  | .rapp st a r => encRapp st a r
  | .rappPair st a b r => encRappPair st a b r
  | .post st n => encPost st n
  | .waits st n => encWaits st n
  | .mark st sc => encMark st sc
  | .fence st k sc => encFence st k sc
  | .bar st n => encBar st n
  | .sacq st d n => encSacq st d n
  | .scommit st n => encScommit st n
  | .sawait st d n => encSawait st d n
  | .srel st n => encSrel st n
  | .jlaunch st d a => encJlaunch st d a
  | .flushh st t a b => encFlushh st t a b
  | .invh st t a b => encInvh st t a b
  | .skipr st d a b => encSkipr st d a b
  | .skipw st d a b => encSkipw st d a b
  | .csrr st d c => encCsrr st d c
  | .csrw st d a c => encCsrw st d a c
  | .csrs st d a c => encCsrs st d a c
  | .csrc st d a c => encCsrc st d a c
  | .trap st code => encTrap st code
  | .eret st => encEret st
  | .halt st => encHalt st
  | .wfi st => encWfi st
  | .bkpt st => encBkpt st
  | .vadd et st g d a b sat => encVadd et st g d a b sat
  | .vsub et st g d a b sat => encVsub et st g d a b sat
  | .vmul et st g d a b sat => encVmul et st g d a b sat
  | .vfma et st g d a b sat => encVfma et st g d a b sat
  | .vmin et st g d a b uns => encVmin et st g d a b uns
  | .vmax et st g d a b uns => encVmax et st g d a b uns
  | .vabs et st g d a sat => encVabs et st g d a sat
  | .vneg et st g d a sat => encVneg et st g d a sat
  | .vand et st g d a b => encVand et st g d a b
  | .vor et st g d a b => encVor et st g d a b
  | .vxor et st g d a b => encVxor et st g d a b
  | .vshl et st g d a b => encVshl et st g d a b
  | .vshr et st g d a b uns => encVshr et st g d a b uns
  | .vcmp et st p k a b uns => encVcmp et st p k a b uns
  | .vsel et st p d a b => encVsel et st p d a b
  | .vmov et st g d a => encVmov et st g d a
  | .vexp2 et st g d a => encVexp2 et st g d a
  | .vlog2 et st g d a => encVlog2 et st g d a
  | .vrcp et st g d a => encVrcp et st g d a
  | .vrsq et st g d a => encVrsq et st g d a
  | .vtanh et st g d a => encVtanh et st g d a
  | .verf et st g d a => encVerf et st g d a
  | .vcvt et st g d a y r sat => encVcvt et st g d a y r sat
  | .vwid et st g d a y uns => encVwid et st g d a y uns
  | .vnar et st g d a y r sat => encVnar et st g d a y r sat
  | .vperm et st g d a b => encVperm et st g d a b
  | .vzip et st g d a b => encVzip et st g d a b
  | .vunz et st g d a b => encVunz et st g d a b
  | .vred et st g d a f uns => encVred et st g d a f uns
  | .vscan et st g d a f uns => encVscan et st g d a f uns
  | .viota et st g d => encViota et st g d
  | .vbcast et st g d b => encVbcast et st g d b
  | .vaddi et st d imm => encVaddi et st d imm
  | .vmuli et st d imm => encVmuli et st d imm
  | .vmaxi et st d imm => encVmaxi et st d imm
  | .vmini et st d imm => encVmini et st d imm
  | .vmovi et st d imm => encVmovi et st d imm
  | .vandi et st d imm => encVandi et st d imm
  | .vshli et st d imm => encVshli et st d imm
  | .vsubi et st d imm => encVsubi et st d imm
  | .vld et st g d t o gauge raw => encVld et st g d t o gauge raw
  | .vst et st g d t o raw => encVst et st g d t o raw
  | .vlds et st g d b imm => encVlds et st g d b imm
  | .vsts et st g d b imm => encVsts et st g d b imm
  | .vgath et st g d t b elems => encVgath et st g d t b elems
  | .vscat et st g d t b elems => encVscat et st g d t b elems
  | .vslotAcq st d n => encVslotAcq st d n
  | .vslotCommit st n => encVslotCommit st n
  | .vslotAwait st d n => encVslotAwait st d n
  | .vslotRel st n => encVslotRel st n
  | .vsetfSetfmt st k => encVsetfSetfmt st k
  | .vsetfSelpat st en k => encVsetfSelpat st en k
  | .vsetfLdpat st h k => encVsetfLdpat st h k
  | .pand st d a b => encPand st d a b
  | .por st d a b => encPor st d a b
  | .pxor st d a b => encPxor st d a b
  | .pnot st d a => encPnot st d a
  | .pcnt et st d a => encPcnt et st d a
  | .pfirst et st d a => encPfirst et st d a
  | .arecv st d m => encArecv st d m
  | .aopImm f st d a imm => encAopImm f st d a imm
  | .aopReg f st d a b => encAopReg f st d a b
  | .vpost st n => encVpost st n
  | .vwait st n => encVwait st n
  | .vmark st sc => encVmark st sc
  | .vloop st len count => encVloop st len count
  | .vend  => encVend 
  | .msync ws ss e => encMsync ws ss e
  | .mma ws ss rl bank z ar br t nslab klast afmt bfmt et ua ub ck => encMma ws ss rl bank z ar br t nslab klast afmt bfmt et ua ub ck
  | .mmap ws ss bank z ar br t nslab klast afmt bfmt et ua ub ck => encMmap ws ss bank z ar br t nslab klast afmt bfmt et ua ub ck
  | .mzero ws ss rl bank => encMzero ws ss rl bank
  | .mdrain ws ss rl bank ot r sk sat scale dest xf => encMdrain ws ss rl bank ot r sk sat scale dest xf
  | .mldacc ws ss rl bank it src xf => encMldacc ws ss rl bank it src xf
  | .mfmt ws ss entry src => encMfmt ws ss entry src
  | .mloop len count => encMloop len count
  | .mchk ws ss bank rep => encMchk ws ss bank rep
  | .csync ws ss e => encCsync ws ss e
  | .copy ws ss rl out t g ring off spa len j => encCopy ws ss rl out t g ring off spa len j
  | .copyt ws ss rl tm ed sd => encCopyt ws ss rl tm ed sd
  | .imwin ws ss rl t off spa p kw sx cg => encImwin ws ss rl t off spa p kw sx cg
  | .gather ws ss rl t count idxa spa row => encGather ws ss rl t count idxa spa row
  | .scatter ws ss rl t count idxa spa row => encScatter ws ss rl t count idxa spa row
  | .fill ws ss rl w value spa len g ring => encFill ws ss rl w value spa len g ring
  | .sketch ws ss rl et src logn dst => encSketch ws ss rl et src logn dst
  | .pcopy ws ss out rank sib len own => encPcopy ws ss out rank sib len own
  | .dvopen ws ss ch dev win => encDvopen ws ss ch dev win
  | .dvw ws ss ch woff spa len => encDvw ws ss ch woff spa len
  | .dvrel ws ss ch woff flag => encDvrel ws ss ch woff flag
  | .dvshut ws ss ch => encDvshut ws ss ch
  | .cloop len count => encCloop len count
  | .cflush ws ss t inv off len => encCflush ws ss t inv off len
  | _ => []

/-- The stream whose word encodes an instruction; none for an event. -/
def Instr.stream : Instr → Option StreamKind
  | .add .. | .sub .. | .and .. | .or .. | .xor .. | .sll .. | .srl .. | .sra .. | .slt .. | .sltu .. | .seq .. | .min ..
  | .max .. | .minu .. | .maxu .. | .mul .. | .mulh .. | .mulhu .. | .div .. | .divu .. | .rem .. | .remu .. | .clz ..
  | .popc .. | .addi .. | .andi .. | .ori .. | .xori .. | .slli .. | .srli .. | .srai .. | .slti .. | .li .. | .lis ..
  | .fadd .. | .fsub .. | .fmul .. | .fdiv .. | .fmin .. | .fmax .. | .fsqrt .. | .feq .. | .flt .. | .fle .. | .fcvtsw ..
  | .fcvtws .. | .fcvtbs .. | .fcvtsb .. | .fma .. | .fms .. | .fnma .. | .beq .. | .bne .. | .blt .. | .bge .. | .bltu ..
  | .bgeu .. | .jal .. | .jalr .. | .ldb .. | .ldh .. | .ldw .. | .ldd .. | .stb .. | .sth .. | .stw .. | .std .. | .amo ..
  | .cas .. | .lds .. | .sts .. | .sps .. | .spl .. | .xlat .. | .xlatq .. | .trel .. | .tmov .. | .tsub .. | .tinfo ..
  | .tchk .. | .look .. | .dtag .. | .fork .. | .rdv .. | .send .. | .vfence .. | .rapp .. | .rappPair .. | .post ..
  | .waits .. | .mark .. | .fence .. | .bar .. | .sacq .. | .scommit .. | .sawait .. | .srel .. | .jlaunch .. | .flushh ..
  | .invh .. | .skipr .. | .skipw .. | .csrr .. | .csrw .. | .csrs .. | .csrc .. | .trap .. | .eret .. | .halt .. | .wfi ..
  | .bkpt .. => some .s
  | .vadd .. | .vsub .. | .vmul .. | .vfma .. | .vmin .. | .vmax .. | .vabs .. | .vneg .. | .vand .. | .vor .. | .vxor ..
  | .vshl .. | .vshr .. | .vcmp .. | .vsel .. | .vmov .. | .vexp2 .. | .vlog2 .. | .vrcp .. | .vrsq .. | .vtanh .. | .verf ..
  | .vcvt .. | .vwid .. | .vnar .. | .vperm .. | .vzip .. | .vunz .. | .vred .. | .vscan .. | .viota .. | .vbcast ..
  | .vaddi .. | .vmuli .. | .vmaxi .. | .vmini .. | .vmovi .. | .vandi .. | .vshli .. | .vsubi .. | .vld .. | .vst ..
  | .vlds .. | .vsts .. | .vgath .. | .vscat .. | .vslotAcq .. | .vslotCommit .. | .vslotAwait .. | .vslotRel ..
  | .vsetfSetfmt .. | .vsetfSelpat .. | .vsetfLdpat .. | .pand .. | .por .. | .pxor .. | .pnot .. | .pcnt .. | .pfirst ..
  | .arecv .. | .aopImm .. | .aopReg .. | .vpost .. | .vwait .. | .vmark .. | .vloop .. | .vend => some .v
  | .msync .. | .mma .. | .mmap .. | .mzero .. | .mdrain .. | .mldacc .. | .mfmt .. | .mloop .. | .mchk .. => some .m
  | .csync .. | .copy .. | .copyt .. | .imwin .. | .gather .. | .scatter .. | .fill .. | .sketch .. | .pcopy .. | .dvopen ..
  | .dvw .. | .dvrel .. | .dvshut .. | .cloop .. | .cflush .. => some .c
  | _ => none

/-- The bytes of an instruction as the machine stores them: each word little-endian, the first at the
lowest address (R52). -/
def encodeBytes (i : Instr) : List Byte := (encode i).flatMap (leBytes 4)

/-- The words of a number of `n` words, the first in the low bits. -/
def splitWords : Nat → Nat → List Nat
  | 0, _ => []
  | n + 1, w => w % 2 ^ 32 :: splitWords n (w / 2 ^ 32)

/-- An instruction of the table whose bits are `w`, first word lowest: its words are laid out as they are stored
and given to the decoders. One word is an S word, or a V word where it is no S word; two words are an
M command, or a C command where they are none; three words are a C command. A command that has more
words than `nbits` gives is completed with words of zero. -/
def decodeTableWord (nbits w : Nat) : Option Instr :=
  let n := if nbits ≤ 32 then 1 else if nbits ≤ 64 then 2 else 3
  let bs := (splitWords 3 (w % 2 ^ (32 * n))).flatMap (leBytes 4)
  let tr := fun k => match decode k bs with
    | .ok (i, _) => some i
    | .error _ => none
  if n = 1 then (tr .s).or (tr .v) else if n = 2 then (tr .m).or (tr .c) else tr .c

end Sys2Proof
end

