-- ==== Sys2Proof/Machine/Num.lean ====
section
/-! DEFINITION. Number formats, exact values, rounding and exact sums (R29-R51).
A value is exact: a sign, a natural significand and a power of two. Rounding works on encodings: the
encodings of the magnitudes of a format rise with the magnitudes, so that the neighbours of a value
are two consecutive numbers (R43). -/

namespace Sys2Proof.Machine

open Sys2Proof

/-- An exact value: NaN, an infinity, or (-1)^s * m * 2^e. -/
inductive FVal where
  | nan
  | inf (s : Bool)
  | fin (s : Bool) (m : Nat) (e : Int)
  deriving DecidableEq, Repr

/-- The special-value rules of R34. -/
inductive FxRule where
  | ieee | fn | fo
  deriving DecidableEq, Repr

/-- A floating format: sign, exponent and mantissa bits, bias and rule (R31, R33). -/
structure Fmt where
  sb : Nat
  eb : Nat
  mb : Nat
  bias : Int
  rule : FxRule
  deriving DecidableEq, Repr

/-- FP32 (R31). -/
def Fmt.fp32 : Fmt := ⟨1, 8, 23, 127, .ieee⟩
/-- FP16 (R31). -/
def Fmt.fp16 : Fmt := ⟨1, 5, 10, 15, .ieee⟩
/-- BF16 (R31). -/
def Fmt.bf16 : Fmt := ⟨1, 8, 7, 127, .ieee⟩
/-- UE5M3, the scale byte (R41). -/
def Fmt.ue5m3 : Fmt := ⟨0, 5, 3, 15, .fo⟩

/-- The width of an element of a format (R33). -/
def Fmt.width (f : Fmt) : Nat := f.sb + f.eb + f.mb

/-- The encoding of the largest finite magnitude (R34). -/
def Fmt.maxMag (f : Fmt) : Nat :=
  match f.rule with
  | .ieee => (2 ^ f.eb - 1) * 2 ^ f.mb - 1
  | .fn => 2 ^ (f.eb + f.mb) - 2
  | .fo => 2 ^ (f.eb + f.mb) - 1

/-- The canonical NaN of a format; an FO format has none and takes +0 (R32, R34, R44). -/
def Fmt.nanBits (f : Fmt) : Nat :=
  match f.rule with
  | .ieee => (2 ^ f.eb - 1) * 2 ^ f.mb + 2 ^ (f.mb - 1)
  | .fn => 2 ^ (f.eb + f.mb) - 1
  | .fo => 0

/-- A magnitude encoding with a sign. -/
def Fmt.signed (f : Fmt) (s : Bool) (mag : Nat) : Nat :=
  if s && f.sb == 1 then 2 ^ (f.eb + f.mb) + mag else mag

/-- The exact value of an element (R31, R33, R34); bits above the width are ignored (R35). -/
def Fmt.decode (f : Fmt) (bits : Nat) : FVal :=
  let mag := bits % 2 ^ (f.eb + f.mb)
  let s := f.sb == 1 && (bits / 2 ^ (f.eb + f.mb)) % 2 == 1
  let e := mag / 2 ^ f.mb
  let m := mag % 2 ^ f.mb
  let top := e == 2 ^ f.eb - 1
  if f.rule == .ieee && top then (if m == 0 then .inf s else .nan)
  else if f.rule == .fn && mag == 2 ^ (f.eb + f.mb) - 1 then .nan
  else if e == 0 then .fin s m (1 - f.bias - f.mb)
  else .fin s (2 ^ f.mb + m) ((e : Int) - f.bias - f.mb)

/-- The magnitude `m * 2^e` on the grid of quantum `2^q`: the multiple below it and how the rest compares
with half a quantum: 0 none, 1 below half, 2 half, 3 above half. -/
def onGrid (m : Nat) (e q : Int) : Nat × Nat :=
  if q ≤ e then (m * 2 ^ (e - q).toNat, 0)
  else
    let d := 2 ^ (q - e).toNat
    let r := m % d
    (m / d, if r == 0 then 0 else if 2 * r < d then 1 else if 2 * r == d then 2 else 3)

/-- Which neighbour a mode takes (R43): the lower `n` or the upper `n + 1`, of the magnitudes. -/
def pickUp (rm : Round) (n rest : Nat) : Bool :=
  match rm with
  | .rne => rest == 3 || (rest == 2 && n % 2 == 1)
  | .rtz => false
  | .rto => rest != 0 && n % 2 == 0
  | .raz => rest != 0

/-- The exponent of the leading bit of `m * 2^e`, for `m` not zero. -/
def topExp (m : Nat) (e : Int) : Int := (Nat.log2 m : Int) + e

/-- The encoding of the magnitude `m * 2^e` rounded, with the exponent unbounded above, and whether it is inexact. -/
def Fmt.roundMag (f : Fmt) (rm : Round) (m : Nat) (e : Int) : Nat × Bool :=
  if m == 0 then (0, false)
  else
    let be := max (topExp m e + f.bias) 1
    let g := onGrid m e (be - f.bias - f.mb)
    let n := (be - 1).toNat * 2 ^ f.mb + g.1
    (if pickUp rm n g.2 then n + 1 else n, g.2 != 0)

/-- Whether a magnitude is tiny after rounding (R46): rounded to the format's precision with the exponent
unbounded below, it stays under the smallest normal number. -/
def Fmt.tinyAfter (f : Fmt) (rm : Round) (m : Nat) (e : Int) : Bool :=
  if m == 0 then false
  else if topExp m e + f.bias ≥ 1 then false
  else
    let g := onGrid m e (topExp m e - f.mb)
    let n := if pickUp rm g.1 g.2 then g.1 + 1 else g.1
    !(topExp m e + f.bias == 0 && n == 2 ^ (f.mb + 1))

/-- A rounded result: its bits and the conditions of R46. -/
structure Rounded where
  bits : Nat
  nx : Bool
  overflow : Bool
  uf : Bool
  deriving DecidableEq, Repr

/-- What an overflow gives (R44). -/
def Fmt.overflowBits (f : Fmt) (rm : Round) (sat s : Bool) : Nat :=
  if sat then f.signed s f.maxMag
  else
    match rm with
    | .rtz => f.signed s f.maxMag
    | .rto => f.signed s f.maxMag
    | _ =>
      match f.rule with
      | .ieee => f.signed s (f.maxMag + 1)
      | .fn => f.nanBits
      | .fo => f.signed s f.maxMag

/-- Round an exact value to a format (R43-R46). -/
def Fmt.round (f : Fmt) (rm : Round) (sat : Bool) : FVal → Rounded
  | .nan => ⟨f.nanBits, false, false, false⟩
  | .inf s =>
    if s && f.sb == 0 then ⟨0, false, false, false⟩
    else if sat || f.rule != .ieee then ⟨f.signed s f.maxMag, false, false, false⟩
    else ⟨f.signed s (f.maxMag + 1), false, false, false⟩
  | .fin s m e =>
    if s && f.sb == 0 then ⟨0, m != 0, false, false⟩
    else
      let r := f.roundMag rm m e
      if r.1 > f.maxMag then ⟨f.overflowBits rm sat s, true, true, false⟩
      else ⟨f.signed s r.1, r.2, false, r.2 && f.tinyAfter rm m e⟩

/-- The bits of a rounded value. -/
def Fmt.roundBits (f : Fmt) (rm : Round) (sat : Bool) (v : FVal) : Nat := (f.round rm sat v).bits

/-- An integer as an exact value; zero is +0. -/
def FVal.ofInt (i : Int) : FVal := .fin (decide (i < 0)) i.natAbs 0

/-- The value 1. -/
def FVal.one : FVal := .fin false 1 0

/-- The value +0. -/
def FVal.zero : FVal := .fin false 0 0

/-- Whether a value is a zero of either sign. -/
def FVal.isZero : FVal → Bool
  | .fin _ m _ => m == 0
  | _ => false

/-- Whether a value is NaN. -/
def FVal.isNan : FVal → Bool
  | .nan => true
  | _ => false

/-- Whether a value is an infinity. -/
def FVal.isInf : FVal → Bool
  | .inf _ => true
  | _ => false

/-- Whether a value is finite. -/
def FVal.isFin : FVal → Bool
  | .fin .. => true
  | _ => false

/-- The sign of a value that is not NaN. -/
def FVal.sign : FVal → Bool
  | .nan => false
  | .inf s => s
  | .fin s _ _ => s

/-- The value with its sign changed. -/
def FVal.neg : FVal → FVal
  | .nan => .nan
  | .inf s => .inf !s
  | .fin s m e => .fin (!s) m e

/-- The magnitude. -/
def FVal.abs : FVal → FVal
  | .nan => .nan
  | .inf _ => .inf false
  | .fin _ m e => .fin false m e

/-- The exact product (R50, R121). -/
def FVal.mul : FVal → FVal → FVal
  | .nan, _ => .nan
  | _, .nan => .nan
  | .inf s, .inf t => .inf (s != t)
  | .inf s, .fin t m _ => if m == 0 then .nan else .inf (s != t)
  | .fin s m _, .inf t => if m == 0 then .nan else .inf (s != t)
  | .fin s m e, .fin t n f => .fin (s != t) (m * n) (e + f)

/-- A significand as a signed integer on the grid of exponent `q`, which is not above its own. -/
def signedAt (s : Bool) (m : Nat) (e q : Int) : Int :=
  let v : Int := (m * 2 ^ (e - q).toNat : Nat)
  if s then -v else v

/-- What the exact sum of a list of values needs (R50, R134): whether a NaN, each infinity, and whether
every value is −0. -/
structure SumAcc where
  nan : Bool
  pinf : Bool
  ninf : Bool
  allNegZero : Bool
  total : Int
  exp : Int
  deriving DecidableEq, Repr

/-- The sum of no values. -/
def SumAcc.empty : SumAcc := ⟨false, false, false, true, 0, 0⟩

/-- Add a value to a sum. -/
def SumAcc.add (a : SumAcc) : FVal → SumAcc
  | .nan => { a with nan := true, allNegZero := false }
  | .inf true => { a with ninf := true, allNegZero := false }
  | .inf false => { a with pinf := true, allNegZero := false }
  | .fin s m e =>
    if m == 0 then { a with allNegZero := a.allNegZero && s }
    else
      let q := if a.total == 0 then e else min a.exp e
      { a with
        allNegZero := false
        total := a.total * (2 ^ (a.exp - q).toNat : Nat) + signedAt s m e q
        exp := q }

/-- The value of a sum; a sum of no values is +0. -/
def SumAcc.value (a : SumAcc) (nonempty : Bool) : FVal :=
  if a.nan || (a.pinf && a.ninf) then .nan
  else if a.pinf then .inf false
  else if a.ninf then .inf true
  else if a.total == 0 then .fin (nonempty && a.allNegZero) 0 0
  else .fin (decide (a.total < 0)) a.total.natAbs a.exp

/-- The exact sum of a list (R49, R50, R134): NaN if any value is NaN or both infinities occur; a zero sum is −0
only if every value is −0. -/
def exactSum (vs : List FVal) : FVal := (vs.foldl SumAcc.add SumAcc.empty).value (!vs.isEmpty)

/-- The exact sum of two values; an exact zero of opposite signs is +0 (IEEE 754 under RNE). -/
def FVal.add (x y : FVal) : FVal := exactSum [x, y]

/-- The exact difference. -/
def FVal.sub (x y : FVal) : FVal := x.add y.neg

/-- The comparison of two values; none where either is NaN; −0 equals +0. -/
def FVal.cmp : FVal → FVal → Option Ordering
  | .nan, _ => none
  | _, .nan => none
  | .inf s, .inf t => some (if s == t then .eq else if s then .lt else .gt)
  | .inf s, .fin .. => some (if s then .lt else .gt)
  | .fin .., .inf t => some (if t then .gt else .lt)
  | .fin s m e, .fin t n f =>
    let q := min e f
    some (compare (signedAt s m e q) (signedAt t n f q))

/-- Less, with −0 below +0 (R121). -/
def FVal.ltz (x y : FVal) : Bool :=
  match x.cmp y with
  | some .lt => true
  | some .eq => x.sign && !y.sign
  | _ => false

/-- The smaller value; where one is NaN the other (R89, R121). -/
def FVal.minv (x y : FVal) : FVal :=
  if x.isNan then y else if y.isNan then x else if y.ltz x then y else x

/-- The larger value; where one is NaN the other (R89, R121). -/
def FVal.maxv (x y : FVal) : FVal :=
  if x.isNan then y else if y.isNan then x else if x.ltz y then y else x

/-- The integer a finite value rounds to and whether it is inexact (R45). -/
def roundToInt (rm : Round) (s : Bool) (m : Nat) (e : Int) : Int × Bool :=
  let g := onGrid m e 0
  let n := if pickUp rm g.1 g.2 then g.1 + 1 else g.1
  (if s then -(n : Int) else n, g.2 != 0)

/-- The least and the greatest integer of a width (R29). -/
def intRange (signed : Bool) (w : Nat) : Int × Int :=
  if signed then (-(2 ^ (w - 1) : Nat), (2 ^ (w - 1) : Nat) - 1) else (0, (2 ^ w : Nat) - 1)

/-- Clamp an integer to a range. -/
def clampInt (lo hi i : Int) : Int := max lo (min hi i)

/-- An integer's low bits. -/
def wrapInt (w : Nat) (i : Int) : Nat := (i % (2 ^ w : Nat)).toNat

/-- The signed reading of the low `w` bits. -/
def sextNat (w n : Nat) : Int :=
  let v := n % 2 ^ w
  if 2 * v ≥ 2 ^ w then (v : Int) - (2 ^ w : Nat) else v

/-- Conversion of a value to an integer of a range (R45): rounded, clamped; NaN gives 0. The flag says that the
result is not the value's rounding (NaN, infinity, out of range), which is the invalid condition of R46; the second
that it is inexact. -/
def FVal.toInt (rm : Round) (lo hi : Int) : FVal → Int × Bool × Bool
  | .nan => (0, true, false)
  | .inf s => (if s then lo else hi, true, false)
  | .fin s m e =>
    if lo == 0 && s && m != 0 then (0, true, false)
    else
      let r := roundToInt rm s m e
      let c := clampInt lo hi r.1
      if c == r.1 then (c, false, r.2) else (c, true, false)

/-- The integer square root, bit by bit from bit `b`. -/
def isqrtFrom : Nat → Nat → Nat → Nat
  | 0, n, r => if (r + 1) * (r + 1) ≤ n then r + 1 else r
  | b + 1, n, r =>
    let r' := r + 2 ^ (b + 1)
    isqrtFrom b n (if r' * r' ≤ n then r' else r)

/-- The integer square root. -/
def isqrt (n : Nat) : Nat := isqrtFrom (Nat.log2 n / 2 + 1) n 0

/-- A quotient of finite values, `y` not zero, to more bits than any format here has, with the rest as a last
odd bit; every rounding of it is the rounding of the exact quotient (R43). -/
def quotient (s : Bool) (m : Nat) (e : Int) (n : Nat) (f : Int) : FVal :=
  let k := Nat.log2 n + 80
  let a := m * 2 ^ k
  .fin s (2 * (a / n) + (if a % n == 0 then 0 else 1)) (e - f - k - 1)

/-- The square root of `m * 2^e`, in the same way. -/
def sqrtVal (m : Nat) (e : Int) : FVal :=
  let e' := if e % 2 == 0 then e else e - 1
  let m' := if e % 2 == 0 then m else 2 * m
  let a := m' * 2 ^ 160
  let r := isqrt a
  .fin false (2 * r + (if r * r == a then 0 else 1)) (e' / 2 - 81)

/-- The reciprocal square root of `m * 2^e`, `m` not zero, in the same way. -/
def rsqrtVal (m : Nat) (e : Int) : FVal :=
  let e' := if e % 2 == 0 then e else e - 1
  let m' := if e % 2 == 0 then m else 2 * m
  let k := Nat.log2 m' + 160
  let a := 2 ^ (2 * k)
  let r := isqrt (a / m')
  .fin false (2 * r + (if r * r * m' == a then 0 else 1)) (-(e' / 2) - k - 1)

end Sys2Proof.Machine
end

