-- ==== Sys2Proof/Config.lean ====
section
/-! DEFINITION. What the spec leaves to an implementation, and free values. None of these constants has a body, so
nothing can be proved of its value (log entries 2, 3, 12, 70, 71, 111). -/

namespace Sys2Proof.Config

/-- Free values, drawn by a counter of the state (log entry 2). -/
opaque freeValue : Nat → BitVec 64

/-- This device's 22-bit id on the Dovetail fabric (R372). -/
opaque deviceId : BitVec 22

/-- What a 16-byte block of device memory reads as through another key than the one it is encrypted under (R1, R311, R339): the
key it is under, the other key, the block's number, and what it reads as through its own key (log entry 70). -/
opaque recrypt : BitVec 512 → BitVec 512 → Nat → BitVec 128 → BitVec 128

/-- The signature of the device attestation key over a byte string: r then s, 96 bytes (R426, R430). -/
opaque sign : List Byte → Nat → Byte

/-- The slot-0 certificate chain (R426). -/
opaque certChain : List Byte

/-- The Plinth's mask ROM as measured (R424). -/
opaque rom : List Byte

/-- The fuse bank as measured (R424). -/
opaque fuses : List Byte

/-- The 48-byte block that MEAS4 takes with a takeover event: it holds the event's cause code and CYCLE of core 0 (R424), whose places
and codes are open (log entry 71). The first argument names the cause. -/
opaque takeoverBlock : Nat → BitVec 64 → Nat → Byte

/-- The bytes of a DRAM row, which a remap copies (R415, log entry 111). -/
opaque rowBytes : Nat

/-- The serial number in the fuses (R430). -/
opaque serial : BitVec 64

end Sys2Proof.Config
end

