-- ==== Sys2Proof/Machine/Digest.lean ====
section
/-! DEFINITION. CRC-32C (R283, R429), SHA-384 (R424, R426, R430) and the extension of a measurement register (R424). -/

namespace Sys2Proof.Machine

open Sys2Proof

/-- One step of CRC-32C over a bit, in its reflected form. -/
def crc32Bit (c : Word32) : Word32 := if c.getLsbD 0 then (c >>> 1) ^^^ 0x82F63B78#32 else c >>> 1

/-- One step of CRC-32C over a byte. -/
def crc32Byte (c : Word32) (b : Byte) : Word32 := (List.range 8).foldl (fun c _ => crc32Bit c) (c ^^^ b.setWidth 32)

/-- CRC-32C of a byte string (R283): initial value and final XOR all ones. -/
def crc32c (d : List Byte) : Word32 := d.foldl crc32Byte 0xFFFFFFFF#32 ^^^ 0xFFFFFFFF#32

/-- The round constants of SHA-384. Part 0. -/
def shaK0 : List Word :=
  [0x428A2F98D728AE22#64, 0x7137449123EF65CD#64, 0xB5C0FBCFEC4D3B2F#64, 0xE9B5DBA58189DBBC#64, 0x3956C25BF348B538#64,
   0x59F111F1B605D019#64, 0x923F82A4AF194F9B#64, 0xAB1C5ED5DA6D8118#64, 0xD807AA98A3030242#64, 0x12835B0145706FBE#64,
   0x243185BE4EE4B28C#64, 0x550C7DC3D5FFB4E2#64, 0x72BE5D74F27B896F#64, 0x80DEB1FE3B1696B1#64, 0x9BDC06A725C71235#64,
   0xC19BF174CF692694#64, 0xE49B69C19EF14AD2#64, 0xEFBE4786384F25E3#64, 0x0FC19DC68B8CD5B5#64, 0x240CA1CC77AC9C65#64]

/-- The round constants of SHA-384. Part 1. -/
def shaK1 : List Word :=
  [0x2DE92C6F592B0275#64, 0x4A7484AA6EA6E483#64, 0x5CB0A9DCBD41FBD4#64, 0x76F988DA831153B5#64, 0x983E5152EE66DFAB#64,
   0xA831C66D2DB43210#64, 0xB00327C898FB213F#64, 0xBF597FC7BEEF0EE4#64, 0xC6E00BF33DA88FC2#64, 0xD5A79147930AA725#64,
   0x06CA6351E003826F#64, 0x142929670A0E6E70#64, 0x27B70A8546D22FFC#64, 0x2E1B21385C26C926#64, 0x4D2C6DFC5AC42AED#64,
   0x53380D139D95B3DF#64, 0x650A73548BAF63DE#64, 0x766A0ABB3C77B2A8#64, 0x81C2C92E47EDAEE6#64, 0x92722C851482353B#64]

/-- The round constants of SHA-384. Part 2. -/
def shaK2 : List Word :=
  [0xA2BFE8A14CF10364#64, 0xA81A664BBC423001#64, 0xC24B8B70D0F89791#64, 0xC76C51A30654BE30#64, 0xD192E819D6EF5218#64,
   0xD69906245565A910#64, 0xF40E35855771202A#64, 0x106AA07032BBD1B8#64, 0x19A4C116B8D2D0C8#64, 0x1E376C085141AB53#64,
   0x2748774CDF8EEB99#64, 0x34B0BCB5E19B48A8#64, 0x391C0CB3C5C95A63#64, 0x4ED8AA4AE3418ACB#64, 0x5B9CCA4F7763E373#64,
   0x682E6FF3D6B2B8A3#64, 0x748F82EE5DEFB2FC#64, 0x78A5636F43172F60#64, 0x84C87814A1F0AB72#64, 0x8CC702081A6439EC#64]

/-- The round constants of SHA-384. Part 3. -/
def shaK3 : List Word :=
  [0x90BEFFFA23631E28#64, 0xA4506CEBDE82BDE9#64, 0xBEF9A3F7B2C67915#64, 0xC67178F2E372532B#64, 0xCA273ECEEA26619C#64,
   0xD186B8C721C0C207#64, 0xEADA7DD6CDE0EB1E#64, 0xF57D4F7FEE6ED178#64, 0x06F067AA72176FBA#64, 0x0A637DC5A2C898A6#64,
   0x113F9804BEF90DAE#64, 0x1B710B35131C471B#64, 0x28DB77F523047D84#64, 0x32CAAB7B40C72493#64, 0x3C9EBE0A15C9BEBC#64,
   0x431D67C49C100D4C#64, 0x4CC5D4BECB3E42B6#64, 0x597F299CFC657E2A#64, 0x5FCB6FAB3AD6FAEC#64, 0x6C44198C4A475817#64]

/-- The round constants of SHA-384. -/
def shaK : List Word := shaK0 ++ shaK1 ++ shaK2 ++ shaK3

/-- The initial hash value of SHA-384. -/
def shaH : List Word :=
  [0xCBBB9D5DC1059ED8#64, 0x629A292A367CD507#64, 0x9159015A3070DD17#64, 0x152FECD8F70E5939#64, 0x67332667FFC00B31#64,
   0x8EB44A8768581511#64, 0xDB0C2E0D64F98FA7#64, 0x47B5481DBEFA4FA4#64]

/-- Rotate right. -/
def rotr (x : Word) (n : Nat) : Word := x.rotateRight n

/-- The next word of the message schedule from the sixteen before it, newest first. -/
def shaNext (w : List Word) : Word :=
  let a := w.getD 1 0
  let b := w.getD 14 0
  (rotr a 19 ^^^ rotr a 61 ^^^ (a >>> 6)) + w.getD 6 0 + (rotr b 1 ^^^ rotr b 8 ^^^ (b >>> 7)) + w.getD 15 0

/-- The message schedule, newest first. -/
def shaSchedule : Nat → List Word → List Word
  | 0, w => w
  | n + 1, w => shaSchedule n (shaNext w :: w)

/-- One round over the eight working variables. -/
def shaRound (h : List Word) (kw : Word) : List Word :=
  match h with
  | [a, b, c, d, e, f, g, x] =>
    let t1 := x + (rotr e 14 ^^^ rotr e 18 ^^^ rotr e 41) + ((e &&& f) ^^^ (~~~e &&& g)) + kw
    let t2 := (rotr a 28 ^^^ rotr a 34 ^^^ rotr a 39) + ((a &&& b) ^^^ (a &&& c) ^^^ (b &&& c))
    [t1 + t2, a, b, c, d + t1, e, f, g]
  | _ => h

/-- A big-endian number. -/
def beNat (d : List Byte) : Nat := leNat d.reverse

/-- The big-endian bytes of a number. -/
def beBytes (n v : Nat) : List Byte := (leBytes n v).reverse

/-- Compress one block of 128 bytes. -/
def shaBlock (h : List Word) (d : List Byte) : List Word :=
  let w := (List.range 16).map (fun i => BitVec.ofNat 64 (beNat ((d.drop (8 * i)).take 8)))
  let ws := (shaSchedule 64 w.reverse).reverse
  (h.zip ((ws.zip shaK).foldl (fun h (w, k) => shaRound h (w + k)) h)).map (fun c => c.1 + c.2)

/-- Compress `n` blocks. -/
def shaBlocks : Nat → List Word → List Byte → List Word
  | 0, h, _ => h
  | n + 1, h, d => shaBlocks n (shaBlock h (d.take 128)) (d.drop 128)

/-- SHA-384 of a byte string: 48 bytes. -/
def sha384 (d : List Byte) : List Byte :=
  let n := d.length
  let z := (239 - n % 128) % 128
  let m := d ++ [0x80#8] ++ List.replicate z 0 ++ beBytes 16 (8 * n)
  ((shaBlocks ((n + 17 + z) / 128) shaH m).take 6).flatMap (fun w => beBytes 8 w.toNat)

/-- A measurement register extended with a digest (R424). -/
def measExtend (v : BitVec 384) (d : List Byte) : BitVec 384 := BitVec.ofNat 384 (beNat (sha384 (beBytes 48 v.toNat ++ d)))

/-- MEAS0 as the Plinth extends it before anything else (R424, R425): with the digest of the ROM, then of the fuse bank. -/
def selfMeasure (v : BitVec 384) : BitVec 384 := measExtend (measExtend v (sha384 Config.rom)) (sha384 Config.fuses)

end Sys2Proof.Machine
end

