-- ==== Sys2Proof/Machine/Sparse.lean ====
section
/-! DEFINITION. Sparse tables: a list of (key, value) pairs with strictly rising keys in which no value is the
default that an unlisted key reads as. Every register file and every memory of the machine is one. -/

namespace Sys2Proof.Machine

/-- A sparse table of values (for bytes, a list of Host.Cell). -/
abbrev Sparse (α : Type) := List (Nat × α)

/-- The value at a key: the first pair with that key, else the default. -/
def Sparse.get {α : Type} (d : α) : Sparse α → Nat → α
  | [], _ => d
  | (j, w) :: m, k => if j = k then w else Sparse.get d m k

/-- A pair, left out where the value is the default. -/
def Sparse.cell {α : Type} [DecidableEq α] (d : α) (k : Nat) (v : α) (m : Sparse α) : Sparse α :=
  if v = d then m else (k, v) :: m

/-- The pairs whose keys satisfy a test. -/
def Sparse.keep {α : Type} (p : Nat → Bool) (m : Sparse α) : Sparse α := m.filter (fun c => p c.1)

/-- Put a pair in its place. -/
def Sparse.insert {α : Type} : Sparse α → Nat → α → Sparse α
  | [], k, v => [(k, v)]
  | (j, w) :: m, k, v =>
    if k < j then (k, v) :: (j, w) :: m
    else if k = j then (k, v) :: m
    else (j, w) :: Sparse.insert m k v

/-- Write one value; the default is written by leaving the key out. -/
def Sparse.put {α : Type} [DecidableEq α] (d : α) (m : Sparse α) (k : Nat) (v : α) : Sparse α :=
  if v = d then m.keep (fun j => j != k) else m.insert k v

/-- The pairs of a run of values at rising keys. -/
def Sparse.cells {α : Type} [DecidableEq α] (d : α) : Nat → List α → Sparse α → Sparse α
  | _, [], m => m
  | k, v :: vs, m => Sparse.cell d k v (Sparse.cells d (k + 1) vs m)

/-- Write a run of values at keys `k`, `k + 1`, …, in one pass over the table. -/
def Sparse.putList {α : Type} [DecidableEq α] (d : α) : Sparse α → Nat → List α → Sparse α
  | [], k, vs => Sparse.cells d k vs []
  | (j, w) :: m, k, vs =>
    if j < k then (j, w) :: Sparse.putList d m k vs
    else
      let z := k + vs.length
      Sparse.cells d k vs (Sparse.keep (fun i => decide (i < k) || decide (z ≤ i)) ((j, w) :: m))

/-- The values at keys `k`, …, `k + n - 1`; the pairs outside them are left out first. -/
def Sparse.getList {α : Type} (d : α) (m : Sparse α) (k n : Nat) : List α :=
  let r := m.keep (fun i => decide (k ≤ i) && decide (i < k + n))
  (List.range n).map (fun i => Sparse.get d r (k + i))

/-- The canonical form: keys strictly rise from `lo`, no value is the default. -/
def Sparse.wfFrom {α : Type} [DecidableEq α] (d : α) : Nat → Sparse α → Bool
  | _, [] => true
  | lo, (j, w) :: m => decide (lo ≤ j) && decide (w ≠ d) && Sparse.wfFrom d (j + 1) m

/-- The canonical form of a table. -/
def Sparse.wf {α : Type} [DecidableEq α] (d : α) (m : Sparse α) : Bool := Sparse.wfFrom d 0 m

/-- Change every listed value, leaving out those that become the default. -/
def Sparse.mapVals {α : Type} [DecidableEq α] (d : α) (f : α → α) : Sparse α → Sparse α
  | [] => []
  | (k, v) :: m => Sparse.cell d k (f v) ((Sparse.mapVals d f m).keep (fun j => j != k))

end Sys2Proof.Machine
end

