-- ==== Sys2Proof/Machine/State.lean ====
section
/-! DEFINITION. The state of the machine as plain data: every piece of state the spec names, and the model's own
fields (agenda, cur, turn, budget, free), which say who moves next and which free value comes next. -/

namespace Sys2Proof.Machine

open Sys2Proof

/-- A token: the null token is `none` (R236). -/
structure Tok where
  idx : BitVec 6
  gen : BitVec 16
  deriving DecidableEq, Repr

/-- A run record (R238). -/
structure Run where
  key : BitVec 13
  host : Bool
  tso : Bool
  npg : Nat
  frame : BitVec 35
  deriving DecidableEq, Repr

/-- The states of a mortise table entry (R237). -/
inductive MteSt where
  | null | live | stale | dead
  deriving DecidableEq, Repr

/-- A mortise table entry (R237); a NULL entry keeps its generation. -/
structure Mte where
  st : MteSt := .null
  w : Bool := false
  r : Bool := false
  mask : BitVec 6 := 0
  fsel : BitVec 4 := 0
  runs : List Run := []
  refs : Nat := 0
  pred : Bool := false
  gen : BitVec 16 := 0
  len : Nat := 0
  vbase : Nat := 0
  /-- The gang whose address space its extent lies in. -/
  gang : GangId := 0
  /-- It was restored and has not been refreshed since: its re-walk starts at its first use (R241, R351). -/
  fresh : Bool := false
  deriving DecidableEq, Repr

/-- What a waiting stream waits for (R197, R217). -/
inductive WaitOn where
  | engines (es : List RingSel)
  | rdv
  | vfence
  | mailboxEmpty (m : BitVec 4)
  | mailboxFull (m : BitVec 4)
  | room (r : RingSel) (n : Nat)
  | sem (n : SemId)
  | barrier (n : BarId) (phase : Bool)
  | slotEmpty (n : RingId)
  | slotFull (n : RingId)
  | event
  | stale (i : BitVec 6)
  | bench
  | pins
  | predicted
  /-- The accesses of the stream that a release has to wait for (R252). -/
  | queues
  /-- The stores of the stream (R204). -/
  | stores
  /-- The earlier accesses of the stream that reading `n` bytes at a scratchpad address comes after (R250). -/
  | reads (a n : Nat)
  /-- The accesses of the S-stream's queues that go through a token (log entry 36). -/
  | uses (t : Option Tok)
  | chanRoom (c : BitVec 2)
  | line (ix : Nat)
  deriving DecidableEq, Repr

/-- The S-stream of a core: no step, running, waiting, halted at HALT, stopped by a double trap (R212, R214, R217). -/
inductive SStatus where
  | idle
  | running
  | waiting (on : WaitOn)
  | halted
  | stopped
  deriving DecidableEq, Repr

/-- The two modes (R207). -/
inductive Mode where
  | supervisor | user
  deriving DecidableEq, Repr

/-- A register that a result of fixed latency goes to (R73, R74). -/
inductive RegRef where
  | x (n : XReg)
  | v (n : VReg)
  | p (n : PReg)
  | a (n : AReg)
  deriving DecidableEq, Repr

/-- A result whose latency the issues since have not covered: the cycles a reader must still leave (R11). -/
structure Hazard where
  reg : RegRef
  need : Nat
  deriving DecidableEq, Repr

/-- How far a translation that waits has come (R103, R246, R343, R346): it waits for the reply to a fault record, for a
frame to be released, or for the walk behind a predicted token, whose old token is kept. -/
inductive WalkPhase where
  | stall (ix : Nat)
  | pinWait (ix : Nat)
  | predicted (new : Tok) (old : Option Tok)
  deriving DecidableEq, Repr

/-- A leaf entry as a walk finds it (R339): the entry's address and level, and its fields. -/
structure Leaf where
  entry : Nat
  level : Nat
  bits : Nat
  deriving DecidableEq, Repr

/-- A page of an extent: its first extent address, its leaf, the first unit of the extent in it and their number, and whether a walk
has pinned them (R342). -/
structure Page where
  va : Nat
  leaf : Leaf
  unit : Nat
  n : Nat
  pinned : Bool := false
  deriving DecidableEq, Repr

/-- A translation in progress on a core (R103, R107, R246): XLATQ or XLAT, its operands and its phase; the pages it has
walked; whether a revocation has reached one that it has pinned (R352). -/
structure Walk where
  q : Bool
  td : TReg
  base : Nat
  len : Nat
  wantW : Bool
  phase : WalkPhase
  pages : List Page := []
  stale : Bool := false
  deriving DecidableEq, Repr

/-- The states of an engine (R191). -/
inductive EngSt where
  | idle | running | ended | stopped
  deriving DecidableEq, Repr

/-- A loop in progress (R151, R172): the positions of its first and last word or command, the iterations left and the
place of the first in the ring. -/
structure Loop where
  first : Nat
  last : Nat
  left : Nat
  rp : Nat
  deriving DecidableEq, Repr

/-- A ring engine (R190, R191). Pointers count words from BASE; loops lie innermost first. -/
structure Engine where
  st : EngSt := .idle
  base : Nat := 0
  size : Nat := 0
  rp : Nat := 0
  wp : Nat := 0
  loops : List Loop := []
  /-- The position of the next V word or command, counted from the first since FORK (R151, R172). -/
  pos : Nat := 0
  /-- Words or commands of a body with count 0 still to be skipped (R151, R172). -/
  skip : Nat := 0
  deriving DecidableEq, Repr

/-- The phases of a command (R154): decoded and awaiting its WS, issued and performing, its work done. -/
inductive FlightSt where
  | decoded
  | issued
  | done
  deriving DecidableEq, Repr

/-- Completion codes met by a command (R156). -/
structure Codes where
  illegal : Bool := false
  denied : Bool := false
  dead : Bool := false
  dvFault : Bool := false
  check : Bool := false
  poison : Bool := false
  overrun : Bool := false
  chksum : Bool := false
  deriving DecidableEq, Repr

/-- An M or C command in flight, or an aperture copy (R154, R177, R188). -/
structure Flight where
  cmd : Instr
  /-- Scratchpad address of word 0. -/
  addr : Nat := 0
  st : FlightSt := .decoded
  /-- The error its await consumed (R221). -/
  err : Bool := false
  /-- Units done: 512-byte blocks, positions, rows, slabs or packets (R188). -/
  prog : Nat := 0
  /-- The token it read at issue, and its reference (R18). -/
  tok : Option Tok := none
  /-- A slot it fills: ring and slot number (R226). -/
  slot : Option (RingId × Nat) := none
  /-- The slots of A and B that an MMA or MMAP has awaited for its next slab (R162, R228). -/
  slotA : Option Nat := none
  slotB : Option Nat := none
  codes : Codes := {}
  oox : Bool := false
  dscw : Bool := false
  /-- The bytes that its slot has discarded (R226). -/
  lost : Nat := 0
  fmtA : Word := 0
  fmtB : Word := 0
  /-- The bytes of its template (R176). -/
  tmpl : List Byte := []
  /-- The gauge pattern of its template (R141). -/
  pat : List Byte := []
  /-- The row offsets of a GATHER or SCATTER (R179), with their poison. -/
  idx : List (Nat × Bool) := []
  /-- The epoch of a DVW (R378). -/
  dv : Option (BitVec 2) := none
  /-- The opening of the channel that a DVW belongs to; the number under which a DVOPEN, DVREL or DVSHUT waits (R376, R377). -/
  ser : Option Nat := none
  /-- The core whose engine runs it, where a sibling took it (R185). -/
  taker : Option Nat := none
  /-- First byte dropped on a discarded page, as a virtual address (R353). -/
  dscVa : Option Nat := none
  deriving DecidableEq, Repr

/-- Where bytes lie: device memory, host memory, the device-side copies of host lines (R256), the scratchpad of a core, the V
part of its spill store (R232), its copy templates (R175). -/
inductive Site where
  | dev | host | copy | sp (core : Nat) | spill (core : Nat) | tmpl (core : Nat)
  deriving DecidableEq, Repr

/-- A run of a store's bytes: where it lies, its virtual address, its offset in the extent (or its scratchpad
address), the bytes, each with its poison, and the bits of each byte that are stored, all of them where the list is
empty (R140); the key slot of its page, where the bytes lie encrypted (R339). -/
structure Seg where
  site : Site
  addr : Nat
  va : Nat
  off : Nat
  data : List (Byte × Bool)
  mask : List Byte := []
  key : Option (BitVec 13) := none
  deriving DecidableEq, Repr

/-- Where the elements of a V store go in its extent: from an offset on, raw or by the page's format (R140), or each to its own
offset, counted in bytes or in page elements (R143). -/
inductive VPlace where
  | run (off : Nat) (raw : Bool)
  | scatter (offs : List Nat) (elems : Bool)
  deriving DecidableEq, Repr

/-- What a V store through a token moves, as its word found it: its element type, the format entry of FX, the active elements
with their poison, and where they go. Their containers are formed by the page's format as the store is performed (R245). -/
structure VStore where
  et : ETy
  fx : Word
  els : List (Option (Nat × Bool))
  at_ : VPlace
  deriving DecidableEq, Repr

/-- What stands in a store queue (R94, R101, R138-R144, R177, R200, R249): bytes for an offset of a token's extent; the parts of a
scratchpad store; a V store through a token; an aperture copy that is to enter its channel; a FENCE. -/
inductive StoreOp where
  | bytes (off : Nat) (data : List Byte)
  | segs (gs : List Seg)
  | vec (w : VStore)
  | start (chan : Nat) (f : Flight)
  | fence (sc : Scope)
  deriving DecidableEq, Repr

/-- An entry of a store queue (R249): the token it goes through, none for a scratchpad address (R96, R144, R250), and its place
in the order of its stream. Where a store through a token lies is found as it leaves the queue (R93, R349). -/
structure QStore where
  op : StoreOp
  via : Option Tok := none
  seq : Nat := 0
  deriving DecidableEq, Repr

/-- A store visible at core scope (R249): its parts, and the stream that made it; commands (M or C) are agents of their own
(R248). -/
structure VisStore where
  segs : List Seg
  src : Agent
  deriving DecidableEq, Repr

/-- What stands in a load queue (R75, R97-R101, R138-R144, R199, R200, R250): an access, with what it read of its stream's
registers at issue, or a FENCE or MARK. Of a V word: its element type, the format entry of FX, the active elements, whether
an operand is poisoned, and the pattern of a gauge load. -/
inductive LoadOp where
  | load (d : XReg) (size : Nat)
  | sp (d : XReg)
  | amo (d : XReg) (f : AmoOp) (n v : Nat) (sc : Scope)
  | cas (d : XReg) (old new : Nat)
  | fence
  | mark (sc : Scope)
  | vld (et : ETy) (fx : Word) (d : VReg) (act : List Bool) (pois : Bool) (pat : Option (List Byte)) (raw : Bool)
  | vlds (et : ETy) (fx : Word) (d : VReg) (act : List Bool) (pois : Bool)
  | vgath (et : ETy) (fx : Word) (d : VReg) (act : List Bool) (offs : List Nat) (pois elems : Bool)
  deriving DecidableEq, Repr

/-- An entry of a load queue: the token, the offset or scratchpad address, the address of its S word, its place in the
order of its stream, and of a V word the ring state from which it was executed (R153, R363). -/
structure QLoad where
  op : LoadOp
  tok : Option Tok := none
  off : Nat := 0
  pc : BitVec 16 := 0
  seq : Nat := 0
  word : Option Engine := none
  deriving DecidableEq, Repr

/-- The registers and status of the S-stream (R16, R24, R207-R214). -/
structure SCore where
  x : Sparse Word := []
  pc : BitVec 16 := 0
  st : SStatus := .idle
  mode : Mode := .supervisor
  inHandler : Bool := false
  pendLost : Bool := false
  pendEng : Bool := false
  latch : Bool := false
  sst : Word := 0
  tstat : Word := 0
  schk : Bool := false
  tvec : Word := 0
  tepc : Word := 0
  tcause : Word := 0
  tval : Word := 0
  haz : List Hazard := []
  walk : Option Walk := none
  /-- The cycle from which the next instruction may issue (R72). -/
  ready : Nat := 0
  /-- Loads and atomics that have issued and not performed, oldest first (R75, R93, R250). -/
  loads : List QLoad := []
  /-- Stores of the stream not yet visible at core scope, oldest first (R249). -/
  queue : List QStore := []
  /-- Places given out in the order of the stream's accesses (R250). -/
  seq : Nat := 0
  /-- The ring table that a waiting FORK has read (R192). -/
  forkTab : Option (List Byte) := none
  /-- The spill store's S part (R232). -/
  spill : Sparse Word := []
  /-- The drawer tag table: valid entries with their 63-bit tags (R115). -/
  tags : Sparse (Option (BitVec 63)) := []
  deriving DecidableEq, Repr

/-- Bytes with their poison and the check values that differ from those of their contents (R395, R399). Of device memory also
the key that a 16-byte block is encrypted under, block by block and in wide areas (base, length, key; the newest first) for
blocks that have no tag of their own (R1, R366); bytes are kept as they read through that key. -/
structure Store where
  bytes : Sparse Byte := []
  pois : Sparse Bool := []
  chk : Sparse (Option (BitVec 16)) := []
  tags : Sparse (Option (BitVec 512)) := []
  areas : List (Nat × Nat × BitVec 512) := []
  deriving DecidableEq, Repr

/-- The registers and status of the V-stream (R16, R117-R153). -/
structure VCore where
  eng : Engine := {}
  v : Sparse VWord := []
  vp : Sparse (BitVec 16) := []
  p : Sparse PWord := []
  pp : Sparse Bool := []
  a : Sparse Word := []
  ap : Sparse Bool := []
  mailbox : Sparse (Option (Word × Word)) := []
  fmtIndex : BitVec 4 := 0
  gaugeOn : Bool := false
  gaugePat : BitVec 3 := 0
  /-- VST.STOP and VST.CODE (R26). -/
  vstStop : Bool := false
  vstCode : Byte := 0
  /-- SCHK.EN as it was at the last FORK (R77). -/
  schk : Bool := false
  haz : List Hazard := []
  wait : Option WaitOn := none
  /-- The word that waits, as it was decoded, and the token it read (R18, R218). -/
  cur : Option Instr := none
  curTok : Option Tok := none
  ready : Nat := 0
  loads : List QLoad := []
  queue : List QStore := []
  seq : Nat := 0
  /-- The spill store's V part (R142, R232). -/
  spill : Store := {}
  deriving DecidableEq, Repr

/-- The checksum state of a bank (R165). -/
structure Chk where
  valid : Bool := false
  pr : Sparse Word32 := []
  mr : Sparse Word32 := []
  pc : Sparse Word32 := []
  mc : Sparse Word32 := []
  deriving DecidableEq, Repr

/-- The matrix engine (R16, R162-R172, R187). -/
structure MCore where
  eng : Engine := {}
  flight : Option Flight := none
  /-- Commands taken from the ring by siblings and not yet complete (R185). -/
  taken : List Flight := []
  /-- acc0 to acc3: element (i, j) of bank b at b * 16384 + 128 i + j. -/
  acc : Sparse Word32 := []
  chk : Sparse Chk := []
  rowMarks : Sparse (BitVec 128) := []
  colMarks : Sparse (BitVec 128) := []
  /-- The governor has driven GOVST: until then it reads as it is at reset (R24). -/
  govOn : Bool := false
  /-- The governor's level in quarters (R187). -/
  level : Nat := 1
  /-- The core whose MMAP this array works for (R164). -/
  mmapOf : Option Nat := none
  deriving DecidableEq, Repr

/-- The copy engine and the aperture (R175, R177). -/
structure CCore where
  eng : Engine := {}
  flight : Option Flight := none
  taken : List Flight := []
  /-- Templates, 64 of 48 bytes. -/
  templates : Sparse Byte := []
  /-- The queues of the four aperture channels, the running copy first. -/
  chans : Sparse (List Flight) := []
  deriving DecidableEq, Repr

/-- The internal state of a slot (R225). -/
structure SlotSt where
  bytes : Nat := 0
  attached : Nat := 0
  committed : Bool := false
  deriving DecidableEq, Repr

/-- A stage-ring descriptor and its slots' internal state (R223-R225). -/
structure StageRing where
  conf : Word := 0
  err : Word := 0
  tags : BitVec 128 := 0
  slots : Sparse SlotSt := []
  deriving DecidableEq, Repr

/-- A semaphore (R220). -/
structure Sem where
  count : BitVec 16 := 0
  err : Bool := false
  deriving DecidableEq, Repr

/-- A side of a twin run (R283). -/
inductive TwinSide where
  | none | primary | shadow
  deriving DecidableEq, Repr

/-- The tile step a core holds (R22, R274). -/
structure StepInfo where
  walker : Nat
  jigId : Nat
  ordinal : Nat
  depth : Nat
  gang : GangId
  slot : SlotId
  rank : Nat
  twin : TwinSide := .none
  /-- Set when TLIMIT, a double trap or a cancellation ended it: its cause, the core that raised it, and whether it is an
  error (R276, R289, R321). -/
  ended : Option (Nat × Nat × Bool) := none
  /-- The shadow's overlay of write-set bytes (R283). -/
  overlay : Sparse (Option (Byte × Bool)) := []
  /-- Virtual sectors of the write set that this copy stored, for its signature (R283). -/
  sectors : Sparse Bool := []
  /-- Whether the core stored poison in the write set (R290). -/
  poisoned : Bool := false
  /-- JLAUNCHes of this core in the step (R203, R414). -/
  launches : Nat := 0
  deriving DecidableEq, Repr

/-- The panel a core belongs to (R277). -/
structure PanelReg where
  base : Byte := 0
  rank : BitVec 4 := 0
  size : BitVec 5 := 0
  deriving DecidableEq, Repr

/-- A core (R16). -/
structure Core where
  s : SCore := {}
  v : VCore := {}
  m : MCore := {}
  c : CCore := {}
  t : Sparse (Option Tok) := []
  mtes : Sparse Mte := []
  sems : Sparse Sem := []
  /-- Who waits at a semaphore, in the order they began (R198). -/
  waiters : List (SemId × Agent) := []
  fmt : Sparse Word := []
  rings : Sparse StageRing := []
  gauges : Sparse (Option (List Byte)) := []
  dbase : Word32 := 0
  dszlog : Byte := 0
  dn : BitVec 16 := 0
  imem : Sparse Byte := []
  spad : Store := {}
  /-- Stores visible at core scope and not yet at panel scope, oldest first (R249). -/
  buffer : List VisStore := []
  panel : PanelReg := {}
  season : Word32 := 0
  step : Option StepInfo := none
  /-- The jig whose step ran last (R274). -/
  lastJig : Option Nat := none
  /-- Under rotation test (R402). -/
  testing : Bool := false
  deriving DecidableEq, Repr

/-- A barrier of a panel (R201). -/
structure Barrier where
  phase : Bool := false
  arrived : List Nat := []
  deriving DecidableEq, Repr

/-- A panel, by its base core (R277); the stall wire is driven while `stall` is not empty (R344, R345). -/
structure Panel where
  bars : Sparse Barrier := []
  stall : List Nat := []
  /-- Stores visible at panel scope and not yet at device scope, oldest first, each with the core that stored (R249). -/
  buffer : List (Nat × VisStore) := []
  deriving DecidableEq, Repr

/-- A clamp-directory entry (R347); CORES is kept as pins per core. -/
structure Clamp where
  pins : Nat := 0
  cores : Sparse Nat := []
  dsc : Bool := false
  mig : Bool := false
  old : Bool := false
  peer : BitVec 35 := 0
  deriving DecidableEq, Repr

/-- A pair of the migration table (R355): the lines still missing are listed. -/
structure MigPair where
  ix : Nat
  oldUnit : Nat
  newUnit : Nat
  units : Nat
  leafPa : Nat
  /-- The revocation of the old units has completed (R356). -/
  settled : Bool := false
  missing : List Nat
  /-- The old homes of the migrations that this one has taken the place of, and the missing lines that still come from one of them
  (R415). -/
  olds : List Nat := []
  origin : Sparse (Option Nat) := []
  deriving DecidableEq, Repr

/-- Device, host and window memory, and what translation keeps (R337-R358). -/
structure Mem where
  dev : Store := {}
  host : Store := {}
  /-- The device-side copies of host lines, at the addresses of host memory (R256): their bytes with poison and check values, the
  128-byte lines that have one, the bytes that the device has stored and not written back, and by line the cores whose stores
  those are (R252). -/
  hcopy : Store := {}
  hheld : Sparse Bool := []
  hdirty : Sparse Bool := []
  hstored : Sparse (List Nat) := []
  /-- Walk-cache entries (R341): the doubleword read, at twice the address of the entry, plus one for half B. -/
  walkCache : Sparse (Option Word) := []
  clamp : Sparse Clamp := []
  /-- The section of H frames (R347). -/
  hclamp : Sparse Clamp := []
  mig : List MigPair := []
  /-- Retired frames and rows mapped to spares (R415). -/
  retired : Sparse Bool := []
  rows : Sparse Nat := []
  /-- Doublewords of the window as stores have left them, oldest first, that the dispatchers have not yet observed
  (R315): their addresses and values. -/
  rung : List (Nat × Nat) := []
  /-- The step under way meets, by physical address, a line of a migrating page that may not be pulled yet: it waits (R357). -/
  blocked : Bool := false
  deriving DecidableEq, Repr

/-- A gang (R279, R338, R366). -/
structure Gang where
  mapped : Bool := false
  root : Nat := 0
  part : BitVec 3 := 0
  saveBase : Nat := 0
  /-- The key slot of the save area (R366). -/
  saveKey : BitVec 13 := 0
  preempting : Bool := false
  restoring : Bool := false
  deriving DecidableEq, Repr

/-- Where a unit of work came from (R285-R289). -/
inductive Origin where
  | packet (slot : SlotId) (index : Nat)
  | launched (slot : SlotId) (id : Nat)
  | node (graph : Nat) (node : Nat)
  deriving DecidableEq, Repr

/-- A launched packet in the pending-launch pool (R203, R285): its launching unit, and its own once it has been taken. -/
structure Launch where
  id : Nat
  packet : List Byte
  depth : Nat
  parent : Nat
  unit : Option Nat := none
  deriving DecidableEq, Repr

/-- A queue slot (R313-R321). -/
structure QSlot where
  qbase : Word := 0
  qconf : Word := 0
  qdbva : Word := 0
  qheadva : Word := 0
  tail : Word := 0
  head : Word := 0
  gang : GangId := 0
  mapped : Bool := false
  xlf : Bool := false
  mal : Bool := false
  ovr : Bool := false
  /-- Packets taken and not complete. -/
  open_ : List Nat := []
  /-- A WAIT taken and still in force: its index and packet. -/
  wait : Option (Nat × List Byte) := none
  /-- SIGNALs taken and not yet performed: index, packet, and the launched units each counts as earlier (R285). -/
  signals : List (Nat × List Byte × List Nat) := []
  /-- The word of the oldest SIGNAL, or of the WAIT, could not be reached: it is tried again when XLF is cleared (R448). -/
  signalFailed : Bool := false
  waitFailed : Bool := false
  /-- Launched units not complete, in launch order. -/
  launched : List Launch := []
  /-- Launched packet identities given out. -/
  nextLaunch : Nat := 0
  /-- COPY packets in progress: index, unit and packet. -/
  copies : List (Nat × Nat × List Byte) := []
  /-- The units that the WAITs taken so far have waited for by their BAR flags, on which every later packet depends (R319). -/
  waitDeps : List Nat := []
  deriving DecidableEq, Repr

/-- What a step that ended ERROR says (R289). -/
structure FInfo where
  cause : BitVec 16 := 0
  core : Byte := 0
  cv : Bool := false
  deriving DecidableEq, Repr

/-- A step of a jig on its panels: its ordinal and the base cores of its copies, the primary first (R283). -/
structure Running where
  ordinal : Nat
  bases : List Nat
  deriving DecidableEq, Repr

/-- How a twin copy has ended: its signature, or a cause with its core (R283, R284). -/
structure TwinEnd where
  ordinal : Nat
  side : TwinSide
  sig : Word32
  err : Option FInfo
  deriving DecidableEq, Repr

/-- A skip-eligible descriptor (R291). -/
structure SkipDesc where
  mapva : Nat := 0
  tsva : Nat := 0
  theta : Word32 := 0
  eps : Word32 := 0
  cur : Nat := 0
  nt : Nat := 1
  ns : Nat := 1
  pmax : Nat := 0
  abs : Bool := false
  bound : Bool := false
  gang : GangId := 0
  /-- A jig is running on it. -/
  busy : Bool := false
  deriving DecidableEq, Repr

/-- A jig in a walker pair (R273). -/
structure Jig where
  /-- Its unit. -/
  id : Nat
  origin : Origin
  gang : GangId
  slot : SlotId
  depth : Nat
  crec : Nat
  /-- The 512 bytes of its record. -/
  record : List Byte
  /-- E0 in force (R322). -/
  e0 : Nat
  total : Nat
  next : Nat := 0
  /-- Steps that have ended. -/
  ended : Nat := 0
  running : List Running := []
  /-- Steps that ended without ERROR or were skipped (R289, R299). -/
  good : Nat := 0
  /-- The lowest ordinal of a step that ended ERROR, and its FINFO (R289). -/
  err : Option (Nat × FInfo) := none
  /-- A cause of the jig itself: no panel of its size is left (R408). -/
  cause : Option Nat := none
  cancelled : Bool := false
  poisoned : Bool := false
  /-- The skip-eligible descriptor and its step (R292). -/
  skip : Option (BitVec 6 × Nat) := none
  /-- That descriptor as it stood when the jig was taken, by which replay carries its decisions out (R303). -/
  desc : SkipDesc := {}
  /-- The next ordinal has been decided compute (R298). -/
  decided : Bool := false
  /-- The sketches read at the decisions of steps to be computed, by ordinal (R298, R299). -/
  sketches : List (Nat × List (Byte × Bool)) := []
  /-- Ordinals to be run again on other panels after a twin mismatch, with the bases they ran on (R284). -/
  rerun : List Running := []
  retried : List Nat := []
  twins : List TwinEnd := []
  /-- Reserved for a MULTI launch and not committed: GID and PMASK (R329). -/
  multi : Option (BitVec 32 × Byte) := none
  /-- The base cores of the groups reserved for it (R278, R329): for a twin jig one of each half. -/
  reserved : List Nat := []
  /-- It waits for the replay of what it depends on (R414). -/
  waits : Bool := false
  /-- It has completed before and runs again from the journal (R303, R414). -/
  again : Bool := false
  /-- The effective priority it was taken with (R280). -/
  prio : Nat := 0
  /-- Its place in the order in which jigs began to wait for a panel (R280). -/
  since : Nat := 0
  deriving DecidableEq, Repr

/-- The state of a graph node (R287). -/
inductive NodeSt where
  | pending | started | settled
  deriving DecidableEq, Repr

/-- A node of a graph in flight (R286). -/
structure Node where
  ty : Byte
  npred : Byte
  succ : List (BitVec 16)
  body : List Byte
  st : NodeSt := .pending
  gotDone : Nat := 0
  gotSkip : Nat := 0
  poisonIn : Bool := false
  /-- Units it has a declared dependence on (R322). -/
  deps : List Nat := []
  deriving DecidableEq, Repr

/-- How a node of a graph has ended (R290): the unit of its own that it ran as, if any, its status, whether it left poison, and its
FINFO. -/
structure NodeOut where
  node : Nat
  unit : Option Nat
  status : Nat
  pois : Bool
  info : FInfo
  deriving DecidableEq, Repr

/-- A graph in flight (R286-R290). -/
structure Graph where
  /-- Its unit. -/
  id : Nat
  origin : Origin
  gang : GangId
  slot : SlotId
  depth : Nat
  crec : Nat
  entry : Nat
  nodes : List Node
  /-- Node completions with status DONE (R335). -/
  done : Nat := 0
  rearm : Bool := false
  cancelled : Bool := false
  /-- The node that ended ERROR first, and its FINFO (R289). -/
  err : Option (Nat × FInfo) := none
  /-- A node ended POISONED_INPUT. -/
  poisonedInput : Bool := false
  poisoned : Bool := false
  multi : Option (BitVec 32 × Byte) := none
  /-- What it has reserved for a MULTI launch: a walker pair, and the base and size of a panel (R329). -/
  reserved : Option (Nat × Nat × Nat) := none
  /-- The effective priority it was taken with (R280). -/
  prio : Nat := 0
  /-- Units its launch depends on. -/
  deps : List Nat := []
  /-- Units its ENTRY depends on when the graph is re-armed. -/
  rearmDeps : List Nat := []
  /-- How its nodes have ended, oldest first: node, its own unit where it has one, status, poison, FINFO (R290, R414). -/
  outcomes : List NodeOut := []
  deriving DecidableEq, Repr

/-- A host ring (R323-R327). -/
structure HostRing where
  hrbase : Word := 0
  hrconf : Word := 0
  hrheadva : Word := 0
  hrseasva : Word := 0
  hrtail : Word := 0
  /-- Entries appended since the last message. -/
  uncovered : Nat := 0
  /-- Entries appended by units that are not seasoned: index and unit. -/
  greens : List (Nat × Nat) := []
  /-- A RETRACT entry still to be appended: the lowest retracted index (R326). -/
  retract : Option Nat := none
  /-- The gang whose HOSTRING nodes use it. -/
  gang : Option GangId := none
  deriving DecidableEq, Repr

/-- What a unit of work is, as far as replay needs it (R414). -/
inductive UnitKind where
  | jig (start : Jig)
  | graph
  | copy (src dst len : Nat)
  | ring (r : Nat) (tag : Nat) (payload : Nat)
  deriving DecidableEq, Repr

/-- A unit taken and not yet seasoned (R407): a jig, a graph, a COPY, or a HOSTRING node. -/
structure WorkUnit where
  id : Nat
  gang : GangId
  slot : SlotId
  kind : UnitKind
  crec : Option Nat
  /-- Units it has a declared dependence on. -/
  deps : List Nat := []
  /-- Cores that have run a step of it since their last passing test. -/
  ran : List Nat := []
  /-- C when its final GREEN status was written, and the eight bytes [23:16], FSTEP and FINFO written then. -/
  stamp : Option Nat := none
  green : List Byte := []
  /-- It is to run again (R414). -/
  replay : Bool := false
  /-- A graph's unit, once the graph is complete: the graph as it stood then (R414). -/
  graph : Option Graph := none
  deriving DecidableEq, Repr

/-- What the journal records, each with the unit it belongs to (R410). -/
inductive JrnRec where
  | packet (unit : Nat) (bytes : List Byte)
  | jlaunch (unit ordinal rank n : Nat) (status : Nat)
  | control (unit : Nat) (value : Nat)
  | decision (unit : Nat) (tile : Nat) (skip : Bool) (run : Nat) (sketch : List (Byte × Bool))
  | inplace (unit : Nat) (gang : GangId) (vbase : Nat) (bytes : List (Byte × Bool))
  | flag (addr : Nat) (value : Word)
  | window (addr : Nat) (bytes : List Byte)
  deriving DecidableEq, Repr

/-- The dispatchers' state (R269-R309, R328-R329). -/
structure Disp where
  parts : Nat := 1
  /-- The default key slot of each partition (R311). -/
  barKeys : Sparse (BitVec 13) := []
  gangs : Sparse Gang := []
  slots : Sparse QSlot := []
  jigs : Sparse (Option Jig) := []
  nextUnit : Nat := 0
  /-- Places in the order of waiting given out (R280). -/
  nextWait : Nat := 0
  /-- The cycle since which the head packet of a queue, or its first launched unit, has been eligible (R280). -/
  since : Sparse (Option Nat) := []
  graphs : Sparse (Option Graph) := []
  descs : Sparse SkipDesc := []
  hostRings : Sparse HostRing := []
  /-- Entries of the pending-launch pool in use (R203). -/
  poolUsed : Nat := 0
  /-- MULTI launches whose reservations have been released: GID and PMASK (R329). -/
  multiFailed : List (BitVec 32 × Byte) := []
  /-- Every queue and every core stopped: BENCHLESS (R421), THERMTRIP (R436). -/
  halted : Bool := false
  deriving DecidableEq, Repr

/-- A context saved (R364, R366). -/
structure Saved where
  core : Core
  walker : Nat
  ordinal : Nat
  rank : Nat
  size : Nat
  oldCore : Nat
  /-- The number of its record in the save area, and of its twin step's overlay (R366). -/
  record : Nat := 0
  overlay : Option Nat := none
  deriving DecidableEq, Repr

/-- What a fault record was written for: an XLAT, the re-walk of a mortise table entry (R351), the cut of the tokens of a
step (R275), or the re-walk of the remote token of a Dovetail window (R374). -/
inductive FaultFor where
  | xlat
  | rewalk (i : BitVec 6)
  | cut (walker : Nat)
  | window (win : Nat)
  deriving DecidableEq, Repr

/-- The replies of R343, and PINWAIT passing (R346). -/
inductive Reply where
  | resolved | declined | noframe | noframeOwn | expired
  deriving DecidableEq, Repr

/-- A fault record (R343) with its last reply. -/
structure FaultRec where
  ix : Nat
  va : Nat
  kind : Byte
  level : Byte
  core : Nat
  gang : GangId
  entryPa : Nat
  owner : FaultFor
  reply : Option Reply := none
  /-- A NOFRAME reply was given, the first one in this cycle (R346). -/
  noframe : Bool := false
  since : Nat := 0
  /-- Times it was offered. -/
  offers : Nat := 1
  deriving DecidableEq, Repr

/-- A revocation in progress (R349). -/
structure Revoc where
  ix : Nat
  reason : Nat
  units : List Nat
  /-- The units of the pieces that it has not reached yet, in increasing order (R350). -/
  rest : List Nat := []
  deriving DecidableEq, Repr

/-- Events the device reports to the active Bench. -/
inductive BenchEvent where
  | discardedStore (gang : GangId) (core : Nat) (va : Nat)
  | revocationDone (ix : Nat)
  | malformedRequest (ix : Nat)
  | unitFree (unit : Nat)
  | poisoned (addr : Nat)
  | refused (win : BitVec 16) (off : Nat)
  | flagRefused (win : BitVec 16) (off : Nat)
  | noFlag (slot : BitVec 12)
  | testFailed (core : Nat)
  | chksum (core : Nat)
  | temperature (half : Bool)
  | hostWritePoison (addr : Nat)
  | retireFrames (frames : List Nat)
  /-- A request record that has had no answer is offered again after a takeover (R421). -/
  | requestAgain (ix : Nat)
  deriving DecidableEq, Repr

/-- The state table that the active Bench writes and the standby mirrors (R420): its version and its contents, which are the
firmware's. -/
structure BenchTable where
  version : Nat := 0
  bytes : List Byte := []
  deriving DecidableEq, Repr

/-- The Benches as far as the device's own behaviour meets them (R343-R355, R420-R422). -/
structure Bench where
  activeB : Bool := false
  runA : Bool := false
  runB : Bool := false
  /-- The other Bench is being reloaded after a takeover (R421). -/
  reloading : Bool := false
  faults : List FaultRec := []
  nextFault : Nat := 0
  requests : List (Nat × RevokeReq) := []
  revocs : List Revoc := []
  events : List BenchEvent := []
  pinwaitMs : Nat := 10
  keys : Sparse (Option (BitVec 512)) := []
  image : List Byte := []
  /-- The 4 MiB SRAM of Bench A and of Bench B (R420). -/
  sramA : Sparse Byte := []
  sramB : Sparse Byte := []
  /-- A core of the active Bench has taken a double trap (R212, R421). -/
  lost : Bool := false
  /-- The state table of the active Bench, and the standby's mirror of it (R420). -/
  table : BenchTable := {}
  mirror : BenchTable := {}
  deriving DecidableEq, Repr

/-- A Dovetail window (R374). -/
structure Window where
  exported : Bool := false
  gang : GangId := 0
  mte : Mte := {}
  srcDev : BitVec 22 := 0
  srcAny : Bool := false
  deriving DecidableEq, Repr

/-- The states of a channel (R376). -/
inductive ChanSt where
  | closed | opening | opened | shutting | faulted
  deriving DecidableEq, Repr

/-- A descriptor of a channel's log (R379). -/
structure DvDesc where
  core : Nat
  rank : Nat
  jig : Nat
  ordinal : Nat
  spa : Nat
  len : Nat
  woff : Nat
  packets : Nat
  deriving DecidableEq, Repr

/-- An epoch of a channel (R378-R380): after its DVREL the count is fixed, the flag is known and copies are sent. -/
structure Epoch where
  num : BitVec 2
  count : Nat := 0
  /-- Packets of the DVWs counted that have been sent (R380). -/
  sent : Nat := 0
  log : List DvDesc := []
  released : Bool := false
  gen : Nat := 0
  copies : Nat := 0
  /-- BUSY stopped the copies of this generation (R384). -/
  busy : Bool := false
  /-- The log is to be replayed at this generation (R387). -/
  replay : Bool := false
  /-- The number of its DVREL. -/
  ser : Nat := 0
  flagOff : Nat := 0
  flag : Word32 := 0
  deriving DecidableEq, Repr

/-- A command that has issued on a channel and waits for epochs to settle (R183, R376): a DVREL with its flag's offset and value,
or a DVSHUT. -/
inductive ChanPend where
  | rel (off : Nat) (flag : Word32)
  | shut
  deriving DecidableEq, Repr

/-- A channel of a gang (R376-R379). -/
structure Channel where
  st : ChanSt := .closed
  win : BitVec 16 := 0
  dev : BitVec 22 := 0
  slot : BitVec 12 := 0
  tgap : Nat := 20
  openEpoch : BitVec 2 := 0
  epochs : List Epoch := []
  /-- Sends of the control packet that waits for its acknowledgement (R377). -/
  sends : Nat := 0
  /-- The number that its next DVOPEN, DVREL or DVSHUT gets, that of the DVOPEN that opened it, and that of the command whose
  control packet waits. -/
  next : Nat := 0
  life : Nat := 0
  ctl : Nat := 0
  /-- The command that waits before all later ones, with its number (R376). -/
  pend : Option (Nat × ChanPend) := none
  /-- How commands that wait have ended, by number: the completion code, 0 for OK. -/
  ended : List (Nat × Nat) := []
  deriving DecidableEq, Repr

/-- What a RELEASE says: its count, the flag's window and offset, the flag's value (R372). -/
structure RelInfo where
  count : Nat
  win : Nat
  off : Nat
  value : Word32
  deriving DecidableEq, Repr

/-- An epoch at a receiver slot (R381). -/
structure RecvEpoch where
  arr : Nat := 0
  gen : Nat := 0
  /-- The release held for the current generation. -/
  rel : Option RelInfo := none
  /-- The latest RELEASE received for the epoch, of any generation. -/
  last : Option RelInfo := none
  refused : Bool := false
  /-- A GAP has been sent and no packet of the new generation has arrived: its generation and count (R386). -/
  gapping : Option (Nat × Nat) := none
  /-- A RELEASE of the current generation has arrived (R388). -/
  relSeen : Bool := false
  deriving DecidableEq, Repr

/-- An arrival-counter slot (R381). -/
structure RecvSlot where
  used : Bool := false
  src : BitVec 22 := 0
  win : BitVec 16 := 0
  last : BitVec 2 := 3
  eps : Sparse RecvEpoch := []
  /-- The channel was faulted and FAULT waits for its acknowledgement, with its reason (R388). -/
  fault : Option (BitVec 3) := none
  sends : Nat := 0
  deriving DecidableEq, Repr

/-- A flit of a packet in a port's retry buffer (R371). -/
structure Flit where
  num : BitVec 12
  body : List (Byte × Bool)
  pk : DvPacket
  deriving DecidableEq, Repr

/-- A Dovetail port (R370, R371). -/
structure Port where
  /-- The number of the next flit sent. -/
  num : BitVec 12 := 0
  /-- Flits sent and not yet acknowledged, oldest first; at most 512. -/
  retry : List Flit := []
  /-- Flits that wait for a place in the retry buffer. -/
  queue : List (List (Byte × Bool) × DvPacket) := []
  /-- Times in a row that a flit has been asked for again. -/
  asked : Nat := 0
  /-- The number expected next. -/
  want : BitVec 12 := 0
  /-- Flits received in a row that failed their CRC. -/
  failed : Nat := 0
  /-- The bytes received of a packet, and whether all its sectors passed their check values so far. -/
  bytes : List (Byte × Bool) := []
  sound : Bool := true
  deriving DecidableEq, Repr

/-- An error-form flag that waits (R349, R388): its slot, window and sender, its offset, its value. -/
structure ErrFlag where
  slot : Nat
  win : Nat
  src : BitVec 22
  off : Nat
  value : Nat
  deriving DecidableEq, Repr

/-- The bytes of an admitted WRITE of a slot's epoch that are not yet visible (R391). -/
structure Inbound where
  slot : Nat
  epoch : BitVec 2
  segs : List Seg
  deriving DecidableEq, Repr

/-- The Dovetail fabric (R370-R391). -/
structure Dovetail where
  windows : Sparse Window := []
  chans : Sparse Channel := []
  recv : Sparse RecvSlot := []
  /-- Error-form flags that wait for a STALE remote token, or behind one of their slot that does (R349, R388). -/
  errFlags : List ErrFlag := []
  /-- Admitted WRITEs that have been counted and are not yet visible (R391). -/
  inbound : List Inbound := []
  /-- Packets sent and not yet delivered or dropped, oldest first. -/
  sent : List DvPacket := []
  /-- Packets that wait: arrivals through a STALE remote token (R374), gap reports that meet a save or a restore (R387). -/
  held : List DvPacket := []
  /-- Packets whose flits have all arrived here and that are addressed to this device (R371, R372). -/
  arrived : List DvPacket := []
  tgap : Nat := 20
  ports : Sparse Port := []
  deriving DecidableEq, Repr

/-- Integrity state (R402-R418). -/
structure Integrity where
  c : Nat := 0
  retired : Sparse Bool := []
  rotActive : Bool := false
  rotCore : Byte := 0
  /-- D(G, k) at 256 G + k (R405). -/
  dirty : Sparse (Option Nat) := []
  /-- W(G) + 1 as last written to SEASVA words (R405). -/
  level : Sparse Nat := []
  /-- The journal, oldest first. -/
  journal : List JrnRec := []
  /-- Where in device memory the Bench has reserved the journal, and the key slot that it is encrypted with (R410). -/
  jrnArea : Option (Nat × BitVec 13) := none
  units : List WorkUnit := []
  /-- Cores to be tested ahead of turn (R403). -/
  ahead : List Nat := []
  /-- The core whose turn is next, and the cores passed over because they held a step (R402, R403). -/
  rotNext : Nat := 0
  skipped : List Nat := []
  /-- Cores that have been tested ahead of their turn, which the rotation passes when it comes to them (R403). -/
  early : List Nat := []
  deriving DecidableEq, Repr

/-- States of the lease gate (R427, R430). -/
inductive GateSt where
  | hold | scrub | clean | loading | running | benchless | failed
  deriving DecidableEq, Repr

/-- Where an SPDM connection stands (R426). -/
inductive SpdmSt where
  | start | version | capabilities | negotiated
  deriving DecidableEq, Repr

/-- An SPDM connection: where it stands, and the messages since GET_VERSION, which signatures cover (R426). -/
structure SpdmConn where
  st : SpdmSt := .start
  log : List Byte := []
  deriving DecidableEq, Repr

/-- Answers on the sideband (R427). -/
inductive SideAnswer where
  | busy
  | status (w : Word)
  | record (bytes : List Byte)
  deriving DecidableEq, Repr

/-- The Plinth (R423-R430). -/
structure Plinth where
  gate : GateSt := .clean
  trig : BitVec 4 := 0
  ldErr : BitVec 4 := 0
  nonce : BitVec 256 := 0
  opTime : Word := 0
  latchedNonce : BitVec 256 := 0
  latchedTime : Word := 0
  seq : Nat := 0
  record : List Byte := []
  meas : Sparse (BitVec 384) := []
  spdm0 : SpdmConn := {}
  spdm1 : SpdmConn := {}
  /-- Responses formed, per transport, newest last. -/
  responses : List (Bool × List Byte) := []
  /-- Sideband answers, newest last. -/
  sideband : List SideAnswer := []
  staging : Sparse Byte := []
  ready : Word := 0
  tStart : Word := 0
  /-- LDCTL.GO (R430). -/
  go : Bool := false
  /-- The Plinth's own S-stream core and its 256 KiB of SRAM (R423). -/
  cpu : SCore := { st := .running }
  sram : Sparse Byte := []
  deriving DecidableEq, Repr

/-- Power and temperature (R434-R436). -/
structure Power where
  ceilA : Byte := 255
  ceilB : Byte := 255
  temp : Word := 0
  watts : BitVec 16 := 0
  thermtrip : Bool := false
  /-- Refresh doubled, per half. -/
  refreshA : Bool := false
  refreshB : Bool := false
  on : Bool := true
  /-- From 95 °C on in a half: the cycle in which the Bench last lowered the half's ceiling (R436). -/
  hotA : Option Nat := none
  hotB : Option Nat := none
  deriving DecidableEq, Repr

/-- The host link's other registers and its outputs (R310, R327). -/
structure HostLink where
  /-- MSI-X vectors unmasked, and PBA bits of masked ones (R327): under PCIe rules every vector is masked at reset. -/
  unmasked : Sparse Bool := []
  pba : Sparse Bool := []
  /-- Messages sent, newest last. -/
  messages : List (BitVec 11) := []
  /-- What host reads returned, newest last: bytes, and whether poison was indicated. -/
  reads : List (List Byte × Bool) := []
  deriving DecidableEq, Repr

/-- What moves next (log entry 1). -/
inductive Sched where
  | run (core : CoreNum) (ag : Agent) (budget : Nat)
  | event (i : Instr)
  /-- A turn of a stream whose loads stay in its load queue as they issue (R250). -/
  | lazy (core : CoreNum) (ag : Agent)
  /-- The oldest access in the load queue of an S-stream, or with `v` of a V-stream, performs (R250). -/
  | perform (core : CoreNum) (v : Bool)
  /-- A half's walk cache gives up its entry for the doubleword at an address (R341). -/
  | evict (half : Bool) (entry : Nat)
  /-- The host reads eight bytes of BAR0 (R6, R311). -/
  | hostReg (off : BitVec 24)
  /-- The Bench sets the device's T_gap in microseconds (R377). -/
  | tgap (us : BitVec 10)
  /-- The Bench assigns a partition its default key slot (R311). -/
  | barKey (part : BitVec 3) (slot : BitVec 13)
  /-- The Bench reserves the journal's 8 GiB of device memory, with a key slot (R410). -/
  | journalArea (base : BitVec 51) (key : BitVec 13)
  /-- The Bench sets PINWAIT in milliseconds (R346). -/
  | pinwait (ms : BitVec 10)
  /-- The active Bench writes the state table, which the standby mirrors (R420). -/
  | table (version : Nat) (bytes : List Byte)
  deriving DecidableEq, Repr

/-- The whole machine. -/
structure State where
  cores : Sparse Core := []
  panels : Sparse Panel := []
  mem : Mem := {}
  disp : Disp := {}
  bench : Bench := {}
  dv : Dovetail := {}
  integ : Integrity := {}
  plinth : Plinth := {}
  power : Power := {}
  link : HostLink := {}
  saved : List (GangId × List Saved) := []
  /-- Agents that move next, in order; where it is empty, `turn` of `cur` moves. -/
  agenda : List Sched := []
  cur : CoreNum := 0
  turn : Agent := .s
  /-- Units of work a command may do in one step. -/
  budget : Nat := 1000000
  /-- Whether a load that issues stays in its load queue; else it performs at once where it can. -/
  lazy : Bool := false
  /-- Cycles of the arithmetic clock since power-on or scrub (R27). -/
  clock : Nat := 0
  /-- The number of the next free value (log entry 2). -/
  free : Nat := 0
  deriving DecidableEq, Repr

/-- The machine right after reset (R6): power-on and the lease-gate scrub are the same reset. MEAS0 has been extended (R425), and
the power-on gate is counted (R430). -/
def State.reset : State := { plinth := { meas := Sparse.put 0 [] 0 (selfMeasure 0), seq := 1 } }

/-- Why the machine stops with a fault: no instruction of the spec stops the machine, so nothing raises one. -/
inductive Fault where
  /-- Raised by no meaning; the type has to be inhabited for its outcome to be written. Safe. -/
  | unreachable
  deriving DecidableEq, Repr

/-- Why a step is refused. -/
inductive Refusal where
  /-- An instruction that has no meaning yet; raised in Dispatch.lean only. Safe. -/
  | notModelled (mnemonic : String)
  deriving DecidableEq, Repr

end Sys2Proof.Machine
end

