-- ==== Sys2Proof/Machine/Ops.lean ====
section
/-! DEFINITION. The named operations over cores and registers, the taking of an exception and the return from one.
A meaning acts on the core `cur` unless its event names a core. -/

namespace Sys2Proof.Machine

open Sys2Proof

/-- The outcome of a step of this machine. -/
abbrev Out := Host.Outcome State Fault Refusal

/-- A core by number. -/
def State.core (s : State) (k : Nat) : Core := Sparse.get {} s.cores k

/-- Replace a core. -/
def State.setCore (s : State) (k : Nat) (c : Core) : State := { s with cores := Sparse.put {} s.cores k c }

/-- The number of the core that the instruction runs on. -/
def State.curN (s : State) : Nat := s.cur.toNat

/-- The core that the instruction runs on. -/
def State.me (s : State) : Core := s.core s.curN

/-- Replace the core that the instruction runs on. -/
def State.setMe (s : State) (c : Core) : State := s.setCore s.curN c

/-- Change a core. -/
def State.onCore (s : State) (k : Nat) (f : Core → Core) : State := s.setCore k (f (s.core k))

/-- Change the S-stream of a core. -/
def Core.onS (c : Core) (f : SCore → SCore) : Core := { c with s := f c.s }

/-- Change the V-stream of a core. -/
def Core.onV (c : Core) (f : VCore → VCore) : Core := { c with v := f c.v }

/-- Change the matrix engine of a core. -/
def Core.onM (c : Core) (f : MCore → MCore) : Core := { c with m := f c.m }

/-- Change the copy engine of a core. -/
def Core.onC (c : Core) (f : CCore → CCore) : Core := { c with c := f c.c }

/-- An x register; x0 reads zero (R17). -/
def Core.xr (c : Core) (n : XReg) : Word := if n = 0#6 then 0 else Sparse.get 0 c.s.x n.toNat

/-- Write an x register; a write of x0 is discarded (R17). -/
def Core.setX (c : Core) (n : XReg) (v : Word) : Core :=
  if n = 0#6 then c else c.onS (fun s => { s with x := Sparse.put 0 s.x n.toNat v })

/-- A mortise register; t0 reads the null token (R17). -/
def Core.tr (c : Core) (n : TReg) : Option Tok := if n = 0#5 then none else Sparse.get none c.t n.toNat

/-- Write a mortise register; a write of t0 is discarded (R17). -/
def Core.setT (c : Core) (n : TReg) (t : Option Tok) : Core :=
  if n = 0#5 then c else { c with t := Sparse.put none c.t n.toNat t }

/-- A v register (R16). -/
def Core.vr (c : Core) (n : VReg) : VWord := Sparse.get 0 c.v.v n.toNat

/-- The poison of a v register, one bit per 32-byte sector (R119). -/
def Core.vpois (c : Core) (n : VReg) : BitVec 16 := Sparse.get 0 c.v.vp n.toNat

/-- Write a v register and its poison. -/
def Core.setV (c : Core) (n : VReg) (v : VWord) (p : BitVec 16) : Core :=
  c.onV (fun w => { w with v := Sparse.put 0 w.v n.toNat v, vp := Sparse.put 0 w.vp n.toNat p })

/-- A predicate register; p0 reads all ones (R17). -/
def Core.pr (c : Core) (n : PReg) : PWord := if n = 0#5 then BitVec.allOnes 1024 else Sparse.get 0 c.v.p n.toNat

/-- The poison of a predicate register (R119). -/
def Core.ppois (c : Core) (n : PReg) : Bool := if n = 0#5 then false else Sparse.get false c.v.pp n.toNat

/-- Write a predicate register and its poison; a write of p0 is discarded (R17). -/
def Core.setP (c : Core) (n : PReg) (v : PWord) (p : Bool) : Core :=
  if n = 0#5 then c
  else c.onV (fun w => { w with p := Sparse.put 0 w.p n.toNat v, pp := Sparse.put false w.pp n.toNat p })

/-- An a-register; a0 reads zero (R17). -/
def Core.ar (c : Core) (n : AReg) : Word := if n = 0#4 then 0 else Sparse.get 0 c.v.a n.toNat

/-- The poison of an a-register (R119). -/
def Core.apois (c : Core) (n : AReg) : Bool := if n = 0#4 then false else Sparse.get false c.v.ap n.toNat

/-- Write an a-register and its poison; a write of a0 is discarded (R17). -/
def Core.setA (c : Core) (n : AReg) (v : Word) (p : Bool) : Core :=
  if n = 0#4 then c
  else c.onV (fun w => { w with a := Sparse.put 0 w.a n.toNat v, ap := Sparse.put false w.ap n.toNat p })

/-- A format table entry (R36). -/
def Core.fmtAt (c : Core) (k : Nat) : Word := Sparse.get 0 c.fmt k

/-- A stage-ring descriptor (R223). -/
def Core.ring (c : Core) (n : Nat) : StageRing := Sparse.get {} c.rings n

/-- Replace a stage-ring descriptor. -/
def Core.setRing (c : Core) (n : Nat) (r : StageRing) : Core := { c with rings := Sparse.put {} c.rings n r }

/-- A mortise table entry (R237). -/
def Core.mte (c : Core) (i : Nat) : Mte := Sparse.get {} c.mtes i

/-- Replace a mortise table entry. -/
def Core.setMte (c : Core) (i : Nat) (m : Mte) : Core := { c with mtes := Sparse.put {} c.mtes i m }

/-- The mortise table entry that a token names; the null token names an entry that is NULL (R93, R236). -/
def Core.mteOf (c : Core) (t : Option Tok) : Mte :=
  match t with
  | none => {}
  | some t => if (c.mte t.idx.toNat).gen = t.gen then c.mte t.idx.toNat else {}

/-- OR flags into SST (R25). -/
def Core.orSst (c : Core) (w : Word) : Core := c.onS (fun s => { s with sst := s.sst ||| w })

/-- SST.OOX (R25). -/
def sstOOX : Word := 0x4000#64
/-- SST.DSCW (R25). -/
def sstDSCW : Word := 0x8000#64
/-- SST.NV (R25). -/
def sstNV : Word := 0x10#64
/-- SST.DZ (R25). -/
def sstDZ : Word := 0x8#64
/-- SST.OF (R25). -/
def sstOF : Word := 0x4#64
/-- SST.UF (R25). -/
def sstUF : Word := 0x2#64
/-- SST.NX (R25). -/
def sstNX : Word := 0x1#64

/-- Set SST.OOX where a condition holds. -/
def Core.oox (c : Core) (b : Bool) : Core := if b then c.orSst sstOOX else c

/-- Set SST.DSCW where a condition holds. -/
def Core.dscw (c : Core) (b : Bool) : Core := if b then c.orSst sstDSCW else c

/-- The S-stream goes on at the next word (R53). -/
def Core.advance (c : Core) : Core := c.onS (fun s => { s with pc := s.pc + 4#16, st := .running })

/-- The S-stream goes on at an address (R53): bits [15:2] of it. -/
def Core.jumpTo (c : Core) (a : BitVec 16) : Core := c.onS (fun s => { s with pc := a &&& 0xFFFC#16, st := .running })

/-- The S-stream waits at its instruction (R197). -/
def Core.waitS (c : Core) (w : WaitOn) : Core := c.onS (fun s => { s with st := .waiting w })

/-- The current core's S-stream completes its instruction with a result for `d`. -/
def State.retireX (s : State) (d : XReg) (v : Word) : State := s.setMe ((s.me.setX d v).advance)

/-- The current core's S-stream completes its instruction. -/
def State.retire (s : State) : State := s.setMe s.me.advance

/-- The base core of a core's panel; a core in no panel stands alone (R277). -/
def Core.panelBase (c : Core) (k : Nat) : Nat := if c.panel.size = 0#5 then k else c.panel.base.toNat

/-- The size of a core's panel, at least 1. -/
def Core.panelSize (c : Core) : Nat := max 1 c.panel.size.toNat

/-- The core of rank `r` of a core's panel (R277). -/
def Core.sibling (c : Core) (k r : Nat) : Nat := c.panelBase k + r

/-- The cores of a core's panel. -/
def Core.panelCores (c : Core) (k : Nat) : List Nat := (List.range c.panelSize).map (fun r => c.panelBase k + r)

/-- A panel by its base core. -/
def State.panel (s : State) (b : Nat) : Panel := Sparse.get {} s.panels b

/-- Replace a panel. -/
def State.setPanel (s : State) (b : Nat) (p : Panel) : State := { s with panels := Sparse.put {} s.panels b p }

/-- The half a core lies in: false A, true B (R26). -/
def halfOf (k : Nat) : Bool := decide (128 ≤ k)

/-- Report an event to the active Bench. -/
def State.tell (s : State) (e : BenchEvent) : State := { s with bench := { s.bench with events := s.bench.events ++ [e] } }

/-- Draw a free value (log entry 2). -/
def State.draw (s : State) : BitVec 64 × State := (Config.freeValue s.free, { s with free := s.free + 1 })

/-- An asynchronous cause becomes pending and sets the event latch (R211, R214). -/
def Core.pendLostTrap (c : Core) : Core := c.onS (fun s => { s with pendLost := true, latch := true })

/-- ENGINE_ERROR becomes pending (R71, R211, R214). -/
def Core.pendEngTrap (c : Core) : Core := c.onS (fun s => { s with pendEng := true, latch := true })

/-- The event latch is set (R214). -/
def Core.setLatch (c : Core) : Core := c.onS (fun s => { s with latch := true })

/-- ILLEGAL (R208). -/
def causeIllegal : Nat := 1
/-- PRIV (R208). -/
def causePriv : Nat := 2
/-- STALL_SHORT (R208). -/
def causeStallShort : Nat := 3
/-- XLAT_UNMAPPED (R208). -/
def causeUnmapped : Nat := 4
/-- XLAT_PERM (R208). -/
def causePerm : Nat := 5
/-- XLAT_PIN_EXHAUSTED (R208). -/
def causePins : Nat := 6
/-- XLAT_RUNS (R208). -/
def causeRuns : Nat := 7
/-- MTE_EXHAUSTED (R208). -/
def causeMte : Nat := 8
/-- TOKEN_LOST (R208). -/
def causeLost : Nat := 9
/-- POISON_LOAD (R208). -/
def causePoison : Nat := 10
/-- ENGINE_ERROR (R208). -/
def causeEngine : Nat := 11
/-- BKPT (R208). -/
def causeBkpt : Nat := 13
/-- TRAP (R208). -/
def causeTrap : Nat := 14

/-- Taking a trap (R209): TEPC, TCAUSE, TVAL, mode, InHandler and the handler's address. -/
def Core.enterTrap (c : Core) (cause : Nat) (tval : Word) (epc : BitVec 16) : Core :=
  c.onS (fun s =>
    { s with
      tepc := epc.setWidth 64 ||| (if s.mode = .user then 1#64 else 0#64)
      tcause := BitVec.ofNat 64 cause
      tval := tval
      mode := .supervisor
      inHandler := true
      pc := (s.tvec.setWidth 16) &&& 0xFFFC#16
      st := .running
      forkTab := none })

/-- A step on the cores of a panel is over, with its cause and whether it is an error (R276, R321); a step that is over
already keeps its cause. The engines of the panel run no further. -/
def State.endPanelStep (s : State) (k : Nat) (cause : Nat) (err : Bool) : State :=
  ((s.core k).panelCores k).foldl
    (fun s j => s.onCore j (fun c => { c with step := c.step.map (fun t =>
      { t with ended := t.ended.or (some (cause, k, err)) }) })) s

/-- Whether a core of Bench B is meant, of the cores of the Benches (R420). -/
def benchB (k : Nat) : Bool := decide (260 ≤ k)

/-- A double trap (R212): the S-stream stops and the trap registers stay. The tile step ends ERROR with the first TCAUSE; on a core
of the active Bench the other Bench is to take over (R421). -/
def State.doubleTrap (s : State) (k : Nat) : State :=
  let c := s.core k
  let s := s.setCore k (c.onS (fun t => { t with st := .stopped }))
  if k < 256 then s.endPanelStep k c.s.tcause.toNat true
  else { s with bench := { s.bench with lost := s.bench.lost || benchB k == s.bench.activeB } }

/-- A synchronous trap of the S-stream of core `k` at the instruction at `epc` (R209), within a handler a double trap (R212). -/
def State.trapAt (s : State) (k : Nat) (epc : BitVec 16) (cause : Nat) (tval : Word) : State :=
  let c := s.core k
  if c.s.inHandler then s.doubleTrap k else s.setCore k (c.enterTrap cause tval epc)

/-- A synchronous trap of the S-stream of core `k` at its instruction. -/
def State.syncTrap (s : State) (k : Nat) (cause : Nat) (tval : Word) : State := s.trapAt k (s.core k).s.pc cause tval

/-- The current core's instruction traps. -/
def State.trapMe (s : State) (cause : Nat) (tval : Word) : State := s.syncTrap s.curN cause tval

/-- Return from a trap (R210): the mode from TEPC[0], InHandler cleared, on at TEPC[15:2]. -/
def Core.leaveTrap (c : Core) : Core :=
  c.onS (fun s =>
    { s with
      mode := if s.tepc.getLsbD 0 then .user else .supervisor
      inHandler := false
      pc := (s.tepc.setWidth 16) &&& 0xFFFC#16
      st := .running })

/-- Waits that an asynchronous trap abandons (R71, R113, R197); a translation that waits is not one of them (R107). -/
def WaitOn.abandonable : WaitOn → Bool
  | .bench => false
  | .pins => false
  | .predicted => false
  | .chanRoom _ => false
  | _ => true

/-- A semaphore (R220). -/
def Core.sem (c : Core) (n : Nat) : Sem := Sparse.get {} c.sems n

/-- Raise a semaphore (R220): at 65,535 the raise is lost and E is set. Any raise sets the event latch (R214). -/
def Core.raise (c : Core) (n : SemId) (err : Bool) : Core :=
  if n = 0#6 then c
  else
    let m := c.sem n.toNat
    let full := m.count == 0xFFFF#16
    let m' : Sem := ⟨if full then m.count else m.count + 1#16, m.err || full || err⟩
    ({ c with sems := Sparse.put {} c.sems n.toNat m' }).setLatch

/-- The awaiters of a semaphore that began before an agent (R198). -/
def Core.ahead (c : Core) (n : SemId) (g : Agent) : Nat :=
  ((c.waiters.filter (fun w => w.1 == n)).takeWhile (fun w => w.2 != g)).length

/-- Whether an agent's await of a semaphore may proceed: the count covers those who began before it (R198). -/
def Core.mayAwait (c : Core) (n : SemId) (g : Agent) : Bool := decide (c.ahead n g < (c.sem n.toNat).count.toNat)

/-- An agent begins to wait at a semaphore, behind those already waiting (R198). -/
def Core.beginWait (c : Core) (n : SemId) (g : Agent) : Core :=
  if c.waiters.contains (n, g) then c else { c with waiters := c.waiters ++ [(n, g)] }

/-- An agent no longer waits at any semaphore. -/
def Core.endWait (c : Core) (g : Agent) : Core := { c with waiters := c.waiters.filter (fun w => w.2 != g) }

/-- Consume one count (R220); an M or C command takes the error flag with it. -/
def Core.await (c : Core) (n : SemId) (g : Agent) (byCommand : Bool) : Core × Bool :=
  let m := c.sem n.toNat
  let e := byCommand && m.err
  let m' : Sem := ⟨m.count - 1#16, m.err && !e⟩
  (({ c with sems := Sparse.put {} c.sems n.toNat m' }).endWait g, e)

/-- A gang (R279). -/
def State.gang (s : State) (g : Nat) : Gang := Sparse.get {} s.disp.gangs g

/-- The gang whose step a core runs. -/
def Core.gangOf (c : Core) : GangId :=
  match c.step with
  | some t => t.gang
  | none => 0

/-- The whole device stands still: a halt of every queue and core (R418, R421, R436), no power, or the lease gate at work
(R427). -/
def State.frozen (s : State) : Bool :=
  s.disp.halted || s.power.thermtrip || !s.power.on || s.plinth.gate == .hold || s.plinth.gate == .scrub

/-- The streams of a core stand at their stop points: it is under test, its step is over, or its gang is being pre-empted or
restored (R276, R321, R361, R368, R402); those of a Bench core while its Bench is held in reset, has no power or is too hot (R421-R423, R427, R436). -/
def State.held (s : State) (k : Nat) : Bool :=
  let c := s.core k
  if 256 ≤ k then !s.power.on || s.power.thermtrip || !(if benchB k then s.bench.runB else s.bench.runA)
  else s.frozen || c.testing
    || (match c.step with
        | some t => t.ended.isSome || (s.gang t.gang.toNat).preempting || (s.gang t.gang.toNat).restoring
        | none => false)

/-- Whether the stall wire of a core's panel is driven, which holds the issue of its streams (R344). -/
def State.stalled (s : State) (k : Nat) : Bool := !(s.panel ((s.core k).panelBase k)).stall.isEmpty

/-- Withdraw the arrivals of a core at the barriers of its panel (R201). -/
def State.withdrawBar (s : State) (k : Nat) : State :=
  let b := (s.core k).panelBase k
  let p := s.panel b
  let bars := p.bars.map (fun c => (c.1, ({ c.2 with arrived := c.2.arrived.filter (fun j => j != k) } : Barrier)))
  s.setPanel b { p with bars := bars.filter (fun c => c.2 != {}) }

/-- The waiting instruction of a core's S-stream is abandoned without effect (R197): its place at a semaphore and its
arrival at a barrier are given up. -/
def State.abandonS (s : State) (k : Nat) : State :=
  let s := match (s.core k).s.st with
    | .waiting (.barrier ..) => s.withdrawBar k
    | _ => s
  s.onCore k (fun c => (c.endWait .s).onS (fun t => { t with st := .running, forkTab := none }))

/-- Make a natural number a word. -/
def word (n : Nat) : Word := BitVec.ofNat 64 n

/-- A flag as a word: 1 when true (R81). -/
def boolWord (b : Bool) : Word := if b then 1#64 else 0#64

end Sys2Proof.Machine
end

