-- ==== Sys2Proof/Machine/Memory.lean ====
section
/-! DEFINITION. Memory by physical address: bytes with poison and check values (R395-R401), the migration of lines
(R355-R358), and the device-side copies of host lines (R256). -/

namespace Sys2Proof.Machine

open Sys2Proof

/-- A byte and whether it is poisoned. -/
abbrev PByte := Byte × Bool

/-- One step of the CRC of R395 over a bit. -/
def crc16Bit (c : BitVec 16) : BitVec 16 := if c.getLsbD 15 then (c <<< 1) ^^^ 0x8BB7#16 else c <<< 1

/-- One step of the CRC of R395 over a byte. -/
def crc16Byte (c : BitVec 16) (b : Byte) : BitVec 16 :=
  (List.range 8).foldl (fun c _ => crc16Bit c) (c ^^^ ((b.setWidth 16) <<< 8))

/-- The check value of a run of bytes (R395). -/
def crc16 (bs : List Byte) : BitVec 16 := bs.foldl crc16Byte 0

/-- The bytes of a store with their poison. -/
def Store.get (m : Store) (a n : Nat) : List PByte :=
  (Sparse.getList 0 m.bytes a n).zip (Sparse.getList false m.pois a n)

/-- The sectors of a run of bytes whose stored check value is not that of their contents (R397). -/
def Store.bad (m : Store) (a n : Nat) : List Nat :=
  (m.chk.filter (fun c => decide (a / 32 ≤ c.1) && decide (c.1 * 32 < a + n) &&
    (match c.2 with
     | some v => v != crc16 (Sparse.getList 0 m.bytes (32 * c.1) 32)
     | none => false))).map (fun c => c.1)

/-- The key that a 16-byte block is encrypted under; none where nothing has encrypted it. -/
def Store.tag (m : Store) (q : Nat) : Option (BitVec 512) :=
  (Sparse.get none m.tags q).or
    ((m.areas.find? (fun r => decide (r.1 ≤ 16 * q) && decide (16 * q < r.1 + r.2.1))).map (fun r => r.2.2))

/-- What a block reads as through a key (log entry 70): as it is where it is under that key, or under none. -/
def Store.blockUnder (m : Store) (k : BitVec 512) (q : Nat) : List Byte :=
  let d := Sparse.getList 0 m.bytes (16 * q) 16
  match m.tag q with
  | none => d
  | some k' => if k' = k then d else leBytes 16 (Config.recrypt k' k q (BitVec.ofNat 128 (leNat d))).toNat

/-- Bytes from `a` on as they read through a key, or as they lie where no key is used (R339). -/
def Store.through (m : Store) (k : Option (BitVec 512)) (a : Nat) (d : List PByte) : List PByte :=
  match k with
  | none => d
  | some k =>
    if m.tags.isEmpty && m.areas.isEmpty then d
    else d.zipIdx.map (fun c => ((m.blockUnder k ((a + c.2) / 16)).getD ((a + c.2) % 16) 0, c.1.2))

/-- The 16-byte blocks that a write of `n` bytes from `a` on covers in part, each once. -/
def partBlocks (a n : Nat) : List Nat :=
  let z := a + n
  ((if a % 16 = 0 then [] else [a / 16]) ++ (if z % 16 = 0 then [] else [z / 16])).eraseDups

/-- A block is encrypted anew, as it reads through a key. -/
def Store.rekey (m : Store) (k : BitVec 512) (q : Nat) : Store :=
  { m with bytes := Sparse.putList 0 m.bytes (16 * q) (m.blockUnder k q) }

/-- Before `n` bytes are written from `a` on through a key: the blocks written in part are encrypted anew as they read through
it, and every block written is then under it. -/
def Store.turn (m : Store) (k : Option (BitVec 512)) (a n : Nat) : Store :=
  match k with
  | none => m
  | some k =>
    { (partBlocks a n).foldl (fun m q => m.rekey k q) m with
      tags := Sparse.putList none m.tags (a / 16) (List.replicate ((a + n + 15) / 16 - a / 16) (some k)) }

/-- Poison a sector where it lies (R397, R399). -/
def Store.poisonSector (m : Store) (q : Nat) : Store :=
  { m with
    pois := Sparse.putList false m.pois (32 * q) (List.replicate 32 true)
    chk := Sparse.put none m.chk q none }

/-- Write bytes with exactly the poison given; the sectors carry fresh check values (R396). -/
def Store.put (m : Store) (a : Nat) (d : List PByte) : Store :=
  { m with
    bytes := Sparse.putList 0 m.bytes a (d.map (fun c => c.1))
    pois := Sparse.putList false m.pois a (d.map (fun c => c.2))
    chk := m.chk.filter (fun c => decide (c.1 < a / 32) || decide (a + d.length ≤ c.1 * 32)) }

/-- What a write does to the marks of one sector. Where the storage keeps a mask of bytes (device memory, R399) and the
writer copies byte by byte (R318), each byte written takes its own mark. Else a poisoned byte written marks the sector
(R119, R156); else, where there is a mask, the bytes written are clean, and where there is none, a write of the whole
sector cleans it (R119). -/
def sectorMarks (mask bytewise : Bool) (p : Sparse Bool) (q a : Nat) (d : List PByte) : Sparse Bool :=
  let lo := max a (32 * q)
  let hi := min (a + d.length) (32 * q + 32)
  let w := (d.drop (lo - a)).take (hi - lo)
  if mask && bytewise then Sparse.putList false p lo (w.map (fun c => c.2))
  else if w.any (fun c => c.2) then Sparse.putList false p (32 * q) (List.replicate 32 true)
  else if mask || decide (hi - lo = 32) then Sparse.putList false p lo (List.replicate (hi - lo) false)
  else p

/-- Write bytes, with what the write does to poison and check values (R95, R119, R396, R399). -/
def Store.write (mask : Bool) (m : Store) (a : Nat) (d : List PByte) (bytewise : Bool := false) : Store :=
  let p :=
    if m.pois.isEmpty && !d.any (fun c => c.2) then m.pois
    else (List.range ((a + d.length - 1) / 32 + 1 - a / 32)).foldl (fun p i => sectorMarks mask bytewise p (a / 32 + i) a d) m.pois
  { m with
    bytes := Sparse.putList 0 m.bytes a (d.map (fun c => c.1))
    pois := p
    chk := m.chk.filter (fun c => decide (c.1 < a / 32) || decide (a + d.length ≤ c.1 * 32)) }

/-- The storage of a site. -/
def State.storeOf (s : State) : Site → Store
  | .dev => s.mem.dev
  | .host => s.mem.host
  | .copy => s.mem.hcopy
  | .sp k => (s.core k).spad
  | .spill k => (s.core k).v.spill
  | .tmpl k => { bytes := (s.core k).c.templates }

/-- Replace the storage of a site. -/
def State.setStoreOf (s : State) (e : Site) (m : Store) : State :=
  match e with
  | .dev => { s with mem := { s.mem with dev := m } }
  | .host => { s with mem := { s.mem with host := m } }
  | .copy => { s with mem := { s.mem with hcopy := m } }
  | .sp k => s.onCore k (fun c => { c with spad := m })
  | .spill k => s.onCore k (fun c => c.onV (fun v => { v with spill := m }))
  | .tmpl k => s.onCore k (fun c => c.onC (fun e => { e with templates := m.bytes }))

/-- Whether storage of a site keeps a mask of poisoned bytes, which device memory does (R399) and storage inside a core does not
(R119). -/
def Site.masked : Site → Bool
  | .sp _ => false
  | .spill _ => false
  | _ => true

/-- Check the sectors of a run of bytes: a mismatch poisons the sector and is reported to the active Bench (R397). -/
def State.verify (s : State) (e : Site) (a n : Nat) : State :=
  ((s.storeOf e).bad a n).foldl (fun s q =>
    (s.setStoreOf e ((s.storeOf e).poisonSector q)).tell (.poisoned (32 * q))) s

/-- Bytes of a site as they lie, checked first. -/
def State.rawGet (s : State) (e : Site) (a n : Nat) : State × List PByte :=
  let s := s.verify e a n
  (s, (s.storeOf e).get a n)

/-- The first address of the coherent window (R312). -/
def windowBase : Nat := 0x7FFFFFFF00000

/-- Note the doublewords of the window that a store of the bytes from `a` to `z` has left, for the dispatchers to observe
(R315). -/
def State.noteWindow (s : State) (a z : Nat) : State :=
  let lo := max a windowBase / 8
  let ws := (List.range ((z + 7) / 8 - lo)).map (fun i =>
    (8 * (lo + i), leNat (Sparse.getList 0 s.mem.dev.bytes (8 * (lo + i)) 8)))
  { s with mem := { s.mem with rung := s.mem.rung ++ ws } }

/-- Write bytes of a site as they lie: a sector written in part has its other bytes checked first (R396). -/
def State.rawPut (s : State) (e : Site) (a : Nat) (d : List PByte) (bytewise : Bool := false) : State :=
  if d.isEmpty then s
  else
    let z := a + d.length
    let s := if a % 32 = 0 then s else s.verify e a 1
    let s := if z % 32 = 0 then s else s.verify e (z - 1) 1
    let s := s.setStoreOf e ((s.storeOf e).write e.masked a d bytewise)
    match e with
    | .dev => if windowBase < z then s.noteWindow a z else s
    | _ => s

/-- The pair of the migration table that an address lies in, and the offset in it (R355). -/
def State.migPair (s : State) (a : Nat) : Option (MigPair × Nat) :=
  s.mem.mig.findSome? (fun p =>
    let u := a / 65536
    ((p.oldUnit :: p.newUnit :: p.olds).find? (fun b => decide (b ≤ u) && decide (u < b + p.units))).map (fun b =>
      (p, a - b * 65536)))

/-- The old home that a missing line of a pair comes from (R356, R415). -/
def MigPair.source (p : MigPair) (l : Nat) : Nat := (Sparse.get none p.origin l).getD p.oldUnit

/-- Where the byte of an address lies while its page migrates: at the new unit once its line is there (R356, R357). -/
def State.home (s : State) (a : Nat) : Nat :=
  match s.migPair a with
  | none => a
  | some (p, o) => if p.missing.contains (o / 128) then p.source (o / 128) * 65536 + o else p.newUnit * 65536 + o

/-- Clear or set the migration fields of a unit's clamp-directory entry (R347, R355, R358). -/
def Mem.setMig (m : Mem) (u : Nat) (mig old : Bool) (peer : Nat) : Mem :=
  let e := Sparse.get {} m.clamp u
  let e' : Clamp := { e with mig := mig, old := old, peer := BitVec.ofNat 35 peer }
  { m with clamp := Sparse.put {} m.clamp u e' }

/-- The end of a migration (R358): the leaf's MIG is cleared, the directory entries and the table entry are freed, the
old units are reported free and the walk caches drop the old leaf. -/
def State.finishMig (s : State) (p : MigPair) : State :=
  let a := s.home p.leafPa
  let (s, b) := s.rawGet .dev a 1
  let s := s.rawPut .dev a (b.map (fun c => (c.1 &&& 0xDF#8, c.2)))
  let m := (p.newUnit :: p.oldUnit :: p.olds).foldl (fun m u => (List.range p.units).foldl (fun m i =>
    m.setMig (u + i) false false 0) m) s.mem
  let m : Mem := { m with
    mig := m.mig.filter (fun q => q.ix != p.ix)
    walkCache := Sparse.put none (Sparse.put none m.walkCache (2 * p.leafPa) none) (2 * p.leafPa + 1) none }
  (p.oldUnit :: p.olds).foldl (fun s u => s.tell (.unitFree u)) { s with mem := m }

/-- A row that has to be replaced (R415): a spare row of its bank takes it, or, where there is none, its frame is retired. -/
def Mem.replaceRow (m : Mem) (spare : Bool) (a : Nat) : Mem :=
  if spare then { m with rows := Sparse.put 0 m.rows a 1 }
  else { m with retired := Sparse.put false m.retired (a / 65536) true }

/-- Copy a line from `o` to `n` with its poison, check values and keys (R356). -/
def Store.copyLine (m : Store) (o n : Nat) : Store :=
  let d := m.put n (m.get o 128)
  { d with
    chk := (List.range 4).foldl (fun k i => Sparse.put none k (n / 32 + i) (Sparse.get none m.chk (o / 32 + i))) d.chk
    tags := (List.range 8).foldl (fun k i => Sparse.put none k (n / 16 + i) (m.tag (o / 16 + i))) d.tags }

/-- Pull one missing line of a pair: it arrives with its poison and check values, never over a line already present
(R356). The last line ends the migration (R358). -/
def State.pullLine (s : State) (p : MigPair) (l : Nat) : State :=
  if !p.missing.contains l then s
  else
    let o := p.source l * 65536 + 128 * l
    let n := p.newUnit * 65536 + 128 * l
    let d := s.mem.dev.copyLine o n
    let p' : MigPair := { p with missing := p.missing.filter (fun j => j != l) }
    let s : State := { s with mem := { s.mem with dev := d, mig := s.mem.mig.map (fun q => if q.ix = p.ix then p' else q) } }
    if p'.missing.isEmpty then s.finishMig p' else s

/-- An access to a missing line pulls it first, once the revocation of the old unit has completed (R356). -/
def State.touchLine (s : State) (a : Nat) : State :=
  match s.migPair a with
  | none => s
  | some (p, o) => if p.settled then s.pullLine p (o / 128) else s

/-- The first addresses of the 128-byte lines that a run of bytes meets, cut to the run, with their lengths. -/
def linesOf : Nat → Nat → Nat → List (Nat × Nat)
  | 0, _, _ => []
  | f + 1, a, n =>
    if n = 0 then [] else
    let k := min n (128 - a % 128)
    (a, k) :: linesOf f (a + k) (n - k)

/-- The key in a key slot (R420); an empty slot counts as the key 0 (log entry 70). -/
def State.keyIn (s : State) (slot : Option (BitVec 13)) : Option (BitVec 512) :=
  slot.map (fun q => (Sparse.get none s.bench.keys q.toNat).getD 0)

/-- Bytes of device memory as they read through the key of a slot, checked first (R339, R397). -/
def State.keyGet (s : State) (a n : Nat) (key : Option (BitVec 13)) : State × List PByte :=
  let r := s.rawGet .dev a n
  (r.1, r.1.mem.dev.through (r.1.keyIn key) a r.2)

/-- Write bytes of device memory through the key of a slot (R339). -/
def State.keyPut (s : State) (a : Nat) (d : List PByte) (key : Option (BitVec 13)) (bytewise : Bool := false) : State :=
  if key.isNone || d.isEmpty then s.rawPut .dev a d bytewise
  else { s with mem := { s.mem with dev := s.mem.dev.turn (s.keyIn key) a d.length } }.rawPut .dev a d bytewise

/-- Read device memory or the window by physical address, through a key slot where one is given (R339, R357). -/
def State.devGet (s : State) (a n : Nat) (key : Option (BitVec 13) := none) : State × List PByte :=
  if s.mem.mig.isEmpty then s.keyGet a n key
  else (linesOf (n / 128 + 2) a n).foldl (fun (s, d) (b, k) =>
    let s := s.touchLine b
    let (s, e) := s.keyGet (s.home b) k key
    (s, d ++ e)) (s, [])

/-- Write device memory or the window by physical address, through a key slot where one is given (R339, R357). -/
def State.devPut (s : State) (a : Nat) (d : List PByte) (key : Option (BitVec 13) := none) (bytewise : Bool := false) :
    State :=
  if s.mem.mig.isEmpty then s.keyPut a d key bytewise
  else (linesOf (d.length / 128 + 2) a d.length).foldl (fun s (b, k) =>
    let s := s.touchLine b
    s.keyPut (s.home b) ((d.drop (b - a)).take k) key bytewise) s

/-- A host line has a device-side copy: where there is none it is made from host memory, whose bytes enter the device with fresh
check values (R256, R396). -/
def State.fetchLine (s : State) (l : Nat) : State :=
  if Sparse.get false s.mem.hheld l then s
  else
    { s with mem := { s.mem with
      hcopy := s.mem.hcopy.put (128 * l) (s.mem.host.get (128 * l) 128)
      hheld := Sparse.put false s.mem.hheld l true } }

/-- A device read of host memory goes to the device-side copies (R256). -/
def State.hostGet (s : State) (a n : Nat) : State × List PByte :=
  (linesOf (n / 128 + 2) a n).foldl (fun (s, d) (b, k) =>
    let r := (s.fetchLine (b / 128)).rawGet .copy b k
    (r.1, d ++ r.2)) (s, [])

/-- Bytes from `a` on have been stored by the device and are to be written back (R256). -/
def State.markStored (s : State) (a n : Nat) : State :=
  { s with mem := { s.mem with hdirty := Sparse.putList false s.mem.hdirty a (List.replicate n true) } }

/-- A device store to host memory goes to the device-side copies (R256). -/
def State.hostPut (s : State) (a : Nat) (d : List PByte) : State :=
  (linesOf (d.length / 128 + 2) a d.length).foldl (fun s (b, k) =>
    ((s.fetchLine (b / 128)).rawPut .copy b ((d.drop (b - a)).take k)).markStored b k) s

/-- A core's store of `n` bytes at `a` stands in device-side copies until they are written back (R252, R256). -/
def State.noteStored (s : State) (k a n : Nat) : State :=
  { s with mem := { s.mem with hstored := (linesOf (n / 128 + 2) a n).foldl (fun m (b, _) =>
    let ks := Sparse.get [] m (b / 128)
    if ks.contains k then m else Sparse.put [] m (b / 128) (ks ++ [k])) s.mem.hstored } }

/-- Stores of a core to host pages stand in device-side copies that have not been written back (R252, R256). -/
def State.unwritten (s : State) (k : Nat) : Bool := s.mem.hstored.any (fun e => e.2.contains k)

/-- What a host write TLP with EP set leaves in host memory: the platform's, so free values (R204, log entry 13). -/
def State.freeBytes (s : State) : Nat → State × List Byte
  | 0 => (s, [])
  | n + 1 =>
    let (v, s) := s.draw
    let (s, r) := s.freeBytes n
    (s, v.setWidth 8 :: r)

/-- No byte of a host line is to be written back any more. -/
def State.cleanLine (s : State) (l : Nat) : State :=
  { s with mem := { s.mem with
    hdirty := Sparse.putList false s.mem.hdirty (128 * l) (List.replicate 128 false)
    hstored := Sparse.put [] s.mem.hstored l [] } }

/-- One sector of a device-side copy is written back (R204): one that holds a poisoned byte is sent marked and reported to the
active Bench; of another the bytes that the device has stored reach host memory. -/
def State.writeBackSector (s : State) (a : Nat) : State :=
  let d := s.mem.hcopy.get a 32
  if d.any (fun c => c.2) then
    let (s, f) := s.freeBytes 32
    (s.rawPut .host a (f.map (fun b => (b, false)))).tell (.poisoned a)
  else
    (d.zip (Sparse.getList false s.mem.hdirty a 32)).zipIdx.foldl (fun s (c, i) =>
      if c.2 then s.rawPut .host (a + i) [(c.1.1, false)] else s) s

/-- Write back the device-side copy of a host line (R204, R256), its sectors checked first (R397). -/
def State.writeBackLine (s : State) (l : Nat) : State :=
  if Sparse.get false s.mem.hheld l then
    ((List.range 4).foldl (fun s q => s.writeBackSector (128 * l + 32 * q)) (s.verify .copy (128 * l) 128)).cleanLine l
  else s

/-- Discard the device-side copy of a host line (R204, R256). -/
def State.dropLine (s : State) (l : Nat) : State :=
  let s := s.cleanLine l
  { s with mem := { s.mem with
    hcopy := s.mem.hcopy.put (128 * l) (List.replicate 128 (0, false))
    hheld := Sparse.put false s.mem.hheld l false } }

/-- Read a site, device memory through a key slot where one is given. -/
def State.readAt (s : State) (e : Site) (a n : Nat) (key : Option (BitVec 13) := none) : State × List PByte :=
  match e with
  | .dev => s.devGet a n key
  | .host => s.hostGet a n
  | e => s.rawGet e a n

/-- Write a site, device memory through a key slot where one is given. -/
def State.writeAt (s : State) (e : Site) (a : Nat) (d : List PByte) (key : Option (BitVec 13) := none) : State :=
  match e with
  | .dev => s.devPut a d key
  | .host => s.hostPut a d
  | e => s.rawPut e a d

/-- Bytes without poison. -/
def clean (d : List Byte) : List PByte := d.map (fun b => (b, false))

/-- The bytes alone. -/
def plain (d : List PByte) : List Byte := d.map (fun c => c.1)

/-- Whether any byte is poisoned. -/
def anyPois (d : List PByte) : Bool := d.any (fun c => c.2)

/-- Whether an access by physical address meets a line that has not arrived and may not be pulled yet (R356, R357). -/
def State.unsettledAt (s : State) (a n : Nat) : Bool :=
  (linesOf (n / 128 + 2) a n).any (fun l =>
    match s.migPair l.1 with
    | some (p, o) => !p.settled && p.missing.contains (o / 128)
    | none => false)

/-- An access by physical address to such a line waits: the step that would make it does not happen (R357). -/
def State.noteBlocked (s : State) (a n : Nat) : State :=
  if s.unsettledAt a n then { s with mem := { s.mem with blocked := true } } else s

/-- The device, its walkers, its dispatchers or the host read device memory by physical address (R357). -/
def State.physGet (s : State) (a n : Nat) (key : Option (BitVec 13) := none) : State × List PByte :=
  (s.noteBlocked a n).devGet a n key

/-- The device, its dispatchers or the host write device memory by physical address (R357). -/
def State.physPut (s : State) (a : Nat) (d : List PByte) (key : Option (BitVec 13) := none) (bytewise : Bool := false) :
    State :=
  (s.noteBlocked a d.length).devPut a d key bytewise

/-- A doubleword of device memory by physical address. -/
def State.devWord (s : State) (a : Nat) : State × Nat :=
  let (s, d) := s.physGet a 8
  (s, leNat (plain d))

/-- The canonical form of a storage: each of its tables lists rising keys and no default. -/
def Store.wf (m : Store) : Bool :=
  Sparse.wf 0 m.bytes && Sparse.wf false m.pois && Sparse.wf none m.chk && Sparse.wf none m.tags

/-- The canonical form of memory. -/
def Memory.wf (m : Mem) : Bool :=
  m.dev.wf && m.host.wf && m.hcopy.wf && Sparse.wf false m.hheld && Sparse.wf false m.hdirty && Sparse.wf [] m.hstored
    && Sparse.wf none m.walkCache && Sparse.wf {} m.clamp && Sparse.wf {} m.hclamp
    && Sparse.wf false m.retired && Sparse.wf 0 m.rows

end Sys2Proof.Machine
end

