-- ==== Sys2Proof/Machine/Tokens.lean ====
section
/-! DEFINITION. Tokens: references and pins (R236-R243, R347), the way from an offset to a physical byte (R93, R239,
R244, R353), and the stores of a stream on their way to memory (R249, R250). -/

namespace Sys2Proof.Machine

open Sys2Proof

/-- The first 64 KiB unit of the coherent window (R312). -/
def windowUnit : Nat := 0x7FFFFFFF0

/-- Whether a unit lies in the coherent window, which has 16 units (R312). -/
def inWindow (u : Nat) : Bool := decide (windowUnit ≤ u) && decide (u < windowUnit + 16)

/-- The partition a 64 KiB unit of device memory or of the window lies in (R312, R337). -/
def State.partOf (s : State) (u : Nat) : Option Nat :=
  if u < 6291456 then some (u / (6291456 / s.disp.parts))
  else if inWindow u then some ((u - windowUnit) * s.disp.parts / 16)
  else none

/-- A pin count has fallen to zero: faults that wait for a frame in its partition are offered to the Bench again
(R346). -/
def State.reoffer (s : State) (part : Option Nat) : State :=
  { s with bench := { s.bench with faults := s.bench.faults.map (fun f =>
    if f.noframe && f.reply == some .noframe && part == some (s.gang f.gang.toNat).part.toNat
    then { f with reply := none, offers := f.offers + 1 } else f) } }

/-- Add 1 to the pins of a core on a unit, or take 1 away (R347). -/
def Clamp.pin (e : Clamp) (k : Nat) (up : Bool) : Clamp :=
  let n := Sparse.get 0 e.cores k
  if up then { e with pins := e.pins + 1, cores := Sparse.put 0 e.cores k (n + 1) }
  else { e with pins := e.pins - 1, cores := Sparse.put 0 e.cores k (n - 1) }

/-- A unit's clamp-directory entry (R347). -/
def State.clampAt (s : State) (host : Bool) (u : Nat) : Clamp :=
  Sparse.get {} (if host then s.mem.hclamp else s.mem.clamp) u

/-- Replace a unit's clamp-directory entry. -/
def State.setClamp (s : State) (host : Bool) (u : Nat) (e : Clamp) : State :=
  if host then { s with mem := { s.mem with hclamp := Sparse.put {} s.mem.hclamp u e } }
  else { s with mem := { s.mem with clamp := Sparse.put {} s.mem.clamp u e } }

/-- Pin every unit of a run for a core (R347). -/
def State.pinRun (s : State) (k : Nat) (r : Run) : State :=
  (List.range r.npg).foldl (fun s i =>
    let u := r.frame.toNat + i
    s.setClamp r.host u ((s.clampAt r.host u).pin k true)) s

/-- Unpin every unit of a run for a core; a count that falls to zero re-offers waiting faults (R346, R347): an H frame counts in
the partition of the gang `g` that has pinned it (log entry 48). -/
def State.unpinRun (s : State) (k : Nat) (g : GangId) (r : Run) : State :=
  (List.range r.npg).foldl (fun s i =>
    let u := r.frame.toNat + i
    let e := (s.clampAt r.host u).pin k false
    let s := s.setClamp r.host u e
    if e.pins = 0 then s.reoffer (if r.host then some (s.gang g.toNat).part.toNat else s.partOf u) else s) s

/-- Pin runs. -/
def State.pinRuns (s : State) (k : Nat) (rs : List Run) : State := rs.foldl (fun s r => s.pinRun k r) s

/-- Unpin runs. -/
def State.unpinRuns (s : State) (k : Nat) (g : GangId) (rs : List Run) : State := rs.foldl (fun s r => s.unpinRun k g r) s

/-- Replace a mortise table entry of a core. -/
def State.setMte (s : State) (k i : Nat) (m : Mte) : State := s.onCore k (fun c => c.setMte i m)

/-- Another holder of a token (R241). -/
def State.hold (s : State) (k : Nat) (t : Option Tok) : State :=
  match t with
  | none => s
  | some t => s.onCore k (fun c => c.setMte t.idx.toNat { c.mte t.idx.toNat with refs := (c.mte t.idx.toNat).refs + 1 })

/-- A holder of a token gives its reference up (R108, R240): with the last one the runs are unpinned, a re-walk stops
(R352) and the entry becomes NULL, its generation kept. -/
def State.release (s : State) (k : Nat) (t : Option Tok) : State :=
  match t with
  | none => s
  | some t =>
    let i := t.idx.toNat
    let m := (s.core k).mte i
    if m.refs ≤ 1 then
      let s := s.setMte k i { gen := m.gen }
      let s : State := { s with bench := { s.bench with
        faults := s.bench.faults.filter (fun f => !(f.core == k && f.owner == .rewalk t.idx)) } }
      if m.pred then s else s.unpinRuns k m.gang m.runs
    else s.setMte k i { m with refs := m.refs - 1 }

/-- Write a token, whose reference is already counted, to a token register; the old token is then released (R105,
R108), and a write of t0 releases the new one (R17). -/
def State.putTok (s : State) (k : Nat) (n : TReg) (t : Option Tok) : State :=
  if n = 0#5 then s.release k t
  else
    let old := (s.core k).tr n
    (s.onCore k (fun c => c.setT n t)).release k old

/-- The NULL entries of a core's mortise table. -/
def Core.freeMtes (c : Core) : List Nat := (List.range 64).filter (fun i => (c.mte i).st == .null)

/-- Write a free entry of a core's mortise table, which one the device chooses (log entry 3): one reference, the next
generation (R104); whoever takes it has pinned its runs. -/
def State.takeMte (s : State) (k : Nat) (m : Mte) : Option (State × Tok) :=
  match (s.core k).freeMtes with
  | [] => none
  | f :: fs =>
    let (v, s) := s.draw
    let i := (f :: fs).getD (v.toNat % (fs.length + 1)) f
    let g := ((s.core k).mte i).gen + 1#16
    some (s.setMte k i { m with gen := g, refs := 1, gang := (s.core k).gangOf }, ⟨BitVec.ofNat 6 i, g⟩)

/-- Write a free entry of a core's mortise table and pin its runs (R104, R109, R275). -/
def State.newMte (s : State) (k : Nat) (m : Mte) : Option (State × Tok) :=
  (s.takeMte k m).map (fun r => (r.1.pinRuns k m.runs, r.2))

/-- The run that holds unit `u` of an extent, and the unit's place in it (R239). -/
def runAt : List Run → Nat → Option (Run × Nat)
  | [], _ => none
  | r :: rs, u => if u < r.npg then some (r, u) else runAt rs (u - r.npg)

/-- Where a byte lies: unreachable, on a discarded unit, or at an address of a site. -/
inductive Loc where
  | out
  | dsc
  | at (e : Site) (a : Nat)
  deriving DecidableEq, Repr

/-- The first 64 KiB unit beyond device memory: the coherent window, which holds plain bytes, lies there (R1, R312). -/
def dramUnits : Nat := 6291456

/-- The key slot that the byte at an offset of an entry is encrypted under; none in host memory and the window (R238, R339). -/
def Mte.keyAt (m : Mte) (o : Nat) : Option (BitVec 13) :=
  match runAt m.runs ((m.vbase + o) / 65536 - m.vbase / 65536) with
  | none => none
  | some (r, i) => if r.host || decide (dramUnits ≤ r.frame.toNat + i) then none else some r.key

/-- A part of an access whose bytes lie together: its place in the access, its offset in the extent, its length, and the key
slot of its page. -/
structure Piece where
  loc : Loc
  pos : Nat
  off : Nat
  n : Nat
  key : Option (BitVec 13) := none
  deriving DecidableEq, Repr

/-- Where the byte at an offset of an entry lies (R93, R239, R353). -/
def State.locate (s : State) (m : Mte) (o : Nat) : Loc :=
  let v := m.vbase + o
  match runAt m.runs (v / 65536 - m.vbase / 65536) with
  | none => .out
  | some (r, i) =>
    let u := r.frame.toNat + i
    if (s.clampAt r.host u).dsc then .dsc
    else .at (if r.host then .host else .dev) (u * 65536 + v % 65536)

/-- The pieces of `n` bytes at offset `o` that do not wrap. -/
def State.piecesFrom (s : State) (m : Mte) (ok : Bool) : Nat → Nat → Nat → Nat → List Piece
  | 0, _, _, _ => []
  | f + 1, pos, o, n =>
    if n = 0 then []
    else if !ok || decide (m.len ≤ o) then [⟨.out, pos, o, n, none⟩]
    else
      let j := min n (min (m.len - o) (65536 - (m.vbase + o) % 65536))
      ⟨s.locate m o, pos, o, j, m.keyAt o⟩ :: s.piecesFrom m ok f (pos + j) (o + j) (n - j)

/-- The pieces of `n` bytes at offset `o` modulo 2^64 (R92). -/
def State.pieces (s : State) (m : Mte) (ok : Bool) (pos o n : Nat) : List Piece :=
  let o := o % 2 ^ 64
  let k := min n (2 ^ 64 - o)
  s.piecesFrom m ok (k / 65536 + 3) pos o k ++ s.piecesFrom m ok ((n - k) / 65536 + 3) (pos + k) 0 (n - k)

/-- The bits of an engine mask (R244). -/
inductive MaskBit where
  | s | v | cRead | cWrite | fabric
  deriving DecidableEq, Repr

/-- The place of an engine-mask bit in MASK (R237). -/
def MaskBit.place : MaskBit → Nat
  | .s => 0 | .v => 1 | .cRead => 3 | .cWrite => 4 | .fabric => 5

/-- Whether an entry grants an access (R93, R244). -/
def Mte.may (m : Mte) (b : MaskBit) (r w : Bool) : Bool := (!r || m.r) && (!w || m.w) && m.mask.getLsbD b.place

/-- What an access through a token meets (R93, R138): it is held, its entry is DEAD, or its pieces. -/
inductive Access where
  | hold (w : WaitOn)
  | dead
  | live (ps : List Piece)
  deriving DecidableEq, Repr

/-- A line that has not arrived and may not be pulled yet (R356). -/
def State.missingLine (s : State) (p : Piece) : Option Nat :=
  match p.loc with
  | .at .dev a =>
    s.mem.mig.findSome? (fun q =>
      if !q.settled && decide (q.newUnit * 65536 < a + p.n) && decide (a < (q.newUnit + q.units) * 65536) then some q.ix
      else none)
  | _ => none

/-- The outcome of an access to the given bytes (position in the access, offset, count) through a token (R93). -/
def State.access (s : State) (k : Nat) (t : Option Tok) (b : MaskBit) (r w : Bool) (bs : List (Nat × Nat × Nat)) : Access :=
  let m := (s.core k).mteOf t
  let i : BitVec 6 := match t with
    | some t => t.idx
    | none => 0
  match m.st with
  | .stale => .hold (.stale i)
  | .dead => .dead
  | _ =>
    if m.pred then .hold (.stale i)
    else
      let ps := bs.flatMap (fun c => s.pieces m (m.may b r w) c.1 c.2.1 c.2.2)
      match ps.findSome? (fun p => s.missingLine p) with
      | some q => .hold (.line q)
      | none => .live ps

/-- Whether any byte of an access is unreachable. -/
def anyOut (ps : List Piece) : Bool := ps.any (fun p => p.loc == .out)

/-- The first piece on a discarded unit. -/
def firstDsc (ps : List Piece) : Option Piece := ps.find? (fun p => p.loc == .dsc)

/-- A byte stored over an old one: of a masked byte only the bits of the mask change, and poison stays (R140). -/
def overByte (m : Byte) (o x : PByte) : PByte := if m == 0xFF#8 then x else ((o.1 &&& ~~~m) ||| (x.1 &&& m), o.2 || x.2)

/-- Lay bytes `e` that begin at `a`, with their masks, over bytes `d` that begin at `b`. -/
def patch (b : Nat) (d : List PByte) (a : Nat) (e : List PByte) (m : List Byte) : List PByte :=
  if a + e.length ≤ b ∨ b + d.length ≤ a then d
  else
    let o := (d.drop (a - b)).take (b + d.length - max a b)
    let x := (e.drop (b - a)).take (b + d.length - max a b)
    let y := if m.isEmpty then x else (o.zip x).zipIdx.map (fun c => overByte (m.getD (b - a + c.2) 0xFF) c.1.1 c.1.2)
    d.take (a - b) ++ y ++ d.drop (a + e.length - b)

/-- The jig whose step a core runs. -/
def State.jigOf (s : State) (k : Nat) : Option Jig :=
  match (s.core k).step with
  | none => none
  | some t => Sparse.get none s.disp.jigs t.walker

/-- A little-endian field of `n` bytes at `o`. -/
def field (d : List Byte) (o n : Nat) : Nat := leNat ((d.drop o).take n)

/-- The write-set entries of a jig record: virtual base, length, INPLACE (R271). -/
def writeSetOf (rec : List Byte) : List (Nat × Nat × Bool) :=
  (List.range 4).filterMap (fun i =>
    let o := 320 + 16 * i
    let n := field rec (o + 8) 5
    if n = 0 then none else some (field rec o 8, n, field rec (o + 13) 1 % 2 = 1))

/-- The write set of the jig whose step a core runs. -/
def State.writeSet (s : State) (k : Nat) : List (Nat × Nat × Bool) :=
  match s.jigOf k with
  | none => []
  | some j => writeSetOf j.record

/-- Whether a virtual byte lies in a write set. -/
def inSet (ws : List (Nat × Nat × Bool)) (v : Nat) : Bool := ws.any (fun w => decide (w.1 ≤ v) && decide (v < w.1 + w.2.1))

/-- Change what is kept of a panel's tile step on its core of rank 0. -/
def State.onStep (s : State) (k : Nat) (f : StepInfo → StepInfo) : State :=
  s.onCore ((s.core k).panelBase k) (fun c => { c with step := c.step.map f })

/-- What a twin run's shadow has stored over a run of virtual bytes (R283). -/
def State.shadowed (s : State) (k : Nat) (v : Nat) (d : List PByte) : List PByte :=
  match (s.core ((s.core k).panelBase k)).step with
  | none => d
  | some t =>
    if t.twin != .shadow || t.overlay.isEmpty then d
    else d.zipIdx.map (fun c => (Sparse.get none t.overlay (v + c.2)).getD c.1)

/-- Whether bytes of a site are reached through translation: those of device and host memory. -/
def Site.translated : Site → Bool
  | .dev => true
  | .host => true
  | _ => false

/-- The bytes of a part of a store as it leaves them: what lies there under the bits it does not store (R140). -/
def State.segData (s : State) (k : Nat) (g : Seg) : State × List PByte :=
  if g.mask.isEmpty then (s, g.data)
  else
    let r := s.readAt g.site g.addr g.data.length g.key
    (r.1, patch g.addr (if g.site.translated then s.shadowed k g.va r.2 else r.2) g.addr g.data g.mask)

/-- A part of a store is performed where it lies; one to a host page stands in a device-side copy from then on (R256). -/
def State.storeSeg (s : State) (k : Nat) (g : Seg) (d : List PByte) : State :=
  let s := s.writeAt g.site g.addr d g.key
  if g.site = .host then s.noteStored k g.addr d.length else s

/-- Whether a sector that a run of bytes meets holds poison (R290). -/
def State.sectorPois (s : State) (e : Site) (a n : Nat) : Bool :=
  anyPois (s.readAt e (a / 32 * 32) ((a + n + 31) / 32 * 32 - a / 32 * 32)).2

/-- Perform one part of a store: in memory, or in the overlay of a shadow copy (R283). The sectors a twin copy stores in
the write set are kept for its signature, and whether a step leaves a sector of it that it stores in poisoned (R290). -/
def State.putSeg (s : State) (k : Nat) (g : Seg) : State :=
  let r := s.segData k g
  let s := r.1
  let d := r.2
  if !g.site.translated then s.writeAt g.site g.addr d
  else
    match (s.core k).step with
    | none => s.storeSeg k g d
    | some t =>
      let ws := s.writeSet k
      let hit := (List.range d.length).filter (fun i => inSet ws (g.va + i))
      let s := if t.twin = .none then s else s.onStep k (fun t =>
        { t with sectors := hit.foldl (fun m i => Sparse.put false m ((g.va + i) / 32) true) t.sectors })
      if t.twin = .shadow then
        let s := if hit.any (fun i => (d.getD i (0, false)).2) then s.onStep k (fun t => { t with poisoned := true }) else s
        let s := s.onStep k (fun t =>
          { t with overlay := hit.foldl (fun m i => Sparse.put none m (g.va + i) (some (d.getD i (0, false)))) t.overlay })
        match (s.core ((s.core k).panelBase k)).step with
        | some t => if t.sectors.length * 32 > 4194304 then s.endPanelStep k 0x202 true else s
        | none => s
      else
        let s := s.storeSeg k g d
        if ((hit.map (fun i => (g.addr + i) / 32)).eraseDups).any (fun q => s.sectorPois g.site (32 * q) 32) then
          s.onStep k (fun t => { t with poisoned := true })
        else s

/-- Perform a store. -/
def State.perform (s : State) (k : Nat) (q : VisStore) : State := q.segs.foldl (fun s g => s.putSeg k g) s

/-- Whether two runs of bytes meet. -/
def meets (a n b m : Nat) : Bool := decide (a < b + m) && decide (b < a + n)

/-- Whether two stores store to a byte both. -/
def VisStore.meets (p q : VisStore) : Bool :=
  p.segs.any (fun g => q.segs.any (fun h => g.site == h.site && Machine.meets g.addr g.data.length h.addr h.data.length))

/-- Whether an agent's stores become visible in program order at every scope: those of a stream (R250); each command is an agent
of its own (R248). -/
def inOrder : Agent → Bool
  | .s => true
  | .v => true
  | _ => false

/-- Whether an earlier store of a core becomes visible before a later one at every scope: of one stream (R250), or to a byte of the
other, since the stores to one byte have a single order (R249). -/
def VisStore.before (p q : VisStore) : Bool := (p.src == q.src && inOrder p.src) || p.meets q

/-- The same among the stores visible in a panel, each with its core. -/
def panelBefore (p q : Nat × VisStore) : Bool :=
  (p.1 == q.1 && p.2.src == q.2.src && inOrder p.2.src) || p.2.meets q.2

/-- Of stores visible at a scope, oldest first, those that may become visible at the next wider one now: their places. -/
def ripeStores {α : Type} (before : α → α → Bool) (es : List α) : List Nat :=
  (es.zipIdx.filter (fun e => !(es.take e.2).any (fun p => before p e.1))).map (fun e => e.2)

/-- Of stores visible at a scope, oldest first, those that become visible at the next wider one before the later ones given, and
the others. -/
def pickFor {α : Type} (before : α → α → Bool) (later es : List α) : List α × List α :=
  es.foldr (fun e x => if (x.1 ++ later).any (fun q => before e q) then (e :: x.1, x.2) else (x.1, e :: x.2)) ([], [])

/-- A store is visible at core scope (R249). -/
def Core.pushBuffer (c : Core) (q : VisStore) : Core := { c with buffer := c.buffer ++ [q] }

/-- The stores of a core visible at core scope become visible at panel scope, oldest first; outside a panel the two scopes are
the same (R248, R249). -/
def State.toPanel (s : State) (k : Nat) : State :=
  let c := s.core k
  if c.panel.size = 0#5 then s
  else
    let b := c.panelBase k
    (s.setPanel b { s.panel b with buffer := (s.panel b).buffer ++ c.buffer.map (fun q => (k, q)) }).onCore k
      (fun c => { c with buffer := [] })

/-- The stores of a core visible at panel scope become visible to the device, oldest first, with those of its panel that came
before (R249). -/
def State.flush (s : State) (k : Nat) : State :=
  let s := s.toPanel k
  let c := s.core k
  let b := c.panelBase k
  let d := if c.panel.size = 0#5 then c.buffer.map (fun q => (k, q)) else (s.panel b).buffer
  let s := d.foldl (fun s e => s.perform e.1 e.2) s
  if c.panel.size = 0#5 then s.onCore k (fun c => { c with buffer := [] }) else s.setPanel b { s.panel b with buffer := [] }

/-- The stores of a core visible at core scope become visible at a scope (R249, R252). -/
def State.widen (s : State) (k : Nat) (sc : Scope) : State :=
  match sc with
  | .core => s
  | .panel => s.toPanel k
  | _ => s.flush k

/-- Whether the stores of a core that are visible at device scope are visible at a scope: at .Y those to host pages only once
they are written back (R252, R256). -/
def State.reached (s : State) (k : Nat) (sc : Scope) : Bool := sc != .system || !s.unwritten k

/-- A store of a core is visible at a scope at once (R99), and before it the earlier stores that have to be (R249, R250). -/
def State.showAt (s : State) (k : Nat) (sc : Scope) (w : VisStore) : State :=
  let c := s.core k
  let alone := c.panel.size = 0#5
  if sc = .core ∨ sc = .panel ∧ alone then s.onCore k (fun c => c.pushBuffer w)
  else
    let x := pickFor VisStore.before [w] c.buffer
    let s := s.onCore k (fun c => { c with buffer := x.2 })
    let go := (x.1 ++ [w]).map (fun q => (k, q))
    if alone then go.foldl (fun s e => s.perform e.1 e.2) s
    else
      let b := c.panelBase k
      let p := (s.panel b).buffer
      if sc = .panel then s.setPanel b { s.panel b with buffer := p ++ go }
      else
        let y := pickFor panelBefore go p
        (y.1 ++ go).foldl (fun s e => s.perform e.1 e.2) (s.setPanel b { s.panel b with buffer := y.2 })

/-- Stores over a run of bytes of a site. -/
def overlaid (e : Site) (a : Nat) (d : List PByte) (qs : List VisStore) : List PByte :=
  qs.foldl (fun d q => q.segs.foldl (fun d g => if g.site = e then patch a d g.addr g.data g.mask else d) d) d

/-- The bytes of a run of physical bytes, at virtual address `v`, as a core's agents see them: memory or the overlay of a
shadow copy, then the stores visible at panel scope, then those visible at core scope (R249, R283). -/
def State.seen (s : State) (k : Nat) (e : Site) (a v n : Nat) (key : Option (BitVec 13) := none) : State × List PByte :=
  let r := s.readAt e a n key
  let c := r.1.core k
  let d := if e.translated then r.1.shadowed k v r.2 else r.2
  let p := if c.panel.size = 0#5 then [] else (r.1.panel (c.panelBase k)).buffer.map (fun x => x.2)
  (r.1, overlaid e a d (p ++ c.buffer))

/-- The bytes of a piece: zero where they cannot be reached or lie on a discarded unit (R93). -/
def State.pieceBytes (s : State) (k : Nat) (vb : Nat) (p : Piece) : State × List PByte :=
  match p.loc with
  | .at e a => s.seen k e a (vb + p.off) p.n p.key
  | _ => (s, List.replicate p.n (0, false))

/-- Read the pieces of an access through a token: `n` bytes, zero where there is no piece. -/
def State.readPieces (s : State) (k : Nat) (t : Option Tok) (n : Nat) (ps : List Piece) : State × List PByte :=
  let vb := ((s.core k).mteOf t).vbase
  let (s, m) := ps.foldl (fun (s, m) p =>
    let (s, d) := s.pieceBytes k vb p
    (s, Sparse.putList ((0 : Byte), false) m p.pos d)) (s, [])
  (s, Sparse.getList (0, false) m 0 n)

/-- The parts of a store that reach a byte, with the masks of their bytes. -/
def maskedSegs (vb : Nat) (d : List PByte) (m : List Byte) (ps : List Piece) : List Seg :=
  ps.filterMap (fun p =>
    match p.loc with
    | .at e a => some ⟨e, a, vb + p.off, p.off, (d.drop p.pos).take p.n, (m.drop p.pos).take p.n, p.key⟩
    | _ => none)

/-- The parts of a store that reach a byte. -/
def plainSegs (vb : Nat) (d : List PByte) (ps : List Piece) : List Seg := maskedSegs vb d [] ps

/-- An instruction or command drops bytes on a discarded unit: SST.DSCW in the issuing core and an event to the Bench
that names the first of them (R353). -/
def State.dropped (s : State) (k : Nat) (vb : Nat) (ps : List Piece) : State :=
  match firstDsc ps with
  | none => s
  | some p => (s.onCore k (fun c => c.dscw true)).tell (.discardedStore (s.core k).gangOf k (vb + p.off))

/-- The word that the V-stream of core `k` had decoded is given up or complete: so is its token's reference (R241). -/
def State.dropWord (s : State) (k : Nat) : State :=
  let t := (s.core k).v.curTok
  (s.onCore k (fun c => c.onV (fun v => { v with cur := none, curTok := none }))).release k t

/-- The store queue of a stream. -/
def Core.storesOf (c : Core) (v : Bool) : List QStore := if v then c.v.queue else c.s.queue

/-- Replace the store queue of a stream. -/
def Core.setStores (c : Core) (v : Bool) (q : List QStore) : Core :=
  if v then c.onV (fun t => { t with queue := q }) else c.onS (fun t => { t with queue := q })

/-- The load queue of a stream. -/
def Core.loadsOf (c : Core) (v : Bool) : List QLoad := if v then c.v.loads else c.s.loads

/-- Replace the load queue of a stream. -/
def Core.setLoads (c : Core) (v : Bool) (l : List QLoad) : Core :=
  if v then c.onV (fun t => { t with loads := l }) else c.onS (fun t => { t with loads := l })

/-- The next place in the order of a stream's accesses (R250). -/
def Core.seqOf (c : Core) (v : Bool) : Nat := if v then c.v.seq else c.s.seq

/-- A place is given out. -/
def Core.bump (c : Core) (v : Bool) : Core :=
  if v then c.onV (fun t => { t with seq := t.seq + 1 }) else c.onS (fun t => { t with seq := t.seq + 1 })

/-- A store enters the store queue of a stream (R94, R144). A V-stream operation holds a reference to the entry of its token
until its store leaves the queue (R18, R241); those of the S-stream hold none. -/
def State.pushStore (s : State) (k : Nat) (v : Bool) (q : QStore) : State :=
  let c := s.core k
  let s := s.setCore k ((c.setStores v (c.storesOf v ++ [{ q with seq := c.seqOf v }])).bump v)
  if v then s.hold k q.via else s

/-- An access enters the load queue of a stream, which it leaves as it performs (R75, R93); one of the V-stream holds a reference
until then (R18, R241). -/
def State.pushLoad (s : State) (k : Nat) (v : Bool) (l : QLoad) : State :=
  let c := s.core k
  let s := s.setCore k ((c.setLoads v (c.loadsOf v ++ [{ l with seq := c.seqOf v, pc := c.s.pc }])).bump v)
  if v then s.hold k l.tok else s

/-- A twin copy meets an instruction that twin runs exclude: its step ends (R284). -/
def State.twinStop (s : State) (k : Nat) : Option State :=
  match (s.core k).step with
  | some t => if t.twin = .none then none else some ((s.endPanelStep k 0x202 true).onCore k (fun c => c.onS (fun u => { u with st := .stopped })))
  | none => none

/-- Bytes that are written to memory as they were translated. -/
def State.putSegs (s : State) (gs : List Seg) : State := gs.foldl (fun (s : State) g => s.writeAt g.site g.addr g.data g.key) s

/-- Admitted WRITEs that are not yet visible become so, in an order that is free (R391). -/
def State.landAll : Nat → State → List Inbound → State
  | 0, s, _ => s
  | n + 1, s, l =>
    if l.isEmpty then s
    else
      let v := s.draw
      let i := v.1.toNat % l.length
      State.landAll n (v.2.putSegs ((l[i]?.map (fun x => x.segs)).getD [])) (l.eraseIdx i)

/-- The WRITEs that meet a test become visible. -/
def State.landWrites (s : State) (f : Inbound → Bool) : State :=
  let l := s.dv.inbound.filter f
  State.landAll l.length { s with dv := { s.dv with inbound := s.dv.inbound.filter (fun x => !f x) } } l

end Sys2Proof.Machine
end

