-- ==== Sys2Proof/Machine/Slots.lean ====
section
/-! DEFINITION. Stage rings (R223-R229) and the scratchpad address space (R20, R21, R142). -/

namespace Sys2Proof.Machine

open Sys2Proof

/-- CONF.MODE: 0 copy, 1 store-filled, 2 mixed (R223). -/
def StageRing.mode (r : StageRing) : Nat := fld r.conf.toNat 62 2
/-- CONF.COUNT (R223). -/
def StageRing.count (r : StageRing) : Nat := fld r.conf.toNat 55 7
/-- CONF.HEAD (R223). -/
def StageRing.head (r : StageRing) : Nat := fld r.conf.toNat 49 6
/-- CONF.TAIL (R223). -/
def StageRing.tail (r : StageRing) : Nat := fld r.conf.toNat 43 6
/-- CONF.SLOTSZ in bytes (R223). -/
def StageRing.slotBytes (r : StageRing) : Nat := 512 * fld r.conf.toNat 30 13
/-- CONF.EXPECT in bytes (R223). -/
def StageRing.expect (r : StageRing) : Nat := 32 * fld r.conf.toNat 0 17
/-- The address of a slot (R223). -/
def StageRing.slotAddr (r : StageRing) (k : Nat) : Nat := 512 * fld r.conf.toNat 17 13 + k * r.slotBytes
/-- A slot's tag: 0 EMPTY, 1 FILLING, 2 FULL, 3 DRAINING (R223). -/
def StageRing.tag (r : StageRing) (k : Nat) : Nat := fld r.tags.toNat (2 * k) 2
/-- A slot's error flag (R223). -/
def StageRing.errOf (r : StageRing) (k : Nat) : Bool := r.err.getLsbD k

/-- Replace the field of `n` bits at `lo` of a word. -/
def setFld {w : Nat} (x : BitVec w) (lo n v : Nat) : BitVec w :=
  (x &&& ~~~(BitVec.ofNat w ((2 ^ n - 1) * 2 ^ lo))) ||| BitVec.ofNat w ((v % 2 ^ n) * 2 ^ lo)

/-- Replace a slot's tag. -/
def StageRing.setTag (r : StageRing) (k t : Nat) : StageRing := { r with tags := setFld r.tags (2 * k) 2 t }
/-- Replace a slot's error flag. -/
def StageRing.setErr (r : StageRing) (k : Nat) (e : Bool) : StageRing := { r with err := setFld r.err k 1 e.toNat }
/-- A slot's internal state (R225). -/
def StageRing.slot (r : StageRing) (k : Nat) : SlotSt := Sparse.get {} r.slots k
/-- Replace a slot's internal state. -/
def StageRing.setSlot (r : StageRing) (k : Nat) (t : SlotSt) : StageRing := { r with slots := Sparse.put {} r.slots k t }

/-- Slot numbers from `k` on, around the ring. -/
def StageRing.around (r : StageRing) (k : Nat) : List Nat := (List.range r.count).map (fun i => (k + i) % r.count)
/-- The FILLING slots, the one acquired first in front. -/
def StageRing.filling (r : StageRing) : List Nat := (r.around r.tail).filter (fun k => r.tag k == 1)
/-- The DRAINING slots, the one awaited first in front. -/
def StageRing.draining (r : StageRing) : List Nat := (r.around r.head).filter (fun k => r.tag k == 3)

/-- The condition under which a FILLING slot is FULL (R227). -/
def StageRing.filled (r : StageRing) (k : Nat) : Bool :=
  let t := r.slot k
  let copied := t.bytes == r.expect && t.attached == 0
  match r.mode with
  | 0 => copied
  | 1 => t.committed
  | _ => copied && t.committed

/-- Evaluation: a FILLING slot whose condition holds becomes FULL (R226, R227). -/
def StageRing.evaluate (r : StageRing) (k : Nat) : StageRing :=
  if r.tag k == 1 && r.filled k then r.setTag k 2 else r

/-- Whether the slot at TAIL can be acquired (R226). -/
def StageRing.canAcquire (r : StageRing) : Bool := r.count != 0 && r.tag r.tail == 0
/-- Whether the slot at HEAD can be awaited (R226). -/
def StageRing.canAwait (r : StageRing) : Bool := r.count != 0 && r.tag r.head == 2

/-- Acquire the slot at TAIL (R226). -/
def StageRing.acquire (r : StageRing) : StageRing × Nat :=
  let k := r.tail
  let r := ((r.setTag k 1).setErr k false).setSlot k {}
  ({ r with conf := setFld r.conf 43 6 ((k + 1) % r.count) }, k)

/-- A copy attaches to a slot (R226). -/
def StageRing.attach (r : StageRing) (k : Nat) : StageRing :=
  r.setSlot k { r.slot k with attached := (r.slot k).attached + 1 }

/-- A copy takes its slot: with J the newest FILLING one where there is one, else the slot at TAIL, once it is EMPTY
(R226). -/
def StageRing.takeSlot (r : StageRing) (join : Bool) : Option (StageRing × Nat) :=
  match (if join then r.filling.getLast? else none) with
  | some k => some (r.attach k, k)
  | none =>
    if r.canAcquire then
      let (r, k) := r.acquire
      some (r.attach k, k)
    else none

/-- Of `n` bytes that reach a slot of `z` bytes from slot offset `o` on, modulo 2^64 (R176, R226): how many come before the first that
lies in the slot, and how many lie in it. -/
def slotFit (z o n : Nat) : Nat × Nat :=
  let i := if o % 2 ^ 64 < z then 0 else min n (2 ^ 64 - o % 2 ^ 64)
  (i, min (n - i) (z - (o + i) % 2 ^ 64))

/-- `n` bytes of a copy reach a slot, `fit` of them lying in it (R226): those the count has room for are counted; with
any other, the slot's error flag is set, and the answer says how many were counted. -/
def StageRing.deliver (r : StageRing) (k n fit : Nat) : StageRing × Nat :=
  let t := r.slot k
  let j := min fit (r.expect - t.bytes)
  let r := r.setSlot k { t with bytes := t.bytes + j }
  let r := if j < n then r.setErr k true else r
  (r.evaluate k, j)

/-- A copy completes: bytes it did not move count as delivered, and a code other than OK sets the error flag (R226). -/
def StageRing.detach (r : StageRing) (k : Nat) (unmoved : Nat) (err : Bool) : StageRing :=
  let t := r.slot k
  let r := r.setSlot k { t with attached := t.attached - 1, bytes := min r.expect (t.bytes + unmoved) }
  (if err then r.setErr k true else r).evaluate k

/-- A commit reaches the oldest FILLING slot; in copy mode it has no effect (R226). -/
def StageRing.commit (r : StageRing) : StageRing :=
  if r.mode = 0 then r
  else match r.filling with
    | [] => r
    | k :: _ => (r.setSlot k { r.slot k with committed := true }).evaluate k

/-- Await the slot at HEAD, which is FULL (R226). -/
def StageRing.await (r : StageRing) : StageRing × Nat :=
  let k := r.head
  let r := r.setTag k 3
  ({ r with conf := setFld r.conf 49 6 ((k + 1) % r.count) }, k)

/-- Release the oldest DRAINING slot (R226). -/
def StageRing.release (r : StageRing) : StageRing :=
  match r.draining with
  | [] => r
  | k :: _ => r.setTag k 0

/-- The 32 bytes of a descriptor (R223). -/
def StageRing.image (r : StageRing) : List Byte :=
  leBytes 8 r.conf.toNat ++ leBytes 8 r.err.toNat ++ leBytes 16 r.tags.toNat

/-- Whether a CONF word describes a valid ring (R224). -/
def confValid (c : Word) : Bool :=
  let r : StageRing := { conf := c }
  r.mode != 3 && decide (r.count ≤ 64) && decide (512 ≤ r.slotBytes) && decide (r.head < r.count) && decide (r.tail < r.count)
    && decide (r.slotAddr r.count ≤ 0x2FF000)
    && (r.mode == 1 || (decide (32 ≤ r.expect) && decide (r.expect ≤ r.slotBytes)))

/-- Where a scratchpad address leads (R20, R142). -/
inductive SpLoc where
  | mem (core a : Nat)
  | desc (core o : Nat)
  | aperture (o : Nat)
  | spill (o : Nat)
  | out
  deriving DecidableEq, Repr

/-- Where an address of a core's own scratchpad or window leads, and the bytes to the end of its range. -/
def spOwn (j a : Nat) : SpLoc × Nat :=
  if a < 0x2FF000 then (.mem j a, 0x2FF000 - a)
  else if a < 0x2FFC00 then (.out, 0x2FFC00 - a)
  else (.desc j (a - 0x2FFC00), 0x300000 - a)

/-- Where an address of the scratchpad address space leads for the S-stream, or the V-stream (`v`), of core `k`, and a
count of bytes for which it leads on (R20, R21, R142). -/
def Core.spRange (c : Core) (k : Nat) (v : Bool) (a : Nat) : SpLoc × Nat :=
  if a < 0x300000 then spOwn k a
  else if 0x800000 ≤ a ∧ a < 0x801000 then (if v then .out else .aperture (a - 0x800000), 0x801000 - a)
  else if v ∧ 0x900000 ≤ a ∧ a < 0x90A000 then (.spill (a - 0x900000), 0x90A000 - a)
  else if 0x1000000 ≤ a ∧ a < 0x5000000 then
    let r := (a - 0x1000000) / 0x400000
    let o := (a - 0x1000000) % 0x400000
    if o < 0x300000 ∧ r < c.panel.size.toNat then spOwn (c.sibling k r) o else (.out, 512 - a % 512)
  else (.out, 512 - a % 512)

/-- A part of a scratchpad access. -/
structure SpPiece where
  loc : SpLoc
  pos : Nat
  addr : Nat
  n : Nat
  deriving DecidableEq, Repr

/-- The pieces of `n` bytes at scratchpad address `a` (modulo 2^64). -/
def Core.spPieces (c : Core) (k : Nat) (v : Bool) : Nat → Nat → Nat → Nat → List SpPiece
  | 0, _, _, _ => []
  | f + 1, pos, a, n =>
    if n = 0 then []
    else
      let a := a % 2 ^ 64
      let r := c.spRange k v a
      let j := min n r.2
      ⟨r.1, pos, a, j⟩ :: c.spPieces k v f (pos + j) (a + j) (n - j)

/-- Read one piece: memory as the core's agents see it, descriptors, the V part of the spill store; the aperture reads zero, as
does what lies outside (R21, R101). -/
def State.spPieceBytes (s : State) (k : Nat) (p : SpPiece) : State × List PByte :=
  match p.loc with
  | .mem j a => s.seen k (.sp j) a 0 p.n
  | .desc j o =>
    (s, clean ((((List.range 32).flatMap (fun n => ((s.core j).ring n).image)).drop o).take p.n))
  | .spill o => s.rawGet (.spill k) o p.n
  | _ => (s, List.replicate p.n (0, false))

/-- Read scratchpad for a stream: the bytes, and whether some lay outside every range. -/
def State.spRead (s : State) (k : Nat) (v : Bool) (a n : Nat) : State × List PByte × Bool :=
  let ps := (s.core k).spPieces k v (n / 512 + 3) 0 a n
  let (s, d) := ps.foldl (fun (s, d) p =>
    let (s, e) := s.spPieceBytes k p
    (s, d ++ e)) (s, [])
  (s, d, ps.any (fun p => p.loc == .out))

/-- Whether a store to these pieces sets SST.OOX: it lies outside every range or in the descriptor area (R20, R21). -/
def spOox (ps : List SpPiece) : Bool := ps.any (fun p =>
  match p.loc with
  | .out => true
  | .desc .. => true
  | _ => false)

/-- The parts of a scratchpad store of core `k` that lie in scratchpads or in the V part of its spill store, with the masks of
their bytes. -/
def spSegs (k : Nat) (ps : List SpPiece) (d : List PByte) (m : List Byte) : List Seg :=
  ps.filterMap (fun p =>
    let at_ (e : Site) (a : Nat) : Seg := ⟨e, a, p.addr, p.addr, (d.drop p.pos).take p.n, (m.drop p.pos).take p.n, none⟩
    match p.loc with
    | .mem j a => some (at_ (.sp j) a)
    | .spill o => some (at_ (.spill k) o)
    | _ => none)

end Sys2Proof.Machine
end

