-- ==== Sys2Proof/Machine/Sync.lean ====
section
/-! DEFINITION. Engines and what a stream waits for (R190, R191, R194, R197, R217). -/

namespace Sys2Proof.Machine

open Sys2Proof

/-- An engine of a core. -/
def Core.engine (c : Core) : RingSel → Engine
  | .v => c.v.eng
  | .m => c.m.eng
  | .c => c.c.eng

/-- Replace an engine of a core. -/
def Core.setEngine (c : Core) (r : RingSel) (e : Engine) : Core :=
  match r with
  | .v => c.onV (fun v => { v with eng := e })
  | .m => c.onM (fun m => { m with eng := e })
  | .c => c.onC (fun t => { t with eng := e })

/-- The stream that runs a ring. -/
def agentOf : RingSel → Agent
  | .v => .v
  | .m => .m
  | .c => .c

/-- Words between a ring's read pointer and its write pointer (R190). -/
def Engine.laid (e : Engine) : Nat := if e.size = 0 then 0 else (e.wp + e.size - e.rp) % e.size

/-- Whether a ring has room for `n` more words (R190). -/
def Engine.room (e : Engine) (n : Nat) : Bool := decide (e.laid + n < e.size)

/-- The ring position `n` words after `p`. -/
def Engine.after (e : Engine) (p n : Nat) : Nat := if e.size = 0 then 0 else (p + n) % e.size

/-- The scratchpad address of a ring position (R190). -/
def Engine.addrOf (e : Engine) (p : Nat) : Nat := e.base + 4 * p

/-- Whether an engine is RUNNING. -/
def Core.running (c : Core) (r : RingSel) : Bool := (c.engine r).st == .running

/-- Whether any engine of a core is RUNNING (R193). -/
def Core.anyRunning (c : Core) : Bool := c.running .v || c.running .m || c.running .c

/-- Whether an entry of a store queue is a store; a FENCE has a place there and is none (R200). -/
def StoreOp.stores : StoreOp → Bool
  | .fence _ => false
  | _ => true

/-- Whether the V-stream is RUNNING with a word that executes or waits, or with words left in its ring (R194). -/
def Core.vworks (c : Core) : Bool := c.running .v && (decide (0 < c.v.eng.laid) || c.v.wait.isSome)

/-- The V busy flag (R194): the V-stream is at work or has an access outstanding. -/
def Core.vbusy (c : Core) : Bool := c.vworks || !c.v.loads.isEmpty || c.v.queue.any (fun q => q.op.stores)

/-- An engine enters ENDED or STOPPED, which sets the event latch (R191, R214). -/
def Core.endEngine (c : Core) (r : RingSel) (t : EngSt) : Core :=
  (c.setEngine r { c.engine r with st := t }).setLatch

/-- The V-stream stops on an error, with VST's code (R65, R71, R77). -/
def Core.stopV (c : Core) (code : Byte) : Core :=
  ((c.onV (fun v => { v with vstStop := true, vstCode := code, wait := none })).endEngine .v .stopped).pendEngTrap

/-- An engine stops on an error (R70, R71). -/
def Core.stopEngine (c : Core) (r : RingSel) : Core := (c.endEngine r .stopped).pendEngTrap

/-- Whether an agent that is served before agent `g` waits for the same slot: the order is S, V, M, C (R228). -/
def Core.servedBefore (c : Core) (g : Agent) (on : WaitOn) : Bool :=
  (g != .s && c.s.st == .waiting on) || ((g == .m || g == .c) && c.v.wait == some on)

/-- Whether agent `g` may acquire the next slot of a ring now (R226, R228); streams that the stall wire holds wait for none. -/
def State.mayAcquireSlot (s : State) (k : Nat) (n : RingId) (g : Agent) : Bool :=
  ((s.core k).ring n.toNat).canAcquire && (s.stalled k || !(s.core k).servedBefore g (.slotEmpty n))

/-- Whether agent `g` may await the next slot of a ring now (R226, R228). -/
def State.mayAwaitSlot (s : State) (k : Nat) (n : RingId) (g : Agent) : Bool :=
  ((s.core k).ring n.toNat).canAwait && (s.stalled k || !(s.core k).servedBefore g (.slotFull n))

/-- Change a stage ring of a core. -/
def Core.onRing (c : Core) (n : Nat) (f : StageRing → StageRing) : Core := c.setRing n (f (c.ring n))

end Sys2Proof.Machine
end

