-- ==== Sys2Proof/Machine/Operands.lean ====
section
/-! DEFINITION. The operand forms of the S-stream: immediates, branch targets, token offsets and scratchpad addresses
(R10, R53, R79, R83, R86, R92, R101, R206). -/

namespace Sys2Proof.Machine

open Sys2Proof

/-- Sign extension of a field to a word (R79). -/
def sextW {n : Nat} (f : BitVec n) : Word := f.signExtend 64

/-- An IMM6 offset: zero-extended, in units of the access size (R92). -/
def imm6At (imm : BitVec 6) (size : Nat) : Word := imm.setWidth 64 * BitVec.ofNat 64 size

/-- The offset of a token access: x(XO) + IMM6 * size modulo 2^64 (R92). -/
def tokOffset (o : Word) (imm : BitVec 6) (size : Nat) : Nat := (o + imm6At imm size).toNat

/-- A branch target: PC + 4 * Sext(offset) (R10). -/
def branchTo {n : Nat} (pc : BitVec 16) (off : BitVec n) : BitVec 16 := pc + (4#64 * sextW off).setWidth 16

/-- The address of LDS and STS (R101): x(XA) + 8 * Sext(IMM11), bits [2:0] ignored. -/
def spAddr (a : Word) (imm : BitVec 11) : Nat := ((a + 8#64 * sextW imm) &&& 0xFFFFFFFFFFFFFFF8#64).toNat

/-- The link value of JAL and JALR (R86). -/
def linkOf (pc : BitVec 16) : Word := (pc + 4#16).setWidth 64

/-- The FP32 operand in an x value (R87). -/
def f32 (x : Word) : Nat := x.toNat % 2 ^ 32

/-- The BF16 operand in an x value (R87). -/
def bf16Of (x : Word) : Nat := x.toNat % 2 ^ 16

end Sys2Proof.Machine
end

