-- ==== Sys2Proof/Machine/Formats.lean ====
section
/-! DEFINITION. Element types, format table entries and block scales (R29-R42, R60, R117). -/

namespace Sys2Proof.Machine

open Sys2Proof

/-- An element type as values: an integer of a width or a floating format (R29, R31, R33). -/
inductive ElType where
  | int (signed : Bool) (w : Nat)
  | flt (f : Fmt)
  deriving DecidableEq, Repr

/-- The element width W (R117). -/
def ElType.width : ElType → Nat
  | .int _ w => w
  | .flt f => f.width

/-- The container width C (R35, R117). -/
def ElType.cont (t : ElType) : Nat := if t.width = 4 then 4 else max 8 t.width

/-- The element count N of a v register (R117). -/
def ElType.count (t : ElType) : Nat := 4096 / t.cont

/-- The exact value of a container's bits; bits above the width are ignored (R33, R35). -/
def ElType.decode : ElType → Nat → FVal
  | .int sg w, b => FVal.ofInt (if sg then sextNat w b else ((b % 2 ^ w : Nat) : Int))
  | .flt f, b => f.decode b

/-- The container that holds a value rounded to the type (R43-R45). -/
def ElType.encode (t : ElType) (rm : Round) (sat : Bool) (v : FVal) : Nat :=
  match t with
  | .int sg w =>
    let r := intRange sg w
    wrapInt w (v.toInt rm r.1 r.2).1
  | .flt f => f.roundBits rm sat v

/-- The FX format an entry describes (R33, R36). -/
def fxOf (e : Word) : Fmt :=
  let n := e.toNat
  { sb := fld n 12 1
    eb := fld n 16 3
    mb := fld n 20 3
    bias := sextNat 8 (fld n 24 8)
    rule := match fld n 34 2 with
      | 0 => .ieee
      | 1 => .fn
      | _ => .fo }

/-- BASE of an entry (R36). -/
def fmtBase (e : Word) : Nat := fld e.toNat 0 4
/-- SFMT of an entry (R36). -/
def fmtSfmt (e : Word) : Nat := fld e.toNat 38 2
/-- The block length of an entry (R36). -/
def fmtBlock (e : Word) : Nat := 16 * 2 ^ fld e.toNat 36 2
/-- SPLANE of an entry (R36). -/
def fmtSplane (e : Word) : Nat := fld e.toNat 40 5

/-- The largest exponent field of a finite value, as the table of R34 gives it. With rule FN and MB = 0 the field of all ones
holds the NaN pattern alone; the test of R38 then still takes 2^EB - 1 (log entry 88). -/
def Fmt.topField (f : Fmt) : Int := match f.rule with
  | .ieee => (2 : Int) ^ f.eb - 2
  | _ => (2 : Int) ^ f.eb - 1

/-- Whether an entry is valid (R38). -/
def fmtValid (e : Word) : Bool :=
  let n := e.toNat
  let f := fxOf e
  fld n 45 19 == 0 && fld n 32 2 == 0 && fld n 23 1 == 0 && fld n 19 1 == 0 && fld n 13 3 == 0 && fld n 4 8 == 0
    && decide (fmtBase e ≤ 10)
    && (fmtSfmt e == 0
      || (fmtSfmt e != 3 && fld n 36 2 != 3 && decide (9 ≤ fmtSplane e) && fmtBase e != 0))
    && (fmtBase e != 1
      || (decide (1 ≤ f.eb) && decide (f.eb ≤ 6) && decide (f.mb ≤ 6) && decide (f.width ≤ 8) && fld n 34 2 != 3
        && (f.rule != .ieee || (decide (2 ≤ f.eb) && decide (1 ≤ f.mb)))
        && decide (f.topField - f.bias ≤ 127) && decide (1 - f.bias - f.mb ≥ -149)))

/-- The element type an entry's BASE names; none for NATIVE (R36, R37). -/
def baseType (e : Word) : Option ElType :=
  match fmtBase e with
  | 0 => none
  | 1 => some (.flt (fxOf e))
  | 2 => some (.int true 4)
  | 3 => some (.int true 8)
  | 4 => some (.int false 4)
  | 5 => some (.int false 8)
  | 6 => some (.int true 16)
  | 7 => some (.int true 32)
  | 8 => some (.flt .fp16)
  | 9 => some (.flt .bf16)
  | 10 => some (.flt .fp32)
  | _ => none

/-- The type an ET code names where FX names an entry; none where that entry's BASE is not FX (R39, R60). -/
def typeWith (fx : Word) : ETy → Option ElType
  | .si32 => some (.int true 32)
  | .si16 => some (.int true 16)
  | .si8 => some (.int true 8)
  | .si4 => some (.int true 4)
  | .fp32 => some (.flt .fp32)
  | .fp16 => some (.flt .fp16)
  | .bf16 => some (.flt .bf16)
  | .fx => if fmtBase fx = 1 then some (.flt (fxOf fx)) else none

/-- The type an ET code names on the V-stream of a core (R39, R60). -/
def Core.etype (c : Core) (et : ETy) : Option ElType := typeWith (c.fmtAt c.v.fmtIndex.toNat) et

/-- Where the scale of page element `n`, whose container begins at byte `o`, lies, and its length (R40); none for scale
1.0. -/
def scaleAt (e : Word) (n o : Nat) : Option (Nat × Nat) :=
  if fmtSfmt e = 0 || decide (2 ^ fmtSplane e ≤ o) then none
  else
    let z := if fmtSfmt e = 2 then 2 else 1
    some (2 ^ fmtSplane e + n / fmtBlock e * z, z)

/-- The value of a scale's bytes (R41). -/
def scaleValue (e : Word) (b : Nat) : FVal := if fmtSfmt e = 2 then Fmt.fp16.decode b else Fmt.ue5m3.decode b

/-- The index of the page element at byte `o`, for containers of `c` bits (R40). -/
def pageIndex (c o : Nat) : Nat := 8 * o / c

/-- The conversion of a container from one type to another (R45, R128-R130, R139, R140): an integer that becomes a narrower
one keeps its low bits unless it saturates or is negative and becomes an unsigned one; all else is rounded and clamped. -/
def convert (x y : ElType) (rm : Round) (sat : Bool) (b : Nat) : Nat :=
  match x, y with
  | .int sg w, .int sh v =>
    let i := if sg then sextNat w b else ((b % 2 ^ w : Nat) : Int)
    let r := intRange sh v
    let wraps := decide (v < w) && !sat && (sh || decide (0 ≤ i))
    wrapInt v (if wraps then i else clampInt r.1 r.2 i)
  | _, _ => y.encode rm sat (x.decode b)

end Sys2Proof.Machine
end

