-- ==== Sys2Proof/Machine/VOps.lean ====
section
/-! DEFINITION. What the V instructions share: elements of registers, predication, poison marks, completion and
illegal words (R65, R117-R119, R151). -/

namespace Sys2Proof.Machine

open Sys2Proof

/-- An element's container and its poison. -/
abbrev El := Nat × Bool

/-- The containers of a register's bits (R117). -/
def unpack (c n : Nat) (v : VWord) : List Nat := (List.range n).map (fun i => (v.toNat >>> (c * i)) % 2 ^ c)

/-- A register's bits from its containers, element 0 first (R117). -/
def packEls (c : Nat) (es : List Nat) : VWord := BitVec.ofNat 4096 (es.foldr (fun e a => (a <<< c) + e % 2 ^ c) 0)

/-- The elements of a v register with the poison of their sectors (R119). -/
def Core.els (c : Core) (t : ElType) (r : VReg) : List El :=
  (unpack t.cont t.count (c.vr r)).zipIdx.map (fun e => (e.1, (c.vpois r).getLsbD (e.2 * t.cont / 256)))

/-- The elements that a predicate governs as active (R118). -/
def Core.active (c : Core) (t : ElType) (g : PReg) : List Bool := (List.range t.count).map (fun i => (c.pr g).getLsbD i)

/-- The mark of a sector after a write (R119): poison written marks it, a whole sector of clean data clears it. -/
def sectorMark (old all : Bool) (es : List (Option El)) : Bool :=
  if es.any (fun e => match e with
    | some x => all || x.2
    | none => false) then true
  else if es.all (fun e => e.isSome) then false
  else old

/-- Bits of a list, bit 0 first. -/
def ofBits (w : Nat) (bs : List Bool) : BitVec w := BitVec.ofNat w (bs.foldr (fun b n => 2 * n + b.toNat) 0)

/-- Write the elements given, the others keep their values; with `all`, every sector written is poisoned (R118, R119). -/
def Core.putEls (c : Core) (t : ElType) (d : VReg) (all : Bool) (es : List (Option El)) : Core :=
  let k := 256 / t.cont
  let vals := (unpack t.cont t.count (c.vr d)).zipWith (fun o e => match e with
    | some x => x.1
    | none => o) es
  let marks := (List.range 16).map (fun q => sectorMark ((c.vpois d).getLsbD q) all ((es.drop (k * q)).take k))
  c.setV d (packEls t.cont vals) (ofBits 16 marks)

/-- Keep the results of the active elements. -/
def gated (act : List Bool) (es : List El) : List (Option El) := act.zipWith (fun a e => if a then some e else none) es

/-- Write an instruction's results under its governing predicate (R118, R119). -/
def Core.putActive (c : Core) (t : ElType) (g : PReg) (d : VReg) (es : List El) : Core :=
  c.putEls t d (c.ppois g) (gated (c.active t g) es)

/-- Write every element, unpredicated. -/
def Core.putAll (c : Core) (t : ElType) (d : VReg) (all : Bool) (es : List El) : Core :=
  c.putEls t d all (es.map some)

/-- After the word or command at position `q`: the innermost loops that end there and are in their last iteration are
popped; the next outer one that ends there loops back (R151). -/
def endBody : List Loop → Nat → List Loop × Option Loop
  | [], _ => ([], none)
  | l :: ls, q =>
    if l.last ≠ q then (l :: ls, none)
    else if 1 < l.left then ({ l with left := l.left - 1 } :: ls, some l)
    else endBody ls q

/-- The engine is past the word or command of `n` words at its read pointer (R151, R172). -/
def Engine.advance (e : Engine) (n : Nat) : Engine :=
  match endBody e.loops e.pos with
  | (ls, some l) => { e with loops := ls, pos := l.first, rp := l.rp }
  | (ls, none) => { e with loops := ls, pos := e.pos + 1, rp := e.after e.rp n }

/-- The V-stream goes on at its next word. -/
def Core.advanceV (c : Core) : Core := c.onV (fun v => { v with eng := v.eng.advance 1, wait := none })

/-- The V-stream waits at its word (R153, R217). -/
def Core.waitV (c : Core) (w : WaitOn) : Core := c.onV (fun v => { v with wait := some w })

/-- The current core's V-stream completes its word. -/
def State.retireV (s : State) : State := s.setMe s.me.advanceV

/-- The current core's V-stream meets an illegal V word (R65). -/
def State.illegalV (s : State) : State := s.setMe (s.me.stopV 1#8)

/-- A V word with an element type: illegal where ET is FX and the entry is not (R39), else the core it leaves. -/
def State.typedV (s : State) (et : ETy) (f : ElType → Core → Core) : Out :=
  match s.me.etype et with
  | none => .next s.illegalV
  | some t => .next ((s.setMe (f t s.me)).retireV)

/-- An element-wise function of one register (R118). -/
def Core.map1 (c : Core) (t : ElType) (g : PReg) (d a : VReg) (f : Nat → Nat) : Core :=
  c.putActive t g d ((c.els t a).map (fun x => (f x.1, x.2)))

/-- An element-wise function of two registers (R118). -/
def Core.map2 (c : Core) (t : ElType) (g : PReg) (d a b : VReg) (f : Nat → Nat → Nat) : Core :=
  c.putActive t g d ((c.els t a).zipWith (fun x y => (f x.1 y.1, x.2 || y.2)) (c.els t b))

end Sys2Proof.Machine
end

