-- ==== Sys2Proof/Machine/Gauge.lean ====
section
/-! DEFINITION. Gauge patterns (R141). -/

namespace Sys2Proof.Machine

open Sys2Proof

/-- The identity pattern, which every pattern resets to (R141). -/
def identityPat : List Byte := [8, 0, 1, 0, 0, 0, 0, 0, 0, 8] ++ List.replicate 62 0

/-- A gauge pattern of a core. -/
def Core.gauge (c : Core) (k : Nat) : List Byte := (Sparse.get none c.gauges k).getD identityPat

/-- PERIOD (R141). -/
def patPeriod (p : List Byte) : Nat := field p 0 2
/-- COUNT (R141). -/
def patCount (p : List Byte) : Nat := field p 2 1
/-- The bytes of an output container: OUTZ (R141). -/
def patOut (p : List Byte) : Nat := 1 + field p 3 1 % 2
/-- SX (R141). -/
def patSx (p : List Byte) : Bool := field p 3 1 / 2 % 2 == 1
/-- SHIFT of a field (R141). -/
def patShift (p : List Byte) (k : Nat) : Nat := field p (8 + 2 * k) 1
/-- WIDTH of a field (R141). -/
def patWidth (p : List Byte) (k : Nat) : Nat := field p (9 + 2 * k) 1

/-- Whether a record is valid (R141). -/
def patValid (p : List Byte) : Bool :=
  let n := patCount p
  decide (1 ≤ patPeriod p) && decide (patPeriod p ≤ 128) && decide (1 ≤ n) && decide (n ≤ 32)
    && decide (field p 3 1 < 4) && field p 4 4 == 0
    && (List.range n).all (fun k => decide (1 ≤ patWidth p k) && decide (patWidth p k ≤ 8 * patOut p)
      && decide (patShift p k + patWidth p k ≤ patPeriod p))
    && (p.drop (8 + 2 * n)).all (fun b => b == 0#8)

/-- The first bit, in the extent, of the field of output container `j` of a load at byte `o` (R141). -/
def gaugeBit (p : List Byte) (o j : Nat) : Nat :=
  8 * o + j / patCount p * patPeriod p + patShift p (j % patCount p)

/-- The bytes that the field of output container `j` draws its bits from: offset and count (R141). -/
def gaugeBytes (p : List Byte) (o j : Nat) : Nat × Nat :=
  let b := gaugeBit p o j
  (b / 8, (b % 8 + patWidth p (j % patCount p) + 7) / 8)

/-- The bytes of output container `j` from those bytes, with their poison (R141). -/
def gaugeCont (p : List Byte) (o j : Nat) (d : List PByte) : List PByte :=
  let w := patWidth p (j % patCount p)
  let v := leNat (plain d) / 2 ^ (gaugeBit p o j % 8) % 2 ^ w
  let v := if patSx p then wrapInt (8 * patOut p) (sextNat w v) else v
  (leBytes (patOut p) v).map (fun b => (b, anyPois d))

/-- The first page element index of a gauge load at byte `o` (R141). -/
def gaugeFirst (p : List Byte) (o : Nat) : Nat := 8 * o / patPeriod p * patCount p

end Sys2Proof.Machine
end

