-- ==== Sys2Proof/Machine/LoadQueue.lean ====
section
/-! DEFINITION. The load and store queues of the S- and V-streams: how an access performs, the order between loads and stores,
releases, and what a stream waits for (R75, R93, R97-R100, R138-R144, R199, R200, R217, R245, R248-R257). -/

namespace Sys2Proof.Machine

open Sys2Proof

/-- The runs of consecutive set flags: first index and length. -/
def runsIn (bs : List Bool) : List (Nat × Nat) :=
  (bs.zipIdx.foldl (fun (acc : List (Nat × Nat)) x =>
    if !x.1 then acc
    else match acc with
      | (a, n) :: r => if a + n = x.2 then (a, n + 1) :: r else (x.2, 1) :: acc
      | [] => [(x.2, 1)]) []).reverse

/-- Which bytes hold containers of `c` bits of active elements (R30, R118). -/
def activeBytes (c : Nat) (act : List Bool) : List Bool :=
  if c = 4 then (List.range ((act.length + 1) / 2)).map (fun b => act.getD (2 * b) false || act.getD (2 * b + 1) false)
  else act.flatMap (fun a => List.replicate (c / 8) a)

/-- Which bits of each byte belong to active elements of 4 bits; whole bytes for other containers (R140). -/
def activeMask (c : Nat) (act : List Bool) : List Byte :=
  if c = 4 then
    (List.range ((act.length + 1) / 2)).map (fun b =>
      let lo := act.getD (2 * b) false
      let hi := act.getD (2 * b + 1) false
      if lo == hi then 0xFF#8 else if lo then 0x0F#8 else 0xF0#8)
  else []

/-- Container `i` of `c` bits in a run of bytes, with its poison (R30). -/
def contAt (c : Nat) (d : List PByte) (i : Nat) : El :=
  if c = 4 then
    let b := d.getD (i / 2) (0, false)
    (b.1.toNat / 16 ^ (i % 2) % 16, b.2)
  else
    let e := (d.drop (c / 8 * i)).take (c / 8)
    (leNat (plain e), anyPois e)

/-- Bytes from containers of `c` bits with their poison (R30). -/
def contBytes (c : Nat) (es : List El) : List PByte :=
  if c = 4 then
    (List.range ((es.length + 1) / 2)).map (fun b =>
      let lo := es.getD (2 * b) (0, false)
      let hi := es.getD (2 * b + 1) (0, false)
      (BitVec.ofNat 8 (lo.1 % 16 + 16 * (hi.1 % 16)), lo.2 || hi.2))
  else es.flatMap (fun e => (leBytes (c / 8) e.1).map (fun b => (b, e.2)))

/-- What an access through a token reads and how its elements are decoded (R139, R140). -/
structure PageFmt where
  /-- The entry. -/
  e : Word
  /-- The type of the page's containers. -/
  ty : ElType
  /-- Whether the page's format applies. -/
  dec : Bool
  deriving DecidableEq, Repr

/-- The format of a token's page for an access of a type (R139). -/
def Core.pageFmt (c : Core) (t : ElType) (tok : Option Tok) (raw : Bool) : PageFmt :=
  let e := c.fmtAt (c.mteOf tok).fsel.toNat
  match baseType e with
  | some p => if raw then ⟨e, t, false⟩ else ⟨e, p, true⟩
  | none => ⟨e, t, false⟩

/-- The scale of page element `n` at byte `o`, where the page's format applies (R40). -/
def PageFmt.scale (p : PageFmt) (n o : Nat) : Option (Nat × Nat) := if p.dec then scaleAt p.e n o else none

/-- The element that a load delivers for a container and the bytes of its scale (R139). -/
def PageFmt.load (p : PageFmt) (t : ElType) (x : El) (sc : Option (List PByte)) : El :=
  if !p.dec || (p.ty == t && fmtSfmt p.e == 0) then x
  else
    match sc with
    | none => (convert p.ty t .rne false x.1, x.2)
    | some b => (t.encode .rne false ((p.ty.decode x.1).mul (scaleValue p.e (leNat (plain b)))), x.2 || anyPois b)

/-- The container that a store writes for an element (R140). -/
def PageFmt.store (p : PageFmt) (t : ElType) (x : Nat) : Nat :=
  if !p.dec || p.ty == t then x else convert t p.ty .rne false x

/-- The pattern that a load with `.G` uses (R139, R146). -/
def Core.loadPat (c : Core) (gauge : Bool) : Option (List Byte) :=
  if gauge && c.v.gaugeOn then some (c.gauge c.v.gaugePat.toNat) else none

/-- The requests of a load for active elements: of U's bytes (R139, R141). -/
def loadReqs (pat : Option (List Byte)) (c o : Nat) (act : List Bool) : List (Nat × Nat × Nat) :=
  let need := activeBytes c act
  match pat with
  | none => (runsIn need).map (fun r => (r.1, o + r.1, r.2))
  | some p =>
    let z := patOut p
    ((List.range ((need.length + z - 1) / z)).filter (fun j => need.getD (z * j) false || need.getD (z * j + z - 1) false)).map
      (fun j => let b := gaugeBytes p o j; (3 * j, b.1, b.2))

/-- The bytes that `loadReqs` may place, before the scales. -/
def loadSpan (pat : Option (List Byte)) (c n : Nat) : Nat :=
  let size := (c * n + 7) / 8
  match pat with
  | none => size
  | some _ => 3 * size

/-- U from the bytes read (R139, R141). -/
def loadU (pat : Option (List Byte)) (c o n : Nat) (d : List PByte) : List PByte :=
  match pat with
  | none => d
  | some p =>
    let size := (c * n + 7) / 8
    (List.range ((size + patOut p - 1) / patOut p)).flatMap (fun j =>
      gaugeCont p o j ((d.drop (3 * j)).take (gaugeBytes p o j).2))

/-- The page element index of element `i` of a load and the byte that decides whether it has a scale (R40, R139, R141). -/
def loadIndex (pat : Option (List Byte)) (c o i : Nat) : Nat × Nat :=
  match pat with
  | none => (pageIndex c o + i, (o + c * i / 8) % 2 ^ 64)
  | some p => (gaugeFirst p o + i, gaugeBit p o (c * i / 8 / patOut p) / 8 % 2 ^ 64)

/-- A gathered or scattered element: its page element index, its byte and its nibble (R143). -/
def gatherAt (z off : Nat) (elems : Bool) : Nat × Nat × Nat :=
  if elems then (off, off * z / 8, if z = 4 then off % 2 else 0) else (pageIndex z off, off, 0)

/-- The function of an AMO on operands of `n` bytes (R97). -/
def amoFn (f : AmoOp) (n a b : Nat) : Nat :=
  let w := 8 * n
  match f with
  | .add => (a + b) % 2 ^ w
  | .min => if sextNat w b < sextNat w a then b else a
  | .max => if sextNat w a < sextNat w b then b else a
  | .minu => if b < a then b else a
  | .maxu => if a < b then b else a
  | .and => a &&& b
  | .or => a ||| b
  | .xchg => b

/-- The scales that the active elements of a load need: the byte where each lies and its bytes (R40, R139). -/
def PageFmt.scales (p : PageFmt) (t : ElType) (off : Nat) (act : List Bool) (pat : Option (List Byte)) : List (Option (Nat × Nat)) :=
  (List.range t.count).map (fun i =>
    if act.getD i false then let x := loadIndex pat p.ty.cont off i; p.scale x.1 x.2 else none)

/-- The requests of a VLD: those of U, then its scales, each once (R139). -/
def PageFmt.vldReqs (p : PageFmt) (t : ElType) (off : Nat) (act : List Bool) (pat : Option (List Byte)) : List (Nat × Nat × Nat) :=
  let z := p.ty.cont
  loadReqs pat z off act ++ ((p.scales t off act pat).filterMap id).eraseDups.zipIdx.map (fun x =>
    (loadSpan pat z t.count + 2 * x.2, x.1.1, x.1.2))

/-- Where the elements of a gather or scatter lie (R143). -/
def PageFmt.gathered (p : PageFmt) (act : List Bool) (offs : List Nat) (elems : Bool) : List (Option (Nat × Nat × Nat)) :=
  (act.zip offs).map (fun x => if x.1 then some (gatherAt p.ty.cont x.2 elems) else none)

/-- The requests of a VGATH: each element and its scale (R143). -/
def PageFmt.vgathReqs (p : PageFmt) (act : List Bool) (offs : List Nat) (elems : Bool) : List (Nat × Nat × Nat) :=
  (p.gathered act offs elems).zipIdx.flatMap (fun x =>
    match x.1 with
    | none => []
    | some a => (4 * x.2, a.2.1, (p.ty.cont + 7) / 8) :: (match p.scale a.1 a.2.1 with
      | none => []
      | some q => [(512 + 2 * x.2, q.1, q.2)]))

/-- The bytes that a V store writes, with their masks, and its requests (position, offset, count): its elements in the containers
of the page as it stands (R140, R143, R245). -/
def Core.vecStore (c : Core) (tok : Option Tok) (t : ElType) (w : VStore) : List PByte × List Byte × List (Nat × Nat × Nat) :=
  let act := w.els.map (fun e => e.isSome)
  match w.at_ with
  | .run off raw =>
    let p := c.pageFmt t tok raw
    let z := p.ty.cont
    let es : List El := w.els.map (fun e => match e with
      | some e => (p.store t e.1, e.2)
      | none => (0, false))
    (contBytes z es, activeMask z act, (runsIn (activeBytes z act)).map (fun r => (r.1, off + r.1, r.2)))
  | .scatter offs elems =>
    let p := c.pageFmt t tok false
    let z := p.ty.cont
    let ats := p.gathered act offs elems
    let data := (w.els.zip ats).flatMap (fun x =>
      match x with
      | (some e, some a) => (leBytes 4 (p.store t e.1 * 16 ^ a.2.2)).map (fun b => (b, e.2))
      | _ => List.replicate 4 (0, false))
    let mask := if z = 4 then ats.flatMap (fun a => match a with
      | some a => leBytes 4 (15 * 16 ^ a.2.2)
      | none => [0xFF, 0xFF, 0xFF, 0xFF]) else []
    (data, mask, ats.zipIdx.filterMap (fun x => x.1.map (fun a => (4 * x.2, a.2.1, (z + 7) / 8))))

/-- What a store through a token writes: its bytes, their masks and its requests. -/
def Core.storeBytes (c : Core) (q : QStore) : List PByte × List Byte × List (Nat × Nat × Nat) :=
  match q.op with
  | .bytes off d => (clean d, [], [(0, off, d.length)])
  | .vec w =>
    match typeWith w.fx w.et with
    | some t => c.vecStore q.via t w
    | none => ([], [], [])
  | _ => ([], [], [])

/-- The runs of a store: offsets of its token's extent, or scratchpad addresses (R96, R144, R250). -/
def Core.storeRuns (c : Core) (q : QStore) : List (Nat × Nat) :=
  match q.op with
  | .segs gs => gs.map (fun g => (g.off, g.data.length))
  | _ => if q.via.isSome then (c.storeBytes q).2.2.map (fun r => (r.2.1, r.2.2)) else []

/-- The runs of an access of a load queue: offsets of its token's extent, or scratchpad addresses. -/
def Core.loadRuns (c : Core) (l : QLoad) : List (Nat × Nat) :=
  let tok (rs : List (Nat × Nat)) : List (Nat × Nat) := if l.tok.isSome then rs else []
  match l.op with
  | .load _ n => tok [(l.off, n)]
  | .amo _ _ n _ _ => tok [(l.off, n)]
  | .cas _ _ _ => tok [(l.off, 8)]
  | .sp _ => [(l.off, 8)]
  | .fence => []
  | .mark _ => []
  | .vld et fx _ act _ pat raw =>
    match typeWith fx et with
    | none => []
    | some t => tok (((c.pageFmt t l.tok raw).vldReqs t l.off act pat).map (fun r => (r.2.1, r.2.2)))
  | .vlds et fx _ act _ =>
    match typeWith fx et with
    | none => []
    | some t => (runsIn (activeBytes t.cont act)).map (fun r => (l.off + r.1, r.2))
  | .vgath et fx _ act offs _ elems =>
    match typeWith fx et with
    | none => []
    | some t => tok (((c.pageFmt t l.tok false).vgathReqs act offs elems).map (fun r => (r.2.1, r.2.2)))

/-- Whether two runs of offsets or addresses modulo 2^64 meet (R92). -/
def runsMeet (p q : Nat × Nat) : Bool :=
  decide (0 < p.2) && decide (0 < q.2)
    && (decide ((p.1 + 2 ^ 64 - q.1 % 2 ^ 64) % 2 ^ 64 < q.2) || decide ((q.1 + 2 ^ 64 - p.1 % 2 ^ 64) % 2 ^ 64 < p.2))

/-- Whether an access of a load queue and a store go to the same bytes through the same token, or at the same scratchpad address
(R250). -/
def Core.clash (c : Core) (l : QLoad) (q : QStore) : Bool :=
  l.tok == q.via && (c.loadRuns l).any (fun p => (c.storeRuns q).any (fun r => runsMeet p r))

/-- Whether an entry of a load queue has a place in the store queue as well, or orders all later stores behind it (R100, R199,
R200). -/
def LoadOp.ordersStores : LoadOp → Bool
  | .amo .. => true
  | .cas .. => true
  | .fence => true
  | .mark _ => true
  | _ => false

/-- Whether a part of a store through a token lies on a page with both H and T set (R257). -/
def Core.onTso (c : Core) (via : Option Tok) (gs : List Seg) : Bool :=
  let m := c.mteOf via
  gs.any (fun g => g.site == .host && (match runAt m.runs ((m.vbase + g.off) / 65536 - m.vbase / 65536) with
    | some (r, _) => r.tso
    | none => false))

/-- The entries of a stream's load queue that come before a store. -/
def Core.loadsBefore (c : Core) (v : Bool) (q : QStore) : List QLoad := (c.loadsOf v).filter (fun l => decide (l.seq < q.seq))

/-- Whether an earlier entry of the load queue keeps a store back (R250): an atomic, MARK or FENCE, or a load of the same bytes; a
FENCE waits for all of them (R200). -/
def Core.keptBack (c : Core) (v : Bool) (q : QStore) : Bool :=
  (c.loadsBefore v q).any (fun l => l.op.ordersStores || !q.op.stores || c.clash l q)

/-- The stream whose queue it is. -/
def streamOf (v : Bool) : Agent := if v then .v else .s

/-- A store leaves its queue: what it writes in the spill store or in the aperture is written, and the rest is visible at core
scope (R249). -/
def State.land (s : State) (k : Nat) (g : Agent) (gs : List Seg) : State :=
  let own (g : Seg) : Bool := match g.site with
    | .spill _ => true
    | .tmpl _ => true
    | _ => false
  let s := (gs.filter own).foldl (fun s g => s.putSeg k g) s
  let rest := gs.filter (fun g => !own g)
  if rest.isEmpty then s else s.onCore k (fun c => c.pushBuffer ⟨rest, g⟩)

/-- The copies of an aperture channel's queue, with those whose start stands in the store queue (R177). -/
def Core.chanLoad (c : Core) (ch : Nat) : Nat :=
  (Sparse.get [] c.c.chans ch).length + (c.s.queue.filter (fun q => match q.op with
    | .start n _ => n == ch
    | _ => false)).length

/-- The parts of a store through a token, found as it leaves its queue: none while its token holds it (R93, R138, R245, R349). -/
def State.findStore (s : State) (k : Nat) (v : Bool) (q : QStore) : Option (State × List Seg) :=
  let d := (s.core k).storeBytes q
  let vb := ((s.core k).mteOf q.via).vbase
  match s.access k q.via (if v then .v else .s) false true d.2.2 with
  | .hold _ => none
  | .dead => some (s, [])
  | .live ps => some ((s.onCore k (fun c => c.oox (anyOut ps))).dropped k vb ps, maskedSegs vb d.1 d.2.1 ps)

/-- The oldest entry of a stream's store queue leaves it: a store becomes visible at core scope, an aperture copy enters its
channel, a FENCE takes effect (R177, R200, R249, R250); none while it is held or kept back. -/
def State.popStore (s : State) (k : Nat) (v : Bool) : Option State :=
  let c := s.core k
  match c.storesOf v with
  | [] => none
  | q :: qs =>
    if c.keptBack v q then none
    else
      let rest (s : State) : State := s.onCore k (fun c => c.setStores v qs)
      match q.op with
      | .fence sc =>
        let s := (rest s).widen k sc
        if s.reached k sc then some s else none
      | .segs gs => some ((rest s).land k (streamOf v) gs)
      | .start ch f =>
        some ((rest s).onCore k (fun c => c.onC (fun e => { e with chans := Sparse.put [] e.chans ch (Sparse.get [] e.chans ch ++ [f]) })))
      | _ =>
        match s.findStore k v q with
        | none => none
        | some (s, gs) =>
          if c.onTso q.via gs && !(c.loadsBefore v q).isEmpty then none
          else
            let s := (rest s).land k (streamOf v) gs
            some (if v then s.release k q.via else s)

/-- The bytes that the V-stream of core `k` reads through a token (position, offset, count): none while the token holds it, zero
from a DEAD token (R138). -/
def State.readV (s : State) (k : Nat) (tok : Option Tok) (n : Nat) (rs : List (Nat × Nat × Nat)) :
    Option (State × List PByte) :=
  match s.access k tok .v true false rs with
  | .hold _ => none
  | .dead => some (s, List.replicate n (0, false))
  | .live ps =>
    let r := s.readPieces k tok n ps
    some (r.1.onCore k (fun c => c.oox (anyOut ps)), r.2)

/-- What VLD leaves in its register (R139): at most one read of each byte, then the active elements. -/
def State.vldEls (s : State) (k : Nat) (tok : Option Tok) (off : Nat) (t : ElType) (act : List Bool)
    (pat : Option (List Byte)) (raw : Bool) : Option (State × List (Option El)) :=
  let p := (s.core k).pageFmt t tok raw
  let z := p.ty.cont
  let span := loadSpan pat z t.count
  let scales := p.scales t off act pat
  let uniq := (scales.filterMap id).eraseDups
  (s.readV k tok (span + 2 * uniq.length) (p.vldReqs t off act pat)).map (fun r =>
    let u := loadU pat z off t.count r.2
    (r.1, (List.range t.count).map (fun i =>
      if !act.getD i false then none
      else
        let sc := (scales.getD i none).map (fun x => ((r.2.drop (span + 2 * uniq.idxOf x)).take x.2))
        some (p.load t (contAt z u i) sc))))

/-- What VLDS leaves in its register (R142). -/
def State.vldsEls (s : State) (k : Nat) (a : Nat) (t : ElType) (act : List Bool) : State × List (Option El) :=
  let r := (runsIn (activeBytes t.cont act)).foldl (fun (x : State × Sparse PByte × Bool) u =>
    let y := x.1.spRead k true (a + u.1) u.2
    (y.1, Sparse.putList ((0 : Byte), false) x.2.1 u.1 y.2.1, x.2.2 || y.2.2)) (s, [], false)
  let bytes := Sparse.getList ((0 : Byte), false) r.2.1 0 512
  (r.1.onCore k (fun c => c.oox r.2.2), act.zipIdx.map (fun x => if x.1 then some (contAt t.cont bytes x.2) else none))

/-- What VGATH leaves in its register (R143). -/
def State.vgathEls (s : State) (k : Nat) (tok : Option Tok) (t : ElType) (act : List Bool) (offs : List Nat) (elems : Bool) :
    Option (State × List (Option El)) :=
  let p := (s.core k).pageFmt t tok false
  let z := p.ty.cont
  (s.readV k tok 768 (p.vgathReqs act offs elems)).map (fun r =>
    let es := (p.gathered act offs elems).zipIdx.map (fun x =>
      match x.1 with
      | none => none
      | some a =>
        let e := (r.2.drop (4 * x.2)).take ((z + 7) / 8)
        let v := leNat (plain e)
        let v := if z = 4 then v / 16 ^ a.2.2 % 16 else v
        some (p.load t (v, anyPois e) ((p.scale a.1 a.2.1).map (fun q => (r.2.drop (512 + 2 * x.2)).take q.2))))
    (r.1, es ++ List.replicate (t.count - es.length) none))

/-- How an access of a load queue ends: it stands where it is, it has performed, or it has trapped. -/
inductive Performed where
  | waits
  | done (s : State)
  | trapped (s : State)

/-- Whether the condition that an agent of core `k` waits for holds as the machine stands (R217). -/
def WaitOn.over (s : State) (k : Nat) (g : Agent) : WaitOn → Bool
  | .engines es => es.all (fun e => !(s.core k).running e)
  | .rdv => !(s.core k).anyRunning && !((s.core k).v.queue ++ (s.core k).s.queue).any (fun q => q.op.stores)
  | .vfence => !(s.core k).vbusy
  | .mailboxEmpty m => (Sparse.get none (s.core k).v.mailbox m.toNat).isNone
  | .mailboxFull m => (Sparse.get none (s.core k).v.mailbox m.toNat).isSome
  | .room r n => ((s.core k).engine r).room n
  | .sem n => (s.core k).mayAwait n g
  | .barrier n ph => (Sparse.get {} (s.panel ((s.core k).panelBase k)).bars n.toNat).phase != ph
  | .slotEmpty n => s.mayAcquireSlot k n g
  | .slotFull n => s.mayAwaitSlot k n g
  | .event => (s.core k).s.latch
  | .stale i => !(((s.core k).mte i.toNat).st == .stale || ((s.core k).mte i.toNat).pred)
  | .bench => false
  | .pins => false
  | .predicted => false
  | .queues => ((s.core k).loadsOf (g == .v)).isEmpty && !((s.core k).storesOf (g == .v)).any (fun q => q.op.stores)
  | .stores => !((s.core k).storesOf (g == .v)).any (fun q => q.op.stores)
  | .reads a n =>
    ((s.core k).loadsOf (g == .v)).isEmpty
      && !((s.core k).storesOf (g == .v)).any (fun q => q.via.isNone && ((s.core k).storeRuns q).any (fun r => runsMeet (a, n) r))
  | .uses t => t.isNone || (!(s.core k).s.loads.any (fun l => l.tok == t) && !(s.core k).s.queue.any (fun q => q.via == t))
  | .chanRoom c => decide ((s.core k).chanLoad c.toNat < 8)
  | .line ix => (s.mem.mig.find? (fun p => p.ix == ix && !p.settled)).isNone

/-- A load meets a poisoned byte (R95): the trap abandons what the S-stream waits for. An instruction whose wait is over completes
first (R197), and one that cannot be abandoned keeps the load back (log entry 28). -/
def State.loadTrap (s : State) (k : Nat) (pc : BitVec 16) : Performed :=
  match (s.core k).s.st with
  | .running => .trapped (s.trapAt k pc causePoison 0)
  | .waiting w => if w.abandonable && !w.over s k .s then .trapped ((s.abandonS k).trapAt k pc causePoison 0) else .waits
  | _ => .waits

/-- A read-modify-write performs (R97-R100): the outcomes in the order of R97. It reads the latest stores visible to its core at the
scope, and its write is visible there with the read, behind the earlier stores of its stream, so that no agent of the scope comes
between; a CAS that fails writes nothing and orders nothing. -/
def State.rmw (s : State) (k : Nat) (l : QLoad) (older : List QStore) (d : XReg) (n : Nat) (sc : Scope) (f : Nat → Option Nat)
    (done : State → State) : Performed :=
  let vb := ((s.core k).mteOf l.tok).vbase
  let fin (s : State) (v : Word) : Performed := .done (done (s.onCore k (fun c => c.setX d v)))
  match s.access k l.tok .s true true [(0, l.off, n)] with
  | .hold _ => .waits
  | .dead => fin s 0
  | .live ps =>
    if l.off % n ≠ 0 || anyOut ps then fin (s.onCore k (fun c => c.oox true)) 0
    else if (firstDsc ps).isSome then fin (s.dropped k vb ps) 0
    else
      let r := s.readPieces k l.tok n ps
      if anyPois r.2 then (done r.1).loadTrap k l.pc
      else
        let old := leNat (plain r.2)
        match f old with
        | none => fin r.1 (word old)
        | some v =>
          let w : VisStore := ⟨plainSegs vb (clean (leBytes n v)) ps, .s⟩
          if !older.isEmpty then .waits
          else fin (r.1.showAt k sc w) (word old)

/-- The oldest access in the load queue of a stream performs (R93-R101, R138-R143, R199, R200): it waits while its token holds it or
an earlier store to its bytes stands in the store queue (R250), MARK while any earlier store does or is not visible at its scope
(R199, R252). -/
def State.performLoad (s : State) (k : Nat) (v : Bool) : Performed :=
  match (s.core k).loadsOf v with
  | [] => .waits
  | l :: ls =>
    let older := ((s.core k).storesOf v).filter (fun q => decide (q.seq < l.seq))
    let done (s : State) : State :=
      let s := s.onCore k (fun c => c.setLoads v ls)
      if v then s.release k l.tok else s
    let setX (s : State) (d : XReg) (d' : List PByte) : State := s.onCore k (fun c => c.setX d (word (leNat (plain d'))))
    let put (s : State) (t : ElType) (d : VReg) (p : Bool) (es : List (Option El)) : State :=
      s.onCore k (fun c => c.putEls t d p es)
    if older.any (fun q => (s.core k).clash l q) then .waits
    else
      match l.op with
      | .fence => .done (done s)
      | .mark sc =>
        if !older.isEmpty then .waits
        else
          let s := (done s).widen k sc
          if s.reached k sc then .done s else .waits
      | .load d n =>
        match s.access k l.tok .s true false [(0, l.off, n)] with
        | .hold _ => .waits
        | .dead => .done (done (setX s d []))
        | .live ps =>
          let r := s.readPieces k l.tok n ps
          if anyPois r.2 then (done r.1).loadTrap k l.pc
          else .done (done (setX (r.1.onCore k (fun c => c.oox (anyOut ps))) d r.2))
      | .sp d =>
        let r := s.spRead k false l.off 8
        if anyPois r.2.1 then (done r.1).loadTrap k l.pc
        else .done (done (setX (r.1.onCore k (fun c => c.oox r.2.2)) d r.2.1))
      | .amo d f n x sc => s.rmw k l older d n sc (fun old => some (amoFn f n old x)) done
      | .cas d o x => s.rmw k l older d 8 .device (fun old => if old = o then some x else none) done
      | .vld et fx d act p pat raw =>
        match typeWith fx et with
        | none => .done (done s)
        | some t =>
          match s.vldEls k l.tok l.off t act pat raw with
          | none => .waits
          | some r => .done (done (put r.1 t d p r.2))
      | .vlds et fx d act p =>
        match typeWith fx et with
        | none => .done (done s)
        | some t =>
          let r := s.vldsEls k l.off t act
          .done (done (put r.1 t d p r.2))
      | .vgath et fx d act offs p elems =>
        match typeWith fx et with
        | none => .done (done s)
        | some t =>
          match s.vgathEls k l.tok t act offs elems with
          | none => .waits
          | some r => .done (done (put r.1 t d p r.2))

/-- What the queues of a stream are run for: that its loads have performed, that its stores are visible at core scope, or both. -/
inductive Goal where
  | loads | stores | all
  deriving DecidableEq, Repr

/-- Whether a stream's queues stand as a goal asks. -/
def Core.meetsGoal (c : Core) (v : Bool) (g : Goal) : Bool :=
  (g == .stores || (c.loadsOf v).isEmpty) && (g == .loads || !(c.storesOf v).any (fun q => q.op.stores))

/-- The accesses of a stream's queues perform, and its stores become visible at core scope, as a goal needs (R250, R252). The answer
says whether a load has trapped. -/
def State.runQueues : Nat → State → Nat → Bool → Goal → State × Bool
  | 0, s, _, _, _ => (s, false)
  | n + 1, s, k, v, g =>
    if (s.core k).meetsGoal v g then (s, false)
    else
      match (if g = .stores then s.popStore k v else none) with
      | some s => State.runQueues n s k v g
      | none =>
        match s.performLoad k v with
        | .done s => State.runQueues n s k v g
        | .trapped s => (s, true)
        | .waits =>
          match s.popStore k v with
          | some s => State.runQueues n s k v g
          | none => (s, false)

/-- The entries of a stream's queues. -/
def Core.queued (c : Core) (v : Bool) : Nat := (c.loadsOf v).length + (c.storesOf v).length

/-- A stream's queues run for a goal, as far as they can. -/
def State.runAll (s : State) (k : Nat) (v : Bool) (g : Goal) : State × Bool := State.runQueues ((s.core k).queued v) s k v g

/-- How a stream's queues end as an instruction waits for them: as it needs, held, or with a trap. -/
inductive Settled where
  | done | waits | trapped
  deriving DecidableEq, Repr

/-- A stream's queues run for a goal, and its stores then become visible at a scope (R252). -/
def State.settleFor (s : State) (k : Nat) (v : Bool) (g : Goal) (sc : Scope) : State × Settled :=
  let r := s.runAll k v g
  if r.2 then (r.1, .trapped)
  else if (r.1.core k).meetsGoal v g then (if g = .loads then r.1 else r.1.widen k sc, .done)
  else (r.1, .waits)

/-- Every earlier load of a stream performs and every earlier store becomes visible at the scope (R252). -/
def State.settle (s : State) (k : Nat) (v : Bool) (sc : Scope) : State × Settled := s.settleFor k v .all sc

/-- Every earlier store of a stream becomes visible at the scope (R193, R204). -/
def State.settleStores (s : State) (k : Nat) (v : Bool) (sc : Scope) : State × Settled := s.settleFor k v .stores sc

/-- Whether a stream's queues can stand now as a goal asks. -/
def State.settles (s : State) (k : Nat) (v : Bool) (g : Goal) : Bool := (s.settleFor k v g .core).2 != .waits

/-- An S instruction takes effect once the queues of its stream stand as a goal asks and its stores are visible at the scope; else it
waits. -/
def State.onceS (s : State) (g : Goal) (sc : Scope) (w : WaitOn) (f : State → State) : State :=
  match s.settleFor s.curN false g sc with
  | (s, .done) => f s
  | (s, .waits) => s.setMe (s.me.waitS w)
  | (s, .trapped) => s

/-- An S instruction that is a release (R252): it takes effect once its stream's earlier loads have performed and its earlier
stores are visible at the scope; it waits while an access is held. -/
def State.releaseS (s : State) (sc : Scope) (f : State → State) : State := s.onceS .all sc .queues f

/-- An S instruction that waits for its stream's earlier stores alone (R204). -/
def State.storesS (s : State) (sc : Scope) (f : State → State) : State := s.onceS .stores sc .stores f

/-- A V word that is a release (R252). -/
def State.releaseV (s : State) (sc : Scope) (f : State → State) : State :=
  match s.settle s.curN true sc with
  | (s, .done) => f s
  | (s, _) => s.setMe (s.me.waitV .queues)

/-- The loads of a stream perform, and of its stores those to `n` bytes at a scratchpad address become visible at core scope, with
those before them (R250). -/
def State.runReads : Nat → State → Nat → Bool → Nat → Nat → State × Bool
  | 0, s, k, v, _, _ => s.runAll k v .loads
  | m + 1, s, k, v, a, n =>
    let r := s.runAll k v .loads
    if r.2 || WaitOn.over r.1 k (streamOf v) (.reads a n) then r
    else match r.1.popStore k v with
      | some s => State.runReads m s k v a n
      | none => r

/-- An S instruction that reads scratchpad by itself takes its place after the earlier loads of its stream and the earlier stores to
those bytes (R250). -/
def State.afterReads (s : State) (a n : Nat) (f : State → State) : State :=
  let r := State.runReads s.me.s.queue.length s s.curN false a n
  if r.2 then r.1
  else if WaitOn.over r.1 s.curN .s (.reads a n) then f r.1
  else r.1.setMe (r.1.me.waitS (.reads a n))

/-- A V word that reads scratchpad by itself takes its place after the earlier loads of its stream and the earlier stores to those
bytes (R144). -/
def State.afterReadsV (s : State) (a n : Nat) (f : State → State) : State :=
  let r := State.runReads s.me.v.queue.length s s.curN true a n
  if WaitOn.over r.1 s.curN .v (.reads a n) then f r.1 else r.1.setMe (r.1.me.waitV (.reads a n))

/-- The accesses of the S-stream's queues that go through a token perform, with those before them. -/
def State.runUses : Nat → State → Nat → Option Tok → State × Bool
  | 0, s, _, _ => (s, false)
  | m + 1, s, k, t =>
    if WaitOn.over s k .s (.uses t) then (s, false)
    else
      match (if (s.core k).s.loads.any (fun l => l.tok == t) then s.performLoad k false else .waits) with
      | .done s => State.runUses m s k t
      | .trapped s => (s, true)
      | .waits =>
        match s.popStore k false with
        | some s => State.runUses m s k t
        | none =>
          match s.performLoad k false with
          | .done s => State.runUses m s k t
          | .trapped s => (s, true)
          | .waits => (s, false)

/-- An instruction that gives up a token register's token takes its place after the accesses of its stream that go through it: they
hold no reference of their own (R241; log entry 36). -/
def State.afterUses (s : State) (t : Option Tok) (f : State → State) : State :=
  let r := State.runUses (s.me.queued false) s s.curN t
  if r.2 then r.1
  else if WaitOn.over r.1 s.curN .s (.uses t) then f r.1
  else r.1.setMe (r.1.me.waitS (.uses t))

/-- Loads that have issued perform at once where they can, unless their stream is to leave them in its queue (log entry 24). -/
def State.eager (s : State) (v : Bool) : State := if s.lazy then s else (s.runAll s.curN v .loads).1

/-- An S instruction enters the load queue of its stream and is complete as an instruction (R75, R93). -/
def State.loadS (s : State) (l : QLoad) : State := (s.pushLoad s.curN false l).retire.eager false

/-- A V word enters the load queue of its stream, with the ring as it stood before the word (R144, R363). -/
def State.loadV (s : State) (l : QLoad) : State :=
  (s.pushLoad s.curN true { l with word := some s.me.v.eng }).retireV.eager true

/-- The store queues of a core drain to the device as far as nothing is held (R193, R363). -/
def State.drain (s : State) (k : Nat) : State := ((s.runAll k false .stores).1.runAll k true .stores).1.flush k

/-- Whether the condition that an agent of core `k` waits for holds, or does as soon as the accesses it waits for perform (R193, R194,
R217, R252). -/
def WaitOn.holds (s : State) (k : Nat) (g : Agent) (w : WaitOn) : Bool :=
  match w with
  | .rdv => !(s.core k).anyRunning && s.settles k true .stores && s.settles k false .stores
  | .vfence => !(s.core k).vworks && s.settles k true .all
  | .queues => s.settles k (g == .v) .all
  | .stores => s.settles k (g == .v) .stores
  | .reads a n =>
    WaitOn.over (State.runReads ((s.core k).storesOf (g == .v)).length s k (g == .v) a n).1 k g (.reads a n)
  | .uses t => WaitOn.over (State.runUses ((s.core k).queued false) s k t).1 k .s (.uses t)
  | w => w.over s k g

/-- Whether the S-stream of a core whose gang is being pre-empted still has an instruction to complete: one that waits and whose
wait is over (R197). -/
def State.finishing (s : State) (k : Nat) : Bool :=
  let c := s.core k
  !s.frozen && !c.testing
    && (match c.step with
      | some t => t.ended.isNone && (s.gang t.gang.toNat).preempting && !(s.gang t.gang.toNat).restoring
      | none => false)
    && (match c.s.st with
      | .waiting w => w.holds s k .s
      | _ => false)

end Sys2Proof.Machine
end

