-- ==== Sys2Proof/Machine/Csr.lean ====
section
/-! DEFINITION. Control and status registers (R24-R27, R206), privilege (R58, R207) and the system instructions
(R208-R214). -/

namespace Sys2Proof.Machine

open Sys2Proof

/-- How a CSR may be accessed (R24). -/
inductive CsrAccess where
  | rw | sRw | ro
  deriving DecidableEq, Repr

/-- The access of a CSR by number; none for an unassigned number (R24). -/
def csrAccess (n : Nat) : Option CsrAccess :=
  match n with
  | 0x000 => some .rw
  | 0x001 => some .ro
  | 0x002 => some .rw
  | 0x003 => some .ro
  | 0x010 => some .sRw
  | 0x011 => some .sRw
  | 0x012 => some .sRw
  | 0x013 => some .sRw
  | 0x020 => some .ro
  | 0x021 => some .ro
  | 0x022 => some .ro
  | 0x023 => some .ro
  | 0x024 => some .ro
  | _ => none

/-- The ceiling of a core's half, in quarters (R434). -/
def State.ceiling (s : State) (k : Nat) : Nat := (if halfOf k then s.power.ceilB else s.power.ceilA).toNat / 64 + 1

/-- GOVST of a core: the lower of the ramp level and the ceiling, and whether it is below full (R187, R435); until the governor
has driven it, its reset value (R24, R26, log entry 33). -/
def State.govst (s : State) (k : Nat) : Word :=
  let q := min (s.core k).m.level (s.ceiling k)
  if (s.core k).m.govOn then word (64 * q - 1 + (if q < 4 then 256 else 0)) else 0

/-- PANEL of a core (R26, R277). -/
def PanelReg.value (p : PanelReg) : Word :=
  if p.size = 0#5 then 0 else word (p.base.toNat * 65536 + p.rank.toNat * 256 + p.size.toNat)

/-- The value of a CSR of core `k` (R24-R27). -/
def State.csr (s : State) (k n : Nat) : Word :=
  let c := s.core k
  match n with
  | 0x000 => c.s.sst
  | 0x001 => c.s.tstat
  | 0x002 => boolWord c.s.schk
  | 0x003 => word ((if c.v.vstStop then 256 else 0) + c.v.vstCode.toNat)
  | 0x010 => c.s.tvec
  | 0x011 => c.s.tepc
  | 0x012 => c.s.tcause
  | 0x013 => c.s.tval
  | 0x020 => word (k % 256 + (if halfOf k then 256 else 0))
  | 0x021 => c.panel.value
  | 0x022 => word s.clock
  | 0x023 => word c.season.toNat
  | 0x024 => s.govst k
  | _ => 0

/-- Write a CSR; fields that are RO keep their values (R25, R26, R206). -/
def Core.setCsr (c : Core) (n : Nat) (v : Word) : Core :=
  c.onS (fun t =>
    match n with
    | 0x000 => { t with sst := v &&& 0xC01F#64 }
    | 0x002 => { t with schk := v.getLsbD 0 }
    | 0x010 => { t with tvec := v &&& 0xFFFFFFFFFFFFFFFC#64 }
    | 0x011 => { t with tepc := v }
    | 0x012 => { t with tcause := v &&& 0xFF#64 }
    | 0x013 => { t with tval := v }
    | _ => t)

/-- SST shows the flags of every earlier instruction: its reader takes its place after them (R75, R206). -/
def State.afterFlags (s : State) (n : Nat) (f : State → State) : State := if n = 0 then s.releaseS .core f else f s

/-- A read of a CSR and, with `f`, a write of what `f` makes of the old value (R206): ILLEGAL for an unassigned number or a
write of an RO CSR, PRIV for a write of an S-RW CSR in user mode (R24). -/
def State.csrOp (s : State) (d : XReg) (c : BitVec 11) (f : Option (Word → Word)) : State :=
  let n := c.toNat
  match csrAccess n, f with
  | none, _ => s.trapMe causeIllegal 0
  | some _, none => s.afterFlags n (fun s => s.retireX d (s.csr s.curN n))
  | some .ro, some _ => s.trapMe causeIllegal 0
  | some a, some f =>
    if a = .sRw ∧ s.me.s.mode = .user then s.trapMe causePriv 0
    else s.afterFlags n (fun s =>
      let old := s.csr s.curN n
      s.setMe (((s.me.setCsr n (f old)).setX d old).advance))

/-- CSRR (R206). -/
def execCsrr (_st : SStall) (d : XReg) (c : BitVec 11) (s : State) : Out := .next (s.csrOp d c none)

/-- CSRW (R206). -/
def execCsrw (_st : SStall) (d a : XReg) (c : BitVec 11) (s : State) : Out :=
  .next (s.csrOp d c (some (fun _ => s.me.xr a)))

/-- CSRS (R206). -/
def execCsrs (_st : SStall) (d a : XReg) (c : BitVec 11) (s : State) : Out :=
  .next (s.csrOp d c (some (fun old => old ||| s.me.xr a)))

/-- CSRC (R206). -/
def execCsrc (_st : SStall) (d a : XReg) (c : BitVec 11) (s : State) : Out :=
  .next (s.csrOp d c (some (fun old => old &&& ~~~(s.me.xr a))))

/-- TRAP (R214). -/
def execTrap (_st : SStall) (code : BitVec 8) (s : State) : Out := .next (s.trapMe causeTrap (code.setWidth 64))

/-- BKPT (R214). -/
def execBkpt (_st : SStall) (s : State) : Out := .next (s.trapMe causeBkpt 0)

/-- ERET (R210): PRIV in user mode (R58). -/
def execEret (_st : SStall) (s : State) : Out :=
  if s.me.s.mode = .user then .next (s.trapMe causePriv 0) else .next (s.setMe s.me.leaveTrap)

/-- What RDV and HALT wait for (R193, R214): no engine RUNNING, and the store queues of the core's streams empty, their stores visible
at core scope; loads they do not wait for. -/
def State.joinAll (s : State) (f : State → State) : State :=
  if s.me.anyRunning then s.setMe (s.me.waitS .rdv)
  else
    let r := s.settleStores s.curN true .core
    if r.2 = .done then r.1.onceS .stores .core .rdv f else r.1.setMe (r.1.me.waitS .rdv)

/-- HALT (R214): waits as RDV does, then ends the S-stream. -/
def execHalt (_st : SStall) (s : State) : Out :=
  .next (s.joinAll (fun s => s.onCore s.curN (fun c => c.onS (fun t => { t with st := .halted }))))

/-- WFI (R214): waits while the event latch is 0, then clears it. -/
def execWfi (_st : SStall) (s : State) : Out :=
  if s.me.s.latch then .next (s.setMe ((s.me.onS (fun t => { t with latch := false })).advance))
  else .next (s.setMe (s.me.waitS .event))

/-- TAKE_ASYNC_TRAP (R211): outside a handler, at an instruction boundary or abandoning a waiting instruction, TOKEN_LOST
before ENGINE_ERROR. An instruction whose wait is over completes first (R197). -/
def State.asyncTrap (s : State) (k : Nat) : State :=
  let c := s.core k
  let ready := match c.s.st with
    | .running => true
    | .waiting w => w.abandonable && !w.holds s k .s
    | _ => false
  if !ready || s.stalled k || s.held k || c.s.inHandler || !(c.s.pendLost || c.s.pendEng) then s
  else
    let s := s.abandonS k
    if c.s.pendLost then
      s.onCore k (fun c => (c.enterTrap causeLost 0 c.s.pc).onS (fun t => { t with pendLost := false }))
    else
      s.onCore k (fun c => (c.enterTrap causeEngine 0 c.s.pc).onS (fun t => { t with pendEng := false }))

/-- TAKE_ASYNC_TRAP (R211). -/
def execTakeAsyncTrap (core : CoreId) (s : State) : Out := .next (s.asyncTrap core.toNat)

/-- STREAM_WAKE (R217): a stream whose awaited condition holds returns to the ready set. Its S instruction completes before anything
else happens at that stream (R197): it has issued and does not count again. -/
def execStreamWake (core : CoreId) (ag : Agent) (s : State) : Out :=
  let k := core.toNat
  let c := s.core k
  match ag with
  | .s =>
    match c.s.st with
    | .waiting w =>
      if !w.holds s k .s then .next s
      else .next { s with agenda := .run core.toNat .s s.budget :: s.agenda }
    | _ => .next s
  | .v =>
    match c.v.wait with
    | some w => if w.holds s k .v then .next (s.setCore k (c.onV (fun t => { t with wait := none }))) else .next s
    | none => .next s
  | _ => .next s

end Sys2Proof.Machine
end

