-- ==== Sys2Proof/Machine/Template.lean ====
section
/-! DEFINITION. Copy templates and the transfer aperture (R175-R177). -/

namespace Sys2Proof.Machine

open Sys2Proof

/-- A copy template, read from its 48 bytes (R175). -/
structure Template where
  eoff : Nat
  saddr : Nat
  rowb : Nat
  n1 : Nat
  n2 : Nat
  es1 : Int
  ss1 : Int
  es2 : Int
  ss2 : Int
  tk : Nat
  join : Bool
  g : Bool
  d : Bool
  gring : Nat
  gz : Bool
  pat : Nat
  deriving DecidableEq, Repr

/-- The fields of a template's bytes (R175). -/
def templateOf (b : List Byte) : Template :=
  let c0 := field b 32 1
  let c1 := field b 33 1
  { eoff := field b 0 4
    saddr := field b 4 4
    rowb := field b 8 4
    n1 := field b 12 2
    n2 := field b 14 2
    es1 := sextNat 32 (field b 16 4)
    ss1 := sextNat 32 (field b 20 4)
    es2 := sextNat 32 (field b 24 4)
    ss2 := sextNat 32 (field b 28 4)
    tk := fld c0 0 5
    join := fld c0 5 1 == 1
    g := fld c0 6 1 == 1
    d := fld c0 7 1 == 1
    gring := fld c1 0 5
    gz := fld c1 7 1 == 1
    pat := fld (field b 34 1) 0 3 }

/-- The validity of a template (R175). -/
def templateValid (b : List Byte) : Bool :=
  let t := templateOf b
  decide (1 ≤ t.n1) && decide (1 ≤ t.n2) && decide (1 ≤ t.rowb) && decide (t.rowb ≤ 2 ^ 20)
    && fld (field b 33 1) 5 2 == 0 && fld (field b 34 1) 3 5 == 0 && (b.drop 35).all (fun x => x == 0#8)
    && (!t.g || !t.d) && (!t.gz || !t.d)

/-- The 48 bytes of template `j` (R175). -/
def Core.template (c : Core) (j : Nat) : List Byte := Sparse.getList 0 c.c.templates (48 * j) 48

/-- Whether a stage ring takes copies: it exists and is not store-filled (R174, R224, R227). -/
def StageRing.takesCopies (r : StageRing) : Bool := r.count != 0 && r.mode != 1

/-- The bytes of template `j` with the stores of the S-stream that stand in its queue, in whose order the start of a copy comes
after them (R175, R177, R250). -/
def Core.templateSeen (c : Core) (k j : Nat) : List Byte :=
  plain (overlaid (.tmpl k) (48 * j) (clean (c.template j)) (c.s.queue.filterMap (fun q =>
    match q.op with
    | .segs gs => some ⟨gs, .s⟩
    | _ => none)))

/-- A store of a doubleword to offset `o` of the transfer aperture by core `k` (R175, R177): a byte of a template, the start
of a copy, or dropped with SST.OOX; the first two enter the store queue (R250). None where the channel is full and the store is
held. -/
def State.apertureStore (s : State) (k : Nat) (o : Nat) (v : Word) : Option State :=
  let c := s.core k
  let ch := o / 1024
  let i := o % 1024
  if 0x100 ≤ i then
    let g : Seg := ⟨.tmpl k, 768 * ch + (i - 0x100), 0x800000 + o, 0x800000 + o, clean (leBytes 8 v.toNat), [], none⟩
    some (s.pushStore k false { op := .segs [g] })
  else if i ≠ 0 then some (s.setCore k (c.oox true))
  else
    let j := fld v.toNat 58 6
    let b := c.templateSeen k j
    let t := templateOf b
    if fld v.toNat 0 26 ≠ 0 || !templateValid b || !t.g || !(c.ring t.gring).takesCopies then some (s.setCore k (c.oox true))
    else if 8 ≤ c.chanLoad ch then none
    else
      let tok := c.tr (BitVec.ofNat 5 t.tk)
      let f : Flight :=
        { cmd := .copyt 0 0 false (BitVec.ofNat 6 j) (BitVec.ofNat 19 (fld v.toNat 39 19)) (BitVec.ofNat 13 (fld v.toNat 26 13))
          tok := tok
          tmpl := b }
      some ((s.pushStore k false { op := .start ch f }).hold k tok)

end Sys2Proof.Machine
end

