-- ==== Sys2Proof/Machine/TokenMem.lean ====
section
/-! DEFINITION. Token loads and stores, atomics, scratchpad accesses and the spill store of the S-stream (R92-R102). -/

namespace Sys2Proof.Machine

open Sys2Proof

/-- A token load of `size` bytes (R93-R95). -/
def State.loadTok (s : State) (d : XReg) (t : TReg) (off size : Nat) : State :=
  s.loadS { op := .load d size, tok := s.me.tr t, off := off }

/-- A token store of the low `size` bytes of x(XD) (R93, R94): it enters the store queue of its stream and is complete as an
instruction. -/
def State.storeTok (s : State) (d : XReg) (t : TReg) (off size : Nat) : State :=
  (s.pushStore s.curN false { op := .bytes off (leBytes size (s.me.xr d).toNat), via := s.me.tr t }).retire

/-- LDB (R94). -/
def execLdb (_st : SStall) (d : XReg) (t : TReg) (o : XReg) (imm : BitVec 6) (s : State) : Out :=
  .next (s.loadTok d t (tokOffset (s.me.xr o) imm 1) 1)

/-- LDH (R94). -/
def execLdh (_st : SStall) (d : XReg) (t : TReg) (o : XReg) (imm : BitVec 6) (s : State) : Out :=
  .next (s.loadTok d t (tokOffset (s.me.xr o) imm 2) 2)

/-- LDW (R94). -/
def execLdw (_st : SStall) (d : XReg) (t : TReg) (o : XReg) (imm : BitVec 6) (s : State) : Out :=
  .next (s.loadTok d t (tokOffset (s.me.xr o) imm 4) 4)

/-- LDD (R94). -/
def execLdd (_st : SStall) (d : XReg) (t : TReg) (o : XReg) (imm : BitVec 6) (s : State) : Out :=
  .next (s.loadTok d t (tokOffset (s.me.xr o) imm 8) 8)

/-- STB (R94). -/
def execStb (_st : SStall) (d : XReg) (t : TReg) (o : XReg) (imm : BitVec 6) (s : State) : Out :=
  .next (s.storeTok d t (tokOffset (s.me.xr o) imm 1) 1)

/-- STH (R94). -/
def execSth (_st : SStall) (d : XReg) (t : TReg) (o : XReg) (imm : BitVec 6) (s : State) : Out :=
  .next (s.storeTok d t (tokOffset (s.me.xr o) imm 2) 2)

/-- STW (R94). -/
def execStw (_st : SStall) (d : XReg) (t : TReg) (o : XReg) (imm : BitVec 6) (s : State) : Out :=
  .next (s.storeTok d t (tokOffset (s.me.xr o) imm 4) 4)

/-- STD (R94). -/
def execStd (_st : SStall) (d : XReg) (t : TReg) (o : XReg) (imm : BitVec 6) (s : State) : Out :=
  .next (s.storeTok d t (tokOffset (s.me.xr o) imm 8) 8)

/-- An atomic takes its place in the load and the store queue of its stream (R97, R98, R100); twin runs exclude it (R284). -/
def State.atomic (s : State) (l : QLoad) : State :=
  match s.twinStop s.curN with
  | some s => s
  | none => s.loadS l

/-- AMO (R97, R99; its scope: log entry 107). -/
def execAmo (_st : SStall) (d : XReg) (t : TReg) (o : XReg) (f : AmoOp) (dw : Bool) (sc : Scope) (s : State) : Out :=
  let n := if dw then 8 else 4
  .next (s.atomic { op := .amo d f n ((s.me.xr d).toNat % 2 ^ (8 * n)) sc, tok := s.me.tr t, off := (s.me.xr o).toNat })

/-- CAS (R98, R99): XD names the expected value and XD + 1 the new one. -/
def execCas (_st : SStall) (d : XReg) (t : TReg) (o : XReg) (imm : BitVec 6) (s : State) : Out :=
  .next (s.atomic { op := .cas d (s.me.xr d).toNat (s.me.xr (d + 1#6)).toNat, tok := s.me.tr t, off := tokOffset (s.me.xr o) imm 8 })

/-- LDS (R101). -/
def execLds (_st : SStall) (d a : XReg) (imm : BitVec 11) (s : State) : Out :=
  .next (s.loadS { op := .sp d, off := spAddr (s.me.xr a) imm })

/-- A store of a doubleword to the scratchpad address space by the S-stream (R20, R21, R101, R177). -/
def State.storeSp (s : State) (a : Nat) (v : Word) : State :=
  let ps := s.me.spPieces s.curN false 3 0 a 8
  match ps with
  | [⟨.aperture o, _, _, _⟩] =>
    match s.apertureStore s.curN o v with
    | some s => s.retire
    | none => s.setMe (s.me.waitS (.chanRoom (BitVec.ofNat 2 (o / 1024))))
  | _ =>
    let gs := spSegs s.curN ps (clean (leBytes 8 v.toNat)) []
    let s := s.onCore s.curN (fun c => c.oox (spOox ps))
    if gs.isEmpty then s.retire else (s.pushStore s.curN false { op := .segs gs }).retire

/-- STS (R101). -/
def execSts (_st : SStall) (d a : XReg) (imm : BitVec 11) (s : State) : Out :=
  .next (s.storeSp (spAddr (s.me.xr a) imm) (s.me.xr d))

/-- SPS (R102). -/
def execSps (_st : SStall) (d : XReg) (slot : BitVec 10) (s : State) : Out :=
  .next (s.setMe ((s.me.onS (fun t => { t with spill := Sparse.put 0 t.spill slot.toNat (s.me.xr d) })).advance))

/-- SPL (R102). -/
def execSpl (_st : SStall) (d : XReg) (slot : BitVec 10) (s : State) : Out :=
  .next (s.retireX d (Sparse.get 0 s.me.s.spill slot.toNat))

end Sys2Proof.Machine
end

