-- ==== Sys2Proof/Machine/VMem.lean ====
section
/-! DEFINITION. Loads, stores, gathers and scatters of the V-stream (R138-R144). -/

namespace Sys2Proof.Machine

open Sys2Proof

/-- Why a token holds an access (R93, R246). -/
def Core.heldBy (c : Core) (t : Option Tok) : Option WaitOn :=
  let m := c.mteOf t
  if m.st == .stale || m.pred then some (.stale ((t.map (fun t => t.idx)).getD 0)) else none

/-- The token that a V word reads: the one it read before it began to wait (R18). -/
def Core.vtok (c : Core) (t : TReg) : Option Tok := if c.v.cur.isSome then c.v.curTok else c.tr t

/-- A V store through a token: the whole word is held by a STALE token, else it enters the store queue (R138, R140, R144). -/
def State.storeTokV (s : State) (tok : Option Tok) (w : VStore) : State :=
  match s.me.heldBy tok with
  | some w => s.setMe (s.me.waitV w)
  | none => (s.pushStore s.curN true { op := .vec w, via := tok }).retireV

/-- A V load through a token: the whole word is held by a STALE token, else it enters the load queue (R138, R144). -/
def State.loadTokV (s : State) (l : QLoad) : State :=
  match s.me.heldBy l.tok with
  | some w => s.setMe (s.me.waitV w)
  | none => s.loadV l

/-- The format entry that FX names (R39). -/
def Core.fxEntry (c : Core) : Word := c.fmtAt c.v.fmtIndex.toNat

/-- VLD (R139). -/
def execVld (et : ETy) (_st : VStall) (g : PReg) (d : VReg) (t : TReg) (o : AReg) (gauge raw : Bool) (s : State) : Out :=
  match s.me.etype et with
  | none => .next s.illegalV
  | some ty =>
    let c := s.me
    .next (s.loadTokV
      { op := .vld et c.fxEntry d (c.active ty g) (c.ppois g || c.apois o) (c.loadPat gauge) raw
        tok := c.vtok t
        off := (c.ar o).toNat })

/-- The active elements of a V store with their poison; a poisoned predicate or offset poisons them all (R119). -/
def storeEls (act : List Bool) (all : Bool) (es : List El) : List (Option El) :=
  act.zipWith (fun a e => if a then some (e.1, all || e.2) else none) es

/-- VST (R140). -/
def State.storeV (s : State) (et : ETy) (t : ElType) (g : PReg) (d : VReg) (tr : TReg) (o : AReg) (raw : Bool) : State :=
  let c := s.me
  s.storeTokV (c.vtok tr)
    { et := et
      fx := c.fxEntry
      els := storeEls (c.active t g) (c.ppois g || c.apois o) (c.els t d)
      at_ := .run (c.ar o).toNat raw }

/-- VST (R140). -/
def execVst (et : ETy) (_st : VStall) (g : PReg) (d : VReg) (t : TReg) (o : AReg) (raw : Bool) (s : State) : Out :=
  match s.me.etype et with
  | none => .next s.illegalV
  | some ty => .next (s.storeV et ty g d t o raw)

/-- The scratchpad address of VLDS and VSTS (R142). -/
def vspAddr (a : Word) (imm : BitVec 7) : Nat := (a + 512#64 * imm.setWidth 64).toNat

/-- VLDS (R142). -/
def execVlds (et : ETy) (_st : VStall) (g : PReg) (d : VReg) (b : AReg) (imm : BitVec 7) (s : State) : Out :=
  match s.me.etype et with
  | none => .next s.illegalV
  | some t =>
    let c := s.me
    .next (s.loadV { op := .vlds et c.fxEntry d (c.active t g) (c.ppois g || c.apois b), off := vspAddr (c.ar b) imm })

/-- A store to scratchpad or to the V part of the spill store by the V-stream (R20, R21, R142, R232): it enters the store queue. -/
def State.storeSpV (s : State) (a : Nat) (d : List PByte) (mask : List Byte) (runs : List (Nat × Nat)) : State :=
  let k := s.curN
  let ps := runs.flatMap (fun r => s.me.spPieces k true (r.2 / 512 + 3) r.1 (a + r.1) r.2)
  let gs := spSegs k ps d mask
  let s := s.onCore k (fun c => c.oox (spOox ps))
  if gs.isEmpty then s else s.pushStore k true { op := .segs gs }

/-- VSTS (R142). -/
def execVsts (et : ETy) (_st : VStall) (g : PReg) (d : VReg) (b : AReg) (imm : BitVec 7) (s : State) : Out :=
  match s.me.etype et with
  | none => .next s.illegalV
  | some t =>
    let c := s.me
    let act := c.active t g
    let all := c.ppois g || c.apois b
    let es := act.zipWith (fun a e => if a then (e.1, all || e.2) else ((0, false) : El)) (c.els t d)
    .next (s.storeSpV (vspAddr (c.ar b) imm) (contBytes t.cont es) (activeMask t.cont act)
      (runsIn (activeBytes t.cont act))).retireV

/-- The offsets of the elements that a gather or scatter moves, with their poison (R143): 32-bit words of a register. -/
def Core.offsets (c : Core) (b : VReg) : List El := c.els (.int false 32) b

/-- Whether each of the elements that a gather or scatter moves is active (R143). -/
def Core.movers (c : Core) (t : ElType) (g : PReg) : List Bool := (c.active t g).take 128

/-- VGATH (R143). -/
def execVgath (et : ETy) (_st : VStall) (g : PReg) (d : VReg) (t : TReg) (b : VReg) (elems : Bool) (s : State) : Out :=
  match s.me.etype et with
  | none => .next s.illegalV
  | some ty =>
    let c := s.me
    let its := (c.movers ty g).zip (c.offsets b)
    .next (s.loadTokV
      { op := .vgath et c.fxEntry d (c.movers ty g) (its.map (fun x => x.2.1)) (c.ppois g || its.any (fun x => x.1 && x.2.2)) elems
        tok := c.vtok t })

/-- VSCAT (R143): in increasing order of the elements. -/
def State.scatterV (s : State) (et : ETy) (t : ElType) (g : PReg) (d : VReg) (tr : TReg) (b : VReg) (elems : Bool) : State :=
  let c := s.me
  let its := (c.movers t g).zip (c.offsets b)
  s.storeTokV (c.vtok tr)
    { et := et
      fx := c.fxEntry
      els := storeEls (its.map (fun x => x.1)) (c.ppois g || its.any (fun x => x.1 && x.2.2)) (c.els t d)
      at_ := .scatter (its.map (fun x => x.2.1)) elems }

/-- VSCAT (R143). -/
def execVscat (et : ETy) (_st : VStall) (g : PReg) (d : VReg) (t : TReg) (b : VReg) (elems : Bool) (s : State) : Out :=
  match s.me.etype et with
  | none => .next s.illegalV
  | some ty => .next (s.scatterV et ty g d t b elems)

end Sys2Proof.Machine
end

