-- ==== Sys2Proof/Machine/VSync.lean ====
section
/-! DEFINITION. Slots, formats, gauge selection, predicates, mailbox, argument registers, synchronisation and loops of the
V-stream (R78, R145-R153, R202). -/

namespace Sys2Proof.Machine

open Sys2Proof

/-- VSLOT.ACQ (R145, R202, R226). -/
def execVslotAcq (_st : VStall) (d : AReg) (n : RingId) (s : State) : Out :=
  let r := s.me.ring n.toNat
  if r.count = 0 then .next s.illegalV
  else if !s.mayAcquireSlot s.curN n .v then .next (s.setMe (s.me.waitV (.slotEmpty n)))
  else
    let q := r.acquire
    .next (s.setMe ((s.me.setRing n.toNat q.1).setA d (word (r.slotAddr q.2)) false)).retireV

/-- VSLOT.COMMIT (R145, R202, R226, R229). -/
def execVslotCommit (_st : VStall) (n : RingId) (s : State) : Out :=
  if (s.me.ring n.toNat).count = 0 then .next s.illegalV
  else .next (s.releaseV .core (fun s => (s.setMe (s.me.onRing n.toNat StageRing.commit)).retireV))

/-- VSLOT.AWAIT (R145, R202, R226). -/
def execVslotAwait (_st : VStall) (d : AReg) (n : RingId) (s : State) : Out :=
  let r := s.me.ring n.toNat
  if r.count = 0 then .next s.illegalV
  else if !s.mayAwaitSlot s.curN n .v then .next (s.setMe (s.me.waitV (.slotFull n)))
  else
    let q := r.await
    .next (s.setMe ((s.me.setRing n.toNat q.1).setA d
      (word (r.slotAddr q.2 + (if r.errOf q.2 then 2 ^ 63 else 0))) false)).retireV

/-- VSLOT.REL (R145, R202, R226, R229). -/
def execVslotRel (_st : VStall) (n : RingId) (s : State) : Out :=
  if (s.me.ring n.toNat).count = 0 then .next s.illegalV
  else .next (s.releaseV .core (fun s => (s.setMe (s.me.onRing n.toNat StageRing.release)).retireV))

/-- VSETF.SETFMT (R146). -/
def execVsetfSetfmt (_st : VStall) (k : BitVec 4) (s : State) : Out :=
  .next (s.setMe (s.me.onV (fun v => { v with fmtIndex := k }))).retireV

/-- VSETF.SELPAT (R146). -/
def execVsetfSelpat (_st : VStall) (en : Bool) (k : BitVec 3) (s : State) : Out :=
  .next (s.setMe (s.me.onV (fun v => { v with gaugeOn := en, gaugePat := k }))).retireV

/-- VSETF.LDPAT (R141, R146, R152; poison and what an invalid record does: log entry 90). -/
def execVsetfLdpat (_st : VStall) (h : AReg) (k : BitVec 3) (s : State) : Out :=
  .next (s.afterReadsV (s.me.ar h).toNat 72 (fun s =>
    let r := s.spRead s.curN true (s.me.ar h).toNat 72
    let p := plain r.2.1
    if !patValid p then r.1.illegalV
    else
      let c := r.1.me.oox r.2.2
      let g := if p = identityPat then none else some p
      (r.1.setMe { c with gauges := Sparse.put none c.gauges k.toNat g }).retireV))

/-- A predicate instruction (R119, R147). -/
def State.predV (s : State) (d : PReg) (v : PWord) (p : Bool) : State := (s.setMe (s.me.setP d v p)).retireV

/-- PAND (R147). -/
def execPand (_st : VStall) (d a b : PReg) (s : State) : Out :=
  .next (s.predV d (s.me.pr a &&& s.me.pr b) (s.me.ppois a || s.me.ppois b))

/-- POR (R147). -/
def execPor (_st : VStall) (d a b : PReg) (s : State) : Out :=
  .next (s.predV d (s.me.pr a ||| s.me.pr b) (s.me.ppois a || s.me.ppois b))

/-- PXOR (R147). -/
def execPxor (_st : VStall) (d a b : PReg) (s : State) : Out :=
  .next (s.predV d (s.me.pr a ^^^ s.me.pr b) (s.me.ppois a || s.me.ppois b))

/-- PNOT (R147). -/
def execPnot (_st : VStall) (d a : PReg) (s : State) : Out := .next (s.predV d (~~~(s.me.pr a)) (s.me.ppois a))

/-- PCNT (R147): illegal where ET is FX and the entry is not (R39). -/
def execPcnt (et : ETy) (_st : VStall) (d : AReg) (a : PReg) (s : State) : Out :=
  s.typedV et (fun t c => c.setA d (word ((c.active t a).filter (fun b => b)).length) (c.ppois a))

/-- PFIRST (R147). -/
def execPfirst (et : ETy) (_st : VStall) (d : AReg) (a : PReg) (s : State) : Out :=
  s.typedV et (fun t c =>
    let v : Word := match (c.active t a).findIdx? (fun b => b) with
      | some i => word i
      | none => BitVec.allOnes 64
    c.setA d v (c.ppois a))

/-- ARECV (R148). -/
def execArecv (_st : VStall) (d : AReg) (m : BitVec 4) (s : State) : Out :=
  match Sparse.get none s.me.v.mailbox m.toNat with
  | none => .next (s.setMe (s.me.waitV (.mailboxFull m)))
  | some (x, y) =>
    let c := s.me.onV (fun v => { v with mailbox := Sparse.put none v.mailbox m.toNat none })
    .next (s.setMe ((c.setA d x false).setA (d + 1#4) y false)).retireV

/-- The functions of AOP, modulo 2^64 (R149). -/
def aopFn (f : AopFn) (a b : Word) : Word :=
  match f with
  | .add => a + b
  | .sub => a - b
  | .mul => a * b
  | .and => a &&& b
  | .or => a ||| b
  | .xor => a ^^^ b
  | .sll => a <<< (b.setWidth 6).toNat
  | .srl => a >>> (b.setWidth 6).toNat

/-- AOP with an immediate (R149). -/
def execAopImm (f : AopFn) (_st : VStall) (d a : AReg) (imm : BitVec 12) (s : State) : Out :=
  .next (s.setMe (s.me.setA d (aopFn f (s.me.ar a) (sextW imm)) (s.me.apois a))).retireV

/-- AOP with a register (R149). -/
def execAopReg (f : AopFn) (_st : VStall) (d a b : AReg) (s : State) : Out :=
  .next (s.setMe (s.me.setA d (aopFn f (s.me.ar a) (s.me.ar b)) (s.me.apois a || s.me.apois b))).retireV

/-- VPOST (R150). -/
def execVpost (_st : VStall) (n : SemId) (s : State) : Out :=
  .next (s.releaseV .core (fun s => (s.setMe (s.me.raise n false)).retireV))

/-- VWAIT (R150, R198). -/
def execVwait (_st : VStall) (n : SemId) (s : State) : Out :=
  if s.me.mayAwait n .v then .next (s.setMe (s.me.await n .v false).1).retireV
  else .next (s.setMe ((s.me.beginWait n .v).waitV (.sem n)))

/-- VMARK (R150): it enters both V queues, as MARK enters those of the S-stream. -/
def execVmark (_st : VStall) (sc : Scope) (s : State) : Out := .next (s.loadV { op := .mark sc })

/-- A loop begins at the word or command at the read pointer, of `n` words (R151, R172); none where it is illegal. -/
def Engine.beginLoop (e : Engine) (n len count : Nat) : Option Engine :=
  let q := e.pos
  let past := match e.loops with
    | l :: _ => decide (l.last < q + len)
    | [] => false
  if past then none
  else if count = 0 then some { e.advance n with skip := len }
  else if 4 ≤ e.loops.length then none
  else
    let rp := e.after e.rp n
    some { e with loops := ⟨q + 1, q + len, count, rp⟩ :: e.loops, pos := q + 1, rp := rp }

/-- VLOOP (R151, R152). -/
def execVloop (_st : VStall) (len : BitVec 5) (count : BitVec 16) (s : State) : Out :=
  match s.me.v.eng.beginLoop 1 len.toNat count.toNat with
  | none => .next s.illegalV
  | some e => .next (s.setMe (s.me.onV (fun v => { v with eng := e, wait := none })))

/-- Whether an end marker stands in a body whose iteration is not the last (R78). -/
def Engine.inner (e : Engine) : Bool := e.loops.any (fun l => decide (1 < l.left))

/-- VEND (R78). -/
def execVend (s : State) : Out :=
  if s.me.v.eng.inner then .next s.retireV
  else .next (s.setMe ((s.me.advanceV).endEngine .v .ended))

/-- One laid word or command of `n` words of a body with count 0 is skipped (R151, R172). -/
def Engine.skipOne (e : Engine) (n : Nat) : Engine := { e.advance n with skip := e.skip - 1 }

end Sys2Proof.Machine
end

