-- ==== Sys2Proof/Machine/EngineOps.lean ====
section
/-! DEFINITION. What the commands of the matrix and copy engines share: accesses to scratchpad and extents, slots,
codes (R154-R158, R221, R226). -/

namespace Sys2Proof.Machine

open Sys2Proof

/-- The OP of a command (R67, R68). -/
def opOf : Instr → Nat
  | .msync .. => 0
  | .mma .. => 1
  | .mmap .. => 2
  | .mzero .. => 3
  | .mdrain .. => 4
  | .mldacc .. => 5
  | .mfmt .. => 6
  | .mloop .. => 7
  | .mchk .. => 8
  | .csync .. => 0
  | .copy .. => 1
  | .copyt .. => 2
  | .imwin .. => 3
  | .gather .. => 4
  | .scatter .. => 5
  | .fill .. => 6
  | .sketch .. => 7
  | .pcopy .. => 8
  | .dvw .. => 9
  | .dvrel .. => 10
  | .dvopen .. => 11
  | .dvshut .. => 12
  | .cloop .. => 13
  | .cflush .. => 14
  | _ => 0

/-- WS and SS of a command (R66). -/
def semsOf : Instr → SemId × SemId
  | .msync ws ss _ => (ws, ss)
  | .mma ws ss .. => (ws, ss)
  | .mmap ws ss .. => (ws, ss)
  | .mzero ws ss .. => (ws, ss)
  | .mdrain ws ss .. => (ws, ss)
  | .mldacc ws ss .. => (ws, ss)
  | .mfmt ws ss .. => (ws, ss)
  | .mchk ws ss .. => (ws, ss)
  | .csync ws ss _ => (ws, ss)
  | .copy ws ss .. => (ws, ss)
  | .copyt ws ss .. => (ws, ss)
  | .imwin ws ss .. => (ws, ss)
  | .gather ws ss .. => (ws, ss)
  | .scatter ws ss .. => (ws, ss)
  | .fill ws ss .. => (ws, ss)
  | .sketch ws ss .. => (ws, ss)
  | .pcopy ws ss .. => (ws, ss)
  | .dvopen ws ss .. => (ws, ss)
  | .dvw ws ss .. => (ws, ss)
  | .dvrel ws ss .. => (ws, ss)
  | .dvshut ws ss _ => (ws, ss)
  | .cflush ws ss .. => (ws, ss)
  | _ => (0, 0)

/-- The words of a command by engine and OP; none for a reserved OP (R67, R68). -/
def lengthOf (e : EngineSel) (op : Nat) : Option Nat :=
  match e with
  | .m => cmdWordsM op
  | .c => cmdWordsC op

/-- The ring of an engine. -/
def ringOf : EngineSel → RingSel
  | .m => .m
  | .c => .c

/-- The first of the codes that apply, in the order of R156; 0 is OK. -/
def Codes.first (c : Codes) : Nat :=
  if c.illegal then 1
  else if c.denied then 3
  else if c.dead then 2
  else if c.dvFault then 8
  else if c.check then 5
  else if c.poison then 4
  else if c.overrun then 7
  else if c.chksum then 6
  else 0

/-- What one unit of a command's work leaves (R188): it is held, there is more, or the work is done. -/
inductive Work where
  | hold (s : State) (f : Flight)
  | more (s : State) (f : Flight)
  | fin (s : State) (f : Flight)

/-- What a command's accesses have met (R156, R158). -/
structure Met where
  denied : Bool := false
  out : Bool := false
  dead : Bool := false
  check : Bool := false
  poison : Bool := false
  dsc : Option Nat := none
  deriving DecidableEq, Repr

/-- A command takes note of what an access met. -/
def Flight.note (f : Flight) (m : Met) : Flight :=
  { f with
    codes := { f.codes with
      denied := f.codes.denied || m.denied
      dead := f.codes.dead || m.dead
      check := f.codes.check || m.check
      poison := f.codes.poison || m.poison }
    oox := f.oox || m.out
    dscw := f.dscw || m.dsc.isSome
    dscVa := f.dscVa.or m.dsc }

/-- Whether a sector of a run of bytes fails its check value (R397). -/
def State.badAt (s : State) (e : Site) (a n : Nat) : Bool :=
  match e with
  | .host => !(s.mem.hcopy.bad a n).isEmpty
  | .copy => !(s.mem.hcopy.bad a n).isEmpty
  | .spill k => !((s.core k).v.spill.bad a n).isEmpty
  | .tmpl _ => false
  | .sp k => !((s.core k).spad.bad a n).isEmpty
  | .dev =>
    if s.mem.mig.isEmpty then !(s.mem.dev.bad a n).isEmpty
    else (linesOf (n / 128 + 2) a n).any (fun l => !(s.mem.dev.bad (s.home l.1) l.2).isEmpty)

/-- The pieces of an engine's access to the scratchpad address space of core `k`: the transfer aperture and the spill
store lie outside it (R20, R142). -/
def Core.engPieces (c : Core) (k a n : Nat) : List SpPiece :=
  (c.spPieces k false (n / 512 + 3) 0 a n).map (fun p =>
    match p.loc with
    | .aperture _ => { p with loc := .out }
    | _ => p)

/-- An engine of core `k` reads scratchpad. -/
def State.engGet (s : State) (k a n : Nat) : State × List PByte × Met :=
  let ps := (s.core k).engPieces k a n
  let chk := ps.any (fun p => match p.loc with
    | .mem j b => s.badAt (.sp j) b p.n
    | _ => false)
  let r := ps.foldl (fun (x : State × List PByte) p =>
    let y := x.1.spPieceBytes k p
    (y.1, x.2 ++ y.2)) (s, [])
  (r.1, r.2, { out := ps.any (fun p => p.loc == .out), check := chk, poison := anyPois r.2 })

/-- A store of a command of core `k` is visible at core scope (R154, R248, R249). -/
def State.engStore (s : State) (k : Nat) (gs : List Seg) : State :=
  if gs.isEmpty then s else s.onCore k (fun c => c.pushBuffer ⟨gs, .c⟩)

/-- An engine of core `k` writes scratchpad. -/
def State.engPut (s : State) (k a : Nat) (d : List PByte) : State × Met :=
  let ps := (s.core k).engPieces k a d.length
  (s.engStore k (spSegs k ps d []), { out := spOox ps })

/-- Whether the engine mask of a token's entry denies a command a bit (R156, R158, R244): never that of the null token, nor
that of an entry restored and never refreshed, whose mask is not known. -/
def Core.denies (c : Core) (t : Option Tok) (b : MaskBit) : Bool :=
  let m := c.mteOf t
  m.st != .null && !m.fresh && !m.mask.getLsbD b.place

/-- An engine of core `k` reads an extent: requested bytes (position, offset, count) of `n` (R158). -/
def State.extGet (s : State) (k : Nat) (t : Option Tok) (n : Nat) (rs : List (Nat × Nat × Nat)) :
    Option (State × List PByte × Met) :=
  let no := (s.core k).denies t .cRead
  match s.access k t .cRead true false rs with
  | .hold _ => none
  | .dead => some (s, List.replicate n (0, false), { dead := true, denied := no })
  | .live ps =>
    if no then some (s, List.replicate n (0, false), { denied := true })
    else
      let chk := ps.any (fun p => match p.loc with
        | .at e a => s.badAt e a p.n
        | _ => false)
      let r := s.readPieces k t n ps
      some (r.1, r.2, { out := anyOut ps, check := chk, poison := anyPois r.2 })

/-- An engine of core `k` writes an extent (R158). -/
def State.extPut (s : State) (k : Nat) (t : Option Tok) (d : List PByte) (rs : List (Nat × Nat × Nat)) : Option (State × Met) :=
  let vb := ((s.core k).mteOf t).vbase
  let no := (s.core k).denies t .cWrite
  match s.access k t .cWrite false true rs with
  | .hold _ => none
  | .dead => some (s, { dead := true, denied := no })
  | .live ps =>
    if no then some (s, { denied := true })
    else some (s.engStore k (plainSegs vb d ps),
      { out := anyOut ps, dsc := (firstDsc ps).map (fun p => vb + p.off) })

/-- A filling command takes its slot (R226): none while it waits. -/
def State.takeSlot (s : State) (k : Nat) (n : RingId) (join : Bool) (f : Flight) : Option (State × Flight) :=
  match f.slot with
  | some _ => some (s, f)
  | none =>
    let q := (s.core k).ring n.toNat
    match (if (join && !q.filling.isEmpty) || s.mayAcquireSlot k n .c then q.takeSlot join else none) with
    | none => none
    | some (r, i) => some (s.onCore k (fun c => c.setRing n.toNat r), { f with slot := some (n, i) })

/-- Bytes of a filling command reach its slot from slot offset `o` on (R174, R176, R226): those that lie in it and that the
count has room for are written, and the others are discarded. -/
def State.fillSlot (s : State) (k o : Nat) (d : List PByte) (f : Flight) : State × Flight :=
  match f.slot with
  | none => (s, f)
  | some (n, i) =>
    let r := (s.core k).ring n.toNat
    let x := slotFit r.slotBytes o d.length
    let q := r.deliver i d.length x.2
    let s := s.onCore k (fun c => c.setRing n.toNat q.1)
    let w := s.engPut k (r.slotAddr i + (o + x.1) % 2 ^ 64) ((d.drop x.1).take q.2)
    let f := f.note w.2
    (w.1, if q.2 < d.length then { f with lost := f.lost + (d.length - q.2), codes := { f.codes with overrun := true } } else f)

/-- Bytes of a command reach scratchpad at `a`, or its slot at that offset; those of a command that its token denies do not. -/
def State.deliver (s : State) (k : Nat) (g : Bool) (a : Nat) (d : List PByte) (f : Flight) : State × Flight :=
  if f.codes.denied then (s, f)
  else if g then s.fillSlot k a d f
  else
    let w := s.engPut k a d
    (w.1, f.note w.2)

/-- One unit more is done. -/
def Flight.next (f : Flight) : Flight := { f with prog := f.prog + 1 }

/-- A unit is done; the command ends after `n` units, or where its token denies it one (R158). -/
def unitDone (s : State) (f : Flight) (n : Nat) : Work :=
  if f.codes.denied then .fin s f
  else if f.prog + 1 < n then .more s f.next else .fin s f.next

end Sys2Proof.Machine
end

