-- ==== Sys2Proof/Machine/DvLink.lean ====
section
/-! DEFINITION. The links of Dovetail: the bytes of a packet (R372, R373), the flits that carry them, and each port's retry buffer,
numbers and acknowledgements (R370, R371). -/

namespace Sys2Proof.Machine

open Sys2Proof

/-- TYPE of a packet (R372). -/
def dvCode : DvType → Nat
  | .write => 1
  | .release => 2
  | .gap => 3
  | .openReq => 4
  | .openAck => 5
  | .shut => 6
  | .shutAck => 7
  | .fault => 8
  | .faultAck => 9
  | .busy => 10

/-- The type of packet that a TYPE names; none where it is reserved (R372). -/
def dvType (n : Nat) : Option DvType :=
  [DvType.write, .release, .gap, .openReq, .openAck, .shut, .shutAck, .fault, .faultAck, .busy].find? (fun t => dvCode t == n)

/-- The 32 bytes of a packet's header (R372). -/
def headerBytes (p : DvPacket) : List Byte :=
  leBytes 1 (dvCode p.ty) ++ leBytes 1 (p.epoch.toNat + 4 * p.gen.toNat) ++ leBytes 2 p.slot.toNat ++ leBytes 4 p.dst.toNat
    ++ leBytes 4 p.src.toNat ++ leBytes 2 p.data.length ++ leBytes 2 p.win.toNat ++ leBytes 8 p.off.toNat ++ leBytes 4 p.count.toNat
    ++ leBytes 4 p.value.toNat

/-- The sectors of a payload that hold a poisoned byte (R373). -/
def poisonedSectors (d : List PByte) : List Nat :=
  (List.range ((d.length + 31) / 32)).filter (fun q => anyPois ((d.drop (32 * q)).take 32))

/-- The payload of a packet with its poison (R373). -/
def packetBytes (p : DvPacket) : List PByte := p.data.zipIdx.map (fun c => (c.1, p.poisoned.contains (c.2 / 32)))

/-- The bytes of a packet: its header, then its payload (R372). -/
def wireBytes (p : DvPacket) : List PByte := clean (headerBytes p) ++ packetBytes p

/-- `n` bytes at byte `i` of a header, as a number. -/
def hdrField (b : List PByte) (i n : Nat) : Nat := leNat (plain ((b.drop i).take n))

/-- The packet that bytes hold; none where a reserved bit of the header is set or TYPE is reserved (R372, R373). -/
def readPacket (b : List PByte) (sound : Bool) : Option DvPacket :=
  let f := hdrField b
  match dvType (f 0 1) with
  | none => none
  | some ty =>
    if 64 ≤ f 1 1 ∨ 2 ^ 12 ≤ f 2 2 ∨ 2 ^ 22 ≤ f 4 4 ∨ 2 ^ 22 ≤ f 8 4 then none
    else
      let d := (b.drop 32).take (f 12 2)
      some
        { ty := ty
          epoch := BitVec.ofNat 2 (f 1 1)
          gen := BitVec.ofNat 4 (f 1 1 / 4)
          slot := BitVec.ofNat 12 (f 2 2)
          dst := BitVec.ofNat 22 (f 4 4)
          src := BitVec.ofNat 22 (f 8 4)
          win := BitVec.ofNat 16 (f 14 2)
          off := BitVec.ofNat 64 (f 16 8)
          count := BitVec.ofNat 32 (f 24 4)
          value := BitVec.ofNat 32 (f 28 4)
          data := plain d
          poisoned := poisonedSectors d
          intact := sound }

/-- The flits of a packet: 240 of its bytes each, the last filled up with zeros (R370; log entry 98). -/
def flitsOf (p : DvPacket) : List (List PByte) :=
  let w := wireBytes p
  (List.range ((w.length + 239) / 240)).map (fun i =>
    let d := (w.drop (240 * i)).take 240
    d ++ List.replicate (240 - d.length) (0, false))

/-- A Dovetail port. -/
def State.port (s : State) (p : Nat) : Port := Sparse.get {} s.dv.ports p

/-- Change a port. -/
def State.onPort (s : State) (p : Nat) (f : Port → Port) : State :=
  { s with dv := { s.dv with ports := Sparse.put {} s.dv.ports p (f (s.port p)) } }

/-- A port is trained and up: its DVP bit (R370, R432). -/
def State.portUp (s : State) (p : Nat) : Bool := s.plinth.ready.getLsbD (24 + p)

/-- Flits that wait are numbered and sent as long as the retry buffer has one of its 512 places left (R371). -/
def Port.send (p : Port) : Port :=
  let n := min (512 - p.retry.length) p.queue.length
  { p with
    num := p.num + BitVec.ofNat 12 n
    retry := p.retry ++ (p.queue.take n).zipIdx.map (fun (c : (List PByte × DvPacket) × Nat) =>
      { num := p.num + BitVec.ofNat 12 c.2, body := c.1.1, pk := c.1.2 })
    queue := p.queue.drop n }

/-- A packet is lost (R371, R433). -/
def State.losePacket (s : State) (p : DvPacket) : State := { s with dv := { s.dv with sent := s.dv.sent.erase p } }

/-- The flits of a packet go out through a port; which one, the Bench's routes say, and the spec does not give them (R371; log entry
98). Through a port that is down the packet is lost (R433). -/
def State.route (s : State) (p : DvPacket) : State :=
  let d := s.draw
  let n := d.1.toNat % 16
  if d.2.portUp n then d.2.onPort n (fun q => { q with queue := q.queue ++ (flitsOf p).map (fun b => (b, p)) }.send)
  else d.2.losePacket p

/-- Inject a packet. -/
def State.inject (s : State) (p : DvPacket) : State := { s with dv := { s.dv with sent := s.dv.sent ++ [p] } }.route p

/-- The far end has acknowledged every flit up to number `n` (R371): they leave the retry buffer. -/
def Port.acked (p : Port) (n : BitVec 12) : Port :=
  match p.retry.findIdx? (fun f => f.num == n) with
  | some i => { p with retry := p.retry.drop (i + 1), asked := 0 }.send
  | none => p

/-- Which packets a link that goes down loses: of those with flits in its retry buffer each is lost or delivered freely, since
their last flits may have arrived before it went down (R371). -/
def State.loseSome : List DvPacket → State → State
  | [], s => s
  | p :: ps, s =>
    let d := s.draw
    let t := d.2
    State.loseSome ps (if d.1.getLsbD 0 then t.losePacket p else t)

/-- A port goes down (R371, R433): its DVP bit clears, flits in its retry buffer are lost with their packets, and so are the packets
routed through it none of whose flits it has sent. -/
def State.portDown (s : State) (p : BitVec 4) : State :=
  if !s.portUp p.toNat then s
  else
    let q := s.port p.toNat
    let lost := (q.retry.map (fun f => f.pk)).eraseDups
    let rest := (q.queue.map (fun f => f.2)).eraseDups.filter (fun k => !lost.contains k)
    let s := State.loseSome lost s
    let s : State := { s.onPort p.toNat (fun _ => {}) with
      plinth := { s.plinth with ready := s.plinth.ready &&& ~~~(1#64 <<< (24 + p.toNat)) } }
    rest.foldl (fun s k => s.losePacket k) s

/-- Flits that wait without `n` of those of a packet, those passed over first standing. -/
def cutFlits (p : DvPacket) : Nat → Nat → List (List PByte × DvPacket) → List (List PByte × DvPacket)
  | _, _, [] => []
  | skip, n, f :: l =>
    if f.2 ≠ p then f :: cutFlits p skip n l
    else if 0 < skip then f :: cutFlits p (skip - 1) n l
    else if 0 < n then cutFlits p 0 (n - 1) l
    else f :: l

/-- A port gives up one packet, where none of its flits has been sent (R371): one that has been begun goes on to the next hop, which
drops it. -/
def Port.expire (q : Port) (p : DvPacket) : Port :=
  let n := (flitsOf p).length
  let m := (q.queue.filter (fun f => f.2 == p)).length
  if m < n then q else { q with queue := cutFlits p (m % n) n q.queue }

/-- A packet is too old (R371): it is dropped, from the port that it waits in too. -/
def State.expire (s : State) (p : DvPacket) : State :=
  let t := s.losePacket p
  match (List.range 16).find? (fun i => t.port i != (t.port i).expire p) with
  | some i => t.onPort i (fun q => q.expire p)
  | none => t

/-- LINK_DOWN (R371). -/
def execLinkDown (port : BitVec 4) (s : State) : Out := .next (s.portDown port)

/-- PORT_TRAINED (R370, R432): on all 8 lanes. -/
def execPortTrained (port : BitVec 4) (s : State) : Out :=
  .next { s with plinth := { s.plinth with ready := s.plinth.ready ||| (1#64 <<< (24 + port.toNat)) } }

/-- A packet that has arrived whole (R371-R373): dropped where a field holds a reserved value or a sector fails its check, kept
for this device where it is addressed to it, else sent on. -/
def State.packetIn (s : State) (b : List PByte) (sound : Bool) : State :=
  match readPacket b sound with
  | none => s
  | some p =>
    if !sound then s
    else if p.dst = Config.deviceId then { s with dv := { s.dv with arrived := s.dv.arrived ++ [p] } }
    else s.inject p

/-- The packet bytes of a flit join those before it; a packet is whole once its header's LEN bytes have followed it (R372). -/
def State.flitIn (s : State) (p : Nat) (f : LinkFlit) : State :=
  let q := s.port p
  let b := q.bytes ++ f.body
  let ok := q.sound && f.sound
  if b.length < 32 + hdrField b 12 2 then s.onPort p (fun q => { q with bytes := b, sound := ok })
  else (s.onPort p (fun q => { q with bytes := [], sound := true })).packetIn b ok

/-- FLIT_RECEIVE (R371): the flit expected is taken, once and in order; one that fails its CRC is asked for again; what its link
header acknowledges leaves the retry buffer, and what it asks for is sent again. After 16 consecutive failed retries in either
direction the link goes down. -/
def execFlitReceive (port : BitVec 4) (f : LinkFlit) (ok : Bool) (s : State) : Out :=
  let p := port.toNat
  let q := s.port p
  if !s.portUp p then .next s
  else if !ok then
    .next (if 16 ≤ q.failed then s.portDown port else s.onPort p (fun q => { q with failed := q.failed + 1 }))
  else
    let q := match f.ack with
      | some n => q.acked n
      | none => q
    let again := f.again.any (fun n => q.retry.any (fun x => x.num == n))
    if again && decide (16 ≤ q.asked) then .next (s.portDown port)
    else
      let q := { q with asked := if again then q.asked + 1 else q.asked, failed := 0 }
      if f.seq = q.want then .next ((s.onPort p (fun _ => { q with want := q.want + 1#12 })).flitIn p f)
      else .next (s.onPort p (fun _ => q))

end Sys2Proof.Machine
end

