-- ==== Sys2Proof/Machine/DvSend.lean ====
section
/-! DEFINITION. The sender's side of Dovetail: channels, epochs, logs, packets and the units of work of the Dovetail
commands (R183, R372, R376-R380, R387, R390). -/

namespace Sys2Proof.Machine

open Sys2Proof

/-- The key of a channel of a gang (R376). -/
def chanKey (g : GangId) (ch : BitVec 12) : Nat := g.toNat * 4096 + ch.toNat

/-- A channel. -/
def State.chan (s : State) (key : Nat) : Channel := Sparse.get {} s.dv.chans key

/-- Replace a channel. -/
def State.setChan (s : State) (key : Nat) (c : Channel) : State :=
  { s with dv := { s.dv with chans := Sparse.put {} s.dv.chans key c } }

/-- Change a channel. -/
def State.onChan (s : State) (key : Nat) (f : Channel → Channel) : State := s.setChan key (f (s.chan key))

/-- An epoch of a channel; one that has met nothing counts nothing (R378). -/
def Channel.epoch (c : Channel) (e : BitVec 2) : Epoch := (c.epochs.find? (fun x => x.num == e)).getD { num := e }

/-- Replace an epoch of a channel. -/
def Channel.setEpoch (c : Channel) (x : Epoch) : Channel :=
  if c.epochs.any (fun y => y.num == x.num) then { c with epochs := c.epochs.map (fun y => if y.num == x.num then x else y) }
  else { c with epochs := c.epochs ++ [x] }

/-- The epochs that DVRELs have ended and that have not settled, oldest first (R378, R380). -/
def Channel.unsettled (c : Channel) : List Epoch := c.epochs.filter (fun x => x.released)

/-- A packet of this device (R372). -/
def packetTo (ty : DvType) (dst : BitVec 22) (slot : BitVec 12) (win : BitVec 16) : DvPacket :=
  { ty := ty
    epoch := 0
    gen := 0
    slot := slot
    dst := dst
    src := Config.deviceId
    win := win
    off := 0
    count := 0
    value := 0
    data := []
    poisoned := []
    intact := true }

/-- A packet of a channel. -/
def Channel.packet (c : Channel) (ty : DvType) (e : Epoch) : DvPacket :=
  { packetTo ty c.dev c.slot c.win with epoch := e.num, gen := BitVec.ofNat 4 e.gen }

/-- A WRITE packet with its payload at a window offset (R372, R373, R378). -/
def Channel.writePacket (c : Channel) (e : Epoch) (off : Nat) (d : List PByte) : DvPacket :=
  { c.packet .write e with off := BitVec.ofNat 64 off, data := plain d, poisoned := poisonedSectors d }

/-- The RELEASE of an epoch (R372, R380). -/
def Channel.releasePacket (c : Channel) (e : Epoch) : DvPacket :=
  { c.packet .release e with
    off := BitVec.ofNat 64 e.flagOff
    count := BitVec.ofNat 32 e.count
    value := e.flag }

/-- The packets of a DVW of `len` units (R378). -/
def packetsOf (len : Nat) : Nat := (512 * len + 4095) / 4096

/-- The payload length of packet `i` of a DVW of `len` units (R378). -/
def payload (len i : Nat) : Nat := min 4096 (512 * len - 4096 * i)

/-- The first copy of the RELEASE of an epoch is sent (R380). -/
def State.firstCopy (s : State) (key : Nat) (e : Epoch) : State :=
  let e := { e with copies := 1, busy := false, replay := false }
  (s.inject ((s.chan key).releasePacket e)).onChan key (fun c => c.setEpoch e)

/-- A release whose copies may begin: every DVW of its epoch has sent its packets, and no replay is to come first (R380, R387). -/
def Epoch.ripe (e : Epoch) : Bool := e.released && e.copies == 0 && !e.replay && e.sent == e.count

/-- The releases of a channel that may begin begin, in epoch order (R380). -/
def State.releaseRipe (s : State) (key : Nat) : State :=
  if (s.chan key).st = .opened then ((s.chan key).epochs.filter Epoch.ripe).foldl (fun s e => s.firstCopy key e) s else s

/-- The command that waits on a channel takes effect once it may (R183, R376, R378, R380): a DVREL ends the open epoch while fewer
than two epochs are unsettled; a DVSHUT sends SHUT once every epoch has settled and every DVW issued before it has sent its
packets. -/
def State.chanPending (s : State) (key : Nat) : State :=
  let c := s.chan key
  match c.pend with
  | none => s
  | some (n, .rel off flag) =>
    if 2 ≤ c.unsettled.length then s
    else
      let e := { c.epoch c.openEpoch with released := true, flagOff := off, flag := flag, ser := n }
      s.setChan key { c.setEpoch e with openEpoch := c.openEpoch + 1#2, pend := none }
  | some (n, .shut) =>
    if !c.unsettled.isEmpty || (c.epoch c.openEpoch).sent != (c.epoch c.openEpoch).count then s
    else (s.setChan key { c with st := .shutting, sends := 1, ctl := n, pend := none }).inject (packetTo .shut c.dev c.slot c.win)

/-- What a channel may do by itself, after anything that has changed it. -/
def State.chanStep (s : State) (key : Nat) : State := (s.chanPending key).releaseRipe key

/-- The channel that a Dovetail command names (R183). -/
def dvChan : Instr → Option (BitVec 12)
  | .dvopen _ _ ch .. => some ch
  | .dvw _ _ ch .. => some ch
  | .dvrel _ _ ch .. => some ch
  | .dvshut _ _ ch => some ch
  | _ => none

/-- Whether a command may not issue yet because an earlier one on its channel waits: commands on one channel take effect in the
order in which they issue (R376). -/
def State.chanHeld (s : State) (k : Nat) (i : Instr) : Bool :=
  match dvChan i with
  | some ch => (s.chan (chanKey (s.core k).gangOf ch)).pend.isSome
  | none => false

/-- A command that finds its channel in the wrong state (R156, R183, R376). -/
def Flight.dvFaulted (f : Flight) : Flight := { f with codes := { f.codes with dvFault := true } }

/-- A DVW issues (R378, R379): none where it would pass the limits of its epoch; DV_FAULT where the channel is not open. -/
def State.dvwIssue (s : State) (k : Nat) (ch : BitVec 12) (woff : BitVec 32) (spa len : BitVec 13) (f : Flight) :
    Option (State × Flight) :=
  let key := chanKey (s.core k).gangOf ch
  let c := s.chan key
  if c.st ≠ .opened then some (s, f.dvFaulted)
  else
    let e := c.epoch c.openEpoch
    let n := packetsOf len.toNat
    if 256 ≤ e.log.length ∨ 2 ^ 31 < e.count + n then none
    else
      let (jig, ord) := match (s.core k).step with
        | some t => (t.jigId, t.ordinal)
        | none => (0, 0)
      let d : DvDesc :=
        { core := k
          rank := (s.core k).panel.rank.toNat
          jig := jig
          ordinal := ord
          spa := 512 * spa.toNat
          len := len.toNat
          woff := woff.toNat
          packets := n }
      some (s.setChan key (c.setEpoch { e with log := e.log ++ [d], count := e.count + n }),
        { f with dv := some c.openEpoch, ser := some c.life })

/-- DVW (R183, R378): one unit for each packet; DV_FAULT where the channel is no longer the open one it issued on. -/
def State.dvwUnit (s : State) (k : Nat) (ch : BitVec 12) (woff : BitVec 32) (spa len : BitVec 13) (f : Flight) : Work :=
  let key := chanKey (s.core k).gangOf ch
  let c := s.chan key
  match f.dv with
  | none => .fin s f
  | some e =>
    if c.st ≠ .opened ∨ f.ser ≠ some c.life then .fin s f.dvFaulted
    else
      let r := s.engGet k (512 * spa.toNat + 4096 * f.prog) (payload len.toNat f.prog)
      let x := c.epoch e
      let s := r.1.inject (c.writePacket x (woff.toNat + 4096 * f.prog) r.2.1)
      unitDone ((s.setChan key (c.setEpoch { x with sent := x.sent + 1 })).chanStep key) (f.note r.2.2) (packetsOf len.toNat)

/-- A DVREL or DVSHUT issues (R183, R376, R378, R380): it waits in its channel, for as long as it must. -/
def State.pendIssue (s : State) (k : Nat) (ch : BitVec 12) (p : ChanPend) (f : Flight) : State × Flight :=
  let key := chanKey (s.core k).gangOf ch
  let c := s.chan key
  if c.st ≠ .opened then (s, f.dvFaulted)
  else ((s.setChan key { c with next := c.next + 1, pend := some (c.next, p) }).chanStep key, { f with ser := some c.next })

/-- A DVOPEN issues (R183, R376, R377): OPEN is sent, and the log of a faulted channel is gone. -/
def State.dvopenIssue (s : State) (k : Nat) (ch : BitVec 12) (dev : BitVec 22) (win : BitVec 16) (f : Flight) : State × Flight :=
  let key := chanKey (s.core k).gangOf ch
  let c := s.chan key
  if c.st = .closed ∨ c.st = .faulted then
    let x : Channel :=
      { st := .opening
        win := win
        dev := dev
        sends := 1
        next := c.next + 1
        life := c.next
        ctl := c.next
        ended := c.ended }
    ((s.setChan key x).inject (packetTo .openReq dev 0 win), { f with ser := some c.next })
  else (s, f.dvFaulted)

/-- The end of a command that waits in its channel: a completion code for its number (R376). -/
def Channel.finish (c : Channel) (n code : Nat) : Channel := { c with ended := c.ended ++ [(n, code)] }

/-- DVOPEN, DVREL and DVSHUT wait in their channel (R183, R188, R376): OPEN and SHUT for their answers, DVREL for its epoch to
settle or the channel to become FAULTED. -/
def State.chanWait (s : State) (k : Nat) (ch : BitVec 12) (f : Flight) : Work :=
  let key := chanKey (s.core k).gangOf ch
  let c := s.chan key
  match f.ser with
  | none => .fin s f
  | some n =>
    match c.ended.find? (fun x => x.1 == n) with
    | none => .hold s f
    | some (_, code) =>
      .fin (s.setChan key { c with ended := c.ended.filter (fun x => x.1 != n) })
        { f with codes := { f.codes with dvFault := f.codes.dvFault || code == 8, overrun := f.codes.overrun || code == 7 } }

/-- A core runs the task that a descriptor records (R379). -/
def DvDesc.task (d : DvDesc) (c : Core) : Bool :=
  match c.step with
  | some t => t.jigId == d.jig && t.ordinal == d.ordinal && t.rank == d.rank
  | none => false

/-- The source bytes of a logged DVW (R387): in the scratchpad of the core that holds the issuing task, in the SPAD field of its
context record while it is saved (R366), or once the task is gone in the scratchpad it was issued from. -/
def State.dvwSource (s : State) (d : DvDesc) (a n : Nat) : State × List PByte :=
  match s.cores.find? (fun e => d.task e.2) with
  | some e =>
    let r := s.engGet e.1 a n
    (r.1, r.2.1)
  | none =>
    match s.saved.findSome? (fun g => (g.2.find? (fun x => d.task x.core)).map (fun x => (g.1, x.record))) with
    | some (g, i) =>
      let x := s.gang g.toNat
      -- what lies outside scratchpad reads as zero, as it does on a core (R20)
      let j := min n (0x300000 - a)
      let r := s.physGet (x.saveBase + 0x1000 + 0x380000 * i + 0x80000 + a) j (some x.saveKey)
      (r.1, r.2 ++ List.replicate (n - j) (0, false))
    | none =>
      let r := s.engGet d.core a n
      (r.1, r.2.1)

/-- Replay the log of an epoch of a channel as WRITE packets of its generation (R387). -/
def State.replayLog (s : State) (key : Nat) (x : Epoch) : State :=
  x.log.foldl (fun s d =>
    (List.range d.packets).foldl (fun s i =>
      let r := s.dvwSource d (d.spa + 4096 * i) (payload d.len i)
      r.1.inject ((s.chan key).writePacket x (d.woff + 4096 * i) r.2)) s) s

/-- Replays that are due happen, but for those of a gang that a save or restore is in progress for (R387): the log of the epoch,
then the first copy of its release. -/
def State.replayDue (s : State) (key : Nat) : State :=
  let g := s.gang (key / 4096)
  if g.preempting || g.restoring then s
  else ((s.chan key).epochs.filter (fun x => x.replay)).foldl (fun s x => (s.replayLog key x).firstCopy key x) s

/-- Every replay that is due happens. -/
def State.pumpReplays (s : State) : State :=
  ((s.dv.chans.filter (fun e => e.2.epochs.any (fun x => x.replay))).map (fun e => e.1)).foldl State.replayDue s

end Sys2Proof.Machine
end

