-- ==== Sys2Proof/Machine/SyncS.lean ====
section
/-! DEFINITION. Starting, feeding and joining the engines, semaphores, marks, fences, barriers, slots and host flushes of the
S-stream (R189-R204). -/

namespace Sys2Proof.Machine

open Sys2Proof

/-- An entry of a ring table (R189). -/
structure TabEntry where
  en : Bool
  valid : Bool
  laid : Nat
  size : Nat
  base : Nat
  deriving DecidableEq, Repr

/-- An entry of a ring table and whether it is valid (R189). -/
def tabEntry (w : Nat) : TabEntry :=
  let laid := fld w 40 16
  let size := fld w 24 16
  let base := fld w 0 22
  { en := fld w 63 1 == 1
    valid := fld w 56 7 == 0 && fld w 22 2 == 0 && base % 4 == 0 && decide (4 ≤ size) && decide (laid < size)
      && decide (base + 4 * size ≤ 0x2FF000)
    laid := laid
    size := size
    base := base }

/-- The engines of a ring table's entries, in order (R189). -/
def ringOrder : List RingSel := [.v, .m, .c]

/-- FORK acts on one engine (R192). -/
def Core.forkOne (c : Core) (r : RingSel) (e : TabEntry) : Core :=
  if e.en then c.setEngine r { st := .running, base := e.base, size := e.size, rp := 0, wp := e.laid }
  else
    match (c.engine r).st with
    | .ended => c.setEngine r { c.engine r with st := .idle }
    | .stopped => c.setEngine r { c.engine r with st := .idle }
    | _ => c

/-- The entries of a ring table with their engines (R189). -/
def tabOf (d : List Byte) : List (RingSel × TabEntry) :=
  ringOrder.zip ((List.range 3).map (fun i => tabEntry (field d (8 * i) 8)))

/-- FORK goes on with the table it has read (R192): running engines that it starts again are awaited, and after a release the
enabled engines start together. SCHK affects the V-stream from then on, also where this FORK leaves it running (R77, log entry 117). -/
def State.forkWith (s : State) (d : List Byte) : State :=
  let tab := tabOf d
  let busy := (tab.filter (fun e => e.2.en && s.me.running e.1)).map (fun e => e.1)
  if !busy.isEmpty then s.setMe ((s.me.waitS (.engines busy)).onS (fun t => { t with forkTab := some d }))
  else
    let s := s.releaseS .core (fun s =>
      let c := s.me.onV (fun v => { v with vstStop := false, vstCode := 0 })
      let on := tab.any (fun e => e.1 == .v && e.2.en)
      let c := c.onV (fun v => { v with schk := c.s.schk, wait := if on then none else v.wait })
      s.setMe ((tab.foldl (fun c e => c.forkOne e.1 e.2) c).advance.onS (fun t => { t with forkTab := none })))
    match s.me.s.st with
    | .waiting .queues => s.setMe (s.me.onS (fun t => { t with forkTab := some d }))
    | _ => s

/-- FORK (R192): the table is read once, after the stream's earlier loads, and its entries are checked. A poisoned byte
of the table counts as its bits stand (log entry 116). -/
def execFork (_st : SStall) (a : XReg) (s : State) : Out :=
  let at_ := ((s.me.xr a) &&& 0xFFFFFFFFFFFFFFF8#64).toNat
  match s.me.s.forkTab with
  | some d => .next (s.forkWith d)
  | none => .next (s.afterReads at_ 24 (fun s =>
    let r := s.spRead s.curN false at_ 24
    let d := plain r.2.1
    if (tabOf d).any (fun e => e.2.en && !e.2.valid) then s.trapMe causeIllegal 0
    else (r.1.setMe (r.1.me.oox r.2.2)).forkWith d))

/-- RDV (R193). -/
def execRdv (_st : SStall) (s : State) : Out := .next (s.joinAll State.retire)

/-- VFENCE (R194): every V load has performed and every V store is visible at core scope. -/
def execVfence (_st : SStall) (s : State) : Out :=
  let r := s.settle s.curN true .core
  if r.1.me.vworks || r.2 != .done then .next (r.1.setMe (r.1.me.waitS .vfence)) else .next r.1.retire

/-- SEND (R195). -/
def execSend (_st : SStall) (a b : XReg) (m : BitVec 4) (s : State) : Out :=
  if (Sparse.get none s.me.v.mailbox m.toNat).isSome then .next (s.setMe (s.me.waitS (.mailboxEmpty m)))
  else
    let e := some (s.me.xr a, s.me.xr b)
    .next (s.setMe ((s.me.onV (fun v => { v with mailbox := Sparse.put none v.mailbox m.toNat e })).advance))

/-- A word laid in a ring by RAPP (R196): a store to scratchpad visible at core scope, and the write pointer moves. -/
def Core.layWord (c : Core) (k : Nat) (r : RingSel) (w : Word) : Core :=
  let e := c.engine r
  let a := e.addrOf e.wp
  (c.pushBuffer ⟨[⟨.sp k, a, a, a, clean (leBytes 4 w.toNat), [], none⟩], .s⟩).setEngine r { e with wp := e.after e.wp 1 }

/-- RAPP with one or two words (R196). -/
def State.append (s : State) (r : RingSel) (ws : List Word) : State :=
  let e := s.me.engine r
  if e.size = 0 then s.trapMe causeIllegal 0
  else if !e.room ws.length then s.setMe (s.me.waitS (.room r ws.length))
  else s.releaseS .core (fun s => s.setMe (ws.foldl (fun c w => c.layWord s.curN r w) s.me).advance)

/-- RAPP (R196). -/
def execRapp (_st : SStall) (a : XReg) (r : RingSel) (s : State) : Out := .next (s.append r [s.me.xr a])

/-- RAPP.P (R196). -/
def execRappPair (_st : SStall) (a b : XReg) (r : RingSel) (s : State) : Out := .next (s.append r [s.me.xr a, s.me.xr b])

/-- POST (R198). -/
def execPost (_st : SStall) (n : SemId) (s : State) : Out :=
  .next (s.releaseS .core (fun s => s.setMe (s.me.raise n false).advance))

/-- WAITS (R198). -/
def execWaits (_st : SStall) (n : SemId) (s : State) : Out :=
  if s.me.mayAwait n .s then .next (s.setMe (s.me.await n .s false).1.advance)
  else .next (s.setMe ((s.me.beginWait n .s).waitS (.sem n)))

/-- MARK (R199): it enters the load queue with a place in the order of the stream, so that later loads stand behind it and later
stores are kept back by it. -/
def execMark (_st : SStall) (sc : Scope) (s : State) : Out := .next (s.loadS { op := .mark sc })

/-- FENCE (R200): ACQ enters the load queue, REL the store queue, AR both. -/
def State.fence (s : State) (k : FenceKind) (sc : Scope) : State :=
  let rel (s : State) : State := s.pushStore s.curN false { op := .fence sc }
  match k with
  | .acq => s.loadS { op := .fence }
  | .rel => (rel s).retire
  | .ar => (rel s).loadS { op := .fence }

/-- FENCE (R200). -/
def execFence (_st : SStall) (k : FenceKind) (sc : Scope) (s : State) : Out := .next (s.fence k sc)

/-- A barrier of a panel (R201). -/
def State.bar (s : State) (b n : Nat) : Barrier := Sparse.get {} (s.panel b).bars n

/-- Replace a barrier of a panel. -/
def State.setBar (s : State) (b n : Nat) (r : Barrier) : State :=
  s.setPanel b { s.panel b with bars := Sparse.put {} (s.panel b).bars n r }

/-- BAR (R201): complete at once in a panel of one core or in none; else the core arrives, the last arrival changes the
phase, and the others wait for the change. -/
def execBar (_st : SStall) (n : BarId) (s : State) : Out :=
  if s.me.panelSize = 1 then .next (s.fence .ar (if s.me.panel.size = 0#5 then .core else .panel))
  else
    let b := s.me.panelBase s.curN
    let r := s.bar b n.toNat
    match s.me.s.st with
    | .waiting (.barrier m ph) => if m = n ∧ r.phase ≠ ph then .next s.retire else .next s
    | _ =>
      .next (s.releaseS .panel (fun s =>
        let arr := s.curN :: r.arrived.filter (fun j => j != s.curN)
        if (s.me.panelCores s.curN).all (fun j => arr.contains j) then
          (s.setBar b n.toNat { phase := !r.phase, arrived := [] }).retire
        else
          let s := s.setBar b n.toNat { r with arrived := arr }
          s.setMe (s.me.waitS (.barrier n r.phase))))

/-- SACQ (R202, R226). -/
def execSacq (_st : SStall) (d : XReg) (n : RingId) (s : State) : Out :=
  let r := s.me.ring n.toNat
  if r.count = 0 then .next (s.trapMe causeIllegal 0)
  else if !r.canAcquire then .next (s.setMe (s.me.waitS (.slotEmpty n)))
  else
    let q := r.acquire
    .next ((s.setMe (s.me.setRing n.toNat q.1)).retireX d (word (r.slotAddr q.2)))

/-- SCOMMIT (R202, R226, R229). -/
def execScommit (_st : SStall) (n : RingId) (s : State) : Out :=
  if (s.me.ring n.toNat).count = 0 then .next (s.trapMe causeIllegal 0)
  else .next (s.releaseS .core (fun s => (s.setMe (s.me.onRing n.toNat StageRing.commit)).retire))

/-- SAWAIT (R202, R226). -/
def execSawait (_st : SStall) (d : XReg) (n : RingId) (s : State) : Out :=
  let r := s.me.ring n.toNat
  if r.count = 0 then .next (s.trapMe causeIllegal 0)
  else if !r.canAwait then .next (s.setMe (s.me.waitS (.slotFull n)))
  else
    let q := r.await
    .next ((s.setMe (s.me.setRing n.toNat q.1)).retireX d
      (word (r.slotAddr q.2 + (if r.errOf q.2 then 2 ^ 63 else 0))))

/-- SREL (R202, R226, R229). -/
def execSrel (_st : SStall) (n : RingId) (s : State) : Out :=
  if (s.me.ring n.toNat).count = 0 then .next (s.trapMe causeIllegal 0)
  else .next (s.releaseS .core (fun s => (s.setMe (s.me.onRing n.toNat StageRing.release)).retire))

/-- The host lines that the pieces of a range reach (R184, R204). -/
def hostLines (ps : List Piece) : List Nat :=
  ps.flatMap (fun p =>
    match p.loc with
    | .at .host a => (List.range ((a + p.n - 1) / 128 + 1 - a / 128)).map (fun i => a / 128 + i)
    | _ => [])

/-- FLUSHH and INVH (R204): earlier stores become visible at device scope, then every host line with a reachable byte is
written back or discarded. -/
def State.hostFlush (s : State) (t : TReg) (a b : XReg) (inv : Bool) : State :=
  let k := s.curN
  match s.twinStop k with
  | some s => s
  | none =>
    let n := (s.me.xr b).toNat
    if n = 0 then s.retire
    else
      match s.access k (s.me.tr t) .s (!inv) inv [(0, (s.me.xr a).toNat, n)] with
      | .hold w => s.setMe (s.me.waitS w)
      | .dead => s.retire
      | .live ps =>
        s.storesS .device (fun s =>
          let s := s.setMe (s.me.oox (anyOut ps))
          ((hostLines ps).foldl (fun s l => if inv then s.dropLine l else s.writeBackLine l) s).retire)

/-- FLUSHH (R204). -/
def execFlushh (_st : SStall) (t : TReg) (a b : XReg) (s : State) : Out := .next (s.hostFlush t a b false)

/-- INVH (R204). -/
def execInvh (_st : SStall) (t : TReg) (a b : XReg) (s : State) : Out := .next (s.hostFlush t a b true)

end Sys2Proof.Machine
end

