-- ==== Sys2Proof/Machine/CopyCmd.lean ====
section
/-! DEFINITION. The units of work of the copy engine's commands (R174-R182, R184, R188, R295). -/

namespace Sys2Proof.Machine

open Sys2Proof

/-- What a command notes of a read of scratchpad and the write through its token that follows: of a write that its token denies,
no byte has moved. -/
def Flight.noteOut (f : Flight) (r w : Met) : Flight := if w.denied then f.note w else (f.note r).note w

/-- COPY (R174): one unit of 512 bytes. -/
def State.copyUnit (s : State) (k : Nat) (out g : Bool) (ring : RingId) (off : BitVec 32) (spa len : BitVec 13) (j : Bool)
    (f : Flight) : Work :=
  let e := off.toNat + 512 * f.prog
  let a := 512 * spa.toNat + 512 * f.prog
  if out then
    let r := s.engGet k a 512
    match r.1.extPut k f.tok r.2.1 [(0, e, 512)] with
    | none => .hold s f
    | some (s, m) => unitDone s (f.noteOut r.2.2 m) len.toNat
  else
    match (if g then s.takeSlot k ring j f else some (s, f)) with
    | none => .hold s f
    | some (s, f) =>
      match s.extGet k f.tok 512 [(0, e, 512)] with
      | none => .hold s f
      | some (s, d, m) =>
        let w := s.deliver k g a d (f.note m)
        unitDone w.1 w.2 len.toNat

/-- The bytes a template moves (R176). -/
def Template.total (t : Template) : Nat := t.n2 * t.n1 * t.rowb

/-- The parts of rows that bytes `q` to `q + n - 1` of a template's order lie in: row, first byte in it, count. -/
def rowParts (rowb : Nat) : Nat → Nat → Nat → List (Nat × Nat × Nat)
  | 0, _, _ => []
  | fu + 1, q, n =>
    if n = 0 then []
    else
      let j := min n (rowb - q % rowb)
      (q / rowb, q % rowb, j) :: rowParts rowb fu (q + j) (n - j)

/-- An integer as an offset modulo 2^64 (R92, R176). -/
def off64 (i : Int) : Nat := wrapInt 64 i

/-- One part of a row of a template copy (R176): none while the token holds it. -/
def State.partUnit (s : State) (k : Nat) (t : Template) (pat : List Byte) (ed sd : Nat) (f : Flight) (p : Nat × Nat × Nat) :
    Option (State × Flight) :=
  if f.codes.denied then some (s, f)
  else
  let pl : Int := (p.1 / t.n1 : Nat)
  let ro : Int := (p.1 % t.n1 : Nat)
  let e0 := off64 ((t.eoff + 512 * ed : Nat) + pl * t.es2 + ro * t.es1)
  let a := off64 ((t.saddr + 512 * sd + p.2.1 : Nat) + pl * t.ss2 + ro * t.ss1)
  if t.d then
    let r := s.engGet k a p.2.2
    match r.1.extPut k f.tok r.2.1 [(0, e0 + p.2.1, p.2.2)] with
    | none => none
    | some (s, m) => some (s, f.noteOut r.2.2 m)
  else if t.gz then
    let z := patOut pat
    let j0 := p.2.1 / z
    let js := (List.range ((p.2.1 + p.2.2 - 1) / z + 1 - j0)).map (fun i => j0 + i)
    let rs := js.map (fun j => let b := gaugeBytes pat e0 j; (3 * (j - j0), b.1, b.2))
    match s.extGet k f.tok (3 * js.length) rs with
    | none => none
    | some (s, d, m) =>
      let u := js.flatMap (fun j => gaugeCont pat e0 j ((d.drop (3 * (j - j0))).take (gaugeBytes pat e0 j).2))
      some (s.deliver k t.g a ((u.drop (p.2.1 - z * j0)).take p.2.2) (f.note m))
  else
    match s.extGet k f.tok p.2.2 [(0, e0 + p.2.1, p.2.2)] with
    | none => none
    | some (s, d, m) => some (s.deliver k t.g a d (f.note m))

/-- COPYT and aperture copies (R176, R177): one unit of 512 bytes. -/
def State.copytUnit (s : State) (k : Nat) (ed : BitVec 19) (sd : BitVec 13) (f : Flight) : Work :=
  let t := templateOf f.tmpl
  let ring : RingId := BitVec.ofNat 5 t.gring
  match (if t.g then s.takeSlot k ring t.join f else some (s, f)) with
  | none => .hold s f
  | some (s, f) =>
    let q := 512 * f.prog
    let n := min 512 (t.total - q)
    match (rowParts t.rowb 513 q n).foldl (fun (x : Option (State × Flight)) p =>
        x.bind (fun x => x.1.partUnit k t f.pat ed.toNat sd.toNat x.2 p)) (some (s, f)) with
    | none => .hold s f
    | some (s, f) => unitDone s f ((t.total + 511) / 512)

/-- IMWIN (R178): one unit for each position. -/
def State.imwinUnit (s : State) (k : Nat) (off : BitVec 32) (spa : BitVec 13) (p : BitVec 10) (kw : BitVec 4) (sx : BitVec 2)
    (cg : BitVec 3) (f : Flight) : Work :=
  let cgb := 32 * 2 ^ cg.toNat
  let n := kw.toNat * cgb
  let e := off64 (sextNat 32 off.toNat + (f.prog * 2 ^ sx.toNat * cgb : Nat))
  match s.extGet k f.tok n [(0, e, n)] with
  | none => .hold s f
  | some (s, d, m) =>
    let w := s.deliver k false (512 * spa.toNat + f.prog * n) d (f.note m)
    unitDone w.1 w.2 p.toNat

/-- GATHER (R179): one unit for each row; a poisoned offset poisons its row (R156). -/
def State.gatherUnit (s : State) (k : Nat) (count : BitVec 10) (spa row : BitVec 13) (f : Flight) : Work :=
  let n := 64 * row.toNat
  let x := f.idx.getD f.prog (0, false)
  match s.extGet k f.tok n [(0, x.1, n)] with
  | none => .hold s f
  | some (s, d, m) =>
    let w := s.deliver k false (512 * spa.toNat + f.prog * n) (d.map (fun c => (c.1, c.2 || x.2))) (f.note m)
    unitDone w.1 w.2 (count.toNat + 1)

/-- SCATTER (R179): one unit for each row; a poisoned offset poisons what its row writes (R156). -/
def State.scatterUnit (s : State) (k : Nat) (count : BitVec 10) (spa row : BitVec 13) (f : Flight) : Work :=
  let n := 64 * row.toNat
  let x := f.idx.getD f.prog (0, false)
  let r := s.engGet k (512 * spa.toNat + f.prog * n) n
  match r.1.extPut k f.tok (r.2.1.map (fun c => (c.1, c.2 || x.2))) [(0, x.1, n)] with
  | none => .hold s f
  | some (s, m) => unitDone s (f.noteOut r.2.2 m) (count.toNat + 1)

/-- The 512 bytes of a unit of FILL (R180). -/
def fillBytes (w : BitVec 2) (v : BitVec 32) : List PByte :=
  let n := 2 ^ w.toNat
  clean ((List.range (512 / n)).flatMap (fun _ => leBytes n v.toNat))

/-- FILL (R180): one unit of 512 bytes. -/
def State.fillUnit (s : State) (k : Nat) (w : BitVec 2) (v : BitVec 32) (spa len : BitVec 13) (g : Bool) (ring : RingId)
    (f : Flight) : Work :=
  match (if g then s.takeSlot k ring false f else some (s, f)) with
  | none => .hold s f
  | some (s, f) =>
    let x := s.deliver k g (512 * spa.toNat + 512 * f.prog) (fillBytes w v) f
    unitDone x.1 x.2 len.toNat

/-- The permuted index of an element of a sketch of `n` (R295). -/
def sketchPm (n i : Nat) : Nat := i * 0x2F5B % n

/-- Whether the weight of row `j` is −1 at permuted index `p` (R295). -/
def sketchNeg (j p : Nat) : Bool :=
  if 1 ≤ j ∧ j ≤ 14 then p / 2 ^ (j - 1) % 2 == 1
  else if j = 15 then ((List.range 15).filter (fun b => p / 2 ^ b % 2 == 1)).length % 2 == 1
  else false

/-- Row `j` of the sketch of `n` values, as an FP32 encoding (R295). -/
def sketchRow (n : Nat) (xs : List FVal) (j : Nat) : Nat :=
  xs.zipIdx.foldl (fun acc x =>
    let v := if sketchNeg j (sketchPm n x.2) then x.1.neg else x.1
    Fmt.fp32.roundBits .rne false ((Fmt.fp32.decode acc).add v)) 0

/-- The 64 bytes of the sketch of values (R295); it depends on every element, so that one poisoned element poisons it. -/
def sketchBytes (n : Nat) (xs : List FVal) (p : Bool) : List PByte :=
  ((List.range 16).flatMap (fun j => leBytes 4 (sketchRow n xs j))).map (fun b => (b, p))

/-- SKETCH (R181): one unit. -/
def State.sketchUnit (s : State) (k : Nat) (et : ETy) (src : BitVec 12) (logn : BitVec 4) (dst : BitVec 16) (f : Flight) : Work :=
  match typeWith 0 et with
  | none => .fin s f
  | some t =>
    let n := 2 ^ logn.toNat
    let r := s.engGet k (1024 * src.toNat) (n * t.cont / 8)
    let bs := r.2.1.toArray
    let xs := (List.range n).map (fun i =>
      if t.cont = 4 then t.decode ((bs.getD (i / 2) (0, false)).1.toNat / 16 ^ (i % 2) % 16)
      else t.decode (leNat ((List.range (t.cont / 8)).map (fun b => (bs.getD (t.cont / 8 * i + b) (0, false)).1))))
    let w := r.1.engPut k (64 * dst.toNat) (sketchBytes n xs (anyPois r.2.1))
    .fin w.1 ((f.note r.2.2).note w.2)

/-- A scratchpad address of the sibling of a rank in the panel window; past its 4 MiB lies no range of it (R20, R182). -/
def windowAddr (rank : BitVec 4) (o : Nat) : Nat := if o < 0x400000 then 0x1000000 + 0x400000 * rank.toNat + o else 2 ^ 32

/-- PCOPY (R182): one unit of 512 bytes through the panel window; its writes are visible at panel scope as it completes. -/
def State.pcopyUnit (s : State) (k : Nat) (out : Bool) (rank : BitVec 4) (sib len own : BitVec 13) (f : Flight) : Work :=
  let b := windowAddr rank (512 * sib.toNat + 512 * f.prog)
  let a := 512 * own.toNat + 512 * f.prog
  let r := s.engGet k (if out then a else b) 512
  let w := r.1.engPut k (if out then b else a) r.2.1
  let f := (f.note r.2.2).note w.2
  unitDone (if f.prog + 1 < len.toNat then w.1 else w.1.toPanel k) f len.toNat

/-- CFLUSH (R184): one unit of 512 bytes of the range. -/
def State.cflushUnit (s : State) (k : Nat) (inv : Bool) (off len : BitVec 32) (f : Flight) : Work :=
  if len == 0#32 then .fin s f
  else
    let o := off.toNat + 512 * f.prog
    let n := min 512 (len.toNat - 512 * f.prog)
    let b : MaskBit := if inv then .cWrite else .cRead
    let no := (s.core k).denies f.tok b
    match s.access k f.tok b (!inv) inv [(0, o, n)] with
    | .hold _ => .hold s f
    | .dead => unitDone s (f.note { dead := true, denied := no }) ((len.toNat + 511) / 512)
    | .live ps =>
      if no then .fin s (f.note { denied := true })
      else
      let s := s.flush k
      let s := (hostLines ps).foldl (fun s l => if inv then s.dropLine l else s.writeBackLine l) s
      unitDone s (f.note { out := anyOut ps }) ((len.toNat + 511) / 512)

end Sys2Proof.Machine
end

