-- ==== Sys2Proof/Machine/MatrixCmd.lean ====
section
/-! DEFINITION. The units of work of the matrix engine's commands (R49, R50, R159-R171). -/

namespace Sys2Proof.Machine

open Sys2Proof

/-- The type of an operand of an MMA (R160, R161): from its entry, or from ET where the entry is NATIVE; none where it is
illegal at issue. -/
def operandType (e : Word) (et : ETy) (uns : Bool) : Option ElType :=
  match baseType e with
  | some t =>
    match t with
    | .int _ w => if w ≤ 8 then some t else none
    | .flt f => if 4 ≤ f.width ∧ f.width ≤ 16 then some t else none
  | none =>
    match et with
    | .si8 => some (.int (!uns) 8)
    | .si4 => some (.int (!uns) 4)
    | .fp16 => some (.flt .fp16)
    | .bf16 => some (.flt .bf16)
    | _ => none

/-- Where the scale plane of an operand of `n` elements lies in a slot, and its bytes (R159). -/
def planeOf (e : Word) (n : Nat) : Nat × Nat :=
  if fmtSfmt e = 0 then (0, 0) else (2 ^ fmtSplane e, (n / fmtBlock e) * (if fmtSfmt e = 2 then 2 else 1))

/-- The bytes of a slot that an operand of `n` elements and its scale plane reach to (R159). -/
def operandEnd (e : Word) (t : ElType) (n : Nat) : Nat :=
  let p := planeOf e n
  max (n * t.cont / 8) (p.1 + p.2)

/-- The bank of an MMAP in flight on a core (R161, R164). -/
def Core.mmapBank (c : Core) : Option (BitVec 2) :=
  match c.m.flight with
  | some f =>
    match f.cmd with
    | .mmap _ _ b .. => if f.st == .issued then some b else none
    | _ => none
  | none => none

/-- The core of rank 0 whose MMAP in flight uses the array of a sibling `k` (R164). -/
def State.mmapBy (s : State) (k : Nat) : Option Nat :=
  let b := (s.core k).panelBase k
  if b ≠ k ∧ (s.core b).mmapBank.isSome then some b else none

/-- The banks of core `k` that an MMAP in flight names (R161). -/
def State.mmapBanks (s : State) (k : Nat) : List (BitVec 2) := (s.core ((s.core k).panelBase k)).mmapBank.toList

/-- Whether an MMA or MMAP of `n` elements for each operand may issue on core `k` (R155, R159, R161, R164). -/
def State.mmaLegal (s : State) (k : Nat) (part : Bool) (bank : BitVec 2) (ar br : RingId) (t : Bool) (afmt bfmt : BitVec 4)
    (et : ETy) (ua ub : Bool) : Bool :=
  let c := s.core k
  let ea := c.fmtAt afmt.toNat
  let eb := c.fmtAt bfmt.toNat
  let ra := c.ring ar.toNat
  let rb := c.ring br.toNat
  let n := if part then 32768 else 16384
  match operandType ea et ua, operandType eb et ub with
  | some ta, some tb =>
    ta.cont == tb.cont && ar != br && ra.takesCopies && rb.takesCopies && !(t && fmtSfmt eb != 0)
      && decide (operandEnd ea ta n ≤ ra.slotBytes) && decide (operandEnd eb tb n ≤ rb.slotBytes)
      && !(s.mmapBanks k).contains bank
      && (!part || (c.panel.size == 4#5 && c.panel.rank == 0#4))
  | _, _ => false

/-- An operand's K-slab (R49, R159, R162): for each of its 128 rows (A) or columns (B) the values of its groups of 16, the
scale of each group, and whether poison marks it. -/
structure Slab where
  groups : List (List (List FVal))
  scales : List (List FVal)
  marks : List Bool

/-- A container of a slot's bytes (R30). -/
def slotEl (c : Nat) (bs : Array PByte) (n : Nat) : El :=
  if c = 4 then
    let b := bs.getD (n / 2) (0, false)
    (b.1.toNat / 16 ^ (n % 2) % 16, b.2)
  else if c = 8 then
    let b := bs.getD n (0, false)
    (b.1.toNat, b.2)
  else
    let b := bs.getD (2 * n) (0, false)
    let d := bs.getD (2 * n + 1) (0, false)
    (b.1.toNat + 256 * d.1.toNat, b.2 || d.2)

/-- The scale of the block of element `n` of a slot, and its poison (R159): every element has the scale of its block, wherever its own
bytes lie. -/
def slotScale (e : Word) (bs : Array PByte) (n : Nat) : FVal × Bool :=
  match scaleAt e n 0 with
  | none => (FVal.one, false)
  | some (a, z) =>
    let b := (List.range z).map (fun i => bs.getD (a + i) (0, false))
    (scaleValue e (leNat (plain b)), anyPois b)

/-- Read an operand: element `k` of line `l` has index `idx l k`; values at or beyond `kv` read as +0 (R162). -/
def slabOf (e : Word) (t : ElType) (bs : Array PByte) (kv : Nat) (idx : Nat → Nat → Nat) : Slab :=
  let gs := List.range ((kv + 15) / 16)
  let lines := List.range 128
  { groups := lines.map (fun l => gs.map (fun g => (List.range 16).map (fun j =>
      let k := 16 * g + j
      if k < kv then t.decode (slotEl t.cont bs (idx l k)).1 else FVal.zero)))
    scales := lines.map (fun l => gs.map (fun g => (slotScale e bs (idx l (16 * g))).1))
    marks := lines.map (fun l => (List.range 128).any (fun k =>
      (slotEl t.cont bs (idx l k)).2 || (slotScale e bs (idx l k)).2)) }

/-- The exact sum of a group's products (R49, R50). -/
def groupSum (a b : List FVal) : FVal := exactSum (a.zipWith FVal.mul b)

/-- A group's term before rounding: S × ScaleA × ScaleB (R49, R165). -/
def groupTerm (a b : List FVal) (sa sb : FVal) : FVal := ((groupSum a b).mul sa).mul sb

/-- A group's term of magnitudes (R165). -/
def groupMag (a b : List FVal) (sa sb : FVal) : FVal :=
  ((exactSum ((a.zipWith FVal.mul b).map FVal.abs)).mul sa.abs).mul sb.abs

/-- Read an operand of `n` elements and its scale plane from a slot of `size` bytes at `a` (R159): no other byte is read. -/
def State.readOperand (s : State) (k : Nat) (e : Word) (t : ElType) (n a size : Nat) : State × Array PByte × Met :=
  let d := s.engGet k a (n * t.cont / 8)
  let p := planeOf e n
  let x := d.1.engGet k (a + p.1) p.2
  let m := Sparse.putList ((0 : Byte), false) (Sparse.putList (0, false) [] 0 d.2.1) p.1 x.2.1
  let y := d.2.2
  let z := x.2.2
  (x.1, (Sparse.getList (0, false) m 0 size).toArray,
    { out := y.out || z.out, check := y.check || z.check, poison := y.poison || z.poison })

/-- The terms of element (i, j) for each group, by a function of a group (R49). -/
def elemTerms (f : List FVal → List FVal → FVal → FVal → FVal) (a b : List (List FVal)) (sa sb : List FVal) : List FVal :=
  ((a.zip b).zip (sa.zip sb)).map (fun x => f x.1.1 x.1.2 x.2.1 x.2.2)

/-- The terms of all elements: rows of columns of groups. -/
def allTerms (f : List FVal → List FVal → FVal → FVal → FVal) (x y : Slab) : List (List (List FVal)) :=
  (x.groups.zip x.scales).map (fun r => (y.groups.zip y.scales).map (fun c => elemTerms f r.1 c.1 r.2 c.2))

/-- An FP32 accumulator takes a term: the term rounded, then the sum rounded (R49). -/
def accTerm (acc : Nat) (t : FVal) : Nat :=
  Fmt.fp32.roundBits .rne false ((Fmt.fp32.decode acc).add (Fmt.fp32.decode (Fmt.fp32.roundBits .rne false t)))

/-- A checksum value takes a group's exact sum (R165). -/
def chkTerm (v : Word32) (ts : List FVal) : Word32 :=
  BitVec.ofNat 32 (Fmt.fp32.roundBits .rne false ((Fmt.fp32.decode v.toNat).add (exactSum ts)))

/-- Checksum values of the rows after the groups of a slab (R165): for each row, its terms by column and group. -/
def chkRows (m : Sparse Word32) (ts : List (List (List FVal))) : Sparse Word32 :=
  ts.zipIdx.foldl (fun m r =>
    let n := (r.1.headD []).length
    let v := (List.range n).foldl (fun v g => chkTerm v (r.1.map (fun c => c.getD g FVal.zero))) (Sparse.get 0 m r.2)
    Sparse.put 0 m r.2 v) m

/-- Rows to columns. -/
def transposed (ts : List (List (List FVal))) : List (List (List FVal)) :=
  (List.range 128).map (fun j => ts.map (fun r => r.getD j []))

/-- The elements of a bank. -/
def MCore.bank (m : MCore) (b : Nat) : List Word32 := Sparse.getList 0 m.acc (16384 * b) 16384

/-- Replace the elements of a bank. -/
def MCore.setBank (m : MCore) (b : Nat) (es : List Word32) : MCore := { m with acc := Sparse.putList 0 m.acc (16384 * b) es }

/-- The checksum state of a bank (R165). -/
def MCore.chkOf (m : MCore) (b : Nat) : Chk := Sparse.get {} m.chk b

/-- Replace the checksum state of a bank. -/
def MCore.setChk (m : MCore) (b : Nat) (c : Chk) : MCore := { m with chk := Sparse.put {} m.chk b c }

/-- Mark rows and columns of a bank (R162). -/
def MCore.mark (m : MCore) (b : Nat) (rows cols : List Bool) : MCore :=
  { m with
    rowMarks := Sparse.put 0 m.rowMarks b (Sparse.get 0 m.rowMarks b ||| ofBits 128 rows)
    colMarks := Sparse.put 0 m.colMarks b (Sparse.get 0 m.colMarks b ||| ofBits 128 cols) }

/-- Clear the marks of a bank (R162). -/
def MCore.unmark (m : MCore) (b : Nat) : MCore :=
  { m with rowMarks := Sparse.put 0 m.rowMarks b 0, colMarks := Sparse.put 0 m.colMarks b 0 }

/-- MZERO (R167), and what Z = 1 does with CK = 1. -/
def MCore.clear (m : MCore) (b : Nat) : MCore :=
  ((m.setBank b (List.replicate 16384 0)).unmark b).setChk b { valid := true }

/-- A bank as an MMA with Z and CK begins (R162, R165). -/
def MCore.begin (m : MCore) (b : Nat) (z ck : Bool) : MCore :=
  let m := if z then m.clear b else m
  if ck then m else m.setChk b {}

/-- A bank after a K-slab (R49, R162, R165). -/
def MCore.slab (m : MCore) (b : Nat) (ck : Bool) (x y : Slab) : MCore :=
  let ts := allTerms groupTerm x y
  let old := (m.bank b).toArray
  let new := ts.zipIdx.flatMap (fun r => r.1.zipIdx.map (fun c =>
    BitVec.ofNat 32 (c.1.foldl accTerm (old.getD (128 * r.2 + c.2) 0).toNat)))
  let k := m.chkOf b
  let m := (m.setBank b new).mark b x.marks y.marks
  if ck && k.valid then
    let ms := allTerms groupMag x y
    let k' : Chk :=
      { valid := true
        pr := chkRows k.pr ts
        mr := chkRows k.mr ms
        pc := chkRows k.pc (transposed ts)
        mc := chkRows k.mc (transposed ms) }
    m.setChk b k'
  else m

/-- Whether an array of core `j` runs a command that has issued: its own, or one taken from a sibling (R164, R185). -/
def State.arrayBusy (s : State) (j : Nat) : Bool :=
  (s.core j).m.flight.any (fun f => f.st != .decoded)
    || ((s.core j).panelCores j).any (fun i => (s.core i).m.taken.any (fun f => f.taker == some j))

/-- The sibling arrays that an MMAP of core `k` uses take their quadrants as they come free (R164). -/
def State.mmapJoin (s : State) (k : Nat) : State :=
  [1, 2, 3].foldl (fun s r =>
    let j := (s.core k).sibling k r
    if (s.core j).m.mmapOf.isNone && !s.arrayBusy j then s.onCore j (fun c => c.onM (fun m => { m with mmapOf := some k }))
    else s) s

/-- Whether every sibling array has its quadrant. -/
def State.mmapReady (s : State) (k : Nat) : Bool :=
  [1, 2, 3].all (fun r => (s.core ((s.core k).sibling k r)).m.mmapOf == some k)

/-- The arrays of an MMAP are free again as it retires (R164). -/
def State.mmapLeave (s : State) (k : Nat) : State :=
  [1, 2, 3].foldl (fun s r => s.onCore ((s.core k).sibling k r) (fun c => c.onM (fun m => { m with mmapOf := none }))) s

/-- The quadrants of an MMA or MMAP: core, first row, first column (R164). -/
def State.quads (s : State) (k : Nat) (part : Bool) : List (Nat × Nat × Nat) :=
  if part then (List.range 4).map (fun r => ((s.core k).sibling k r, 128 * (r / 2), 128 * (r % 2)))
  else [(k, 0, 0)]

/-- An MMA or MMAP awaits a slot of one of its rings (R162, R226, R228). -/
def State.slabAwait (s : State) (k : Nat) (n : RingId) (f : Flight) : Option (State × Nat × Flight) :=
  if !s.mayAwaitSlot k n .m then none
  else
    let q := ((s.core k).ring n.toNat).await
    let f := if ((s.core k).ring n.toNat).errOf q.2 then { f with codes := { f.codes with overrun := true } } else f
    some (s.onCore k (fun c => c.setRing n.toNat q.1), q.2, f)

/-- MMA and MMAP (R162, R164): unit 0 clears, each later slab takes its A slot, then its B slot (R228), and computes; both slots
are released as it retires (R163). -/
def State.mmaUnit (s : State) (k : Nat) (part : Bool) (bank : BitVec 2) (z : Bool) (ar br : RingId) (t : Bool)
    (nslab : BitVec 8) (klast : BitVec 7) (et : ETy) (ua ub ck : Bool) (f : Flight) : Work :=
  let s := if part then s.mmapJoin k else s
  if part && !s.mmapReady k then .hold s f
  else if f.prog = 0 then
    .more ((s.quads k part).foldl (fun s q => s.onCore q.1 (fun c => c.onM (fun m => m.begin bank.toNat z ck))) s) f.next
  else
    match f.slotA, f.slotB with
    | none, _ =>
      match s.slabAwait k ar f with
      | none => .hold s f
      | some (s, i, f) => .more s { f with slotA := some i }
    | some _, none =>
      match s.slabAwait k br f with
      | none => .hold s f
      | some (s, i, f) => .more s { f with slotB := some i }
    | some ia, some ib =>
      let c := s.core k
      let ra := c.ring ar.toNat
      let rb := c.ring br.toNat
      let kv := if f.prog = nslab.toNat ∧ klast ≠ 0#7 then klast.toNat else 128
      let n := if part then 32768 else 16384
      match operandType f.fmtA et ua, operandType f.fmtB et ub with
      | some ta, some tb =>
        let xa := s.readOperand k f.fmtA ta n (ra.slotAddr ia) ra.slotBytes
        let xb := xa.1.readOperand k f.fmtB tb n (rb.slotAddr ib) rb.slotBytes
        let w := if part then 256 else 128
        let s := (s.quads k part).foldl (fun s q =>
          let x := slabOf f.fmtA ta xa.2.1 kv (fun l k => (q.2.1 + l) * 128 + k)
          let y := slabOf f.fmtB tb xb.2.1 kv (fun l k => if t then k * w + (q.2.2 + l) else (q.2.2 + l) * 128 + k)
          s.onCore q.1 (fun c => c.onM (fun m => m.slab bank.toNat ck x y))) xb.1
        let s := s.onCore k (fun c => (c.onRing ar.toNat StageRing.release).onRing br.toNat StageRing.release)
        let f := { (f.note xa.2.2).note xb.2.2 with slotA := none, slotB := none }
        if f.prog < nslab.toNat then .more s f.next else .fin (if part then s.mmapLeave k else s) f.next
      | _, _ => .fin s f

/-- MZERO (R167). -/
def State.mzeroUnit (s : State) (k : Nat) (bank : BitVec 2) (f : Flight) : Work :=
  .fin (s.onCore k (fun c => c.onM (fun m => m.clear bank.toNat))) f.next

/-- The FP32 value of an accumulator. -/
def accVal (w : Word32) : FVal := Fmt.fp32.decode w.toNat

/-- The container MDRAIN writes for an accumulator (R168): the chain of R47 for FP16, BF16 and FX where the scale is
not 1.0, else one rounding. -/
def drainEl (t : ElType) (r : Round) (sat : Bool) (scale : BitVec 16) (a : Word32) : Nat :=
  let x := (accVal a).mul (Fmt.fp16.decode scale.toNat)
  let chain : Bool := match t with
    | .int .. => false
    | .flt f => f != .fp32 && scale != 0x3C00#16
  t.encode r sat (if chain then Fmt.fp32.decode (Fmt.fp32.roundBits .rto false x) else x)

/-- MDRAIN (R168, R169). -/
def State.mdrainUnit (s : State) (k : Nat) (bank : BitVec 2) (ot : ETy) (r : Round) (sk sat : Bool) (scale : BitVec 16)
    (dest : BitVec 12) (f : Flight) : Work :=
  match typeWith f.fmtA ot with
  | none => .fin s f
  | some t =>
    let m := (s.core k).m
    let rows := Sparse.get 0 m.rowMarks bank.toNat
    let cols := Sparse.get 0 m.colMarks bank.toNat
    let es := (m.bank bank.toNat).zipIdx.map (fun e =>
      (drainEl t r sat scale e.1, rows.getLsbD (e.2 / 128) || cols.getLsbD (e.2 % 128)))
    let p := rows != 0 || cols != 0
    let d := contBytes t.cont es
    let d := if sk then d ++ sketchBytes 16384 (es.map (fun e => t.decode e.1)) p else d
    let w := s.engPut k (1024 * dest.toNat) d
    .fin w.1 (((f.note { poison := p }).note w.2).next)

/-- MLDACC (R170). -/
def State.mldaccUnit (s : State) (k : Nat) (bank : BitVec 2) (it : ETy) (src : BitVec 12) (f : Flight) : Work :=
  match typeWith f.fmtA it with
  | none => .fin s f
  | some t =>
    let r := s.engGet k (1024 * src.toNat) (2048 * t.cont)
    let bs := r.2.1.toArray
    let es := (List.range 16384).map (fun n =>
      let e : El := if t.cont = 32 then
          (leNat ((List.range 4).map (fun b => (bs.getD (4 * n + b) (0, false)).1)), false)
        else slotEl t.cont bs n
      BitVec.ofNat 32 (if it = .fp32 then e.1 else convert t (.flt .fp32) .rne false e.1))
    let row := 16 * t.cont
    let marks := (List.range 128).map (fun i => (List.range row).any (fun b => (bs.getD (row * i + b) (0, false)).2))
    let s := r.1.onCore k (fun c => c.onM (fun m =>
      (((m.setBank bank.toNat es).unmark bank.toNat).mark bank.toNat marks []).setChk bank.toNat {}))
    .fin s ((f.note r.2.2).next)

/-- MFMT (R38, R171): the entry read and found valid at issue is written, and nothing where a byte of it was poisoned. -/
def State.mfmtUnit (s : State) (k : Nat) (entry : BitVec 4) (f : Flight) : Work :=
  if f.codes.poison then .fin s f.next
  else .fin (s.onCore k (fun c => { c with fmt := Sparse.put 0 c.fmt entry.toNat f.fmtA })) f.next

/-- A row or column of MCHK: none where it is unchecked, else whether it matches (R166). -/
def lineCheck (valid : Bool) (es : List Word32) (pr mr : Word32) : Option Bool :=
  let vs := es.map accVal
  if !valid || vs.any (fun v => !v.isFin) || !(accVal pr).isFin || !(accVal mr).isFin then none
  else
    let rs := Fmt.fp32.decode (Fmt.fp32.roundBits .rne false (exactSum vs))
    some ((rs.sub (accVal pr)).abs.cmp ((accVal mr).mul (.fin false 1 (-12))) != some .gt)

/-- The counts of a list of checks: mismatched, unchecked, the first mismatched or 0xFFFF (R166). -/
def lineCounts (ls : List (Option Bool)) : Nat × Nat × Nat :=
  ((ls.filter (fun l => l == some false)).length, (ls.filter (fun l => l == none)).length,
    match ls.findIdx? (fun l => l == some false) with
    | some i => i
    | none => 0xFFFF)

/-- MCHK (R166): the report; a mismatch is reported to the Bench and the core is tested ahead of its turn (R409). -/
def State.mchkUnit (s : State) (k : Nat) (bank : BitVec 2) (rep : BitVec 22) (f : Flight) : Work :=
  let m := (s.core k).m
  let es := (m.bank bank.toNat).toArray
  let c := m.chkOf bank.toNat
  let at_ (i j : Nat) : Word32 := es.getD (128 * i + j) 0
  let rows := (List.range 128).map (fun i =>
    lineCheck c.valid ((List.range 128).map (fun j => at_ i j)) (Sparse.get 0 c.pr i) (Sparse.get 0 c.mr i))
  let cols := (List.range 128).map (fun j =>
    lineCheck c.valid ((List.range 128).map (fun i => at_ i j)) (Sparse.get 0 c.pc j) (Sparse.get 0 c.mc j))
  let r := lineCounts rows
  let q := lineCounts cols
  let d := leBytes 2 r.1 ++ leBytes 2 q.1 ++ leBytes 2 r.2.1 ++ leBytes 2 q.2.1 ++ leBytes 2 r.2.2 ++ leBytes 2 q.2.2 ++ leBytes 4 0
  let w := s.engPut k rep.toNat (clean d)
  let f := (f.note w.2).next
  if r.1 = 0 ∧ q.1 = 0 then .fin w.1 f
  else
    let s := w.1.tell (.chksum k)
    .fin { s with integ := { s.integ with ahead := s.integ.ahead ++ [k] } } { f with codes := { f.codes with chksum := true } }

end Sys2Proof.Machine
end

