-- ==== Sys2Proof/Machine/Engine.lean ====
section
/-! DEFINITION. Issue, performing, completion and failure of engine commands, and the commands of the M and C rings
(R154-R158, R172, R173, R185, R221). -/

namespace Sys2Proof.Machine

open Sys2Proof

/-- The command in flight of an engine. -/
def Core.flight (c : Core) : EngineSel → Option Flight
  | .m => c.m.flight
  | .c => c.c.flight

/-- Replace the command in flight of an engine. -/
def Core.setFlight (c : Core) (e : EngineSel) (f : Option Flight) : Core :=
  match e with
  | .m => c.onM (fun m => { m with flight := f })
  | .c => c.onC (fun t => { t with flight := f })

/-- The commands that siblings have taken from a ring and that are not complete (R185). -/
def Core.takenOf (c : Core) : EngineSel → List Flight
  | .m => c.m.taken
  | .c => c.c.taken

/-- Replace them. -/
def Core.setTaken (c : Core) (e : EngineSel) (l : List Flight) : Core :=
  match e with
  | .m => c.onM (fun m => { m with taken := l })
  | .c => c.onC (fun t => { t with taken := l })

/-- The stream of an engine. -/
def agentOfEngine : EngineSel → Agent
  | .m => .m
  | .c => .c

/-- A completion word (R157), written and visible before SS is raised; below a base of 0x100 it is dropped (R21). -/
def State.report (s : State) (k : Nat) (e : EngineSel) (code op : Nat) (reloc : Bool) (addr : Nat) (ss : SemId) : State :=
  let b := ((s.core k).engine (ringOf e)).base
  if b < 0x100 then s.onCore k (fun c => c.oox true)
  else
    let w := code * 2 ^ 28 + op % 32 * 2 ^ 23 + (if reloc then 2 ^ 22 else 0) + addr % 2 ^ 22
    (s.engPut k (b - 0x100 + 4 * ss.toNat) (clean (leBytes 4 w))).1

/-- The outcome of an illegal command (R70, R155): its completion word, SS raised with the error flag, the engine stopped
and ENGINE_ERROR pending. -/
def State.illegalCmd (s : State) (k : Nat) (e : EngineSel) (op : Nat) (ss : SemId) : State :=
  let g := (s.core k).engine (ringOf e)
  let s := s.report k e 1 op false (g.addrOf g.rp) ss
  s.onCore k (fun c => (c.raise ss true).stopEngine (ringOf e))

/-- The token register a command names (R158, R174-R184). -/
def tokenOf (tmpl : List Byte) : Instr → Option TReg
  | .copy _ _ _ _ t .. => some t
  | .copyt .. => some (BitVec.ofNat 5 (templateOf tmpl).tk)
  | .imwin _ _ _ t .. => some t
  | .gather _ _ _ t .. => some t
  | .scatter _ _ _ t .. => some t
  | .cflush _ _ t .. => some t
  | _ => none

/-- The row offsets of a GATHER or SCATTER, read at issue (R179). -/
def State.readIdx (s : State) (k : Nat) (count : BitVec 10) (idxa : BitVec 22) (f : Flight) : State × Flight :=
  let n := count.toNat + 1
  let r := s.engGet k idxa.toNat (4 * n)
  let idx := (List.range n).map (fun i =>
    let b := (r.2.1.drop (4 * i)).take 4
    (leNat (plain b), anyPois b))
  (r.1, { f.note r.2.2 with idx := idx })

/-- Whether an FX format that MDRAIN or MLDACC names is one (R168, R170). -/
def fxLegal (e : Word) (t : ETy) : Bool := t != .fx || fmtBase e == 1

/-- A command issues (R154, R155): what it reads at issue; none where it is illegal at issue. -/
def State.issueCmd (s : State) (k : Nat) (f : Flight) : Option (State × Flight) :=
  let c := s.core k
  match f.cmd with
  | .mma _ _ _ bank _ ar br t _ _ afmt bfmt et ua ub _ =>
    if s.mmaLegal k false bank ar br t afmt bfmt et ua ub then
      some (s, { f with fmtA := c.fmtAt afmt.toNat, fmtB := c.fmtAt bfmt.toNat })
    else none
  | .mmap _ _ bank _ ar br t _ _ afmt bfmt et ua ub _ =>
    if s.mmaLegal k true bank ar br t afmt bfmt et ua ub then
      some (s, { f with fmtA := c.fmtAt afmt.toNat, fmtB := c.fmtAt bfmt.toNat })
    else none
  | .mdrain _ _ _ _ ot _ _ _ _ _ xf =>
    if fxLegal (c.fmtAt xf.toNat) ot then some (s, { f with fmtA := c.fmtAt xf.toNat }) else none
  | .mldacc _ _ _ _ it _ xf =>
    if fxLegal (c.fmtAt xf.toNat) it then some (s, { f with fmtA := c.fmtAt xf.toNat }) else none
  | .mfmt _ _ _ src =>
    let r := s.engGet k src.toNat 8
    let e := word (leNat (plain r.2.1))
    if fmtValid e then some (r.1, { f.note r.2.2 with fmtA := e }) else none
  | .copy _ _ _ _ _ g ring .. =>
    if g && !(c.ring ring.toNat).takesCopies then none else some (s, f)
  | .copyt _ _ _ tm .. =>
    let b := c.template tm.toNat
    let t := templateOf b
    if !templateValid b || (t.g && !(c.ring t.gring).takesCopies) then none
    else some (s, { f with tmpl := b, pat := c.gauge t.pat })
  | .fill _ _ _ _ _ _ _ g ring =>
    if g && !(c.ring ring.toNat).takesCopies then none else some (s, f)
  | .gather _ _ _ _ count idxa .. => some (s.readIdx k count idxa f)
  | .scatter _ _ _ _ count idxa .. => some (s.readIdx k count idxa f)
  | .dvopen _ _ ch dev win => some (s.dvopenIssue k ch dev win f)
  | .dvw _ _ ch woff spa len => s.dvwIssue k ch woff spa len f
  | .dvrel _ _ ch woff flag => some (s.pendIssue k ch (.rel woff.toNat flag) f)
  | .dvshut _ _ ch => some (s.pendIssue k ch .shut f)
  | _ => some (s, f)

/-- The token of a command is read at issue and held (R18, R158). -/
def State.readTok (s : State) (k : Nat) (f : Flight) : State × Flight :=
  match tokenOf f.tmpl f.cmd with
  | none => (s, f)
  | some t =>
    let tok := (s.core k).tr t
    let m := (s.core k).mteOf tok
    (s.hold k tok, { f with tok := tok, codes := { f.codes with dead := f.codes.dead || m.st == .dead } })

/-- Whether a command is a Dovetail command, which twin runs exclude (R284). -/
def isDovetail (i : Instr) : Bool := (dvChan i).isSome

/-- MSYNC and CSYNC wait for the commands that siblings have taken (R173, R234). -/
def State.syncUnit (s : State) (k : Nat) (e : EngineSel) (f : Flight) : Work :=
  if ((s.core k).takenOf e).isEmpty then .fin s f else .hold s f

/-- One unit of a command's work (R188). -/
def State.performCmd (s : State) (k : Nat) (f : Flight) : Work :=
  match f.cmd with
  | .msync .. => s.syncUnit k .m f
  | .mma _ _ _ bank z ar br t nslab klast _ _ et ua ub ck => s.mmaUnit k false bank z ar br t nslab klast et ua ub ck f
  | .mmap _ _ bank z ar br t nslab klast _ _ et ua ub ck => s.mmaUnit k true bank z ar br t nslab klast et ua ub ck f
  | .mzero _ _ _ bank => s.mzeroUnit k bank f
  | .mdrain _ _ _ bank ot r sk sat scale dest _ => s.mdrainUnit k bank ot r sk sat scale dest f
  | .mldacc _ _ _ bank it src _ => s.mldaccUnit k bank it src f
  | .mfmt _ _ entry _ => s.mfmtUnit k entry f
  | .mchk _ _ bank rep => s.mchkUnit k bank rep f
  | .csync .. => s.syncUnit k .c f
  | .copy _ _ _ out _ g ring off spa len j => s.copyUnit k out g ring off spa len j f
  | .copyt _ _ _ _ ed sd => s.copytUnit k ed sd f
  | .imwin _ _ _ _ off spa p kw sx cg => s.imwinUnit k off spa p kw sx cg f
  | .gather _ _ _ _ count _ spa row => s.gatherUnit k count spa row f
  | .scatter _ _ _ _ count _ spa row => s.scatterUnit k count spa row f
  | .fill _ _ _ w v spa len g ring => s.fillUnit k w v spa len g ring f
  | .sketch _ _ _ et src logn dst => s.sketchUnit k et src logn dst f
  | .pcopy _ _ out rank sib len own => s.pcopyUnit k out rank sib len own f
  | .dvopen _ _ ch _ _ => s.chanWait k ch f
  | .dvw _ _ ch woff spa len => s.dvwUnit k ch woff spa len f
  | .dvrel _ _ ch _ _ => s.chanWait k ch f
  | .dvshut _ _ ch => s.chanWait k ch f
  | .cflush _ _ _ inv off len => s.cflushUnit k inv off len f
  | _ => .fin s f

/-- The bytes that a filling command moves (R174, R176). -/
def Flight.bytes (f : Flight) : Nat :=
  match f.cmd with
  | .copy _ _ _ _ _ _ _ _ _ len _ => 512 * len.toNat
  | .copyt .. => (templateOf f.tmpl).total
  | _ => 0

/-- What every completing copy leaves behind (R156, R158, R221, R226, R353): its token, the SST flags, the event of a
discarded store, its slot. -/
def State.leaveCmd (s : State) (k : Nat) (f : Flight) : State :=
  let code := f.codes.first
  let gang := ((s.core k).mteOf f.tok).gang
  let s := s.release k f.tok
  let s := s.onCore k (fun c => (c.oox f.oox).dscw f.dscw)
  let s := match f.dscVa with
    | some va => s.tell (.discardedStore gang k va)
    | none => s
  match f.slot with
  | none => s
  | some (n, i) =>
    s.onCore k (fun c => c.onRing n.toNat (fun r =>
      r.detach i (f.lost + (if f.codes.denied then f.bytes - 512 * f.prog else 0)) (code != 0 || f.err)))

/-- The E field of a synchronising command (R173); none for any other. -/
def syncOf : Instr → Option Bool
  | .msync _ _ e => some e
  | .csync _ _ e => some e
  | _ => none

/-- The words of a command. -/
def cmdWords (e : EngineSel) (i : Instr) : Nat := (lengthOf e (opOf i)).getD 2

/-- The read pointer of an engine passes a command (R151, R172). -/
def Core.passCmd (c : Core) (e : EngineSel) (i : Instr) : Core :=
  c.setEngine (ringOf e) ((c.engine (ringOf e)).advance (cmdWords e i))

/-- A synchronising command is passed as it completes, and ends its program with E unless an iteration is to follow (R78,
R172, R173). -/
def Core.passSync (c : Core) (e : EngineSel) (i : Instr) : Core :=
  match syncOf i with
  | none => c
  | some x =>
    let inner := (c.engine (ringOf e)).inner
    let c := c.passCmd e i
    if x && !inner then c.endEngine (ringOf e) .ended else c

/-- A command completes (R154, R156, R157, R221). -/
def State.completeCmd (s : State) (k : Nat) (e : EngineSel) (f : Flight) : State :=
  let code := f.codes.first
  let ss := (semsOf f.cmd).2
  let s := s.leaveCmd k f
  let s := if code = 0 then s else s.report k e code (opOf f.cmd) f.taker.isSome f.addr ss
  s.onCore k (fun c => (c.raise ss (code != 0 || f.err)).passSync e f.cmd)

/-- A command awaits WS and issues (R154, R198, R221): held, illegal at issue, or issued; the read pointer passes it
as it issues, or as it completes where it is a synchronising command. -/
def State.beginCmd (s : State) (k : Nat) (e : EngineSel) (f : Flight) : Work :=
  let ws := (semsOf f.cmd).1
  let g := agentOfEngine e
  if ws ≠ 0#6 ∧ !(s.core k).mayAwait ws g then .hold (s.onCore k (fun c => c.beginWait ws g)) f
  else if s.chanHeld k f.cmd then .hold s f
  else
    match (if isDovetail f.cmd then s.twinStop k else none) with
    | some s => .hold s f
    | none =>
      let a := if ws = 0#6 then (s.core k, false) else (s.core k).await ws g true
      let s := s.setCore k a.1
      let f := { f with err := a.2 }
      match s.issueCmd k f with
      | none => .more s { f with st := .done, codes := { f.codes with illegal := true } }
      | some (s, f) =>
        let r := s.readTok k f
        let s := if (syncOf f.cmd).isSome then r.1 else r.1.onCore k (fun c => c.passCmd e f.cmd)
        .more s { r.2 with st := .issued }

/-- The next phase or unit of a command on core `k` (R154): `fin` once it is complete. -/
def State.phaseCmd (s : State) (k : Nat) (e : EngineSel) (f : Flight) : Work :=
  match f.st with
  | .decoded => s.beginCmd k e f
  | .issued =>
    match s.performCmd k f with
    | .hold s f => .hold s f
    | .more s f => .more s f
    | .fin s f => .more s { f with st := .done }
  | .done =>
    if f.codes.illegal then .fin (s.illegalCmd k e (opOf f.cmd) (semsOf f.cmd).2) f
    else .fin (s.completeCmd k e f) f

/-- A command runs for at most `n` phases and units; none once it is complete. -/
def State.runCmd : Nat → State → Nat → EngineSel → Flight → State × Option Flight
  | 0, s, _, _, f => (s, some f)
  | n + 1, s, k, e, f =>
    match s.phaseCmd k e f with
    | .hold s f => (s, some f)
    | .more s f => State.runCmd n s k e f
    | .fin s _ => (s, none)

/-- The command at the read pointer of an engine, decoded. -/
def Core.newFlight (c : Core) (e : EngineSel) (i : Instr) : Flight :=
  let g := c.engine (ringOf e)
  { cmd := i, addr := g.addrOf g.rp }

/-- The engine of the current core goes on with its command in flight, or takes `i`. -/
def State.command (s : State) (e : EngineSel) (i : Instr) : State :=
  let k := s.curN
  let f := (s.me.flight e).getD (s.me.newFlight e i)
  let r := State.runCmd s.budget (s.setMe (s.me.setFlight e (some f))) k e f
  r.1.onCore k (fun c => c.setFlight e r.2)

/-- MLOOP and CLOOP (R151, R172). -/
def State.loopCommand (s : State) (e : EngineSel) (i : Instr) (len count : Nat) : State :=
  match (s.me.engine (ringOf e)).beginLoop 2 len count with
  | none => s.illegalCmd s.curN e (opOf i) 0#6
  | some g => s.setMe (s.me.setEngine (ringOf e) g)

/-- MSYNC (R173). -/
def execMsync (ws ss : SemId) (e : Bool) (s : State) : Out :=
  .next (s.command .m (.msync ws ss e))

/-- MMA (R162). -/
def execMma (ws ss : SemId) (rl : Bool) (bank : BitVec 2) (z : Bool) (ar br : RingId) (t : Bool) (nslab : BitVec 8) (klast : BitVec 7) (afmt bfmt : BitVec 4) (et : ETy) (ua ub ck : Bool) (s : State) : Out :=
  .next (s.command .m (.mma ws ss rl bank z ar br t nslab klast afmt bfmt et ua ub ck))

/-- MMAP (R164). -/
def execMmap (ws ss : SemId) (bank : BitVec 2) (z : Bool) (ar br : RingId) (t : Bool) (nslab : BitVec 8) (klast : BitVec 7) (afmt bfmt : BitVec 4) (et : ETy) (ua ub ck : Bool) (s : State) : Out :=
  .next (s.command .m (.mmap ws ss bank z ar br t nslab klast afmt bfmt et ua ub ck))

/-- MZERO (R167). -/
def execMzero (ws ss : SemId) (rl : Bool) (bank : BitVec 2) (s : State) : Out :=
  .next (s.command .m (.mzero ws ss rl bank))

/-- MDRAIN (R168, R169). -/
def execMdrain (ws ss : SemId) (rl : Bool) (bank : BitVec 2) (ot : ETy) (r : Round) (sk sat : Bool) (scale : BitVec 16) (dest : BitVec 12) (xf : BitVec 4) (s : State) : Out :=
  .next (s.command .m (.mdrain ws ss rl bank ot r sk sat scale dest xf))

/-- MLDACC (R170). -/
def execMldacc (ws ss : SemId) (rl : Bool) (bank : BitVec 2) (it : ETy) (src : BitVec 12) (xf : BitVec 4) (s : State) : Out :=
  .next (s.command .m (.mldacc ws ss rl bank it src xf))

/-- MFMT (R171). -/
def execMfmt (ws ss : SemId) (entry : BitVec 4) (src : BitVec 22) (s : State) : Out :=
  .next (s.command .m (.mfmt ws ss entry src))

/-- MCHK (R166). -/
def execMchk (ws ss : SemId) (bank : BitVec 2) (rep : BitVec 22) (s : State) : Out :=
  .next (s.command .m (.mchk ws ss bank rep))

/-- CSYNC (R173). -/
def execCsync (ws ss : SemId) (e : Bool) (s : State) : Out :=
  .next (s.command .c (.csync ws ss e))

/-- COPY (R174). -/
def execCopy (ws ss : SemId) (rl out : Bool) (t : TReg) (g : Bool) (ring : RingId) (off : BitVec 32) (spa len : BitVec 13) (j : Bool) (s : State) : Out :=
  .next (s.command .c (.copy ws ss rl out t g ring off spa len j))

/-- COPYT (R176). -/
def execCopyt (ws ss : SemId) (rl : Bool) (tm : BitVec 6) (ed : BitVec 19) (sd : BitVec 13) (s : State) : Out :=
  .next (s.command .c (.copyt ws ss rl tm ed sd))

/-- IMWIN (R178). -/
def execImwin (ws ss : SemId) (rl : Bool) (t : TReg) (off : BitVec 32) (spa : BitVec 13) (p : BitVec 10) (kw : BitVec 4) (sx : BitVec 2) (cg : BitVec 3) (s : State) : Out :=
  .next (s.command .c (.imwin ws ss rl t off spa p kw sx cg))

/-- GATHER (R179). -/
def execGather (ws ss : SemId) (rl : Bool) (t : TReg) (count : BitVec 10) (idxa : BitVec 22) (spa row : BitVec 13) (s : State) : Out :=
  .next (s.command .c (.gather ws ss rl t count idxa spa row))

/-- SCATTER (R179). -/
def execScatter (ws ss : SemId) (rl : Bool) (t : TReg) (count : BitVec 10) (idxa : BitVec 22) (spa row : BitVec 13) (s : State) : Out :=
  .next (s.command .c (.scatter ws ss rl t count idxa spa row))

/-- FILL (R180). -/
def execFill (ws ss : SemId) (rl : Bool) (w : BitVec 2) (value : BitVec 32) (spa len : BitVec 13) (g : Bool) (ring : RingId) (s : State) : Out :=
  .next (s.command .c (.fill ws ss rl w value spa len g ring))

/-- SKETCH (R181). -/
def execSketch (ws ss : SemId) (rl : Bool) (et : ETy) (src : BitVec 12) (logn : BitVec 4) (dst : BitVec 16) (s : State) : Out :=
  .next (s.command .c (.sketch ws ss rl et src logn dst))

/-- PCOPY (R182). -/
def execPcopy (ws ss : SemId) (out : Bool) (rank : BitVec 4) (sib len own : BitVec 13) (s : State) : Out :=
  .next (s.command .c (.pcopy ws ss out rank sib len own))

/-- DVOPEN (R183, R377). -/
def execDvopen (ws ss : SemId) (ch : BitVec 12) (dev : BitVec 22) (win : BitVec 16) (s : State) : Out :=
  .next (s.command .c (.dvopen ws ss ch dev win))

/-- DVW (R183, R378). -/
def execDvw (ws ss : SemId) (ch : BitVec 12) (woff : BitVec 32) (spa len : BitVec 13) (s : State) : Out :=
  .next (s.command .c (.dvw ws ss ch woff spa len))

/-- DVREL (R183, R380). -/
def execDvrel (ws ss : SemId) (ch : BitVec 12) (woff flag : BitVec 32) (s : State) : Out :=
  .next (s.command .c (.dvrel ws ss ch woff flag))

/-- DVSHUT (R183, R377). -/
def execDvshut (ws ss : SemId) (ch : BitVec 12) (s : State) : Out :=
  .next (s.command .c (.dvshut ws ss ch))

/-- CFLUSH (R184). -/
def execCflush (ws ss : SemId) (t : TReg) (inv : Bool) (off len : BitVec 32) (s : State) : Out :=
  .next (s.command .c (.cflush ws ss t inv off len))

/-- MLOOP (R172). -/
def execMloop (len : BitVec 6) (count : BitVec 16) (s : State) : Out := .next (s.loopCommand .m (.mloop len count) len.toNat count.toNat)

/-- CLOOP (R172). -/
def execCloop (len : BitVec 6) (count : BitVec 16) (s : State) : Out := .next (s.loopCommand .c (.cloop len count) len.toNat count.toNat)

end Sys2Proof.Machine
end

