-- ==== Sys2Proof/Machine/EngineEvents.lean ====
section
/-! DEFINITION. Fetching commands from a ring, and the events of the engines: issue, completion, relocation and aperture
copies (R69, R70, R154, R172, R177, R185, R234). -/

namespace Sys2Proof.Machine

open Sys2Proof

/-- The word at a ring position, as the core's agents see it. -/
def State.ringWord (s : State) (k : Nat) (r : RingSel) (p : Nat) : Nat :=
  let g := (s.core k).engine r
  leNat (plain (s.engGet k (g.addrOf (p % max 1 g.size)) 4).2.1)

/-- What stands at the read pointer of an engine's ring: nothing complete; a command of a skipped body and its words; an
illegal command with its OP and SS; a command. -/
inductive Fetched where
  | nothing
  | skipped (n : Nat)
  | illegal (op : Nat) (ss : SemId)
  | cmd (i : Instr)
  deriving DecidableEq, Repr

/-- Fetch and decode at the read pointer of an engine (R15, R69, R70, R172). -/
def State.fetchCmd (s : State) (k : Nat) (e : EngineSel) : Fetched :=
  let r := ringOf e
  let g := (s.core k).engine r
  if g.st ≠ .running ∨ g.laid = 0 then .nothing
  else
    let w := fun i => s.ringWord k r (g.rp + i)
    let op := fld (w 0) 27 5
    let ss : SemId := BitVec.ofNat 6 (fld (w 0) 15 6)
    match lengthOf e op with
    | none => .illegal op ss
    | some n =>
      if g.laid < n then .nothing
      else if 0 < g.skip then .skipped n
      else
        match (match e with
          | .m => decodeM (w 0) (w 1) 0
          | .c => decodeC (w 0) (w 1) (if n = 3 then w 2 else 0)) with
        | .ok i => .cmd i
        | .error _ => .illegal op ss

/-- What an engine of core `k` may begin from its own ring (R154, R173, R185): nothing but MSYNC and CSYNC while a command that a
sibling has taken from that ring is not complete, since the next one begins only after the previous one has completed. -/
def State.startsCmd (s : State) (k : Nat) (e : EngineSel) : Fetched :=
  let x := s.fetchCmd k e
  if ((s.core k).takenOf e).isEmpty then x
  else
    match x with
    | .cmd i => if (syncOf i).isSome then x else .nothing
    | _ => .nothing

/-- Whether an engine of core `k` runs a command taken from sibling `j` (R185). -/
def State.takes (s : State) (k j : Nat) (e : EngineSel) : Bool := ((s.core j).takenOf e).any (fun f => f.taker == some k)

/-- The sibling whose command an engine runs, if any. -/
def State.takenFrom (s : State) (k : Nat) (e : EngineSel) : Option Nat :=
  ((s.core k).panelCores k).find? (fun j => s.takes k j e)

/-- The command that an engine of core `k` has taken from core `j` runs on (R185). -/
def State.runTaken (s : State) (k j : Nat) (e : EngineSel) : State :=
  match ((s.core j).takenOf e).find? (fun f => f.taker == some k) with
  | none => s
  | some f =>
    let r := State.runCmd s.budget s j e f
    r.1.onCore j (fun c => c.setTaken e ((c.takenOf e).filterMap (fun x => if x.taker == some k then r.2 else some x)))

/-- An engine goes on with a command in flight (R154). -/
def State.runFlight (s : State) (k : Nat) (e : EngineSel) : State :=
  match (s.core k).flight e with
  | some f =>
    let r := State.runCmd s.budget s k e f
    r.1.onCore k (fun c => c.setFlight e r.2)
  | none =>
    match s.takenFrom k e with
    | some j => s.runTaken k j e
    | none => s

/-- Whether an engine of core `k` starts nothing: its panel's stall wire is driven (R344), or its array works for an MMAP of rank
0, behind which its own ring waits (R164). -/
def State.engineWaits (s : State) (k : Nat) (e : EngineSel) : Bool := s.stalled k || (e == .m && (s.mmapBy k).isSome)

/-- ENGINE_COMMAND_ISSUE (R154): the command in flight that awaits, or the one at the read pointer, issues if its WS is
satisfied. -/
def execEngineCommandIssue (core : CoreId) (eng : EngineSel) (s : State) : Out :=
  let k := core.toNat
  let go (s : State) (f : Flight) : State :=
    match s.beginCmd k eng f with
    | .hold s f => s.onCore k (fun c => c.setFlight eng (some f))
    | .more s f => s.onCore k (fun c => c.setFlight eng (some f))
    | .fin s _ => s
  if s.held k || s.engineWaits k eng then .next s
  else match (s.core k).flight eng with
  | some f => if f.st = .decoded then .next (go s f) else .next s
  | none =>
    if (s.takenFrom k eng).isSome then .next s
    else
      match s.startsCmd k eng with
      | .nothing => .next s
      | .skipped n => .next (s.onCore k (fun c => c.setEngine (ringOf eng) ((c.engine (ringOf eng)).skipOne n)))
      | .illegal op ss => .next (s.illegalCmd k eng op ss)
      | .cmd i =>
        match i with
        | .mloop len count => .next ({ s with cur := core.setWidth 9 }.loopCommand eng i len.toNat count.toNat)
        | .cloop len count => .next ({ s with cur := core.setWidth 9 }.loopCommand eng i len.toNat count.toNat)
        | _ => .next (go s ((s.core k).newFlight eng i))

/-- ENGINE_COMMAND_COMPLETE (R154): an issued command performs and completes. -/
def execEngineCommandComplete (core : CoreId) (eng : EngineSel) (s : State) : Out :=
  let k := core.toNat
  if s.held k then .next s
  else match (s.core k).flight eng with
  | some f => if f.st = .decoded then .next s else .next (s.runFlight k eng)
  | none => .next (s.runFlight k eng)

/-- Whether an engine holds no command ready to decode and runs none (R185). -/
def State.engineIdle (s : State) (k : Nat) (e : EngineSel) : Bool :=
  ((s.core k).flight e).isNone && (s.takenFrom k e).isNone && !(e == .m && (s.mmapBy k).isSome)
    && s.fetchCmd k e == .nothing

/-- RL of a command (R66). -/
def relocatable : Instr → Bool
  | .mma _ _ rl .. => rl
  | .mzero _ _ rl _ => rl
  | .mdrain _ _ rl .. => rl
  | .mldacc _ _ rl .. => rl
  | .copy _ _ rl .. => rl
  | .copyt _ _ rl .. => rl
  | .imwin _ _ rl .. => rl
  | .gather _ _ rl .. => rl
  | .scatter _ _ rl .. => rl
  | .fill _ _ rl .. => rl
  | .sketch _ _ rl .. => rl
  | _ => false

/-- The bank a command names. -/
def bankOf : Instr → Option (BitVec 2)
  | .mma _ _ _ b .. => some b
  | .mmap _ _ b .. => some b
  | .mzero _ _ _ b => some b
  | .mdrain _ _ _ b .. => some b
  | .mldacc _ _ _ b .. => some b
  | .mchk _ _ b _ => some b
  | _ => none

/-- The stage rings a command names. -/
def Core.ringsOf (c : Core) : Instr → List RingId
  | .mma _ _ _ _ _ ar br .. => [ar, br]
  | .mmap _ _ _ _ ar br .. => [ar, br]
  | .copy _ _ _ _ _ g r .. => if g then [r] else []
  | .copyt _ _ _ tm .. =>
    let t := templateOf (c.template tm.toNat)
    if t.g then [BitVec.ofNat 5 t.gring] else []
  | .fill _ _ _ _ _ _ _ g r => if g then [r] else []
  | _ => []

/-- The stage rings that a command in flight names: those of the template it issued with. -/
def Core.ringsOfFlight (c : Core) (f : Flight) : List RingId :=
  match f.cmd with
  | .copyt .. =>
    let t := templateOf f.tmpl
    if t.g then [BitVec.ofNat 5 t.gring] else []
  | i => c.ringsOf i

/-- Whether a command names a bank or a stage ring of an earlier incomplete command of its ring (R185). -/
def Core.clashes (c : Core) (e : EngineSel) (i : Instr) : Bool :=
  ((c.flight e).toList ++ c.takenOf e).any (fun f =>
    ((bankOf i).isSome && bankOf f.cmd == bankOf i) || (c.ringsOfFlight f).any (fun r => (c.ringsOf i).contains r))

/-- The command at the read pointer of core `j` that a sibling may take (R185). -/
def State.takeable (s : State) (j : Nat) (e : EngineSel) : Option Instr :=
  match (s.core j).flight e with
  | none => none
  | some f =>
    if f.st != .issued || s.engineWaits j e then none
    else
      match s.fetchCmd j e with
      | .cmd i =>
        let ws := (semsOf i).1
        if relocatable i && (ws == 0#6 || (s.core j).mayAwait ws (agentOfEngine e)) && !(s.core j).clashes e i then some i
        else none
      | _ => none

/-- RELOCATE_TAKE (R185, R234): engine `eng` of core `core`, idle and the lowest idle rank, takes the command of the lowest
sibling that has one. An illegal command is never taken. -/
def execRelocateTake (core : CoreId) (eng : EngineSel) (s : State) : Out :=
  let k := core.toNat
  let cores := (s.core k).panelCores k
  if !s.engineIdle k eng || s.held k || s.stalled k then .next s
  else
    match cores.findSome? (fun j => if j = k then none else (s.takeable j eng).map (fun i => (j, i))) with
    | none => .next s
    | some (j, i) =>
      if cores.any (fun n => decide (n < k) && n != j && s.engineIdle n eng) then .next s
      else
        let f := { (s.core j).newFlight eng i with taker := some k }
        match s.beginCmd j eng f with
        | .more s' f' =>
          if f'.st = .issued then .next (s'.onCore j (fun c => c.setTaken eng (c.takenOf eng ++ [f']))) else .next s
        | _ => .next s

/-- Replace the first copy of an aperture channel's queue, or drop it. -/
def Core.setChanHead (c : Core) (ch : Nat) (f : Option Flight) : Core :=
  c.onC (fun t =>
    let q := (Sparse.get [] t.chans ch).drop 1
    { t with chans := Sparse.put [] t.chans ch (match f with
      | some f => f :: q
      | none => q) })

/-- The first copy of a channel starts (R177): discarded where its ring takes no copies any more. -/
def State.startAperture (s : State) (k ch : Nat) : State :=
  let c := s.core k
  match Sparse.get [] c.c.chans ch with
  | [] => s
  | f :: _ =>
    if f.st ≠ .decoded then s
    else
      let t := templateOf f.tmpl
      if !(c.ring t.gring).takesCopies then
        (s.release k f.tok).onCore k (fun c => (c.oox true).setChanHead ch none)
      else
        let m := c.mteOf f.tok
        let f := { f with
          st := .issued
          pat := c.gauge t.pat
          codes := { f.codes with dead := m.st == .dead } }
        s.onCore k (fun c => c.setChanHead ch (some f))

/-- The units of an aperture copy, at most `n`; none once all are done. -/
def State.apertureUnits : Nat → State → Nat → Flight → State × Flight × Bool
  | 0, s, _, f => (s, f, false)
  | n + 1, s, k, f =>
    match s.performCmd k f with
    | .hold s f => (s, f, false)
    | .more s f => State.apertureUnits n s k f
    | .fin s f => (s, f, true)

/-- The running copy of a channel performs, and as it ends leaves its slot and its place (R177). -/
def State.finishAperture (s : State) (k ch : Nat) : State :=
  match Sparse.get [] (s.core k).c.chans ch with
  | [] => s
  | f :: _ =>
    if f.st ≠ .issued then s
    else
      let r := State.apertureUnits s.budget s k f
      if r.2.2 then (r.1.leaveCmd k r.2.1).onCore k (fun c => c.setChanHead ch none)
      else r.1.onCore k (fun c => c.setChanHead ch (some r.2.1))

/-- APERTURE_COPY_START (R177). -/
def execApertureCopyStart (core : CoreId) (chan : BitVec 2) (s : State) : Out :=
  .next (if s.held core.toNat then s else s.startAperture core.toNat chan.toNat)

/-- APERTURE_COPY_DONE (R177). -/
def execApertureCopyDone (core : CoreId) (chan : BitVec 2) (s : State) : Out :=
  .next (if s.held core.toNat then s else s.finishAperture core.toNat chan.toNat)

/-- The aperture channels of a core go on by themselves. -/
def State.runApertures (s : State) (k : Nat) : State :=
  (List.range 4).foldl (fun s ch => (s.startAperture k ch).finishAperture k ch) s

end Sys2Proof.Machine
end

