-- ==== Sys2Proof/Machine/Xlat.lean ====
section
/-! DEFINITION. Page tables and walks (R337-R342), XLAT and XLATQ (R103-R107), fault records (R343-R346) and the re-walk of a
STALE entry (R351). -/

namespace Sys2Proof.Machine

open Sys2Proof

/-- The 64 KiB units of a leaf's page (R338). -/
def Leaf.units (l : Leaf) : Nat := if l.level = 0 then 1 else if l.level = 1 then 32 else 16384
/-- The first unit of the frame. -/
def Leaf.frame (l : Leaf) : Nat := fld l.bits 16 35
/-- The key slot. -/
def Leaf.key (l : Leaf) : Nat := fld l.bits 51 13
/-- The format selector. -/
def Leaf.fsel (l : Leaf) : Nat := fld l.bits 12 4
/-- The engine mask. -/
def Leaf.mask (l : Leaf) : BitVec 6 := BitVec.ofNat 6 (fld l.bits 6 6)
/-- MIG. -/
def Leaf.mig (l : Leaf) : Bool := l.bits.testBit 5
/-- T. -/
def Leaf.tso (l : Leaf) : Bool := l.bits.testBit 3
/-- H. -/
def Leaf.host (l : Leaf) : Bool := l.bits.testBit 2
/-- W. -/
def Leaf.writable (l : Leaf) : Bool := l.bits.testBit 1

/-- Where a walk ends: at a leaf, or at an entry treated as invalid, with the KIND of its fault record (R340, R343). -/
inductive WalkEnd where
  | leaf (l : Leaf)
  | bad (entry level kind : Nat)
  deriving DecidableEq, Repr

/-- The table index of a virtual address at a level (R338). -/
def levelIndex (v : Nat) : Nat → Nat
  | 3 => fld v 39 17
  | 2 => fld v 30 9
  | 1 => fld v 21 9
  | _ => fld v 16 5

/-- Whether a frame of `n` units lies in device memory or in the window (R337). -/
def frameExists (f n : Nat) : Bool :=
  decide (f + n ≤ 6291456) || (decide (0x7FFFFFFF0 ≤ f) && decide (f + n ≤ 0x800000000))

/-- The KIND under which a valid leaf is treated as invalid, 0 where it is not (R340). -/
def State.leafKind (s : State) (l : Leaf) : Nat :=
  if l.frame % l.units ≠ 0 then 2
  else if !l.host && !frameExists l.frame l.units then 2
  else if l.mig && (l.host || l.level == 2) then 2
  else if (Sparse.get none s.bench.keys l.key).isNone then 3
  else 0

/-- Whether a table entry at a level is malformed (R339, R340). -/
def tableMalformed (level bits : Nat) : Bool :=
  fld bits 51 13 != 0 || fld bits 6 2 != 0 || fld bits 1 3 != 0 || (level != 1 && fld bits 8 4 != 0)

/-- The place of an entry in a half's walk cache (R341). -/
def cacheKey (h : Bool) (a : Nat) : Nat := 2 * a + h.toNat

/-- An entry as a walk in a half reads it: from the half's walk cache where it holds the entry (R341). -/
def State.entryAt (s : State) (h : Bool) (a : Nat) : State × Nat :=
  match Sparse.get none s.mem.walkCache (cacheKey h a) with
  | some w => (s, w.toNat)
  | none => s.devWord a

/-- Keep a valid entry in a half's walk cache, or give it up (R341). -/
def State.cache (s : State) (h : Bool) (a : Nat) (w : Option Word) : State :=
  { s with mem := { s.mem with walkCache := Sparse.put none s.mem.walkCache (cacheKey h a) w } }

/-- The walk of a half for a virtual address, from a table at a level down (R338-R340). -/
def State.walkFrom (s : State) (h : Bool) (v : Nat) : Nat → Nat → State × WalkEnd
  | level, table =>
    let a := table + 8 * levelIndex v level
    let (s, bits) := s.entryAt h a
    if bits % 2 = 0 then (s, .bad a level 1)
    else if level ≠ 0 ∧ fld bits 4 2 = 3 then
      if tableMalformed level bits then (s, .bad a level 2)
      else
        match level with
        | 0 => (s, .bad a 0 2)
        | n + 1 => (s.cache h a (some (word bits))).walkFrom h v n (fld bits 8 43 * 256)
    else if level = 3 ∨ (level = 0 ∧ fld bits 4 2 = 3) then (s, .bad a level 2)
    else
      let l : Leaf := ⟨a, level, bits⟩
      match s.leafKind l with
      | 0 => (s.cache h a (some (word bits)), .leaf l)
      | k => (s, .bad a level k)

/-- The walk of a gang's address space for a virtual address, in a half. -/
def State.walk (s : State) (h : Bool) (g : Nat) (v : Nat) : State × WalkEnd := s.walkFrom h v 3 (s.gang g).root

/-- The page of a leaf found at `v`, as far as the extent that ends at `hi` reaches. -/
def Leaf.page (l : Leaf) (v hi : Nat) : Page :=
  let size := 65536 * l.units
  let last := min ((v / size + 1) * size) hi - 1
  { va := v, leaf := l, unit := l.frame + v / 65536 % l.units, n := last / 65536 + 1 - v / 65536 }

/-- The first address behind a page. -/
def Page.next (p : Page) : Nat := (p.va / (65536 * p.leaf.units) + 1) * (65536 * p.leaf.units)

/-- The pages from `v` up to `hi`, in increasing address order, up to the first that has no valid leaf (R103 case 4). -/
def State.pagesFrom (s : State) (h : Bool) (g : Nat) : Nat → Nat → Nat → State × List Page × Option (Nat × WalkEnd)
  | 0, _, _ => (s, [], none)
  | f + 1, v, hi =>
    if hi ≤ v then (s, [], none)
    else
      match s.walk h g v with
      | (s, .bad a l k) => (s, [], some (v, .bad a l k))
      | (s, .leaf l) =>
        let p := l.page v hi
        let (s, ps, e) := s.pagesFrom h g f p.next hi
        (s, p :: ps, e)

/-- The pages of an extent. -/
def State.pagesOf (s : State) (h : Bool) (g base len : Nat) : State × List Page × Option (Nat × WalkEnd) :=
  s.pagesFrom h g (len / 65536 + 3) base (base + len)

/-- The run of a page alone. -/
def Page.run (p : Page) : Run :=
  { key := BitVec.ofNat 13 p.leaf.key, host := p.leaf.host, tso := p.leaf.tso, npg := p.n, frame := BitVec.ofNat 35 p.unit }

/-- Whether a run goes on with the next one (R103). -/
def Run.joins (r q : Run) : Bool :=
  r.frame.toNat + r.npg == q.frame.toNat && r.key == q.key && r.host == q.host && r.tso == q.tso

/-- The runs of pages, each with its first extent address (R103). -/
def runsOf : List Page → List (Nat × Run)
  | [] => []
  | p :: ps =>
    match runsOf ps with
    | [] => [(p.va, p.run)]
    | (v, q) :: rs => if p.run.joins q then (p.va, { p.run with npg := p.n + q.npg }) :: rs else (p.va, p.run) :: (v, q) :: rs

/-- The engine mask of an extent: the AND over its leaves (R104). -/
def maskOf (ps : List Page) : BitVec 6 := ps.foldl (fun m p => m &&& p.leaf.mask) 0x3F#6

/-- The first page that R103 case 5 rejects. -/
def permFault (wantW : Bool) (ps : List Page) : Option Nat :=
  let f := match ps with
    | [] => 0
    | p :: _ => p.leaf.fsel
  (ps.find? (fun p => (wantW && !p.leaf.writable) || p.leaf.fsel != f)).map (fun p => p.va)

/-- Host units of a page that the directory does not hold yet, and that are not among those given (R347). -/
def State.newHost (s : State) (got : List Nat) (p : Page) : List Nat :=
  if p.leaf.host then ((List.range p.n).map (fun i => p.unit + i)).filter (fun u =>
    (Sparse.get {} s.mem.hclamp u).pins == 0 && !got.contains u)
  else []

/-- Units in the section for host frames (R347). -/
def State.hostUnits (s : State) : Nat := (s.mem.hclamp.filter (fun e => e.2.pins != 0)).length

/-- The first page of which a unit finds the section for host frames full (R347). -/
def State.unpinnable (s : State) : List Nat → List Page → Option Page
  | _, [] => none
  | got, p :: ps =>
    let new := s.newHost got p
    if !new.isEmpty && decide (262144 < s.hostUnits + got.length + new.length) then some p else s.unpinnable (got ++ new) ps

/-- How a translation of an extent ends: at a page with no valid leaf, with a cause and TVAL, or with what its entry
holds (R103, R104). -/
inductive XlatEnd where
  | invalid (va entry level kind : Nat)
  | cause (c tval : Nat)
  | good (mask : BitVec 6) (fsel : BitVec 4) (runs : List Run)
  deriving DecidableEq, Repr

/-- Cases 5 and 6 of R103 for the pages of an extent (R103). -/
def pagesFault (wantW : Bool) (ps : List Page) : Option (Nat × Nat) :=
  match permFault wantW ps with
  | some v => some (causePerm, v)
  | none => ((runsOf ps).drop 64).head?.map (fun r => (causeRuns, r.1))

/-- What the entry of an extent holds of its pages (R104). -/
def XlatEnd.ofPages (ps : List Page) : XlatEnd :=
  .good (maskOf ps) (BitVec.ofNat 4 ((ps.head?.map (fun p => p.leaf.fsel)).getD 0)) ((runsOf ps).map (fun r => r.2))

/-- Cases 4 to 7 of R103 for an extent of at least one byte. A pin that finds the section for host frames full, with the units
that are to be pinned before, is refused, and its fault goes to the Bench (R347). -/
def State.translate (s : State) (h : Bool) (g : Nat) (before : List Nat) (base len : Nat) (wantW : Bool) : State × XlatEnd :=
  match s.pagesOf h g base len with
  | (s, _, some (v, .bad a l k)) => (s, .invalid v a l k)
  | (s, ps, _) =>
    match pagesFault wantW ps with
    | some (c, v) => (s, .cause c v)
    | none =>
      match s.unpinnable before ps with
      | some p => (s, .invalid p.va p.leaf.entry p.leaf.level 1)
      | none => (s, .ofPages ps)

/-- Write a fault record into the active Bench's ring (R343). -/
def State.faultRecord (s : State) (k g va entry level kind : Nat) (o : FaultFor) : State × Nat :=
  let ix := s.bench.nextFault
  let f : FaultRec :=
    { ix := ix, va := va, kind := BitVec.ofNat 8 kind, level := BitVec.ofNat 8 level, core := k, gang := BitVec.ofNat 7 g,
      entryPa := entry, owner := o }
  ({ s with bench := { s.bench with faults := s.bench.faults ++ [f], nextFault := ix + 1 } }, ix)

/-- Withdraw a fault record. -/
def State.dropFault (s : State) (ix : Nat) : State :=
  { s with bench := { s.bench with faults := s.bench.faults.filter (fun f => f.ix != ix) } }

/-- A fault drives the stall wire of its core's panel (R344). -/
def State.driveStall (s : State) (k ix : Nat) : State :=
  let b := (s.core k).panelBase k
  s.setPanel b { s.panel b with stall := (s.panel b).stall ++ [ix] }

/-- A fault no longer drives the stall wire (R345). -/
def State.freeStall (s : State) (k ix : Nat) : State :=
  let b := (s.core k).panelBase k
  s.setPanel b { s.panel b with stall := (s.panel b).stall.filter (fun j => j != ix) }

/-- The translation of a core is over and its S-stream goes on at its instruction. -/
def Core.endWalk (c : Core) : Core := c.onS (fun t => { t with walk := none, st := .running })

/-- A translation waits. -/
def Core.setWalk (c : Core) (w : Walk) (on : WaitOn) : Core := c.onS (fun t => { t with walk := some w, st := .waiting on })

/-- The commands of a core that may hold a token: in flight, taken by a sibling, queued in the aperture. -/
def Core.flights (c : Core) : List Flight :=
  c.m.flight.toList ++ c.c.flight.toList ++ c.m.taken ++ c.c.taken ++ c.c.chans.flatMap (fun q => q.2)

/-- Change every command that may hold a token. -/
def Core.mapFlights (c : Core) (f : Flight → Flight) : Core :=
  (c.onM (fun m => { m with flight := m.flight.map f, taken := m.taken.map f })).onC (fun e =>
    { e with flight := e.flight.map f, taken := e.taken.map f, chans := e.chans.map (fun q => (q.1, q.2.map f)) })

/-- The aperture copies whose start stands in the S-stream's store queue (R177). -/
def Core.starts (c : Core) : List Flight :=
  c.s.queue.filterMap (fun q => match q.op with
    | .start _ f => some f
    | _ => none)

/-- The tokens that the operations of a core hold a reference to (R18, R241): commands and aperture copies, the loads and stores of
the V-stream, the V word that waits. -/
def Core.opToks (c : Core) : List Tok :=
  (c.flights ++ c.starts).filterMap (fun f => f.tok) ++ c.v.loads.filterMap (fun l => l.tok)
    ++ c.v.queue.filterMap (fun q => q.via) ++ c.v.curTok.toList

/-- A store queue's entry with its tokens changed. -/
def QStore.mapTok (f : Option Tok → Option Tok) (q : QStore) : QStore :=
  { q with
    via := f q.via
    op := match q.op with
      | .start ch x => .start ch { x with tok := f x.tok }
      | op => op }

/-- Change every token that the operations of a core have read. -/
def Core.mapToks (c : Core) (f : Option Tok → Option Tok) : Core :=
  let ld (l : QLoad) : QLoad := { l with tok := f l.tok }
  let st (q : QStore) : QStore := q.mapTok f
  let c := c.mapFlights (fun (x : Flight) => { x with tok := f x.tok })
  (c.onS (fun t => { t with loads := t.loads.map ld, queue := t.queue.map st })).onV (fun t =>
    { t with loads := t.loads.map ld, queue := t.queue.map st, curTok := f t.curTok })

/-- A predicted token is given up (R107, R246): what has read it finds the register's old token again, and its entry is as it was
before. -/
def State.unpredict (s : State) (k : Nat) (w : Walk) : State :=
  match w.phase with
  | .predicted new old =>
    let s := s.onCore k (fun c => c.setT w.td old)
    let n := (s.core k).opToks.count new
    let s := (List.range n).foldl (fun (s : State) _ => (s.hold k old).release k (some new)) s
    let s := (s.onCore k (fun c => c.mapToks (fun t => if t = some new then old else t))).release k (some new)
    let i := new.idx.toNat
    s.setMte k i { (s.core k).mte i with gen := new.gen - 1#16 }
  | _ => s

/-- Pin the units of a page that a walk confirms (R342): refused where the section for host frames is full (R347). -/
def State.pinPage (s : State) (k : Nat) (p : Page) : State × Page :=
  match s.unpinnable [] [p] with
  | some _ => (s, p)
  | none => (s.pinRun k p.run, { p with pinned := true })

/-- Unpin the pages that a walk has pinned. -/
def State.unpinPages (s : State) (k : Nat) (ps : List Page) : State :=
  ps.foldl (fun s p => if p.pinned then s.unpinRun k (s.core k).gangOf p.run else s) s

/-- XLAT fails: it traps; XLATQ writes the null token and the reason (R105, R106). -/
def State.xlatFail (s : State) (k : Nat) (w : Walk) (cause tval : Nat) : State :=
  let s := (((s.onCore k Core.endWalk).unpinPages k w.pages).unpredict k w)
  if w.q then
    (s.putTok k w.td none).onCore k (fun c => (c.onS (fun t => { t with tstat := word cause })).advance)
  else s.syncTrap k cause (word tval)

/-- XLAT and XLATQ complete as instructions (R105, R106). -/
def State.xlatEnd (s : State) (k : Nat) (w : Walk) : State :=
  s.onCore k (fun c => (if w.q then c.onS (fun t => { t with tstat := 0 }) else c).advance)

/-- XLAT succeeds: its pages, which it has pinned, are those of its entry (R104-R106, R342); one of which a revocation has reached is
STALE (R352). -/
def State.xlatGood (s : State) (k : Nat) (w : Walk) (mask : BitVec 6) (fsel : BitVec 4) (runs : List Run) : State :=
  let st : MteSt := if w.stale then .stale else .live
  match w.phase with
  | .predicted new old =>
    let i := new.idx.toNat
    let s := s.setMte k i { (s.core k).mte i with st := st, mask := mask, fsel := fsel, runs := runs, pred := false }
    ((s.onCore k Core.endWalk).release k old).xlatEnd k w
  | _ =>
    match s.takeMte k { st := st, w := w.wantW, r := true, mask := mask, fsel := fsel, runs := runs, len := w.len, vbase := w.base } with
    | some (s, t) => ((s.onCore k Core.endWalk).putTok k w.td (some t)).xlatEnd k w
    | none => s.xlatFail k w causeMte w.base

/-- A translation waits for the Bench's reply on a page, with the stall wire driven (R343). -/
def State.xlatFault (s : State) (k : Nat) (w : Walk) (va entry level kind : Nat) : State :=
  let r := s.faultRecord k (s.core k).gangOf.toNat va entry level kind .xlat
  let ph := match w.phase with
    | .predicted n o => WalkPhase.predicted n o
    | _ => .stall r.2
  (r.1.driveStall k r.2).onCore k (fun c => c.setWalk { w with phase := ph } .bench)

/-- The first extent address that a walk has not reached. -/
def Walk.next (w : Walk) : Nat := (w.pages.getLast?.map Page.next).getD w.base

/-- A walk goes on from where it stands: each page it confirms is pinned as it reaches it (R342), up to the first without a valid
leaf. -/
def State.walkOn : Nat → State → Nat → Walk → State × Walk × Option (Nat × WalkEnd)
  | 0, s, _, w => (s, w, none)
  | f + 1, s, k, w =>
    let hi := w.base + w.len
    if hi ≤ w.next then (s, w, none)
    else
      match s.walk (halfOf k) (s.core k).gangOf.toNat w.next with
      | (s, .bad a l kd) => (s, w, some (w.next, .bad a l kd))
      | (s, .leaf l) =>
        let r := s.pinPage k (l.page w.next hi)
        State.walkOn f r.1 k { w with pages := w.pages ++ [r.2] }

/-- Cases 4 to 8 of R103: the walk of an extent goes on. -/
def State.xlatWalk (s : State) (k : Nat) (w : Walk) : State :=
  match State.walkOn (w.len / 65536 + 3) s k w with
  | (s, w, some (va, .bad a l kd)) => s.xlatFault k w va a l kd
  | (s, w, _) =>
    match pagesFault w.wantW w.pages with
    | some (c, v) => s.xlatFail k w c v
    | none =>
      match w.pages.find? (fun p => !p.pinned) with
      | some p => s.xlatFault k w p.va p.leaf.entry p.leaf.level 1
      | none =>
        match XlatEnd.ofPages w.pages with
        | .good mask fsel runs => s.xlatGood k w mask fsel runs
        | _ => s

/-- The walk caches give up what they hold of an entry, which a walk that was offered to the Bench reads again (R341). -/
def State.uncache (s : State) (pa : Nat) : State :=
  { s with mem := { s.mem with walkCache := Sparse.put none (Sparse.put none s.mem.walkCache (2 * pa) none) (2 * pa + 1) none } }

/-- The Bench has answered RESOLVED for the page at `va` (R343): the walk restarts for that page from the root, and goes on. -/
def State.xlatRetry (s : State) (k : Nat) (w : Walk) (va : Nat) : State :=
  if !w.pages.any (fun p => p.va == va) then s.xlatWalk k w
  else
    match s.walk (halfOf k) (s.core k).gangOf.toNat va with
    | (s, .bad a l kd) => s.xlatFault k w va a l kd
    | (s, .leaf l) =>
      let r := s.pinPage k (l.page va (w.base + w.len))
      r.1.xlatWalk k { w with pages := w.pages.map (fun p => if p.va = va then r.2 else p) }

/-- Whether the first page of an extent hits in a half's walk cache (R342). -/
def State.firstHits (s : State) (h : Bool) (g base : Nat) : Option Leaf :=
  match s.walk h g base with
  | (_, .leaf l) => if (Sparse.get none s.mem.walkCache (cacheKey h l.entry)).isSome then some l else none
  | _ => none

/-- XLAT and XLATQ (R103-R106): the cases in their order; with several pages and the first one in the walk cache the
token is predicted and the instruction waits for its walk (R246, R342). -/
def State.xlat (s : State) (q : Bool) (td : TReg) (a b : XReg) (wantW : Bool) : State :=
  let k := s.curN
  let base := (s.me.xr a).toNat
  let len := (s.me.xr b).toNat
  let w : Walk := { q := q, td := td, base := base, len := len, wantW := wantW, phase := .stall 0 }
  match s.me.s.walk with
  | some _ => s
  | none => s.afterUses (s.me.tr td) (fun s =>
    if len = 0 then
      (s.putTok k td none).xlatEnd k w
    else if 2 ^ 32 < len ∨ 2 ^ 56 < base + len then s.xlatFail k w causeUnmapped base
    else if s.me.freeMtes.isEmpty then s.xlatFail k w causeMte base
    else
      match s.firstHits (halfOf k) s.me.gangOf.toNat base with
      | some l =>
        if base + len ≤ (base / (65536 * l.units) + 1) * (65536 * l.units) || td == 0#5 then s.xlatWalk k w
        else
          let r : Run :=
            { key := BitVec.ofNat 13 l.key, host := l.host, tso := l.tso, npg := (base + len - 1) / 65536 + 1 - base / 65536,
              frame := BitVec.ofNat 35 (l.frame + base / 65536 % l.units) }
          let m : Mte :=
            { st := .live, w := wantW, r := true, mask := l.mask, fsel := BitVec.ofNat 4 l.fsel, runs := [r], pred := true,
              len := len, vbase := base }
          match s.takeMte k m with
          | some (s, t) =>
            let old := s.me.tr td
            s.onCore k (fun c => (c.setT td (some t)).setWalk { w with phase := .predicted t old } .predicted)
          | none => s.xlatFail k w causeMte base
      | none => s.xlatWalk k w)

/-- XLAT (R103-R105); R is granted whether or not `r` asks for it (R104). -/
def execXlat (_st : SStall) (t : TReg) (a b : XReg) (_r w : Bool) (s : State) : Out :=
  .next (s.xlat false t a b w)

/-- XLATQ (R106). -/
def execXlatq (_st : SStall) (t : TReg) (a b : XReg) (_r w : Bool) (s : State) : Out :=
  .next (s.xlat true t a b w)

/-- The walk behind a predicted token finishes (R246, R342). -/
def execPredictedFrameConfirmed (core : CoreId) (s : State) : Out :=
  match (s.core core.toNat).s.walk with
  | some w =>
    match w.phase with
    | .predicted .. => if (s.core core.toNat).s.st = .waiting .predicted then .next (s.xlatWalk core.toNat w) else .next s
    | _ => .next s
  | none => .next s

/-- An entry becomes DEAD, and TOKEN_LOST is pending in its core (R113); its runs stay pinned until it becomes NULL (R240). -/
def State.killMte (s : State) (k i : Nat) : State :=
  (s.setMte k i { (s.core k).mte i with st := .dead }).onCore k Core.pendLostTrap

/-- Whether a copy fills a slot of a stage ring. -/
def Flight.fills (f : Flight) : Bool :=
  match f.cmd with
  | .copy _ _ _ _ _ g _ _ _ _ _ => g
  | .copyt .. => (templateOf f.tmpl).g
  | _ => false

/-- Whether an access through an entry has begun and waits for it (R351): of an instruction or a word that waits, of a queue, or
of a command that has its slot. -/
def Core.usesMte (c : Core) (i : Nat) : Bool :=
  let on (t : Option Tok) : Bool := t.map (fun x => x.idx.toNat) == some i
  (match c.s.st with
    | .waiting (.stale j) => j.toNat == i
    | _ => false)
    || (match c.v.wait with
      | some (.stale j) => j.toNat == i
      | _ => false)
    || (c.s.loads ++ c.v.loads).any (fun l => on l.tok) || (c.s.queue ++ c.v.queue).any (fun q => on q.via)
    || c.flights.any (fun f => on f.tok && f.st == .issued && !(f.fills && f.slot.isNone))

/-- The re-walk of a STALE entry, as far as it goes (R351): LIVE, DEAD, or a fault that waits for the Bench without the
stall wire. That of an entry restored from a context starts at its first use. -/
def State.rewalk (s : State) (k i : Nat) : State :=
  let m := (s.core k).mte i
  let g := m.gang.toNat
  if m.st ≠ .stale || (m.fresh && !(s.core k).usesMte i) then s
  else if s.bench.faults.any (fun f => f.core == k && f.owner == .rewalk (BitVec.ofNat 6 i)) then s
  else
    match s.translate (halfOf k) g [] m.vbase m.len m.w with
    | (s, .invalid va a l kd) => (s.faultRecord k g va a l kd (.rewalk (BitVec.ofNat 6 i))).1
    | (s, .cause ..) => s.killMte k i
    | (s, .good mask fsel runs) =>
      let s := (s.pinRuns k runs).unpinRuns k m.gang m.runs
      s.setMte k i { (s.core k).mte i with st := .live, mask := mask, fsel := fsel, runs := runs, fresh := false }

/-- REWALK_COMPLETE (R351). -/
def execRewalkComplete (core : CoreId) (mte : BitVec 6) (s : State) : Out :=
  .next (s.rewalk core.toNat mte.toNat)

/-- What a reply does for the XLAT of a core whose record it answers (R343, R346). -/
def State.replyXlat (s : State) (f : FaultRec) (r : Reply) : State :=
  let k := f.core
  let s := s.freeStall k f.ix
  match (s.core k).s.walk with
  | none => s.dropFault f.ix
  | some w =>
    match r with
    | .resolved => ((s.dropFault f.ix).uncache f.entryPa).xlatRetry k w f.va
    | .declined => (s.dropFault f.ix).xlatFail k w causeUnmapped f.va
    | .noframe =>
      if w.q then (s.dropFault f.ix).xlatFail k w causePins f.va
      else
        let ph := match w.phase with
          | .predicted n o => WalkPhase.predicted n o
          | _ => .pinWait f.ix
        s.onCore k (fun c => c.setWalk { w with phase := ph } .pins)
    | _ => (s.dropFault f.ix).xlatFail k w causePins f.va

/-- What a reply does for a re-walk (R351). -/
def State.replyRewalk (s : State) (f : FaultRec) (i : BitVec 6) (r : Reply) : State :=
  match r with
  | .resolved => (s.dropFault f.ix).uncache f.entryPa
  | .noframe => s
  | _ => (s.dropFault f.ix).killMte f.core i.toNat

/-- A Dovetail window (R374). -/
def State.window (s : State) (w : Nat) : Window := Sparse.get {} s.dv.windows w

/-- Replace a Dovetail window. -/
def State.setWindow (s : State) (w : Nat) (x : Window) : State :=
  { s with dv := { s.dv with windows := Sparse.put {} s.dv.windows w x } }

/-- The number under which the inbound Dovetail agent pins frames (R347, R374): that of no core. -/
def inboundAgent : Nat := 512

/-- The remote token of a window becomes DEAD; its runs stay pinned (R240, R374). -/
def State.killWindow (s : State) (w : Nat) : State :=
  let x := s.window w
  s.setWindow w { x with mte := { x.mte with st := .dead } }

/-- The re-walk of a STALE remote token, as far as it goes (R351, R374). -/
def State.rewalkWindow (s : State) (w : Nat) : State :=
  let x := s.window w
  let m := x.mte
  if m.st ≠ .stale || s.bench.faults.any (fun f => f.owner == .window w) then s
  else
    match s.translate false x.gang.toNat [] m.vbase m.len true with
    | (s, .invalid va a l kd) => (s.faultRecord inboundAgent x.gang.toNat va a l kd (.window w)).1
    | (s, .cause ..) => s.killWindow w
    | (s, .good mask fsel runs) =>
      ((s.pinRuns inboundAgent runs).unpinRuns inboundAgent x.gang m.runs).setWindow w
        { x with mte := { m with st := .live, mask := mask, fsel := fsel, runs := runs } }

/-- What a reply does for the re-walk of a remote token (R351, R374). -/
def State.replyWindow (s : State) (f : FaultRec) (w : Nat) (r : Reply) : State :=
  match r with
  | .resolved => ((s.dropFault f.ix).uncache f.entryPa).rewalkWindow w
  | .noframe => s
  | _ => (s.dropFault f.ix).killWindow w

/-- The Bench sets PINWAIT, from 0 to 1,000 milliseconds (R346). -/
def State.setPinwait (s : State) (ms : Nat) : State :=
  if ms ≤ 1000 then { s with bench := { s.bench with pinwaitMs := ms } } else s

/-- The Bench answers a fault record; a reply to a record that is not open is ignored (R343). -/
def State.answer (s : State) (ix : Nat) (r : Reply) : State :=
  match s.bench.faults.find? (fun f => f.ix == ix) with
  | none => s
  | some f =>
    if r = .expired && !f.noframe then s
    else
      let first := r == .noframe && !f.noframe
      let f' : FaultRec :=
        { f with reply := some r, noframe := f.noframe || r == .noframe, since := if first then s.clock else f.since }
      let s : State := { s with
        -- PINWAIT has passed since the first NOFRAME reply, in milliseconds of 2,500,000 cycles (R1, R27)
        clock := if r = .expired then max s.clock (f.since + 2500000 * s.bench.pinwaitMs) else s.clock
        bench := { s.bench with faults := s.bench.faults.map (fun g => if g.ix = ix then f' else g) } }
      match f.owner with
      | .xlat => s.replyXlat f' r
      | .rewalk i => s.replyRewalk f' i r
      | .cut _ => if r = .resolved then s.uncache f.entryPa else s
      | .window w => s.replyWindow f' w r

end Sys2Proof.Machine
end

