-- ==== Sys2Proof/Machine/GangMem.lean ====
section
/-! DEFINITION. How the dispatchers and the sequencers reach memory: by virtual addresses of a gang, host memory directly
and never a device-side copy (R272, R294, R312, R318), and messages to the host (R327). -/

namespace Sys2Proof.Machine

open Sys2Proof

/-- The site and physical address of a virtual address in a page (R337, R353). -/
def Leaf.place (l : Leaf) (v : Nat) : Site × Nat :=
  (if l.host then .host else .dev, (l.frame + v / 65536 % l.units) * 65536 + v % 65536)

/-- The key slot that a byte of a page is encrypted under; none in host memory and the window (R337, R339). -/
def Leaf.keySlot (l : Leaf) (v : Nat) : Option (BitVec 13) :=
  if l.host || decide (dramUnits ≤ l.frame + v / 65536 % l.units) then none else some (BitVec.ofNat 13 l.key)

/-- The half whose dispatcher serves a gang: that of its partition's first core (R328, R341). -/
def State.gangHalf (s : State) (g : Nat) : Bool := halfOf ((s.gang g).part.toNat * 256 / s.disp.parts)

/-- The pieces of `n` bytes from virtual address `v` in a gang's address space, up to the first unit with no valid leaf or,
for a write, with W = 0: site, physical address, length, key slot; then whether every byte was reached. -/
def State.vaPieces (s : State) (g : Nat) (w : Bool) : Nat → Nat → Nat → State × List (Site × Nat × Nat × Option (BitVec 13)) × Bool
  | 0, _, n => (s, [], n == 0)
  | f + 1, v, n =>
    if n = 0 then (s, [], true)
    else if 2 ^ 56 ≤ v then (s, [], false)
    else
      match s.walk (s.gangHalf g) g v with
      | (s, .bad ..) => (s, [], false)
      | (s, .leaf l) =>
        if w && !l.writable then (s, [], false)
        else
          let j := min n (65536 - v % 65536)
          let p := l.place v
          let (s, ps, ok) := s.vaPieces g w f (v + j) (n - j)
          (s, (p.1, p.2, j, l.keySlot v) :: ps, ok)

/-- Read a physical piece for the dispatcher; a discarded unit reads zero (R353). -/
def State.pieceRead (s : State) (e : Site) (a n : Nat) (key : Option (BitVec 13)) : State × List PByte :=
  if (s.clampAt (e == .host) (a / 65536)).dsc then (s, List.replicate n (0, false))
  else
    match e with
    | .dev => s.physGet a n key
    | _ => s.rawGet e a n

/-- Write a physical piece for the dispatcher; a write to a discarded unit is dropped (R353). -/
def State.pieceWrite (s : State) (e : Site) (a : Nat) (d : List PByte) (key : Option (BitVec 13)) (bytewise : Bool := false) :
    State :=
  if (s.clampAt (e == .host) (a / 65536)).dsc then s
  else
    match e with
    | .dev => s.physPut a d key bytewise
    | _ => s.rawPut e a d bytewise

/-- Read `n` bytes of a gang's address space; none where one of them cannot be reached. -/
def State.gangRead (s : State) (g : GangId) (v n : Nat) : State × Option (List PByte) :=
  let r := s.vaPieces g.toNat false (n / 65536 + 2) v n
  if !r.2.2 then (r.1, none)
  else
    let q := r.2.1.foldl (fun (s, d) p =>
      let (s, e) := s.pieceRead p.1 p.2.1 p.2.2.1 p.2.2.2
      (s, d ++ e)) (r.1, [])
    (q.1, some q.2)

/-- Write bytes of a gang's address space; nothing is written, and none is the answer, where a byte cannot be
reached. The poison goes byte by byte where `bytewise` says so (R318), else sector by sector. -/
def State.gangWrite (s : State) (g : GangId) (v : Nat) (d : List PByte) (bytewise : Bool := false) : Option State :=
  let r := s.vaPieces g.toNat true (d.length / 65536 + 2) v d.length
  if !r.2.2 then none
  else
    some (r.2.1.foldl (fun (s, d) p => (s.pieceWrite p.1 p.2.1 (d.take p.2.2.1) p.2.2.2 bytewise, d.drop p.2.2.1)) (r.1, d)).1

/-- Write bytes where they can be reached, and nothing where they cannot. -/
def State.gangStore (s : State) (g : GangId) (v : Nat) (d : List PByte) : State := (s.gangWrite g v d).getD s

/-- Read a doubleword of a gang's address space. -/
def State.gangWord (s : State) (g : GangId) (v : Nat) : State × Option Nat :=
  let r := s.gangRead g v 8
  (r.1, r.2.map (fun d => leNat (plain d)))

/-- Write a doubleword of a gang's address space, nothing where it cannot be reached. -/
def State.gangPut (s : State) (g : GangId) (v n : Nat) : State := s.gangStore g v (clean (leBytes 8 n))

/-- The comparisons of COND and WAIT: EQ, NE, LTU, GEU (R288, R318). -/
def compareWord (opc w v : Nat) : Bool :=
  match opc with
  | 0 => w == v
  | 1 => w != v
  | 2 => decide (w < v)
  | _ => decide (v ≤ w)

/-- Send an MSI-X message; a masked vector sets its PBA bit (R327). -/
def State.message (s : State) (v : Nat) : State :=
  let k := v % 2048
  if !Sparse.get false s.link.unmasked k then { s with link := { s.link with pba := Sparse.put false s.link.pba k true } }
  else { s with link := { s.link with messages := s.link.messages ++ [BitVec.ofNat 11 k] } }

/-- MSIX_VECTOR_UNMASK (R327): a pending message is sent. -/
def execMsixVectorUnmask (vec : BitVec 11) (s : State) : Out :=
  let k := vec.toNat
  let p := Sparse.get false s.link.pba k
  let s : State := { s with link := { s.link with
    unmasked := Sparse.put false s.link.unmasked k true
    pba := Sparse.put false s.link.pba k false } }
  .next (if p then s.message k else s)

end Sys2Proof.Machine
end

