-- ==== Sys2Proof/Machine/Units.lean ====
section
/-! DEFINITION. Completion records (R289), units of work, the season counter and the seasoning of results (R404-R407), the
journal (R410, R411), and the end of packets and launched work. -/

namespace Sys2Proof.Machine

open Sys2Proof

/-- PENDING, RUNNING, DONE, ERROR, POISONED_INPUT, CANCELLED (R289). -/
def statusRunning : Nat := 1
/-- DONE (R289). -/
def statusDone : Nat := 2
/-- ERROR (R289). -/
def statusError : Nat := 3
/-- POISONED_INPUT (R289). -/
def statusPoisonedInput : Nat := 4
/-- CANCELLED (R289). -/
def statusCancelled : Nat := 5

/-- The eight bytes of FINFO (R289). -/
def FInfo.image (f : FInfo) : List Byte := leBytes 8 (f.cause.toNat + f.core.toNat * 2 ^ 16 + (if f.cv then 2 ^ 24 else 0))

/-- A cause that no core raised (R289). -/
def plainCause (c : Nat) : FInfo := { cause := BitVec.ofNat 16 c }

/-- A cause raised while a step held core `k` (R289). -/
def coreCause (c k : Nat) : FInfo := { cause := BitVec.ofNat 16 c, core := BitVec.ofNat 8 k, cv := true }

/-- FSTEP where no step or node ended ERROR (R289). -/
def noStep : Nat := 2 ^ 64 - 1

/-- The bytes [23:0] of a completion record: FINFO, FSTEP, GREEN (R289). -/
def greenImage (status : Nat) (poisoned : Bool) (steps fstep : Nat) (f : FInfo) : List Byte :=
  f.image ++ leBytes 8 fstep ++ leBytes 8 (status + (if poisoned then 256 else 0) + steps % 2 ^ 32 * 2 ^ 32)

/-- GREEN status RUNNING (R289). -/
def State.markRunning (s : State) (g : GangId) (crec : Nat) : State := s.gangPut g (crec + 16) statusRunning

/-- A new unit of work. -/
def State.newUnit (s : State) (u : Nat → WorkUnit) : State × Nat :=
  let id := s.disp.nextUnit
  ({ s with disp := { s.disp with nextUnit := id + 1 }, integ := { s.integ with units := s.integ.units ++ [u id] } }, id)

/-- Change a unit of work. -/
def State.onUnit (s : State) (id : Nat) (f : WorkUnit → WorkUnit) : State :=
  { s with integ := { s.integ with units := s.integ.units.map (fun u => if u.id = id then f u else u) } }

/-- A unit of work that is not seasoned. -/
def State.unit (s : State) (id : Nat) : Option WorkUnit := s.integ.units.find? (fun u => u.id == id)

/-- Units of a queue slot that a BAR or a SIGNAL of it depends on. -/
def State.unitsOfSlot (s : State) (q : SlotId) : List Nat :=
  (s.integ.units.filter (fun u => u.slot == q)).map (fun u => u.id)

/-- Record something in the journal (R410). -/
def State.journal (s : State) (r : JrnRec) : State := { s with integ := { s.integ with journal := s.integ.journal ++ [r] } }

/-- The unit a journal record belongs to. -/
def JrnRec.unit : JrnRec → Option Nat
  | .packet u _ => some u
  | .jlaunch u .. => some u
  | .control u _ => some u
  | .decision u .. => some u
  | .inplace u .. => some u
  | _ => none

/-- Bytes a journal record takes: those of its contents (log entry 20). -/
def JrnRec.bytes : JrnRec → Nat
  | .packet _ b => b.length
  | .jlaunch .. => 8
  | .control .. => 8
  | .decision .. => 8
  | .inplace _ _ _ b => b.length
  | .flag .. => 16
  | .window _ b => 8 + b.length

/-- JRNUSE (R406). -/
def State.journalUse (s : State) : Nat := (s.integ.journal.map JrnRec.bytes).foldl (· + ·) 0

/-- The journal of 8 GiB is full (R411). -/
def State.journalFull (s : State) : Bool := decide (2 ^ 33 ≤ s.journalUse)

/-- W(G) + 1 (R405): the least of C and the dirty marks of a gang. -/
def State.seasonedTo (s : State) (g : GangId) : Nat :=
  s.integ.dirty.foldl (fun m e => if e.1 / 256 = g.toNat then min m (e.2.getD m) else m) s.integ.c

/-- A unit whose SEASONED field may be written (R407): stamped, its stamp reached, every unit it depends on seasoned. -/
def State.ripe (s : State) (u : WorkUnit) : Bool :=
  !u.replay
    && (match u.stamp with
        | some g => decide (g < s.seasonedTo u.gang)
        | none => false)
    && u.deps.all (fun d => (s.unit d).isNone)

/-- A unit is seasoned (R407, R410): SEASONED holds the status that GREEN holds, and its journal records are freed. -/
def State.seasonUnit (s : State) (u : WorkUnit) : State :=
  let s := match u.crec with
    | some c => s.gangPut u.gang (c + 24) (field u.green 16 1)
    | none => s
  let units := s.integ.units.filter (fun v => v.id != u.id)
  let jrn := s.integ.journal.filter (fun r => if units.isEmpty then r.unit.isSome && r.unit != some u.id else r.unit != some u.id)
  let rings := Sparse.mapVals {} (fun (r : HostRing) => { r with greens := r.greens.filter (fun e => e.2 != u.id) }) s.disp.hostRings
  { s with
    integ := { s.integ with units := units, journal := jrn }
    disp := { s.disp with hostRings := rings } }

/-- Season every unit that is ripe, those that depend on others after them. -/
def State.seasonUnits : Nat → State → State
  | 0, s => s
  | n + 1, s =>
    match s.integ.units.find? (fun u => s.ripe u) with
    | none => s
    | some u => State.seasonUnits n (s.seasonUnit u)

/-- A RETRACT of a host ring of a gang waits for room: until it stands in the ring, no entry is seasoned (R326). -/
def State.retracting (s : State) (g : GangId) : Bool := s.disp.hostRings.any (fun r => r.2.gang == some g && r.2.retract.isSome)

/-- Write W(G) to the SEASVA word of each host ring of a gang whose level has risen (R405, R326). -/
def State.seasonRings (s : State) : State :=
  s.disp.hostRings.foldl (fun (s : State) r =>
    match r.2.gang with
    | none => s
    | some g =>
      let w := s.seasonedTo g
      if w ≤ Sparse.get 0 s.integ.level g.toNat ∨ s.retracting g then s
      else s.gangPut g r.2.hrseasva.toNat (w - 1)) s

/-- Keep the levels written (R405). -/
def State.noteLevels (s : State) : State :=
  s.disp.hostRings.foldl (fun (s : State) r =>
    match r.2.gang with
    | none => s
    | some g =>
      let l := if s.retracting g then Sparse.get 0 s.integ.level g.toNat else max (Sparse.get 0 s.integ.level g.toNat) (s.seasonedTo g)
      { s with integ := { s.integ with level := Sparse.put 0 s.integ.level g.toNat l } }) s

/-- Seasoning goes as far as the levels allow (R405, R407). -/
def State.season (s : State) : State :=
  let s := s.seasonRings.noteLevels
  State.seasonUnits s.integ.units.length s

/-- A unit has ended (R289, R407): the final GREEN status, FSTEP and FINFO are written together and the unit is stamped. -/
def State.stampUnit (s : State) (id : Nat) (img : List Byte) : State :=
  match s.unit id with
  | none => s
  | some u =>
    let s := match u.crec with
      | some c => s.gangStore u.gang c (clean img)
      | none => s
    s.onUnit id (fun u => { u with stamp := some s.integ.c, green := img, replay := false })

/-- A queue slot (R313). -/
def State.slot (s : State) (q : SlotId) : QSlot := Sparse.get {} s.disp.slots q.toNat

/-- Replace a queue slot. -/
def State.setSlotQ (s : State) (q : SlotId) (t : QSlot) : State :=
  { s with disp := { s.disp with slots := Sparse.put {} s.disp.slots q.toNat t } }

/-- Change a queue slot. -/
def State.onSlot (s : State) (q : SlotId) (f : QSlot → QSlot) : State := s.setSlotQ q (f (s.slot q))

/-- A packet or a launched unit is complete: its place in its queue, and its entry of the pending-launch pool, are free
(R203, R285, R319). -/
def State.closeOrigin (s : State) : Origin → State
  | .packet q i => s.onSlot q (fun t => { t with open_ := t.open_.filter (fun o => o != i) })
  | .launched q id =>
    let s := s.onSlot q (fun t => { t with launched := t.launched.filter (fun l => l.id != id) })
    { s with disp := { s.disp with poolUsed := s.disp.poolUsed - 1 } }
  | .node .. => s

end Sys2Proof.Machine
end

