-- ==== Sys2Proof/Machine/Graphs.lean ====
section
/-! DEFINITION. Graphs: descriptors, edges, readiness, re-arming and completion (R286-R290, R334, R335). -/

namespace Sys2Proof.Machine

open Sys2Proof

/-- Node types (R286). -/
def nodeJig : Nat := 1
/-- COPY (R286). -/
def nodeCopy : Nat := 2
/-- HOSTRING (R286). -/
def nodeRing : Nat := 3
/-- COND (R286). -/
def nodeCond : Nat := 4
/-- SIGNAL (R286). -/
def nodeSignal : Nat := 5
/-- WAIT (R286). -/
def nodeWait : Nat := 6

/-- A field of a node record or a packet by its byte offset. -/
def Node.fld (n : Node) (o k : Nat) : Nat := field n.body o k

/-- Whether every byte of a record from an offset up to `z` is zero. -/
def zeroFrom (d : List Byte) (o z : Nat) : Bool := ((d.drop o).take (z - o)).all (fun b => b == 0)

/-- The rules of a BODY by its type (R286, R288, R318, R325); `rings` host rings belong to the partition. -/
def bodyValid (ty : Nat) (d : List Byte) (rings : Nat) : Bool :=
  match ty with
  | 1 => field d 16 8 % 64 == 0 && field d 24 8 % 32 == 0 && zeroFrom d 32 64
  | 2 => decide (1 ≤ field d 32 4) && zeroFrom d 36 64
  | 3 => decide (field d 16 2 < rings) && zeroFrom d 18 20 && field d 24 8 % 8 == 0 && zeroFrom d 32 64
  | 4 => field d 16 8 % 8 == 0 && decide (field d 32 1 ≤ 3) && zeroFrom d 33 64
  | 5 => field d 16 8 % 8 == 0 && decide (field d 32 1 ≤ 1) && zeroFrom d 35 64
  | 6 => field d 16 8 % 8 == 0 && decide (field d 32 1 ≤ 3) && zeroFrom d 33 64
  | _ => false

/-- The node of a 64-byte node record. -/
def nodeOf (d : List Byte) : Node :=
  { ty := BitVec.ofNat 8 (field d 0 1)
    npred := BitVec.ofNat 8 (field d 1 1)
    succ := (List.range 4).map (fun i => BitVec.ofNat 16 (field d (2 + 2 * i) 2))
    body := d }

/-- The successors of a node. -/
def Node.outs (n : Node) : List Nat := (n.succ.filter (fun s => s != 0xFFFF#16)).map BitVec.toNat

/-- Edges into a node, without those into ENTRY. -/
def edgesInto (ns : List Node) (entry j : Nat) : Nat :=
  if j = entry then 0 else ns.foldl (fun k n => k + (n.outs.filter (fun s => s == j)).length) 0

/-- Whether the nodes outside `done` can be taken away one after another, each with no edge from one that is left: no
cycle without the edges into ENTRY (R286). -/
def acyclicFrom (ns : List Node) (entry : Nat) : Nat → List Nat → Bool
  | 0, left => left.isEmpty
  | f + 1, left =>
    let free := left.filter (fun j => left.all (fun i => j == entry || !((ns.getD i default).outs.contains j)))
    if left.isEmpty then true else if free.isEmpty then false
    else acyclicFrom ns entry f (left.filter (fun j => !free.contains j))
where
  /-- A node for an index out of range. -/
  default : Node := { ty := 0, npred := 0, succ := [], body := [] }

/-- The nodes and the entry of a graph descriptor whose header and nodes are given, none where it is invalid (R286). -/
def graphOf (h d : List Byte) (rings : Nat) : Option (List Node × Nat) :=
  let n := field h 0 2
  let e := field h 2 2
  if n = 0 ∨ 1024 < n ∨ n ≤ e ∨ !zeroFrom h 4 64 then none
  else
    let rs := (List.range n).map (fun i => (d.drop (64 * i)).take 64)
    let ns := rs.map nodeOf
    let ok := (rs.zip ns).zipIdx.all (fun c =>
      let r := c.1.1
      let x := c.1.2
      decide (1 ≤ x.ty.toNat) && decide (x.ty.toNat ≤ 6) && zeroFrom r 10 16
        && x.outs.all (fun s => decide (s < n))
        && x.npred.toNat == edgesInto ns e c.2
        && (x.ty.toNat != nodeCond || (x.succ.drop 2).all (fun s => s == 0xFFFF#16))
        && bodyValid x.ty.toNat r rings)
    if ok && acyclicFrom ns e n (List.range n) then some (ns, e) else none

/-- A graph in flight. -/
def State.graph (s : State) (g : Nat) : Option Graph := Sparse.get none s.disp.graphs g

/-- Replace a graph. -/
def State.setGraph (s : State) (g : Nat) (x : Option Graph) : State :=
  { s with disp := { s.disp with graphs := Sparse.put none s.disp.graphs g x } }

/-- A node of a graph. -/
def Graph.node (g : Graph) (i : Nat) : Node := g.nodes.getD i { ty := 0, npred := 0, succ := [], body := [], st := .settled }

/-- Replace a node of a graph. -/
def Graph.setNode (g : Graph) (i : Nat) (n : Node) : Graph := { g with nodes := g.nodes.set i n }

/-- Whether a node is ready (R287): every edge into it has delivered, or a poisoned predecessor has. -/
def Node.ready (n : Node) : Bool := n.st == .pending && (n.poisonIn || n.gotDone + n.gotSkip == n.npred.toNat)

/-- An edge delivers to node `j`: done or skip, from a poisoned predecessor or not (R287); an edge into ENTRY re-arms the
graph on done and does nothing on skip (R288, R334). -/
def Graph.deliver (g : Graph) (j : Nat) (done pois : Bool) (deps : List Nat) : Graph :=
  if j = g.entry then (if done then { g with rearm := true, rearmDeps := g.rearmDeps ++ deps } else g)
  else
    let n := g.node j
    if n.st ≠ .pending then g
    else
      let n := if done then { n with gotDone := n.gotDone + 1 } else { n with gotSkip := n.gotSkip + 1 }
      g.setNode j { n with poisonIn := n.poisonIn || pois, deps := n.deps ++ deps }

/-- A node delivers on its out-edges: done on all or skip on all, or for a COND done on the edge its comparison chose
(R287, R288). -/
def Graph.emit (g : Graph) (i : Nat) (done pois : Bool) (cond : Option Bool) (deps : List Nat) : Graph :=
  ((g.node i).succ.zipIdx).foldl (fun g c =>
    if c.1 = 0xFFFF#16 then g
    else
      let d := match cond with
        | some b => done && (if b then c.2 == 0 else c.2 == 1)
        | none => done
      g.deliver c.1.toNat d pois deps) g

/-- Every node returns to PENDING with its counts cleared (R288). -/
def Graph.arm (g : Graph) (deps : List Nat) : Graph :=
  { g with
    rearm := false
    rearmDeps := []
    nodes := g.nodes.zipIdx.map (fun c =>
      { c.1 with
        st := .pending
        gotDone := 0
        gotSkip := 0
        poisonIn := false
        deps := if c.2 = g.entry then deps ++ g.rearmDeps else deps }) }

/-- The final status of a graph (R290, R321): CANCELLED where it was cancelled, else the worst of its nodes. -/
def Graph.status (g : Graph) : Nat :=
  if g.cancelled then statusCancelled
  else if g.poisonedInput then statusPoisonedInput
  else if g.err.isSome then statusError
  else statusDone

/-- The bytes [23:0] of a graph's completion record (R289, R335). -/
def Graph.image (g : Graph) : List Byte :=
  match g.err with
  | some (n, f) => greenImage g.status g.poisoned g.done n f
  | none => greenImage g.status g.poisoned g.done noStep {}

/-- The unit of its own that a node has run as: a jig, a COPY, or a HOSTRING entry appended. -/
def Graph.ownUnit (g : Graph) (i status : Nat) (deps : List Nat) : Option Nat :=
  let ty := (g.node i).ty.toNat
  if ty = nodeJig ∨ ty = nodeCopy ∨ (ty = nodeRing ∧ status = statusDone) then deps.head? else none

/-- The FINFO in the bytes [23:0] of a completion record (R289). -/
def infoOf (img : List Byte) : FInfo :=
  { cause := BitVec.ofNat 16 (field img 0 2), core := BitVec.ofNat 8 (field img 2 1), cv := (field img 3 1).testBit 0 }

/-- A unit has run again with this outcome: where a node of a graph ran as it, the graph's count, poison and first ERROR follow
(R290, R414). -/
def Graph.restate (g : Graph) (id : Nat) (img : List Byte) : Graph :=
  if g.outcomes.all (fun o => o.unit != some id) then g
  else
    let os := g.outcomes.map (fun o => if o.unit = some id then
      { o with status := field img 16 1, pois := (field img 17 1).testBit 0, info := infoOf img } else o)
    { g with
      outcomes := os
      done := (os.filter (fun o => o.status == statusDone)).length
      poisoned := os.any (fun o => o.pois)
      err := (os.find? (fun o => o.status == statusError)).map (fun o => (o.node, o.info)) }

/-- What a unit's second run gave is noted in the graphs that it belongs to, in flight or complete (R414, log entry 113). -/
def State.restate (s : State) (id : Nat) (img : List Byte) : State :=
  { s with
    disp := { s.disp with graphs := Sparse.mapVals none (fun g => g.map (fun g => g.restate id img)) s.disp.graphs }
    integ := { s.integ with units := s.integ.units.map (fun u => { u with graph := u.graph.map (fun g => g.restate id img) }) } }

/-- A graph goes on: with no node started or ready it is re-armed, or complete (R287, R288, R290). -/
def State.settleGraph (s : State) (k : Nat) : State :=
  match s.graph k with
  | none => s
  | some g =>
    let live := g.nodes.any (fun n => n.st == .started || (n.ready && !g.cancelled))
    let waits := (s.unit g.id).any (fun u => u.deps.any (fun d => (s.unit d).any (fun v => v.replay)))
    if live || g.multi.isSome || waits then s
    else if g.rearm && !g.cancelled then
      s.setGraph k (some (g.arm g.deps))
    else
      let s := (s.setGraph k none).onUnit g.id (fun u => { u with graph := some g })
      (s.stampUnit g.id g.image).closeOrigin g.origin

/-- Whether every edge into a node has delivered, and each of them skip (R287). -/
def Node.allSkip (n : Node) : Bool := n.npred != 0#8 && n.gotSkip == n.npred.toNat

/-- The completion record of a JIG node that is settled without being started (R289, R290): its final status, no step. -/
def State.unstarted (s : State) (g : Graph) (n : Node) (status : Nat) : State :=
  if n.ty.toNat ≠ nodeJig then s
  else
    let r := s.newUnit (fun id =>
      { id := id, gang := g.gang, slot := g.slot, kind := .graph, crec := some (n.fld 24 8), deps := n.deps })
    (r.1.onUnit g.id (fun u => { u with deps := u.deps ++ [r.2] })).stampUnit r.2 (greenImage status false 0 noStep {})

/-- A node is settled without being started: CANCELLED where every edge has delivered skip, else POISONED_INPUT; skip is sent on every
out-edge (R287). -/
def State.settleNode (s : State) (k i : Nat) (g : Graph) : State :=
  let n := g.node i
  let h := g.setNode i { n with st := .settled }
  if n.allSkip then (s.unstarted g n statusCancelled).setGraph k (some (h.emit i false false none n.deps))
  else
    let h := { h with poisonedInput := true }
    (s.unstarted g n statusPoisonedInput).setGraph k (some (h.emit i false true none n.deps))

/-- Nodes to which a poisoned predecessor has delivered are settled at once, and those that this reaches (R287, log entry 96). -/
def State.settlePoisoned : Nat → State → Nat → State
  | 0, s, _ => s
  | f + 1, s, k =>
    match s.graph k with
    | none => s
    | some g =>
      if g.cancelled || g.multi.isSome then s
      else
        match (List.range g.nodes.length).find? (fun i => (g.node i).st == .pending && (g.node i).poisonIn) with
        | none => s
        | some i => State.settlePoisoned f (s.settleNode k i g) k

/-- What a node that has ended or been settled has delivered takes effect (R287). -/
def State.spread (s : State) (k : Nat) : State :=
  match s.graph k with
  | none => s
  | some g => (State.settlePoisoned g.nodes.length s k).settleGraph k

/-- A node has ended with a status (R287, R289, R290): DONE sends done, ERROR and CANCELLED send skip. -/
def State.nodeEnd (s : State) (k i : Nat) (status : Nat) (pois : Bool) (f : FInfo) (cond : Option Bool) (deps : List Nat) : State :=
  match s.graph k with
  | none => s
  | some g =>
    let o : NodeOut := { node := i, unit := g.ownUnit i status deps, status := status, pois := pois, info := f }
    let g := g.setNode i { g.node i with st := .settled }
    let g := { g with
      done := if status = statusDone then g.done + 1 else g.done
      poisoned := g.poisoned || pois
      err := if status = statusError then g.err.or (some (i, f)) else g.err
      outcomes := g.outcomes ++ [o] }
    (s.setGraph k (some (g.emit i (status == statusDone) pois cond deps))).spread k

/-- A ready node is settled without being started, where every edge has delivered skip or a poisoned predecessor has delivered. None
where it is to be started. -/
def State.nodeSettle (s : State) (k i : Nat) : Option State :=
  match s.graph k with
  | none => some s
  | some g =>
    let n := g.node i
    if !n.ready || g.cancelled || g.multi.isSome then some s
    else if n.allSkip || n.poisonIn then some ((s.settleNode k i g).spread k)
    else none

/-- A node is started. -/
def State.nodeStart (s : State) (k i : Nat) : State :=
  match s.graph k with
  | none => s
  | some g => s.setGraph k (some (g.setNode i { g.node i with st := .started }))

/-- The lowest number that no graph in flight has. -/
def State.freeGraph (s : State) : Nat := ((List.range (s.disp.graphs.length + 1)).find? (fun k => (s.graph k).isNone)).getD 0

/-- A unit of work belongs to a graph: the graph's own unit depends on it. -/
def State.joinGraph (s : State) (k id : Nat) : State :=
  match s.graph k with
  | none => s
  | some g => s.onUnit g.id (fun u => { u with deps := u.deps ++ [id] })

end Sys2Proof.Machine
end

