-- ==== Sys2Proof/Machine/JigRecord.lean ====
section
/-! DEFINITION. The jig record: its fields, when it is valid, and the loop indices of its steps (R271-R273). -/

namespace Sys2Proof.Machine

open Sys2Proof

/-- NLEV (R271). -/
def recNlev (r : List Byte) : Nat := field r 139 1
/-- PLOG (R271). -/
def recPlog (r : List Byte) : Nat := field r 138 1
/-- The panel size, 2^PLOG. -/
def recSize (r : List Byte) : Nat := 2 ^ recPlog r
/-- FLAGS.TWIN (R271). -/
def recTwin (r : List Byte) : Bool := (field r 137 1).testBit 0
/-- FLAGS.SKIP (R271). -/
def recSkip (r : List Byte) : Bool := (field r 137 1).testBit 1
/-- FLAGS.INDIRECT (R271). -/
def recIndirect (r : List Byte) : Bool := (field r 137 1).testBit 2
/-- SKIPD (R271). -/
def recSkipd (r : List Byte) : Nat := field r 136 1
/-- ICOUNT (R271). -/
def recIcount (r : List Byte) : Nat := field r 128 8
/-- TLIMIT in ms (R271). -/
def recTlimit (r : List Byte) : Nat := field r 124 4
/-- Nibble `k` of ORDER (R271). -/
def recOrder (r : List Byte) (k : Nat) : Nat := fld (field r 140 4) (4 * k) 4
/-- E(k) (R271). -/
def recE (r : List Byte) (k : Nat) : Nat := field r (168 + 4 * k) 4
/-- CODE (R271). -/
def recCode (r : List Byte) : Nat := field r 160 8
/-- CODELEN (R271). -/
def recCodelen (r : List Byte) : Nat := field r 156 4
/-- ARGADDR (R271). -/
def recArgaddr (r : List Byte) : Nat := field r 152 4
/-- DBASE (R271). -/
def recDbase (r : List Byte) : Nat := field r 148 4
/-- DN (R271). -/
def recDn (r : List Byte) : Nat := field r 146 2
/-- DSZLOG (R271). -/
def recDszlog (r : List Byte) : Nat := field r 145 1
/-- STAGE word `k` (R271). -/
def recStage (r : List Byte) (k : Nat) : Word := word (field r (200 + 8 * k) 8)

/-- An extent declaration (R271). -/
structure Ext where
  base : Nat
  len : Nat
  r : Bool
  w : Bool
  deriving DecidableEq, Repr

/-- Extent declaration `k` of EXT (R271). -/
def recExt (r : List Byte) (k : Nat) : Ext :=
  let o := 384 + 16 * k
  ⟨field r o 8, field r (o + 8) 5, (field r (o + 13) 1).testBit 0, (field r (o + 13) 1).testBit 1⟩

/-- E(k) with the count in force for E0 (R322). -/
def extents (r : List Byte) (e0 k : Nat) : Nat := if k = 0 then e0 else recE r k

/-- The product of the declared extents (R272, R273). -/
def totalOf (r : List Byte) (e0 : Nat) : Nat := (List.range (recNlev r)).foldl (fun t k => t * extents r e0 k) 1

/-- The index of each level at step `n` (R273). -/
def indices (r : List Byte) (e0 n : Nat) : List Nat :=
  let l := recNlev r
  let f := (List.range l).foldl (fun (s : Nat × List (Nat × Nat)) q =>
    let lvl := recOrder r (l - 1 - q)
    let e := max 1 (extents r e0 lvl)
    (s.1 / e, (lvl, s.1 % e) :: s.2)) (n, [])
  (List.range 8).map (fun k => ((f.2.find? (fun c => c.1 == k)).map (fun c => c.2)).getD 0)

/-- An EXT or WSET entry with its zero fields zero and its LENGTH in range (R271); `perm` bits of byte 13 are in use. -/
def extValid (r : List Byte) (o perm : Nat) : Bool :=
  decide (field r o 8 < 2 ^ 56) && decide (field r (o + 8) 5 ≤ 2 ^ 32) && decide (field r (o + 13) 1 < 2 ^ perm)
    && field r (o + 14) 2 == 0

/-- The scratchpad regions of a record: the argument block, the drawer region and the stage rings (R272). -/
def recRegions (r : List Byte) : List (Nat × Nat) :=
  [(recArgaddr r, 64)]
    ++ (if recDn r = 0 then [] else [(recDbase r, recDn r * 2 ^ recDszlog r)])
    ++ ((List.range 8).filter (fun k => fld (recStage r k).toNat 55 7 != 0)).map (fun k =>
      let g : StageRing := { conf := recStage r k }
      (g.slotAddr 0, g.count * g.slotBytes))

/-- Regions lie below 0x002F_F000 and no two of them overlap (R272). -/
def regionsValid : List (Nat × Nat) → Bool
  | [] => true
  | (a, n) :: t =>
    decide (a + n ≤ 0x2FF000) && t.all (fun c => decide (c.1 + c.2 ≤ a) || decide (a + n ≤ c.1) || c.2 == 0 || n == 0)
      && regionsValid t

/-- A STAGE word has HEAD and TAIL zero and declares no ring (COUNT 0) or a valid one (R224, R271, R272). -/
def stageValid (c : Word) : Bool :=
  fld c.toNat 43 12 == 0 && (fld c.toNat 55 7 == 0 || confValid c)

/-- The drawer region of a record (R230, R271). -/
def drawersValid (r : List Byte) : Bool :=
  if recDn r = 0 then recDszlog r == 0
  else
    decide (recDn r ≤ 4096) && decide (6 ≤ recDszlog r) && decide (recDszlog r ≤ 16)
      && recDbase r % 2 ^ recDszlog r == 0 && decide (recDn r * 2 ^ recDszlog r ≤ 2 ^ 21)

/-- ORDER at positions below NLEV is a permutation of the levels, and the other nibbles are zero (R272). -/
def orderValid (r : List Byte) : Bool :=
  let l := recNlev r
  (List.range l).all (fun v => (List.range l).any (fun k => recOrder r k == v))
    && (List.range 8).all (fun k => decide (k < l) || recOrder r k == 0)

/-- A record is valid (R271, R272). -/
def recValid (r : List Byte) : Bool :=
  zeroFrom r 0 124 && field r 144 1 == 0 && decide (field r 137 1 < 8)
    && (List.range 8).all (fun k => extValid r (384 + 16 * k) 2 && (field r (392 + 16 * k) 5 == 0 || field r (397 + 16 * k) 1 != 0))
    && (List.range 4).all (fun k => extValid r (320 + 16 * k) 1)
    && decide (recNlev r ≤ 8) && decide (recPlog r ≤ 4)
    && (if recSkip r then decide (recSkipd r < 64) else recSkipd r == 0)
    && (recIndirect r || recIcount r == 0)
    && recCodelen r % 4 == 0 && decide (4 ≤ recCodelen r) && decide (recCodelen r ≤ 65536) && recArgaddr r % 64 == 0
    && (List.range (recNlev r)).all (fun k => decide (1 ≤ recE r k)) && decide (totalOf r (recE r 0) ≤ 2 ^ 32)
    && orderValid r
    && (List.range 8).all (fun k => stageValid (recStage r k))
    && drawersValid r && regionsValid (recRegions r) && !(recSkip r && recTwin r)

end Sys2Proof.Machine
end

