-- ==== Sys2Proof/Machine/Launch.lean ====
section
/-! DEFINITION. Partitions and walkers, the taking of jigs and graphs, and their completion (R272, R273, R281, R286, R289,
R290, R292, R300, R322, R328, R329, R408). -/

namespace Sys2Proof.Machine

open Sys2Proof

/-- Cores of a partition (R328). -/
def State.partCores (s : State) : Nat := 256 / max 1 s.disp.parts

/-- Queue slots of a partition (R328). -/
def State.partSlots (s : State) : Nat := 128 / max 1 s.disp.parts

/-- Host rings of a partition (R328). -/
def State.partRings (s : State) : Nat := 256 / max 1 s.disp.parts

/-- The aligned groups of `n` cores of a partition, by their base cores (R277, R328). -/
def State.groups (s : State) (part n : Nat) : List Nat :=
  (List.range (s.partCores / n)).map (fun i => part * s.partCores + i * n)

/-- A core is retired (R406). -/
def State.isRetired (s : State) (k : Nat) : Bool := Sparse.get false s.integ.retired k

/-- The aligned groups free of retired cores (R408). -/
def State.soundGroups (s : State) (part n : Nat) : List Nat :=
  (s.groups part n).filter (fun b => (List.range n).all (fun r => !s.isRetired (b + r)))

/-- Whether a jig of panel size `n` can ever run: an aligned group free of retired cores is left in its partition, for a
twin jig in each half (R283, R408). -/
def State.canRun (s : State) (part n : Nat) (twin : Bool) : Bool :=
  let gs := s.soundGroups part n
  if twin then gs.any (fun b => !halfOf b) && gs.any halfOf else !gs.isEmpty

/-- A jig in a walker pair. -/
def State.jig (s : State) (w : Nat) : Option Jig := Sparse.get none s.disp.jigs w

/-- Replace the jig of a walker pair. -/
def State.setJig (s : State) (w : Nat) (j : Option Jig) : State :=
  { s with disp := { s.disp with jigs := Sparse.put none s.disp.jigs w j } }

/-- Change the jig of a walker pair. -/
def State.onJig (s : State) (w : Nat) (f : Jig → Jig) : State := s.setJig w ((s.jig w).map f)

/-- A walker pair, or with a base and a size a panel, that a GRAPH part of a MULTI launch has reserved (R329). -/
def State.graphHolds (s : State) (f : Nat × Nat × Nat → Bool) : Bool :=
  s.disp.graphs.any (fun e => match e.2 with
    | some g => g.reserved.any f
    | none => false)

/-- The lowest free walker pair (R273). -/
def State.freeWalker (s : State) : Option Nat :=
  (List.range 64).find? (fun w => (s.jig w).isNone && !s.graphHolds (fun r => r.1 == w))

/-- A skip-eligible descriptor (R291). -/
def State.desc (s : State) (d : Nat) : SkipDesc := Sparse.get {} s.disp.descs d

/-- Replace a skip-eligible descriptor. -/
def State.setDesc (s : State) (d : Nat) (x : SkipDesc) : State :=
  { s with disp := { s.disp with descs := Sparse.put {} s.disp.descs d x } }

/-- A jig or graph that has been taken has ended before any step or node started: ERROR with a cause (R272, R286). -/
def State.failUnit (s : State) (id : Nat) (o : Origin) (cause : Nat) : State :=
  let s := s.stampUnit id (greenImage statusError false 0 noStep (plainCause cause))
  match o with
  | .node g i => s.nodeEnd g i statusError false (plainCause cause) none [id]
  | _ => s.closeOrigin o

/-- The core that raised a FINFO, for a graph's FINFO (R289): a JIG node's own. -/
def Jig.finfo (j : Jig) : FInfo :=
  match j.err with
  | some (_, f) => f
  | none =>
    match j.cause with
    | some c => plainCause c
    | none => {}

/-- The final status of a jig (R290). -/
def Jig.status (j : Jig) : Nat :=
  if j.cancelled then statusCancelled else if j.err.isSome || j.cause.isSome then statusError else statusDone

/-- The bytes [23:0] of a jig's completion record (R289). -/
def Jig.image (j : Jig) : List Byte :=
  greenImage j.status j.poisoned j.good (match j.err with
    | some (n, _) => n
    | none => noStep) j.finfo

/-- Whether a jig has nothing left to do (R264, R290): nothing runs, and every step has ended or none will be started. -/
def Jig.isOver (j : Jig) : Bool :=
  j.running.isEmpty && (j.cancelled || j.cause.isSome || (decide (j.total ≤ j.next) && j.rerun.isEmpty)) && !j.waits

/-- A jig is complete (R289, R300): its record is written, its walker pair is free, the descriptor moves on. -/
def State.endJig (s : State) (w : Nat) : State :=
  match s.jig w with
  | none => s
  | some j =>
    let s := s.setJig w none
    let s := match j.skip with
      | some (d, _) =>
        let x := s.desc d.toNat
        if j.again then (if x.bound || x.busy then s else s.setDesc d.toNat {})
        else if x.bound then s.setDesc d.toNat { x with cur := x.cur + 1, busy := false }
        else s.setDesc d.toNat {}
      | none => s
    let s := s.stampUnit j.id j.image
    if j.again then s.restate j.id j.image
    else
      match j.origin with
      | .node g i => s.nodeEnd g i j.status j.poisoned j.finfo none [j.id]
      | o => s.closeOrigin o

/-- A jig completes once it has nothing left to do. -/
def State.tryEndJig (s : State) (w : Nat) : State :=
  match s.jig w with
  | some j => if j.isOver then s.endJig w else s
  | none => s

/-- What is known when a unit is taken: its gang, slot, depth, completion record, origin, the units it depends on, and the
GID and PMASK of a MULTI launch. -/
structure Take where
  gang : GangId
  slot : SlotId
  depth : Nat
  crec : Nat
  origin : Origin
  deps : List Nat
  multi : Option (BitVec 32 × Byte) := none
  /-- The effective priority with which it is taken (R280). -/
  prio : Nat
  deriving DecidableEq, Repr

/-- How the reading of a jig's record ends: a cause, no step to run, or the record with E0 (R272, R292, R322). -/
inductive RecEnd where
  | cause (c : Nat)
  | empty (r : List Byte)
  | good (r : List Byte) (e0 : Nat)
  deriving DecidableEq, Repr

/-- Read and check a jig record, its indirect count, which the journal records, and its code image (R271, R272, R322, R410). -/
def State.readJig (s : State) (g : GangId) (va : Nat) : State × RecEnd :=
  match s.gangRead g va 512 with
  | (s, none) => (s, .cause 0x204)
  | (s, some d) =>
    let r := plain d
    if !recValid r then (s, .cause 0x203)
    else
      let c : State × Option (Option Nat) :=
        if !recIndirect r then (s, some (some (recE r 0)))
        else if recIcount r % 4 ≠ 0 then (s, some none)
        else
          match s.gangRead g (recIcount r) 4 with
          | (s, none) => (s, none)
          | (s, some d) => (s.journal (.control s.disp.nextUnit (leNat (plain d))), some (some (leNat (plain d))))
      match c with
      | (s, none) => (s, .cause 0x204)
      | (s, some none) => (s, .cause 0x203)
      | (s, some (some e0)) =>
        if recIndirect r ∧ e0 = 0 then (s, .empty r)
        else if 2 ^ 32 < totalOf r e0 then (s, .cause 0x203)
        else
          match s.gangRead g (recCode r) (recCodelen r) with
          | (s, none) => (s, .cause 0x204)
          | (s, some _) => (s, .good r e0)

/-- The lowest free panel: an aligned group of `n` cores of a partition that are free and not kept for another jig (R273,
R278). -/
def State.coreFree (s : State) (w k : Nat) : Bool :=
  let c := s.core k
  c.step.isNone && !c.testing && !s.isRetired k
    && s.disp.jigs.all (fun e => e.1 == w || (match e.2 with
        | some j => j.reserved.all (fun b => !(decide (b ≤ k) && decide (k < b + recSize j.record)))
        | none => true))
    && !s.graphHolds (fun r => decide (r.2.1 ≤ k) && decide (k < r.2.1 + r.2.2))

/-- The free panels of `n` cores for the jig of a walker pair, in increasing order (R273). -/
def State.freePanels (s : State) (w part n : Nat) : List Nat :=
  (s.soundGroups part n).filter (fun b => (List.range n).all (fun r => s.coreFree w (b + r)))

/-- The write-set entries marked INPLACE are recorded before a jig starts (R410). -/
def State.journalInplace (s : State) (id : Nat) (g : GangId) (r : List Byte) : State :=
  (writeSetOf r).foldl (fun s e =>
    if !e.2.2 then s
    else
      match s.gangRead g e.1 e.2.1 with
      | (s, some d) => s.journal (.inplace id g e.1 d)
      | (s, none) => s) s

/-- QCONF.PRIO (R280, R313). -/
def QSlot.prio (x : QSlot) : Nat := fld x.qconf.toNat 10 3

/-- The cycle since which a queue has been eligible; the present one where it is not known to be (R280). -/
def State.eligibleFrom (s : State) (q : SlotId) : Nat := (Sparse.get none s.disp.since q.toNat).getD s.clock

/-- The effective priority of a queue (R280): PRIO, and one more for each 256 µs (R1: 640,000 cycles) for which its head has been
eligible, at most 7. -/
def State.slotPrio (s : State) (q : SlotId) : Nat := min 7 ((s.slot q).prio + (s.clock - s.eligibleFrom q) / 640000)

/-- The next place in the order of waiting (R280). -/
def State.nextPlace (s : State) : Nat × State :=
  (s.disp.nextWait, { s with disp := { s.disp with nextWait := s.disp.nextWait + 1 } })

/-- A jig that runs on a skip-eligible descriptor, other than one held for the replay of what it depends on (R292, R414). -/
def State.descRuns (s : State) (d : Nat) : Bool :=
  s.disp.jigs.any (fun e => match e.2 with
    | some j => j.skip.any (fun x => x.1.toNat == d) && !j.waits
    | none => false)

/-- Take a jig (R272, R273, R281, R292, R322, R408): none where it cannot be taken yet, for lack of a walker pair, for a
descriptor that a jig still runs on, or for a panel that a MULTI launch must reserve. An indirect count of 0 completes the jig DONE
without a look at the descriptor it may name (R272, R322; R292 would refuse its total: log entry 114). -/
def State.takeJig (s : State) (t : Take) (va : Nat) : Option (State × Nat) :=
  match s.freeWalker with
  | none => none
  | some w =>
    let part := (s.gang t.gang.toNat).part.toNat
    let rd := s.readJig t.gang va
    let new (s : State) (k : UnitKind) : State × Nat :=
      s.newUnit (fun id => { id := id, gang := t.gang, slot := t.slot, kind := k, crec := some t.crec, deps := t.deps })
    let fail (c : Nat) : State × Nat :=
      let q := (rd.1.markRunning t.gang t.crec, 0)
      let q := new q.1 .graph
      (q.1.failUnit q.2 t.origin c, q.2)
    match rd.2 with
    | .cause c => some (fail c)
    | .empty _ =>
      let q := new (rd.1.markRunning t.gang t.crec) .graph
      let s := q.1.stampUnit q.2 (greenImage statusDone false 0 noStep {})
      some (match t.origin with
        | .node g i => s.nodeEnd g i statusDone false {} none [q.2]
        | o => s.closeOrigin o, q.2)
    | .good r e0 =>
      let total := totalOf r e0
      let d := recSkipd r
      let x := s.desc d
      if recSkip r && (x.busy || s.descRuns d) then none
      else if recSkip r && !(x.bound && x.gang == t.gang && decide (x.cur < x.ns) && total == x.nt) then some (fail 0x203)
      else if !s.canRun part (recSize r) (recTwin r) then some (fail 0x206)
      else
        let res := if t.multi.isSome then (s.freePanels 64 part (recSize r)).head? else none
        if t.multi.isSome && res.isNone then none
        else
          let place := rd.1.nextPlace
          let j : Jig :=
            { id := s.disp.nextUnit
              origin := t.origin
              gang := t.gang
              slot := t.slot
              depth := t.depth
              crec := t.crec
              record := r
              e0 := e0
              total := total
              skip := if recSkip r then some (BitVec.ofNat 6 d, x.cur) else none
              desc := x
              multi := t.multi
              reserved := res.toList
              prio := t.prio
              since := place.1 }
          let s := place.2.markRunning t.gang t.crec
          let q := new s (.jig j)
          let s := q.1.setJig w (some j)
          let s := if recSkip r then s.setDesc d { x with busy := true } else s
          some (s.journalInplace j.id t.gang r, j.id)

/-- The size of the panel that a GRAPH part of a MULTI launch reserves (R329, log entry 94): that of the jig of its entry node,
else one core. -/
def State.entrySize (s : State) (g : GangId) (n : Node) : Nat :=
  if n.ty.toNat = nodeJig then
    match (s.readJig g (n.fld 16 8)).2 with
    | .good r _ => recSize r
    | _ => 1
  else 1

/-- What a GRAPH part of a MULTI launch reserves: a walker pair and a panel (R329); none where it cannot. -/
def State.graphReserve (s : State) (g : GangId) (n : Node) : Option (Nat × Nat × Nat) :=
  let z := s.entrySize g n
  match s.freeWalker, (s.freePanels 64 (s.gang g.toNat).part.toNat z).head? with
  | some w, some b => some (w, b, z)
  | _, _ => none

/-- Take a graph (R273, R286, R287): its descriptor is read and checked whole, and its ready nodes can be started. None where no
walker pair is free, or where a MULTI part cannot reserve. -/
def State.takeGraph (s : State) (t : Take) (va : Nat) : Option (State × Nat) :=
  if s.freeWalker.isNone then none
  else
    let s := s.markRunning t.gang t.crec
    let q := s.newUnit (fun id =>
      { id := id, gang := t.gang, slot := t.slot, kind := .graph, crec := some t.crec, deps := t.deps })
    match q.1.gangRead t.gang va 64 with
    | (s, none) => some (s.failUnit q.2 t.origin 0x204, q.2)
    | (s, some h) =>
      let n := field (plain h) 0 2
      match s.gangRead t.gang (va + 64) (64 * (if n ≤ 1024 then n else 0)) with
      | (s, none) => some (s.failUnit q.2 t.origin 0x204, q.2)
      | (s, some d) =>
        match graphOf (plain h) (plain d) s.partRings with
        | none => some (s.failUnit q.2 t.origin 0x203, q.2)
        | some (ns, e) =>
          let g : Graph :=
            { id := q.2
              origin := t.origin
              gang := t.gang
              slot := t.slot
              depth := t.depth
              crec := t.crec
              entry := e
              nodes := ns
              multi := t.multi
              prio := t.prio
              deps := t.deps }
          let res := s.graphReserve t.gang (g.node e)
          if t.multi.isSome && res.isNone then none
          else
            let g := { g with reserved := if t.multi.isSome then res else none }
            some (s.setGraph s.freeGraph (some (g.arm t.deps)), q.2)

end Sys2Proof.Machine
end

