-- ==== Sys2Proof/Machine/Sequencer.lean ====
section
/-! DEFINITION. The denoise step sequencer: descriptors, skip maps, decisions and anchors (R291-R306), and SKIPR and SKIPW
(R205). -/

namespace Sys2Proof.Machine

open Sys2Proof

/-- An FP32 pattern that is neither infinite nor a NaN, times 2^149 (R29). -/
def scaled32 (w : Nat) : Int :=
  let e := fld w 23 8
  let m := fld w 0 23
  let v : Nat := if e = 0 then m else (2 ^ 23 + m) * 2 ^ (e - 1)
  if w.testBit 31 then -(v : Int) else v

/-- A finite FP32 pattern. -/
def finite32 (w : Nat) : Bool := fld w 23 8 != 255

/-- THETA and EPS are finite and not below −0 (R292). -/
def boundValid (w : Nat) : Bool := finite32 w && (!w.testBit 31 || fld w 0 31 == 0)

/-- A descriptor image is valid (R291, R292). -/
def descValid (d : List Byte) : Bool :=
  d.length == 64 && decide (field d 56 8 < 2 ^ 56) && field d 56 8 % 8 == 0
    && decide (field d 48 8 < 2 ^ 56) && field d 48 8 % 256 == 0
    && boundValid (field d 44 4) && boundValid (field d 40 4) && decide (1 ≤ field d 30 2)
    && decide (field d 29 1 < 2) && zeroFrom d 0 27

/-- A jig that has taken a descriptor runs or waits (R292). -/
def State.descBusy (s : State) (d : Nat) : Bool := (s.desc d).busy || s.descRuns d

/-- BIND_DESCRIPTOR (R291, R292): an image that is invalid is refused; CUR is written as 0. A descriptor that has been freed is
not bound while a jig that took it before still runs, and one that is BOUND is refused (log entry 95). -/
def execBindDescriptor (n : BitVec 6) (gang : GangId) (image : List Byte) (s : State) : Out :=
  if !descValid image || (s.desc n.toNat).bound || s.descBusy n.toNat then .next s
  else
    let x : SkipDesc :=
      { mapva := field image 56 8
        tsva := field image 48 8
        theta := BitVec.ofNat 32 (field image 44 4)
        eps := BitVec.ofNat 32 (field image 40 4)
        cur := 0
        nt := field image 34 2 + 1
        ns := field image 32 2 + 1
        pmax := field image 30 2
        abs := field image 29 1 == 1
        bound := true
        gang := gang }
    .next (s.setDesc n.toNat x)

/-- A descriptor is freed (R291): what a running jig has taken of it lasts until that jig completes (log entry 95). -/
def State.freeDesc (s : State) (n : Nat) : State :=
  s.setDesc n (if s.descBusy n then { s.desc n with bound := false } else {})

/-- FREE_DESCRIPTOR (R291). -/
def execFreeDescriptor (n : BitVec 6) (s : State) : Out := .next (s.freeDesc n.toNat)

/-- RS: bytes of a row of a plane (R294). -/
def SkipDesc.rowBytes (x : SkipDesc) : Nat := 8 * ((x.nt + 63) / 64)

/-- The address of the byte that holds entry (s, t) of plane `p`: 0 SKIP, 1 DECIDED, 2 FORCED (R294). -/
def SkipDesc.mapByte (x : SkipDesc) (p s t : Nat) : Nat := x.mapva + p * (x.ns * x.rowBytes) + s * x.rowBytes + t / 8

/-- A byte with the bit of a tile replaced; a poisoned byte counts as 0 (R306). -/
def withBit (b : PByte) (t : Nat) (v : Bool) : PByte :=
  let o : Byte := if b.2 then 0 else b.1
  (setFld o (t % 8) 1 v.toNat, false)

/-- A byte of a plane as the sequencer writes it: its bits for tiles beyond the last are zero (R294). -/
def SkipDesc.trim (x : SkipDesc) (t : Nat) (b : PByte) : PByte :=
  (if x.nt < t / 8 * 8 + 8 then BitVec.ofNat 8 (b.1.toNat % 2 ^ (x.nt - t / 8 * 8)) else b.1, b.2)

/-- The bit of a tile in a byte of a plane. -/
def bitOf (b : PByte) (t : Nat) : Bool := b.1.getLsbD (t % 8)

/-- The bytes of an entry in the planes given (0 SKIP, 1 DECIDED, 2 FORCED), each reached for reading, or for reading and
writing; none where one is not reached (R205, R294). -/
def State.mapEntry (s : State) (g : GangId) (x : SkipDesc) (planes : List Nat) (w : Bool) (st t : Nat) :
    State × Option (List PByte) :=
  planes.foldl (fun (s, r) p =>
    match r with
    | none => (s, none)
    | some l =>
      let v := x.mapByte p st t
      let q := s.vaPieces g.toNat w 2 v 1
      if !q.2.2 then (q.1, none)
      else
        match q.1.gangRead g v 1 with
        | (s, some d) => (s, some (l ++ d))
        | (s, none) => (s, none)) (s, some [])

/-- The descriptor, step and tile that SKIPR or SKIPW names, where they are in range (R205). -/
def State.skipEntry (s : State) (a b : Word) : Option (SkipDesc × Nat × Nat) :=
  let d := fld a.toNat 0 6
  let x := s.desc d
  let t := fld b.toNat 0 16
  let st := fld b.toNat 16 32
  if fld a.toNat 6 58 ≠ 0 ∨ fld b.toNat 48 16 ≠ 0 then none
  else if !x.bound || x.gang != s.me.gangOf || s.me.step.isNone then none
  else if x.nt ≤ t ∨ x.ns ≤ st then none
  else some (x, st, t)

/-- SKIPR (R205), at device scope in program order: FORCED, DECIDED and SKIP of an entry; all ones where it is out of range.
A poisoned byte gives its bits as they stand (log entry 93). -/
def execSkipr (_st : SStall) (d a b : XReg) (s : State) : Out :=
  .next (s.releaseS .device (fun s =>
    match s.skipEntry (s.me.xr a) (s.me.xr b) with
    | none => s.retireX d (BitVec.allOnes 64)
    | some (x, st, t) =>
      match s.mapEntry s.me.gangOf x [0, 1, 2] false st t with
      | (s, some [k, c, f]) => s.retireX d (word ((bitOf k t).toNat + 2 * (bitOf c t).toNat + 4 * (bitOf f t).toNat))
      | (s, _) => s.retireX d (BitVec.allOnes 64)))

/-- SKIPW (R205), at device scope in program order: writes SKIP and sets FORCED; an out-of-range SKIPW writes nothing and sets
SST.OOX. The other bits of a poisoned byte are written as 0 (log entry 93). A twin copy stops (R284). -/
def execSkipw (_st : SStall) (d a b : XReg) (s : State) : Out :=
  match s.twinStop s.curN with
  | some s => .next s
  | none =>
    .next (s.releaseS .device (fun s =>
      match s.skipEntry (s.me.xr a) (s.me.xr b) with
      | none => (s.setMe (s.me.oox true)).retire
      | some (x, st, t) =>
        let g := s.me.gangOf
        match s.mapEntry g x [0, 2] true st t with
        | (s, some [k, f]) =>
          let s := s.gangStore g (x.mapByte 0 st t) [withBit k t ((s.me.xr d).getLsbD 0)]
          (s.gangStore g (x.mapByte 2 st t) [withBit f t true]).retire
        | (s, _) => (s.setMe (s.me.oox true)).retire))

/-- The sixteen FP32 patterns of a sketch. -/
def sketchOf (d : List PByte) : List Nat := (List.range 16).map (fun j => field (plain d) (4 * j) 4)

/-- The comparison of R298, on exact integers: whether the tile is skipped. -/
def sketchNear (x : SkipDesc) (sk an : List Nat) : Bool :=
  let d := (sk.zip an).foldl (fun t c => t + (scaled32 c.1 - scaled32 c.2) ^ 2) (0 : Int)
  let th := scaled32 x.theta.toNat ^ 2
  if x.abs then decide (d ≤ th)
  else
    let n := an.foldl (fun t c => t + scaled32 c ^ 2) (0 : Int)
    decide (d * 2 ^ 298 ≤ th * max n (scaled32 x.eps.toNat * 2 ^ 149))

/-- The decision on a tile record (R298): a record of which RUN, AVALID, the sketch or the anchor is poisoned is computed (R400). -/
def decide298 (x : SkipDesc) (rec : List PByte) : Bool :=
  let sk := rec.take 64
  let an := (rec.drop 64).take 64
  let b := plain rec
  if anyPois ((rec.drop 128).take 3) then false
  else if field b 130 1 = 0 then false
  else if x.pmax ≤ field b 128 2 then false
  else if anyPois sk || anyPois an || !(sketchOf sk).all finite32 || !(sketchOf an).all finite32 then false
  else sketchNear x (sketchOf sk) (sketchOf an)

/-- The decision recorded in the journal for a tile of a unit (R303, R410). -/
def State.recordedDecision (s : State) (u t : Nat) : Option (Bool × Nat × List PByte) :=
  s.integ.journal.findSome? (fun r =>
    match r with
    | .decision v n k run sk => if v = u ∧ n = t then some (k, run, sk) else none
    | _ => none)

/-- A tile has been decided (R298, R299): the map is written, and RUN where it is skipped; a skipped step has ended. -/
def State.carryOut (s : State) (w : Nat) (j : Jig) (x : SkipDesc) (st t : Nat) (k c : PByte) (skip : Bool) (run : Nat)
    (sk : List PByte) : State :=
  let s := s.gangStore j.gang (x.mapByte 0 st t) [x.trim t (withBit k t skip)]
  let s := s.gangStore j.gang (x.mapByte 1 st t) [x.trim t (withBit c t true)]
  if skip then
    let s := s.gangStore j.gang (x.tsva + 256 * t + 128) (clean (leBytes 2 run))
    (s.onJig w (fun j => { j with next := j.next + 1, ended := j.ended + 1, good := j.good + 1 })).tryEndJig w
  else s.onJig w (fun j => { j with decided := true, sketches := j.sketches ++ [(t, sk)] })

/-- A step of a jig has ended ERROR: the lowest ordinal's cause is kept (R289). -/
def Jig.note (j : Jig) (n : Nat) (f : FInfo) : Jig :=
  match j.err with
  | some (m, _) => if n < m then { j with err := some (n, f) } else j
  | none => { j with err := some (n, f) }

/-- A jig may go on: its gang is mapped, neither pre-empted nor restored, with no context that waits to be restored (R304, R360),
and it is held back by nothing (R279, R329). -/
def State.mayGo (s : State) (j : Jig) : Bool :=
  let g := s.gang j.gang.toNat
  g.mapped && !g.preempting && !g.restoring && !s.saved.any (fun x => x.1 == j.gang && !x.2.isEmpty) && !j.cancelled
    && j.multi.isNone && !j.waits && j.cause.isNone && !s.frozen

/-- A byte of the skip map as a replay rewrites it, unread where it cannot be reached (R303). -/
def State.mapByteNow (s : State) (g : GangId) (v : Nat) : PByte :=
  match (s.gangRead g v 1).2 with
  | some (b :: _) => b
  | _ => (0, false)

/-- SKIP_DECISION (R298, R299, R303, R306): the next tile of a skip-eligible jig is decided, by the descriptor as the jig took it. A
decision in the journal is carried out as it stands, whatever the map and the record now hold (R303). A SKIP byte that is poisoned
forces a computation, also under FORCED (R400, log entry 93). -/
def execSkipDecision (wk : WalkerId) (s : State) : Out :=
  let w := wk.toNat
  match s.jig w with
  | none => .next s
  | some j =>
    match j.skip with
    | none => .next s
    | some (_, st) =>
      if j.decided || decide (j.total ≤ j.next) || !s.mayGo j then .next s
      else
        let t := j.next
        let x := j.desc
        let fail (s : State) : State :=
          (s.onJig w (fun j => ({ j with next := j.next + 1, ended := j.ended + 1 }).note t (plainCause 0x204))).tryEndJig w
        match s.recordedDecision j.id t with
        | some (skip, run, sk) =>
          .next (s.carryOut w j x st t (s.mapByteNow j.gang (x.mapByte 0 st t)) (s.mapByteNow j.gang (x.mapByte 1 st t)) skip run sk)
        | none =>
          match s.mapEntry j.gang x [0, 1, 2] true st t with
          | (s, some [k, c, f]) =>
            let q := s.vaPieces j.gang.toNat true 2 (x.tsva + 256 * t) 256
            if !q.2.2 then .next (fail q.1)
            else
              match q.1.gangRead j.gang (x.tsva + 256 * t) 256 with
              | (s, some rec) =>
                let skip := if bitOf f t && !f.2 then bitOf k t && !k.2 else decide298 x rec
                let run := if skip then min 65535 (field (plain rec) 128 2 + 1) else 0
                let s := s.journal (.decision j.id t skip run (rec.take 64))
                .next (s.carryOut w j x st t k c skip run (rec.take 64))
              | (s, none) => .next (fail s)
          | (s, _) => .next (fail s)

/-- The anchor of a computed step that has halted without ERROR (R299): the sketch as read at its decision, AVALID and
RUN. -/
def State.writeAnchor (s : State) (j : Jig) (t : Nat) : State :=
  match j.skip, j.sketches.find? (fun c => c.1 == t) with
  | some _, some (_, sk) =>
    let a := j.desc.tsva + 256 * t
    let s := s.gangStore j.gang (a + 64) sk
    s.gangStore j.gang (a + 128) (clean [0, 0, 1])
  | _, _ => s

end Sys2Proof.Machine
end

