-- ==== Sys2Proof/Machine/Stops.lean ====
section
/-! DEFINITION. Where streams and engines stop, under pre-emption and as a step is ended (R107, R153, R188, R197, R276, R345,
R361-R363). -/

namespace Sys2Proof.Machine

open Sys2Proof

/-- A translation that waits is abandoned without effect (R107): its fault is withdrawn and holds no stall wire, it holds no
pin, and a predicted token gives its register and its entry back. -/
def State.abandonWalk (s : State) (k : Nat) : State :=
  match (s.core k).s.walk with
  | none => s
  | some w =>
    let fs := s.bench.faults.filter (fun f => f.core == k && f.owner == .xlat)
    let s := fs.foldl (fun s f => (s.freeStall k f.ix).dropFault f.ix) s
    let s := (s.unpinPages k w.pages).unpredict k w
    s.onCore k Core.endWalk

/-- Commands that pre-emption does not stop (R188). -/
def runsOn : Instr → Bool
  | .mdrain .. => true
  | .mldacc .. => true
  | .mchk .. => true
  | .sketch .. => true
  | _ => false

/-- The command in flight of an engine at its stop point (R188, R362): one that has not issued stays in its ring, some run to
their end. -/
def State.stopCmd (s : State) (k : Nat) (e : EngineSel) : State :=
  match (s.core k).flight e with
  | none => s
  | some f =>
    if f.st = .decoded then s.onCore k (fun c => c.setFlight e none)
    else if runsOn f.cmd then
      let r := State.runCmd 1000000 s k e f
      r.1.onCore k (fun c => c.setFlight e r.2)
    else s

/-- The commands that siblings have taken from a ring at their stop points (R188, R235). -/
def State.stopTaken (s : State) (k : Nat) (e : EngineSel) : State :=
  let r := ((s.core k).takenOf e).foldl (fun (x : State × List Flight) f =>
    if runsOn f.cmd then
      let y := State.runCmd 1000000 x.1 k e f
      (y.1, x.2 ++ y.2.toList)
    else (x.1, x.2 ++ [f])) (s, [])
  r.1.onCore k (fun c => c.setTaken e r.2)

/-- The engines of a core stand at their stop points (R188). -/
def State.stopEngines (s : State) (k : Nat) : State :=
  (((s.stopCmd k .m).stopTaken k .m).stopCmd k .c).stopTaken k .c

/-- The store queue of a stream drains (R363): an AMO, CAS, FENCE or MARK performs, and a load only where a store has to come
after it; the others stay, to be replayed. -/
def State.haltQueues : Nat → State → Nat → Bool → State
  | 0, s, _, _ => s
  | n + 1, s, k, v =>
    let c := s.core k
    if (c.storesOf v).isEmpty && !(c.loadsOf v).any (fun l => l.op.ordersStores) then s
    else
      match s.popStore k v with
      | some s => State.haltQueues n s k v
      | none =>
        match s.performLoad k v with
        | .done s => State.haltQueues n s k v
        | .trapped s => State.haltQueues n s k v
        | .waits => s

/-- The V words whose load has not performed are abandoned, the newest first, as far as no later word has taken effect: the ring stands
before them again (R153, R363). What is left stays as held accesses (log entry 108). -/
def Core.rewindV (c : Core) : Nat → Core × List QLoad
  | 0 => (c, [])
  | n + 1 =>
    match c.v.loads.getLast? with
    | none => (c, [])
    | some l =>
      match l.word with
      | none => (c, [])
      | some w =>
        let w := { w with wp := c.v.eng.wp }
        if w.advance 1 = c.v.eng then
          let r := (c.onV (fun v => { v with eng := w, loads := v.loads.dropLast })).rewindV n
          (r.1, l :: r.2)
        else (c, [])

/-- The V words of core `k` whose load has not performed are abandoned (R363); the tokens that they had read are released. -/
def State.abandonV (s : State) (k : Nat) : State :=
  let r := (s.core k).rewindV (s.core k).v.loads.length
  r.2.foldl (fun s l => s.release k l.tok) (s.setCore k r.1)

/-- Every stream of a core stands at its stop point and its store queues drain (R153, R361-R363): a waiting instruction is
abandoned unless its wait is over. What the stall counts leave to be covered stays, since no rule ends it (log entry 15). -/
def State.haltCore (s : State) (k : Nat) : State :=
  let s := s.abandonWalk k
  let s := match (s.core k).s.st with
    | .waiting w => if w.holds s k .s then s else s.abandonS k
    | _ => s
  let s := (s.stopEngines k).dropWord k
  let s := s.onCore k (fun c => { c with
    s := { c.s with ready := 0 }
    v := { c.v with wait := none, ready := 0 }
    waiters := c.waiters.filter (fun w => w.2 == .s) })
  let s := State.haltQueues ((s.core k).queued false) s k false
  ((State.haltQueues ((s.core k).queued true) s k true).abandonV k).flush k

end Sys2Proof.Machine
end

