-- ==== Sys2Proof/Machine/Steps.lean ====
section
/-! DEFINITION. Tile steps: hand-out, the preparation of cores, the cut of t1-t8, the end of a step, twin runs, reservations
(R22, R23, R264, R273-R278, R283, R284). -/

namespace Sys2Proof.Machine

open Sys2Proof

/-- The extents a record declares, with the token register of each (R271, R275). -/
def declared (r : List Byte) : List (Nat × Ext) :=
  (List.range 8).filterMap (fun k => if (recExt r k).len = 0 then none else some (k + 1, recExt r k))

/-- How the dispatcher's translation of the declared extents stands: done, waiting for the Bench, or failed (R23, R275). -/
inductive CutEnd where
  | good
  | waits
  | fails
  deriving DecidableEq, Repr

/-- The host units of runs that no MTE pins yet and that are not among those given (R347). -/
def State.newUnits (s : State) (got : List Nat) (rs : List Run) : List Nat :=
  ((rs.filter (fun r => r.host)).flatMap (fun r => (List.range r.npg).map (fun i => r.frame.toNat + i))).eraseDups.filter
    (fun u => (s.clampAt true u).pins == 0 && !got.contains u)

/-- Translate the declared extents for a step of a walker pair that would run on the panels from the bases given (R23, R103,
R275, R343): each with the pins of those before it (R347); a fault is offered to the Bench and drives no stall wire. -/
def State.cutCheck (s : State) (w : Nat) (bases : List Nat) (j : Jig) : State × CutEnd :=
  let r := (bases.flatMap (fun b => (declared j.record).map (fun c => (b, c.2)))).foldl
    (fun (y : State × List Nat × CutEnd) c =>
      let s := y.1
      let g := j.gang.toNat
      match y.2.2 with
      | .good =>
        let k := c.1
        let x := c.2
        if 2 ^ 56 < x.base + x.len then (s, [], .fails)
        else
          match s.translate (halfOf k) g y.2.1 x.base x.len x.w with
          | (s, .good _ _ rs) => (s, y.2.1 ++ s.newUnits y.2.1 rs, .good)
          | (s, .cause ..) => (s, [], .fails)
          | (s, .invalid va a l kd) =>
            match s.bench.faults.find? (fun f => f.owner == .cut w) with
            | none => ((s.faultRecord k g va a l kd (.cut w)).1, [], .waits)
            | some f =>
              match f.reply with
              | none => (s, [], .waits)
              | some .noframe => (s, [], .waits)
              | some .resolved => (((s.dropFault f.ix).faultRecord k g va a l kd (.cut w)).1, [], .waits)
              | some _ => (s.dropFault f.ix, [], .fails)
      | e => (s, y.2.1, e)) (s, [], .good)
  (r.1, r.2.2)

/-- The dirty mark of a gang on a core, set as it begins its first step there since the core's last passing test (R405). -/
def State.markDirty (s : State) (g : GangId) (k : Nat) : State :=
  let key := 256 * g.toNat + k
  match Sparse.get none s.integ.dirty key with
  | some _ => s
  | none => { s with integ := { s.integ with dirty := Sparse.put none s.integ.dirty key (some s.integ.c) } }

/-- The S-stream of a core as a step begins (R22, R274); InHandler, the pending causes and the event latch are settled by log entry
17. -/
def SCore.fresh (c : SCore) (first latch : Bool) (x : Sparse Word) : SCore :=
  { c with
    x := x
    pc := 0
    st := .running
    mode := .supervisor
    inHandler := false
    pendLost := false
    pendEng := false
    latch := latch
    sst := 0
    schk := false
    tvec := 0
    tepc := 0
    tcause := 0
    tval := 0
    haz := []
    walk := none
    ready := 0
    loads := []
    queue := []
    forkTab := none
    tags := if first then [] else c.tags }

/-- The V-stream of a core as a step begins (R22, R274). -/
def VCore.fresh (c : VCore) (first : Bool) : VCore :=
  { mailbox := if first then [] else c.mailbox, spill := c.spill }

/-- The x registers of a step (R22). -/
def stepRegs (idx : List Nat) (n arg rank : Nat) : Sparse Word :=
  (((idx.take 8 ++ List.replicate (8 - idx.length) 0) ++ [n, arg, rank]).zipIdx).foldl
    (fun (m : Sparse Word) (c : Nat × Nat) => Sparse.put 0 m (c.2 + 1) (word c.1)) []

/-- The argument block of a step (R274). -/
def argBlock (r : List Byte) : List Byte :=
  ((r.drop 264).take 56) ++ leBytes 4 (recDbase r) ++ leBytes 2 (recDn r) ++ [BitVec.ofNat 8 (recDszlog r), 0]

/-- What the first step of a jig on a core finds there, beside what every step finds (R274): instruction memory, semaphores,
stage rings, the drawer region. -/
def Core.firstStep (c : Core) (r : List Byte) (code : List Byte) : Core :=
  { c with
    imem := Sparse.putList 0 [] 0 code
    sems := []
    rings := (List.range 8).foldl (fun m k =>
      let g : StageRing := { conf := recStage r k }
      Sparse.put {} m k g) []
    dbase := BitVec.ofNat 32 (recDbase r)
    dszlog := BitVec.ofNat 8 (recDszlog r)
    dn := BitVec.ofNat 16 (recDn r) }

/-- Prepare a core of a panel for a step (R22, R274, R277); aperture copies of an earlier step that are still queued run on
(R177). -/
def State.prepare (s : State) (w : Nat) (j : Jig) (base rank n : Nat) (twin : TwinSide) (code : List Byte) : State :=
  let k := base + rank
  let d := (s.flush k).draw
  let c := d.2.core k
  let first := c.lastJig != some j.id
  let c := if first then c.firstStep j.record code else c
  let c : Core := { c with
    s := c.s.fresh first (d.1.getLsbD 0) (stepRegs (indices j.record j.e0 n) n (recArgaddr j.record) rank)
    v := c.v.fresh first
    m := { c.m with eng := {}, flight := none, taken := [], mmapOf := none, govOn := true }
    c := { c.c with eng := {}, flight := none, taken := [] }
    t := []
    waiters := []
    panel := { base := BitVec.ofNat 8 base, rank := BitVec.ofNat 4 rank, size := BitVec.ofNat 5 (recSize j.record) }
    lastJig := some j.id
    step := some
      { walker := w
        jigId := j.id
        ordinal := n
        depth := j.depth
        gang := j.gang
        slot := j.slot
        rank := rank
        twin := twin } }
  let s := d.2.setCore k c
  let s := s.rawPut (.sp k) (recArgaddr j.record) (clean (argBlock j.record))
  let s := s.markDirty j.gang k
  s.onUnit j.id (fun u => { u with ran := if u.ran.contains k then u.ran else u.ran ++ [k] })

/-- Cut the tokens of a step on a core (R275). -/
def State.cutTokens (s : State) (k : Nat) (j : Jig) : State :=
  (declared j.record).foldl (fun s c =>
    let x := c.2
    match s.translate (halfOf k) j.gang.toNat [] x.base x.len x.w with
    | (s, .good mask fsel runs) =>
      match s.newMte k { st := .live, w := x.w, r := true, mask := mask, fsel := fsel, runs := runs, len := x.len, vbase := x.base } with
      | some (s, t) => s.putTok k (BitVec.ofNat 5 c.1) (some t)
      | none => s
    | (s, _) => s) s

/-- The panels that a jig's next step is not to use: those of the run that it repeats (R284). -/
def Jig.avoids (j : Jig) : List Nat := (j.rerun.head?.map (fun r => r.bases)).getD []

/-- The panels of a step: one, or for a twin jig the lowest free one of each half, the primary in half A; a step that runs
again runs on other panels (R273, R283, R284). -/
def State.choosePanels (s : State) (w : Nat) (j : Jig) (avoid : List Nat) : Option (List Nat) :=
  let n := recSize j.record
  let free := (s.freePanels w (s.gang j.gang.toNat).part.toNat n).filter (fun b => !avoid.contains b)
  if recTwin j.record then
    match free.find? (fun b => !halfOf b), free.find? halfOf with
    | some a, some b => some [a, b]
    | _, _ => none
  else free.head?.map (fun b => [b])

/-- Start a step on its panels: every core is prepared, then all ranks start together (R274, R277). -/
def State.startStep (s : State) (w : Nat) (j : Jig) (n : Nat) (bases : List Nat) (code : List Byte) : State :=
  let size := recSize j.record
  bases.zipIdx.foldl (fun s b =>
    let side : TwinSide := if recTwin j.record then (if b.2 = 0 then .primary else .shadow) else .none
    let s := s.setPanel b.1 {}
    (List.range size).foldl (fun s r => (s.prepare w j b.1 r n side code).cutTokens (b.1 + r) j) s) s

/-- Withdraw the fault records written for the cut of a walker pair's tokens. -/
def State.dropCut (s : State) (w : Nat) : State :=
  { s with bench := { s.bench with faults := s.bench.faults.filter (fun f => f.owner != .cut w) } }

/-- A step of a jig, its next one or one that was to run again, is not handed out but ends ERROR (R23, R276, R284). -/
def State.failStep (s : State) (w n : Nat) (again : Bool) (f : FInfo) : State :=
  (s.onJig w (fun j =>
    (if again then { j with rerun := j.rerun.drop 1, ended := j.ended + 1 }
      else { j with next := j.next + 1, ended := j.ended + 1, decided := false }).note n f)).tryEndJig w

/-- The cores of the panels of a step. -/
def Jig.cores (j : Jig) (bases : List Nat) : List Nat :=
  bases.flatMap (fun b => (List.range (recSize j.record)).map (fun r => b + r))

/-- Whether every core of a step has the MTEs for its tokens (R275): it waits for them where it has not. -/
def State.mtesFor (s : State) (j : Jig) (bases : List Nat) : Bool :=
  (j.cores bases).all (fun k => decide ((declared j.record).length ≤ (s.core k).freeMtes.length))

/-- The code image of a jig, read where a core of the step is to load it (R274); none where it cannot be read. -/
def State.codeFor (s : State) (j : Jig) (bases : List Nat) : State × Option (List Byte) :=
  if (j.cores bases).all (fun k => (s.core k).lastJig == some j.id) then (s, some [])
  else
    let r := s.gangRead j.gang (recCode j.record) (recCodelen j.record)
    (r.1, r.2.map plain)

/-- Hand out the next step of the jig of a walker pair, or one that runs again, where a panel is free (R273, R301). -/
def State.handOut (s : State) (w : Nat) : State :=
  match s.jig w with
  | none => s
  | some j =>
    let again := j.rerun.head?
    let n := (again.map (fun r => r.ordinal)).getD j.next
    if !s.mayGo j || (again.isNone && (decide (j.total ≤ j.next) || (j.skip.isSome && !j.decided))) then s
    else if !s.canRun (s.gang j.gang.toNat).part.toNat (recSize j.record) (recTwin j.record) then
      (s.onJig w (fun j => { j with cause := some 0x206, reserved := [] })).tryEndJig w
    else
      match s.choosePanels w j j.avoids with
      | none => s
      | some bases =>
        if !s.mtesFor j bases then s
        else
        match s.cutCheck w bases j with
        | (s, .waits) => s
        | (s, .fails) => (s.dropCut w).failStep w n again.isSome (coreCause 0x204 (bases.headD 0))
        | (s, .good) =>
          match (s.dropCut w).codeFor j bases with
          | (s, none) => s.failStep w n again.isSome (plainCause 0x204)
          | (s, some code) =>
            let s := s.startStep w j n bases code
            let r : Running := ⟨n, bases⟩
            let p := s.nextPlace
            (p.2.onJig w (fun j => { j with
              next := if again.isSome then j.next else j.next + 1
              rerun := if again.isSome then j.rerun.drop 1 else j.rerun
              decided := if again.isSome then j.decided else false
              reserved := []
              since := p.1
              running := j.running ++ [r] })).season

/-- A jig in flight waits for a panel, and one is free for it: it has a step to hand out whose tokens do not wait for the
Bench (R273, R275, R280). -/
def State.couldGo (s : State) (w : Nat) (j : Jig) : Bool :=
  let again := j.rerun.head?
  s.mayGo j
    && (again.isSome || (decide (j.next < j.total) && (j.skip.isNone || j.decided)))
    && !s.bench.faults.any (fun f => f.owner == .cut w)
    && (match s.choosePanels w j j.avoids with
      | some bases => s.mtesFor j bases
      | none => false)

/-- Jig `i` is chosen before jig `j` (R280): a higher effective priority, or the same and a longer wait. -/
def Jig.before (i j : Jig) : Bool := decide (j.prio < i.prio) || (i.prio == j.prio && decide (i.since < j.since))

/-- No other jig that could go is chosen before jig `j` of a walker pair (R280). -/
def State.goesFirst (s : State) (w : Nat) (j : Jig) : Bool :=
  s.disp.jigs.all (fun e => match e.2 with
    | some i => e.1 == w || !i.before j || !s.couldGo e.1 i
    | none => true)

/-- STEP_HANDOUT (R273, R280). -/
def execStepHandout (wk : WalkerId) (s : State) : Out :=
  let w := wk.toNat
  match s.jig w with
  | none => .next s
  | some j => .next (if s.goesFirst w j then s.handOut w else s)

/-- Whether a group of cores is kept for some jig (R278). -/
def State.groupKept (s : State) (b n : Nat) : Bool :=
  s.disp.jigs.any (fun e => match e.2 with
    | some i => i.reserved.any (fun a => decide (a < b + n) && decide (b < a + recSize i.record))
    | none => false)

/-- The group that is reserved for a jig in a half, or anywhere where it is not twin (R278): the lowest sound one that is kept for no
jig and that it may use; none where it has a panel free or kept there. -/
def State.groupFor (s : State) (w : Nat) (j : Jig) (h : Bool) : Option Nat :=
  let n := recSize j.record
  let part := (s.gang j.gang.toNat).part.toNat
  let fits (b : Nat) : Bool := (!recTwin j.record || halfOf b == h) && !j.avoids.contains b
  if (s.freePanels w part n).any fits || j.reserved.any fits then none
  else (s.soundGroups part n).find? (fun b => fits b && !s.groupKept b n)

/-- PANEL_RESERVE (R278): the jig has found no free panel; the lowest group kept for no other jig is kept for it, for a twin jig one in
each half where it lacks one. -/
def execPanelReserve (wk : WalkerId) (s : State) : Out :=
  let w := wk.toNat
  match s.jig w with
  | none => .next s
  | some j =>
    let waits := s.mayGo j && (decide (j.next < j.total) || !j.rerun.isEmpty) && (j.skip.isNone || j.decided)
    if !waits || (s.choosePanels w j j.avoids).isSome then .next s
    else
      let bs := (if recTwin j.record then [false, true] else [false]).filterMap (fun h => s.groupFor w j h)
      .next (if bs.isEmpty then s else s.onJig w (fun j => { j with reserved := j.reserved ++ bs }))

/-- A core without the operations of its streams and engines, and in no panel: as its step is over (R274, R361). With `stop` its
aperture copies are given up as well. Stores and loads that are still held at a STALE token when a step is stopped are dropped (log
entry 102). -/
def Core.bare (c : Core) (stop : Bool) : Core :=
  { c with
    s := { c.s with st := .idle, walk := none, loads := [], queue := [], forkTab := none }
    v := { c.v with eng := {}, wait := none, cur := none, curTok := none, loads := [], queue := [] }
    m := { c.m with eng := {}, flight := none, taken := [], mmapOf := none }
    c := { c.c with eng := {}, flight := none, taken := [], chans := if stop then [] else c.c.chans }
    waiters := []
    panel := {}
    step := none }

/-- A core is returned (R108, R274, R276): its waiting translation is given up, and every token that a register or an operation
of it still holds is released. Where the step has not been stopped, aperture copies that stand in their queues run on
(R177, R241). -/
def State.returnCore (s : State) (k : Nat) (stop : Bool) : State :=
  let s := (s.abandonWalk k).drain k
  let c := s.core k
  let held := (if stop then c else c.onC (fun t => { t with chans := [] })).opToks
  let s := held.foldl (fun s t => s.release k (some t)) s
  let s := ((s.core k).t.map (fun e => e.1)).foldl (fun s i => s.putTok k (BitVec.ofNat 5 i) none) s
  s.onCore k (fun c => c.bare stop)

/-- The cores of a panel are returned, and its barriers and stall wire are gone (R277); where the step is stopped, its engines
stop at their pre-emption points first (R276). -/
def State.returnPanel (s : State) (b n : Nat) (stop : Bool) : State :=
  let s := if stop then (List.range n).foldl (fun s r => s.stopEngines (b + r)) s else s
  let s := (List.range n).foldl (fun s r => s.drain (b + r)) s
  ((List.range n).foldl (fun s r => s.returnCore (b + r) stop) s).setPanel b {}

/-- The signature of a twin copy (R283): over the sectors it stored in the write set, their final bytes as it sees them. A sector that can
no longer be read through the gang's translation counts as zeros (log entry 115). -/
def State.signature (s : State) (b : Nat) (t : StepInfo) : Word32 :=
  t.sectors.foldl (fun sig e =>
    let v := 32 * e.1
    let d := match s.gangRead t.gang v 32 with
      | (_, some d) => d
      | (_, none) => List.replicate 32 (0, false)
    sig ^^^ crc32c (leBytes 8 v ++ plain (s.shadowed b v d))) 0

/-- A step of a jig has ended without ERROR, or with one (R289, R290, R299). -/
def State.stepDone (s : State) (w n : Nat) (err : Option FInfo) (pois : Bool) : State :=
  match s.jig w with
  | none => s
  | some j =>
    let s := if err.isNone then s.writeAnchor j n else s
    let s := s.onJig w (fun j =>
      let j := { j with
        ended := j.ended + 1
        good := if err.isNone then j.good + 1 else j.good
        poisoned := j.poisoned || pois
        running := j.running.filter (fun r => r.ordinal != n) }
      match err with
      | some f => j.note n f
      | none => j)
    s.tryEndJig w

/-- Both copies of a twin step have ended (R283, R284). -/
def State.twinDone (s : State) (w n : Nat) (a b : TwinEnd) (pois : Bool) : State :=
  match s.jig w with
  | none => s
  | some j =>
    let s := s.onJig w (fun j => { j with twins := j.twins.filter (fun t => t.ordinal != n) })
    match a.err.or b.err with
    | some f => s.stepDone w n (some f) pois
    | none =>
      if a.sig = b.sig then s.stepDone w n none pois
      else
        let run := j.running.find? (fun r => r.ordinal == n)
        let bases := (run.map (fun r => r.bases)).getD []
        let size := recSize j.record
        let cores := bases.flatMap (fun b => (List.range size).map (fun r => b + r))
        let s : State := { s with integ := { s.integ with ahead := s.integ.ahead ++ cores.filter (fun k => !s.integ.ahead.contains k) } }
        if j.retried.contains n then s.stepDone w n (some (coreCause 0x200 (bases.headD 0))) pois
        else s.onJig w (fun j => { j with
          retried := j.retried ++ [n]
          poisoned := j.poisoned || pois
          running := j.running.filter (fun r => r.ordinal != n)
          rerun := j.rerun ++ [⟨n, bases⟩] })

/-- The step that a core of a panel runs has ended (R264, R274, R276): each S-stream has halted, or the step was ended; the
cores are returned and the walker learns how it went. -/
def State.endStep (s : State) (k : Nat) : State :=
  let b := (s.core k).panelBase k
  match (s.core b).step with
  | none => s
  | some t =>
    let n := (s.core b).panelSize
    let cores := (List.range n).map (fun r => b + r)
    let halted := cores.all (fun i => (s.core i).s.st == .halted)
    if !halted && t.ended.isNone then s
    else
      let stop := t.ended.isSome
      let s := if stop then cores.foldl (fun s i => s.stopEngines i) s else s
      let s := cores.foldl (fun s i => s.drain i) s
      let t := ((s.core b).step).getD t
      let err : Option FInfo := match t.ended with
        | some (c, core, true) => some (coreCause c core)
        | _ => none
      let sig := if t.twin = .none then 0 else s.signature b t
      let s := s.returnPanel b n stop
      if t.twin = .none then s.stepDone t.walker t.ordinal err t.poisoned
      else
        let e : TwinEnd := ⟨t.ordinal, t.twin, sig, err⟩
        let pois := t.poisoned && t.twin == .primary
        match s.jig t.walker with
        | none => s
        | some j =>
          match j.twins.find? (fun x => x.ordinal == t.ordinal && x.side != t.twin) with
          | some o => s.twinDone t.walker t.ordinal o e pois
          | none => s.onJig t.walker (fun j => { j with twins := j.twins ++ [e], poisoned := j.poisoned || pois })

/-- The running steps of a jig are stopped where they are, and their cores are returned (R276, R321, R414, R416). -/
def State.stopSteps (s : State) (w : Nat) : State :=
  match s.jig w with
  | none => s
  | some j =>
    let size := recSize j.record
    let r := (j.running.flatMap (fun r => r.bases)).foldl (fun (x : State × Bool) b =>
      match (x.1.core b).step with
      | some t =>
        if t.walker ≠ w then x
        else
          let s := (List.range size).foldl (fun s r => (s.stopEngines (b + r)).drain (b + r)) x.1
          let p := match (s.core b).step with
            | some t => t.poisoned && t.twin != .shadow
            | none => false
          (s.returnPanel b size true, x.2 || p)
      | none => x) (s, false)
    r.1.onJig w (fun j => { j with running := [], twins := [], poisoned := j.poisoned || r.2 })

/-- A jig is cancelled (R321): no further step starts, its running steps are stopped, its saved steps are discarded
(R369), and it completes CANCELLED. -/
def State.cancelJig (s : State) (w : Nat) : State :=
  let s := s.stopSteps w
  let s : State := { s with saved := s.saved.map (fun g => (g.1, g.2.filter (fun c => c.walker != w))) }
  let s := s.dropCut w
  (s.onJig w (fun j => { j with cancelled := true, waits := false, rerun := [] })).tryEndJig w

/-- TLIMIT_EXPIRY (R276): time under the stall wire does not count (R344). -/
def execTlimitExpiry (core : CoreId) (s : State) : Out :=
  let k := core.toNat
  match s.jigOf k with
  | none => .next s
  | some j =>
    if recTlimit j.record = 0 || !(s.panel ((s.core k).panelBase k)).stall.isEmpty then .next s
    else .next (s.endPanelStep k 0x201 true)

end Sys2Proof.Machine
end

