-- ==== Sys2Proof/Machine/HostRings.lean ====
section
/-! DEFINITION. Host rings (R323-R327), COPY packets (R318), and deterministic replay (R408, R414). -/

namespace Sys2Proof.Machine

open Sys2Proof

/-- A host ring (R323). -/
def State.hostRing (s : State) (r : Nat) : HostRing := Sparse.get {} s.disp.hostRings r

/-- Replace a host ring. -/
def State.setHostRing (s : State) (r : Nat) (x : HostRing) : State :=
  { s with disp := { s.disp with hostRings := Sparse.put {} s.disp.hostRings r x } }

/-- HRCONF.LOGSIZE (R323). -/
def HostRing.logsize (x : HostRing) : Nat := fld x.hrconf.toNat 0 5
/-- HRCONF.VEC (R323). -/
def HostRing.vec (x : HostRing) : Nat := fld x.hrconf.toNat 10 11
/-- HRCONF.COUNT (R323). -/
def HostRing.count (x : HostRing) : Nat := fld x.hrconf.toNat 32 16
/-- HRCONF.TIME (R323). -/
def HostRing.time (x : HostRing) : Nat := fld x.hrconf.toNat 48 16

/-- A ring's registers are valid (R323). -/
def HostRing.valid (x : HostRing) : Bool :=
  decide (4 ≤ x.logsize) && decide (x.logsize ≤ 20) && x.hrheadva.toNat % 8 == 0 && x.hrseasva.toNat % 8 == 0

/-- Vectors of a partition (R328). -/
def State.partVectors (s : State) : Nat := 2048 / max 1 s.disp.parts

/-- Send a vector of a partition's function (R310, R327). -/
def State.messageOf (s : State) (part v : Nat) : State := s.message (part * s.partVectors + v % s.partVectors)

/-- A ring sends its vector: every entry appended so far is covered (R327). -/
def State.ringMessage (s : State) (r : Nat) : State :=
  let x := s.hostRing r
  (s.setHostRing r { x with uncovered := 0 }).messageOf (r / s.partRings) x.vec

/-- How an append ends: it waits for room, it cannot be made, or it is made (R325). -/
inductive Append where
  | waits
  | cause (c : Nat)
  | done (s : State)

/-- Whether a ring can take an entry (R325): its registers are valid, its HostHead word is read, and it has room. -/
def State.ringRoom (s : State) (r : Nat) (g : GangId) : Append :=
  let x := s.hostRing r
  if !x.valid then .cause 0x203
  else
    match s.gangWord g x.hrheadva.toNat with
    | (_, none) => .cause 0x204
    | (s, some h) => if h + 2 ^ x.logsize ≤ x.hrtail.toNat then .waits else .done s

/-- Write an entry of a ring that has room (R324, R325): its type, tag and payload, from a unit for a DATA entry. -/
def State.writeEntry (s : State) (r : Nat) (g : GangId) (ty tag payload : Nat) (unit : Option Nat) : Append :=
  let x := s.hostRing r
  let k := x.hrtail.toNat
  let a := x.hrbase.toNat + 32 * (k % 2 ^ x.logsize)
  let d := leBytes 8 s.integ.c ++ leBytes 8 payload ++ leBytes 4 tag ++ [BitVec.ofNat 8 ty, 0, 0, 0]
  match s.gangWrite g (a + 8) (clean d) with
  | none => .cause 0x204
  | some s =>
    let s := s.gangPut g a k
    let x : HostRing := { x with
      hrtail := word (k + 1)
      uncovered := x.uncovered + 1
      gang := some g
      greens := match unit with
        | some u => x.greens ++ [(k, u)]
        | none => x.greens }
    let s := s.setHostRing r x
    .done (if ty = 2 ∨ (x.count ≠ 0 ∧ x.count ≤ x.uncovered) then s.ringMessage r else s)

/-- Append an entry where there is room for it (R324, R325). -/
def State.appendEntry (s : State) (r : Nat) (g : GangId) (ty tag payload : Nat) (unit : Option Nat) : Append :=
  match s.ringRoom r g with
  | .done s => s.writeEntry r g ty tag payload unit
  | e => e

/-- HOSTRING_TIME_EXPIRY (R327). -/
def execHostringTimeExpiry (ring : BitVec 8) (s : State) : Out :=
  let x := s.hostRing ring.toNat
  .next (if x.time ≠ 0 ∧ x.uncovered ≠ 0 then s.ringMessage ring.toNat else s)

/-- Whether a sector that `n` bytes from an address meet is poisoned (R290). -/
def State.gangPois (s : State) (g : GangId) (v n : Nat) : Bool :=
  match (s.gangRead g (v / 32 * 32) ((v + n + 31) / 32 * 32 - v / 32 * 32)).2 with
  | some d => anyPois d
  | none => false

/-- Copy bytes in increasing address order, each with its own poison (R318, R399): whether poison was written, and whether every byte was translated. -/
def State.copyBytes (g : GangId) : Nat → State → Nat → Nat → Nat → State × Bool × Bool
  | 0, s, _, _, n => (s, false, n == 0)
  | f + 1, s, a, b, n =>
    if n = 0 then (s, false, true)
    else
      let step := if a < b then b - a else 4096
      let j := min (min n (min step 4096)) (min (65536 - a % 65536) (65536 - b % 65536))
      match s.gangRead g a j with
      | (s, none) => (s, false, false)
      | (s, some d) =>
        match s.gangWrite g b d true with
        | none => (s, false, false)
        | some s =>
          let r := State.copyBytes g f s (a + j) (b + j) (n - j)
          (r.1, anyPois d || r.2.1, r.2.2)

/-- The copy of a COPY packet or node (R318): a sector written in part that is left poisoned counts as well (R290). -/
def State.copyRun (s : State) (g : GangId) (a b n : Nat) : State × Bool × Bool :=
  let r := State.copyBytes g n s a b n
  (r.1, r.2.1 || (r.2.2 && (r.1.gangPois g b 1 || r.1.gangPois g (b + n - 1) 1)), r.2.2)

/-- A COPY ends: its completion record's bytes (R318). -/
def copyImage (ok pois : Bool) : List Byte :=
  if ok then greenImage statusDone pois 0 noStep {} else greenImage statusError pois 0 noStep (plainCause 0x204)

/-- Whether a unit waits for a replay: its own, or one that it depends on (R414). -/
def State.awaitsReplay (s : State) (deps : List Nat) : Bool := deps.any (fun d => (s.unit d).any (fun u => u.replay))

/-- The walker pair that runs a unit. -/
def State.walkerOf (s : State) (id : Nat) : Option Nat :=
  (s.disp.jigs.find? (fun e => match e.2 with
    | some j => j.id == id
    | none => false)).map (fun e => e.1)

/-- A jig as it starts from the journal (R303, R414). -/
def Jig.fromStart (j : Jig) : Jig :=
  { id := j.id
    origin := j.origin
    gang := j.gang
    slot := j.slot
    depth := j.depth
    crec := j.crec
    record := j.record
    e0 := j.e0
    total := j.total
    skip := j.skip
    desc := j.desc
    again := j.again
    prio := j.prio
    since := j.since }

/-- Append a RETRACT that waits for room (R326). -/
def State.pumpRetract (s : State) (r : Nat) : State :=
  let x := s.hostRing r
  match x.retract, x.gang with
  | some i, some g =>
    match s.appendEntry r g 2 0 i none with
    | .done s => s.setHostRing r { s.hostRing r with retract := none }
    | .waits => s
    | .cause _ => s.setHostRing r { s.hostRing r with retract := none }
  | _, _ => s

/-- A unit to be replayed goes on where nothing it depends on is still to be replayed (R414). -/
def State.pumpUnit (s : State) (id : Nat) : State :=
  match s.unit id with
  | none => s
  | some u =>
    if !u.replay || s.awaitsReplay u.deps then s
    else
      match u.kind with
      | .jig start =>
        match s.walkerOf id with
        | some w =>
          if ((s.jig w).bind (fun j => j.skip)).any (fun x => s.descRuns x.1.toNat) then s
          else (s.onJig w (fun j => { j with waits := false })).tryEndJig w
        | none =>
          match s.freeWalker with
          | none => s
          | some w =>
            if start.skip.any (fun x => s.descRuns x.1.toNat) then s
            else s.setJig w (some { start.fromStart with again := true })
      | .graph => s.stampUnit id (match u.graph with
        | some g => g.image
        | none => u.green)
      | .copy a b n =>
        let r := s.copyRun u.gang a b n
        let img := copyImage r.2.2 r.2.1
        (r.1.stampUnit id img).restate id img
      | .ring r tag payload =>
        if (s.hostRing r).retract.isSome then s
        else
          match s.appendEntry r u.gang 1 tag payload (some id) with
          | .done s => s.stampUnit id u.green
          | .waits => s
          | .cause _ => s.stampUnit id u.green

/-- Replay goes on as far as it can, in the original start order (R414). -/
def State.pump : Nat → State → State
  | 0, s => s
  | n + 1, s =>
    if !s.integ.units.any (fun u => u.replay) then s
    else
      let s := s.disp.hostRings.foldl (fun s e => s.pumpRetract e.1) s
      let s := (s.integ.units.map (fun u => u.id)).foldl (fun s id => s.pumpUnit id) s
      State.pump n s

/-- Replay, and the graphs that waited for it, go on. -/
def State.proceed (s : State) : State :=
  let s := s.disp.hostRings.foldl (fun s e => s.pumpRetract e.1) s
  let s := State.pump (s.integ.units.filter (fun u => u.replay)).length s
  let s := (s.disp.graphs.map (fun e => e.1)).foldl (fun s g => s.settleGraph g) s
  s.season

/-- Units that have a declared dependence on one of a set, directly or through others (R408). -/
def State.dependents (s : State) : Nat → List Nat → List Nat
  | 0, ids => ids
  | n + 1, ids =>
    let more := (s.integ.units.filter (fun u => !ids.contains u.id && u.deps.any (fun d => ids.contains d))).map (fun u => u.id)
    if more.isEmpty then ids else s.dependents n (ids ++ more)

/-- The lowest green entry of each ring that a set of units produced is to be retracted (R326, R408). -/
def State.retractFrom (s : State) (ids : List Nat) : State :=
  { s with disp := { s.disp with hostRings := Sparse.mapVals {} (fun (x : HostRing) =>
    match x.greens.find? (fun c => ids.contains c.2) with
    | none => x
    | some c =>
      let lo := match x.retract with
        | some i => min i c.1
        | none => c.1
      { x with retract := some lo, greens := x.greens.filter (fun c => decide (c.1 < lo)) }) s.disp.hostRings } }

/-- Replay a set of units with all that depend on them (R414): the records say RUNNING, running steps stop, the INPLACE regions are
then restored in reverse order, and the units run again from the journal. -/
def State.replay (s : State) (ids : List Nat) : State :=
  let ids := s.dependents s.integ.units.length ids
  let us := s.integ.units.filter (fun u => ids.contains u.id)
  let s := us.foldl (fun (s : State) u => match u.crec with
    | some c => s.markRunning u.gang c
    | none => s) s
  let s := us.foldl (fun (s : State) u =>
    match s.walkerOf u.id with
    | some w =>
      let s : State := { s with saved := s.saved.map (fun g => (g.1, g.2.filter (fun c => c.walker != w))) }
      (s.stopSteps w).onJig w (fun j => { j.fromStart with waits := true, multi := j.multi, reserved := j.reserved })
    | none => s) s
  let s := s.integ.journal.reverse.foldl (fun (s : State) r =>
    match r with
    | .inplace u g v d => if ids.contains u then s.gangStore g v d else s
    | _ => s) s
  let s : State := { s with cores := Sparse.mapVals {} (fun (c : Core) =>
    if c.step.isNone && c.lastJig.any (fun j => ids.contains j) then { c with lastJig := none } else c) s.cores }
  let s := us.foldl (fun (s : State) u =>
    s.onUnit u.id (fun u => { u with
      ran := []
      replay := u.stamp.isSome || (s.walkerOf u.id).isSome
      stamp := none })) s
  (s.retractFrom ids).proceed

/-- STEP_END (R264). -/
def execStepEnd (core : CoreId) (s : State) : Out :=
  let k := core.toNat
  if (match (s.core k).step with
    | some t => (s.gang t.gang.toNat).preempting || (s.gang t.gang.toNat).restoring
    | none => true) then .next s
  else .next (s.endStep k).proceed

end Sys2Proof.Machine
end

