-- ==== Sys2Proof/Machine/Queues.lean ====
section
/-! DEFINITION. Queue slots and packets: tail writes, halts, the taking of packets, SIGNAL, WAIT and COPY, cancelling (R313-R321,
R448), JLAUNCH and launched work (R203, R285). -/

namespace Sys2Proof.Machine

open Sys2Proof

/-- QCONF.LOGSIZE (R313). -/
def QSlot.logsize (t : QSlot) : Nat := fld t.qconf.toNat 0 5
/-- QCONF.VEC (R313). -/
def QSlot.vec (t : QSlot) : Nat := fld t.qconf.toNat 16 11
/-- QSTAT.HALT (R313). -/
def QSlot.isHalted (t : QSlot) : Bool := t.xlf || t.mal || t.ovr

/-- The partition of a queue slot (R328). -/
def State.slotPart (s : State) (q : SlotId) : Nat := q.toNat / max 1 s.partSlots

/-- Send a slot's vector (R313). -/
def State.slotMessage (s : State) (q : SlotId) : State := s.messageOf (s.slotPart q) (s.slot q).vec

/-- TYPE of a packet (R317). -/
def packetType (d : List Byte) : Nat := field d 8 1
/-- FLAGS.BAR (R317). -/
def packetBar (d : List Byte) : Bool := (field d 9 1).testBit 0
/-- FLAGS.IRQ (R317). -/
def packetIrq (d : List Byte) : Bool := (field d 9 1).testBit 1
/-- FLAGS.MULTI (R317). -/
def packetMulti (d : List Byte) : Bool := (field d 9 1).testBit 2

/-- The body of a packet by its type (R318, R320). -/
def packetBody (d : List Byte) : Bool :=
  match packetType d with
  | 1 => field d 16 8 % 64 == 0 && field d 24 8 % 32 == 0 && zeroFrom d 32 64
  | 2 => field d 16 8 % 64 == 0 && field d 24 8 % 32 == 0 && zeroFrom d 32 64
  | 3 => decide (1 ≤ field d 32 4) && field d 36 8 % 32 == 0 && zeroFrom d 44 64
  | 4 => field d 16 8 % 8 == 0 && decide (field d 32 1 ≤ 1) && zeroFrom d 35 64
  | 5 => field d 16 8 % 8 == 0 && decide (field d 32 1 ≤ 3) && zeroFrom d 33 64
  | _ => false

/-- A packet of a partition is well formed (R317, R320, R329). -/
def packetValid (part : Nat) (d : List Byte) : Bool :=
  let ty := packetType d
  packetBody d && decide (field d 9 1 < 8) && field d 11 1 == 0 && (!packetIrq d || ty == 4)
    && (if packetMulti d then decide (ty ≤ 2) && (field d 10 1).testBit part else field d 10 1 == 0 && field d 12 4 == 0)

/-- The GID and PMASK of a packet of a MULTI launch (R329). -/
def packetGroup (d : List Byte) : Option (BitVec 32 × Byte) :=
  if packetMulti d then some (BitVec.ofNat 32 (field d 12 4), BitVec.ofNat 8 (field d 10 1)) else none

/-- The half whose dispatcher a queue slot belongs to (R433): the slots are split between the halves in order. -/
def halfOfSlot (q : SlotId) : Bool := decide (64 ≤ q.toNat)

/-- A half's dispatcher takes packets (R421, R432, R433, R436). -/
def State.dispatching (s : State) (half : Bool) : Bool :=
  !s.frozen && s.plinth.ready.getLsbD (if half then 7 else 6)

/-- Packets of a slot may be taken as far as the slot and its dispatcher are concerned (R316, R411). -/
def State.slotRuns (s : State) (q : SlotId) : Bool :=
  let t := s.slot q
  t.mapped && !t.isHalted && s.dispatching (halfOfSlot q)

/-- The packet at a slot's head, where its stamp reads its index (R314, R316). -/
def State.headPacket (s : State) (q : SlotId) : State × Option (Nat × List Byte) :=
  let t := s.slot q
  let i := t.head.toNat
  let a := t.qbase.toNat + 64 * (i % 2 ^ t.logsize)
  if t.tail.toNat ≤ i then (s, none)
  else
    match s.gangWord t.gang a with
    | (s, some w) =>
      if w ≠ i then (s, none)
      else
        match s.gangRead t.gang a 64 with
        | (s, some d) => (s, some (i, plain d))
        | (s, none) => (s, none)
    | (s, none) => (s, none)

/-- What stands at the head of a queue as far as the queue itself is concerned: nothing that can be taken, a malformed packet, or a
packet that may start, with its index (R285, R316, R319, R320): launched units go first, and a WAIT in force holds it. -/
inductive HeadEnd where
  | nothing
  | malformed
  | packet (i : Nat) (d : List Byte)
  deriving DecidableEq, Repr

/-- Launched units taken from a slot and not complete (R285). -/
def QSlot.launchedOpen (t : QSlot) : List Nat := (t.launched.filter (fun l => l.unit.isSome)).map (fun l => l.id)

/-- The first launched unit of a slot that has not been taken (R285). -/
def QSlot.nextLaunched (t : QSlot) : Option Launch := t.launched.find? (fun l => l.unit.isNone)

/-- Whether the BAR condition of a packet holds (R285, R319). -/
def QSlot.barMet (t : QSlot) (d : List Byte) : Bool := !packetBar d || (t.open_.isEmpty && t.launchedOpen.isEmpty)

/-- The head of a queue is read (R316). -/
def State.readHead (s : State) (q : SlotId) : State × HeadEnd :=
  let t := s.slot q
  if !s.slotRuns q || t.wait.isSome || s.journalFull || t.nextLaunched.isSome then (s, .nothing)
  else
    match s.headPacket q with
    | (s, none) => (s, .nothing)
    | (s, some (i, d)) =>
      if !packetValid (s.slotPart q) d then (s, .malformed)
      else if t.barMet d then (s, .packet i d)
      else (s, .nothing)

/-- The launched unit of a slot that may be taken (R285): with BAR it waits for every packet and launched unit taken from the slot
before it. -/
def State.readLaunched (s : State) (q : SlotId) : Option Launch :=
  let t := s.slot q
  if !t.mapped || !s.dispatching (halfOfSlot q) || s.journalFull then none
  else t.nextLaunched.filter (fun l => t.barMet l.packet)

/-- Whether a queue is eligible (R280, R285). -/
def State.eligible (s : State) (q : SlotId) : Bool :=
  (s.readLaunched q).isSome || (match (s.readHead q).2 with
    | .packet .. => true
    | _ => false)

/-- The dispatchers look at the head of a queue: it is eligible from now on, or from when it was (R280). -/
def State.noteHead (s : State) (q : SlotId) : State :=
  let c := if s.eligible q then some (s.eligibleFrom q) else none
  { s with disp := { s.disp with since := Sparse.put none s.disp.since q.toNat c } }

/-- The head of a queue has been taken: what stands there next waits from now on (R280). -/
def State.nextHead (s : State) (q : SlotId) : State :=
  State.noteHead { s with disp := { s.disp with since := Sparse.put none s.disp.since q.toNat none } } q

/-- A packet has been read whole: HEAD moves on and the head word is written (R316); it is open until it completes. -/
def State.advanceHead (s : State) (q : SlotId) (i : Nat) : State :=
  let s := s.onSlot q (fun t => { t with head := word (i + 1), open_ := t.open_ ++ [i] })
  s.gangPut (s.slot q).gang (s.slot q).qheadva.toNat (i + 1)

/-- The queue halts on a malformed packet (R320). -/
def State.malformed (s : State) (q : SlotId) : State := ((s.onSlot q (fun t => { t with mal := true })).slotMessage q).noteHead q

/-- Take the packet at the head of a slot, if it may start, has the given type, and is what the dispatchers choose (R280, R316,
R320). -/
def State.takeHead (s : State) (q : SlotId) (ty : Nat) (f : State → Nat → List Byte → Option State) : State :=
  match s.readHead q with
  | (s, .nothing) => s
  | (s, .malformed) => s.malformed q
  | (s, .packet i d) => if packetType d = ty then ((f s i d).map (fun s => s.nextHead q)).getD s else s

/-- Units that a packet of a slot has a declared dependence on, directly or through the WAITs before it (R319): with BAR, every earlier
one of the slot, else those that a WAIT before it has waited for by its own BAR. -/
def State.packetDeps (s : State) (q : SlotId) (d : List Byte) : List Nat :=
  if packetBar d then s.unitsOfSlot q else (s.slot q).waitDeps

/-- The taking of a JIG or GRAPH packet's work: a part of a MULTI launch whose reservations have been released fails (R329). -/
def State.takeWork (s : State) (t : Take) (d : List Byte) : Option (State × Nat) :=
  match t.multi with
  | some m =>
    if s.disp.multiFailed.contains m then
      let s := s.markRunning t.gang t.crec
      let q := s.newUnit (fun id =>
        { id := id, gang := t.gang, slot := t.slot, kind := .graph, crec := some t.crec, deps := t.deps })
      some (q.1.failUnit q.2 t.origin 0x205, q.2)
    else if packetType d = 1 then s.takeJig t (field d 16 8) else s.takeGraph t (field d 16 8)
  | none => if packetType d = 1 then s.takeJig t (field d 16 8) else s.takeGraph t (field d 16 8)

/-- The work of the JIG or GRAPH packet `i` of a slot is taken (R281, R316, R410); none where it cannot be. -/
def State.takePacket (s : State) (q : SlotId) (i : Nat) (d : List Byte) : Option State :=
  let t : Take :=
    { gang := (s.slot q).gang
      slot := q
      depth := 0
      crec := field d 24 8
      origin := .packet q i
      deps := s.packetDeps q d
      multi := packetGroup d
      prio := s.slotPrio q }
  let s := (s.advanceHead q i).journal (.packet s.disp.nextUnit d)
  (s.takeWork t d).map (fun r => r.1.season)

/-- A launched unit of a slot is taken (R281, R285, R410); none where it cannot be. -/
def State.takeLaunched (s : State) (q : SlotId) (l : Launch) : Option State :=
  let tk : Take :=
    { gang := (s.slot q).gang
      slot := q
      depth := l.depth
      crec := field l.packet 24 8
      origin := .launched q l.id
      deps := [l.parent] ++ s.packetDeps q l.packet
      multi := packetGroup l.packet
      prio := s.slotPrio q }
  let u := s.disp.nextUnit
  let s := s.onSlot q (fun t => { t with launched := t.launched.map (fun x => if x.id = l.id then { x with unit := some u } else x) })
  ((s.journal (.packet u l.packet)).takeWork tk l.packet).map (fun r => r.1.season)

/-- Whether a queue holds a jig or graph that could be taken now (R280): one whose head cannot be taken blocks no other queue. -/
def State.hasWork (s : State) (q : SlotId) : Bool :=
  match s.readLaunched q with
  | some l => (s.takeLaunched q l).isSome
  | none =>
    match s.readHead q with
    | (s, .packet i d) => decide (packetType d ≤ 2) && (s.takePacket q i d).isSome
    | _ => false

/-- Queue `p` is chosen before queue `q` (R280): a higher effective priority, or the same and a longer wait, or the lower slot. -/
def State.queueBefore (s : State) (p q : SlotId) : Bool :=
  decide (s.slotPrio q < s.slotPrio p) || (s.slotPrio p == s.slotPrio q &&
    (decide (s.eligibleFrom p < s.eligibleFrom q) || (s.eligibleFrom p == s.eligibleFrom q && decide (p.toNat < q.toNat))))

/-- The dispatchers choose queue `q` for the jig or graph at its head (R273, R280): a walker pair is free, no jig in flight can
take a panel that is free, and no other queue whose head can be taken comes before it. -/
def State.chooses (s : State) (q : SlotId) : Bool :=
  s.freeWalker.isSome
    && s.disp.jigs.all (fun e => match e.2 with
      | some j => !s.couldGo e.1 j
      | none => true)
    && s.disp.slots.all (fun e =>
      let p := BitVec.ofNat 7 e.1
      p == q || !s.queueBefore p q || !s.hasWork p)

/-- PACKET_JIG and PACKET_GRAPH (R280, R281, R316, R410). -/
def State.packetWork (s : State) (q : SlotId) (ty : Nat) : State :=
  s.takeHead q ty (fun s i d => if s.chooses q then s.takePacket q i d else none)

/-- PACKET_JIG (R316). -/
def execPacketJig (slot : SlotId) (s : State) : Out := .next (s.packetWork slot 1)

/-- PACKET_GRAPH (R286). -/
def execPacketGraph (slot : SlotId) (s : State) : Out := .next (s.packetWork slot 2)

/-- PACKET_COPY (R318). -/
def execPacketCopy (slot : SlotId) (s : State) : Out :=
  .next (s.takeHead slot 3 (fun s i d =>
    let g := (s.slot slot).gang
    let crec := field d 36 8
    let s := (s.advanceHead slot i).markRunning g crec
    let r := s.newUnit (fun id =>
      { id := id, gang := g, slot := slot, kind := .copy (field d 16 8) (field d 24 8) (field d 32 4), crec := some crec, deps := s.packetDeps slot d })
    let s := r.1.journal (.packet r.2 d)
    some (s.onSlot slot (fun t => { t with copies := t.copies ++ [(i, r.2, d)] }))))

/-- PACKET_COPY_DONE (R318): the oldest copy in progress ends. -/
def execPacketCopyDone (slot : SlotId) (s : State) : Out :=
  match (s.slot slot).copies with
  | [] => .next s
  | (i, id, d) :: rest =>
    if s.frozen || (s.unit id).any (fun u => s.awaitsReplay u.deps) then .next s
    else
      let n := field d 32 4
      let r := s.copyRun (s.slot slot).gang (field d 16 8) (field d 24 8) n
      let s := (r.1.onSlot slot (fun t => { t with copies := rest })).stampUnit id (copyImage r.2.2 r.2.1)
      .next (s.closeOrigin (.packet slot i)).proceed

/-- The store or add of a SIGNAL (R318); none where its word cannot be reached for writing. -/
def State.signalWord (s : State) (g : GangId) (d : List Byte) : Option State :=
  let a := field d 16 8
  match s.gangRead g a 8 with
  | (_, none) => none
  | (s, some old) =>
    let v := field d 24 8
    if field d 32 1 = 1 then
      s.gangWrite g a ((leBytes 8 ((leNat (plain old) + v) % 2 ^ 64)).map (fun b => (b, anyPois old)))
    else s.gangWrite g a (clean (leBytes 8 v))

/-- The queue halts on the word of its oldest SIGNAL, or of the WAIT in force, that cannot be reached (R448). -/
def State.unreachable (s : State) (q : SlotId) (signal : Bool) : State :=
  ((s.onSlot q (fun t => { t with
    xlf := true
    signalFailed := t.signalFailed || signal
    waitFailed := t.waitFailed || !signal })).slotMessage q).noteHead q

/-- Packets of a slot that have been taken go on, whether or not the queue is halted (R448). -/
def State.slotLives (s : State) (q : SlotId) : Bool := (s.slot q).mapped && s.dispatching (halfOfSlot q)

/-- SIGNALs of a slot that may perform do so, the oldest first (R285, R318, R448). -/
def State.trySignals : Nat → State → SlotId → State
  | 0, s, _ => s
  | n + 1, s, q =>
    let t := s.slot q
    match t.signals with
    | [] => s
    | (i, d, ls) :: rest =>
      if !s.slotLives q || t.signalFailed || t.open_.any (fun j => decide (j < i))
        || ls.any (fun l => t.launched.any (fun x => x.id == l)) then s
      else
        match s.signalWord t.gang d with
        | none => s.unreachable q true
        | some s =>
          let s := (s.onSlot q (fun t => { t with signals := rest })).closeOrigin (.packet q i)
          let s := if packetIrq d then s.messageOf (s.slotPart q) (field d 33 2) else s
          State.trySignals n s q

/-- The SIGNALs of a slot go on. -/
def State.signals (s : State) (q : SlotId) : State := State.trySignals (s.slot q).signals.length s q

/-- PACKET_SIGNAL (R318): the SIGNAL at the head is taken, and those whose earlier packets have completed perform. -/
def execPacketSignal (slot : SlotId) (s : State) : Out :=
  .next ((s.takeHead slot 4 (fun s i d =>
    let ls := (s.slot slot).launchedOpen
    let s := (s.advanceHead slot i).journal (.packet s.disp.nextUnit d)
    some (s.onSlot slot (fun t => { t with signals := t.signals ++ [(i, d, ls)] })))).signals slot)

/-- The WAIT in force at a slot is tried again: it completes where its comparison holds (R318, R448). The journal records
every value read (R410). -/
def State.tryWait (s : State) (q : SlotId) : State :=
  let t := s.slot q
  match t.wait with
  | none => s
  | some (i, d) =>
    if !s.slotLives q || t.waitFailed then s
    else
      match s.gangWord t.gang (field d 16 8) with
      | (s, none) => s.unreachable q false
      | (s, some w) =>
        let s := s.journal (.control s.disp.nextUnit w)
        if compareWord (field d 32 1) w (field d 24 8) then
          (s.onSlot q (fun t => { t with wait := none })).closeOrigin (.packet q i)
        else s

/-- A tail write of a value (R315); the stamp, and the word of a WAIT in force, are read again (R316, R318). -/
def State.tailWrite (s : State) (q : SlotId) (w : Nat) : State :=
  let t := s.slot q
  ((if t.head.toNat + 2 ^ t.logsize < w then (s.setSlotQ q { t with ovr := true }).slotMessage q
    else s.setSlotQ q { t with tail := word (max t.tail.toNat w) }).tryWait q).noteHead q

/-- TAIL_WRITE (R315). -/
def execTailWrite (slot : SlotId) (w : BitVec 64) (s : State) : Out := .next (s.tailWrite slot w.toNat)

/-- The physical address of a slot's doorbell word, where its page is valid (R313, R315). -/
def State.doorbell (s : State) (t : QSlot) : Option Nat :=
  match s.walk (s.gangHalf t.gang.toNat) t.gang.toNat t.qdbva.toNat with
  | (_, .leaf l) => if l.host || decide (2 ^ 56 ≤ t.qdbva.toNat) then none else some (l.place t.qdbva.toNat).2
  | _ => none

/-- The dispatchers observe the stores that have reached doorbell words, in their order (R315). -/
def State.observe (s : State) : State :=
  if s.mem.rung.isEmpty then s
  else
    let ws := s.mem.rung
    let bells := s.disp.slots.filterMap (fun e => if e.2.mapped then (s.doorbell e.2).map (fun a => (a, e.1)) else none)
    let s : State := { s with mem := { s.mem with rung := [] } }
    ws.foldl (fun s c => bells.foldl (fun s b => if b.1 = c.1 then s.tailWrite (BitVec.ofNat 7 b.2) c.2 else s) s) s

/-- PACKET_WAIT (R318). -/
def execPacketWait (slot : SlotId) (s : State) : Out :=
  .next ((s.takeHead slot 5 (fun s i d =>
    let s := (s.advanceHead slot i).journal (.packet s.disp.nextUnit d)
    let deps := if packetBar d then s.unitsOfSlot slot else (s.slot slot).waitDeps
    some (s.onSlot slot (fun t => { t with wait := some (i, d), waitDeps := deps })))).tryWait slot)

/-- DISPATCHER_REREAD (R280, R316, R318): the WAIT word is read again, and the stamp at the head. -/
def execDispatcherReread (slot : SlotId) (s : State) : Out := .next (((s.tryWait slot).signals slot).noteHead slot).proceed

/-- OVR is cleared (R315). -/
def State.clearOvr (s : State) (q : SlotId) : State := (s.onSlot q (fun t => { t with ovr := false })).noteHead q

/-- MAL is cleared: the packet at the head is read again (R320). -/
def State.clearMal (s : State) (q : SlotId) : State :=
  let s := s.onSlot q (fun t => { t with mal := false })
  let s := s.noteHead q
  if (s.slot q).wait.isSome || !s.slotRuns q then s
  else
    match s.headPacket q with
    | (s, some (_, d)) => if packetValid (s.slotPart q) d then s else s.malformed q
    | (s, none) => s

/-- XLF is cleared: the accesses that failed are tried again (R448). -/
def State.clearXlf (s : State) (q : SlotId) : State :=
  (((s.onSlot q (fun t => { t with xlf := false, signalFailed := false, waitFailed := false })).tryWait q).signals q).noteHead q

/-- CLEAR_OVR (R315). -/
def execClearOvr (slot : SlotId) (s : State) : Out := .next (s.clearOvr slot)

/-- CLEAR_MAL (R320). -/
def execClearMal (slot : SlotId) (s : State) : Out := .next (s.clearMal slot)

/-- CLEAR_XLF (R448). -/
def execClearXlf (slot : SlotId) (s : State) : Out := .next (s.clearXlf slot)

/-- The walker pairs of jigs that satisfy a test. -/
def State.walkers (s : State) (p : Jig → Bool) : List Nat :=
  (s.disp.jigs.filter (fun e => match e.2 with
    | some j => p j
    | none => false)).map (fun e => e.1)

/-- A graph is cancelled (R321): unstarted nodes never start, the jigs of started ones are cancelled, nodes that wait stop. -/
def State.cancelGraph (s : State) (k : Nat) : State :=
  match s.graph k with
  | none => s
  | some g =>
    let s := s.setGraph k (some { g with
      cancelled := true
      multi := none
      nodes := g.nodes.map (fun n => if n.st == .started && n.ty.toNat != nodeJig then { n with st := .settled } else n) })
    let ws := s.walkers (fun j => match j.origin with
      | .node h _ => h == k
      | _ => false)
    (ws.foldl (fun s w => s.cancelJig w) s).settleGraph k

/-- QCAN (R321): packet `i` of a slot is cancelled if it is a JIG or GRAPH that has been taken and has not completed. -/
def State.cancelPacket (s : State) (q : SlotId) (i : Nat) : State :=
  let o : Origin := .packet q i
  let s := (s.walkers (fun j => j.origin == o && !j.again)).foldl (fun s w => s.cancelJig w) s
  ((s.disp.graphs.filter (fun e => match e.2 with
    | some g => g.origin == o
    | none => false)).map (fun e => e.1)).foldl (fun s k => s.cancelGraph k) s

/-- QCAN_WRITE (R321). -/
def execQcanWrite (slot : SlotId) (w : BitVec 64) (s : State) : Out := .next (s.cancelPacket slot w.toNat).proceed

/-- The status of a JLAUNCH (R203): 3 MALFORMED, 2 DEPTH_EXCEEDED, 1 POOL_FULL, 0 ACCEPTED. -/
def State.launchStatus (s : State) (aligned : Bool) (d : List Byte) : Nat :=
  let depth := match s.me.step with
    | some t => t.depth
    | none => 0
  let slot : SlotId := match s.me.step with
    | some t => t.slot
    | none => 0
  if !aligned || !packetValid (s.slotPart slot) d || decide (2 < packetType d) then 3
  else if 16 ≤ depth then 2
  else if 4096 ≤ s.disp.poolUsed then 1
  else 0

/-- The status that the journal holds for a JLAUNCH of a unit that runs again (R203, R414). -/
def State.recordedLaunch (s : State) (unit ordinal rank n : Nat) : Option Nat :=
  s.integ.journal.findSome? (fun r =>
    match r with
    | .jlaunch u o k m v => if u = unit ∧ o = ordinal ∧ k = rank ∧ m = n then some v else none
    | _ => none)

/-- Put an accepted packet into the pool and the slot's launched list (R203, R285): where it comes to stand at the queue's head, it is
eligible from now on (R280). -/
def State.enqueue (s : State) (d : List Byte) : State :=
  let t := s.me.step
  let q : SlotId := (t.map (fun t => t.slot)).getD 0
  let x := s.slot q
  let l : Launch := { id := x.nextLaunch, packet := d, depth := (t.map (fun t => t.depth)).getD 0 + 1, parent := (t.map (fun t => t.jigId)).getD 0 }
  let s := s.setSlotQ q { x with launched := x.launched ++ [l], nextLaunch := x.nextLaunch + 1 }
  let s : State := { s with disp := { s.disp with poolUsed := s.disp.poolUsed + 1 } }
  if x.nextLaunched.isNone then s.nextHead q else s.noteHead q

/-- JLAUNCH (R203): a release at device scope; a twin copy stops (R284), and under replay the recorded status is returned. With
x(XA)[5:0] not zero the packet is MALFORMED before it is read, and SST.OOX stays (log entry 92). A poisoned byte of the packet counts as
its bits stand (log entry 116). -/
def execJlaunch (_st : SStall) (d a : XReg) (s : State) : Out :=
  let k := s.curN
  match s.twinStop k with
  | some s => .next s
  | none =>
    .next (s.releaseS .device (fun s =>
      let aligned := (s.me.xr a).toNat % 64 == 0
      let r := s.spRead k false (s.me.xr a).toNat 64
      let s := if aligned then r.1.setMe (r.1.me.oox r.2.2) else s
      let pk := plain r.2.1
      match s.me.step with
      | none =>
        let v := s.launchStatus aligned pk
        (if v = 0 then s.enqueue pk else s).retireX d (word v)
      | some t =>
        let s := s.setMe { s.me with step := some { t with launches := t.launches + 1 } }
        match s.recordedLaunch t.jigId t.ordinal t.rank t.launches with
        | some v => s.retireX d (word v)
        | none =>
          let v := s.launchStatus aligned pk
          let s := if v = 0 then s.enqueue pk else s
          (s.journal (.jlaunch t.jigId t.ordinal t.rank t.launches v)).retireX d (word v)))

/-- LAUNCHED_TAKE (R280, R281, R285): the first launched unit of a slot that has not been taken. -/
def execLaunchedTake (slot : SlotId) (s : State) : Out :=
  match s.readLaunched slot with
  | none => .next s
  | some l => .next (if s.chooses slot then ((s.takeLaunched slot l).map (fun s => s.nextHead slot)).getD s else s)

end Sys2Proof.Machine
end

