-- ==== Sys2Proof/Machine/NodeEvents.lean ====
section
/-! DEFINITION. The events of graph nodes (R287, R288, R318, R325) and of launches across partitions (R329). -/

namespace Sys2Proof.Machine

open Sys2Proof

/-- A graph's nodes may move: its gang is mapped and its dispatcher works (R279). -/
def State.graphRuns (s : State) (g : Graph) : Bool :=
  (s.gang g.gang.toNat).mapped && s.dispatching (halfOfSlot g.slot) && g.multi.isNone && !g.cancelled

/-- A JIG node starts (R286): its jig has the graph's depth and depends on what has delivered to the node. -/
def State.startJigNode (s : State) (k i : Nat) (g : Graph) (n : Node) : State :=
  let t : Take :=
    { gang := g.gang
      slot := g.slot
      depth := g.depth
      crec := n.fld 24 8
      origin := .node k i
      deps := n.deps
      prio := g.prio }
  let u := s.disp.nextUnit
  match ((s.nodeStart k i).joinGraph k u).takeJig t (n.fld 16 8) with
  | none => s
  | some r => r.1.season

/-- A COPY node is started and ends (R318). -/
def State.runCopyNode (s : State) (k i : Nat) (g : Graph) (n : Node) : State :=
  let r := (s.nodeStart k i).newUnit (fun id =>
    { id := id, gang := g.gang, slot := g.slot, kind := .copy (n.fld 16 8) (n.fld 24 8) (n.fld 32 4), crec := none, deps := n.deps })
  let s := r.1.joinGraph k r.2
  let c := s.copyRun g.gang (n.fld 16 8) (n.fld 24 8) (n.fld 32 4)
  let s := c.1.stampUnit r.2 (copyImage c.2.2 c.2.1)
  s.nodeEnd k i (if c.2.2 then statusDone else statusError) c.2.1 (if c.2.2 then {} else plainCause 0x204) none [r.2]

/-- A SIGNAL node is started and ends (R318, R448). -/
def State.runSignalNode (s : State) (k i : Nat) (g : Graph) (n : Node) : State :=
  let s := s.nodeStart k i
  match s.signalWord g.gang n.body with
  | some s => s.nodeEnd k i statusDone false {} none n.deps
  | none => s.nodeEnd k i statusError false (plainCause 0x204) none n.deps

/-- A WAIT node that has been started reads its word (R318, R448). -/
def State.runWaitNode (s : State) (k i : Nat) (g : Graph) (n : Node) : State :=
  match s.gangWord g.gang (n.fld 16 8) with
  | (s, none) => s.nodeEnd k i statusError false (plainCause 0x204) none n.deps
  | (s, some w) =>
    let s := s.journal (.control g.id w)
    if compareWord (n.fld 32 1) w (n.fld 24 8) then s.nodeEnd k i statusDone false {} none n.deps else s

/-- NODE_READY (R287): a ready node is settled or started, which needs a free walker pair (R273); a WAIT node that has been
started reads its word again. -/
def State.nodeReady (s : State) (k i : Nat) : State :=
  match s.graph k with
  | none => s
  | some g =>
    let n := g.node i
    if !s.graphRuns g then s
    else if n.st == .started then (if n.ty.toNat = nodeWait then s.runWaitNode k i g n else s)
    else
      match s.nodeSettle k i with
      | some s => s
      | none =>
        if s.freeWalker.isNone then s
        else
        match n.ty.toNat with
        | 1 => s.startJigNode k i g n
        | 2 => s.runCopyNode k i g n
        | 5 => s.runSignalNode k i g n
        | 6 => (s.nodeStart k i).runWaitNode k i g n
        | _ => s.nodeStart k i

/-- NODE_READY (R287). -/
def execNodeReady (gr : BitVec 16) (node : BitVec 10) (s : State) : Out :=
  .next (s.nodeReady gr.toNat node.toNat).proceed

/-- NODE_COND (R288): a COND node that has been started reads its word once and sends done on one of its two edges. -/
def execNodeCond (gr : BitVec 16) (node : BitVec 10) (s : State) : Out :=
  let k := gr.toNat
  let i := node.toNat
  match s.graph k with
  | none => .next s
  | some g =>
    let n := g.node i
    if !s.graphRuns g || n.st != .started || n.ty.toNat != nodeCond then .next s
    else
      match s.gangWord g.gang (n.fld 16 8) with
      | (s, none) => .next (s.nodeEnd k i statusError false (plainCause 0x204) none n.deps).season
      | (s, some w) =>
        let b := compareWord (n.fld 32 1) w (n.fld 24 8)
        .next ((s.journal (.control g.id w)).nodeEnd k i statusDone false {} (some b) n.deps).season

/-- NODE_HOSTRING (R325): a HOSTRING node that has been started appends its entry where the ring has room. -/
def execNodeHostring (gr : BitVec 16) (node : BitVec 10) (s : State) : Out :=
  let k := gr.toNat
  let i := node.toNat
  match s.graph k with
  | none => .next s
  | some g =>
    let n := g.node i
    if !s.graphRuns g || n.st != .started || n.ty.toNat != nodeRing then .next s
    else
      let r := s.slotPart g.slot * s.partRings + n.fld 16 2
      let x := s.hostRing r
      let fail (s : State) (c : Nat) : State := s.nodeEnd k i statusError false (plainCause c) none n.deps
      match s.ringRoom r g.gang with
      | .waits => .next s
      | .cause c => .next (fail s c).season
      | .done s =>
        if x.retract.isSome then .next s
        else
        match s.gangWord g.gang (n.fld 24 8) with
        | (s, none) => .next (fail s 0x204).season
        | (s, some p) =>
          let u := s.newUnit (fun id =>
            { id := id, gang := g.gang, slot := g.slot, kind := .ring r (n.fld 20 4) p, crec := none, deps := n.deps })
          match u.1.writeEntry r g.gang 1 (n.fld 20 4) p (some u.2) with
          | .waits => .next s
          | .cause c => .next (fail s c).season
          | .done t =>
            let t := ((t.journal (.control u.2 p)).joinGraph k u.2).stampUnit u.2 (greenImage statusDone false 0 noStep {})
            .next (t.nodeEnd k i statusDone false {} none [u.2]).season

/-- The partitions in which a part of a MULTI launch has reserved (R329). -/
def State.reservedParts (s : State) (m : BitVec 32 × Byte) : List Nat :=
  s.disp.jigs.filterMap (fun e => match e.2 with
    | some j => if j.multi = some m then some (s.gang j.gang.toNat).part.toNat else none
    | none => none)
  ++ s.disp.graphs.filterMap (fun e => match e.2 with
    | some g => if g.multi = some m then some (s.gang g.gang.toNat).part.toNat else none
    | none => none)

/-- Whether every partition that a MULTI launch names has reserved (R329). -/
def State.allReserved (s : State) (m : BitVec 32 × Byte) : Bool :=
  let ps := s.reservedParts m
  (List.range 8).all (fun p => !m.2.getLsbD p || ps.contains p)

/-- The MULTI launches with a GID that have reservations (R329). -/
def State.multis (s : State) (gid : BitVec 32) : List (BitVec 32 × Byte) :=
  (s.disp.jigs.filterMap (fun e => match e.2 with
    | some j => j.multi
    | none => none)
  ++ s.disp.graphs.filterMap (fun e => match e.2 with
    | some g => g.multi
    | none => none)).filter (fun m => m.1 == gid)

/-- The parts of a MULTI launch start together: a jig its first step, a graph its entry node (R329). -/
def State.commit (s : State) (m : BitVec 32 × Byte) : State :=
  let ws := s.walkers (fun j => j.multi == some m)
  let gs := (s.disp.graphs.filter (fun e => match e.2 with
    | some g => g.multi == some m
    | none => false)).map (fun e => e.1)
  let s := ws.foldl (fun s w => (s.onJig w (fun j => { j with multi := none })).handOut w) s
  gs.foldl (fun s k =>
    match s.graph k with
    | some g =>
      let s := (s.setGraph k (some { g with multi := none, reserved := none })).nodeReady k g.entry
      (s.walkers (fun j => j.origin == .node k g.entry)).foldl (fun s w =>
        s.onJig w (fun j => { j with reserved := (g.reserved.map (fun r => r.2.1)).toList })) s
    | none => s) s

/-- MULTI_COMMIT (R329): every named partition has reserved. -/
def execMultiCommit (gid : BitVec 32) (s : State) : Out :=
  match (s.multis gid).find? (fun m => s.allReserved m) with
  | none => .next s
  | some m => .next (s.commit m)

/-- MULTI_TIMEOUT (R329): reservations of a launch of which a named partition has not reserved are released, and each part taken
ends ERROR 0x0205. -/
def execMultiTimeout (gid : BitVec 32) (s : State) : Out :=
  match (s.multis gid).find? (fun m => !s.allReserved m) with
  | none => .next s
  | some m =>
    let ws := s.walkers (fun j => j.multi == some m)
    let gs := (s.disp.graphs.filter (fun e => match e.2 with
      | some g => g.multi == some m
      | none => false)).map (fun e => e.1)
    let s := ws.foldl (fun s w =>
      (s.onJig w (fun j => { j with multi := none, reserved := [], cause := some 0x205 })).tryEndJig w) s
    let s := gs.foldl (fun (s : State) k =>
      match s.graph k with
      | some g => (s.setGraph k none).failUnit g.id g.origin 0x205
      | none => s) s
    .next ({ s with disp := { s.disp with multiFailed := s.disp.multiFailed ++ [m] } }).season

end Sys2Proof.Machine
end

