-- ==== Sys2Proof/Machine/Preempt.lean ====
section
/-! DEFINITION. Gangs and partitions (R279, R328), pre-emption, the save area and restore (R188, R360-R369). -/

namespace Sys2Proof.Machine

open Sys2Proof

/-- Replace a gang. -/
def State.setGang (s : State) (g : Nat) (x : Gang) : State :=
  { s with disp := { s.disp with gangs := Sparse.put {} s.disp.gangs g x } }

/-- The cores that run a step of a gang. -/
def State.victims (s : State) (g : GangId) : List Nat :=
  (s.cores.filter (fun e => match e.2.step with
    | some t => t.gang == g
    | none => false)).map (fun e => e.1)

/-- PREEMPT_REQUEST (R360-R363): with no core held it is complete at once; during a restore it waits; steps that are over end
first. -/
def State.preempt (s : State) (g : GangId) : State :=
  let x := s.gang g.toNat
  if x.restoring then s
  else
    let s := (s.victims g).foldl (fun (s : State) k => s.endStep k) s
    let ks := s.victims g
    if ks.isEmpty then s
    else (ks.foldl (fun (s : State) k => s.haltCore k) s).setGang g.toNat { s.gang g.toNat with preempting := true }

/-- PREEMPT_REQUEST (R360). -/
def execPreemptRequest (gang : GangId) (s : State) : Out := .next (s.preempt gang)

/-- The bytes of a table of `n`-byte values, without zeros. -/
def Sparse.image {w : Nat} (n : Nat) (m : Sparse (BitVec w)) : Sparse Byte :=
  m.flatMap (fun e => ((leBytes n e.2.toNat).zipIdx.filter (fun c => c.1 != 0)).map (fun c => (n * e.1 + c.2, c.1)))

/-- Replace `n` bytes of a store at `a`, whole sectors, by an image whose keys lie below `n`: bytes that are moved keep their poison
and their check values (R396), those that are written carry fresh ones. -/
def Store.splice (m : Store) (a n : Nat) (d : Store) : Store :=
  let out {α : Type} (o z : Nat) (t : Sparse α) (u : Sparse α) : Sparse α :=
    t.filter (fun e => decide (e.1 < o)) ++ (u.filter (fun e => decide (e.1 < z))).map (fun e => (e.1 + o, e.2))
      ++ t.filter (fun e => decide (o + z ≤ e.1))
  { m with
    bytes := out a n m.bytes d.bytes
    pois := out a n m.pois d.pois
    chk := out (a / 32) ((n + 31) / 32) m.chk d.chk }

/-- Write `n` bytes from an image, with its poison and its check values, into device memory; bytes of a page that migrates go where
it lies now (R357). -/
def State.layStore (s : State) (a n : Nat) (d : Store) : State :=
  if s.mem.mig.isEmpty then { s with mem := { s.mem with dev := s.mem.dev.splice a n d } }
  else
    let s := s.physPut a (d.get 0 n)
    (d.chk.filter (fun e => decide (32 * e.1 < n))).foldl (fun s e =>
      { s with mem := { s.mem with dev := { s.mem.dev with
        chk := Sparse.put none s.mem.dev.chk (s.home (a + 32 * e.1) / 32) e.2 } } }) s

/-- Write an image into device memory. -/
def State.layImage (s : State) (a n : Nat) (d : Sparse Byte) : State := s.layStore a n { bytes := d }

/-- The checksum state and poison marks of a bank, as CHK holds them (R366). -/
def bankImage (c : Core) (b : Nat) : Sparse Byte :=
  let k := Sparse.get {} c.m.chk b
  let part (m : Sparse Byte) (o : Nat) (t : Sparse Word32) := m ++ (Sparse.image 4 t).map (fun e => (e.1 + o, e.2))
  let m := part (part (part (part [] 0 k.pr) 512 k.mr) 1024 k.pc) 1536 k.mc
  let m := Sparse.putList 0 m 2048 (leBytes 16 (Sparse.get 0 c.m.rowMarks b).toNat)
  let m := Sparse.putList 0 m 2064 (leBytes 16 (Sparse.get 0 c.m.colMarks b).toNat)
  Sparse.putList 0 m 2080 [BitVec.ofNat 8 k.valid.toNat]

/-- A token record (R367). -/
def tokenRecord (m : Mte) (i holder : Nat) : List Byte :=
  leBytes 8 m.vbase ++ leBytes 5 m.len ++ [BitVec.ofNat 8 (m.r.toNat + 2 * m.w.toNat), BitVec.ofNat 8 holder, BitVec.ofNat 8 i]
    ++ List.replicate 16 0

/-- The token records of a core whose saved operations are all that it holds: its token registers, then the operations that hold
a token, whose HOLDER lies in 0x40 to 0x7F (R367); that of the 65th operation is 0x40 again (log entry 120). -/
def tokenRecords (c : Core) : List Byte :=
  let regs := c.t.filterMap (fun e => e.2.map (fun (t : Tok) => tokenRecord (c.mteOf (some t)) t.idx.toNat e.1))
  let ops := c.opToks.zipIdx.map (fun e => tokenRecord (c.mteOf (some e.1)) e.1.idx.toNat (0x40 + e.2 % 64))
  ((regs ++ ops).take 128).flatMap (fun r => r)

/-- SLOTS: the internal state of the slots of a core (R366). -/
def slotsImage (c : Core) : Sparse Byte :=
  c.rings.flatMap (fun e =>
    ((List.range (min 64 e.2.count)).flatMap (fun k =>
      let t := e.2.slot k
      ((leBytes 4 (t.bytes % 2 ^ 23 + t.attached % 256 * 2 ^ 23 + t.committed.toNat * 2 ^ 31)).zipIdx.filter (fun b => b.1 != 0)).map
        (fun b => (4 * (64 * e.1 + k) + b.2, b.1)))))

/-- Write free bytes: the parts of a record whose layout the spec does not give (log entry 21). -/
def State.layFree (s : State) (a n : Nat) : State :=
  let r := s.freeBytes n
  r.1.layImage a n (Sparse.putList 0 [] 0 r.2)

/-- Write the context record of a core (R366). -/
def State.writeRecord (s : State) (a : Nat) (c : Core) : State :=
  let at_ (s : State) (o n : Nat) (d : Sparse Byte) : State := s.layImage (a + o) n d
  let descs := (List.range 32).flatMap (fun n => (c.ring n).image)
  let s := s.layFree a 0x1000
  let s := at_ s 0x1000 0x1000 (Sparse.image 8 c.s.x ++ (Sparse.image 8 c.v.a).map (fun e => (e.1 + 512, e.2))
    ++ (Sparse.image 128 ((0, BitVec.allOnes 1024) :: c.v.p.filter (fun e => e.1 != 0))).map (fun e => (e.1 + 640, e.2)))
  let s := at_ s 0x2000 0x4000 (Sparse.image 512 c.v.v)
  let s := at_ s 0x6000 0x2000 (slotsImage c)
  let s := at_ s 0x8000 0x80 (Sparse.image 8 c.fmt)
  let s := s.layFree (a + 0x8080) 0xF80
  let s := at_ s 0x9000 0x1000 (Sparse.putList 0 [] 0 (tokenRecords c))
  let s := s.layFree (a + 0xA000) 0x2000
  let s := at_ s 0xC000 0x8000 (c.s.tags.flatMap (fun e => match e.2 with
    | some t => ((leBytes 8 (t.toNat + 2 ^ 63)).zipIdx.filter (fun b => b.1 != 0)).map (fun b => (8 * e.1 + b.2, b.1))
    | none => []))
  let s := at_ s 0x14000 0x2000 (Sparse.image 8 c.s.spill)
  let s := s.layStore (a + 0x16000) 0xA000 { c.v.spill with tags := [], areas := [] }
  let s := at_ s 0x20000 0x10000 c.imem
  let s := at_ s 0x30000 0x40000 (Sparse.image 4 c.m.acc)
  let s := (List.range 4).foldl (fun s b => at_ s (0x70000 + 0x1000 * b) 0x1000 (bankImage c b)) s
  let s := at_ s 0x74000 0xC000 []
  s.layStore (a + 0x80000) 0x300000 (c.spad.splice 0x2FFC00 0x400 { bytes := Sparse.putList 0 [] 0 descs })

/-- A token as a context names it: the GROUP of its records, which is the number its entry had (R367). -/
def groupTok (t : Tok) : Tok := ⟨t.idx, 0⟩

/-- What a context keeps of an entry (R241, R364, R367): its extent, R and W. -/
def Mte.record (m : Mte) : Mte := { st := .stale, w := m.w, r := m.r, len := m.len, vbase := m.vbase, gang := m.gang, fresh := true }

/-- The aperture copies of a core that belong to its gang, or the others: those of an earlier step (R177). -/
def Core.chansOf (c : Core) (own : Bool) : Sparse (List Flight) :=
  let mine (f : Flight) : Bool := f.tok.isNone || (c.mteOf f.tok).gang == c.gangOf
  let sel (q : List Flight) : List Flight := q.filter (fun f => mine f == own)
  Sparse.mapVals [] sel c.c.chans

/-- Replace the aperture channels. -/
def Core.setChans (c : Core) (q : Sparse (List Flight)) : Core := c.onC (fun t => { t with chans := q })

/-- A core as its context keeps it (R28, R364): token records in place of MTEs, none of the hardware registers, and of the
aperture channels only the copies of its gang. -/
def Core.context (c : Core) : Core :=
  let c := (c.setChans (c.chansOf true)).mapToks (fun t => t.map groupTok)
  { c with
    t := Sparse.mapVals none (fun (t : Option Tok) => t.map groupTok) c.t
    mtes := Sparse.mapVals {} (fun (m : Mte) => if m.st == .null then {} else m.record) c.mtes
    m := { c.m with level := 1, govOn := true }
    panel := {}
    season := 0
    lastJig := none
    testing := false }

/-- The references that a context holds to a group: its token records (R367). -/
def Core.records (c : Core) (i : Nat) : Nat :=
  (c.t.filter (fun e => e.2.map (fun (t : Tok) => t.idx.toNat) == some i)).length + c.opToks.countP (fun t => t.idx.toNat == i)

/-- A core whose context has been saved is returned (R241, R361): what its context holds has given its references up. -/
def State.emptyCore (s : State) (k : Nat) : State :=
  let c := s.core k
  let s := (c.setChans (c.chansOf true)).opToks.foldl (fun s t => s.release k (some t)) s
  let s := (c.t.map (fun e => e.1)).foldl (fun s i => s.putTok k (BitVec.ofNat 5 i) none) s
  s.onCore k (fun x => (x.bare true).setChans (c.chansOf false))

/-- The parts of `n` bytes from `a` on that lie in one 64 KiB unit each. -/
def unitParts (a n : Nat) : List (Nat × Nat) :=
  (List.range ((a + n + 65535) / 65536 - a / 65536)).map (fun i =>
    let lo := max a (65536 * (a / 65536 + i))
    (lo, min (a + n) (65536 * (a / 65536 + i + 1)) - lo))

/-- `n` bytes from `a` on are encrypted under a key, where they lie (R357, R366). -/
def State.markArea (s : State) (a n : Nat) (key : BitVec 13) : State :=
  let k := (s.keyIn (some key)).getD 0
  let mark (m : Store) (a n : Nat) : Store :=
    { m with
      tags := m.tags.filter (fun e => decide (16 * e.1 < a) || decide (a + n ≤ 16 * e.1))
      areas := (a, n, k) :: m.areas }
  let d := if s.mem.mig.isEmpty then mark s.mem.dev a n
    else (unitParts a n).foldl (fun m p => mark m (s.home p.1) p.2) s.mem.dev
  { s with mem := { s.mem with dev := d } }

/-- Shadow overlays follow the 256th record, 4 MiB each (R366). -/
def overlayBase (base n : Nat) : Nat := base + 0x1000 + 0x380000 * 256 + 0x400000 * n

/-- Save a core of a gang as context `n` of its save area (R361, R366). -/
def State.saveCore (s : State) (g : GangId) (n k : Nat) : State :=
  let c := s.core k
  let base := (s.gang g.toNat).saveBase
  match c.step with
  | none => s
  | some t =>
    let size := c.panelSize
    let key := (s.gang g.toNat).saveKey
    let idx := leBytes 4 t.ordinal ++ leBytes 2 t.walker ++ [BitVec.ofNat 8 t.rank, BitVec.ofNat 8 size] ++ List.replicate 8 0
    let s := (s.layImage (base + 16 * n) 16 (Sparse.putList 0 [] 0 idx)).markArea (base + 16 * n) 16 key
    let area := base + 0x1000 + 0x380000 * n
    let s := (s.writeRecord area (c.setChans (c.chansOf true))).markArea area 0x380000 key
    let old := ((s.saved.find? (fun x => x.1 == g)).map (fun x => x.2)).getD []
    let m := (old.filterMap (fun e => e.overlay)).foldl (fun m o => max m (o + 1)) 0
    let lays := t.twin == .shadow && t.rank == 0
    let s := if lays then (s.layFree (overlayBase base m) (32 * t.sectors.length)).markArea (overlayBase base m) 0x400000 key
      else s
    let e : Saved :=
      { core := c.context
        walker := t.walker
        ordinal := t.ordinal
        rank := t.rank
        size := size
        oldCore := k
        record := n
        overlay := if lays then some m else none }
    let s : State := { s with saved := s.saved.filter (fun x => x.1 != g) ++ [(g, old ++ [e])] }
    s.emptyCore k

/-- PREEMPT_SAVE_DONE (R361, R366): every context of the victim is written and its cores are returned; not before every
instruction whose wait is over has completed (R197). Replays that waited for the save happen (R387). -/
def execPreemptSaveDone (gang : GangId) (s : State) : Out :=
  if !(s.gang gang.toNat).preempting || (s.victims gang).any (fun k => s.finishing k) then .next s
  else
    let s := (s.victims gang).foldl (fun (s : State) k => s.haltCore k) s
    let s := (s.victims gang).foldl (fun (s : State) k => s.endStep k) s
    let ks := s.victims gang
    let bases := ks.filter (fun k => (s.core k).panelBase k == k)
    let old := ((s.saved.find? (fun x => x.1 == gang)).map (fun x => x.2)).getD []
    let n0 := old.foldl (fun n e => max n (e.record + 1)) 0
    let s := ks.zipIdx.foldl (fun s c => s.saveCore gang (n0 + c.2) c.1) s
    let s := bases.foldl (fun (s : State) b => s.setPanel b {}) s
    .next (s.setGang gang.toNat { s.gang gang.toNat with preempting := false }).pumpReplays

/-- Each group of a context becomes one STALE entry of core `k`, with a reference for each of its records (R240, R368): the
groups and their tokens. -/
def State.cutGroups (s : State) (k : Nat) (c : Core) : State × List (Nat × Tok) :=
  c.mtes.foldl (fun (x : State × List (Nat × Tok)) e =>
    let n := c.records e.1
    if n = 0 then x
    else
      match x.1.takeMte k e.2 with
      | none => x
      | some (s, t) => (s.setMte k t.idx.toNat { (s.core k).mte t.idx.toNat with refs := n }, x.2 ++ [(e.1, t)])) (s, [])

/-- A queued store of a panel that has moved: core numbers in it are named anew. -/
def QStore.move (f : Nat → Nat) (q : QStore) : QStore :=
  let site : Site → Site
    | .sp k => .sp (f k)
    | .spill k => .spill (f k)
    | .tmpl k => .tmpl (f k)
    | e => e
  { q with op := match q.op with
    | .segs gs => .segs (gs.map (fun g => { g with site := site g.site }))
    | op => op }

/-- Put a context back on a core (R364, R368): hardware registers take the new core's values, the governor ramps anew (R187),
core numbers kept inside move with the panel, and every token is cut afresh. -/
def State.restoreCore (s : State) (b d : Nat) (e : Saved) : State :=
  let k := b + e.rank
  let c := s.core k
  let mv (n : Nat) : Nat := n + b - d
  let fl (f : Flight) : Flight := { f with taker := f.taker.map mv }
  let r : Core := { e.core with
    s := { e.core.s with queue := e.core.s.queue.map (fun q => q.move mv) }
    v := { e.core.v with queue := e.core.v.queue.map (fun q => q.move mv) }
    m := { e.core.m with mmapOf := e.core.m.mmapOf.map mv }
    mtes := c.mtes
    panel := { base := BitVec.ofNat 8 b, rank := BitVec.ofNat 4 e.rank, size := BitVec.ofNat 5 e.size }
    buffer := c.buffer
    season := c.season
    lastJig := e.core.step.map (fun t => t.jigId) }
  let x := (s.setCore k (r.mapFlights fl)).cutGroups k e.core
  let tok (t : Option Tok) : Option Tok := t.bind (fun t => (x.2.find? (fun p => p.1 == t.idx.toNat)).map (fun p => p.2))
  let s := x.1.onCore k (fun c => { c.mapToks tok with t := Sparse.mapVals none tok c.t })
  match e.core.step with
  | some t => (s.markDirty t.gang k).onUnit t.jigId (fun u => { u with ran := if u.ran.contains k then u.ran else u.ran ++ [k] })
  | none => s

/-- A core may take a restored context: it is free, kept for no jig, and no aperture copy of an earlier step is left on it. -/
def State.restorable (s : State) (k : Nat) : Bool := s.coreFree 64 k && (s.core k).c.chans.all (fun q => q.2.isEmpty)

/-- A saved panel placed again: its jig's walker and step, its old first core and its new one. -/
structure Placed where
  walker : Nat
  ordinal : Nat
  old : Nat
  new : Nat
  deriving DecidableEq, Repr

/-- The panels of a jig's steps as they stand after a restore, all named anew at once. -/
def Jig.placed (j : Jig) (w : Nat) (ps : List Placed) : Jig :=
  { j with running := j.running.map (fun (r : Running) =>
    { r with bases := r.bases.map (fun x =>
      ((ps.find? (fun p => p.walker == w && p.ordinal == r.ordinal && p.old == x)).map (fun p => p.new)).getD x) }) }

/-- Place the saved panels of a gang one after another on free aligned groups, the lowest first; none where one finds no
place (R368). -/
def State.restorePanels : List (List Saved) → State → GangId → Option (State × List Placed)
  | [], s, _ => some (s, [])
  | p :: ps, s, g =>
    match p.head? with
    | none => State.restorePanels ps s g
    | some h =>
      let d := h.oldCore - h.rank
      let part := (s.gang g.toNat).part.toNat
      match (s.soundGroups part h.size).find? (fun b => (List.range h.size).all (fun r => s.restorable (b + r))) with
      | none => none
      | some b =>
        let s := p.foldl (fun s e => s.restoreCore b d e) (s.setPanel b {})
        (State.restorePanels ps s g).map (fun r => (r.1, ⟨h.walker, h.ordinal, d, b⟩ :: r.2))

/-- The saved contexts of a gang, by panel: one step of one walker, saved from one group of cores. -/
def savedPanels (es : List Saved) : List (List Saved) :=
  (es.filter (fun e => e.rank == 0)).map (fun h => es.filter (fun e =>
    e.oldCore - e.rank == h.oldCore && e.walker == h.walker && e.ordinal == h.ordinal))

/-- RESTORE_REQUEST (R368). -/
def execRestoreRequest (gang : GangId) (s : State) : Out :=
  match s.saved.find? (fun x => x.1 == gang) with
  | none => .next s
  | some x =>
    if (s.gang gang.toNat).preempting || s.frozen then .next s
    else
      match State.restorePanels (savedPanels x.2) s gang with
      | none => .next s
      | some (t, ps) =>
        let t := ((ps.map (fun p => p.walker)).eraseDups).foldl (fun (t : State) w => t.onJig w (fun j => j.placed w ps)) t
        .next { t with saved := t.saved.filter (fun y => y.1 != gang) }

/-- The gang that had a number is no more: its skip-eligible descriptors are freed (R291). -/
def State.unbindGang (s : State) (g : GangId) : State :=
  s.disp.descs.foldl (fun s e => if e.2.bound && e.2.gang == g then s.freeDesc e.1 else s) s

/-- MAP_GANG (R279, R313): all of a gang's slots at once; refused where one of them has a LOGSIZE outside 6-20 or a misaligned
address, or is not the gang's to map. A number mapped with another root or partition is another gang's from now on (log entry 95). -/
def execMapGang (gang : GangId) (slots : List SlotId) (root : BitVec 64) (part : BitVec 3) (save : BitVec 64) (s : State) : Out :=
  let ok := slots.all (fun q =>
    let t := s.slot q
    !t.mapped && decide (6 ≤ t.logsize) && decide (t.logsize ≤ 20) && t.qdbva.toNat % 8 == 0 && t.qheadva.toNat % 8 == 0
      && s.slotPart q == part.toNat)
  let areaOk := save.toNat % 65536 == 0 && s.partOf (save.toNat / 65536) == some part.toNat
    && s.partOf ((overlayBase save.toNat 64 - 1) / 65536) == some part.toNat
  if !ok || (s.gang gang.toNat).mapped || decide (s.disp.parts ≤ part.toNat) || root.toNat % 2 ^ 20 != 0 || !areaOk then .next s
  else
    let s := if (s.gang gang.toNat).root = root.toNat && (s.gang gang.toNat).part == part then s else s.unbindGang gang
    let d := s.draw
    let s := d.2
    let x : Gang := { s.gang gang.toNat with
      mapped := true
      root := root.toNat
      part := part
      saveBase := save.toNat
      saveKey := d.1.setWidth 13 }
    .next (slots.foldl (fun s q => s.onSlot q (fun t => { t with mapped := true, gang := gang })) (s.setGang gang.toNat x))

/-- UNMAP_GANG (R279): the gang's slots are unmapped in one step, so that none is eligible any more (R280), and its running steps are
pre-empted as a whole. -/
def execUnmapGang (gang : GangId) (s : State) : Out :=
  let s : State := { s with disp := { s.disp with slots := Sparse.mapVals {} (fun (t : QSlot) =>
    if t.gang = gang then { t with mapped := false } else t) s.disp.slots } }
  let s : State := { s with disp := { s.disp with since := s.disp.since.filter (fun e => (s.slot (BitVec.ofNat 7 e.1)).gang != gang) } }
  let s := s.setGang gang.toNat { s.gang gang.toNat with mapped := false }
  .next (s.preempt gang)

/-- SET_PARTITIONS (R328): only while no gang is mapped. -/
def execSetPartitions (n : BitVec 4) (s : State) : Out :=
  if s.disp.gangs.any (fun e => e.2.mapped) || !(n == 1#4 || n == 2#4 || n == 4#4 || n == 8#4) then .next s
  else .next { s with disp := { s.disp with parts := n.toNat } }

end Sys2Proof.Machine
end

