-- ==== Sys2Proof/Machine/Revoke.lean ====
section
/-! DEFINITION. Revocation, discarded pages and migration as the Bench requests them, and the visibility of stores (R249,
R348-R358). -/

namespace Sys2Proof.Machine

open Sys2Proof

/-- REASON codes (R348). -/
def reasonUnmap : Nat := 1
/-- MIGRATE (R348). -/
def reasonMigrate : Nat := 2
/-- DISCARD (R348). -/
def reasonDiscard : Nat := 3
/-- ATTRIBUTE (R348). -/
def reasonAttribute : Nat := 4

/-- The first unit of a request. -/
def firstUnit (rq : RevokeReq) : Nat := rq.oldPa.toNat / 65536

/-- The units of a request. -/
def unitsOf (rq : RevokeReq) : List Nat := (List.range rq.units.toNat).map (fun i => firstUnit rq + i)

/-- A request record holds no reserved value (R348). -/
def requestValid (reason : Nat) (rq : RevokeReq) : Bool :=
  rq.pad == 0 && rq.oldPa.toNat % 65536 == 0 && decide (rq.oldPa.toNat < 2 ^ 51)
    && (if reason = reasonMigrate then
          (rq.units == 1#32 || rq.units == 32#32) && rq.newPa.toNat % 65536 == 0 && rq.leafPa.toNat % 8 == 0
            && decide (firstUnit rq + rq.units.toNat ≤ 6291456) && decide (rq.newPa.toNat / 65536 + rq.units.toNat ≤ 6291456)
        else
          rq.newPa == 0 && rq.leafPa == 0 && decide (1 ≤ rq.units.toNat) && decide (rq.units.toNat ≤ 16384))

/-- The half a unit's requests go to (R348): device memory is split between the halves; the window goes to half A. -/
def halfOfUnit (u : Nat) : Bool := decide (3145728 ≤ u) && decide (u < 6291456)

/-- Whether a request waits in the ring: its half has 16 in progress, the migration table of its half is full, a unit to be
discarded is migrating (R339, R348, R355), or a unit to be migrated is the new home of a page whose lines may not be pulled yet
(R356, R415, log entry 75). -/
def State.requestWaits (s : State) (reason : Nat) (rq : RevokeReq) : Bool :=
  let h := halfOfUnit (firstUnit rq)
  decide (16 ≤ (s.bench.revocs.filter (fun r => halfOfUnit (r.units.headD 0) == h)).length)
    || (reason == reasonMigrate && decide (64 ≤ (s.mem.mig.filter (fun p => halfOfUnit p.oldUnit == h)).length))
    || (reason == reasonMigrate && s.mem.mig.any (fun p => p.newUnit == firstUnit rq && !p.settled))
    || (reason == reasonDiscard && (unitsOf rq).any (fun u => (s.migPair (u * 65536)).isSome))

/-- A run covers a unit, of device memory or the window, or, for a run of host memory, the H frame of that number (R347, log entry
110). -/
def Run.covers (r : Run) (us : List Nat) : Bool :=
  us.any (fun u => decide (r.frame.toNat ≤ u) && decide (u < r.frame.toNat + r.npg))

/-- Stage 1 on one core: every entry with a run over one of the units is marked STALE; the re-walk of one that is STALE
already restarts (R349, R352); the translation that has pinned one of them is to leave a STALE entry (R352). What stands in its streams' queues and goes through it is held from then
on (R349). -/
def State.markCore (s : State) (us : List Nat) (k : Nat) : State :=
  let s := s.onCore k (fun c => c.onS (fun t => { t with walk := t.walk.map (fun w =>
    if w.pages.any (fun p => p.pinned && p.run.covers us) then { w with stale := true } else w) }))
  (List.range 64).foldl (fun (s : State) i =>
    let m := (s.core k).mte i
    if (m.st == .live || m.st == .stale) && !m.pred && m.runs.any (fun r => r.covers us) then
      let s : State := { s with bench := { s.bench with
        faults := s.bench.faults.filter (fun f => !(f.core == k && f.owner == .rewalk (BitVec.ofNat 6 i))) } }
      s.setMte k i { m with st := .stale }
    else s) s

/-- A window whose remote token is STALE. -/
def Window.staled (w : Window) : Window :=
  let m : Mte := { w.mte with st := .stale }
  { w with mte := m }

/-- Stage 1 (R349, R374): every core that pins a unit marks its entries, the inbound Dovetail agent its remote tokens, and
the walk caches drop what they hold. -/
def State.markUnits (s : State) (us : List Nat) : State :=
  let ks := s.cores.map (fun e => e.1)
  let s := (ks.filter (fun k => us.any (fun u => Sparse.get 0 (s.clampAt false u).cores k != 0 || Sparse.get 0 (s.clampAt true u).cores k != 0))).foldl (fun s k => s.markCore us k) s
  let hit (w : Window) : Bool := (w.mte.st == .live || w.mte.st == .stale) && w.mte.runs.any (fun r => r.covers us)
  let ws := Sparse.mapVals {} (fun (w : Window) => if hit w then w.staled else w) s.dv.windows
  let fs := s.bench.faults.filter (fun f =>
    match f.owner with
    | .window w => !hit (s.window w)
    | _ => true)
  let s : State := { s with dv := { s.dv with windows := ws }, bench := { s.bench with faults := fs } }
  { s with mem := { s.mem with walkCache := [] } }

/-- A pair enters the migration table with every line missing, and the directory entries name each other (R355). A pair whose new unit
is migrated on gives way to it: its missing lines still come from their old home (R415). -/
def State.enterPair (s : State) (rq : RevokeReq) : State :=
  let o := firstUnit rq
  let n := rq.newPa.toNat / 65536
  let old := s.mem.mig.find? (fun p => p.newUnit == o)
  let olds : List Nat := match old with
    | some p => p.oldUnit :: p.olds
    | none => []
  let origin : Sparse (Option Nat) := match old with
    | some p => p.missing.foldl (fun m l => Sparse.put none m l (some (p.source l))) []
    | none => []
  let p : MigPair :=
    { ix := rq.ix.toNat
      oldUnit := o
      newUnit := n
      units := rq.units.toNat
      leafPa := rq.leafPa.toNat
      missing := List.range (512 * rq.units.toNat)
      olds := olds
      origin := origin }
  let m := (List.range p.units).foldl (fun m i => (m.setMig (o + i) true true (n + i)).setMig (n + i) true false (o + i)) s.mem
  { s with mem := { m with mig := m.mig.filter (fun q => q.newUnit != o) ++ [p] } }

/-- Whether a unit lies in host memory alone: neither in device memory nor in the window. -/
def hostOnly (u : Nat) : Bool := decide (6291456 ≤ u) && !inWindow u

/-- Set or clear DSC in the directory entry of a unit (R347, R353). -/
def State.setDsc (s : State) (d : Bool) (u : Nat) : State :=
  s.setClamp (hostOnly u) u { s.clampAt (hostOnly u) u with dsc := d }

/-- Stage 1 of a piece of a request (R349, R350, R353). -/
def State.markPiece (s : State) (reason : Nat) (us : List Nat) : State :=
  let s := if reason = reasonDiscard then us.foldl (fun (s : State) u => s.setDsc true u) s else s
  s.markUnits us

/-- A request is accepted: stage 1 runs for its first piece of at most 32 units (R349, R350, R355). -/
def State.accept (s : State) (reason : Nat) (rq : RevokeReq) : State :=
  let us := unitsOf rq
  let s := if reason = reasonMigrate then s.enterPair rq else s
  let s := s.markPiece reason (us.take 32)
  let r : Revoc := ⟨rq.ix.toNat, reason, us, us.drop 32⟩
  { s with bench := { s.bench with revocs := s.bench.revocs ++ [r] } }

/-- Requests that have waited in the ring are accepted as room comes, in their order. -/
def State.pumpRequests : Nat → State → State
  | 0, s => s
  | n + 1, s =>
    match s.bench.requests.find? (fun r => !s.requestWaits r.1 r.2) with
    | none => s
    | some r =>
      let s : State := { s with bench := { s.bench with requests := s.bench.requests.filter (fun q => q.2.ix != r.2.ix) } }
      State.pumpRequests n (s.accept r.1 r.2)

/-- A request record arrives (R348): refused as malformed, accepted, or kept waiting. -/
def State.request (s : State) (reason : Nat) (rq : RevokeReq) : State :=
  if !requestValid reason rq then s.tell (.malformedRequest rq.ix.toNat)
  else if s.requestWaits reason rq then { s with bench := { s.bench with requests := s.bench.requests ++ [(reason, rq)] } }
  else s.accept reason rq

/-- REVOKE_UNMAP (R348). -/
def execRevokeUnmap (rq : RevokeReq) (s : State) : Out := .next (s.request reasonUnmap rq)

/-- REVOKE_MIGRATE (R355). -/
def execRevokeMigrate (rq : RevokeReq) (s : State) : Out := .next (s.request reasonMigrate rq)

/-- REVOKE_DISCARD (R353). -/
def execRevokeDiscard (rq : RevokeReq) (s : State) : Out := .next (s.request reasonDiscard rq)

/-- REVOKE_ATTRIBUTE (R348). -/
def execRevokeAttribute (rq : RevokeReq) (s : State) : Out := .next (s.request reasonAttribute rq)

/-- REVOCATION_SETTLED (R349, R350): the stores issued through the old frames are visible at .D, and the next piece of the request
is marked; with the last one a migration's lines may be pulled (R356), a discarded unit that is unmapped is free of its mark
(R354), and the Bench learns of the completion. -/
def execRevocationSettled (ix : BitVec 64) (s : State) : Out :=
  match s.bench.revocs.find? (fun r => r.ix == ix.toNat) with
  | none => .next s
  | some r =>
    let s := ((s.cores.map (fun e => e.1)).foldl (fun (s : State) k => s.flush k) s).landWrites (fun _ => true)
    if !r.rest.isEmpty then
      let s := s.markPiece r.reason (r.rest.take 32)
      let r' : Revoc := { r with rest := r.rest.drop 32 }
      .next { s with bench := { s.bench with revocs := s.bench.revocs.map (fun q => if q.ix = r.ix then r' else q) } }
    else
    let s := if r.reason = reasonUnmap then r.units.foldl (fun (s : State) u => s.setDsc false u) s else s
    let s : State := { s with
      bench := { s.bench with revocs := s.bench.revocs.filter (fun q => q.ix != r.ix) }
      mem := { s.mem with mig := s.mem.mig.map (fun p => if p.ix = r.ix ∧ r.reason = reasonMigrate then { p with settled := true } else p) } }
    let s := s.tell (.revocationDone r.ix)
    .next (State.pumpRequests s.bench.requests.length s)

/-- MIGRATION_LINE_PULL (R356): the first missing line of a pair is pulled in the background. -/
def execMigrationLinePull (pair : BitVec 7) (s : State) : Out :=
  match s.mem.mig[pair.toNat]? with
  | none => .next s
  | some p =>
    match p.missing with
    | [] => .next s
    | l :: _ =>
      if !p.settled then .next s
      else
        let s := s.pullLine p l
        .next (State.pumpRequests s.bench.requests.length s)

/-- One of the places given, which one a free value says. -/
def State.pickPlace (s : State) (is : List Nat) : Nat × State :=
  let r := s.draw
  (is.getD (r.1.toNat % is.length) 0, r.2)

/-- A store of a core visible at core scope, none before which has to come first, becomes visible at panel scope, or to the device
where the core stands in no panel (R248, R249). -/
def State.oneToPanel (s : State) (k : Nat) : State :=
  let c := s.core k
  let r := s.pickPlace (ripeStores VisStore.before c.buffer)
  match c.buffer[r.1]? with
  | none => s
  | some q =>
    let s := r.2.onCore k (fun c => { c with buffer := c.buffer.eraseIdx r.1 })
    if c.panel.size = 0#5 then s.perform k q
    else
      let b := c.panelBase k
      s.setPanel b { s.panel b with buffer := (s.panel b).buffer ++ [(k, q)] }

/-- A store visible in a core's panel, none before which has to come first, becomes visible to the device (R249). -/
def State.oneToDevice (s : State) (k : Nat) : State :=
  let b := (s.core k).panelBase k
  let es := (s.panel b).buffer
  let r := s.pickPlace (ripeStores panelBefore es)
  match es[r.1]? with
  | none => s
  | some e => (r.2.setPanel b { r.2.panel b with buffer := es.eraseIdx r.1 }).perform e.1 e.2

/-- STORE_VISIBLE (R249): of the S- or V-stream, the oldest store of its queue becomes visible at core scope; of M, one visible at core
scope becomes visible at panel scope; of C, one visible at panel scope becomes visible to the device. -/
def execStoreVisible (core : CoreId) (ag : Agent) (s : State) : Out :=
  let k := core.toNat
  match ag with
  | .s => .next ((s.popStore k false).getD s)
  | .v => .next ((s.popStore k true).getD s)
  | .m => .next (s.oneToPanel k)
  | .c => .next (s.oneToDevice k)

end Sys2Proof.Machine
end

