-- ==== Sys2Proof/Machine/DvRecv.lean ====
section
/-! DEFINITION. The receiver's side of Dovetail: windows, arrival slots, counting, releases, gaps and faults (R373-R375, R377,
R381-R389, R391), and the replies of the Bench, after which held arrivals go on. -/

namespace Sys2Proof.Machine

open Sys2Proof

/-- A payload of 512 to 4,096 bytes, a multiple of 512 (R372). -/
def payloadValid (n : Nat) : Bool := decide (512 ≤ n) && decide (n ≤ 4096) && n % 512 == 0

/-- COUNT of a packet holds no reserved value (R372, R388). -/
def countValid (ty : DvType) (n : Nat) : Bool :=
  match ty with
  | .release => decide (n < 2 ^ 31)
  | .gap => decide (n < 2 ^ 31)
  | .openAck => decide (n % 256 ≤ 1) && decide (n < 2 ^ 24)
  | .fault => decide (1 ≤ n) && decide (n ≤ 3)
  | _ => n == 0

/-- A packet that is not dropped whole: every sector passes its check and no field holds a reserved value (R373). -/
def packetIntact (p : DvPacket) : Bool :=
  p.intact && countValid p.ty p.count.toNat
    && (match p.ty with
        | .write => payloadValid p.data.length && p.value == 0
        | .release => p.data.isEmpty
        | _ => p.data.isEmpty && p.value == 0 && p.off == 0)

/-- A packet of a type that is addressed to this device (R372). -/
def isFor (ty : DvType) (p : DvPacket) : Bool := p.ty == ty && p.dst == Config.deviceId

/-- How an arrival at a window is answered (R349, R374, R375). -/
inductive Arrival where
  | held
  | refused
  | admitted
  deriving DecidableEq, Repr

/-- The checks of R375 for `n` bytes at an offset of a window; a STALE token is re-walked first, and holds the arrival until
then (R349, R351). -/
def State.windowCheck (s : State) (win off n : Nat) (src : BitVec 22) : State × Arrival :=
  let x := s.window win
  if !x.exported || !(x.srcAny || x.srcDev == src) || decide (x.mte.len < off + n) then (s, .refused)
  else
    let s := s.rewalkWindow win
    let m := (s.window win).mte
    if m.st == .stale then (s, .held)
    else if m.st != .live || !m.may .fabric false true then (s, .refused)
    else if ((s.pieces m true 0 off n).findSome? (fun p => s.missingLine p)).isSome then (s, .held)
    else (s, .admitted)

/-- An admitted write as its stores through the remote token (R93, R375); bytes on a discarded page are dropped and the Bench is told
(R353). -/
def State.windowSegs (s : State) (win off : Nat) (d : List PByte) : State × List Seg :=
  let x := s.window win
  let ps := s.pieces x.mte true 0 off d.length
  let gs := ps.filterMap (fun p =>
    match p.loc with
    | .at e a => some { site := e, addr := a, data := (d.drop p.pos).take p.n, va := x.mte.vbase + p.off, off := p.off, key := p.key }
    | _ => none)
  (match firstDsc ps with
    | some p => s.tell (.discardedStore x.gang inboundAgent (x.mte.vbase + p.off))
    | none => s, gs)

/-- An admitted WRITE of a slot's epoch: its stores become visible now, or later (R391), which is free (log entry 119). -/
def State.windowWrite (s : State) (sl : Nat) (e : BitVec 2) (win off : Nat) (d : List PByte) : State :=
  let r := s.windowSegs win off d
  let v := r.1.draw
  if v.1.getLsbD 0 then v.2.putSegs r.2
  else { v.2 with dv := { v.2.dv with inbound := v.2.dv.inbound ++ [⟨sl, e, r.2⟩] } }

/-- An arrival-counter slot (R381). -/
def State.arrival (s : State) (sl : Nat) : RecvSlot := Sparse.get {} s.dv.recv sl

/-- Replace an arrival-counter slot. -/
def State.setArrival (s : State) (sl : Nat) (x : RecvSlot) : State :=
  { s with dv := { s.dv with recv := Sparse.put {} s.dv.recv sl x } }

/-- An epoch of an arrival slot. -/
def RecvSlot.ep (x : RecvSlot) (e : BitVec 2) : RecvEpoch := Sparse.get {} x.eps e.toNat

/-- Replace an epoch of an arrival slot. -/
def State.setEp (s : State) (sl : Nat) (e : BitVec 2) (r : RecvEpoch) : State :=
  let x := s.arrival sl
  s.setArrival sl { x with eps := Sparse.put {} x.eps e.toNat r }

/-- An epoch number is current: L + 1 or L + 2 (R381). -/
def RecvSlot.current (x : RecvSlot) (e : BitVec 2) : Bool := e - x.last == 1#2 || e - x.last == 2#2

/-- Entries of the release buffer in use (R383). -/
def State.relHeld (s : State) : Nat :=
  (s.dv.recv.map (fun e => (e.2.eps.filter (fun r => r.2.rel.isSome)).length)).foldl (· + ·) 0

/-- A packet of an arrival slot back to its sender. -/
def State.answerPacket (s : State) (sl : Nat) (ty : DvType) (e : BitVec 2) (g n : Nat) : State :=
  let x := s.arrival sl
  s.inject { packetTo ty x.src (BitVec.ofNat 12 sl) x.win with
    epoch := e
    gen := BitVec.ofNat 4 g
    count := BitVec.ofNat 32 n }

/-- The flag's value (R385): FAULT and REASON where a reason is given, REFUSED, VALUE. -/
def flagValue (reason : Nat) (refused : Bool) (v : Word32) : Nat :=
  v.toNat + (if refused then 2 ^ 32 else 0) + (if reason = 0 then 0 else 2 ^ 63 + reason * 2 ^ 60)

/-- Write the flag of a slot (R385): a release that covers the WRITEs of the slot's epoch (R391), in error form of both; one store of
eight bytes, recorded in the journal (R410). -/
def State.putFlag (s : State) (sl : Nat) (e : Option (BitVec 2)) (win off v : Nat) : State :=
  let s := s.landWrites (fun x => x.slot == sl && (e.isNone || e == some x.epoch))
  let r := s.windowSegs win off (clean (leBytes 8 v))
  (r.1.putSegs r.2).journal (.flag ((s.window win).mte.vbase + off) (word v))

/-- An error-form flag: written, told to the Bench where it is refused, or kept while the remote token is STALE, or an earlier one of its
slot is kept (R388). -/
def State.errFlag (s : State) (f : ErrFlag) : State :=
  if s.dv.errFlags.any (fun g => g.slot == f.slot) then { s with dv := { s.dv with errFlags := s.dv.errFlags ++ [f] } }
  else
    match s.windowCheck f.win f.off 8 f.src with
    | (s, .admitted) => s.putFlag f.slot none f.win f.off f.value
    | (s, .refused) => s.tell (.flagRefused (BitVec.ofNat 16 f.win) f.off)
    | (s, .held) => { s with dv := { s.dv with errFlags := s.dv.errFlags ++ [f] } }

/-- Fault a channel (R388): error-form flags for the current epochs whose flag is unwritten, in order, and FAULT is sent. Its
COUNT holds the reason. -/
def State.faultSlot (s : State) (sl reason : Nat) : State :=
  let x := s.arrival sl
  let s := [x.last + 1#2, x.last + 2#2].foldl (fun (s : State) e =>
    let r := x.ep e
    match r.last with
    | some i => s.errFlag ⟨sl, i.win, x.src, i.off, flagValue reason r.refused i.value⟩
    | none => s.tell (.noFlag (BitVec.ofNat 12 sl))) s
  let s := s.setArrival sl { x with eps := [], fault := some (BitVec.ofNat 3 reason), sends := 1 }
  s.answerPacket sl .fault 0 0 reason

/-- Flags of an arrival slot are written in epoch order as far as their releases are complete (R383). -/
def State.writeFlags : Nat → State → Nat → State
  | 0, s, _ => s
  | n + 1, s, sl =>
    let x := s.arrival sl
    let e := x.last + 1#2
    let r := x.ep e
    match r.rel with
    | none => s
    | some i =>
      if r.arr ≠ i.count then s
      else
        match s.windowCheck i.win i.off 8 x.src with
        | (s, .held) => s
        | (s, .refused) => (s.tell (.flagRefused (BitVec.ofNat 16 i.win) i.off)).faultSlot sl 3
        | (s, .admitted) =>
          let s := s.putFlag sl (some e) i.win i.off (flagValue 0 r.refused i.value)
          State.writeFlags n (s.setArrival sl { x with last := e, eps := Sparse.put {} x.eps e.toNat {} }) sl

/-- Keep a packet that must wait. -/
def State.keepPacket (s : State) (p : DvPacket) : State := { s with dv := { s.dv with held := s.dv.held ++ [p] } }

/-- Whether an arrival slot takes a packet: allocated to its sender, the channel not faulted, the packet's epoch current and
its generation the current one (R382, R383, R389). -/
def State.counts (s : State) (p : DvPacket) : Bool :=
  let x := s.arrival p.slot.toNat
  x.used && x.src == p.src && x.fault.isNone && x.current p.epoch && (x.ep p.epoch).gen == p.gen.toNat

/-- WRITE at the receiver (R373, R375, R382). -/
def State.recvWrite (s : State) (p : DvPacket) : State :=
  if !packetIntact p || !s.counts p then s
  else
    let sl := p.slot.toNat
    let c := s.windowCheck p.win.toNat p.off.toNat p.data.length p.src
    if c.2 = .held then c.1.keepPacket p
    else
      let s := if c.2 = .admitted then c.1.windowWrite sl p.epoch p.win.toNat p.off.toNat (packetBytes p) else c.1.tell (.refused p.win p.off.toNat)
      let r := (s.arrival sl).ep p.epoch
      let r : RecvEpoch := { r with arr := r.arr + 1, gapping := none, refused := r.refused || decide (c.2 = .refused) }
      let s := s.setEp sl p.epoch r
      if r.rel.any (fun i => decide (i.count < r.arr)) then s.faultSlot sl 2 else State.writeFlags 2 s sl

/-- RELEASE at the receiver (R383, R384, R388): met at once, or held where the buffer has an entry left, else answered BUSY; a
held release that counts fewer packets than have arrived faults the channel. -/
def State.recvRelease (s : State) (p : DvPacket) : State :=
  let sl := p.slot.toNat
  if !packetIntact p || !s.counts p || ((s.arrival sl).ep p.epoch).rel.isSome then s
  else
    let r := (s.arrival sl).ep p.epoch
    let i : RelInfo := ⟨p.count.toNat, p.win.toNat, p.off.toNat, p.value⟩
    let r : RecvEpoch := { r with last := some i, relSeen := true, gapping := none }
    if r.arr = i.count ∧ p.epoch = (s.arrival sl).last + 1#2 then
      State.writeFlags 2 (s.setEp sl p.epoch { r with rel := some i }) sl
    else if 256 ≤ s.relHeld then (s.setEp sl p.epoch r).answerPacket sl .busy p.epoch r.gen 0
    else
      let s := s.setEp sl p.epoch { r with rel := some i }
      if i.count < r.arr then s.faultSlot sl 2 else s

/-- A generation of an epoch has failed (R386, R388): GAP is sent and the next generation counts, or after four failed replays
the channel is faulted. -/
def State.withhold (s : State) (sl : Nat) (e : BitVec 2) : State :=
  let r := (s.arrival sl).ep e
  if 4 ≤ r.gen then s.faultSlot sl (if r.relSeen then 1 else 3)
  else
    let s := s.setEp sl e { arr := 0, gen := r.gen + 1, last := r.last, refused := r.refused, gapping := some (r.gen, r.arr) }
    s.answerPacket sl .gap e r.gen r.arr

/-- Whether an epoch of a slot is current, its channel not faulted, and meets a test (R381, R386). -/
def RecvSlot.meets (x : RecvSlot) (e : BitVec 2) (f : RecvEpoch → Bool) : Bool :=
  x.used && x.fault.isNone && x.current e && f (x.ep e)

/-- The open channel that a packet of a receiver names (R372). -/
def State.channelOf (s : State) (dev : BitVec 22) (sl : BitVec 12) (st : ChanSt) : Option Nat :=
  (s.dv.chans.find? (fun e => e.2.st == st && e.2.dev == dev && e.2.slot == sl)).map (fun e => e.1)

/-- The unsettled epoch of a channel that a packet names at its generation (R384, R387). -/
def Channel.named (c : Channel) (p : DvPacket) : Option Epoch :=
  c.epochs.find? (fun x => x.num == p.epoch && x.released && x.gen == p.gen.toNat && (decide (1 ≤ x.copies) || x.replay))

/-- GAP at the sender (R387): copies of the generation it names stop and the next generation counts; the log is replayed, at once
unless a save or restore of the gang is in progress. -/
def State.recvGap (s : State) (p : DvPacket) : State :=
  if !packetIntact p then s
  else
    match s.channelOf p.src p.slot .opened with
    | none => s
    | some key =>
      match (s.chan key).named p with
      | none => s
      | some x =>
        (s.onChan key (fun c => c.setEpoch { x with gen := x.gen + 1, copies := 0, busy := false, replay := true })).replayDue key

/-- Held arrivals and error-form flags are tried again, in their order, and replays that are due happen. -/
def State.pumpArrivals (s : State) : State :=
  let s := s.pumpReplays
  if s.dv.held.isEmpty && s.dv.errFlags.isEmpty then s
  else
    let ps := s.dv.held
    let fs := s.dv.errFlags
    let s : State := { s with dv := { s.dv with held := [], errFlags := [] } }
    let s := ps.foldl (fun (s : State) p => s.recvWrite p) s
    let s := fs.foldl (fun (s : State) f => s.errFlag f) s
    (s.dv.recv.map (fun e => e.1)).foldl (fun (s : State) sl => if (s.arrival sl).fault.isSome then s else State.writeFlags 2 s sl) s

/-- One of those given: where there are several, which one is free (log entry 119). -/
def State.pickOf {α : Type} (s : State) (l : List α) : State × Option α :=
  match l with
  | [] => (s, none)
  | [x] => (s, some x)
  | l =>
    let d := s.draw
    (d.2, l[d.1.toNat % l.length]?)

/-- A packet of a type that has arrived whole, addressed to this device (R371, R372). -/
def State.hasArrived (s : State) (ty : DvType) (p : DvPacket) : Bool := isFor ty p && s.dv.arrived.contains p

/-- A packet is delivered: it is in flight no more, and what waited before it is tried first. -/
def State.delivered (s : State) (p : DvPacket) : State :=
  { s with dv := { s.dv with sent := s.dv.sent.erase p, arrived := s.dv.arrived.erase p } }.pumpArrivals

/-- DV_RECV_WRITE (R382). -/
def execDvRecvWrite (pk : DvPacket) (s : State) : Out :=
  .next (if s.hasArrived .write pk then (s.delivered pk).recvWrite pk else s)

/-- DV_RECV_RELEASE (R383). -/
def execDvRecvRelease (pk : DvPacket) (s : State) : Out :=
  .next (if s.hasArrived .release pk then (s.delivered pk).recvRelease pk else s)

/-- DV_RECV_GAP (R387). -/
def execDvRecvGap (pk : DvPacket) (s : State) : Out :=
  .next (if s.hasArrived .gap pk then (s.delivered pk).recvGap pk else s)

/-- DV_RECV_BUSY (R384): the remaining copies of the named release are not sent. -/
def execDvRecvBusy (pk : DvPacket) (s : State) : Out :=
  if !s.hasArrived .busy pk then .next s
  else
    let s := s.delivered pk
    match s.channelOf pk.src pk.slot .opened with
    | none => .next s
    | some key =>
      match (s.chan key).named pk with
      | none => .next s
      | some x => .next (if packetIntact pk then s.onChan key (fun c => c.setEpoch { x with busy := true }) else s)

/-- DV_BUSY_RESTART (R384): the copy schedule of a release that BUSY has stopped starts again at the same generation; of which, where
there are two, is free. -/
def execDvBusyRestart (gang : GangId) (ch : BitVec 12) (s : State) : Out :=
  let key := chanKey gang ch
  match s.pickOf ((s.chan key).epochs.filter (fun x => x.busy)) with
  | (s, some x) => .next (if (s.chan key).st = .opened then s.firstCopy key x else s)
  | (s, none) => .next s

/-- Whether an arrival slot may be one that the same OPEN got before: allocated to its sender and window, and no packet has used
it (R377). -/
def RecvSlot.openedBy (x : RecvSlot) (p : DvPacket) : Bool :=
  x.used && x.src == p.src && x.win == p.win && x.fault.isNone && x.eps.isEmpty && x.last == 3#2

/-- The arrival slot that an OPEN got before, if it is a repeated one (R377). An OPEN names no channel, so whether it repeats an
earlier one of its sender to the same window, and which, is a free value (log entry 99). -/
def State.openedBefore (s : State) (p : DvPacket) : State × Option Nat :=
  let l := (s.dv.recv.filter (fun e => e.2.openedBy p)).map (fun e => some e.1)
  if l.isEmpty then (s, none)
  else
    let d := s.draw
    (d.2, (l ++ [none]).getD (d.1.toNat % (l.length + 1)) none)

/-- The lowest arrival slot that is free (R377). -/
def State.freeArrival (s : State) : Option Nat := (List.range 4096).find? (fun sl => !(s.arrival sl).used)

/-- DV_RECV_OPEN (R377): a slot and OPENACK with status 0 and T_gap, or status 1 where all slots are in use. -/
def execDvRecvOpen (pk : DvPacket) (s : State) : Out :=
  if !s.hasArrived .openReq pk then .next s
  else
    let s := s.delivered pk
    if !packetIntact pk then .next s
    else
      let o := s.openedBefore pk
      let s := o.1
      match o.2.or s.freeArrival with
      | some sl =>
        let s := if (s.arrival sl).used then s else s.setArrival sl { used := true, src := pk.src, win := pk.win }
        .next (s.answerPacket sl .openAck 0 0 (256 * s.dv.tgap))
      | none => .next (s.inject { packetTo .openAck pk.src 0 pk.win with count := BitVec.ofNat 32 (1 + 256 * s.dv.tgap) })

/-- The channel whose OPEN an OPENACK answers: one that waits for an answer of that device and window; where several do, which is
a free value (R377; log entry 99). -/
def State.openingFor (s : State) (p : DvPacket) : State × Option Nat :=
  match s.dv.chans.filter (fun e => e.2.st == .opening && e.2.dev == p.src && e.2.win == p.win) with
  | [] => (s, none)
  | [e] => (s, some e.1)
  | e :: l =>
    let d := s.draw
    (d.2, ((e :: l)[d.1.toNat % (l.length + 1)]?).map (fun e => e.1))

/-- DV_RECV_OPENACK (R376, R377). -/
def execDvRecvOpenack (pk : DvPacket) (s : State) : Out :=
  if !s.hasArrived .openAck pk then .next s
  else
    let s := s.delivered pk
    if !packetIntact pk then .next s
    else
      let o := s.openingFor pk
      let s := o.1
      match o.2 with
      | none => .next s
      | some key =>
        let c := s.chan key
        if pk.count.toNat % 256 = 0 then
          .next (s.setChan key ({ c with
            st := .opened
            slot := pk.slot
            tgap := pk.count.toNat / 256 % 65536
            sends := 0 }.finish c.ctl 0))
        else .next (s.setChan key ({ c with st := .faulted, sends := 0 }.finish c.ctl 8))

/-- DV_RECV_SHUT (R377): the slot is freed; a repeated SHUT gets the same answer. -/
def execDvRecvShut (pk : DvPacket) (s : State) : Out :=
  if !s.hasArrived .shut pk then .next s
  else
    let s := s.delivered pk
    if !packetIntact pk then .next s
    else
      let x := s.arrival pk.slot.toNat
      let s := if x.used && x.src == pk.src then s.setArrival pk.slot.toNat {} else s
      .next (s.inject (packetTo .shutAck pk.src pk.slot pk.win))

/-- DV_RECV_SHUTACK (R377). -/
def execDvRecvShutack (pk : DvPacket) (s : State) : Out :=
  if !s.hasArrived .shutAck pk then .next s
  else
    let s := s.delivered pk
    match s.channelOf pk.src pk.slot .shutting with
    | none => .next s
    | some key => .next (if packetIntact pk then s.onChan key (fun c => { c with st := .closed, sends := 0 }.finish c.ctl 0) else s)

/-- A channel becomes FAULTED (R376, R388): the commands that wait in it complete, DVRELs with `code` and the others with
DV_FAULT, and its logs are dropped. -/
def Channel.toFaulted (c : Channel) (code : Nat) : Channel :=
  let ctl := if c.st = .opening ∨ c.st = .shutting then [(c.ctl, 8)] else []
  let held := match c.pend with
    | some (n, .rel _ _) => [(n, code)]
    | some (n, .shut) => [(n, 8)]
    | none => []
  { c with
    st := .faulted
    sends := 0
    ended := c.ended ++ ctl ++ c.unsettled.map (fun x => (x.ser, code)) ++ held
    pend := none
    epochs := [] }

/-- DV_RECV_FAULT (R388): it is acknowledged, and the channel becomes FAULTED: OVERCOUNT for reason 010, else DV_FAULT. -/
def execDvRecvFault (pk : DvPacket) (s : State) : Out :=
  if !s.hasArrived .fault pk then .next s
  else
    let s := s.delivered pk
    if !packetIntact pk then .next s
    else
      let code := if pk.count.toNat = 2 then 7 else 8
      let s := match (s.channelOf pk.src pk.slot .opened).or (s.channelOf pk.src pk.slot .shutting) with
        | some key => s.onChan key (fun c => c.toFaulted code)
        | none => s
      .next (s.inject (packetTo .faultAck pk.src pk.slot pk.win))

/-- DV_RECV_FAULTACK (R388): the slot of a faulted channel is freed. -/
def execDvRecvFaultack (pk : DvPacket) (s : State) : Out :=
  if !s.hasArrived .faultAck pk then .next s
  else
    let s := s.delivered pk
    let x := s.arrival pk.slot.toNat
    .next (if packetIntact pk && x.fault.isSome && x.src == pk.src then s.setArrival pk.slot.toNat {} else s)

/-- DV_RELEASE_COPY (R380): one more identical copy of a release whose four are not all sent; of which, where there are two, is free. -/
def execDvReleaseCopy (gang : GangId) (ch : BitVec 12) (s : State) : Out :=
  let key := chanKey gang ch
  let c := s.chan key
  match s.pickOf (c.unsettled.filter (fun x => decide (1 ≤ x.copies) && decide (x.copies < 4) && !x.busy)) with
  | (s, some x) => .next ((s.inject (c.releasePacket x)).onChan key (fun c => c.setEpoch { x with copies := x.copies + 1 }))
  | (s, none) => .next s

/-- DV_TGAP_EXPIRY (R386): a held release of a slot is withheld. -/
def execDvTgapExpiry (x : ArrivalEpoch) (s : State) : Out :=
  let sl := x.slot
  let ep := x.epoch
  .next (if (s.arrival sl.toNat).meets ep (fun r => r.rel.isSome) then s.withhold sl.toNat ep else s)

/-- DV_GAP_REPEAT (R386). -/
def execDvGapRepeat (x : ArrivalEpoch) (s : State) : Out :=
  let sl := x.slot
  let ep := x.epoch
  match ((s.arrival sl.toNat).ep ep).gapping with
  | some (g, n) =>
    .next (if (s.arrival sl.toNat).meets ep (fun r => r.gapping.isSome) then s.answerPacket sl.toNat .gap ep g n else s)
  | none => .next s

/-- DV_REPLAY_TIMEOUT (R386, R388): no RELEASE of the current generation has come, so the replay counts as failed. -/
def execDvReplayTimeout (x : ArrivalEpoch) (s : State) : Out :=
  let sl := x.slot
  let ep := x.epoch
  .next (if (s.arrival sl.toNat).meets ep (fun r => decide (1 ≤ r.gen) && !r.relSeen) then s.withhold sl.toNat ep else s)

/-- DV_SETTLE (R380, R390): a release whose four copies are sent settles, which one being free where there are two; its log is dropped,
and what waited for it in its channel takes effect. A sender replays at a GAP alone, so that the four replays without one, after
which R389 faults a channel, do not arise (log entry 121). -/
def execDvSettle (gang : GangId) (ch : BitVec 12) (s : State) : Out :=
  let key := chanKey gang ch
  let c := s.chan key
  match s.pickOf (c.unsettled.filter (fun x => x.copies == 4 && !x.busy)) with
  | (s, some x) => .next ((s.setChan key ({ c with epochs := c.epochs.filter (fun y => y.num != x.num) }.finish x.ser 0)).chanStep key)
  | (s, none) => .next s

/-- DV_CONTROL_RESEND (R377): sent again, up to five sends in all; then the channel is FAULTED, or a faulted slot freed. -/
def execDvControlResend (own : ControlOwner) (s : State) : Out :=
  match own with
  | .chan g ch =>
    let key := chanKey g ch
    let c := s.chan key
    if c.st ≠ .opening ∧ c.st ≠ .shutting then .next s
    else if c.sends < 5 then
      let p := if c.st = .opening then packetTo .openReq c.dev 0 c.win else packetTo .shut c.dev c.slot c.win
      .next ((s.setChan key { c with sends := c.sends + 1 }).inject p)
    else .next (s.setChan key (c.toFaulted 8))
  | .slot sl =>
    let x := s.arrival sl.toNat
    match x.fault with
    | none => .next s
    | some r =>
      if x.sends < 5 then .next ((s.setArrival sl.toNat { x with sends := x.sends + 1 }).answerPacket sl.toNat .fault 0 0 r.toNat)
      else .next (s.setArrival sl.toNat {})

/-- PACKET_EXPIRY (R371): a packet in flight is dropped, and no port sends it any more. -/
def execPacketExpiry (ix : BitVec 32) (s : State) : Out :=
  .next (match s.dv.sent[ix.toNat]? with
    | some p => s.expire p
    | none => s)

/-- The Bench sets the device's T_gap, from 20 to 1,000 microseconds (R377). -/
def State.setTgap (s : State) (us : Nat) : State :=
  if 20 ≤ us ∧ us ≤ 1000 then { s with dv := { s.dv with tgap := us } } else s

/-- EXPORT_WINDOW (R374): the remote token is cut over the extent, asking for W; where the cut fails the entry stays free. -/
def execExportWindow (win : BitVec 16) (gang : GangId) (base len : BitVec 64) (src : BitVec 22) (anySrc : Bool) (s : State) : Out :=
  let w := win.toNat
  let b := base.toNat
  let n := len.toNat
  let x : Window := { exported := true, gang := gang, srcDev := src, srcAny := anySrc }
  if (s.window w).exported || decide (2 ^ 32 < n) || decide (2 ^ 56 < b + n) then .next s
  else if n = 0 then .next (s.setWindow w x)
  else
    match s.translate false gang.toNat [] b n true with
    | (t, .good mask fsel runs) =>
      let m : Mte :=
        { st := .live
          w := true
          r := true
          mask := mask
          fsel := fsel
          runs := runs
          refs := 1
          len := n
          vbase := b }
      .next ((t.pinRuns inboundAgent runs).setWindow w { x with mte := m })
    | (t, _) => .next t

/-- REPLY_RESOLVED (R343). -/
def execReplyResolved (ix : BitVec 64) (s : State) : Out := .next (s.answer ix.toNat .resolved).pumpArrivals

/-- REPLY_DECLINED (R343). -/
def execReplyDeclined (ix : BitVec 64) (s : State) : Out := .next (s.answer ix.toNat .declined).pumpArrivals

/-- REPLY_NOFRAME (R346). -/
def execReplyNoframe (ix : BitVec 64) (s : State) : Out := .next (s.answer ix.toNat .noframe).pumpArrivals

/-- REPLY_NOFRAME_OWN (R343). -/
def execReplyNoframeOwn (ix : BitVec 64) (s : State) : Out := .next (s.answer ix.toNat .noframeOwn).pumpArrivals

/-- PINWAIT_EXPIRY (R346). -/
def execPinwaitExpiry (ix : BitVec 64) (s : State) : Out := .next (s.answer ix.toNat .expired).pumpArrivals

end Sys2Proof.Machine
end

