-- ==== Sys2Proof/Machine/Power.lean ====
section
/-! DEFINITION. Power, the governor and the DRAM temperature (R187, R434-R437). -/

namespace Sys2Proof.Machine

open Sys2Proof

/-- A ceiling as the Bench's write leaves it: rounded down to a level, the values below 63 to 63 (R434). -/
def ceilingOf (v : Nat) : Byte := if v < 127 then 63 else if v < 191 then 127 else if v < 255 then 191 else 255

/-- The level of a core's array, held at the ceiling of its half (R435). -/
def State.clampLevel (s : State) (k : Nat) : State :=
  let c := s.core k
  s.setCore k (c.onM (fun m => { m with govOn := true, level := min m.level (s.ceiling k) }))

/-- The ceiling of a half is set (R434, R435): a lowered one holds every array of the half at it; from there a raised one lets each
go on with its ramp. -/
def State.setCeiling (s : State) (half : Bool) (v : Byte) : State :=
  let s : State := { s with power := if half then { s.power with ceilB := v } else { s.power with ceilA := v } }
  (s.cores.map (fun e => e.1)).foldl (fun (s : State) k => if halfOf k == half then s.clampLevel k else s) s

/-- GOVCEIL_WRITE (R434, R435). -/
def execGovceilWrite (half : Bool) (val : BitVec 8) (s : State) : Out := .next (s.setCeiling half (ceilingOf val.toNat))

/-- An active Bench is in service (R420, R427, R436). -/
def State.benchRuns (s : State) : Bool := s.power.on && s.plinth.gate == .running && !s.power.thermtrip

/-- The next lower level of a ceiling, 63 at the lowest (R434). -/
def lowerLevel (v : Byte) : Byte := if 191 < v.toNat then 191 else if 127 < v.toNat then 127 else 63

/-- The Bench lowers a hot half's ceiling by one level (R436). -/
def State.lowerCeiling (s : State) (half : Bool) : State :=
  let t := s.setCeiling half (lowerLevel (if half then s.power.ceilB else s.power.ceilA))
  { t with power := if half then { t.power with hotB := some s.clock } else { t.power with hotA := some s.clock } }

/-- The cycles of 10 ms (R1: 2.5 GHz). -/
def cycles10ms : Nat := 25000000

/-- From 95 °C on the Bench lowers the half's ceiling one level each 10 ms (R436). -/
def State.coolDown (s : State) (half : Bool) : State :=
  match (if half then s.power.hotB else s.power.hotA) with
  | none => s
  | some c => if s.benchRuns && decide (c + cycles10ms ≤ s.clock) then s.lowerCeiling half else s

/-- GOV_RAMP_UP (R187, R435): one quarter up, to the ceiling of the half at most. -/
def execGovRampUp (core : CoreId) (s : State) : Out :=
  let k := core.toNat
  .next (s.onCore k (fun c => c.onM (fun m => { m with govOn := true, level := max m.level (min (m.level + 1) (s.ceiling k)) })))

/-- GOV_RAMP_DOWN (R187): one quarter down, to one quarter at least. -/
def execGovRampDown (core : CoreId) (s : State) : Out :=
  .next (s.onCore core.toNat (fun c => c.onM (fun m => { m with govOn := true, level := max 1 (m.level - 1) })))

/-- TEMP with the field of a half's hottest DRAM layer replaced (R434). -/
def tempWith (w : Word) (half : Bool) (t : BitVec 16) : Word :=
  if half then (w &&& 0x0000FFFFFFFFFFFF#64) ||| (t.setWidth 64 <<< 48)
  else (w &&& 0xFFFF0000FFFFFFFF#64) ||| (t.setWidth 64 <<< 32)

/-- The Bench learns that a half has come to 95 °C (R436): it lowers the half's ceiling now (log entry 80), and again each 10 ms. -/
def State.overheat (s : State) (half : Bool) : State :=
  let s := s.tell (.temperature half)
  if (if half then s.power.hotB else s.power.hotA).isSome then s
  else if s.benchRuns then s.lowerCeiling half
  else { s with power := if half then { s.power with hotB := some s.clock } else { s.power with hotA := some s.clock } }

/-- DRAM_TEMP_THRESHOLD (R436), in units of a quarter of a degree: from 85 °C refresh is doubled, from 95 °C the Bench is informed and
lowers the ceiling, at 105 °C every queue and core stops, the Benches' among them, so that their READY bits clear (R433). -/
def execDramTempThreshold (half : Bool) (temp : BitVec 16) (s : State) : Out :=
  let t := temp.toNat
  let hot := decide (340 ≤ t)
  let warm := decide (380 ≤ t) && decide (t < 420)
  let p : Power := { s.power with
    temp := tempWith s.power.temp half temp
    refreshA := if half then s.power.refreshA else hot
    refreshB := if half then hot else s.power.refreshB
    hotA := if half || warm then s.power.hotA else none
    hotB := if !half || warm then s.power.hotB else none
    thermtrip := s.power.thermtrip || decide (420 ≤ t) }
  let s : State := { s with power := p }
  .next (if 420 ≤ t then { s with plinth := { s.plinth with ready := s.plinth.ready &&& ~~~0xF0#64 } }
    else if warm then s.overheat half
    else s)

/-- What remains of the machine once it has lost its state: what the host has, what has left the device, and the model's own
fields. -/
def State.outside (s : State) : State :=
  { mem := { host := s.mem.host }
    link := { messages := s.link.messages, reads := s.link.reads }
    plinth := { responses := s.plinth.responses, sideband := s.plinth.sideband }
    agenda := s.agenda
    cur := s.cur
    turn := s.turn
    budget := s.budget
    free := s.free }

/-- POWER_LOSS (R427): no part of the device holds state. -/
def execPowerLoss (s : State) : Out :=
  let s := s.outside
  .next { s with power := { s.power with on := false } }

end Sys2Proof.Machine
end

