-- ==== Sys2Proof/Machine/Lease.lean ====
section
/-! DEFINITION. The Plinth: measurement, the lease gate, the loading of firmware, takeover and live update (R420-R431, R437). -/

namespace Sys2Proof.Machine

open Sys2Proof

/-- A measurement register as its 48 bytes (R424). -/
def State.measBytes (s : State) (n : Nat) : List Byte := beBytes 48 (Sparse.get 0 s.plinth.meas n).toNat

/-- Extend a measurement register with a digest (R424). -/
def State.extendMeas (s : State) (n : Nat) (d : List Byte) : State :=
  { s with plinth := { s.plinth with meas := Sparse.put 0 s.plinth.meas n (measExtend (Sparse.get 0 s.plinth.meas n) d) } }

/-- The Plinth extends MEAS0 before anything else (R424, R425). -/
def State.measureSelf (s : State) : State :=
  { s with plinth := { s.plinth with meas := Sparse.put 0 s.plinth.meas 0 (selfMeasure (Sparse.get 0 s.plinth.meas 0)) } }

/-- A gate runs, from HOLD until CLEAN (R427). -/
def State.gateRuns (s : State) : Bool := s.plinth.gate == .hold || s.plinth.gate == .scrub

/-- The lease gate starts (R427): HOLD. Within a gate, or without power, nothing happens. -/
def State.startGate (s : State) (trig : BitVec 4) : State :=
  if s.gateRuns || !s.power.on then s
  else
    let d := s.draw
    let s := d.2
    { s with
      bench := { s.bench with runA := false, runB := false, reloading := false }
      plinth := { s.plinth with
        gate := .hold
        go := false
        trig := trig
        ready := s.plinth.ready &&& 1#64
        spdm0 := {}
        spdm1 := {}
        latchedNonce := s.plinth.nonce
        latchedTime := s.plinth.opTime
        nonce := 0
        opTime := 0
        seq := s.plinth.seq + 1
        tStart := d.1 } }

/-- POWER_ON (R427, R437): the Plinth starts from its ROM and runs the lease gate with trigger 3. -/
def execPowerOn (s : State) : Out :=
  let s := s.outside
  let s : State := { s with plinth := { s.plinth with gate := .clean, ready := 1#64 } }
  .next (s.measureSelf.startGate 3)

/-- LEASE_N (R427). -/
def execLeaseN (s : State) : Out := .next (s.startGate 2)

/-- An answer on the sideband. -/
def State.sideAnswer (s : State) (a : SideAnswer) : State :=
  if s.power.on then { s with plinth := { s.plinth with sideband := s.plinth.sideband ++ [a] } } else s

/-- GATE (R427): answered BUSY while a gate runs. -/
def execGate (s : State) : Out := .next (if s.gateRuns then s.sideAnswer .busy else s.startGate 1)

/-- SET_NONCE (R427). -/
def execSetNonce (nonce : BitVec 256) (time : BitVec 64) (s : State) : Out :=
  .next (if s.power.on then { s with plinth := { s.plinth with nonce := nonce, opTime := time } } else s)

/-- The standby runs (R420). -/
def State.standbyRuns (s : State) : Bool := if s.bench.activeB then s.bench.runA else s.bench.runB

/-- A Bench starts with an image in its SRAM (R420, R429): its cores at body offset 0, in supervisor mode, with their registers at
the Reset column's values. -/
def State.startBench (s : State) (b : Bool) (body : List Byte) : State :=
  let m := Sparse.putList 0 [] 0 body
  let s : State := { s with bench := { s.bench with
    runA := s.bench.runA || !b
    runB := s.bench.runB || b
    sramA := if b then s.bench.sramA else m
    sramB := if b then m else s.bench.sramB } }
  (List.range 4).foldl (fun s i => s.setCore ((if b then 260 else 256) + i) { s := { st := .running } }) s

/-- Set whether the standby runs, with its READY bit (R433). -/
def State.setStandby (s : State) (b : Bool) : State :=
  let bit := if s.bench.activeB then 4 else 5
  let m := 1#64 <<< bit
  { s with
    bench := { s.bench with
      runA := if s.bench.activeB then b else s.bench.runA
      runB := if s.bench.activeB then s.bench.runB else b
      reloading := s.bench.reloading && !b }
    plinth := { s.plinth with ready := if b then s.plinth.ready ||| m else s.plinth.ready &&& ~~~m } }

/-- The standby takes the state table as the active Bench has written it (R420, R422). -/
def State.mirrorTable (s : State) : State := { s with bench := { s.bench with mirror := s.bench.table } }

/-- The standby is loaded with an image and started, and imports the state table (R421, R422). -/
def State.loadStandby (s : State) (body : List Byte) : State :=
  ((s.setStandby true).startBench (!s.bench.activeB) body).mirrorTable

/-- The active Bench writes the state table; a standby that runs mirrors it (R420). -/
def State.writeTable (s : State) (version : Nat) (bytes : List Byte) : State :=
  let s : State := { s with bench := { s.bench with table := { version := version, bytes := bytes } } }
  if s.standbyRuns then s.mirrorTable else s

/-- A Bench that is being reloaded after a takeover may have become the new standby (R421): freely. -/
def State.reloadMaybe (s : State) : State :=
  if !s.bench.reloading then s
  else
    let d := s.draw
    if d.1.getLsbD 0 then d.2.loadStandby d.2.bench.image else d.2

/-- STATE of LGSTAT (R430). -/
def GateSt.code : GateSt → Nat
  | .hold => 1
  | .scrub => 2
  | .clean => 3
  | .loading => 4
  | .running => 5
  | .benchless => 6
  | .failed => 7

/-- LGSTAT (R430). -/
def State.lgstat (s : State) : Word :=
  word (s.plinth.gate.code + s.plinth.trig.toNat * 2 ^ 4 + s.plinth.ldErr.toNat * 2 ^ 8
    + s.bench.activeB.toNat * 2 ^ 12 + s.standbyRuns.toNat * 2 ^ 13)

/-- A gate in HOLD may have come to SCRUB: freely (R427). -/
def State.scrubMaybe (s : State) : State :=
  if s.plinth.gate ≠ .hold then s
  else
    let d := s.draw
    if d.1.getLsbD 0 then { d.2 with plinth := { d.2.plinth with gate := .scrub } } else d.2

/-- READ_STATUS (R427). -/
def execReadStatus (s : State) : Out :=
  let s := s.scrubMaybe.reloadMaybe
  .next (s.sideAnswer (.status s.lgstat))

/-- The last scrub record, zero before the first (R430). -/
def State.recordBytes (s : State) : List Byte := (s.plinth.record ++ List.replicate 512 0).take 512

/-- READ_RECORD (R427). -/
def execReadRecord (s : State) : Out := .next (s.sideAnswer (.record s.recordBytes))

/-- The passes of a region of the scrub (R428). -/
def scrubPasses (id : Nat) : Nat := if id ≤ 2 then 3 else if id ≤ 11 then 2 else if id ≤ 13 then 1 else 0

/-- The bytes of a region of the scrub that R1 fixes (R428): the DRAM of a half, and of 256 cores the scratchpads, the accumulators,
the spill stores and the instruction memories; the coherent window. -/
def regionBytes (id : Nat) : Option Nat :=
  match id with
  | 1 => some (192 * 2 ^ 30)
  | 2 => some (192 * 2 ^ 30)
  | 3 => some (256 * 3 * 2 ^ 20)
  | 4 => some (256 * 256 * 2 ^ 10)
  | 5 => some (256 * 48 * 2 ^ 10)
  | 6 => some (256 * 64 * 2 ^ 10)
  | 8 => some (2 ^ 20)
  | _ => none

/-- The entries of the scrub record (R430); the sizes that R1 does not fix are free. -/
def State.regionEntries (fs : List (BitVec 32)) : List Nat → State → State × List Byte
  | [], s => (s, [])
  | id :: ids, s =>
    let d := s.draw
    let n := (regionBytes id).getD d.1.toNat
    let e := [BitVec.ofNat 8 id, 0] ++ leBytes 2 (scrubPasses id) ++ leBytes 4 (fs.getD (id - 1) 0).toNat ++ leBytes 8 n
    let r := State.regionEntries fs ids d.2
    (r.1, e ++ r.2)

/-- The mask of retired cores (R430). -/
def State.retiredMask (s : State) : Nat := s.integ.retired.foldl (fun m e => if e.2 then m + 2 ^ e.1 else m) 0

/-- The signature over the first bytes of a record (R430). -/
def signatureOf (d : List Byte) : List Byte := (List.range 96).map (fun i => Config.sign d i)

/-- Whether the scrub fails (R428): a failure outside the DRAM that spares do not absorb. -/
def scrubFails (r : ScrubResult) : Bool := !r.absorbed && (r.failures.drop 2).any (fun f => f != 0)

/-- RESULT of the scrub record, from the state that the scrub leaves (R430). -/
def State.scrubOutcome (s : State) (r : ScrubResult) : Nat :=
  if scrubFails r then 2
  else if r.failures.any (fun f => f != 0) || !s.integ.retired.isEmpty || !s.mem.rows.isEmpty || !s.mem.retired.isEmpty then 1
  else 0

/-- The scrub record (R430). -/
def State.formRecord (s : State) (r : ScrubResult) (old : State) : State × List Byte :=
  let q := State.regionEntries r.failures ((List.range 13).map (fun i => i + 1)) s
  let d := q.1.draw
  let b := leBytes 4 0x53435242 ++ leBytes 2 1 ++ [old.plinth.trig.setWidth 8, BitVec.ofNat 8 (s.scrubOutcome r)]
    ++ leBytes 8 old.plinth.seq ++ leBytes 8 Config.serial.toNat ++ leBytes 8 old.plinth.latchedTime.toNat
    ++ leBytes 8 old.plinth.tStart.toNat ++ leBytes 8 (old.plinth.tStart.toNat + d.1.toNat % 250001)
    ++ leBytes 32 old.plinth.latchedNonce.toNat ++ s.measBytes 0 ++ leBytes 32 old.retiredMask ++ q.2 ++ List.replicate 48 0
  (d.2, b ++ signatureOf b)

/-- The state that the scrub leaves (R428): every register at its Reset value, but the row-remap table, the retired frames, the
retired cores and what the Plinth keeps. -/
def State.scrubbed (s : State) : State :=
  let t := s.outside
  { t with
    mem := { t.mem with rows := s.mem.rows, retired := s.mem.retired }
    integ := { retired := s.integ.retired }
    plinth := { t.plinth with
      trig := s.plinth.trig
      nonce := s.plinth.nonce
      opTime := s.plinth.opTime
      seq := s.plinth.seq } }

/-- The DRAM words that fail verification are remapped or retired, whether spares are left being free (R415, R428). -/
def State.replaceWords (s : State) (ws : List (BitVec 51)) : State :=
  ws.foldl (fun (s : State) a =>
    let d := s.draw
    { d.2 with mem := d.2.mem.replaceRow (d.1.getLsbD 0) a.toNat }) s

/-- SCRUB_COMPLETE (R427, R428): the record is formed and signed, MEAS0 is extended again and MEAS3 with the record; CLEAN, or
FAILED. -/
def execScrubComplete (res : ScrubResult) (s : State) : Out :=
  if !s.gateRuns then .next s
  else
    let r := (s.scrubbed.measureSelf.replaceWords res.words).formRecord res s
    let t := r.1.extendMeas 3 (sha384 r.2)
    .next { t with plinth := { t.plinth with
      gate := if scrubFails res then .failed else .clean
      ready := if scrubFails res then 0x9#64 else 0x709#64
      record := r.2 } }

/-- The bytes of the staging area from an offset on (R429). -/
def State.staged (s : State) (a n : Nat) : List Byte := Sparse.getList 0 s.plinth.staging a n

/-- The LDERR code of an image's header and body length, 0 where its format is good (R429, R430). -/
def imageError (h : List Byte) : Nat :=
  let n := field h 4 4
  if field h 0 4 ≠ 0x4C4D5842 then 1
  else if n < 4 ∨ 4128768 < n ∨ n % 4 ≠ 0 ∨ n < field h 8 4 + field h 12 4 then 2
  else if field h 16 4 ≠ (crc32c (h.take 16)).toNat then 3
  else if (h.drop 20).any (fun b => b != 0) then 4
  else 0

/-- Measure an image (R424): the whole into MEAS1, its dispatcher section into MEAS2. -/
def State.measureImage (s : State) (im : List Byte) : State :=
  let body := im.drop 64
  let d := (body.drop (field im 8 4)).take (field im 12 4)
  (s.extendMeas 1 (sha384 im)).extendMeas 2 (sha384 d)

/-- LDCTL.GO (R429, R430): in CLEAN the bit is set, and the staged image is checked; one of bad format leaves CLEAN, one that passes is
measured, and LOADING copies it. -/
def State.load (s : State) : State :=
  if s.plinth.gate ≠ .clean ∨ !s.power.on then s
  else
    let s : State := { s with plinth := { s.plinth with go := true } }
    let h := s.staged 0 64
    let e := imageError h
    if e ≠ 0 then { s with plinth := { s.plinth with ldErr := BitVec.ofNat 4 e } }
    else
      let im := s.staged 0 (64 + field h 4 4)
      let s := s.measureImage im
      { s with
        bench := { s.bench with image := im.drop 64 }
        plinth := { s.plinth with gate := .loading, ldErr := 0 } }

/-- LOADING ends (R429): the image lies in both SRAMs and both Benches start, A active. -/
def State.loaded (s : State) : State :=
  let s := (s.startBench false s.bench.image).startBench true s.bench.image
  { s with
    bench := { s.bench with activeB := false, reloading := false }
    plinth := { s.plinth with gate := .running, ready := s.plinth.ready ||| 0xFF9#64 } }

/-- LOADING may have ended: freely (R427). -/
def State.loadMaybe (s : State) : State :=
  if s.plinth.gate ≠ .loading then s
  else
    let d := s.draw
    if d.1.getLsbD 0 then d.2.loaded else d.2

/-- LDCTL_GO (R429). -/
def execLdctlGo (s : State) : Out := .next s.load

/-- Why a Bench is taken over, or why a live update has failed (R421, R422, R424). -/
def causeDoubleTrap : Nat := 1
/-- 1 ms without the heartbeat. -/
def causeHeartbeat : Nat := 2
/-- An uncorrectable error in the Bench's SRAM. -/
def causeBenchSram : Nat := 3
/-- A live update whose image does not support the table's version. -/
def causeUpdateFailed : Nat := 4

/-- MEAS4 takes a takeover event (R424): the digest of a 48-byte block that holds its cause code and CYCLE of core 0. -/
def State.noteTakeover (s : State) (cause : Nat) : State :=
  s.extendMeas 4 (sha384 ((List.range 48).map (fun i => Config.takeoverBlock cause (word s.clock) i)))

/-- The active Bench becomes the other one. -/
def State.switchBench (s : State) : State := { s with bench := { s.bench with activeB := !s.bench.activeB } }

/-- LIVE_LOAD (R422): the image is checked and measured, and the standby started with it takes over; where it does not support
the table's version it is held in reset again and the update has failed. The old active Bench is reloaded with the new image. -/
def execLiveLoad (image : List Byte) (versionOk : Bool) (s : State) : Out :=
  if s.plinth.gate ≠ .running ∨ imageError (image.take 64) ≠ 0 ∨ image.length ≠ 64 + field image 4 4 then .next s
  else
    let s := s.measureImage image
    if versionOk then
      let s := ((s.loadStandby (image.drop 64)).switchBench).loadStandby (image.drop 64)
      .next { s with bench := { s.bench with image := image.drop 64, reloading := false } }
    else .next (((s.loadStandby (image.drop 64)).setStandby false).noteTakeover causeUpdateFailed)

/-- EXTEND (R425): MEAS5 to MEAS15. -/
def execExtend (n : BitVec 4) (digest : BitVec 384) (s : State) : Out :=
  .next (if n.toNat < 5 ∨ s.plinth.gate ≠ .running then s else s.extendMeas n.toNat (beBytes 48 digest.toNat))

/-- Both Benches are unusable (R421): BENCHLESS. -/
def State.goBenchless (s : State) : State :=
  { s with
    bench := { s.bench with runA := false, runB := false, reloading := false }
    disp := { s.disp with halted := true }
    plinth := { s.plinth with gate := .benchless, ready := s.plinth.ready &&& ~~~0xF0#64 } }

/-- Every fault record and every request record that has had no answer is offered again (R421). -/
def State.offerAgain (s : State) : State :=
  let s : State := { s with bench := { s.bench with
    faults := s.bench.faults.map (fun (f : FaultRec) => if f.reply.isNone then { f with offers := f.offers + 1 } else f) } }
  (s.bench.revocs.map (fun r => r.ix) ++ s.bench.requests.map (fun r => r.2.ix.toNat)).foldl (fun (s : State) i => s.tell (.requestAgain i)) s

/-- The standby takes over from its mirror (R421): the old Bench is held in reset and reloaded, what has no answer is offered
again. -/
def State.takeover (s : State) (cause : Nat) : State :=
  if s.plinth.gate ≠ .running then s
  else
    let s := s.reloadMaybe
    if !s.standbyRuns then s.goBenchless
    else
      let s := (s.switchBench.setStandby false).noteTakeover cause
      State.offerAgain { s with bench := { s.bench with reloading := true, table := s.bench.mirror } }

/-- After a double trap on a core of the active Bench the standby takes over (R212, R421). -/
def State.benchFail (s : State) : State :=
  if s.bench.lost then { s with bench := { s.bench with lost := false } }.takeover causeDoubleTrap else s

/-- BENCH_HEARTBEAT_TIMEOUT (R421). -/
def execBenchHeartbeatTimeout (s : State) : Out := .next (s.takeover causeHeartbeat)

/-- BENCH_SRAM_UNCORRECTABLE (R421). -/
def execBenchSramUncorrectable (s : State) : Out := .next (s.takeover causeBenchSram)

end Sys2Proof.Machine
end

