-- ==== Sys2Proof/Machine/Spdm.lean ====
section
/-! DEFINITION. The SPDM 1.3 responder of the Plinth (R426, R433). The layouts of SPDM messages are the standard's (log entry
30). -/

namespace Sys2Proof.Machine

open Sys2Proof

/-- The version byte of SPDM 1.3. -/
def spdm13 : Byte := 0x13

/-- An SPDM ERROR response (R426). -/
def spdmError (code data : Byte) : List Byte := [spdm13, 0x7F, code, data]

/-- ERROR InvalidRequest. -/
def spdmInvalid : List Byte := spdmError 0x01 0
/-- ERROR Busy. -/
def spdmBusy : List Byte := spdmError 0x03 0
/-- ERROR UnexpectedRequest. -/
def spdmUnexpected : List Byte := spdmError 0x04 0
/-- ERROR VersionMismatch. -/
def spdmMismatch : List Byte := spdmError 0x41 0

/-- The bytes of a request. -/
def requestBytes (q : SpdmReq) : List Byte := [q.version, q.code, q.param1, q.param2] ++ q.payload

/-- The connection of a transport (R426). -/
def State.conn (s : State) (tr : Bool) : SpdmConn := if tr then s.plinth.spdm1 else s.plinth.spdm0

/-- Replace the connection of a transport. -/
def State.setConn (s : State) (tr : Bool) (c : SpdmConn) : State :=
  { s with plinth := { s.plinth with
      spdm0 := if tr then s.plinth.spdm0 else c
      spdm1 := if tr then c else s.plinth.spdm1 } }

/-- A response on a transport. -/
def State.respond (s : State) (tr : Bool) (d : List Byte) : State :=
  { s with plinth := { s.plinth with responses := s.plinth.responses ++ [(tr, d)] } }

/-- A request is answered (R426): its response and the state its connection comes to; an error leaves the connection as it
was. -/
def State.spdmAnswer (s : State) (tr : Bool) (q : SpdmReq) (st : SpdmSt) (d : List Byte) : State :=
  let c := s.conn tr
  (s.setConn tr { st := st, log := c.log ++ requestBytes q ++ d }).respond tr d

/-- The responder at a request (R426, R427, R433): ERROR Busy while a gate runs, silence while READY.SPDM is 0,
VersionMismatch for another version, UnexpectedRequest out of order. -/
def State.spdm (s : State) (tr : Bool) (q : SpdmReq) (version : Byte) (order : SpdmSt → Bool) (f : State → State) : State :=
  if !s.power.on then s
  else if s.gateRuns then s.respond tr spdmBusy
  else if !s.plinth.ready.getLsbD 3 then s
  else if q.version ≠ version then s.respond tr spdmMismatch
  else if !order (s.conn tr).st then s.respond tr spdmUnexpected
  else f s

/-- GET_VERSION (R426): 1.3 alone; the connection begins anew. -/
def execGetVersion (tr : Bool) (rq : SpdmReq) (s : State) : Out :=
  .next (s.spdm tr rq 0x10 (fun _ => true) (fun s =>
    (s.setConn tr {}).spdmAnswer tr rq .version [0x10, 0x04, 0, 0, 0, 1, 0x00, 0x13]))

/-- GET_CAPABILITIES (R426): CERT_CAP, CHAL_CAP, MEAS_CAP with signature; the timing exponent and the sizes are free. -/
def execGetCapabilities (tr : Bool) (rq : SpdmReq) (s : State) : Out :=
  .next (s.spdm tr rq spdm13 (fun c => c == .version) (fun s =>
    let d := s.draw
    let d2 := d.2.draw
    d2.2.spdmAnswer tr rq .capabilities ([spdm13, 0x61, 0, 0, 0, d.1.setWidth 8, 0, 0] ++ leBytes 4 0x16 ++ leBytes 8 d2.1.toNat)))

/-- NEGOTIATE_ALGORITHMS (R426): ECDSA on P-384, SHA-384 and the DMTF measurement specification, as far as they are offered;
InvalidRequest where none is. -/
def execNegotiateAlgorithms (tr : Bool) (rq : SpdmReq) (s : State) : Out :=
  .next (s.spdm tr rq spdm13 (fun c => c == .capabilities) (fun s =>
    let spec := (field rq.payload 2 1).testBit 0
    let asym := (field rq.payload 4 4).testBit 7
    let hash := (field rq.payload 8 4).testBit 1
    if !spec && !asym && !hash then s.respond tr spdmInvalid
    else
      let d := [spdm13, 0x63, 0, 0] ++ leBytes 2 36 ++ [BitVec.ofNat 8 spec.toNat, 0] ++ leBytes 4 (4 * spec.toNat)
        ++ leBytes 4 (128 * asym.toNat) ++ leBytes 4 (2 * hash.toNat) ++ List.replicate 16 0
      s.spdmAnswer tr rq .negotiated d))

/-- GET_DIGESTS (R426): of the chain in slot 0. -/
def execGetDigests (tr : Bool) (rq : SpdmReq) (s : State) : Out :=
  .next (s.spdm tr rq spdm13 (fun c => c == .negotiated) (fun s =>
    s.spdmAnswer tr rq .negotiated ([spdm13, 0x01, 1, 1] ++ sha384 Config.certChain)))

/-- GET_CERTIFICATE (R426): a portion of the slot-0 chain; InvalidRequest for another slot or an offset beyond the chain. -/
def execGetCertificate (tr : Bool) (rq : SpdmReq) (s : State) : Out :=
  .next (s.spdm tr rq spdm13 (fun c => c == .negotiated) (fun s =>
    let off := field rq.payload 0 2
    let n := min (field rq.payload 2 2) (Config.certChain.length - off)
    if rq.param1.toNat % 16 ≠ 0 ∨ Config.certChain.length ≤ off then s.respond tr spdmInvalid
    else
      s.spdmAnswer tr rq .negotiated ([spdm13, 0x02, 0, 0] ++ leBytes 2 n ++ leBytes 2 (Config.certChain.length - off - n)
        ++ (Config.certChain.drop off).take n)))

/-- A DMTF digest block of a measurement register (R426); the byte of its value type is free. -/
def State.measBlock (s : State) (i : Nat) (ty : Byte) : List Byte :=
  [BitVec.ofNat 8 i, 1] ++ leBytes 2 51 ++ [ty] ++ leBytes 2 48 ++ s.measBytes (i - 1)

/-- The digest blocks of some indices. -/
def State.measBlocks : List Nat → State → State × List Byte
  | [], s => (s, [])
  | i :: is, s =>
    let d := s.draw
    let r := State.measBlocks is d.2
    (r.1, s.measBlock i (d.1.setWidth 8) ++ r.2)

/-- A signed response: the key signs the messages of the connection with the response (R426). -/
def State.signed (s : State) (tr : Bool) (q : SpdmReq) (d : List Byte) : List Byte :=
  d ++ signatureOf ((s.conn tr).log ++ requestBytes q ++ d)

/-- CHALLENGE (R426): CHALLENGE_AUTH with the digest of the chain, a nonce, the summary of the measurements where it is asked for,
and the signature. -/
def execChallenge (tr : Bool) (rq : SpdmReq) (s : State) : Out :=
  .next (s.spdm tr rq spdm13 (fun c => c == .negotiated) (fun s =>
    if rq.param1.toNat % 16 ≠ 0 ∨ (rq.param2 ≠ 0 ∧ rq.param2 ≠ 1 ∧ rq.param2 ≠ 0xFF) then s.respond tr spdmInvalid
    else
      let n := s.freeBytes 32
      let b := State.measBlocks ((List.range 16).map (fun i => i + 1)) n.1
      let sum := if rq.param2 = 0 then [] else sha384 b.2
      let d := [spdm13, 0x03, 0, 1] ++ sha384 Config.certChain ++ n.2 ++ sum ++ leBytes 2 0 ++ (rq.payload.drop 32).take 8
      b.1.spdmAnswer tr rq .negotiated (b.1.signed tr rq d)))

/-- GET_MEASUREMENTS (R426): index 0 the count, 1 to 16 one register, 0xFF all; InvalidRequest for another index or slot. -/
def execGetMeasurements (tr : Bool) (rq : SpdmReq) (s : State) : Out :=
  .next (s.spdm tr rq spdm13 (fun c => c == .negotiated) (fun s =>
    let i := rq.param2.toNat
    let sig := rq.param1.getLsbD 0
    if (16 < i ∧ i ≠ 0xFF) ∨ (sig = true ∧ field rq.payload 32 1 % 16 ≠ 0) then s.respond tr spdmInvalid
    else
      let is := if i = 0 then [] else if i = 0xFF then (List.range 16).map (fun i => i + 1) else [i]
      let b := State.measBlocks is s
      let n := b.1.freeBytes 32
      let d := [spdm13, 0x60, if i = 0 then 16 else 0, 0, BitVec.ofNat 8 is.length] ++ leBytes 3 b.2.length ++ b.2 ++ n.2
        ++ leBytes 2 0 ++ (rq.payload.drop (if sig then 33 else 0)).take 8
      n.1.spdmAnswer tr rq .negotiated (if sig then n.1.signed tr rq d else d)))

/-- SPDM_UNSUPPORTED_REQUEST (R426). -/
def execSpdmUnsupportedRequest (tr : Bool) (rq : SpdmReq) (s : State) : Out :=
  .next (s.spdm tr rq spdm13 (fun _ => true) (fun s => s.respond tr (spdmError 0x07 rq.code)))

end Sys2Proof.Machine
end

