-- ==== Sys2Proof/Machine/HostAccess.lean ====
section
/-! DEFINITION. What the host and the active Bench write and read from outside: BAR0 registers, BAR2, the coherent window,
key slots (R6, R311-R315, R323, R399, R420, R430, R433). -/

namespace Sys2Proof.Machine

open Sys2Proof

/-- What a host read returned: its bytes and whether poison was indicated (R397). -/
def State.hostRead (s : State) (d : List PByte) : State :=
  { s with link := { s.link with reads := s.link.reads ++ [(plain d, anyPois d)] } }

/-- A write of a register of a queue slot (R313, R315, R321); the addresses and the configuration stay while it is mapped. -/
def State.writeSlotReg (s : State) (q : SlotId) (r : Nat) (v : Word) : State :=
  let t := s.slot q
  match r with
  | 0x00 => if t.mapped then s else s.setSlotQ q { t with qbase := v &&& 0x00FFFFFFFFFFFFC0#64 }
  | 0x08 => if t.mapped then s else s.setSlotQ q { t with qconf := v &&& 0x07FF1C1F#64 }
  | 0x10 => if t.mapped then s else s.setSlotQ q { t with qdbva := v }
  | 0x18 => if t.mapped then s else s.setSlotQ q { t with qheadva := v }
  | 0x20 => s.tailWrite q v.toNat
  | 0x30 => (s.cancelPacket q v.toNat).proceed
  | 0x38 =>
    let s := if v.getLsbD 1 then s.clearOvr q else s
    let s := if v.getLsbD 2 then s.clearMal q else s
    if v.getLsbD 4 then s.clearXlf q else s
  | _ => s

/-- A write of a register of a host ring (R323). -/
def State.writeRingReg (s : State) (n r : Nat) (v : Word) : State :=
  let x := s.hostRing n
  match r with
  | 0x00 => s.setHostRing n { x with hrbase := v &&& 0x00FFFFFFFFFFFFE0#64 }
  | 0x08 => s.setHostRing n { x with hrconf := v &&& 0xFFFFFFFF001FFC1F#64 }
  | 0x10 => s.setHostRing n { x with hrheadva := v }
  | 0x18 => s.setHostRing n { x with hrseasva := v }
  | _ => s

/-- A write of eight bytes of BAR0 (R6, R313, R323, R429, R430): outside the Plinth window it is dropped while a gate runs
(R427). -/
def State.writeBar0 (s : State) (a : Nat) (v : Word) : State :=
  if !s.power.on then s
  else if a = 0xF00008 then (if v.getLsbD 0 then s.load else s)
  else if s.gateRuns then s
  else if 0x10000 ≤ a ∧ a < 0x12000 ∧ a % 8 = 0 then
    s.writeSlotReg (BitVec.ofNat 7 ((a - 0x10000) / 64)) (a % 64) v
  else if 0x30000 ≤ a ∧ a < 0x34000 ∧ a % 8 = 0 then s.writeRingReg ((a - 0x30000) / 64) (a % 64) v
  else if 0x800000 ≤ a ∧ a < 0xC00000 then
    let m := Sparse.putList 0 s.plinth.staging (a - 0x800000) ((leBytes 8 v.toNat).take (0xC00000 - a))
    { s with plinth := { s.plinth with staging := m } }
  else s

/-- A register of a queue slot as the host reads it (R313): QCAN reads as zero, and so do reserved bits (R7). -/
def State.readSlotReg (s : State) (q : SlotId) (r : Nat) : Word :=
  let t := s.slot q
  match r with
  | 0x00 => t.qbase
  | 0x08 => t.qconf
  | 0x10 => t.qdbva
  | 0x18 => t.qheadva
  | 0x20 => t.tail
  | 0x28 => t.head
  | 0x38 => word (t.mapped.toNat + t.ovr.toNat * 2 + t.mal.toNat * 4 + t.isHalted.toNat * 8 + t.xlf.toNat * 16 + t.gang.toNat * 256)
  | _ => 0

/-- A register of a host ring as the host reads it (R323). -/
def State.readRingReg (s : State) (n r : Nat) : Word :=
  let x := s.hostRing n
  match r with
  | 0x00 => x.hrbase
  | 0x08 => x.hrconf
  | 0x10 => x.hrheadva
  | 0x18 => x.hrseasva
  | 0x20 => x.hrtail
  | _ => 0

/-- The integrity registers (R406). -/
def State.readIntegReg (s : State) (r : Nat) : Word :=
  match r with
  | 0x00 => word s.integ.c
  | 0x08 => word (s.integ.rotCore.toNat + s.integ.rotActive.toNat * 256)
  | 0x10 => word (s.retiredMask % 2 ^ 64)
  | 0x18 => word (s.retiredMask / 2 ^ 64 % 2 ^ 64)
  | 0x20 => word (s.retiredMask / 2 ^ 128 % 2 ^ 64)
  | 0x28 => word (s.retiredMask / 2 ^ 192 % 2 ^ 64)
  | 0x30 => word s.journalUse
  | _ => 0

/-- The power registers (R434). -/
def State.readPowerReg (s : State) (r : Nat) : Word :=
  match r with
  | 0x00 => word (s.power.ceilA.toNat + s.power.ceilB.toNat * 256)
  | 0x08 => s.power.temp
  | 0x10 => s.power.watts.setWidth 64
  | _ => 0

/-- The Plinth window (R430, R432). -/
def State.readPlinth (s : State) (r : Nat) : Word :=
  if r = 0x00 then s.lgstat
  else if r = 0x08 then word s.plinth.go.toNat
  else if r = 0x10 then s.plinth.ready
  else if 0x100 ≤ r ∧ r < 0x300 then word (leNat ((s.recordBytes.drop (r - 0x100)).take 8))
  else 0

/-- Eight bytes of BAR0 as the host reads them (R6, R7, R311): all ones outside the Plinth window while a gate runs (R427). -/
def State.readBar0 (s : State) (a : Nat) : Word :=
  if 0xF00000 ≤ a then s.readPlinth (a - 0xF00000)
  else if s.gateRuns then BitVec.allOnes 64
  else if 0x10000 ≤ a ∧ a < 0x12000 then s.readSlotReg (BitVec.ofNat 7 ((a - 0x10000) / 64)) (a % 64)
  else if 0x30000 ≤ a ∧ a < 0x34000 then s.readRingReg ((a - 0x30000) / 64) (a % 64)
  else if 0x40000 ≤ a ∧ a < 0x40038 then s.readIntegReg (a - 0x40000)
  else if 0x100 ≤ a ∧ a < 0x118 then s.readPowerReg (a - 0x100)
  else if 0x800000 ≤ a ∧ a < 0xC00000 then word (leNat (s.staged (a - 0x800000) 8))
  else 0

/-- PWR.WATTS and the two logic fields of TEMP are measurements: what they read when the host reads them is free (R434, log
entry 97). -/
def State.measured (s : State) : State :=
  let w := s.draw
  let l := w.2.draw
  { l.2 with power := { l.2.power with
    watts := w.1.setWidth 16
    temp := (l.2.power.temp &&& 0xFFFFFFFF00000000#64) ||| (l.1.setWidth 32).setWidth 64 } }

/-- The host reads eight bytes of BAR0 (R6, R311). -/
def State.readRegister (s : State) (a : Nat) : State :=
  if !s.power.on then s
  else
    let s := if a = 0x108 ∨ a = 0x110 then s.measured else if a = 0xF00000 then s.scrubMaybe.reloadMaybe else s
    s.hostRead (clean (leBytes 8 (s.readBar0 a).toNat))

/-- REGISTER_WRITE (R6). -/
def execRegisterWrite (off : BitVec 24) (val : BitVec 64) (s : State) : Out := .next (s.writeBar0 off.toNat val)

/-- Bytes all ones. -/
def onesBytes (n : Nat) : List PByte := List.replicate n (0xFF, false)

/-- Whether the DRAM that holds an address is in service (R432, R433). -/
def State.dramReady (s : State) (a : Nat) : Bool := s.plinth.ready.getLsbD (if a < 192 * 2 ^ 30 then 8 else 9)

/-- The parts of a host access to device memory: those in half A, in half B, and those beyond the partition, each with its
physical address and length (R311). -/
def barParts (base size off n : Nat) : List (Nat × Nat) × Nat :=
  let n' := min n (size - off)
  let a := base + off
  let k := min n' (192 * 2 ^ 30 - a)
  ((if k = 0 then [] else [(a, k)]) ++ (if n' - k = 0 then [] else [(a + k, n' - k)]), n - n')

/-- Whether bytes of device memory lie in the journal (R410). -/
def State.inJournal (s : State) (a n : Nat) : Bool :=
  match s.integ.jrnArea with
  | some (b, _) => decide (a < b + 2 ^ 33) && decide (b < a + n)
  | none => false

/-- Device memory as the host reads it by physical address (R311): where it holds the journal, whose layout is open, the bytes are free
(R410, log entry 20). -/
def State.barGet (s : State) (a n : Nat) (key : Option (BitVec 13)) : State × List PByte :=
  if s.inJournal a n then
    let r := s.freeBytes n
    (r.1, clean r.2)
  else s.physGet a n key

/-- HOST_BAR2_ACCESS (R311, R399, R433): device memory of a partition by physical address, through its default key slot; beyond the partition reads are zero
and writes dropped, and where the DRAM is not ready, or a gate runs, reads are all ones and writes dropped. -/
def execHostBar2Access (part : BitVec 3) (off : BitVec 64) (acc : HostAccess) (s : State) : Out :=
  let size := 384 / max 1 s.disp.parts * 2 ^ 30
  let base := part.toNat * size
  let dead := s.gateRuns || !s.power.on || decide (s.disp.parts ≤ part.toNat)
  let key := some (Sparse.get 0 s.disp.barKeys part.toNat)
  match acc with
  | .read n =>
    if dead then .next (s.hostRead (onesBytes n))
    else
      let ps := barParts base size off.toNat n
      let r := ps.1.foldl (fun (x : State × List PByte) p =>
        if x.1.dramReady p.1 then
          let y := x.1.barGet p.1 p.2 key
          (y.1, x.2 ++ y.2)
        else (x.1, x.2 ++ onesBytes p.2)) (s, [])
      .next (r.1.hostRead (r.2 ++ List.replicate ps.2 (0, false)))
  | .write d poison =>
    if dead then .next s
    else
      let ps := barParts base size off.toNat d.length
      .next (ps.1.foldl (fun (s : State) p =>
        if s.dramReady p.1 then s.physPut p.1 (((d.drop (p.1 - (base + off.toNat))).take p.2).map (fun b => (b, poison))) key else s)
        s)

/-- CXL_MEM_ACCESS (R255, R312, R399, R433): the partition's slice of the coherent window; while READY.WIN is 0 reads are poisoned,
and whether a write is performed is free. A host write is recorded in the journal (R410). -/
def execCxlMemAccess (part : BitVec 3) (off : BitVec 64) (acc : HostAccess) (s : State) : Out :=
  let size := 2 ^ 20 / max 1 s.disp.parts
  let a := windowBase + part.toNat * size + off.toNat
  let within (n : Nat) : Nat := if s.disp.parts ≤ part.toNat then 0 else min n (size - off.toNat)
  let shut := !s.plinth.ready.getLsbD 11 || !s.power.on
  match acc with
  | .read n =>
    if shut then
      let r := s.freeBytes (within n)
      .next (r.1.hostRead ((r.2 ++ List.replicate (n - within n) 0).map (fun b => (b, true))))
    else
      let r := s.physGet a (within n)
      .next (r.1.hostRead (r.2 ++ List.replicate (n - within n) (0, false)))
  | .write d poison =>
    let e := d.take (within d.length)
    let perform (s : State) : State := (s.physPut a (e.map (fun b => (b, poison)))).journal (.window a e)
    if s.gateRuns || !s.power.on || e.isEmpty then .next s
    else if shut then
      let v := s.draw
      .next (if v.1.getLsbD 0 then perform v.2 else v.2)
    else .next (perform s)

/-- The Bench assigns a partition its default key slot (R311). -/
def State.setBarKey (s : State) (part : BitVec 3) (slot : BitVec 13) : State :=
  { s with disp := { s.disp with barKeys := Sparse.put 0 s.disp.barKeys part.toNat slot } }

/-- The Bench reserves the journal's device memory (R410). -/
def State.setJournalArea (s : State) (base : BitVec 51) (key : BitVec 13) : State :=
  { s with integ := { s.integ with jrnArea := some (base.toNat, key) } }

/-- LOAD_KEY (R420). -/
def execLoadKey (slot : BitVec 13) (key : BitVec 512) (s : State) : Out :=
  .next { s with bench := { s.bench with keys := Sparse.put none s.bench.keys slot.toNat (some key) } }

end Sys2Proof.Machine
end

