-- ==== Sys2Proof/Machine/Rotation.lean ====
section
/-! DEFINITION. Rotation tests and seasoning (R402-R408), and errors in the device's own state (R401, R415-R418). -/

namespace Sys2Proof.Machine

open Sys2Proof

/-- The cores that the rotation passes over to come to core `k` in its turn (R402, R403). -/
def State.passedOver (s : State) (k : Nat) : List Nat :=
  (List.range ((k + 256 - s.integ.rotNext) % 256)).map (fun i => (s.integ.rotNext + i) % 256)

/-- Core `k` is the one that the rotation comes to: those before it are retired, have had their turn or hold a step (R402,
R403). -/
def State.inTurn (s : State) (k : Nat) : Bool :=
  (s.passedOver k).all (fun j => s.isRetired j || s.integ.early.contains j || (s.core j).step.isSome)

/-- The test of core `k` may start (R402, R403): no other test runs, it holds no step, and it is its turn, or it was passed over,
or it is tested ahead of its turn. -/
def State.mayTest (s : State) (k : Nat) : Bool :=
  !s.integ.rotActive && !s.isRetired k && (s.core k).step.isNone
    && (s.integ.ahead.contains k || s.integ.skipped.contains k || s.inTurn k)

/-- The rotation comes to core `k` in its turn (R402, R403): of the cores before it those that hold a step are returned to, and
those that have been tested ahead of their turn have had it. -/
def State.comeTo (s : State) (k : Nat) : State :=
  let ks := s.passedOver k
  let held := ks.filter (fun j => !s.isRetired j && !s.integ.early.contains j && !s.integ.skipped.contains j)
  { s with integ := { s.integ with
    rotNext := (k + 1) % 256
    skipped := s.integ.skipped ++ held
    early := s.integ.early.filter (fun j => !ks.contains j && j != k) } }

/-- ROTATION_TEST_START (R402, R403): the core's state is kept for the time of the test. A test ahead of the core's turn counts as
its turn, so that the rotation, when it comes to the core, passes it. -/
def execRotationTestStart (core : CoreId) (s : State) : Out :=
  let k := core.toNat
  if !s.mayTest k then .next s
  else
    let owed := s.integ.ahead.contains k || s.integ.skipped.contains k
    if s.inTurn k && s.integ.early.contains k && !owed then .next (s.comeTo k)
    else
      let s :=
        if s.inTurn k then s.comeTo k
        else if s.integ.skipped.contains k || s.integ.early.contains k then s
        else { s with integ := { s.integ with early := s.integ.early ++ [k] } }
      let s := s.onCore k (fun c => { c with testing := true })
      .next { s with integ := { s.integ with
        rotActive := true
        rotCore := core
        skipped := s.integ.skipped.filter (fun j => j != k)
        ahead := s.integ.ahead.filter (fun j => j != k) } }

/-- The dirty marks of every gang on a core end (R404). -/
def Integrity.clean (g : Integrity) (k : Nat) : Integrity :=
  { g with
    dirty := g.dirty.filter (fun e => e.1 % 256 != k)
    units := g.units.map (fun u => { u with ran := u.ran.filter (fun j => j != k) }) }

/-- The test of a core is over. -/
def State.endTest (s : State) (k : Nat) : State :=
  let s := s.onCore k (fun c => { c with testing := false })
  { s with integ := { s.integ with rotActive := false } }

/-- Core `k` is the one under test. -/
def State.underTest (s : State) (k : Nat) : Bool := s.integ.rotActive && s.integ.rotCore.toNat == k

/-- ROTATION_TEST_PASS (R404): SEASON and C go up, the core's dirty marks end, and what is seasoned by that is told. -/
def execRotationTestPass (core : CoreId) (s : State) : Out :=
  let k := core.toNat
  if !s.underTest k then .next s
  else
    let s := (s.endTest k).onCore k (fun c => { c with season := c.season + 1#32 })
    let g := s.integ.clean k
    .next ({ s with integ := { g with c := g.c + 1 } }).season

/-- Jigs that wait for a panel where no sound group of their size is left complete ERROR 0x0206 (R408). -/
def State.failPanels (s : State) : State :=
  let ws := s.walkers (fun j =>
    (decide (j.next < j.total) || !j.rerun.isEmpty) && !s.canRun (s.gang j.gang.toNat).part.toNat (recSize j.record) (recTwin j.record))
  ws.foldl (fun (s : State) w => (s.onJig w (fun j => { j with cause := some 0x206, reserved := [] })).tryEndJig w) s

/-- A group kept for a jig is given up where a core of it is retired (R278, R408). -/
def State.dropReserved (s : State) (k : Nat) : State :=
  (s.walkers (fun j => !j.reserved.isEmpty)).foldl (fun (s : State) w =>
    s.onJig w (fun j => { j with reserved := j.reserved.filter (fun b => !(decide (b ≤ k) && decide (k < b + recSize j.record))) })) s

/-- Core `k` is retired (R408): the failure is reported, and every unit that ran a step on it since its last passing test is
replayed with all that depend on it. -/
def State.retireCore (s : State) (k : Nat) : State :=
  let ids := (s.integ.units.filter (fun u => u.ran.contains k)).map (fun u => u.id)
  let s : State := { s with integ := { s.integ with retired := Sparse.put false s.integ.retired k true } }
  let s := (s.tell (.testFailed k)).dropReserved k
  let s : State := { s with integ := s.integ.clean k }
  (s.replay ids).failPanels

/-- ROTATION_TEST_FAIL (R408). -/
def execRotationTestFail (core : CoreId) (s : State) : Out :=
  let k := core.toNat
  if !s.underTest k then .next s else .next ((s.endTest k).retireCore k)

/-- ROTATION_DEADLINE (R403): the gang that holds the core is pre-empted, and the core is tested in the next free slot. -/
def execRotationDeadline (core : CoreId) (s : State) : Out :=
  let k := core.toNat
  match (s.core k).step with
  | none => .next s
  | some t =>
    let a := s.integ.ahead
    let s : State := { s with integ := { s.integ with ahead := if a.contains k then a else a ++ [k] } }
    .next (s.preempt t.gang)

/-- DRAM_UNCORRECTABLE (R399, R415): a sector of device memory is poisoned. -/
def execDramUncorrectable (addr : BitVec 51) (s : State) : Out :=
  if addr.toNat < 384 * 2 ^ 30 then .next { s with mem := { s.mem with dev := s.mem.dev.poisonSector (addr.toNat / 32) } }
  else .next s

/-- DRAM_ROW_REMAP (R415): the row is mapped to a spare; where its bank has none left, which is free, the Bench retires the frame
by migration. The contents are copied to the spare under check. -/
def execDramRowRemap (addr : BitVec 51) (s : State) : Out :=
  if 384 * 2 ^ 30 ≤ addr.toNat then .next s
  else
    let d := s.draw
    let spare := d.1.getLsbD 0
    let s : State := { d.2 with mem := d.2.mem.replaceRow spare addr.toNat }
    .next (if spare then s.verify .dev (addr.toNat / Config.rowBytes * Config.rowBytes) Config.rowBytes
      else s.tell (.retireFrames [addr.toNat / 65536]))

/-- How many sectors hold a poisoned byte, of a table with rising keys; the last sector counted is given. -/
def sectorCount : Option Nat → Sparse Bool → Nat
  | _, [] => 0
  | q, e :: m => if q == some (e.1 / 32) then sectorCount q m else sectorCount (some (e.1 / 32)) m + 1

/-- The poison record of a half (R401): the poisoned sectors of its device memory. -/
def State.poisonRecord (s : State) (half : Bool) : Sparse Bool :=
  s.mem.dev.pois.filter (fun e => decide (e.1 < 384 * 2 ^ 30) && halfOfUnit (e.1 / 65536) == half)

/-- A half's poison record, of up to 1,048,576 sectors, is three-quarters full (R401). -/
def State.recordFull (s : State) (half : Bool) : Bool := decide (786432 ≤ sectorCount none (s.poisonRecord half))

/-- The entries of the poison record in a frame. -/
def frameEntries (m : Sparse Bool) (f : Nat) : Nat := sectorCount none (m.filter (fun e => e.1 / 65536 == f))

/-- The frames that hold the most entries of the poison record of a half (R401). -/
def State.fullest (s : State) (half : Bool) : List Nat :=
  let m := s.poisonRecord half
  let fs := (m.map (fun e => e.1 / 65536)).eraseDups
  let most := fs.foldl (fun n f => max n (frameEntries m f)) 0
  fs.filter (fun f => frameEntries m f == most)

/-- The Bench retires frames (R401, R415): they are in the list of retired frames, and the Bench, which is told of them, migrates each
by a request (log entry 111). -/
def State.retireFrames (s : State) (fs : List Nat) : State :=
  let s : State := { s with mem := { s.mem with retired := fs.foldl (fun m f => Sparse.put false m f true) s.mem.retired } }
  s.tell (.retireFrames fs)

/-- POISON_RECORD_THRESHOLD (R401): where a half's record is three-quarters full, the frames that hold the most entries are
retired. -/
def execPoisonRecordThreshold (s : State) : Out :=
  .next ([false, true].foldl (fun (s : State) h => if s.recordFull h then s.retireFrames (s.fullest h) else s) s)

/-- An uncorrectable error in a core's control state (R416): the step ends and its jig is replayed, and the core is tested ahead
of its turn. -/
def State.controlError (s : State) (k : Nat) : State :=
  let a := s.integ.ahead
  let s : State := { s with integ := { s.integ with ahead := if a.contains k then a else a ++ [k] } }
  match (s.core k).step with
  | none => s.onCore k (fun c => { c with lastJig := none })
  | some t => s.replay [t.jigId]

/-- SRAM_UNCORRECTABLE (R416). -/
def execSramUncorrectable (core : CoreId) (site : SramSite) (s : State) : Out :=
  let k := core.toNat
  match site with
  | .scratchpad q =>
    .next (if q.toNat < 98304 then s.onCore k (fun c => { c with spad := c.spad.poisonSector q.toNat }) else s)
  | .vreg n q => .next (s.onCore k (fun c => c.setV n (c.vr n) (c.vpois n ||| (1#16 <<< q.toNat))))
  | .acc b i j =>
    .next (s.onCore k (fun c => c.onM (fun m =>
      let r := Sparse.get 0 m.rowMarks b.toNat ||| (1#128 <<< i.toNat)
      let l := Sparse.get 0 m.colMarks b.toNat ||| (1#128 <<< j.toNat)
      { m with
        rowMarks := Sparse.put 0 m.rowMarks b.toNat r
        colMarks := Sparse.put 0 m.colMarks b.toNat l })))
  | .control => .next (s.controlError k)

/-- DISPATCHER_MEM_ERROR (R417): the steps of the jigs that the half's dispatcher was enumerating are stopped and every one of
those jigs is replayed; HEAD, TAIL and the head words keep their values. -/
def execDispatcherMemError (half : Bool) (s : State) : Out :=
  let ids := s.disp.jigs.filterMap (fun e => match e.2 with
    | some j => if halfOfSlot j.slot = half then some j.id else none
    | none => none)
  .next (s.replay ids)

/-- A contained stop (R418): every queue halts and running steps stop; the three structures are rebuilt, which the model never loses
(log entry 111); device memory is tested again and what fails is poisoned; every unit not yet seasoned is replayed, and the queues
resume. -/
def State.containedStop (s : State) : State :=
  let h := s.disp.halted
  let s : State := { s with disp := { s.disp with halted := true } }
  let s := (s.walkers (fun _ => true)).foldl (fun (s : State) w => s.stopSteps w) s
  let s := s.verify .dev 0 (384 * 2 ^ 30)
  State.replay { s with disp := { s.disp with halted := h } } (s.integ.units.map (fun u => u.id))

/-- STRUCTURE_COMPARE (R418): with both copies lost, a contained stop. -/
def execStructureCompare (res : CompareResult) (s : State) : Out :=
  match res with
  | .good => .next s
  | .oneLost => .next s
  | .bothLost => .next s.containedStop

end Sys2Proof.Machine
end

