-- ==== Sys2Proof/Machine/Scalar.lean ====
section
/-! DEFINITION. Integer register operations, branches and jumps of the S-stream (R79-R86). -/

namespace Sys2Proof.Machine

open Sys2Proof

/-- Leading zero bits of the low `n` bits of a word, from the top (R81). -/
def clzFrom (x : Word) : Nat → Nat
  | 0 => 0
  | n + 1 => if x.getLsbD n then 0 else 1 + clzFrom x n

/-- One bits among the low `n` bits of a word (R81). -/
def popcFrom (x : Word) : Nat → Nat
  | 0 => 0
  | n + 1 => (if x.getLsbD n then 1 else 0) + popcFrom x n

/-- Quotient towards zero: all ones for a zero divisor, −2^63 for −2^63 by −1 (R82). -/
def divW (a b : Word) : Word := if b = 0#64 then BitVec.allOnes 64 else BitVec.ofInt 64 (a.toInt.tdiv b.toInt)

/-- Remainder with the sign of the dividend; the dividend for a zero divisor (R82). -/
def remW (a b : Word) : Word := if b = 0#64 then a else BitVec.ofInt 64 (a.toInt.tmod b.toInt)

/-- Unsigned quotient, all ones for a zero divisor (R82). -/
def divuW (a b : Word) : Word := if b = 0#64 then BitVec.allOnes 64 else BitVec.ofNat 64 (a.toNat / b.toNat)

/-- Unsigned remainder, the dividend for a zero divisor (R82). -/
def remuW (a b : Word) : Word := if b = 0#64 then a else BitVec.ofNat 64 (a.toNat % b.toNat)

/-- The six low bits of a shift count (R81). -/
def shAmt (b : Word) : Nat := b.toNat % 64

/-- Arithmetic shift right (R81). -/
def sraW (a : Word) (n : Nat) : Word := a.sshiftRight n

/-- Bits [127:64] of the signed product (R81). -/
def mulhW (a b : Word) : Word := BitVec.ofInt 64 (a.toInt * b.toInt / (2 ^ 64 : Nat))

/-- Bits [127:64] of the unsigned product (R81). -/
def mulhuW (a b : Word) : Word := BitVec.ofNat 64 (a.toNat * b.toNat / 2 ^ 64)

/-- Signed less-than (R81). -/
def sltW (a b : Word) : Bool := decide (a.toInt < b.toInt)

/-- Unsigned less-than (R81). -/
def sltuW (a b : Word) : Bool := decide (a.toNat < b.toNat)

/-- A taken branch goes to its target, another on to the next word (R85). -/
def State.branch (s : State) (c : Bool) (off : BitVec 11) : State :=
  s.setMe (if c then s.me.jumpTo (branchTo s.me.s.pc off) else s.me.advance)

/-- ADD (R81). -/
def execAdd (_st : SStall) (d a b : XReg) (s : State) : Out :=
  .next (s.retireX d ((s.me.xr a) + (s.me.xr b)))

/-- SUB (R81). -/
def execSub (_st : SStall) (d a b : XReg) (s : State) : Out :=
  .next (s.retireX d ((s.me.xr a) - (s.me.xr b)))

/-- AND (R81). -/
def execAnd (_st : SStall) (d a b : XReg) (s : State) : Out :=
  .next (s.retireX d ((s.me.xr a) &&& (s.me.xr b)))

/-- OR (R81). -/
def execOr (_st : SStall) (d a b : XReg) (s : State) : Out :=
  .next (s.retireX d ((s.me.xr a) ||| (s.me.xr b)))

/-- XOR (R81). -/
def execXor (_st : SStall) (d a b : XReg) (s : State) : Out :=
  .next (s.retireX d ((s.me.xr a) ^^^ (s.me.xr b)))

/-- SLL (R81). -/
def execSll (_st : SStall) (d a b : XReg) (s : State) : Out :=
  .next (s.retireX d ((s.me.xr a) <<< shAmt (s.me.xr b)))

/-- SRL (R81). -/
def execSrl (_st : SStall) (d a b : XReg) (s : State) : Out :=
  .next (s.retireX d ((s.me.xr a) >>> shAmt (s.me.xr b)))

/-- SRA (R81). -/
def execSra (_st : SStall) (d a b : XReg) (s : State) : Out :=
  .next (s.retireX d (sraW (s.me.xr a) (shAmt (s.me.xr b))))

/-- SLT (R81). -/
def execSlt (_st : SStall) (d a b : XReg) (s : State) : Out :=
  .next (s.retireX d (boolWord (sltW (s.me.xr a) (s.me.xr b))))

/-- SLTU (R81). -/
def execSltu (_st : SStall) (d a b : XReg) (s : State) : Out :=
  .next (s.retireX d (boolWord (sltuW (s.me.xr a) (s.me.xr b))))

/-- SEQ (R81). -/
def execSeq (_st : SStall) (d a b : XReg) (s : State) : Out :=
  .next (s.retireX d (boolWord ((s.me.xr a) == (s.me.xr b))))

/-- MIN (R81). -/
def execMin (_st : SStall) (d a b : XReg) (s : State) : Out :=
  .next (s.retireX d (if sltW (s.me.xr b) (s.me.xr a) then (s.me.xr b) else (s.me.xr a)))

/-- MAX (R81). -/
def execMax (_st : SStall) (d a b : XReg) (s : State) : Out :=
  .next (s.retireX d (if sltW (s.me.xr a) (s.me.xr b) then (s.me.xr b) else (s.me.xr a)))

/-- MINU (R81). -/
def execMinu (_st : SStall) (d a b : XReg) (s : State) : Out :=
  .next (s.retireX d (if sltuW (s.me.xr b) (s.me.xr a) then (s.me.xr b) else (s.me.xr a)))

/-- MAXU (R81). -/
def execMaxu (_st : SStall) (d a b : XReg) (s : State) : Out :=
  .next (s.retireX d (if sltuW (s.me.xr a) (s.me.xr b) then (s.me.xr b) else (s.me.xr a)))

/-- MUL (R81). -/
def execMul (_st : SStall) (d a b : XReg) (s : State) : Out :=
  .next (s.retireX d ((s.me.xr a) * (s.me.xr b)))

/-- MULH (R81). -/
def execMulh (_st : SStall) (d a b : XReg) (s : State) : Out :=
  .next (s.retireX d (mulhW (s.me.xr a) (s.me.xr b)))

/-- MULHU (R81). -/
def execMulhu (_st : SStall) (d a b : XReg) (s : State) : Out :=
  .next (s.retireX d (mulhuW (s.me.xr a) (s.me.xr b)))

/-- DIV (R82). -/
def execDiv (_st : SStall) (d a b : XReg) (s : State) : Out :=
  .next (s.retireX d (divW (s.me.xr a) (s.me.xr b)))

/-- DIVU (R82). -/
def execDivu (_st : SStall) (d a b : XReg) (s : State) : Out :=
  .next (s.retireX d (divuW (s.me.xr a) (s.me.xr b)))

/-- REM (R82). -/
def execRem (_st : SStall) (d a b : XReg) (s : State) : Out :=
  .next (s.retireX d (remW (s.me.xr a) (s.me.xr b)))

/-- REMU (R82). -/
def execRemu (_st : SStall) (d a b : XReg) (s : State) : Out :=
  .next (s.retireX d (remuW (s.me.xr a) (s.me.xr b)))

/-- CLZ (R81). -/
def execClz (_st : SStall) (d a : XReg) (s : State) : Out :=
  .next (s.retireX d (word (clzFrom (s.me.xr a) 64)))

/-- POPC (R81). -/
def execPopc (_st : SStall) (d a : XReg) (s : State) : Out :=
  .next (s.retireX d (word (popcFrom (s.me.xr a) 64)))

/-- ADDI (R83). -/
def execAddi (_st : SStall) (d a : XReg) (imm : BitVec 11) (s : State) : Out :=
  .next (s.retireX d (s.me.xr a + sextW imm))

/-- ANDI (R83). -/
def execAndi (_st : SStall) (d a : XReg) (imm : BitVec 11) (s : State) : Out :=
  .next (s.retireX d (s.me.xr a &&& sextW imm))

/-- ORI (R83). -/
def execOri (_st : SStall) (d a : XReg) (imm : BitVec 11) (s : State) : Out :=
  .next (s.retireX d (s.me.xr a ||| sextW imm))

/-- XORI (R83). -/
def execXori (_st : SStall) (d a : XReg) (imm : BitVec 11) (s : State) : Out :=
  .next (s.retireX d (s.me.xr a ^^^ sextW imm))

/-- SLTI (R83). -/
def execSlti (_st : SStall) (d a : XReg) (imm : BitVec 11) (s : State) : Out :=
  .next (s.retireX d (boolWord (sltW (s.me.xr a) (sextW imm))))

/-- SLLI (R83). -/
def execSlli (_st : SStall) (d a : XReg) (sh : BitVec 6) (s : State) : Out :=
  .next (s.retireX d (s.me.xr a <<< sh.toNat))

/-- SRLI (R83). -/
def execSrli (_st : SStall) (d a : XReg) (sh : BitVec 6) (s : State) : Out :=
  .next (s.retireX d (s.me.xr a >>> sh.toNat))

/-- SRAI (R83). -/
def execSrai (_st : SStall) (d a : XReg) (sh : BitVec 6) (s : State) : Out :=
  .next (s.retireX d (sraW (s.me.xr a) sh.toNat))

/-- LI (R84). -/
def execLi (_st : SStall) (d : XReg) (imm : BitVec 17) (s : State) : Out :=
  .next (s.retireX d (sextW imm))

/-- LIS (R84). -/
def execLis (_st : SStall) (d : XReg) (imm : BitVec 16) (s : State) : Out :=
  .next (s.retireX d ((s.me.xr d <<< 16) ||| imm.setWidth 64))

/-- BEQ (R85). -/
def execBeq (_st : SStall) (a b : XReg) (off : BitVec 11) (s : State) : Out :=
  .next (s.branch (s.me.xr a == s.me.xr b) off)

/-- BNE (R85). -/
def execBne (_st : SStall) (a b : XReg) (off : BitVec 11) (s : State) : Out :=
  .next (s.branch (s.me.xr a != s.me.xr b) off)

/-- BLT (R85). -/
def execBlt (_st : SStall) (a b : XReg) (off : BitVec 11) (s : State) : Out :=
  .next (s.branch (sltW (s.me.xr a) (s.me.xr b)) off)

/-- BGE (R85). -/
def execBge (_st : SStall) (a b : XReg) (off : BitVec 11) (s : State) : Out :=
  .next (s.branch (!sltW (s.me.xr a) (s.me.xr b)) off)

/-- BLTU (R85). -/
def execBltu (_st : SStall) (a b : XReg) (off : BitVec 11) (s : State) : Out :=
  .next (s.branch (sltuW (s.me.xr a) (s.me.xr b)) off)

/-- BGEU (R85). -/
def execBgeu (_st : SStall) (a b : XReg) (off : BitVec 11) (s : State) : Out :=
  .next (s.branch (!sltuW (s.me.xr a) (s.me.xr b)) off)

/-- JAL (R86). -/
def execJal (_st : SStall) (d : XReg) (off : BitVec 17) (s : State) : Out :=
  .next (s.setMe ((s.me.setX d (linkOf s.me.s.pc)).jumpTo (branchTo s.me.s.pc off)))

/-- JALR (R86). -/
def execJalr (_st : SStall) (d a : XReg) (imm : BitVec 11) (s : State) : Out :=
  .next (s.setMe ((s.me.setX d (linkOf s.me.s.pc)).jumpTo ((s.me.xr a + 4#64 * sextW imm).setWidth 16)))

end Sys2Proof.Machine
end

