-- ==== Sys2Proof/Machine/Flags.lean ====
section
/-! DEFINITION. The exception flags of scalar floating point (R25, R46, R87-R91). -/

namespace Sys2Proof.Machine

open Sys2Proof

/-- The conditions an instruction raises (R46). -/
structure FpFlags where
  nv : Bool := false
  dz : Bool := false
  of : Bool := false
  uf : Bool := false
  nx : Bool := false
  deriving DecidableEq, Repr

/-- The flags as bits of SST (R25). -/
def FpFlags.bits (f : FpFlags) : Word :=
  (if f.nv then sstNV else 0) ||| (if f.dz then sstDZ else 0) ||| (if f.of then sstOF else 0)
    ||| (if f.uf then sstUF else 0) ||| (if f.nx then sstNX else 0)

/-- The flags of a rounding: an overflow is inexact as well (R46). -/
def Rounded.flags (r : Rounded) : FpFlags := { of := r.overflow, uf := r.uf, nx := r.nx || r.overflow }

/-- Whether an encoding of a format that follows IEEE 754 is a signalling NaN (R32). -/
def Fmt.signalling (f : Fmt) (x : Nat) : Bool :=
  let e := x / 2 ^ f.mb % 2 ^ f.eb
  let m := x % 2 ^ f.mb
  e == 2 ^ f.eb - 1 && m != 0 && m / 2 ^ (f.mb - 1) == 0

/-- A result of the S-stream with its flags. -/
structure FpResult where
  value : Nat
  flags : FpFlags
  deriving DecidableEq, Repr

/-- An exact result rounded to a format with RNE (R87); NV where an operand is signalling, or the result is NaN without a
NaN operand (R88). -/
def fpResult (f : Fmt) (sig nanIn : Bool) (v : FVal) : FpResult :=
  let r := f.round .rne false v
  ⟨r.bits, { r.flags with nv := sig || (v.isNan && !nanIn) }⟩

/-- The current core's S-stream completes a floating-point instruction (R87). -/
def State.retireFp (s : State) (d : XReg) (r : FpResult) : State :=
  s.setMe (((s.me.setX d (word r.value)).orSst r.flags.bits).advance)

end Sys2Proof.Machine
end

