-- ==== Sys2Proof/Machine/ScalarFp.lean ====
section
/-! DEFINITION. Scalar floating point of the S-stream (R87-R91). -/

namespace Sys2Proof.Machine

open Sys2Proof

/-- The exact value of an FP32 operand. -/
def fv (x : Word) : FVal := Fmt.fp32.decode (f32 x)

/-- Whether an FP32 operand is a signalling NaN. -/
def fsig (x : Word) : Bool := Fmt.fp32.signalling (f32 x)

/-- A two-operand result in FP32 of an exact operation (R87, R88). -/
def fp2 (f : FVal → FVal → FVal) (x y : Word) : FpResult :=
  fpResult .fp32 (fsig x || fsig y) ((fv x).isNan || (fv y).isNan) (f (fv x) (fv y))

/-- FADD (R88). -/
def execFadd (_st : SStall) (d a b : XReg) (s : State) : Out :=
  .next (s.retireFp d (fp2 FVal.add (s.me.xr a) (s.me.xr b)))

/-- FSUB (R88). -/
def execFsub (_st : SStall) (d a b : XReg) (s : State) : Out :=
  .next (s.retireFp d (fp2 FVal.sub (s.me.xr a) (s.me.xr b)))

/-- FMUL (R88). -/
def execFmul (_st : SStall) (d a b : XReg) (s : State) : Out :=
  .next (s.retireFp d (fp2 FVal.mul (s.me.xr a) (s.me.xr b)))

/-- The exact quotient, precise enough to round (R43, R88). -/
def FVal.div : FVal → FVal → FVal
  | .nan, _ => .nan
  | _, .nan => .nan
  | .inf _, .inf _ => .nan
  | .inf s, .fin t _ _ => .inf (s != t)
  | .fin s _ _, .inf t => .fin (s != t) 0 0
  | .fin s m e, .fin t n f =>
    if n = 0 then (if m = 0 then .nan else .inf (s != t))
    else if m = 0 then .fin (s != t) 0 0
    else quotient (s != t) m e n f

/-- FDIV (R88): a finite non-zero value divided by zero raises DZ. -/
def fdivResult (x y : Word) : FpResult :=
  let r := fp2 FVal.div x y
  let dz := (fv x).isFin && !(fv x).isZero && (fv y).isZero
  ⟨r.value, { r.flags with dz := dz }⟩

/-- FDIV (R88). -/
def execFdiv (_st : SStall) (d a b : XReg) (s : State) : Out :=
  .next (s.retireFp d (fdivResult (s.me.xr a) (s.me.xr b)))

/-- FMIN and FMAX (R89): NV only for a signalling operand. -/
def fpick (f : FVal → FVal → FVal) (x y : Word) : FpResult :=
  ⟨Fmt.fp32.roundBits .rne false (f (fv x) (fv y)), { nv := fsig x || fsig y }⟩

/-- FMIN (R89). -/
def execFmin (_st : SStall) (d a b : XReg) (s : State) : Out :=
  .next (s.retireFp d (fpick FVal.minv (s.me.xr a) (s.me.xr b)))

/-- FMAX (R89). -/
def execFmax (_st : SStall) (d a b : XReg) (s : State) : Out :=
  .next (s.retireFp d (fpick FVal.maxv (s.me.xr a) (s.me.xr b)))

/-- The square root, precise enough to round (R43, R88). -/
def FVal.sqrt : FVal → FVal
  | .nan => .nan
  | .inf s => if s then .nan else .inf false
  | .fin s m e => if m = 0 then .fin s 0 0 else if s then .nan else sqrtVal m e

/-- FSQRT (R88). -/
def execFsqrt (_st : SStall) (d a : XReg) (s : State) : Out :=
  .next (s.retireFp d (fpResult .fp32 (fsig (s.me.xr a)) (fv (s.me.xr a)).isNan (fv (s.me.xr a)).sqrt))

/-- A comparison: 0 or 1 (R90). -/
def fcompare (quiet : Bool) (p : Ordering → Bool) (x y : Word) : FpResult :=
  let b := match (fv x).cmp (fv y) with
    | some o => p o
    | none => false
  ⟨b.toNat, { nv := fsig x || fsig y || (!quiet && ((fv x).isNan || (fv y).isNan)) }⟩

/-- FEQ (R90). -/
def execFeq (_st : SStall) (d a b : XReg) (s : State) : Out :=
  .next (s.retireFp d (fcompare true (fun o => o == .eq) (s.me.xr a) (s.me.xr b)))

/-- FLT (R90). -/
def execFlt (_st : SStall) (d a b : XReg) (s : State) : Out :=
  .next (s.retireFp d (fcompare false (fun o => o == .lt) (s.me.xr a) (s.me.xr b)))

/-- FLE (R90). -/
def execFle (_st : SStall) (d a b : XReg) (s : State) : Out :=
  .next (s.retireFp d (fcompare false (fun o => o != .gt) (s.me.xr a) (s.me.xr b)))

/-- FCVTSW (R88): FP32 from the SI32 in bits [31:0]. -/
def execFcvtsw (_st : SStall) (d a : XReg) (s : State) : Out :=
  .next (s.retireFp d (fpResult .fp32 false false (FVal.ofInt (sextNat 32 (f32 (s.me.xr a))))))

/-- FCVTWS (R45, R46, R88): SI32 from FP32, sign-extended (R87). -/
def fcvtws (x : Word) : FpResult :=
  let r := (fv x).toInt .rne (intRange true 32).1 (intRange true 32).2
  ⟨wrapInt 64 r.1, { nv := r.2.1 || fsig x, nx := r.2.2 }⟩

/-- FCVTWS (R88). -/
def execFcvtws (_st : SStall) (d a : XReg) (s : State) : Out :=
  .next (s.retireFp d (fcvtws (s.me.xr a)))

/-- FCVTBS (R88): BF16 from FP32. -/
def execFcvtbs (_st : SStall) (d a : XReg) (s : State) : Out :=
  .next (s.retireFp d (fpResult .bf16 (fsig (s.me.xr a)) (fv (s.me.xr a)).isNan (fv (s.me.xr a))))

/-- FCVTSB (R88): FP32 from BF16. -/
def fcvtsb (x : Word) : FpResult :=
  let v := Fmt.bf16.decode (bf16Of x)
  fpResult .fp32 (Fmt.bf16.signalling (bf16Of x)) v.isNan v

/-- FCVTSB (R88). -/
def execFcvtsb (_st : SStall) (d a : XReg) (s : State) : Out :=
  .next (s.retireFp d (fcvtsb (s.me.xr a)))

/-- A fused multiply-add (R91): `p` and `c` are the exact product and addend with their signs as the sum is written. NV for
a signalling operand, for 0 * Inf even when c is NaN, and for opposite infinities. -/
def fusedResult (x y z : Word) (negP negC : Bool) : FpResult :=
  let p := (fv x).mul (fv y)
  let p := if negP then p.neg else p
  let c := if negC then (fv z).neg else fv z
  let badP := p.isNan && !(fv x).isNan && !(fv y).isNan
  let nanIn := (fv x).isNan || (fv y).isNan || (fv z).isNan
  fpResult .fp32 (fsig x || fsig y || fsig z || badP) nanIn (p.add c)

/-- FMA (R91): a * b + c. -/
def execFma (_st : SStall) (d a b : XReg) (s : State) : Out :=
  .next (s.retireFp d (fusedResult (s.me.xr a) (s.me.xr b) (s.me.xr d) false false))

/-- FMS (R91): a * b - c. -/
def execFms (_st : SStall) (d a b : XReg) (s : State) : Out :=
  .next (s.retireFp d (fusedResult (s.me.xr a) (s.me.xr b) (s.me.xr d) false true))

/-- FNMA (R91): c - a * b. -/
def execFnma (_st : SStall) (d a b : XReg) (s : State) : Out :=
  .next (s.retireFp d (fusedResult (s.me.xr a) (s.me.xr b) (s.me.xr d) true false))

end Sys2Proof.Machine
end

