-- ==== Sys2Proof/Machine/TokenInstrs.lean ====
section
/-! DEFINITION. Token instructions and the drawer tag table (R108-R116). -/

namespace Sys2Proof.Machine

open Sys2Proof

/-- TREL (R108); the accesses of its stream through the token come first (log entry 36). -/
def execTrel (_st : SStall) (t : TReg) (s : State) : Out :=
  .next (s.afterUses (s.me.tr t) (fun s => (s.putTok s.curN t none).retire))

/-- TMOV (R108): TMOV of a register to itself changes nothing. -/
def execTmov (_st : SStall) (t u : TReg) (s : State) : Out :=
  if t = u then .next s.retire
  else .next (s.afterUses (s.me.tr t) (fun s => ((s.hold s.curN (s.me.tr u)).putTok s.curN t (s.me.tr u)).retire))

/-- The runs that cover `n` units from unit `u` of the extent on (R109). -/
def runsCover : List Run → Nat → Nat → List Run
  | [], _, _ => []
  | r :: rs, u, n =>
    if n = 0 then []
    else if r.npg ≤ u then runsCover rs (u - r.npg) n
    else
      let j := min n (r.npg - u)
      { r with npg := j, frame := BitVec.ofNat 35 (r.frame.toNat + u) } :: runsCover rs 0 (n - j)

/-- The entry of a sub-extent (R109). -/
def Mte.sub (m : Mte) (o n : Nat) : Mte :=
  let b := m.vbase + o
  { m with vbase := b, len := n, runs := runsCover m.runs (b / 65536 - m.vbase / 65536) ((b + n - 1) / 65536 + 1 - b / 65536) }

/-- Whether an entry holds a TSUB or TCHK back (R109, R111, R246). -/
def Mte.holds (m : Mte) : Bool := m.st == .stale || m.pred

/-- TSUB (R109). -/
def execTsub (_st : SStall) (t u : TReg) (a : XReg) (s : State) : Out :=
  let k := s.curN
  let tok := s.me.tr u
  let m := s.me.mteOf tok
  let o := (s.me.xr a).toNat
  let n := (s.me.xr (a + 1#6)).toNat
  if m.holds then .next (s.setMe (s.me.waitS (.stale ((tok.map (fun t => t.idx)).getD 0))))
  else .next (s.afterUses (s.me.tr t) (fun s =>
    if m.st ≠ .live ∨ m.len ≤ o ∨ n = 0 then (s.putTok k t none).retire
    else
      match s.newMte k (m.sub o (min n (m.len - o))) with
      | none => s.trapMe causeMte (word (m.vbase + o))
      | some (s, new) => (s.putTok k t (some new)).retire))

/-- The code of an entry's state (R110, R237). -/
def MteSt.code : MteSt → Nat
  | .null => 0 | .live => 1 | .stale => 2 | .dead => 3

/-- The information word of a token (R110). -/
def infoWord (t : Option Tok) (m : Mte) : Word :=
  match t with
  | none => 0
  | some t =>
    word (m.st.code * 2 ^ 62 + m.w.toNat * 2 ^ 61 + m.r.toNat * 2 ^ 60 + m.mask.toNat * 2 ^ 54 + m.fsel.toNat * 2 ^ 50
      + t.idx.toNat * 2 ^ 44 + t.gen.toNat % 2 ^ 11 * 2 ^ 33 + m.len % 2 ^ 33)

/-- TINFO (R110). -/
def execTinfo (_st : SStall) (u : TReg) (a : XReg) (s : State) : Out :=
  .next (s.retireX a (infoWord (s.me.tr u) (s.me.mteOf (s.me.tr u))))

/-- TCHK (R111). -/
def execTchk (_st : SStall) (u : TReg) (a : XReg) (s : State) : Out :=
  let tok := s.me.tr u
  let m := s.me.mteOf tok
  if m.holds then .next (s.setMe (s.me.waitS (.stale ((tok.map (fun t => t.idx)).getD 0))))
  else
    match m.st with
    | .null => .next (s.retireX a 0)
    | .dead => .next (s.retireX a (word (2 ^ 63 + m.vbase)))
    | _ => .next (s.retireX a (word m.vbase))

/-- The lowest-numbered drawer with a tag (R114). -/
def Core.lookTag (c : Core) (tag : BitVec 63) : Option Nat :=
  let hits := ((c.s.tags.filter (fun e => e.2 == some tag)).map (fun e => e.1))
  (hits.filter (fun n => Sparse.get none c.s.tags n == some tag)).min?

/-- LOOK (R114). -/
def execLook (_st : SStall) (d a : XReg) (s : State) : Out :=
  let x := s.me.xr a
  let r := if x.getLsbD 63 then none else s.me.lookTag (x.setWidth 63)
  .next (s.retireX d ((r.map word).getD (BitVec.allOnes 64)))

/-- DTAG (R115). -/
def execDtag (_st : SStall) (a b : XReg) (s : State) : Out :=
  let n := (s.me.xr a).toNat
  let x := s.me.xr b
  if s.me.dn.toNat ≤ n then .next (s.setMe (s.me.oox true)).retire
  else
    let e := if x.getLsbD 63 then none else some (x.setWidth 63)
    .next (s.setMe (s.me.onS (fun t => { t with tags := Sparse.put none t.tags n e }))).retire

end Sys2Proof.Machine
end

