-- ==== Sys2Proof/Machine/Special.lean ====
section
/-! DEFINITION. The special functions of the V-stream, exact values rounded once (R126).
A function value that is no dyadic number is enclosed between two dyadic bounds; where both bounds round to the same
encoding, that is the rounding of the exact value. The bounds are first computed to 160 bits and, where they
do not agree, to 400. -/

namespace Sys2Proof.Machine

open Sys2Proof

/-- An enclosure: a number between `lo / 2^p` and `hi / 2^p`. -/
structure Encl where
  lo : Nat
  hi : Nat
  deriving DecidableEq, Repr

/-- The quotient rounded up. -/
def ceilDiv (a b : Nat) : Nat := (a + b - 1) / b

/-- A natural number. -/
def Encl.ofNat (p n : Nat) : Encl := ⟨n * 2 ^ p, n * 2 ^ p⟩

/-- Sum. -/
def Encl.add (x y : Encl) : Encl := ⟨x.lo + y.lo, x.hi + y.hi⟩

/-- Difference, cut off at zero below. -/
def Encl.sub (x y : Encl) : Encl := ⟨x.lo - y.hi, x.hi - y.lo⟩

/-- Product. -/
def Encl.mul (p : Nat) (x y : Encl) : Encl := ⟨x.lo * y.lo / 2 ^ p, ceilDiv (x.hi * y.hi) (2 ^ p)⟩

/-- Quotient by a natural number. -/
def Encl.divNat (x : Encl) (n : Nat) : Encl := ⟨x.lo / n, ceilDiv x.hi n⟩

/-- Quotient, `y.lo` not zero. -/
def Encl.div (p : Nat) (x y : Encl) : Encl := ⟨x.lo * 2 ^ p / y.hi, ceilDiv (x.hi * 2 ^ p) y.lo⟩

/-- A finite magnitude `m * 2^e`. -/
def Encl.ofMag (p m : Nat) (e : Int) : Encl :=
  let s := e + p
  if 0 ≤ s then ⟨m * 2 ^ s.toNat, m * 2 ^ s.toNat⟩
  else ⟨m / 2 ^ (-s).toNat, ceilDiv m (2 ^ (-s).toNat)⟩

/-- The sum of the terms `t / (2k+1)` with `t` multiplied by `z2` from one to the next: the series of artanh (and of
arctan, the odd terms apart). -/
def atanhTerms (p : Nat) (z2 : Encl) : Nat → Nat → Encl → Encl → Encl
  | 0, _, t, acc => ⟨acc.lo, acc.hi + 2 * t.hi + 2⟩
  | n + 1, k, t, acc => atanhTerms p z2 n (k + 1) (t.mul p z2) (acc.add (t.divNat (2 * k + 1)))

/-- artanh z for z below 1/2. The rest after `n` terms is below twice the next power. -/
def Encl.artanh (p n : Nat) (z : Encl) : Encl := atanhTerms p (z.mul p z) n 0 z ⟨0, 0⟩

/-- ln 2 = 2 artanh (1/3). -/
def ln2 (p : Nat) : Encl :=
  let z := Encl.artanh p (p / 3 + 2) (Encl.div p (Encl.ofNat p 1) (Encl.ofNat p 3))
  ⟨2 * z.lo, 2 * z.hi⟩

/-- The terms of the exponential series. -/
def expTerms (p : Nat) (x : Encl) : Nat → Nat → Encl → Encl → Encl
  | 0, _, t, acc => ⟨acc.lo, acc.hi + 2 * t.hi + 2⟩
  | n + 1, k, t, acc => expTerms p x n (k + 1) ((t.mul p x).divNat (k + 1)) (acc.add t)

/-- e^x for x not above 24; `n` terms leave a rest below twice the next term. -/
def Encl.exp (p n : Nat) (x : Encl) : Encl := expTerms p x n 0 (Encl.ofNat p 1) ⟨0, 0⟩

/-- The terms of arctan (1/q), alternating. -/
def atanInvTerms (p q : Nat) : Nat → Nat → Encl → Encl → Encl → Encl
  | 0, _, t, pos, neg => ⟨(pos.sub neg).lo - (t.hi + 2), (pos.sub neg).hi + (t.hi + 2)⟩
  | n + 1, k, t, pos, neg =>
    let u := t.divNat (2 * k + 1)
    let t' := t.divNat (q * q)
    if k % 2 == 0 then atanInvTerms p q n (k + 1) t' (pos.add u) neg
    else atanInvTerms p q n (k + 1) t' pos (neg.add u)

/-- arctan (1/q). -/
def atanInv (p q : Nat) : Encl :=
  atanInvTerms p q (p / 4 + 2) 0 ((Encl.ofNat p 1).divNat q) ⟨0, 0⟩ ⟨0, 0⟩

/-- pi = 16 arctan (1/5) - 4 arctan (1/239). -/
def piEncl (p : Nat) : Encl :=
  let a := atanInv p 5
  let b := atanInv p 239
  Encl.sub ⟨16 * a.lo, 16 * a.hi⟩ ⟨4 * b.lo, 4 * b.hi⟩

/-- The square root. -/
def Encl.sqrt (p : Nat) (x : Encl) : Encl := ⟨isqrt (x.lo * 2 ^ p), isqrt (x.hi * 2 ^ p) + 1⟩

/-- The terms of erf x / x times sqrt pi / 2: alternating, `t = x^(2k) / k!`. -/
def erfTerms (p : Nat) (x2 : Encl) : Nat → Nat → Encl → Encl → Encl → Encl
  | 0, _, t, pos, neg => ⟨(pos.sub neg).lo - (t.hi + 2), (pos.sub neg).hi + (t.hi + 2)⟩
  | n + 1, k, t, pos, neg =>
    let u := t.divNat (2 * k + 1)
    let t' := (t.mul p x2).divNat (k + 1)
    if k % 2 == 0 then erfTerms p x2 n (k + 1) t' (pos.add u) neg
    else erfTerms p x2 n (k + 1) t' pos (neg.add u)

/-- Two dyadic bounds of a function value, as exact values of one sign; the lower first in magnitude. -/
structure Bounds where
  lo : FVal
  hi : FVal
  deriving DecidableEq, Repr

/-- 2^x for a finite x that is no integer: 2^n times e^(f ln 2), f the fraction. -/
def exp2Bounds (p : Nat) (s : Bool) (m : Nat) (e : Int) : Bounds :=
  let d := 2 ^ (-e).toNat
  let n : Int := if s then -((m / d : Nat) : Int) - 1 else (m / d : Nat)
  let r := if s then d - m % d else m % d
  let y := Encl.exp p (p / 3 + 8) ((Encl.ofMag p r e).mul p (ln2 p))
  ⟨.fin false y.lo (n - p), .fin false y.hi (n - p)⟩

/-- log2 x for x = m * 2^e that is no power of two: E + ln y / ln 2 with 2/3 ≤ y < 4/3. -/
def log2Bounds (p m : Nat) (e : Int) : Bounds :=
  let l := Nat.log2 m
  let up := decide (3 * m ≥ 4 * 2 ^ l)
  let den := if up then 2 ^ (l + 1) else 2 ^ l
  let ex : Int := (if up then (l : Int) + 1 else l) + e
  let above := decide (m ≥ den)
  let num := if above then m - den else den - m
  let z := Encl.div p (Encl.ofNat p num) (Encl.ofNat p (m + den))
  let a := Encl.artanh p (p / 2 + 2) z
  let q := Encl.div p ⟨2 * a.lo, 2 * a.hi⟩ (ln2 p)
  let base := ex * (2 ^ p : Nat)
  let u : Int := base + (if above then (q.lo : Int) else -(q.hi : Int))
  let v : Int := base + (if above then (q.hi : Int) else -(q.lo : Int))
  let mk := fun i : Int => FVal.fin (decide (i < 0)) i.natAbs (-(p : Int))
  ⟨mk u, mk v⟩

/-- A quotient of a value by a natural number to `p` bits, rounded down and up. -/
def divBounds (p : Nat) (x y : FVal) (n : Nat) : Bounds :=
  let down (up : Bool) : FVal → FVal
    | .fin s m e => .fin s (if up then ceilDiv (m * 2 ^ p) n else m * 2 ^ p / n) (e - p)
    | v => v
  ⟨down false x, down true y⟩

/-- Horner's rule for the series of tanh x / x in x^2 with the coefficients over 155,925 given, the last one first. -/
def tanhSeries (x2 : FVal) (cs : List Int) : FVal := cs.foldl (fun a c => (a.mul x2).add (FVal.ofInt c)) FVal.zero

/-- tanh x for |x| < 2^-12, between two partial sums of its alternating series
x - x^3/3 + 2 x^5/15 - 17 x^7/315 + 62 x^9/2835 - 1382 x^11/155925. -/
def tanhSmall (p : Nat) (s : Bool) (m : Nat) (e : Int) : Bounds :=
  let x : FVal := .fin s m e
  let x2 := x.mul x
  let lo := x.mul (tanhSeries x2 [-1382, 3410, -8415, 20790, -51975, 155925])
  let hi := x.mul (tanhSeries x2 [3410, -8415, 20790, -51975, 155925])
  divBounds p lo hi 155925

/-- tanh x for x = m * 2^e, not zero: by its series below 2^-12; from 10 on between 1 - 2^-27 and 1. -/
def tanhBounds (p : Nat) (s : Bool) (m : Nat) (e : Int) : Bounds :=
  if topExp m e < -12 then tanhSmall p s m e
  else if topExp m e ≥ 4 || (onGrid m e 0).1 ≥ 10 then ⟨.fin s (2 ^ 27 - 1) (-27), .fin s 1 0⟩
  else
    let y := Encl.exp p (p / 2 + 60) (Encl.ofMag p (2 * m) e)
    let one := Encl.ofNat p 1
    let q := Encl.div p (y.sub one) (y.add one)
    ⟨.fin s q.lo (-(p : Int)), .fin s q.hi (-(p : Int))⟩

/-- erf x for x = m * 2^e, not zero. From 4 on it lies between 1 - 3 * 2^-27 and 1. -/
def erfBounds (p : Nat) (s : Bool) (m : Nat) (e : Int) : Bounds :=
  if topExp m e ≥ 2 then ⟨.fin s (2 ^ 27 - 3) (-27), .fin s 1 0⟩
  else
    let x2 := Encl.ofMag p (m * m) (2 * e)
    let t := erfTerms p x2 (p / 2 + 60) 0 (Encl.ofNat p 1) ⟨0, 0⟩ ⟨0, 0⟩
    let q := Encl.div p ⟨2 * t.lo, 2 * t.hi⟩ ((piEncl p).sqrt p)
    ⟨.fin s (q.lo * m) (e - p), .fin s (q.hi * m) (e - p)⟩

/-- The rounding of a value from its bounds: at 160 bits, else at 400. -/
def roundBounds (f : Fmt) (b : Nat → Bounds) : Nat :=
  let b1 := b 160
  let lo := f.roundBits .rne false b1.lo
  if lo == f.roundBits .rne false b1.hi then lo else f.roundBits .rne false (b 400).lo

/-- VEXP2 (R126). -/
def exp2Fn (f : Fmt) : FVal → Nat
  | .nan => f.nanBits
  | .inf s => if s then 0 else f.roundBits .rne false (.inf false)
  | .fin s m e =>
    if m == 0 then f.roundBits .rne false FVal.one
    else if topExp m e ≥ 9 then f.roundBits .rne false (if s then .fin false 1 (-1000) else .fin false 1 1000)
    else
      let g := onGrid m e 0
      if g.2 == 0 then f.roundBits .rne false (.fin false 1 (if s then -(g.1 : Int) else g.1))
      else roundBounds f (fun p => exp2Bounds p s m e)

/-- VLOG2 (R126). -/
def log2Fn (f : Fmt) : FVal → Nat
  | .nan => f.nanBits
  | .inf s => if s then f.nanBits else f.roundBits .rne false (.inf false)
  | .fin s m e =>
    if m == 0 then f.roundBits .rne false (.inf true)
    else if s then f.nanBits
    else if m == 2 ^ Nat.log2 m then f.roundBits .rne false (FVal.ofInt (topExp m e))
    else roundBounds f (fun p => log2Bounds p m e)

/-- VRCP (R126). -/
def rcpFn (f : Fmt) : FVal → Nat
  | .nan => f.nanBits
  | .inf s => f.roundBits .rne false (.fin s 0 0)
  | .fin s m e =>
    if m == 0 then f.roundBits .rne false (.inf s) else f.roundBits .rne false (quotient s 1 0 m e)

/-- VRSQ (R126). -/
def rsqFn (f : Fmt) : FVal → Nat
  | .nan => f.nanBits
  | .inf s => if s then f.nanBits else f.roundBits .rne false FVal.zero
  | .fin s m e =>
    if m == 0 then f.roundBits .rne false (.inf s)
    else if s then f.nanBits
    else f.roundBits .rne false (rsqrtVal m e)

/-- VTANH (R126). -/
def tanhFn (f : Fmt) : FVal → Nat
  | .nan => f.nanBits
  | .inf s => f.roundBits .rne false (.fin s 1 0)
  | .fin s m e =>
    if m == 0 then f.roundBits .rne false (.fin s 0 0) else roundBounds f (fun p => tanhBounds p s m e)

/-- VERF (R126). -/
def erfFn (f : Fmt) : FVal → Nat
  | .nan => f.nanBits
  | .inf s => f.roundBits .rne false (.fin s 1 0)
  | .fin s m e =>
    if m == 0 then f.roundBits .rne false (.fin s 0 0) else roundBounds f (fun p => erfBounds p s m e)

end Sys2Proof.Machine
end

