-- ==== Sys2Proof/Machine/VArith.lean ====
section
/-! DEFINITION. Arithmetic, logic, comparison, selection, special functions and immediate forms of the V-stream
(R61, R120-R126, R137). -/

namespace Sys2Proof.Machine

open Sys2Proof

/-- The signed reading of an element (R122). -/
def signedEl (w b : Nat) : Int := sextNat w b

/-- An integer result: clamped to the signed range with `sat`, else its low bits (R122). -/
def intEl (w : Nat) (sat : Bool) (i : Int) : Nat :=
  wrapInt w (if sat then clampInt (intRange true w).1 (intRange true w).2 i else i)

/-- An arithmetic function of two elements: on integers and on exact values, rounded once with RNE (R121, R122). -/
def arith2 (t : ElType) (sat : Bool) (fi : Int → Int → Int) (ff : FVal → FVal → FVal) (a b : Nat) : Nat :=
  match t with
  | .int _ w => intEl w sat (fi (signedEl w a) (signedEl w b))
  | .flt f => f.roundBits .rne sat (ff (f.decode a) (f.decode b))

/-- An arithmetic function of one element (R121, R122). -/
def arith1 (t : ElType) (sat : Bool) (fi : Int → Int) (ff : FVal → FVal) (a : Nat) : Nat :=
  match t with
  | .int _ w => intEl w sat (fi (signedEl w a))
  | .flt f => f.roundBits .rne sat (ff (f.decode a))

/-- The smaller element (R121, R122). -/
def minEl (t : ElType) (uns : Bool) (a b : Nat) : Nat :=
  match t with
  | .int _ w => if uns then Nat.min a b else if signedEl w b < signedEl w a then b else a
  | .flt f => f.roundBits .rne false ((f.decode a).minv (f.decode b))

/-- The larger element (R121, R122). -/
def maxEl (t : ElType) (uns : Bool) (a b : Nat) : Nat :=
  match t with
  | .int _ w => if uns then Nat.max a b else if signedEl w a < signedEl w b then b else a
  | .flt f => f.roundBits .rne false ((f.decode a).maxv (f.decode b))

/-- VFMA on elements: the product is never rounded on its own (R121). -/
def fmaEl (t : ElType) (sat : Bool) (a b c : Nat) : Nat :=
  match t with
  | .int _ w => intEl w sat (signedEl w a * signedEl w b + signedEl w c)
  | .flt f => f.roundBits .rne sat (((f.decode a).mul (f.decode b)).add (f.decode c))

/-- VSHL on elements of width `w` (R123). -/
def shlEl (w a c : Nat) : Nat := if w ≤ c then 0 else a * 2 ^ c % 2 ^ w

/-- VSHR on elements of width `w` (R123). -/
def shrEl (w : Nat) (uns : Bool) (a c : Nat) : Nat :=
  if uns then (if w ≤ c then 0 else a / 2 ^ c)
  else wrapInt w (signedEl w a / ((2 ^ Nat.min c w : Nat) : Int))

/-- A comparison of integers (R124). -/
def cmpInt (k : CmpKind) (a b : Int) : Bool :=
  match k with
  | .eq => a == b
  | .ne => a != b
  | .lt => decide (a < b)
  | .le => decide (a ≤ b)
  | .gt => decide (b < a)
  | .ge => decide (b ≤ a)
  | .unord => false
  | .ord => true

/-- A comparison of floating values (R124): none where an operand is NaN. -/
def cmpFlt (k : CmpKind) (o : Option Ordering) : Bool :=
  match k, o with
  | .eq, some r => r == .eq
  | .ne, some r => r != .eq
  | .lt, some r => r == .lt
  | .le, some r => r != .gt
  | .gt, some r => r == .gt
  | .ge, some r => r != .lt
  | .unord, some _ => false
  | .ord, some _ => true
  | .ne, none => true
  | .unord, none => true
  | _, none => false

/-- VCMP on elements (R124). -/
def cmpEl (t : ElType) (k : CmpKind) (uns : Bool) (a b : Nat) : Bool :=
  match t with
  | .int _ w => if uns then cmpInt k a b else cmpInt k (signedEl w a) (signedEl w b)
  | .flt f => cmpFlt k ((f.decode a).cmp (f.decode b))

/-- The value an immediate form gives element `i`: R61, with integers saturated. -/
def immEl (t : ElType) (imm : BitVec 16) (i : Nat) : Nat :=
  match t with
  | .int _ w => intEl w true (sextNat 16 imm.toNat)
  | .flt f =>
    if f.width = 32 then imm.toNat * 65536
    else if f.width = 16 then imm.toNat
    else (if i % 2 = 0 then imm.toNat else imm.toNat / 256) % 2 ^ f.width

/-- An immediate form: every element with its immediate (R137). -/
def Core.mapImm (c : Core) (t : ElType) (d : VReg) (imm : Nat → Nat) (f : Nat → Nat → Nat) : Core :=
  c.putAll t d false ((c.els t d).zipIdx.map (fun x => (f x.1.1 (imm x.2), x.1.2)))

/-- A special function of elements of FP32, FP16 or BF16 (R126). -/
def specialEl (t : ElType) (fn : Fmt → FVal → Nat) (a : Nat) : Nat :=
  match t with
  | .flt f => fn f (f.decode a)
  | .int .. => a

/-- VADD (R120): va + vb. -/
def execVadd (et : ETy) (_st : VStall) (g : PReg) (d a b : VReg) (sat : Bool) (s : State) : Out :=
  s.typedV et (fun t c => c.map2 t g d a b (arith2 t sat (· + ·) FVal.add))

/-- VSUB (R120): va - vb. -/
def execVsub (et : ETy) (_st : VStall) (g : PReg) (d a b : VReg) (sat : Bool) (s : State) : Out :=
  s.typedV et (fun t c => c.map2 t g d a b (arith2 t sat (· - ·) FVal.sub))

/-- VMUL (R120): va × vb. -/
def execVmul (et : ETy) (_st : VStall) (g : PReg) (d a b : VReg) (sat : Bool) (s : State) : Out :=
  s.typedV et (fun t c => c.map2 t g d a b (arith2 t sat (· * ·) FVal.mul))

/-- VFMA (R120): va × vb + vd. -/
def execVfma (et : ETy) (_st : VStall) (g : PReg) (d a b : VReg) (sat : Bool) (s : State) : Out :=
  s.typedV et (fun t c =>
    c.putActive t g d (((c.els t a).zip (c.els t b)).zipWith
      (fun x z => (fmaEl t sat x.1.1 x.2.1 z.1, x.1.2 || x.2.2 || z.2)) (c.els t d)))

/-- VMIN (R120). -/
def execVmin (et : ETy) (_st : VStall) (g : PReg) (d a b : VReg) (uns : Bool) (s : State) : Out :=
  s.typedV et (fun t c => c.map2 t g d a b (minEl t uns))

/-- VMAX (R120). -/
def execVmax (et : ETy) (_st : VStall) (g : PReg) (d a b : VReg) (uns : Bool) (s : State) : Out :=
  s.typedV et (fun t c => c.map2 t g d a b (maxEl t uns))

/-- VABS (R120-R122). -/
def execVabs (et : ETy) (_st : VStall) (g : PReg) (d a : VReg) (sat : Bool) (s : State) : Out :=
  s.typedV et (fun t c => c.map1 t g d a (arith1 t sat (fun i => (i.natAbs : Int)) FVal.abs))

/-- VNEG (R120-R122). -/
def execVneg (et : ETy) (_st : VStall) (g : PReg) (d a : VReg) (sat : Bool) (s : State) : Out :=
  s.typedV et (fun t c => c.map1 t g d a (arith1 t sat (fun i => -i) FVal.neg))

/-- VAND (R123). -/
def execVand (et : ETy) (_st : VStall) (g : PReg) (d a b : VReg) (s : State) : Out :=
  s.typedV et (fun t c => c.map2 t g d a b (· &&& ·))

/-- VOR (R123). -/
def execVor (et : ETy) (_st : VStall) (g : PReg) (d a b : VReg) (s : State) : Out :=
  s.typedV et (fun t c => c.map2 t g d a b (· ||| ·))

/-- VXOR (R123). -/
def execVxor (et : ETy) (_st : VStall) (g : PReg) (d a b : VReg) (s : State) : Out :=
  s.typedV et (fun t c => c.map2 t g d a b (· ^^^ ·))

/-- VSHL (R123). -/
def execVshl (et : ETy) (_st : VStall) (g : PReg) (d a b : VReg) (s : State) : Out :=
  s.typedV et (fun t c => c.map2 t g d a b (shlEl t.width))

/-- VSHR (R123). -/
def execVshr (et : ETy) (_st : VStall) (g : PReg) (d a b : VReg) (uns : Bool) (s : State) : Out :=
  s.typedV et (fun t c => c.map2 t g d a b (shrEl t.width uns))

/-- VCMP (R124): unpredicated; poison of any element read marks the predicate (R119). -/
def execVcmp (et : ETy) (_st : VStall) (p : PReg) (k : CmpKind) (a b : VReg) (uns : Bool) (s : State) : Out :=
  s.typedV et (fun t c =>
    let rs := (c.els t a).zipWith (fun x y => (cmpEl t k uns x.1 y.1, x.2 || y.2)) (c.els t b)
    c.setP p (ofBits 1024 (rs.map (fun r => r.1))) (rs.any (fun r => r.2)))

/-- VSEL (R125). -/
def execVsel (et : ETy) (_st : VStall) (p : PReg) (d a b : VReg) (s : State) : Out :=
  s.typedV et (fun t c =>
    c.putAll t d (c.ppois p)
      ((c.active t p).zipWith (fun q x => if q then x.1 else x.2) ((c.els t a).zip (c.els t b))))

/-- VMOV (R125). -/
def execVmov (et : ETy) (_st : VStall) (g : PReg) (d a : VReg) (s : State) : Out :=
  s.typedV et (fun t c => c.map1 t g d a (fun x => x))

/-- VEXP2 (R126). -/
def execVexp2 (et : ETy) (_st : VStall) (g : PReg) (d a : VReg) (s : State) : Out :=
  s.typedV et (fun t c => c.map1 t g d a (specialEl t exp2Fn))

/-- VLOG2 (R126). -/
def execVlog2 (et : ETy) (_st : VStall) (g : PReg) (d a : VReg) (s : State) : Out :=
  s.typedV et (fun t c => c.map1 t g d a (specialEl t log2Fn))

/-- VRCP (R126). -/
def execVrcp (et : ETy) (_st : VStall) (g : PReg) (d a : VReg) (s : State) : Out :=
  s.typedV et (fun t c => c.map1 t g d a (specialEl t rcpFn))

/-- VRSQ (R126). -/
def execVrsq (et : ETy) (_st : VStall) (g : PReg) (d a : VReg) (s : State) : Out :=
  s.typedV et (fun t c => c.map1 t g d a (specialEl t rsqFn))

/-- VTANH (R126). -/
def execVtanh (et : ETy) (_st : VStall) (g : PReg) (d a : VReg) (s : State) : Out :=
  s.typedV et (fun t c => c.map1 t g d a (specialEl t tanhFn))

/-- VERF (R126). -/
def execVerf (et : ETy) (_st : VStall) (g : PReg) (d a : VReg) (s : State) : Out :=
  s.typedV et (fun t c => c.map1 t g d a (specialEl t erfFn))

/-- VADDI (R137). -/
def execVaddi (et : ETy) (_st : VStall) (d : VReg) (imm : BitVec 16) (s : State) : Out :=
  s.typedV et (fun t c => c.mapImm t d (immEl t imm) (arith2 t false (· + ·) FVal.add))

/-- VMULI (R137). -/
def execVmuli (et : ETy) (_st : VStall) (d : VReg) (imm : BitVec 16) (s : State) : Out :=
  s.typedV et (fun t c => c.mapImm t d (immEl t imm) (arith2 t false (· * ·) FVal.mul))

/-- VMAXI (R137). -/
def execVmaxi (et : ETy) (_st : VStall) (d : VReg) (imm : BitVec 16) (s : State) : Out :=
  s.typedV et (fun t c => c.mapImm t d (immEl t imm) (maxEl t false))

/-- VMINI (R137). -/
def execVmini (et : ETy) (_st : VStall) (d : VReg) (imm : BitVec 16) (s : State) : Out :=
  s.typedV et (fun t c => c.mapImm t d (immEl t imm) (minEl t false))

/-- VMOVI (R137): nothing of vd is read; a NaN immediate keeps its bits (log entry 89). -/
def execVmovi (et : ETy) (_st : VStall) (d : VReg) (imm : BitVec 16) (s : State) : Out :=
  s.typedV et (fun t c => c.putAll t d false ((List.range t.count).map (fun i => (immEl t imm i, false))))

/-- VANDI (R61, R137): the immediate sign-extended, its low bits. -/
def execVandi (et : ETy) (_st : VStall) (d : VReg) (imm : BitVec 16) (s : State) : Out :=
  s.typedV et (fun t c => c.mapImm t d (fun _ => wrapInt t.width (sextNat 16 imm.toNat)) (· &&& ·))

/-- VSHLI (R61, R137). -/
def execVshli (et : ETy) (_st : VStall) (d : VReg) (imm : BitVec 16) (s : State) : Out :=
  s.typedV et (fun t c => c.mapImm t d (fun _ => imm.toNat) (shlEl t.width))

/-- VSUBI (R137). -/
def execVsubi (et : ETy) (_st : VStall) (d : VReg) (imm : BitVec 16) (s : State) : Out :=
  s.typedV et (fun t c => c.mapImm t d (immEl t imm) (arith2 t false (· - ·) FVal.sub))

end Sys2Proof.Machine
end

