-- ==== Sys2Proof/Machine/VMove.lean ====
section
/-! DEFINITION. Conversions, permutations, reductions and broadcasts of the V-stream (R51, R127-R136). -/

namespace Sys2Proof.Machine

open Sys2Proof

/-- Whether an FX entry has width 4 (R127). -/
def ElType.four (t : ElType) : Bool := t.width == 4

/-- The pairs of VCVT (R127): the types of the source and of the destination. -/
def cvtPair (x y : ETy) (tx ty : ElType) : Bool :=
  match x, y with
  | .si4, .si4 => true
  | .si4, .fx => ty.four
  | .si8, .si8 => true
  | .si8, .fx => !ty.four
  | .si16, .si16 => true
  | .si16, .fp16 => true
  | .si16, .bf16 => true
  | .si32, .si32 => true
  | .si32, .fp32 => true
  | .fp16, .si16 => true
  | .fp16, .fp16 => true
  | .fp16, .bf16 => true
  | .bf16, .si16 => true
  | .bf16, .fp16 => true
  | .bf16, .bf16 => true
  | .fp32, .si32 => true
  | .fp32, .fp32 => true
  | .fx, .si4 => tx.four
  | .fx, .si8 => !tx.four
  | .fx, .fx => true
  | _, _ => false

/-- The group size of a VWID pair; 0 where there is no such pair (R127). -/
def widPair (x y : ETy) (tx : ElType) : Nat :=
  match x, y with
  | .si4, .si8 => 2
  | .si4, .si16 => 4
  | .si4, .fp16 => 4
  | .si4, .bf16 => 4
  | .si8, .si16 => 2
  | .si8, .fp16 => 2
  | .si8, .bf16 => 2
  | .si8, .si32 => 4
  | .si8, .fp32 => 4
  | .si16, .si32 => 2
  | .si16, .fp32 => 2
  | .fp16, .fp32 => 2
  | .bf16, .fp32 => 2
  | .fx, .fp32 => if tx.four then 0 else 4
  | _, _ => 0

/-- The group size of a VNAR pair; 0 where there is no such pair (R127). -/
def narPair (x y : ETy) (ty : ElType) : Nat :=
  match x, y with
  | .si8, .si4 => 2
  | .si16, .si8 => 2
  | .si16, .si4 => 4
  | .si32, .si16 => 2
  | .si32, .fp16 => 2
  | .si32, .bf16 => 2
  | .si32, .si8 => 4
  | .fp16, .si8 => 2
  | .fp16, .si4 => 4
  | .fp16, .fx => if ty.four then 4 else 2
  | .bf16, .si8 => 2
  | .bf16, .si4 => 4
  | .bf16, .fx => if ty.four then 4 else 2
  | .fp32, .si16 => 2
  | .fp32, .fp16 => 2
  | .fp32, .bf16 => 2
  | .fp32, .si8 => 4
  | .fp32, .fx => if ty.four then 0 else 4
  | _, _ => 0

/-- A conversion of both types: illegal where FX names no FX entry or the pair is not one of R127. -/
def State.pairV (s : State) (x y : ETy) (f : ElType → ElType → Option (Core → Core)) : Out :=
  match s.me.etype x, s.me.etype y with
  | some tx, some ty =>
    match f tx ty with
    | some h => .next ((s.setMe (h s.me)).retireV)
    | none => .next s.illegalV
  | _, _ => .next s.illegalV

/-- The conversion of VCVT (R128): FX to FX keeps the bits. -/
def cvtEl (x y : ETy) (tx ty : ElType) (rm : Round) (sat : Bool) (b : Nat) : Nat :=
  if x = .fx ∧ y = .fx then b % 2 ^ tx.width
  else if x = y ∧ x.isInt then b
  else convert tx ty rm sat b

/-- VCVT (R127, R128). -/
def execVcvt (et : ETy) (_st : VStall) (g : PReg) (d a : VReg) (y : ETy) (r : Round) (sat : Bool) (s : State) : Out :=
  s.pairV et y (fun tx ty =>
    if cvtPair et y tx ty then
      some (fun c => c.putActive ty g d ((c.els tx a).map (fun e => (cvtEl et y tx ty r sat e.1, e.2))))
    else none)

/-- Register `k` of a group of registers that starts at `d`. -/
def groupReg (d : VReg) (k : Nat) : VReg := d + BitVec.ofNat 5 k

/-- VWID (R51, R127, R129): the results of the source's elements, interleaved over `n` registers. -/
def widened (c : Core) (tx ty : ElType) (n : Nat) (g : PReg) (d a : VReg) (uns : Bool) : Core :=
  let src : ElType := match tx with
    | .int _ w => .int (!uns) w
    | .flt f => .flt f
  let es := gated (c.active tx g) ((c.els tx a).map (fun e => (convert src ty .rne false e.1, e.2)))
  (List.range n).foldl (fun c' k =>
    c'.putEls ty (groupReg d k) (c.ppois g) ((List.range ty.count).map (fun i => es.getD (n * i + k) none))) c

/-- VWID (R127, R129). -/
def execVwid (et : ETy) (_st : VStall) (g : PReg) (d a : VReg) (y : ETy) (uns : Bool) (s : State) : Out :=
  s.pairV et y (fun tx ty =>
    let n := widPair et y tx
    if n = 0 ∨ d.toNat % n ≠ 0 then none else some (fun c => widened c tx ty n g d a uns))

/-- VNAR (R51, R127, R130, R131): the elements of a group of `n` registers, in the order before widening. With n = 4 the
two steps of R131 give the direct rounding. -/
def narrowed (c : Core) (tx ty : ElType) (n : Nat) (g : PReg) (d a : VReg) (r : Round) (sat : Bool) : Core :=
  let src := (List.range n).map (fun k => c.els tx (groupReg a k))
  let es := (List.range ty.count).map (fun i =>
    let e := (src.getD (i % n) []).getD (i / n) (0, false)
    (convert tx ty r sat e.1, e.2))
  c.putActive ty g d es

/-- VNAR (R127, R130). -/
def execVnar (et : ETy) (_st : VStall) (g : PReg) (d a : VReg) (y : ETy) (r : Round) (sat : Bool) (s : State) : Out :=
  s.pairV et y (fun tx ty =>
    let n := narPair et y ty
    if n = 0 ∨ a.toNat % n ≠ 0 then none else some (fun c => narrowed c tx ty n g d a r sat))

/-- VPERM (R132). -/
def execVperm (et : ETy) (_st : VStall) (g : PReg) (d a b : VReg) (s : State) : Out :=
  s.typedV et (fun t c =>
    let m := Nat.min (2 ^ t.width) t.count
    let va := c.els t a
    c.putActive t g d ((c.els t b).zipIdx.map (fun x =>
      let j := x.1.1 % 2 ^ t.width
      if m ≤ j then (0, x.1.2)
      else
        let e := va.getD (x.2 - x.2 % m + j) (0, false)
        (e.1, e.2 || x.1.2))))

/-- Write the pair of a zip or unzip: element `j` of the pair by a function of `j` (R133); container bits above the width are
written as zero (R35). -/
def Core.putPair (c : Core) (t : ElType) (g : PReg) (d : VReg) (h : Nat → El) : Core :=
  let n := t.count
  let act := c.active t g
  let f (j : Nat) : El := ((h j).1 % 2 ^ t.width, (h j).2)
  let lo := gated act ((List.range n).map f)
  let hi := gated act ((List.range n).map (fun i => f (n + i)))
  (c.putEls t d (c.ppois g) lo).putEls t (groupReg d 1) (c.ppois g) hi

/-- VZIP (R133). -/
def execVzip (et : ETy) (_st : VStall) (g : PReg) (d a b : VReg) (s : State) : Out :=
  s.typedV et (fun t c =>
    let va := c.els t a
    let vb := c.els t b
    c.putPair t g d (fun j => (if j % 2 = 0 then va else vb).getD (j / 2) (0, false)))

/-- VUNZ (R133). -/
def execVunz (et : ETy) (_st : VStall) (g : PReg) (d a b : VReg) (s : State) : Out :=
  s.typedV et (fun t c =>
    let n := t.count
    let cat := c.els t a ++ c.els t b
    c.putPair t g d (fun j => cat.getD (if j < n then 2 * j else 2 * (j - n) + 1) (0, false)))

/-- What a reduction has met so far (R134): the sum, its values on integers, the least or greatest element, whether any
element was active and whether one was poisoned. -/
structure RedAcc where
  sum : SumAcc := SumAcc.empty
  isum : Nat := 0
  best : Option Nat := none
  pois : Bool := false
  deriving DecidableEq, Repr

/-- A reduction meets an active element (R134). -/
def RedAcc.step (t : ElType) (f : RedFn) (uns : Bool) (r : RedAcc) (e : El) : RedAcc :=
  let p := r.pois || e.2
  match f with
  | .add =>
    match t with
    | .int .. => { r with isum := r.isum + e.1, best := some 0, pois := p }
    | .flt fm => { r with sum := r.sum.add (fm.decode e.1), best := some 0, pois := p }
  | .min => { r with best := some (match r.best with
      | none => minEl t uns e.1 e.1
      | some b => minEl t uns b e.1), pois := p }
  | .max => { r with best := some (match r.best with
      | none => maxEl t uns e.1 e.1
      | some b => maxEl t uns b e.1), pois := p }

/-- What a reduction of no element gives (R134). -/
def redEmpty (t : ElType) (f : RedFn) (uns : Bool) : Nat :=
  match t, f with
  | .int .., .add => 0
  | .int _ w, .min => if uns then 2 ^ w - 1 else 2 ^ (w - 1) - 1
  | .int _ w, .max => if uns then 0 else 2 ^ (w - 1)
  | .flt fm, .add => fm.roundBits .rne false FVal.zero
  | .flt fm, .min => fm.roundBits .rne false (.inf false)
  | .flt fm, .max => fm.roundBits .rne false (.inf true)

/-- The result of a reduction (R134). -/
def RedAcc.value (t : ElType) (f : RedFn) (uns : Bool) (r : RedAcc) : Nat :=
  match r.best with
  | none => redEmpty t f uns
  | some b =>
    match f, t with
    | .add, .int _ w => r.isum % 2 ^ w
    | .add, .flt fm => fm.roundBits .rne false (r.sum.value true)
    | _, _ => b

/-- VRED (R134): element 0 is written whatever its predicate bit. -/
def execVred (et : ETy) (_st : VStall) (g : PReg) (d a : VReg) (f : RedFn) (uns : Bool) (s : State) : Out :=
  s.typedV et (fun t c =>
    let r := (((c.active t g).zip (c.els t a)).filter (fun x => x.1)).foldl (fun (r : RedAcc) x => r.step t f uns x.2) {}
    c.putEls t d (c.ppois g) (some (r.value t f uns, r.pois) :: List.replicate (t.count - 1) none))

/-- The prefixes of a reduction, at the active elements (R135). -/
def scanEls (t : ElType) (f : RedFn) (uns : Bool) : RedAcc → List (Bool × El) → List (Option El)
  | _, [] => []
  | r, (false, _) :: es => none :: scanEls t f uns r es
  | r, (true, e) :: es =>
    let r := r.step t f uns e
    some (r.value t f uns, r.pois) :: scanEls t f uns r es

/-- VSCAN (R135). -/
def execVscan (et : ETy) (_st : VStall) (g : PReg) (d a : VReg) (f : RedFn) (uns : Bool) (s : State) : Out :=
  s.typedV et (fun t c => c.putEls t d (c.ppois g) (scanEls t f uns {} ((c.active t g).zip (c.els t a))))

/-- VIOTA (R136). -/
def execViota (et : ETy) (_st : VStall) (g : PReg) (d : VReg) (s : State) : Out :=
  s.typedV et (fun t c => c.putActive t g d ((List.range t.count).map (fun i => (i % 2 ^ t.width, false))))

/-- VBCAST (R136): from a poisoned a-register every destination sector written is poisoned (log entry 91). -/
def execVbcast (et : ETy) (_st : VStall) (g : PReg) (d : VReg) (b : AReg) (s : State) : Out :=
  s.typedV et (fun t c =>
    c.putActive t g d (List.replicate t.count ((c.ar b).toNat % 2 ^ t.width, c.apois b)))

end Sys2Proof.Machine
end

