-- ==== Sys2Proof/Machine/Dispatch.lean ====
section
/-! DEFINITION. One arm for each constructor of Instr: the meaning of the instruction, one direct call. -/

namespace Sys2Proof.Machine

open Sys2Proof

def exec (i : Instr) (s : State) : Host.Outcome State Fault Refusal :=
  match i with
  | .add st d a b => Sys2Proof.Machine.execAdd st d a b s
  | .sub st d a b => Sys2Proof.Machine.execSub st d a b s
  | .and st d a b => Sys2Proof.Machine.execAnd st d a b s
  | .or st d a b => Sys2Proof.Machine.execOr st d a b s
  | .xor st d a b => Sys2Proof.Machine.execXor st d a b s
  | .sll st d a b => Sys2Proof.Machine.execSll st d a b s
  | .srl st d a b => Sys2Proof.Machine.execSrl st d a b s
  | .sra st d a b => Sys2Proof.Machine.execSra st d a b s
  | .slt st d a b => Sys2Proof.Machine.execSlt st d a b s
  | .sltu st d a b => Sys2Proof.Machine.execSltu st d a b s
  | .seq st d a b => Sys2Proof.Machine.execSeq st d a b s
  | .min st d a b => Sys2Proof.Machine.execMin st d a b s
  | .max st d a b => Sys2Proof.Machine.execMax st d a b s
  | .minu st d a b => Sys2Proof.Machine.execMinu st d a b s
  | .maxu st d a b => Sys2Proof.Machine.execMaxu st d a b s
  | .mul st d a b => Sys2Proof.Machine.execMul st d a b s
  | .mulh st d a b => Sys2Proof.Machine.execMulh st d a b s
  | .mulhu st d a b => Sys2Proof.Machine.execMulhu st d a b s
  | .div st d a b => Sys2Proof.Machine.execDiv st d a b s
  | .divu st d a b => Sys2Proof.Machine.execDivu st d a b s
  | .rem st d a b => Sys2Proof.Machine.execRem st d a b s
  | .remu st d a b => Sys2Proof.Machine.execRemu st d a b s
  | .clz st d a => Sys2Proof.Machine.execClz st d a s
  | .popc st d a => Sys2Proof.Machine.execPopc st d a s
  | .addi st d a imm => Sys2Proof.Machine.execAddi st d a imm s
  | .andi st d a imm => Sys2Proof.Machine.execAndi st d a imm s
  | .ori st d a imm => Sys2Proof.Machine.execOri st d a imm s
  | .xori st d a imm => Sys2Proof.Machine.execXori st d a imm s
  | .slli st d a sh => Sys2Proof.Machine.execSlli st d a sh s
  | .srli st d a sh => Sys2Proof.Machine.execSrli st d a sh s
  | .srai st d a sh => Sys2Proof.Machine.execSrai st d a sh s
  | .slti st d a imm => Sys2Proof.Machine.execSlti st d a imm s
  | .li st d imm => Sys2Proof.Machine.execLi st d imm s
  | .lis st d imm => Sys2Proof.Machine.execLis st d imm s
  | .fadd st d a b => Sys2Proof.Machine.execFadd st d a b s
  | .fsub st d a b => Sys2Proof.Machine.execFsub st d a b s
  | .fmul st d a b => Sys2Proof.Machine.execFmul st d a b s
  | .fdiv st d a b => Sys2Proof.Machine.execFdiv st d a b s
  | .fmin st d a b => Sys2Proof.Machine.execFmin st d a b s
  | .fmax st d a b => Sys2Proof.Machine.execFmax st d a b s
  | .fsqrt st d a => Sys2Proof.Machine.execFsqrt st d a s
  | .feq st d a b => Sys2Proof.Machine.execFeq st d a b s
  | .flt st d a b => Sys2Proof.Machine.execFlt st d a b s
  | .fle st d a b => Sys2Proof.Machine.execFle st d a b s
  | .fcvtsw st d a => Sys2Proof.Machine.execFcvtsw st d a s
  | .fcvtws st d a => Sys2Proof.Machine.execFcvtws st d a s
  | .fcvtbs st d a => Sys2Proof.Machine.execFcvtbs st d a s
  | .fcvtsb st d a => Sys2Proof.Machine.execFcvtsb st d a s
  | .fma st d a b => Sys2Proof.Machine.execFma st d a b s
  | .fms st d a b => Sys2Proof.Machine.execFms st d a b s
  | .fnma st d a b => Sys2Proof.Machine.execFnma st d a b s
  | .beq st a b off => Sys2Proof.Machine.execBeq st a b off s
  | .bne st a b off => Sys2Proof.Machine.execBne st a b off s
  | .blt st a b off => Sys2Proof.Machine.execBlt st a b off s
  | .bge st a b off => Sys2Proof.Machine.execBge st a b off s
  | .bltu st a b off => Sys2Proof.Machine.execBltu st a b off s
  | .bgeu st a b off => Sys2Proof.Machine.execBgeu st a b off s
  | .jal st d off => Sys2Proof.Machine.execJal st d off s
  | .jalr st d a imm => Sys2Proof.Machine.execJalr st d a imm s
  | .ldb st d t o imm => Sys2Proof.Machine.execLdb st d t o imm s
  | .ldh st d t o imm => Sys2Proof.Machine.execLdh st d t o imm s
  | .ldw st d t o imm => Sys2Proof.Machine.execLdw st d t o imm s
  | .ldd st d t o imm => Sys2Proof.Machine.execLdd st d t o imm s
  | .stb st d t o imm => Sys2Proof.Machine.execStb st d t o imm s
  | .sth st d t o imm => Sys2Proof.Machine.execSth st d t o imm s
  | .stw st d t o imm => Sys2Proof.Machine.execStw st d t o imm s
  | .std st d t o imm => Sys2Proof.Machine.execStd st d t o imm s
  | .amo st d t o f dw sc => Sys2Proof.Machine.execAmo st d t o f dw sc s
  | .cas st d t o imm => Sys2Proof.Machine.execCas st d t o imm s
  | .lds st d a imm => Sys2Proof.Machine.execLds st d a imm s
  | .sts st d a imm => Sys2Proof.Machine.execSts st d a imm s
  | .sps st d slot => Sys2Proof.Machine.execSps st d slot s
  | .spl st d slot => Sys2Proof.Machine.execSpl st d slot s
  | .xlat st t a b r w => Sys2Proof.Machine.execXlat st t a b r w s
  | .xlatq st t a b r w => Sys2Proof.Machine.execXlatq st t a b r w s
  | .trel st t => Sys2Proof.Machine.execTrel st t s
  | .tmov st t u => Sys2Proof.Machine.execTmov st t u s
  | .tsub st t u a => Sys2Proof.Machine.execTsub st t u a s
  | .tinfo st u a => Sys2Proof.Machine.execTinfo st u a s
  | .tchk st u a => Sys2Proof.Machine.execTchk st u a s
  | .look st d a => Sys2Proof.Machine.execLook st d a s
  | .dtag st a b => Sys2Proof.Machine.execDtag st a b s
  | .fork st a => Sys2Proof.Machine.execFork st a s
  | .rdv st => Sys2Proof.Machine.execRdv st s
  | .send st a b m => Sys2Proof.Machine.execSend st a b m s
  | .vfence st => Sys2Proof.Machine.execVfence st s
  | .rapp st a r => Sys2Proof.Machine.execRapp st a r s
  | .rappPair st a b r => Sys2Proof.Machine.execRappPair st a b r s
  | .post st n => Sys2Proof.Machine.execPost st n s
  | .waits st n => Sys2Proof.Machine.execWaits st n s
  | .mark st sc => Sys2Proof.Machine.execMark st sc s
  | .fence st k sc => Sys2Proof.Machine.execFence st k sc s
  | .bar st n => Sys2Proof.Machine.execBar st n s
  | .sacq st d n => Sys2Proof.Machine.execSacq st d n s
  | .scommit st n => Sys2Proof.Machine.execScommit st n s
  | .sawait st d n => Sys2Proof.Machine.execSawait st d n s
  | .srel st n => Sys2Proof.Machine.execSrel st n s
  | .jlaunch st d a => Sys2Proof.Machine.execJlaunch st d a s
  | .flushh st t a b => Sys2Proof.Machine.execFlushh st t a b s
  | .invh st t a b => Sys2Proof.Machine.execInvh st t a b s
  | .skipr st d a b => Sys2Proof.Machine.execSkipr st d a b s
  | .skipw st d a b => Sys2Proof.Machine.execSkipw st d a b s
  | .csrr st d c => Sys2Proof.Machine.execCsrr st d c s
  | .csrw st d a c => Sys2Proof.Machine.execCsrw st d a c s
  | .csrs st d a c => Sys2Proof.Machine.execCsrs st d a c s
  | .csrc st d a c => Sys2Proof.Machine.execCsrc st d a c s
  | .trap st code => Sys2Proof.Machine.execTrap st code s
  | .eret st => Sys2Proof.Machine.execEret st s
  | .halt st => Sys2Proof.Machine.execHalt st s
  | .wfi st => Sys2Proof.Machine.execWfi st s
  | .bkpt st => Sys2Proof.Machine.execBkpt st s
  | .vadd et st g d a b sat => Sys2Proof.Machine.execVadd et st g d a b sat s
  | .vsub et st g d a b sat => Sys2Proof.Machine.execVsub et st g d a b sat s
  | .vmul et st g d a b sat => Sys2Proof.Machine.execVmul et st g d a b sat s
  | .vfma et st g d a b sat => Sys2Proof.Machine.execVfma et st g d a b sat s
  | .vmin et st g d a b uns => Sys2Proof.Machine.execVmin et st g d a b uns s
  | .vmax et st g d a b uns => Sys2Proof.Machine.execVmax et st g d a b uns s
  | .vabs et st g d a sat => Sys2Proof.Machine.execVabs et st g d a sat s
  | .vneg et st g d a sat => Sys2Proof.Machine.execVneg et st g d a sat s
  | .vand et st g d a b => Sys2Proof.Machine.execVand et st g d a b s
  | .vor et st g d a b => Sys2Proof.Machine.execVor et st g d a b s
  | .vxor et st g d a b => Sys2Proof.Machine.execVxor et st g d a b s
  | .vshl et st g d a b => Sys2Proof.Machine.execVshl et st g d a b s
  | .vshr et st g d a b uns => Sys2Proof.Machine.execVshr et st g d a b uns s
  | .vcmp et st p k a b uns => Sys2Proof.Machine.execVcmp et st p k a b uns s
  | .vsel et st p d a b => Sys2Proof.Machine.execVsel et st p d a b s
  | .vmov et st g d a => Sys2Proof.Machine.execVmov et st g d a s
  | .vexp2 et st g d a => Sys2Proof.Machine.execVexp2 et st g d a s
  | .vlog2 et st g d a => Sys2Proof.Machine.execVlog2 et st g d a s
  | .vrcp et st g d a => Sys2Proof.Machine.execVrcp et st g d a s
  | .vrsq et st g d a => Sys2Proof.Machine.execVrsq et st g d a s
  | .vtanh et st g d a => Sys2Proof.Machine.execVtanh et st g d a s
  | .verf et st g d a => Sys2Proof.Machine.execVerf et st g d a s
  | .vcvt et st g d a y r sat => Sys2Proof.Machine.execVcvt et st g d a y r sat s
  | .vwid et st g d a y uns => Sys2Proof.Machine.execVwid et st g d a y uns s
  | .vnar et st g d a y r sat => Sys2Proof.Machine.execVnar et st g d a y r sat s
  | .vperm et st g d a b => Sys2Proof.Machine.execVperm et st g d a b s
  | .vzip et st g d a b => Sys2Proof.Machine.execVzip et st g d a b s
  | .vunz et st g d a b => Sys2Proof.Machine.execVunz et st g d a b s
  | .vred et st g d a f uns => Sys2Proof.Machine.execVred et st g d a f uns s
  | .vscan et st g d a f uns => Sys2Proof.Machine.execVscan et st g d a f uns s
  | .viota et st g d => Sys2Proof.Machine.execViota et st g d s
  | .vbcast et st g d b => Sys2Proof.Machine.execVbcast et st g d b s
  | .vaddi et st d imm => Sys2Proof.Machine.execVaddi et st d imm s
  | .vmuli et st d imm => Sys2Proof.Machine.execVmuli et st d imm s
  | .vmaxi et st d imm => Sys2Proof.Machine.execVmaxi et st d imm s
  | .vmini et st d imm => Sys2Proof.Machine.execVmini et st d imm s
  | .vmovi et st d imm => Sys2Proof.Machine.execVmovi et st d imm s
  | .vandi et st d imm => Sys2Proof.Machine.execVandi et st d imm s
  | .vshli et st d imm => Sys2Proof.Machine.execVshli et st d imm s
  | .vsubi et st d imm => Sys2Proof.Machine.execVsubi et st d imm s
  | .vld et st g d t o gauge raw => Sys2Proof.Machine.execVld et st g d t o gauge raw s
  | .vst et st g d t o raw => Sys2Proof.Machine.execVst et st g d t o raw s
  | .vlds et st g d b imm => Sys2Proof.Machine.execVlds et st g d b imm s
  | .vsts et st g d b imm => Sys2Proof.Machine.execVsts et st g d b imm s
  | .vgath et st g d t b elems => Sys2Proof.Machine.execVgath et st g d t b elems s
  | .vscat et st g d t b elems => Sys2Proof.Machine.execVscat et st g d t b elems s
  | .vslotAcq st d n => Sys2Proof.Machine.execVslotAcq st d n s
  | .vslotCommit st n => Sys2Proof.Machine.execVslotCommit st n s
  | .vslotAwait st d n => Sys2Proof.Machine.execVslotAwait st d n s
  | .vslotRel st n => Sys2Proof.Machine.execVslotRel st n s
  | .vsetfSetfmt st k => Sys2Proof.Machine.execVsetfSetfmt st k s
  | .vsetfSelpat st en k => Sys2Proof.Machine.execVsetfSelpat st en k s
  | .vsetfLdpat st h k => Sys2Proof.Machine.execVsetfLdpat st h k s
  | .pand st d a b => Sys2Proof.Machine.execPand st d a b s
  | .por st d a b => Sys2Proof.Machine.execPor st d a b s
  | .pxor st d a b => Sys2Proof.Machine.execPxor st d a b s
  | .pnot st d a => Sys2Proof.Machine.execPnot st d a s
  | .pcnt et st d a => Sys2Proof.Machine.execPcnt et st d a s
  | .pfirst et st d a => Sys2Proof.Machine.execPfirst et st d a s
  | .arecv st d m => Sys2Proof.Machine.execArecv st d m s
  | .aopImm f st d a imm => Sys2Proof.Machine.execAopImm f st d a imm s
  | .aopReg f st d a b => Sys2Proof.Machine.execAopReg f st d a b s
  | .vpost st n => Sys2Proof.Machine.execVpost st n s
  | .vwait st n => Sys2Proof.Machine.execVwait st n s
  | .vmark st sc => Sys2Proof.Machine.execVmark st sc s
  | .vloop st len count => Sys2Proof.Machine.execVloop st len count s
  | .vend => Sys2Proof.Machine.execVend s
  | .msync ws ss e => Sys2Proof.Machine.execMsync ws ss e s
  | .mma ws ss rl bank z ar br t nslab klast afmt bfmt et ua ub ck => Sys2Proof.Machine.execMma ws ss rl bank z ar br t nslab klast afmt bfmt et ua ub ck s
  | .mmap ws ss bank z ar br t nslab klast afmt bfmt et ua ub ck => Sys2Proof.Machine.execMmap ws ss bank z ar br t nslab klast afmt bfmt et ua ub ck s
  | .mzero ws ss rl bank => Sys2Proof.Machine.execMzero ws ss rl bank s
  | .mdrain ws ss rl bank ot r sk sat scale dest xf => Sys2Proof.Machine.execMdrain ws ss rl bank ot r sk sat scale dest xf s
  | .mldacc ws ss rl bank it src xf => Sys2Proof.Machine.execMldacc ws ss rl bank it src xf s
  | .mfmt ws ss entry src => Sys2Proof.Machine.execMfmt ws ss entry src s
  | .mloop len count => Sys2Proof.Machine.execMloop len count s
  | .mchk ws ss bank rep => Sys2Proof.Machine.execMchk ws ss bank rep s
  | .csync ws ss e => Sys2Proof.Machine.execCsync ws ss e s
  | .copy ws ss rl out t g ring off spa len j => Sys2Proof.Machine.execCopy ws ss rl out t g ring off spa len j s
  | .copyt ws ss rl tm ed sd => Sys2Proof.Machine.execCopyt ws ss rl tm ed sd s
  | .imwin ws ss rl t off spa p kw sx cg => Sys2Proof.Machine.execImwin ws ss rl t off spa p kw sx cg s
  | .gather ws ss rl t count idxa spa row => Sys2Proof.Machine.execGather ws ss rl t count idxa spa row s
  | .scatter ws ss rl t count idxa spa row => Sys2Proof.Machine.execScatter ws ss rl t count idxa spa row s
  | .fill ws ss rl w value spa len g ring => Sys2Proof.Machine.execFill ws ss rl w value spa len g ring s
  | .sketch ws ss rl et src logn dst => Sys2Proof.Machine.execSketch ws ss rl et src logn dst s
  | .pcopy ws ss out rank sib len own => Sys2Proof.Machine.execPcopy ws ss out rank sib len own s
  | .dvopen ws ss ch dev win => Sys2Proof.Machine.execDvopen ws ss ch dev win s
  | .dvw ws ss ch woff spa len => Sys2Proof.Machine.execDvw ws ss ch woff spa len s
  | .dvrel ws ss ch woff flag => Sys2Proof.Machine.execDvrel ws ss ch woff flag s
  | .dvshut ws ss ch => Sys2Proof.Machine.execDvshut ws ss ch s
  | .cloop len count => Sys2Proof.Machine.execCloop len count s
  | .cflush ws ss t inv off len => Sys2Proof.Machine.execCflush ws ss t inv off len s
  | .engineCommandIssue core eng => Sys2Proof.Machine.execEngineCommandIssue core eng s
  | .engineCommandComplete core eng => Sys2Proof.Machine.execEngineCommandComplete core eng s
  | .relocateTake core eng => Sys2Proof.Machine.execRelocateTake core eng s
  | .apertureCopyStart core chan => Sys2Proof.Machine.execApertureCopyStart core chan s
  | .streamWake core ag => Sys2Proof.Machine.execStreamWake core ag s
  | .takeAsyncTrap core => Sys2Proof.Machine.execTakeAsyncTrap core s
  | .replyResolved ix => Sys2Proof.Machine.execReplyResolved ix s
  | .replyDeclined ix => Sys2Proof.Machine.execReplyDeclined ix s
  | .replyNoframe ix => Sys2Proof.Machine.execReplyNoframe ix s
  | .replyNoframeOwn ix => Sys2Proof.Machine.execReplyNoframeOwn ix s
  | .pinwaitExpiry ix => Sys2Proof.Machine.execPinwaitExpiry ix s
  | .revokeUnmap rq => Sys2Proof.Machine.execRevokeUnmap rq s
  | .revokeMigrate rq => Sys2Proof.Machine.execRevokeMigrate rq s
  | .revokeDiscard rq => Sys2Proof.Machine.execRevokeDiscard rq s
  | .revokeAttribute rq => Sys2Proof.Machine.execRevokeAttribute rq s
  | .revocationSettled ix => Sys2Proof.Machine.execRevocationSettled ix s
  | .rewalkComplete core mte => Sys2Proof.Machine.execRewalkComplete core mte s
  | .migrationLinePull pair => Sys2Proof.Machine.execMigrationLinePull pair s
  | .tailWrite slot w => Sys2Proof.Machine.execTailWrite slot w s
  | .qcanWrite slot w => Sys2Proof.Machine.execQcanWrite slot w s
  | .clearOvr slot => Sys2Proof.Machine.execClearOvr slot s
  | .clearMal slot => Sys2Proof.Machine.execClearMal slot s
  | .clearXlf slot => Sys2Proof.Machine.execClearXlf slot s
  | .registerWrite off val => Sys2Proof.Machine.execRegisterWrite off val s
  | .hostBar2Access part off acc => Sys2Proof.Machine.execHostBar2Access part off acc s
  | .cxlMemAccess part off acc => Sys2Proof.Machine.execCxlMemAccess part off acc s
  | .packetJig slot => Sys2Proof.Machine.execPacketJig slot s
  | .packetGraph slot => Sys2Proof.Machine.execPacketGraph slot s
  | .packetCopy slot => Sys2Proof.Machine.execPacketCopy slot s
  | .packetCopyDone slot => Sys2Proof.Machine.execPacketCopyDone slot s
  | .packetSignal slot => Sys2Proof.Machine.execPacketSignal slot s
  | .packetWait slot => Sys2Proof.Machine.execPacketWait slot s
  | .dispatcherReread slot => Sys2Proof.Machine.execDispatcherReread slot s
  | .launchedTake slot => Sys2Proof.Machine.execLaunchedTake slot s
  | .stepHandout wk => Sys2Proof.Machine.execStepHandout wk s
  | .skipDecision wk => Sys2Proof.Machine.execSkipDecision wk s
  | .stepEnd core => Sys2Proof.Machine.execStepEnd core s
  | .tlimitExpiry core => Sys2Proof.Machine.execTlimitExpiry core s
  | .panelReserve wk => Sys2Proof.Machine.execPanelReserve wk s
  | .nodeReady gr node => Sys2Proof.Machine.execNodeReady gr node s
  | .nodeCond gr node => Sys2Proof.Machine.execNodeCond gr node s
  | .nodeHostring gr node => Sys2Proof.Machine.execNodeHostring gr node s
  | .hostringTimeExpiry ring => Sys2Proof.Machine.execHostringTimeExpiry ring s
  | .multiCommit gid => Sys2Proof.Machine.execMultiCommit gid s
  | .multiTimeout gid => Sys2Proof.Machine.execMultiTimeout gid s
  | .preemptRequest gang => Sys2Proof.Machine.execPreemptRequest gang s
  | .preemptSaveDone gang => Sys2Proof.Machine.execPreemptSaveDone gang s
  | .restoreRequest gang => Sys2Proof.Machine.execRestoreRequest gang s
  | .mapGang gang slots root part save => Sys2Proof.Machine.execMapGang gang slots root part save s
  | .unmapGang gang => Sys2Proof.Machine.execUnmapGang gang s
  | .setPartitions n => Sys2Proof.Machine.execSetPartitions n s
  | .bindDescriptor n gang image => Sys2Proof.Machine.execBindDescriptor n gang image s
  | .freeDescriptor n => Sys2Proof.Machine.execFreeDescriptor n s
  | .exportWindow win gang base len src anySrc => Sys2Proof.Machine.execExportWindow win gang base len src anySrc s
  | .loadKey slot key => Sys2Proof.Machine.execLoadKey slot key s
  | .govceilWrite half val => Sys2Proof.Machine.execGovceilWrite half val s
  | .govRampUp core => Sys2Proof.Machine.execGovRampUp core s
  | .govRampDown core => Sys2Proof.Machine.execGovRampDown core s
  | .rotationTestStart core => Sys2Proof.Machine.execRotationTestStart core s
  | .rotationTestPass core => Sys2Proof.Machine.execRotationTestPass core s
  | .rotationTestFail core => Sys2Proof.Machine.execRotationTestFail core s
  | .rotationDeadline core => Sys2Proof.Machine.execRotationDeadline core s
  | .dramUncorrectable addr => Sys2Proof.Machine.execDramUncorrectable addr s
  | .dramRowRemap addr => Sys2Proof.Machine.execDramRowRemap addr s
  | .poisonRecordThreshold => Sys2Proof.Machine.execPoisonRecordThreshold s
  | .sramUncorrectable core site => Sys2Proof.Machine.execSramUncorrectable core site s
  | .dispatcherMemError half => Sys2Proof.Machine.execDispatcherMemError half s
  | .structureCompare res => Sys2Proof.Machine.execStructureCompare res s
  | .dvRecvWrite pk => Sys2Proof.Machine.execDvRecvWrite pk s
  | .dvRecvRelease pk => Sys2Proof.Machine.execDvRecvRelease pk s
  | .dvRecvGap pk => Sys2Proof.Machine.execDvRecvGap pk s
  | .dvRecvBusy pk => Sys2Proof.Machine.execDvRecvBusy pk s
  | .dvBusyRestart gang ch => Sys2Proof.Machine.execDvBusyRestart gang ch s
  | .dvRecvOpen pk => Sys2Proof.Machine.execDvRecvOpen pk s
  | .dvRecvOpenack pk => Sys2Proof.Machine.execDvRecvOpenack pk s
  | .dvRecvShut pk => Sys2Proof.Machine.execDvRecvShut pk s
  | .dvRecvShutack pk => Sys2Proof.Machine.execDvRecvShutack pk s
  | .dvRecvFault pk => Sys2Proof.Machine.execDvRecvFault pk s
  | .dvRecvFaultack pk => Sys2Proof.Machine.execDvRecvFaultack pk s
  | .dvReleaseCopy gang ch => Sys2Proof.Machine.execDvReleaseCopy gang ch s
  | .dvTgapExpiry x => Sys2Proof.Machine.execDvTgapExpiry x s
  | .dvGapRepeat x => Sys2Proof.Machine.execDvGapRepeat x s
  | .dvReplayTimeout x => Sys2Proof.Machine.execDvReplayTimeout x s
  | .dvSettle gang ch => Sys2Proof.Machine.execDvSettle gang ch s
  | .dvControlResend own => Sys2Proof.Machine.execDvControlResend own s
  | .packetExpiry ix => Sys2Proof.Machine.execPacketExpiry ix s
  | .flitReceive port f ok => Sys2Proof.Machine.execFlitReceive port f ok s
  | .linkDown port => Sys2Proof.Machine.execLinkDown port s
  | .portTrained port => Sys2Proof.Machine.execPortTrained port s
  | .powerOn => Sys2Proof.Machine.execPowerOn s
  | .leaseN => Sys2Proof.Machine.execLeaseN s
  | .gate => Sys2Proof.Machine.execGate s
  | .setNonce nonce time => Sys2Proof.Machine.execSetNonce nonce time s
  | .readStatus => Sys2Proof.Machine.execReadStatus s
  | .readRecord => Sys2Proof.Machine.execReadRecord s
  | .scrubComplete res => Sys2Proof.Machine.execScrubComplete res s
  | .ldctlGo => Sys2Proof.Machine.execLdctlGo s
  | .liveLoad image versionOk => Sys2Proof.Machine.execLiveLoad image versionOk s
  | .extend n digest => Sys2Proof.Machine.execExtend n digest s
  | .benchHeartbeatTimeout => Sys2Proof.Machine.execBenchHeartbeatTimeout s
  | .getVersion tr rq => Sys2Proof.Machine.execGetVersion tr rq s
  | .getCapabilities tr rq => Sys2Proof.Machine.execGetCapabilities tr rq s
  | .negotiateAlgorithms tr rq => Sys2Proof.Machine.execNegotiateAlgorithms tr rq s
  | .getDigests tr rq => Sys2Proof.Machine.execGetDigests tr rq s
  | .getCertificate tr rq => Sys2Proof.Machine.execGetCertificate tr rq s
  | .challenge tr rq => Sys2Proof.Machine.execChallenge tr rq s
  | .getMeasurements tr rq => Sys2Proof.Machine.execGetMeasurements tr rq s
  | .spdmUnsupportedRequest tr rq => Sys2Proof.Machine.execSpdmUnsupportedRequest tr rq s
  | .dramTempThreshold half temp => Sys2Proof.Machine.execDramTempThreshold half temp s
  | .powerLoss => Sys2Proof.Machine.execPowerLoss s
  | .benchSramUncorrectable => Sys2Proof.Machine.execBenchSramUncorrectable s
  | .apertureCopyDone core chan => Sys2Proof.Machine.execApertureCopyDone core chan s
  | .predictedFrameConfirmed core => Sys2Proof.Machine.execPredictedFrameConfirmed core s
  | .storeVisible core ag => Sys2Proof.Machine.execStoreVisible core ag s
  | .msixVectorUnmask vec => Sys2Proof.Machine.execMsixVectorUnmask vec s

end Sys2Proof.Machine
end

