-- ==== Sys2Proof/Machine/Issue.lean ====
section
/-! DEFINITION. Issue: the stall counts and results of fixed latency (R11, R72-R77), and fetching the words of the S- and
V-streams (R14, R15, R53). -/

namespace Sys2Proof.Machine

open Sys2Proof

/-- An x register as one that may be waited for; x0 is constant. -/
def readX (n : XReg) : List RegRef := if n = 0#6 then [] else [.x n]

/-- A predicate register as one that may be waited for; p0 is constant. -/
def readP (n : PReg) : List RegRef := if n = 0#5 then [] else [.p n]

/-- An a-register as one that may be waited for; a0 is constant. -/
def readA (n : AReg) : List RegRef := if n = 0#4 then [] else [.a n]

/-- Bits of a container of an element type (R117); `fx4` says that FX names an entry of width 4. -/
def etBits (fx4 : Bool) : ETy → Nat
  | .si32 => 32
  | .fp32 => 32
  | .si16 => 16
  | .fp16 => 16
  | .bf16 => 16
  | .si8 => 8
  | .fx => if fx4 then 4 else 8
  | .si4 => 4

/-- The registers of a group between a wide and a narrow type (R51). -/
def groupOf (fx4 : Bool) (wide narrow : ETy) : Nat := max 1 (etBits fx4 wide / etBits fx4 narrow)

/-- The registers whose results an instruction reads (R11). -/
def readRegs (fx4 : Bool) : Instr → List RegRef
  | .add _ _ a b => readX a ++ readX b
  | .sub _ _ a b => readX a ++ readX b
  | .and _ _ a b => readX a ++ readX b
  | .or _ _ a b => readX a ++ readX b
  | .xor _ _ a b => readX a ++ readX b
  | .sll _ _ a b => readX a ++ readX b
  | .srl _ _ a b => readX a ++ readX b
  | .sra _ _ a b => readX a ++ readX b
  | .slt _ _ a b => readX a ++ readX b
  | .sltu _ _ a b => readX a ++ readX b
  | .seq _ _ a b => readX a ++ readX b
  | .min _ _ a b => readX a ++ readX b
  | .max _ _ a b => readX a ++ readX b
  | .minu _ _ a b => readX a ++ readX b
  | .maxu _ _ a b => readX a ++ readX b
  | .mul _ _ a b => readX a ++ readX b
  | .mulh _ _ a b => readX a ++ readX b
  | .mulhu _ _ a b => readX a ++ readX b
  | .div _ _ a b => readX a ++ readX b
  | .divu _ _ a b => readX a ++ readX b
  | .rem _ _ a b => readX a ++ readX b
  | .remu _ _ a b => readX a ++ readX b
  | .clz _ _ a => readX a
  | .popc _ _ a => readX a
  | .addi _ _ a _ => readX a
  | .andi _ _ a _ => readX a
  | .ori _ _ a _ => readX a
  | .xori _ _ a _ => readX a
  | .slli _ _ a _ => readX a
  | .srli _ _ a _ => readX a
  | .srai _ _ a _ => readX a
  | .slti _ _ a _ => readX a
  | .lis _ d _ => readX d
  | .fadd _ _ a b => readX a ++ readX b
  | .fsub _ _ a b => readX a ++ readX b
  | .fmul _ _ a b => readX a ++ readX b
  | .fdiv _ _ a b => readX a ++ readX b
  | .fmin _ _ a b => readX a ++ readX b
  | .fmax _ _ a b => readX a ++ readX b
  | .fsqrt _ _ a => readX a
  | .feq _ _ a b => readX a ++ readX b
  | .flt _ _ a b => readX a ++ readX b
  | .fle _ _ a b => readX a ++ readX b
  | .fcvtsw _ _ a => readX a
  | .fcvtws _ _ a => readX a
  | .fcvtbs _ _ a => readX a
  | .fcvtsb _ _ a => readX a
  | .fma _ d a b => readX d ++ readX a ++ readX b
  | .fms _ d a b => readX d ++ readX a ++ readX b
  | .fnma _ d a b => readX d ++ readX a ++ readX b
  | .beq _ a b _ => readX a ++ readX b
  | .bne _ a b _ => readX a ++ readX b
  | .blt _ a b _ => readX a ++ readX b
  | .bge _ a b _ => readX a ++ readX b
  | .bltu _ a b _ => readX a ++ readX b
  | .bgeu _ a b _ => readX a ++ readX b
  | .jalr _ _ a _ => readX a
  | .ldb _ _ _ o _ => readX o
  | .ldh _ _ _ o _ => readX o
  | .ldw _ _ _ o _ => readX o
  | .ldd _ _ _ o _ => readX o
  | .stb _ d _ o _ => readX d ++ readX o
  | .sth _ d _ o _ => readX d ++ readX o
  | .stw _ d _ o _ => readX d ++ readX o
  | .std _ d _ o _ => readX d ++ readX o
  | .amo _ d _ o _ _ _ => readX d ++ readX o
  | .cas _ d _ o _ => readX d ++ readX o ++ readX (d + 1#6)
  | .lds _ _ a _ => readX a
  | .sts _ d a _ => readX d ++ readX a
  | .sps _ d _ => readX d
  | .xlat _ _ a b _ _ => readX a ++ readX b
  | .xlatq _ _ a b _ _ => readX a ++ readX b
  | .tsub _ _ _ a => readX a ++ readX (a + 1#6)
  | .look _ _ a => readX a
  | .dtag _ a b => readX a ++ readX b
  | .fork _ a => readX a
  | .send _ a b _ => readX a ++ readX b
  | .rapp _ a _ => readX a
  | .rappPair _ a b _ => readX a ++ readX b
  | .jlaunch _ _ a => readX a
  | .flushh _ _ a b => readX a ++ readX b
  | .invh _ _ a b => readX a ++ readX b
  | .skipr _ _ a b => readX a ++ readX b
  | .skipw _ d a b => readX d ++ readX a ++ readX b
  | .csrw _ _ a _ => readX a
  | .csrs _ _ a _ => readX a
  | .csrc _ _ a _ => readX a
  | .vadd _ _ g _ a b _ => readP g ++ [.v a] ++ [.v b]
  | .vsub _ _ g _ a b _ => readP g ++ [.v a] ++ [.v b]
  | .vmul _ _ g _ a b _ => readP g ++ [.v a] ++ [.v b]
  | .vfma _ _ g d a b _ => readP g ++ [.v d] ++ [.v a] ++ [.v b]
  | .vmin _ _ g _ a b _ => readP g ++ [.v a] ++ [.v b]
  | .vmax _ _ g _ a b _ => readP g ++ [.v a] ++ [.v b]
  | .vabs _ _ g _ a _ => readP g ++ [.v a]
  | .vneg _ _ g _ a _ => readP g ++ [.v a]
  | .vand _ _ g _ a b => readP g ++ [.v a] ++ [.v b]
  | .vor _ _ g _ a b => readP g ++ [.v a] ++ [.v b]
  | .vxor _ _ g _ a b => readP g ++ [.v a] ++ [.v b]
  | .vshl _ _ g _ a b => readP g ++ [.v a] ++ [.v b]
  | .vshr _ _ g _ a b _ => readP g ++ [.v a] ++ [.v b]
  | .vcmp _ _ _ _ a b _ => [.v a] ++ [.v b]
  | .vsel _ _ p _ a b => readP p ++ [.v a] ++ [.v b]
  | .vmov _ _ g _ a => readP g ++ [.v a]
  | .vexp2 _ _ g _ a => readP g ++ [.v a]
  | .vlog2 _ _ g _ a => readP g ++ [.v a]
  | .vrcp _ _ g _ a => readP g ++ [.v a]
  | .vrsq _ _ g _ a => readP g ++ [.v a]
  | .vtanh _ _ g _ a => readP g ++ [.v a]
  | .verf _ _ g _ a => readP g ++ [.v a]
  | .vcvt _ _ g _ a _ _ _ => readP g ++ [.v a]
  | .vwid _ _ g _ a _ _ => readP g ++ [.v a]
  | .vnar et _ g _ a y _ _ => readP g ++ (List.range (groupOf fx4 et y)).map (fun k => RegRef.v (a + BitVec.ofNat 5 k))
  | .vperm _ _ g _ a b => readP g ++ [.v a] ++ [.v b]
  | .vzip _ _ g _ a b => readP g ++ [.v a] ++ [.v b]
  | .vunz _ _ g _ a b => readP g ++ [.v a] ++ [.v b]
  | .vred _ _ g _ a _ _ => readP g ++ [.v a]
  | .vscan _ _ g _ a _ _ => readP g ++ [.v a]
  | .viota _ _ g _ => readP g
  | .vbcast _ _ g _ b => readP g ++ readA b
  | .vaddi _ _ d _ => [.v d]
  | .vmuli _ _ d _ => [.v d]
  | .vmaxi _ _ d _ => [.v d]
  | .vmini _ _ d _ => [.v d]
  | .vandi _ _ d _ => [.v d]
  | .vshli _ _ d _ => [.v d]
  | .vsubi _ _ d _ => [.v d]
  | .vld _ _ g _ _ o _ _ => readP g ++ readA o
  | .vst _ _ g d _ o _ => readP g ++ [.v d] ++ readA o
  | .vlds _ _ g _ b _ => readP g ++ readA b
  | .vsts _ _ g d b _ => readP g ++ [.v d] ++ readA b
  | .vgath _ _ g _ _ b _ => readP g ++ [.v b]
  | .vscat _ _ g d _ b _ => readP g ++ [.v d] ++ [.v b]
  | .vsetfLdpat _ h _ => readA h
  | .pand _ _ a b => readP a ++ readP b
  | .por _ _ a b => readP a ++ readP b
  | .pxor _ _ a b => readP a ++ readP b
  | .pnot _ _ a => readP a
  | .pcnt _ _ _ a => readP a
  | .pfirst _ _ _ a => readP a
  | .aopImm _ _ _ a _ => readA a
  | .aopReg _ _ _ a b => readA a ++ readA b
  | _ => []

/-- The registers that an instruction writes (R73-R76). -/
def writeRegs (fx4 : Bool) : Instr → List RegRef
  | .add _ d _ _ => readX d
  | .sub _ d _ _ => readX d
  | .and _ d _ _ => readX d
  | .or _ d _ _ => readX d
  | .xor _ d _ _ => readX d
  | .sll _ d _ _ => readX d
  | .srl _ d _ _ => readX d
  | .sra _ d _ _ => readX d
  | .slt _ d _ _ => readX d
  | .sltu _ d _ _ => readX d
  | .seq _ d _ _ => readX d
  | .min _ d _ _ => readX d
  | .max _ d _ _ => readX d
  | .minu _ d _ _ => readX d
  | .maxu _ d _ _ => readX d
  | .mul _ d _ _ => readX d
  | .mulh _ d _ _ => readX d
  | .mulhu _ d _ _ => readX d
  | .div _ d _ _ => readX d
  | .divu _ d _ _ => readX d
  | .rem _ d _ _ => readX d
  | .remu _ d _ _ => readX d
  | .clz _ d _ => readX d
  | .popc _ d _ => readX d
  | .addi _ d _ _ => readX d
  | .andi _ d _ _ => readX d
  | .ori _ d _ _ => readX d
  | .xori _ d _ _ => readX d
  | .slli _ d _ _ => readX d
  | .srli _ d _ _ => readX d
  | .srai _ d _ _ => readX d
  | .slti _ d _ _ => readX d
  | .li _ d _ => readX d
  | .lis _ d _ => readX d
  | .fadd _ d _ _ => readX d
  | .fsub _ d _ _ => readX d
  | .fmul _ d _ _ => readX d
  | .fdiv _ d _ _ => readX d
  | .fmin _ d _ _ => readX d
  | .fmax _ d _ _ => readX d
  | .fsqrt _ d _ => readX d
  | .feq _ d _ _ => readX d
  | .flt _ d _ _ => readX d
  | .fle _ d _ _ => readX d
  | .fcvtsw _ d _ => readX d
  | .fcvtws _ d _ => readX d
  | .fcvtbs _ d _ => readX d
  | .fcvtsb _ d _ => readX d
  | .fma _ d _ _ => readX d
  | .fms _ d _ _ => readX d
  | .fnma _ d _ _ => readX d
  | .jal _ d _ => readX d
  | .jalr _ d _ _ => readX d
  | .ldb _ d _ _ _ => readX d
  | .ldh _ d _ _ _ => readX d
  | .ldw _ d _ _ _ => readX d
  | .ldd _ d _ _ _ => readX d
  | .amo _ d _ _ _ _ _ => readX d
  | .cas _ d _ _ _ => readX d
  | .lds _ d _ _ => readX d
  | .spl _ d _ => readX d
  | .tinfo _ _ a => readX a
  | .tchk _ _ a => readX a
  | .look _ d _ => readX d
  | .sacq _ d _ => readX d
  | .sawait _ d _ => readX d
  | .jlaunch _ d _ => readX d
  | .skipr _ d _ _ => readX d
  | .csrr _ d _ => readX d
  | .csrw _ d _ _ => readX d
  | .csrs _ d _ _ => readX d
  | .csrc _ d _ _ => readX d
  | .vadd _ _ _ d _ _ _ => [.v d]
  | .vsub _ _ _ d _ _ _ => [.v d]
  | .vmul _ _ _ d _ _ _ => [.v d]
  | .vfma _ _ _ d _ _ _ => [.v d]
  | .vmin _ _ _ d _ _ _ => [.v d]
  | .vmax _ _ _ d _ _ _ => [.v d]
  | .vabs _ _ _ d _ _ => [.v d]
  | .vneg _ _ _ d _ _ => [.v d]
  | .vand _ _ _ d _ _ => [.v d]
  | .vor _ _ _ d _ _ => [.v d]
  | .vxor _ _ _ d _ _ => [.v d]
  | .vshl _ _ _ d _ _ => [.v d]
  | .vshr _ _ _ d _ _ _ => [.v d]
  | .vcmp _ _ p _ _ _ _ => readP p
  | .vsel _ _ _ d _ _ => [.v d]
  | .vmov _ _ _ d _ => [.v d]
  | .vexp2 _ _ _ d _ => [.v d]
  | .vlog2 _ _ _ d _ => [.v d]
  | .vrcp _ _ _ d _ => [.v d]
  | .vrsq _ _ _ d _ => [.v d]
  | .vtanh _ _ _ d _ => [.v d]
  | .verf _ _ _ d _ => [.v d]
  | .vcvt _ _ _ d _ _ _ _ => [.v d]
  | .vwid et _ _ d _ y _ => (List.range (groupOf fx4 y et)).map (fun k => RegRef.v (d + BitVec.ofNat 5 k))
  | .vnar _ _ _ d _ _ _ _ => [.v d]
  | .vperm _ _ _ d _ _ => [.v d]
  | .vzip _ _ _ d _ _ => [.v d, .v (d + 1#5)]
  | .vunz _ _ _ d _ _ => [.v d, .v (d + 1#5)]
  | .vred _ _ _ d _ _ _ => [.v d]
  | .vscan _ _ _ d _ _ _ => [.v d]
  | .viota _ _ _ d => [.v d]
  | .vbcast _ _ _ d _ => [.v d]
  | .vaddi _ _ d _ => [.v d]
  | .vmuli _ _ d _ => [.v d]
  | .vmaxi _ _ d _ => [.v d]
  | .vmini _ _ d _ => [.v d]
  | .vmovi _ _ d _ => [.v d]
  | .vandi _ _ d _ => [.v d]
  | .vshli _ _ d _ => [.v d]
  | .vsubi _ _ d _ => [.v d]
  | .vld _ _ _ d _ _ _ _ => [.v d]
  | .vlds _ _ _ d _ _ => [.v d]
  | .vgath _ _ _ d _ _ _ => [.v d]
  | .vslotAcq _ d _ => readA d
  | .vslotAwait _ d _ => readA d
  | .pand _ d _ _ => readP d
  | .por _ d _ _ => readP d
  | .pxor _ d _ _ => readP d
  | .pnot _ d _ => readP d
  | .pcnt _ _ d _ => readA d
  | .pfirst _ _ d _ => readA d
  | .arecv _ d _ => readA d ++ readA (d + 1#4)
  | .aopImm _ _ d _ _ => readA d
  | .aopReg _ _ d _ _ => readA d
  | _ => []

/-- The registers an instruction writes with a fixed latency above 1, and that latency (R73, R74). -/
def latency : Instr → List RegRef × Nat
  | .mul _ d _ _ => (readX d, 3)
  | .mulh _ d _ _ => (readX d, 3)
  | .mulhu _ d _ _ => (readX d, 3)
  | .div _ d _ _ => (readX d, 18)
  | .divu _ d _ _ => (readX d, 18)
  | .rem _ d _ _ => (readX d, 18)
  | .remu _ d _ _ => (readX d, 18)
  | .fadd _ d _ _ => (readX d, 3)
  | .fsub _ d _ _ => (readX d, 3)
  | .fmul _ d _ _ => (readX d, 3)
  | .fdiv _ d _ _ => (readX d, 12)
  | .fmin _ d _ _ => (readX d, 3)
  | .fmax _ d _ _ => (readX d, 3)
  | .fsqrt _ d _ => (readX d, 12)
  | .feq _ d _ _ => (readX d, 3)
  | .flt _ d _ _ => (readX d, 3)
  | .fle _ d _ _ => (readX d, 3)
  | .fcvtsw _ d _ => (readX d, 3)
  | .fcvtws _ d _ => (readX d, 3)
  | .fcvtbs _ d _ => (readX d, 3)
  | .fcvtsb _ d _ => (readX d, 3)
  | .fma _ d _ _ => (readX d, 4)
  | .fms _ d _ _ => (readX d, 4)
  | .fnma _ d _ _ => (readX d, 4)
  | .vadd et _ _ d _ _ _ => ([.v d], if et.isInt then 2 else 4)
  | .vsub et _ _ d _ _ _ => ([.v d], if et.isInt then 2 else 4)
  | .vmul _ _ _ d _ _ _ => ([.v d], 4)
  | .vfma _ _ _ d _ _ _ => ([.v d], 4)
  | .vmin _ _ _ d _ _ _ => ([.v d], 2)
  | .vmax _ _ _ d _ _ _ => ([.v d], 2)
  | .vabs _ _ _ d _ _ => ([.v d], 2)
  | .vneg _ _ _ d _ _ => ([.v d], 2)
  | .vand _ _ _ d _ _ => ([.v d], 2)
  | .vor _ _ _ d _ _ => ([.v d], 2)
  | .vxor _ _ _ d _ _ => ([.v d], 2)
  | .vshl _ _ _ d _ _ => ([.v d], 2)
  | .vshr _ _ _ d _ _ _ => ([.v d], 2)
  | .vcmp _ _ p _ _ _ _ => (readP p, 2)
  | .vsel _ _ _ d _ _ => ([.v d], 2)
  | .vexp2 _ _ _ d _ => ([.v d], 8)
  | .vlog2 _ _ _ d _ => ([.v d], 8)
  | .vrcp _ _ _ d _ => ([.v d], 8)
  | .vrsq _ _ _ d _ => ([.v d], 8)
  | .vtanh _ _ _ d _ => ([.v d], 8)
  | .verf _ _ _ d _ => ([.v d], 8)
  | .vcvt _ _ _ d _ _ _ _ => ([.v d], 3)
  | .vwid et _ _ d _ y _ => ((List.range (groupOf false y et)).map (fun k => RegRef.v (d + BitVec.ofNat 5 k)), 3)
  | .vnar _ _ _ d _ _ _ _ => ([.v d], 3)
  | .vperm _ _ _ d _ _ => ([.v d], 3)
  | .vzip _ _ _ d _ _ => ([.v d, .v (d + 1#5)], 3)
  | .vunz _ _ _ d _ _ => ([.v d, .v (d + 1#5)], 3)
  | .vred _ _ _ d _ _ _ => ([.v d], 6)
  | .vscan _ _ _ d _ _ _ => ([.v d], 8)
  | .vbcast _ _ _ d _ => ([.v d], 2)
  | .vaddi et _ d _ => ([.v d], if et.isInt then 2 else 4)
  | .vmuli _ _ d _ => ([.v d], 4)
  | .vmaxi et _ d _ => ([.v d], if et.isInt then 2 else 4)
  | .vmini et _ d _ => ([.v d], if et.isInt then 2 else 4)
  | .vandi _ _ d _ => ([.v d], 2)
  | .vshli _ _ d _ => ([.v d], 2)
  | .vsubi et _ d _ => ([.v d], if et.isInt then 2 else 4)
  | .pcnt _ _ d _ => (readA d, 2)
  | .pfirst _ _ d _ => (readA d, 2)
  | _ => ([], 0)

/-- The stall count of a word (R54, R59). -/
def stallOf : Instr → Nat
  | .add st _ _ _ => st.toNat
  | .sub st _ _ _ => st.toNat
  | .and st _ _ _ => st.toNat
  | .or st _ _ _ => st.toNat
  | .xor st _ _ _ => st.toNat
  | .sll st _ _ _ => st.toNat
  | .srl st _ _ _ => st.toNat
  | .sra st _ _ _ => st.toNat
  | .slt st _ _ _ => st.toNat
  | .sltu st _ _ _ => st.toNat
  | .seq st _ _ _ => st.toNat
  | .min st _ _ _ => st.toNat
  | .max st _ _ _ => st.toNat
  | .minu st _ _ _ => st.toNat
  | .maxu st _ _ _ => st.toNat
  | .mul st _ _ _ => st.toNat
  | .mulh st _ _ _ => st.toNat
  | .mulhu st _ _ _ => st.toNat
  | .div st _ _ _ => st.toNat
  | .divu st _ _ _ => st.toNat
  | .rem st _ _ _ => st.toNat
  | .remu st _ _ _ => st.toNat
  | .clz st _ _ => st.toNat
  | .popc st _ _ => st.toNat
  | .addi st _ _ _ => st.toNat
  | .andi st _ _ _ => st.toNat
  | .ori st _ _ _ => st.toNat
  | .xori st _ _ _ => st.toNat
  | .slli st _ _ _ => st.toNat
  | .srli st _ _ _ => st.toNat
  | .srai st _ _ _ => st.toNat
  | .slti st _ _ _ => st.toNat
  | .li st _ _ => st.toNat
  | .lis st _ _ => st.toNat
  | .fadd st _ _ _ => st.toNat
  | .fsub st _ _ _ => st.toNat
  | .fmul st _ _ _ => st.toNat
  | .fdiv st _ _ _ => st.toNat
  | .fmin st _ _ _ => st.toNat
  | .fmax st _ _ _ => st.toNat
  | .fsqrt st _ _ => st.toNat
  | .feq st _ _ _ => st.toNat
  | .flt st _ _ _ => st.toNat
  | .fle st _ _ _ => st.toNat
  | .fcvtsw st _ _ => st.toNat
  | .fcvtws st _ _ => st.toNat
  | .fcvtbs st _ _ => st.toNat
  | .fcvtsb st _ _ => st.toNat
  | .fma st _ _ _ => st.toNat
  | .fms st _ _ _ => st.toNat
  | .fnma st _ _ _ => st.toNat
  | .beq st _ _ _ => st.toNat
  | .bne st _ _ _ => st.toNat
  | .blt st _ _ _ => st.toNat
  | .bge st _ _ _ => st.toNat
  | .bltu st _ _ _ => st.toNat
  | .bgeu st _ _ _ => st.toNat
  | .jal st _ _ => st.toNat
  | .jalr st _ _ _ => st.toNat
  | .ldb st _ _ _ _ => st.toNat
  | .ldh st _ _ _ _ => st.toNat
  | .ldw st _ _ _ _ => st.toNat
  | .ldd st _ _ _ _ => st.toNat
  | .stb st _ _ _ _ => st.toNat
  | .sth st _ _ _ _ => st.toNat
  | .stw st _ _ _ _ => st.toNat
  | .std st _ _ _ _ => st.toNat
  | .amo st _ _ _ _ _ _ => st.toNat
  | .cas st _ _ _ _ => st.toNat
  | .lds st _ _ _ => st.toNat
  | .sts st _ _ _ => st.toNat
  | .sps st _ _ => st.toNat
  | .spl st _ _ => st.toNat
  | .xlat st _ _ _ _ _ => st.toNat
  | .xlatq st _ _ _ _ _ => st.toNat
  | .trel st _ => st.toNat
  | .tmov st _ _ => st.toNat
  | .tsub st _ _ _ => st.toNat
  | .tinfo st _ _ => st.toNat
  | .tchk st _ _ => st.toNat
  | .look st _ _ => st.toNat
  | .dtag st _ _ => st.toNat
  | .fork st _ => st.toNat
  | .rdv st => st.toNat
  | .send st _ _ _ => st.toNat
  | .vfence st => st.toNat
  | .rapp st _ _ => st.toNat
  | .rappPair st _ _ _ => st.toNat
  | .post st _ => st.toNat
  | .waits st _ => st.toNat
  | .mark st _ => st.toNat
  | .fence st _ _ => st.toNat
  | .bar st _ => st.toNat
  | .sacq st _ _ => st.toNat
  | .scommit st _ => st.toNat
  | .sawait st _ _ => st.toNat
  | .srel st _ => st.toNat
  | .jlaunch st _ _ => st.toNat
  | .flushh st _ _ _ => st.toNat
  | .invh st _ _ _ => st.toNat
  | .skipr st _ _ _ => st.toNat
  | .skipw st _ _ _ => st.toNat
  | .csrr st _ _ => st.toNat
  | .csrw st _ _ _ => st.toNat
  | .csrs st _ _ _ => st.toNat
  | .csrc st _ _ _ => st.toNat
  | .trap st _ => st.toNat
  | .eret st => st.toNat
  | .halt st => st.toNat
  | .wfi st => st.toNat
  | .bkpt st => st.toNat
  | .vadd _ st _ _ _ _ _ => st.toNat
  | .vsub _ st _ _ _ _ _ => st.toNat
  | .vmul _ st _ _ _ _ _ => st.toNat
  | .vfma _ st _ _ _ _ _ => st.toNat
  | .vmin _ st _ _ _ _ _ => st.toNat
  | .vmax _ st _ _ _ _ _ => st.toNat
  | .vabs _ st _ _ _ _ => st.toNat
  | .vneg _ st _ _ _ _ => st.toNat
  | .vand _ st _ _ _ _ => st.toNat
  | .vor _ st _ _ _ _ => st.toNat
  | .vxor _ st _ _ _ _ => st.toNat
  | .vshl _ st _ _ _ _ => st.toNat
  | .vshr _ st _ _ _ _ _ => st.toNat
  | .vcmp _ st _ _ _ _ _ => st.toNat
  | .vsel _ st _ _ _ _ => st.toNat
  | .vmov _ st _ _ _ => st.toNat
  | .vexp2 _ st _ _ _ => st.toNat
  | .vlog2 _ st _ _ _ => st.toNat
  | .vrcp _ st _ _ _ => st.toNat
  | .vrsq _ st _ _ _ => st.toNat
  | .vtanh _ st _ _ _ => st.toNat
  | .verf _ st _ _ _ => st.toNat
  | .vcvt _ st _ _ _ _ _ _ => st.toNat
  | .vwid _ st _ _ _ _ _ => st.toNat
  | .vnar _ st _ _ _ _ _ _ => st.toNat
  | .vperm _ st _ _ _ _ => st.toNat
  | .vzip _ st _ _ _ _ => st.toNat
  | .vunz _ st _ _ _ _ => st.toNat
  | .vred _ st _ _ _ _ _ => st.toNat
  | .vscan _ st _ _ _ _ _ => st.toNat
  | .viota _ st _ _ => st.toNat
  | .vbcast _ st _ _ _ => st.toNat
  | .vaddi _ st _ _ => st.toNat
  | .vmuli _ st _ _ => st.toNat
  | .vmaxi _ st _ _ => st.toNat
  | .vmini _ st _ _ => st.toNat
  | .vmovi _ st _ _ => st.toNat
  | .vandi _ st _ _ => st.toNat
  | .vshli _ st _ _ => st.toNat
  | .vsubi _ st _ _ => st.toNat
  | .vld _ st _ _ _ _ _ _ => st.toNat
  | .vst _ st _ _ _ _ _ => st.toNat
  | .vlds _ st _ _ _ _ => st.toNat
  | .vsts _ st _ _ _ _ => st.toNat
  | .vgath _ st _ _ _ _ _ => st.toNat
  | .vscat _ st _ _ _ _ _ => st.toNat
  | .vslotAcq st _ _ => st.toNat
  | .vslotCommit st _ => st.toNat
  | .vslotAwait st _ _ => st.toNat
  | .vslotRel st _ => st.toNat
  | .vsetfSetfmt st _ => st.toNat
  | .vsetfSelpat st _ _ => st.toNat
  | .vsetfLdpat st _ _ => st.toNat
  | .pand st _ _ _ => st.toNat
  | .por st _ _ _ => st.toNat
  | .pxor st _ _ _ => st.toNat
  | .pnot st _ _ => st.toNat
  | .pcnt _ st _ _ => st.toNat
  | .pfirst _ st _ _ => st.toNat
  | .arecv st _ _ => st.toNat
  | .aopImm _ st _ _ _ => st.toNat
  | .aopReg _ st _ _ _ => st.toNat
  | .vpost st _ => st.toNat
  | .vwait st _ => st.toNat
  | .vmark st _ => st.toNat
  | .vloop st _ _ => st.toNat
  | _ => 0

/-- Whether an instruction reads a result that the stall counts do not cover (R11, R77). -/
def hazardHit (fx4 : Bool) (hs : List Hazard) (i : Instr) : Bool := hs.any (fun h => (readRegs fx4 i).contains h.reg)

/-- The predicate that governs which elements of its destination an instruction writes, with their type (R118). -/
def guardOf : Instr → Option (ETy × PReg)
  | .vadd et _ g _ _ _ _ => some (et, g)
  | .vsub et _ g _ _ _ _ => some (et, g)
  | .vmul et _ g _ _ _ _ => some (et, g)
  | .vfma et _ g _ _ _ _ => some (et, g)
  | .vmin et _ g _ _ _ _ => some (et, g)
  | .vmax et _ g _ _ _ _ => some (et, g)
  | .vabs et _ g _ _ _ => some (et, g)
  | .vneg et _ g _ _ _ => some (et, g)
  | .vand et _ g _ _ _ => some (et, g)
  | .vor et _ g _ _ _ => some (et, g)
  | .vxor et _ g _ _ _ => some (et, g)
  | .vshl et _ g _ _ _ => some (et, g)
  | .vshr et _ g _ _ _ _ => some (et, g)
  | .vmov et _ g _ _ => some (et, g)
  | .vexp2 et _ g _ _ => some (et, g)
  | .vlog2 et _ g _ _ => some (et, g)
  | .vrcp et _ g _ _ => some (et, g)
  | .vrsq et _ g _ _ => some (et, g)
  | .vtanh et _ g _ _ => some (et, g)
  | .verf et _ g _ _ => some (et, g)
  | .vcvt et _ g _ _ _ _ _ => some (et, g)
  | .vwid et _ g _ _ _ _ => some (et, g)
  | .vperm et _ g _ _ _ => some (et, g)
  | .vzip et _ g _ _ _ => some (et, g)
  | .vunz et _ g _ _ _ => some (et, g)
  | .vscan et _ g _ _ _ _ => some (et, g)
  | .viota et _ g _ => some (et, g)
  | .vbcast et _ g _ _ => some (et, g)
  | .vld et _ g _ _ _ _ _ => some (et, g)
  | .vlds et _ g _ _ _ => some (et, g)
  | .vnar _ _ g _ _ y _ _ => some (y, g)
  | _ => none

/-- Whether an instruction leaves nothing of what its destination registers held before (R12, R118, R134, R143). -/
def Core.writesAll (c : Core) (i : Instr) : Bool :=
  match i with
  | .vred .. => false
  | .vgath et _ g _ _ _ _ =>
    match c.etype et with
    | some t => decide (t.count ≤ 128) && (c.active t g).all (fun b => b)
    | none => true
  | i =>
    match guardOf i with
    | none => true
    | some (et, g) =>
      match c.etype et with
      | some t => (c.active t g).all (fun b => b)
      | none => true

/-- The results still to be covered after an instruction has issued (R11): each instruction counts one, the producer its
ST; a later write of the whole of a register, of whatever latency or tracked, replaces what is known of it (R75, R76), and one that
keeps elements of it does not (R12). -/
def nextHazards (fx4 all : Bool) (hs : List Hazard) (i : Instr) : List Hazard :=
  let r := latency i
  let w := writeRegs fx4 i
  let need := r.2 - 1 - stallOf i
  let old := hs.filterMap (fun h => if h.need ≤ 1 || (all && w.contains h.reg) then none else some ⟨h.reg, h.need - 1⟩)
  if need = 0 then old else old ++ r.1.map (fun x => ⟨x, need⟩)

/-- The element type code of a V word, where one decides alone whether it is legal (R39). -/
def wordEt : Instr → Option ETy
  | .vadd et _ _ _ _ _ _ => some et
  | .vsub et _ _ _ _ _ _ => some et
  | .vmul et _ _ _ _ _ _ => some et
  | .vfma et _ _ _ _ _ _ => some et
  | .vmin et _ _ _ _ _ _ => some et
  | .vmax et _ _ _ _ _ _ => some et
  | .vabs et _ _ _ _ _ => some et
  | .vneg et _ _ _ _ _ => some et
  | .vand et _ _ _ _ _ => some et
  | .vor et _ _ _ _ _ => some et
  | .vxor et _ _ _ _ _ => some et
  | .vshl et _ _ _ _ _ => some et
  | .vshr et _ _ _ _ _ _ => some et
  | .vcmp et _ _ _ _ _ _ => some et
  | .vsel et _ _ _ _ _ => some et
  | .vmov et _ _ _ _ => some et
  | .vexp2 et _ _ _ _ => some et
  | .vlog2 et _ _ _ _ => some et
  | .vrcp et _ _ _ _ => some et
  | .vrsq et _ _ _ _ => some et
  | .vtanh et _ _ _ _ => some et
  | .verf et _ _ _ _ => some et
  | .vperm et _ _ _ _ _ => some et
  | .vzip et _ _ _ _ _ => some et
  | .vunz et _ _ _ _ _ => some et
  | .vred et _ _ _ _ _ _ => some et
  | .vscan et _ _ _ _ _ _ => some et
  | .viota et _ _ _ => some et
  | .vbcast et _ _ _ _ => some et
  | .vaddi et _ _ _ => some et
  | .vmuli et _ _ _ => some et
  | .vmaxi et _ _ _ => some et
  | .vmini et _ _ _ => some et
  | .vmovi et _ _ _ => some et
  | .vandi et _ _ _ => some et
  | .vshli et _ _ _ => some et
  | .vsubi et _ _ _ => some et
  | .vld et _ _ _ _ _ _ _ => some et
  | .vst et _ _ _ _ _ _ => some et
  | .vlds et _ _ _ _ _ => some et
  | .vsts et _ _ _ _ _ => some et
  | .vgath et _ _ _ _ _ _ => some et
  | .vscat et _ _ _ _ _ _ => some et
  | .pcnt et _ _ _ => some et
  | .pfirst et _ _ _ => some et
  | _ => none

/-- Whether VFMT names an entry of width 4 (R117). -/
def Core.fx4 (c : Core) : Bool :=
  match c.etype .fx with
  | some t => t.four
  | none => false

/-- Whether a V word is illegal on this core before it reads any operand (R39, R51, R65, R127): FX names no FX entry, the pair
of a conversion is none of R127's, or its register group is misaligned. -/
def Core.wordIllegal (c : Core) (i : Instr) : Bool :=
  match i with
  | .vcvt et _ _ _ _ y _ _ =>
    match c.etype et, c.etype y with
    | some tx, some ty => !cvtPair et y tx ty
    | _, _ => true
  | .vwid et _ _ d _ y _ =>
    match c.etype et, c.etype y with
    | some tx, some _ => widPair et y tx == 0 || d.toNat % widPair et y tx != 0
    | _, _ => true
  | .vnar et _ _ _ a y _ _ =>
    match c.etype et, c.etype y with
    | some _, some ty => narPair et y ty == 0 || a.toNat % narPair et y ty != 0
    | _, _ => true
  | i =>
    match wordEt i with
    | some et => (c.etype et).isNone
    | none => false

/-- The S word at an address of instruction memory (R14, R53). -/
def Core.imemWord (c : Core) (a : Nat) : Nat := leNat (Sparse.getList 0 c.imem a 4)

/-- The S word at an address: in a task core's instruction memory, or in the SRAM of a Bench core's Bench (R22, R420). -/
def State.instrWord (s : State) (k a : Nat) : Nat :=
  if k < 256 then (s.core k).imemWord a
  else leNat (Sparse.getList 0 (if benchB k then s.bench.sramB else s.bench.sramA) a 4)

/-- The cycle in which a stream that is ready at cycle `ready` issues (R27, R72): the clock has gone on by a free value. -/
def State.issueAt (s : State) (ready : Nat) : Nat × State :=
  let r := s.draw
  let t := max (s.clock + r.1.toNat) ready
  (t, { r.2 with clock := t })

/-- The S-stream of the current core issues an instruction: the cycle, the stall count (R72) and the results of fixed latency. One
that waited has issued before. -/
def State.issueS (s : State) (i : Instr) : State :=
  let r := s.issueAt s.me.s.ready
  let s := r.2
  match s.me.s.st with
  | .waiting _ => s
  | _ => s.setMe (s.me.onS (fun t => { t with haz := nextHazards false true t.haz i, ready := r.1 + 1 + stallOf i }))

/-- The V-stream of the current core issues a word. -/
def State.issueV (s : State) (i : Instr) : State :=
  let r := s.issueAt s.me.v.ready
  let s := r.2
  if s.me.v.wait.isSome || s.me.v.cur.isSome then s
  else s.setMe (s.me.onV (fun v => { v with haz := nextHazards s.me.fx4 (s.me.writesAll i) v.haz i, ready := r.1 + 1 + stallOf i }))

/-- The registers whose value an access in a load queue has still to write (R75). -/
def LoadOp.dest : LoadOp → List RegRef
  | .load d _ => readX d
  | .sp d => readX d
  | .amo d .. => readX d
  | .cas d .. => readX d
  | .vld _ _ d .. => [.v d]
  | .vlds _ _ d .. => [.v d]
  | .vgath _ _ d .. => [.v d]
  | _ => []

/-- Whether an instruction reads or writes a register that an access in the load queue has still to write: the scoreboard holds it
(R75, R76, R251). So every later store follows that load, as R251
says; the outcome 'line 7 removed' of R262's second table does not occur in the model (log entry 118). -/
def pendingHit (fx4 : Bool) (ls : List QLoad) (i : Instr) : Bool :=
  let rs := readRegs fx4 i ++ writeRegs fx4 i
  ls.any (fun l => l.op.dest.any (fun r => rs.contains r))

/-- What the S-stream of a core does next. -/
inductive SNext where
  | nothing
  | loads
  | async
  | illegal
  | short
  | run (i : Instr)
  deriving DecidableEq, Repr

/-- Instructions that act on the device outside the core itself: on memory through tokens, on translations, on host lines, on launches
and on the skip map. -/
def touchesDevice : Instr → Bool
  | .ldb .. | .ldh .. | .ldw .. | .ldd .. | .stb .. | .sth .. | .stw .. | .std .. | .amo .. | .cas .. => true
  | .xlat .. | .xlatq .. | .flushh .. | .invh .. | .jlaunch .. | .skipr .. | .skipw .. => true
  | _ => false

/-- A core of the standby Bench, which touches no device state (R420, log entry 112): such an instruction waits there until its Bench is
active. -/
def State.keepsOff (s : State) (k : Nat) (i : Instr) : Bool :=
  decide (256 ≤ k) && benchB k != s.bench.activeB && touchesDevice i

/-- What the S-stream of core `k` does next (R57, R77, R197, R211, R344). -/
def State.nextS (s : State) (k : Nat) : SNext :=
  let c := s.core k
  if s.stalled k || (s.held k && !s.finishing k) then .nothing
  else
    let fetch := match decodeS (s.instrWord k c.s.pc.toNat) with
      | .error _ => .illegal
      | .ok i =>
        if s.keepsOff k i then .nothing
        else if pendingHit false c.s.loads i then .loads
        else if c.s.schk && c.s.st == .running && hazardHit false c.s.haz i then .short
        else .run i
    let pend := !c.s.inHandler && (c.s.pendLost || c.s.pendEng)
    match c.s.st with
    | .running => if pend then .async else fetch
    | .waiting w =>
      if !w.abandonable && (match w with
        | .chanRoom _ => false
        | _ => true) then .nothing
      else if pend && w.abandonable && !w.holds s k .s then .async
      else fetch
    | _ => .nothing

/-- What the V-stream of a core does next. -/
inductive VNext where
  | nothing
  | loads
  | skip
  | illegal
  | short
  | run (i : Instr)
  deriving DecidableEq, Repr

/-- What the V-stream of core `k` does next (R15, R65, R75, R77, R151, R344): a word that waits is the one decoded (R218). -/
def State.nextV (s : State) (k : Nat) : VNext :=
  let c := s.core k
  let g := c.v.eng
  if s.stalled k || s.held k || g.st != .running || g.laid == 0 then .nothing
  else match c.v.cur with
  | some i => .run i
  | none =>
    if 0 < g.skip then .skip
    else
      match decodeV (s.ringWord k .v g.rp) with
      | .error _ => .illegal
      | .ok i =>
        if c.wordIllegal i then .run i
        else if pendingHit c.fx4 c.v.loads i then .loads
        else if c.v.schk && hazardHit c.fx4 c.v.haz i then .short
        else .run i

/-- What an engine of core `k` does next: it goes on with the command in flight, with one taken from a sibling, or with
what stands in its ring; a driven stall wire starts nothing new (R154, R185, R344). -/
inductive ENext where
  | nothing
  | flight (i : Instr)
  | taken (j : Nat)
  | skip (n : Nat)
  | illegal (op : Nat) (ss : SemId)
  | run (i : Instr)
  deriving DecidableEq, Repr

/-- What an engine of core `k` does next. -/
def State.nextE (s : State) (k : Nat) (e : EngineSel) : ENext :=
  if s.held k then .nothing
  else match (s.core k).flight e with
  | some f => if f.st == .decoded && s.engineWaits k e then .nothing else .flight f.cmd
  | none =>
    match s.takenFrom k e with
    | some j => .taken j
    | none =>
      if s.engineWaits k e then .nothing
      else
        match s.startsCmd k e with
        | .nothing => .nothing
        | .skipped n => .skip n
        | .illegal op ss => .illegal op ss
        | .cmd i => .run i

end Sys2Proof.Machine
end

