-- ==== Sys2Proof/Machine/Turn.lean ====
section
/-! DEFINITION. One turn of a stream or an engine of the current core, and placing an instruction where it is fetched
next. -/

namespace Sys2Proof.Machine

open Sys2Proof

/-- A turn of the S-stream: a load whose register the next instruction needs performs first (R75). -/
def State.turnS (s : State) : Out :=
  match s.nextS s.curN with
  | .nothing => .next s
  | .loads => .next (s.runAll s.curN false .loads).1
  | .async => .next (s.asyncTrap s.curN)
  | .illegal => .next (s.trapMe causeIllegal 0)
  | .short => .next (s.trapMe causeStallShort 0)
  | .run i => exec i (s.issueS i)

/-- The token register that a V word reads (R18, R138). -/
def tokenRegV : Instr → Option TReg
  | .vld _ _ _ _ t _ _ _ => some t
  | .vst _ _ _ _ t _ _ => some t
  | .vgath _ _ _ _ t _ _ => some t
  | .vscat _ _ _ _ t _ _ => some t
  | _ => none

/-- After a V word: one that waits is kept as it was decoded, with the token it has read and a reference to it (R18, R218, R241,
R242); one that does not is done. -/
def State.keepWord (s : State) (i : Instr) : State :=
  match s.me.v.wait, s.me.v.cur with
  | some _, some _ => s
  | some _, none =>
    let t := (tokenRegV i).bind (fun r => s.me.tr r)
    (s.setMe (s.me.onV (fun v => { v with cur := some i, curTok := t }))).hold s.curN t
  | none, some _ => s.dropWord s.curN
  | none, none => s

/-- What follows a V word. -/
def keepAfter (i : Instr) (o : Out) : Out :=
  match o with
  | .next s => .next (s.keepWord i)
  | .fault f => .fault f
  | .refused r => .refused r

/-- A turn of the V-stream. -/
def State.turnV (s : State) : Out :=
  match s.nextV s.curN with
  | .nothing => .next s
  | .loads => .next (s.runAll s.curN true .loads).1
  | .skip => .next (s.setMe (s.me.onV (fun v => { v with eng := v.eng.skipOne 1 })))
  | .illegal => .next s.illegalV
  | .short => .next (s.setMe (s.me.stopV 3#8))
  | .run i => keepAfter i (exec i (s.issueV i))

/-- A turn of an engine; the copy engine with nothing to do runs its aperture channels. -/
def State.turnE (s : State) (e : EngineSel) : Out :=
  match s.nextE s.curN e with
  | .nothing => .next (if e == .c && !s.held s.curN then s.runApertures s.curN else s)
  | .flight i => exec i s
  | .taken j => .next (s.runTaken s.curN j e)
  | .skip n => .next (s.setMe (s.me.setEngine (ringOf e) ((s.me.engine (ringOf e)).skipOne n)))
  | .illegal op ss => .next (s.illegalCmd s.curN e op ss)
  | .run i => exec i s

/-- The agents of a core move in this order. -/
def agentAfter : Agent → Agent
  | .s => .v
  | .v => .m
  | .m => .c
  | .c => .s

/-- A turn of an agent of the current core (log entry 1); the next turn is the next agent's. -/
def State.turnOf (s : State) (g : Agent) : Out :=
  let s := { s with turn := agentAfter g }
  match g with
  | .s => s.turnS
  | .v => s.turnV
  | .m => s.turnE .m
  | .c => s.turnE .c

/-- The step that was to happen does not: it has met a line that may not be pulled yet (R357). -/
def State.passed (s : State) : State :=
  { s with
    agenda := s.agenda.drop 1
    turn := if s.agenda.isEmpty then agentAfter s.turn else s.turn
    mem := { s.mem with blocked := false } }

/-- What follows every step: the dispatchers observe the stores that have reached doorbell words (R315), and the revocation
requests that wait are taken up where they need wait no longer (R339, R355). A step that has met a line of a migrating page
that may not be pulled yet has not happened (R357). A double trap of the active Bench makes the standby take over (R421), and a
half that stays hot has its ceiling lowered again each 10 ms (R436). -/
def afterStep (before : State) (o : Out) : Out :=
  match o with
  | .next s =>
    let t := s.observe
    let t := (((State.pumpRequests t.bench.requests.length t).benchFail).coolDown false).coolDown true
    .next (if t.mem.blocked then before.passed else t)
  | .fault f => .fault f
  | .refused r => .refused r

/-- The oldest access in a load queue performs, where it can (R250). -/
def State.performNext (s : State) (k : Nat) (v : Bool) : State :=
  match s.performLoad k v with
  | .done s => s
  | .trapped s => s
  | .waits => s

/-- What the active Bench does: without one it does not happen (R279, R291, R328, R343, R348, R360, R403, R420, R422, R425,
R434). -/
def benchActs : Instr → Bool
  | .replyResolved _ | .replyDeclined _ | .replyNoframe _ | .replyNoframeOwn _ => true
  | .revokeUnmap _ | .revokeMigrate _ | .revokeDiscard _ | .revokeAttribute _ => true
  | .preemptRequest _ | .restoreRequest _ | .rotationDeadline _ => true
  | .mapGang _ _ _ _ _ | .unmapGang _ | .setPartitions _ => true
  | .bindDescriptor _ _ _ | .freeDescriptor _ | .exportWindow _ _ _ _ _ _ => true
  | .loadKey _ _ | .govceilWrite _ _ | .liveLoad _ _ | .extend _ _ => true
  | .structureCompare _ | .poisonRecordThreshold => true
  | _ => false

/-- What happens without power too: its return, its loss, and a host access that nothing answers (R427, R433). -/
def needsNoPower : Instr → Bool
  | .powerOn | .powerLoss | .hostBar2Access _ _ _ | .cxlMemAccess _ _ _ => true
  | _ => false

/-- What happens while a gate runs (R427, R428): the sideband, the pin, the host's accesses, SPDM requests, the scrub itself and
what the DRAM reports. -/
def inGate : Instr → Bool
  | .leaseN | .gate | .setNonce _ _ | .readStatus | .readRecord | .scrubComplete _ | .ldctlGo | .registerWrite _ _ => true
  | .getVersion _ _ | .getCapabilities _ _ | .negotiateAlgorithms _ _ | .getDigests _ _ | .getCertificate _ _ => true
  | .challenge _ _ | .getMeasurements _ _ | .spdmUnsupportedRequest _ _ => true
  | .dramTempThreshold _ _ | .dramUncorrectable _ | .dramRowRemap _ => true
  | i => needsNoPower i

/-- The part of the device that an event belongs to is in service (R420, R427, R433). -/
def State.serves (s : State) (i : Instr) : Bool :=
  if !s.power.on then needsNoPower i
  else if s.gateRuns then inGate i
  else s.benchRuns || !benchActs i

/-- What moves next moves (log entry 1): what the agenda names, else the turn of an agent of the current core. -/
def State.move (s : State) : Out :=
  match s.agenda with
  | [] => { s with lazy := false }.turnOf s.turn
  | .event i :: rest => if s.serves i then exec i { s with agenda := rest } else .next { s with agenda := rest }
  | .run k g n :: rest => { s with agenda := rest, cur := k, budget := n, lazy := false }.turnOf g
  | .lazy k g :: rest => { s with agenda := rest, cur := k, lazy := true }.turnOf g
  | .perform k v :: rest => .next ({ s with agenda := rest }.performNext k.toNat v)
  | .evict h a :: rest => .next ({ s with agenda := rest }.cache h a none)
  | .hostReg a :: rest => .next ({ s with agenda := rest }.readRegister a.toNat)
  | .barKey p q :: rest => .next (if s.benchRuns then { s with agenda := rest }.setBarKey p q else { s with agenda := rest })
  | .pinwait ms :: rest =>
    .next (if s.benchRuns then { s with agenda := rest }.setPinwait ms.toNat else { s with agenda := rest })
  | .journalArea b q :: rest =>
    .next (if s.benchRuns then { s with agenda := rest }.setJournalArea b q else { s with agenda := rest })
  | .table v bs :: rest =>
    .next (if s.benchRuns then { s with agenda := rest }.writeTable v bs else { s with agenda := rest })
  | .tgap us :: rest => .next (if s.benchRuns then { s with agenda := rest }.setTgap us.toNat else { s with agenda := rest })

/-- One move of the machine; LOADING may have ended by it (R427). -/
def State.moveNext (s : State) : Out := s.loadMaybe.move

/-- Ring position 0 of the place where a V word or a command is laid for withFetchWord. -/
def fetchBase : Nat := 0x1000

/-- Nothing holds the issue of the current core: no agenda, no standstill of the device, no stall wire, no test, no trap
pending, no unmet stall count. -/
def State.unheld (s : State) : State :=
  let k := s.curN
  let b := s.me.panelBase k
  let g := s.me.gangOf.toNat
  let ga : Gang := { s.gang g with preempting := false, restoring := false }
  let gate : GateSt := if s.gateRuns || s.plinth.gate == GateSt.loading then GateSt.running else s.plinth.gate
  let s : State := { s with
    agenda := []
    mem := { s.mem with blocked := false }
    disp := { s.disp with halted := false, gangs := Sparse.put {} s.disp.gangs g ga }
    power := { s.power with on := true, thermtrip := false }
    plinth := { s.plinth with gate := gate }
    bench := { s.bench with activeB := if s.curN < 256 then s.bench.activeB else benchB s.curN } }
  let s := s.setPanel b { s.panel b with stall := [] }
  s.onCore k (fun c => { c with
    testing := false
    step := c.step.map (fun (t : StepInfo) => { t with ended := none })
    s := { c.s with st := .running, pendLost := false, pendEng := false, schk := false, walk := none, loads := [], forkTab := none }
    v := { c.v with schk := false, wait := none, cur := none, curTok := none, loads := [] } })

/-- Lay an S word at the program counter. -/
def State.placeS (s : State) (w : Nat) : State :=
  let s := { s.unheld with turn := .s }
  let a := s.me.s.pc.toNat
  if s.curN < 256 then s.onCore s.curN (fun c => { c with imem := Sparse.putList 0 c.imem a (leBytes 4 w) })
  else
    let b := s.bench
    { s with bench :=
      if benchB s.curN then { b with sramB := Sparse.putList 0 b.sramB a (leBytes 4 w), runB := true }
      else { b with sramA := Sparse.putList 0 b.sramA a (leBytes 4 w), runA := true } }

/-- Lay `n` words in a ring of the current core, alone in it, and start its engine. -/
def State.placeRing (s : State) (r : RingSel) (n w : Nat) : State :=
  let s := s.unheld
  let s := { s with turn := agentOf r }
  let k := s.curN
  let s := s.rawPut (.sp k) fetchBase (clean (leBytes (4 * n) w))
  s.onCore k (fun c =>
    let c := { c with buffer := [] }
    let c := c.setEngine r { st := .running, base := fetchBase, size := 8, wp := n }
    match r with
    | .v => c
    | .m => c.onM (fun m => { m with flight := none, mmapOf := none, taken := [] })
    | .c => c.onC (fun t => { t with flight := none, taken := [] }))

/-- Lay an instruction of `nbits` bits where the current core fetches next: an S word, else a V word; an M command, else a C
command. -/
def State.place (s : State) (nbits w : Nat) : State :=
  if nbits ≤ 32 then
    match decodeS (w % 2 ^ 32) with
    | .ok _ => s.placeS (w % 2 ^ 32)
    | .error _ => s.placeRing .v 1 (w % 2 ^ 32)
  else if nbits ≤ 64 then
    match decodeM (w % 2 ^ 32) (w / 2 ^ 32 % 2 ^ 32) 0 with
    | .ok _ => s.placeRing .m 2 w
    | .error _ => s.placeRing .c 2 w
  else s.placeRing .c 3 w

end Sys2Proof.Machine
end

