-- ==== Sys2Proof/Machine/Step.lean ====
section
/-! DEFINITION. The step: what the agenda names, else the turn of an agent of the current core (log entry 1). -/

namespace Sys2Proof.Machine

open Sys2Proof

/-- One step. -/
def step (s : State) : Host.Outcome State Fault Refusal := afterStep s s.moveNext

/-- The state with an instruction stored where the next step fetches it. -/
def State.withFetchWord (s : State) (nbits w : Nat) : State := s.place nbits w

end Sys2Proof.Machine
end

