-- ==== Sys2Proof/Safety.lean ====
section
/-! DEFINITION. What a safe run is, and the terms in which claims say what an instruction does and what it leaves
alone. -/

namespace Sys2Proof

/-- The machine goes on from a state: its step answers a next state. -/
def GoesOn (s : Machine.State) : Prop := ∃ t, Machine.step s = .next t

/-- A run of `n` steps from `s` goes on throughout. -/
def SafeFor : Nat → Machine.State → Prop
  | 0, _ => True
  | n + 1, s => ∃ t, Machine.step s = .next t ∧ SafeFor n t

end Sys2Proof

namespace Sys2Proof.Machine

open Sys2Proof

/-- What an instruction does: it answers a next state, of which `P` holds. -/
def Does (i : Instr) (s : State) (P : State → Prop) : Prop := ∃ t, exec i s = .next t ∧ P t

/-- Nothing but cores differs between two states, and no core but `k`. -/
def OnlyCore (k : Nat) (s t : State) : Prop := t = { s with cores := t.cores } ∧ ∀ j, j ≠ k → t.core j = s.core j

/-- Nothing differs but the x registers, the program counter and the status of the current core's S-stream. -/
def OnlyX (s t : State) : Prop :=
  OnlyCore s.curN s t ∧
  t.me = { s.me with s := { s.me.s with x := t.me.s.x, pc := t.me.s.pc, st := t.me.s.st } }

/-- Nothing differs but what `OnlyX` allows and SST. -/
def OnlyXSst (s t : State) : Prop :=
  OnlyCore s.curN s t ∧
  t.me = { s.me with s := { s.me.s with x := t.me.s.x, pc := t.me.s.pc, st := t.me.s.st, sst := t.me.s.sst } }

/-- The x registers after a write of `d`: x0 goes on reading zero, every other register keeps its value (R17). -/
def XIs (d : XReg) (v : Word) (s t : State) : Prop := ∀ n, t.me.xr n = if n = d ∧ d ≠ 0#6 then v else s.me.xr n

/-- The S-stream goes on at the next word (R53). -/
def NextWord (s t : State) : Prop := t.me.s.pc = s.me.s.pc + 4#16 ∧ t.me.s.st = .running

/-- An instruction writes `v` to x(d), goes on at the next word and leaves all else alone. -/
def WritesX (i : Instr) (s : State) (d : XReg) (v : Word) : Prop :=
  Does i s (fun t => XIs d v s t ∧ NextWord s t ∧ OnlyX s t)

/-- The same for an instruction that also ORs flags into SST. -/
def WritesXSst (i : Instr) (s : State) (d : XReg) (v flags : Word) : Prop :=
  Does i s (fun t => XIs d v s t ∧ NextWord s t ∧ t.me.s.sst = s.me.s.sst ||| flags ∧ OnlyXSst s t)

/-- An instruction goes on at `target`, writes `v` to x(d) and leaves all else alone. -/
def JumpsTo (i : Instr) (s : State) (d : XReg) (v : Word) (target : BitVec 16) : Prop :=
  Does i s (fun t => XIs d v s t ∧ t.me.s.pc = target ∧ t.me.s.st = .running ∧ OnlyX s t)

/-- An instruction goes on at the next word and otherwise leaves what `f` makes of the current core. -/
def Retires (i : Instr) (s : State) (f : Core → Core) : Prop :=
  Does i s (fun t => OnlyCore s.curN s t ∧
    t.me = { f s.me with s := { (f s.me).s with pc := s.me.s.pc + 4#16, st := .running } })

/-- The S-stream waits at its instruction and nothing else changes (R197). -/
def Waits (i : Instr) (s : State) (w : WaitOn) : Prop :=
  Does i s (fun t => OnlyCore s.curN s t ∧ t.me = { s.me with s := { s.me.s with st := .waiting w } })

/-- A synchronous trap outside a handler (R209): the saved registers, the mode, the handler's address, and nothing
else. -/
def Traps (i : Instr) (s : State) (cause : Nat) (tval : Word) : Prop :=
  Does i s (fun t => OnlyCore s.curN s t ∧
    t.me = { s.me with s := { s.me.s with
      tepc := s.me.s.pc.setWidth 64 ||| (if s.me.s.mode = .user then 1#64 else 0#64)
      tcause := BitVec.ofNat 64 cause
      tval := tval
      mode := .supervisor
      inHandler := true
      pc := s.me.s.tvec.setWidth 16 &&& 0xFFFC#16
      st := .running
      forkTab := none } })

/-- Every block of a run of device memory reads as it lies through a key slot: it is under the slot's key, or under none (R339). -/
def Keyed (s : State) (slot : Option (BitVec 13)) (pa n : Nat) : Prop :=
  ∀ q, pa / 16 ≤ q → 16 * q < pa + n → s.mem.dev.tag q = none ∨ s.mem.dev.tag q = s.keyIn slot

/-- `n` bytes at offset `off` of an entry lie together in device memory at `pa`, in one unit that is not discarded, and an
access of kind `b` may reach them (R93, R239) and reads them under their key; no migration is under way. -/
def Reaches (s : State) (m : Mte) (b : MaskBit) (r w : Bool) (off n pa : Nat) : Prop :=
  m.st = .live ∧ m.pred = false ∧ m.may b r w = true ∧ 0 < n ∧ off + n ≤ m.len ∧ m.len ≤ 2 ^ 32 ∧
  (m.vbase + off) % 65536 + n ≤ 65536 ∧ s.mem.mig = [] ∧
  (∃ q i, runAt m.runs ((m.vbase + off) / 65536 - m.vbase / 65536) = some (q, i) ∧ q.host = false ∧
    (s.clampAt false (q.frame.toNat + i)).dsc = false ∧
    pa = (q.frame.toNat + i) * 65536 + (m.vbase + off) % 65536) ∧
  0 < m.refs ∧ (r = true → Keyed s (m.keyAt off) pa n)

/-- No byte of a run of device memory is poisoned, and its check values are right (R397). -/
def CleanAt (s : State) (pa n : Nat) : Prop :=
  s.mem.dev.bad pa n = [] ∧ ∀ i, i < n → Sparse.get false s.mem.dev.pois (pa + i) = false

/-- No page migrates whose old unit has not been revoked everywhere, so that no access waits for a line (R356). -/
def Still (s : State) : Prop := ∀ p, p ∈ s.mem.mig → p.settled = true

/-- Neither a core nor the base core of its panel runs a copy of a step that is run twice (R283). -/
def NoTwin (s : State) (k : Nat) : Prop :=
  ∀ j, j = k ∨ j = (s.core k).panelBase k → ∀ w, (s.core j).step = some w → w.twin = .none

/-- Every store of a core, and of its panel, is visible to the device (R249). -/
def NoBuffer (s : State) (k : Nat) : Prop :=
  (s.core k).buffer = [] ∧ ((s.core k).panel.size ≠ 0#5 → (s.panel ((s.core k).panelBase k)).buffer = [])

/-- The queues of a core's S-stream, or with `v` of its V-stream, are empty, and its loads perform as they issue, which they may
(R250, log entry 24). -/
def Prompt (s : State) (k : Nat) (v : Bool) : Prop :=
  s.lazy = false ∧ (s.core k).loadsOf v = [] ∧ (s.core k).storesOf v = []

/-- No scratchpad store of a stream that stands in its queue meets `n` bytes at an address (R250). -/
def NoSpStore (s : State) (v : Bool) (a n : Nat) : Prop :=
  ∀ q, q ∈ s.me.storesOf v → q.via = none → (s.me.storeRuns q).any (fun r => runsMeet (a, n) r) = false

/-- No access of a core waits to perform or to become visible, and no twin copy runs on it. -/
def Quiet (s : State) (k : Nat) : Prop := Prompt s k false ∧ Prompt s k true ∧ NoBuffer s k ∧ NoTwin s k

/-- The entries of the mortise table of the current core, after a V access through `tok` has issued and holds it (R241). -/
def HoldsTok (s t : State) (tok : Option Tok) : Prop :=
  ∀ j, t.me.mte j =
    if tok.map (fun x => x.idx.toNat) = some j then { s.me.mte j with refs := (s.me.mte j).refs + 1 } else s.me.mte j

/-- Nothing differs but what a load, store or atomic of the S-stream that has performed may change: the x registers, the program
counter and the status, SST, the stores at core scope, and its place in the order of accesses. -/
def OnlyAccess (s t : State) : Prop :=
  OnlyCore s.curN s t ∧
  t.me = { s.me with
    buffer := t.me.buffer
    s := { s.me.s with x := t.me.s.x, pc := t.me.s.pc, st := t.me.s.st, sst := t.me.s.sst, seq := s.me.s.seq + 1 } }

/-- A load or atomic has performed: `v` in x(d), flags in SST, on at the next word, and nothing else. -/
def LoadsX (i : Instr) (s : State) (d : XReg) (v flags : Word) : Prop :=
  Does i s (fun t => XIs d v s t ∧ NextWord s t ∧ t.me.s.sst = s.me.s.sst ||| flags ∧ t.me.buffer = s.me.buffer ∧
    OnlyAccess s t)

/-- A load or atomic of the S-stream has met a poisoned byte (R95): a trap outside a handler, with no result; `r` is the state after
the bytes have been read. -/
def TrapsPoison (i : Instr) (s r : State) : Prop :=
  Does i s (fun t => (∀ n, t.me.xr n = s.me.xr n) ∧ t.me.s.tcause = 10 ∧ t.me.s.tval = 0 ∧
    t.me.s.tepc = s.me.s.pc.setWidth 64 ||| (if s.me.s.mode = .user then 1#64 else 0#64) ∧
    t.me.s.mode = .supervisor ∧ t.me.s.inHandler = true ∧ t.me.s.pc = s.me.s.tvec.setWidth 16 &&& 0xFFFC#16 ∧
    t.me.s.st = .running ∧ t.me.s.sst = s.me.s.sst ∧ t.me.s.loads = [] ∧ t.me.s.queue = s.me.s.queue ∧
    t.me.buffer = s.me.buffer ∧ t.me.mtes = s.me.mtes ∧ OnlyCore s.curN r t)

/-- No access in the queues of the S-stream goes through a token (log entry 36). -/
def Unused (s : State) (tok : Option Tok) : Prop :=
  tok = none ∨ ((∀ l, l ∈ s.me.s.loads → l.tok ≠ tok) ∧ ∀ q, q ∈ s.me.s.queue → q.via ≠ tok)

/-- An entry of the load queue of the S-stream is complete as an instruction and stands there; nothing else changes (R75, R93). -/
def EntersLoad (i : Instr) (s : State) (l : QLoad) : Prop :=
  Does i s (fun t => OnlyCore s.curN s t ∧
    t.me = { s.me with
      s := { s.me.s with
        pc := s.me.s.pc + 4#16
        st := .running
        loads := s.me.s.loads ++ [{ l with pc := s.me.s.pc, seq := s.me.s.seq }]
        seq := s.me.s.seq + 1 } })

/-- An entry of the store queue of the S-stream is complete as an instruction and stands there; SST takes flags, and nothing else
changes (R93, R94). -/
def EntersStore (i : Instr) (s : State) (q : QStore) (flags : Word) : Prop :=
  Does i s (fun t => OnlyCore s.curN s t ∧
    t.me = { s.me with
      s := { s.me.s with
        pc := s.me.s.pc + 4#16
        st := .running
        sst := s.me.s.sst ||| flags
        queue := s.me.s.queue ++ [{ q with seq := s.me.s.seq }]
        seq := s.me.s.seq + 1 } })

/-- What a V load leaves: what `f` makes of the current core of `r`, which is the state after the reads, the next word, a place in
the order of accesses, and nothing else. -/
def LoadsV (s r : State) (f : Core → Core) (u : State) : Prop :=
  OnlyCore s.curN r u ∧ (∀ j, u.me.mte j = s.me.mte j) ∧
  u.me = { f r.me with
    mtes := u.me.mtes
    v := { (f r.me).v with eng := s.me.v.eng.advance 1, wait := none, seq := s.me.v.seq + 1 } }

/-- A V load that has performed changes nothing but the register `d`, its place in the order of accesses, and goes on. -/
def OnlyLoadV (s u : State) (d : VReg) : Prop :=
  OnlyCore s.curN s u ∧ (∀ j, u.me.mte j = s.me.mte j) ∧
  (∀ r, r ≠ d → u.me.vr r = s.me.vr r ∧ u.me.vpois r = s.me.vpois r) ∧
  u.me = { s.me with
    mtes := u.me.mtes
    v := { s.me.v with
      v := u.me.v.v, vp := u.me.v.vp, eng := s.me.v.eng.advance 1, wait := none, seq := s.me.v.seq + 1 } }

/-- A V store stands in its store queue: the next word, the stores given, their token's reference, and nothing else (R144). -/
def EntersStoreV (s : State) (q : QStore) (u : State) : Prop :=
  OnlyCore s.curN s u ∧ HoldsTok s u q.via ∧
  u.me = { s.me with
    mtes := u.me.mtes
    v := { s.me.v with
      eng := s.me.v.eng.advance 1
      wait := none
      queue := s.me.v.queue ++ [{ q with seq := s.me.v.seq }]
      seq := s.me.v.seq + 1 } }

/-- A V word is complete and stands in its load queue (R144). -/
def EntersLoadV (i : Instr) (s : State) (l : QLoad) : Prop :=
  Does i s (fun u => OnlyCore s.curN s u ∧ HoldsTok s u l.tok ∧
    u.me = { s.me with
      mtes := u.me.mtes
      v := { s.me.v with
        eng := s.me.v.eng.advance 1
        wait := none
        loads := s.me.v.loads ++ [{ l with pc := s.me.s.pc, seq := s.me.v.seq, word := some s.me.v.eng }]
        seq := s.me.v.seq + 1 } })

/-- Whether an entry of a store queue is a store through a token (R94, R140, R143). -/
def StoreOp.tokened : StoreOp → Bool
  | .bytes .. => true
  | .vec .. => true
  | _ => false

/-- The parts of a queued store: those it carries, or where its token now finds its bytes (R93, R249). -/
def State.partsOf (s : State) (k : Nat) (v : Bool) (q : QStore) : List Seg :=
  let c := s.core k
  let d := c.storeBytes q
  match q.op with
  | .segs gs => gs
  | _ =>
    match s.access k q.via (if v then .v else .s) false true d.2.2 with
    | .live ps => ps.filterMap (fun p => match p.loc with
      | .at e a => some ⟨e, a, (c.mteOf q.via).vbase + p.off, p.off, (d.1.drop p.pos).take p.n, (d.2.1.drop p.pos).take p.n, p.key⟩
      | _ => none)
    | _ => []

/-- A queued store as it stands at core scope (R249). -/
def State.shown (s : State) (k : Nat) (v : Bool) (q : QStore) : VisStore := ⟨s.partsOf k v q, if v then .v else .s⟩

/-- A queued store may become visible at core scope as it stands: it has parts in memory or scratchpad alone, and one through a token
is not held and loses no byte (R93, R249). -/
def Leaves (s : State) (k : Nat) (v : Bool) (q : QStore) : Prop :=
  s.partsOf k v q ≠ [] ∧ (∀ g, g ∈ s.partsOf k v q → (∀ j, g.site ≠ .spill j) ∧ ∀ j, g.site ≠ .tmpl j) ∧
  if q.via = none then ∃ gs, q.op = .segs gs
  else q.op.tokened = true ∧ ∃ ps,
    s.access k q.via (if v then .v else .s) false true ((s.core k).storeBytes q).2.2 = .live ps ∧ anyOut ps = false ∧
    ∀ p, p ∈ ps → p.loc ≠ .dsc

/-- No earlier load of a stream stands in its queue, and every store there may become visible at core scope; the tokens of those of the
V-stream have holders beside the queue (R93, R241, R250). -/
def Ready (s : State) (k : Nat) (v : Bool) : Prop :=
  let c := s.core k
  c.loadsOf v = [] ∧ ∀ q, q ∈ c.storesOf v → q.seq < c.seqOf v ∧ Leaves s k v q ∧
    (v = true → ∀ x, q.via = some x →
      c.v.queue.countP (fun p => p.via.map (fun y => y.idx) == some x.idx) < (c.mteOf q.via).refs)

/-- The oldest store of a stream is held by its token, and no load stands before it: a release waits for it (R93, R197). -/
def Stuck (s : State) (k : Nat) (v : Bool) : Prop :=
  let c := s.core k
  c.loadsOf v = [] ∧ ∃ q qs, c.storesOf v = q :: qs ∧ q.op.tokened = true ∧ q.seq < c.seqOf v ∧ (c.mteOf q.via).st = .stale

/-- No device-side copy holds a store of the current core, and none of its stores goes to a host page: a release at .Y has no line to
wait for (R252, R256). -/
def NoHost (s : State) (qs : List VisStore) : Prop :=
  let c := s.me
  let shared := if c.panel.size = 0#5 then [] else (s.panel (c.panelBase s.curN)).buffer.map (fun x => x.2)
  s.unwritten s.curN = false ∧ ∀ q, q ∈ shared ++ c.buffer ++ qs → ∀ g, g ∈ q.segs → g.site ≠ .host

/-- The stores of a stream's queue as they stand at core scope, in their order. -/
def State.queueShown (s : State) (v : Bool) : List VisStore := (s.me.storesOf v).map (fun q => s.shown s.curN v q)

/-- The mortise table of the current core after V stores have left their queue: each has given its token's reference up (R241). -/
def GivenUp (s t : State) (qs : List QStore) : Prop :=
  ∀ j, t.me.mte j =
    { s.me.mte j with refs := (s.me.mte j).refs - qs.countP (fun q => q.via.map (fun x => x.idx.toNat) == some j) }

/-- The bytes of a run of device memory. -/
def State.devBytes (s : State) (pa n : Nat) : List Byte := (List.range n).map (fun i => Sparse.get 0 s.mem.dev.bytes (pa + i))

/-- The bytes of a site after stores are performed in order (R249), as a function of the address. -/
def siteAfter (e : Site) (qs : List VisStore) (f : Nat → Byte) : Nat → Byte :=
  (qs.flatMap (fun q => q.segs)).foldl (fun f g a =>
    if g.site = e ∧ g.addr ≤ a ∧ a < g.addr + g.data.length then (g.data.getD (a - g.addr) (0, false)).1 else f a) f

/-- The bytes of device memory after stores are performed in order. -/
def devAfter (qs : List VisStore) (f : Nat → Byte) : Nat → Byte := siteAfter .dev qs f

/-- The byte of a site as the agents of a core see it: under the stores visible in its panel, and those visible in the core (R249). -/
def State.sees (s : State) (k : Nat) (e : Site) (a : Nat) : Byte :=
  let c := s.core k
  let shared := if c.panel.size = 0#5 then [] else (s.panel (c.panelBase k)).buffer.map (fun x => x.2)
  siteAfter e (shared ++ c.buffer) (fun a => Sparse.get 0 (s.storeOf e).bytes a) a

/-- The bytes of a run of its own scratchpad as the agents of the current core see them. -/
def State.spSeen (s : State) (a n : Nat) : List Byte := (List.range n).map (fun i => s.sees s.curN (.sp s.curN) (a + i))

/-- Stores whose bytes are whole, and of which no two meet a block of device memory under different keys, nor a block that lies
under another (R339). -/
def OneKey (s : State) (qs : List VisStore) : Prop :=
  let gs := qs.flatMap (fun q => q.segs)
  ∀ g, g ∈ gs → g.mask = [] ∧ (g.site = .dev → Keyed s g.key g.addr g.data.length ∧
    ∀ h, h ∈ gs → h.site = .dev → ∀ q, g.addr / 16 ≤ q → 16 * q < g.addr + g.data.length →
      h.addr / 16 ≤ q → 16 * q < h.addr + h.data.length → s.keyIn h.key = s.keyIn g.key)

/-- Device memory by address. -/
def State.dev (s : State) (a : Nat) : Byte := Sparse.get 0 s.mem.dev.bytes a

/-- Where the stores of a core stand after a release at a scope for which `qs` came before it: at core scope, at panel scope, or in
memory, performed in their order (R249, R252). -/
def Widened (s t : State) (sc : Scope) (qs : List VisStore) : Prop :=
  let c := s.me
  let b := c.panelBase s.curN
  let own := c.buffer ++ qs
  let shared := if c.panel.size = 0#5 then [] else (s.panel b).buffer
  if sc = .core ∨ (sc = .panel ∧ c.panel.size = 0#5) then t.mem = s.mem ∧ t.panels = s.panels ∧ t.me.buffer = own
  else if sc = .panel then t.mem = s.mem ∧ t.me.buffer = [] ∧
    ∀ j, t.panel j = if j = b then { s.panel b with buffer := shared ++ own.map (fun q => (s.curN, q)) } else s.panel j
  else t.me.buffer = [] ∧ (c.panel.size ≠ 0#5 → (t.panel b).buffer = []) ∧
    (s.mem.mig = [] → NoTwin s s.curN → (∀ e, e ∈ shared → NoTwin s e.1) → OneKey s (shared.map (fun e => e.2) ++ own) →
      ∀ a, t.dev a = devAfter (shared.map (fun e => e.2) ++ own) s.dev a)

/-- Element `i` of a v register, in containers of a type (R117). -/
def Core.elAt (c : Core) (t : ElType) (r : VReg) (i : Nat) : Nat := ((c.vr r).extractLsb' (t.cont * i) t.cont).toNat

/-- Whether the sector of element `i` of a v register is marked poisoned (R119). -/
def Core.elPois (c : Core) (t : ElType) (r : VReg) (i : Nat) : Bool := (c.vpois r).getLsbD (i * t.cont / 256)

/-- Register `d` after a write of the elements in `act`: their values, the others as before, and the marks of R119. -/
def ElementsAre (s u : State) (t : ElType) (d : VReg) (act : Nat → Prop) (val : Nat → Nat) (pois : Nat → Bool) : Prop :=
  (∀ j, j < t.count → act j → u.me.elAt t d j = val j % 2 ^ t.cont) ∧
  (∀ j, j < t.count → ¬ act j → u.me.elAt t d j = s.me.elAt t d j) ∧
  (∀ q, q < 16 →
    ((∃ j, j < t.count ∧ j * t.cont / 256 = q ∧ act j ∧ pois j) → (u.me.vpois d).getLsbD q = true) ∧
    (¬ (∃ j, j < t.count ∧ j * t.cont / 256 = q ∧ act j ∧ pois j) →
      ((∀ j, j < t.count → j * t.cont / 256 = q → act j) → (u.me.vpois d).getLsbD q = false) ∧
      (¬ (∀ j, j < t.count → j * t.cont / 256 = q → act j) →
        (u.me.vpois d).getLsbD q = (s.me.vpois d).getLsbD q)))

/-- Parts of a store that hold exactly the bytes `j` below 512 for which `act j` holds, at `base + j` of a site, whole (R140, R142). -/
def Covers (segs : List Seg) (site : Site) (base : Nat) (act : Nat → Prop) (byte : Nat → Byte × Bool) : Prop :=
  (∀ x, x ∈ segs → x.site = site ∧ ∀ b, b ∈ x.mask → b = 0xFF#8) ∧
  ∀ j, j < 512 →
    (act j → ∃ x, x ∈ segs ∧ x.addr ≤ base + j ∧ base + j < x.addr + x.data.length ∧
      x.data.getD (base + j - x.addr) (0, false) = byte j) ∧
    (¬ act j → ∀ x, x ∈ segs → ¬ (x.addr ≤ base + j ∧ base + j < x.addr + x.data.length))

/-- The V-stream goes on at its next word, no v register outside `ds` changes, and nothing else does. -/
def OnlyV (s u : State) (ds : List VReg) : Prop :=
  OnlyCore s.curN s u ∧ (∀ r, r ∉ ds → u.me.vr r = s.me.vr r ∧ u.me.vpois r = s.me.vpois r) ∧
  u.me = { s.me with v := { s.me.v with v := u.me.v.v, vp := u.me.v.vp, eng := s.me.v.eng.advance 1, wait := none } }

/-- A V word with element type `t` writes the elements of `d` that its predicate makes active (R118, R119); a poisoned
predicate poisons what it governs. -/
def WritesEls (i : Instr) (s : State) (t : ElType) (g : PReg) (d : VReg) (val : Nat → Nat) (pois : Nat → Bool) : Prop :=
  Does i s (fun u => OnlyV s u [d] ∧
    ElementsAre s u t d (fun j => (s.me.pr g).getLsbD j = true) val (fun j => s.me.ppois g || pois j))

/-- A V word writes every element of `d`. -/
def WritesAll (i : Instr) (s : State) (t : ElType) (d : VReg) (val : Nat → Nat) (pois : Nat → Bool) : Prop :=
  Does i s (fun u => OnlyV s u [d] ∧ ElementsAre s u t d (fun _ => True) val pois)

/-- The V-stream goes on at its next word and otherwise leaves what `f` makes of the current core. -/
def RetiresV (i : Instr) (s : State) (f : Core → Core) : Prop :=
  Does i s (fun u => OnlyCore s.curN s u ∧
    u.me = { f s.me with v := { (f s.me).v with eng := s.me.v.eng.advance 1, wait := none } })

/-- The V-stream waits at its word and nothing else changes (R153). -/
def WaitsV (i : Instr) (s : State) (w : WaitOn) : Prop :=
  Does i s (fun u => OnlyCore s.curN s u ∧ u.me = { s.me with v := { s.me.v with wait := some w } })

/-- An illegal V word (R65): VST.STOP with code 1, the engine STOPPED, ENGINE_ERROR pending, the event latch set. -/
def IllegalV (i : Instr) (s : State) : Prop :=
  Does i s (fun u => OnlyCore s.curN s u ∧
    u.me = { s.me with
      v := { s.me.v with vstStop := true, vstCode := 1, wait := none, eng := { s.me.v.eng with st := .stopped } }
      s := { s.me.s with pendEng := true, latch := true } })

/-- An integer result of width `w` (R122): clamped to the signed range with `sat`, else its low bits. -/
def intResult (w : Nat) (sat : Bool) (i : Int) : Nat :=
  let lo : Int := -2 ^ (w - 1)
  let hi : Int := 2 ^ (w - 1) - 1
  ((if sat then max lo (min hi i) else i) % 2 ^ w).toNat

/-- The signed reading of the low `w` bits. -/
def signedOf (w b : Nat) : Int := (BitVec.ofNat w b).toInt

/-- The page of a token has the format NATIVE, or `.R` leaves it aside (R139, R140). -/
def Unformatted (s : State) (tok : Option Tok) (raw : Bool) : Prop :=
  raw = true ∨ baseType (s.me.fmtAt (s.me.mteOf tok).fsel.toNat) = none

/-- The bytes of a run of a core's own scratchpad. -/
def Core.spBytes (c : Core) (a n : Nat) : List Byte := (List.range n).map (fun i => Sparse.get 0 c.spad.bytes (a + i))

/-- A run of a core's own scratchpad lies below the descriptors, holds no poison and carries the right check values. -/
def Core.spClean (c : Core) (a n : Nat) : Prop :=
  a + n ≤ 0x2FF000 ∧ c.spad.bad a n = [] ∧ ∀ i, i < n → Sparse.get false c.spad.pois (a + i) = false

/-- Containers of `c` bits in bytes, little-endian (R30). -/
def contOf (c : Nat) (bs : List Byte) (i : Nat) : Nat := leNat bs / 2 ^ (c * i) % 2 ^ c

/-- A semaphore after a raise (R220). -/
def Sem.raised (m : Sem) (err : Bool) : Sem :=
  if m.count = 0xFFFF#16 then { count := 0xFFFF#16, err := true } else { count := m.count + 1#16, err := m.err || err }

/-- The semaphores of a core after SS has been raised. -/
def Core.semRaised (c : Core) (ss : SemId) (err : Bool) (j : SemId) : Sem :=
  if j = ss ∧ ss ≠ 0#6 then (c.sem j.toNat).raised err else c.sem j.toNat

/-- The semaphores of a core after a command has awaited WS, with whose count it takes the error flag, and raised SS
(R154, R220, R221). -/
def Core.semAfter (c : Core) (ws ss : SemId) (j : SemId) : Sem :=
  let aw (n : SemId) : Sem :=
    if n = ws ∧ ws ≠ 0#6 then { count := (c.sem n.toNat).count - 1#16, err := false } else c.sem n.toNat
  if j = ss ∧ ss ≠ 0#6 then (aw j).raised (decide (ws ≠ 0#6) && (c.sem ws.toNat).err) else aw j

/-- The commands of an engine (R67, R68), its loops apart. -/
def IsCommand (e : EngineSel) (i : Instr) : Prop :=
  i.stream = some (match e with
    | .m => StreamKind.m
    | .c => StreamKind.c) ∧ (∀ n k, i ≠ .mloop n k) ∧ ∀ n k, i ≠ .cloop n k

/-- An engine may take, run and complete a command of one unit in one step: nothing in flight, WS satisfied, no store of
the core waiting in a buffer. -/
def Takes (i : Instr) (e : EngineSel) (s : State) : Prop :=
  s.me.flight e = none ∧ 3 ≤ s.budget ∧ NoBuffer s s.curN ∧ NoTwin s s.curN ∧
  ((semsOf i).1 = 0#6 ∨ s.me.ahead (semsOf i).1 (agentOfEngine e) < (s.me.sem (semsOf i).1.toNat).count.toNat)

/-- A command has completed without a code: the engine holds none, WS is consumed and SS raised; no register of the
streams and no other core has changed. -/
def Completed (i : Instr) (e : EngineSel) (s t : State) : Prop :=
  t.me.flight e = none ∧ (∀ j : SemId, t.me.sem j.toNat = s.me.semAfter (semsOf i).1 (semsOf i).2 j) ∧
  t.me.s = { s.me.s with latch := t.me.s.latch } ∧ t.me.v = s.me.v ∧ t.me.t = s.me.t ∧ OnlyCore s.curN s t

/-- An engine is to do one unit of a command that has issued and that no mask keeps from its token. -/
def AtUnit (e : EngineSel) (s : State) (f : Flight) : Prop :=
  s.budget = 1 ∧ s.me.flight e = some f ∧ f.st = .issued ∧ f.codes.denied = false ∧ NoBuffer s s.curN ∧ NoTwin s s.curN

/-- A command after one more of its `n` units. -/
def Flight.after (f : Flight) (n : Nat) : Flight :=
  { f with prog := f.prog + 1, st := if f.prog + 1 < n then .issued else .done }

/-- Each byte of an access lies at an address of device memory that the access may reach, and is clean where it is read. -/
def ReachesEach (s : State) (m : Mte) (b : MaskBit) (r w : Bool) (off n : Nat) (pa : Nat → Nat) : Prop :=
  ∀ j, j < n → Reaches s m b r w (off + j) 1 (pa j) ∧ (r = true → CleanAt s (pa j) 1)

/-- Device memory after bytes have been stored one by one. -/
def devBytesAfter (f : Nat → Byte) (n : Nat) (pa : Nat → Nat) (b : Nat → Byte) : Nat → Byte :=
  (List.range n).foldl (fun g j a => if a = pa j then b j else g a) f

/-- What stands for delivery after packets have been sent in turn: each is appended, and one routed through a port that is down is lost
again (R371, R433). -/
def Sends (s : State) : List DvPacket → List DvPacket → List DvPacket → Prop
  | l, [], r => r = l
  | l, p :: ps, r =>
    Sends s (l ++ [p]) ps r ∨ ((∃ n, n < 16 ∧ s.portUp n = false) ∧ Sends s ((l ++ [p]).erase p) ps r)

/-- Every program counter, of a core and of a saved context, is a multiple of four (R14, R53). -/
def State.PcAligned (s : State) : Prop :=
  (∀ k, (s.core k).s.pc &&& 3#16 = 0#16) ∧ ∀ g, g ∈ s.saved → ∀ e, e ∈ g.2 → e.core.s.pc &&& 3#16 = 0#16

/-- What the issue of an S instruction, or with `v` of a V word, changes beside its own effect: the clock goes on by a free value,
to the cycle in which the stream is ready or later; the stream is ready again 1 + ST cycles later; what is known of results of
fixed latency moves on (R11, R27, R72). -/
def Issued (i : Instr) (v : Bool) (s u : State) : Prop :=
  u = { s with free := s.free + 1, clock := u.clock, cores := u.cores } ∧ (∀ j, j ≠ s.curN → u.core j = s.core j) ∧
  s.clock ≤ u.clock ∧ (if v then s.me.v.ready else s.me.s.ready) ≤ u.clock ∧
  u.me =
    if v then { s.me with v := { s.me.v with
      haz := nextHazards s.me.fx4 (s.me.writesAll i) s.me.v.haz i
      ready := u.clock + 1 + stallOf i } }
    else { s.me with s := { s.me.s with
      haz := nextHazards false true s.me.s.haz i
      ready := u.clock + 1 + stallOf i } }

end Sys2Proof.Machine
end

