-- ==== Sys2Proof/Certificates/Slice0/Obligations.lean ====
section
/-! DEFINITION. The statements for the provers. -/

open Sys2Proof Sys2Proof.Machine

/-- R81, R17: the results of the integer register operations, their completion and their frame. -/
def Obligations.IntegerRegisterResults : Prop :=
  ∀ (st : SStall) (d a b : XReg) (s : State),
    WritesX (.add st d a b) s d (s.me.xr a + s.me.xr b) ∧
    WritesX (.sub st d a b) s d (s.me.xr a - s.me.xr b) ∧
    WritesX (.and st d a b) s d (s.me.xr a &&& s.me.xr b) ∧
    WritesX (.or st d a b) s d (s.me.xr a ||| s.me.xr b) ∧
    WritesX (.xor st d a b) s d (s.me.xr a ^^^ s.me.xr b) ∧
    WritesX (.sll st d a b) s d (s.me.xr a <<< ((s.me.xr b).extractLsb' 0 6).toNat) ∧
    WritesX (.srl st d a b) s d (s.me.xr a >>> ((s.me.xr b).extractLsb' 0 6).toNat) ∧
    WritesX (.sra st d a b) s d ((s.me.xr a).sshiftRight ((s.me.xr b).extractLsb' 0 6).toNat) ∧
    WritesX (.slt st d a b) s d (if (s.me.xr a).slt (s.me.xr b) then 1 else 0) ∧
    WritesX (.sltu st d a b) s d (if (s.me.xr a).ult (s.me.xr b) then 1 else 0) ∧
    WritesX (.seq st d a b) s d (if s.me.xr a = s.me.xr b then 1 else 0) ∧
    WritesX (.min st d a b) s d (BitVec.ofInt 64 (min (s.me.xr a).toInt (s.me.xr b).toInt)) ∧
    WritesX (.max st d a b) s d (BitVec.ofInt 64 (max (s.me.xr a).toInt (s.me.xr b).toInt)) ∧
    WritesX (.minu st d a b) s d (BitVec.ofNat 64 (min (s.me.xr a).toNat (s.me.xr b).toNat)) ∧
    WritesX (.maxu st d a b) s d (BitVec.ofNat 64 (max (s.me.xr a).toNat (s.me.xr b).toNat)) ∧
    WritesX (.mul st d a b) s d (s.me.xr a * s.me.xr b) ∧
    WritesX (.mulh st d a b) s d (((s.me.xr a).signExtend 128 * (s.me.xr b).signExtend 128).extractLsb' 64 64) ∧
    WritesX (.mulhu st d a b) s d (((s.me.xr a).setWidth 128 * (s.me.xr b).setWidth 128).extractLsb' 64 64) ∧
    (∃ n, n ≤ 64 ∧ (∀ i, 64 - n ≤ i → i < 64 → (s.me.xr a).getLsbD i = false) ∧
      (n < 64 → (s.me.xr a).getLsbD (63 - n) = true) ∧ WritesX (.clz st d a) s d (BitVec.ofNat 64 n)) ∧
    WritesX (.popc st d a) s d (BitVec.ofNat 64 ((List.range 64).countP (fun i => (s.me.xr a).getLsbD i)))

/-- R82: quotients and remainders, with division by zero and the one overflow. -/
def Obligations.DivisionResults : Prop :=
  ∀ (st : SStall) (d a b : XReg) (s : State),
    (s.me.xr b ≠ 0 → ¬ (s.me.xr a = BitVec.intMin 64 ∧ s.me.xr b = BitVec.allOnes 64) →
      ∃ q r : Int, (s.me.xr a).toInt = q * (s.me.xr b).toInt + r ∧ r.natAbs < (s.me.xr b).toInt.natAbs ∧
        (r ≠ 0 → r.sign = (s.me.xr a).toInt.sign) ∧
        WritesX (.div st d a b) s d (BitVec.ofInt 64 q) ∧ WritesX (.rem st d a b) s d (BitVec.ofInt 64 r)) ∧
    (s.me.xr b ≠ 0 →
      ∃ q r : Nat, (s.me.xr a).toNat = q * (s.me.xr b).toNat + r ∧ r < (s.me.xr b).toNat ∧
        WritesX (.divu st d a b) s d (BitVec.ofNat 64 q) ∧ WritesX (.remu st d a b) s d (BitVec.ofNat 64 r)) ∧
    (s.me.xr b = 0 →
      WritesX (.div st d a b) s d (BitVec.allOnes 64) ∧ WritesX (.divu st d a b) s d (BitVec.allOnes 64) ∧
      WritesX (.rem st d a b) s d (s.me.xr a) ∧ WritesX (.remu st d a b) s d (s.me.xr a)) ∧
    (s.me.xr a = BitVec.intMin 64 → s.me.xr b = BitVec.allOnes 64 →
      WritesX (.div st d a b) s d (BitVec.intMin 64) ∧ WritesX (.rem st d a b) s d 0)

/-- R83, R84: immediate operations, LI and LIS. -/
def Obligations.ImmediateResults : Prop :=
  ∀ (st : SStall) (d a : XReg) (imm : BitVec 11) (sh : BitVec 6) (li : BitVec 17) (lo : BitVec 16) (s : State),
    WritesX (.addi st d a imm) s d (s.me.xr a + imm.signExtend 64) ∧
    WritesX (.andi st d a imm) s d (s.me.xr a &&& imm.signExtend 64) ∧
    WritesX (.ori st d a imm) s d (s.me.xr a ||| imm.signExtend 64) ∧
    WritesX (.xori st d a imm) s d (s.me.xr a ^^^ imm.signExtend 64) ∧
    WritesX (.slti st d a imm) s d (if (s.me.xr a).slt (imm.signExtend 64) then 1 else 0) ∧
    WritesX (.slli st d a sh) s d (s.me.xr a <<< sh.toNat) ∧
    WritesX (.srli st d a sh) s d (s.me.xr a >>> sh.toNat) ∧
    WritesX (.srai st d a sh) s d ((s.me.xr a).sshiftRight sh.toNat) ∧
    WritesX (.li st d li) s d (li.signExtend 64) ∧
    WritesX (.lis st d lo) s d ((s.me.xr d).extractLsb' 0 48 ++ lo)

/-- R85, R86: the conditions, the two paths, the link value; nothing but x(XD) and the program counter changes. -/
def Obligations.BranchesAndJumps : Prop :=
  ∀ (st : SStall) (d a b : XReg) (off : BitVec 11) (far : BitVec 17) (s : State), s.me.s.pc &&& 3#16 = 0#16 →
    let next := s.me.s.pc + 4#16
    let target := BitVec.ofInt 16 (s.me.s.pc.toNat + 4 * off.toInt)
    let x := s.me.xr a
    let y := s.me.xr b
    JumpsTo (.beq st a b off) s 0 0 (if x = y then target else next) ∧
    JumpsTo (.bne st a b off) s 0 0 (if x ≠ y then target else next) ∧
    JumpsTo (.blt st a b off) s 0 0 (if x.toInt < y.toInt then target else next) ∧
    JumpsTo (.bge st a b off) s 0 0 (if y.toInt ≤ x.toInt then target else next) ∧
    JumpsTo (.bltu st a b off) s 0 0 (if x.toNat < y.toNat then target else next) ∧
    JumpsTo (.bgeu st a b off) s 0 0 (if y.toNat ≤ x.toNat then target else next) ∧
    JumpsTo (.jal st d far) s d (next.setWidth 64) (BitVec.ofInt 16 (s.me.s.pc.toNat + 4 * far.toInt)) ∧
    JumpsTo (.jalr st d a off) s d (next.setWidth 64) (BitVec.ofInt 16 (x.toNat + 4 * off.toInt) &&& 0xFFFC#16)

/-- R87, R88, R91: the exact operation, one rounding, the flags of R46 ORed into SST, and nothing else. -/
def Obligations.ScalarFloatArithmetic : Prop :=
  ∀ (st : SStall) (d a b : XReg) (s : State),
    let x := Fmt.fp32.decode ((s.me.xr a).toNat % 2 ^ 32)
    let y := Fmt.fp32.decode ((s.me.xr b).toNat % 2 ^ 32)
    let z := Fmt.fp32.decode ((s.me.xr d).toNat % 2 ^ 32)
    let sig (r : XReg) : Bool := Fmt.fp32.signalling ((s.me.xr r).toNat % 2 ^ 32)
    let flagsOf (nv dz : Bool) (r : Rounded) : Word :=
      (if nv then 16#64 else 0#64) ||| (if dz then 8#64 else 0#64) ||| (if r.overflow then 4#64 else 0#64) |||
      (if r.uf then 2#64 else 0#64) ||| (if r.nx || r.overflow then 1#64 else 0#64)
    let rounded (v : FVal) : Rounded := Fmt.fp32.round .rne false v
    let two (i : Instr) (v : FVal) (dz : Bool) : Prop :=
      WritesXSst i s d (BitVec.ofNat 64 (rounded v).bits)
        (flagsOf (sig a || sig b || (v.isNan && !(x.isNan || y.isNan))) dz (rounded v))
    let fused (i : Instr) (p c : FVal) : Prop :=
      WritesXSst i s d (BitVec.ofNat 64 (rounded (p.add c)).bits)
        (flagsOf (sig a || sig b || sig d || (p.isNan && !(x.isNan || y.isNan)) ||
          ((p.add c).isNan && !(x.isNan || y.isNan || z.isNan))) false (rounded (p.add c)))
    two (.fadd st d a b) (x.add y) false ∧
    two (.fsub st d a b) (x.add y.neg) false ∧
    two (.fmul st d a b) (x.mul y) false ∧
    two (.fdiv st d a b) (x.div y) (x.isFin && !x.isZero && y.isZero) ∧
    WritesXSst (.fsqrt st d a) s d (BitVec.ofNat 64 (rounded x.sqrt).bits)
      (flagsOf (sig a || (x.sqrt.isNan && !x.isNan)) false (rounded x.sqrt)) ∧
    fused (.fma st d a b) (x.mul y) z ∧
    fused (.fms st d a b) (x.mul y) z.neg ∧
    fused (.fnma st d a b) (x.mul y).neg z

/-- R43: round to nearest, ties to even, for FP32, with the quantum of the exponent field of the value. -/
def Obligations.RoundingIsNearestEven : Prop :=
  ∀ (neg : Bool) (m : Nat) (e : Int), m ≠ 0 →
    let r := Fmt.fp32.round .rne false (.fin neg m e)
    r.overflow = false →
    let q := max (topExp m e + 127) 1 - 127 - 23
    let v : Rat := (m : Rat) * (2 : Rat) ^ e
    ∃ k : Nat, (2 * |v - (k : Rat) * (2 : Rat) ^ q| ≤ (2 : Rat) ^ q) ∧
      (2 * |v - (k : Rat) * (2 : Rat) ^ q| = (2 : Rat) ^ q → k % 2 = 0) ∧
      (r.nx = false ↔ v = (k : Rat) * (2 : Rat) ^ q) ∧
      ∃ m' e', Fmt.fp32.decode r.bits = .fin neg m' e' ∧ (m' : Rat) * (2 : Rat) ^ e' = (k : Rat) * (2 : Rat) ^ q

/-- R89, R90: ordering, NaN operands and the one flag. -/
def Obligations.ScalarFloatCompareAndMinMax : Prop :=
  ∀ (st : SStall) (d a b : XReg) (s : State),
    let x := Fmt.fp32.decode ((s.me.xr a).toNat % 2 ^ 32)
    let y := Fmt.fp32.decode ((s.me.xr b).toNat % 2 ^ 32)
    let sig := Fmt.fp32.signalling ((s.me.xr a).toNat % 2 ^ 32) || Fmt.fp32.signalling ((s.me.xr b).toNat % 2 ^ 32)
    let nan := x.isNan || y.isNan
    let nv (c : Bool) : Word := if c then 16#64 else 0#64
    let ba : Word := (s.me.xr a).setWidth 32 |>.setWidth 64
    let bb : Word := (s.me.xr b).setWidth 32 |>.setWidth 64
    let below (u v : FVal) : Bool := u.cmp v = some .lt || (u.cmp v = some .eq && u.sign && !v.sign)
    (x.isNan → y.isNan →
      WritesXSst (.fmin st d a b) s d 0x7FC00000#64 (nv sig) ∧ WritesXSst (.fmax st d a b) s d 0x7FC00000#64 (nv sig)) ∧
    (x.isNan → ¬ y.isNan →
      WritesXSst (.fmin st d a b) s d bb (nv sig) ∧ WritesXSst (.fmax st d a b) s d bb (nv sig)) ∧
    (¬ x.isNan → y.isNan →
      WritesXSst (.fmin st d a b) s d ba (nv sig) ∧ WritesXSst (.fmax st d a b) s d ba (nv sig)) ∧
    (¬ x.isNan → ¬ y.isNan →
      WritesXSst (.fmin st d a b) s d (if below y x then bb else ba) (nv sig) ∧
      WritesXSst (.fmax st d a b) s d (if below x y then bb else ba) (nv sig)) ∧
    WritesXSst (.feq st d a b) s d (if x.cmp y = some .eq then 1 else 0) (nv sig) ∧
    WritesXSst (.flt st d a b) s d (if x.cmp y = some .lt then 1 else 0) (nv (sig || nan)) ∧
    WritesXSst (.fle st d a b) s d (if x.cmp y = some .lt ∨ x.cmp y = some .eq then 1 else 0) (nv (sig || nan)) ∧
    (∀ u v : FVal, (u.isNan ∨ v.isNan) → u.cmp v = none) ∧
    (∀ m n e f, FVal.cmp (.fin true 0 e) (.fin false 0 f) = some .eq ∧
      (FVal.cmp (.fin false m e) (.fin false n f) = some .lt ↔ (m : Rat) * (2 : Rat) ^ e < (n : Rat) * (2 : Rat) ^ f))

/-- R88, R45: the four conversions, with their flags. -/
def Obligations.ScalarFloatConversions : Prop :=
  ∀ (st : SStall) (d a : XReg) (s : State),
    let w := (s.me.xr a).toNat
    let x := Fmt.fp32.decode (w % 2 ^ 32)
    let i := (BitVec.ofNat 32 w).toInt
    let r := Fmt.fp32.round .rne false (.fin (decide (i < 0)) i.natAbs 0)
    let nv (c : Bool) : Word := if c then 16#64 else 0#64
    let nx (c : Bool) : Word := if c then 1#64 else 0#64
    (WritesXSst (.fcvtsw st d a) s d (BitVec.ofNat 64 r.bits) (nx r.nx) ∧ r.overflow = false ∧ r.uf = false) ∧
    (x.isNan → WritesXSst (.fcvtws st d a) s d 0 (nv true)) ∧
    (∀ n, x = .inf n → WritesXSst (.fcvtws st d a) s d (if n then 0xFFFFFFFF80000000#64 else 0x7FFFFFFF#64) (nv true)) ∧
    (∀ n m e, x = .fin n m e →
      let j := (roundToInt .rne n m e).1
      if j < -2147483648 then WritesXSst (.fcvtws st d a) s d 0xFFFFFFFF80000000#64 (nv true)
      else if 2147483647 < j then WritesXSst (.fcvtws st d a) s d 0x7FFFFFFF#64 (nv true)
      else WritesXSst (.fcvtws st d a) s d (BitVec.ofInt 64 j) (nx (roundToInt .rne n m e).2)) ∧
    (let b := Fmt.bf16.round .rne false x
     WritesXSst (.fcvtbs st d a) s d (BitVec.ofNat 64 b.bits)
       (nv (Fmt.fp32.signalling (w % 2 ^ 32)) ||| (if b.overflow then 4#64 else 0#64) |||
        (if b.uf then 2#64 else 0#64) ||| nx (b.nx || b.overflow))) ∧
    (let y := Fmt.bf16.decode (w % 2 ^ 16)
     WritesXSst (.fcvtsb st d a) s d (if y.isNan then 0x7FC00000#64 else BitVec.ofNat 64 (w % 2 ^ 16 * 2 ^ 16))
       (nv (Fmt.bf16.signalling (w % 2 ^ 16))))

/-- R92-R95, R239, R250: what a token load delivers that performs as it issues. -/
def Obligations.TokenLoadReadsMemory : Prop :=
  ∀ (st : SStall) (d : XReg) (tk : TReg) (o : XReg) (imm : BitVec 6) (s : State) (pa : Nat), Quiet s s.curN →
    let at_ (size : Nat) : Nat := (s.me.xr o + imm.setWidth 64 * BitVec.ofNat 64 size).toNat
    let loads (i : Instr) (size : Nat) : Prop :=
      Reaches s (s.me.mteOf (s.me.tr tk)) .s true false (at_ size) size pa → CleanAt s pa size →
        LoadsX i s d (BitVec.ofNat 64 (leNat (s.devBytes pa size))) 0
    loads (.ldb st d tk o imm) 1 ∧ loads (.ldh st d tk o imm) 2 ∧ loads (.ldw st d tk o imm) 4 ∧
    loads (.ldd st d tk o imm) 8

/-- R75, R93, R95, R250: the outcomes of a load that R93 lists besides the plain one; a load that is held, or that its stream leaves
in the load queue, is complete as an instruction and stands there; an earlier store to its bytes through the same token becomes visible
before it performs. -/
def Obligations.TokenLoadOtherOutcomes : Prop :=
  ∀ (st : SStall) (d : XReg) (tk : TReg) (o : XReg) (imm : BitVec 6) (s : State),
    let tok := s.me.tr tk
    let m := s.me.mteOf tok
    let at_ (size : Nat) : Nat := (s.me.xr o + imm.setWidth 64 * BitVec.ofNat 64 size).toNat
    let outcomes (i : Instr) (size : Nat) : Prop :=
      let l : QLoad := { op := .load d size, tok := tok, off := at_ size }
      (s.lazy = true ∨ (m.st = .stale ∧ Prompt s s.curN false) → EntersLoad i s l) ∧
      (s.lazy = false → s.me.s.loads = [] → (∀ q, q ∈ s.me.s.queue → s.me.clash l q = false) →
        (m.st = .dead → LoadsX i s d 0 0) ∧
        (tok = none → LoadsX i s d 0 0x4000#64) ∧
        (∀ ps, s.access s.curN tok .s true false [(0, at_ size, size)] = .live ps →
          let r := s.readPieces s.curN tok size ps
          (anyPois r.2 = false → Does i s (fun t =>
            XIs d (BitVec.ofNat 64 (leNat (plain r.2))) s t ∧ NextWord s t ∧
            t.me.s.sst = s.me.s.sst ||| (if anyOut ps then 0x4000#64 else 0#64) ∧ t.me.buffer = s.me.buffer ∧
            OnlyAccess { s with mem := r.1.mem, bench := r.1.bench } t)) ∧
          (anyPois r.2 = true → s.me.s.inHandler = false → TrapsPoison i s r.1) ∧
          (s.mem.mig = [] → r.1.mem.dev.bytes = s.mem.dev.bytes ∧ r.1.mem.host.bytes = s.mem.host.bytes))) ∧
      (∀ bs pa n, s.lazy = false → s.me.s.loads = [] → s.me.s.queue = [{ op := .bytes (at_ size) bs, via := tok, seq := n }] →
        n < s.me.s.seq → bs.length = size → NoBuffer s s.curN → NoTwin s s.curN →
        Reaches s m .s true true (at_ size) size pa → CleanAt s pa size →
        Does i s (fun t => XIs d (BitVec.ofNat 64 (leNat bs)) s t ∧ NextWord s t ∧ t.me.s.sst = s.me.s.sst ∧ t.me.s.queue = [] ∧
          t.me.s.loads = [] ∧ t.mem = s.mem ∧ OnlyCore s.curN s t ∧
          t.me.buffer = [⟨[⟨.dev, pa, m.vbase + at_ size, at_ size, bs.map (fun b => (b, false)), [], m.keyAt (at_ size)⟩], .s⟩]))
    outcomes (.ldb st d tk o imm) 1 ∧ outcomes (.ldh st d tk o imm) 2 ∧ outcomes (.ldw st d tk o imm) 4 ∧
    outcomes (.ldd st d tk o imm) 8

/-- R93, R94, R249: what a token store leaves in the store queue, whatever its token, and nothing else; and where its bytes stand once
they are visible at core scope. -/
def Obligations.TokenStoreQueuesItsBytes : Prop :=
  ∀ (st : SStall) (d : XReg) (tk : TReg) (o : XReg) (imm : BitVec 6) (s : State),
    let tok := s.me.tr tk
    let m := s.me.mteOf tok
    let at_ (size : Nat) : Nat := (s.me.xr o + imm.setWidth 64 * BitVec.ofNat 64 size).toNat
    let bytes (size : Nat) : List Byte := (List.range size).map (fun j => (s.me.xr d).extractLsb' (8 * j) 8)
    let stores (i : Instr) (size : Nat) : Prop :=
      EntersStore i s { op := .bytes (at_ size) (bytes size), via := tok } 0 ∧
      ∀ (core : CoreId) (pa n : Nat), core.toNat = s.curN → s.me.s.loads = [] →
        s.me.s.queue = [{ op := .bytes (at_ size) (bytes size), via := tok, seq := n }] →
        Reaches s m .s false true (at_ size) size pa →
        Does (.storeVisible core .s) s (fun t => OnlyCore s.curN s t ∧
          t.me = { s.me with
            buffer := s.me.buffer ++
              [⟨[⟨.dev, pa, m.vbase + at_ size, at_ size, (bytes size).map (fun b => (b, false)), [], m.keyAt (at_ size)⟩], .s⟩]
            s := { s.me.s with queue := [] } })
    stores (.stb st d tk o imm) 1 ∧ stores (.sth st d tk o imm) 2 ∧ stores (.stw st d tk o imm) 4 ∧
    stores (.std st d tk o imm) 8

/-- R93, R353: what becomes of a queued token store whose bytes cannot be reached, as it leaves the queue, and where it stands while its
token holds it. -/
def Obligations.TokenStoreOtherOutcomes : Prop :=
  ∀ (core : CoreId) (s : State) (tok : Option Tok) (off n : Nat) (bs : List Byte), core.toNat = s.curN → s.me.s.loads = [] →
    s.me.s.queue = [{ op := .bytes off bs, via := tok, seq := n }] →
    let m := s.me.mteOf tok
    let left (flags : Word) (segs : List Seg) (b : Bench) : Prop := Does (.storeVisible core .s) s (fun t =>
      OnlyCore s.curN { s with bench := b } t ∧
      t.me = { s.me with
        buffer := s.me.buffer ++ (if segs = [] then [] else [⟨segs, .s⟩])
        s := { s.me.s with queue := [], sst := s.me.s.sst ||| flags } })
    (m.st = .dead → left 0 [] s.bench) ∧
    (tok = none → bs ≠ [] → left 0x4000#64 [] s.bench) ∧
    (m.st = .stale → Does (.storeVisible core .s) s (fun t => t = s)) ∧
    (∀ ps, s.access s.curN tok .s false true [(0, off, bs.length)] = .live ps →
      let segs := ps.filterMap (fun p => match p.loc with
        | .at e a => some (⟨e, a, m.vbase + p.off, p.off, ((bs.map (fun b => (b, false))).drop p.pos).take p.n, [], p.key⟩ : Seg)
        | _ => none)
      let oox : Word := if anyOut ps then 0x4000#64 else 0#64
      ((∀ p, p ∈ ps → p.loc ≠ .dsc) → left oox segs s.bench) ∧
      (∀ p, ps.find? (fun p => p.loc == .dsc) = some p →
        left (oox ||| 0x8000#64) segs (s.tell (.discardedStore s.me.gangOf s.curN (m.vbase + p.off))).bench))

/-- R93, R95, R97-R100, R248, R249, R353: an atomic on plain memory that performs as it issues: the new value stands where its scope
sees it, and nothing else changes (log entry 107 for where that is); one of a discarded page returns 0, one that meets poison traps and
writes nothing; an atomic that is held, or that its stream leaves in the load queue, stands there. -/
def Obligations.AtomicsReadModifyWrite : Prop :=
  ∀ (st : SStall) (d : XReg) (tk : TReg) (o : XReg) (f : AmoOp) (dw : Bool) (sc : Scope) (imm : BitVec 6) (s : State)
      (pa : Nat), NoTwin s s.curN →
    let tok := s.me.tr tk
    let m := s.me.mteOf tok
    let n := if dw then 8 else 4
    let off := (s.me.xr o).toNat
    let offC := (s.me.xr o + imm.setWidth 64 * 8#64).toNat
    let new (old : Nat) : Nat :=
      let b := (s.me.xr d).toNat % 2 ^ (8 * n)
      let so := (BitVec.ofNat (8 * n) old).toInt
      let sb := (BitVec.ofNat (8 * n) b).toInt
      match f with
      | .add => (old + b) % 2 ^ (8 * n)
      | .min => if so ≤ sb then old else b
      | .max => if sb ≤ so then old else b
      | .minu => min old b
      | .maxu => max old b
      | .and => old &&& b
      | .or => old ||| b
      | .xchg => b
    let amo := Instr.amo st d tk o f dw sc
    let cas := Instr.cas st d tk o imm
    let sectors (len : Nat) : Prop := CleanAt s (pa / 32 * 32) ((pa + len + 31) / 32 * 32 - pa / 32 * 32)
    let result (i : Instr) (sc : Scope) (at_ len old : Nat) (new : Option Nat) : Prop := Does i s (fun t =>
      let store (v : Nat) : VisStore := ⟨[⟨.dev, pa, m.vbase + at_, at_,
        (List.range len).map (fun j => (BitVec.ofNat 8 (v / 2 ^ (8 * j)), false)), [], m.keyAt at_⟩], .s⟩
      let base := s.me.panelBase s.curN
      XIs d (BitVec.ofNat 64 old) s t ∧ NextWord s t ∧ t.me.s.sst = s.me.s.sst ∧
      OnlyAccess { s with mem := t.mem, panels := t.panels } t ∧
      match new with
      | none => t.mem = s.mem ∧ t.me.buffer = [] ∧ ∀ b, t.panel b = s.panel b
      | some v =>
        if sc = .core ∨ (sc = .panel ∧ s.me.panel.size = 0#5) then
          t.mem = s.mem ∧ t.me.buffer = [store v] ∧ ∀ b, t.panel b = s.panel b
        else if sc = .panel then t.mem = s.mem ∧ t.me.buffer = [] ∧
          ∀ b, t.panel b = if b = base then { s.panel b with buffer := [(s.curN, store v)] } else s.panel b
        else leNat (t.devBytes pa len) = v ∧
          (∀ a, ¬ (pa ≤ a ∧ a < pa + len) → Sparse.get 0 t.mem.dev.bytes a = Sparse.get 0 s.mem.dev.bytes a) ∧
          t.mem.host = s.mem.host ∧ t.me.buffer = [] ∧ ∀ b, t.panel b = s.panel b)
    (Quiet s s.curN →
      (off % n = 0 → Reaches s m .s true true off n pa → sectors n →
        result amo sc off n (leNat (s.devBytes pa n)) (some (new (leNat (s.devBytes pa n))))) ∧
      (offC % 8 = 0 → Reaches s m .s true true offC 8 pa → sectors 8 →
        let old := leNat (s.devBytes pa 8)
        result cas .device offC 8 old (if old = (s.me.xr d).toNat then some (s.me.xr (d + 1#6)).toNat else none))) ∧
    let others (i : Instr) (off n : Nat) : Prop :=
      ∀ ps, s.access s.curN tok .s true true [(0, off, n)] = .live ps → off % n = 0 → anyOut ps = false →
        (∀ p, ps.find? (fun p => p.loc == .dsc) = some p →
          Does i s (fun t => XIs d 0 s t ∧ NextWord s t ∧ t.me.s.sst = s.me.s.sst ||| 0x8000#64 ∧ t.me.buffer = s.me.buffer ∧
            OnlyAccess { s with bench := (s.tell (.discardedStore s.me.gangOf s.curN (m.vbase + p.off))).bench } t)) ∧
        ((∀ p, p ∈ ps → p.loc ≠ .dsc) →
          let r := s.readPieces s.curN tok n ps
          anyPois r.2 = true → s.me.s.inHandler = false → TrapsPoison i s r.1)
    (Prompt s s.curN false →
      others amo off n ∧ others cas offC 8 ∧
      (m.st = .dead → LoadsX amo s d 0 0 ∧ LoadsX cas s d 0 0) ∧
      (m.st = .live → m.pred = false → Still s →
        (off % n ≠ 0 → LoadsX amo s d 0 0x4000#64) ∧ (offC % 8 ≠ 0 → LoadsX cas s d 0 0x4000#64) ∧
        (m.len ≤ off → LoadsX amo s d 0 0x4000#64) ∧ (m.len ≤ offC → LoadsX cas s d 0 0x4000#64) ∧
        (m.may .s true true = false → LoadsX amo s d 0 0x4000#64 ∧ LoadsX cas s d 0 0x4000#64)) ∧
      (tok = none → LoadsX amo s d 0 0x4000#64 ∧ LoadsX cas s d 0 0x4000#64)) ∧
    (s.lazy = true ∨ (m.st = .stale ∧ Prompt s s.curN false) →
      EntersLoad amo s { op := .amo d f n ((s.me.xr d).toNat % 2 ^ (8 * n)) sc, tok := tok, off := off } ∧
      EntersLoad cas s { op := .cas d (s.me.xr d).toNat (s.me.xr (d + 1#6)).toNat, tok := tok, off := offC })

/-- R20, R21, R95, R101, R102, R223: scratchpad accesses of the S-stream, at every kind of address, and its spill store. -/
def Obligations.ScratchpadAndSpillAccess : Prop :=
  ∀ (st : SStall) (d a : XReg) (imm : BitVec 11) (slot : BitVec 10) (s : State),
    let p := ((s.me.xr a + 8#64 * imm.signExtend 64) &&& ~~~7#64).toNat
    let lds := Instr.lds st d a imm
    let sts := Instr.sts st d a imm
    let window : Prop := 0x1000000 ≤ p ∧ p < 0x5000000
    let o := (p - 0x1000000) % 0x400000
    let rank := (p - 0x1000000) / 0x400000
    let sib := s.me.sibling s.curN rank
    let there : Prop := window ∧ o < 0x300000 ∧ rank < s.me.panel.size.toNat
    let outside : Prop := (0x300000 ≤ p ∧ p < 0x800000) ∨ (0x801000 ≤ p ∧ p < 0x1000000) ∨ 0x5000000 ≤ p ∨
      (window ∧ ¬ (o < 0x300000 ∧ rank < s.me.panel.size.toNat))
    let plainAt (k x : Nat) : Prop := x < 0x2FF000 → (s.core k).spad.bad x 8 = [] →
      (∀ j, j < 8 → Sparse.get false (s.core k).spad.pois (x + j) = false) →
      LoadsX lds s d (BitVec.ofNat 64 (leNat ((List.range 8).map (fun j => Sparse.get 0 (s.core k).spad.bytes (x + j))))) 0
    let readsAt (k x : Nat) : Prop := plainAt k x ∧
      (0x2FF000 ≤ x → x < 0x2FFC00 → LoadsX lds s d 0 0x4000#64) ∧
      (∀ n j, n < 32 → j < 4 → x = 0x2FFC00 + 32 * n + 8 * j →
        LoadsX lds s d (BitVec.ofNat 64 (leNat ((((s.core k).ring n).image.drop (8 * j)).take 8))) 0)
    let storesAt (k x : Nat) : Prop := x < 0x2FF000 → EntersStore sts s
      { op := .segs [⟨.sp k, x, p, p, (List.range 8).map (fun j => ((s.me.xr d).extractLsb' (8 * j) 8, false)), [], none⟩] } 0
    let drops : Prop := Retires sts s (fun c => { c with s := { c.s with sst := c.s.sst ||| 0x4000#64 } })
    (Prompt s s.curN false → NoBuffer s s.curN →
      readsAt s.curN p ∧ (there → readsAt sib o) ∧
      (0x800000 ≤ p → p < 0x801000 → LoadsX lds s d 0 0) ∧
      (outside → LoadsX lds s d 0 0x4000#64) ∧
      (let r := s.spRead s.curN false p 8
       anyPois r.2.1 = true → s.me.s.inHandler = false → TrapsPoison lds s r.1)) ∧
    (s.lazy = true → EntersLoad lds s { op := .sp d, off := p }) ∧
    storesAt s.curN p ∧ (there → storesAt sib o) ∧
    ((0x2FF000 ≤ p ∧ p < 0x300000) ∨ outside ∨ (there ∧ 0x2FF000 ≤ o) → drops) ∧
    WritesX (.spl st d slot) s d (Sparse.get 0 s.me.s.spill slot.toNat) ∧
    Does (.sps st d slot) s (fun t =>
      (∀ j : BitVec 10, Sparse.get 0 t.me.s.spill j.toNat = if j = slot then s.me.xr d else Sparse.get 0 s.me.s.spill j.toNat) ∧
      NextWord s t ∧ OnlyCore s.curN s t ∧
      t.me = { s.me with s := { s.me.s with spill := t.me.s.spill, pc := t.me.s.pc, st := t.me.s.st } })

/-- R103 case 8, R104-R106, R246, R342: what a successful translation leaves, and the predicted token while its walk goes on. Which
free entry is taken is a free value (log entry 3); accesses through the old token of the register come first (log entry 36). -/
def Obligations.TranslationCutsAToken : Prop :=
  ∀ (st : SStall) (td : TReg) (a b : XReg) (fr fw q : Bool) (s : State),
    let base := (s.me.xr a).toNat
    let len := (s.me.xr b).toNat
    let hit := s.firstHits (halfOf s.curN) s.me.gangOf.toNat base
    let i : Instr := if q then .xlatq st td a b fr fw else .xlat st td a b fr fw
    s.me.s.walk = none → Unused s (s.me.tr td) → 0 < len → len ≤ 2 ^ 32 → base + len ≤ 2 ^ 56 → s.me.freeMtes ≠ [] →
    let free (e : Nat) : Prop := e < 64 ∧ (s.me.mte e).st = .null
    (∀ (s' : State) (w : Walk) (mask : BitVec 6) (fsel : BitVec 4) (runs : List Run),
      (∀ l, hit = some l → td = 0#5 ∨ base + len ≤ (base / (65536 * l.units) + 1) * (65536 * l.units)) →
      State.walkOn (len / 65536 + 3) s s.curN { q := q, td := td, base := base, len := len, wantW := fw, phase := .stall 0 } =
        (s', w, none) →
      pagesFault fw w.pages = none → (∀ p, p ∈ w.pages → p.pinned = true) → XlatEnd.ofPages w.pages = .good mask fsel runs →
      (∀ o, s.me.tr td = some o → (s.me.mte o.idx.toNat).st ≠ .null) →
      Does i s (fun t => ∃ e, free e ∧
        (td ≠ 0#5 → t.me.tr td = some ⟨BitVec.ofNat 6 e, (s.me.mte e).gen + 1⟩ ∧
          t.me.mte e = { st := .live, w := fw, r := true, mask := mask, fsel := fsel, runs := runs, refs := 1,
                         pred := false, gen := (s.me.mte e).gen + 1, len := len, vbase := base, gang := s.me.gangOf }) ∧
        (td = 0#5 → t.me.mte e = { gen := (s.me.mte e).gen + 1 }) ∧
        (∀ n, n ≠ td → t.me.tr n = s.me.tr n) ∧ (∀ n, t.me.xr n = s.me.xr n) ∧ NextWord s t ∧
        t.me.s.tstat = (if q then 0 else s.me.s.tstat) ∧ t.me.s.sst = s.me.s.sst ∧ t.me.s.walk = none)) ∧
    (∀ l, hit = some l → td ≠ 0#5 → (base / (65536 * l.units) + 1) * (65536 * l.units) < base + len →
      Does i s (fun t => ∃ e, free e ∧ t.me.tr td = some ⟨BitVec.ofNat 6 e, (s.me.mte e).gen + 1⟩ ∧
        (t.me.mte e).pred = true ∧ (t.me.mte e).len = len ∧ (t.me.mte e).vbase = base ∧ (t.me.mte e).mask = l.mask ∧
        (∀ n, n ≠ td → t.me.tr n = s.me.tr n) ∧ (∀ n, t.me.xr n = s.me.xr n) ∧ t.me.s.pc = s.me.s.pc ∧
        t.me.s.st = .waiting .predicted ∧ t.mem = s.mem ∧ OnlyCore s.curN { s with free := t.free } t))

/-- R103 cases 1 to 7, R105, R106, R347; that a frame that cannot be pinned is reported with a fault record of kind 1 is the model's
choice (log entry 48), and so is that accesses through the old token of the register come first (log entry 36). -/
def Obligations.TranslationFailures : Prop :=
  ∀ (st : SStall) (td : TReg) (a b : XReg) (fr fw : Bool) (s : State), s.me.s.walk = none → s.me.s.inHandler = false →
    Unused s (s.me.tr td) →
    let base := (s.me.xr a).toNat
    let len := (s.me.xr b).toNat
    let nulls (tstat : Word) : Prop := Does (.xlatq st td a b fr fw) s (fun t =>
      t.me.tr td = none ∧ (∀ n, n ≠ td → t.me.tr n = s.me.tr n) ∧ (∀ n, t.me.xr n = s.me.xr n) ∧ NextWord s t ∧
      t.me.s.tstat = tstat)
    let walks (q : Bool) : State × Walk × Option (Nat × WalkEnd) := State.walkOn (len / 65536 + 3) s s.curN
      { q := q, td := td, base := base, len := len, wantW := fw, phase := .stall 0 }
    let fits := 0 < len ∧ len ≤ 2 ^ 32 ∧ base + len ≤ 2 ^ 56 ∧ s.me.freeMtes ≠ [] ∧
      s.firstHits (halfOf s.curN) s.me.gangOf.toNat base = none
    let held (va kd : Nat) (i : Instr) : Prop := Does i s (fun t =>
      t.me.s.st = .waiting .bench ∧ t.me.s.pc = s.me.s.pc ∧ t.me.t = s.me.t ∧ t.me.mtes = s.me.mtes ∧
      (∃ f, f ∈ t.bench.faults ∧ f.va = va ∧ f.kind = BitVec.ofNat 8 kd ∧ f.core = s.curN ∧ f.owner = .xlat ∧
        f.ix ∈ (t.panel (s.me.panelBase s.curN)).stall))
    (len = 0 → nulls 0 ∧ Does (.xlat st td a b fr fw) s (fun t =>
      t.me.tr td = none ∧ (∀ n, n ≠ td → t.me.tr n = s.me.tr n) ∧ NextWord s t ∧ t.me.s.tstat = s.me.s.tstat)) ∧
    (0 < len → (2 ^ 32 < len ∨ 2 ^ 56 < base + len) →
      Traps (.xlat st td a b fr fw) s 4 (BitVec.ofNat 64 base) ∧ nulls 4) ∧
    (0 < len → len ≤ 2 ^ 32 → base + len ≤ 2 ^ 56 → s.me.freeMtes = [] →
      Traps (.xlat st td a b fr fw) s 8 (BitVec.ofNat 64 base) ∧ nulls 8) ∧
    (∀ c v, fits →
      ((walks true).2.2 = none → pagesFault fw (walks true).2.1.pages = some (c, v) → nulls (BitVec.ofNat 64 c)) ∧
      ((walks false).2.2 = none → pagesFault fw (walks false).2.1.pages = some (c, v) →
        Does (.xlat st td a b fr fw) s (fun t =>
          t.me.t = s.me.t ∧ t.me.mtes = s.me.mtes ∧ t.me.s.tcause = BitVec.ofNat 64 c ∧ t.me.s.tval = BitVec.ofNat 64 v ∧
          t.me.s.mode = .supervisor ∧ t.me.s.pc = s.me.s.tvec.setWidth 16 &&& 0xFFFC#16))) ∧
    (∀ q va e l kd, fits → (walks q).2.2 = some (va, .bad e l kd) →
      held va kd (if q then .xlatq st td a b fr fw else .xlat st td a b fr fw)) ∧
    (∀ q p, fits → (walks q).2.2 = none → pagesFault fw (walks q).2.1.pages = none →
      (walks q).2.1.pages.find? (fun p => !p.pinned) = some p →
      held p.va 1 (if q then .xlatq st td a b fr fw else .xlat st td a b fr fw))

/-- R108, R109: references counted by token registers. A TSUB behind a predicted frame waits (log entry 47), and an instruction that
gives a token up waits for the accesses of its stream that go through it (log entry 36): both are the model's choice. -/
def Obligations.TokenReferences : Prop :=
  ∀ (st : SStall) (td ta : TReg) (a : XReg) (s : State),
    let after (t : State) (o : Tok) : Prop :=
      let m := s.me.mte o.idx.toNat
      t.me.mte o.idx.toNat = if m.refs ≤ 1 then { gen := m.gen } else { m with refs := m.refs - 1 }
    let keeps (t : State) : Prop := (∀ n, n ≠ td → t.me.tr n = s.me.tr n) ∧ (∀ n, t.me.xr n = s.me.xr n) ∧ NextWord s t ∧
      t.me.s.sst = s.me.s.sst
    let waits : Prop := Stuck s s.curN false ∧ ∃ q, q ∈ s.me.s.queue ∧ q.via = s.me.tr td ∧ q.via ≠ none
    let given (t : State) : Prop := t.me.tr td = none ∧ keeps t ∧ (∀ o, s.me.tr td = some o → after t o) ∧
      (s.me.tr td = none → t.me.mtes = s.me.mtes)
    (Unused s (s.me.tr td) → Does (.trel st td) s given) ∧
    (waits → Waits (.trel st td) s (.uses (s.me.tr td))) ∧
    Retires (.tmov st td td) s (fun c => c) ∧
    (td ≠ ta → waits → Waits (.tmov st td ta) s (.uses (s.me.tr td))) ∧
    (td ≠ ta → td ≠ 0#5 → Unused s (s.me.tr td) → Does (.tmov st td ta) s (fun t => t.me.tr td = s.me.tr ta ∧ keeps t ∧
      (∀ o u, s.me.tr td = some o → s.me.tr ta = some u → o.idx ≠ u.idx → after t o ∧
        t.me.mte u.idx.toNat = { s.me.mte u.idx.toNat with refs := (s.me.mte u.idx.toNat).refs + 1 }) ∧
      (∀ o, s.me.tr td = some o → s.me.tr ta = none → after t o))) ∧
    (ta ≠ 0#5 → (∀ u, s.me.tr ta = some u → 0 < (s.me.mte u.idx.toNat).refs) → Does (.tmov st 0#5 ta) s (fun t =>
      (∀ n, t.me.tr n = s.me.tr n) ∧ (∀ j, t.me.mte j = s.me.mte j) ∧ (∀ n, t.me.xr n = s.me.xr n) ∧ NextWord s t ∧
      t.me.s.sst = s.me.s.sst)) ∧
    (s.me.tr ta = none → Unused s (s.me.tr td) → Does (.tsub st td ta a) s given) ∧
    (∀ u, s.me.tr ta = some u → (s.me.mte u.idx.toNat).gen = u.gen →
      let m := s.me.mte u.idx.toNat
      let o := (s.me.xr a).toNat
      let n := (s.me.xr (a + 1#6)).toNat
      ((m.st = .stale ∨ m.pred = true) → Waits (.tsub st td ta a) s (.stale u.idx)) ∧
      (m.st ≠ .stale → m.pred = false → Unused s (s.me.tr td) →
      ((m.st = .dead ∨ m.st = .null ∨ m.len ≤ o ∨ n = 0) → Does (.tsub st td ta a) s given) ∧
      (m.st = .live → o < m.len → 0 < n → s.me.freeMtes = [] → s.me.s.inHandler = false →
        Traps (.tsub st td ta a) s 8 (BitVec.ofNat 64 (m.vbase + o))) ∧
      (m.st = .live → o < m.len → 0 < n → s.me.freeMtes ≠ [] → td ≠ 0#5 →
        (∀ q, s.me.tr td = some q → (s.me.mte q.idx.toNat).st ≠ .null) →
        Does (.tsub st td ta a) s (fun t => keeps t ∧ ∃ e, e < 64 ∧ (s.me.mte e).st = .null ∧
          t.me.tr td = some ⟨BitVec.ofNat 6 e, (s.me.mte e).gen + 1⟩ ∧
          (t.me.mte e).st = .live ∧ (t.me.mte e).vbase = m.vbase + o ∧ (t.me.mte e).len = min n (m.len - o) ∧
          (t.me.mte e).r = m.r ∧ (t.me.mte e).w = m.w ∧ (t.me.mte e).mask = m.mask ∧ (t.me.mte e).fsel = m.fsel ∧
          (t.me.mte e).refs = 1))))

/-- R110, R111: the information word and the checked base. -/
def Obligations.TokenInformation : Prop :=
  ∀ (st : SStall) (tk : TReg) (a : XReg) (s : State) (u : Tok), s.me.tr tk = some u →
    (s.me.mte u.idx.toNat).gen = u.gen →
    let m := s.me.mte u.idx.toNat
    let code : BitVec 2 := match m.st with
      | .null => 0#2
      | .live => 1#2
      | .stale => 2#2
      | .dead => 3#2
    WritesX (.tinfo st tk a) s a
      (code ++ BitVec.ofBool m.w ++ BitVec.ofBool m.r ++ m.mask ++ m.fsel ++ u.idx ++ u.gen.setWidth 11 ++
        BitVec.ofNat 33 m.len) ∧
    (m.st = .live → m.pred = false → m.vbase < 2 ^ 56 → WritesX (.tchk st tk a) s a (0#8 ++ BitVec.ofNat 56 m.vbase)) ∧
    (m.st = .dead → m.pred = false → m.vbase < 2 ^ 56 → WritesX (.tchk st tk a) s a (0x80#8 ++ BitVec.ofNat 56 m.vbase)) ∧
    (m.st = .stale → Waits (.tchk st tk a) s (.stale u.idx)) ∧
    (∀ s : State, s.me.tr tk = none → WritesX (.tinfo st tk a) s a 0 ∧ WritesX (.tchk st tk a) s a 0)

/-- R114, R115: the drawer tag table. -/
def Obligations.DrawerTags : Prop :=
  ∀ (st : SStall) (d a b : XReg) (s : State),
    let tag (k : Nat) : Option (BitVec 63) := Sparse.get none s.me.s.tags k
    let want : BitVec 63 := (s.me.xr a).setWidth 63
    let n := (s.me.xr a).toNat
    (∀ k, (s.me.xr a).getLsbD 63 = false → tag k = some want → (∀ j, j < k → tag j ≠ some want) →
      WritesX (.look st d a) s d (BitVec.ofNat 64 k)) ∧
    (((s.me.xr a).getLsbD 63 = true ∨ ∀ k, tag k ≠ some want) → WritesX (.look st d a) s d (BitVec.allOnes 64)) ∧
    (n < s.me.dn.toNat → Does (.dtag st a b) s (fun t =>
      (∀ k, Sparse.get none t.me.s.tags k =
        if k = n then (if (s.me.xr b).getLsbD 63 then none else some ((s.me.xr b).setWidth 63)) else tag k) ∧
      NextWord s t ∧ OnlyCore s.curN s t ∧
      t.me = { s.me with s := { s.me.s with tags := t.me.s.tags, pc := t.me.s.pc, st := t.me.s.st } })) ∧
    (s.me.dn.toNat ≤ n → Retires (.dtag st a b) s (fun c => { c with s := { c.s with sst := c.s.sst ||| 0x4000#64 } }))

/-- R199, R200, R193, R249, R252: MARK, which takes its place in the load queue and lets later loads pass once every earlier store is
visible at its scope; the three FENCEs, which take their places in the queues; RDV, which joins the engines and both store queues at
core scope, and no load queue. That RDV takes the V-stream's stores before the S-stream's is the model's choice (log entry 18), and so
is that S stores hold no reference (log entry 36) and that a MARK at .Y waits for write-backs and makes none (log entry 100). -/
def Obligations.ReleasesPerformStoresInOrder : Prop :=
  ∀ (st : SStall) (s : State) (sc : Scope),
    let c := s.me
    let rest (t : State) : Prop := NextWord s t ∧ (∀ n, t.me.xr n = s.me.xr n) ∧ t.me.s.sst = s.me.s.sst ∧
      t.me.t = s.me.t ∧ t.me.sems = s.me.sems ∧ t.disp = s.disp
    (s.lazy = true ∨ Stuck s s.curN false → EntersLoad (.mark st sc) s { op := .mark sc }) ∧
    (s.lazy = false → Ready s s.curN false → (sc = .system → NoHost s (s.queueShown false)) →
      Does (.mark st sc) s (fun t => rest t ∧ t.me.s.queue = [] ∧ t.me.s.loads = [] ∧
        t.me.mtes = c.mtes ∧ Widened s t sc (s.queueShown false))) ∧
    (Prompt s s.curN false → NoBuffer s s.curN → s.unwritten s.curN = true →
      EntersLoad (.mark st .system) s { op := .mark .system }) ∧
    EntersStore (.fence st .rel sc) s { op := .fence sc } 0 ∧
    (s.lazy = true → EntersLoad (.fence st .acq sc) s { op := .fence }) ∧
    (s.lazy = false → c.s.loads = [] → LoadsX (.fence st .acq sc) s 0 0 0) ∧
    ((s.lazy = true ∨ c.s.loads = []) → Does (.fence st .ar sc) s (fun t => rest t ∧
      t.me.s.queue = c.s.queue ++ [{ op := .fence sc, seq := c.s.seq }] ∧
      t.me.s.loads = (if s.lazy then c.s.loads ++ [{ op := .fence, pc := c.s.pc, seq := c.s.seq + 1 }] else []) ∧
      t.mem = s.mem ∧ t.me.buffer = c.buffer ∧ OnlyCore s.curN s t)) ∧
    ((∀ r, c.running r = false) → Ready s s.curN false → Ready s s.curN true → Does (.rdv st) s (fun t => rest t ∧
      t.me.s.queue = [] ∧ t.me.v.queue = [] ∧ GivenUp s t c.v.queue ∧
      Widened s t .core (s.queueShown true ++ s.queueShown false))) ∧
    ((∀ r, c.running r = false) → c.s.queue = [] → c.v.queue = [] → Retires (.rdv st) s (fun c => c)) ∧
    (∀ r, c.running r = true → Waits (.rdv st) s .rdv) ∧
    ((∀ r, c.running r = false) → Stuck s s.curN true → Waits (.rdv st) s .rdv)

/-- R192: starting engines; the table's entries in the order V, M, C (R189); a FORK that waits keeps the table it has read. A poisoned
byte of the table counts as its bits stand (log entry 116), and SCHK reaches the V-stream at every FORK (R77, log entry 117): both are
the model's choice. -/
def Obligations.ForkStartsEngines : Prop :=
  ∀ (st : SStall) (a : XReg) (s : State), s.me.s.loads = [] →
    (s.me.s.forkTab = none → NoSpStore s false (s.me.xr a &&& ~~~7#64).toNat 24) →
    let read := s.spRead s.curN false (s.me.xr a &&& ~~~7#64).toNat 24
    let kept := s.me.s.forkTab
    let tab := kept.getD (plain read.2.1)
    let w (j : RingSel) : Nat := field tab (match j with
      | .v => 0
      | .m => 8
      | .c => 16) 8
    let en (j : RingSel) : Bool := (w j).testBit 63
    let base (j : RingSel) : Nat := w j % 2 ^ 22
    let size (j : RingSel) : Nat := w j / 2 ^ 24 % 2 ^ 16
    let laid (j : RingSel) : Nat := w j / 2 ^ 40 % 2 ^ 16
    let ok (j : RingSel) : Prop := w j / 2 ^ 56 % 2 ^ 7 = 0 ∧ w j / 2 ^ 22 % 4 = 0 ∧ base j % 4 = 0 ∧ 4 ≤ size j ∧
      laid j < size j ∧ base j + 4 * size j ≤ 0x2FF000
    (∀ j, kept = none → en j = true → ¬ ok j → s.me.s.inHandler = false → Traps (.fork st a) s 1 0) ∧
    ((∀ j, kept = none → en j = true → ok j) → (∃ j, en j = true ∧ s.me.running j = true) →
      Does (.fork st a) s (fun t => OnlyCore s.curN (if kept = none then read.1 else s) t ∧ t.me.s.pc = s.me.s.pc ∧
        t.me.s.forkTab = some tab ∧ ∃ es, t.me.s.st = .waiting (.engines es) ∧
        ∀ j, j ∈ es ↔ en j = true ∧ s.me.running j = true)) ∧
    ((∀ j, kept = none → en j = true → ok j) → (∀ j, en j = true → s.me.running j = false) → Ready s s.curN false →
      Does (.fork st a) s (fun t =>
        (∀ j, t.me.engine j =
          if en j then { st := .running, base := base j, size := size j, rp := 0, wp := laid j }
          else if (s.me.engine j).st = .ended ∨ (s.me.engine j).st = .stopped then { s.me.engine j with st := .idle }
          else s.me.engine j) ∧
        t.me.v.schk = s.me.s.schk ∧ t.me.v.vstStop = false ∧ t.me.v.vstCode = 0 ∧ t.me.s.forkTab = none ∧ t.me.s.queue = [] ∧
        t.me.buffer = s.me.buffer ++ s.queueShown false ∧
        (∀ n, t.me.xr n = s.me.xr n) ∧ t.me.t = s.me.t ∧ NextWord s t ∧
        (∀ b, t.dev b = s.dev b) ∧ (∀ b, Sparse.get 0 t.me.spad.bytes b = Sparse.get 0 s.me.spad.bytes b)))

/-- R194-R196: the mailboxes, the V fence, appending to a ring. -/
def Obligations.FeedingEnginesFromTheStream : Prop :=
  ∀ (st : SStall) (a b : XReg) (mb : BitVec 4) (r : RingSel) (s : State),
    let box (c : Core) (j : Nat) : Option (Word × Word) := Sparse.get none c.v.mailbox j
    let e := s.me.engine r
    let fed (i : Instr) (ws : List Word) : Prop :=
      (e.size = 0 → s.me.s.inHandler = false → Traps i s 1 0) ∧
      (e.size ≠ 0 → ¬ ((e.wp + e.size - e.rp) % e.size + ws.length < e.size) → Waits i s (.room r ws.length)) ∧
      (e.size ≠ 0 → (e.wp + e.size - e.rp) % e.size + ws.length < e.size →
        (Stuck s s.curN false → Waits i s .queues) ∧
        (Ready s s.curN false → Does i s (fun t =>
          t.me.engine r = { e with wp := (e.wp + ws.length) % e.size } ∧ (∀ q, q ≠ r → t.me.engine q = s.me.engine q) ∧
          t.me.s.queue = [] ∧ t.me.buffer = s.me.buffer ++ s.queueShown false ++ ws.zipIdx.map (fun x =>
            let p := e.base + 4 * ((if x.2 = 0 then e.wp else (e.wp + x.2) % e.size))
            (⟨[⟨.sp s.curN, p, p, p, (List.range 4).map (fun j => (x.1.extractLsb' (8 * j) 8, false)), [], none⟩], .s⟩ : VisStore)) ∧
          t.mem = s.mem ∧ (∀ n, t.me.xr n = s.me.xr n) ∧ t.me.s.sst = s.me.s.sst ∧ t.me.mtes = s.me.mtes ∧
          NextWord s t ∧ OnlyCore s.curN s t)))
    (box s.me mb.toNat = none → Does (.send st a b mb) s (fun t =>
      (∀ j : BitVec 4, box t.me j.toNat = if j = mb then some (s.me.xr a, s.me.xr b) else box s.me j.toNat) ∧
      OnlyCore s.curN s t ∧ NextWord s t ∧
      t.me = { s.me with s := { s.me.s with pc := t.me.s.pc, st := t.me.s.st }, v := { s.me.v with mailbox := t.me.v.mailbox } })) ∧
    (box s.me mb.toNat ≠ none → Waits (.send st a b mb) s (.mailboxEmpty mb)) ∧
    (s.me.vworks = true → Ready s s.curN true → Does (.vfence st) s (fun t => t.me.s.st = .waiting .vfence ∧
      t.me.s.pc = s.me.s.pc ∧ (∀ n, t.me.xr n = s.me.xr n) ∧ t.mem = s.mem ∧ OnlyCore s.curN s t)) ∧
    (Stuck s s.curN true → Waits (.vfence st) s .vfence) ∧
    (s.me.vworks = false → Ready s s.curN true → Does (.vfence st) s (fun t =>
      OnlyCore s.curN s t ∧ GivenUp s t s.me.v.queue ∧
      t.me = { s.me with
        mtes := t.me.mtes
        buffer := s.me.buffer ++ s.queueShown true
        v := { s.me.v with queue := [] }
        s := { s.me.s with pc := s.me.s.pc + 4#16, st := .running } })) ∧
    fed (.rapp st a r) [s.me.xr a] ∧ fed (.rappPair st a b r) [s.me.xr a, s.me.xr b]

/-- R198, R220: counting, the limit, the order of awaiters. -/
def Obligations.SemaphoresOfTheScalarStream : Prop :=
  ∀ (st : SStall) (n : SemId) (s : State),
    let old := s.me.sem n.toNat
    let others (t : State) : Prop := (∀ j : SemId, j ≠ n → t.me.sem j.toNat = s.me.sem j.toNat) ∧
      (∀ r, t.me.xr r = s.me.xr r) ∧ t.me.s.sst = s.me.s.sst ∧ t.mem = s.mem ∧ OnlyCore s.curN s t
    (Stuck s s.curN false → Waits (.post st n) s .queues) ∧
    (Ready s s.curN false → Does (.post st n) s (fun t => others t ∧ NextWord s t ∧ t.me.s.queue = [] ∧
      t.me.buffer = s.me.buffer ++ s.queueShown false ∧ t.me.mtes = s.me.mtes ∧
      (n = 0 → t.me.sem 0 = s.me.sem 0) ∧
      (n ≠ 0 → t.me.s.latch = true ∧
        (old.count.toNat < 65535 → (t.me.sem n.toNat).count.toNat = old.count.toNat + 1 ∧ (t.me.sem n.toNat).err = old.err) ∧
        (old.count.toNat = 65535 → t.me.sem n.toNat = { count := 65535, err := true })))) ∧
    (s.me.ahead n .s < old.count.toNat → Does (.waits st n) s (fun t => others t ∧ NextWord s t ∧
      (t.me.sem n.toNat).count.toNat = old.count.toNat - 1 ∧ (t.me.sem n.toNat).err = old.err ∧
      t.me.waiters = s.me.waiters.filter (fun w => w.2 != .s))) ∧
    (old.count.toNat ≤ s.me.ahead n .s → Does (.waits st n) s (fun t => others t ∧ t.me.s.pc = s.me.s.pc ∧
      t.me.s.st = .waiting (.sem n) ∧ t.me.sem n.toNat = old ∧ (n, .s) ∈ t.me.waiters))

/-- R201: arrival, the change of phase, and completion; in a panel of one core, or in none, BAR is FENCE.AR. -/
def Obligations.BarriersOfAPanel : Prop :=
  ∀ (st : SStall) (n : BarId) (s : State),
    let c := s.me
    let base := c.panelBase s.curN
    let old := s.bar base n.toNat
    let cores := c.panelCores s.curN
    let shared (t : State) : Prop := t.me.s.queue = [] ∧ t.me.buffer = [] ∧ t.me.mtes = c.mtes ∧ t.mem = s.mem ∧
      (∀ r, t.me.xr r = c.xr r) ∧
      (t.panel base).buffer = (s.panel base).buffer ++ (c.buffer ++ s.queueShown false).map (fun q => (s.curN, q)) ∧
      ∀ m : BarId, m ≠ n → t.bar base m.toNat = s.bar base m.toNat
    (c.panelSize = 1 → (s.lazy = true ∨ c.s.loads = []) → Does (.bar st n) s (fun t => NextWord s t ∧
      (∀ r, t.me.xr r = c.xr r) ∧ t.panels = s.panels ∧ t.mem = s.mem ∧
      t.me.s.queue = c.s.queue ++ [{ op := .fence (if c.panel.size = 0#5 then .core else .panel), seq := c.s.seq }])) ∧
    (c.panelSize ≠ 1 → c.s.st = .running →
      (Stuck s s.curN false → Waits (.bar st n) s .queues) ∧
      (Ready s s.curN false → (∀ j, j ∈ cores → j ≠ s.curN → j ∈ old.arrived) →
        Does (.bar st n) s (fun t => NextWord s t ∧ shared t ∧ t.bar base n.toNat = { phase := !old.phase, arrived := [] })) ∧
      (Ready s s.curN false → (∃ j, j ∈ cores ∧ j ≠ s.curN ∧ j ∉ old.arrived) →
        Does (.bar st n) s (fun t => t.me.s.pc = c.s.pc ∧ t.me.s.st = .waiting (.barrier n old.phase) ∧ shared t ∧
          (t.bar base n.toNat).phase = old.phase ∧ s.curN ∈ (t.bar base n.toNat).arrived ∧
          (∀ j, j ≠ s.curN → (j ∈ (t.bar base n.toNat).arrived ↔ j ∈ old.arrived))))) ∧
    (∀ ph, c.panelSize ≠ 1 → c.s.st = .waiting (.barrier n ph) → old.phase ≠ ph →
      Retires (.bar st n) s (fun c => c)) ∧
    (c.panelSize ≠ 1 → c.s.st = .waiting (.barrier n old.phase) → Does (.bar st n) s (fun t => t = s))

/-- R202, R226, R229: the four slot operations of the S-stream. -/
def Obligations.StageRingsOfTheScalarStream : Prop :=
  ∀ (st : SStall) (d : XReg) (n : RingId) (s : State),
    let r := s.me.ring n.toNat
    let others (t : State) (k : Nat) : Prop := (∀ j, j < 64 → j ≠ k → (t.me.ring n.toNat).tag j = r.tag j) ∧
      (∀ m : RingId, m ≠ n → t.me.ring m.toNat = s.me.ring m.toNat) ∧ (t.me.ring n.toNat).count = r.count ∧
      t.mem = s.mem ∧ t.me.s.sst = s.me.s.sst ∧ OnlyCore s.curN s t
    let released (t : State) : Prop := (∀ x, t.me.xr x = s.me.xr x) ∧ NextWord s t ∧ t.me.s.queue = [] ∧
      t.me.buffer = s.me.buffer ++ s.queueShown false ∧ t.me.mtes = s.me.mtes
    (r.count = 0 → s.me.s.inHandler = false → Traps (.sacq st d n) s 1 0 ∧ Traps (.scommit st n) s 1 0 ∧
      Traps (.sawait st d n) s 1 0 ∧ Traps (.srel st n) s 1 0) ∧
    (r.count ≠ 0 → r.tag r.tail = 0 → Does (.sacq st d n) s (fun t =>
      (t.me.ring n.toNat).tag r.tail = 1 ∧ (t.me.ring n.toNat).tail = (r.tail + 1) % r.count % 64 ∧
      (t.me.ring n.toNat).head = r.head ∧ (t.me.ring n.toNat).errOf r.tail = false ∧
      (t.me.ring n.toNat).slot r.tail = {} ∧ XIs d (BitVec.ofNat 64 (r.slotAddr r.tail)) s t ∧ NextWord s t ∧ others t r.tail)) ∧
    (r.count ≠ 0 → r.tag r.tail ≠ 0 → Waits (.sacq st d n) s (.slotEmpty n)) ∧
    (r.count ≠ 0 → r.tag r.head = 2 → Does (.sawait st d n) s (fun t =>
      (t.me.ring n.toNat).tag r.head = 3 ∧ (t.me.ring n.toNat).head = (r.head + 1) % r.count % 64 ∧
      (t.me.ring n.toNat).tail = r.tail ∧
      XIs d (BitVec.ofNat 64 (r.slotAddr r.head) ||| (if r.errOf r.head then BitVec.intMin 64 else 0)) s t ∧ NextWord s t ∧
      others t r.head)) ∧
    (r.count ≠ 0 → r.tag r.head ≠ 2 → Waits (.sawait st d n) s (.slotFull n)) ∧
    (r.count ≠ 0 → Stuck s s.curN false → Waits (.scommit st n) s .queues ∧ Waits (.srel st n) s .queues) ∧
    (r.count ≠ 0 → Ready s s.curN false →
      (∀ k ks, r.mode = 1 → r.filling = k :: ks → Does (.scommit st n) s (fun t =>
        (t.me.ring n.toNat).tag k = 2 ∧ released t ∧ others t k)) ∧
      (r.mode = 0 ∨ r.filling = [] → Does (.scommit st n) s (fun t => t.me.ring n.toNat = r ∧ released t)) ∧
      (∀ k ks, r.draining = k :: ks → Does (.srel st n) s (fun t => (t.me.ring n.toNat).tag k = 0 ∧ released t ∧ others t k)) ∧
      (r.draining = [] → Does (.srel st n) s (fun t => t.me.ring n.toNat = r ∧ released t)))

/-- R203, R414: the statuses in their order and the accepted packet, after a release at device scope. A poisoned byte of the packet counts
as its bits stand, which is the model's choice (log entry 116). -/
def Obligations.LaunchStatusAndPool : Prop :=
  ∀ (st : SStall) (d a : XReg) (s : State) (w : StepInfo), s.me.step = some w → w.twin = .none → Ready s s.curN false →
    let u := (s.settle s.curN false .device).1
    let pk := plain (u.spRead s.curN false (s.me.xr a).toNat 64).2.1
    let status : Nat :=
      if (s.me.xr a).toNat % 64 ≠ 0 ∨ packetValid (s.slotPart w.slot) pk = false ∨ 2 < packetType pk then 3
      else if 16 ≤ w.depth then 2 else if 4096 ≤ s.disp.poolUsed then 1 else 0
    let counted (t : State) : Prop := NextWord s t ∧ ∃ x, t.me.step = some x ∧ x.launches = w.launches + 1
    (s.recordedLaunch w.jigId w.ordinal w.rank w.launches = none → Does (.jlaunch st d a) s (fun t =>
      XIs d (BitVec.ofNat 64 status) s t ∧ counted t ∧
      (status ≠ 0 → t.disp = s.disp) ∧
      (status = 0 → t.disp.poolUsed = s.disp.poolUsed + 1 ∧
        (∃ l, (t.slot w.slot).launched = (s.slot w.slot).launched ++ [l] ∧ l.packet = pk ∧ l.depth = w.depth + 1 ∧
          l.parent = w.jigId ∧ l.unit = none) ∧
        ∀ q : SlotId, q ≠ w.slot → t.slot q = s.slot q))) ∧
    (∀ v, s.recordedLaunch w.jigId w.ordinal w.rank w.launches = some v → Does (.jlaunch st d a) s (fun t =>
      XIs d (BitVec.ofNat 64 v) s t ∧ counted t ∧ t.disp = s.disp))

/-- R204, R256: the two host coherence instructions, after every earlier store is visible at device scope; loads they do not wait for. -/
def Obligations.HostLinesFlushedAndInvalidated : Prop :=
  ∀ (st : SStall) (tk : TReg) (a b : XReg) (s : State), NoTwin s s.curN →
    let n := (s.me.xr b).toNat
    let tok := s.me.tr tk
    let m := s.me.mteOf tok
    let u := (s.settleStores s.curN false .device).1
    let both (p : Instr → Prop) : Prop := p (.flushh st tk a b) ∧ p (.invh st tk a b)
    let held (u : State) (l : Nat) : Bool := Sparse.get false u.mem.hheld l
    let dirty (u : State) (x : Nat) : Bool := Sparse.get false u.mem.hdirty x
    let stored (u : State) (l : Nat) : List Nat := Sparse.get [] u.mem.hstored l
    let copy (u : State) (x : Nat) : Byte := Sparse.get 0 u.mem.hcopy.bytes x
    let host (u : State) (x : Nat) : Byte := Sparse.get 0 u.mem.host.bytes x
    let goesOn (ps : List Piece) (t : State) : Prop := NextWord s t ∧ (∀ r, t.me.xr r = s.me.xr r) ∧
      t.me.s.sst = s.me.s.sst ||| (if anyOut ps then 0x4000#64 else 0#64) ∧ t.me.s.queue = [] ∧ t.me.s.loads = s.me.s.loads ∧
      t.mem.dev = u.mem.dev
    let may : Prop := Ready s s.curN false ∨ s.me.s.queue = []
    (n = 0 → both (fun i => Retires i s (fun c => c))) ∧
    (0 < n → m.st = .dead → both (fun i => Retires i s (fun c => c))) ∧
    (0 < n → ∀ x, tok = some x → m.st = .stale → both (fun i => Waits i s (.stale x.idx))) ∧
    (∀ ps, 0 < n → Stuck s s.curN false →
      (s.access s.curN tok .s true false [(0, (s.me.xr a).toNat, n)] = .live ps → Waits (.flushh st tk a b) s .stores) ∧
      (s.access s.curN tok .s false true [(0, (s.me.xr a).toNat, n)] = .live ps → Waits (.invh st tk a b) s .stores)) ∧
    (∀ ps, 0 < n → may → s.access s.curN tok .s true false [(0, (s.me.xr a).toNat, n)] = .live ps →
      let ls := hostLines ps
      (∀ l, l ∈ ls → u.mem.hcopy.bad (128 * l) 128 = [] ∧ ∀ j, j < 128 → Sparse.get false u.mem.hcopy.pois (128 * l + j) = false) →
      u.mem.host.chk = [] →
      Does (.flushh st tk a b) s (fun t => goesOn ps t ∧ t.mem.hcopy = u.mem.hcopy ∧ t.mem.hheld = u.mem.hheld ∧
        (∀ l, stored t l = if l ∈ ls ∧ held u l then [] else stored u l) ∧
        ∀ x, dirty t x = (dirty u x && !decide (x / 128 ∈ ls ∧ held u (x / 128) = true)) ∧
          host t x = if x / 128 ∈ ls ∧ held u (x / 128) = true ∧ dirty u x = true then copy u x else host u x)) ∧
    (∀ ps, 0 < n → may → s.access s.curN tok .s false true [(0, (s.me.xr a).toNat, n)] = .live ps →
      let ls := hostLines ps
      Does (.invh st tk a b) s (fun t => goesOn ps t ∧ t.mem.host = u.mem.host ∧
        (∀ l, held t l = (held u l && !decide (l ∈ ls)) ∧ stored t l = if l ∈ ls then [] else stored u l) ∧
        ∀ x, dirty t x = (dirty u x && !decide (x / 128 ∈ ls)) ∧ (x / 128 ∉ ls → copy t x = copy u x)))

/-- R205: the two instructions, out of range and in range, after a release at device scope. -/
def Obligations.SkipMapInstructions : Prop :=
  ∀ (st : SStall) (d a b : XReg) (s : State), Ready s s.curN false →
    let u := (s.settle s.curN false .device).1
    (s.skipEntry (s.me.xr a) (s.me.xr b) = none →
      Does (.skipr st d a b) s (fun t => XIs d (BitVec.allOnes 64) s t ∧ NextWord s t ∧ OnlyX u t) ∧
      (s.twinStop s.curN = none → Does (.skipw st d a b) s (fun t =>
        OnlyXSst u t ∧ (∀ n, t.me.xr n = s.me.xr n) ∧ NextWord s t ∧ t.me.s.sst = s.me.s.sst ||| 0x4000#64))) ∧
    (∀ x sp ti, s.skipEntry (s.me.xr a) (s.me.xr b) = some (x, sp, ti) →
      (∀ s' k c f, u.mapEntry s.me.gangOf x [0, 1, 2] false sp ti = (s', some [k, c, f]) → Does (.skipr st d a b) s (fun t =>
        XIs d (BitVec.ofBool (f.1.getLsbD (ti % 8)) ++ BitVec.ofBool (c.1.getLsbD (ti % 8)) ++
          BitVec.ofBool (k.1.getLsbD (ti % 8)) |>.setWidth 64) s t ∧ NextWord s t ∧ OnlyX s' t)) ∧
      (∀ s' k f, s.twinStop s.curN = none → u.mapEntry s.me.gangOf x [0, 2] true sp ti = (s', some [k, f]) →
        ∃ kb fb : Byte,
          (∀ j, j < 8 → kb.getLsbD j = if j = ti % 8 then (s.me.xr d).getLsbD 0 else (k.1.getLsbD j && !k.2)) ∧
          (∀ j, j < 8 → fb.getLsbD j = if j = ti % 8 then true else (f.1.getLsbD j && !f.2)) ∧
          Does (.skipw st d a b) s (fun t =>
            let v := (s'.gangStore s.me.gangOf (x.mapva + sp * (8 * ((x.nt + 63) / 64)) + ti / 8) [(kb, false)]).gangStore
              s.me.gangOf (x.mapva + 2 * (x.ns * (8 * ((x.nt + 63) / 64))) + sp * (8 * ((x.nt + 63) / 64)) + ti / 8) [(fb, false)]
            t.mem = v.mem ∧ NextWord s t ∧ OnlyX v t)))

/-- R24-R27, R206: the control and status registers; SST is read and written after the stream's earlier accesses (R75). -/
def Obligations.ControlRegisterAccess : Prop :=
  ∀ (st : SStall) (d a : XReg) (c : BitVec 11) (s : State),
    let n := c.toNat
    let k := s.curN
    let t := s.me.s
    let known := n ∈ [0, 1, 2, 3, 16, 17, 18, 19, 32, 33, 34, 35, 36]
    let readOnly := n ∈ [1, 3, 32, 33, 34, 35, 36]
    let super := n ∈ [16, 17, 18, 19]
    let old : Word :=
      if n = 0 then t.sst else if n = 1 then t.tstat else if n = 2 then (if t.schk then 1 else 0)
      else if n = 3 then (0#55 ++ BitVec.ofBool s.me.v.vstStop ++ s.me.v.vstCode)
      else if n = 16 then t.tvec else if n = 17 then t.tepc else if n = 18 then t.tcause else if n = 19 then t.tval
      else if n = 32 then (BitVec.ofNat 64 (k % 256) ||| (if 128 ≤ k then 256#64 else 0#64))
      else if n = 33 then (if s.me.panel.size = 0 then 0 else
        0#40 ++ s.me.panel.base ++ 0#4 ++ s.me.panel.rank ++ 0#3 ++ s.me.panel.size)
      else if n = 34 then BitVec.ofNat 64 s.clock else if n = 35 then s.me.season.setWidth 64 else s.govst k
    let after (t : SCore) (v : Word) : SCore :=
      if n = 0 then { t with sst := v &&& 0xC01F#64 } else if n = 2 then { t with schk := v.getLsbD 0 }
      else if n = 16 then { t with tvec := v &&& ~~~3#64 } else if n = 17 then { t with tepc := v }
      else if n = 18 then { t with tcause := v &&& 0xFF#64 } else { t with tval := v }
    let u := (s.settle k false .core).1
    let writes (i : Instr) (v : Word) : Prop :=
      ((¬ known ∨ readOnly) → t.inHandler = false → Traps i s 1 0) ∧
      (super → t.mode = .user → t.inHandler = false → Traps i s 2 0) ∧
      (known → ¬ readOnly → ¬ (super ∧ t.mode = .user) → (n = 0 → Ready s k false) → Does i s (fun q =>
        let s0 := if n = 0 then u else s
        XIs d old s q ∧ NextWord s q ∧ OnlyCore k s0 q ∧
        q.me = { s0.me with s := { after s0.me.s v with x := q.me.s.x, pc := q.me.s.pc, st := q.me.s.st } }))
    (known → n ≠ 0 → WritesX (.csrr st d c) s d old) ∧
    (n = 0 → Ready s k false → Does (.csrr st d c) s (fun q => XIs d old s q ∧ NextWord s q ∧ OnlyX u q)) ∧
    (¬ known → t.inHandler = false → Traps (.csrr st d c) s 1 0) ∧
    writes (.csrw st d a c) (s.me.xr a) ∧ writes (.csrs st d a c) (old ||| s.me.xr a) ∧
    writes (.csrc st d a c) (old &&& ~~~(s.me.xr a))

/-- R209, R210, R212, R421: taking an exception, the return from one, and the double trap of a tile step and of a Bench core. -/
def Obligations.TrapsAndReturns : Prop :=
  ∀ (st : SStall) (code : BitVec 8) (s : State),
    let k := s.curN
    let double (p : Instr → Prop) : Prop := p (.trap st code) ∧ p (.bkpt st) ∧ (s.me.s.mode = .user → p (.eret st))
    let stopped : Core := { s.me with s := { s.me.s with st := .stopped } }
    (s.me.s.inHandler = false → Traps (.trap st code) s 14 (code.setWidth 64) ∧ Traps (.bkpt st) s 13 0) ∧
    (s.me.s.inHandler = false → s.me.s.mode = .user → Traps (.eret st) s 2 0) ∧
    (s.me.s.mode = .supervisor → Does (.eret st) s (fun t => OnlyCore s.curN s t ∧
      t.me = { s.me with s := { s.me.s with
        mode := if s.me.s.tepc.getLsbD 0 then .user else .supervisor
        inHandler := false
        pc := s.me.s.tepc.setWidth 16 &&& 0xFFFC#16
        st := .running } })) ∧
    (s.me.s.inHandler = true → k < 256 → double (fun i => Does i s (fun t => t = { s with cores := t.cores } ∧
      ∀ j, t.core j =
        let c := if j = k then stopped else s.core j
        if j ∈ s.me.panelCores k then
          { c with step := c.step.map (fun w => { w with ended := w.ended.or (some (s.me.s.tcause.toNat, k, true)) }) }
        else c))) ∧
    (s.me.s.inHandler = true → 256 ≤ k → double (fun i => Does i s (fun t =>
      t = { s with cores := t.cores, bench := { s.bench with lost := s.bench.lost || benchB k == s.bench.activeB } } ∧
      t.me = stopped ∧ ∀ j, j ≠ k → t.core j = s.core j)))

/-- R193, R214: HALT and WFI. That HALT takes the V-stream's stores before the S-stream's is the model's choice (log entry 18), and so is
that S stores hold no reference (log entry 36). -/
def Obligations.HaltAndWaitForInterrupt : Prop :=
  ∀ (st : SStall) (s : State),
    let c := s.me
    (∀ r, c.running r = true → Waits (.halt st) s .rdv) ∧
    ((∀ r, c.running r = false) → Ready s s.curN false → Ready s s.curN true → Does (.halt st) s (fun t =>
      t.me.s.st = .halted ∧ t.me.s.pc = c.s.pc ∧ (∀ n, t.me.xr n = c.xr n) ∧ t.me.s.sst = c.s.sst ∧
      t.me.s.queue = [] ∧ t.me.v.queue = [] ∧ GivenUp s t c.v.queue ∧
      Widened s t .core (s.queueShown true ++ s.queueShown false) ∧ OnlyCore s.curN s t)) ∧
    (c.s.latch = true → Retires (.wfi st) s (fun c => { c with s := { c.s with latch := false } })) ∧
    (c.s.latch = false → Waits (.wfi st) s .event)

/-- R211, R214, R217, R248, R249: events that act on a core. A trap is taken at an instruction boundary, or abandons an instruction
that waits; a stream wakes when what it waits for holds, and an S instruction then completes before anything else (R197); a store
becomes visible at the next wider scope, the oldest of a queue, and beyond it one that no earlier store has to precede: which is a free
value (log entry 18). -/
def Obligations.AsynchronousTrapsAndWakes : Prop :=
  ∀ (core : CoreId) (s : State),
    let k := core.toNat
    let c := s.core k
    let pend := c.s.pendLost = true ∨ c.s.pendEng = true
    let open_ := s.stalled k = false ∧ s.held k = false ∧ c.s.inHandler = false
    let taken (t : State) : Prop := OnlyCore k s t ∧
      (t.core k).s.tcause = (if c.s.pendLost then 9 else 11) ∧ (t.core k).s.tval = 0 ∧
      (t.core k).s.tepc = c.s.pc.setWidth 64 ||| (if c.s.mode = .user then 1#64 else 0#64) ∧
      (t.core k).s.mode = .supervisor ∧ (t.core k).s.inHandler = true ∧ (t.core k).s.st = .running ∧
      (t.core k).s.pc = c.s.tvec.setWidth 16 &&& 0xFFFC#16 ∧
      (t.core k).s.pendLost = false ∧ (t.core k).s.pendEng = (c.s.pendEng && c.s.pendLost) ∧
      (∀ n, (t.core k).xr n = c.xr n) ∧ (t.core k).v = c.v ∧ (t.core k).m = c.m ∧ (t.core k).t = c.t
    let storeOf (v : Bool) : Agent := if v then .v else .s
    let first (p q : VisStore) : Prop := (p.src = q.src ∧ (p.src = .s ∨ p.src = .v)) ∨ p.meets q = true
    (¬ (open_ ∧ pend) → Does (.takeAsyncTrap core) s (fun t => t = s)) ∧
    (open_ → pend → c.s.st = .running → Does (.takeAsyncTrap core) s taken) ∧
    (∀ w, open_ → pend → c.s.st = .waiting w → w.abandonable = true → w.holds s k .s = false → (∀ n p, w ≠ .barrier n p) →
      Does (.takeAsyncTrap core) s taken) ∧
    (∀ w, c.s.st = .waiting w → (w.abandonable = false ∨ w.holds s k .s = true) →
      Does (.takeAsyncTrap core) s (fun t => t = s)) ∧
    (∀ w, c.s.st = .waiting w → w.holds s k .s = false → Does (.streamWake core .s) s (fun t => t = s)) ∧
    (∀ w, c.s.st = .waiting w → w.holds s k .s = true →
      Does (.streamWake core .s) s (fun t => t = { s with agenda := .run k .s s.budget :: s.agenda })) ∧
    (∀ w, c.v.wait = some w → w.holds s k .v = true →
      Does (.streamWake core .v) s (fun t => OnlyCore k s t ∧ t.core k = { c with v := { c.v with wait := none } })) ∧
    (∀ v q qs, c.storesOf v = q :: qs → c.keptBack v q = true →
      Does (.storeVisible core (storeOf v)) s (fun t => t = s)) ∧
    (∀ v q qs, c.storesOf v = q :: qs → c.keptBack v q = false → Leaves s k v q →
      let tso := c.onTso q.via (s.partsOf k v q) = true ∧ c.loadsBefore v q ≠ []
      (q.via ≠ none → tso → Does (.storeVisible core (storeOf v)) s (fun t => t = s)) ∧
      ((q.via = none ∨ ¬ tso) → (v = true → q.via ≠ none → 1 < (c.mteOf q.via).refs) →
        Does (.storeVisible core (storeOf v)) s (fun t => OnlyCore k s t ∧
          (∀ j, (t.core k).mte j = { c.mte j with
            refs := (c.mte j).refs - if v = true ∧ q.via.map (fun x => x.idx.toNat) = some j then 1 else 0 }) ∧
          t.core k = { (c.setStores v qs) with buffer := c.buffer ++ [s.shown k v q], mtes := (t.core k).mtes }))) ∧
    (∀ v q qs, c.storesOf v = q :: qs → c.keptBack v q = false → q.op = .fence .core →
      Does (.storeVisible core (storeOf v)) s (fun t => OnlyCore k s t ∧ t.core k = c.setStores v qs)) ∧
    (c.buffer = [] → Does (.storeVisible core .m) s (fun t => t = s)) ∧
    (c.buffer ≠ [] → (c.panel.size = 0#5 → NoTwin s k ∧ s.mem.mig = [] ∧ ∀ q, q ∈ c.buffer → OneKey s [q]) →
      Does (.storeVisible core .m) s (fun t => ∃ i q, c.buffer[i]? = some q ∧
        (∀ j p, j < i → c.buffer[j]? = some p → ¬ first p q) ∧ (t.core k).buffer = c.buffer.eraseIdx i ∧
        (t.core k).s = c.s ∧ t.disp = s.disp ∧
        if c.panel.size = 0#5 then ∀ a, t.dev a = devAfter [q] s.dev a
        else t.mem = s.mem ∧ (t.panel (c.panelBase k)).buffer = (s.panel (c.panelBase k)).buffer ++ [(k, q)])) ∧
    (let es := (s.panel (c.panelBase k)).buffer
     es ≠ [] → (∀ e, e ∈ es → NoTwin s e.1 ∧ OneKey s [e.2]) → s.mem.mig = [] →
      Does (.storeVisible core .c) s (fun t => ∃ i e, es[i]? = some e ∧
        (∀ j p, j < i → es[j]? = some p → ¬ (p.1 = e.1 ∧ p.2.src = e.2.src ∧ (p.2.src = .s ∨ p.2.src = .v)) ∧
          p.2.meets e.2 = false) ∧
        (t.panel (c.panelBase k)).buffer = es.eraseIdx i ∧
        (∀ a, t.dev a = devAfter [e.2] s.dev a) ∧ (t.core k).s = c.s ∧ t.disp = s.disp))

/-- R118-R122: elementwise arithmetic under a predicate, and its frame. -/
def Obligations.VectorArithmeticResults : Prop :=
  ∀ (et : ETy) (st : VStall) (g : PReg) (d a b : VReg) (sat uns : Bool) (s : State) (t : ElType),
    s.me.etype et = some t → t.cont ∣ 256 →
    let x (j : Nat) : Nat := s.me.elAt t a j
    let y (j : Nat) : Nat := s.me.elAt t b j
    let z (j : Nat) : Nat := s.me.elAt t d j
    let px (j : Nat) : Bool := s.me.elPois t a j
    let pxy (j : Nat) : Bool := s.me.elPois t a j || s.me.elPois t b j
    let pxyz (j : Nat) : Bool := s.me.elPois t a j || s.me.elPois t b j || s.me.elPois t d j
    (∀ sg w, t = .int sg w →
      let r (i : Int) : Nat := intResult w sat i
      let n := signedOf w
      WritesEls (.vadd et st g d a b sat) s t g d (fun j => r (n (x j) + n (y j))) pxy ∧
      WritesEls (.vsub et st g d a b sat) s t g d (fun j => r (n (x j) - n (y j))) pxy ∧
      WritesEls (.vmul et st g d a b sat) s t g d (fun j => r (n (x j) * n (y j))) pxy ∧
      WritesEls (.vfma et st g d a b sat) s t g d (fun j => r (n (x j) * n (y j) + n (z j))) pxyz ∧
      WritesEls (.vmin et st g d a b uns) s t g d
        (fun j => if uns then min (x j) (y j) else if n (x j) ≤ n (y j) then x j else y j) pxy ∧
      WritesEls (.vmax et st g d a b uns) s t g d
        (fun j => if uns then max (x j) (y j) else if n (y j) ≤ n (x j) then x j else y j) pxy ∧
      WritesEls (.vabs et st g d a sat) s t g d (fun j => r |n (x j)|) px ∧
      WritesEls (.vneg et st g d a sat) s t g d (fun j => r (-n (x j))) px) ∧
    (∀ f, t = .flt f →
      let v := f.decode
      let r (w : FVal) : Nat := (f.round .rne sat w).bits
      let r' (w : FVal) : Nat := (f.round .rne false w).bits
      WritesEls (.vadd et st g d a b sat) s t g d (fun j => r ((v (x j)).add (v (y j)))) pxy ∧
      WritesEls (.vsub et st g d a b sat) s t g d (fun j => r ((v (x j)).add (v (y j)).neg)) pxy ∧
      WritesEls (.vmul et st g d a b sat) s t g d (fun j => r ((v (x j)).mul (v (y j)))) pxy ∧
      WritesEls (.vfma et st g d a b sat) s t g d (fun j => r (((v (x j)).mul (v (y j))).add (v (z j)))) pxyz ∧
      WritesEls (.vmin et st g d a b uns) s t g d (fun j => r' ((v (x j)).minv (v (y j)))) pxy ∧
      WritesEls (.vmax et st g d a b uns) s t g d (fun j => r' ((v (x j)).maxv (v (y j)))) pxy ∧
      WritesEls (.vabs et st g d a sat) s t g d (fun j => r (v (x j)).abs) px ∧
      WritesEls (.vneg et st g d a sat) s t g d (fun j => r (v (x j)).neg) px)

/-- R123-R125: bitwise operations, shifts, comparison, selection, move. -/
def Obligations.VectorLogicAndSelection : Prop :=
  ∀ (et : ETy) (st : VStall) (g p : PReg) (d a b : VReg) (k : CmpKind) (uns : Bool) (s : State) (t : ElType),
    s.me.etype et = some t → t.cont ∣ 256 →
    let x (j : Nat) : Nat := s.me.elAt t a j
    let y (j : Nat) : Nat := s.me.elAt t b j
    let px (j : Nat) : Bool := s.me.elPois t a j
    let pxy (j : Nat) : Bool := s.me.elPois t a j || s.me.elPois t b j
    WritesEls (.vand et st g d a b) s t g d (fun j => x j &&& y j) pxy ∧
    WritesEls (.vor et st g d a b) s t g d (fun j => x j ||| y j) pxy ∧
    WritesEls (.vxor et st g d a b) s t g d (fun j => x j ^^^ y j) pxy ∧
    WritesEls (.vshl et st g d a b) s t g d (fun j => if t.width ≤ y j then 0 else x j * 2 ^ y j % 2 ^ t.width) pxy ∧
    WritesEls (.vshr et st g d a b uns) s t g d (fun j =>
      if uns then (if t.width ≤ y j then 0 else x j / 2 ^ y j)
      else ((signedOf t.width (x j) / 2 ^ (min (y j) t.width)) % 2 ^ t.width).toNat) pxy ∧
    WritesEls (.vmov et st g d a) s t g d x px ∧
    WritesAll (.vsel et st p d a b) s t d (fun j => if (s.me.pr p).getLsbD j then x j else y j)
      (fun j => s.me.ppois p || if (s.me.pr p).getLsbD j then s.me.elPois t a j else s.me.elPois t b j) ∧
    Does (.vcmp et st p k a b uns) s (fun u =>
      OnlyCore s.curN s u ∧ (∀ r, u.me.vr r = s.me.vr r) ∧ (∀ q, q ≠ p ∨ q = 0#5 → u.me.pr q = s.me.pr q) ∧
      (∀ j, p ≠ 0#5 → j < 1024 → (u.me.pr p).getLsbD j = (decide (j < t.count) &&
        match t with
        | .int _ w =>
          let m (n : Nat) : Int := if uns then (n : Int) else signedOf w n
          (match k with
          | .eq => decide (m (x j) = m (y j))
          | .ne => decide (m (x j) ≠ m (y j))
          | .lt => decide (m (x j) < m (y j))
          | .le => decide (m (x j) ≤ m (y j))
          | .gt => decide (m (x j) > m (y j))
          | .ge => decide (m (x j) ≥ m (y j))
          | .unord => false
          | .ord => true)
        | .flt f =>
          match (f.decode (x j)).cmp (f.decode (y j)) with
          | none => k == .ne || k == .unord
          | some o => (match k with
            | .eq => o == .eq
            | .ne => o != .eq
            | .lt => o == .lt
            | .le => o != .gt
            | .gt => o == .gt
            | .ge => o != .lt
            | .unord => false
            | .ord => true))) ∧
      (p ≠ 0#5 → (u.me.ppois p = true ↔ ∃ j, j < t.count ∧ pxy j = true)) ∧
      u.me.v.eng = s.me.v.eng.advance 1)

/-- R126, R43, R44: the special functions on element encodings: the table of special inputs, powers of two, and the reciprocal and the
reciprocal square root as the exact value rounded once, ties to even; an overflow counts as the power of two next above the largest
finite value. The rounding of the other results is as far as log entry 29 goes. -/
def Obligations.VectorSpecialFunctions : Prop :=
  ∀ (et : ETy) (st : VStall) (g : PReg) (d a : VReg) (s : State) (f : Fmt),
    s.me.etype et = some (.flt f) → f ∈ [Fmt.fp32, Fmt.fp16, Fmt.bf16] →
    let x (j : Nat) : Nat := s.me.elAt (.flt f) a j
    let px : Nat → Bool := s.me.elPois (.flt f) a
    let e (b : Nat) : Nat := exp2Fn f (f.decode b)
    let l (b : Nat) : Nat := log2Fn f (f.decode b)
    let c (b : Nat) : Nat := rcpFn f (f.decode b)
    let q (b : Nat) : Nat := rsqFn f (f.decode b)
    let h (b : Nat) : Nat := tanhFn f (f.decode b)
    let r (b : Nat) : Nat := erfFn f (f.decode b)
    let sign := 2 ^ (f.width - 1)
    let inf := (2 ^ f.eb - 1) * 2 ^ f.mb
    let nan := inf + 2 ^ (f.mb - 1)
    let bias := 2 ^ (f.eb - 1) - 1
    let one := bias * 2 ^ f.mb
    let pow (k : Int) : Nat := (k + bias).toNat * 2 ^ f.mb
    let int (k : Int) : Nat := (f.round .rne false (.fin (decide (k < 0)) k.natAbs 0)).bits
    let value (b : Nat) : Option ℝ := match f.decode b with
      | .fin n m k => some ((if n then -1 else 1) * (m : ℝ) * (2 : ℝ) ^ k)
      | .inf n => some ((if n then -1 else 1) * (2 : ℝ) ^ (bias + 1))
      | .nan => none
    let rounded (y : ℝ) (b : Nat) : Prop := b < 2 ^ f.width ∧ ∃ v, value b = some v ∧ ∀ b' w, b' < 2 ^ f.width → value b' = some w →
      |v - y| ≤ |w - y| ∧ (|v - y| = |w - y| → v ≠ w → b % 2 = 0)
    WritesEls (.vexp2 et st g d a) s (.flt f) g d (fun j => e (x j)) px ∧
    WritesEls (.vlog2 et st g d a) s (.flt f) g d (fun j => l (x j)) px ∧
    WritesEls (.vrcp et st g d a) s (.flt f) g d (fun j => c (x j)) px ∧
    WritesEls (.vrsq et st g d a) s (.flt f) g d (fun j => q (x j)) px ∧
    WritesEls (.vtanh et st g d a) s (.flt f) g d (fun j => h (x j)) px ∧
    WritesEls (.verf et st g d a) s (.flt f) g d (fun j => r (x j)) px ∧
    (∀ b, f.decode b = .nan → e b = nan ∧ l b = nan ∧ c b = nan ∧ q b = nan ∧ h b = nan ∧ r b = nan) ∧
    (e (sign + inf) = 0 ∧ l (sign + inf) = nan ∧ c (sign + inf) = sign ∧ q (sign + inf) = nan ∧
      h (sign + inf) = sign + one ∧ r (sign + inf) = sign + one) ∧
    (e inf = inf ∧ l inf = inf ∧ c inf = 0 ∧ q inf = 0 ∧ h inf = one ∧ r inf = one) ∧
    (e sign = one ∧ l sign = sign + inf ∧ c sign = sign + inf ∧ q sign = sign + inf ∧ h sign = sign ∧ r sign = sign) ∧
    (e 0 = one ∧ l 0 = sign + inf ∧ c 0 = inf ∧ q 0 = inf ∧ h 0 = 0 ∧ r 0 = 0) ∧
    (∀ b m k, f.decode b = .fin true m k → m ≠ 0 → l b = nan ∧ q b = nan) ∧
    (∀ b m k, f.decode b = .fin true m k → m ≠ 0 → rounded (-1 / ((m : ℝ) * (2 : ℝ) ^ k)) (c b)) ∧
    (∀ b m k, f.decode b = .fin false m k → m ≠ 0 →
      rounded (1 / ((m : ℝ) * (2 : ℝ) ^ k)) (c b) ∧ rounded (1 / Real.sqrt ((m : ℝ) * (2 : ℝ) ^ k)) (q b)) ∧
    (∀ k : Int, 1 - (bias : Int) ≤ k → k ≤ (bias : Int) - 1 →
      c (pow k) = pow (-k) ∧ l (pow k) = int k ∧ e (int k) = pow k)

/-- R61, R137: the immediate forms. That VMOVI of a floating NaN immediate keeps its bits is the model's choice (log entry 89). -/
def Obligations.VectorImmediateForms : Prop :=
  ∀ (et : ETy) (st : VStall) (d : VReg) (imm : BitVec 16) (s : State) (t : ElType),
    s.me.etype et = some t → t.cont ∣ 256 →
    let z (j : Nat) : Nat := s.me.elAt t d j
    let pz (j : Nat) : Bool := s.me.elPois t d j
    WritesAll (.vandi et st d imm) s t d (fun j => z j &&& (imm.toInt % 2 ^ t.width).toNat) pz ∧
    WritesAll (.vshli et st d imm) s t d
      (fun j => if t.width ≤ imm.toNat then 0 else z j * 2 ^ imm.toNat % 2 ^ t.width) pz ∧
    (∀ sg w, t = .int sg w →
      let k : Int := max (-2 ^ (w - 1)) (min (2 ^ (w - 1) - 1) imm.toInt)
      let n := signedOf w
      WritesAll (.vaddi et st d imm) s t d (fun j => intResult w false (n (z j) + k)) pz ∧
      WritesAll (.vsubi et st d imm) s t d (fun j => intResult w false (n (z j) - k)) pz ∧
      WritesAll (.vmuli et st d imm) s t d (fun j => intResult w false (n (z j) * k)) pz ∧
      WritesAll (.vmaxi et st d imm) s t d (fun j => intResult w false (max (n (z j)) k)) pz ∧
      WritesAll (.vmini et st d imm) s t d (fun j => intResult w false (min (n (z j)) k)) pz ∧
      WritesAll (.vmovi et st d imm) s t d (fun _ => intResult w false k) (fun _ => false)) ∧
    (∀ f, t = .flt f →
      let k (j : Nat) : Nat :=
        if f.width = 32 then imm.toNat * 2 ^ 16 else if f.width = 16 then imm.toNat
        else (if j % 2 = 0 then imm.toNat % 2 ^ 8 else imm.toNat / 2 ^ 8) % 2 ^ f.width
      let r (w : FVal) : Nat := (f.round .rne false w).bits
      let v := f.decode
      WritesAll (.vaddi et st d imm) s t d (fun j => r ((v (z j)).add (v (k j)))) pz ∧
      WritesAll (.vsubi et st d imm) s t d (fun j => r ((v (z j)).add (v (k j)).neg)) pz ∧
      WritesAll (.vmuli et st d imm) s t d (fun j => r ((v (z j)).mul (v (k j)))) pz ∧
      WritesAll (.vmaxi et st d imm) s t d (fun j => r ((v (z j)).maxv (v (k j)))) pz ∧
      WritesAll (.vmini et st d imm) s t d (fun j => r ((v (z j)).minv (v (k j)))) pz ∧
      WritesAll (.vmovi et st d imm) s t d k (fun _ => false))

/-- R127-R131: the three conversions. -/
def Obligations.VectorConversions : Prop :=
  ∀ (et y : ETy) (st : VStall) (g : PReg) (d a : VReg) (rm : Round) (sat uns : Bool) (s : State) (tx ty : ElType),
    s.me.etype et = some tx → s.me.etype y = some ty → tx.cont ∣ 256 → ty.cont ∣ 256 →
    let conv (src : ElType) (m : Round) (c : Bool) (b : Nat) : Nat :=
      match src, ty with
      | .int sg w, .int sh v =>
        let i : Int := if sg then signedOf w b else ((b % 2 ^ w : Nat) : Int)
        let lo : Int := if sh then -2 ^ (v - 1) else 0
        let hi : Int := if sh then 2 ^ (v - 1) - 1 else 2 ^ v - 1
        ((if c then max lo (min hi i) else i) % 2 ^ v).toNat
      | p, q => q.encode m c (p.decode b)
    let wsrc : ElType := match tx with
      | .int _ w => .int (!uns) w
      | .flt f => .flt f
    let nw := widPair et y tx
    let nn := narPair et y ty
    (cvtPair et y tx ty = false → IllegalV (.vcvt et st g d a y rm sat) s) ∧
    (cvtPair et y tx ty = true → ¬ (et = .fx ∧ y = .fx) → ¬ (et = y ∧ et.isInt = true) →
      WritesEls (.vcvt et st g d a y rm sat) s ty g d (fun j => conv tx rm sat (s.me.elAt tx a j)) (s.me.elPois tx a)) ∧
    (et = y → et.isInt = true → WritesEls (.vcvt et st g d a y rm sat) s ty g d (s.me.elAt tx a) (s.me.elPois tx a)) ∧
    (et = .fx → y = .fx →
      WritesEls (.vcvt et st g d a y rm sat) s ty g d (fun j => s.me.elAt tx a j % 2 ^ tx.width) (s.me.elPois tx a)) ∧
    ((nw = 0 ∨ d.toNat % nw ≠ 0) → IllegalV (.vwid et st g d a y uns) s) ∧
    (nw ≠ 0 → d.toNat % nw = 0 → Does (.vwid et st g d a y uns) s (fun u =>
      OnlyV s u ((List.range nw).map (fun k => d + BitVec.ofNat 5 k)) ∧
      ∀ k, k < nw → ElementsAre s u ty (d + BitVec.ofNat 5 k) (fun i => (s.me.pr g).getLsbD (nw * i + k) = true)
        (fun i => conv wsrc .rne false (s.me.elAt tx a (nw * i + k)))
        (fun i => s.me.ppois g || s.me.elPois tx a (nw * i + k)))) ∧
    ((nn = 0 ∨ a.toNat % nn ≠ 0) → IllegalV (.vnar et st g d a y rm sat) s) ∧
    (nn ≠ 0 → a.toNat % nn = 0 → WritesEls (.vnar et st g d a y rm sat) s ty g d
      (fun i => conv tx rm sat (s.me.elAt tx (a + BitVec.ofNat 5 (i % nn)) (i / nn)))
      (fun i => s.me.elPois tx (a + BitVec.ofNat 5 (i % nn)) (i / nn)))

/-- R132-R136, R121, R122; ADD over floating values is the exact sum rounded once (R50); MIN and MAX take all active elements at once, in
both signednesses and in the floating formats, and have the values of R134 where no element is active. A VBCAST from a poisoned
a-register poisons every sector it writes, which is the model's choice (log entry 91). -/
def Obligations.VectorPermutationsAndReductions : Prop :=
  ∀ (et : ETy) (st : VStall) (g : PReg) (d a b : VReg) (ra : AReg) (uns : Bool) (s : State) (t : ElType),
    s.me.etype et = some t → t.cont ∣ 256 →
    let x (j : Nat) : Nat := s.me.elAt t a j
    let y (j : Nat) : Nat := s.me.elAt t b j
    let m := min (2 ^ t.width) t.count
    let on (j : Nat) : Prop := (s.me.pr g).getLsbD j = true
    let act (n : Nat) : List Nat := (List.range n).filter (fun j => (s.me.pr g).getLsbD j)
    let sum (js : List Nat) : Nat := match t with
      | .int _ w => (js.map x).sum % 2 ^ w
      | .flt f => (f.round .rne false (exactSum (js.map (fun j => f.decode (x j))))).bits
    let least (js : List Nat) : Nat := match t with
      | .int _ w =>
        if uns then ((js.map x).min?).getD (2 ^ w - 1)
        else (((js.map (fun j => signedOf w (x j))).min?).getD (2 ^ (w - 1) - 1) % 2 ^ w).toNat
      | .flt f => (f.round .rne false
          (js.foldl (fun r j => r.minv (f.decode (x j))) (if js = [] then .inf false else .nan))).bits
    let greatest (js : List Nat) : Nat := match t with
      | .int _ w =>
        if uns then ((js.map x).max?).getD 0
        else (((js.map (fun j => signedOf w (x j))).max?).getD (-2 ^ (w - 1)) % 2 ^ w).toNat
      | .flt f => (f.round .rne false
          (js.foldl (fun r j => r.maxv (f.decode (x j))) (if js = [] then .inf true else .nan))).bits
    let red (fn : RedFn) (js : List Nat) : Nat := match fn with
      | .add => sum js
      | .min => least js
      | .max => greatest js
    let anyp (js : List Nat) : Bool := js.any (fun j => s.me.elPois t a j)
    let pair (i : Instr) (v : Nat → Nat) (p : Nat → Bool) : Prop := d.toNat % 2 = 0 → Does i s (fun u =>
      OnlyV s u [d, d + 1#5] ∧
      ElementsAre s u t d on (fun j => v j % 2 ^ t.width) (fun j => s.me.ppois g || p j) ∧
      ElementsAre s u t (d + 1#5) on (fun j => v (t.count + j) % 2 ^ t.width) (fun j => s.me.ppois g || p (t.count + j)))
    WritesEls (.vperm et st g d a b) s t g d
      (fun j => let k := y j % 2 ^ t.width; if m ≤ k then 0 else x (j - j % m + k))
      (fun j => let k := y j % 2 ^ t.width; s.me.elPois t b j || (decide (k < m) && s.me.elPois t a (j - j % m + k))) ∧
    pair (.vzip et st g d a b) (fun j => if j % 2 = 0 then x (j / 2) else y (j / 2))
      (fun j => if j % 2 = 0 then s.me.elPois t a (j / 2) else s.me.elPois t b (j / 2)) ∧
    pair (.vunz et st g d a b)
      (fun j => let k := if j < t.count then 2 * j else 2 * (j - t.count) + 1
        if k < t.count then x k else y (k - t.count))
      (fun j => let k := if j < t.count then 2 * j else 2 * (j - t.count) + 1
        if k < t.count then s.me.elPois t a k else s.me.elPois t b (k - t.count)) ∧
    (∀ fn, Does (.vred et st g d a fn uns) s (fun u => OnlyV s u [d] ∧
        ElementsAre s u t d (fun j => j = 0) (fun _ => red fn (act t.count)) (fun _ => s.me.ppois g || anyp (act t.count))) ∧
      WritesEls (.vscan et st g d a fn uns) s t g d (fun j => red fn (act (j + 1))) (fun j => anyp (act (j + 1)))) ∧
    WritesEls (.viota et st g d) s t g d (fun j => j % 2 ^ t.width) (fun _ => false) ∧
    WritesEls (.vbcast et st g d ra) s t g d (fun _ => (s.me.ar ra).toNat % 2 ^ t.width) (fun _ => s.me.apois ra)

/-- R118, R119, R138, R139, R142-R144: what the vector loads deliver that perform as they issue; a load whose token holds it waits as
a word, and one that its stream leaves in the load queue is complete. The general forms are the model's own operations. -/
def Obligations.VectorLoadsReadMemory : Prop :=
  ∀ (et : ETy) (st : VStall) (g : PReg) (d b : VReg) (tk : TReg) (o : AReg) (imm : BitVec 7) (gauge raw elems : Bool) (s : State)
      (t : ElType) (pa : Nat) (pas : Nat → Nat), s.me.etype et = some t →
    let c := s.me
    let tok := c.vtok tk
    let m := c.mteOf tok
    let off := (c.ar o).toNat
    let at_ (bs : List Byte) (i : Nat) : Nat := leNat bs / 2 ^ (t.cont * i) % 2 ^ t.cont
    let a := (c.ar o + 512#64 * imm.setWidth 64).toNat
    let word (i : Nat) : Nat := ((c.vr b).extractLsb' (32 * i) 32).toNat
    let place (i : Nat) : Nat := if elems then 4 * word i else word i
    let its := (c.movers t g).zip (c.offsets b)
    let vld := Instr.vld et st g d tk o gauge raw
    let vlds := Instr.vlds et st g d o imm
    let vgath := Instr.vgath et st g d tk b elems
    let lvld : QLoad :=
      { op := .vld et c.fxEntry d (c.active t g) (c.ppois g || c.apois o) (c.loadPat gauge) raw, tok := tok, off := off }
    let lvgath : QLoad :=
      { op := .vgath et c.fxEntry d (c.movers t g) (its.map (fun x => x.2.1)) (c.ppois g || its.any (fun x => x.1 && x.2.2)) elems
        tok := tok }
    let lvlds : QLoad := { op := .vlds et c.fxEntry d (c.active t g) (c.ppois g || c.apois o), off := a }
    let free (l : QLoad) : Prop := ∀ q, q ∈ c.v.queue → c.clash l q = false
    let loaded (i : Instr) (val : Nat → Nat) (pois : Bool) : Prop := Does i s (fun u => OnlyLoadV s u d ∧
      ElementsAre s u t d (fun j => (c.pr g).getLsbD j = true) val (fun _ => c.ppois g || pois))
    (t.cont ∈ [4, 8, 16, 32] → Quiet s s.curN →
      (Unformatted s tok raw → gauge = false → Reaches s m .v true false off 512 pa → CleanAt s pa 512 →
        loaded vld (at_ (s.devBytes pa 512)) (c.apois o)) ∧
      (a + 512 ≤ 0x2FF000 → c.spad.bad a 512 = [] → (∀ j, j < 512 → Sparse.get false c.spad.pois (a + j) = false) →
        loaded vlds (at_ ((List.range 512).map (fun j => Sparse.get 0 c.spad.bytes (a + j)))) (c.apois o)) ∧
      (t.cont = 32 → c.vpois b = 0 → Unformatted s tok false → m.st = .live → 0 < m.refs → m.pred = false → s.mem.mig = [] →
        (∀ i, i < 128 → (c.pr g).getLsbD i = true → Reaches s m .v true false (place i) 4 (pas i) ∧ CleanAt s (pas i) 4) →
        loaded vgath (fun i => leNat (s.devBytes (pas i) 4)) false)) ∧
    (s.lazy = false → c.v.loads = [] → Still s → (∀ x, tok = some x → 0 < (c.mte x.idx.toNat).refs) →
      (c.heldBy tok = none →
        (free lvld → ∃ r, s.vldEls s.curN tok off t (c.active t g) (c.loadPat gauge) raw = some r ∧
          Does vld s (LoadsV s r.1 (fun c => c.putEls t d (s.me.ppois g || s.me.apois o) r.2))) ∧
        (free lvgath → ∃ r, s.vgathEls s.curN tok t (c.movers t g) (its.map (fun x => x.2.1)) elems = some r ∧
          Does vgath s (LoadsV s r.1 (fun c => c.putEls t d (s.me.ppois g || its.any (fun x => x.1 && x.2.2)) r.2)))) ∧
      (let r := s.vldsEls s.curN a t (c.active t g)
       free lvlds → Does vlds s (LoadsV s r.1 (fun c => c.putEls t d (s.me.ppois g || s.me.apois o) r.2)))) ∧
    (∀ w, c.heldBy tok = some w → WaitsV vld s w ∧ WaitsV vgath s w) ∧
    (s.lazy = true →
      (c.heldBy tok = none →
        EntersLoadV vld s lvld ∧ EntersLoadV vgath s lvgath) ∧
      EntersLoadV vlds s lvlds)

/-- R118, R119, R138, R140, R142-R144, R245, R249: what the vector stores leave in the queue: the active elements with their poison, which
take the containers of their page as the store is performed, and the bytes that they are in an unformatted page; a store whose token
holds it waits as a word. -/
def Obligations.VectorStoresQueueTheirBytes : Prop :=
  ∀ (et : ETy) (st : VStall) (g : PReg) (d b : VReg) (tk : TReg) (o : AReg) (imm : BitVec 7) (raw elems : Bool) (s : State)
      (t : ElType) (pa : Nat) (pas : Nat → Nat), s.me.etype et = some t →
    let c := s.me
    let tok := c.vtok tk
    let m := c.mteOf tok
    let off := (c.ar o).toNat
    let a := (c.ar o + 512#64 * imm.setWidth 64).toNat
    let act (i : Nat) : Bool := (c.pr g).getLsbD i
    let byte (all : Bool) (j : Nat) : Byte × Bool :=
      ((c.vr d).extractLsb' (8 * j) 8, c.ppois g || all || (c.vpois d).getLsbD (j / 32))
    let word (i : Nat) : Nat := ((c.vr b).extractLsb' (32 * i) 32).toNat
    let place (i : Nat) : Nat := if elems then 4 * word i else word i
    let vst := Instr.vst et st g d tk o raw
    let vsts := Instr.vsts et st g d o imm
    let vscat := Instr.vscat et st g d tk b elems
    let els (n : Nat) (all : Bool) : List (Option (Nat × Bool)) := (List.range n).map (fun i =>
      if act i then some (c.elAt t d i, c.ppois g || all || c.elPois t d i) else none)
    let anyOff := (List.range (min 128 t.count)).any (fun i => act i && (c.vpois b).getLsbD (i / 8))
    let qvst : QStore := { op := .vec ⟨et, c.fxEntry, els t.count (c.apois o), .run off raw⟩, via := tok }
    let qvscat : QStore :=
      { op := .vec ⟨et, c.fxEntry, els (min 128 t.count) anyOff, .scatter ((List.range (min 128 t.count)).map word) elems⟩
        via := tok }
    let covers (segs : List Seg) (site : Site) (base : Nat) : Prop :=
      Covers segs site base (fun j => act (8 * j / t.cont) = true) (byte (c.apois o))
    (c.heldBy tok = none → Does vst s (EntersStoreV s qvst) ∧ Does vscat s (EntersStoreV s qvscat)) ∧
    (t.cont ∈ [8, 16, 32] ∨ (t.cont = 4 ∧ g = 0#5) →
      (Unformatted s tok raw → Reaches s m .v false true off 512 pa → covers (s.partsOf s.curN true qvst) .dev pa) ∧
      (a + 512 ≤ 0x2FF000 →
        ((∀ j, j < t.count → act j = false) → RetiresV vsts s (fun c => c)) ∧
        ((∃ j, j < t.count ∧ act j = true) →
          Does vsts s (fun u => ∃ segs, EntersStoreV s { op := .segs segs } u ∧ covers segs (.sp s.curN) a)))) ∧
    (t.cont = 32 → c.vpois b = 0 → Unformatted s tok false →
      (∀ i, i < 128 → act i = true → Reaches s m .v false true (place i) 4 (pas i)) →
      s.partsOf s.curN true qvscat = ((List.range 128).filter act).map (fun i =>
        ⟨.dev, pas i, m.vbase + place i, place i, (List.range 4).map (fun j => byte false (4 * i + j)), [], m.keyAt (place i)⟩)) ∧
    Does vsts s (fun u => u.me.v.eng = c.v.eng.advance 1 ∧ u.me.v.wait = none ∧ (∀ x, u.me.vr x = c.vr x) ∧
      u.mem = s.mem ∧ u.me.s.pc = c.s.pc ∧ ∀ x, u.me.xr x = c.xr x) ∧
    (∀ w, c.heldBy tok = some w → WaitsV vst s w ∧ WaitsV vscat s w)

/-- R145, R146, R226, R228: slots, formats and gauge patterns of the V-stream; where the S-stream waits for the same slot, it goes
first. That LDPAT takes poisoned bytes and a poisoned address as their bits stand, and that an invalid record sets no flag, is the
model's choice (log entry 90). -/
def Obligations.VectorSlotsAndFormats : Prop :=
  ∀ (st : VStall) (d h : AReg) (n : RingId) (k : BitVec 4) (kp : BitVec 3) (en : Bool) (s : State),
    let r := s.me.ring n.toNat
    let others (t : State) (k : Nat) : Prop := (∀ j, j < 64 → j ≠ k → (t.me.ring n.toNat).tag j = r.tag j) ∧
      (∀ m : RingId, m ≠ n → t.me.ring m.toNat = s.me.ring m.toNat) ∧ t.mem = s.mem ∧ OnlyCore s.curN s t ∧
      (∀ x, t.me.vr x = s.me.vr x) ∧ t.me.v.eng = s.me.v.eng.advance 1
    let aIs (t : State) (v : Word) : Prop :=
      ∀ x, t.me.ar x = if x = d ∧ d ≠ 0#4 then v else s.me.ar x
    let behind (w : WaitOn) : Prop := s.me.s.st = .waiting w ∧ s.stalled s.curN = false
    let released (t : State) : Prop := t.me.v.queue = [] ∧ t.me.buffer = s.me.buffer ++ s.queueShown true ∧
      GivenUp s t s.me.v.queue
    (r.count = 0 → IllegalV (.vslotAcq st d n) s ∧ IllegalV (.vslotCommit st n) s ∧ IllegalV (.vslotAwait st d n) s ∧
      IllegalV (.vslotRel st n) s) ∧
    (r.count ≠ 0 → r.tag r.tail = 0 → ¬ behind (.slotEmpty n) → Does (.vslotAcq st d n) s (fun t =>
      (t.me.ring n.toNat).tag r.tail = 1 ∧
      (t.me.ring n.toNat).tail = (r.tail + 1) % r.count % 64 ∧ aIs t (BitVec.ofNat 64 (r.slotAddr r.tail)) ∧ others t r.tail)) ∧
    (r.count ≠ 0 → (r.tag r.tail ≠ 0 ∨ behind (.slotEmpty n)) → WaitsV (.vslotAcq st d n) s (.slotEmpty n)) ∧
    (r.count ≠ 0 → r.tag r.head = 2 → ¬ behind (.slotFull n) → Does (.vslotAwait st d n) s (fun t =>
      (t.me.ring n.toNat).tag r.head = 3 ∧
      (t.me.ring n.toNat).head = (r.head + 1) % r.count % 64 ∧
      aIs t (BitVec.ofNat 64 (r.slotAddr r.head) ||| (if r.errOf r.head then BitVec.intMin 64 else 0)) ∧ others t r.head)) ∧
    (r.count ≠ 0 → (r.tag r.head ≠ 2 ∨ behind (.slotFull n)) → WaitsV (.vslotAwait st d n) s (.slotFull n)) ∧
    (r.count ≠ 0 → Stuck s s.curN true → WaitsV (.vslotCommit st n) s .queues ∧ WaitsV (.vslotRel st n) s .queues) ∧
    (r.count ≠ 0 → Ready s s.curN true →
      (∀ j js, r.mode = 1 → r.filling = j :: js → Does (.vslotCommit st n) s (fun t =>
        (t.me.ring n.toNat).tag j = 2 ∧ released t ∧ others t j)) ∧
      ((r.mode = 0 ∨ r.filling = []) → Does (.vslotCommit st n) s (fun t => t.me.ring n.toNat = r ∧ released t)) ∧
      (∀ j js, r.draining = j :: js → Does (.vslotRel st n) s (fun t =>
        (t.me.ring n.toNat).tag j = 0 ∧ released t ∧ others t j)) ∧
      (r.draining = [] → Does (.vslotRel st n) s (fun t => t.me.ring n.toNat = r ∧ released t))) ∧
    RetiresV (.vsetfSetfmt st k) s (fun c => { c with v := { c.v with fmtIndex := k } }) ∧
    RetiresV (.vsetfSelpat st en kp) s (fun c => { c with v := { c.v with gaugeOn := en, gaugePat := kp } }) ∧
    (s.me.v.loads = [] → NoSpStore s true (s.me.ar h).toNat 72 →
     let q := s.spRead s.curN true (s.me.ar h).toNat 72
     (patValid (plain q.2.1) = true → Does (.vsetfLdpat st h kp) s (fun t =>
       (∀ j : BitVec 3, t.me.gauge j.toNat = if j = kp then plain q.2.1 else s.me.gauge j.toNat) ∧
       (∀ x, t.me.vr x = s.me.vr x) ∧ t.me.v.eng = s.me.v.eng.advance 1 ∧ t.disp = s.disp)) ∧
     (patValid (plain q.2.1) = false → Does (.vsetfLdpat st h kp) s (fun t =>
       t.me.v.vstStop = true ∧ t.me.v.vstCode = 1 ∧ t.me.v.eng.st = .stopped ∧ t.me.gauges = s.me.gauges ∧
       t.me.s.sst = s.me.s.sst)))

/-- R147-R149: predicates, mailbox, argument registers. -/
def Obligations.PredicatesAndArguments : Prop :=
  ∀ (et : ETy) (st : VStall) (pd pa pb : PReg) (d a b : AReg) (mb : BitVec 4) (f : AopFn) (imm : BitVec 12) (s : State)
      (t : ElType), s.me.etype et = some t →
    let rest (u : State) : Prop := OnlyCore s.curN s u ∧ (∀ x, u.me.vr x = s.me.vr x) ∧ u.me.s = s.me.s ∧
      u.me.v.eng = s.me.v.eng.advance 1
    let pIs (i : Instr) (v : BitVec 1024) (p : Bool) : Prop := Does i s (fun u => rest u ∧ (∀ x, u.me.ar x = s.me.ar x) ∧
      (∀ x, u.me.pr x = if x = pd ∧ pd ≠ 0#5 then v else s.me.pr x) ∧
      (∀ x, u.me.ppois x = if x = pd ∧ pd ≠ 0#5 then p else s.me.ppois x))
    let aIs (i : Instr) (v : Word) (p : Bool) : Prop := Does i s (fun u => rest u ∧ (∀ x, u.me.pr x = s.me.pr x) ∧
      (∀ x, u.me.ar x = if x = d ∧ d ≠ 0#4 then v else s.me.ar x) ∧
      (∀ x, u.me.apois x = if x = d ∧ d ≠ 0#4 then p else s.me.apois x))
    let fn (x y : Word) : Word := match f with
      | .add => x + y
      | .sub => x - y
      | .mul => x * y
      | .and => x &&& y
      | .or => x ||| y
      | .xor => x ^^^ y
      | .sll => x <<< (y.toNat % 64)
      | .srl => x >>> (y.toNat % 64)
    let set (j : Nat) : Bool := decide (j < t.count) && (s.me.pr pa).getLsbD j
    let box (c : Core) (j : Nat) : Option (Word × Word) := Sparse.get none c.v.mailbox j
    pIs (.pand st pd pa pb) (s.me.pr pa &&& s.me.pr pb) (s.me.ppois pa || s.me.ppois pb) ∧
    pIs (.por st pd pa pb) (s.me.pr pa ||| s.me.pr pb) (s.me.ppois pa || s.me.ppois pb) ∧
    pIs (.pxor st pd pa pb) (s.me.pr pa ^^^ s.me.pr pb) (s.me.ppois pa || s.me.ppois pb) ∧
    pIs (.pnot st pd pa) (~~~(s.me.pr pa)) (s.me.ppois pa) ∧
    aIs (.pcnt et st d pa) (BitVec.ofNat 64 ((List.range 1024).countP set)) (s.me.ppois pa) ∧
    ((∀ j, set j = false) → aIs (.pfirst et st d pa) (BitVec.allOnes 64) (s.me.ppois pa)) ∧
    (∀ j, set j = true → (∀ i, i < j → set i = false) →
      aIs (.pfirst et st d pa) (BitVec.ofNat 64 j) (s.me.ppois pa)) ∧
    aIs (.aopImm f st d a imm) (fn (s.me.ar a) (imm.signExtend 64)) (s.me.apois a) ∧
    aIs (.aopReg f st d a b) (fn (s.me.ar a) (s.me.ar b)) (s.me.apois a || s.me.apois b) ∧
    (box s.me mb.toNat = none → WaitsV (.arecv st d mb) s (.mailboxFull mb)) ∧
    (∀ x y, box s.me mb.toNat = some (x, y) → Does (.arecv st d mb) s (fun u => rest u ∧
      (∀ j : BitVec 4, box u.me j.toNat = if j = mb then none else box s.me j.toNat) ∧
      (∀ r, u.me.ar r = if r = d + 1#4 ∧ r ≠ 0#4 then y else if r = d ∧ r ≠ 0#4 then x else s.me.ar r) ∧
      (∀ r, u.me.apois r = if (r = d + 1#4 ∨ r = d) ∧ r ≠ 0#4 then false else s.me.apois r) ∧
      (∀ r, u.me.pr r = s.me.pr r)))

/-- R150, R151, R78: synchronisation and loops of the V-stream. -/
def Obligations.VectorSynchronisationAndLoops : Prop :=
  ∀ (st : VStall) (n : SemId) (sc : Scope) (len : BitVec 5) (count : BitVec 16) (s : State),
    let e := s.me.v.eng
    let old := s.me.sem n.toNat
    let regs (u : State) : Prop := (∀ x, u.me.xr x = s.me.xr x) ∧ (∀ x, u.me.vr x = s.me.vr x) ∧
      (∀ x, u.me.pr x = s.me.pr x) ∧ (∀ x, u.me.ar x = s.me.ar x)
    let others (u : State) : Prop := regs u ∧ (∀ j : SemId, j ≠ n → u.me.sem j.toNat = s.me.sem j.toNat) ∧ u.mem = s.mem ∧
      OnlyCore s.curN s u
    (Stuck s s.curN true → WaitsV (.vpost st n) s .queues) ∧
    (Ready s s.curN true → Does (.vpost st n) s (fun u => others u ∧ u.me.v.eng = e.advance 1 ∧ u.me.v.queue = [] ∧
      u.me.buffer = s.me.buffer ++ s.queueShown true ∧ GivenUp s u s.me.v.queue ∧
      (n = 0 → u.me.sem 0 = s.me.sem 0) ∧
      (n ≠ 0 → u.me.s.latch = true ∧
        (old.count.toNat < 65535 → (u.me.sem n.toNat).count.toNat = old.count.toNat + 1 ∧ (u.me.sem n.toNat).err = old.err) ∧
        (old.count.toNat = 65535 → u.me.sem n.toNat = { count := 65535, err := true })))) ∧
    (s.me.ahead n .v < old.count.toNat → Does (.vwait st n) s (fun u => others u ∧ u.me.v.eng = e.advance 1 ∧
      (u.me.sem n.toNat).count.toNat = old.count.toNat - 1)) ∧
    (old.count.toNat ≤ s.me.ahead n .v → Does (.vwait st n) s (fun u => others u ∧ u.me.v.eng = e ∧
      u.me.v.wait = some (.sem n) ∧ u.me.sem n.toNat = old ∧ (n, .v) ∈ u.me.waiters)) ∧
    (s.lazy = true ∨ Stuck s s.curN true → EntersLoadV (.vmark st sc) s { op := .mark sc }) ∧
    (Prompt s s.curN true → NoBuffer s s.curN → s.unwritten s.curN = true →
      EntersLoadV (.vmark st .system) s { op := .mark .system }) ∧
    (s.lazy = false → Ready s s.curN true → (sc = .system → NoHost s (s.queueShown true)) →
      Does (.vmark st sc) s (fun u => regs u ∧ u.me.v.eng = e.advance 1 ∧
        u.me.v.queue = [] ∧ u.me.v.loads = [] ∧ GivenUp s u s.me.v.queue ∧ Widened s u sc (s.queueShown true))) ∧
    (let outside := ∃ l ls, e.loops = l :: ls ∧ l.last < e.pos + len.toNat
     (outside → IllegalV (.vloop st len count) s) ∧
     (¬ outside → count = 0 → Does (.vloop st len count) s (fun u => OnlyCore s.curN s u ∧ regs u ∧
       u.me.v.eng = { e.advance 1 with skip := len.toNat })) ∧
     (¬ outside → count ≠ 0 → 4 ≤ e.loops.length → IllegalV (.vloop st len count) s) ∧
     (¬ outside → count ≠ 0 → e.loops.length < 4 → Does (.vloop st len count) s (fun u => OnlyCore s.curN s u ∧ regs u ∧
       u.me.v.eng = { e with
         loops := ⟨e.pos + 1, e.pos + len.toNat, count.toNat, (if e.size = 0 then 0 else (e.rp + 1) % e.size)⟩ :: e.loops
         pos := e.pos + 1
         rp := if e.size = 0 then 0 else (e.rp + 1) % e.size }))) ∧
    ((∃ l, l ∈ e.loops ∧ 1 < l.left) → RetiresV .vend s (fun c => c)) ∧
    ((∀ l, l ∈ e.loops → l.left ≤ 1) → Does .vend s (fun u => OnlyCore s.curN s u ∧ regs u ∧ u.me.v.eng.st = .ended ∧
      u.me.v.eng.pos = (e.advance 1).pos ∧ u.me.s.latch = true))

/-- R39, R65, R127: an element type that is not one, as the type of an instruction or as the other type of a conversion. -/
def Obligations.IllegalElementTypeStopsTheVectorStream : Prop :=
  ∀ (st : VStall) (g p : PReg) (d a b : VReg) (tk : TReg) (o : AReg) (sat uns raw gauge elems : Bool) (k : CmpKind)
      (fr : RedFn) (im : BitVec 7) (imm : BitVec 16) (y : ETy) (rm : Round) (s : State),
    fmtBase (s.me.fmtAt s.me.v.fmtIndex.toNat) ≠ 1 →
    ∀ i, i ∈ [Instr.vadd .fx st g d a b sat, .vsub .fx st g d a b sat, .vmul .fx st g d a b sat, .vfma .fx st g d a b sat,
        .vmin .fx st g d a b uns, .vmax .fx st g d a b uns, .vabs .fx st g d a sat, .vneg .fx st g d a sat,
        .vand .fx st g d a b, .vor .fx st g d a b, .vxor .fx st g d a b, .vshl .fx st g d a b, .vshr .fx st g d a b uns,
        .vexp2 .fx st g d a, .vlog2 .fx st g d a, .vrcp .fx st g d a, .vrsq .fx st g d a, .vtanh .fx st g d a, .verf .fx st g d a,
        .vcvt .fx st g d a y rm sat, .vcvt y st g d a .fx rm sat, .vwid .fx st g d a y uns, .vwid y st g d a .fx uns,
        .vnar .fx st g d a y rm sat, .vnar y st g d a .fx rm sat, .viota .fx st g d, .vcmp .fx st p k a b uns, .vsel .fx st p d a b,
        .vmov .fx st g d a, .vperm .fx st g d a b, .vzip .fx st g d a b, .vunz .fx st g d a b, .vred .fx st g d a fr uns,
        .vscan .fx st g d a fr uns, .vbcast .fx st g d o, .vaddi .fx st d imm, .vsubi .fx st d imm,
        .vmuli .fx st d imm, .vmaxi .fx st d imm, .vmini .fx st d imm, .vmovi .fx st d imm, .vandi .fx st d imm, .vshli .fx st d imm,
        .vld .fx st g d tk o gauge raw, .vst .fx st g d tk o raw, .vlds .fx st g d o im, .vsts .fx st g d o im,
        .vgath .fx st g d tk b elems, .vscat .fx st g d tk b elems, .pcnt .fx st o p, .pfirst .fx st o p] →
      IllegalV i s

/-- R18, R154, R157, R158, R172, R177, R185, R220, R221: how every command begins and ends, those with tokens, with checks at issue and of
Dovetail among them. That the read pointer passes a command as it issues, and a synchronising one as it completes, is the model's
choice (log entry 63). -/
def Obligations.EngineCommandsIssueAndComplete : Prop :=
  ∀ (e : EngineSel) (i : Instr) (core : CoreId) (s : State) (f : Flight), s.curN = core.toNat →
    let ws := (semsOf i).1
    let ss := (semsOf i).2
    let g := s.me.engine (ringOf e)
    let waiting := ws ≠ 0#6 ∧ (s.me.sem ws.toNat).count.toNat ≤ s.me.ahead ws (agentOfEngine e)
    (IsCommand e i → s.me.flight e = none → waiting → 0 < s.budget → Does i s (fun t =>
      (∃ f', t.me.flight e = some f' ∧ f'.st = .decoded ∧ f'.cmd = i) ∧ (ws, agentOfEngine e) ∈ t.me.waiters ∧
      t.me.engine (ringOf e) = g ∧ (∀ j : SemId, t.me.sem j.toNat = s.me.sem j.toNat) ∧ t.mem = s.mem ∧
      OnlyCore s.curN s t)) ∧
    (∀ q, q = i ∨ (q = .engineCommandComplete core e ∧ s.held s.curN = false) → IsCommand e i → 0 < s.budget →
      NoBuffer s s.curN → s.me.flight e = some f → f.cmd = i → f.st = .done → f.slot = none → f.dscVa = none →
      let a := g.base - 0x100 + 4 * ss.toNat
      let err := decide (f.codes.first ≠ 0) || f.err
      let word := f.codes.first * 2 ^ 28 + opOf i * 2 ^ 23 + (if f.taker.isSome then 2 ^ 22 else 0) + f.addr % 2 ^ 22
      (f.codes.illegal = false → f.tok = none → Does q s (fun t => t.me.flight e = none ∧
        (∀ j : SemId, t.me.sem j.toNat = s.me.semRaised ss err j) ∧ (syncOf i = none → t.me.engine (ringOf e) = g) ∧
        (∀ x, syncOf i = some x → t.me.engine (ringOf e) =
          if x = true ∧ ∀ l, l ∈ g.loops → l.left ≤ 1 then { g.advance 2 with st := .ended } else g.advance 2) ∧
        (f.codes.first ≠ 0 → 0x100 ≤ g.base → a + 4 ≤ 0x2FF000 → leNat (t.spSeen a 4) = word))) ∧
      (∀ tk n, f.codes.illegal = false → f.tok = some tk → (s.me.mte tk.idx.toNat).refs = n + 2 → Does q s (fun t =>
        t.me.flight e = none ∧ (t.me.mte tk.idx.toNat).refs = n + 1)) ∧
      (f.codes.illegal = true → Does q s (fun t => t.me.flight e = none ∧
        (∀ j : SemId, t.me.sem j.toNat = s.me.semRaised ss true j) ∧ t.me.engine (ringOf e) = { g with st := .stopped } ∧
        t.me.s.pendEng = true ∧ t.me.s.latch = true ∧
        (0x100 ≤ g.base → a + 4 ≤ 0x2FF000 →
          leNat (t.spSeen a 4) = 2 ^ 28 + opOf i * 2 ^ 23 + (g.base + 4 * g.rp) % 2 ^ 22)))) ∧
    (let taken (j : Nat) (x : Option Nat) : Flight :=
       { cmd := i, addr := ((s.core j).engine (ringOf e)).base + 4 * ((s.core j).engine (ringOf e)).rp, taker := x
         err := decide (ws ≠ 0#6) && ((s.core j).sem ws.toNat).err }
     let awaited (j : Nat) : State :=
       s.setCore j (if ws = 0#6 then s.core j else ((s.core j).await ws (agentOfEngine e) true).1)
     let holds (u t : State) (j : Nat) (h f' : Flight) : Prop := match tokenOf h.tmpl i with
       | none => f' = { h with st := .issued } ∧ ∀ n, (t.core j).mte n = (u.core j).mte n
       | some r =>
         let tok := (u.core j).tr r
         f' = { h with
           st := .issued
           tok := tok
           codes := { h.codes with dead := h.codes.dead || ((u.core j).mteOf tok).st == .dead } } ∧
         ∀ n, (t.core j).mte n = if tok.map (fun x => x.idx.toNat) = some n
           then { (u.core j).mte n with refs := ((u.core j).mte n).refs + 1 } else (u.core j).mte n
     (IsCommand e i → s.held s.curN = false → s.me.flight e = none → s.takenFrom s.curN e = none →
       s.engineWaits s.curN e = false → s.fetchCmd s.curN e = .cmd i → (s.me.takenOf e = [] ∨ syncOf i ≠ none) → ¬ waiting →
       s.chanHeld s.curN i = false → (isDovetail i = true → s.twinStop s.curN = none) →
       ((awaited s.curN).issueCmd s.curN (taken s.curN none) = none → Does (.engineCommandIssue core e) s (fun t =>
         (∃ f', t.me.flight e = some f' ∧ f'.cmd = i ∧ f'.st = .done ∧ f'.codes.illegal = true) ∧ OnlyCore s.curN s t ∧
         t.me.engine (ringOf e) = g ∧ ∀ j : SemId, t.me.sem j.toNat = s.me.semAfter ws 0#6 j)) ∧
       (∀ u h, (awaited s.curN).issueCmd s.curN (taken s.curN none) = some (u, h) →
         Does (.engineCommandIssue core e) s (fun t => OnlyCore s.curN u t ∧
           (∃ f', t.me.flight e = some f' ∧ holds u t s.curN h f') ∧
           (∀ j : SemId, t.me.sem j.toNat = s.me.semAfter ws 0#6 j) ∧
           t.me.engine (ringOf e) = if syncOf i = none then g.advance (cmdWords e i) else g))) ∧
     (s.me.flight e = none → s.me.takenOf e ≠ [] → s.fetchCmd s.curN e = .cmd i → syncOf i = none →
       Does (.engineCommandIssue core e) s (fun t => t = s)) ∧
     (∀ (k : CoreId) (j : Nat), s.engineIdle k.toNat e = true → s.held k.toNat = false → s.stalled k.toNat = false → j ≠ k.toNat →
       ((s.core k.toNat).panelCores k.toNat).findSome? (fun j => if j = k.toNat then none else
         (s.takeable j e).map (fun i => (j, i))) = some (j, i) →
       (∀ n, n ∈ (s.core k.toNat).panelCores k.toNat → n < k.toNat → n ≠ j → s.engineIdle n e = false) →
       ((awaited j).issueCmd j (taken j (some k.toNat)) = none → Does (.relocateTake k e) s (fun t => t = s)) ∧
       (∀ u h, (awaited j).issueCmd j (taken j (some k.toNat)) = some (u, h) →
         Does (.relocateTake k e) s (fun t => OnlyCore j u t ∧
           (∃ f', (t.core j).takenOf e = (s.core j).takenOf e ++ [f'] ∧ holds u t j h f') ∧
           (t.core j).engine (ringOf e) = ((s.core j).engine (ringOf e)).advance (cmdWords e i))))) ∧
    (∀ (len : BitVec 6) (count : BitVec 16), ∀ q, q = Instr.mloop len count ∧ e = .m ∨ q = .cloop len count ∧ e = .c →
      let outside := ∃ l ls, g.loops = l :: ls ∧ l.last < g.pos + len.toNat
      let rp := if g.size = 0 then 0 else (g.rp + 2) % g.size
      (outside ∨ (count ≠ 0 ∧ 4 ≤ g.loops.length) → Does q s (fun t => (t.me.engine (ringOf e)).st = .stopped ∧
        t.me.s.pendEng = true)) ∧
      (¬ outside → count = 0 → Does q s (fun t => OnlyCore s.curN s t ∧ t.mem = s.mem ∧
        t.me.engine (ringOf e) = { g.advance 2 with skip := len.toNat })) ∧
      (¬ outside → count ≠ 0 → g.loops.length < 4 → Does q s (fun t => OnlyCore s.curN s t ∧ t.mem = s.mem ∧
        t.me.engine (ringOf e) = { g with
          loops := ⟨g.pos + 1, g.pos + len.toNat, count.toNat, rp⟩ :: g.loops
          pos := g.pos + 1
          rp := rp }))) ∧
    (∀ (k : CoreId) (ch : BitVec 2) (h : Flight) (r : List Flight), s.held k.toNat = false →
      Sparse.get [] (s.core k.toNat).c.chans ch.toNat = h :: r →
      (h.st = .decoded → ((s.core k.toNat).ring (templateOf h.tmpl).gring).takesCopies = true →
        Does (.apertureCopyStart k ch) s (fun t => ∃ h', Sparse.get [] (t.core k.toNat).c.chans ch.toNat = h' :: r ∧
          h'.st = .issued ∧ h'.tok = h.tok ∧ h'.tmpl = h.tmpl)) ∧
      (∀ u h' n m, h.st = .issued → State.apertureUnits s.budget s k.toNat h = (u, h', true) → h'.slot = some (n, m) →
        Does (.apertureCopyDone k ch) s (fun t =>
          Sparse.get [] (t.core k.toNat).c.chans ch.toNat = (Sparse.get [] (u.core k.toNat).c.chans ch.toNat).drop 1 ∧
          (((t.core k.toNat).ring n.toNat).slot m).attached = (((u.core k.toNat).ring n.toNat).slot m).attached - 1)))

/-- R49, R162, R164, R166-R171, R173, R228: the matrix engine; what it writes is visible at core scope (R154). -/
def Obligations.MatrixCommandResults : Prop :=
  ∀ (ws ss : SemId) (rl z tr ua ub ck sk sat e : Bool) (bank : BitVec 2) (ar br : RingId) (nslab : BitVec 8)
      (klast : BitVec 7) (afmt bfmt xf entry : BitVec 4) (et : ETy) (rm : Round) (scale : BitVec 16) (dest : BitVec 12)
      (src rep : BitVec 22) (s : State),
    let c := s.me
    let acc (u : State) (b : BitVec 2) (n : Nat) : Word32 := Sparse.get 0 u.me.m.acc (16384 * b.toNat + n)
    let rows (u : State) (b : BitVec 2) : BitVec 128 := Sparse.get 0 u.me.m.rowMarks b.toNat
    let cols (u : State) (b : BitVec 2) : BitVec 128 := Sparse.get 0 u.me.m.colMarks b.toNat
    let f32 (w : Word32) : FVal := Fmt.fp32.decode w.toNat
    let only (i : Instr) (t : State) : Prop := Completed i .m s t ∧ t.mem = s.mem ∧ t.me.c = s.me.c ∧ t.me.rings = s.me.rings ∧
      (i = .msync ws ss e ∨ t.me.m.eng = s.me.m.eng.advance 2)
    let otherBanks (t : State) : Prop := (∀ b : BitVec 2, b ≠ bank → (∀ n, n < 16384 → acc t b n = acc s b n) ∧
      rows t b = rows s b ∧ cols t b = cols s b)
    (Takes (.mzero ws ss rl bank) .m s → Does (.mzero ws ss rl bank) s (fun t => only (.mzero ws ss rl bank) t ∧
      (∀ n, n < 16384 → acc t bank n = 0) ∧ rows t bank = 0 ∧ cols t bank = 0 ∧
      Sparse.get {} t.me.m.chk bank.toNat = { valid := true } ∧ otherBanks t ∧ t.me.spad = c.spad ∧ t.me.fmt = c.fmt)) ∧
    (Takes (.mfmt ws ss entry src) .m s → c.spClean src.toNat 8 →
      let w := BitVec.ofNat 64 (leNat (c.spBytes src.toNat 8))
      fmtValid w = true → Does (.mfmt ws ss entry src) s (fun t => only (.mfmt ws ss entry src) t ∧
        (∀ k : BitVec 4, t.me.fmtAt k.toNat = if k = entry then w else c.fmtAt k.toNat) ∧ t.me.m.acc = c.m.acc ∧
        t.me.spad = c.spad)) ∧
    (∀ ot ty, Takes (.mdrain ws ss rl bank ot rm sk sat scale dest xf) .m s → typeWith (c.fmtAt xf.toNat) ot = some ty →
      rows s bank = 0 → cols s bank = 0 →
      let a := 1024 * dest.toNat
      let size := 2048 * ty.cont
      let val (n : Nat) : Nat :=
        let x := (f32 (acc s bank n)).mul (Fmt.fp16.decode scale.toNat)
        ty.encode rm sat (if ot ∈ [ETy.fp16, .bf16, .fx] ∧ scale ≠ 0x3C00#16
          then Fmt.fp32.decode (Fmt.fp32.roundBits .rto false x) else x)
      a + size + (if sk then 64 else 0) ≤ 0x2FF000 → Does (.mdrain ws ss rl bank ot rm sk sat scale dest xf) s (fun t =>
        only (.mdrain ws ss rl bank ot rm sk sat scale dest xf) t ∧ t.me.m.acc = c.m.acc ∧ t.me.fmt = c.fmt ∧
        (∀ n, n < 16384 → contOf ty.cont (t.spSeen a size) n = val n % 2 ^ ty.cont) ∧
        (sk = true → ∀ j, j < 16 → leNat (t.spSeen (a + size + 4 * j) 4) =
          sketchRow 16384 ((List.range 16384).map (fun n => ty.decode (val n))) j % 2 ^ 32) ∧
        (∀ x, x < a ∨ a + size + (if sk then 64 else 0) ≤ x → t.spSeen x 1 = c.spBytes x 1))) ∧
    (∀ it ty, Takes (.mldacc ws ss rl bank it dest xf) .m s → typeWith (c.fmtAt xf.toNat) it = some ty →
      c.spClean (1024 * dest.toNat) (2048 * ty.cont) →
      let el (n : Nat) : Nat := contOf ty.cont (c.spBytes (1024 * dest.toNat) (2048 * ty.cont)) n
      Does (.mldacc ws ss rl bank it dest xf) s (fun t => only (.mldacc ws ss rl bank it dest xf) t ∧ t.me.spad = c.spad ∧
        (∀ n, n < 16384 → acc t bank n = BitVec.ofNat 32
          (if it = .fp32 then el n else Fmt.fp32.roundBits .rne false (ty.decode (el n)))) ∧
        rows t bank = 0 ∧ cols t bank = 0 ∧ Sparse.get {} t.me.m.chk bank.toNat = {} ∧ otherBanks t)) ∧
    (let k := c.m.chkOf bank.toNat
     let row (i : Nat) := lineCheck k.valid ((List.range 128).map (fun j => acc s bank (128 * i + j))) (Sparse.get 0 k.pr i)
       (Sparse.get 0 k.mr i)
     let col (j : Nat) := lineCheck k.valid ((List.range 128).map (fun i => acc s bank (128 * i + j))) (Sparse.get 0 k.pc j)
       (Sparse.get 0 k.mc j)
     let a := rep.toNat
     let half (t : State) (n : Nat) : Nat := leNat (t.spSeen (a + 2 * n) 2)
     let count (g : Nat → Option Bool) (o : Option Bool) : Nat := (List.range 128).countP (fun i => g i == o)
     Takes (.mchk ws ss bank rep) .m s → a + 16 ≤ 0x2FF000 →
      ((∀ i, i < 128 → row i ≠ some false ∧ col i ≠ some false) → Does (.mchk ws ss bank rep) s (fun t =>
        only (.mchk ws ss bank rep) t ∧ half t 0 = 0 ∧ half t 1 = 0 ∧ half t 2 = count row none ∧ half t 3 = count col none ∧
        half t 4 = 0xFFFF ∧ half t 5 = 0xFFFF ∧ half t 6 = 0 ∧ half t 7 = 0 ∧ t.me.m.acc = c.m.acc)) ∧
      (∀ i, i < 128 → row i = some false ∨ col i = some false → Does (.mchk ws ss bank rep) s (fun t =>
        t.me.flight .m = none ∧ BenchEvent.chksum s.curN ∈ t.bench.events ∧ s.curN ∈ t.integ.ahead ∧
        (ss ≠ 0#6 → (t.me.sem ss.toNat).err = true)))) ∧
    (Takes (.msync ws ss e) .m s → c.m.taken = [] → Does (.msync ws ss e) s (fun t => only (.msync ws ss e) t ∧
      t.me.m.eng = (if e = true ∧ ∀ l, l ∈ c.m.eng.loops → l.left ≤ 1 then { c.m.eng.advance 2 with st := .ended }
        else c.m.eng.advance 2) ∧ t.me.m.acc = c.m.acc ∧ t.me.spad = c.spad)) ∧
    (∀ (f : Flight) (part : Bool), AtUnit .m s f →
      f.cmd = (if part then .mmap ws ss bank z ar br tr nslab klast afmt bfmt et ua ub ck
        else .mma ws ss rl bank z ar br tr nslab klast afmt bfmt et ua ub ck) →
      (part = true → c.panel.size = 4#5 ∧ c.panel.base.toNat = s.curN ∧
        ∀ r, r = 1 ∨ r = 2 ∨ r = 3 → (s.core (s.curN + r)).m.mmapOf = some s.curN) →
      let cores := if part then [0, 1, 2, 3] else [0]
      let accOf (u : State) (r n : Nat) : Word32 := Sparse.get 0 (u.core (s.curN + r)).m.acc (16384 * bank.toNat + n)
      let ra := c.ring ar.toNat
      let rb := c.ring br.toNat
      (f.prog = 0 → Does f.cmd s (fun t => t.me.m.flight = some { f with prog := 1 } ∧ ∀ r, r ∈ cores → ∀ n, n < 16384 →
        accOf t r n = if z then 0 else accOf s r n)) ∧
      let first (n : RingId) : Prop := (∀ w, s.me.s.st = .waiting w → w ≠ .slotFull n) ∧ s.me.v.wait ≠ some (.slotFull n)
      let same (t : State) : Prop := (∀ r, r ∈ cores → ∀ n, n < 16384 → accOf t r n = accOf s r n) ∧ t.me.buffer = [] ∧
        t.me.spad = c.spad ∧ t.mem = s.mem
      let overrun (r : StageRing) : Codes := { f.codes with overrun := f.codes.overrun || r.errOf r.head }
      let holds (t : State) : Prop := t.me.m.flight = some f ∧ t.me.rings = c.rings ∧ same t
      (f.prog ≠ 0 → f.slotA = none → (ra.tag ra.head ≠ 2 → Does f.cmd s holds) ∧
        (ra.count ≠ 0 → ra.tag ra.head = 2 → first ar → Does f.cmd s (fun t => same t ∧
          t.me.m.flight = some { f with slotA := some ra.head, codes := overrun ra } ∧
          (t.me.ring ar.toNat).tag ra.head = 3 ∧ (t.me.ring ar.toNat).head = (ra.head + 1) % ra.count % 64))) ∧
      (∀ ia, f.prog ≠ 0 → f.slotA = some ia → f.slotB = none → (rb.tag rb.head ≠ 2 → Does f.cmd s holds) ∧
        (rb.count ≠ 0 → rb.tag rb.head = 2 → first br → Does f.cmd s (fun t => same t ∧
          t.me.m.flight = some { f with slotB := some rb.head, codes := overrun rb } ∧
          (t.me.ring br.toNat).tag rb.head = 3 ∧ (t.me.ring br.toNat).head = (rb.head + 1) % rb.count % 64))) ∧
      (∀ ta tb ja jb la lb, f.prog ≠ 0 → f.slotA = some ja → f.slotB = some jb → ar ≠ br →
        confValid ra.conf = true → confValid rb.conf = true → ra.draining = ja :: la → rb.draining = jb :: lb →
        operandType f.fmtA et ua = some ta → operandType f.fmtB et ub = some tb →
        let all := if part then 32768 else 16384
        let read (e : Word) (ty : ElType) (r : StageRing) (k : Nat) : Prop :=
          c.spClean (r.slotAddr k) (all * ty.cont / 8) ∧ c.spClean (r.slotAddr k + (planeOf e all).1) (planeOf e all).2 ∧
          operandEnd e ty all ≤ r.slotBytes
        read f.fmtA ta ra ja → read f.fmtB tb rb jb →
        let xa := (clean (c.spBytes (ra.slotAddr ja) ra.slotBytes)).toArray
        let xb := (clean (c.spBytes (rb.slotAddr jb) rb.slotBytes)).toArray
        let kv := if f.prog = nslab.toNat ∧ klast ≠ 0#7 then klast.toNat else 128
        let ia (i k : Nat) : Nat := i * 128 + k
        let ib (j k : Nat) : Nat := if tr then k * (if part then 256 else 128) + j else j * 128 + k
        let va (i k : Nat) : FVal := if k < kv then ta.decode (slotEl ta.cont xa (ia i k)).1 else FVal.zero
        let vb (j k : Nat) : FVal := if k < kv then tb.decode (slotEl tb.cont xb (ib j k)).1 else FVal.zero
        let term (i j g : Nat) : FVal :=
          ((exactSum ((List.range 16).map (fun q => (va i (16 * g + q)).mul (vb j (16 * g + q))))).mul
            (slotScale f.fmtA xa (ia i (16 * g))).1).mul (slotScale f.fmtB xb (ib j (16 * g))).1
        let add (w : Nat) (v : FVal) : Nat :=
          Fmt.fp32.roundBits .rne false ((Fmt.fp32.decode w).add (Fmt.fp32.decode (Fmt.fp32.roundBits .rne false v)))
        Does f.cmd s (fun t => t.me.m.flight = some { f with
            prog := f.prog + 1
            slotA := none
            slotB := none
            st := if f.prog < nslab.toNat then .issued else .done } ∧
          (∀ r, r ∈ cores → ∀ i j, i < 128 → j < 128 → accOf t r (128 * i + j) = BitVec.ofNat 32
            (((List.range ((kv + 15) / 16)).map (fun g => term (128 * (r / 2) + i) (128 * (r % 2) + j) g)).foldl add
              (accOf s r (128 * i + j)).toNat)) ∧
          (t.me.ring ar.toNat).tag ja = 0 ∧ (t.me.ring br.toNat).tag jb = 0 ∧ t.me.spad = c.spad ∧ t.mem = s.mem)))

/-- R154, R174-R184, R188, R248, R249: the copy engine; what it writes is visible at core scope. -/
def Obligations.CopyCommandsMoveBytes : Prop :=
  ∀ (ws ss : SemId) (rl out g j inv e : Bool) (tk : TReg) (ring : RingId) (off len32 : BitVec 32) (spa sib len own : BitVec 13)
      (tm : BitVec 6) (ed : BitVec 19) (sd : BitVec 13) (p cnt : BitVec 10) (kw rank logn : BitVec 4) (sx w : BitVec 2)
      (cg : BitVec 3) (idxa : BitVec 22) (row : BitVec 13) (value : BitVec 32) (et : ETy) (src : BitVec 12) (dst : BitVec 16)
      (f : Flight) (s : State) (pa : Nat → Nat),
    let c := s.me
    let q := f.prog
    let m := c.mteOf f.tok
    let byte (u : State) (a : Nat) : Byte := u.sees s.curN (.sp s.curN) a
    let still (t : State) : Prop := t.mem = s.mem ∧ t.me.spad = c.spad
    let fills (t : State) (a n : Nat) (b : Nat → Byte) : Prop := still t ∧
      ∀ x, byte t x = if a ≤ x ∧ x < a + n then b (x - a) else byte s x
    let stores (t : State) (n : Nat) (b : Nat → Byte) : Prop := still t ∧
      ∀ x, t.sees s.curN .dev x = devBytesAfter s.dev n pa b x
    let unit (i : Instr) (n : Nat) (P : State → Prop) : Prop :=
      Does i s (fun t => t.me.c.flight = some (f.after n) ∧ t.me.s = c.s ∧ t.me.v = c.v ∧ t.me.m = c.m ∧ P t)
    AtUnit .c s f →
    (∀ i, i = Instr.copy ws ss rl out tk g ring off spa len j → f.cmd = i → q < len.toNat →
      let o := off.toNat + 512 * q
      let a := 512 * spa.toNat + 512 * q
      (out = false → g = false → ReachesEach s m .cRead true false o 512 pa → a + 512 ≤ 0x2FF000 →
        unit i len.toNat (fun t => fills t a 512 (fun x => s.dev (pa x)) ∧ t.me.rings = c.rings)) ∧
      (out = true → ReachesEach s m .cWrite false true o 512 pa → c.spClean a 512 →
        unit i len.toNat (fun t => stores t 512 (fun x => byte s (a + x)) ∧ t.me.rings = c.rings)) ∧
      (∀ k, out = false → g = true → f.slot = some (ring, k) →
        let r := c.ring ring.toNat
        confValid r.conf = true → k < r.count → a + 512 ≤ r.slotBytes → (r.slot k).bytes + 512 ≤ r.expect →
        ReachesEach s m .cRead true false o 512 pa →
        unit i len.toNat (fun t => fills t (r.slotAddr k + a) 512 (fun x => s.dev (pa x)) ∧
          ((t.me.ring ring.toNat).slot k).bytes = (r.slot k).bytes + 512)) ∧
      (out = false → g = true → f.slot = none → (c.ring ring.toNat).tag (c.ring ring.toNat).tail ≠ 0 →
        (j = true → (c.ring ring.toNat).filling = []) →
        Does i s (fun t => t.me.c.flight = some f ∧ t.me.rings = c.rings ∧ t.me.spad = c.spad ∧ t.mem = s.mem))) ∧
    (f.cmd = .copyt ws ss rl tm ed sd → f.slot = none →
      let t0 := templateOf f.tmpl
      let total := t0.n2 * t0.n1 * t0.rowb
      let n := min 512 (total - 512 * q)
      let pl (x : Nat) : Nat := (512 * q + x) / t0.rowb / t0.n1
      let ro (x : Nat) : Nat := (512 * q + x) / t0.rowb % t0.n1
      let ext (x : Nat) : Nat :=
        (((t0.eoff + 512 * ed.toNat : Nat) + pl x * t0.es2 + ro x * t0.es1 + ((512 * q + x) % t0.rowb : Nat)) % 2 ^ 64 : Int).toNat
      let sp (x : Nat) : Nat :=
        (((t0.saddr + 512 * sd.toNat : Nat) + pl x * t0.ss2 + ro x * t0.ss1 + ((512 * q + x) % t0.rowb : Nat)) % 2 ^ 64 : Int).toNat
      t0.g = false → t0.gz = false → templateValid f.tmpl = true → 512 * q < total →
      (∀ x y, x < n → y < n → sp x = sp y → x = y) → (∀ x, x < n → ext x < 2 ^ 63) →
      (t0.d = false → (∀ x, x < n → Reaches s m .cRead true false (ext x) 1 (pa x) ∧ CleanAt s (pa x) 1 ∧ sp x < 0x2FF000) →
        unit f.cmd ((total + 511) / 512) (fun t => still t ∧ (∀ x, x < n → byte t (sp x) = s.dev (pa x)) ∧
          ∀ y, (∀ x, x < n → y ≠ sp x) → byte t y = byte s y)) ∧
      (t0.d = true → (∀ x, x < n → Reaches s m .cWrite false true (ext x) 1 (pa x) ∧ c.spClean (sp x) 1) →
        unit f.cmd ((total + 511) / 512) (fun t => stores t n (fun x => byte s (sp x))))) ∧
    (f.cmd = .imwin ws ss rl tk off spa p kw sx cg → q < p.toNat →
      let b := 32 * 2 ^ cg.toNat
      let n := kw.toNat * b
      let o := off.toInt + (q * 2 ^ sx.toNat * b : Nat)
      let a := 512 * spa.toNat + q * n
      0 ≤ o → 0 < n → ReachesEach s m .cRead true false o.toNat n pa → a + n ≤ 0x2FF000 →
      unit f.cmd p.toNat (fun t => fills t a n (fun x => s.dev (pa x)))) ∧
    (∀ o, q ≤ cnt.toNat → f.idx[q]? = some (o, false) →
      let n := 64 * row.toNat
      let a := 512 * spa.toNat + q * n
      0 < n →
      (f.cmd = .gather ws ss rl tk cnt idxa spa row → ReachesEach s m .cRead true false o n pa → a + n ≤ 0x2FF000 →
        unit f.cmd (cnt.toNat + 1) (fun t => fills t a n (fun x => s.dev (pa x)))) ∧
      (f.cmd = .scatter ws ss rl tk cnt idxa spa row → ReachesEach s m .cWrite false true o n pa → c.spClean a n →
        unit f.cmd (cnt.toNat + 1) (fun t => stores t n (fun x => byte s (a + x))))) ∧
    (f.cmd = .fill ws ss rl w value spa len false ring → q < len.toNat →
      let a := 512 * spa.toNat + 512 * q
      a + 512 ≤ 0x2FF000 →
      unit f.cmd len.toNat (fun t => fills t a 512 (fun x => value.extractLsb' (8 * (x % 2 ^ w.toNat)) 8))) ∧
    (f.cmd = .pcopy ws ss out rank sib len own → q < len.toNat → rank.toNat < c.panel.size.toNat →
      let b := c.panel.base.toNat + rank.toNat
      let x := 512 * sib.toNat + 512 * q
      let y := 512 * own.toNat + 512 * q
      let from_ := if out then (s.curN, y) else (b, x)
      let to_ := if out then (b, x) else (s.curN, y)
      x + 512 ≤ 0x2FF000 → y + 512 ≤ 0x2FF000 → (s.core from_.1).spClean from_.2 512 →
      Does f.cmd s (fun t => t.me.c.flight = some (f.after len.toNat) ∧ t.mem = s.mem ∧ ∀ k z,
        (t.core k).spad = (s.core k).spad ∧
        t.sees s.curN (.sp k) z = if k = to_.1 ∧ to_.2 ≤ z ∧ z < to_.2 + 512 then
          s.sees s.curN (.sp from_.1) (from_.2 + (z - to_.2)) else s.sees s.curN (.sp k) z)) ∧
    (∀ ps, f.cmd = .cflush ws ss tk inv off len32 → 512 * q < len32.toNat →
      s.access s.curN f.tok (if inv then .cWrite else .cRead) (!inv) inv
        [(0, off.toNat + 512 * q, min 512 (len32.toNat - 512 * q))] = .live ps → anyOut ps = false →
      let ls := hostLines ps
      let held (u : State) (l : Nat) : Bool := Sparse.get false u.mem.hheld l
      let dirty (u : State) (x : Nat) : Bool := Sparse.get false u.mem.hdirty x
      let stored (u : State) (l : Nat) : List Nat := Sparse.get [] u.mem.hstored l
      let copy (u : State) (x : Nat) : Byte := Sparse.get 0 u.mem.hcopy.bytes x
      let host (u : State) (x : Nat) : Byte := Sparse.get 0 u.mem.host.bytes x
      (inv = true → unit f.cmd ((len32.toNat + 511) / 512) (fun t => t.mem.dev = s.mem.dev ∧ t.mem.host = s.mem.host ∧
        (∀ l, held t l = (held s l && !decide (l ∈ ls)) ∧ stored t l = if l ∈ ls then [] else stored s l) ∧
        ∀ x, dirty t x = (dirty s x && !decide (x / 128 ∈ ls)) ∧ (x / 128 ∉ ls → copy t x = copy s x))) ∧
      (inv = false → s.mem.host.chk = [] → (∀ l, l ∈ ls → s.mem.hcopy.bad (128 * l) 128 = [] ∧
          ∀ z, z < 128 → Sparse.get false s.mem.hcopy.pois (128 * l + z) = false) →
        unit f.cmd ((len32.toNat + 511) / 512) (fun t => t.mem.dev = s.mem.dev ∧ t.mem.hcopy = s.mem.hcopy ∧
          t.mem.hheld = s.mem.hheld ∧ (∀ l, stored t l = if l ∈ ls ∧ held s l then [] else stored s l) ∧
          ∀ x, dirty t x = (dirty s x && !decide (x / 128 ∈ ls ∧ held s (x / 128) = true)) ∧
            host t x = if x / 128 ∈ ls ∧ held s (x / 128) = true ∧ dirty s x = true then copy s x else host s x))) ∧
    (∀ (u : State), (Takes (.csync ws ss e) .c u → u.me.c.taken = [] → Does (.csync ws ss e) u (fun t =>
        Completed (.csync ws ss e) .c u t ∧ t.mem = u.mem ∧ t.me.m = u.me.m ∧ t.me.spad = u.me.spad ∧
        t.me.c.eng = if e = true ∧ ∀ l, l ∈ u.me.c.eng.loops → l.left ≤ 1 then { u.me.c.eng.advance 2 with st := .ended }
          else u.me.c.eng.advance 2)) ∧
      (∀ ty, Takes (.sketch ws ss rl et src logn dst) .c u → 4 ≤ logn.toNat → et ≠ .fx → typeWith 0 et = some ty →
        let n := 2 ^ logn.toNat
        u.me.spClean (1024 * src.toNat) ((n * ty.cont + 7) / 8) → 64 * dst.toNat + 64 ≤ 0x2FF000 →
        let el (i : Nat) : FVal := ty.decode (contOf ty.cont (u.me.spBytes (1024 * src.toNat) ((n * ty.cont + 7) / 8)) i)
        Does (.sketch ws ss rl et src logn dst) u (fun t => Completed (.sketch ws ss rl et src logn dst) .c u t ∧
          t.mem = u.mem ∧ ∀ r, r < 16 → leNat (t.spSeen (64 * dst.toNat + 4 * r) 4) =
            ((List.range n).foldl (fun a i =>
              let p := i * 0x2F5B % n
              let minus := if r = 15 then ((List.range 15).countP (fun b => p.testBit b)) % 2 = 1
                else r ≠ 0 ∧ p.testBit (r - 1) = true
              Fmt.fp32.roundBits .rne false ((Fmt.fp32.decode a).add (if minus then (el i).neg else el i))) 0) % 2 ^ 32)))

/-- R343-R358: replies, revocation and migration. The model's choices: every walk cache drops all it holds as units are marked (log
entry 42), stage 1 reaches every core in one event (43), a request's unit numbers name device units and H frames alike (110), and a
unit whose UNMAP has settled is free of DSC (60). -/
def Obligations.FaultRepliesRevocationAndMigration : Prop :=
  ∀ (ix : BitVec 64) (rq : RevokeReq) (core : CoreId) (i : BitVec 6) (pair : BitVec 7) (f : FaultRec) (s : State),
    s.dv.held = [] → s.dv.errFlags = [] →
    let found := s.bench.faults.find? (fun g => g.ix == ix.toNat) = some f
    let k := f.core
    let b := (s.core k).panelBase k
    let c := s.core k
    let entry (u : State) (n : Nat) (j : BitVec 6) : Mte := (u.core n).mte j.toNat
    let fails (q : Instr) (w : Walk) (cause : Nat) : Prop := Does q s (fun t =>
      (w.q = true ∨ c.s.inHandler = false → f.ix ∉ (t.panel b).stall ∧ (t.core k).s.walk = none) ∧
      (w.q = true → (t.core k).s.tstat = BitVec.ofNat 64 cause ∧ (t.core k).s.pc = c.s.pc + 4#16 ∧ (t.core k).tr w.td = none) ∧
      (w.q = false → c.s.inHandler = false → (t.core k).s.tcause = BitVec.ofNat 64 cause ∧
        (t.core k).s.tval = BitVec.ofNat 64 f.va ∧ (t.core k).s.mode = .supervisor))
    let marked (us : List Nat) (t : State) : Prop := t.mem.walkCache = [] ∧
      (∀ n, (∃ u, u ∈ us ∧ (Sparse.get 0 (s.clampAt false u).cores n ≠ 0 ∨ Sparse.get 0 (s.clampAt true u).cores n ≠ 0)) →
        (∀ j : BitVec 6, (entry s n j).st = .live → (entry s n j).pred = false → (∃ r, r ∈ (entry s n j).runs ∧ r.covers us = true) →
          entry t n j = { entry s n j with st := .stale }) ∧
        (∀ w, (s.core n).s.walk = some w → (∃ p, p ∈ w.pages ∧ p.pinned = true ∧ p.run.covers us = true) →
          (t.core n).s.walk = some { w with stale := true })) ∧
      ∀ w, (s.window w).mte.st = .live → (∃ r, r ∈ (s.window w).mte.runs ∧ r.covers us = true) →
        t.window w = { s.window w with mte := { (s.window w).mte with st := .stale } }
    (∀ w n, found → f.owner = .xlat → c.s.walk = some w → w.phase = .stall n →
      fails (.replyDeclined ix) w 4 ∧ fails (.replyNoframeOwn ix) w 6 ∧ (f.noframe = true → fails (.pinwaitExpiry ix) w 6) ∧
      (w.q = true → fails (.replyNoframe ix) w 6) ∧
      (w.q = false → Does (.replyNoframe ix) s (fun t => f.ix ∉ (t.panel b).stall ∧ (t.core k).s.st = .waiting .pins ∧
        (t.core k).s.walk = some { w with phase := .pinWait f.ix } ∧
        ∀ g, g ∈ t.bench.faults → g.ix = f.ix → g.noframe = true)) ∧
      (∀ (u v : State) (x y : Walk) mask fsel runs, w.td ≠ 0#5 → c.tr w.td = none → c.freeMtes ≠ [] →
        let r := ((s.freeStall k f.ix).dropFault f.ix).uncache f.entryPa
        ((∀ p, p ∈ w.pages → p.va ≠ f.va) → u = r ∧ x = w) →
        ((∃ p, p ∈ w.pages ∧ p.va = f.va) → ∃ l, (r.walk (halfOf k) c.gangOf.toNat f.va).2 = .leaf l ∧
          let p := (r.walk (halfOf k) c.gangOf.toNat f.va).1.pinPage k (l.page f.va (w.base + w.len))
          u = p.1 ∧ x = { w with pages := w.pages.map (fun q => if q.va = f.va then p.2 else q) }) →
        State.walkOn (w.len / 65536 + 3) u k x = (v, y, none) →
        pagesFault w.wantW y.pages = none → (∀ p, p ∈ y.pages → p.pinned = true) → XlatEnd.ofPages y.pages = .good mask fsel runs →
        Does (.replyResolved ix) s (fun t => ∃ tok, (t.core k).tr w.td = some tok ∧
          entry t k tok.idx = { st := if w.stale then .stale else .live, w := w.wantW, r := true, mask := mask, fsel := fsel, runs := runs,
                                refs := 1, gen := tok.gen, len := w.len, vbase := w.base, gang := c.gangOf } ∧
          (t.core k).s.pc = c.s.pc + 4#16 ∧ (t.core k).s.st = .running ∧ f.ix ∉ (t.panel b).stall))) ∧
    (found → f.owner = .rewalk i → Does (.replyDeclined ix) s (fun t => entry t k i = { entry s k i with st := .dead } ∧
      (t.core k).s.pendLost = true ∧ ∀ g, g ∈ t.bench.faults → g.ix ≠ f.ix)) ∧
    (let m := entry s core.toNat i
     m.st = .stale → (∀ g, g ∈ s.bench.faults → ¬ (g.core = core.toNat ∧ g.owner = .rewalk i)) →
      let unused := m.fresh = true ∧ (s.core core.toNat).usesMte i.toNat = false
      let tr := s.translate (halfOf core.toNat) m.gang.toNat [] m.vbase m.len m.w
      (unused → Does (.rewalkComplete core i) s (fun t => t = s)) ∧
      (∀ v mask fsel runs, ¬ unused → tr = (v, .good mask fsel runs) → Does (.rewalkComplete core i) s (fun t =>
        entry t core.toNat i = { m with st := .live, mask := mask, fsel := fsel, runs := runs, fresh := false })) ∧
      (∀ v cause va, ¬ unused → tr = (v, .cause cause va) → Does (.rewalkComplete core i) s (fun t =>
        entry t core.toNat i = { m with st := .dead } ∧ (t.core core.toNat).s.pendLost = true)) ∧
      (∀ v va a l kd, ¬ unused → tr = (v, .invalid va a l kd) → Does (.rewalkComplete core i) s (fun t => entry t core.toNat i = m ∧
        ∃ g, g ∈ t.bench.faults ∧ g.owner = .rewalk i ∧ g.core = core.toNat ∧ g.va = va))) ∧
    (∀ (w y : Walk) new old (v : State) mask fsel runs, (s.core core.toNat).s.walk = some w → w.phase = .predicted new old →
      (∀ o, old = some o → o.idx ≠ new.idx) → (s.core core.toNat).s.st = .waiting .predicted →
      State.walkOn (w.len / 65536 + 3) s core.toNat w = (v, y, none) → pagesFault w.wantW y.pages = none →
      (∀ p, p ∈ y.pages → p.pinned = true) → XlatEnd.ofPages y.pages = .good mask fsel runs →
      Does (.predictedFrameConfirmed core) s (fun t =>
        entry t core.toNat new.idx = { entry s core.toNat new.idx with
          st := if w.stale then .stale else .live, mask := mask, fsel := fsel, runs := runs, pred := false } ∧
        (t.core core.toNat).s.st = .running ∧ (t.core core.toNat).s.pc = (s.core core.toNat).s.pc + 4#16 ∧
        (w.q = true → (t.core core.toNat).s.tstat = 0))) ∧
    (∀ p, p ∈ [(1, Instr.revokeUnmap rq), (2, .revokeMigrate rq), (3, .revokeDiscard rq), (4, .revokeAttribute rq)] →
      (requestValid p.1 rq = false → Does p.2 s (fun t =>
        t.bench.events = s.bench.events ++ [.malformedRequest rq.ix.toNat] ∧ t.mem = s.mem ∧ t.cores = s.cores)) ∧
      (requestValid p.1 rq = true → s.requestWaits p.1 rq = true → Does p.2 s (fun t =>
        t.bench.requests = s.bench.requests ++ [(p.1, rq)] ∧ t.mem = s.mem ∧ t.cores = s.cores)) ∧
      (requestValid p.1 rq = true → s.requestWaits p.1 rq = false → Does p.2 s (fun t =>
        t.bench.revocs = s.bench.revocs ++ [⟨rq.ix.toNat, p.1, unitsOf rq, (unitsOf rq).drop 32⟩] ∧
        marked ((unitsOf rq).take 32) t ∧
        (p.1 = 3 → ∀ u, u ∈ (unitsOf rq).take 32 → (t.clampAt (hostOnly u) u).dsc = true) ∧
        (p.1 = 2 → ∃ q, q ∈ t.mem.mig ∧ q.ix = rq.ix.toNat ∧ q.oldUnit = rq.oldPa.toNat / 65536 ∧
          q.newUnit = rq.newPa.toNat / 65536 ∧ q.units = rq.units.toNat ∧ q.settled = false ∧
          q.missing = List.range (512 * rq.units.toNat))))) ∧
    (∀ r, s.bench.revocs.find? (fun q => q.ix == ix.toNat) = some r → (∀ n, NoTwin s n) → Does (.revocationSettled ix) s (fun t =>
      (r.rest ≠ [] → { r with rest := r.rest.drop 32 } ∈ t.bench.revocs ∧ t.bench.requests = s.bench.requests ∧
        marked (r.rest.take 32) t ∧ (r.reason = 3 → ∀ u, u ∈ r.rest.take 32 → (t.clampAt (hostOnly u) u).dsc = true)) ∧
      (r.rest = [] → s.bench.requests = [] →
        (∀ q, q ∈ t.bench.revocs → q.ix ≠ r.ix) ∧ BenchEvent.revocationDone r.ix ∈ t.bench.events ∧
        (r.reason = 1 → ∀ u, u ∈ r.units → (t.clampAt (hostOnly u) u).dsc = false) ∧
        (r.reason = 2 → ∀ p, p ∈ t.mem.mig → p.ix = r.ix → p.settled = true)) ∧
      t.dv.inbound = [] ∧ ∀ n, NoBuffer t n)) ∧
    (∀ p l ls, s.bench.requests = [] → s.mem.mig[pair.toNat]? = some p → p.missing = l :: ls → p.settled = true →
      ((∃ x, x ∈ ls ∧ x ≠ l) → Does (.migrationLinePull pair) s (fun t =>
        (∀ j, j < 128 → t.dev (p.newUnit * 65536 + 128 * l + j) = s.dev (p.source l * 65536 + 128 * l + j)) ∧
        { p with missing := p.missing.filter (fun x => x != l) } ∈ t.mem.mig)) ∧
      (ls = [] → Does (.migrationLinePull pair) s (fun t => (∀ q, q ∈ t.mem.mig → q.ix ≠ p.ix) ∧
        ∀ u, u ∈ p.oldUnit :: p.olds → BenchEvent.unitFree u ∈ t.bench.events)))

/-- R280, R291, R311-R328, R410, R420: what the host and the Bench do to the dispatchers' registers. The number of a slot's vector in its
partition (log entry 58), what BAR2 of a partition that does not exist reads (67), and that a descriptor already bound is bound no more
(95), are the model's choices; BAR2 is stated outside the journal, whose bytes are free (20). -/
def Obligations.QueuesRegistersAndGangs : Prop :=
  ∀ (q : SlotId) (w root save : BitVec 64) (off : BitVec 24) (part : BitVec 3) (mo : BitVec 64) (n : Nat) (bs : List Byte)
      (poison : Bool) (vec : BitVec 11) (np : BitVec 4) (gang : GangId) (slots : List SlotId) (dn : BitVec 6) (image : List Byte)
      (ks : BitVec 13) (key : BitVec 512) (s : State),
    let x := s.slot q
    let slotIs (t : State) (y : QSlot) : Prop := t.slot q = y ∧ (∀ p : SlotId, p ≠ q → t.slot p = s.slot p) ∧
      t.mem = s.mem ∧ t.cores = s.cores
    let sent (t : State) (k : Nat) : Prop :=
      (Sparse.get false s.link.unmasked k = true → t.link.messages = s.link.messages ++ [BitVec.ofNat 11 k]) ∧
      (Sparse.get false s.link.unmasked k = false → t.link.messages = s.link.messages ∧ Sparse.get false t.link.pba k = true)
    let waits (u v : State) (d : List Byte) (z : Option Nat) : Prop := u.gangWord x.gang (field d 16 8) = (v, z)
    let tried (t : State) (i : Nat) (d : List Byte) (z : Nat) : Prop :=
      t.integ.journal = s.integ.journal ++ [.control s.disp.nextUnit z] ∧
      (compareWord (field d 32 1) z (field d 24 8) = true → (t.slot q).wait = none ∧ i ∉ (t.slot q).open_) ∧
      (compareWord (field d 32 1) z (field d 24 8) = false → (t.slot q).wait = x.wait)
    (x.head.toNat + 2 ^ x.logsize < w.toNat → x.wait = none → Does (.tailWrite q w) s (fun t => slotIs t { x with ovr := true } ∧
      sent t ((s.slotPart q * s.partVectors + x.vec % s.partVectors) % 2048))) ∧
    (w.toNat ≤ x.head.toNat + 2 ^ x.logsize → x.wait = none → Does (.tailWrite q w) s (fun t =>
      slotIs t { x with tail := BitVec.ofNat 64 (max x.tail.toNat w.toNat) } ∧ t.link = s.link)) ∧
    (∀ i d, x.wait = some (i, d) → x.waitFailed = false → s.slotLives q = true →
      let u := if x.head.toNat + 2 ^ x.logsize < w.toNat then (s.onSlot q (fun y => { y with ovr := true })).slotMessage q
        else s.onSlot q (fun y => { y with tail := BitVec.ofNat 64 (max x.tail.toNat w.toNat) })
      (∀ v, waits u v d none → Does (.tailWrite q w) s (fun t => (t.slot q).xlf = true ∧ (t.slot q).wait = x.wait)) ∧
      (∀ v z, waits u v d (some z) → Does (.tailWrite q w) s (fun t => tried t i d z))) ∧
    Does (.clearOvr q) s (fun t => slotIs t { x with ovr := false }) ∧
    (let u := s.onSlot q (fun y => { y with mal := false })
     (x.wait.isSome = true ∨ u.slotRuns q = false → Does (.clearMal q) s (fun t => slotIs t { x with mal := false })) ∧
     (∀ v, u.headPacket q = (v, none) → Does (.clearMal q) s (fun t => (t.slot q).mal = false)) ∧
     (∀ v i d, x.wait = none → u.slotRuns q = true → u.headPacket q = (v, some (i, d)) →
       Does (.clearMal q) s (fun t => (t.slot q).mal = !packetValid (s.slotPart q) d ∧ (t.slot q).head = x.head))) ∧
    (let y := { x with xlf := false, signalFailed := false, waitFailed := false }
     let u := s.onSlot q (fun _ => y)
     (∀ i d ls, x.wait = none → x.signals = [(i, d, ls)] → s.slotLives q = true → (∀ j, j ∈ x.open_ → i ≤ j) →
       (∀ l, l ∈ ls → ∀ z, z ∈ x.launched → z.id ≠ l) →
       (u.signalWord x.gang d = none → Does (.clearXlf q) s (fun t => (t.slot q).xlf = true ∧ (t.slot q).signals = x.signals)) ∧
       (∀ v, u.signalWord x.gang d = some v → Does (.clearXlf q) s (fun t => (t.slot q).xlf = false ∧ (t.slot q).signals = [] ∧
         t.mem = v.mem))) ∧
     (x.signals = [] → (x.wait = none → Does (.clearXlf q) s (fun t => slotIs t y)) ∧
       (∀ i d, x.wait = some (i, d) → s.slotLives q = true →
         (∀ v, waits u v d none → Does (.clearXlf q) s (fun t => (t.slot q).xlf = true ∧ (t.slot q).wait = x.wait)) ∧
         (∀ v z, waits u v d (some z) → Does (.clearXlf q) s (fun t => (t.slot q).xlf = false ∧ tried t i d z))))) ∧
    (∀ i d v z, x.signals = [] → s.disp.graphs = [] → (∀ y, y ∈ s.integ.units → y.replay = false) →
      x.wait = some (i, d) → x.waitFailed = false → s.slotLives q = true →
      waits s v d (some z) → Does (.dispatcherReread q) s (fun t =>
        (compareWord (field d 32 1) z (field d 24 8) = true → (t.slot q).wait = none ∧ i ∉ (t.slot q).open_) ∧
        (compareWord (field d 32 1) z (field d 24 8) = false → (t.slot q).wait = x.wait))) ∧
    (s.power.on = true → s.gateRuns = false →
      let a := off.toNat
      (∀ r, a = 0x10000 + 64 * q.toNat + r →
        (r = 0x00 → Does (.registerWrite off w) s (fun t =>
          slotIs t (if x.mapped then x else { x with qbase := w &&& 0x00FFFFFFFFFFFFC0#64 }))) ∧
        (r = 0x08 → Does (.registerWrite off w) s (fun t =>
          slotIs t (if x.mapped then x else { x with qconf := w &&& 0x07FF1C1F#64 }))) ∧
        (r = 0x10 → Does (.registerWrite off w) s (fun t => slotIs t (if x.mapped then x else { x with qdbva := w }))) ∧
        (r = 0x18 → Does (.registerWrite off w) s (fun t => slotIs t (if x.mapped then x else { x with qheadva := w }))) ∧
        (r = 0x20 → exec (.registerWrite off w) s = exec (.tailWrite q w) s) ∧
        (r = 0x30 → exec (.registerWrite off w) s = exec (.qcanWrite q w) s) ∧
        (r = 0x38 → (w = 2#64 → exec (.registerWrite off w) s = exec (.clearOvr q) s) ∧
          (w = 4#64 → exec (.registerWrite off w) s = exec (.clearMal q) s) ∧
          (w = 16#64 → exec (.registerWrite off w) s = exec (.clearXlf q) s))) ∧
      (∀ k r, k < 256 → a = 0x30000 + 64 * k + r → r ∈ [0x00, 0x08, 0x10, 0x18] → Does (.registerWrite off w) s (fun t =>
        (∀ j, j ≠ k → t.hostRing j = s.hostRing j) ∧ t.hostRing k = if r = 0 then
            { s.hostRing k with hrbase := w &&& 0x00FFFFFFFFFFFFE0#64 }
          else if r = 8 then { s.hostRing k with hrconf := w &&& 0xFFFFFFFF001FFC1F#64 }
          else if r = 16 then { s.hostRing k with hrheadva := w } else { s.hostRing k with hrseasva := w })) ∧
      (0x800000 ≤ a → a + 8 ≤ 0xC00000 → Does (.registerWrite off w) s (fun t => ∀ j, Sparse.get 0 t.plinth.staging j =
        if a ≤ j + 0x800000 ∧ j + 0x800000 < a + 8 then w.extractLsb' (8 * (j + 0x800000 - a)) 8
        else Sparse.get 0 s.plinth.staging j))) ∧
    (let size := 384 / s.disp.parts * 2 ^ 30
     let a := part.toNat * size + mo.toNat
     let half (z : Nat) : Prop := a + z ≤ 192 * 2 ^ 30 ∨ 192 * 2 ^ 30 ≤ a
     s.power.on = true → (s.gateRuns = true ∨ s.disp.parts ≤ part.toNat → Does (.hostBar2Access part mo (.read n)) s (fun t =>
         t.link.reads = s.link.reads ++ [(List.replicate n 0xFF, false)] ∧ t.mem = s.mem) ∧
       Does (.hostBar2Access part mo (.write bs poison)) s (fun t => t = s)) ∧
     (s.gateRuns = false → part.toNat < s.disp.parts → s.dramReady a = true → s.mem.mig = [] → s.inJournal a n = false →
       let key := some (Sparse.get 0 s.disp.barKeys part.toNat)
       (mo.toNat + n ≤ size → half n → CleanAt s a n → Keyed s key a n → Does (.hostBar2Access part mo (.read n)) s (fun t =>
         t.link.reads = s.link.reads ++ [(s.devBytes a n, false)] ∧ t.mem = s.mem)) ∧
       (mo.toNat + bs.length ≤ size → half bs.length → Keyed s key a bs.length → Does (.hostBar2Access part mo (.write bs poison)) s (fun t =>
         (∀ y, t.dev y = if a ≤ y ∧ y < a + bs.length then bs.getD (y - a) 0 else s.dev y) ∧
         ∀ j, bs ≠ [] → a / 16 ≤ j → 16 * j < a + bs.length → t.mem.dev.tag j = s.keyIn key)))) ∧
    (let size := 2 ^ 20 / s.disp.parts
     let a := 0x7FFFFFFF00000 + part.toNat * size + mo.toNat
     s.power.on = true → s.gateRuns = false → part.toNat < s.disp.parts → s.plinth.ready.getLsbD 11 = true → s.mem.mig = [] →
       (mo.toNat + n ≤ size → CleanAt s a n → Does (.cxlMemAccess part mo (.read n)) s (fun t =>
         t.link.reads = s.link.reads ++ [(s.devBytes a n, false)] ∧ t.mem = s.mem)) ∧
       (mo.toNat + bs.length ≤ size → bs ≠ [] → Does (.cxlMemAccess part mo (.write bs poison)) s (fun t =>
         (∀ y, t.dev y = if a ≤ y ∧ y < a + bs.length then bs.getD (y - a) 0 else s.dev y) ∧
         t.integ.journal = s.integ.journal ++ [.window a bs]))) ∧
    Does (.msixVectorUnmask vec) s (fun t => Sparse.get false t.link.unmasked vec.toNat = true ∧
      Sparse.get false t.link.pba vec.toNat = false ∧ t.link.messages = s.link.messages ++
        (if Sparse.get false s.link.pba vec.toNat then [vec] else [])) ∧
    ((∀ e, e ∈ s.disp.gangs → e.2.mapped = false) → np ∈ [1#4, 2#4, 4#4, 8#4] →
      Does (.setPartitions np) s (fun t => t = { s with disp := { s.disp with parts := np.toNat } })) ∧
    ((∃ e, e ∈ s.disp.gangs ∧ e.2.mapped = true) ∨ np ∉ [1#4, 2#4, 4#4, 8#4] → Does (.setPartitions np) s (fun t => t = s)) ∧
    (let ok := ∀ p, p ∈ slots → (s.slot p).mapped = false ∧ 6 ≤ (s.slot p).logsize ∧ (s.slot p).logsize ≤ 20 ∧
       (s.slot p).qdbva.toNat % 8 = 0 ∧ (s.slot p).qheadva.toNat % 8 = 0 ∧ s.slotPart p = part.toNat
     let may := (s.gang gang.toNat).mapped = false ∧ part.toNat < s.disp.parts ∧ root.toNat % 2 ^ 20 = 0 ∧ save.toNat % 65536 = 0 ∧
       s.partOf (save.toNat / 65536) = some part.toNat ∧ s.partOf ((overlayBase save.toNat 64 - 1) / 65536) = some part.toNat
     (¬ (ok ∧ may) → Does (.mapGang gang slots root part save) s (fun t => t = s)) ∧
     (ok → may → Does (.mapGang gang slots root part save) s (fun t =>
       (∃ key, t.gang gang.toNat =
         { s.gang gang.toNat with mapped := true, root := root.toNat, part := part, saveBase := save.toNat, saveKey := key }) ∧
       (∀ j, ((s.gang gang.toNat).root ≠ root.toNat ∨ (s.gang gang.toNat).part ≠ part) → (s.desc j).gang = gang →
         (t.desc j).bound = false) ∧
       ∀ p : SlotId, t.slot p = if p ∈ slots then { s.slot p with mapped := true, gang := gang } else s.slot p))) ∧
    (∃ u, u.cores = s.cores ∧ u.mem = s.mem ∧ exec (.unmapGang gang) s = exec (.preemptRequest gang) u ∧
      u.gang gang.toNat = { s.gang gang.toNat with mapped := false } ∧
      (∀ p : SlotId, (s.slot p).gang = gang → Sparse.get none u.disp.since p.toNat = none) ∧
      ∀ p : SlotId, u.slot p = if (s.slot p).gang = gang then { s.slot p with mapped := false } else s.slot p) ∧
    (s.victims gang = [] → Does (.unmapGang gang) s (fun t => (t.gang gang.toNat).mapped = false ∧
      ∀ p : SlotId, t.slot p = if (s.slot p).gang = gang then { s.slot p with mapped := false } else s.slot p)) ∧
    (descValid image = true → (s.desc dn.toNat).bound = false → s.descBusy dn.toNat = false → Does (.bindDescriptor dn gang image) s (fun t =>
      (∀ j, j ≠ dn.toNat → t.desc j = s.desc j) ∧ t.desc dn.toNat =
        { mapva := field image 56 8, tsva := field image 48 8, theta := BitVec.ofNat 32 (field image 44 4), eps := BitVec.ofNat 32 (field image 40 4), cur := 0, nt := field image 34 2 + 1, ns := field image 32 2 + 1, pmax := field image 30 2, abs := (field image 29 1 == 1), bound := true, gang := gang })) ∧
    (descValid image = false ∨ (s.desc dn.toNat).bound = true ∨ s.descBusy dn.toNat = true → Does (.bindDescriptor dn gang image) s (fun t => t = s)) ∧
    Does (.freeDescriptor dn) s (fun t => ∀ j, t.desc j = if j = dn.toNat then
      (if s.descBusy j then { s.desc j with bound := false } else {}) else s.desc j) ∧
    Does (.loadKey ks key) s (fun t => t.mem = s.mem ∧ ∀ j : BitVec 13, Sparse.get none t.bench.keys j.toNat =
      if j = ks then some key else Sparse.get none s.bench.keys j.toNat)

/-- R285-R329: packets, graphs, host rings, launches. The model's choices: a COPY's bytes move in one step when it is done (log entry
55), HALT does not hold launched units (56), the number of a ring's vector in its partition (58), and a node that a poisoned predecessor
reaches is settled at once, CANCELLED where all its edges have delivered skip (96). -/
def Obligations.PacketsGraphsAndLaunches : Prop :=
  ∀ (q : SlotId) (w : BitVec 64) (gr : BitVec 16) (node : BitVec 10) (rg : BitVec 8) (gid : BitVec 32) (wk : WalkerId)
      (s v : State) (i : Nat) (d : List Byte),
    let x := s.slot q
    let still (u : State) : Prop := u.disp.graphs = [] ∧ ∀ y, y ∈ u.integ.units → y.replay = false
    let runs := s.slotRuns q = true ∧ x.wait = none ∧ s.journalFull = false ∧ (∀ l, l ∈ x.launched → l.unit ≠ none)
    let takes (ty : Nat) := runs ∧ s.headPacket q = (v, some (i, d)) ∧ packetValid (s.slotPart q) d = true ∧
      packetType d = ty ∧ (packetBar d = true → x.open_ = [] ∧ x.launched = [])
    let s1 := (v.advanceHead q i).journal (.packet v.disp.nextUnit d)
    let headOf (t : State) : Prop := (t.slot q).head = BitVec.ofNat 64 (i + 1)
    let jigOf (u : State) (o : Origin) (depth crec va : Nat) (k : State → Prop) (go : Instr) : Prop :=
      ∀ n u' r e0, u.freeWalker = some n → u.readJig x.gang va = (u', .good r e0) → recSkip r = false →
        u.canRun (u.gang x.gang.toNat).part.toNat (recSize r) (recTwin r) = true →
        Does go s (fun t => k t ∧ ∃ j, t.jig n = some j ∧ j.origin = o ∧ j.gang = x.gang ∧ j.slot = q ∧ j.depth = depth ∧
          j.crec = crec ∧ j.record = r ∧ j.e0 = e0 ∧ j.total = totalOf r e0 ∧ j.next = 0 ∧ j.running = [] ∧ j.cancelled = false ∧
          j.prio = min 7 (fld x.qconf.toNat 10 3 + (s.clock - s.eligibleFrom q) / 640000))
    (∀ p, p ∈ [Instr.packetJig q, .packetGraph q, .packetCopy q] →
      (s.slotRuns q = false ∨ x.wait.isSome = true ∨ (∃ l, l ∈ x.launched ∧ l.unit = none) → Does p s (fun t => t = s)) ∧
      (runs → s.headPacket q = (v, some (i, d)) → packetValid (s.slotPart q) d = false → Does p s (fun t =>
        (t.slot q).mal = true ∧ (t.slot q).head = x.head))) ∧
    (takes 1 → packetMulti d = false → v.chooses q = true →
      jigOf s1 (.packet q i) 0 (field d 24 8) (field d 16 8) (fun t => headOf t ∧ i ∈ (t.slot q).open_) (.packetJig q)) ∧
    (∀ l u k, x.launched.find? (fun l => l.unit.isNone) = some l → x.mapped = true → s.dispatching (halfOfSlot q) = true →
      s.journalFull = false → (packetBar l.packet = true → x.open_ = [] ∧ x.launchedOpen = []) → s.chooses q = true →
      packetMulti l.packet = false → packetType l.packet = 1 →
      k = s.disp.nextUnit → u = (s.onSlot q (fun y => { y with launched := y.launched.map (fun z =>
        if z.id = l.id then { z with unit := some k } else z) })).journal (.packet k l.packet) →
      jigOf u (.launched q l.id) l.depth (field l.packet 24 8) (field l.packet 16 8)
        (fun t => ∀ z, z ∈ (t.slot q).launched → z.id = l.id → z.unit = some k) (.launchedTake q)) ∧
    (∀ v2 v3 v4 h dd ns e, takes 2 → packetMulti d = false → v.chooses q = true → v2 = (s1.markRunning x.gang (field d 24 8)) →
      (v2.newUnit (fun id => { id := id, gang := x.gang, slot := q, kind := .graph, crec := some (field d 24 8), deps := v.packetDeps q d })).1.gangRead x.gang (field d 16 8) 64 = (v3, some h) →
      field (plain h) 0 2 ≤ 1024 →
      v3.gangRead x.gang (field d 16 8 + 64) (64 * field (plain h) 0 2) = (v4, some dd) →
      graphOf (plain h) (plain dd) s.partRings = some (ns, e) →
      Does (.packetGraph q) s (fun t => headOf t ∧ ∃ k g, t.graph k = some g ∧ g.origin = .packet q i ∧ g.gang = x.gang ∧
        g.entry = e ∧ g.nodes.length = ns.length ∧ (∀ n, n ∈ g.nodes → n.st = .pending))) ∧
    (takes 3 → Does (.packetCopy q) s (fun t => headOf t ∧ i ∈ (t.slot q).open_ ∧
      (t.slot q).copies = x.copies ++ [(i, v.disp.nextUnit, d)])) ∧
    (∀ id rest u y b pois ok, still s → s.frozen = false → x.copies = (i, id, d) :: rest → y ∈ s.integ.units →
      (∀ z, z ∈ s.integ.units → z.id = id → z = y) → y.id = id →
      s.copyRun x.gang (field d 16 8) (field d 24 8) (field d 32 4) = (u, pois, ok) → b = copyImage ok pois →
      Does (.packetCopyDone q) s (fun t => (t.slot q).copies = rest ∧ i ∉ (t.slot q).open_ ∧
        ∃ z, z ∈ t.integ.units ∧ z.id = id ∧ z.stamp = some s.integ.c ∧ z.green = b)) ∧
    (let s2 := s1.onSlot q (fun y => { y with signals := [(i, d, [])] })
     takes 4 → x.signalFailed = false → x.signals = [] → x.launched = [] → (∀ j, j ∈ x.open_ → i ≤ j) →
      (∀ u, s2.signalWord x.gang d = some u → Does (.packetSignal q) s (fun t => headOf t ∧ (t.slot q).signals = [] ∧
        i ∉ (t.slot q).open_ ∧ t.mem = u.mem)) ∧
      (s2.signalWord x.gang d = none → Does (.packetSignal q) s (fun t => headOf t ∧ (t.slot q).xlf = true ∧
        (t.slot q).signals ≠ []))) ∧
    (∀ v2 z, takes 5 → x.waitFailed = false → (s1.onSlot q (fun y => { y with wait := some (i, d) })).gangWord x.gang (field d 16 8) = (v2, some z) →
      Does (.packetWait q) s (fun t => headOf t ∧ (t.slot q).wait =
          (if compareWord (field d 32 1) z (field d 24 8) then none else some (i, d)) ∧
        (t.slot q).waitDeps = (if packetBar d then s.unitsOfSlot q else x.waitDeps) ∧
        .control v.disp.nextUnit z ∈ t.integ.journal)) ∧
    (∀ n j, still s → (s.walkers (fun j => j.origin == .packet q w.toNat && !j.again)) = [n] → s.jig n = some j → j.again = false →
      j.origin = .packet q w.toNat → Does (.qcanWrite q w) s (fun t => t.jig n = none ∧ w.toNat ∉ (t.slot q).open_ ∧
        ∀ r b y, r ∈ j.running → b ∈ r.bases → (s.core b).step = some y → y.walker = n → (t.core b).step = none)) ∧
    (∀ g, s.graph gr.toNat = some g → s.graphRuns g = true →
      let n := g.node node.toNat
      let unpoisoned (g : Graph) : Prop := ∀ m, (g.node m).st = .pending → (g.node m).poisonIn = false
      (n.ready = true → n.poisonIn = false → (n.gotDone ≠ 0 ∨ n.npred = 0#8) → n.ty = 3#8 ∨ n.ty = 4#8 →
        s.freeWalker ≠ none → (∀ y, y ∈ s.integ.units → y.replay = false) → Does (.nodeReady gr node) s (fun t =>
          t.graph gr.toNat = some (g.setNode node.toNat { n with st := .started }))) ∧
      (∀ k, n.ready = true → (n.npred ≠ 0#8 ∧ n.gotSkip = n.npred.toNat) ∨ n.poisonIn = true → n.ty ≠ 1#8 →
        k ≠ node.toNat → k < g.nodes.length → (g.node k).st = .started → (∀ y, y ∈ s.integ.units → y.replay = false) →
        let allSkip := n.npred ≠ 0#8 ∧ n.gotSkip = n.npred.toNat
        Does (.nodeReady gr node) s (fun t => ∃ g', t.graph gr.toNat = some g' ∧ (g'.node node.toNat).st = .settled ∧
          g'.done = g.done ∧ (allSkip → unpoisoned g → g'.poisonedInput = g.poisonedInput) ∧ (¬ allSkip → g'.poisonedInput = true ∧
            ∀ b, b ∈ n.succ → b ≠ 0xFFFF#16 → b.toNat ≠ g.entry → (g.node b.toNat).st = .pending →
              (g'.node b.toNat).st = .settled))) ∧
      (∀ z a b k, n.st = .started → n.ty = 4#8 → s.gangWord g.gang (n.fld 16 8) = (v, some z) →
        n.succ = [a, b, 0xFFFF#16, 0xFFFF#16] → a ≠ b → a ≠ 0xFFFF#16 → b ≠ 0xFFFF#16 → a.toNat ≠ g.entry → b.toNat ≠ g.entry →
        (g.node a.toNat).st = .pending → (g.node b.toNat).st = .pending → k ≠ node.toNat → k < g.nodes.length →
        (g.node k).st = .started → unpoisoned g →
        let c := compareWord (n.fld 32 1) z (n.fld 24 8)
        let got (m m' : Node) (done : Bool) : Prop := m'.gotDone = m.gotDone + (if done then 1 else 0) ∧
          m'.gotSkip = m.gotSkip + (if done then 0 else 1)
        Does (.nodeCond gr node) s (fun t => ∃ g', t.graph gr.toNat = some g' ∧ (g'.node node.toNat).st = .settled ∧
          got (g.node a.toNat) (g'.node a.toNat) c ∧ got (g.node b.toNat) (g'.node b.toNat) (!c) ∧ g'.done = g.done + 1)) ∧
      (let r := s.slotPart g.slot * s.partRings + n.fld 16 2
       n.st = .started → n.ty = 3#8 →
        (s.ringRoom r g.gang = .waits → Does (.nodeHostring gr node) s (fun t => t = s)) ∧
       ∀ z y u k, s.ringRoom r g.gang = .done y → (s.hostRing r).retract = none →
        y.gangWord g.gang (n.fld 24 8) = (v, some z) → k ≠ node.toNat → k < g.nodes.length → (g.node k).st = .started →
        (v.newUnit (fun id => { id := id, gang := g.gang, slot := g.slot, kind := .ring r (n.fld 20 4) z, crec := none, deps := n.deps })).1.writeEntry r g.gang 1 (n.fld 20 4) z (some v.disp.nextUnit) = .done u →
        Does (.nodeHostring gr node) s (fun t => (t.hostRing r).hrtail = (s.hostRing r).hrtail + 1#64 ∧
          ∃ g', t.graph gr.toNat = some g' ∧ (g'.node node.toNat).st = .settled ∧ g'.done = g.done + 1))) ∧
    (let r := s.hostRing rg.toNat
     let k := (rg.toNat / s.partRings * s.partVectors + r.vec % s.partVectors) % 2048
     (r.time ≠ 0 → r.uncovered ≠ 0 → Does (.hostringTimeExpiry rg) s (fun t =>
       t.hostRing rg.toNat = { r with uncovered := 0 } ∧
       (Sparse.get false s.link.unmasked k = true → t.link.messages = s.link.messages ++ [BitVec.ofNat 11 k]) ∧
       (Sparse.get false s.link.unmasked k = false → Sparse.get false t.link.pba k = true))) ∧
     (r.time = 0 ∨ r.uncovered = 0 → Does (.hostringTimeExpiry rg) s (fun t => t = s))) ∧
    (∀ m j u, (∀ k g, s.graph k = some g → g.multi ≠ some m) → s.disp.graphs = [] → s.walkers (fun j => j.multi == some m) = [wk.toNat] →
      s.jig wk.toNat = some j → u = s.setJig wk.toNat (some { j with multi := none }) →
      ((s.multis gid).find? (fun m => s.allReserved m) = some m →
        exec (.multiCommit gid) s = .next (u.handOut wk.toNat)) ∧
      ((s.multis gid).find? (fun m => !s.allReserved m) = some m → j.running = [] → j.waits = false → j.origin = .packet q i → j.again = false →
        Does (.multiTimeout gid) s (fun t => m ∈ t.disp.multiFailed ∧ t.jig wk.toNat = none ∧ i ∉ (t.slot q).open_)))

/-- R22, R264, R273-R280, R298-R299, R361-R368: tile steps and contexts. -/
def Obligations.StepsPreemptionAndRestore : Prop :=
  ∀ (wk : WalkerId) (core : CoreId) (g : GangId) (s : State) (j : Jig),
    let n := wk.toNat
    let size := recSize j.record
    let part := (s.gang j.gang.toNat).part.toNat
    let still := s.disp.graphs = [] ∧ ∀ y, y ∈ s.integ.units → y.replay = false
    let ready := s.jig n = some j ∧ s.mayGo j = true ∧ j.rerun = [] ∧ j.next < j.total ∧ (j.skip = none ∨ j.decided = true)
    let ahead (i : Jig) := j.prio < i.prio ∨ (i.prio = j.prio ∧ i.since < j.since)
    let first := ∀ w i, (w, some i) ∈ s.disp.jigs → w = n ∨ ¬ ahead i ∨ s.couldGo w i = false
    (∀ w i, s.jig n = some j → (w, some i) ∈ s.disp.jigs → w ≠ n → ahead i → s.couldGo w i = true →
      Does (.stepHandout wk) s (fun t => t = s)) ∧
    let reg (t : State) (k r : Nat) : Word := (t.core k).xr (BitVec.ofNat 6 r)
    (ready → s.canRun part size (recTwin j.record) = true → s.choosePanels n j [] = none →
      Does (.stepHandout wk) s (fun t => t = s)) ∧
    (∀ b u v code, ready → first → s.canRun part size (recTwin j.record) = true → recTwin j.record = false →
      s.choosePanels n j [] = some [b] → s.mtesFor j [b] = true → s.cutCheck n [b] j = (u, .good) →
      (u.dropCut n).codeFor j [b] = (v, some code) →
      Does (.stepHandout wk) s (fun t =>
        (∃ j', t.jig n = some j' ∧ j'.next = j.next + 1 ∧ j'.running = j.running ++ [⟨j.next, [b]⟩] ∧ j'.reserved = []) ∧
        ∀ r, r < size → ∃ y, (t.core (b + r)).step = some y ∧ y.walker = n ∧ y.jigId = j.id ∧ y.ordinal = j.next ∧ y.rank = r ∧
          y.gang = j.gang ∧ y.ended = none ∧ (t.core (b + r)).s.pc = 0 ∧ (t.core (b + r)).s.st = .running ∧
          (t.core (b + r)).s.mode = .supervisor ∧ (t.core (b + r)).s.sst = 0 ∧ (t.core (b + r)).s.inHandler = false ∧
          (t.core (b + r)).v.eng = {} ∧ (t.core (b + r)).m.eng = {} ∧ (t.core (b + r)).c.eng = {} ∧
          (t.core (b + r)).panel = { base := BitVec.ofNat 8 b, rank := BitVec.ofNat 4 r, size := BitVec.ofNat 5 size } ∧
          (∀ k, k < 8 → reg t (b + r) (k + 1) = BitVec.ofNat 64 ((indices j.record j.e0 j.next).getD k 0)) ∧
          reg t (b + r) 9 = BitVec.ofNat 64 j.next ∧ reg t (b + r) 10 = BitVec.ofNat 64 (recArgaddr j.record) ∧
          reg t (b + r) 11 = BitVec.ofNat 64 r ∧ ∀ k, 12 ≤ k → k < 64 → reg t (b + r) k = 0)) ∧
    (∀ bases, ready → s.choosePanels n j [] = some bases → s.canRun part size (recTwin j.record) = true →
      (s.mtesFor j bases = false → Does (.stepHandout wk) s (fun t => t = s)) ∧
      (∀ u, first → s.mtesFor j bases = true → s.cutCheck n bases j = (u, .waits) →
        Does (.stepHandout wk) s (fun t => t.jig n = some j ∧ t.cores = s.cores))) ∧
    (∀ bases u, ready → first → s.canRun part size (recTwin j.record) = true → s.choosePanels n j [] = some bases →
      s.mtesFor j bases = true → s.cutCheck n bases j = (u, .fails) → j.next + 1 < j.total → Does (.stepHandout wk) s (fun t =>
        ∃ j', t.jig n = some j' ∧ j'.next = j.next + 1 ∧ j'.ended = j.ended + 1 ∧ j'.err ≠ none ∧ j'.running = j.running)) ∧
    (∀ d st u v k c f rec, s.jig n = some j → j.skip = some (d, st) → j.decided = false → j.next + 1 < j.total → s.mayGo j = true →
      let x := j.desc
      s.mapEntry j.gang x [0, 1, 2] true st j.next = (u, some [k, c, f]) → s.recordedDecision j.id j.next = none →
      (u.vaPieces j.gang.toNat true 2 (x.tsva + 256 * j.next) 256).2.2 = true →
      (u.vaPieces j.gang.toNat true 2 (x.tsva + 256 * j.next) 256).1.gangRead j.gang (x.tsva + 256 * j.next) 256 = (v, some rec) →
      let skip := if f.1.getLsbD (j.next % 8) = true ∧ f.2 = false then k.1.getLsbD (j.next % 8) && !k.2 else decide298 x rec
      let run := if skip then min 65535 (field (plain rec) 128 2 + 1) else 0
      Does (.skipDecision wk) s (fun t => t.integ.journal = s.integ.journal ++ [.decision j.id j.next skip run (rec.take 64)] ∧
        t.jig n = some (if skip then { j with next := j.next + 1, ended := j.ended + 1, good := j.good + 1 }
          else { j with decided := true, sketches := j.sketches ++ [(j.next, rec.take 64)] }))) ∧
    (∀ y z, let k := core.toNat
      let b := (s.core k).panelBase k
      let m := (s.core b).panelSize
      still → (s.core k).step = some y → (s.gang y.gang.toNat).preempting = false → (s.gang y.gang.toNat).restoring = false →
      (s.core b).step = some z → z.twin = .none → s.jig z.walker = some j → (∃ r, r ∈ j.running ∧ r.ordinal ≠ z.ordinal) →
      (z.ended = none → (∀ r, r < m → (s.core (b + r)).s.st = .halted ∧ (s.core (b + r)).s.loads = [] ∧
          (s.core (b + r)).v.loads = []) → Does (.stepEnd core) s (fun t =>
        (∀ r, r < m → (t.core (b + r)).step = none ∧ (t.core (b + r)).s.st = .idle ∧ ∀ n, (t.core (b + r)).tr n = none) ∧
        ∃ j', t.jig z.walker = some j' ∧ j'.ended = j.ended + 1 ∧ j'.good = j.good + 1 ∧ j'.err = j.err ∧
          j'.running = j.running.filter (fun r => r.ordinal != z.ordinal))) ∧
      (∀ c p, z.ended = some (c, p, true) → Does (.stepEnd core) s (fun t => (∀ r, r < m → (t.core (b + r)).step = none) ∧
        ∃ j', t.jig z.walker = some j' ∧ j'.ended = j.ended + 1 ∧ j'.good = j.good ∧ j'.err ≠ none))) ∧
    (let k := core.toNat
     let cause (p : StepInfo) : StepInfo := { p with ended := p.ended.or (some (0x201, k, true)) }
     s.jigOf k = some j → (recTlimit j.record ≠ 0 → (s.panel ((s.core k).panelBase k)).stall = [] →
       Does (.tlimitExpiry core) s (fun t => ∀ i, (t.core i).step = if i ∈ (s.core k).panelCores k
         then (s.core i).step.map cause else (s.core i).step)) ∧
       (recTlimit j.record = 0 ∨ (s.panel ((s.core k).panelBase k)).stall ≠ [] → Does (.tlimitExpiry core) s (fun t => t = s))) ∧
    (let twin := recTwin j.record
     let fits (h : Bool) (b : Nat) : Prop := twin = true → halfOf b = h
     let kept (b : Nat) : Prop :=
       ∃ w i a, (w, some i) ∈ s.disp.jigs ∧ a ∈ i.reserved ∧ a < b + size ∧ b < a + recSize i.record
     let lacks (h : Bool) : Prop := ∀ b, b ∈ s.freePanels n part size ∨ b ∈ j.reserved → ¬ fits h b
     let lowest (h : Bool) (b : Nat) : Prop := b ∈ s.soundGroups part size ∧ fits h b ∧ ¬ kept b ∧
       ∀ a, a ∈ s.soundGroups part size → a < b → ¬ (fits h a ∧ ¬ kept a)
     let keeps (bs : List Nat) : Prop :=
       Does (.panelReserve wk) s (fun t => t.jig n = some { j with reserved := j.reserved ++ bs } ∧ t.cores = s.cores)
     ready → s.choosePanels n j [] = none →
       (∀ b, twin = false → lacks false → lowest false b → keeps [b]) ∧
       (∀ h b, twin = true → lacks h → ¬ lacks (!h) → lowest h b → keeps [b]) ∧
       ∀ a b, twin = true → lacks false → lacks true → lowest false a → lowest true b → keeps [a, b]) ∧
    ((s.gang g.toNat).restoring = true ∨ s.victims g = [] → Does (.preemptRequest g) s (fun t => t = s)) ∧
    (let plain (c : Core) := c.m.flight = none ∧ c.c.flight = none ∧ c.m.taken = [] ∧ c.c.taken = [] ∧ c.v.curTok = none
     (s.gang g.toNat).restoring = false → s.victims g ≠ [] → (∀ k, k ∈ s.victims g → NoTwin s k ∧
        ∃ z, (s.core ((s.core k).panelBase k)).step = some z ∧ z.ended = none ∧
          ∃ r, r < (s.core ((s.core k).panelBase k)).panelSize ∧ (s.core ((s.core k).panelBase k + r)).s.st ≠ .halted) →
      Does (.preemptRequest g) s (fun t => (t.gang g.toNat).preempting = true ∧ ∀ k, k ∈ s.victims g →
        (t.core k).s.walk = none ∧ (t.core k).v.wait = none ∧ (t.core k).v.cur = none ∧ (t.core k).v.curTok = none ∧
        (t.core k).buffer = [] ∧ (∀ w, w ∈ (t.core k).waiters → w.2 = .s) ∧
        (plain (s.core k) → Ready s k false → Ready s k true → (t.core k).s.queue = [] ∧ (t.core k).v.queue = []) ∧
        (∀ o, s.victims g = [k] → plain (s.core k) → (s.core k).s.loads = [] → (s.core k).v.loads = [] → (s.core k).s.walk = none →
          (s.core k).s.st = .waiting o → (t.core k).s.st = (if o.holds s k .s then .waiting o else .running) ∧
            (t.core k).s.pc = (s.core k).s.pc))) ∧
    (∀ k, k ∈ s.victims g → s.finishing k = true → Does (.preemptSaveDone g) s (fun t => t = s)) ∧
    (let u := (s.victims g).foldl (fun u k => u.haltCore k) s
     (s.gang g.toNat).preempting = true → (∀ k, k ∈ s.victims g → s.finishing k = false) → s.victims g ≠ [] →
      u.victims g = s.victims g → (∀ k, k ∈ s.victims g → (u.core k).step ≠ none ∧
        ∃ z, (u.core ((u.core k).panelBase k)).step = some z ∧ z.ended = none ∧
          ∃ r, r < (u.core ((u.core k).panelBase k)).panelSize ∧ (u.core ((u.core k).panelBase k + r)).s.st ≠ .halted) →
      Does (.preemptSaveDone g) s (fun t => (t.gang g.toNat).preempting = false ∧
        (∀ k, k ∈ s.victims g → (t.core k).step = none ∧ (t.core k).s.st = .idle) ∧
        ∃ es, (g, es) ∈ t.saved ∧ ∀ k, k ∈ s.victims g → ∃ e, e ∈ es ∧ e.oldCore = k ∧ e.core = (u.core k).context ∧
          e.size = (u.core k).panelSize ∧ ∀ z, (u.core k).step = some z → e.ordinal = z.ordinal ∧ e.walker = z.walker)) ∧
    (∀ e b, s.saved.find? (fun x => x.1 == g) = some (g, [e]) → e.rank = 0 → e.size = 1 → (s.gang g.toNat).preempting = false →
      s.frozen = false → (s.soundGroups (s.gang g.toNat).part.toNat 1).find? (fun b => s.restorable b) = some b →
      let bare (l : QLoad) : QLoad := { l with tok := none }
      let shop (q : QStore) : QStore := q.mapTok (fun _ => none)
      let moved (q : QStore) : QStore := shop (q.move (fun k => k + b - e.oldCore))
      Does (.restoreRequest g) s (fun t =>
        (t.core b).s = { e.core.s with loads := (t.core b).s.loads, queue := (t.core b).s.queue } ∧
        (t.core b).v = { e.core.v with loads := (t.core b).v.loads, queue := (t.core b).v.queue, curTok := (t.core b).v.curTok } ∧
        (∀ v, ((t.core b).loadsOf v).map bare = (e.core.loadsOf v).map bare ∧
          ((t.core b).storesOf v).map shop = (e.core.storesOf v).map moved) ∧
        (∀ i, s.jig e.walker = some i → t.jig e.walker = some { i with running := i.running.map (fun (r : Running) =>
          if r.ordinal = e.ordinal then ⟨r.ordinal, r.bases.map (fun x => if x = e.oldCore then b else x)⟩ else r) }) ∧
        (t.core b).spad = e.core.spad ∧ (t.core b).m.acc = e.core.m.acc ∧ (t.core b).m.level = e.core.m.level ∧
        (t.core b).step = e.core.step ∧ (t.core b).season = (s.core b).season ∧
        (t.core b).panel = { base := BitVec.ofNat 8 b, rank := 0, size := 1 } ∧ (∀ x, x ∈ t.saved → x.1 ≠ g) ∧
        (e.core.mtes.length ≤ (s.core b).freeMtes.length → (∀ y, y ∈ e.core.mtes → y.2.st = .stale) →
          ∀ n x, e.core.tr n = some x → (e.core.mte x.idx.toNat).st = .stale → ∃ y, (t.core b).tr n = some y ∧
            (t.core b).mte y.idx.toNat = { e.core.mte x.idx.toNat with
              gen := y.gen, refs := e.core.records x.idx.toNat, gang := e.core.gangOf } ∧
            y.gen = ((s.core b).mte y.idx.toNat).gen + 1#16)))

/-- R183, R371, R376-R380, R384, R387, R388, R390: the sender of Dovetail. The model's choices: that a release settles once its four
copies are sent and no GAP has withdrawn them (log entry 73), how a command waits in its channel (106), and that an event of a channel
with two unsettled epochs concerns a free one of those it can concern (119). -/
def Obligations.DovetailSenderFollowsItsChannel : Prop :=
  ∀ (ws ss : SemId) (g : GangId) (ch : BitVec 12) (dev : BitVec 22) (win : BitVec 16) (woff flag : BitVec 32) (spa len : BitVec 13)
      (pk : DvPacket) (f : Flight) (s : State),
    let me := chanKey s.me.gangOf ch
    let c := s.chan me
    let q := f.prog
    let n := packetsOf len.toNat
    let chans (t : State) (k : Nat) (x : Channel) : Prop := ∀ j, t.chan j = if j = k then x else s.chan j
    let fault (h : Flight) : Flight := { h with st := .done, codes := { h.codes with dvFault := true } }
    let unit (i : Instr) (h : Flight) (P : State → Prop) : Prop :=
      Does i s (fun t => t.me.c.flight = some h ∧ t.me.s = s.me.s ∧ t.mem = s.mem ∧ t.me.spad = s.me.spad ∧ P t)
    let same (t : State) : Prop := t.dv = s.dv
    let key := chanKey g ch
    let x := s.chan key
    let calm := s.dv.held = [] ∧ s.dv.errFlags = [] ∧ ∀ e, e ∈ s.dv.chans → ∀ z, z ∈ e.2.epochs → z.replay = false
    let gone := s.dv.sent.erase pk
    let sends (t : State) (l : List DvPacket) : Prop := Sends s s.dv.sent l t.dv.sent
    let answers (t : State) (l : List DvPacket) : Prop := Sends s gone l t.dv.sent
    let issues (i : Instr) (P : State → Flight → Prop) : Prop :=
      Does i s (fun t => ∃ h, t.me.c.flight = some h ∧ h.st = .issued ∧ h.prog = 0 ∧ h.codes.illegal = false ∧ P t h)
    let still (y : Channel) := ∀ z, z ∈ y.epochs → z.ripe = false
    let once (y : Channel) (b : BitVec 2) := (y.epochs.filter (fun z => z.num == b)).length ≤ 1
    let free (w : SemId) := s.me.flight .c = none ∧ s.budget = 1 ∧ NoTwin s s.curN ∧
      (w = 0#6 ∨ s.me.ahead w .c < (s.me.sem w.toNat).count.toNat)
    let cmds := [Instr.dvw ws ss ch woff spa len, .dvrel ws ss ch woff flag, .dvshut ws ss ch]
    (free ws → (c.pend ≠ none → ∀ i, i ∈ Instr.dvopen ws ss ch dev win :: cmds → Does i s (fun t => same t ∧
        ∃ h, t.me.c.flight = some h ∧ h.cmd = i ∧ h.st = .decoded)) ∧
      (c.pend = none → c.st ≠ .opened → ∀ i, i ∈ cmds →
        issues i (fun t h => h.codes.dvFault = true ∧ h.dv = none ∧ h.ser = none ∧ same t)) ∧
      (c.pend = none → c.st = .opened →
        let e := c.epoch c.openEpoch
        let jo := (s.me.step.map (fun y => (y.jigId, y.ordinal))).getD (0, 0)
        let d : DvDesc := ⟨s.curN, s.me.panel.rank.toNat, jo.1, jo.2, 512 * spa.toNat, len.toNat, woff.toNat, n⟩
        let e1 : Epoch := { e with released := true, flagOff := woff.toNat, flag := flag, ser := c.next }
        (e.log.length < 256 → e.count + n ≤ 2 ^ 31 → issues (.dvw ws ss ch woff spa len) (fun t h =>
          h.dv = some c.openEpoch ∧ h.ser = some c.life ∧ h.codes.dvFault = false ∧ t.dv.sent = s.dv.sent ∧
          (t.chan me).epoch c.openEpoch = { e with log := e.log ++ [d], count := e.count + n } ∧
          (t.chan me).st = .opened ∧ (t.chan me).openEpoch = c.openEpoch ∧
          ∀ b : BitVec 2, b ≠ c.openEpoch → (t.chan me).epoch b = c.epoch b)) ∧
        (256 ≤ e.log.length ∨ 2 ^ 31 < e.count + n → Does (.dvw ws ss ch woff spa len) s (fun t =>
          (∃ h, t.me.c.flight = some h ∧ h.st = .done ∧ h.codes.illegal = true) ∧ same t)) ∧
        (still c → 2 ≤ c.unsettled.length → issues (.dvrel ws ss ch woff flag) (fun t h => h.ser = some c.next ∧
          t.dv.sent = s.dv.sent ∧ chans t me { c with next := c.next + 1, pend := some (c.next, .rel woff.toNat flag) })) ∧
        (still c → once c c.openEpoch → c.unsettled.length < 2 → issues (.dvrel ws ss ch woff flag) (fun t h =>
          h.ser = some c.next ∧ (t.chan me).st = .opened ∧ (t.chan me).pend = none ∧ (t.chan me).openEpoch = c.openEpoch + 1#2 ∧
          (∀ b : BitVec 2, b ≠ c.openEpoch → (t.chan me).epoch b = c.epoch b) ∧
          (e1.ripe = false → t.dv.sent = s.dv.sent ∧ (t.chan me).epoch c.openEpoch = e1) ∧
          (e1.ripe = true → sends t [{
              ty := .release
              epoch := c.openEpoch
              gen := BitVec.ofNat 4 e.gen
              slot := c.slot
              dst := c.dev
              src := Config.deviceId
              win := c.win
              off := BitVec.ofNat 64 woff.toNat
              count := BitVec.ofNat 32 e.count
              value := flag
              data := []
              poisoned := []
              intact := true }] ∧
            (t.chan me).epoch c.openEpoch = { e1 with copies := 1, busy := false }))) ∧
        (c.unsettled = [] → e.sent = e.count → issues (.dvshut ws ss ch) (fun t h => h.ser = some c.next ∧
          sends t [packetTo .shut c.dev c.slot c.win] ∧
          chans t me { c with st := .shutting, sends := 1, next := c.next + 1, ctl := c.next })) ∧
        (still c → c.unsettled ≠ [] ∨ e.sent ≠ e.count → issues (.dvshut ws ss ch) (fun t h => h.ser = some c.next ∧
          t.dv.sent = s.dv.sent ∧ chans t me { c with next := c.next + 1, pend := some (c.next, .shut) }))) ∧
      (c.pend = none → c.st = .closed ∨ c.st = .faulted → issues (.dvopen ws ss ch dev win) (fun t h => h.ser = some c.next ∧
        h.codes.dvFault = false ∧ sends t [packetTo .openReq dev 0 win] ∧
        chans t me { st := .opening, win := win, dev := dev, sends := 1, next := c.next + 1, life := c.next, ctl := c.next,
                     ended := c.ended })) ∧
      (c.pend = none → c.st = .opening ∨ c.st = .opened ∨ c.st = .shutting →
        issues (.dvopen ws ss ch dev win) (fun t h => h.codes.dvFault = true ∧ h.ser = none ∧ same t))) ∧
    (AtUnit .c s f →
      (f.cmd = .dvw ws ss ch woff spa len →
        (∀ e, f.dv = some e → c.st = .opened → f.ser = some c.life → q < n → c.pend = none → still c → once c e →
          let a := 512 * spa.toNat + 4096 * q
          let m := min 4096 (512 * len.toNat - 4096 * q)
          let y : Epoch := { c.epoch e with sent := (c.epoch e).sent + 1 }
          let write : DvPacket := {
            ty := .write
            epoch := e
            gen := BitVec.ofNat 4 (c.epoch e).gen
            slot := c.slot
            dst := c.dev
            src := Config.deviceId
            win := c.win
            off := BitVec.ofNat 64 (woff.toNat + 4096 * q)
            count := 0
            value := 0
            data := s.me.spBytes a m
            poisoned := []
            intact := true }
          s.me.spClean a m → unit f.cmd (f.after n) (fun t =>
            (y.ripe = false → sends t [write] ∧ (t.chan me).epoch e = y) ∧
            (y.ripe = true → sends t [write, c.releasePacket y] ∧
              (t.chan me).epoch e = { y with copies := 1, busy := false }))) ∧
        (f.dv = none → unit f.cmd { f with st := .done } same) ∧
        (∀ e, f.dv = some e → c.st ≠ .opened ∨ f.ser ≠ some c.life → unit f.cmd (fault f) same)) ∧
      (f.cmd ∈ [.dvopen ws ss ch dev win, .dvrel ws ss ch woff flag, .dvshut ws ss ch] →
        (f.ser = none → unit f.cmd { f with st := .done } same) ∧
        (∀ m, f.ser = some m →
          (c.ended.find? (fun z => z.1 == m) = none → unit f.cmd f same) ∧
          (∀ z, c.ended.find? (fun z => z.1 == m) = some z → unit f.cmd { f with
              st := .done
              codes := { f.codes with
                dvFault := f.codes.dvFault || decide (z.2 = 8)
                overrun := f.codes.overrun || decide (z.2 = 7) } } (fun t =>
            t.dv.sent = s.dv.sent ∧ chans t me { c with ended := c.ended.filter (fun z => z.1 != m) }))))) ∧
    (calm → packetIntact pk = true → pk.dst = Config.deviceId → pk ∈ s.dv.arrived →
      (let l := s.dv.chans.filter (fun e => e.2.st == .opening && e.2.dev == pk.src && e.2.win == pk.win)
       pk.ty = .openAck → (l = [] → Does (.dvRecvOpenack pk) s (fun t => t.dv.sent = gone ∧ ∀ j, t.chan j = s.chan j)) ∧
        (l ≠ [] → Does (.dvRecvOpenack pk) s (fun t => t.dv.sent = gone ∧ t.mem = s.mem ∧ ∃ e, e ∈ l ∧
          let y := s.chan e.1
          chans t e.1 (if pk.count.toNat % 256 = 0 then
            { y with st := .opened, slot := pk.slot, tgap := pk.count.toNat / 256 % 65536, sends := 0,
                     ended := y.ended ++ [(y.ctl, 0)] }
            else { y with st := .faulted, sends := 0, ended := y.ended ++ [(y.ctl, 8)] })))) ∧
      (∀ k, pk.ty = .shutAck → s.channelOf pk.src pk.slot .shutting = some k → Does (.dvRecvShutack pk) s (fun t =>
        t.dv.sent = gone ∧ t.mem = s.mem ∧
        chans t k { s.chan k with st := .closed, sends := 0, ended := (s.chan k).ended ++ [((s.chan k).ctl, 0)] })) ∧
      (∀ k, pk.ty = .fault → (s.channelOf pk.src pk.slot .opened).or (s.channelOf pk.src pk.slot .shutting) = some k →
        let y := s.chan k
        let code := if pk.count.toNat = 2 then 7 else 8
        Does (.dvRecvFault pk) s (fun t => answers t [packetTo .faultAck pk.src pk.slot pk.win] ∧ t.mem = s.mem ∧
          (t.chan k).st = .faulted ∧ (t.chan k).epochs = [] ∧ (t.chan k).pend = none ∧
          (t.chan k).ended = y.ended ++ (if y.st = .opening ∨ y.st = .shutting then [(y.ctl, 8)] else []) ++
            y.unsettled.map (fun e => (e.ser, code)) ++ (match y.pend with
              | some (m, .rel _ _) => [(m, code)]
              | some (m, .shut) => [(m, 8)]
              | none => []) ∧
          ∀ j, j ≠ k → t.chan j = s.chan j)) ∧
      (∀ k y, s.channelOf pk.src pk.slot .opened = some k → (s.chan k).named pk = some y →
        (pk.ty = .busy → Does (.dvRecvBusy pk) s (fun t => t.dv.sent = gone ∧
          (t.chan k).epoch y.num = { y with busy := true })) ∧
        (pk.ty = .gap → (s.gang (k / 4096)).preempting = true ∨ (s.gang (k / 4096)).restoring = true →
          Does (.dvRecvGap pk) s (fun t => t.dv.sent = gone ∧
            (t.chan k).epoch y.num = { y with gen := y.gen + 1, copies := 0, busy := false, replay := true })) ∧
        (pk.ty = .gap → (s.gang (k / 4096)).preempting = false → (s.gang (k / 4096)).restoring = false → once (s.chan k) y.num →
          (∀ d, d ∈ y.log → s.cores.find? (fun e => d.task e.2) = none →
            ∀ v, v ∈ s.saved → ∀ z, z ∈ v.2 → d.task z.core = false) →
          let at_ (d : DvDesc) : Nat := ((s.cores.find? (fun e => d.task e.2)).map (fun e => e.1)).getD d.core
          (∀ d, d ∈ y.log → NoBuffer s (at_ d) ∧ NoTwin s (at_ d)) →
          (∀ d, d ∈ y.log → ∀ i, i < d.packets → (s.core (at_ d)).spClean (d.spa + 4096 * i) (payload d.len i)) →
          let z : Epoch := { y with gen := y.gen + 1, copies := 1, busy := false, replay := false }
          Does (.dvRecvGap pk) s (fun t =>
            answers t (y.log.flatMap (fun d => (List.range d.packets).map (fun i =>
              { (s.chan k).packet .write z with
                off := BitVec.ofNat 64 (d.woff + 4096 * i)
                data := (s.core (at_ d)).spBytes (d.spa + 4096 * i) (payload d.len i) })) ++ [(s.chan k).releasePacket z]) ∧
            t.mem = s.mem ∧ (t.chan k).epoch y.num = z)))) ∧
    (let stopped (y : Epoch) : Prop := y ∈ x.epochs ∧ y.busy = true
     let begun (y : Epoch) : Prop := y ∈ x.unsettled ∧ 1 ≤ y.copies ∧ y.copies < 4 ∧ y.busy = false
     let copied (y : Epoch) : Prop := y ∈ x.unsettled ∧ y.copies = 4 ∧ y.busy = false
     let without (y : Epoch) : Channel :=
       { x with epochs := x.epochs.filter (fun e => e.num != y.num), ended := x.ended ++ [(y.ser, 0)] }
     ((∃ y, stopped y) → x.st = .opened → Does (.dvBusyRestart g ch) s (fun t => ∃ y, stopped y ∧ sends t [x.releasePacket y] ∧
       (t.chan key).epoch y.num = { y with copies := 1, busy := false, replay := false })) ∧
     ((∃ y, begun y) → Does (.dvReleaseCopy g ch) s (fun t => ∃ y, begun y ∧ sends t [x.releasePacket y] ∧
       (t.chan key).epoch y.num = { y with copies := y.copies + 1 })) ∧
     ((∃ y, copied y) → still x → x.pend = none → Does (.dvSettle g ch) s (fun t => t.dv.sent = s.dv.sent ∧
       ∃ y, copied y ∧ chans t key (without y))) ∧
     (∀ m off v, (∃ y, copied y) → (∀ y, copied y → (without y).unsettled.length < 2) → x.pend = some (m, .rel off v) →
       Does (.dvSettle g ch) s (fun t => (∃ y, copied y ∧ (t.chan key).ended = x.ended ++ [(y.ser, 0)]) ∧
         (t.chan key).pend = none ∧ (t.chan key).openEpoch = x.openEpoch + 1#2 ∧
         ((t.chan key).epoch x.openEpoch).released = true ∧ ((t.chan key).epoch x.openEpoch).ser = m ∧
         ((t.chan key).epoch x.openEpoch).flagOff = off ∧ ((t.chan key).epoch x.openEpoch).flag = v)) ∧
     (∀ m, (∃ y, copied y) → (∀ y, copied y → (without y).unsettled = [] ∧
         ((without y).epoch x.openEpoch).sent = ((without y).epoch x.openEpoch).count) → x.pend = some (m, .shut) →
       Does (.dvSettle g ch) s (fun t => sends t [packetTo .shut x.dev x.slot x.win] ∧
         ∃ y, copied y ∧ chans t key { without y with st := .shutting, sends := 1, ctl := m, pend := none }))) ∧
    (x.st = .opening ∨ x.st = .shutting →
      (x.sends < 5 → Does (.dvControlResend (.chan g ch)) s (fun t => chans t key { x with sends := x.sends + 1 } ∧
        sends t [if x.st = .opening then packetTo .openReq x.dev 0 x.win else packetTo .shut x.dev x.slot x.win])) ∧
      (5 ≤ x.sends → Does (.dvControlResend (.chan g ch)) s (fun t => t.dv.sent = s.dv.sent ∧ (t.chan key).st = .faulted ∧
        (x.ctl, 8) ∈ (t.chan key).ended)))

/-- R371, R373-R375, R377, R381-R388, R391: the receiver of Dovetail, and its links. The model's choices: a packet of another sender than
the slot's is dropped (log entry 73), the seventeenth failure in a row brings a link down, and which packets that loses (74), which slot
a repeated OPEN gets (99), through which port a packet goes (98), and when an admitted WRITE that no flag covers yet becomes visible, in
what order (119). -/
def Obligations.DovetailReceiverCountsReleasesAndFaults : Prop :=
  ∀ (pk : DvPacket) (sn : BitVec 12) (port : BitVec 4) (fl : LinkFlit) (ix : BitVec 32) (wn : BitVec 16) (g : GangId)
      (base len : BitVec 64) (src : BitVec 22) (anySrc : Bool) (s : State) (pa pb : Nat → Nat),
    let sl := pk.slot.toNat
    let x := s.arrival sl
    let e := pk.epoch
    let r := x.ep e
    let w := pk.win.toNat
    let o := pk.off.toNat
    let gone := s.dv.sent.erase pk
    let idle := s.dv.held = [] ∧ s.dv.errFlags = [] ∧ (∀ e, e ∈ s.dv.chans → ∀ z, z ∈ e.2.epochs → z.replay = false) ∧
      pk.dst = Config.deviceId ∧ pk ∈ s.dv.arrived
    let calm := idle ∧ packetIntact pk = true
    let counted := x.used = true ∧ x.src = pk.src ∧ x.fault = none ∧ (e = x.last + 1#2 ∨ e = x.last + 2#2) ∧ r.gen = pk.gen.toNat
    let next := x.last + 1#2
    let keyOf (v j : Nat) := (s.window v).mte.keyAt j
    let admits (v off n : Nat) (p : Nat → Nat) : Prop := (s.window v).exported = true ∧
      ((s.window v).srcAny = true ∨ (s.window v).srcDev = pk.src) ∧ ReachesEach s (s.window v).mte .fabric false true off n p ∧
      ∀ j, j < n → Keyed s (keyOf v (off + j)) (p j) 1 ∧
        ∀ h, h < n → p h / 16 = p j / 16 → s.keyIn (keyOf v (off + h)) = s.keyIn (keyOf v (off + j))
    let refuses (v off n : Nat) : Prop := (s.window v).exported = false ∨
      ((s.window v).srcAny = false ∧ (s.window v).srcDev ≠ pk.src) ∨ (s.window v).mte.len < off + n ∨ (s.window v).mte.st = .dead ∨
      ((s.window v).mte.st = .live ∧ ((s.window v).mte.w = false ∨ (s.window v).mte.mask.getLsbD 5 = false))
    let answer (ty : DvType) (y : RecvSlot) (k : BitVec 12) (f : BitVec 2) (gn n : Nat) : DvPacket :=
      { packetTo ty y.src k y.win with epoch := f, gen := BitVec.ofNat 4 gn, count := BitVec.ofNat 32 n }
    let answers (t : State) (l : List DvPacket) : Prop := Sends s gone l t.dv.sent
    let pending : List VisStore := (s.dv.inbound.filter (fun z => z.slot == sl && z.epoch == e)).map (fun z => ⟨z.segs, .c⟩)
    let apart (v off n : Nat) (p : Nat → Nat) : Prop := pending ≠ [] → s.mem.mig = [] ∧ OneKey s pending ∧ ∀ q, q ∈ pending →
      ∀ h, h ∈ q.segs → ∀ j, j < n → h.addr / 16 ≤ p j / 16 → 16 * (p j / 16) < h.addr + h.data.length →
        s.keyIn h.key = s.keyIn (keyOf v (off + j))
    let others (t : State) : Prop := t.dv.inbound = s.dv.inbound.filter (fun z => !(z.slot == sl && z.epoch == e))
    let waits (f : BitVec 2) : Prop := ∀ i, (x.ep f).rel = some i → (x.ep f).arr ≠ i.count
    let eps (t : State) (f : BitVec 2) (z : RecvEpoch) : Prop := (t.arrival sl).last = x.last ∧ (t.arrival sl).fault = none ∧
      ∀ h : BitVec 2, (t.arrival sl).ep h = if h = f then z else x.ep h
    let flagged (t : State) : Prop := (t.arrival sl).last = next ∧ ∀ h : BitVec 2, (t.arrival sl).ep h = if h = next then {} else x.ep h
    let flagOf (z : RecvEpoch) (v : Nat) (i : Nat) : Byte := BitVec.ofNat 8 ((v + if z.refused then 2 ^ 32 else 0) / 256 ^ i)
    let data (i : Nat) : Byte := pk.data.getD i 0
    let wrote (v : VisStore) : Prop := ∀ f a, devAfter [v] f a = devBytesAfter f pk.data.length pa data a
    (pk.ty = .write → calm → counted →
      (next ≠ e → waits next) → (∀ i, r.rel = some i → r.arr + 1 < i.count ∨ (r.arr + 1 = i.count ∧ e ≠ next)) →
      (admits w o pk.data.length pa → Does (.dvRecvWrite pk) s (fun t => t.dv.sent = gone ∧
        (∀ v m, BenchEvent.refused v m ∈ t.bench.events → BenchEvent.refused v m ∈ s.bench.events) ∧
        (∃ v, wrote v ∧ (((∀ a, t.dev a = devAfter [v] s.dev a) ∧ t.dv.inbound = s.dv.inbound) ∨
          (t.mem = s.mem ∧ t.dv.inbound = s.dv.inbound ++ [⟨sl, e, v.segs⟩]))) ∧ eps t e { r with arr := r.arr + 1, gapping := none })) ∧
      (refuses w o pk.data.length → Does (.dvRecvWrite pk) s (fun t => t.dv.sent = gone ∧ t.mem = s.mem ∧
        t.bench.events = s.bench.events ++ [.refused pk.win o] ∧
        eps t e { r with arr := r.arr + 1, gapping := none, refused := true })) ∧
      ((s.window w).exported = true → (s.window w).srcAny = true → o + pk.data.length ≤ (s.window w).mte.len →
        (s.window w).mte.st = .stale → (∃ f, f ∈ s.bench.faults ∧ f.owner = .window w) → Does (.dvRecvWrite pk) s (fun t =>
          t.dv.held = [pk] ∧ t.mem = s.mem ∧ t.dv.recv = s.dv.recv))) ∧
    (∀ i, pk.ty = .write → calm → counted → r.rel = some i →
      (e = next → r.arr + 1 = i.count → waits (x.last + 2#2) → admits w o pk.data.length pa → admits i.win i.off 8 pb →
        apart w o pk.data.length pa → apart i.win i.off 8 pb →
        (∀ j, j < pk.data.length → ∀ h, h < 8 → pa j / 16 = pb h / 16 → s.keyIn (keyOf w (o + j)) = s.keyIn (keyOf i.win (i.off + h))) →
        Does (.dvRecvWrite pk) s (fun t => flagged t ∧ others t ∧ ∃ v l, wrote v ∧ l.Perm (v :: pending) ∧ ∀ a, t.dev a =
          devBytesAfter (devAfter l s.dev) 8 pb (flagOf r i.value.toNat) a)) ∧
      (i.count < r.arr + 1 → refuses w o pk.data.length ∨ admits w o pk.data.length pa → Does (.dvRecvWrite pk) s (fun t =>
        (t.arrival sl).fault = some 2#3 ∧ answers t [answer .fault x pk.slot 0 0 2]))) ∧
    (∀ q, q ∈ [(DvType.write, Instr.dvRecvWrite pk), (.release, .dvRecvRelease pk), (.gap, .dvRecvGap pk), (.busy, .dvRecvBusy pk),
        (.openReq, .dvRecvOpen pk), (.openAck, .dvRecvOpenack pk), (.shut, .dvRecvShut pk), (.shutAck, .dvRecvShutack pk),
        (.fault, .dvRecvFault pk), (.faultAck, .dvRecvFaultack pk)] →
      (pk.ty ≠ q.1 ∨ pk.dst ≠ Config.deviceId ∨ pk ∉ s.dv.arrived → Does q.2 s (fun t => t = s)) ∧
      (pk.ty = q.1 → idle → Does q.2 s (fun t => t.dv.arrived = s.dv.arrived.erase pk))) ∧
    (idle → packetIntact pk = false ∨ ¬ counted →
      (pk.ty = .write → Does (.dvRecvWrite pk) s (fun t => t.mem = s.mem ∧ t.dv.recv = s.dv.recv ∧ t.dv.sent = gone)) ∧
      (pk.ty = .release → Does (.dvRecvRelease pk) s (fun t => t.mem = s.mem ∧ t.dv.recv = s.dv.recv ∧ t.dv.sent = gone))) ∧
    (pk.ty = .release → calm → counted → r.rel = none →
      let i : RelInfo := ⟨pk.count.toNat, w, o, pk.value⟩
      let met := r.arr = i.count ∧ e = next
      let z : RecvEpoch := { r with last := some i, relSeen := true, gapping := none }
      (met → waits (x.last + 2#2) → admits w o 8 pb → apart w o 8 pb → Does (.dvRecvRelease pk) s (fun t => flagged t ∧
        t.dv.sent = gone ∧ others t ∧ ∃ l, l.Perm pending ∧ ∀ a, t.dev a =
          devBytesAfter (devAfter l s.dev) 8 pb (flagOf r i.value.toNat) a)) ∧
      (met → refuses w o 8 → Does (.dvRecvRelease pk) s (fun t => (t.arrival sl).fault = some 3#3 ∧
        .flagRefused pk.win o ∈ t.bench.events ∧ answers t [answer .fault x pk.slot 0 0 3])) ∧
      (¬ met → r.arr ≤ i.count → s.relHeld < 256 → Does (.dvRecvRelease pk) s (fun t => t.mem = s.mem ∧ t.dv.sent = gone ∧
        eps t e { z with rel := some i })) ∧
      (¬ met → 256 ≤ s.relHeld → Does (.dvRecvRelease pk) s (fun t => t.mem = s.mem ∧
        answers t [answer .busy x pk.slot e r.gen 0] ∧ eps t e z)) ∧
      (i.count < r.arr → s.relHeld < 256 → Does (.dvRecvRelease pk) s (fun t => (t.arrival sl).fault = some 2#3 ∧
        answers t [answer .fault x pk.slot 0 0 2]))) ∧
    (pk.ty = .openReq → calm →
      let ack (k n : Nat) : DvPacket := { packetTo .openAck pk.src (BitVec.ofNat 12 k) pk.win with count := BitVec.ofNat 32 (n + 256 * s.dv.tgap) }
      let fresh := ∀ e, e ∈ s.dv.recv → e.2.openedBy pk = false
      (∀ k z, s.dv.recv.filter (fun e => e.2.openedBy pk) = [(k, z)] → s.arrival k = z →
        (∀ j, j < 4096 → (s.arrival j).used = true) → Does (.dvRecvOpen pk) s (fun t =>
          t.dv.recv = s.dv.recv ∧ (answers t [ack k 0] ∨ answers t [ack 0 1]))) ∧
      (∀ k, fresh → k < 4096 → (s.arrival k).used = false → (∀ j, j < k → (s.arrival j).used = true) →
        Does (.dvRecvOpen pk) s (fun t => t.arrival k = { used := true, src := pk.src, win := pk.win } ∧
          answers t [ack k 0] ∧ ∀ j, j ≠ k → t.arrival j = s.arrival j)) ∧
      (fresh → (∀ j, j < 4096 → (s.arrival j).used = true) → Does (.dvRecvOpen pk) s (fun t =>
        t.dv.recv = s.dv.recv ∧ answers t [ack 0 1]))) ∧
    (pk.ty = .shut → calm → Does (.dvRecvShut pk) s (fun t => answers t [packetTo .shutAck pk.src pk.slot pk.win] ∧
      ∀ j, t.arrival j = if j = sl ∧ x.used = true ∧ x.src = pk.src then {} else s.arrival j)) ∧
    (pk.ty = .faultAck → calm → Does (.dvRecvFaultack pk) s (fun t => t.dv.sent = gone ∧
      ∀ j, t.arrival j = if j = sl ∧ x.fault ≠ none ∧ x.src = pk.src then {} else s.arrival j)) ∧
    (let sends (t : State) (l : List DvPacket) : Prop := Sends s s.dv.sent l t.dv.sent
     let k := sn.toNat
     let y := s.arrival k
     let current (f : BitVec 2) (p : RecvEpoch → Prop) : Prop := y.used = true ∧ y.fault = none ∧ p (y.ep f) ∧
       (f = y.last + 1#2 ∨ f = y.last + 2#2)
     (∀ f q, (q = Instr.dvTgapExpiry ⟨sn, f⟩ ∧ current f (fun z => z.rel.isSome = true)) ∨
         (q = .dvReplayTimeout ⟨sn, f⟩ ∧ current f (fun z => 1 ≤ z.gen ∧ z.relSeen = false)) →
       let z := y.ep f
       (z.gen < 4 → Does q s (fun t => t.mem = s.mem ∧ sends t [answer .gap y sn f z.gen z.arr] ∧
         (t.arrival k).ep f = { arr := 0, gen := z.gen + 1, last := z.last, refused := z.refused, gapping := some (z.gen, z.arr) })) ∧
       (4 ≤ z.gen → Does q s (fun t =>
         let n := if z.relSeen then 1 else 3
         (t.arrival k).fault = some (BitVec.ofNat 3 n) ∧ sends t [answer .fault y sn 0 0 n]))) ∧
     (∀ f gn n, current f (fun z => z.gapping.isSome = true) → (y.ep f).gapping = some (gn, n) → Does (.dvGapRepeat ⟨sn, f⟩) s (fun t =>
       sends t [answer .gap y sn f gn n] ∧ t.dv.recv = s.dv.recv)) ∧
     (∀ n, y.fault = some n →
       (y.sends < 5 → Does (.dvControlResend (.slot sn)) s (fun t => t.arrival k = { y with sends := y.sends + 1 } ∧
         sends t [answer .fault y sn 0 0 n.toNat])) ∧
       (5 ≤ y.sends → Does (.dvControlResend (.slot sn)) s (fun t => t.arrival k = {} ∧ t.dv.sent = s.dv.sent)))) ∧
    (let v := s.window wn.toNat
     let fresh : Window := { exported := true, gang := g, srcDev := src, srcAny := anySrc }
     (∀ t mask fsel runs, v.exported = false → 0 < len.toNat → len.toNat ≤ 2 ^ 32 → base.toNat + len.toNat ≤ 2 ^ 56 →
       s.translate false g.toNat [] base.toNat len.toNat true = (t, .good mask fsel runs) →
       Does (.exportWindow wn g base len src anySrc) s (fun u => ∀ j, u.window j = if j = wn.toNat then
         { fresh with mte := { st := .live, w := true, r := true, mask := mask, fsel := fsel, runs := runs, refs := 1,
                               len := len.toNat, vbase := base.toNat } } else t.window j)) ∧
     (∀ t r, v.exported = false → 0 < len.toNat → len.toNat ≤ 2 ^ 32 → base.toNat + len.toNat ≤ 2 ^ 56 →
       s.translate false g.toNat [] base.toNat len.toNat true = (t, r) → (∀ mask fsel runs, r ≠ .good mask fsel runs) →
       Does (.exportWindow wn g base len src anySrc) s (fun u => u = t)) ∧
     (v.exported = true → Does (.exportWindow wn g base len src anySrc) s (fun u => u = s))) ∧
    (s.dv.sent[ix.toNat]? = none → Does (.packetExpiry ix) s (fun t => t = s)) ∧
    (∀ p, s.dv.sent[ix.toNat]? = some p →
      let n := (flitsOf p).length
      let unsent (k : Nat) : Prop := k < 16 ∧ n ≤ ((s.port k).queue.filter (fun z => z.2 == p)).length
      let u : State := { s with dv := { s.dv with sent := s.dv.sent.erase p } }
      ((∀ k, ¬ unsent k) → Does (.packetExpiry ix) s (fun t => t = u)) ∧
      ((∃ k, unsent k) → Does (.packetExpiry ix) s (fun t => t = { u with dv := { u.dv with ports := t.dv.ports } } ∧
        ∃ k, unsent k ∧ t.port k = { s.port k with queue := (t.port k).queue } ∧ (t.port k).queue.Sublist (s.port k).queue ∧
          (t.port k).queue.length + n = (s.port k).queue.length ∧ ∀ j, j ≠ k → t.port j = s.port j))) ∧
    (let p := port.toNat
     let up (u : State) : Bool := u.plinth.ready.getLsbD (24 + p)
     let y := s.port p
     let others (t : State) : Prop := ∀ b, b < 64 → b ≠ 24 + p → t.plinth.ready.getLsbD b = s.plinth.ready.getLsbD b
     let lost (t : State) : Prop := up t = false ∧ others t ∧ t.port p = {} ∧ t.dv.sent.Sublist s.dv.sent
     let becomes (t : State) (z : Port) : Prop := t.port p = z ∧ (∀ k, k ≠ p → t.port k = s.port k) ∧ t.plinth = s.plinth ∧
       t.dv.sent = s.dv.sent ∧ t.dv.arrived = s.dv.arrived
     let asks := ∃ n, fl.again = some n ∧ ∃ z, z ∈ y.retry ∧ z.num = n
     let b := y.bytes ++ fl.body
     let whole := 32 + hdrField b 12 2 ≤ b.length
     let takes := fl.seq = y.want ∧ fl.ack = none ∧ fl.again = none
     Does (.portTrained port) s (fun t => up t = true ∧ others t ∧ t.dv = s.dv) ∧
     (up s = true →
       Does (.linkDown port) s lost ∧
       (y.failed < 16 → Does (.flitReceive port fl false) s (fun t => becomes t { y with failed := y.failed + 1 })) ∧
       (16 ≤ y.failed → Does (.flitReceive port fl false) s lost) ∧
       (fl.ack = none → asks → 16 ≤ y.asked → Does (.flitReceive port fl true) s lost) ∧
       (fl.ack = none → fl.seq ≠ y.want → (asks → y.asked < 16) → Does (.flitReceive port fl true) s (fun t =>
         (asks → becomes t { y with asked := y.asked + 1, failed := 0 }) ∧ (¬ asks → becomes t { y with asked := 0, failed := 0 }))) ∧
       (∀ n k, fl.ack = some n → y.retry.findIdx? (fun z => z.num == n) = some k → y.queue = [] → fl.again = none → fl.seq ≠ y.want →
         Does (.flitReceive port fl true) s (fun t => becomes t { y with retry := y.retry.drop (k + 1), asked := 0, failed := 0 })) ∧
       (takes → ¬ whole → Does (.flitReceive port fl true) s (fun t => becomes t
         { y with want := y.want + 1#12, asked := 0, failed := 0, bytes := b, sound := y.sound && fl.sound })) ∧
       (takes → whole →
         let z : Port := { y with want := y.want + 1#12, asked := 0, failed := 0, bytes := [], sound := true }
         ((y.sound && fl.sound) = false ∨ readPacket b true = none → Does (.flitReceive port fl true) s (fun t => becomes t z)) ∧
         (∀ m, (y.sound && fl.sound) = true → readPacket b true = some m →
           (m.dst = Config.deviceId → Does (.flitReceive port fl true) s (fun t => t.dv.arrived = s.dv.arrived ++ [m] ∧
             t.dv.sent = s.dv.sent ∧ t.port p = z)) ∧
           (m.dst ≠ Config.deviceId → Does (.flitReceive port fl true) s (fun t => t.dv.arrived = s.dv.arrived ∧
             Sends s s.dv.sent [m] t.dv.sent ∧ (t.port p).want = z.want ∧ (t.port p).bytes = []))))) ∧
     (up s = false → Does (.linkDown port) s (fun t => t = s) ∧ ∀ ok, Does (.flitReceive port fl ok) s (fun t => t = s)))

/-- R187, R399, R401-R404, R408, R415-R418, R434-R436: integrity and power. The order of tests, the free spare row and that a replay
begins within the event are the model's choice (log entry 75), as are the size of a row, the list of retired frames and that a
contained stop ends within its event (log entry 111), and a ceiling below 63 (log entry 32). -/
def Obligations.RotationErrorsAndThePowerGovernor : Prop :=
  ∀ (core : CoreId) (half : Bool) (addr : BitVec 51) (q : BitVec 17) (v : VReg) (q4 : BitVec 4) (b : BitVec 2) (i j : BitVec 7)
      (val : BitVec 8) (temp : BitVec 16) (s : State),
    let k := core.toNat
    let c := s.core k
    let g := s.integ
    let owed := k ∈ g.ahead ∨ k ∈ g.skipped
    let turn := ∀ m, m < (k + 256 - g.rotNext) % 256 → s.isRetired ((g.rotNext + m) % 256) = true ∨
      (g.rotNext + m) % 256 ∈ g.early ∨ (s.core ((g.rotNext + m) % 256)).step ≠ none
    let free := g.rotActive = false ∧ s.isRetired k = false ∧ c.step = none
    let tested := g.rotActive = true ∧ g.rotCore = core
    let bare := s.disp.graphs = [] ∧ s.disp.hostRings = [] ∧ g.journal = []
    let alone (u : WorkUnit) (z : Jig) : Prop := g.units = [u] ∧ u.kind = .jig z ∧ u.deps = [] ∧ u.crec = none
    let again (t : State) (u : WorkUnit) : Prop := t.integ.units = [{ u with ran := [], replay := true, stamp := none }]
    (free → (owed ∨ (turn ∧ k ∉ g.early)) → Does (.rotationTestStart core) s (fun t => t.integ.rotActive = true ∧ t.integ.rotCore = core ∧
      t.core k = { c with testing := true } ∧ (∀ n, n ≠ k → t.core n = s.core n) ∧ k ∉ t.integ.ahead ∧ k ∉ t.integ.skipped ∧
      t.integ.rotNext = (if turn then (k + 1) % 256 else g.rotNext) ∧ t.mem = s.mem ∧
      (∀ n, n ≠ k → n ∈ g.skipped → n ∈ t.integ.skipped) ∧ (turn → k ∉ t.integ.early) ∧
      (¬ turn → k ∉ g.skipped → k ∈ t.integ.early ∧ ∀ n, n ∈ g.early → n ∈ t.integ.early) ∧
      ∀ m, turn → m < (k + 256 - g.rotNext) % 256 →
        let n := (g.rotNext + m) % 256
        n ∉ t.integ.early ∧ (s.isRetired n = false → n ∉ g.early → n ≠ k → n ∈ t.integ.skipped))) ∧
    (free → ¬ owed → turn → k ∈ g.early → Does (.rotationTestStart core) s (fun t => t.integ.rotActive = false ∧
      t.cores = s.cores ∧ t.mem = s.mem ∧ t.integ.rotNext = (k + 1) % 256 ∧ k ∉ t.integ.early)) ∧
    (¬ free ∨ ¬ (owed ∨ turn) → Does (.rotationTestStart core) s (fun t => t = s)) ∧
    (¬ tested → Does (.rotationTestPass core) s (fun t => t = s) ∧ Does (.rotationTestFail core) s (fun t => t = s)) ∧
    (tested → Does (.rotationTestPass core) s (fun t =>
      t.core k = { c with testing := false, season := c.season + 1#32 } ∧ (∀ n, n ≠ k → t.core n = s.core n) ∧
      t.integ.rotActive = false ∧ t.integ.c = g.c + 1 ∧ t.integ.dirty = g.dirty.filter (fun e => e.1 % 256 != k))) ∧
    (∀ u z m, tested → bare → s.disp.jigs = [] → alone u z → u.stamp ≠ none → k ∈ u.ran → recTwin z.record = false →
      m ∈ s.soundGroups (s.gang z.gang.toNat).part.toNat (recSize z.record) → k < m ∨ m + recSize z.record ≤ k → Does (.rotationTestFail core) s (fun t =>
      (∀ n, t.isRetired n = if n = k then true else s.isRetired n) ∧ .testFailed k ∈ t.bench.events ∧
      t.integ.rotActive = false ∧ (t.core k).testing = false ∧ again t u ∧ t.jig 0 = some { z.fromStart with again := true })) ∧
    (c.step = none → Does (.rotationDeadline core) s (fun t => t = s)) ∧
    (∀ y, c.step = some y → (s.gang y.gang.toNat).restoring = true → Does (.rotationDeadline core) s (fun t =>
      k ∈ t.integ.ahead ∧ t.cores = s.cores ∧ t.mem = s.mem ∧ ∀ n, n ∈ g.ahead → n ∈ t.integ.ahead)) ∧
    (∀ y, c.step = some y → (s.gang y.gang.toNat).restoring = false → s.victims y.gang = [k] →
      c.panelBase k = k → y.ended = none → (∃ r, r < c.panelSize ∧ (s.core (k + r)).s.st ≠ .halted) →
      Does (.rotationDeadline core) s (fun t => k ∈ t.integ.ahead ∧ (t.gang y.gang.toNat).preempting = true ∧
        (t.core k).buffer = [] ∧ (t.core k).s.walk = none)) ∧
    (let a := addr.toNat
     (384 * 2 ^ 30 ≤ a → Does (.dramUncorrectable addr) s (fun t => t = s) ∧ Does (.dramRowRemap addr) s (fun t => t = s)) ∧
     (a < 384 * 2 ^ 30 → Does (.dramUncorrectable addr) s (fun t => t.mem.dev.bytes = s.mem.dev.bytes ∧ t.cores = s.cores ∧
        ∀ n, Sparse.get false t.mem.dev.pois n = if n / 32 = a / 32 then true else Sparse.get false s.mem.dev.pois n) ∧
      let r := a / Config.rowBytes * Config.rowBytes
      let bad := s.mem.dev.bad r Config.rowBytes
      Does (.dramRowRemap addr) s (fun t => t.cores = s.cores ∧ t.mem.dev.bytes = s.mem.dev.bytes ∧
        ((Sparse.get 0 t.mem.rows a = 1 ∧ t.mem.retired = s.mem.retired ∧
            (bad = [] → t.mem.dev = s.mem.dev ∧ t.bench = s.bench) ∧
            ∀ x, x ∈ bad → .poisoned (32 * x) ∈ t.bench.events ∧ ∀ y, y < 32 → Sparse.get false t.mem.dev.pois (32 * x + y) = true) ∨
          (Sparse.get false t.mem.retired (a / 65536) = true ∧ t.mem.rows = s.mem.rows ∧ t.mem.dev = s.mem.dev ∧
            .retireFrames [a / 65536] ∈ t.bench.events))))) ∧
    (s.recordFull false = false → s.recordFull true = false → Does .poisonRecordThreshold s (fun t => t = s)) ∧
    (∀ h, s.recordFull h = true → Does .poisonRecordThreshold s (fun t => t.cores = s.cores ∧ t.mem.dev = s.mem.dev ∧
      let entries (f : Nat) : Nat := frameEntries (s.poisonRecord h) f
      ∃ fs, .retireFrames fs ∈ t.bench.events ∧ fs ≠ [] ∧
        ∀ f, (f ∈ fs ↔ 0 < entries f ∧ ∀ x, entries x ≤ entries f) ∧
          (f ∈ fs → halfOfUnit f = h ∧ Sparse.get false t.mem.retired f = true))) ∧
    (q.toNat < 98304 → Does (.sramUncorrectable core (.scratchpad q)) s (fun t => OnlyCore k s t ∧
      (t.core k).spad.bytes = c.spad.bytes ∧ ∀ n, Sparse.get false (t.core k).spad.pois n =
        if n / 32 = q.toNat then true else Sparse.get false c.spad.pois n)) ∧
    Does (.sramUncorrectable core (.vreg v q4)) s (fun t => OnlyCore k s t ∧ ∀ r, (t.core k).vr r = c.vr r ∧
      ∀ n, n < 16 → ((t.core k).vpois r).getLsbD n = ((c.vpois r).getLsbD n || (decide (r = v) && n == q4.toNat))) ∧
    Does (.sramUncorrectable core (.acc b i j)) s (fun t => OnlyCore k s t ∧ (t.core k).m.acc = c.m.acc ∧
      ∀ (n : BitVec 2) (x : Nat), x < 128 →
        (Sparse.get 0 (t.core k).m.rowMarks n.toNat).getLsbD x =
          ((Sparse.get 0 c.m.rowMarks n.toNat).getLsbD x || (decide (n = b) && x == i.toNat)) ∧
        (Sparse.get 0 (t.core k).m.colMarks n.toNat).getLsbD x =
          ((Sparse.get 0 c.m.colMarks n.toNat).getLsbD x || (decide (n = b) && x == j.toNat))) ∧
    (c.step = none → Does (.sramUncorrectable core .control) s (fun t => k ∈ t.integ.ahead ∧ t.mem = s.mem ∧
      t.core k = { c with lastJig := none } ∧ ∀ n, n ≠ k → t.core n = s.core n)) ∧
    (∀ u z w x op, bare → s.disp.jigs = [(w, some x)] → alone u z → u.id = x.id → x.running = [] → 0 < x.total →
      (op = .dispatcherMemError half ∧ halfOfSlot x.slot = half) ∨ op = .structureCompare .bothLost ∨
        (op = .sramUncorrectable core .control ∧ ∃ y, c.step = some y ∧ y.jigId = x.id) →
      Does op s (fun t => again t u ∧ (∀ n, t.slot n = s.slot n) ∧
        t.jig w = some { x.fromStart with multi := x.multi, reserved := x.reserved })) ∧
    (∀ r, r = CompareResult.good ∨ r = .oneLost → Does (.structureCompare r) s (fun t => t = s)) ∧
    (let n := val.toNat
     let lv := if n < 127 then 1 else if n < 191 then 2 else if n < 255 then 3 else 4
     Does (.govceilWrite half val) s (fun t =>
       (if half then t.power.ceilB else t.power.ceilA) = BitVec.ofNat 8 (64 * lv - 1) ∧
       (if half then t.power.ceilA else t.power.ceilB) = (if half then s.power.ceilA else s.power.ceilB) ∧ t.mem = s.mem ∧
       ∀ m, (t.core m).m.level = if decide (128 ≤ m) = half then min (s.core m).m.level lv else (s.core m).m.level)) ∧
    Does (.govRampUp core) s (fun t => OnlyCore k s t ∧
      t.core k = c.onM (fun m => { m with govOn := true, level := max m.level (min (m.level + 1) (s.ceiling k)) })) ∧
    Does (.govRampDown core) s (fun t => OnlyCore k s t ∧
      t.core k = c.onM (fun m => { m with govOn := true, level := max 1 (m.level - 1) })) ∧
    (let n := temp.toNat
     let lo := if half then 48 else 32
     let warm := 380 ≤ n ∧ n < 420
     let hot (t : State) := if half then t.power.hotB else t.power.hotA
     let ceil (t : State) : Nat := (if half then t.power.ceilB else t.power.ceilA).toNat
     let lowers := warm ∧ hot s = none ∧ s.benchRuns = true
     Does (.dramTempThreshold half temp) s (fun t => t.mem = s.mem ∧
       (¬ lowers → t.cores = s.cores ∧ ceil t = ceil s) ∧
       (lowers → hot t = some s.clock ∧ ceil t = (if 191 < ceil s then 191 else if 127 < ceil s then 127 else 63) ∧
         ∀ m, (t.core m).m.level = if decide (128 ≤ m) = half then min (s.core m).m.level (ceil t / 64 + 1) else (s.core m).m.level) ∧
       (if half then t.power.ceilA else t.power.ceilB) = (if half then s.power.ceilA else s.power.ceilB) ∧
       (if half then t.power.hotA else t.power.hotB) = (if half then s.power.hotA else s.power.hotB) ∧
       (warm → hot t ≠ none) ∧ (¬ warm → hot t = none) ∧
       t.plinth = (if 420 ≤ n then { s.plinth with ready := s.plinth.ready &&& 0xFFFFFFFFFFFFFF0F#64 } else s.plinth) ∧
       (t.power.temp.extractLsb' lo 16 = temp ∧ ∀ x, x < lo ∨ lo + 16 ≤ x → t.power.temp.getLsbD x = s.power.temp.getLsbD x) ∧
       (if half then t.power.refreshB else t.power.refreshA) = decide (340 ≤ n) ∧
       (if half then t.power.refreshA else t.power.refreshB) = (if half then s.power.refreshA else s.power.refreshB) ∧
       (t.power.thermtrip = (s.power.thermtrip || decide (420 ≤ n))) ∧
       t.bench.events = s.bench.events ++ (if 380 ≤ n ∧ n < 420 then [.temperature half] else [])))

/-- R420-R430, R433: the Plinth. The model's choices that it rests on are when HOLD becomes SCRUB, LOADING ends and a reload is over,
and that a GATE in LOADING is taken (log entry 68), the sizes of the scrub's regions (log entry 69), the block that MEAS4 takes
(log entry 71), what is lost without power (log entry 72) and the layouts of the SPDM messages (log entry 30). -/
def Obligations.LeaseGateMeasurementAndAttestation : Prop :=
  ∀ (nonce : BitVec 256) (time : BitVec 64) (res : ScrubResult) (image : List Byte) (ok tr : Bool) (n : BitVec 4)
      (digest : BitVec 384) (rq : SpdmReq) (s : State),
    let p := s.plinth
    let gated := p.gate = .hold ∨ p.gate = .scrub
    let on := s.power.on = true
    let meas (t : State) (i : Nat) : BitVec 384 := Sparse.get 0 t.plinth.meas i
    let ext (m : BitVec 384) (d : List Byte) : BitVec 384 := BitVec.ofNat 384 (beNat (sha384 (beBytes 48 m.toNat ++ d)))
    let self := ext (ext 0 (sha384 Config.rom)) (sha384 Config.fuses)
    let held (t : State) (trig : BitVec 4) : Prop := t.plinth.gate = .hold ∧ t.plinth.trig = trig ∧ t.bench.runA = false ∧
      t.bench.runB = false ∧ t.plinth.spdm0 = {} ∧ t.plinth.spdm1 = {} ∧ t.plinth.nonce = 0 ∧ t.plinth.opTime = 0
    let starts (i : Instr) (trig : BitVec 4) : Prop := Does i s (fun t => held t trig ∧ t.plinth.latchedNonce = p.nonce ∧
      t.plinth.latchedTime = p.opTime ∧ t.plinth.seq = p.seq + 1 ∧ t.plinth.ready = p.ready &&& 1#64 ∧ t.mem = s.mem ∧
      t.cores = s.cores ∧ t.plinth.meas = p.meas)
    let side (i : Instr) (a : SideAnswer) : Prop := Does i s (fun t =>
      t = { s with plinth := { p with sideband := p.sideband ++ [a] } })
    let event (cause : Nat) : List Byte := sha384 ((List.range 48).map (fun i => Config.takeoverBlock cause (BitVec.ofNat 64 s.clock) i))
    let blank (t : State) : Prop := t.mem.dev = {} ∧ t.mem.hcopy = {} ∧ t.mem.hheld = [] ∧ t.mem.hdirty = [] ∧ t.mem.hstored = [] ∧ t.cores = [] ∧ t.disp = {} ∧ t.dv = {} ∧ t.saved = [] ∧
      t.mem.host = s.mem.host
    let bits (b : Bool) : Nat := if b then 1 else 0
    (¬ gated → on → starts .leaseN 2 ∧ starts .gate 1) ∧
    (gated → Does .leaseN s (fun t => t = s) ∧ (on → side .gate .busy)) ∧
    Does .powerLoss s (fun t => blank t ∧ t.power.on = false ∧ t.plinth.meas = [] ∧ t.integ = {}) ∧
    Does .powerOn s (fun t => blank t ∧ t.power.on = true ∧ held t 3 ∧ t.plinth.ready = 1 ∧ t.plinth.seq = 1 ∧ t.integ = {} ∧
      ∀ i, meas t i = if i = 0 then self else 0) ∧
    (on → Does (.setNonce nonce time) s (fun t => t = { s with plinth := { p with nonce := nonce, opTime := time } })) ∧
    (on → side .readRecord (.record ((p.record ++ List.replicate 512 0).take 512))) ∧
    (on → s.bench.reloading = false →
      let standby := if s.bench.activeB then s.bench.runA else s.bench.runB
      let word (g : GateSt) : Word := BitVec.ofNat 64 (g.code + 16 * p.trig.toNat + 256 * p.ldErr.toNat +
        4096 * bits s.bench.activeB + 8192 * bits standby)
      (p.gate ≠ .hold → side .readStatus (.status (word p.gate))) ∧
      (p.gate = .hold → Does .readStatus s (fun t => (t.plinth.gate = .hold ∨ t.plinth.gate = .scrub) ∧
        t.plinth.sideband = p.sideband ++ [.status (word t.plinth.gate)] ∧ t.mem = s.mem))) ∧
    (¬ gated → Does (.scrubComplete res) s (fun t => t = s)) ∧
    (gated →
      let fails := res.absorbed = false ∧ ∃ f, f ∈ res.failures.drop 2 ∧ f ≠ 0
      Does (.scrubComplete res) s (fun t =>
        let r := t.plinth.record
        let lost (a : Nat) : Bool := res.words.any (fun w => w.toNat == a)
        let frame (f : Nat) : Bool := res.words.any (fun w => w.toNat / 65536 == f)
        blank t ∧
        (∀ w, w ∈ res.words → Sparse.get 0 t.mem.rows w.toNat = 1 ∨ Sparse.get false t.mem.retired (w.toNat / 65536) = true) ∧
        (∀ a, lost a = false → Sparse.get 0 t.mem.rows a = Sparse.get 0 s.mem.rows a) ∧
        (∀ f, frame f = false → Sparse.get false t.mem.retired f = Sparse.get false s.mem.retired f) ∧ t.integ = { retired := s.integ.retired } ∧
        t.plinth.seq = p.seq ∧ t.plinth.nonce = p.nonce ∧ r.length = 512 ∧ field r 0 4 = 0x53435242 ∧ field r 4 2 = 1 ∧
        field r 6 1 = p.trig.toNat ∧ field r 8 8 = p.seq % 2 ^ 64 ∧ field r 24 8 = p.latchedTime.toNat ∧
        field r 48 32 = p.latchedNonce.toNat ∧ (r.drop 80).take 48 = beBytes 48 self.toNat ∧
        (∀ i, i < 13 → field r (160 + 16 * i) 1 = i + 1 ∧ field r (164 + 16 * i) 4 = (res.failures.getD i 0).toNat) ∧
        (∀ i z, (i, z) ∈ [(0, 192 * 2 ^ 30), (1, 192 * 2 ^ 30), (2, 768 * 2 ^ 20), (3, 64 * 2 ^ 20), (4, 12 * 2 ^ 20), (5, 16 * 2 ^ 20),
          (7, 2 ^ 20)] → field r (168 + 16 * i) 8 = z) ∧
        r.drop 416 = signatureOf (r.take 416) ∧
        (fails → t.plinth.gate = .failed ∧ t.plinth.ready = 9 ∧ field r 7 1 = 2) ∧
        (¬ fails → t.plinth.gate = .clean ∧ t.plinth.ready = 0x709 ∧ field r 7 1 =
          bits (res.failures.any (fun f => f != 0) || !s.integ.retired.isEmpty || !t.mem.rows.isEmpty || !t.mem.retired.isEmpty)) ∧
        ∀ i, meas t i = if i = 0 then self else if i = 3 then ext 0 (sha384 r) else 0)) ∧
    (let h := s.staged 0 64
     let im := s.staged 0 (64 + field h 4 4)
     (p.gate ≠ .clean → Does .ldctlGo s (fun t => t = s)) ∧
     (p.gate = .clean → on → imageError h ≠ 0 → Does .ldctlGo s (fun t =>
       t = { s with plinth := { p with go := true, ldErr := BitVec.ofNat 4 (imageError h) } })) ∧
     (p.gate = .clean → on → imageError h = 0 → Does .ldctlGo s (fun t => t.plinth.gate = .loading ∧ t.plinth.go = true ∧
       t.plinth.ldErr = 0 ∧ t.plinth.ready = p.ready ∧ t.bench = { s.bench with image := im.drop 64 } ∧ t.mem = s.mem ∧ t.cores = s.cores ∧
       ∀ i, meas t i = if i = 1 then ext (meas s 1) (sha384 im)
         else if i = 2 then ext (meas s 2) (sha384 (((im.drop 64).drop (field im 8 4)).take (field im 12 4))) else meas s i)) ∧
     let t := s.loadMaybe
     (p.gate ≠ .loading → t = s) ∧
     (p.gate = .loading → t.mem = s.mem ∧ t.plinth.meas = p.meas ∧
       ((t.plinth = p ∧ t.bench = s.bench ∧ t.cores = s.cores) ∨
         (t.plinth = { p with gate := .running, ready := p.ready ||| 0xFF9#64 } ∧ t.bench.image = s.bench.image ∧
           t.bench.runA = true ∧ t.bench.runB = true ∧ t.bench.activeB = false ∧
           (∀ a, Sparse.get 0 t.bench.sramA a = s.bench.image.getD a 0 ∧ Sparse.get 0 t.bench.sramB a = s.bench.image.getD a 0) ∧
           ∀ i, i < 8 → t.core (256 + i) = { s := { st := .running } })))) ∧
    (let good := p.gate = .running ∧ imageError (image.take 64) = 0 ∧ image.length = 64 + field image 4 4
     let laid (m : Sparse Byte) : Prop := ∀ a, Sparse.get 0 m a = (image.drop 64).getD a 0
     (¬ good → Does (.liveLoad image ok) s (fun t => t = s)) ∧
     (good → Does (.liveLoad image ok) s (fun t => t.mem = s.mem ∧ t.bench.table = s.bench.table ∧ t.bench.mirror = s.bench.table ∧
       (∀ i, meas t i = if i = 1 then ext (meas s 1) (sha384 image)
         else if i = 2 then ext (meas s 2) (sha384 (((image.drop 64).drop (field image 8 4)).take (field image 12 4)))
         else if i = 4 ∧ ok = false then ext (meas s 4) (event 4) else meas s i) ∧ t.plinth.gate = .running ∧
       (ok = true → t.bench.activeB = (!s.bench.activeB) ∧ t.bench.image = image.drop 64 ∧ t.bench.runA = true ∧
         t.bench.runB = true ∧ t.bench.reloading = false ∧ laid t.bench.sramA ∧ laid t.bench.sramB) ∧
       (ok = false → laid (if s.bench.activeB then t.bench.sramA else t.bench.sramB) ∧
         (if s.bench.activeB then t.bench.sramB else t.bench.sramA) = (if s.bench.activeB then s.bench.sramB else s.bench.sramA) ∧
         t.bench.activeB = s.bench.activeB ∧ t.bench.image = s.bench.image ∧
         (if s.bench.activeB then t.bench.runA else t.bench.runB) = false)))) ∧
    (n.toNat < 5 ∨ p.gate ≠ .running → Does (.extend n digest) s (fun t => t = s)) ∧
    (5 ≤ n.toNat → p.gate = .running → Does (.extend n digest) s (fun t => t.mem = s.mem ∧ t.cores = s.cores ∧
      ∀ i, meas t i = if i = n.toNat then ext (meas s i) (beBytes 48 digest.toNat) else meas s i)) ∧
    (∀ q cause, (q = Instr.benchHeartbeatTimeout ∧ cause = 2) ∨ (q = .benchSramUncorrectable ∧ cause = 3) →
      (p.gate ≠ .running → Does q s (fun t => t = s)) ∧
      (p.gate = .running → s.bench.reloading = false → (if s.bench.activeB then s.bench.runA else s.bench.runB) = false →
        Does q s (fun t => t.plinth.gate = .benchless ∧ t.bench.runA = false ∧ t.bench.runB = false ∧ t.disp.halted = true ∧
          t.plinth.ready = p.ready &&& 0xFFFFFFFFFFFFFF0F#64 ∧ t.mem = s.mem ∧ t.cores = s.cores)) ∧
      (p.gate = .running → s.bench.reloading = false → (if s.bench.activeB then s.bench.runA else s.bench.runB) = true →
        Does q s (fun t => t.plinth.gate = .running ∧ t.bench.activeB = (!s.bench.activeB) ∧
          (if s.bench.activeB then t.bench.runB else t.bench.runA) = false ∧ t.bench.reloading = true ∧ t.mem = s.mem ∧
          t.bench.table = s.bench.mirror ∧ (∀ i, meas t i = if i = 4 then ext (meas s 4) (event cause) else meas s i) ∧
          (∀ r, r ∈ s.bench.revocs → .requestAgain r.ix ∈ t.bench.events) ∧
          (∀ r, r ∈ s.bench.requests → .requestAgain r.2.ix.toNat ∈ t.bench.events) ∧ t.bench.faults = s.bench.faults.map (fun f =>
            if f.reply = none then { f with offers := f.offers + 1 } else f)))) ∧
    (let c := s.conn tr
     let answers (t : State) (d : List Byte) : Prop := t.plinth.responses = p.responses ++ [(tr, d)] ∧ t.mem = s.mem ∧
       t.plinth.gate = p.gate ∧ t.conn (!tr) = s.conn (!tr)
     let refuses (i : Instr) (code data : Byte) : Prop := Does i s (fun t => answers t [0x13, 0x7F, code, data] ∧ t.conn tr = c)
     let asks (v : Byte) (i : Instr) (f : SpdmReq → Instr) : Prop := i = f rq ∧ rq.version = v ∧ on ∧ ¬ gated ∧ p.ready.getLsbD 3 = true
     let log (t : State) (st : SpdmSt) (d : List Byte) : Prop := answers t d ∧
       t.conn tr = { st := st, log := c.log ++ ([rq.version, rq.code, rq.param1, rq.param2] ++ rq.payload) ++ d }
     let sig (d : List Byte) : List Byte := signatureOf (c.log ++ ([rq.version, rq.code, rq.param1, rq.param2] ++ rq.payload) ++ d)
     let block (i : Nat) (ty : Byte) : List Byte :=
       [BitVec.ofNat 8 i, 1] ++ leBytes 2 51 ++ [ty] ++ leBytes 2 48 ++ beBytes 48 (meas s (i - 1)).toNat
     let chain := Config.certChain
     let x := rq.payload
     let off := field x 0 2
     let size := min (field x 2 2) (chain.length - off)
     (∀ i v st, (i = .getVersion tr rq ∧ v = 0x10 ∧ st = c.st) ∨ (i = .getCapabilities tr rq ∧ v = 0x13 ∧ st = .version) ∨
         (i = .negotiateAlgorithms tr rq ∧ v = 0x13 ∧ st = .capabilities) ∨ (i = .getDigests tr rq ∧ v = 0x13 ∧ st = .negotiated) ∨
         (i = .getCertificate tr rq ∧ v = 0x13 ∧ st = .negotiated) ∨ (i = .challenge tr rq ∧ v = 0x13 ∧ st = .negotiated) ∨
         (i = .getMeasurements tr rq ∧ v = 0x13 ∧ st = .negotiated) ∨ (i = .spdmUnsupportedRequest tr rq ∧ v = 0x13 ∧ st = c.st) →
       (¬ on → Does i s (fun t => t = s)) ∧ (on → gated → refuses i 3 0) ∧
       (on → ¬ gated → p.ready.getLsbD 3 = false → Does i s (fun t => t = s)) ∧
       (on → ¬ gated → p.ready.getLsbD 3 = true → rq.version ≠ v → refuses i 0x41 0) ∧
       (on → ¬ gated → p.ready.getLsbD 3 = true → rq.version = v → c.st ≠ st → refuses i 4 0)) ∧
     (∀ i, asks 0x10 i (.getVersion tr) → Does i s (fun t =>
       let d : List Byte := [0x10, 0x04, 0, 0, 0, 1, 0x00, 0x13]
       answers t d ∧ t.conn tr = { st := .version, log := [rq.version, rq.code, rq.param1, rq.param2] ++ x ++ d })) ∧
     (∀ i, asks 0x13 i (.getCapabilities tr) → c.st = .version → Does i s (fun t => ∃ a b, b.length = 8 ∧
       log t .capabilities ([0x13, 0x61, 0, 0, 0, a, 0, 0, 0x16, 0, 0, 0] ++ b))) ∧
     (∀ i, asks 0x13 i (.negotiateAlgorithms tr) → c.st = .capabilities →
       let spec := (field x 2 1).testBit 0
       let asym := (field x 4 4).testBit 7
       let hash := (field x 8 4).testBit 1
       (spec = false → asym = false → hash = false → refuses i 1 0) ∧
       (spec = true ∨ asym = true ∨ hash = true → Does i s (fun t => log t .negotiated
         ([0x13, 0x63, 0, 0, 36, 0, BitVec.ofNat 8 (bits spec), 0] ++ leBytes 4 (4 * bits spec) ++ leBytes 4 (128 * bits asym) ++
           leBytes 4 (2 * bits hash) ++ List.replicate 16 0)))) ∧
     (∀ i, asks 0x13 i (.getDigests tr) → c.st = .negotiated → Does i s (fun t =>
       log t .negotiated ([0x13, 0x01, 1, 1] ++ sha384 chain))) ∧
     (∀ i, asks 0x13 i (.getCertificate tr) → c.st = .negotiated →
       (rq.param1.toNat % 16 ≠ 0 ∨ chain.length ≤ off → refuses i 1 0) ∧
       (rq.param1.toNat % 16 = 0 → off < chain.length → Does i s (fun t => log t .negotiated
         ([0x13, 0x02, 0, 0] ++ leBytes 2 size ++ leBytes 2 (chain.length - off - size) ++ (chain.drop off).take size)))) ∧
     (∀ i, asks 0x13 i (.challenge tr) → c.st = .negotiated →
       (rq.param1.toNat % 16 ≠ 0 ∨ rq.param2 ∉ [0, 1, 0xFF] → refuses i 1 0) ∧
       (rq.param1.toNat % 16 = 0 → rq.param2 ∈ [0, 1, 0xFF] → Does i s (fun t => ∃ (nn : List Byte) (ty : Nat → Byte), nn.length = 32 ∧
         let sum := if rq.param2 = 0 then [] else sha384 ((List.range 16).flatMap (fun j => block (j + 1) (ty j)))
         let d := [0x13, 0x03, 0, 1] ++ sha384 chain ++ nn ++ sum ++ [0, 0] ++ (x.drop 32).take 8
         log t .negotiated (d ++ sig d)))) ∧
     (∀ i, asks 0x13 i (.getMeasurements tr) → c.st = .negotiated →
       let k := rq.param2.toNat
       let signed := rq.param1.getLsbD 0
       let list := if k = 0 then [] else if k = 0xFF then (List.range 16).map (fun j => j + 1) else [k]
       let bad := (16 < k ∧ k ≠ 0xFF) ∨ (signed = true ∧ field x 32 1 % 16 ≠ 0)
       (bad → refuses i 1 0) ∧
       (¬ bad → Does i s (fun t => ∃ (nn : List Byte) (ty : Nat → Byte), nn.length = 32 ∧
         let d := [0x13, 0x60, if k = 0 then 16 else 0, 0, BitVec.ofNat 8 list.length] ++ leBytes 3 (55 * list.length) ++
           list.flatMap (fun j => block j (ty j)) ++ nn ++ [0, 0] ++ (x.drop (if signed then 33 else 0)).take 8
         log t .negotiated (if signed then d ++ sig d else d)))) ∧
     (∀ i, asks 0x13 i (.spdmUnsupportedRequest tr) → refuses i 7 rq.code))

/-- R52, R53, R57, R65, R72, R75, R77, R154, R185, R197, R211, R218, R344: fetching and issue. The order of turns is the model's
choice (log entry 1), as are the moment at which LOADING ends (log entry 68) and what a core of the standby Bench waits at (log entry
112). -/
def Obligations.StepRunsTheDecodedInstruction : Prop :=
  ∀ (i : Instr) (e : EngineSel) (s u : State),
    let k := u.curN
    let c := u.me
    let sram := if benchB k then u.bench.sramB else u.bench.sramA
    let at_ := Sparse.getList 0 (if k < 256 then c.imem else sram) c.s.pc.toNat 4
    let r := s.loadMaybe
    let settled (t : State) : Prop := t.mem.rung = [] ∧ t.bench.requests = [] ∧ t.mem.blocked = false ∧ t.bench.lost = false ∧
      t.power.hotA = none ∧ t.power.hotB = none
    let moves (o : Out) : Prop := step s = afterStep s o ∧ ∀ t, o = .next t → settled t → step s = .next t
    let goes (g : Agent) : Prop :=
      (s.agenda = [] ∧ s.turn = g ∧ u = { r with lazy := false, turn := agentAfter g }) ∨
      (∃ j n rest, s.agenda = .run j g n :: rest ∧
        u = { r with agenda := rest, cur := j, budget := n, lazy := false, turn := agentAfter g }) ∨
      (∃ j rest, s.agenda = .lazy j g :: rest ∧ u = { r with agenda := rest, cur := j, lazy := true, turn := agentAfter g })
    let later (w : State) : Prop := w = { u with free := u.free + 1, clock := w.clock } ∧ u.clock ≤ w.clock
    let free := u.stalled k = false ∧ u.held k = false
    let pend := c.s.inHandler = false ∧ (c.s.pendLost = true ∨ c.s.pendEng = true)
    let sTurn := goes .s ∧ free ∧ c.s.st = .running ∧ ¬ pend
    let off := u.keepsOff k i = true
    let waits (x : WaitOn) := goes .s ∧ u.stalled k = false ∧ (u.held k = false ∨ u.finishing k = true) ∧ c.s.st = .waiting x ∧
      (x.abandonable = true ∨ ∃ h, x = .chanRoom h)
    let ended (x : WaitOn) := ¬ pend ∨ x.abandonable = false ∨ x.holds u k .s = true
    let vTurn := goes .v ∧ free ∧ c.v.eng.st = .running ∧ c.v.eng.laid ≠ 0
    let vWord := vTurn ∧ c.v.cur = none ∧ c.v.wait = none ∧ c.v.eng.skip = 0
    let word := u.ringWord k .v c.v.eng.rp
    let eTurn := goes (agentOfEngine e) ∧ u.held k = false
    let clear := pendingHit false c.s.loads i = false
    let short := c.s.schk = true ∧ hazardHit false c.s.haz i = true
    let clearV := pendingHit c.fx4 c.v.loads i = false
    let shortV := c.v.schk = true ∧ hazardHit c.fx4 c.v.haz i = true
    (∀ rest, s.agenda = .event i :: rest →
      let gate := s.plinth.gate = .hold ∨ s.plinth.gate = .scrub
      let served := if s.power.on = false then needsNoPower i = true else if gate then inGate i = true
        else benchActs i = true → r.plinth.gate = .running ∧ s.power.thermtrip = false
      (served → moves (exec i { r with agenda := rest })) ∧ (¬ served → moves (.next { r with agenda := rest }))) ∧
    (sTurn → decode .s at_ = .ok (i, []) → ¬ off → clear → ¬ short → ∃ w, Issued i false u w ∧ moves (exec i w)) ∧
    (sTurn → decode .s at_ = .ok (i, []) → ¬ off → clear → short → moves (.next (u.trapMe causeStallShort 0))) ∧
    (sTurn → decode .s at_ = .ok (i, []) → ¬ off → ¬ clear → moves (.next (u.runAll k false .loads).1)) ∧
    (sTurn → decode .s at_ = .ok (i, []) → off → moves (.next u)) ∧
    (off → 256 ≤ k ∧ benchB k ≠ u.bench.activeB) ∧
    (∀ d, sTurn → decode .s at_ = .error d → moves (.next (u.trapMe causeIllegal 0))) ∧
    (∀ x, waits x → ended x → decode .s at_ = .ok (i, []) → ¬ off → clear → ∃ w, later w ∧ moves (exec i w)) ∧
    (∀ x, waits x → ¬ ended x → moves (.next (u.asyncTrap k))) ∧
    (goes .s → free → pend → c.s.st = .running → moves (.next (u.asyncTrap k))) ∧
    (vWord → decodeV word = .ok i → c.wordIllegal i = true ∨ (clearV ∧ ¬ shortV) → ∃ w, Issued i true u w ∧
      moves (keepAfter i (exec i w)) ∧
      ∀ t, exec i w = .next t → t.me.v.wait = none → t.me.v.cur = none → settled t → step s = .next t) ∧
    (vWord → decodeV word = .ok i → c.wordIllegal i = false → clearV → shortV → moves (.next (u.setMe (c.stopV 3#8)))) ∧
    (vWord → decodeV word = .ok i → c.wordIllegal i = false → ¬ clearV → moves (.next (u.runAll k true .loads).1)) ∧
    (∀ d, vWord → decodeV word = .error d → moves (.next u.illegalV)) ∧
    (vTurn → c.v.cur = some i → ∃ w, later w ∧ moves (keepAfter i (exec i w))) ∧
    (∀ f, eTurn → c.flight e = some f → f.cmd = i → (f.st = .decoded → u.engineWaits k e = false) → moves (exec i u)) ∧
    (eTurn → c.flight e = none → u.takenFrom k e = none → u.engineWaits k e = false → u.fetchCmd k e = .cmd i →
      (c.takenOf e = [] ∨ (syncOf i).isSome = true → moves (exec i u)) ∧
      (c.takenOf e ≠ [] → (syncOf i).isSome = false → e = .m → moves (.next u))) ∧
    (∀ j, eTurn → c.flight e = none → u.takenFrom k e = some j → moves (.next (u.runTaken k j e))) ∧
    (∀ a rest, s.agenda = .hostReg a :: rest → moves (.next ({ r with agenda := rest }.readRegister a.toNat))) ∧
    (∀ j v rest, s.agenda = .perform j v :: rest → moves (.next ({ r with agenda := rest }.performNext j.toNat v)))

/-- Encodings worked out in the spec (R52 to R70). -/
def Obligations.WordsOfTheSpecDecode : Prop :=
  decodeS 0x14062405 = .ok (.srai 0 3 4 5) ∧ decodeS 0x300207FE = .ok (.bne 0 1 0 0x7FE) ∧
  decodeS 0x84041083 = .ok (.xlat 0 1 1 2 true true) ∧ decodeS 0x680C2001 = .ok (.std 0 6 2 0 1) ∧
  decodeS 0x6C0A2185 = .ok (.amo 0 5 2 6 .add true .panel) ∧ decodeS 0xE4000029 = .ok (.trap 0 5) ∧
  decodeV 0x01021845 = .ok (.vadd .si8 0 2 3 1 2 true) ∧ decodeV 0x36212004 = .ok (.vcmp .fp32 1 1 .gt 0 2 false) ∧
  decodeV 0xB2001889 = .ok (.vgath .fp32 0 0 3 2 4 true) ∧ decodeV 0xD1002080 = .ok (.pcnt .si8 0 4 2) ∧
  decodeM 0x08000886 0x01000081 0 = .ok (.mma 0 0 false 0 true 2 3 false 1 0 0 0 .si8 false false true) ∧
  decodeM 0x20030000 0x3C001000 0 = .ok (.mdrain 0 6 false 0 .si32 .rne false false 0x3C00 0x100 0) ∧
  decodeC 0x30000000 0x00000001 0x00000822 = .ok (.fill 0 0 false 0 1 0 32 true 2) ∧
  decodeC 0x50010003 0x00000100 0x00000001 = .ok (.dvrel 0 2 3 0x100 1) ∧
  (decodeM 0x28200801 0 0).isOk = false ∧ (decodeM 0x00006000 0 0).isOk = false

/-- R52 to R68: the encodings of the S-, V-, M- and C-streams drop no bit. -/
def Obligations.DecodeInvertsEncode : Prop :=
  ∀ (k : StreamKind) (i : Instr) (rest : List Byte), i.stream = some k → i.wellFormed = true →
    decode k (encodeBytes i ++ rest) = .ok (i, rest)

/-- R14, R53: instruction memory is fetched word by word. -/
def Obligations.ProgramCountersStayAligned : Prop :=
  ∀ (s t : State), s.PcAligned → step s = .next t → t.PcAligned

/-- R14: the machine after reset. -/
def Obligations.ResetIsAligned : Prop :=
  State.reset.PcAligned
end

