-- ==== Sys2Proof/Laws/Sparse.lean ====
section
/-! SUPPORT. Sparse tables: what is read after a write, and that every operation keeps the canonical form. The read
laws hold of every list, canonical or not. -/

namespace Sys2Proof.Machine

variable {α : Type} {d : α}

@[simp] theorem Sparse.get_nil (k : Nat) : Sparse.get d [] k = d := rfl

theorem Sparse.get_cons (j : Nat) (w : α) (m : Sparse α) (k : Nat) :
    Sparse.get d ((j, w) :: m) k = if j = k then w else Sparse.get d m k := rfl

theorem Sparse.get_keep (p : Nat → Bool) (m : Sparse α) (k : Nat) :
    Sparse.get d (m.keep p) k = if p k then Sparse.get d m k else d := by
  induction m with
  | nil => simp [Sparse.keep, Sparse.get]
  | cons c m ih =>
    obtain ⟨j, w⟩ := c
    unfold Sparse.keep at ih ⊢
    rw [List.filter_cons]
    by_cases hj : p j
    · simp only [hj, if_true, Sparse.get_cons, ih]
      by_cases h : j = k
      · subst h; simp [hj]
      · simp [h]
    · simp only [hj, Bool.false_eq_true, if_false, ih, Sparse.get_cons]
      by_cases h : j = k
      · subst h; simp [hj]
      · simp [h]

theorem Sparse.get_insert (m : Sparse α) (k : Nat) (v : α) (i : Nat) :
    Sparse.get d (m.insert k v) i = if i = k then v else Sparse.get d m i := by
  induction m with
  | nil => simp [Sparse.insert, Sparse.get, eq_comm]
  | cons c m ih =>
    obtain ⟨j, w⟩ := c
    simp only [Sparse.insert]
    by_cases h1 : k < j
    · rw [if_pos h1, Sparse.get_cons]; simp only [eq_comm]
    · rw [if_neg h1]
      by_cases h2 : k = j
      · subst h2; rw [if_pos rfl, Sparse.get_cons, Sparse.get_cons]
        by_cases hi : k = i
        · subst hi; simp
        · simp [hi, Ne.symm hi]
      · rw [if_neg h2, Sparse.get_cons, Sparse.get_cons, ih]
        by_cases hi : j = i
        · subst hi; simp [Ne.symm h2]
        · simp [hi]

variable [DecidableEq α]

/-- Reading after a write: the value at its key, what was there before at any other. -/
theorem Sparse.get_put (m : Sparse α) (k : Nat) (v : α) (i : Nat) :
    Sparse.get d (Sparse.put d m k v) i = if i = k then v else Sparse.get d m i := by
  unfold Sparse.put
  by_cases hv : v = d
  · rw [if_pos hv, Sparse.get_keep, hv]; by_cases hi : i = k <;> simp [hi]
  · rw [if_neg hv, Sparse.get_insert]

@[simp] theorem Sparse.get_put_self (m : Sparse α) (k : Nat) (v : α) :
    Sparse.get d (Sparse.put d m k v) k = v := by simp [Sparse.get_put]

theorem Sparse.get_put_ne (m : Sparse α) {k i : Nat} (v : α) (h : i ≠ k) :
    Sparse.get d (Sparse.put d m k v) i = Sparse.get d m i := by simp [Sparse.get_put, h]

theorem Sparse.get_cell (k : Nat) (v : α) (m : Sparse α) (i : Nat) (h : v = d → i = k → Sparse.get d m i = d) :
    Sparse.get d (Sparse.cell d k v m) i = if i = k then v else Sparse.get d m i := by
  unfold Sparse.cell
  by_cases hv : v = d
  · rw [if_pos hv]
    by_cases hi : i = k
    · rw [if_pos hi, h hv hi, hv]
    · rw [if_neg hi]
  · rw [if_neg hv, Sparse.get_cons]; simp only [eq_comm]

theorem Sparse.get_cells (vs : List α) : ∀ (k : Nat) (m : Sparse α) (i : Nat),
    (∀ j, k ≤ j → j < k + vs.length → Sparse.get d m j = d) →
    Sparse.get d (Sparse.cells d k vs m) i =
      if k ≤ i ∧ i < k + vs.length then vs.getD (i - k) d else Sparse.get d m i := by
  induction vs with
  | nil =>
    intro k m i _
    simp only [Sparse.cells, List.length_nil]
    rw [if_neg (by omega)]
  | cons v vs ih =>
    intro k m i h
    have hr : ∀ i, Sparse.get d (Sparse.cells d (k + 1) vs m) i =
        if k + 1 ≤ i ∧ i < k + 1 + vs.length then vs.getD (i - (k + 1)) d else Sparse.get d m i :=
      fun i => ih (k + 1) m i (fun j h1 h2 => h j (by omega) (by simp; omega))
    simp only [Sparse.cells]
    rw [Sparse.get_cell]
    · by_cases hi : i = k
      · subst hi; simp
      · rw [if_neg hi, hr]
        by_cases hc : k + 1 ≤ i ∧ i < k + 1 + vs.length
        · rw [if_pos hc, if_pos (by simp; omega)]
          obtain ⟨n, rfl⟩ : ∃ n, i = k + 1 + n := ⟨i - (k + 1), by omega⟩
          have e1 : k + 1 + n - (k + 1) = n := by omega
          have e2 : k + 1 + n - k = n + 1 := by omega
          rw [e1, e2]; simp
        · rw [if_neg hc, if_neg (by simp; omega)]
    · rintro - rfl
      rw [hr, if_neg (by omega)]
      exact h i (by omega) (by simp)

/-- Reading after a run is written. -/
theorem Sparse.get_putList (vs : List α) (m : Sparse α) (k i : Nat) :
    Sparse.get d (Sparse.putList d m k vs) i =
      if k ≤ i ∧ i < k + vs.length then vs.getD (i - k) d else Sparse.get d m i := by
  induction m with
  | nil => simp only [Sparse.putList]; exact Sparse.get_cells vs k [] i (by simp)
  | cons c m ih =>
    obtain ⟨j, w⟩ := c
    simp only [Sparse.putList]
    by_cases h1 : j < k
    · rw [if_pos h1, Sparse.get_cons, Sparse.get_cons, ih]
      by_cases hj : j = i
      · rw [if_pos hj, if_pos hj, if_neg (by omega)]
      · rw [if_neg hj, if_neg hj]
    · rw [if_neg h1, Sparse.get_cells]
      · by_cases h2 : k ≤ i ∧ i < k + vs.length
        · rw [if_pos h2, if_pos h2]
        · rw [if_neg h2, if_neg h2, Sparse.get_keep, if_pos (by simp; omega)]
      · intro j' _ _; rw [Sparse.get_keep, if_neg (by simp; omega)]

theorem Sparse.wfFrom_mono {lo lo' : Nat} (h : lo' ≤ lo) {m : Sparse α} (hm : Sparse.wfFrom d lo m = true) :
    Sparse.wfFrom d lo' m = true := by
  cases m with
  | nil => rfl
  | cons c m =>
    simp only [Sparse.wfFrom, Bool.and_eq_true, decide_eq_true_eq] at hm ⊢
    exact ⟨⟨by omega, hm.1.2⟩, hm.2⟩

theorem Sparse.wfFrom_cons (lo j : Nat) (w : α) (m : Sparse α) :
    Sparse.wfFrom d lo ((j, w) :: m) = true ↔ lo ≤ j ∧ w ≠ d ∧ Sparse.wfFrom d (j + 1) m = true := by
  simp [Sparse.wfFrom, and_assoc]

theorem Sparse.wfFrom_keep (p : Nat → Bool) : ∀ (m : Sparse α) (lo : Nat), Sparse.wfFrom d lo m = true →
    Sparse.wfFrom d lo (m.keep p) = true := by
  intro m
  induction m with
  | nil => intro lo _; rfl
  | cons c m ih =>
    intro lo h
    obtain ⟨j, w⟩ := c
    rw [Sparse.wfFrom_cons] at h
    unfold Sparse.keep at ih ⊢
    rw [List.filter_cons]
    by_cases hj : p j = true
    · rw [if_pos hj, Sparse.wfFrom_cons]; exact ⟨h.1, h.2.1, ih _ h.2.2⟩
    · rw [if_neg hj]; exact Sparse.wfFrom_mono (by omega) (ih _ h.2.2)

theorem Sparse.wfFrom_insert {k : Nat} {v : α} (hv : v ≠ d) : ∀ (m : Sparse α) (lo : Nat), lo ≤ k →
    Sparse.wfFrom d lo m = true → Sparse.wfFrom d lo (m.insert k v) = true := by
  intro m
  induction m with
  | nil => intro lo hk _; simp [Sparse.insert, Sparse.wfFrom, hk, hv]
  | cons c m ih =>
    intro lo hk h
    obtain ⟨j, w⟩ := c
    rw [Sparse.wfFrom_cons] at h
    simp only [Sparse.insert]
    by_cases h1 : k < j
    · rw [if_pos h1]; simp only [Sparse.wfFrom_cons]; exact ⟨hk, hv, h1, h.2.1, h.2.2⟩
    · rw [if_neg h1]
      by_cases h2 : k = j
      · subst h2; rw [if_pos rfl, Sparse.wfFrom_cons]; exact ⟨hk, hv, h.2.2⟩
      · rw [if_neg h2, Sparse.wfFrom_cons]; exact ⟨h.1, h.2.1, ih _ (by omega) h.2.2⟩

theorem Sparse.wf_nil : Sparse.wf d ([] : Sparse α) = true := rfl

/-- A write keeps the canonical form. -/
theorem Sparse.wf_put {m : Sparse α} (k : Nat) (v : α) (h : Sparse.wf d m = true) :
    Sparse.wf d (Sparse.put d m k v) = true := by
  unfold Sparse.put
  by_cases hv : v = d
  · rw [if_pos hv]; exact Sparse.wfFrom_keep _ _ _ h
  · rw [if_neg hv]; exact Sparse.wfFrom_insert hv _ _ (Nat.zero_le _) h

theorem Sparse.wf_keep {m : Sparse α} (p : Nat → Bool) (h : Sparse.wf d m = true) :
    Sparse.wf d (m.keep p) = true := Sparse.wfFrom_keep _ _ _ h

theorem Sparse.wfFrom_cells (vs : List α) : ∀ (k : Nat) (m : Sparse α),
    Sparse.wfFrom d (k + vs.length) m = true → Sparse.wfFrom d k (Sparse.cells d k vs m) = true := by
  induction vs with
  | nil => intro k m h; exact h
  | cons v vs ih =>
    intro k m h
    have h' := ih (k + 1) m (by rw [List.length_cons] at h; rwa [show k + 1 + vs.length = k + (vs.length + 1) by omega])
    simp only [Sparse.cells, Sparse.cell]
    by_cases hv : v = d
    · rw [if_pos hv]; exact Sparse.wfFrom_mono (by omega) h'
    · rw [if_neg hv, Sparse.wfFrom_cons]; exact ⟨le_refl _, hv, h'⟩

/-- What is kept of a canonical table whose listed keys do not lie below `k`, outside the run from `k` to `z`, has its
keys from `z` on. -/
theorem Sparse.wfFrom_above {k z : Nat} (m : Sparse α) : ∀ (lo : Nat), k ≤ lo → Sparse.wfFrom d lo m = true →
    Sparse.wfFrom d z (m.keep (fun i => decide (i < k) || decide (z ≤ i))) = true := by
  induction m with
  | nil => intro lo _ _; rfl
  | cons c m ih =>
    intro lo hk h
    obtain ⟨j, w⟩ := c
    rw [Sparse.wfFrom_cons] at h
    have ih' := ih (j + 1) (by omega) h.2.2
    unfold Sparse.keep at ih' ⊢
    rw [List.filter_cons]
    by_cases hz : z ≤ j
    · rw [if_pos (by simp [hz]), Sparse.wfFrom_cons]
      have hr := Sparse.wfFrom_keep (fun i => decide (i < k) || decide (z ≤ i)) _ _ h.2.2
      unfold Sparse.keep at hr
      exact ⟨hz, h.2.1, hr⟩
    · rw [if_neg (by simp; omega)]; exact ih'

theorem Sparse.wfFrom_putList (vs : List α) (k : Nat) (m : Sparse α) : ∀ (lo : Nat), lo ≤ k →
    Sparse.wfFrom d lo m = true → Sparse.wfFrom d lo (Sparse.putList d m k vs) = true := by
  induction m with
  | nil =>
    intro lo hk _
    exact Sparse.wfFrom_mono hk (Sparse.wfFrom_cells vs k [] rfl)
  | cons c m ih =>
    intro lo hk h
    obtain ⟨j, w⟩ := c
    have h0 := h
    rw [Sparse.wfFrom_cons] at h
    simp only [Sparse.putList]
    by_cases h1 : j < k
    · rw [if_pos h1, Sparse.wfFrom_cons]; exact ⟨h.1, h.2.1, ih _ (by omega) h.2.2⟩
    · rw [if_neg h1]
      apply Sparse.wfFrom_mono hk
      apply Sparse.wfFrom_cells
      apply Sparse.wfFrom_above _ k (le_refl _)
      rw [Sparse.wfFrom_cons]; exact ⟨by omega, h.2.1, h.2.2⟩

/-- Writing a run keeps the canonical form. -/
theorem Sparse.wf_putList {m : Sparse α} (k : Nat) (vs : List α) (h : Sparse.wf d m = true) :
    Sparse.wf d (Sparse.putList d m k vs) = true := Sparse.wfFrom_putList vs k m 0 (Nat.zero_le _) h

/-- Dropping pairs keeps the canonical form. -/
theorem Sparse.wfFrom_filter (q : Nat × α → Bool) : ∀ (m : Sparse α) (lo : Nat), Sparse.wfFrom d lo m = true →
    Sparse.wfFrom d lo (m.filter q) = true := by
  intro m
  induction m with
  | nil => intro lo _; rfl
  | cons c m ih =>
    intro lo h
    obtain ⟨j, w⟩ := c
    rw [Sparse.wfFrom_cons] at h
    rw [List.filter_cons]
    by_cases hj : q (j, w) = true
    · rw [if_pos hj, Sparse.wfFrom_cons]; exact ⟨h.1, h.2.1, ih _ h.2.2⟩
    · rw [if_neg hj]; exact Sparse.wfFrom_mono (by omega) (ih _ h.2.2)

theorem Sparse.wf_filter {m : Sparse α} (q : Nat × α → Bool) (h : Sparse.wf d m = true) :
    Sparse.wf d (m.filter q : Sparse α) = true := Sparse.wfFrom_filter q m 0 h

/-- A canonical table lists nothing where it reads the default: tables that read alike are equal. -/
theorem Sparse.get_of_wfFrom {m : Sparse α} : ∀ {lo k : Nat}, Sparse.wfFrom d lo m = true → k < lo →
    Sparse.get d m k = d := by
  induction m with
  | nil => intros; rfl
  | cons c m ih =>
    intro lo k h hk
    obtain ⟨j, w⟩ := c
    rw [Sparse.wfFrom_cons] at h
    rw [Sparse.get_cons, if_neg (by omega)]
    exact ih h.2.2 (by omega)

theorem Sparse.ext_wfFrom {m : Sparse α} : ∀ {m' : Sparse α} {lo : Nat}, Sparse.wfFrom d lo m = true →
    Sparse.wfFrom d lo m' = true → (∀ k, Sparse.get d m k = Sparse.get d m' k) → m = m' := by
  induction m with
  | nil =>
    intro m' lo _ h' he
    cases m' with
    | nil => rfl
    | cons c m' =>
      obtain ⟨j, w⟩ := c
      rw [Sparse.wfFrom_cons] at h'
      have := he j
      rw [Sparse.get_cons, if_pos rfl] at this
      exact absurd this.symm h'.2.1
  | cons c m ih =>
    intro m' lo h h' he
    obtain ⟨j, w⟩ := c
    rw [Sparse.wfFrom_cons] at h
    cases m' with
    | nil =>
      have := he j
      rw [Sparse.get_cons, if_pos rfl] at this
      exact absurd this h.2.1
    | cons c' m' =>
      obtain ⟨j', w'⟩ := c'
      rw [Sparse.wfFrom_cons] at h'
      have e1 := he j
      have e2 := he j'
      rw [Sparse.get_cons, Sparse.get_cons, if_pos rfl] at e1 e2
      have hj : j = j' := by
        rcases Nat.lt_trichotomy j j' with hl | hl | hl
        · rw [if_neg (by omega), Sparse.get_of_wfFrom h'.2.2 (by omega)] at e1; exact absurd e1 h.2.1
        · exact hl
        · rw [if_neg (by omega), Sparse.get_of_wfFrom h.2.2 (by omega)] at e2; exact absurd e2.symm h'.2.1
      subst hj
      rw [if_pos rfl] at e1
      subst e1
      congr 1
      apply ih h.2.2 h'.2.2
      intro k
      have ek := he k
      rw [Sparse.get_cons, Sparse.get_cons] at ek
      by_cases hk : j = k
      · subst hk; rw [Sparse.get_of_wfFrom h.2.2 (by omega), Sparse.get_of_wfFrom h'.2.2 (by omega)]
      · rwa [if_neg hk, if_neg hk] at ek

/-- Canonical tables that read alike are the same data. -/
theorem Sparse.ext_wf {m m' : Sparse α} (h : Sparse.wf d m = true) (h' : Sparse.wf d m' = true)
    (he : ∀ k, Sparse.get d m k = Sparse.get d m' k) : m = m' := Sparse.ext_wfFrom h h' he

/-- A run of values is the values one by one. -/
theorem Sparse.getList_eq {α : Type} {d : α} (m : Sparse α) (k n : Nat) :
    Sparse.getList d m k n = (List.range n).map (fun i => Sparse.get d m (k + i)) := by
  simp only [Sparse.getList]
  apply List.map_congr_left
  intro i hi
  rw [Sparse.get_keep, if_pos (by simp [List.mem_range.1 hi])]

@[simp] theorem Sparse.length_getList {α : Type} {d : α} (m : Sparse α) (k n : Nat) :
    (Sparse.getList d m k n).length = n := by simp [Sparse.getList]

/-- Reading after every value has been changed by a function that keeps the default. -/
theorem Sparse.get_mapVals (f : α → α) (hf : f d = d) (m : Sparse α) (k : Nat) :
    Sparse.get d (Sparse.mapVals d f m) k = f (Sparse.get d m k) := by
  induction m with
  | nil => simp [Sparse.mapVals, hf]
  | cons c m ih =>
    obtain ⟨j, w⟩ := c
    simp only [Sparse.mapVals, Sparse.cell]
    by_cases hk : j = k
    · subst hk
      by_cases hw : f w = d
      · rw [if_pos hw, Sparse.get_keep]; simp [Sparse.get_cons, hw]
      · rw [if_neg hw]; simp [Sparse.get_cons]
    · have h2 : Sparse.get d (Sparse.keep (fun i => i != j) (Sparse.mapVals d f m)) k = f (Sparse.get d m k) := by
        rw [Sparse.get_keep, if_pos (by simp; exact fun h => hk h.symm), ih]
      by_cases hw : f w = d
      · rw [if_pos hw, Sparse.get_cons, if_neg hk, h2]
      · rw [if_neg hw, Sparse.get_cons, Sparse.get_cons, if_neg hk, if_neg hk, h2]

theorem Sparse.wfFrom_mapVals (f : α → α) : ∀ (m : Sparse α) (lo : Nat), Sparse.wfFrom d lo m = true →
    Sparse.wfFrom d lo (Sparse.mapVals d f m) = true := by
  intro m
  induction m with
  | nil => intro lo _; rfl
  | cons c m ih =>
    intro lo h
    obtain ⟨j, w⟩ := c
    rw [Sparse.wfFrom_cons] at h
    have h' := Sparse.wfFrom_keep (fun i => i != j) _ _ (ih _ h.2.2)
    simp only [Sparse.mapVals, Sparse.cell]
    by_cases hw : f w = d
    · rw [if_pos hw]; exact Sparse.wfFrom_mono (by omega) h'
    · rw [if_neg hw, Sparse.wfFrom_cons]; exact ⟨h.1, hw, h'⟩

/-- Changing every value keeps the canonical form. -/
theorem Sparse.wf_mapVals {m : Sparse α} (f : α → α) (h : Sparse.wf d m = true) :
    Sparse.wf d (Sparse.mapVals d f m) = true := Sparse.wfFrom_mapVals f m 0 h

end Sys2Proof.Machine
end

