-- ==== Sys2Proof/Laws/State.lean ====
section
/-! SUPPORT. The state after each named update: one lemma per field that the update leaves alone, and what the update
does to the field it changes. -/

namespace Sys2Proof.Machine

variable (s : State) (c : Core)

@[simp] theorem State.setCore_panels (k : Nat) (d : Core) : (s.setCore k d).panels = s.panels := rfl
@[simp] theorem State.setCore_mem (k : Nat) (d : Core) : (s.setCore k d).mem = s.mem := rfl
@[simp] theorem State.setCore_disp (k : Nat) (d : Core) : (s.setCore k d).disp = s.disp := rfl
@[simp] theorem State.setCore_bench (k : Nat) (d : Core) : (s.setCore k d).bench = s.bench := rfl
@[simp] theorem State.setCore_dv (k : Nat) (d : Core) : (s.setCore k d).dv = s.dv := rfl
@[simp] theorem State.setCore_integ (k : Nat) (d : Core) : (s.setCore k d).integ = s.integ := rfl
@[simp] theorem State.setCore_plinth (k : Nat) (d : Core) : (s.setCore k d).plinth = s.plinth := rfl
@[simp] theorem State.setCore_power (k : Nat) (d : Core) : (s.setCore k d).power = s.power := rfl
@[simp] theorem State.setCore_link (k : Nat) (d : Core) : (s.setCore k d).link = s.link := rfl
@[simp] theorem State.setCore_saved (k : Nat) (d : Core) : (s.setCore k d).saved = s.saved := rfl
@[simp] theorem State.setCore_agenda (k : Nat) (d : Core) : (s.setCore k d).agenda = s.agenda := rfl
@[simp] theorem State.setCore_cur (k : Nat) (d : Core) : (s.setCore k d).cur = s.cur := rfl
@[simp] theorem State.setCore_turn (k : Nat) (d : Core) : (s.setCore k d).turn = s.turn := rfl
@[simp] theorem State.setCore_budget (k : Nat) (d : Core) : (s.setCore k d).budget = s.budget := rfl
@[simp] theorem State.setCore_lazy (k : Nat) (d : Core) : (s.setCore k d).lazy = s.lazy := rfl
@[simp] theorem State.setCore_clock (k : Nat) (d : Core) : (s.setCore k d).clock = s.clock := rfl
@[simp] theorem State.setCore_free (k : Nat) (d : Core) : (s.setCore k d).free = s.free := rfl

@[simp] theorem State.setMe_panels (d : Core) : (s.setMe d).panels = s.panels := rfl
@[simp] theorem State.setMe_mem (d : Core) : (s.setMe d).mem = s.mem := rfl
@[simp] theorem State.setMe_disp (d : Core) : (s.setMe d).disp = s.disp := rfl
@[simp] theorem State.setMe_bench (d : Core) : (s.setMe d).bench = s.bench := rfl
@[simp] theorem State.setMe_dv (d : Core) : (s.setMe d).dv = s.dv := rfl
@[simp] theorem State.setMe_integ (d : Core) : (s.setMe d).integ = s.integ := rfl
@[simp] theorem State.setMe_plinth (d : Core) : (s.setMe d).plinth = s.plinth := rfl
@[simp] theorem State.setMe_power (d : Core) : (s.setMe d).power = s.power := rfl
@[simp] theorem State.setMe_link (d : Core) : (s.setMe d).link = s.link := rfl
@[simp] theorem State.setMe_saved (d : Core) : (s.setMe d).saved = s.saved := rfl
@[simp] theorem State.setMe_agenda (d : Core) : (s.setMe d).agenda = s.agenda := rfl
@[simp] theorem State.setMe_cur (d : Core) : (s.setMe d).cur = s.cur := rfl
@[simp] theorem State.setMe_turn (d : Core) : (s.setMe d).turn = s.turn := rfl
@[simp] theorem State.setMe_budget (d : Core) : (s.setMe d).budget = s.budget := rfl
@[simp] theorem State.setMe_lazy (d : Core) : (s.setMe d).lazy = s.lazy := rfl
@[simp] theorem State.setMe_clock (d : Core) : (s.setMe d).clock = s.clock := rfl
@[simp] theorem State.setMe_free (d : Core) : (s.setMe d).free = s.free := rfl

@[simp] theorem State.onCore_panels (k : Nat) (f : Core → Core) : (s.onCore k f).panels = s.panels := rfl
@[simp] theorem State.onCore_mem (k : Nat) (f : Core → Core) : (s.onCore k f).mem = s.mem := rfl
@[simp] theorem State.onCore_disp (k : Nat) (f : Core → Core) : (s.onCore k f).disp = s.disp := rfl
@[simp] theorem State.onCore_bench (k : Nat) (f : Core → Core) : (s.onCore k f).bench = s.bench := rfl
@[simp] theorem State.onCore_dv (k : Nat) (f : Core → Core) : (s.onCore k f).dv = s.dv := rfl
@[simp] theorem State.onCore_integ (k : Nat) (f : Core → Core) : (s.onCore k f).integ = s.integ := rfl
@[simp] theorem State.onCore_plinth (k : Nat) (f : Core → Core) : (s.onCore k f).plinth = s.plinth := rfl
@[simp] theorem State.onCore_power (k : Nat) (f : Core → Core) : (s.onCore k f).power = s.power := rfl
@[simp] theorem State.onCore_link (k : Nat) (f : Core → Core) : (s.onCore k f).link = s.link := rfl
@[simp] theorem State.onCore_saved (k : Nat) (f : Core → Core) : (s.onCore k f).saved = s.saved := rfl
@[simp] theorem State.onCore_agenda (k : Nat) (f : Core → Core) : (s.onCore k f).agenda = s.agenda := rfl
@[simp] theorem State.onCore_cur (k : Nat) (f : Core → Core) : (s.onCore k f).cur = s.cur := rfl
@[simp] theorem State.onCore_turn (k : Nat) (f : Core → Core) : (s.onCore k f).turn = s.turn := rfl
@[simp] theorem State.onCore_budget (k : Nat) (f : Core → Core) : (s.onCore k f).budget = s.budget := rfl
@[simp] theorem State.onCore_lazy (k : Nat) (f : Core → Core) : (s.onCore k f).lazy = s.lazy := rfl
@[simp] theorem State.onCore_clock (k : Nat) (f : Core → Core) : (s.onCore k f).clock = s.clock := rfl
@[simp] theorem State.onCore_free (k : Nat) (f : Core → Core) : (s.onCore k f).free = s.free := rfl

@[simp] theorem State.retire_panels  : (s.retire).panels = s.panels := rfl
@[simp] theorem State.retire_mem  : (s.retire).mem = s.mem := rfl
@[simp] theorem State.retire_disp  : (s.retire).disp = s.disp := rfl
@[simp] theorem State.retire_bench  : (s.retire).bench = s.bench := rfl
@[simp] theorem State.retire_dv  : (s.retire).dv = s.dv := rfl
@[simp] theorem State.retire_integ  : (s.retire).integ = s.integ := rfl
@[simp] theorem State.retire_plinth  : (s.retire).plinth = s.plinth := rfl
@[simp] theorem State.retire_power  : (s.retire).power = s.power := rfl
@[simp] theorem State.retire_link  : (s.retire).link = s.link := rfl
@[simp] theorem State.retire_saved  : (s.retire).saved = s.saved := rfl
@[simp] theorem State.retire_agenda  : (s.retire).agenda = s.agenda := rfl
@[simp] theorem State.retire_cur  : (s.retire).cur = s.cur := rfl
@[simp] theorem State.retire_turn  : (s.retire).turn = s.turn := rfl
@[simp] theorem State.retire_budget  : (s.retire).budget = s.budget := rfl
@[simp] theorem State.retire_lazy  : (s.retire).lazy = s.lazy := rfl
@[simp] theorem State.retire_clock  : (s.retire).clock = s.clock := rfl
@[simp] theorem State.retire_free  : (s.retire).free = s.free := rfl

@[simp] theorem State.retireX_panels (d : XReg) (v : Sys2Proof.Word) : (s.retireX d v).panels = s.panels := rfl
@[simp] theorem State.retireX_mem (d : XReg) (v : Sys2Proof.Word) : (s.retireX d v).mem = s.mem := rfl
@[simp] theorem State.retireX_disp (d : XReg) (v : Sys2Proof.Word) : (s.retireX d v).disp = s.disp := rfl
@[simp] theorem State.retireX_bench (d : XReg) (v : Sys2Proof.Word) : (s.retireX d v).bench = s.bench := rfl
@[simp] theorem State.retireX_dv (d : XReg) (v : Sys2Proof.Word) : (s.retireX d v).dv = s.dv := rfl
@[simp] theorem State.retireX_integ (d : XReg) (v : Sys2Proof.Word) : (s.retireX d v).integ = s.integ := rfl
@[simp] theorem State.retireX_plinth (d : XReg) (v : Sys2Proof.Word) : (s.retireX d v).plinth = s.plinth := rfl
@[simp] theorem State.retireX_power (d : XReg) (v : Sys2Proof.Word) : (s.retireX d v).power = s.power := rfl
@[simp] theorem State.retireX_link (d : XReg) (v : Sys2Proof.Word) : (s.retireX d v).link = s.link := rfl
@[simp] theorem State.retireX_saved (d : XReg) (v : Sys2Proof.Word) : (s.retireX d v).saved = s.saved := rfl
@[simp] theorem State.retireX_agenda (d : XReg) (v : Sys2Proof.Word) : (s.retireX d v).agenda = s.agenda := rfl
@[simp] theorem State.retireX_cur (d : XReg) (v : Sys2Proof.Word) : (s.retireX d v).cur = s.cur := rfl
@[simp] theorem State.retireX_turn (d : XReg) (v : Sys2Proof.Word) : (s.retireX d v).turn = s.turn := rfl
@[simp] theorem State.retireX_budget (d : XReg) (v : Sys2Proof.Word) : (s.retireX d v).budget = s.budget := rfl
@[simp] theorem State.retireX_lazy (d : XReg) (v : Sys2Proof.Word) : (s.retireX d v).lazy = s.lazy := rfl
@[simp] theorem State.retireX_clock (d : XReg) (v : Sys2Proof.Word) : (s.retireX d v).clock = s.clock := rfl
@[simp] theorem State.retireX_free (d : XReg) (v : Sys2Proof.Word) : (s.retireX d v).free = s.free := rfl

@[simp] theorem State.setPanel_cores (b : Nat) (p : Panel) : (s.setPanel b p).cores = s.cores := rfl
@[simp] theorem State.setPanel_mem (b : Nat) (p : Panel) : (s.setPanel b p).mem = s.mem := rfl
@[simp] theorem State.setPanel_disp (b : Nat) (p : Panel) : (s.setPanel b p).disp = s.disp := rfl
@[simp] theorem State.setPanel_bench (b : Nat) (p : Panel) : (s.setPanel b p).bench = s.bench := rfl
@[simp] theorem State.setPanel_dv (b : Nat) (p : Panel) : (s.setPanel b p).dv = s.dv := rfl
@[simp] theorem State.setPanel_integ (b : Nat) (p : Panel) : (s.setPanel b p).integ = s.integ := rfl
@[simp] theorem State.setPanel_plinth (b : Nat) (p : Panel) : (s.setPanel b p).plinth = s.plinth := rfl
@[simp] theorem State.setPanel_power (b : Nat) (p : Panel) : (s.setPanel b p).power = s.power := rfl
@[simp] theorem State.setPanel_link (b : Nat) (p : Panel) : (s.setPanel b p).link = s.link := rfl
@[simp] theorem State.setPanel_saved (b : Nat) (p : Panel) : (s.setPanel b p).saved = s.saved := rfl
@[simp] theorem State.setPanel_agenda (b : Nat) (p : Panel) : (s.setPanel b p).agenda = s.agenda := rfl
@[simp] theorem State.setPanel_cur (b : Nat) (p : Panel) : (s.setPanel b p).cur = s.cur := rfl
@[simp] theorem State.setPanel_turn (b : Nat) (p : Panel) : (s.setPanel b p).turn = s.turn := rfl
@[simp] theorem State.setPanel_budget (b : Nat) (p : Panel) : (s.setPanel b p).budget = s.budget := rfl
@[simp] theorem State.setPanel_lazy (b : Nat) (p : Panel) : (s.setPanel b p).lazy = s.lazy := rfl
@[simp] theorem State.setPanel_clock (b : Nat) (p : Panel) : (s.setPanel b p).clock = s.clock := rfl
@[simp] theorem State.setPanel_free (b : Nat) (p : Panel) : (s.setPanel b p).free = s.free := rfl

@[simp] theorem State.tell_cores (e : BenchEvent) : (s.tell e).cores = s.cores := rfl
@[simp] theorem State.tell_panels (e : BenchEvent) : (s.tell e).panels = s.panels := rfl
@[simp] theorem State.tell_mem (e : BenchEvent) : (s.tell e).mem = s.mem := rfl
@[simp] theorem State.tell_disp (e : BenchEvent) : (s.tell e).disp = s.disp := rfl
@[simp] theorem State.tell_dv (e : BenchEvent) : (s.tell e).dv = s.dv := rfl
@[simp] theorem State.tell_integ (e : BenchEvent) : (s.tell e).integ = s.integ := rfl
@[simp] theorem State.tell_plinth (e : BenchEvent) : (s.tell e).plinth = s.plinth := rfl
@[simp] theorem State.tell_power (e : BenchEvent) : (s.tell e).power = s.power := rfl
@[simp] theorem State.tell_link (e : BenchEvent) : (s.tell e).link = s.link := rfl
@[simp] theorem State.tell_saved (e : BenchEvent) : (s.tell e).saved = s.saved := rfl
@[simp] theorem State.tell_agenda (e : BenchEvent) : (s.tell e).agenda = s.agenda := rfl
@[simp] theorem State.tell_cur (e : BenchEvent) : (s.tell e).cur = s.cur := rfl
@[simp] theorem State.tell_turn (e : BenchEvent) : (s.tell e).turn = s.turn := rfl
@[simp] theorem State.tell_budget (e : BenchEvent) : (s.tell e).budget = s.budget := rfl
@[simp] theorem State.tell_lazy (e : BenchEvent) : (s.tell e).lazy = s.lazy := rfl
@[simp] theorem State.tell_clock (e : BenchEvent) : (s.tell e).clock = s.clock := rfl
@[simp] theorem State.tell_free (e : BenchEvent) : (s.tell e).free = s.free := rfl

@[simp] theorem State.draw_cores  : (s.draw.2).cores = s.cores := rfl
@[simp] theorem State.draw_panels  : (s.draw.2).panels = s.panels := rfl
@[simp] theorem State.draw_mem  : (s.draw.2).mem = s.mem := rfl
@[simp] theorem State.draw_disp  : (s.draw.2).disp = s.disp := rfl
@[simp] theorem State.draw_bench  : (s.draw.2).bench = s.bench := rfl
@[simp] theorem State.draw_dv  : (s.draw.2).dv = s.dv := rfl
@[simp] theorem State.draw_integ  : (s.draw.2).integ = s.integ := rfl
@[simp] theorem State.draw_plinth  : (s.draw.2).plinth = s.plinth := rfl
@[simp] theorem State.draw_power  : (s.draw.2).power = s.power := rfl
@[simp] theorem State.draw_link  : (s.draw.2).link = s.link := rfl
@[simp] theorem State.draw_saved  : (s.draw.2).saved = s.saved := rfl
@[simp] theorem State.draw_agenda  : (s.draw.2).agenda = s.agenda := rfl
@[simp] theorem State.draw_cur  : (s.draw.2).cur = s.cur := rfl
@[simp] theorem State.draw_turn  : (s.draw.2).turn = s.turn := rfl
@[simp] theorem State.draw_budget  : (s.draw.2).budget = s.budget := rfl
@[simp] theorem State.draw_lazy  : (s.draw.2).lazy = s.lazy := rfl
@[simp] theorem State.draw_clock  : (s.draw.2).clock = s.clock := rfl

@[simp] theorem Core.onS_v (f : SCore → SCore) : (c.onS f).v = c.v := rfl
@[simp] theorem Core.onS_m (f : SCore → SCore) : (c.onS f).m = c.m := rfl
@[simp] theorem Core.onS_c (f : SCore → SCore) : (c.onS f).c = c.c := rfl
@[simp] theorem Core.onS_t (f : SCore → SCore) : (c.onS f).t = c.t := rfl
@[simp] theorem Core.onS_mtes (f : SCore → SCore) : (c.onS f).mtes = c.mtes := rfl
@[simp] theorem Core.onS_sems (f : SCore → SCore) : (c.onS f).sems = c.sems := rfl
@[simp] theorem Core.onS_waiters (f : SCore → SCore) : (c.onS f).waiters = c.waiters := rfl
@[simp] theorem Core.onS_fmt (f : SCore → SCore) : (c.onS f).fmt = c.fmt := rfl
@[simp] theorem Core.onS_rings (f : SCore → SCore) : (c.onS f).rings = c.rings := rfl
@[simp] theorem Core.onS_gauges (f : SCore → SCore) : (c.onS f).gauges = c.gauges := rfl
@[simp] theorem Core.onS_dbase (f : SCore → SCore) : (c.onS f).dbase = c.dbase := rfl
@[simp] theorem Core.onS_dszlog (f : SCore → SCore) : (c.onS f).dszlog = c.dszlog := rfl
@[simp] theorem Core.onS_dn (f : SCore → SCore) : (c.onS f).dn = c.dn := rfl
@[simp] theorem Core.onS_imem (f : SCore → SCore) : (c.onS f).imem = c.imem := rfl
@[simp] theorem Core.onS_spad (f : SCore → SCore) : (c.onS f).spad = c.spad := rfl
@[simp] theorem Core.onS_buffer (f : SCore → SCore) : (c.onS f).buffer = c.buffer := rfl
@[simp] theorem Core.onS_panel (f : SCore → SCore) : (c.onS f).panel = c.panel := rfl
@[simp] theorem Core.onS_season (f : SCore → SCore) : (c.onS f).season = c.season := rfl
@[simp] theorem Core.onS_step (f : SCore → SCore) : (c.onS f).step = c.step := rfl
@[simp] theorem Core.onS_lastJig (f : SCore → SCore) : (c.onS f).lastJig = c.lastJig := rfl
@[simp] theorem Core.onS_testing (f : SCore → SCore) : (c.onS f).testing = c.testing := rfl

@[simp] theorem Core.onS_s (f : SCore → SCore) : (c.onS f).s = f c.s := rfl

@[simp] theorem Core.onV_s (f : VCore → VCore) : (c.onV f).s = c.s := rfl
@[simp] theorem Core.onV_m (f : VCore → VCore) : (c.onV f).m = c.m := rfl
@[simp] theorem Core.onV_c (f : VCore → VCore) : (c.onV f).c = c.c := rfl
@[simp] theorem Core.onV_t (f : VCore → VCore) : (c.onV f).t = c.t := rfl
@[simp] theorem Core.onV_mtes (f : VCore → VCore) : (c.onV f).mtes = c.mtes := rfl
@[simp] theorem Core.onV_sems (f : VCore → VCore) : (c.onV f).sems = c.sems := rfl
@[simp] theorem Core.onV_waiters (f : VCore → VCore) : (c.onV f).waiters = c.waiters := rfl
@[simp] theorem Core.onV_fmt (f : VCore → VCore) : (c.onV f).fmt = c.fmt := rfl
@[simp] theorem Core.onV_rings (f : VCore → VCore) : (c.onV f).rings = c.rings := rfl
@[simp] theorem Core.onV_gauges (f : VCore → VCore) : (c.onV f).gauges = c.gauges := rfl
@[simp] theorem Core.onV_dbase (f : VCore → VCore) : (c.onV f).dbase = c.dbase := rfl
@[simp] theorem Core.onV_dszlog (f : VCore → VCore) : (c.onV f).dszlog = c.dszlog := rfl
@[simp] theorem Core.onV_dn (f : VCore → VCore) : (c.onV f).dn = c.dn := rfl
@[simp] theorem Core.onV_imem (f : VCore → VCore) : (c.onV f).imem = c.imem := rfl
@[simp] theorem Core.onV_spad (f : VCore → VCore) : (c.onV f).spad = c.spad := rfl
@[simp] theorem Core.onV_buffer (f : VCore → VCore) : (c.onV f).buffer = c.buffer := rfl
@[simp] theorem Core.onV_panel (f : VCore → VCore) : (c.onV f).panel = c.panel := rfl
@[simp] theorem Core.onV_season (f : VCore → VCore) : (c.onV f).season = c.season := rfl
@[simp] theorem Core.onV_step (f : VCore → VCore) : (c.onV f).step = c.step := rfl
@[simp] theorem Core.onV_lastJig (f : VCore → VCore) : (c.onV f).lastJig = c.lastJig := rfl
@[simp] theorem Core.onV_testing (f : VCore → VCore) : (c.onV f).testing = c.testing := rfl

@[simp] theorem Core.onV_v (f : VCore → VCore) : (c.onV f).v = f c.v := rfl

@[simp] theorem Core.onM_s (f : MCore → MCore) : (c.onM f).s = c.s := rfl
@[simp] theorem Core.onM_v (f : MCore → MCore) : (c.onM f).v = c.v := rfl
@[simp] theorem Core.onM_c (f : MCore → MCore) : (c.onM f).c = c.c := rfl
@[simp] theorem Core.onM_t (f : MCore → MCore) : (c.onM f).t = c.t := rfl
@[simp] theorem Core.onM_mtes (f : MCore → MCore) : (c.onM f).mtes = c.mtes := rfl
@[simp] theorem Core.onM_sems (f : MCore → MCore) : (c.onM f).sems = c.sems := rfl
@[simp] theorem Core.onM_waiters (f : MCore → MCore) : (c.onM f).waiters = c.waiters := rfl
@[simp] theorem Core.onM_fmt (f : MCore → MCore) : (c.onM f).fmt = c.fmt := rfl
@[simp] theorem Core.onM_rings (f : MCore → MCore) : (c.onM f).rings = c.rings := rfl
@[simp] theorem Core.onM_gauges (f : MCore → MCore) : (c.onM f).gauges = c.gauges := rfl
@[simp] theorem Core.onM_dbase (f : MCore → MCore) : (c.onM f).dbase = c.dbase := rfl
@[simp] theorem Core.onM_dszlog (f : MCore → MCore) : (c.onM f).dszlog = c.dszlog := rfl
@[simp] theorem Core.onM_dn (f : MCore → MCore) : (c.onM f).dn = c.dn := rfl
@[simp] theorem Core.onM_imem (f : MCore → MCore) : (c.onM f).imem = c.imem := rfl
@[simp] theorem Core.onM_spad (f : MCore → MCore) : (c.onM f).spad = c.spad := rfl
@[simp] theorem Core.onM_buffer (f : MCore → MCore) : (c.onM f).buffer = c.buffer := rfl
@[simp] theorem Core.onM_panel (f : MCore → MCore) : (c.onM f).panel = c.panel := rfl
@[simp] theorem Core.onM_season (f : MCore → MCore) : (c.onM f).season = c.season := rfl
@[simp] theorem Core.onM_step (f : MCore → MCore) : (c.onM f).step = c.step := rfl
@[simp] theorem Core.onM_lastJig (f : MCore → MCore) : (c.onM f).lastJig = c.lastJig := rfl
@[simp] theorem Core.onM_testing (f : MCore → MCore) : (c.onM f).testing = c.testing := rfl

@[simp] theorem Core.onM_m (f : MCore → MCore) : (c.onM f).m = f c.m := rfl

@[simp] theorem Core.onC_s (f : CCore → CCore) : (c.onC f).s = c.s := rfl
@[simp] theorem Core.onC_v (f : CCore → CCore) : (c.onC f).v = c.v := rfl
@[simp] theorem Core.onC_m (f : CCore → CCore) : (c.onC f).m = c.m := rfl
@[simp] theorem Core.onC_t (f : CCore → CCore) : (c.onC f).t = c.t := rfl
@[simp] theorem Core.onC_mtes (f : CCore → CCore) : (c.onC f).mtes = c.mtes := rfl
@[simp] theorem Core.onC_sems (f : CCore → CCore) : (c.onC f).sems = c.sems := rfl
@[simp] theorem Core.onC_waiters (f : CCore → CCore) : (c.onC f).waiters = c.waiters := rfl
@[simp] theorem Core.onC_fmt (f : CCore → CCore) : (c.onC f).fmt = c.fmt := rfl
@[simp] theorem Core.onC_rings (f : CCore → CCore) : (c.onC f).rings = c.rings := rfl
@[simp] theorem Core.onC_gauges (f : CCore → CCore) : (c.onC f).gauges = c.gauges := rfl
@[simp] theorem Core.onC_dbase (f : CCore → CCore) : (c.onC f).dbase = c.dbase := rfl
@[simp] theorem Core.onC_dszlog (f : CCore → CCore) : (c.onC f).dszlog = c.dszlog := rfl
@[simp] theorem Core.onC_dn (f : CCore → CCore) : (c.onC f).dn = c.dn := rfl
@[simp] theorem Core.onC_imem (f : CCore → CCore) : (c.onC f).imem = c.imem := rfl
@[simp] theorem Core.onC_spad (f : CCore → CCore) : (c.onC f).spad = c.spad := rfl
@[simp] theorem Core.onC_buffer (f : CCore → CCore) : (c.onC f).buffer = c.buffer := rfl
@[simp] theorem Core.onC_panel (f : CCore → CCore) : (c.onC f).panel = c.panel := rfl
@[simp] theorem Core.onC_season (f : CCore → CCore) : (c.onC f).season = c.season := rfl
@[simp] theorem Core.onC_step (f : CCore → CCore) : (c.onC f).step = c.step := rfl
@[simp] theorem Core.onC_lastJig (f : CCore → CCore) : (c.onC f).lastJig = c.lastJig := rfl
@[simp] theorem Core.onC_testing (f : CCore → CCore) : (c.onC f).testing = c.testing := rfl

@[simp] theorem Core.onC_c (f : CCore → CCore) : (c.onC f).c = f c.c := rfl

@[simp] theorem Core.setRing_s (n : Nat) (r : StageRing) : (c.setRing n r).s = c.s := rfl
@[simp] theorem Core.setRing_v (n : Nat) (r : StageRing) : (c.setRing n r).v = c.v := rfl
@[simp] theorem Core.setRing_m (n : Nat) (r : StageRing) : (c.setRing n r).m = c.m := rfl
@[simp] theorem Core.setRing_c (n : Nat) (r : StageRing) : (c.setRing n r).c = c.c := rfl
@[simp] theorem Core.setRing_t (n : Nat) (r : StageRing) : (c.setRing n r).t = c.t := rfl
@[simp] theorem Core.setRing_mtes (n : Nat) (r : StageRing) : (c.setRing n r).mtes = c.mtes := rfl
@[simp] theorem Core.setRing_sems (n : Nat) (r : StageRing) : (c.setRing n r).sems = c.sems := rfl
@[simp] theorem Core.setRing_waiters (n : Nat) (r : StageRing) : (c.setRing n r).waiters = c.waiters := rfl
@[simp] theorem Core.setRing_fmt (n : Nat) (r : StageRing) : (c.setRing n r).fmt = c.fmt := rfl
@[simp] theorem Core.setRing_gauges (n : Nat) (r : StageRing) : (c.setRing n r).gauges = c.gauges := rfl
@[simp] theorem Core.setRing_dbase (n : Nat) (r : StageRing) : (c.setRing n r).dbase = c.dbase := rfl
@[simp] theorem Core.setRing_dszlog (n : Nat) (r : StageRing) : (c.setRing n r).dszlog = c.dszlog := rfl
@[simp] theorem Core.setRing_dn (n : Nat) (r : StageRing) : (c.setRing n r).dn = c.dn := rfl
@[simp] theorem Core.setRing_imem (n : Nat) (r : StageRing) : (c.setRing n r).imem = c.imem := rfl
@[simp] theorem Core.setRing_spad (n : Nat) (r : StageRing) : (c.setRing n r).spad = c.spad := rfl
@[simp] theorem Core.setRing_buffer (n : Nat) (r : StageRing) : (c.setRing n r).buffer = c.buffer := rfl
@[simp] theorem Core.setRing_panel (n : Nat) (r : StageRing) : (c.setRing n r).panel = c.panel := rfl
@[simp] theorem Core.setRing_season (n : Nat) (r : StageRing) : (c.setRing n r).season = c.season := rfl
@[simp] theorem Core.setRing_step (n : Nat) (r : StageRing) : (c.setRing n r).step = c.step := rfl
@[simp] theorem Core.setRing_lastJig (n : Nat) (r : StageRing) : (c.setRing n r).lastJig = c.lastJig := rfl
@[simp] theorem Core.setRing_testing (n : Nat) (r : StageRing) : (c.setRing n r).testing = c.testing := rfl

@[simp] theorem Core.setMte_s (i : Nat) (m : Mte) : (c.setMte i m).s = c.s := rfl
@[simp] theorem Core.setMte_v (i : Nat) (m : Mte) : (c.setMte i m).v = c.v := rfl
@[simp] theorem Core.setMte_m (i : Nat) (m : Mte) : (c.setMte i m).m = c.m := rfl
@[simp] theorem Core.setMte_c (i : Nat) (m : Mte) : (c.setMte i m).c = c.c := rfl
@[simp] theorem Core.setMte_t (i : Nat) (m : Mte) : (c.setMte i m).t = c.t := rfl
@[simp] theorem Core.setMte_sems (i : Nat) (m : Mte) : (c.setMte i m).sems = c.sems := rfl
@[simp] theorem Core.setMte_waiters (i : Nat) (m : Mte) : (c.setMte i m).waiters = c.waiters := rfl
@[simp] theorem Core.setMte_fmt (i : Nat) (m : Mte) : (c.setMte i m).fmt = c.fmt := rfl
@[simp] theorem Core.setMte_rings (i : Nat) (m : Mte) : (c.setMte i m).rings = c.rings := rfl
@[simp] theorem Core.setMte_gauges (i : Nat) (m : Mte) : (c.setMte i m).gauges = c.gauges := rfl
@[simp] theorem Core.setMte_dbase (i : Nat) (m : Mte) : (c.setMte i m).dbase = c.dbase := rfl
@[simp] theorem Core.setMte_dszlog (i : Nat) (m : Mte) : (c.setMte i m).dszlog = c.dszlog := rfl
@[simp] theorem Core.setMte_dn (i : Nat) (m : Mte) : (c.setMte i m).dn = c.dn := rfl
@[simp] theorem Core.setMte_imem (i : Nat) (m : Mte) : (c.setMte i m).imem = c.imem := rfl
@[simp] theorem Core.setMte_spad (i : Nat) (m : Mte) : (c.setMte i m).spad = c.spad := rfl
@[simp] theorem Core.setMte_buffer (i : Nat) (m : Mte) : (c.setMte i m).buffer = c.buffer := rfl
@[simp] theorem Core.setMte_panel (i : Nat) (m : Mte) : (c.setMte i m).panel = c.panel := rfl
@[simp] theorem Core.setMte_season (i : Nat) (m : Mte) : (c.setMte i m).season = c.season := rfl
@[simp] theorem Core.setMte_step (i : Nat) (m : Mte) : (c.setMte i m).step = c.step := rfl
@[simp] theorem Core.setMte_lastJig (i : Nat) (m : Mte) : (c.setMte i m).lastJig = c.lastJig := rfl
@[simp] theorem Core.setMte_testing (i : Nat) (m : Mte) : (c.setMte i m).testing = c.testing := rfl

@[simp] theorem Core.advance_v  : (c.advance).v = c.v := rfl
@[simp] theorem Core.advance_m  : (c.advance).m = c.m := rfl
@[simp] theorem Core.advance_c  : (c.advance).c = c.c := rfl
@[simp] theorem Core.advance_t  : (c.advance).t = c.t := rfl
@[simp] theorem Core.advance_mtes  : (c.advance).mtes = c.mtes := rfl
@[simp] theorem Core.advance_sems  : (c.advance).sems = c.sems := rfl
@[simp] theorem Core.advance_waiters  : (c.advance).waiters = c.waiters := rfl
@[simp] theorem Core.advance_fmt  : (c.advance).fmt = c.fmt := rfl
@[simp] theorem Core.advance_rings  : (c.advance).rings = c.rings := rfl
@[simp] theorem Core.advance_gauges  : (c.advance).gauges = c.gauges := rfl
@[simp] theorem Core.advance_dbase  : (c.advance).dbase = c.dbase := rfl
@[simp] theorem Core.advance_dszlog  : (c.advance).dszlog = c.dszlog := rfl
@[simp] theorem Core.advance_dn  : (c.advance).dn = c.dn := rfl
@[simp] theorem Core.advance_imem  : (c.advance).imem = c.imem := rfl
@[simp] theorem Core.advance_spad  : (c.advance).spad = c.spad := rfl
@[simp] theorem Core.advance_buffer  : (c.advance).buffer = c.buffer := rfl
@[simp] theorem Core.advance_panel  : (c.advance).panel = c.panel := rfl
@[simp] theorem Core.advance_season  : (c.advance).season = c.season := rfl
@[simp] theorem Core.advance_step  : (c.advance).step = c.step := rfl
@[simp] theorem Core.advance_lastJig  : (c.advance).lastJig = c.lastJig := rfl
@[simp] theorem Core.advance_testing  : (c.advance).testing = c.testing := rfl

@[simp] theorem Core.advance_s_x  : (c.advance ).s.x = c.s.x := rfl
@[simp] theorem Core.advance_s_mode  : (c.advance ).s.mode = c.s.mode := rfl
@[simp] theorem Core.advance_s_inHandler  : (c.advance ).s.inHandler = c.s.inHandler := rfl
@[simp] theorem Core.advance_s_pendLost  : (c.advance ).s.pendLost = c.s.pendLost := rfl
@[simp] theorem Core.advance_s_pendEng  : (c.advance ).s.pendEng = c.s.pendEng := rfl
@[simp] theorem Core.advance_s_latch  : (c.advance ).s.latch = c.s.latch := rfl
@[simp] theorem Core.advance_s_sst  : (c.advance ).s.sst = c.s.sst := rfl
@[simp] theorem Core.advance_s_tstat  : (c.advance ).s.tstat = c.s.tstat := rfl
@[simp] theorem Core.advance_s_schk  : (c.advance ).s.schk = c.s.schk := rfl
@[simp] theorem Core.advance_s_tvec  : (c.advance ).s.tvec = c.s.tvec := rfl
@[simp] theorem Core.advance_s_tepc  : (c.advance ).s.tepc = c.s.tepc := rfl
@[simp] theorem Core.advance_s_tcause  : (c.advance ).s.tcause = c.s.tcause := rfl
@[simp] theorem Core.advance_s_tval  : (c.advance ).s.tval = c.s.tval := rfl
@[simp] theorem Core.advance_s_haz  : (c.advance ).s.haz = c.s.haz := rfl
@[simp] theorem Core.advance_s_walk  : (c.advance ).s.walk = c.s.walk := rfl
@[simp] theorem Core.advance_s_ready  : (c.advance ).s.ready = c.s.ready := rfl
@[simp] theorem Core.advance_s_loads  : (c.advance ).s.loads = c.s.loads := rfl
@[simp] theorem Core.advance_s_queue  : (c.advance ).s.queue = c.s.queue := rfl
@[simp] theorem Core.advance_s_seq  : (c.advance ).s.seq = c.s.seq := rfl
@[simp] theorem Core.advance_s_forkTab  : (c.advance ).s.forkTab = c.s.forkTab := rfl
@[simp] theorem Core.advance_s_spill  : (c.advance ).s.spill = c.s.spill := rfl
@[simp] theorem Core.advance_s_tags  : (c.advance ).s.tags = c.s.tags := rfl

@[simp] theorem Core.jumpTo_v (a : BitVec 16) : (c.jumpTo a).v = c.v := rfl
@[simp] theorem Core.jumpTo_m (a : BitVec 16) : (c.jumpTo a).m = c.m := rfl
@[simp] theorem Core.jumpTo_c (a : BitVec 16) : (c.jumpTo a).c = c.c := rfl
@[simp] theorem Core.jumpTo_t (a : BitVec 16) : (c.jumpTo a).t = c.t := rfl
@[simp] theorem Core.jumpTo_mtes (a : BitVec 16) : (c.jumpTo a).mtes = c.mtes := rfl
@[simp] theorem Core.jumpTo_sems (a : BitVec 16) : (c.jumpTo a).sems = c.sems := rfl
@[simp] theorem Core.jumpTo_waiters (a : BitVec 16) : (c.jumpTo a).waiters = c.waiters := rfl
@[simp] theorem Core.jumpTo_fmt (a : BitVec 16) : (c.jumpTo a).fmt = c.fmt := rfl
@[simp] theorem Core.jumpTo_rings (a : BitVec 16) : (c.jumpTo a).rings = c.rings := rfl
@[simp] theorem Core.jumpTo_gauges (a : BitVec 16) : (c.jumpTo a).gauges = c.gauges := rfl
@[simp] theorem Core.jumpTo_dbase (a : BitVec 16) : (c.jumpTo a).dbase = c.dbase := rfl
@[simp] theorem Core.jumpTo_dszlog (a : BitVec 16) : (c.jumpTo a).dszlog = c.dszlog := rfl
@[simp] theorem Core.jumpTo_dn (a : BitVec 16) : (c.jumpTo a).dn = c.dn := rfl
@[simp] theorem Core.jumpTo_imem (a : BitVec 16) : (c.jumpTo a).imem = c.imem := rfl
@[simp] theorem Core.jumpTo_spad (a : BitVec 16) : (c.jumpTo a).spad = c.spad := rfl
@[simp] theorem Core.jumpTo_buffer (a : BitVec 16) : (c.jumpTo a).buffer = c.buffer := rfl
@[simp] theorem Core.jumpTo_panel (a : BitVec 16) : (c.jumpTo a).panel = c.panel := rfl
@[simp] theorem Core.jumpTo_season (a : BitVec 16) : (c.jumpTo a).season = c.season := rfl
@[simp] theorem Core.jumpTo_step (a : BitVec 16) : (c.jumpTo a).step = c.step := rfl
@[simp] theorem Core.jumpTo_lastJig (a : BitVec 16) : (c.jumpTo a).lastJig = c.lastJig := rfl
@[simp] theorem Core.jumpTo_testing (a : BitVec 16) : (c.jumpTo a).testing = c.testing := rfl

@[simp] theorem Core.jumpTo_s_x (a : BitVec 16) : (c.jumpTo a).s.x = c.s.x := rfl
@[simp] theorem Core.jumpTo_s_mode (a : BitVec 16) : (c.jumpTo a).s.mode = c.s.mode := rfl
@[simp] theorem Core.jumpTo_s_inHandler (a : BitVec 16) : (c.jumpTo a).s.inHandler = c.s.inHandler := rfl
@[simp] theorem Core.jumpTo_s_pendLost (a : BitVec 16) : (c.jumpTo a).s.pendLost = c.s.pendLost := rfl
@[simp] theorem Core.jumpTo_s_pendEng (a : BitVec 16) : (c.jumpTo a).s.pendEng = c.s.pendEng := rfl
@[simp] theorem Core.jumpTo_s_latch (a : BitVec 16) : (c.jumpTo a).s.latch = c.s.latch := rfl
@[simp] theorem Core.jumpTo_s_sst (a : BitVec 16) : (c.jumpTo a).s.sst = c.s.sst := rfl
@[simp] theorem Core.jumpTo_s_tstat (a : BitVec 16) : (c.jumpTo a).s.tstat = c.s.tstat := rfl
@[simp] theorem Core.jumpTo_s_schk (a : BitVec 16) : (c.jumpTo a).s.schk = c.s.schk := rfl
@[simp] theorem Core.jumpTo_s_tvec (a : BitVec 16) : (c.jumpTo a).s.tvec = c.s.tvec := rfl
@[simp] theorem Core.jumpTo_s_tepc (a : BitVec 16) : (c.jumpTo a).s.tepc = c.s.tepc := rfl
@[simp] theorem Core.jumpTo_s_tcause (a : BitVec 16) : (c.jumpTo a).s.tcause = c.s.tcause := rfl
@[simp] theorem Core.jumpTo_s_tval (a : BitVec 16) : (c.jumpTo a).s.tval = c.s.tval := rfl
@[simp] theorem Core.jumpTo_s_haz (a : BitVec 16) : (c.jumpTo a).s.haz = c.s.haz := rfl
@[simp] theorem Core.jumpTo_s_walk (a : BitVec 16) : (c.jumpTo a).s.walk = c.s.walk := rfl
@[simp] theorem Core.jumpTo_s_ready (a : BitVec 16) : (c.jumpTo a).s.ready = c.s.ready := rfl
@[simp] theorem Core.jumpTo_s_loads (a : BitVec 16) : (c.jumpTo a).s.loads = c.s.loads := rfl
@[simp] theorem Core.jumpTo_s_queue (a : BitVec 16) : (c.jumpTo a).s.queue = c.s.queue := rfl
@[simp] theorem Core.jumpTo_s_seq (a : BitVec 16) : (c.jumpTo a).s.seq = c.s.seq := rfl
@[simp] theorem Core.jumpTo_s_forkTab (a : BitVec 16) : (c.jumpTo a).s.forkTab = c.s.forkTab := rfl
@[simp] theorem Core.jumpTo_s_spill (a : BitVec 16) : (c.jumpTo a).s.spill = c.s.spill := rfl
@[simp] theorem Core.jumpTo_s_tags (a : BitVec 16) : (c.jumpTo a).s.tags = c.s.tags := rfl

@[simp] theorem Core.waitS_v (w : WaitOn) : (c.waitS w).v = c.v := rfl
@[simp] theorem Core.waitS_m (w : WaitOn) : (c.waitS w).m = c.m := rfl
@[simp] theorem Core.waitS_c (w : WaitOn) : (c.waitS w).c = c.c := rfl
@[simp] theorem Core.waitS_t (w : WaitOn) : (c.waitS w).t = c.t := rfl
@[simp] theorem Core.waitS_mtes (w : WaitOn) : (c.waitS w).mtes = c.mtes := rfl
@[simp] theorem Core.waitS_sems (w : WaitOn) : (c.waitS w).sems = c.sems := rfl
@[simp] theorem Core.waitS_waiters (w : WaitOn) : (c.waitS w).waiters = c.waiters := rfl
@[simp] theorem Core.waitS_fmt (w : WaitOn) : (c.waitS w).fmt = c.fmt := rfl
@[simp] theorem Core.waitS_rings (w : WaitOn) : (c.waitS w).rings = c.rings := rfl
@[simp] theorem Core.waitS_gauges (w : WaitOn) : (c.waitS w).gauges = c.gauges := rfl
@[simp] theorem Core.waitS_dbase (w : WaitOn) : (c.waitS w).dbase = c.dbase := rfl
@[simp] theorem Core.waitS_dszlog (w : WaitOn) : (c.waitS w).dszlog = c.dszlog := rfl
@[simp] theorem Core.waitS_dn (w : WaitOn) : (c.waitS w).dn = c.dn := rfl
@[simp] theorem Core.waitS_imem (w : WaitOn) : (c.waitS w).imem = c.imem := rfl
@[simp] theorem Core.waitS_spad (w : WaitOn) : (c.waitS w).spad = c.spad := rfl
@[simp] theorem Core.waitS_buffer (w : WaitOn) : (c.waitS w).buffer = c.buffer := rfl
@[simp] theorem Core.waitS_panel (w : WaitOn) : (c.waitS w).panel = c.panel := rfl
@[simp] theorem Core.waitS_season (w : WaitOn) : (c.waitS w).season = c.season := rfl
@[simp] theorem Core.waitS_step (w : WaitOn) : (c.waitS w).step = c.step := rfl
@[simp] theorem Core.waitS_lastJig (w : WaitOn) : (c.waitS w).lastJig = c.lastJig := rfl
@[simp] theorem Core.waitS_testing (w : WaitOn) : (c.waitS w).testing = c.testing := rfl

@[simp] theorem Core.waitS_s_x (w : WaitOn) : (c.waitS w).s.x = c.s.x := rfl
@[simp] theorem Core.waitS_s_pc (w : WaitOn) : (c.waitS w).s.pc = c.s.pc := rfl
@[simp] theorem Core.waitS_s_mode (w : WaitOn) : (c.waitS w).s.mode = c.s.mode := rfl
@[simp] theorem Core.waitS_s_inHandler (w : WaitOn) : (c.waitS w).s.inHandler = c.s.inHandler := rfl
@[simp] theorem Core.waitS_s_pendLost (w : WaitOn) : (c.waitS w).s.pendLost = c.s.pendLost := rfl
@[simp] theorem Core.waitS_s_pendEng (w : WaitOn) : (c.waitS w).s.pendEng = c.s.pendEng := rfl
@[simp] theorem Core.waitS_s_latch (w : WaitOn) : (c.waitS w).s.latch = c.s.latch := rfl
@[simp] theorem Core.waitS_s_sst (w : WaitOn) : (c.waitS w).s.sst = c.s.sst := rfl
@[simp] theorem Core.waitS_s_tstat (w : WaitOn) : (c.waitS w).s.tstat = c.s.tstat := rfl
@[simp] theorem Core.waitS_s_schk (w : WaitOn) : (c.waitS w).s.schk = c.s.schk := rfl
@[simp] theorem Core.waitS_s_tvec (w : WaitOn) : (c.waitS w).s.tvec = c.s.tvec := rfl
@[simp] theorem Core.waitS_s_tepc (w : WaitOn) : (c.waitS w).s.tepc = c.s.tepc := rfl
@[simp] theorem Core.waitS_s_tcause (w : WaitOn) : (c.waitS w).s.tcause = c.s.tcause := rfl
@[simp] theorem Core.waitS_s_tval (w : WaitOn) : (c.waitS w).s.tval = c.s.tval := rfl
@[simp] theorem Core.waitS_s_haz (w : WaitOn) : (c.waitS w).s.haz = c.s.haz := rfl
@[simp] theorem Core.waitS_s_walk (w : WaitOn) : (c.waitS w).s.walk = c.s.walk := rfl
@[simp] theorem Core.waitS_s_ready (w : WaitOn) : (c.waitS w).s.ready = c.s.ready := rfl
@[simp] theorem Core.waitS_s_loads (w : WaitOn) : (c.waitS w).s.loads = c.s.loads := rfl
@[simp] theorem Core.waitS_s_queue (w : WaitOn) : (c.waitS w).s.queue = c.s.queue := rfl
@[simp] theorem Core.waitS_s_seq (w : WaitOn) : (c.waitS w).s.seq = c.s.seq := rfl
@[simp] theorem Core.waitS_s_forkTab (w : WaitOn) : (c.waitS w).s.forkTab = c.s.forkTab := rfl
@[simp] theorem Core.waitS_s_spill (w : WaitOn) : (c.waitS w).s.spill = c.s.spill := rfl
@[simp] theorem Core.waitS_s_tags (w : WaitOn) : (c.waitS w).s.tags = c.s.tags := rfl

@[simp] theorem Core.orSst_v (w : Sys2Proof.Word) : (c.orSst w).v = c.v := rfl
@[simp] theorem Core.orSst_m (w : Sys2Proof.Word) : (c.orSst w).m = c.m := rfl
@[simp] theorem Core.orSst_c (w : Sys2Proof.Word) : (c.orSst w).c = c.c := rfl
@[simp] theorem Core.orSst_t (w : Sys2Proof.Word) : (c.orSst w).t = c.t := rfl
@[simp] theorem Core.orSst_mtes (w : Sys2Proof.Word) : (c.orSst w).mtes = c.mtes := rfl
@[simp] theorem Core.orSst_sems (w : Sys2Proof.Word) : (c.orSst w).sems = c.sems := rfl
@[simp] theorem Core.orSst_waiters (w : Sys2Proof.Word) : (c.orSst w).waiters = c.waiters := rfl
@[simp] theorem Core.orSst_fmt (w : Sys2Proof.Word) : (c.orSst w).fmt = c.fmt := rfl
@[simp] theorem Core.orSst_rings (w : Sys2Proof.Word) : (c.orSst w).rings = c.rings := rfl
@[simp] theorem Core.orSst_gauges (w : Sys2Proof.Word) : (c.orSst w).gauges = c.gauges := rfl
@[simp] theorem Core.orSst_dbase (w : Sys2Proof.Word) : (c.orSst w).dbase = c.dbase := rfl
@[simp] theorem Core.orSst_dszlog (w : Sys2Proof.Word) : (c.orSst w).dszlog = c.dszlog := rfl
@[simp] theorem Core.orSst_dn (w : Sys2Proof.Word) : (c.orSst w).dn = c.dn := rfl
@[simp] theorem Core.orSst_imem (w : Sys2Proof.Word) : (c.orSst w).imem = c.imem := rfl
@[simp] theorem Core.orSst_spad (w : Sys2Proof.Word) : (c.orSst w).spad = c.spad := rfl
@[simp] theorem Core.orSst_buffer (w : Sys2Proof.Word) : (c.orSst w).buffer = c.buffer := rfl
@[simp] theorem Core.orSst_panel (w : Sys2Proof.Word) : (c.orSst w).panel = c.panel := rfl
@[simp] theorem Core.orSst_season (w : Sys2Proof.Word) : (c.orSst w).season = c.season := rfl
@[simp] theorem Core.orSst_step (w : Sys2Proof.Word) : (c.orSst w).step = c.step := rfl
@[simp] theorem Core.orSst_lastJig (w : Sys2Proof.Word) : (c.orSst w).lastJig = c.lastJig := rfl
@[simp] theorem Core.orSst_testing (w : Sys2Proof.Word) : (c.orSst w).testing = c.testing := rfl

@[simp] theorem Core.orSst_s_x (w : Sys2Proof.Word) : (c.orSst w).s.x = c.s.x := rfl
@[simp] theorem Core.orSst_s_pc (w : Sys2Proof.Word) : (c.orSst w).s.pc = c.s.pc := rfl
@[simp] theorem Core.orSst_s_st (w : Sys2Proof.Word) : (c.orSst w).s.st = c.s.st := rfl
@[simp] theorem Core.orSst_s_mode (w : Sys2Proof.Word) : (c.orSst w).s.mode = c.s.mode := rfl
@[simp] theorem Core.orSst_s_inHandler (w : Sys2Proof.Word) : (c.orSst w).s.inHandler = c.s.inHandler := rfl
@[simp] theorem Core.orSst_s_pendLost (w : Sys2Proof.Word) : (c.orSst w).s.pendLost = c.s.pendLost := rfl
@[simp] theorem Core.orSst_s_pendEng (w : Sys2Proof.Word) : (c.orSst w).s.pendEng = c.s.pendEng := rfl
@[simp] theorem Core.orSst_s_latch (w : Sys2Proof.Word) : (c.orSst w).s.latch = c.s.latch := rfl
@[simp] theorem Core.orSst_s_tstat (w : Sys2Proof.Word) : (c.orSst w).s.tstat = c.s.tstat := rfl
@[simp] theorem Core.orSst_s_schk (w : Sys2Proof.Word) : (c.orSst w).s.schk = c.s.schk := rfl
@[simp] theorem Core.orSst_s_tvec (w : Sys2Proof.Word) : (c.orSst w).s.tvec = c.s.tvec := rfl
@[simp] theorem Core.orSst_s_tepc (w : Sys2Proof.Word) : (c.orSst w).s.tepc = c.s.tepc := rfl
@[simp] theorem Core.orSst_s_tcause (w : Sys2Proof.Word) : (c.orSst w).s.tcause = c.s.tcause := rfl
@[simp] theorem Core.orSst_s_tval (w : Sys2Proof.Word) : (c.orSst w).s.tval = c.s.tval := rfl
@[simp] theorem Core.orSst_s_haz (w : Sys2Proof.Word) : (c.orSst w).s.haz = c.s.haz := rfl
@[simp] theorem Core.orSst_s_walk (w : Sys2Proof.Word) : (c.orSst w).s.walk = c.s.walk := rfl
@[simp] theorem Core.orSst_s_ready (w : Sys2Proof.Word) : (c.orSst w).s.ready = c.s.ready := rfl
@[simp] theorem Core.orSst_s_loads (w : Sys2Proof.Word) : (c.orSst w).s.loads = c.s.loads := rfl
@[simp] theorem Core.orSst_s_queue (w : Sys2Proof.Word) : (c.orSst w).s.queue = c.s.queue := rfl
@[simp] theorem Core.orSst_s_seq (w : Sys2Proof.Word) : (c.orSst w).s.seq = c.s.seq := rfl
@[simp] theorem Core.orSst_s_forkTab (w : Sys2Proof.Word) : (c.orSst w).s.forkTab = c.s.forkTab := rfl
@[simp] theorem Core.orSst_s_spill (w : Sys2Proof.Word) : (c.orSst w).s.spill = c.s.spill := rfl
@[simp] theorem Core.orSst_s_tags (w : Sys2Proof.Word) : (c.orSst w).s.tags = c.s.tags := rfl

@[simp] theorem Core.setX_v (d : XReg) (v : Sys2Proof.Word) : (c.setX d v).v = c.v := by unfold Core.setX; split <;> rfl
@[simp] theorem Core.setX_m (d : XReg) (v : Sys2Proof.Word) : (c.setX d v).m = c.m := by unfold Core.setX; split <;> rfl
@[simp] theorem Core.setX_c (d : XReg) (v : Sys2Proof.Word) : (c.setX d v).c = c.c := by unfold Core.setX; split <;> rfl
@[simp] theorem Core.setX_t (d : XReg) (v : Sys2Proof.Word) : (c.setX d v).t = c.t := by unfold Core.setX; split <;> rfl
@[simp] theorem Core.setX_mtes (d : XReg) (v : Sys2Proof.Word) : (c.setX d v).mtes = c.mtes := by unfold Core.setX; split <;> rfl
@[simp] theorem Core.setX_sems (d : XReg) (v : Sys2Proof.Word) : (c.setX d v).sems = c.sems := by unfold Core.setX; split <;> rfl
@[simp] theorem Core.setX_waiters (d : XReg) (v : Sys2Proof.Word) : (c.setX d v).waiters = c.waiters := by unfold Core.setX; split <;> rfl
@[simp] theorem Core.setX_fmt (d : XReg) (v : Sys2Proof.Word) : (c.setX d v).fmt = c.fmt := by unfold Core.setX; split <;> rfl
@[simp] theorem Core.setX_rings (d : XReg) (v : Sys2Proof.Word) : (c.setX d v).rings = c.rings := by unfold Core.setX; split <;> rfl
@[simp] theorem Core.setX_gauges (d : XReg) (v : Sys2Proof.Word) : (c.setX d v).gauges = c.gauges := by unfold Core.setX; split <;> rfl
@[simp] theorem Core.setX_dbase (d : XReg) (v : Sys2Proof.Word) : (c.setX d v).dbase = c.dbase := by unfold Core.setX; split <;> rfl
@[simp] theorem Core.setX_dszlog (d : XReg) (v : Sys2Proof.Word) : (c.setX d v).dszlog = c.dszlog := by unfold Core.setX; split <;> rfl
@[simp] theorem Core.setX_dn (d : XReg) (v : Sys2Proof.Word) : (c.setX d v).dn = c.dn := by unfold Core.setX; split <;> rfl
@[simp] theorem Core.setX_imem (d : XReg) (v : Sys2Proof.Word) : (c.setX d v).imem = c.imem := by unfold Core.setX; split <;> rfl
@[simp] theorem Core.setX_spad (d : XReg) (v : Sys2Proof.Word) : (c.setX d v).spad = c.spad := by unfold Core.setX; split <;> rfl
@[simp] theorem Core.setX_buffer (d : XReg) (v : Sys2Proof.Word) : (c.setX d v).buffer = c.buffer := by unfold Core.setX; split <;> rfl
@[simp] theorem Core.setX_panel (d : XReg) (v : Sys2Proof.Word) : (c.setX d v).panel = c.panel := by unfold Core.setX; split <;> rfl
@[simp] theorem Core.setX_season (d : XReg) (v : Sys2Proof.Word) : (c.setX d v).season = c.season := by unfold Core.setX; split <;> rfl
@[simp] theorem Core.setX_step (d : XReg) (v : Sys2Proof.Word) : (c.setX d v).step = c.step := by unfold Core.setX; split <;> rfl
@[simp] theorem Core.setX_lastJig (d : XReg) (v : Sys2Proof.Word) : (c.setX d v).lastJig = c.lastJig := by unfold Core.setX; split <;> rfl
@[simp] theorem Core.setX_testing (d : XReg) (v : Sys2Proof.Word) : (c.setX d v).testing = c.testing := by unfold Core.setX; split <;> rfl

@[simp] theorem Core.setX_s_pc (d : XReg) (v : Sys2Proof.Word) : (c.setX d v).s.pc = c.s.pc := by unfold Core.setX; split <;> rfl
@[simp] theorem Core.setX_s_st (d : XReg) (v : Sys2Proof.Word) : (c.setX d v).s.st = c.s.st := by unfold Core.setX; split <;> rfl
@[simp] theorem Core.setX_s_mode (d : XReg) (v : Sys2Proof.Word) : (c.setX d v).s.mode = c.s.mode := by unfold Core.setX; split <;> rfl
@[simp] theorem Core.setX_s_inHandler (d : XReg) (v : Sys2Proof.Word) : (c.setX d v).s.inHandler = c.s.inHandler := by unfold Core.setX; split <;> rfl
@[simp] theorem Core.setX_s_pendLost (d : XReg) (v : Sys2Proof.Word) : (c.setX d v).s.pendLost = c.s.pendLost := by unfold Core.setX; split <;> rfl
@[simp] theorem Core.setX_s_pendEng (d : XReg) (v : Sys2Proof.Word) : (c.setX d v).s.pendEng = c.s.pendEng := by unfold Core.setX; split <;> rfl
@[simp] theorem Core.setX_s_latch (d : XReg) (v : Sys2Proof.Word) : (c.setX d v).s.latch = c.s.latch := by unfold Core.setX; split <;> rfl
@[simp] theorem Core.setX_s_sst (d : XReg) (v : Sys2Proof.Word) : (c.setX d v).s.sst = c.s.sst := by unfold Core.setX; split <;> rfl
@[simp] theorem Core.setX_s_tstat (d : XReg) (v : Sys2Proof.Word) : (c.setX d v).s.tstat = c.s.tstat := by unfold Core.setX; split <;> rfl
@[simp] theorem Core.setX_s_schk (d : XReg) (v : Sys2Proof.Word) : (c.setX d v).s.schk = c.s.schk := by unfold Core.setX; split <;> rfl
@[simp] theorem Core.setX_s_tvec (d : XReg) (v : Sys2Proof.Word) : (c.setX d v).s.tvec = c.s.tvec := by unfold Core.setX; split <;> rfl
@[simp] theorem Core.setX_s_tepc (d : XReg) (v : Sys2Proof.Word) : (c.setX d v).s.tepc = c.s.tepc := by unfold Core.setX; split <;> rfl
@[simp] theorem Core.setX_s_tcause (d : XReg) (v : Sys2Proof.Word) : (c.setX d v).s.tcause = c.s.tcause := by unfold Core.setX; split <;> rfl
@[simp] theorem Core.setX_s_tval (d : XReg) (v : Sys2Proof.Word) : (c.setX d v).s.tval = c.s.tval := by unfold Core.setX; split <;> rfl
@[simp] theorem Core.setX_s_haz (d : XReg) (v : Sys2Proof.Word) : (c.setX d v).s.haz = c.s.haz := by unfold Core.setX; split <;> rfl
@[simp] theorem Core.setX_s_walk (d : XReg) (v : Sys2Proof.Word) : (c.setX d v).s.walk = c.s.walk := by unfold Core.setX; split <;> rfl
@[simp] theorem Core.setX_s_ready (d : XReg) (v : Sys2Proof.Word) : (c.setX d v).s.ready = c.s.ready := by unfold Core.setX; split <;> rfl
@[simp] theorem Core.setX_s_loads (d : XReg) (v : Sys2Proof.Word) : (c.setX d v).s.loads = c.s.loads := by unfold Core.setX; split <;> rfl
@[simp] theorem Core.setX_s_queue (d : XReg) (v : Sys2Proof.Word) : (c.setX d v).s.queue = c.s.queue := by unfold Core.setX; split <;> rfl
@[simp] theorem Core.setX_s_seq (d : XReg) (v : Sys2Proof.Word) : (c.setX d v).s.seq = c.s.seq := by unfold Core.setX; split <;> rfl
@[simp] theorem Core.setX_s_forkTab (d : XReg) (v : Sys2Proof.Word) : (c.setX d v).s.forkTab = c.s.forkTab := by unfold Core.setX; split <;> rfl
@[simp] theorem Core.setX_s_spill (d : XReg) (v : Sys2Proof.Word) : (c.setX d v).s.spill = c.s.spill := by unfold Core.setX; split <;> rfl
@[simp] theorem Core.setX_s_tags (d : XReg) (v : Sys2Proof.Word) : (c.setX d v).s.tags = c.s.tags := by unfold Core.setX; split <;> rfl

@[simp] theorem Core.setT_s (n : TReg) (t : Option Tok) : (c.setT n t).s = c.s := by unfold Core.setT; split <;> rfl
@[simp] theorem Core.setT_v (n : TReg) (t : Option Tok) : (c.setT n t).v = c.v := by unfold Core.setT; split <;> rfl
@[simp] theorem Core.setT_m (n : TReg) (t : Option Tok) : (c.setT n t).m = c.m := by unfold Core.setT; split <;> rfl
@[simp] theorem Core.setT_c (n : TReg) (t : Option Tok) : (c.setT n t).c = c.c := by unfold Core.setT; split <;> rfl
@[simp] theorem Core.setT_mtes (n : TReg) (t : Option Tok) : (c.setT n t).mtes = c.mtes := by unfold Core.setT; split <;> rfl
@[simp] theorem Core.setT_sems (n : TReg) (t : Option Tok) : (c.setT n t).sems = c.sems := by unfold Core.setT; split <;> rfl
@[simp] theorem Core.setT_waiters (n : TReg) (t : Option Tok) : (c.setT n t).waiters = c.waiters := by unfold Core.setT; split <;> rfl
@[simp] theorem Core.setT_fmt (n : TReg) (t : Option Tok) : (c.setT n t).fmt = c.fmt := by unfold Core.setT; split <;> rfl
@[simp] theorem Core.setT_rings (n : TReg) (t : Option Tok) : (c.setT n t).rings = c.rings := by unfold Core.setT; split <;> rfl
@[simp] theorem Core.setT_gauges (n : TReg) (t : Option Tok) : (c.setT n t).gauges = c.gauges := by unfold Core.setT; split <;> rfl
@[simp] theorem Core.setT_dbase (n : TReg) (t : Option Tok) : (c.setT n t).dbase = c.dbase := by unfold Core.setT; split <;> rfl
@[simp] theorem Core.setT_dszlog (n : TReg) (t : Option Tok) : (c.setT n t).dszlog = c.dszlog := by unfold Core.setT; split <;> rfl
@[simp] theorem Core.setT_dn (n : TReg) (t : Option Tok) : (c.setT n t).dn = c.dn := by unfold Core.setT; split <;> rfl
@[simp] theorem Core.setT_imem (n : TReg) (t : Option Tok) : (c.setT n t).imem = c.imem := by unfold Core.setT; split <;> rfl
@[simp] theorem Core.setT_spad (n : TReg) (t : Option Tok) : (c.setT n t).spad = c.spad := by unfold Core.setT; split <;> rfl
@[simp] theorem Core.setT_buffer (n : TReg) (t : Option Tok) : (c.setT n t).buffer = c.buffer := by unfold Core.setT; split <;> rfl
@[simp] theorem Core.setT_panel (n : TReg) (t : Option Tok) : (c.setT n t).panel = c.panel := by unfold Core.setT; split <;> rfl
@[simp] theorem Core.setT_season (n : TReg) (t : Option Tok) : (c.setT n t).season = c.season := by unfold Core.setT; split <;> rfl
@[simp] theorem Core.setT_step (n : TReg) (t : Option Tok) : (c.setT n t).step = c.step := by unfold Core.setT; split <;> rfl
@[simp] theorem Core.setT_lastJig (n : TReg) (t : Option Tok) : (c.setT n t).lastJig = c.lastJig := by unfold Core.setT; split <;> rfl
@[simp] theorem Core.setT_testing (n : TReg) (t : Option Tok) : (c.setT n t).testing = c.testing := by unfold Core.setT; split <;> rfl

@[simp] theorem Core.setA_s (n : AReg) (v : Sys2Proof.Word) (p : Bool) : (c.setA n v p).s = c.s := by unfold Core.setA; split <;> rfl
@[simp] theorem Core.setA_m (n : AReg) (v : Sys2Proof.Word) (p : Bool) : (c.setA n v p).m = c.m := by unfold Core.setA; split <;> rfl
@[simp] theorem Core.setA_c (n : AReg) (v : Sys2Proof.Word) (p : Bool) : (c.setA n v p).c = c.c := by unfold Core.setA; split <;> rfl
@[simp] theorem Core.setA_t (n : AReg) (v : Sys2Proof.Word) (p : Bool) : (c.setA n v p).t = c.t := by unfold Core.setA; split <;> rfl
@[simp] theorem Core.setA_mtes (n : AReg) (v : Sys2Proof.Word) (p : Bool) : (c.setA n v p).mtes = c.mtes := by unfold Core.setA; split <;> rfl
@[simp] theorem Core.setA_sems (n : AReg) (v : Sys2Proof.Word) (p : Bool) : (c.setA n v p).sems = c.sems := by unfold Core.setA; split <;> rfl
@[simp] theorem Core.setA_waiters (n : AReg) (v : Sys2Proof.Word) (p : Bool) : (c.setA n v p).waiters = c.waiters := by unfold Core.setA; split <;> rfl
@[simp] theorem Core.setA_fmt (n : AReg) (v : Sys2Proof.Word) (p : Bool) : (c.setA n v p).fmt = c.fmt := by unfold Core.setA; split <;> rfl
@[simp] theorem Core.setA_rings (n : AReg) (v : Sys2Proof.Word) (p : Bool) : (c.setA n v p).rings = c.rings := by unfold Core.setA; split <;> rfl
@[simp] theorem Core.setA_gauges (n : AReg) (v : Sys2Proof.Word) (p : Bool) : (c.setA n v p).gauges = c.gauges := by unfold Core.setA; split <;> rfl
@[simp] theorem Core.setA_dbase (n : AReg) (v : Sys2Proof.Word) (p : Bool) : (c.setA n v p).dbase = c.dbase := by unfold Core.setA; split <;> rfl
@[simp] theorem Core.setA_dszlog (n : AReg) (v : Sys2Proof.Word) (p : Bool) : (c.setA n v p).dszlog = c.dszlog := by unfold Core.setA; split <;> rfl
@[simp] theorem Core.setA_dn (n : AReg) (v : Sys2Proof.Word) (p : Bool) : (c.setA n v p).dn = c.dn := by unfold Core.setA; split <;> rfl
@[simp] theorem Core.setA_imem (n : AReg) (v : Sys2Proof.Word) (p : Bool) : (c.setA n v p).imem = c.imem := by unfold Core.setA; split <;> rfl
@[simp] theorem Core.setA_spad (n : AReg) (v : Sys2Proof.Word) (p : Bool) : (c.setA n v p).spad = c.spad := by unfold Core.setA; split <;> rfl
@[simp] theorem Core.setA_buffer (n : AReg) (v : Sys2Proof.Word) (p : Bool) : (c.setA n v p).buffer = c.buffer := by unfold Core.setA; split <;> rfl
@[simp] theorem Core.setA_panel (n : AReg) (v : Sys2Proof.Word) (p : Bool) : (c.setA n v p).panel = c.panel := by unfold Core.setA; split <;> rfl
@[simp] theorem Core.setA_season (n : AReg) (v : Sys2Proof.Word) (p : Bool) : (c.setA n v p).season = c.season := by unfold Core.setA; split <;> rfl
@[simp] theorem Core.setA_step (n : AReg) (v : Sys2Proof.Word) (p : Bool) : (c.setA n v p).step = c.step := by unfold Core.setA; split <;> rfl
@[simp] theorem Core.setA_lastJig (n : AReg) (v : Sys2Proof.Word) (p : Bool) : (c.setA n v p).lastJig = c.lastJig := by unfold Core.setA; split <;> rfl
@[simp] theorem Core.setA_testing (n : AReg) (v : Sys2Proof.Word) (p : Bool) : (c.setA n v p).testing = c.testing := by unfold Core.setA; split <;> rfl

@[simp] theorem Core.setP_s (n : PReg) (v : Sys2Proof.PWord) (p : Bool) : (c.setP n v p).s = c.s := by unfold Core.setP; split <;> rfl
@[simp] theorem Core.setP_m (n : PReg) (v : Sys2Proof.PWord) (p : Bool) : (c.setP n v p).m = c.m := by unfold Core.setP; split <;> rfl
@[simp] theorem Core.setP_c (n : PReg) (v : Sys2Proof.PWord) (p : Bool) : (c.setP n v p).c = c.c := by unfold Core.setP; split <;> rfl
@[simp] theorem Core.setP_t (n : PReg) (v : Sys2Proof.PWord) (p : Bool) : (c.setP n v p).t = c.t := by unfold Core.setP; split <;> rfl
@[simp] theorem Core.setP_mtes (n : PReg) (v : Sys2Proof.PWord) (p : Bool) : (c.setP n v p).mtes = c.mtes := by unfold Core.setP; split <;> rfl
@[simp] theorem Core.setP_sems (n : PReg) (v : Sys2Proof.PWord) (p : Bool) : (c.setP n v p).sems = c.sems := by unfold Core.setP; split <;> rfl
@[simp] theorem Core.setP_waiters (n : PReg) (v : Sys2Proof.PWord) (p : Bool) : (c.setP n v p).waiters = c.waiters := by unfold Core.setP; split <;> rfl
@[simp] theorem Core.setP_fmt (n : PReg) (v : Sys2Proof.PWord) (p : Bool) : (c.setP n v p).fmt = c.fmt := by unfold Core.setP; split <;> rfl
@[simp] theorem Core.setP_rings (n : PReg) (v : Sys2Proof.PWord) (p : Bool) : (c.setP n v p).rings = c.rings := by unfold Core.setP; split <;> rfl
@[simp] theorem Core.setP_gauges (n : PReg) (v : Sys2Proof.PWord) (p : Bool) : (c.setP n v p).gauges = c.gauges := by unfold Core.setP; split <;> rfl
@[simp] theorem Core.setP_dbase (n : PReg) (v : Sys2Proof.PWord) (p : Bool) : (c.setP n v p).dbase = c.dbase := by unfold Core.setP; split <;> rfl
@[simp] theorem Core.setP_dszlog (n : PReg) (v : Sys2Proof.PWord) (p : Bool) : (c.setP n v p).dszlog = c.dszlog := by unfold Core.setP; split <;> rfl
@[simp] theorem Core.setP_dn (n : PReg) (v : Sys2Proof.PWord) (p : Bool) : (c.setP n v p).dn = c.dn := by unfold Core.setP; split <;> rfl
@[simp] theorem Core.setP_imem (n : PReg) (v : Sys2Proof.PWord) (p : Bool) : (c.setP n v p).imem = c.imem := by unfold Core.setP; split <;> rfl
@[simp] theorem Core.setP_spad (n : PReg) (v : Sys2Proof.PWord) (p : Bool) : (c.setP n v p).spad = c.spad := by unfold Core.setP; split <;> rfl
@[simp] theorem Core.setP_buffer (n : PReg) (v : Sys2Proof.PWord) (p : Bool) : (c.setP n v p).buffer = c.buffer := by unfold Core.setP; split <;> rfl
@[simp] theorem Core.setP_panel (n : PReg) (v : Sys2Proof.PWord) (p : Bool) : (c.setP n v p).panel = c.panel := by unfold Core.setP; split <;> rfl
@[simp] theorem Core.setP_season (n : PReg) (v : Sys2Proof.PWord) (p : Bool) : (c.setP n v p).season = c.season := by unfold Core.setP; split <;> rfl
@[simp] theorem Core.setP_step (n : PReg) (v : Sys2Proof.PWord) (p : Bool) : (c.setP n v p).step = c.step := by unfold Core.setP; split <;> rfl
@[simp] theorem Core.setP_lastJig (n : PReg) (v : Sys2Proof.PWord) (p : Bool) : (c.setP n v p).lastJig = c.lastJig := by unfold Core.setP; split <;> rfl
@[simp] theorem Core.setP_testing (n : PReg) (v : Sys2Proof.PWord) (p : Bool) : (c.setP n v p).testing = c.testing := by unfold Core.setP; split <;> rfl

@[simp] theorem Core.setV_s (n : VReg) (v : Sys2Proof.VWord) (p : BitVec 16) : (c.setV n v p).s = c.s := rfl
@[simp] theorem Core.setV_m (n : VReg) (v : Sys2Proof.VWord) (p : BitVec 16) : (c.setV n v p).m = c.m := rfl
@[simp] theorem Core.setV_c (n : VReg) (v : Sys2Proof.VWord) (p : BitVec 16) : (c.setV n v p).c = c.c := rfl
@[simp] theorem Core.setV_t (n : VReg) (v : Sys2Proof.VWord) (p : BitVec 16) : (c.setV n v p).t = c.t := rfl
@[simp] theorem Core.setV_mtes (n : VReg) (v : Sys2Proof.VWord) (p : BitVec 16) : (c.setV n v p).mtes = c.mtes := rfl
@[simp] theorem Core.setV_sems (n : VReg) (v : Sys2Proof.VWord) (p : BitVec 16) : (c.setV n v p).sems = c.sems := rfl
@[simp] theorem Core.setV_waiters (n : VReg) (v : Sys2Proof.VWord) (p : BitVec 16) : (c.setV n v p).waiters = c.waiters := rfl
@[simp] theorem Core.setV_fmt (n : VReg) (v : Sys2Proof.VWord) (p : BitVec 16) : (c.setV n v p).fmt = c.fmt := rfl
@[simp] theorem Core.setV_rings (n : VReg) (v : Sys2Proof.VWord) (p : BitVec 16) : (c.setV n v p).rings = c.rings := rfl
@[simp] theorem Core.setV_gauges (n : VReg) (v : Sys2Proof.VWord) (p : BitVec 16) : (c.setV n v p).gauges = c.gauges := rfl
@[simp] theorem Core.setV_dbase (n : VReg) (v : Sys2Proof.VWord) (p : BitVec 16) : (c.setV n v p).dbase = c.dbase := rfl
@[simp] theorem Core.setV_dszlog (n : VReg) (v : Sys2Proof.VWord) (p : BitVec 16) : (c.setV n v p).dszlog = c.dszlog := rfl
@[simp] theorem Core.setV_dn (n : VReg) (v : Sys2Proof.VWord) (p : BitVec 16) : (c.setV n v p).dn = c.dn := rfl
@[simp] theorem Core.setV_imem (n : VReg) (v : Sys2Proof.VWord) (p : BitVec 16) : (c.setV n v p).imem = c.imem := rfl
@[simp] theorem Core.setV_spad (n : VReg) (v : Sys2Proof.VWord) (p : BitVec 16) : (c.setV n v p).spad = c.spad := rfl
@[simp] theorem Core.setV_buffer (n : VReg) (v : Sys2Proof.VWord) (p : BitVec 16) : (c.setV n v p).buffer = c.buffer := rfl
@[simp] theorem Core.setV_panel (n : VReg) (v : Sys2Proof.VWord) (p : BitVec 16) : (c.setV n v p).panel = c.panel := rfl
@[simp] theorem Core.setV_season (n : VReg) (v : Sys2Proof.VWord) (p : BitVec 16) : (c.setV n v p).season = c.season := rfl
@[simp] theorem Core.setV_step (n : VReg) (v : Sys2Proof.VWord) (p : BitVec 16) : (c.setV n v p).step = c.step := rfl
@[simp] theorem Core.setV_lastJig (n : VReg) (v : Sys2Proof.VWord) (p : BitVec 16) : (c.setV n v p).lastJig = c.lastJig := rfl
@[simp] theorem Core.setV_testing (n : VReg) (v : Sys2Proof.VWord) (p : BitVec 16) : (c.setV n v p).testing = c.testing := rfl

@[simp] theorem Core.oox_v (b : Bool) : (c.oox b).v = c.v := by unfold Core.oox; split <;> rfl
@[simp] theorem Core.oox_m (b : Bool) : (c.oox b).m = c.m := by unfold Core.oox; split <;> rfl
@[simp] theorem Core.oox_c (b : Bool) : (c.oox b).c = c.c := by unfold Core.oox; split <;> rfl
@[simp] theorem Core.oox_t (b : Bool) : (c.oox b).t = c.t := by unfold Core.oox; split <;> rfl
@[simp] theorem Core.oox_mtes (b : Bool) : (c.oox b).mtes = c.mtes := by unfold Core.oox; split <;> rfl
@[simp] theorem Core.oox_sems (b : Bool) : (c.oox b).sems = c.sems := by unfold Core.oox; split <;> rfl
@[simp] theorem Core.oox_waiters (b : Bool) : (c.oox b).waiters = c.waiters := by unfold Core.oox; split <;> rfl
@[simp] theorem Core.oox_fmt (b : Bool) : (c.oox b).fmt = c.fmt := by unfold Core.oox; split <;> rfl
@[simp] theorem Core.oox_rings (b : Bool) : (c.oox b).rings = c.rings := by unfold Core.oox; split <;> rfl
@[simp] theorem Core.oox_gauges (b : Bool) : (c.oox b).gauges = c.gauges := by unfold Core.oox; split <;> rfl
@[simp] theorem Core.oox_dbase (b : Bool) : (c.oox b).dbase = c.dbase := by unfold Core.oox; split <;> rfl
@[simp] theorem Core.oox_dszlog (b : Bool) : (c.oox b).dszlog = c.dszlog := by unfold Core.oox; split <;> rfl
@[simp] theorem Core.oox_dn (b : Bool) : (c.oox b).dn = c.dn := by unfold Core.oox; split <;> rfl
@[simp] theorem Core.oox_imem (b : Bool) : (c.oox b).imem = c.imem := by unfold Core.oox; split <;> rfl
@[simp] theorem Core.oox_spad (b : Bool) : (c.oox b).spad = c.spad := by unfold Core.oox; split <;> rfl
@[simp] theorem Core.oox_buffer (b : Bool) : (c.oox b).buffer = c.buffer := by unfold Core.oox; split <;> rfl
@[simp] theorem Core.oox_panel (b : Bool) : (c.oox b).panel = c.panel := by unfold Core.oox; split <;> rfl
@[simp] theorem Core.oox_season (b : Bool) : (c.oox b).season = c.season := by unfold Core.oox; split <;> rfl
@[simp] theorem Core.oox_step (b : Bool) : (c.oox b).step = c.step := by unfold Core.oox; split <;> rfl
@[simp] theorem Core.oox_lastJig (b : Bool) : (c.oox b).lastJig = c.lastJig := by unfold Core.oox; split <;> rfl
@[simp] theorem Core.oox_testing (b : Bool) : (c.oox b).testing = c.testing := by unfold Core.oox; split <;> rfl

@[simp] theorem Core.dscw_v (b : Bool) : (c.dscw b).v = c.v := by unfold Core.dscw; split <;> rfl
@[simp] theorem Core.dscw_m (b : Bool) : (c.dscw b).m = c.m := by unfold Core.dscw; split <;> rfl
@[simp] theorem Core.dscw_c (b : Bool) : (c.dscw b).c = c.c := by unfold Core.dscw; split <;> rfl
@[simp] theorem Core.dscw_t (b : Bool) : (c.dscw b).t = c.t := by unfold Core.dscw; split <;> rfl
@[simp] theorem Core.dscw_mtes (b : Bool) : (c.dscw b).mtes = c.mtes := by unfold Core.dscw; split <;> rfl
@[simp] theorem Core.dscw_sems (b : Bool) : (c.dscw b).sems = c.sems := by unfold Core.dscw; split <;> rfl
@[simp] theorem Core.dscw_waiters (b : Bool) : (c.dscw b).waiters = c.waiters := by unfold Core.dscw; split <;> rfl
@[simp] theorem Core.dscw_fmt (b : Bool) : (c.dscw b).fmt = c.fmt := by unfold Core.dscw; split <;> rfl
@[simp] theorem Core.dscw_rings (b : Bool) : (c.dscw b).rings = c.rings := by unfold Core.dscw; split <;> rfl
@[simp] theorem Core.dscw_gauges (b : Bool) : (c.dscw b).gauges = c.gauges := by unfold Core.dscw; split <;> rfl
@[simp] theorem Core.dscw_dbase (b : Bool) : (c.dscw b).dbase = c.dbase := by unfold Core.dscw; split <;> rfl
@[simp] theorem Core.dscw_dszlog (b : Bool) : (c.dscw b).dszlog = c.dszlog := by unfold Core.dscw; split <;> rfl
@[simp] theorem Core.dscw_dn (b : Bool) : (c.dscw b).dn = c.dn := by unfold Core.dscw; split <;> rfl
@[simp] theorem Core.dscw_imem (b : Bool) : (c.dscw b).imem = c.imem := by unfold Core.dscw; split <;> rfl
@[simp] theorem Core.dscw_spad (b : Bool) : (c.dscw b).spad = c.spad := by unfold Core.dscw; split <;> rfl
@[simp] theorem Core.dscw_buffer (b : Bool) : (c.dscw b).buffer = c.buffer := by unfold Core.dscw; split <;> rfl
@[simp] theorem Core.dscw_panel (b : Bool) : (c.dscw b).panel = c.panel := by unfold Core.dscw; split <;> rfl
@[simp] theorem Core.dscw_season (b : Bool) : (c.dscw b).season = c.season := by unfold Core.dscw; split <;> rfl
@[simp] theorem Core.dscw_step (b : Bool) : (c.dscw b).step = c.step := by unfold Core.dscw; split <;> rfl
@[simp] theorem Core.dscw_lastJig (b : Bool) : (c.dscw b).lastJig = c.lastJig := by unfold Core.dscw; split <;> rfl
@[simp] theorem Core.dscw_testing (b : Bool) : (c.dscw b).testing = c.testing := by unfold Core.dscw; split <;> rfl

@[simp] theorem Core.advance_pc : c.advance.s.pc = c.s.pc + 4#16 := rfl
@[simp] theorem Core.advance_st : c.advance.s.st = .running := rfl
@[simp] theorem Core.jumpTo_pc (a : BitVec 16) : (c.jumpTo a).s.pc = a &&& 0xFFFC#16 := rfl
@[simp] theorem Core.jumpTo_st (a : BitVec 16) : (c.jumpTo a).s.st = .running := rfl
@[simp] theorem Core.waitS_st (w : WaitOn) : (c.waitS w).s.st = .waiting w := rfl
@[simp] theorem Core.orSst_sst (w : Sys2Proof.Word) : (c.orSst w).s.sst = c.s.sst ||| w := rfl

/-- A core after one is replaced. -/
theorem State.core_setCore (k : Nat) (d : Core) (j : Nat) : (s.setCore k d).core j = if j = k then d else s.core j :=
  Sparse.get_put _ _ _ _

@[simp] theorem State.core_setCore_self (k : Nat) (d : Core) : (s.setCore k d).core k = d := by
  simp [State.core_setCore]

theorem State.core_onCore (k : Nat) (f : Core → Core) (j : Nat) :
    (s.onCore k f).core j = if j = k then f (s.core k) else s.core j := State.core_setCore s k (f (s.core k)) j

@[simp] theorem State.core_onCore_self (k : Nat) (f : Core → Core) : (s.onCore k f).core k = f (s.core k) := by
  simp [State.core_onCore]

@[simp] theorem State.setMe_curN (d : Core) : (s.setMe d).curN = s.curN := rfl
@[simp] theorem State.setCore_curN (k : Nat) (d : Core) : (s.setCore k d).curN = s.curN := rfl
@[simp] theorem State.onCore_curN (k : Nat) (f : Core → Core) : (s.onCore k f).curN = s.curN := rfl
@[simp] theorem State.tell_core (e : BenchEvent) (k : Nat) : (s.tell e).core k = s.core k := rfl
@[simp] theorem State.setPanel_core (b : Nat) (p : Panel) (k : Nat) : (s.setPanel b p).core k = s.core k := rfl
@[simp] theorem State.tell_me (e : BenchEvent) : (s.tell e).me = s.me := rfl
@[simp] theorem State.setPanel_me (b : Nat) (p : Panel) : (s.setPanel b p).me = s.me := rfl

@[simp] theorem State.me_setMe (d : Core) : (s.setMe d).me = d := State.core_setCore_self s s.curN d

theorem State.core_setMe (d : Core) (j : Nat) : (s.setMe d).core j = if j = s.curN then d else s.core j :=
  State.core_setCore s s.curN d j

theorem State.panel_setPanel (b : Nat) (p : Panel) (j : Nat) :
    (s.setPanel b p).panel j = if j = b then p else s.panel j := Sparse.get_put _ _ _ _

/-- Replacing a core twice. -/
theorem State.setMe_eq_setCore (d : Core) : s.setMe d = s.setCore s.curN d := rfl

/-- An x register after a write; x0 goes on reading zero (R17). -/
theorem Core.xr_setX (d : XReg) (v : Sys2Proof.Word) (n : XReg) :
    (c.setX d v).xr n = if n = d ∧ d ≠ 0#6 then v else c.xr n := by
  unfold Core.setX Core.xr
  by_cases hd : d = 0#6
  · simp [hd]
  · by_cases hn : n = 0#6
    · subst hn; simp [hd, Ne.symm hd]
    · simp only [hd, hn, if_false, Core.onS, Sparse.get_put, ne_eq, not_false_eq_true, and_true, BitVec.toNat_inj]

/-- A mortise register after a write; t0 goes on reading null (R17). -/
theorem Core.tr_setT (d : TReg) (v : Option Tok) (n : TReg) :
    (c.setT d v).tr n = if n = d ∧ d ≠ 0#5 then v else c.tr n := by
  unfold Core.setT Core.tr
  by_cases hd : d = 0#5
  · simp [hd]
  · by_cases hn : n = 0#5
    · subst hn; simp [hd, Ne.symm hd]
    · simp only [hd, hn, if_false, Sparse.get_put, ne_eq, not_false_eq_true, and_true, BitVec.toNat_inj]

/-- An a-register after a write; a0 goes on reading zero (R17). -/
theorem Core.ar_setA (d : AReg) (v : Sys2Proof.Word) (p : Bool) (n : AReg) :
    (c.setA d v p).ar n = if n = d ∧ d ≠ 0#4 then v else c.ar n := by
  unfold Core.setA Core.ar
  by_cases hd : d = 0#4
  · simp [hd]
  · by_cases hn : n = 0#4
    · subst hn; simp [hd, Ne.symm hd]
    · simp only [hd, hn, if_false, Core.onV, Sparse.get_put, ne_eq, not_false_eq_true, and_true, BitVec.toNat_inj]

/-- A predicate register after a write; p0 goes on reading ones (R17). -/
theorem Core.pr_setP (d : PReg) (v : Sys2Proof.PWord) (p : Bool) (n : PReg) :
    (c.setP d v p).pr n = if n = d ∧ d ≠ 0#5 then v else c.pr n := by
  unfold Core.setP Core.pr
  by_cases hd : d = 0#5
  · simp [hd]
  · by_cases hn : n = 0#5
    · subst hn; simp [hd, Ne.symm hd]
    · simp only [hd, hn, if_false, Core.onV, Sparse.get_put, ne_eq, not_false_eq_true, and_true, BitVec.toNat_inj]

/-- A v register after a write. -/
theorem Core.vr_setV (d : VReg) (v : Sys2Proof.VWord) (p : BitVec 16) (n : VReg) :
    (c.setV d v p).vr n = if n = d then v else c.vr n := by
  simp only [Core.setV, Core.vr, Core.onV, Sparse.get_put, BitVec.toNat_inj]

/-- A v register's poison after a write. -/
theorem Core.vpois_setV (d : VReg) (v : Sys2Proof.VWord) (p : BitVec 16) (n : VReg) :
    (c.setV d v p).vpois n = if n = d then p else c.vpois n := by
  simp only [Core.setV, Core.vpois, Core.onV, Sparse.get_put, BitVec.toNat_inj]

@[simp] theorem Core.xr_zero : c.xr 0#6 = 0 := by simp [Core.xr]
@[simp] theorem Core.tr_zero : c.tr 0#5 = none := by simp [Core.tr]
@[simp] theorem Core.ar_zero : c.ar 0#4 = 0 := by simp [Core.ar]
@[simp] theorem Core.xr_advance (n : XReg) : c.advance.xr n = c.xr n := rfl
@[simp] theorem Core.xr_jumpTo (a : BitVec 16) (n : XReg) : (c.jumpTo a).xr n = c.xr n := rfl
@[simp] theorem Core.xr_waitS (w : WaitOn) (n : XReg) : (c.waitS w).xr n = c.xr n := rfl
@[simp] theorem Core.xr_orSst (w : Sys2Proof.Word) (n : XReg) : (c.orSst w).xr n = c.xr n := rfl

/-- A register's value and everything else of the core after `setX`. -/
theorem Core.setX_eq (d : XReg) (v : Sys2Proof.Word) : c.setX d v = { c with s := { c.s with x := (c.setX d v).s.x } } := by
  unfold Core.setX; split <;> rfl

end Sys2Proof.Machine
end

