-- ==== Sys2Proof/Laws/Memory.lean ====
section
/-! SUPPORT. Memory keeps its canonical form under every operation over it, and reading after a write. -/

namespace Sys2Proof.Machine

open Sys2Proof

theorem Store.wf_iff (m : Store) :
    m.wf = true ↔ Sparse.wf 0 m.bytes = true ∧ Sparse.wf false m.pois = true ∧ Sparse.wf none m.chk = true ∧
      Sparse.wf none m.tags = true := by
  simp [Store.wf, and_assoc]

theorem Memory.wf_iff (m : Mem) :
    Memory.wf m = true ↔ m.dev.wf = true ∧ m.host.wf = true ∧ m.hcopy.wf = true ∧ Sparse.wf false m.hheld = true ∧
      Sparse.wf false m.hdirty = true ∧ Sparse.wf [] m.hstored = true ∧ Sparse.wf none m.walkCache = true ∧ Sparse.wf {} m.clamp = true ∧ Sparse.wf {} m.hclamp = true ∧
      Sparse.wf false m.retired = true ∧ Sparse.wf 0 m.rows = true := by
  simp [Memory.wf, and_assoc]

/-- The memory, and the scratchpad, the V part of the spill store and the templates of every core, are canonical. -/
def State.MemOk (s : State) : Prop :=
  Memory.wf s.mem = true ∧ ∀ k, (s.core k).spad.wf = true ∧ (s.core k).v.spill.wf = true ∧ Sparse.wf 0 (s.core k).c.templates = true

/-- Memory after reset. -/
theorem memOk_reset : State.reset.MemOk := by
  refine ⟨by decide, fun k => ?_⟩
  have h : State.reset.core k = {} := by rfl
  rw [h]; decide

theorem Store.wf_poisonSector {m : Store} (q : Nat) (h : m.wf = true) : (m.poisonSector q).wf = true := by
  rw [Store.wf_iff] at *
  exact ⟨h.1, Sparse.wf_putList _ _ h.2.1, Sparse.wf_put q none h.2.2.1, h.2.2.2⟩

theorem Store.wf_put {m : Store} (a : Nat) (d : List PByte) (h : m.wf = true) : (m.put a d).wf = true := by
  rw [Store.wf_iff] at *
  exact ⟨Sparse.wf_putList _ _ h.1, Sparse.wf_putList _ _ h.2.1, Sparse.wf_filter _ h.2.2.1, h.2.2.2⟩

theorem wf_sectorMarks {p : Sparse Bool} (mask bytewise : Bool) (q a : Nat) (d : List PByte) (h : Sparse.wf false p = true) :
    Sparse.wf false (sectorMarks mask bytewise p q a d) = true := by
  unfold sectorMarks
  dsimp only
  repeat' split
  all_goals first | exact Sparse.wf_putList _ _ h | exact h

/-- A fold keeps what its step keeps. -/
theorem foldl_keeps {α β : Type} {P : α → Prop} {f : α → β → α} (hf : ∀ a b, P a → P (f a b)) (l : List β) (a : α)
    (h : P a) : P (l.foldl f a) := List.foldlRecOn l f h (fun x hx b _ => hf x b hx)

theorem Store.wf_write {m : Store} (mask : Bool) (a : Nat) (d : List PByte) (h : m.wf = true) (bytewise : Bool := false) :
    (m.write mask a d bytewise).wf = true := by
  rw [Store.wf_iff] at *
  refine ⟨Sparse.wf_putList _ _ h.1, ?_, Sparse.wf_filter _ h.2.2.1, h.2.2.2⟩
  simp only [Store.write]
  split
  · exact h.2.1
  · exact foldl_keeps (P := fun p => Sparse.wf false p = true) (fun p i hp => wf_sectorMarks mask bytewise _ a d hp) _ _ h.2.1

theorem wf_storeOf {s : State} (h : s.MemOk) (e : Site) : (s.storeOf e).wf = true := by
  have hm := (Memory.wf_iff s.mem).1 h.1
  cases e with
  | dev => exact hm.1
  | host => exact hm.2.1
  | copy => exact hm.2.2.1
  | sp k => exact (h.2 k).1
  | spill k => exact (h.2 k).2.1
  | tmpl k => exact (Store.wf_iff _).2 ⟨(h.2 k).2.2, rfl, rfl, rfl⟩

/-- A core's own storages replaced by canonical ones. -/
theorem memOk_onCore {s : State} (h : s.MemOk) (k : Nat) (f : Core → Core)
    (hf : (f (s.core k)).spad.wf = true ∧ (f (s.core k)).v.spill.wf = true ∧ Sparse.wf 0 (f (s.core k)).c.templates = true) :
    (s.onCore k f).MemOk := by
  refine ⟨h.1, fun j => ?_⟩
  rw [State.core_onCore]
  split
  · exact hf
  · exact h.2 j

theorem memOk_setStoreOf {s : State} (h : s.MemOk) (e : Site) {m : Store} (hm : m.wf = true) : (s.setStoreOf e m).MemOk := by
  have hs := (Memory.wf_iff s.mem).1 h.1
  cases e with
  | dev => exact ⟨(Memory.wf_iff _).2 ⟨hm, hs.2⟩, h.2⟩
  | host => exact ⟨(Memory.wf_iff _).2 ⟨hs.1, hm, hs.2.2⟩, h.2⟩
  | copy => exact ⟨(Memory.wf_iff _).2 ⟨hs.1, hs.2.1, hm, hs.2.2.2⟩, h.2⟩
  | sp k => exact memOk_onCore h k _ ⟨hm, (h.2 k).2⟩
  | spill k => exact memOk_onCore h k _ ⟨(h.2 k).1, hm, (h.2 k).2.2⟩
  | tmpl k => exact memOk_onCore h k _ ⟨(h.2 k).1, (h.2 k).2.1, ((Store.wf_iff m).1 hm).1⟩

theorem memOk_tell {s : State} (h : s.MemOk) (e : BenchEvent) : (s.tell e).MemOk := h

theorem memOk_verify {s : State} (h : s.MemOk) (e : Site) (a n : Nat) : (s.verify e a n).MemOk :=
  foldl_keeps (P := fun t : State => t.MemOk)
    (fun _ q ht => memOk_tell (memOk_setStoreOf ht e (Store.wf_poisonSector q (wf_storeOf ht e))) _) _ _ h

theorem memOk_rawGet {s : State} (h : s.MemOk) (e : Site) (a n : Nat) : (s.rawGet e a n).1.MemOk := memOk_verify h e a n

theorem memOk_noteWindow {s : State} (h : s.MemOk) (a z : Nat) : (s.noteWindow a z).MemOk := h

theorem memOk_rawPut {s : State} (h : s.MemOk) (e : Site) (a : Nat) (d : List PByte) (bytewise : Bool := false) :
    (s.rawPut e a d bytewise).MemOk := by
  unfold State.rawPut
  split
  · exact h
  · dsimp only
    have h1 : ∀ {t : State}, t.MemOk → (if a % 32 = 0 then t else t.verify e a 1).MemOk := by
      intro t ht; split
      · exact ht
      · exact memOk_verify ht e a 1
    have h2 : ∀ {t : State}, t.MemOk →
        (if (a + d.length) % 32 = 0 then t else t.verify e (a + d.length - 1) 1).MemOk := by
      intro t ht; split
      · exact ht
      · exact memOk_verify ht e _ 1
    have h3 := h2 (h1 h)
    have h4 := memOk_setStoreOf h3 e (Store.wf_write e.masked a d (wf_storeOf h3 e) bytewise)
    cases e with
    | dev => dsimp only; split
             · exact memOk_noteWindow h4 _ _
             · exact h4
    | host => exact h4
    | copy => exact h4
    | sp k => exact h4
    | spill k => exact h4
    | tmpl k => exact h4

theorem wf_setMig {m : Mem} (h : Memory.wf m = true) (u : Nat) (mig old : Bool) (peer : Nat) :
    Memory.wf (m.setMig u mig old peer) = true := by
  rw [Memory.wf_iff] at h ⊢
  obtain ⟨h1, h2, h3, h4, h5, h6, h7, h8, h9⟩ := h
  exact ⟨h1, h2, h3, h4, h5, h6, h7, Sparse.wf_put _ _ h8, h9⟩

theorem memOk_withMem {s : State} (h : s.MemOk) {m : Mem} (hm : Memory.wf m = true) : State.MemOk { s with mem := m } :=
  ⟨hm, h.2⟩

/-- Dropping an entry of the walk cache, and changing what is not listed by key, keeps the form. -/
theorem wf_uncached {m : Mem} (h : Memory.wf m = true) (a : Nat) (mig : List MigPair) :
    Memory.wf { m with mig := mig, walkCache := Sparse.put none (Sparse.put none m.walkCache a none) (a + 1) none } = true := by
  rw [Memory.wf_iff] at h ⊢
  obtain ⟨h1, h2, h3, h4, h5, h6, h7, h8⟩ := h
  exact ⟨h1, h2, h3, h4, h5, h6, Sparse.wf_put _ none (Sparse.wf_put _ none h7), h8⟩

theorem memOk_finishMig {s : State} (h : s.MemOk) (p : MigPair) : (s.finishMig p).MemOk := by
  unfold State.finishMig
  dsimp only
  have h1 := memOk_rawPut (memOk_rawGet h .dev (s.home p.leafPa) 1) .dev (s.home p.leafPa)
    ((s.rawGet .dev (s.home p.leafPa) 1).2.map (fun c => (c.1 &&& 0xDF#8, c.2)))
  refine foldl_keeps (P := fun t : State => t.MemOk) (fun t u ht => memOk_tell ht _) _ _ (memOk_withMem h1 (wf_uncached ?_ _ _))
  exact foldl_keeps (P := fun m => Memory.wf m = true)
    (fun m u hm => foldl_keeps (P := fun m => Memory.wf m = true) (fun m i hm => wf_setMig hm _ _ _ _) _ _ hm) _ _ h1.1

theorem Store.wf_copyLine {m : Store} (o n : Nat) (h : m.wf = true) : (m.copyLine o n).wf = true := by
  have hp := (Store.wf_iff _).1 (Store.wf_put n (m.get o 128) h)
  refine (Store.wf_iff _).2 ⟨hp.1, hp.2.1, ?_, ?_⟩
  · exact foldl_keeps (P := fun k => Sparse.wf (none : Option (BitVec 16)) k = true) (fun k i hk => Sparse.wf_put _ _ hk) _ _ hp.2.2.1
  · exact foldl_keeps (P := fun k => Sparse.wf (none : Option (BitVec 512)) k = true) (fun k i hk => Sparse.wf_put _ _ hk) _ _ hp.2.2.2

theorem memOk_withDev {s : State} (h : s.MemOk) {d : Store} (hd : d.wf = true) (mig : List MigPair) :
    State.MemOk { s with mem := { s.mem with dev := d, mig := mig } } :=
  memOk_withMem h ((Memory.wf_iff _).2 ⟨hd, ((Memory.wf_iff s.mem).1 h.1).2⟩)

theorem memOk_pullLine {s : State} (h : s.MemOk) (p : MigPair) (l : Nat) : (s.pullLine p l).MemOk := by
  unfold State.pullLine
  split
  · exact h
  · have h1 := memOk_withDev h (Store.wf_copyLine (p.source l * 65536 + 128 * l) (p.newUnit * 65536 + 128 * l) (wf_storeOf h .dev))
    dsimp only
    split
    · exact memOk_finishMig (h1 _) _
    · exact h1 _

theorem memOk_touchLine {s : State} (h : s.MemOk) (a : Nat) : (s.touchLine a).MemOk := by
  unfold State.touchLine
  split
  · exact h
  · split
    · exact memOk_pullLine h _ _
    · exact h

theorem Store.wf_rekey {m : Store} (k : BitVec 512) (q : Nat) (h : m.wf = true) : (m.rekey k q).wf = true := by
  rw [Store.wf_iff] at h ⊢
  exact ⟨Sparse.wf_putList _ _ h.1, h.2⟩

/-- Encrypting anew the blocks that a write meets keeps the form. -/
theorem Store.wf_turn {m : Store} (k : Option (BitVec 512)) (a n : Nat) (h : m.wf = true) : (m.turn k a n).wf = true := by
  cases k with
  | none => exact h
  | some k =>
    have h1 := (Store.wf_iff _).1 (foldl_keeps (P := fun m : Store => m.wf = true) (fun m q hm => Store.wf_rekey k q hm) (partBlocks a n) m h)
    exact (Store.wf_iff _).2 ⟨h1.1, h1.2.1, h1.2.2.1, Sparse.wf_putList _ _ ((Store.wf_iff m).1 h).2.2.2⟩

theorem memOk_keyGet {s : State} (h : s.MemOk) (a n : Nat) (k : Option (BitVec 13)) : (s.keyGet a n k).1.MemOk :=
  memOk_rawGet h .dev a n

theorem memOk_keyPut {s : State} (h : s.MemOk) (a : Nat) (d : List PByte) (k : Option (BitVec 13)) (bytewise : Bool := false) :
    (s.keyPut a d k bytewise).MemOk := by
  unfold State.keyPut
  split
  · exact memOk_rawPut h .dev a d bytewise
  · have hm := (Memory.wf_iff s.mem).1 h.1
    have hw : Memory.wf { s.mem with dev := s.mem.dev.turn (s.keyIn k) a d.length } = true :=
      (Memory.wf_iff _).2 ⟨Store.wf_turn _ _ _ hm.1, hm.2⟩
    exact memOk_rawPut (memOk_withMem h hw) .dev a d bytewise

theorem memOk_devGet {s : State} (h : s.MemOk) (a n : Nat) (q : Option (BitVec 13)) : (s.devGet a n q).1.MemOk := by
  unfold State.devGet
  split
  · exact memOk_keyGet h a n q
  · refine foldl_keeps (P := fun x : State × List PByte => x.1.MemOk) ?_ _ _ h
    rintro ⟨t, d⟩ ⟨b, k⟩ ht
    exact memOk_keyGet (memOk_touchLine ht b) _ k q

theorem memOk_devPut {s : State} (h : s.MemOk) (a : Nat) (d : List PByte) (q : Option (BitVec 13)) (bytewise : Bool := false) :
    (s.devPut a d q bytewise).MemOk := by
  unfold State.devPut
  split
  · exact memOk_keyPut h a d q bytewise
  · refine foldl_keeps (P := fun x : State => x.MemOk) ?_ _ _ h
    rintro t ⟨b, k⟩ ht
    exact memOk_keyPut (memOk_touchLine ht b) _ _ q bytewise

/-- The tables of device-side copies replaced by canonical ones. -/
theorem memOk_withCopies {s : State} (h : s.MemOk) {c : Store} {held dirty : Sparse Bool} {st : Sparse (List Nat)} (hc : c.wf = true)
    (hh : Sparse.wf false held = true) (hd : Sparse.wf false dirty = true) (hs : Sparse.wf [] st = true) :
    State.MemOk { s with mem := { s.mem with hcopy := c, hheld := held, hdirty := dirty, hstored := st } } := by
  have hm := (Memory.wf_iff s.mem).1 h.1
  exact memOk_withMem h ((Memory.wf_iff _).2 ⟨hm.1, hm.2.1, hc, hh, hd, hs, hm.2.2.2.2.2.2⟩)

/-- What the canonical form says of the device-side copies. -/
theorem wf_copies {s : State} (h : s.MemOk) : s.mem.hcopy.wf = true ∧ Sparse.wf false s.mem.hheld = true ∧
    Sparse.wf false s.mem.hdirty = true ∧ Sparse.wf [] s.mem.hstored = true := by
  have hm := (Memory.wf_iff s.mem).1 h.1
  exact ⟨hm.2.2.1, hm.2.2.2.1, hm.2.2.2.2.1, hm.2.2.2.2.2.1⟩

theorem memOk_fetchLine {s : State} (h : s.MemOk) (l : Nat) : (s.fetchLine l).MemOk := by
  unfold State.fetchLine
  split
  · exact h
  · have c := wf_copies h
    exact memOk_withCopies h (Store.wf_put _ _ c.1) (Sparse.wf_put _ _ c.2.1) c.2.2.1 c.2.2.2

theorem memOk_hostGet {s : State} (h : s.MemOk) (a n : Nat) : (s.hostGet a n).1.MemOk := by
  unfold State.hostGet
  refine foldl_keeps (P := fun x : State × List PByte => x.1.MemOk) ?_ _ _ h
  rintro ⟨t, d⟩ ⟨b, k⟩ ht
  exact memOk_rawGet (memOk_fetchLine ht _) .copy b k

theorem memOk_markStored {s : State} (h : s.MemOk) (a n : Nat) : (s.markStored a n).MemOk := by
  have c := wf_copies h
  exact memOk_withCopies h c.1 c.2.1 (Sparse.wf_putList _ _ c.2.2.1) c.2.2.2

theorem memOk_hostPut {s : State} (h : s.MemOk) (a : Nat) (d : List PByte) : (s.hostPut a d).MemOk := by
  unfold State.hostPut
  refine foldl_keeps (P := fun x : State => x.MemOk) ?_ _ _ h
  rintro t ⟨b, k⟩ ht
  exact memOk_markStored (memOk_rawPut (memOk_fetchLine ht _) .copy b _) b k

theorem memOk_noteStored {s : State} (h : s.MemOk) (k a n : Nat) : (s.noteStored k a n).MemOk := by
  have c := wf_copies h
  refine memOk_withCopies h c.1 c.2.1 c.2.2.1 (foldl_keeps (P := fun m => Sparse.wf ([] : List Nat) m = true) ?_ _ _ c.2.2.2)
  rintro m ⟨b, _⟩ hm
  dsimp only
  split
  · exact hm
  · exact Sparse.wf_put _ _ hm

theorem memOk_cleanLine {s : State} (h : s.MemOk) (l : Nat) : (s.cleanLine l).MemOk := by
  have c := wf_copies h
  exact memOk_withCopies h c.1 c.2.1 (Sparse.wf_putList _ _ c.2.2.1) (Sparse.wf_put _ _ c.2.2.2)

theorem memOk_dropLine {s : State} (h : s.MemOk) (l : Nat) : (s.dropLine l).MemOk := by
  have c := wf_copies (memOk_cleanLine h l)
  exact memOk_withCopies (memOk_cleanLine h l) (Store.wf_put _ _ c.1) (Sparse.wf_put _ _ c.2.1) c.2.2.1 c.2.2.2

theorem memOk_freeBytes : ∀ (n : Nat) {s : State}, s.MemOk → (s.freeBytes n).1.MemOk
  | 0, _, h => h
  | n + 1, s, h => memOk_freeBytes n (s := s.draw.2) h

theorem memOk_writeBackSector {s : State} (h : s.MemOk) (a : Nat) : (s.writeBackSector a).MemOk := by
  unfold State.writeBackSector
  extract_lets d
  split
  · exact memOk_tell (memOk_rawPut (memOk_freeBytes 32 h) .host _ _) _
  · refine foldl_keeps (P := fun x : State => x.MemOk) ?_ _ _ h
    rintro t ⟨c, i⟩ ht
    dsimp only
    split
    · exact memOk_rawPut ht .host _ _
    · exact ht

theorem memOk_writeBackLine {s : State} (h : s.MemOk) (l : Nat) : (s.writeBackLine l).MemOk := by
  unfold State.writeBackLine
  split
  · exact memOk_cleanLine (foldl_keeps (P := fun x : State => x.MemOk) (fun t q ht => memOk_writeBackSector ht _) _ _
      (memOk_verify h .copy _ _)) l
  · exact h

/-- Every read of a site keeps the canonical form. -/
theorem memOk_readAt {s : State} (h : s.MemOk) (e : Site) (a n : Nat) (q : Option (BitVec 13)) : (s.readAt e a n q).1.MemOk := by
  cases e with
  | dev => exact memOk_devGet h a n q
  | host => exact memOk_hostGet h a n
  | copy => exact memOk_rawGet h .copy a n
  | sp k => exact memOk_rawGet h (.sp k) a n
  | spill k => exact memOk_rawGet h (.spill k) a n
  | tmpl k => exact memOk_rawGet h (.tmpl k) a n

/-- Every write of a site keeps the canonical form. -/
theorem memOk_writeAt {s : State} (h : s.MemOk) (e : Site) (a : Nat) (d : List PByte) (q : Option (BitVec 13)) :
    (s.writeAt e a d q).MemOk := by
  cases e with
  | dev => exact memOk_devPut h a d q
  | host => exact memOk_hostPut h a d
  | copy => exact memOk_rawPut h .copy a d
  | sp k => exact memOk_rawPut h (.sp k) a d
  | spill k => exact memOk_rawPut h (.spill k) a d
  | tmpl k => exact memOk_rawPut h (.tmpl k) a d

/-- Memories in canonical form that read alike are equal. -/
theorem Store.ext_wf {m m' : Store} (h : m.wf = true) (h' : m'.wf = true)
    (hb : ∀ k, Sparse.get 0 m.bytes k = Sparse.get 0 m'.bytes k)
    (hp : ∀ k, Sparse.get false m.pois k = Sparse.get false m'.pois k)
    (hc : ∀ k, Sparse.get none m.chk k = Sparse.get none m'.chk k)
    (ht : ∀ k, Sparse.get none m.tags k = Sparse.get none m'.tags k) (ha : m.areas = m'.areas) : m = m' := by
  rw [Store.wf_iff] at h h'
  cases m; cases m'
  simp only [Store.mk.injEq]
  exact ⟨Sparse.ext_wf h.1 h'.1 hb, Sparse.ext_wf h.2.1 h'.2.1 hp, Sparse.ext_wf h.2.2.1 h'.2.2.1 hc,
    Sparse.ext_wf h.2.2.2 h'.2.2.2 ht, ha⟩

/-- A byte of a storage after a write. -/
theorem Store.byte_write (m : Store) (mask : Bool) (a : Nat) (d : List PByte) (x : Nat) (bytewise : Bool := false) :
    Sparse.get 0 (m.write mask a d bytewise).bytes x = if a ≤ x ∧ x < a + d.length then (d.map (fun c => c.1)).getD (x - a) 0
      else Sparse.get 0 m.bytes x := by
  simp [Store.write, Sparse.get_putList]

/-- Checking a run whose sectors carry the right check values changes nothing. -/
theorem verify_of_good {s : State} (e : Site) (a n : Nat) (h : (s.storeOf e).bad a n = []) : s.verify e a n = s := by
  simp [State.verify, h]

/-- Storage of one site after the storage of another, or its own, is replaced. -/
theorem bytes_setStoreOf (s : State) (e f : Site) (m : Store) (h : m.bytes = (s.storeOf e).bytes) :
    ((s.setStoreOf e m).storeOf f).bytes = (s.storeOf f).bytes := by
  cases e <;> cases f <;> first
    | exact h
    | rfl
    | (simp only [State.storeOf, State.setStoreOf, State.core_onCore] at h ⊢
       split
       · next hj => subst hj; first | exact h | rfl
       · rfl)

/-- No check changes a byte. -/
theorem bytes_verify (s : State) (e f : Site) (a n : Nat) : ((s.verify e a n).storeOf f).bytes = (s.storeOf f).bytes := by
  refine foldl_keeps (P := fun t : State => (t.storeOf f).bytes = (s.storeOf f).bytes) ?_ _ _ rfl
  intro t q ht
  rw [← ht, ← bytes_setStoreOf t e f ((t.storeOf e).poisonSector q) rfl]
  cases f <;> rfl

end Sys2Proof.Machine
end

