-- ==== Sys2Proof/Laws/Access.lean ====
section
/-! SUPPORT. What an access through a token to one run of device memory meets, and what reading it gives. -/

namespace Sys2Proof.Machine

open Sys2Proof

/-- No part of an access that wraps or is empty. -/
theorem piecesFrom_zero (s : State) (m : Mte) (ok : Bool) (f pos o : Nat) : s.piecesFrom m ok f pos o 0 = [] := by
  cases f <;> simp [State.piecesFrom]

/-- An offset of an entry that lies in device memory and is not discarded. -/
theorem locate_of_reaches {s : State} {m : Mte} {b : MaskBit} {r w : Bool} {off n pa : Nat} (h : Reaches s m b r w off n pa) :
    s.locate m off = .at .dev pa := by
  obtain ⟨-, -, -, -, -, -, -, -, ⟨q, i, hr, hq, hd, hp⟩, -⟩ := h
  simp only [State.locate, hr, hq, hd, hp]
  rfl

/-- An access within one unit is one piece. -/
theorem pieces_of_reaches {s : State} {m : Mte} {b : MaskBit} {r w : Bool} {off n pa : Nat} (h : Reaches s m b r w off n pa)
    (pos : Nat) : s.pieces m true pos off n = [⟨.at .dev pa, pos, off, n, m.keyAt off⟩] := by
  have hl := locate_of_reaches h
  obtain ⟨-, -, -, h0, h1, h2, h3, -⟩ := h
  have e1 : off % 2 ^ 64 = off := Nat.mod_eq_of_lt (by omega)
  have e2 : min n (2 ^ 64 - off) = n := by omega
  have e3 : min n (min (m.len - off) (65536 - (m.vbase + off) % 65536)) = n := by omega
  have e4 : ¬ m.len ≤ off := by omega
  have e5 : n ≠ 0 := by omega
  simp only [State.pieces, e1, e2, Nat.sub_self, piecesFrom_zero, List.append_nil]
  simp only [State.piecesFrom, e3, e4, e5, hl, Nat.sub_self]
  simp

/-- No line of a piece is missing while nothing migrates. -/
theorem missingLine_of_still {s : State} (h : s.mem.mig = []) (p : Piece) : s.missingLine p = none := by
  simp only [State.missingLine, h]
  split <;> rfl

/-- An access to one reached run goes on with one piece. -/
theorem access_of_reaches {s : State} {k : Nat} {t : Option Tok} {b : MaskBit} {r w : Bool} {off n pa : Nat}
    (h : Reaches s ((s.core k).mteOf t) b r w off n pa) (pos : Nat) :
    s.access k t b r w [(pos, off, n)] = .live [⟨.at .dev pa, pos, off, n, ((s.core k).mteOf t).keyAt off⟩] := by
  have hp := pieces_of_reaches h pos
  obtain ⟨h1, h2, h3, -, -, -, -, h4, -⟩ := h
  simp only [State.access, h1, h2, h3]
  simp [hp, missingLine_of_still h4]

/-- Zipping clean bytes with their marks. -/
theorem zip_clean {l : List Byte} {p : List Bool} (h : p = List.replicate l.length false) : l.zip p = clean l := by
  refine List.ext_getElem (by simp [h, clean]) (fun i h1 h2 => ?_)
  simp [h, clean]

/-- A block that is under a key, or under none, reads through that key as it lies. -/
theorem blockUnder_of_tag {m : Store} {k : BitVec 512} {q : Nat} (h : m.tag q = none ∨ m.tag q = some k) :
    m.blockUnder k q = Sparse.getList 0 m.bytes (16 * q) 16 := by
  unfold Store.blockUnder
  rcases h with h | h <;> simp [h]

/-- A run under the key of a slot, or under none, reads through the slot as it lies. -/
theorem through_of_keyed {s : State} {slot : Option (BitVec 13)} {pa n : Nat} (h : Keyed s slot pa n) :
    s.mem.dev.through (s.keyIn slot) pa (s.mem.dev.get pa n) = s.mem.dev.get pa n := by
  cases hk : s.keyIn slot with
  | none => rfl
  | some k =>
    simp only [Store.through]
    split
    · rfl
    · have hl : (s.mem.dev.get pa n).length = n := by simp [Store.get, Sparse.getList_eq]
      refine List.ext_getElem (by simp) (fun i h1 h2 => ?_)
      have hi : i < n := by rwa [hl] at h2
      have hq := h ((pa + i) / 16) (by omega) (by omega)
      rw [hk] at hq
      simp only [List.getElem_map, List.getElem_zipIdx, Nat.zero_add, blockUnder_of_tag hq]
      simp only [Store.get, Sparse.getList_eq, List.getElem_zip, List.getElem_map, List.getElem_range,
        List.getD_eq_getElem?_getD, List.getElem?_map]
      have hr : (List.range 16)[(pa + i) % 16]? = some ((pa + i) % 16) := by simp [Nat.mod_lt]
      rw [hr]
      simp only [Option.map_some, Option.getD_some]
      congr 2
      omega

/-- Reading a clean run of device memory under its key changes nothing and gives its bytes. -/
theorem devGet_of_clean {s : State} {pa n : Nat} {key : Option (BitVec 13)} (hm : s.mem.mig = []) (hk : Keyed s key pa n)
    (h : CleanAt s pa n) : s.devGet pa n key = (s, clean (s.devBytes pa n)) := by
  have hv : s.verify .dev pa n = s := verify_of_good .dev pa n h.1
  simp only [State.devGet, hm, List.isEmpty_nil, if_true, State.keyGet, State.rawGet, hv, State.storeOf, through_of_keyed hk]
  refine congrArg (Prod.mk s) ?_
  simp only [Store.get]
  rw [Sparse.getList_eq, Sparse.getList_eq]
  refine zip_clean ?_
  simp only [List.length_map, List.length_range]
  rw [List.eq_replicate_iff]
  refine ⟨by simp, fun x hx => ?_⟩
  obtain ⟨i, hi, rfl⟩ := List.mem_map.1 hx
  exact h.2 i (List.mem_range.1 hi)

end Sys2Proof.Machine
end

