-- ==== Sys2Proof/Laws/Outcomes.lean ====
section
/-! SUPPORT. What each shared way for a meaning to end does, in the terms of Safety: a meaning that ends so is done with one
of these. -/

namespace Sys2Proof.Machine

open Sys2Proof

/-- Replacing the current core touches no other and nothing else. -/
theorem onlyCore_setMe (s : State) (c : Core) : OnlyCore s.curN s (s.setMe c) := by
  refine ⟨rfl, fun j hj => ?_⟩
  rw [State.core_setMe, if_neg hj]

theorem onlyCore_setCore (s : State) (k : Nat) (c : Core) : OnlyCore k s (s.setCore k c) := by
  refine ⟨rfl, fun j hj => ?_⟩
  rw [State.core_setCore, if_neg hj]

theorem onlyCore_onCore (s : State) (k : Nat) (f : Core → Core) : OnlyCore k s (s.onCore k f) := onlyCore_setCore s k _

theorem onlyCore_refl (k : Nat) (s : State) : OnlyCore k s s := ⟨rfl, fun _ _ => rfl⟩

theorem onlyCore_trans {k : Nat} {s t u : State} (h : OnlyCore k s t) (h' : OnlyCore k t u) : OnlyCore k s u := by
  refine ⟨?_, fun j hj => (h'.2 j hj).trans (h.2 j hj)⟩
  rw [h'.1, h.1]

/-- A meaning that answers a known state does what holds of it. -/
theorem does_of {i : Instr} {s t : State} {P : State → Prop} (h : exec i s = .next t) (ht : P t) : Does i s P := ⟨t, h, ht⟩

/-- The result of a register-only instruction: the destination, the next word, nothing else. -/
theorem writesX_of {i : Instr} {s : State} {d : XReg} {v : Word} (h : exec i s = .next (s.retireX d v)) : WritesX i s d v := by
  refine ⟨_, h, fun n => ?_, ⟨?_, ?_⟩, onlyCore_setMe _ _, ?_⟩
  · simp only [State.retireX, State.me_setMe, Core.xr_advance, Core.xr_setX]
  · simp only [State.retireX, State.me_setMe]; rw [Core.setX_eq]; rfl
  · simp only [State.retireX, State.me_setMe]; rfl
  · simp only [State.retireX, State.me_setMe]; rw [Core.setX_eq]; rfl

/-- A jump that links: the destination, the target at bits [15:2], nothing else. -/
theorem jumpsTo_of {i : Instr} {s : State} {d : XReg} {v : Word} {a : BitVec 16}
    (h : exec i s = .next (s.setMe ((s.me.setX d v).jumpTo a))) : JumpsTo i s d v (a &&& 0xFFFC#16) := by
  refine ⟨_, h, fun n => ?_, ?_, ?_, onlyCore_setMe _ _, ?_⟩
  · simp only [State.me_setMe, Core.xr_jumpTo, Core.xr_setX]
  · simp only [State.me_setMe]; rfl
  · simp only [State.me_setMe]; rfl
  · simp only [State.me_setMe]; rw [Core.setX_eq]; rfl

/-- An instruction that goes on after a change of the current core that leaves its program counter. -/
theorem retires_of {i : Instr} {s : State} {f : Core → Core} (h : exec i s = .next (s.setMe (f s.me).advance))
    (hp : (f s.me).s.pc = s.me.s.pc) : Retires i s f := by
  refine ⟨_, h, onlyCore_setMe _ _, ?_⟩
  simp only [State.me_setMe]
  rw [← hp]; rfl

/-- An instruction that waits. -/
theorem waits_of {i : Instr} {s : State} {w : WaitOn} (h : exec i s = .next (s.setMe (s.me.waitS w))) : Waits i s w := by
  refine ⟨_, h, onlyCore_setMe _ _, ?_⟩
  simp only [State.me_setMe]; rfl

/-- Taking a trap outside a handler. -/
theorem traps_of {i : Instr} {s : State} {cause : Nat} {tval : Word} (hh : s.me.s.inHandler = false)
    (h : exec i s = .next (s.trapMe cause tval)) : Traps i s cause tval := by
  have e : s.trapMe cause tval = s.setMe (s.me.enterTrap cause tval s.me.s.pc) := by
    have hh' : (s.core s.curN).s.inHandler = false := hh
    simp only [State.trapMe, State.syncTrap, State.trapAt, hh']
    rfl
  rw [e] at h
  refine ⟨_, h, onlyCore_setMe _ _, ?_⟩
  simp only [State.me_setMe]; rfl

/-- A V word that goes on after a change of the current core that leaves the engine's program. -/
theorem retiresV_of {i : Instr} {s : State} {f : Core → Core} (h : exec i s = .next (s.setMe (f s.me)).retireV)
    (hp : (f s.me).v.eng = s.me.v.eng) : RetiresV i s f := by
  refine ⟨_, h, ?_, ?_⟩
  · exact onlyCore_trans (onlyCore_setMe s (f s.me)) (onlyCore_setMe _ _)
  · simp only [State.retireV, State.me_setMe]
    rw [← hp]; rfl

/-- A V word that waits. -/
theorem waitsV_of {i : Instr} {s : State} {w : WaitOn}
    (h : exec i s = .next (s.setMe (s.me.onV (fun v => { v with wait := some w })))) : WaitsV i s w := by
  refine ⟨_, h, onlyCore_setMe _ _, ?_⟩
  simp only [State.me_setMe]; rfl

/-- An illegal V word. -/
theorem illegalV_of {i : Instr} {s : State} (h : exec i s = .next s.illegalV) : IllegalV i s := by
  refine ⟨_, h, onlyCore_setMe _ _, ?_⟩
  simp only [State.illegalV, State.me_setMe]; rfl

/-- Outside LOADING nothing ends it. -/
theorem loadMaybe_of {s : State} (h : s.plinth.gate ≠ .loading) : s.loadMaybe = s := by simp [State.loadMaybe, h]

@[simp] theorem State.agenda_startBench (s : State) (b : Bool) (d : List Byte) : (s.startBench b d).agenda = s.agenda := rfl

/-- That LOADING ends leaves the agenda. -/
@[simp] theorem State.agenda_loadMaybe (s : State) : s.loadMaybe.agenda = s.agenda := by
  unfold State.loadMaybe State.loaded
  split
  · rfl
  · dsimp only; split <;> rfl

/-- A half that is not hot is left alone. -/
theorem coolDown_of {s : State} {half : Bool} (h : (if half then s.power.hotB else s.power.hotA) = none) : s.coolDown half = s := by
  simp [State.coolDown, h]

/-- A step of an event of the agenda whose part of the device is in service. -/
theorem step_event {i : Instr} {s : State} {rest : List Sched} (h : s.agenda = .event i :: rest) (hs : s.loadMaybe.serves i = true) :
    step s = afterStep s (exec i { s.loadMaybe with agenda := rest }) := by
  simp only [step, State.moveNext, State.move, State.agenda_loadMaybe, h, hs, if_true]

/-- A step of an event of the agenda whose part of the device is not in service. -/
theorem step_event_idle {i : Instr} {s : State} {rest : List Sched} (h : s.agenda = .event i :: rest)
    (hs : s.loadMaybe.serves i = false) : step s = afterStep s (.next { s.loadMaybe with agenda := rest }) := by
  simp [step, State.moveNext, State.move, h, hs]

/-- While the active Bench runs, every event is served. -/
theorem State.serves_of_running {s : State} (i : Instr) (h : s.benchRuns = true) : s.serves i = true := by
  simp only [State.benchRuns, Bool.and_eq_true, beq_iff_eq] at h
  simp [State.serves, State.gateRuns, State.benchRuns, h]

/-- What follows a step that leaves nothing to be taken up after it. -/
theorem afterStep_next {s t : State} (h : t.mem.rung = []) (h1 : t.bench.requests = []) (h2 : t.mem.blocked = false)
    (h3 : t.bench.lost = false) (h4 : t.power.hotA = none) (h5 : t.power.hotB = none) : afterStep s (.next t) = .next t := by
  have e1 : t.coolDown false = t := coolDown_of (by simpa using h4)
  have e2 : t.coolDown true = t := coolDown_of (by simpa using h5)
  simp [afterStep, State.observe, h, h1, State.pumpRequests, State.benchFail, h2, h3, e1, e2]

end Sys2Proof.Machine
end

