-- ==== Sys2Proof/Laws/PerInstr.lean ====
section
/-! SUPPORT. Facts about every instruction as syntax, one lemma for each constructor. -/

namespace Sys2Proof.Laws

open Sys2Proof

theorem eTy_code_le (x : ETy) : x.code ≤ 7 := by cases x <;> decide

theorem round_code_le (x : Round) : x.code ≤ 3 := by cases x <;> decide

theorem scope_code_le (x : Scope) : x.code ≤ 3 := by cases x <;> decide

theorem amoOp_code_le (x : AmoOp) : x.code ≤ 7 := by cases x <;> decide

theorem fenceKind_code_le (x : FenceKind) : x.code ≤ 3 := by cases x <;> decide

theorem cmpKind_code_le (x : CmpKind) : x.code ≤ 7 := by cases x <;> decide

theorem redFn_code_le (x : RedFn) : x.code ≤ 2 := by cases x <;> decide

theorem aopFn_code_le (x : AopFn) : x.code ≤ 7 := by cases x <;> decide

theorem ringSel_code_le (x : RingSel) : x.code ≤ 2 := by cases x <;> decide

/-- The words of an instruction: at most three, each of 32 bits. -/
def Words.Statement (i : Instr) : Prop := (encode i).length ≤ 3 ∧ ∀ w, w ∈ encode i → w < 2 ^ 32

theorem Words.none : ([] : List Nat).length ≤ 3 ∧ ∀ w, w ∈ ([] : List Nat) → w < 2 ^ 32 := by simp

theorem Words.one {u : Nat} (h : u < 2 ^ 32) : [u].length ≤ 3 ∧ ∀ w, w ∈ [u] → w < 2 ^ 32 := by simpa using h

theorem Words.two {u v : Nat} (h : u < 2 ^ 32) (h' : v < 2 ^ 32) : [u, v].length ≤ 3 ∧ ∀ w, w ∈ [u, v] → w < 2 ^ 32 := by
  simpa using ⟨h, h'⟩

theorem Words.three {u v x : Nat} (h : u < 2 ^ 32) (h' : v < 2 ^ 32) (h'' : x < 2 ^ 32) :
    [u, v, x].length ≤ 3 ∧ ∀ w, w ∈ [u, v, x] → w < 2 ^ 32 := by simpa using ⟨h, h', h''⟩

theorem Words.add (st : SStall) (d a b : XReg) : Words.Statement (.add st d a b) :=
  Words.one
    (by have := BitVec.isLt st; have := BitVec.isLt d; have := BitVec.isLt a; have := BitVec.isLt b; omega)

theorem Words.sub (st : SStall) (d a b : XReg) : Words.Statement (.sub st d a b) :=
  Words.one
    (by have := BitVec.isLt st; have := BitVec.isLt d; have := BitVec.isLt a; have := BitVec.isLt b; omega)

theorem Words.and (st : SStall) (d a b : XReg) : Words.Statement (.and st d a b) :=
  Words.one
    (by have := BitVec.isLt st; have := BitVec.isLt d; have := BitVec.isLt a; have := BitVec.isLt b; omega)

theorem Words.or (st : SStall) (d a b : XReg) : Words.Statement (.or st d a b) :=
  Words.one
    (by have := BitVec.isLt st; have := BitVec.isLt d; have := BitVec.isLt a; have := BitVec.isLt b; omega)

theorem Words.xor (st : SStall) (d a b : XReg) : Words.Statement (.xor st d a b) :=
  Words.one
    (by have := BitVec.isLt st; have := BitVec.isLt d; have := BitVec.isLt a; have := BitVec.isLt b; omega)

theorem Words.sll (st : SStall) (d a b : XReg) : Words.Statement (.sll st d a b) :=
  Words.one
    (by have := BitVec.isLt st; have := BitVec.isLt d; have := BitVec.isLt a; have := BitVec.isLt b; omega)

theorem Words.srl (st : SStall) (d a b : XReg) : Words.Statement (.srl st d a b) :=
  Words.one
    (by have := BitVec.isLt st; have := BitVec.isLt d; have := BitVec.isLt a; have := BitVec.isLt b; omega)

theorem Words.sra (st : SStall) (d a b : XReg) : Words.Statement (.sra st d a b) :=
  Words.one
    (by have := BitVec.isLt st; have := BitVec.isLt d; have := BitVec.isLt a; have := BitVec.isLt b; omega)

theorem Words.slt (st : SStall) (d a b : XReg) : Words.Statement (.slt st d a b) :=
  Words.one
    (by have := BitVec.isLt st; have := BitVec.isLt d; have := BitVec.isLt a; have := BitVec.isLt b; omega)

theorem Words.sltu (st : SStall) (d a b : XReg) : Words.Statement (.sltu st d a b) :=
  Words.one
    (by have := BitVec.isLt st; have := BitVec.isLt d; have := BitVec.isLt a; have := BitVec.isLt b; omega)

theorem Words.seq (st : SStall) (d a b : XReg) : Words.Statement (.seq st d a b) :=
  Words.one
    (by have := BitVec.isLt st; have := BitVec.isLt d; have := BitVec.isLt a; have := BitVec.isLt b; omega)

theorem Words.min (st : SStall) (d a b : XReg) : Words.Statement (.min st d a b) :=
  Words.one
    (by have := BitVec.isLt st; have := BitVec.isLt d; have := BitVec.isLt a; have := BitVec.isLt b; omega)

theorem Words.max (st : SStall) (d a b : XReg) : Words.Statement (.max st d a b) :=
  Words.one
    (by have := BitVec.isLt st; have := BitVec.isLt d; have := BitVec.isLt a; have := BitVec.isLt b; omega)

theorem Words.minu (st : SStall) (d a b : XReg) : Words.Statement (.minu st d a b) :=
  Words.one
    (by have := BitVec.isLt st; have := BitVec.isLt d; have := BitVec.isLt a; have := BitVec.isLt b; omega)

theorem Words.maxu (st : SStall) (d a b : XReg) : Words.Statement (.maxu st d a b) :=
  Words.one
    (by have := BitVec.isLt st; have := BitVec.isLt d; have := BitVec.isLt a; have := BitVec.isLt b; omega)

theorem Words.mul (st : SStall) (d a b : XReg) : Words.Statement (.mul st d a b) :=
  Words.one
    (by have := BitVec.isLt st; have := BitVec.isLt d; have := BitVec.isLt a; have := BitVec.isLt b; omega)

theorem Words.mulh (st : SStall) (d a b : XReg) : Words.Statement (.mulh st d a b) :=
  Words.one
    (by have := BitVec.isLt st; have := BitVec.isLt d; have := BitVec.isLt a; have := BitVec.isLt b; omega)

theorem Words.mulhu (st : SStall) (d a b : XReg) : Words.Statement (.mulhu st d a b) :=
  Words.one
    (by have := BitVec.isLt st; have := BitVec.isLt d; have := BitVec.isLt a; have := BitVec.isLt b; omega)

theorem Words.div (st : SStall) (d a b : XReg) : Words.Statement (.div st d a b) :=
  Words.one
    (by have := BitVec.isLt st; have := BitVec.isLt d; have := BitVec.isLt a; have := BitVec.isLt b; omega)

theorem Words.divu (st : SStall) (d a b : XReg) : Words.Statement (.divu st d a b) :=
  Words.one
    (by have := BitVec.isLt st; have := BitVec.isLt d; have := BitVec.isLt a; have := BitVec.isLt b; omega)

theorem Words.rem (st : SStall) (d a b : XReg) : Words.Statement (.rem st d a b) :=
  Words.one
    (by have := BitVec.isLt st; have := BitVec.isLt d; have := BitVec.isLt a; have := BitVec.isLt b; omega)

theorem Words.remu (st : SStall) (d a b : XReg) : Words.Statement (.remu st d a b) :=
  Words.one
    (by have := BitVec.isLt st; have := BitVec.isLt d; have := BitVec.isLt a; have := BitVec.isLt b; omega)

theorem Words.clz (st : SStall) (d a : XReg) : Words.Statement (.clz st d a) :=
  Words.one
    (by have := BitVec.isLt st; have := BitVec.isLt d; have := BitVec.isLt a; omega)

theorem Words.popc (st : SStall) (d a : XReg) : Words.Statement (.popc st d a) :=
  Words.one
    (by have := BitVec.isLt st; have := BitVec.isLt d; have := BitVec.isLt a; omega)

theorem Words.addi (st : SStall) (d a : XReg) (imm : BitVec 11) : Words.Statement (.addi st d a imm) :=
  Words.one
    (by have := BitVec.isLt st; have := BitVec.isLt d; have := BitVec.isLt a; have := BitVec.isLt imm; omega)

theorem Words.andi (st : SStall) (d a : XReg) (imm : BitVec 11) : Words.Statement (.andi st d a imm) :=
  Words.one
    (by have := BitVec.isLt st; have := BitVec.isLt d; have := BitVec.isLt a; have := BitVec.isLt imm; omega)

theorem Words.ori (st : SStall) (d a : XReg) (imm : BitVec 11) : Words.Statement (.ori st d a imm) :=
  Words.one
    (by have := BitVec.isLt st; have := BitVec.isLt d; have := BitVec.isLt a; have := BitVec.isLt imm; omega)

theorem Words.xori (st : SStall) (d a : XReg) (imm : BitVec 11) : Words.Statement (.xori st d a imm) :=
  Words.one
    (by have := BitVec.isLt st; have := BitVec.isLt d; have := BitVec.isLt a; have := BitVec.isLt imm; omega)

theorem Words.slli (st : SStall) (d a : XReg) (sh : BitVec 6) : Words.Statement (.slli st d a sh) :=
  Words.one
    (by have := BitVec.isLt st; have := BitVec.isLt d; have := BitVec.isLt a; have := BitVec.isLt sh; omega)

theorem Words.srli (st : SStall) (d a : XReg) (sh : BitVec 6) : Words.Statement (.srli st d a sh) :=
  Words.one
    (by have := BitVec.isLt st; have := BitVec.isLt d; have := BitVec.isLt a; have := BitVec.isLt sh; omega)

theorem Words.srai (st : SStall) (d a : XReg) (sh : BitVec 6) : Words.Statement (.srai st d a sh) :=
  Words.one
    (by have := BitVec.isLt st; have := BitVec.isLt d; have := BitVec.isLt a; have := BitVec.isLt sh; omega)

theorem Words.slti (st : SStall) (d a : XReg) (imm : BitVec 11) : Words.Statement (.slti st d a imm) :=
  Words.one
    (by have := BitVec.isLt st; have := BitVec.isLt d; have := BitVec.isLt a; have := BitVec.isLt imm; omega)

theorem Words.li (st : SStall) (d : XReg) (imm : BitVec 17) : Words.Statement (.li st d imm) :=
  Words.one
    (by have := BitVec.isLt st; have := BitVec.isLt d; have := BitVec.isLt imm; omega)

theorem Words.lis (st : SStall) (d : XReg) (imm : BitVec 16) : Words.Statement (.lis st d imm) :=
  Words.one
    (by have := BitVec.isLt st; have := BitVec.isLt d; have := BitVec.isLt imm; omega)

theorem Words.fadd (st : SStall) (d a b : XReg) : Words.Statement (.fadd st d a b) :=
  Words.one
    (by have := BitVec.isLt st; have := BitVec.isLt d; have := BitVec.isLt a; have := BitVec.isLt b; omega)

theorem Words.fsub (st : SStall) (d a b : XReg) : Words.Statement (.fsub st d a b) :=
  Words.one
    (by have := BitVec.isLt st; have := BitVec.isLt d; have := BitVec.isLt a; have := BitVec.isLt b; omega)

theorem Words.fmul (st : SStall) (d a b : XReg) : Words.Statement (.fmul st d a b) :=
  Words.one
    (by have := BitVec.isLt st; have := BitVec.isLt d; have := BitVec.isLt a; have := BitVec.isLt b; omega)

theorem Words.fdiv (st : SStall) (d a b : XReg) : Words.Statement (.fdiv st d a b) :=
  Words.one
    (by have := BitVec.isLt st; have := BitVec.isLt d; have := BitVec.isLt a; have := BitVec.isLt b; omega)

theorem Words.fmin (st : SStall) (d a b : XReg) : Words.Statement (.fmin st d a b) :=
  Words.one
    (by have := BitVec.isLt st; have := BitVec.isLt d; have := BitVec.isLt a; have := BitVec.isLt b; omega)

theorem Words.fmax (st : SStall) (d a b : XReg) : Words.Statement (.fmax st d a b) :=
  Words.one
    (by have := BitVec.isLt st; have := BitVec.isLt d; have := BitVec.isLt a; have := BitVec.isLt b; omega)

theorem Words.fsqrt (st : SStall) (d a : XReg) : Words.Statement (.fsqrt st d a) :=
  Words.one
    (by have := BitVec.isLt st; have := BitVec.isLt d; have := BitVec.isLt a; omega)

theorem Words.feq (st : SStall) (d a b : XReg) : Words.Statement (.feq st d a b) :=
  Words.one
    (by have := BitVec.isLt st; have := BitVec.isLt d; have := BitVec.isLt a; have := BitVec.isLt b; omega)

theorem Words.flt (st : SStall) (d a b : XReg) : Words.Statement (.flt st d a b) :=
  Words.one
    (by have := BitVec.isLt st; have := BitVec.isLt d; have := BitVec.isLt a; have := BitVec.isLt b; omega)

theorem Words.fle (st : SStall) (d a b : XReg) : Words.Statement (.fle st d a b) :=
  Words.one
    (by have := BitVec.isLt st; have := BitVec.isLt d; have := BitVec.isLt a; have := BitVec.isLt b; omega)

theorem Words.fcvtsw (st : SStall) (d a : XReg) : Words.Statement (.fcvtsw st d a) :=
  Words.one
    (by have := BitVec.isLt st; have := BitVec.isLt d; have := BitVec.isLt a; omega)

theorem Words.fcvtws (st : SStall) (d a : XReg) : Words.Statement (.fcvtws st d a) :=
  Words.one
    (by have := BitVec.isLt st; have := BitVec.isLt d; have := BitVec.isLt a; omega)

theorem Words.fcvtbs (st : SStall) (d a : XReg) : Words.Statement (.fcvtbs st d a) :=
  Words.one
    (by have := BitVec.isLt st; have := BitVec.isLt d; have := BitVec.isLt a; omega)

theorem Words.fcvtsb (st : SStall) (d a : XReg) : Words.Statement (.fcvtsb st d a) :=
  Words.one
    (by have := BitVec.isLt st; have := BitVec.isLt d; have := BitVec.isLt a; omega)

theorem Words.fma (st : SStall) (d a b : XReg) : Words.Statement (.fma st d a b) :=
  Words.one
    (by have := BitVec.isLt st; have := BitVec.isLt d; have := BitVec.isLt a; have := BitVec.isLt b; omega)

theorem Words.fms (st : SStall) (d a b : XReg) : Words.Statement (.fms st d a b) :=
  Words.one
    (by have := BitVec.isLt st; have := BitVec.isLt d; have := BitVec.isLt a; have := BitVec.isLt b; omega)

theorem Words.fnma (st : SStall) (d a b : XReg) : Words.Statement (.fnma st d a b) :=
  Words.one
    (by have := BitVec.isLt st; have := BitVec.isLt d; have := BitVec.isLt a; have := BitVec.isLt b; omega)

theorem Words.beq (st : SStall) (a b : XReg) (off : BitVec 11) : Words.Statement (.beq st a b off) :=
  Words.one
    (by have := BitVec.isLt st; have := BitVec.isLt a; have := BitVec.isLt b; have := BitVec.isLt off; omega)

theorem Words.bne (st : SStall) (a b : XReg) (off : BitVec 11) : Words.Statement (.bne st a b off) :=
  Words.one
    (by have := BitVec.isLt st; have := BitVec.isLt a; have := BitVec.isLt b; have := BitVec.isLt off; omega)

theorem Words.blt (st : SStall) (a b : XReg) (off : BitVec 11) : Words.Statement (.blt st a b off) :=
  Words.one
    (by have := BitVec.isLt st; have := BitVec.isLt a; have := BitVec.isLt b; have := BitVec.isLt off; omega)

theorem Words.bge (st : SStall) (a b : XReg) (off : BitVec 11) : Words.Statement (.bge st a b off) :=
  Words.one
    (by have := BitVec.isLt st; have := BitVec.isLt a; have := BitVec.isLt b; have := BitVec.isLt off; omega)

theorem Words.bltu (st : SStall) (a b : XReg) (off : BitVec 11) : Words.Statement (.bltu st a b off) :=
  Words.one
    (by have := BitVec.isLt st; have := BitVec.isLt a; have := BitVec.isLt b; have := BitVec.isLt off; omega)

theorem Words.bgeu (st : SStall) (a b : XReg) (off : BitVec 11) : Words.Statement (.bgeu st a b off) :=
  Words.one
    (by have := BitVec.isLt st; have := BitVec.isLt a; have := BitVec.isLt b; have := BitVec.isLt off; omega)

theorem Words.jal (st : SStall) (d : XReg) (off : BitVec 17) : Words.Statement (.jal st d off) :=
  Words.one
    (by have := BitVec.isLt st; have := BitVec.isLt d; have := BitVec.isLt off; omega)

theorem Words.jalr (st : SStall) (d a : XReg) (imm : BitVec 11) : Words.Statement (.jalr st d a imm) :=
  Words.one
    (by have := BitVec.isLt st; have := BitVec.isLt d; have := BitVec.isLt a; have := BitVec.isLt imm; omega)

theorem Words.ldb (st : SStall) (d : XReg) (t : TReg) (o : XReg) (imm : BitVec 6) : Words.Statement (.ldb st d t o imm) :=
  Words.one
    (by have := BitVec.isLt st; have := BitVec.isLt d; have := BitVec.isLt t; have := BitVec.isLt o; have := BitVec.isLt imm; omega)

theorem Words.ldh (st : SStall) (d : XReg) (t : TReg) (o : XReg) (imm : BitVec 6) : Words.Statement (.ldh st d t o imm) :=
  Words.one
    (by have := BitVec.isLt st; have := BitVec.isLt d; have := BitVec.isLt t; have := BitVec.isLt o; have := BitVec.isLt imm; omega)

theorem Words.ldw (st : SStall) (d : XReg) (t : TReg) (o : XReg) (imm : BitVec 6) : Words.Statement (.ldw st d t o imm) :=
  Words.one
    (by have := BitVec.isLt st; have := BitVec.isLt d; have := BitVec.isLt t; have := BitVec.isLt o; have := BitVec.isLt imm; omega)

theorem Words.ldd (st : SStall) (d : XReg) (t : TReg) (o : XReg) (imm : BitVec 6) : Words.Statement (.ldd st d t o imm) :=
  Words.one
    (by have := BitVec.isLt st; have := BitVec.isLt d; have := BitVec.isLt t; have := BitVec.isLt o; have := BitVec.isLt imm; omega)

theorem Words.stb (st : SStall) (d : XReg) (t : TReg) (o : XReg) (imm : BitVec 6) : Words.Statement (.stb st d t o imm) :=
  Words.one
    (by have := BitVec.isLt st; have := BitVec.isLt d; have := BitVec.isLt t; have := BitVec.isLt o; have := BitVec.isLt imm; omega)

theorem Words.sth (st : SStall) (d : XReg) (t : TReg) (o : XReg) (imm : BitVec 6) : Words.Statement (.sth st d t o imm) :=
  Words.one
    (by have := BitVec.isLt st; have := BitVec.isLt d; have := BitVec.isLt t; have := BitVec.isLt o; have := BitVec.isLt imm; omega)

theorem Words.stw (st : SStall) (d : XReg) (t : TReg) (o : XReg) (imm : BitVec 6) : Words.Statement (.stw st d t o imm) :=
  Words.one
    (by have := BitVec.isLt st; have := BitVec.isLt d; have := BitVec.isLt t; have := BitVec.isLt o; have := BitVec.isLt imm; omega)

theorem Words.std (st : SStall) (d : XReg) (t : TReg) (o : XReg) (imm : BitVec 6) : Words.Statement (.std st d t o imm) :=
  Words.one
    (by have := BitVec.isLt st; have := BitVec.isLt d; have := BitVec.isLt t; have := BitVec.isLt o; have := BitVec.isLt imm; omega)

theorem Words.amo (st : SStall) (d : XReg) (t : TReg) (o : XReg) (f : AmoOp) (dw : Bool) (sc : Scope) : Words.Statement (.amo st d t o f dw sc) :=
  Words.one
    (by have := BitVec.isLt st; have := BitVec.isLt d; have := BitVec.isLt t; have := BitVec.isLt o; have := amoOp_code_le f; have := Bool.toNat_le dw; have := scope_code_le sc; omega)

theorem Words.cas (st : SStall) (d : XReg) (t : TReg) (o : XReg) (imm : BitVec 6) : Words.Statement (.cas st d t o imm) :=
  Words.one
    (by have := BitVec.isLt st; have := BitVec.isLt d; have := BitVec.isLt t; have := BitVec.isLt o; have := BitVec.isLt imm; omega)

theorem Words.lds (st : SStall) (d a : XReg) (imm : BitVec 11) : Words.Statement (.lds st d a imm) :=
  Words.one
    (by have := BitVec.isLt st; have := BitVec.isLt d; have := BitVec.isLt a; have := BitVec.isLt imm; omega)

theorem Words.sts (st : SStall) (d a : XReg) (imm : BitVec 11) : Words.Statement (.sts st d a imm) :=
  Words.one
    (by have := BitVec.isLt st; have := BitVec.isLt d; have := BitVec.isLt a; have := BitVec.isLt imm; omega)

theorem Words.sps (st : SStall) (d : XReg) (slot : BitVec 10) : Words.Statement (.sps st d slot) :=
  Words.one
    (by have := BitVec.isLt st; have := BitVec.isLt d; have := BitVec.isLt slot; omega)

theorem Words.spl (st : SStall) (d : XReg) (slot : BitVec 10) : Words.Statement (.spl st d slot) :=
  Words.one
    (by have := BitVec.isLt st; have := BitVec.isLt d; have := BitVec.isLt slot; omega)

theorem Words.xlat (st : SStall) (t : TReg) (a b : XReg) (r w : Bool) : Words.Statement (.xlat st t a b r w) :=
  Words.one
    (by have := BitVec.isLt st; have := BitVec.isLt t; have := BitVec.isLt a; have := BitVec.isLt b; have := Bool.toNat_le r; have := Bool.toNat_le w; omega)

theorem Words.xlatq (st : SStall) (t : TReg) (a b : XReg) (r w : Bool) : Words.Statement (.xlatq st t a b r w) :=
  Words.one
    (by have := BitVec.isLt st; have := BitVec.isLt t; have := BitVec.isLt a; have := BitVec.isLt b; have := Bool.toNat_le r; have := Bool.toNat_le w; omega)

theorem Words.trel (st : SStall) (t : TReg) : Words.Statement (.trel st t) :=
  Words.one
    (by have := BitVec.isLt st; have := BitVec.isLt t; omega)

theorem Words.tmov (st : SStall) (t u : TReg) : Words.Statement (.tmov st t u) :=
  Words.one
    (by have := BitVec.isLt st; have := BitVec.isLt t; have := BitVec.isLt u; omega)

theorem Words.tsub (st : SStall) (t u : TReg) (a : XReg) : Words.Statement (.tsub st t u a) :=
  Words.one
    (by have := BitVec.isLt st; have := BitVec.isLt t; have := BitVec.isLt u; have := BitVec.isLt a; omega)

theorem Words.tinfo (st : SStall) (u : TReg) (a : XReg) : Words.Statement (.tinfo st u a) :=
  Words.one
    (by have := BitVec.isLt st; have := BitVec.isLt u; have := BitVec.isLt a; omega)

theorem Words.tchk (st : SStall) (u : TReg) (a : XReg) : Words.Statement (.tchk st u a) :=
  Words.one
    (by have := BitVec.isLt st; have := BitVec.isLt u; have := BitVec.isLt a; omega)

theorem Words.look (st : SStall) (d a : XReg) : Words.Statement (.look st d a) :=
  Words.one
    (by have := BitVec.isLt st; have := BitVec.isLt d; have := BitVec.isLt a; omega)

theorem Words.dtag (st : SStall) (a b : XReg) : Words.Statement (.dtag st a b) :=
  Words.one
    (by have := BitVec.isLt st; have := BitVec.isLt a; have := BitVec.isLt b; omega)

theorem Words.fork (st : SStall) (a : XReg) : Words.Statement (.fork st a) :=
  Words.one
    (by have := BitVec.isLt st; have := BitVec.isLt a; omega)

theorem Words.rdv (st : SStall) : Words.Statement (.rdv st) :=
  Words.one
    (by have := BitVec.isLt st; omega)

theorem Words.send (st : SStall) (a b : XReg) (m : BitVec 4) : Words.Statement (.send st a b m) :=
  Words.one
    (by have := BitVec.isLt st; have := BitVec.isLt a; have := BitVec.isLt b; have := BitVec.isLt m; omega)

theorem Words.vfence (st : SStall) : Words.Statement (.vfence st) :=
  Words.one
    (by have := BitVec.isLt st; omega)

theorem Words.rapp (st : SStall) (a : XReg) (r : RingSel) : Words.Statement (.rapp st a r) :=
  Words.one
    (by have := BitVec.isLt st; have := BitVec.isLt a; have := ringSel_code_le r; omega)

theorem Words.rappPair (st : SStall) (a b : XReg) (r : RingSel) : Words.Statement (.rappPair st a b r) :=
  Words.one
    (by have := BitVec.isLt st; have := BitVec.isLt a; have := BitVec.isLt b; have := ringSel_code_le r; omega)

theorem Words.post (st : SStall) (n : SemId) : Words.Statement (.post st n) :=
  Words.one
    (by have := BitVec.isLt st; have := BitVec.isLt n; omega)

theorem Words.waits (st : SStall) (n : SemId) : Words.Statement (.waits st n) :=
  Words.one
    (by have := BitVec.isLt st; have := BitVec.isLt n; omega)

theorem Words.mark (st : SStall) (sc : Scope) : Words.Statement (.mark st sc) :=
  Words.one
    (by have := BitVec.isLt st; have := scope_code_le sc; omega)

theorem Words.fence (st : SStall) (k : FenceKind) (sc : Scope) : Words.Statement (.fence st k sc) :=
  Words.one
    (by have := BitVec.isLt st; have := fenceKind_code_le k; have := scope_code_le sc; omega)

theorem Words.bar (st : SStall) (n : BarId) : Words.Statement (.bar st n) :=
  Words.one
    (by have := BitVec.isLt st; have := BitVec.isLt n; omega)

theorem Words.sacq (st : SStall) (d : XReg) (n : RingId) : Words.Statement (.sacq st d n) :=
  Words.one
    (by have := BitVec.isLt st; have := BitVec.isLt d; have := BitVec.isLt n; omega)

theorem Words.scommit (st : SStall) (n : RingId) : Words.Statement (.scommit st n) :=
  Words.one
    (by have := BitVec.isLt st; have := BitVec.isLt n; omega)

theorem Words.sawait (st : SStall) (d : XReg) (n : RingId) : Words.Statement (.sawait st d n) :=
  Words.one
    (by have := BitVec.isLt st; have := BitVec.isLt d; have := BitVec.isLt n; omega)

theorem Words.srel (st : SStall) (n : RingId) : Words.Statement (.srel st n) :=
  Words.one
    (by have := BitVec.isLt st; have := BitVec.isLt n; omega)

theorem Words.jlaunch (st : SStall) (d a : XReg) : Words.Statement (.jlaunch st d a) :=
  Words.one
    (by have := BitVec.isLt st; have := BitVec.isLt d; have := BitVec.isLt a; omega)

theorem Words.flushh (st : SStall) (t : TReg) (a b : XReg) : Words.Statement (.flushh st t a b) :=
  Words.one
    (by have := BitVec.isLt st; have := BitVec.isLt t; have := BitVec.isLt a; have := BitVec.isLt b; omega)

theorem Words.invh (st : SStall) (t : TReg) (a b : XReg) : Words.Statement (.invh st t a b) :=
  Words.one
    (by have := BitVec.isLt st; have := BitVec.isLt t; have := BitVec.isLt a; have := BitVec.isLt b; omega)

theorem Words.skipr (st : SStall) (d a b : XReg) : Words.Statement (.skipr st d a b) :=
  Words.one
    (by have := BitVec.isLt st; have := BitVec.isLt d; have := BitVec.isLt a; have := BitVec.isLt b; omega)

theorem Words.skipw (st : SStall) (d a b : XReg) : Words.Statement (.skipw st d a b) :=
  Words.one
    (by have := BitVec.isLt st; have := BitVec.isLt d; have := BitVec.isLt a; have := BitVec.isLt b; omega)

theorem Words.csrr (st : SStall) (d : XReg) (c : BitVec 11) : Words.Statement (.csrr st d c) :=
  Words.one
    (by have := BitVec.isLt st; have := BitVec.isLt d; have := BitVec.isLt c; omega)

theorem Words.csrw (st : SStall) (d a : XReg) (c : BitVec 11) : Words.Statement (.csrw st d a c) :=
  Words.one
    (by have := BitVec.isLt st; have := BitVec.isLt d; have := BitVec.isLt a; have := BitVec.isLt c; omega)

theorem Words.csrs (st : SStall) (d a : XReg) (c : BitVec 11) : Words.Statement (.csrs st d a c) :=
  Words.one
    (by have := BitVec.isLt st; have := BitVec.isLt d; have := BitVec.isLt a; have := BitVec.isLt c; omega)

theorem Words.csrc (st : SStall) (d a : XReg) (c : BitVec 11) : Words.Statement (.csrc st d a c) :=
  Words.one
    (by have := BitVec.isLt st; have := BitVec.isLt d; have := BitVec.isLt a; have := BitVec.isLt c; omega)

theorem Words.trap (st : SStall) (code : BitVec 8) : Words.Statement (.trap st code) :=
  Words.one
    (by have := BitVec.isLt st; have := BitVec.isLt code; omega)

theorem Words.eret (st : SStall) : Words.Statement (.eret st) :=
  Words.one
    (by have := BitVec.isLt st; omega)

theorem Words.halt (st : SStall) : Words.Statement (.halt st) :=
  Words.one
    (by have := BitVec.isLt st; omega)

theorem Words.wfi (st : SStall) : Words.Statement (.wfi st) :=
  Words.one
    (by have := BitVec.isLt st; omega)

theorem Words.bkpt (st : SStall) : Words.Statement (.bkpt st) :=
  Words.one
    (by have := BitVec.isLt st; omega)

theorem Words.vadd (et : ETy) (st : VStall) (g : PReg) (d a b : VReg) (sat : Bool) : Words.Statement (.vadd et st g d a b sat) :=
  Words.one
    (by have := eTy_code_le et; have := BitVec.isLt st; have := BitVec.isLt g; have := BitVec.isLt d; have := BitVec.isLt a; have := BitVec.isLt b; have := Bool.toNat_le sat; omega)

theorem Words.vsub (et : ETy) (st : VStall) (g : PReg) (d a b : VReg) (sat : Bool) : Words.Statement (.vsub et st g d a b sat) :=
  Words.one
    (by have := eTy_code_le et; have := BitVec.isLt st; have := BitVec.isLt g; have := BitVec.isLt d; have := BitVec.isLt a; have := BitVec.isLt b; have := Bool.toNat_le sat; omega)

theorem Words.vmul (et : ETy) (st : VStall) (g : PReg) (d a b : VReg) (sat : Bool) : Words.Statement (.vmul et st g d a b sat) :=
  Words.one
    (by have := eTy_code_le et; have := BitVec.isLt st; have := BitVec.isLt g; have := BitVec.isLt d; have := BitVec.isLt a; have := BitVec.isLt b; have := Bool.toNat_le sat; omega)

theorem Words.vfma (et : ETy) (st : VStall) (g : PReg) (d a b : VReg) (sat : Bool) : Words.Statement (.vfma et st g d a b sat) :=
  Words.one
    (by have := eTy_code_le et; have := BitVec.isLt st; have := BitVec.isLt g; have := BitVec.isLt d; have := BitVec.isLt a; have := BitVec.isLt b; have := Bool.toNat_le sat; omega)

theorem Words.vmin (et : ETy) (st : VStall) (g : PReg) (d a b : VReg) (uns : Bool) : Words.Statement (.vmin et st g d a b uns) :=
  Words.one
    (by have := eTy_code_le et; have := BitVec.isLt st; have := BitVec.isLt g; have := BitVec.isLt d; have := BitVec.isLt a; have := BitVec.isLt b; have := Bool.toNat_le uns; omega)

theorem Words.vmax (et : ETy) (st : VStall) (g : PReg) (d a b : VReg) (uns : Bool) : Words.Statement (.vmax et st g d a b uns) :=
  Words.one
    (by have := eTy_code_le et; have := BitVec.isLt st; have := BitVec.isLt g; have := BitVec.isLt d; have := BitVec.isLt a; have := BitVec.isLt b; have := Bool.toNat_le uns; omega)

theorem Words.vabs (et : ETy) (st : VStall) (g : PReg) (d a : VReg) (sat : Bool) : Words.Statement (.vabs et st g d a sat) :=
  Words.one
    (by have := eTy_code_le et; have := BitVec.isLt st; have := BitVec.isLt g; have := BitVec.isLt d; have := BitVec.isLt a; have := Bool.toNat_le sat; omega)

theorem Words.vneg (et : ETy) (st : VStall) (g : PReg) (d a : VReg) (sat : Bool) : Words.Statement (.vneg et st g d a sat) :=
  Words.one
    (by have := eTy_code_le et; have := BitVec.isLt st; have := BitVec.isLt g; have := BitVec.isLt d; have := BitVec.isLt a; have := Bool.toNat_le sat; omega)

theorem Words.vand (et : ETy) (st : VStall) (g : PReg) (d a b : VReg) : Words.Statement (.vand et st g d a b) :=
  Words.one
    (by have := eTy_code_le et; have := BitVec.isLt st; have := BitVec.isLt g; have := BitVec.isLt d; have := BitVec.isLt a; have := BitVec.isLt b; omega)

theorem Words.vor (et : ETy) (st : VStall) (g : PReg) (d a b : VReg) : Words.Statement (.vor et st g d a b) :=
  Words.one
    (by have := eTy_code_le et; have := BitVec.isLt st; have := BitVec.isLt g; have := BitVec.isLt d; have := BitVec.isLt a; have := BitVec.isLt b; omega)

theorem Words.vxor (et : ETy) (st : VStall) (g : PReg) (d a b : VReg) : Words.Statement (.vxor et st g d a b) :=
  Words.one
    (by have := eTy_code_le et; have := BitVec.isLt st; have := BitVec.isLt g; have := BitVec.isLt d; have := BitVec.isLt a; have := BitVec.isLt b; omega)

theorem Words.vshl (et : ETy) (st : VStall) (g : PReg) (d a b : VReg) : Words.Statement (.vshl et st g d a b) :=
  Words.one
    (by have := eTy_code_le et; have := BitVec.isLt st; have := BitVec.isLt g; have := BitVec.isLt d; have := BitVec.isLt a; have := BitVec.isLt b; omega)

theorem Words.vshr (et : ETy) (st : VStall) (g : PReg) (d a b : VReg) (uns : Bool) : Words.Statement (.vshr et st g d a b uns) :=
  Words.one
    (by have := eTy_code_le et; have := BitVec.isLt st; have := BitVec.isLt g; have := BitVec.isLt d; have := BitVec.isLt a; have := BitVec.isLt b; have := Bool.toNat_le uns; omega)

theorem Words.vcmp (et : ETy) (st : VStall) (p : PReg) (k : CmpKind) (a b : VReg) (uns : Bool) : Words.Statement (.vcmp et st p k a b uns) :=
  Words.one
    (by have := eTy_code_le et; have := BitVec.isLt st; have := BitVec.isLt p; have := cmpKind_code_le k; have := BitVec.isLt a; have := BitVec.isLt b; have := Bool.toNat_le uns; omega)

theorem Words.vsel (et : ETy) (st : VStall) (p : PReg) (d a b : VReg) : Words.Statement (.vsel et st p d a b) :=
  Words.one
    (by have := eTy_code_le et; have := BitVec.isLt st; have := BitVec.isLt p; have := BitVec.isLt d; have := BitVec.isLt a; have := BitVec.isLt b; omega)

theorem Words.vmov (et : ETy) (st : VStall) (g : PReg) (d a : VReg) : Words.Statement (.vmov et st g d a) :=
  Words.one
    (by have := eTy_code_le et; have := BitVec.isLt st; have := BitVec.isLt g; have := BitVec.isLt d; have := BitVec.isLt a; omega)

theorem Words.vexp2 (et : ETy) (st : VStall) (g : PReg) (d a : VReg) : Words.Statement (.vexp2 et st g d a) :=
  Words.one
    (by have := eTy_code_le et; have := BitVec.isLt st; have := BitVec.isLt g; have := BitVec.isLt d; have := BitVec.isLt a; omega)

theorem Words.vlog2 (et : ETy) (st : VStall) (g : PReg) (d a : VReg) : Words.Statement (.vlog2 et st g d a) :=
  Words.one
    (by have := eTy_code_le et; have := BitVec.isLt st; have := BitVec.isLt g; have := BitVec.isLt d; have := BitVec.isLt a; omega)

theorem Words.vrcp (et : ETy) (st : VStall) (g : PReg) (d a : VReg) : Words.Statement (.vrcp et st g d a) :=
  Words.one
    (by have := eTy_code_le et; have := BitVec.isLt st; have := BitVec.isLt g; have := BitVec.isLt d; have := BitVec.isLt a; omega)

theorem Words.vrsq (et : ETy) (st : VStall) (g : PReg) (d a : VReg) : Words.Statement (.vrsq et st g d a) :=
  Words.one
    (by have := eTy_code_le et; have := BitVec.isLt st; have := BitVec.isLt g; have := BitVec.isLt d; have := BitVec.isLt a; omega)

theorem Words.vtanh (et : ETy) (st : VStall) (g : PReg) (d a : VReg) : Words.Statement (.vtanh et st g d a) :=
  Words.one
    (by have := eTy_code_le et; have := BitVec.isLt st; have := BitVec.isLt g; have := BitVec.isLt d; have := BitVec.isLt a; omega)

theorem Words.verf (et : ETy) (st : VStall) (g : PReg) (d a : VReg) : Words.Statement (.verf et st g d a) :=
  Words.one
    (by have := eTy_code_le et; have := BitVec.isLt st; have := BitVec.isLt g; have := BitVec.isLt d; have := BitVec.isLt a; omega)

theorem Words.vcvt (et : ETy) (st : VStall) (g : PReg) (d a : VReg) (y : ETy) (r : Round) (sat : Bool) : Words.Statement (.vcvt et st g d a y r sat) :=
  Words.one
    (by have := eTy_code_le et; have := BitVec.isLt st; have := BitVec.isLt g; have := BitVec.isLt d; have := BitVec.isLt a; have := eTy_code_le y; have := round_code_le r; have := Bool.toNat_le sat; omega)

theorem Words.vwid (et : ETy) (st : VStall) (g : PReg) (d a : VReg) (y : ETy) (uns : Bool) : Words.Statement (.vwid et st g d a y uns) :=
  Words.one
    (by have := eTy_code_le et; have := BitVec.isLt st; have := BitVec.isLt g; have := BitVec.isLt d; have := BitVec.isLt a; have := eTy_code_le y; have := Bool.toNat_le uns; omega)

theorem Words.vnar (et : ETy) (st : VStall) (g : PReg) (d a : VReg) (y : ETy) (r : Round) (sat : Bool) : Words.Statement (.vnar et st g d a y r sat) :=
  Words.one
    (by have := eTy_code_le et; have := BitVec.isLt st; have := BitVec.isLt g; have := BitVec.isLt d; have := BitVec.isLt a; have := eTy_code_le y; have := round_code_le r; have := Bool.toNat_le sat; omega)

theorem Words.vperm (et : ETy) (st : VStall) (g : PReg) (d a b : VReg) : Words.Statement (.vperm et st g d a b) :=
  Words.one
    (by have := eTy_code_le et; have := BitVec.isLt st; have := BitVec.isLt g; have := BitVec.isLt d; have := BitVec.isLt a; have := BitVec.isLt b; omega)

theorem Words.vzip (et : ETy) (st : VStall) (g : PReg) (d a b : VReg) : Words.Statement (.vzip et st g d a b) :=
  Words.one
    (by have := eTy_code_le et; have := BitVec.isLt st; have := BitVec.isLt g; have := BitVec.isLt d; have := BitVec.isLt a; have := BitVec.isLt b; omega)

theorem Words.vunz (et : ETy) (st : VStall) (g : PReg) (d a b : VReg) : Words.Statement (.vunz et st g d a b) :=
  Words.one
    (by have := eTy_code_le et; have := BitVec.isLt st; have := BitVec.isLt g; have := BitVec.isLt d; have := BitVec.isLt a; have := BitVec.isLt b; omega)

theorem Words.vred (et : ETy) (st : VStall) (g : PReg) (d a : VReg) (f : RedFn) (uns : Bool) : Words.Statement (.vred et st g d a f uns) :=
  Words.one
    (by have := eTy_code_le et; have := BitVec.isLt st; have := BitVec.isLt g; have := BitVec.isLt d; have := BitVec.isLt a; have := redFn_code_le f; have := Bool.toNat_le uns; omega)

theorem Words.vscan (et : ETy) (st : VStall) (g : PReg) (d a : VReg) (f : RedFn) (uns : Bool) : Words.Statement (.vscan et st g d a f uns) :=
  Words.one
    (by have := eTy_code_le et; have := BitVec.isLt st; have := BitVec.isLt g; have := BitVec.isLt d; have := BitVec.isLt a; have := redFn_code_le f; have := Bool.toNat_le uns; omega)

theorem Words.viota (et : ETy) (st : VStall) (g : PReg) (d : VReg) : Words.Statement (.viota et st g d) :=
  Words.one
    (by have := eTy_code_le et; have := BitVec.isLt st; have := BitVec.isLt g; have := BitVec.isLt d; omega)

theorem Words.vbcast (et : ETy) (st : VStall) (g : PReg) (d : VReg) (b : AReg) : Words.Statement (.vbcast et st g d b) :=
  Words.one
    (by have := eTy_code_le et; have := BitVec.isLt st; have := BitVec.isLt g; have := BitVec.isLt d; have := BitVec.isLt b; omega)

theorem Words.vaddi (et : ETy) (st : VStall) (d : VReg) (imm : BitVec 16) : Words.Statement (.vaddi et st d imm) :=
  Words.one
    (by have := eTy_code_le et; have := BitVec.isLt st; have := BitVec.isLt d; have := BitVec.isLt imm; omega)

theorem Words.vmuli (et : ETy) (st : VStall) (d : VReg) (imm : BitVec 16) : Words.Statement (.vmuli et st d imm) :=
  Words.one
    (by have := eTy_code_le et; have := BitVec.isLt st; have := BitVec.isLt d; have := BitVec.isLt imm; omega)

theorem Words.vmaxi (et : ETy) (st : VStall) (d : VReg) (imm : BitVec 16) : Words.Statement (.vmaxi et st d imm) :=
  Words.one
    (by have := eTy_code_le et; have := BitVec.isLt st; have := BitVec.isLt d; have := BitVec.isLt imm; omega)

theorem Words.vmini (et : ETy) (st : VStall) (d : VReg) (imm : BitVec 16) : Words.Statement (.vmini et st d imm) :=
  Words.one
    (by have := eTy_code_le et; have := BitVec.isLt st; have := BitVec.isLt d; have := BitVec.isLt imm; omega)

theorem Words.vmovi (et : ETy) (st : VStall) (d : VReg) (imm : BitVec 16) : Words.Statement (.vmovi et st d imm) :=
  Words.one
    (by have := eTy_code_le et; have := BitVec.isLt st; have := BitVec.isLt d; have := BitVec.isLt imm; omega)

theorem Words.vandi (et : ETy) (st : VStall) (d : VReg) (imm : BitVec 16) : Words.Statement (.vandi et st d imm) :=
  Words.one
    (by have := eTy_code_le et; have := BitVec.isLt st; have := BitVec.isLt d; have := BitVec.isLt imm; omega)

theorem Words.vshli (et : ETy) (st : VStall) (d : VReg) (imm : BitVec 16) : Words.Statement (.vshli et st d imm) :=
  Words.one
    (by have := eTy_code_le et; have := BitVec.isLt st; have := BitVec.isLt d; have := BitVec.isLt imm; omega)

theorem Words.vsubi (et : ETy) (st : VStall) (d : VReg) (imm : BitVec 16) : Words.Statement (.vsubi et st d imm) :=
  Words.one
    (by have := eTy_code_le et; have := BitVec.isLt st; have := BitVec.isLt d; have := BitVec.isLt imm; omega)

theorem Words.vld (et : ETy) (st : VStall) (g : PReg) (d : VReg) (t : TReg) (o : AReg) (gauge raw : Bool) : Words.Statement (.vld et st g d t o gauge raw) :=
  Words.one
    (by have := eTy_code_le et; have := BitVec.isLt st; have := BitVec.isLt g; have := BitVec.isLt d; have := BitVec.isLt t; have := BitVec.isLt o; have := Bool.toNat_le gauge; have := Bool.toNat_le raw; omega)

theorem Words.vst (et : ETy) (st : VStall) (g : PReg) (d : VReg) (t : TReg) (o : AReg) (raw : Bool) : Words.Statement (.vst et st g d t o raw) :=
  Words.one
    (by have := eTy_code_le et; have := BitVec.isLt st; have := BitVec.isLt g; have := BitVec.isLt d; have := BitVec.isLt t; have := BitVec.isLt o; have := Bool.toNat_le raw; omega)

theorem Words.vlds (et : ETy) (st : VStall) (g : PReg) (d : VReg) (b : AReg) (imm : BitVec 7) : Words.Statement (.vlds et st g d b imm) :=
  Words.one
    (by have := eTy_code_le et; have := BitVec.isLt st; have := BitVec.isLt g; have := BitVec.isLt d; have := BitVec.isLt b; have := BitVec.isLt imm; omega)

theorem Words.vsts (et : ETy) (st : VStall) (g : PReg) (d : VReg) (b : AReg) (imm : BitVec 7) : Words.Statement (.vsts et st g d b imm) :=
  Words.one
    (by have := eTy_code_le et; have := BitVec.isLt st; have := BitVec.isLt g; have := BitVec.isLt d; have := BitVec.isLt b; have := BitVec.isLt imm; omega)

theorem Words.vgath (et : ETy) (st : VStall) (g : PReg) (d : VReg) (t : TReg) (b : VReg) (elems : Bool) : Words.Statement (.vgath et st g d t b elems) :=
  Words.one
    (by have := eTy_code_le et; have := BitVec.isLt st; have := BitVec.isLt g; have := BitVec.isLt d; have := BitVec.isLt t; have := BitVec.isLt b; have := Bool.toNat_le elems; omega)

theorem Words.vscat (et : ETy) (st : VStall) (g : PReg) (d : VReg) (t : TReg) (b : VReg) (elems : Bool) : Words.Statement (.vscat et st g d t b elems) :=
  Words.one
    (by have := eTy_code_le et; have := BitVec.isLt st; have := BitVec.isLt g; have := BitVec.isLt d; have := BitVec.isLt t; have := BitVec.isLt b; have := Bool.toNat_le elems; omega)

theorem Words.vslotAcq (st : VStall) (d : AReg) (n : RingId) : Words.Statement (.vslotAcq st d n) :=
  Words.one
    (by have := BitVec.isLt st; have := BitVec.isLt d; have := BitVec.isLt n; omega)

theorem Words.vslotCommit (st : VStall) (n : RingId) : Words.Statement (.vslotCommit st n) :=
  Words.one
    (by have := BitVec.isLt st; have := BitVec.isLt n; omega)

theorem Words.vslotAwait (st : VStall) (d : AReg) (n : RingId) : Words.Statement (.vslotAwait st d n) :=
  Words.one
    (by have := BitVec.isLt st; have := BitVec.isLt d; have := BitVec.isLt n; omega)

theorem Words.vslotRel (st : VStall) (n : RingId) : Words.Statement (.vslotRel st n) :=
  Words.one
    (by have := BitVec.isLt st; have := BitVec.isLt n; omega)

theorem Words.vsetfSetfmt (st : VStall) (k : BitVec 4) : Words.Statement (.vsetfSetfmt st k) :=
  Words.one
    (by have := BitVec.isLt st; have := BitVec.isLt k; omega)

theorem Words.vsetfSelpat (st : VStall) (en : Bool) (k : BitVec 3) : Words.Statement (.vsetfSelpat st en k) :=
  Words.one
    (by have := BitVec.isLt st; have := Bool.toNat_le en; have := BitVec.isLt k; omega)

theorem Words.vsetfLdpat (st : VStall) (h : AReg) (k : BitVec 3) : Words.Statement (.vsetfLdpat st h k) :=
  Words.one
    (by have := BitVec.isLt st; have := BitVec.isLt h; have := BitVec.isLt k; omega)

theorem Words.pand (st : VStall) (d a b : PReg) : Words.Statement (.pand st d a b) :=
  Words.one
    (by have := BitVec.isLt st; have := BitVec.isLt d; have := BitVec.isLt a; have := BitVec.isLt b; omega)

theorem Words.por (st : VStall) (d a b : PReg) : Words.Statement (.por st d a b) :=
  Words.one
    (by have := BitVec.isLt st; have := BitVec.isLt d; have := BitVec.isLt a; have := BitVec.isLt b; omega)

theorem Words.pxor (st : VStall) (d a b : PReg) : Words.Statement (.pxor st d a b) :=
  Words.one
    (by have := BitVec.isLt st; have := BitVec.isLt d; have := BitVec.isLt a; have := BitVec.isLt b; omega)

theorem Words.pnot (st : VStall) (d a : PReg) : Words.Statement (.pnot st d a) :=
  Words.one
    (by have := BitVec.isLt st; have := BitVec.isLt d; have := BitVec.isLt a; omega)

theorem Words.pcnt (et : ETy) (st : VStall) (d : AReg) (a : PReg) : Words.Statement (.pcnt et st d a) :=
  Words.one
    (by have := eTy_code_le et; have := BitVec.isLt st; have := BitVec.isLt d; have := BitVec.isLt a; omega)

theorem Words.pfirst (et : ETy) (st : VStall) (d : AReg) (a : PReg) : Words.Statement (.pfirst et st d a) :=
  Words.one
    (by have := eTy_code_le et; have := BitVec.isLt st; have := BitVec.isLt d; have := BitVec.isLt a; omega)

theorem Words.arecv (st : VStall) (d : AReg) (m : BitVec 4) : Words.Statement (.arecv st d m) :=
  Words.one
    (by have := BitVec.isLt st; have := BitVec.isLt d; have := BitVec.isLt m; omega)

theorem Words.aopImm (f : AopFn) (st : VStall) (d a : AReg) (imm : BitVec 12) : Words.Statement (.aopImm f st d a imm) :=
  Words.one
    (by have := aopFn_code_le f; have := BitVec.isLt st; have := BitVec.isLt d; have := BitVec.isLt a; have := BitVec.isLt imm; omega)

theorem Words.aopReg (f : AopFn) (st : VStall) (d a b : AReg) : Words.Statement (.aopReg f st d a b) :=
  Words.one
    (by have := aopFn_code_le f; have := BitVec.isLt st; have := BitVec.isLt d; have := BitVec.isLt a; have := BitVec.isLt b; omega)

theorem Words.vpost (st : VStall) (n : SemId) : Words.Statement (.vpost st n) :=
  Words.one
    (by have := BitVec.isLt st; have := BitVec.isLt n; omega)

theorem Words.vwait (st : VStall) (n : SemId) : Words.Statement (.vwait st n) :=
  Words.one
    (by have := BitVec.isLt st; have := BitVec.isLt n; omega)

theorem Words.vmark (st : VStall) (sc : Scope) : Words.Statement (.vmark st sc) :=
  Words.one
    (by have := BitVec.isLt st; have := scope_code_le sc; omega)

theorem Words.vloop (st : VStall) (len : BitVec 5) (count : BitVec 16) : Words.Statement (.vloop st len count) :=
  Words.one
    (by have := BitVec.isLt st; have := BitVec.isLt len; have := BitVec.isLt count; omega)

theorem Words.vend : Words.Statement (.vend) :=
  Words.one
    (by omega)

theorem Words.msync (ws ss : SemId) (e : Bool) : Words.Statement (.msync ws ss e) :=
  Words.two
    (by have := BitVec.isLt ws; have := BitVec.isLt ss; have := Bool.toNat_le e; omega)
    (by omega)

theorem Words.mma (ws ss : SemId) (rl : Bool) (bank : BitVec 2) (z : Bool) (ar br : RingId) (t : Bool) (nslab : BitVec 8) (klast : BitVec 7) (afmt bfmt : BitVec 4) (et : ETy) (ua ub ck : Bool) : Words.Statement (.mma ws ss rl bank z ar br t nslab klast afmt bfmt et ua ub ck) :=
  Words.two
    (by have := BitVec.isLt ws; have := BitVec.isLt ss; have := Bool.toNat_le rl; have := BitVec.isLt bank; have := Bool.toNat_le z; have := BitVec.isLt ar; have := BitVec.isLt br; have := Bool.toNat_le t; omega)
    (by have := BitVec.isLt nslab; have := BitVec.isLt klast; have := BitVec.isLt afmt; have := BitVec.isLt bfmt; have := eTy_code_le et; have := Bool.toNat_le ua; have := Bool.toNat_le ub; have := Bool.toNat_le ck; omega)

theorem Words.mmap (ws ss : SemId) (bank : BitVec 2) (z : Bool) (ar br : RingId) (t : Bool) (nslab : BitVec 8) (klast : BitVec 7) (afmt bfmt : BitVec 4) (et : ETy) (ua ub ck : Bool) : Words.Statement (.mmap ws ss bank z ar br t nslab klast afmt bfmt et ua ub ck) :=
  Words.two
    (by have := BitVec.isLt ws; have := BitVec.isLt ss; have := BitVec.isLt bank; have := Bool.toNat_le z; have := BitVec.isLt ar; have := BitVec.isLt br; have := Bool.toNat_le t; omega)
    (by have := BitVec.isLt nslab; have := BitVec.isLt klast; have := BitVec.isLt afmt; have := BitVec.isLt bfmt; have := eTy_code_le et; have := Bool.toNat_le ua; have := Bool.toNat_le ub; have := Bool.toNat_le ck; omega)

theorem Words.mzero (ws ss : SemId) (rl : Bool) (bank : BitVec 2) : Words.Statement (.mzero ws ss rl bank) :=
  Words.two
    (by have := BitVec.isLt ws; have := BitVec.isLt ss; have := Bool.toNat_le rl; have := BitVec.isLt bank; omega)
    (by omega)

theorem Words.mdrain (ws ss : SemId) (rl : Bool) (bank : BitVec 2) (ot : ETy) (r : Round) (sk sat : Bool) (scale : BitVec 16) (dest : BitVec 12) (xf : BitVec 4) : Words.Statement (.mdrain ws ss rl bank ot r sk sat scale dest xf) :=
  Words.two
    (by have := BitVec.isLt ws; have := BitVec.isLt ss; have := Bool.toNat_le rl; have := BitVec.isLt bank; have := eTy_code_le ot; have := round_code_le r; have := Bool.toNat_le sk; have := Bool.toNat_le sat; omega)
    (by have := BitVec.isLt scale; have := BitVec.isLt dest; have := BitVec.isLt xf; omega)

theorem Words.mldacc (ws ss : SemId) (rl : Bool) (bank : BitVec 2) (it : ETy) (src : BitVec 12) (xf : BitVec 4) : Words.Statement (.mldacc ws ss rl bank it src xf) :=
  Words.two
    (by have := BitVec.isLt ws; have := BitVec.isLt ss; have := Bool.toNat_le rl; have := BitVec.isLt bank; have := eTy_code_le it; omega)
    (by have := BitVec.isLt src; have := BitVec.isLt xf; omega)

theorem Words.mfmt (ws ss : SemId) (entry : BitVec 4) (src : BitVec 22) : Words.Statement (.mfmt ws ss entry src) :=
  Words.two
    (by have := BitVec.isLt ws; have := BitVec.isLt ss; have := BitVec.isLt entry; omega)
    (by have := BitVec.isLt src; omega)

theorem Words.mloop (len : BitVec 6) (count : BitVec 16) : Words.Statement (.mloop len count) :=
  Words.two
    (by have := BitVec.isLt len; omega)
    (by have := BitVec.isLt count; omega)

theorem Words.mchk (ws ss : SemId) (bank : BitVec 2) (rep : BitVec 22) : Words.Statement (.mchk ws ss bank rep) :=
  Words.two
    (by have := BitVec.isLt ws; have := BitVec.isLt ss; have := BitVec.isLt bank; omega)
    (by have := BitVec.isLt rep; omega)

theorem Words.csync (ws ss : SemId) (e : Bool) : Words.Statement (.csync ws ss e) :=
  Words.two
    (by have := BitVec.isLt ws; have := BitVec.isLt ss; have := Bool.toNat_le e; omega)
    (by omega)

theorem Words.copy (ws ss : SemId) (rl out : Bool) (t : TReg) (g : Bool) (ring : RingId) (off : BitVec 32) (spa len : BitVec 13) (j : Bool) : Words.Statement (.copy ws ss rl out t g ring off spa len j) :=
  Words.three
    (by have := BitVec.isLt ws; have := BitVec.isLt ss; have := Bool.toNat_le rl; have := Bool.toNat_le out; have := BitVec.isLt t; have := Bool.toNat_le g; have := BitVec.isLt ring; omega)
    (by have := BitVec.isLt off; omega)
    (by have := BitVec.isLt spa; have := BitVec.isLt len; have := Bool.toNat_le j; omega)

theorem Words.copyt (ws ss : SemId) (rl : Bool) (tm : BitVec 6) (ed : BitVec 19) (sd : BitVec 13) : Words.Statement (.copyt ws ss rl tm ed sd) :=
  Words.two
    (by have := BitVec.isLt ws; have := BitVec.isLt ss; have := Bool.toNat_le rl; have := BitVec.isLt tm; omega)
    (by have := BitVec.isLt ed; have := BitVec.isLt sd; omega)

theorem Words.imwin (ws ss : SemId) (rl : Bool) (t : TReg) (off : BitVec 32) (spa : BitVec 13) (p : BitVec 10) (kw : BitVec 4) (sx : BitVec 2) (cg : BitVec 3) : Words.Statement (.imwin ws ss rl t off spa p kw sx cg) :=
  Words.three
    (by have := BitVec.isLt ws; have := BitVec.isLt ss; have := Bool.toNat_le rl; have := BitVec.isLt t; omega)
    (by have := BitVec.isLt off; omega)
    (by have := BitVec.isLt spa; have := BitVec.isLt p; have := BitVec.isLt kw; have := BitVec.isLt sx; have := BitVec.isLt cg; omega)

theorem Words.gather (ws ss : SemId) (rl : Bool) (t : TReg) (count : BitVec 10) (idxa : BitVec 22) (spa row : BitVec 13) : Words.Statement (.gather ws ss rl t count idxa spa row) :=
  Words.three
    (by have := BitVec.isLt ws; have := BitVec.isLt ss; have := Bool.toNat_le rl; have := BitVec.isLt t; omega)
    (by have := BitVec.isLt count; have := BitVec.isLt idxa; omega)
    (by have := BitVec.isLt spa; have := BitVec.isLt row; omega)

theorem Words.scatter (ws ss : SemId) (rl : Bool) (t : TReg) (count : BitVec 10) (idxa : BitVec 22) (spa row : BitVec 13) : Words.Statement (.scatter ws ss rl t count idxa spa row) :=
  Words.three
    (by have := BitVec.isLt ws; have := BitVec.isLt ss; have := Bool.toNat_le rl; have := BitVec.isLt t; omega)
    (by have := BitVec.isLt count; have := BitVec.isLt idxa; omega)
    (by have := BitVec.isLt spa; have := BitVec.isLt row; omega)

theorem Words.fill (ws ss : SemId) (rl : Bool) (w : BitVec 2) (value : BitVec 32) (spa len : BitVec 13) (g : Bool) (ring : RingId) : Words.Statement (.fill ws ss rl w value spa len g ring) :=
  Words.three
    (by have := BitVec.isLt ws; have := BitVec.isLt ss; have := Bool.toNat_le rl; have := BitVec.isLt w; omega)
    (by have := BitVec.isLt value; omega)
    (by have := BitVec.isLt spa; have := BitVec.isLt len; have := Bool.toNat_le g; have := BitVec.isLt ring; omega)

theorem Words.sketch (ws ss : SemId) (rl : Bool) (et : ETy) (src : BitVec 12) (logn : BitVec 4) (dst : BitVec 16) : Words.Statement (.sketch ws ss rl et src logn dst) :=
  Words.two
    (by have := BitVec.isLt ws; have := BitVec.isLt ss; have := Bool.toNat_le rl; have := eTy_code_le et; omega)
    (by have := BitVec.isLt src; have := BitVec.isLt logn; have := BitVec.isLt dst; omega)

theorem Words.pcopy (ws ss : SemId) (out : Bool) (rank : BitVec 4) (sib len own : BitVec 13) : Words.Statement (.pcopy ws ss out rank sib len own) :=
  Words.three
    (by have := BitVec.isLt ws; have := BitVec.isLt ss; have := Bool.toNat_le out; have := BitVec.isLt rank; omega)
    (by have := BitVec.isLt sib; have := BitVec.isLt len; omega)
    (by have := BitVec.isLt own; omega)

theorem Words.dvopen (ws ss : SemId) (ch : BitVec 12) (dev : BitVec 22) (win : BitVec 16) : Words.Statement (.dvopen ws ss ch dev win) :=
  Words.three
    (by have := BitVec.isLt ws; have := BitVec.isLt ss; have := BitVec.isLt ch; omega)
    (by have := BitVec.isLt dev; omega)
    (by have := BitVec.isLt win; omega)

theorem Words.dvw (ws ss : SemId) (ch : BitVec 12) (woff : BitVec 32) (spa len : BitVec 13) : Words.Statement (.dvw ws ss ch woff spa len) :=
  Words.three
    (by have := BitVec.isLt ws; have := BitVec.isLt ss; have := BitVec.isLt ch; omega)
    (by have := BitVec.isLt woff; omega)
    (by have := BitVec.isLt spa; have := BitVec.isLt len; omega)

theorem Words.dvrel (ws ss : SemId) (ch : BitVec 12) (woff flag : BitVec 32) : Words.Statement (.dvrel ws ss ch woff flag) :=
  Words.three
    (by have := BitVec.isLt ws; have := BitVec.isLt ss; have := BitVec.isLt ch; omega)
    (by have := BitVec.isLt woff; omega)
    (by have := BitVec.isLt flag; omega)

theorem Words.dvshut (ws ss : SemId) (ch : BitVec 12) : Words.Statement (.dvshut ws ss ch) :=
  Words.two
    (by have := BitVec.isLt ws; have := BitVec.isLt ss; have := BitVec.isLt ch; omega)
    (by omega)

theorem Words.cloop (len : BitVec 6) (count : BitVec 16) : Words.Statement (.cloop len count) :=
  Words.two
    (by have := BitVec.isLt len; omega)
    (by have := BitVec.isLt count; omega)

theorem Words.cflush (ws ss : SemId) (t : TReg) (inv : Bool) (off len : BitVec 32) : Words.Statement (.cflush ws ss t inv off len) :=
  Words.three
    (by have := BitVec.isLt ws; have := BitVec.isLt ss; have := BitVec.isLt t; have := Bool.toNat_le inv; omega)
    (by have := BitVec.isLt off; omega)
    (by have := BitVec.isLt len; omega)

theorem Words.engineCommandIssue (core : CoreId) (eng : EngineSel) : Words.Statement (.engineCommandIssue core eng) := Words.none

theorem Words.engineCommandComplete (core : CoreId) (eng : EngineSel) : Words.Statement (.engineCommandComplete core eng) := Words.none

theorem Words.relocateTake (core : CoreId) (eng : EngineSel) : Words.Statement (.relocateTake core eng) := Words.none

theorem Words.apertureCopyStart (core : CoreId) (chan : BitVec 2) : Words.Statement (.apertureCopyStart core chan) := Words.none

theorem Words.streamWake (core : CoreId) (ag : Agent) : Words.Statement (.streamWake core ag) := Words.none

theorem Words.takeAsyncTrap (core : CoreId) : Words.Statement (.takeAsyncTrap core) := Words.none

theorem Words.replyResolved (ix : BitVec 64) : Words.Statement (.replyResolved ix) := Words.none

theorem Words.replyDeclined (ix : BitVec 64) : Words.Statement (.replyDeclined ix) := Words.none

theorem Words.replyNoframe (ix : BitVec 64) : Words.Statement (.replyNoframe ix) := Words.none

theorem Words.replyNoframeOwn (ix : BitVec 64) : Words.Statement (.replyNoframeOwn ix) := Words.none

theorem Words.pinwaitExpiry (ix : BitVec 64) : Words.Statement (.pinwaitExpiry ix) := Words.none

theorem Words.revokeUnmap (rq : RevokeReq) : Words.Statement (.revokeUnmap rq) := Words.none

theorem Words.revokeMigrate (rq : RevokeReq) : Words.Statement (.revokeMigrate rq) := Words.none

theorem Words.revokeDiscard (rq : RevokeReq) : Words.Statement (.revokeDiscard rq) := Words.none

theorem Words.revokeAttribute (rq : RevokeReq) : Words.Statement (.revokeAttribute rq) := Words.none

theorem Words.revocationSettled (ix : BitVec 64) : Words.Statement (.revocationSettled ix) := Words.none

theorem Words.rewalkComplete (core : CoreId) (mte : BitVec 6) : Words.Statement (.rewalkComplete core mte) := Words.none

theorem Words.migrationLinePull (pair : BitVec 7) : Words.Statement (.migrationLinePull pair) := Words.none

theorem Words.tailWrite (slot : SlotId) (w : BitVec 64) : Words.Statement (.tailWrite slot w) := Words.none

theorem Words.qcanWrite (slot : SlotId) (w : BitVec 64) : Words.Statement (.qcanWrite slot w) := Words.none

theorem Words.clearOvr (slot : SlotId) : Words.Statement (.clearOvr slot) := Words.none

theorem Words.clearMal (slot : SlotId) : Words.Statement (.clearMal slot) := Words.none

theorem Words.clearXlf (slot : SlotId) : Words.Statement (.clearXlf slot) := Words.none

theorem Words.registerWrite (off : BitVec 24) (val : BitVec 64) : Words.Statement (.registerWrite off val) := Words.none

theorem Words.hostBar2Access (part : BitVec 3) (off : BitVec 64) (acc : HostAccess) : Words.Statement (.hostBar2Access part off acc) := Words.none

theorem Words.cxlMemAccess (part : BitVec 3) (off : BitVec 64) (acc : HostAccess) : Words.Statement (.cxlMemAccess part off acc) := Words.none

theorem Words.packetJig (slot : SlotId) : Words.Statement (.packetJig slot) := Words.none

theorem Words.packetGraph (slot : SlotId) : Words.Statement (.packetGraph slot) := Words.none

theorem Words.packetCopy (slot : SlotId) : Words.Statement (.packetCopy slot) := Words.none

theorem Words.packetCopyDone (slot : SlotId) : Words.Statement (.packetCopyDone slot) := Words.none

theorem Words.packetSignal (slot : SlotId) : Words.Statement (.packetSignal slot) := Words.none

theorem Words.packetWait (slot : SlotId) : Words.Statement (.packetWait slot) := Words.none

theorem Words.dispatcherReread (slot : SlotId) : Words.Statement (.dispatcherReread slot) := Words.none

theorem Words.launchedTake (slot : SlotId) : Words.Statement (.launchedTake slot) := Words.none

theorem Words.stepHandout (wk : WalkerId) : Words.Statement (.stepHandout wk) := Words.none

theorem Words.skipDecision (wk : WalkerId) : Words.Statement (.skipDecision wk) := Words.none

theorem Words.stepEnd (core : CoreId) : Words.Statement (.stepEnd core) := Words.none

theorem Words.tlimitExpiry (core : CoreId) : Words.Statement (.tlimitExpiry core) := Words.none

theorem Words.panelReserve (wk : WalkerId) : Words.Statement (.panelReserve wk) := Words.none

theorem Words.nodeReady (gr : BitVec 16) (node : BitVec 10) : Words.Statement (.nodeReady gr node) := Words.none

theorem Words.nodeCond (gr : BitVec 16) (node : BitVec 10) : Words.Statement (.nodeCond gr node) := Words.none

theorem Words.nodeHostring (gr : BitVec 16) (node : BitVec 10) : Words.Statement (.nodeHostring gr node) := Words.none

theorem Words.hostringTimeExpiry (ring : BitVec 8) : Words.Statement (.hostringTimeExpiry ring) := Words.none

theorem Words.multiCommit (gid : BitVec 32) : Words.Statement (.multiCommit gid) := Words.none

theorem Words.multiTimeout (gid : BitVec 32) : Words.Statement (.multiTimeout gid) := Words.none

theorem Words.preemptRequest (gang : GangId) : Words.Statement (.preemptRequest gang) := Words.none

theorem Words.preemptSaveDone (gang : GangId) : Words.Statement (.preemptSaveDone gang) := Words.none

theorem Words.restoreRequest (gang : GangId) : Words.Statement (.restoreRequest gang) := Words.none

theorem Words.mapGang (gang : GangId) (slots : List SlotId) (root : BitVec 64) (part : BitVec 3) (save : BitVec 64) : Words.Statement (.mapGang gang slots root part save) := Words.none

theorem Words.unmapGang (gang : GangId) : Words.Statement (.unmapGang gang) := Words.none

theorem Words.setPartitions (n : BitVec 4) : Words.Statement (.setPartitions n) := Words.none

theorem Words.bindDescriptor (n : BitVec 6) (gang : GangId) (image : List Byte) : Words.Statement (.bindDescriptor n gang image) := Words.none

theorem Words.freeDescriptor (n : BitVec 6) : Words.Statement (.freeDescriptor n) := Words.none

theorem Words.exportWindow (win : BitVec 16) (gang : GangId) (base len : BitVec 64) (src : BitVec 22) (anySrc : Bool) : Words.Statement (.exportWindow win gang base len src anySrc) := Words.none

theorem Words.loadKey (slot : BitVec 13) (key : BitVec 512) : Words.Statement (.loadKey slot key) := Words.none

theorem Words.govceilWrite (half : Bool) (val : BitVec 8) : Words.Statement (.govceilWrite half val) := Words.none

theorem Words.govRampUp (core : CoreId) : Words.Statement (.govRampUp core) := Words.none

theorem Words.govRampDown (core : CoreId) : Words.Statement (.govRampDown core) := Words.none

theorem Words.rotationTestStart (core : CoreId) : Words.Statement (.rotationTestStart core) := Words.none

theorem Words.rotationTestPass (core : CoreId) : Words.Statement (.rotationTestPass core) := Words.none

theorem Words.rotationTestFail (core : CoreId) : Words.Statement (.rotationTestFail core) := Words.none

theorem Words.rotationDeadline (core : CoreId) : Words.Statement (.rotationDeadline core) := Words.none

theorem Words.dramUncorrectable (addr : BitVec 51) : Words.Statement (.dramUncorrectable addr) := Words.none

theorem Words.dramRowRemap (addr : BitVec 51) : Words.Statement (.dramRowRemap addr) := Words.none

theorem Words.poisonRecordThreshold : Words.Statement (.poisonRecordThreshold) := Words.none

theorem Words.sramUncorrectable (core : CoreId) (site : SramSite) : Words.Statement (.sramUncorrectable core site) := Words.none

theorem Words.dispatcherMemError (half : Bool) : Words.Statement (.dispatcherMemError half) := Words.none

theorem Words.structureCompare (res : CompareResult) : Words.Statement (.structureCompare res) := Words.none

theorem Words.dvRecvWrite (pk : DvPacket) : Words.Statement (.dvRecvWrite pk) := Words.none

theorem Words.dvRecvRelease (pk : DvPacket) : Words.Statement (.dvRecvRelease pk) := Words.none

theorem Words.dvRecvGap (pk : DvPacket) : Words.Statement (.dvRecvGap pk) := Words.none

theorem Words.dvRecvBusy (pk : DvPacket) : Words.Statement (.dvRecvBusy pk) := Words.none

theorem Words.dvBusyRestart (gang : GangId) (ch : BitVec 12) : Words.Statement (.dvBusyRestart gang ch) := Words.none

theorem Words.dvRecvOpen (pk : DvPacket) : Words.Statement (.dvRecvOpen pk) := Words.none

theorem Words.dvRecvOpenack (pk : DvPacket) : Words.Statement (.dvRecvOpenack pk) := Words.none

theorem Words.dvRecvShut (pk : DvPacket) : Words.Statement (.dvRecvShut pk) := Words.none

theorem Words.dvRecvShutack (pk : DvPacket) : Words.Statement (.dvRecvShutack pk) := Words.none

theorem Words.dvRecvFault (pk : DvPacket) : Words.Statement (.dvRecvFault pk) := Words.none

theorem Words.dvRecvFaultack (pk : DvPacket) : Words.Statement (.dvRecvFaultack pk) := Words.none

theorem Words.dvReleaseCopy (gang : GangId) (ch : BitVec 12) : Words.Statement (.dvReleaseCopy gang ch) := Words.none

theorem Words.dvTgapExpiry (x : ArrivalEpoch) : Words.Statement (.dvTgapExpiry x) := Words.none

theorem Words.dvGapRepeat (x : ArrivalEpoch) : Words.Statement (.dvGapRepeat x) := Words.none

theorem Words.dvReplayTimeout (x : ArrivalEpoch) : Words.Statement (.dvReplayTimeout x) := Words.none

theorem Words.dvSettle (gang : GangId) (ch : BitVec 12) : Words.Statement (.dvSettle gang ch) := Words.none

theorem Words.dvControlResend (own : ControlOwner) : Words.Statement (.dvControlResend own) := Words.none

theorem Words.packetExpiry (ix : BitVec 32) : Words.Statement (.packetExpiry ix) := Words.none

theorem Words.flitReceive (port : BitVec 4) (f : LinkFlit) (ok : Bool) : Words.Statement (.flitReceive port f ok) := Words.none

theorem Words.linkDown (port : BitVec 4) : Words.Statement (.linkDown port) := Words.none

theorem Words.portTrained (port : BitVec 4) : Words.Statement (.portTrained port) := Words.none

theorem Words.powerOn : Words.Statement (.powerOn) := Words.none

theorem Words.leaseN : Words.Statement (.leaseN) := Words.none

theorem Words.gate : Words.Statement (.gate) := Words.none

theorem Words.setNonce (nonce : BitVec 256) (time : BitVec 64) : Words.Statement (.setNonce nonce time) := Words.none

theorem Words.readStatus : Words.Statement (.readStatus) := Words.none

theorem Words.readRecord : Words.Statement (.readRecord) := Words.none

theorem Words.scrubComplete (res : ScrubResult) : Words.Statement (.scrubComplete res) := Words.none

theorem Words.ldctlGo : Words.Statement (.ldctlGo) := Words.none

theorem Words.liveLoad (image : List Byte) (versionOk : Bool) : Words.Statement (.liveLoad image versionOk) := Words.none

theorem Words.extend (n : BitVec 4) (digest : BitVec 384) : Words.Statement (.extend n digest) := Words.none

theorem Words.benchHeartbeatTimeout : Words.Statement (.benchHeartbeatTimeout) := Words.none

theorem Words.getVersion (tr : Bool) (rq : SpdmReq) : Words.Statement (.getVersion tr rq) := Words.none

theorem Words.getCapabilities (tr : Bool) (rq : SpdmReq) : Words.Statement (.getCapabilities tr rq) := Words.none

theorem Words.negotiateAlgorithms (tr : Bool) (rq : SpdmReq) : Words.Statement (.negotiateAlgorithms tr rq) := Words.none

theorem Words.getDigests (tr : Bool) (rq : SpdmReq) : Words.Statement (.getDigests tr rq) := Words.none

theorem Words.getCertificate (tr : Bool) (rq : SpdmReq) : Words.Statement (.getCertificate tr rq) := Words.none

theorem Words.challenge (tr : Bool) (rq : SpdmReq) : Words.Statement (.challenge tr rq) := Words.none

theorem Words.getMeasurements (tr : Bool) (rq : SpdmReq) : Words.Statement (.getMeasurements tr rq) := Words.none

theorem Words.spdmUnsupportedRequest (tr : Bool) (rq : SpdmReq) : Words.Statement (.spdmUnsupportedRequest tr rq) := Words.none

theorem Words.dramTempThreshold (half : Bool) (temp : BitVec 16) : Words.Statement (.dramTempThreshold half temp) := Words.none

theorem Words.powerLoss : Words.Statement (.powerLoss) := Words.none

theorem Words.benchSramUncorrectable : Words.Statement (.benchSramUncorrectable) := Words.none

theorem Words.apertureCopyDone (core : CoreId) (chan : BitVec 2) : Words.Statement (.apertureCopyDone core chan) := Words.none

theorem Words.predictedFrameConfirmed (core : CoreId) : Words.Statement (.predictedFrameConfirmed core) := Words.none

theorem Words.storeVisible (core : CoreId) (ag : Agent) : Words.Statement (.storeVisible core ag) := Words.none

theorem Words.msixVectorUnmask (vec : BitVec 11) : Words.Statement (.msixVectorUnmask vec) := Words.none

end Sys2Proof.Laws
end

