-- ==== Sys2Proof/Tests/Slice0.lean ====
section
/-! SUPPORT. Tests of the model: a word of every instruction decoded from the encodings of the spec, ill-formed terms that
WellFormed refuses, single steps against the spec's worked numbers, and, for every obligation with hypotheses, a state that
meets them. -/

namespace Sys2Proof.Tests

open Sys2Proof Sys2Proof.Machine

set_option Elab.async false

/-- Words written from the table of R55's encodings. (ADD to ADDI) -/
theorem test_decode_s0 :
    decodeS 0x02EEA7E0 = .ok (.add 5 55 20 63) ∧
    decodeS 0x036128E1 = .ok (.sub 6 48 37 7) ∧
    decodeS 0x008F2DA2 = .ok (.and 1 7 37 45) ∧
    decodeS 0x02B41B23 = .ok (.or 5 26 3 25) ∧
    decodeS 0x01066B04 = .ok (.xor 2 3 13 24) ∧
    decodeS 0x03AFA265 = .ok (.sll 7 23 52 19) ∧
    decodeS 0x02114186 = .ok (.srl 4 8 40 12) ∧
    decodeS 0x00E1DF27 = .ok (.sra 1 48 59 57) ∧
    decodeS 0x0213DD08 = .ok (.slt 4 9 59 40) ∧
    decodeS 0x03BD6229 = .ok (.sltu 7 30 44 17) ∧
    decodeS 0x02A942EA = .ok (.seq 5 20 40 23) ∧
    decodeS 0x023EE86B = .ok (.min 4 31 29 3) ∧
    decodeS 0x0329CA4C = .ok (.max 6 20 57 18) ∧
    decodeS 0x0382096D = .ok (.minu 7 1 1 11) ∧
    decodeS 0x018E84CE = .ok (.maxu 3 7 16 38) ∧
    decodeS 0x019476CF = .ok (.mul 3 10 14 54) ∧
    decodeS 0x026DF7B0 = .ok (.mulh 4 54 62 61) ∧
    decodeS 0x027F9511 = .ok (.mulhu 4 63 50 40) ∧
    decodeS 0x02D7C672 = .ok (.div 5 43 56 51) ∧
    decodeS 0x01CBB633 = .ok (.divu 3 37 54 49) ∧
    decodeS 0x023F22F4 = .ok (.rem 4 31 36 23) ∧
    decodeS 0x01350555 = .ok (.remu 2 26 32 42) ∧
    decodeS 0x0103D016 = .ok (.clz 2 1 58) ∧
    decodeS 0x02069017 = .ok (.popc 4 3 18) ∧
    decodeS 0x0590F7A5 = .ok (.addi 3 8 30 1957) := by
  and_intros <;> rfl

/-- Words written from the table of R55's encodings. (ANDI to FMS) -/
theorem test_decode_s1 :
    decodeS 0x0B4EF493 = .ok (.andi 6 39 30 1171) ∧
    decodeS 0x0D1174B8 = .ok (.ori 2 8 46 1208) ∧
    decodeS 0x131E7B61 = .ok (.xori 6 15 15 865) ∧
    decodeS 0x17C3B01A = .ok (.slli 7 33 54 26) ∧
    decodeS 0x1565EA29 = .ok (.srli 2 50 61 41) ∧
    decodeS 0x16924C3A = .ok (.srai 5 9 9 58) ∧
    decodeS 0x194820F7 = .ok (.slti 2 36 4 247) ∧
    decodeS 0x1DEB0B31 = .ok (.li 3 53 68401) ∧
    decodeS 0x23866BC8 = .ok (.lis 7 3 27592) ∧
    decodeS 0x27728040 = .ok (.fadd 6 57 16 2) ∧
    decodeS 0x277CCBA1 = .ok (.fsub 6 62 25 29) ∧
    decodeS 0x27FD00E2 = .ok (.fmul 7 62 32 7) ∧
    decodeS 0x2492E6A3 = .ok (.fdiv 1 9 28 53) ∧
    decodeS 0x262BB644 = .ok (.fmin 4 21 54 50) ∧
    decodeS 0x2652CDC5 = .ok (.fmax 4 41 25 46) ∧
    decodeS 0x266E6006 = .ok (.fsqrt 4 55 12) ∧
    decodeS 0x25C21FA7 = .ok (.feq 3 33 3 61) ∧
    decodeS 0x262CF3E8 = .ok (.flt 4 22 30 31) ∧
    decodeS 0x25A421C9 = .ok (.fle 3 18 4 14) ∧
    decodeS 0x2646A00A = .ok (.fcvtsw 4 35 20) ∧
    decodeS 0x2619B00B = .ok (.fcvtws 4 12 54) ∧
    decodeS 0x264CC00C = .ok (.fcvtbs 4 38 24) ∧
    decodeS 0x25C5C80D = .ok (.fcvtsb 3 34 57) ∧
    decodeS 0x2B248660 = .ok (.fma 6 18 16 51) ∧
    decodeS 0x29B7B201 = .ok (.fms 3 27 54 16) := by
  and_intros <;> rfl

/-- Words written from the table of R55's encodings. (FNMA to XLATQ) -/
theorem test_decode_s2 :
    decodeS 0x29313982 = .ok (.fnma 2 24 39 12) ∧
    decodeS 0x2E3071D8 = .ok (.beq 4 24 14 472) ∧
    decodeS 0x33B320AF = .ok (.bne 7 25 36 175) ∧
    decodeS 0x34EB8F96 = .ok (.blt 1 53 49 1942) ∧
    decodeS 0x390619EE = .ok (.bge 2 3 3 494) ∧
    decodeS 0x3DDB9CDB = .ok (.bltu 3 45 51 1243) ∧
    decodeS 0x411C1C78 = .ok (.bgeu 2 14 3 1144) ∧
    decodeS 0x46E44396 = .ok (.jal 5 50 17302) ∧
    decodeS 0x4B2D709C = .ok (.jalr 6 22 46 156) ∧
    decodeS 0x4D6F872F = .ok (.ldb 2 55 24 28 47) ∧
    decodeS 0x52F79FA8 = .ok (.ldh 5 59 25 62 40) ∧
    decodeS 0x550B157A = .ok (.ldw 2 5 17 21 58) ∧
    decodeS 0x5AD73D4C = .ok (.ldd 5 43 19 53 12) ∧
    decodeS 0x5EB010D9 = .ok (.stb 5 24 1 3 25) ∧
    decodeS 0x61B97E74 = .ok (.sth 3 28 23 57 52) ∧
    decodeS 0x6533617F = .ok (.stw 2 25 22 5 63) ∧
    decodeS 0x69381D32 = .ok (.std 2 28 1 52 50) ∧
    decodeS 0x6CA8273E = .ok (.amo 1 20 2 28 .xchg true .device) ∧
    decodeS 0x71E967EE = .ok (.cas 3 52 22 31 46) ∧
    decodeS 0x77C618C2 = .ok (.lds 7 35 3 194) ∧
    decodeS 0x7BB36728 = .ok (.sts 7 25 44 1832) ∧
    decodeS 0x7EA20037 = .ok (.sps 5 17 55) ∧
    decodeS 0x80C0014B = .ok (.spl 1 32 331) ∧
    decodeS 0x87A47B02 = .ok (.xlat 7 9 7 44 false true) ∧
    decodeS 0x8BB1EFC2 = .ok (.xlatq 7 12 30 63 false true) := by
  and_intros <;> rfl

/-- Words written from the table of R55's encodings. (TREL to INVH) -/
theorem test_decode_s3 :
    decodeS 0x8CF00000 = .ok (.trel 1 28) ∧
    decodeS 0x8FBD6001 = .ok (.tmov 7 15 11) ∧
    decodeS 0x8D507102 = .ok (.tsub 2 20 3 34) ∧
    decodeS 0x8D834D83 = .ok (.tinfo 3 26 27) ∧
    decodeS 0x8D00A904 = .ok (.tchk 2 5 18) ∧
    decodeS 0x919AF800 = .ok (.look 3 13 31) ∧
    decodeS 0x96015480 = .ok (.dtag 4 42 36) ∧
    decodeS 0x9B018000 = .ok (.fork 6 48) ∧
    decodeS 0x9E000000 = .ok (.rdv 4) ∧
    decodeS 0xA30030A4 = .ok (.send 6 6 5 4) ∧
    decodeS 0xA5800000 = .ok (.vfence 3) ∧
    decodeS 0xAB01F802 = .ok (.rapp 6 63 .c) ∧
    decodeS 0xAB005144 = .ok (.rappPair 6 10 10 .v) ∧
    decodeS 0xAF000018 = .ok (.post 6 24) ∧
    decodeS 0xB1800012 = .ok (.waits 3 18) ∧
    decodeS 0xB5800002 = .ok (.mark 3 .device) ∧
    decodeS 0xBA800005 = .ok (.fence 5 .acq .panel) ∧
    decodeS 0xBE00001E = .ok (.bar 4 30) ∧
    decodeS 0xC36A7000 = .ok (.sacq 6 53 14) ∧
    decodeS 0xC3002001 = .ok (.scommit 6 4) ∧
    decodeS 0xC37CF802 = .ok (.sawait 6 62 31) ∧
    decodeS 0xC1007003 = .ok (.srel 2 14) ∧
    decodeS 0xC70B7800 = .ok (.jlaunch 6 5 47) ∧
    decodeS 0xCB677600 = .ok (.flushh 6 25 55 24) ∧
    decodeS 0xCEB6ADC0 = .ok (.invh 5 13 42 55) := by
  and_intros <;> rfl

/-- Words written from the table of R55's encodings. (SKIPR to BKPT) -/
theorem test_decode_s4 :
    decodeS 0xD256E620 = .ok (.skipr 4 43 28 49) ∧
    decodeS 0xD1209261 = .ok (.skipw 2 16 18 19) ∧
    decodeS 0xD69607D4 = .ok (.csrr 5 11 2004) ∧
    decodeS 0xDB735EB9 = .ok (.csrw 6 57 43 1721) ∧
    decodeS 0xDE75FB2D = .ok (.csrs 4 58 63 813) ∧
    decodeS 0xE1ACBA3F = .ok (.csrc 3 22 23 575) ∧
    decodeS 0xE4800379 = .ok (.trap 1 111) ∧
    decodeS 0xE6000002 = .ok (.eret 4) ∧
    decodeS 0xE6800003 = .ok (.halt 5) ∧
    decodeS 0xE7800004 = .ok (.wfi 7) ∧
    decodeS 0xE5800005 = .ok (.bkpt 3) := by
  and_intros <;> rfl

/-- Words written from the table of R62's encodings. (VADD to VCVT) -/
theorem test_decode_v0 :
    decodeV 0x03B2B283 = .ok (.vadd .fx 1 18 22 10 1 true) ∧
    decodeV 0x072D38CE = .ok (.vsub .bf16 1 13 7 3 7 false) ∧
    decodeV 0x0A524A7B = .ok (.vmul .fp32 2 18 9 9 29 true) ∧
    decodeV 0x0CA44B0A = .ok (.vfma .si16 1 4 9 12 5 false) ∧
    decodeV 0x10CFBD76 = .ok (.vmin .si16 2 15 23 21 27 false) ∧
    decodeV 0x142C398D = .ok (.vmax .si32 1 12 7 6 6 true) ∧
    decodeV 0x1970DD40 = .ok (.vabs .si8 3 16 27 21 false) ∧
    decodeV 0x1DAFDE80 = .ok (.vneg .si4 1 15 27 26 false) ∧
    decodeV 0x20B5FAE2 = .ok (.vand .si16 1 21 31 11 17) ∧
    decodeV 0x25E1CA74 = .ok (.vor .si4 3 1 25 9 26) ∧
    decodeV 0x2942092E = .ok (.vxor .si8 2 2 1 4 23) ∧
    decodeV 0x2DC44D98 = .ok (.vshl .si4 2 4 9 22 12) ∧
    decodeV 0x312961FF = .ok (.vshr .si8 1 9 12 7 31 true) ∧
    decodeV 0x354C258C = .ok (.vcmp .si8 2 12 .gt 22 6 false) ∧
    decodeV 0x3B48AFB6 = .ok (.vsel .bf16 2 8 21 30 27) ∧
    decodeV 0x3DC6B240 = .ok (.vmov .si4 2 6 22 9) ∧
    decodeV 0x4331D280 = .ok (.vexp2 .bf16 1 17 26 10) ∧
    decodeV 0x46EA9B40 = .ok (.vlog2 .fp16 3 10 19 13) ∧
    decodeV 0x4A430D40 = .ok (.vrcp .fp32 2 3 1 21) ∧
    decodeV 0x4E4BB900 = .ok (.vrsq .fp32 2 11 23 4) ∧
    decodeV 0x52C76900 = .ok (.vtanh .fp16 2 7 13 4) ∧
    decodeV 0x56F54840 = .ok (.verf .fp16 3 21 9 1) ∧
    decodeV 0x5AD45D31 = .ok (.vcvt .fp16 2 20 11 20 .bf16 .rne true) := by
  and_intros <;> rfl

/-- Words written from the table of R62's encodings. (VWID to VSCAT) -/
theorem test_decode_v1 :
    decodeV 0x5CA8BC40 = .ok (.vwid .si16 1 8 23 17 .si32 false) ∧
    decodeV 0x62538FF7 = .ok (.vnar .fp32 2 19 17 31 .bf16 .raz true) ∧
    decodeV 0x67A5B86C = .ok (.vperm .fx 1 5 23 1 22) ∧
    decodeV 0x687015D0 = .ok (.vzip .si32 3 16 2 23 8) ∧
    decodeV 0x6F6A2082 = .ok (.vunz .bf16 3 10 4 2 1) ∧
    decodeV 0x71A35340 = .ok (.vred .si4 1 3 10 13 .add false) ∧
    decodeV 0x74E40840 = .ok (.vscan .si16 3 4 1 1 .add false) ∧
    decodeV 0x79D42800 = .ok (.viota .si4 2 20 5) ∧
    decodeV 0x7CAE8008 = .ok (.vbcast .si16 1 14 16 4) ∧
    decodeV 0x83FDDC0C = .ok (.vaddi .fx 3 29 56332) ∧
    decodeV 0x8723E190 = .ok (.vmuli .bf16 1 3 57744) ∧
    decodeV 0x8974CC4A = .ok (.vmaxi .si8 3 20 52298) ∧
    decodeV 0x8FDFEEF6 = .ok (.vmini .fx 2 31 61174) ∧
    decodeV 0x90D0477C = .ok (.vmovi .si16 2 16 18300) ∧
    decodeV 0x94707C28 = .ok (.vandi .si32 3 16 31784) ∧
    decodeV 0x99D796E3 = .ok (.vshli .si4 2 23 38627) ∧
    decodeV 0x9DC280D2 = .ok (.vsubi .si4 2 2 32978) ∧
    decodeV 0xA04DF627 = .ok (.vld .si32 2 13 30 24 9 true true) ∧
    decodeV 0xA472CF90 = .ok (.vst .si32 3 18 25 30 4 false) ∧
    decodeV 0xA9E3B150 = .ok (.vlds .si4 3 3 22 2 80) ∧
    decodeV 0xAE21DF06 = .ok (.vsts .fp32 1 1 27 14 6) ∧
    decodeV 0xB2C8522C = .ok (.vgath .fp16 2 8 10 8 22 false) ∧
    decodeV 0xB7D03923 = .ok (.vscat .fx 2 16 7 4 17 true) := by
  and_intros <;> rfl

/-- Words written from the table of R62's encodings. (VSLOT_ACQ to VEND) -/
theorem test_decode_v2 :
    decodeV 0xB8604600 = .ok (.vslotAcq 3 8 24) ∧
    decodeV 0xB82003C2 = .ok (.vslotCommit 1 15) ∧
    decodeV 0xB8407844 = .ok (.vslotAwait 2 15 1) ∧
    decodeV 0xB8200286 = .ok (.vslotRel 1 10) ∧
    decodeV 0xBC40000F = .ok (.vsetfSetfmt 2 15) ∧
    decodeV 0xBC21000D = .ok (.vsetfSelpat 1 true 5) ∧
    decodeV 0xBC620E02 = .ok (.vsetfLdpat 3 14 2) ∧
    decodeV 0xC02091E8 = .ok (.pand 1 18 7 20) ∧
    decodeV 0xC4402528 = .ok (.por 2 4 20 20) ∧
    decodeV 0xC8604266 = .ok (.pxor 3 8 9 19) ∧
    decodeV 0xCC400C00 = .ok (.pnot 2 1 16) ∧
    decodeV 0xD1C05200 = .ok (.pcnt .si4 2 10 8) ∧
    decodeV 0xD7A06540 = .ok (.pfirst .fx 1 12 21) ∧
    decodeV 0xD84E0006 = .ok (.arecv 2 14 6) ∧
    decodeV 0xDDA52D88 = .ok (.aopImm .and 1 5 2 3464) ∧
    decodeV 0xDEDA7C00 = .ok (.aopReg .xor 2 10 7 12) ∧
    decodeV 0xE040001A = .ok (.vpost 2 26) ∧
    decodeV 0xE4400032 = .ok (.vwait 2 50) ∧
    decodeV 0xE8600001 = .ok (.vmark 3 .panel) ∧
    decodeV 0xEC6E7DBA = .ok (.vloop 3 14 32186) ∧
    decodeV 0xF0000000 = .ok (.vend) := by
  and_intros <;> rfl

/-- Commands written out from R66 to R68 and the layouts of their chapter. -/
theorem test_decode_m :
    decodeM 0x0064A000 0x00000000 0x00000000 = .ok (.msync 3 9 true) ∧
    decodeM 0x08A369E6 0x038C56A1 0x00000000 = .ok (.mma 5 6 true 2 true 7 19 false 3 70 2 11 .si8 true false true) ∧
    decodeM 0x10A3122B 0xFFFE2950 0x00000000 = .ok (.mmap 5 6 1 false 8 21 true 255 127 1 4 .fp16 false true false) ∧
    decodeM 0x18217000 0x00000000 0x00000000 = .ok (.mzero 1 2 true 3) ∧
    decodeM 0x20010C00 0x3C001400 0x00000000 = .ok (.mdrain 0 2 false 0 .bf16 .rne false false 0x3C00 0x140 0) ∧
    decodeM 0x20FFDEE0 0x4200ABC9 0x00000000 = .ok (.mdrain 7 63 true 1 .fx .rtz true true 0x4200 0xABC 9) ∧
    decodeM 0x28200800 0x00000000 0x00000000 = .ok (.mldacc 1 0 false 0 .fp32 0 0) ∧
    decodeM 0x28026E00 0x1230000F 0x00000000 = .ok (.mldacc 0 4 true 2 .fx 0x123 15) ∧
    decodeM 0x3041A400 0x00012340 0x00000000 = .ok (.mfmt 2 3 9 0x12340) ∧
    decodeM 0x38000C00 0x0000012C 0x00000000 = .ok (.mloop 12 300) ∧
    decodeM 0x40029000 0x0002FE00 0x00000000 = .ok (.mchk 0 5 1 0x2FE00) := by
  and_intros <;> rfl

/-- Commands written out from R66 to R68 and the layouts of their chapter. -/
theorem test_decode_c :
    decodeC 0x0121A000 0x00000000 0x00000000 = .ok (.csync 9 3 true) ∧
    decodeC 0x088451D4 0xDEAD0000 0x0AAFC041 = .ok (.copy 4 8 true false 17 true 21 0xDEAD0000 0x155 0x1F01 true) ∧
    decodeC 0x10846500 0xB4B4B357 0x00000000 = .ok (.copyt 4 8 true 37 0x5A5A5 0x1357) ∧
    decodeC 0x18843A00 0xFFFFFF00 0x400C0375 = .ok (.imwin 4 8 false 29 0xFFFFFF00 0x801 0x201 11 2 5) ∧
    decodeC 0x20843A00 0xE8412344 0x800A00C0 = .ok (.gather 4 8 false 29 0x3A1 0x12344 0x1001 0x0803) ∧
    decodeC 0x28847C00 0x006FEFFC 0x7FFFFFC0 = .ok (.scatter 4 8 true 30 0x001 0x2FEFFC 0x0FFF 0x1FFF) ∧
    decodeC 0x30846000 0x89ABCDEF 0x8010C079 = .ok (.fill 4 8 true 2 0x89ABCDEF 0x1002 0x0301 true 25) ∧
    decodeC 0x38846800 0xABCE1234 0x00000000 = .ok (.sketch 4 8 true .fp16 0xABC 14 0x1234) ∧
    decodeC 0x40843A00 0x80180440 0x50580000 = .ok (.pcopy 4 8 true 13 0x1003 0x0011 0x0A0B) ∧
    decodeC 0x48000003 0x00000000 0x10000200 = .ok (.dvw 0 0 3 0 0x200 8) ∧
    decodeC 0x50010003 0x00000100 0x00000001 = .ok (.dvrel 0 2 3 0x100 1) ∧
    decodeC 0x58840ABC 0x003FFFF0 0x0000BEEF = .ok (.dvopen 4 8 0xABC 0x3FFFF0 0xBEEF) ∧
    decodeC 0x60840FED 0x00000000 0x00000000 = .ok (.dvshut 4 8 0xFED) ∧
    decodeC 0x68003F00 0x0000FFFF 0x00000000 = .ok (.cloop 63 65535) ∧
    decodeC 0x70841300 0x00001000 0x80000000 = .ok (.cflush 4 8 9 true 0x1000 0x80000000) := by
  and_intros <;> rfl


/-- An ill-formed term for each check on the fields of the S-stream's instructions. -/
theorem test_wellFormed_refuses_s : ∀ i ∈ ([
    .cas 0 5 1 2 0, .xlat 0 1 2 3 false false, .xlatq 0 1 2 3 false false, .tsub 0 1 2 5, .post 0 0, .waits 0 0] : List Instr),
    i.wellFormed = false := by
  decide

/-- An ill-formed term for each check on predicates and on unsigned forms of the V-stream. -/
theorem test_wellFormed_refuses_v_predicates : ∀ i ∈ ([
    .vadd .fp32 0 24 1 2 3 false, .vsub .fp32 0 24 1 2 3 false, .vmul .fp32 0 24 1 2 3 false, .vfma .fp32 0 24 1 2 3 false,
    .vmin .fp32 0 24 1 2 3 false, .vmin .fp32 0 0 1 2 3 true, .vmax .fp32 0 24 1 2 3 false, .vmax .fx 0 0 1 2 3 true,
    .vabs .fp32 0 31 1 2 false, .vneg .fp32 0 31 1 2 false, .vand .si8 0 24 1 2 3, .vor .si8 0 24 1 2 3, .vxor .si8 0 24 1 2 3,
    .vshl .si8 0 24 1 2 3, .vshr .si8 0 24 1 2 3 false, .vcmp .si8 0 24 .eq 1 2 false, .vcmp .fp32 0 1 .eq 1 2 true,
    .vsel .si8 0 24 1 2 3, .vmov .si8 0 24 1 2, .vexp2 .fp32 0 24 1 2, .vlog2 .fp32 0 24 1 2, .vrcp .fp32 0 24 1 2,
    .vrsq .fp32 0 24 1 2, .vtanh .fp32 0 24 1 2, .verf .fp32 0 24 1 2, .vcvt .fp16 0 24 1 2 .bf16 .rne false,
    .vwid .si8 0 24 4 1 .si32 false, .vwid .fp16 0 0 4 1 .fp32 true, .vnar .fp32 0 24 1 2 .bf16 .rne false,
    .vperm .si8 0 24 1 2 3, .vzip .si8 0 24 2 2 3, .vunz .si8 0 24 2 2 3, .vred .si8 0 24 1 2 .add false,
    .vred .fp32 0 0 1 2 .min true, .vscan .si8 0 24 1 2 .add false, .vscan .fp32 0 0 1 2 .min true, .viota .si8 0 24 1,
    .vbcast .si8 0 24 1 2, .vld .si8 0 24 1 2 3 false false, .vst .si8 0 24 1 2 3 false, .vlds .si8 0 24 1 2 3,
    .vsts .si8 0 24 1 2 3, .vgath .si8 0 24 1 2 3 false, .vscat .si8 0 24 1 2 3 false, .pand 0 24 1 2, .pand 0 1 24 2,
    .pand 0 1 2 24, .por 0 24 1 2, .por 0 1 24 2, .por 0 1 2 24, .pxor 0 24 1 2, .pxor 0 1 24 2, .pxor 0 1 2 24, .pnot 0 24 1,
    .pnot 0 1 24, .pcnt .si8 0 1 24, .pfirst .si8 0 1 24] : List Instr), i.wellFormed = false := by
  decide

/-- An ill-formed term for each check on element types and register groups of the V-stream. -/
theorem test_wellFormed_refuses_v_types : ∀ i ∈ ([
    .vand .fp32 0 0 1 2 3, .vor .fx 0 0 1 2 3, .vxor .bf16 0 0 1 2 3, .vshl .fp16 0 0 1 2 3, .vshr .fp32 0 0 1 2 3 false,
    .vexp2 .si32 0 0 1 2, .vlog2 .si32 0 0 1 2, .vrcp .si32 0 0 1 2, .vrsq .si16 0 0 1 2, .vtanh .si8 0 0 1 2,
    .verf .si4 0 0 1 2, .vnar .si32 0 0 1 2 .si16 .rtz false, .vzip .si8 0 0 3 2 4, .vunz .si8 0 0 3 2 4, .viota .fp32 0 0 1,
    .vandi .fp32 0 1 2, .vshli .fx 0 1 2, .vsetfSelpat 0 false 1, .arecv 0 3 1, .vpost 0 0, .vwait 0 0, .vloop 0 0 1] :
    List Instr), i.wellFormed = false := by
  decide

/-- An ill-formed term for each check on the commands of the M and C engines. -/
theorem test_wellFormed_refuses_commands : ∀ i ∈ ([
    .mma 0 0 false 0 false 1 2 false 0 0 0 0 .si8 false false false,
    .mma 0 0 false 0 false 1 2 false 1 0 0 0 .si32 false false false,
    .mmap 0 0 0 false 1 2 false 0 0 0 0 .si8 false false false, .mmap 0 0 0 false 1 2 false 1 0 0 0 .fp32 false false false,
    .mdrain 0 0 false 0 .si32 .rne false false 0x3C00 0 1, .mldacc 0 0 false 0 .fp32 0 1, .mfmt 0 0 1 4, .mloop 0 1,
    .mchk 0 0 0 8, .copy 0 0 false false 1 false 1 0 0 1 false, .copy 0 0 false false 1 false 0 0 0 1 true,
    .copy 0 0 false true 1 true 1 0 0 1 false, .copy 0 0 false false 1 false 0 0 0 0 false, .imwin 0 0 false 1 0 0 0 1 0 0,
    .imwin 0 0 false 1 0 0 1 0 0 0, .imwin 0 0 false 1 0 0 1 1 3 0, .gather 0 0 false 1 0 2 0 1, .gather 0 0 false 1 0 4 0 0,
    .scatter 0 0 false 1 0 2 0 1, .scatter 0 0 false 1 0 4 0 0, .fill 0 0 false 3 0 0 1 false 0, .fill 0 0 false 0 0 0 0 false 0,
    .fill 0 0 false 0 0 0 1 false 1, .sketch 0 0 false .fx 0 4 0, .sketch 0 0 false .fp32 0 3 0, .pcopy 0 0 false 0 0 0 0,
    .dvw 0 0 0 0 0 0, .dvrel 0 0 0 4 0, .cloop 0 1] : List Instr), i.wellFormed = false := by
  decide

/-- Reserved encodings are refused by name: an opcode, a code and a must-be-zero field of each stream (R53, R64, R70). -/
theorem test_decode_refuses :
    (decodeS 0xE8000000).isOk = false ∧ (decodeS 0x00000018).isOk = false ∧ (decodeS 0xB8000000).isOk = false ∧
    (decodeS 0xA8000003).isOk = false ∧ (decodeS 0xE4000006).isOk = false ∧ (decodeS 0xE400000B).isOk = false ∧
    (decodeV 0xF4000000).isOk = false ∧ (decodeV 0xF0000001).isOk = false ∧ (decodeV 0xB8000041).isOk = false ∧
    (decodeM 0x48000000 0 0).isOk = false ∧ (decodeM 0 1 0).isOk = false ∧ (decodeM 0x28200801 0 0).isOk = false ∧
    (decodeC 0x78000000 0 0).isOk = false ∧ (decodeC 0x30003000 0 0x40).isOk = false ∧
    (decodeC 0x08000004 0 0x40).isOk = false := by
  decide


/-! ### Small states -/

/-- A state whose core 0 is `c` and which is otherwise as after reset. -/
def one (c : Core) : State := { cores := [(0, c)] }

/-- A core whose S-stream is `t`. -/
def sc (t : SCore) : Core := { s := t }

/-- An S-stream that runs with x1 and x2 as given. -/
def xs (a b : Word) : SCore := { x := Sparse.put 0 (Sparse.put 0 [] 1 a) 2 b, st := .running }

/-- A token of entry 0. -/
def tok0 : Tok := ⟨0, 1⟩

/-- A LIVE entry of one 64 KiB unit at frame 16, with every right. -/
def live0 : Mte :=
  { st := .live, w := true, r := true, mask := 0x3F, runs := [⟨0, false, false, 1, 16⟩], refs := 1, gen := 1, len := 65536 }

/-- A core that holds an entry in t1. -/
def withMte (c : Core) (m : Mte) : Core := { c with t := [(1, some tok0)], mtes := [(0, m)] }

/-- Memory that nothing has encrypted reads as it lies through every key slot. -/
theorem keyed_of {s : State} (ht : s.mem.dev.tags = []) (ha : s.mem.dev.areas = []) (k : Option (BitVec 13)) (pa n : Nat) :
    Keyed s k pa n := fun q _ _ => .inl (by simp [Store.tag, ht, ha])

/-- Where memory has no migration, no discarded unit and no key, the bytes of `live0` lie from 0x100000 on. -/
theorem live0_reaches {s : State} {b : MaskBit} {r w : Bool} {off n : Nat} (hm : s.mem.mig = []) (hc : s.mem.clamp = [])
    (ht : s.mem.dev.tags = []) (ha : s.mem.dev.areas = []) (hn : 0 < n) (hb : off + n ≤ 65536) :
    Reaches s live0 b r w off n (0x100000 + off) := by
  have hu : (0 + off) / 65536 - 0 / 65536 = 0 := by omega
  refine ⟨rfl, rfl, by cases b <;> cases r <;> cases w <;> decide, hn, hb, by decide, by simp [live0]; omega, hm,
    ⟨⟨0, false, false, 1, 16⟩, 0, by simp [live0, runAt]; omega, rfl, by simp [State.clampAt, hc], ?_⟩,
    by decide, fun _ => keyed_of ht ha _ _ _⟩
  simp [live0]; omega

/-- Device memory without poison and with every check value right is clean everywhere. -/
theorem cleanAt_of {s : State} (hp : s.mem.dev.pois = []) (hk : s.mem.dev.chk = []) (pa n : Nat) : CleanAt s pa n :=
  ⟨by simp [Store.bad, hk], by simp [hp]⟩

/-- Nothing of a core waits for wider visibility where its buffer is empty and no panel holds one. -/
theorem noBuffer_of {s : State} {k : Nat} (hb : (s.core k).buffer = []) (hp : s.panels = []) : NoBuffer s k :=
  ⟨hb, fun _ => by simp [State.panel, hp]⟩

/-- No twin runs where neither the core nor its panel's base core runs a step. -/
theorem noTwin_of {s : State} {k : Nat} (h : (s.core k).step = none) (hb : (s.core ((s.core k).panelBase k)).step = none) :
    NoTwin s k := by
  rintro j (rfl | rfl) w hw
  · rw [h] at hw; cases hw
  · rw [hb] at hw; cases hw

theorem quiet_one (c : Core) (hq : c.s.queue = []) (hl : c.s.loads = []) (hv : c.v.queue = []) (hw : c.v.loads = [])
    (hb : c.buffer = []) (hs : c.step = none) (hp : c.panel.size = 0#5) : Quiet (one c) 0 := by
  have h0 : (one c).core 0 = c := by simp [one, State.core, Sparse.get]
  have hb0 : c.panelBase 0 = 0 := by simp [Core.panelBase, hp]
  refine ⟨⟨rfl, ?_, ?_⟩, ⟨rfl, ?_, ?_⟩, ⟨?_, fun h => ?_⟩, fun j hj w hw' => ?_⟩
  · simp [h0, Core.loadsOf, hl]
  · simp [h0, Core.storesOf, hq]
  · simp [h0, Core.loadsOf, hw]
  · simp [h0, Core.storesOf, hv]
  · simp [h0, hb]
  · exact absurd (by rw [h0]; exact hp) h
  · rw [h0, hb0, or_self] at hj
    rw [hj, h0, hs] at hw'
    cases hw'

/-- A state that is like another in all that `Quiet` speaks of is quiet with it. -/
theorem quiet_like {s t : State} {k : Nat} (h : Quiet s k) (hc : t.cores = s.cores) (hp : t.panels = s.panels)
    (hl : t.lazy = s.lazy) : Quiet t k := by
  have e : ∀ j, t.core j = s.core j := fun j => by simp [State.core, hc]
  have e' : ∀ j, t.panel j = s.panel j := fun j => by simp [State.panel, hp]
  simpa [Quiet, Prompt, NoBuffer, NoTwin, e, e', hl] using h

/-- A state whose core 0 holds `live0` in t1 and runs with x1 and x2 as given. -/
def holding (a b : Word) : State := one (withMte (sc (xs a b)) live0)

/-- The same core with its entry DEAD, and STALE. -/
def holdingAs (st : MteSt) (a b : Word) : State := one (withMte (sc (xs a b)) { live0 with st := st })

/-- An extent of one page whose tables lie at 0x100000 and 0x200000: a 1 GiB leaf with every right, or without W. -/
def paged (w : Bool) (c : Core) : State :=
  { one c with
    disp := { gangs := [(0, { mapped := true, root := 0x100000 })] }
    bench := { keys := [(0, some 0)] }
    mem := { dev := { bytes := [(0x100000, 0x31), (0x100002, 0x20), (0x200000, if w then 0xC3 else 0xC1), (0x200001, 0x0F)] } } }


/-! ### One step each: expected results are the spec's own worked numbers -/

/-- The state an outcome goes on with, or a default. -/
def after (o : Out) : State := match o with
  | .next t => t
  | _ => {}

/-- What an outcome leaves in an x register of core 0. -/
def leaves (o : Out) (k : Nat) : Word := Sparse.get 0 ((after o).core 0).s.x k

/-- A core whose V registers hold words. -/
def vWith (vs : Sparse VWord) : Core :=
  { s := { st := .running }, v := { eng := { st := .running, size := 4, wp := 1 }, v := vs } }

/-- What an outcome leaves in one element of a V register, of width `w`. -/
def element (o : Out) (d w k : Nat) : Nat := (Sparse.get 0 ((after o).core 0).v.v d).toNat / 2 ^ (w * k) % 2 ^ w

/-- R81: ADD wraps modulo 2^64. -/
theorem test_add_wraps : leaves (exec (.add 0 3 1 2) (one (sc (xs 0xFFFFFFFFFFFFFFFF 2)))) 3 = 1 := by decide

/-- R17: a write to x0 is dropped. -/
theorem test_add_to_x0 : leaves (exec (.add 0 0 1 2) (one (sc (xs 5 2)))) 0 = 0 := by decide

/-- R82: the division corners. -/
theorem test_div_corners :
    leaves (exec (.div 0 3 1 2) (one (sc (xs 7 0)))) 3 = 0xFFFFFFFFFFFFFFFF ∧
    leaves (exec (.div 0 3 1 2) (one (sc (xs 0x8000000000000000 0xFFFFFFFFFFFFFFFF)))) 3 = 0x8000000000000000 ∧
    leaves (exec (.rem 0 3 1 2) (one (sc (xs 7 0)))) 3 = 7 := by decide +kernel

/-- R86: the target of `JALR x1, x1, 0` is the old x1. -/
theorem test_jalr_reads_before_it_writes :
    let t := (after (exec (.jalr 0 1 1 0) (one (sc { xs 0x40 0 with pc := 0x10 })))).core 0
    t.s.pc = 0x40 ∧ Sparse.get 0 t.s.x 1 = 0x14 := by decide

/-- R91, the worked numbers of section 05: FMUL rounds a × a to even and raises NX. -/
theorem test_fmul_rounds_to_even :
    let o := exec (.fmul 0 7 6 6) (one (sc { x := [(6, 0x3F800800)], st := .running }))
    leaves o 7 = 0x3F801000 ∧ ((after o).core 0).s.sst ≠ 0 := by decide +kernel

/-- R91: FMS of the same numbers returns the exact difference and raises no flag. -/
theorem test_fms_is_exact :
    let o := exec (.fms 0 5 6 6) (one (sc { x := [(5, 0x3F801000), (6, 0x3F800800)], st := .running }))
    leaves o 5 = 0x33800000 ∧ ((after o).core 0).s.sst = 0 := by decide +kernel

/-- Section 08, worked example, line 7: TRAP 5 in user mode at 0x18 with TVEC = 0x24. -/
theorem test_trap_enters_the_handler :
    let t := (after (exec (.trap 0 5) (one (sc { st := .running, mode := .user, pc := 0x18, tvec := 0x24 })))).core 0
    t.s.tepc = 0x19 ∧ t.s.tval = 5 ∧ t.s.tcause = 0xE ∧ t.s.mode = .supervisor ∧ t.s.inHandler = true ∧ t.s.pc = 0x24 := by
  decide

/-- The same example, line 15: ERET with TEPC = 0x1D goes to 0x1C in user mode. -/
theorem test_eret_returns_to_user_mode :
    let t := (after (exec (.eret 0) (one (sc { st := .running, inHandler := true, pc := 0x38, tepc := 0x1D })))).core 0
    t.s.pc = 0x1C ∧ t.s.mode = .user ∧ t.s.inHandler = false := by decide

/-- Section 03: 8-bit entry (SB = 1, EB = 4, MB = 3, B = 7, rule FN): 0x39, 0x7E, 0x7F and 0x01. -/
theorem test_fx_bytes_decode :
    let f : Fmt := ⟨1, 4, 3, 7, .fn⟩
    Fmt.fp32.roundBits .rne false (f.decode 0x39) = 0x3F900000 ∧ Fmt.fp32.roundBits .rne false (f.decode 0x7E) = 0x43E00000 ∧
    (f.decode 0x7F).isNan = true ∧ Fmt.fp32.roundBits .rne false (f.decode 0x01) = 0x3B000000 := by decide +kernel

/-- Section 03: rounding twice goes wrong, rounding to odd first does not. -/
theorem test_round_to_odd_then_even :
    let f : Fmt := ⟨1, 4, 3, 7, .fn⟩
    let x := Fmt.fp32.decode 0x3F880800
    f.roundBits .rne false x = 0x39 ∧ Fmt.bf16.roundBits .rne false x = 0x3F88 ∧ Fmt.bf16.roundBits .rto false x = 0x3F89 ∧
    f.roundBits .rne false (Fmt.bf16.decode 0x3F88) = 0x38 ∧ f.roundBits .rne false (Fmt.bf16.decode 0x3F89) = 0x39 := by
  decide +kernel

/-- Section 03: the BF16 group sum of 2^24 and fifteen ones rounds once. -/
theorem test_group_sum_rounds_once :
    let p := (Fmt.bf16.decode 0x4580).mul (Fmt.bf16.decode 0x4580)
    Fmt.fp32.roundBits .rne false (exactSum (p :: List.replicate 15 (Fmt.bf16.decode 0x3F80))) = 0x4B800008 := by decide +kernel

/-- Section 06: VLOG2.BF16 of 8.0 is 3.0; the reciprocal of an FP16 zero is +Inf. -/
theorem test_special_functions :
    log2Fn .bf16 (Fmt.bf16.decode 0x4100) = 0x4040 ∧ rcpFn .fp16 (Fmt.fp16.decode 0) = 0x7C00 := by decide +kernel

/-- Section 04: VADDI.SI8 with 0x0190 adds 127, saturating. -/
theorem test_vaddi_saturates_its_immediate :
    let o := exec (.vaddi .si8 0 4 0x0190) (one (vWith [(4, 0xFF00)]))
    element o 4 8 0 = 127 ∧ element o 4 8 1 = 126 := by decide +kernel

/-- Section 03: widening SI8 to SI32 puts element 5 into v5 at position 1. -/
theorem test_vwid_places_elements :
    let o := exec (.vwid .si8 0 0 4 1 .si32 false) (one (vWith [(1, 0x800000000000)]))
    element o 5 32 1 = 0xFFFFFF80 ∧ element o 5 32 0 = 0 ∧ element o 4 32 1 = 0 := by decide +kernel

/-- R283: CRC-32C of the nine digits (the published check value of the polynomial). -/
theorem test_crc32c : crc32c [0x31, 0x32, 0x33, 0x34, 0x35, 0x36, 0x37, 0x38, 0x39] = 0xE3069283 := by decide +kernel

/-- FIPS 180-4: SHA-384 of "abc" begins cb 00 75 3f. -/
theorem test_sha384 : (sha384 [0x61, 0x62, 0x63]).take 4 = [0xCB, 0x00, 0x75, 0x3F] := by decide +kernel

/-- R94: LDB reads one byte, zero-extended; the bytes of the entry's first unit lie at frame 16. -/
theorem test_ldb_reads_one_byte :
    let s := { holding 8 0 with mem := { dev := { bytes := [(0x100008, 0xA5), (0x100009, 0x5A)] } } }
    leaves (exec (.ldb 0 3 1 1 0) s) 3 = 0xA5 := by decide +kernel

/-- R206: CSRW returns the old value; R209, R24: in user mode a supervisor register traps PRIV. -/
theorem test_csrw :
    (let o := exec (.csrw 0 3 1 0x010) (one (sc { xs 0x24 0 with tvec := 0x80 }))
     leaves o 3 = 0x80 ∧ ((after o).core 0).s.tvec = 0x24) ∧
    (let o := exec (.csrw 0 3 1 0x010) (one (sc { xs 0x24 0 with tvec := 0x80, mode := .user }))
     leaves o 3 = 0 ∧ ((after o).core 0).s.tvec = 0x80 ∧ ((after o).core 0).s.mode = .supervisor) := by decide +kernel

/-- R395: the check value is the CRC of T10-DIF, whose published check value is 0xD0DB. -/
theorem test_crc16 : crc16 [0x31, 0x32, 0x33, 0x34, 0x35, 0x36, 0x37, 0x38, 0x39] = 0xD0DB := by decide +kernel

/-! ### The hypotheses of the statements can be met

Each theorem shows, for the statement it is named after, states and operands that meet the hypotheses of each clause. -/

theorem witness_DivisionResults :
    ((one (sc (xs (BitVec.intMin 64) 1))).me.xr 2 ≠ 0 ∧ ¬ ((one (sc (xs (BitVec.intMin 64) 1))).me.xr 1 = BitVec.intMin 64 ∧
      (one (sc (xs (BitVec.intMin 64) 1))).me.xr 2 = BitVec.allOnes 64)) ∧
    (one (sc (xs (BitVec.allOnes 64) (BitVec.allOnes 64)))).me.xr 2 ≠ 0 ∧
    (one (sc (xs 5 0))).me.xr 2 = 0 ∧
    ((one (sc (xs (BitVec.intMin 64) (BitVec.allOnes 64)))).me.xr 1 = BitVec.intMin 64 ∧
      (one (sc (xs (BitVec.intMin 64) (BitVec.allOnes 64)))).me.xr 2 = BitVec.allOnes 64) := by
  decide

theorem witness_BranchesAndJumps : (one (sc { xs 1 2 with pc := 0xFFFC })).me.s.pc &&& 3#16 = 0#16 := by decide

theorem witness_RoundingIsNearestEven :
    ((0x1000001 : Nat) ≠ 0 ∧ (Fmt.fp32.round .rne false (.fin true 0x1000001 0)).overflow = false) ∧
    ((1 : Nat) ≠ 0 ∧ (Fmt.fp32.round .rne false (.fin false 1 (-150))).overflow = false) := by
  decide

theorem witness_ScalarFloatCompareAndMinMax :
    let x (w : Nat) : FVal := Fmt.fp32.decode w
    ((x 0x7FC00000).isNan ∧ (x 0xFF800001).isNan) ∧ ((x 0x7F800001).isNan ∧ ¬ (x 0x80000000).isNan) ∧
    (¬ (x 0).isNan ∧ ¬ (x 0x7F800000).isNan) := by
  decide

theorem witness_ScalarFloatConversions :
    let x (w : Nat) : FVal := Fmt.fp32.decode w
    (x 0x7FC00000).isNan ∧ x 0xFF800000 = .inf true ∧
    (x 0xCF000001 = .fin true 8388609 8 ∧ (roundToInt .rne true 8388609 8).1 < -2147483648) ∧
    (x 0x4F000000 = .fin false 8388608 8 ∧ 2147483647 < (roundToInt .rne false 8388608 8).1) ∧
    (x 0xCF000000 = .fin true 8388608 8 ∧ (roundToInt .rne true 8388608 8).1 = -2147483648) := by
  decide

theorem witness_TokenLoadReadsMemory :
    Quiet (holding 65528 0) (holding 65528 0).curN ∧ (holding 65528 0).me.mteOf ((holding 65528 0).me.tr 1) = live0 ∧
    ∀ size, size ∈ [1, 2, 4, 8] →
      Reaches (holding 65528 0) live0 .s true false ((holding 65528 0).me.xr 1 + 0#64 * BitVec.ofNat 64 size).toNat size 0x10FFF8 ∧
      CleanAt (holding 65528 0) 0x10FFF8 size := by
  refine ⟨quiet_one _ rfl rfl rfl rfl rfl rfl rfl, by decide, ?_⟩
  intro size h
  have hx : (holding 65528 0).me.xr 1 = 65528 := by decide
  refine ⟨?_, cleanAt_of rfl rfl _ _⟩
  rw [hx]
  have : (65528 + 0#64 * BitVec.ofNat 64 size : Word).toNat = 65528 := by simp
  rw [this]
  have h8 : 0 < size ∧ size ≤ 8 := by fin_cases h <;> simp
  exact live0_reaches rfl rfl rfl rfl h8.1 (by omega)

/-- A state whose S-stream has one token store in its queue. -/
def queued (m : Mte) (via : Option Tok) (off : Nat) (bs : List Byte) : State :=
  one (withMte (sc { xs 0 0 with queue := [{ op := .bytes off bs, via := via }], seq := 1 }) m)

/-- A core on which no twin runs, which has no panel and nothing in its buffer. -/
theorem alone_of (c : Core) (hb : c.buffer = []) (hs : c.step = none) (hp : c.panel.size = 0#5) :
    NoBuffer (one c) 0 ∧ NoTwin (one c) 0 :=
  have h0 : (one c).core 0 = c := by simp [one, State.core, Sparse.get]
  ⟨noBuffer_of (by rw [h0, hb]) rfl, noTwin_of (by rw [h0, hs]) (by rw [h0, Core.panelBase, hp]; exact congrArg Core.step h0 ▸ hs)⟩

theorem witness_TokenLoadOtherOutcomes :
    ({ holding 0 0 with lazy := true } : State).lazy = true ∧
    (((holdingAs .stale 0 0).me.mteOf ((holdingAs .stale 0 0).me.tr 1)).st = .stale ∧ Prompt (holdingAs .stale 0 0) 0 false) ∧
    (let s := queued { live0 with st := .dead } (some tok0) 8 [1, 2]
     s.lazy = false ∧ s.me.s.loads = [] ∧ s.me.s.queue ≠ [] ∧ (s.me.mteOf (s.me.tr 1)).st = .dead ∧
     ∀ q, q ∈ s.me.s.queue → s.me.clash { op := .load 3 8, tok := some tok0, off := 0 } q = false) ∧
    (holding 0 0).me.tr 2 = none ∧
    (holding 65532 0).access 0 ((holding 65532 0).me.tr 1) .s true false [(0, 65532, 8)] =
      .live [⟨.at .dev 0x10FFFC, 0, 65532, 4, some 0⟩, ⟨.out, 4, 65536, 4, none⟩] ∧
    anyPois ((holding 65532 0).readPieces 0 (some tok0) 8 [⟨.at .dev 0x10FFFC, 0, 65532, 4, some 0⟩, ⟨.out, 4, 65536, 4, none⟩]).2
      = false ∧
    (let s : State := { holding 0 0 with mem := { dev := { pois := [(0x100001, true)] } } }
     s.access 0 (some tok0) .s true false [(0, 0, 2)] = .live [⟨.at .dev 0x100000, 0, 0, 2, some 0⟩] ∧ s.lazy = false ∧ s.me.s.loads = [] ∧
     anyPois (s.readPieces 0 (some tok0) 2 [⟨.at .dev 0x100000, 0, 0, 2, some 0⟩]).2 = true ∧ s.me.s.inHandler = false) ∧
    ∀ bs, 0 < bs.length → bs.length ≤ 8 →
      let s := queued live0 (some tok0) 0 bs
      s.lazy = false ∧ s.me.s.loads = [] ∧ s.me.s.queue = [{ op := .bytes ((s.me.xr 1).toNat) bs, via := s.me.tr 1, seq := 0 }] ∧
      s.me.s.seq = 1 ∧ NoBuffer s 0 ∧ NoTwin s 0 ∧ Reaches s live0 .s true true 0 bs.length 0x100000 ∧ CleanAt s 0x100000 bs.length := by
  refine ⟨rfl, ⟨by decide, rfl, rfl, rfl⟩, by decide +kernel, by decide, by decide +kernel, by decide +kernel, by decide +kernel, ?_⟩
  intro bs h0 h8
  obtain ⟨hb, hw⟩ := alone_of (withMte (sc { xs 0 0 with queue := [{ op := .bytes 0 bs, via := some tok0 }], seq := 1 }) live0) rfl rfl rfl
  exact ⟨rfl, rfl, rfl, rfl, hb, hw, live0_reaches rfl rfl rfl rfl h0 (by omega), cleanAt_of rfl rfl _ _⟩

theorem witness_TokenStoreQueuesItsBytes : ∀ bs, 0 < bs.length → bs.length ≤ 8 →
    let s := queued live0 (some tok0) 0 bs
    (0 : CoreId).toNat = s.curN ∧ s.me.s.loads = [] ∧
    s.me.s.queue = [{ op := .bytes ((s.me.xr 1).toNat) bs, via := s.me.tr 1, seq := 0 }] ∧ s.me.mteOf (s.me.tr 1) = live0 ∧
    Reaches s live0 .s false true 0 bs.length 0x100000 := by
  intro bs h0 h8
  exact ⟨rfl, rfl, rfl, rfl, live0_reaches rfl rfl rfl rfl h0 (by omega)⟩

theorem witness_TokenStoreOtherOutcomes :
    let q (s : State) (via : Option Tok) (off : Nat) (bs : List Byte) : Prop := (0 : CoreId).toNat = s.curN ∧ s.me.s.loads = [] ∧
      s.me.s.queue = [{ op := .bytes off bs, via := via, seq := 0 }]
    (let s := queued { live0 with st := .dead } (some tok0) 0 [1]
     q s (some tok0) 0 [1] ∧ (s.me.mteOf (some tok0)).st = .dead) ∧
    (q (queued live0 none 0 [1]) none 0 [1] ∧ ([1] : List Byte) ≠ []) ∧
    (let s := queued { live0 with st := .stale } (some tok0) 0 [1]
     q s (some tok0) 0 [1] ∧ (s.me.mteOf (some tok0)).st = .stale) ∧
    (let s := queued live0 (some tok0) (2 ^ 64 - 2) [1, 2, 3, 4]
     q s (some tok0) (2 ^ 64 - 2) [1, 2, 3, 4] ∧
     s.access 0 (some tok0) .s false true [(0, 2 ^ 64 - 2, 4)] =
       .live [⟨.out, 0, 2 ^ 64 - 2, 2, none⟩, ⟨.at .dev 0x100000, 2, 0, 2, some 0⟩]) ∧
    (let s : State := { queued live0 (some tok0) 0 [1] with mem := { clamp := [(16, { dsc := true })] } }
     s.access 0 (some tok0) .s false true [(0, 0, 1)] = .live [⟨.dsc, 0, 0, 1, some 0⟩]) := by
  decide +kernel

theorem witness_AtomicsReadModifyWrite :
    Quiet (holding 65532 0) (holding 65532 0).curN ∧
    (((holding 65532 0).me.xr 1).toNat % 4 = 0 ∧ Reaches (holding 65532 0) live0 .s true true 65532 4 0x10FFFC ∧
      CleanAt (holding 65532 0) 0x10FFE0 32) ∧
    (((holding 65520 0).me.xr 1 + 1#64 * 8#64).toNat = 65528 ∧ Reaches (holding 65520 0) live0 .s true true 65528 8 0x10FFF8 ∧
      CleanAt (holding 65520 0) 0x10FFE0 32) ∧
    NoTwin (holding 2 0) 0 ∧ Prompt (holding 2 0) 0 false ∧ Still (holding 2 0) ∧ (holding 2 0).me.tr 3 = none ∧
    ({ holding 0 0 with lazy := true } : State).lazy = true ∧
    (((holdingAs .stale 0 0).me.mteOf ((holdingAs .stale 0 0).me.tr 1)).st = .stale ∧ Prompt (holdingAs .stale 0 0) 0 false) ∧
    (((holdingAs .dead 0 0).me.mteOf ((holdingAs .dead 0 0).me.tr 1)).st = .dead ∧
      0 < ((holdingAs .dead 0 0).me.mteOf ((holdingAs .dead 0 0).me.tr 1)).refs) ∧
    (let s := holding 2 0
     let m := s.me.mteOf (s.me.tr 1)
     m.st = .live ∧ m.pred = false ∧ 0 < m.refs ∧ (s.me.xr 1).toNat % 4 ≠ 0 ∧ (s.me.xr 1 + 0#64 * 8#64).toNat % 8 ≠ 0) ∧
    (let s := holding 65536 0
     let m := s.me.mteOf (s.me.tr 1)
     m.st = .live ∧ m.pred = false ∧ m.len ≤ (s.me.xr 1).toNat ∧ m.len ≤ (s.me.xr 1 + 0#64 * 8#64).toNat ∧
     ({ m with r := false }).may .s true true = false) ∧
    (let s : State := { holding 0 0 with mem := { clamp := [(16, { dsc := true })] } }
     s.access 0 (some tok0) .s true true [(0, 0, 8)] = .live [⟨.dsc, 0, 0, 8, some 0⟩]) ∧
    (let s : State := { holding 0 0 with mem := { dev := { pois := [(0x100001, true)] } } }
     s.access 0 (some tok0) .s true true [(0, 0, 8)] = .live [⟨.at .dev 0x100000, 0, 0, 8, some 0⟩] ∧
     anyPois (s.readPieces 0 (some tok0) 8 [⟨.at .dev 0x100000, 0, 0, 8, some 0⟩]).2 = true ∧ s.me.s.inHandler = false) := by
  have hq (a : Word) : Quiet (holding a 0) 0 := quiet_one _ rfl rfl rfl rfl rfl rfl rfl
  refine ⟨hq _, ⟨by decide, live0_reaches rfl rfl rfl rfl (by decide) (by decide), cleanAt_of rfl rfl _ _⟩,
    ⟨by decide, live0_reaches rfl rfl rfl rfl (by decide) (by decide), cleanAt_of rfl rfl _ _⟩, (hq _).2.2.2, (hq _).1, ?_,
    by decide, rfl, ⟨by decide, ?_⟩, by decide, by decide, by decide +kernel, by decide +kernel, by decide +kernel⟩
  · intro p h; exact absurd h (List.not_mem_nil)
  · exact (quiet_one _ rfl rfl rfl rfl rfl rfl rfl).1

/-- Two cores in one panel, with x1 as given. -/
def twoCores (a : Word) : State :=
  { cores := [(0, { sc (xs a 0) with panel := { size := 2 } }), (1, { panel := { rank := 1, size := 2 } })] }

theorem witness_ScratchpadAndSpillAccess :
    let at_ (a : Word) (imm : BitVec 11) : Nat := (((one (sc (xs a 0))).me.xr 1 + 8#64 * imm.signExtend 64) &&& ~~~7#64).toNat
    let spad (k : Nat) : Store := ((twoCores 0).core k).spad
    (∀ a, Prompt (one (sc (xs a 0))) 0 false ∧ NoBuffer (one (sc (xs a 0))) 0) ∧
    ({ one (sc (xs 0 0)) with lazy := true } : State).lazy = true ∧
    (∀ a, Prompt (twoCores a) 0 false ∧ NoBuffer (twoCores a) 0) ∧
    (at_ 0x2FEFFF 0 = 0x2FEFF8 ∧ ∀ k, k < 2 → (spad k).bad 0x2FEFF8 8 = [] ∧
      ∀ j, j < 8 → Sparse.get false (spad k).pois (0x2FEFF8 + j) = false) ∧
    (at_ 0x16FEFFF 0 = 0x1000000 + 0x400000 + 0x2FEFF8 ∧ 1 < (twoCores 0).me.panel.size.toNat) ∧
    at_ 0x2FF008 0x7FF = 0x2FF000 ∧ at_ 0x2FFFFF 0 = 0x2FFC00 + 32 * 31 + 8 * 3 ∧ at_ 0x300000 0 = 0x300000 ∧
    at_ 0x7FFFF8 0 = 0x7FFFF8 ∧ at_ 0x800007 0 = 0x800000 ∧ at_ 0x801000 0 = 0x801000 ∧ at_ 0x1300000 0 = 0x1000000 + 0x300000 ∧
    (let s := one { sc (xs 64 0) with spad := { pois := [(64, true)] } }
     anyPois (s.spRead 0 false 64 8).2.1 = true ∧ s.me.s.inHandler = false) := by
  refine ⟨fun a => ?_, rfl, fun a => ?_, ?_⟩
  · have h := quiet_one (sc (xs a 0)) rfl rfl rfl rfl rfl rfl rfl
    exact ⟨h.1, h.2.2.1⟩
  · exact ⟨⟨rfl, rfl, rfl⟩, rfl, fun _ => rfl⟩
  · decide +kernel

/-- The walk of an extent from its first page on, for XLATQ with `q`. -/
def walked (s : State) (q w : Bool) : State × Walk × Option (Nat × WalkEnd) :=
  let base := (s.me.xr 1).toNat
  let len := (s.me.xr 2).toNat
  State.walkOn (len / 65536 + 3) s 0 { q := q, td := 3, base := base, len := len, wantW := w, phase := .stall 0 }

/-- `paged` with its leaf in the walk cache of the core's half. -/
def pagedHit (a b : Word) : State :=
  let s := paged true (sc (xs a b))
  { s with mem := { s.mem with walkCache := [(0x400000, some 0x0FC3)] } }

theorem witness_TranslationCutsAToken :
    let s := paged true (sc (xs 0 0x10000))
    let u := paged true (sc (xs 0x3FFFFFFF 1))
    let hit (s : State) : Option Leaf := s.firstHits (halfOf s.curN) s.me.gangOf.toNat (s.me.xr 1).toNat
    (Unused s (s.me.tr 3) ∧ Unused u (u.me.tr 3) ∧ Unused (pagedHit 0x3FFFFFFF 2) ((pagedHit 0x3FFFFFFF 2).me.tr 3)) ∧
    (s.me.s.walk = none ∧ 0 < (s.me.xr 2).toNat ∧ (s.me.xr 2).toNat ≤ 2 ^ 32 ∧ (s.me.xr 1).toNat + (s.me.xr 2).toNat ≤ 2 ^ 56 ∧
      s.me.freeMtes ≠ [] ∧ hit s = none) ∧
    (let r := walked s false true
     r.2.2 = none ∧ pagesFault true r.2.1.pages = none ∧ r.2.1.pages.all (fun p => p.pinned) = true ∧
       XlatEnd.ofPages r.2.1.pages = .good 0x3F 0 [⟨0, false, false, 1, 0⟩] ∧ s.me.tr 3 = none) ∧
    (let r := walked u true true
     u.me.s.walk = none ∧ u.me.freeMtes ≠ [] ∧ r.2.2 = none ∧ pagesFault true r.2.1.pages = none ∧
       r.2.1.pages.all (fun p => p.pinned) = true ∧ XlatEnd.ofPages r.2.1.pages = .good 0x3F 0 [⟨0, false, false, 1, 16383⟩]) ∧
    ((hit (pagedHit 0x3FFFFFFF 1)).map (fun l => decide (0x3FFFFFFF + 1 ≤ (0x3FFFFFFF / (65536 * l.units) + 1) * (65536 * l.units)))
      = some true ∧ (walked (pagedHit 0x3FFFFFFF 1) false true).2.2 = none) ∧
    ((hit (pagedHit 0x3FFFFFFF 2)).map (fun l => decide ((0x3FFFFFFF / (65536 * l.units) + 1) * (65536 * l.units) < 0x3FFFFFFF + 2))
      = some true ∧ (pagedHit 0x3FFFFFFF 2).me.freeMtes ≠ [] ∧ (pagedHit 0x3FFFFFFF 2).me.s.walk = none) := by
  refine ⟨⟨.inl rfl, .inl rfl, .inl rfl⟩, ?_⟩
  decide +kernel

/-- A core whose 64 entries are all LIVE. -/
def full (a b : Word) : Core := { sc (xs a b) with mtes := (List.range 64).map (fun i => (i, live0)) }

/-- A key that a table does not list. -/
theorem get_absent {α : Type} (d : α) (m : Sparse α) (k : Nat) (h : ∀ e, e ∈ m → e.1 ≠ k) : Sparse.get d m k = d := by
  induction m with
  | nil => rfl
  | cons e m ih =>
    rw [Sparse.get]
    split
    · next hk => exact absurd hk (h e (by simp))
    · exact ih (fun x hx => h x (by simp [hx]))

/-- The tables of `hosted`. -/
def hostTables : Sparse Byte := [(0x100000, 0x31), (0x100002, 0x20), (0x200000, 0xC7), (0x200001, 0x0F)]

/-- An extent of one host page at host unit 0, and a section for host frames that holds the units `H`. -/
def hosted (H : Sparse Clamp) : State :=
  { paged true (sc (xs 0 1)) with mem := { hclamp := H, dev := { bytes := hostTables } } }

/-- A full section for host frames. -/
def crowdedHost : Sparse Clamp := (List.range 262144).map (fun i => (i + 1, { pins := 1 }))

/-- The host page, as a walk finds it and not pinned. -/
def hostPage : Page := { va := 0, leaf := ⟨0x200000, 2, 0x0FC7⟩, unit := 0, n := 1 }

/-- A doubleword of device memory where nothing migrates, nothing is poisoned and nothing is encrypted. -/
theorem devWord_plain {s : State} (hm : s.mem.mig = []) (hp : s.mem.dev.pois = []) (hk : s.mem.dev.chk = [])
    (ht : s.mem.dev.tags = []) (ha : s.mem.dev.areas = []) (a : Nat) : s.devWord a = (s, leNat (s.devBytes a 8)) := by
  have hb : s.noteBlocked a 8 = s := by simp [State.noteBlocked, State.unsettledAt, State.migPair, hm]
  have hg := devGet_of_clean (key := none) hm (keyed_of ht ha none a 8) (cleanAt_of hp hk a 8)
  simp only [State.devWord, State.physGet, hb, hg, plain, clean, List.map_map]
  congr 2

/-- A table entry that the walk cache does not hold. -/
theorem entryAt_plain {s : State} (hm : s.mem.mig = []) (hp : s.mem.dev.pois = []) (hk : s.mem.dev.chk = [])
    (ht : s.mem.dev.tags = []) (ha : s.mem.dev.areas = []) {h : Bool} {a : Nat}
    (hc : Sparse.get none s.mem.walkCache (cacheKey h a) = none) : s.entryAt h a = (s, leNat (s.devBytes a 8)) := by
  simp only [State.entryAt, hc, devWord_plain hm hp hk ht ha]

theorem hosted_walk (H : Sparse Clamp) : (hosted H).walk false 0 0 = ({ (hosted H) with mem := { (hosted H).mem with
      walkCache := [(0x200000, some 0x200031), (0x400000, some 0x0FC7)] } }, .leaf ⟨0x200000, 2, 0x0FC7⟩) := by
  have h1 : (hosted H).entryAt false 0x100000 = (hosted H, 0x200031) := by
    rw [entryAt_plain rfl rfl rfl rfl rfl rfl]
    have hb : leNat ((List.range 8).map (fun i => Sparse.get 0 hostTables (0x100000 + i))) = 0x200031 := by decide +kernel
    exact congrArg (Prod.mk (hosted H)) hb
  let u : State := { (hosted H) with mem := { (hosted H).mem with walkCache := [(0x200000, some 0x200031)] } }
  have h2 : u.entryAt false 0x200000 = (u, 0x0FC7) := by
    have hc : Sparse.get none [(0x200000, some 0x200031#64)] (cacheKey false 0x200000) = none := by decide +kernel
    rw [entryAt_plain rfl rfl rfl rfl rfl hc]
    have hb : leNat ((List.range 8).map (fun i => Sparse.get 0 hostTables (0x200000 + i))) = 0x0FC7 := by decide +kernel
    exact congrArg (Prod.mk u) hb
  have hk : u.leafKind ⟨0x200000, 2, 0x0FC7⟩ = 0 := by rfl
  have e1 : (hosted H).cache false 0x100000 (some (word 0x200031)) = u := by rfl
  have e2 : u.cache false 0x200000 (some (word 0x0FC7)) = { (hosted H) with mem := { (hosted H).mem with
      walkCache := [(0x200000, some 0x200031), (0x400000, some 0x0FC7)] } } := by rfl
  have hr : ((hosted H).gang 0).root = 0x100000 := by rfl
  simp only [State.walk, hr]
  rw [State.walkFrom]
  have hi : 0x100000 + 8 * levelIndex 0 3 = 0x100000 := by decide
  have hj : fld 0x200031 8 43 * 256 + 8 * levelIndex 0 2 = 0x200000 := by decide
  simp only [hi, h1]
  rw [if_neg (by decide), if_pos (by decide), if_neg (by decide), e1, State.walkFrom]
  simp only [hj, h2]
  rw [if_neg (by decide), if_neg (by decide), if_neg (by decide), hk]
  simp only [e2]

theorem hosted_full (H : Sparse Clamp) (hg : Sparse.get {} H 0 = {}) (hu : (hosted H).hostUnits = 262144) (q : Bool) :
    (walked (hosted H) q true).2.2 = none ∧ (walked (hosted H) q true).2.1.pages = [hostPage] := by
  let u : State := { (hosted H) with mem := { (hosted H).mem with walkCache := [(0x200000, some 0x200031), (0x400000, some 0x0FC7)] } }
  have hn : u.newHost [] hostPage = [0] := by
    have hg' : (Sparse.get {} u.mem.hclamp 0).pins = 0 := by rw [show Sparse.get {} u.mem.hclamp 0 = {} from hg]
    have hb : Nat.testBit 0x0FC7 2 = true := by decide
    have hl : u.newHost [] hostPage = if Nat.testBit 0x0FC7 2 then
        [0].filter (fun i => (Sparse.get {} u.mem.hclamp i).pins == 0 && !([] : List Nat).contains i) else [] := rfl
    rw [hl, if_pos hb, List.filter_cons, hg']
    rfl
  have hu' : u.hostUnits = 262144 := hu
  have hp : u.pinPage 0 hostPage = (u, hostPage) := by
    simp [State.pinPage, State.unpinnable, hn, hu']
  have hw : (hosted H).walk false 0 0 = (u, .leaf ⟨0x200000, 2, 0x0FC7⟩) := hosted_walk H
  have e1 : ((hosted H).me.xr 1).toNat = 0 := by
    have : (paged true (sc (xs 0 1))).me.xr 1 = 0 := by decide
    exact congrArg BitVec.toNat this
  have e2 : ((hosted H).me.xr 2).toNat = 1 := by
    have : (paged true (sc (xs 0 1))).me.xr 2 = 1 := by decide
    exact congrArg BitVec.toNat this
  have hh : halfOf 0 = false := by decide
  have hG : ((hosted H).core 0).gangOf.toNat = 0 := by
    have : ((paged true (sc (xs 0 1))).core 0).gangOf.toNat = 0 := by decide
    exact this
  have hx : ∀ w : Walk, w.pages = [hostPage] → w.base = 0 → w.len = 1 → State.walkOn 2 u 0 w = (u, w, none) := by
    intro w h1 h2 h3
    have hn' : hostPage.next = 2 ^ 30 := by decide
    simp [State.walkOn, Walk.next, h1, h2, h3, hn']
  simp only [walked, e1, e2]
  rw [State.walkOn]
  have hl : Leaf.page ⟨0x200000, 2, 0x0FC7⟩ 0 1 = hostPage := by decide
  simp only [Walk.next, List.getLast?_nil, Option.map_none, Option.getD_none, hh, hG, hw, hl, hp, Nat.zero_add]
  rw [if_neg (by decide)]
  have hz := hx { q := q, td := 3, base := 0, len := 1, wantW := true, pages := [hostPage], phase := .stall 0 } rfl rfl rfl
  simp only [List.nil_append]
  exact ⟨congrArg (fun r => r.2.2) hz, congrArg (fun r => r.2.1.pages) hz⟩

theorem crowdedHost_absent : Sparse.get {} crowdedHost 0 = {} := get_absent _ _ _ (fun e he => by
  obtain ⟨i, -, rfl⟩ := List.mem_map.1 he
  exact Nat.succ_ne_zero i)

theorem crowdedHost_units : (hosted crowdedHost).hostUnits = 262144 := by
  have hf : crowdedHost.filter (fun e => e.2.pins != 0) = crowdedHost := List.filter_eq_self.2 (fun e he => by
    obtain ⟨i, -, rfl⟩ := List.mem_map.1 he
    rfl)
  have hl : ∀ H, (hosted H).hostUnits = (H.filter (fun e => e.2.pins != 0)).length := fun H => rfl
  rw [hl, hf, crowdedHost, List.length_map, List.length_range]

theorem witness_TranslationFailures :
    let len (s : State) : Nat := (s.me.xr 2).toNat
    let base (s : State) : Nat := (s.me.xr 1).toNat
    let hit (s : State) : Option Leaf := s.firstHits (halfOf s.curN) s.me.gangOf.toNat (s.me.xr 1).toNat
    ((∀ c, Unused (one (sc c)) ((one (sc c)).me.tr 3)) ∧ Unused (one (full 0 0x100000000)) ((one (full 0 0x100000000)).me.tr 3) ∧
      ∀ w c, Unused (paged w (sc c)) ((paged w (sc c)).me.tr 3)) ∧
    ((one (sc (xs 0 0))).me.s.walk = none ∧ (one (sc (xs 0 0))).me.s.inHandler = false ∧ len (one (sc (xs 0 0))) = 0) ∧
    len (one (sc (xs 0 0x100000001))) = 2 ^ 32 + 1 ∧ base (one (sc (xs 0x100000000000000 1))) + 1 = 2 ^ 56 + 1 ∧
    (len (one (full 0 0x100000000)) = 2 ^ 32 ∧ (one (full 0 0x100000000)).me.freeMtes = []) ∧
    (let s := paged false (sc (xs 0 1))
     0 < len s ∧ s.me.freeMtes ≠ [] ∧ hit s = none ∧ (walked s true true).2.2 = none ∧ (walked s false true).2.2 = none ∧
     pagesFault true (walked s true true).2.1.pages = some (5, 0) ∧
     pagesFault true (walked s false true).2.1.pages = some (5, 0)) ∧
    (let s := paged true (sc (xs 0x40000000 1))
     0 < len s ∧ s.me.freeMtes ≠ [] ∧ hit s = none ∧
     (walked s false true).2.2 = some (0x40000000, .bad 0x200008 2 1)) := by
  refine ⟨⟨fun _ => .inl rfl, .inl rfl, fun _ _ => .inl rfl⟩, ?_⟩
  decide +kernel

theorem witness_TranslationFailures_pins :
    let s := hosted crowdedHost
    (∀ q, (walked s q true).2.2 = none ∧ pagesFault true (walked s q true).2.1.pages = none ∧
      (walked s q true).2.1.pages.find? (fun p => !p.pinned) = some hostPage) ∧
    s.me.s.walk = none ∧ s.me.s.inHandler = false ∧ Unused s (s.me.tr 3) ∧ s.me.freeMtes ≠ [] ∧ s.firstHits false 0 0 = none := by
  refine ⟨fun q => ?_, rfl, rfl, .inl rfl, ?_, ?_⟩
  · obtain ⟨h1, h2⟩ := hosted_full crowdedHost crowdedHost_absent crowdedHost_units q
    rw [h1, h2]
    decide
  · have h : (paged true (sc (xs 0 1))).me.freeMtes ≠ [] := by decide +kernel
    exact h
  · rw [State.firstHits, hosted_walk]
    have h : ∀ H, (hosted H).mem.walkCache = [] := fun H => rfl
    simp only [h]
    rfl

/-- A core whose oldest token store is held by its STALE token. -/
def heldBack (bs : List Byte) : State := queued { live0 with st := .stale } (some tok0) 0 bs

theorem stuck_heldBack (bs : List Byte) : Stuck (heldBack bs) 0 false :=
  ⟨rfl, { op := .bytes 0 bs, via := some tok0 }, [], rfl, rfl, Nat.zero_lt_one, rfl⟩

/-- A core that holds two entries in t1 and t2. -/
def twoToks (a b : Word) (m : Mte) : State :=
  one { sc (xs a b) with t := [(1, some tok0), (2, some ⟨1, 1⟩)], mtes := [(0, live0), (1, m)] }

theorem witness_TokenReferences :
    (∀ a b m, Unused (twoToks a b m) ((twoToks a b m).me.tr 1)) ∧ (∀ a b, Unused (holding a b) ((holding a b).me.tr 3)) ∧
    Unused (one { full 0 1 with t := [(1, some tok0)] }) ((one { full 0 1 with t := [(1, some tok0)] }).me.tr 3) ∧
    (Stuck (heldBack [1]) 0 false ∧ ∃ q, q ∈ (heldBack [1]).me.s.queue ∧ q.via = (heldBack [1]).me.tr 1 ∧ q.via ≠ none) ∧
    (let s := twoToks 0 0 live0
     s.me.tr 1 = some tok0 ∧ s.me.tr 2 = some ⟨1, 1⟩ ∧ tok0.idx ≠ 1 ∧ s.me.tr 3 = none ∧ 0 < (s.me.mte 1).refs ∧
     (s.me.mte 1).gen = 1) ∧
    (let s := holding 65535 1
     (s.me.mte 0).st = .live ∧ (s.me.mte 0).pred = false ∧ (s.me.xr 1).toNat < (s.me.mte 0).len ∧ 0 < (s.me.xr 2).toNat ∧
     s.me.freeMtes ≠ [] ∧ s.me.tr 3 = none ∧ (s.me.mte 0).gen = tok0.gen) ∧
    (let s := holding 65536 1
     (s.me.mte 0).len ≤ (s.me.xr 1).toNat) ∧
    ((holding 0 0).me.xr 2).toNat = 0 ∧
    (((holdingAs .stale 0 0).me.mte 0).st = .stale ∧ ((holdingAs .stale 0 0).me.mte 0).gen = tok0.gen) ∧
    ((holdingAs .dead 0 0).me.mte 0).st = .dead ∧ ((twoToks 0 0 { live0 with pred := true }).me.mte 1).pred = true ∧
    (let s := one { full 0 1 with t := [(1, some tok0)] }
     s.me.tr 1 = some tok0 ∧ (s.me.mte 0).gen = tok0.gen ∧ s.me.freeMtes = [] ∧ s.me.s.inHandler = false) := by
  have hu : ∀ s : State, s.me.s.loads = [] → s.me.s.queue = [] → ∀ tok, Unused s tok := fun s hl hq tok =>
    .inr ⟨fun l h => absurd h (by rw [hl]; exact List.not_mem_nil), fun q h => absurd h (by rw [hq]; exact List.not_mem_nil)⟩
  refine ⟨fun _ _ _ => hu _ rfl rfl _, fun _ _ => .inl rfl, .inl rfl,
    ⟨stuck_heldBack _, _, List.mem_singleton.2 rfl, by decide, by decide⟩, ?_⟩
  decide +kernel

theorem witness_TokenInformation :
    (let s := holding 0 0
     s.me.tr 1 = some tok0 ∧ (s.me.mte 0).gen = tok0.gen ∧ (s.me.mte 0).st = .live ∧ (s.me.mte 0).pred = false ∧
     (s.me.mte 0).vbase < 2 ^ 56 ∧ s.me.tr 2 = none) ∧
    (let s := holdingAs .dead 0 0
     s.me.tr 1 = some tok0 ∧ (s.me.mte 0).st = .dead ∧ (s.me.mte 0).pred = false ∧ (s.me.mte 0).vbase < 2 ^ 56) ∧
    ((holdingAs .stale 0 0).me.mte 0).st = .stale := by
  decide +kernel

/-- A core of four drawers, of which entry 3 holds tag 7. -/
def drawers (a b : Word) : Core := { sc { xs a b with tags := [(3, some 7)] } with dn := 4 }

theorem witness_DrawerTags :
    (let s := one (drawers 7 0)
     (s.me.xr 1).getLsbD 63 = false ∧ Sparse.get none s.me.s.tags 3 = some ((s.me.xr 1).setWidth 63) ∧
     ∀ j, j < 3 → Sparse.get none s.me.s.tags j ≠ some ((s.me.xr 1).setWidth 63)) ∧
    (one (drawers 0x8000000000000007 0)).me.xr 1 = 0x8000000000000007 ∧
    (∀ k, Sparse.get none (one (drawers 8 0)).me.s.tags k ≠ some (((one (drawers 8 0)).me.xr 1).setWidth 63)) ∧
    ((one (drawers 3 0)).me.xr 1).toNat < (one (drawers 3 0)).me.dn.toNat ∧
    (one (drawers 4 0)).me.dn.toNat ≤ ((one (drawers 4 0)).me.xr 1).toNat := by
  refine ⟨by decide, by decide, ?_, by decide, by decide⟩
  intro k h
  have ht : (one (drawers 8 0)).me.s.tags = [(3, some 7)] := rfl
  have hx : ((one (drawers 8 0)).me.xr 1).setWidth 63 = 8 := by decide
  rw [ht, hx] at h
  simp only [Sparse.get] at h
  split at h <;> simp at h

/-- A store of one byte through a token, or of one byte of device memory. -/
def store1 (via : Option Tok) (a : Nat) (b : Byte) : QStore :=
  match via with
  | some t => { op := .bytes a [b], via := some t }
  | none => { op := .segs [⟨.dev, a, a, 0, [(b, false)], [], none⟩] }

/-- A store of one byte of device memory, visible at core scope. -/
def vis1 (a : Nat) (b : Byte) (src : Agent) : VisStore := ⟨[⟨.dev, a, a, 0, [(b, false)], [], none⟩], src⟩

/-- A core with stores waiting: one in its buffer, one in the queue of its S-stream, one in that of its V-stream. -/
def storing : Core :=
  { withMte { s := { st := .running, queue := [store1 (some tok0) 0x1000 1], seq := 1 } } live0 with
    v := { queue := [store1 none 0x2000 2], seq := 1 }
    buffer := [vis1 0x1000 3 .s] }

/-- The same core with the entry of its first stores STALE, in both queues. -/
def sticking : Core :=
  { withMte { s := { st := .running, queue := [store1 (some tok0) 0x1000 1], seq := 1 } } { live0 with st := .stale, refs := 3 } with
    v := { queue := [store1 (some tok0) 0x2000 2], seq := 1 } }

/-- A core whose streams have each a store behind a FENCE in the load queue. -/
def fencing : Core :=
  { s := { st := .running, loads := [{ op := .fence }], queue := [{ store1 none 0x1000 1 with seq := 1 }], seq := 2 }
    v := { loads := [{ op := .fence }], queue := [{ store1 none 0x2000 2 with seq := 1 }], seq := 2 } }

theorem ready_empty {s : State} {k : Nat} {v : Bool} (hl : (s.core k).loadsOf v = []) (hs : (s.core k).storesOf v = []) :
    Ready s k v := ⟨hl, fun q hq => by rw [hs] at hq; cases hq⟩

/-- A store whose parts, as found at issue, lie in device memory leaves its queue. -/
theorem leaves_segs {s : State} {k : Nat} {v : Bool} {q : QStore} {gs : List Seg} (hq : q.op = .segs gs) (hv : q.via = none)
    (hn : gs ≠ []) (hs : ∀ g, g ∈ gs → g.site = .dev) : Leaves s k v q := by
  have hp : s.partsOf k v q = gs := by simp [State.partsOf, hq]
  refine ⟨by rw [hp]; exact hn, fun g hg => ?_, by rw [if_pos hv]; exact ⟨gs, hq⟩⟩
  rw [hp] at hg
  simp [hs g hg]

/-- A store through a token whose bytes lie together in device memory leaves its queue. -/
theorem leaves_tok {s : State} {k : Nat} {v : Bool} {q : QStore} {x : Piece} {g : Seg} (hv : q.via ≠ none) (ht : q.op.tokened = true)
    (ha : s.access k q.via (if v then .v else .s) false true ((s.core k).storeBytes q).2.2 = .live [x])
    (hp : s.partsOf k v q = [g]) (hg : g.site = .dev) (hd : x.loc ≠ .dsc) (ho : anyOut [x] = false) : Leaves s k v q := by
  refine ⟨by rw [hp]; simp, fun y hy => ?_, ?_⟩
  · rw [hp] at hy
    obtain rfl := List.mem_singleton.1 hy
    simp [hg]
  · rw [if_neg hv]
    exact ⟨ht, [x], ha, ho, fun p hp => by obtain rfl := List.mem_singleton.1 hp; exact hd⟩

theorem leaves_storing : Leaves (one storing) 0 false (store1 (some tok0) 0x1000 1) :=
  leaves_tok (x := ⟨.at .dev 0x101000, 0, 0x1000, 1, some 0⟩) (g := ⟨.dev, 0x101000, 0x1000, 0x1000, [(1, false)], [], some 0⟩)
    (by decide) rfl (by decide +kernel) (by decide +kernel) rfl (by decide) (by decide)

theorem ready_storing (v : Bool) : Ready (one storing) 0 v := by
  cases v
  · refine ⟨rfl, fun q hq => ?_⟩
    obtain rfl := List.mem_singleton.1 hq
    exact ⟨by decide, leaves_storing, fun h => by cases h⟩
  · refine ⟨rfl, fun q hq => ?_⟩
    obtain rfl := List.mem_singleton.1 hq
    exact ⟨by decide, leaves_segs rfl rfl (by decide) (by decide), fun _ x hx => by cases hx⟩

/-- A core whose oldest store of a stream is held by t1's STALE token. -/
theorem stuck_of {c : Core} {v : Bool} {a : Nat} {b : Byte} (hl : c.loadsOf v = [])
    (hq : c.storesOf v = [store1 (some tok0) a b]) (hs : 0 < c.seqOf v) (hm : (c.mteOf (some tok0)).st = .stale) : Stuck (one c) 0 v := by
  have h0 : (one c).core 0 = c := by simp [one, State.core, Sparse.get]
  refine ⟨by rw [h0, hl], store1 (some tok0) a b, [], by rw [h0, hq], rfl, by rw [h0]; exact hs, ?_⟩
  show (((one c).core 0).mteOf (some tok0)).st = .stale
  rw [h0, hm]

theorem stuck_sticking (v : Bool) : Stuck (one sticking) 0 v := by
  cases v
  · exact stuck_of rfl rfl (by decide) rfl
  · exact stuck_of rfl rfl (by decide) rfl

theorem shown_storing : (one storing).queueShown true ++ (one storing).queueShown false =
    [vis1 0x2000 2 .v, ⟨[⟨.dev, 0x101000, 0x1000, 0x1000, [(1, false)], [], some 0⟩], .s⟩] := by
  decide +kernel

theorem oneKey_storing : OneKey (one storing) [vis1 0x1000 3 .s, vis1 0x2000 2 .v,
    ⟨[⟨.dev, 0x101000, 0x1000, 0x1000, [(1, false)], [], some 0⟩], .s⟩] := by
  have hm : ∀ x, x ∈ [vis1 0x1000 3 .s, vis1 0x2000 2 .v,
      ⟨[⟨.dev, 0x101000, 0x1000, 0x1000, [(1, false)], [], some 0⟩], .s⟩].flatMap (fun q => q.segs) →
      x = ⟨.dev, 0x1000, 0x1000, 0, [(3, false)], [], none⟩ ∨ x = ⟨.dev, 0x2000, 0x2000, 0, [(2, false)], [], none⟩ ∨
      x = ⟨.dev, 0x101000, 0x1000, 0x1000, [(1, false)], [], some 0⟩ := fun x hx => by simpa [vis1] using hx
  intro g hg
  refine ⟨?_, fun _ => ⟨keyed_of rfl rfl _ _ _, fun h hh _ q h1 h2 h3 h4 => ?_⟩⟩
  · rcases hm g hg with rfl | rfl | rfl <;> rfl
  · rcases hm g hg with rfl | rfl | rfl <;> rcases hm h hh with rfl | rfl | rfl <;> first
      | rfl
      | (simp only [List.length_singleton] at h1 h2 h3 h4; omega)

/-- A core whose V engine runs. -/
def vRuns : Core := { s := { st := .running }, v := { eng := { st := .running, size := 4, wp := 1 } } }

theorem running_storing (r : RingSel) : (one storing).me.running r = false := by cases r <;> decide

theorem running_sticking (r : RingSel) : (one sticking).me.running r = false := by cases r <;> decide

theorem noTwin_storing : NoTwin (one storing) 0 := noTwin_of rfl rfl

/-- A state in which a store of core 0 stands in a device-side copy of a host line. -/
def unwrittenHost : State := { one (sc (xs 0 0)) with mem := { hstored := [(5, [0])] } }

theorem witness_ReleasesPerformStoresInOrder :
    ({ one storing with lazy := true } : State).lazy = true ∧
    (Stuck (one sticking) 0 false ∧ Stuck (one sticking) 0 true ∧ ∀ r, (one sticking).me.running r = false) ∧
    ((one storing).lazy = false ∧ Ready (one storing) 0 false ∧ Ready (one storing) 0 true ∧ (one storing).me.s.loads = [] ∧
      (∀ r, (one storing).me.running r = false) ∧ (one storing).mem.mig = [] ∧ NoTwin (one storing) 0 ∧
      NoHost (one storing) ((one storing).queueShown false) ∧
      OneKey (one storing) ((one storing).me.buffer ++ ((one storing).queueShown true ++ (one storing).queueShown false))) ∧
    (Prompt unwrittenHost 0 false ∧ NoBuffer unwrittenHost 0 ∧ unwrittenHost.unwritten 0 = true) ∧
    ((one (sc (xs 0 0))).me.s.queue = [] ∧ (one (sc (xs 0 0))).me.v.queue = [] ∧ ∀ r, (one (sc (xs 0 0))).me.running r = false) ∧
    (one vRuns).me.running .v = true := by
  refine ⟨rfl, ⟨stuck_sticking _, stuck_sticking _, running_sticking⟩, ⟨rfl, ready_storing _, ready_storing _, rfl, running_storing, rfl,
    noTwin_storing, ⟨rfl, ?_⟩, ?_⟩, ⟨⟨rfl, rfl, rfl⟩, noBuffer_of rfl rfl, by decide⟩, ⟨rfl, rfl, fun r => by cases r <;> decide⟩, by decide⟩
  · decide +kernel
  · rw [shown_storing]; exact oneKey_storing

/-- A core whose scratchpad holds a ring table at 0: the V ring at 0x1000, of 4 words with 3 laid, and as given besides. -/
def forking (c : Core) (hi : Byte) : Core :=
  { c with spad := { bytes := [(1, 0x10), (3, 4), (5, 3), (7, hi)] } }

theorem witness_ForkStartsEngines :
    Ready (one (forking (sc (xs 0 0)) 0x80)) 0 false ∧ (one (forking vRuns 0x80)).me.s.loads = [] ∧
    (∀ a hi, NoSpStore (one (forking (sc (xs 7 0)) hi)) false a 24 ∧ NoSpStore (one (forking vRuns hi)) false a 24) ∧
    let words (s : State) : List Nat :=
      let r := s.spRead s.curN false (s.me.xr 1 &&& ~~~7#64).toNat 24
      [field (plain r.2.1) 0 8, field (plain r.2.1) 8 8, field (plain r.2.1) 16 8]
    let valid (w : Nat) : Bool := w / 2 ^ 56 % 2 ^ 7 = 0 && w / 2 ^ 22 % 4 = 0 && w % 2 ^ 22 % 4 = 0 && 4 ≤ w / 2 ^ 24 % 2 ^ 16 &&
      w / 2 ^ 40 % 2 ^ 16 < w / 2 ^ 24 % 2 ^ 16 && w % 2 ^ 22 + 4 * (w / 2 ^ 24 % 2 ^ 16) ≤ 0x2FF000
    (let s := one (forking (sc (xs 7 0)) 0x81)
     words s = [0x8100030004001000, 0, 0] ∧ valid 0x8100030004001000 = false ∧ s.me.s.inHandler = false) ∧
    (let s := one (forking vRuns 0x80)
     words s = [0x8000030004001000, 0, 0] ∧ valid 0x8000030004001000 = true ∧ s.me.running .v = true) ∧
    (let s := one (forking (sc (xs 0 0)) 0x80)
     words s = [0x8000030004001000, 0, 0] ∧ s.me.running .v = false) ∧
    (let s := one { forking vRuns 0x80 with s := { st := .running, forkTab := some ([0, 0x10, 0, 4, 0, 3, 0, 0x80] ++ List.replicate 16 0) } }
     field (s.me.s.forkTab.getD []) 0 8 = 0x8000030004001000 ∧ s.me.running .v = true) := by
  refine ⟨ready_empty rfl rfl, rfl, fun a hi => ⟨fun q hq => absurd hq List.not_mem_nil, fun q hq => absurd hq List.not_mem_nil⟩, ?_⟩
  decide +kernel

/-- A core whose V ring of `size` words at 0x1000 is read at 0 and written at `wp`. -/
def ringed (size wp : Nat) : Core := { vRuns with v := { eng := { st := .running, base := 0x1000, size := size, wp := wp } } }

theorem witness_FeedingEnginesFromTheStream :
    (let e := (one (ringed 0 0)).me.engine .v
     e.size = 0 ∧ (one (ringed 0 0)).me.s.inHandler = false) ∧
    (let e := (one (ringed 4 3)).me.engine .v
     e.size ≠ 0 ∧ ¬ ((e.wp + e.size - e.rp) % e.size + 1 < e.size)) ∧
    (let e := (one (ringed 4 1)).me.engine .v
     e.size ≠ 0 ∧ (e.wp + e.size - e.rp) % e.size + 2 < e.size) ∧
    Sparse.get none (one vRuns).me.v.mailbox 5 = none ∧
    Sparse.get none (one { vRuns with v := { mailbox := [(5, some (1, 2))] } }).me.v.mailbox 5 ≠ none ∧
    (one vRuns).me.vworks = true ∧ (one storing).me.vworks = false ∧
    Ready (one (ringed 4 1)) 0 false ∧ Ready (one vRuns) 0 true ∧ Ready (one storing) 0 true ∧ Stuck (one sticking) 0 true ∧
    (let s := one { ringed 4 1 with s := sticking.s, t := sticking.t, mtes := sticking.mtes }
     (s.me.engine .v).size ≠ 0 ∧ Stuck s 0 false) := by
  refine ⟨by decide, by decide, by decide, by decide, by decide, by decide, by decide, ready_empty rfl rfl, ready_empty rfl rfl,
    ready_storing _, stuck_sticking _, by decide, stuck_of rfl rfl (by decide) rfl⟩

/-- A core whose semaphore 3 holds a count. -/
def counted (n : BitVec 16) (ws : List (SemId × Agent)) : Core :=
  { s := { st := .running }, sems := Sparse.put {} [] 3 { count := n }, waiters := ws }

theorem witness_SemaphoresOfTheScalarStream :
    ((3 : SemId) ≠ 0 ∧ ((one (counted 65534 [])).me.sem 3).count.toNat < 65535) ∧
    ((one (counted 65535 [])).me.sem 3).count.toNat = 65535 ∧
    (one (counted 2 [(3, .v)])).me.ahead 3 .s < ((one (counted 2 [(3, .v)])).me.sem 3).count.toNat ∧
    ((one (counted 1 [(3, .v)])).me.sem 3).count.toNat ≤ (one (counted 1 [(3, .v)])).me.ahead 3 .s ∧
    ((one (counted 0 [])).me.sem 3).count.toNat ≤ (one (counted 0 [])).me.ahead 3 .s ∧
    (∀ n, Ready (one (counted n [])) 0 false) ∧ Stuck (one sticking) 0 false := by
  refine ⟨by decide, by decide, by decide, by decide, by decide, fun n => ready_empty rfl rfl, stuck_sticking _⟩

/-- Two cores in one panel, the first at barrier 4 of a given state. -/
def paired (st : SStatus) (b : Barrier) : State :=
  { cores := [(0, { s := { st := st }, panel := { size := 2 } }), (1, { panel := { rank := 1, size := 2 } })]
    panels := [(0, { bars := Sparse.put {} [] 4 b })] }

theorem witness_BarriersOfAPanel :
    (∀ b, Ready (paired .running b) 0 false) ∧
    (let s : State := { paired .running {} with cores := [(0, { sticking with panel := { size := 2 } })] }
     Stuck s 0 false ∧ s.me.panelSize ≠ 1 ∧ s.me.s.st = .running) ∧
    ((one storing).me.panelSize = 1 ∧ (one storing).me.s.loads = [] ∧ (one { sc (xs 0 0) with panel := { size := 1 } }).me.panelSize = 1) ∧
    (let s := paired .running { arrived := [1] }
     s.me.panelSize ≠ 1 ∧ s.me.s.st = .running ∧
     ∀ j, j ∈ s.me.panelCores s.curN → j ≠ s.curN → j ∈ (s.bar (s.me.panelBase s.curN) 4).arrived) ∧
    (let s := paired .running {}
     s.me.panelSize ≠ 1 ∧ s.me.s.st = .running ∧
     1 ∈ s.me.panelCores s.curN ∧ 1 ≠ s.curN ∧ 1 ∉ (s.bar (s.me.panelBase s.curN) 4).arrived) ∧
    (let s := paired (.waiting (.barrier 4 false)) { phase := true }
     s.me.panelSize ≠ 1 ∧ s.me.s.st = .waiting (.barrier 4 false) ∧ (s.bar (s.me.panelBase s.curN) 4).phase ≠ false) ∧
    (let s := paired (.waiting (.barrier 4 false)) {}
     s.me.panelSize ≠ 1 ∧ s.me.s.st = .waiting (.barrier 4 (s.bar (s.me.panelBase s.curN) 4).phase)) := by
  refine ⟨fun b => ready_empty rfl rfl, ⟨⟨rfl, store1 (some tok0) 0x1000 1, [], rfl, rfl, by decide, rfl⟩, by decide⟩, ?_⟩
  decide

/-- A core whose ring 5 has a configuration word and tags. -/
def staged (conf : Word) (tags : BitVec 128) : Core := { sc (xs 0 0) with rings := Sparse.put {} [] 5 { conf := conf, tags := tags } }

/-- The configuration word of a stage ring whose slots are one block of 512 bytes at 0 and expect as much. -/
def conf (mode count head tail : Nat) : Word :=
  BitVec.ofNat 64 (mode * 2 ^ 62 + count * 2 ^ 55 + head * 2 ^ 49 + tail * 2 ^ 43 + 2 ^ 30 + 16)

theorem witness_StageRingsOfTheScalarStream :
    let r (c : Word) (t : BitVec 128) : StageRing := (one (staged c t)).me.ring 5
    ((r 0 0).count = 0 ∧ (one (staged 0 0)).me.s.inHandler = false) ∧
    ((r (conf 1 3 0 2) 0).count ≠ 0 ∧ (r (conf 1 3 0 2) 0).tag (r (conf 1 3 0 2) 0).tail = 0) ∧
    ((r (conf 1 3 0 2) 0x10).count ≠ 0 ∧ (r (conf 1 3 0 2) 0x10).tag (r (conf 1 3 0 2) 0x10).tail ≠ 0) ∧
    ((r (conf 1 3 2 0) 0x20).count ≠ 0 ∧ (r (conf 1 3 2 0) 0x20).tag (r (conf 1 3 2 0) 0x20).head = 2) ∧
    ((r (conf 1 3 2 0) 0).count ≠ 0 ∧ (r (conf 1 3 2 0) 0).tag (r (conf 1 3 2 0) 0).head ≠ 2) ∧
    ((r (conf 1 3 0 2) 0x5).count ≠ 0 ∧ (r (conf 1 3 0 2) 0x5).mode = 1 ∧ (r (conf 1 3 0 2) 0x5).filling = [0, 1]) ∧
    ((r (conf 0 3 0 2) 0x5).count ≠ 0 ∧ (r (conf 0 3 0 2) 0x5).mode = 0) ∧
    ((r (conf 1 3 2 0) 0xF).count ≠ 0 ∧ (r (conf 1 3 2 0) 0xF).draining = [0, 1]) ∧
    ((r (conf 1 3 2 0) 0).count ≠ 0 ∧ (r (conf 1 3 2 0) 0).draining = []) ∧
    (∀ c t, Ready (one (staged c t)) 0 false) ∧
    (let s := one { sticking with rings := (staged (conf 1 3 0 2) 0).rings }
     (s.me.ring 5).count ≠ 0 ∧ Stuck s 0 false) := by
  refine ⟨by decide, by decide, by decide, by decide, by decide, by decide, by decide, by decide, by decide,
    fun c t => ready_empty rfl rfl, by decide, stuck_of rfl rfl (by decide) rfl⟩

/-- The tile step of core 0: step 0 of the jig of walker 0. -/
def step0 : StepInfo := { walker := 0, jigId := 7, ordinal := 0, depth := 16, gang := 0, slot := 0, rank := 0 }

theorem witness_LaunchStatusAndPool :
    let s := one { sc (xs 64 0) with step := some step0 }
    s.me.step = some step0 ∧ step0.twin = .none ∧ Ready s 0 false ∧
    s.recordedLaunch step0.jigId step0.ordinal step0.rank step0.launches = none ∧
    (let u : State := { s with integ := { journal := [.jlaunch 7 0 0 0 2] } }
     u.recordedLaunch step0.jigId step0.ordinal step0.rank step0.launches = some 2) := by
  refine ⟨by decide, rfl, ready_empty rfl rfl, by decide, by decide⟩

/-- The entry of `live0` on a host page, and a device-side copy of the line at the start of that page with one byte stored. -/
def hosting (a b : Word) : State :=
  { one (withMte (sc (xs a b)) { live0 with runs := [⟨0, true, false, 1, 16⟩] }) with
    mem := { hcopy := { bytes := [(0x100000, 5)] }, hheld := [(0x2000, true)], hdirty := [(0x100000, true)], hstored := [(0x2000, [0])] } }

theorem witness_HostLinesFlushedAndInvalidated :
    let s := hosting 65408 129
    let u := (s.settleStores 0 false .device).1
    NoTwin s s.curN ∧ ((hosting 0 0).me.xr 2).toNat = 0 ∧ Ready s s.curN false ∧ s.me.s.queue = [] ∧ 0 < (s.me.xr 2).toNat ∧
    s.access 0 (s.me.tr 1) .s true false [(0, 65408, 129)] = .live [⟨.at .host 0x10FF80, 0, 65408, 128, none⟩, ⟨.out, 128, 65536, 1, none⟩] ∧
    s.access 0 (s.me.tr 1) .s false true [(0, 65408, 129)] = .live [⟨.at .host 0x10FF80, 0, 65408, 128, none⟩, ⟨.out, 128, 65536, 1, none⟩] ∧
    (∀ l, u.mem.hcopy.bad (128 * l) 128 = [] ∧ ∀ j, j < 128 → Sparse.get false u.mem.hcopy.pois (128 * l + j) = false) ∧
    u.mem.host.chk = [] ∧
    ((holdingAs .dead 0 1).me.mteOf ((holdingAs .dead 0 1).me.tr 1)).st = .dead ∧
    ((holdingAs .stale 0 1).me.tr 1 = some tok0 ∧ ((holdingAs .stale 0 1).me.mteOf (some tok0)).st = .stale) ∧
    (let c := { withMte (sc { xs 0 1 with queue := [store1 (some ⟨1, 1⟩) 0 1], seq := 1 }) live0 with
       t := [(1, some tok0)], mtes := [(0, live0), (1, { live0 with st := .stale })] }
     Stuck (one c) 0 false ∧ 0 < ((one c).me.xr 2).toNat ∧
     (one c).access 0 ((one c).me.tr 1) .s true false [(0, 0, 1)] = .live [⟨.at .dev 0x100000, 0, 0, 1, some 0⟩] ∧
     (one c).access 0 ((one c).me.tr 1) .s false true [(0, 0, 1)] = .live [⟨.at .dev 0x100000, 0, 0, 1, some 0⟩]) := by
  intro s u
  have hu : u.mem = s.mem := by decide +kernel
  refine ⟨(quiet_one _ rfl rfl rfl rfl rfl rfl rfl).2.2.2, by decide, ready_empty rfl rfl, rfl, by decide, by decide +kernel,
    by decide +kernel, fun l => ?_, by rw [hu]; rfl, by decide, by decide,
    ⟨rfl, store1 (some ⟨1, 1⟩) 0 1, [], rfl, rfl, by decide, rfl⟩, by decide +kernel⟩
  rw [hu]
  exact ⟨rfl, fun _ _ => rfl⟩

/-- A state whose gang 0 has an extent of one page and a skip-eligible descriptor of two steps of 65,536 tiles. -/
def skipping (a b : Word) : State :=
  let s := paged true { sc (xs a b) with step := some step0 }
  { s with disp := { s.disp with descs := [(3, { mapva := 0x10000, nt := 65536, ns := 2, bound := true })] } }

theorem witness_SkipMapInstructions :
    let x : SkipDesc := { mapva := 0x10000, nt := 65536, ns := 2, bound := true }
    let s := skipping 3 0x1FFFF
    let u := (s.settle s.curN false .device).1
    (∀ a b, Ready (skipping a b) 0 false) ∧ (skipping 4 0).skipEntry 4 0 = none ∧ (skipping 3 0).skipEntry 3 0x20000 = none ∧
    s.skipEntry (s.me.xr 1) (s.me.xr 2) = some (x, 1, 65535) ∧ s.twinStop 0 = none ∧ (skipping 4 0).twinStop 0 = none ∧
    (u.mapEntry 0 x [0, 1, 2] false 1 65535).2 = some [(0, false), (0, false), (0, false)] ∧
    (u.mapEntry 0 x [0, 2] true 1 65535).2 = some [(0, false), (0, false)] := by
  refine ⟨fun a b => ready_empty rfl rfl, ?_⟩
  decide +kernel

theorem witness_ControlRegisterAccess :
    let known : List Nat := [0, 1, 2, 3, 16, 17, 18, 19, 32, 33, 34, 35, 36]
    let readOnly : List Nat := [1, 3, 32, 33, 34, 35, 36]
    (36 : BitVec 11).toNat ∈ known ∧ ((4 : BitVec 11).toNat ∉ known ∧ (one (sc (xs 0 0))).me.s.inHandler = false) ∧
    (3 : BitVec 11).toNat ∈ readOnly ∧
    ((19 : BitVec 11).toNat ∈ [16, 17, 18, 19] ∧ (one (sc { xs 0 0 with mode := .user })).me.s.mode = .user ∧
      (one (sc { xs 0 0 with mode := .user })).me.s.inHandler = false) ∧
    ((2 : BitVec 11).toNat ∈ known ∧ (2 : BitVec 11).toNat ∉ readOnly ∧ (2 : BitVec 11).toNat ∉ [16, 17, 18, 19]) ∧
    ((16 : BitVec 11).toNat ∈ known ∧ (16 : BitVec 11).toNat ∉ readOnly ∧ (one (sc (xs 0 0))).me.s.mode = .supervisor) ∧
    ((0 : BitVec 11).toNat ∈ known ∧ (0 : BitVec 11).toNat ∉ readOnly ∧ Ready (one (sc (xs 0 0))) 0 false) := by
  refine ⟨by decide, by decide, by decide, by decide, by decide, by decide, by decide, by decide, ready_empty rfl rfl⟩

theorem witness_TrapsAndReturns :
    (one (sc (xs 0 0))).me.s.inHandler = false ∧
    ((one (sc { xs 0 0 with mode := .user })).me.s.inHandler = false ∧ (one (sc { xs 0 0 with mode := .user })).me.s.mode = .user) ∧
    (one (sc (xs 0 0))).me.s.mode = .supervisor ∧
    (let s := one (sc { xs 0 0 with mode := .user, inHandler := true })
     s.me.s.inHandler = true ∧ s.me.s.mode = .user ∧ s.curN < 256) ∧
    (let s : State := { cores := [(256, sc { xs 0 0 with mode := .user, inHandler := true })], cur := 0x100#9 }
     s.me.s.inHandler = true ∧ s.me.s.mode = .user ∧ 256 ≤ s.curN) := by
  decide

theorem witness_HaltAndWaitForInterrupt :
    (one vRuns).me.running .v = true ∧
    ((∀ r, (one storing).me.running r = false) ∧ Ready (one storing) 0 false ∧ Ready (one storing) 0 true) ∧
    (one (sc { xs 0 0 with latch := true })).me.s.latch = true ∧ (one (sc (xs 0 0))).me.s.latch = false := by
  refine ⟨by decide, ⟨running_storing, ready_storing _, ready_storing _⟩, by decide, by decide⟩

/-- A core with a store to a page with both H and T set behind a load of another page. -/
def tsoBehind : Core :=
  withMte (sc { xs 0 0 with loads := [{ op := .load 3 1, tok := some tok0, off := 9 }], queue := [{ store1 (some tok0) 0 1 with seq := 1 }],
                            seq := 2 })
    { live0 with runs := [⟨0, true, true, 1, 16⟩] }

theorem oneKey_vis1 {s : State} (ht : s.mem.dev.tags = []) (ha : s.mem.dev.areas = []) (a : Nat) (b : Byte) (g : Agent) :
    OneKey s [vis1 a b g] := by
  have hm : ∀ x, x ∈ [vis1 a b g].flatMap (fun q => q.segs) → x = ⟨.dev, a, a, 0, [(b, false)], [], none⟩ := fun x hx => by
    simpa [vis1] using hx
  intro x hx
  refine ⟨by rw [hm x hx], fun _ => ⟨keyed_of ht ha _ _ _, fun h hh _ q _ _ _ _ => by rw [hm x hx, hm h hh]⟩⟩

theorem witness_AsynchronousTrapsAndWakes :
    let c (s : State) : Core := s.core 0
    let open_ (s : State) : Prop := s.stalled 0 = false ∧ s.held 0 = false ∧ (c s).s.inHandler = false
    ((one (sc (xs 0 0))).me.s.pendLost = false ∧ (one (sc (xs 0 0))).me.s.pendEng = false) ∧
    (let s := one (sc { xs 0 0 with pendLost := true, pendEng := true })
     open_ s ∧ (c s).s.st = .running ∧ (c s).s.pendLost = true) ∧
    (let s := one { sc { xs 0 0 with st := .waiting (.sem 3), pendEng := true } with sems := [] }
     open_ s ∧ (c s).s.st = .waiting (.sem 3) ∧ (c s).s.pendEng = true ∧ (WaitOn.sem 3).abandonable = true ∧
       (WaitOn.sem 3).holds s 0 .s = false) ∧
    ((c (one (sc { xs 0 0 with st := .waiting .bench }))).s.st = .waiting .bench ∧ WaitOn.abandonable .bench = false) ∧
    (let s := one { counted 1 [] with s := { xs 0 0 with st := .waiting (.sem 3) } }
     (c s).s.st = .waiting (.sem 3) ∧ (WaitOn.sem 3).holds s 0 .s = true) ∧
    (let s := one { counted 1 [] with v := { wait := some (.sem 3) } }
     (c s).v.wait = some (.sem 3) ∧ (WaitOn.sem 3).holds s 0 .v = true) ∧
    (∀ v, ∃ q, ((one fencing).core 0).storesOf v = [q] ∧ ((one fencing).core 0).keptBack v q = true) ∧
    (∀ v, ∃ q, ((one storing).core 0).storesOf v = [q] ∧ ((one storing).core 0).keptBack v q = false ∧ Leaves (one storing) 0 v q ∧
      ((one storing).core 0).loadsBefore v q = [] ∧ (v = true → q.via = none)) ∧
    (let q : QStore := { store1 (some tok0) 0 1 with seq := 1 }
     (c (one tsoBehind)).storesOf false = [q] ∧ (c (one tsoBehind)).keptBack false q = false ∧ q.via ≠ none ∧
       (c (one tsoBehind)).onTso q.via ((one tsoBehind).partsOf 0 false q) = true ∧ (c (one tsoBehind)).loadsBefore false q ≠ [] ∧
       Leaves (one tsoBehind) 0 false q) ∧
    (let q : QStore := { op := .fence .core }
     let s := one { s := { st := .running, queue := [q], seq := 1 } }
     (c s).storesOf false = [q] ∧ (c s).keptBack false q = false) ∧
    ((c (one storing)).buffer = [vis1 0x1000 3 .s] ∧ (c (one storing)).panel.size = 0#5 ∧ NoTwin (one storing) 0 ∧
      (one storing).mem.mig = [] ∧ ∀ q, q ∈ (c (one storing)).buffer → OneKey (one storing) [q]) ∧
    (let s := paired .running {}
     let t := (s.setCore 0 { s.core 0 with buffer := [vis1 0x1000 3 .s] }).setPanel 0 { buffer := [(1, vis1 0x1000 3 .s)] }
     (c t).buffer ≠ [] ∧ (c t).panel.size ≠ 0#5 ∧ (t.panel ((c t).panelBase 0)).buffer = [(1, vis1 0x1000 3 .s)] ∧
       t.mem.mig = [] ∧ ∀ e, e ∈ (t.panel ((c t).panelBase 0)).buffer → NoTwin t e.1 ∧ OneKey t [e.2]) := by
  refine ⟨by decide, by decide, by decide, by decide, by decide, by decide, fun v => ?_, fun v => ?_,
    ⟨rfl, by decide +kernel, by decide, by decide +kernel, by decide +kernel, ?_⟩, by decide +kernel,
    ⟨by decide, by decide, noTwin_storing, rfl, fun q hq => ?_⟩, by decide, by decide, by decide, rfl, fun e he => ?_⟩
  · cases v <;> exact ⟨_, rfl, by decide +kernel⟩
  · cases v
    · exact ⟨_, rfl, by decide +kernel, leaves_storing, rfl, fun h => by cases h⟩
    · exact ⟨_, rfl, by decide +kernel, leaves_segs rfl rfl (by decide) (by decide), rfl, fun _ => rfl⟩
  · refine ⟨by decide +kernel, ?_, ?_⟩
    · have hp : (one tsoBehind).partsOf 0 false { store1 (some tok0) 0 1 with seq := 1 } =
          [⟨.host, 0x100000, 0, 0, [(1, false)], [], none⟩] := by decide +kernel
      intro g hg
      rw [hp] at hg
      obtain rfl := List.mem_singleton.1 hg
      exact ⟨fun j h => (by cases h), fun j h => (by cases h)⟩
    · rw [if_neg (by decide)]
      exact ⟨rfl, [⟨.at .host 0x100000, 0, 0, 1, none⟩], by decide +kernel, by decide, by decide⟩
  · obtain rfl := List.mem_singleton.1 hq
    exact oneKey_vis1 rfl rfl _ _ _
  · obtain rfl := List.mem_singleton.1 he
    refine ⟨fun j hj w hw => ?_, oneKey_vis1 rfl rfl _ _ _⟩
    have hz : j = 0 ∨ j = 1 := by
      rcases hj with h | h
      · exact .inr h
      · exact .inl h
    rcases hz with h | h <;> subst h <;> cases hw


/-- A core whose V engine is at a word of its ring, with a format table entry 0 and registers as given. -/
def vAt (fmt0 : Word) (v : VCore) : Core := { s := { st := .running }, v := v, fmt := Sparse.put 0 [] 0 fmt0 }

theorem witness_VectorArithmeticResults :
    (let s := one (vAt 0 {})
     s.me.etype .si4 = some (.int true 4) ∧ (ElType.int true 4).cont ∣ 256 ∧
     s.me.etype .si32 = some (.int true 32) ∧ (ElType.int true 32).cont ∣ 256 ∧
     s.me.etype .bf16 = some (.flt .bf16) ∧ (ElType.flt .bf16).cont ∣ 256) := by
  decide

theorem witness_VectorLogicAndSelection :
    (one (vAt 0 {})).me.etype .si16 = some (.int true 16) ∧ (ElType.int true 16).cont ∣ 256 := by
  decide

theorem witness_VectorSpecialFunctions :
    (one (vAt 0 {})).me.etype .fp32 = some (.flt .fp32) ∧ Fmt.fp32 ∈ [Fmt.fp32, Fmt.fp16, Fmt.bf16] ∧
    Fmt.fp32.decode 0x7F800001 = .nan ∧
    (∃ m k, Fmt.fp32.decode 0x80000001 = .fin true m k ∧ m ≠ 0) ∧ (∃ m k, Fmt.fp32.decode 1 = .fin false m k ∧ m ≠ 0) ∧
    (∃ m k, Fmt.fp32.decode 0x7F7FFFFF = .fin false m k ∧ m ≠ 0) ∧
    (let bias : Nat := 2 ^ (Fmt.fp32.eb - 1) - 1
     1 - (bias : Int) ≤ -126 ∧ (-126 : Int) ≤ (bias : Int) - 1 ∧ 1 - (bias : Int) ≤ 126 ∧ (126 : Int) ≤ (bias : Int) - 1) :=
  ⟨by decide, by decide, by decide, ⟨_, _, rfl, by decide⟩, ⟨_, _, rfl, by decide⟩, ⟨_, _, rfl, by decide⟩, by decide⟩

theorem witness_VectorImmediateForms :
    (one (vAt 0 {})).me.etype .si8 = some (.int true 8) ∧ (ElType.int true 8).cont ∣ 256 ∧
    (one (vAt 0 {})).me.etype .fp16 = some (.flt .fp16) ∧ (ElType.flt .fp16).cont ∣ 256 := by
  decide

theorem witness_VectorConversions :
    let s := one (vAt 0x00301 {})
    (s.me.etype .fp32 = some (.flt .fp32) ∧ s.me.etype .bf16 = some (.flt .bf16)) ∧
    cvtPair .fp32 .bf16 (.flt .fp32) (.flt .bf16) = false ∧
    (cvtPair .bf16 .fp16 (.flt .bf16) (.flt .fp16) = true ∧ ¬ (ETy.bf16 = .fx ∧ ETy.fp16 = .fx) ∧
      ¬ (ETy.bf16 = .fp16 ∧ ETy.bf16.isInt = true)) ∧
    (ETy.si8 = .si8 ∧ ETy.si8.isInt = true) ∧ s.me.etype .fx = some (.flt (fxOf 0x00301)) ∧
    (widPair .fp32 .bf16 (.flt .fp32) = 0 ∧ widPair .si8 .si16 (.int true 8) = 2 ∧ (3 : VReg).toNat % 2 ≠ 0) ∧
    (widPair .si8 .si32 (.int true 8) = 4 ∧ (28 : VReg).toNat % 4 = 0) ∧
    (narPair .bf16 .fp32 (.flt .fp32) = 0 ∧ narPair .si16 .si8 (.int true 8) = 2 ∧ (31 : VReg).toNat % 2 ≠ 0) ∧
    (narPair .fp32 .bf16 (.flt .bf16) = 2 ∧ (30 : VReg).toNat % 2 = 0) := by
  decide

/-- A core whose v1 holds 2 in element 0 and 1 in element 1 of 16 bits, with predicate 1 over its first two elements. -/
def pairV : Core := vAt 0 { v := [(1, 0x10002#4096)], p := [(1, 3#1024)] }

theorem witness_VectorPermutationsAndReductions :
    let s := one pairV
    let t : ElType := .int true 16
    let act (n : Nat) : List Nat := (List.range n).filter (fun j => (s.me.pr 1).getLsbD j)
    s.me.etype .si16 = some t ∧ t.cont ∣ 256 ∧ (30 : VReg).toNat % 2 = 0 ∧
    (1 ∈ act t.count ∧ ∀ j, j ∈ act t.count → s.me.elAt t 1 1 ≤ s.me.elAt t 1 j) ∧
    (0 ∈ act t.count ∧ ∀ j, j ∈ act t.count → signedOf 16 (s.me.elAt t 1 j) ≤ signedOf 16 (s.me.elAt t 1 0)) := by
  decide +kernel

/-- A core whose V-stream reads the page of t1 at a0, or its scratchpad. -/
def vHolding (v : VCore) : State := one (withMte (vAt 0 v) live0)

theorem witness_VectorLoadsReadMemory :
    let s := vHolding { a := [(1, 65024), (2, 0x2FEE00)], v := [(3, 65532#4096)] }
    Quiet s s.curN ∧ s.me.etype .si4 = some (.int true 4) ∧ (ElType.int true 4).cont ∈ [4, 8, 16, 32] ∧
    s.me.apois 1 = false ∧ s.me.apois 2 = false ∧
    (s.me.mteOf (s.me.tr 1) = live0 ∧ Unformatted s (s.me.tr 1) false ∧
      Reaches s live0 .v true false (s.me.ar 1).toNat 512 0x10FE00 ∧ CleanAt s 0x10FE00 512) ∧
    ((s.me.ar 2 + 512#64 * (0#7).setWidth 64).toNat + 512 ≤ 0x2FF000 ∧ s.me.spad.bad 0x2FEE00 512 = [] ∧
      ∀ j, j < 512 → Sparse.get false s.me.spad.pois (0x2FEE00 + j) = false) ∧
    (s.lazy = false ∧ s.me.v.loads = [] ∧ Still s ∧ s.me.vtok 1 = some tok0 ∧ 0 < (s.me.mte 0).refs ∧ s.me.heldBy (s.me.vtok 1) = none ∧
      ∀ l q, q ∈ s.me.v.queue → s.me.clash l q = false) ∧
    (let u := one (withMte (vAt 0 {}) { live0 with st := .stale })
     u.me.heldBy (u.me.vtok 1) = some (.stale 0)) ∧
    ({ s with lazy := true } : State).lazy = true ∧
    (s.me.etype .si32 = some (.int true 32) ∧ (ElType.int true 32).cont = 32 ∧ s.me.vpois 3 = 0 ∧
      ∀ i, i < 128 → ∃ pa, Reaches s live0 .v true false ((s.me.vr 3).extractLsb' (32 * i) 32).toNat 4 pa ∧ CleanAt s pa 4) := by
  have hr (i : Nat) (h : i < 128) : (((vHolding { a := [(1, 65024), (2, 0x2FEE00)], v := [(3, 65532#4096)] }).me.vr 3).extractLsb'
      (32 * i) 32).toNat + 4 ≤ 65536 := by
    revert h i; decide +kernel
  refine ⟨quiet_one _ rfl rfl rfl rfl rfl rfl rfl, by decide, by decide, by decide, by decide,
    ⟨by decide, .inr (by decide), live0_reaches rfl rfl rfl rfl (by decide) (by decide +kernel), cleanAt_of rfl rfl _ _⟩,
    ⟨by decide +kernel, by decide +kernel, ?_⟩, ⟨rfl, rfl, fun p h => absurd h List.not_mem_nil, by decide, by decide, by decide,
      fun _ _ h => absurd h List.not_mem_nil⟩,
    by decide, rfl, by decide, by decide, by decide, fun i h => ⟨_, live0_reaches rfl rfl rfl rfl (by decide) (hr i h), cleanAt_of rfl rfl _ _⟩⟩
  intro j _
  simp [vHolding, one, withMte, vAt, State.me, State.core, State.curN, Sparse.get]

theorem witness_VectorStoresQueueTheirBytes :
    (let u := vHolding { p := [(1, 0#1024)] }
     (∀ j, j < 512 → (u.me.pr 1).getLsbD j = false) ∧ u.me.heldBy (u.me.vtok 1) = none ∧ Still u) ∧
    (let u := one (withMte (vAt 0 {}) { live0 with st := .stale })
     u.me.heldBy (u.me.vtok 1) = some (.stale 0) ∧ (u.me.mteOf (u.me.vtok 1)).st ≠ .dead) ∧
    ((one (vAt 0 {})).me.etype .si4 = some (.int true 4) ∧ (ElType.int true 4).cont = 4) ∧ (∃ i, i < 128 ∧ ((one (vAt 0 {})).me.pr 0).getLsbD i = true) ∧
    let s := vHolding { a := [(1, 65024), (2, 0x2FEE00)], v := [(3, 65532#4096)] }
    s.me.etype .fp32 = some (.flt .fp32) ∧ (ElType.flt .fp32).cont ∈ [4, 8, 16, 32] ∧ s.me.apois 1 = false ∧
    (s.me.mteOf (s.me.tr 1) = live0 ∧ Unformatted s (s.me.tr 1) true ∧
      Reaches s live0 .v false true (s.me.ar 1).toNat 512 0x10FE00) ∧
    (s.me.ar 2 + 512#64 * (0#7).setWidth 64).toNat + 512 ≤ 0x2FF000 ∧
    ((ElType.flt .fp32).cont = 32 ∧ s.me.vpois 3 = 0 ∧ Unformatted s (s.me.tr 1) false ∧
      ∀ i, i < 128 → ∃ pa, Reaches s live0 .v false true ((s.me.vr 3).extractLsb' (32 * i) 32).toNat 4 pa) := by
  have hr (i : Nat) (h : i < 128) : (((vHolding { a := [(1, 65024), (2, 0x2FEE00)], v := [(3, 65532#4096)] }).me.vr 3).extractLsb'
      (32 * i) 32).toNat + 4 ≤ 65536 := by
    revert h i; decide +kernel
  have hz : (vHolding { p := [(1, 0#1024)] }).me.pr 1 = 0#1024 := rfl
  exact ⟨⟨fun j _ => by rw [hz]; exact BitVec.getLsbD_zero, by decide, fun p h => absurd h List.not_mem_nil⟩, by decide, by decide,
    ⟨127, by decide, by decide +kernel⟩, by decide, by decide, by decide, ⟨by decide, .inl rfl, live0_reaches rfl rfl rfl rfl (by decide) (by decide +kernel)⟩,
    by decide +kernel, by decide, by decide, .inr (by decide), fun i h => ⟨_, live0_reaches rfl rfl rfl rfl (by decide) (hr i h)⟩⟩

theorem witness_VectorSlotsAndFormats :
    let r (c : Word) (t : BitVec 128) : StageRing := (one (staged c t)).me.ring 5
    (r 0 0).count = 0 ∧
    ((r (conf 1 3 0 2) 0).count ≠ 0 ∧ (r (conf 1 3 0 2) 0).tag (r (conf 1 3 0 2) 0).tail = 0) ∧
    ((r (conf 1 3 0 2) 0x10).count ≠ 0 ∧ (r (conf 1 3 0 2) 0x10).tag (r (conf 1 3 0 2) 0x10).tail ≠ 0) ∧
    ((r (conf 1 3 2 0) 0x20).count ≠ 0 ∧ (r (conf 1 3 2 0) 0x20).tag (r (conf 1 3 2 0) 0x20).head = 2) ∧
    ((r (conf 1 3 2 0) 0).count ≠ 0 ∧ (r (conf 1 3 2 0) 0).tag (r (conf 1 3 2 0) 0).head ≠ 2) ∧
    ((r (conf 1 3 0 2) 0x5).count ≠ 0 ∧ (r (conf 1 3 0 2) 0x5).mode = 1 ∧ (r (conf 1 3 0 2) 0x5).filling = [0, 1]) ∧
    ((r (conf 1 3 2 0) 0xF).count ≠ 0 ∧ (r (conf 1 3 2 0) 0xF).draining = [0, 1]) ∧
    (let s := one { vAt 0 {} with spad := { bytes := [(0, 8), (2, 1), (9, 2)] } }
     s.me.v.loads = [] ∧ NoSpStore s true (s.me.ar 1).toNat 72 ∧ patValid (plain (s.spRead 0 true (s.me.ar 1).toNat 72).2.1) = true) ∧
    (let s := one (vAt 0 {})
     s.me.v.loads = [] ∧ NoSpStore s true (s.me.ar 1).toNat 72 ∧ patValid (plain (s.spRead 0 true (s.me.ar 1).toNat 72).2.1) = false) ∧
    (let s := one { staged (conf 1 3 0 2) 0 with s := { st := .waiting (.slotEmpty 5) } }
     s.me.s.st = .waiting (.slotEmpty 5) ∧ s.stalled 0 = false ∧ (s.me.ring 5).tag (s.me.ring 5).tail = 0) ∧
    (∀ c t, Ready (one (staged c t)) 0 true ∧ (one (staged c t)).me.v.loads = []) ∧
    (let s := one { sticking with rings := (staged (conf 1 3 0 2) 0).rings }
     (s.me.ring 5).count ≠ 0 ∧ Stuck s 0 true) := by
  refine ⟨?_, ?_, ?_, ?_, ?_, ?rest⟩ <;> try decide +kernel
  refine ⟨?_, ?_, ⟨rfl, fun q hq => absurd hq List.not_mem_nil, ?_⟩, ⟨rfl, fun q hq => absurd hq List.not_mem_nil, ?_⟩, ?_,
    fun c t => ⟨ready_empty rfl rfl, rfl⟩, by decide, stuck_of rfl rfl (by decide) rfl⟩ <;> decide +kernel

theorem witness_PredicatesAndArguments :
    let s := one { pairV with v := { pairV.v with mailbox := [(5, some (1, 2))] } }
    let set (a : PReg) (j : Nat) : Bool := decide (j < 128) && (s.me.pr a).getLsbD j
    s.me.etype .si32 = some (.int true 32) ∧ (ElType.int true 32).count = 128 ∧ (∀ j, set 2 j = false) ∧
    (set 1 0 = true ∧ ∀ i, i < 0 → set 1 i = false) ∧
    Sparse.get none s.me.v.mailbox 4 = none ∧ Sparse.get none s.me.v.mailbox 5 = some (1, 2) := by
  refine ⟨by decide, by decide, ?_, by decide +kernel, by decide, by decide⟩
  intro j
  have h : (one { pairV with v := { pairV.v with mailbox := [(5, some (1, 2))] } }).me.pr 2 = 0#1024 := rfl
  simp only [h, BitVec.getLsbD_zero, Bool.and_false]

theorem witness_VectorSynchronisationAndLoops :
    let c (n : BitVec 16) (ws : List (SemId × Agent)) : State := one (counted n ws)
    ((3 : SemId) ≠ 0 ∧ ((c 65534 []).me.sem 3).count.toNat < 65535 ∧ ((c 65535 []).me.sem 3).count.toNat = 65535) ∧
    (c 2 [(3, .s)]).me.ahead 3 .v < ((c 2 [(3, .s)]).me.sem 3).count.toNat ∧
    ((c 1 [(3, .s)]).me.sem 3).count.toNat ≤ (c 1 [(3, .s)]).me.ahead 3 .v ∧
    (Ready (one storing) 0 true ∧ Ready (c 65535 []) 0 true ∧ Stuck (one sticking) 0 true ∧ (one storing).lazy = false ∧
      ({ one storing with lazy := true } : State).lazy = true ∧ NoHost (one storing) ((one storing).queueShown true)) ∧
    (Prompt unwrittenHost 0 true ∧ NoBuffer unwrittenHost 0 ∧ unwrittenHost.unwritten 0 = true) ∧
    (let l : Loop := ⟨1, 4, 2, 1⟩
     let e (n : Nat) : Engine := { st := .running, size := 16, wp := 8, pos := 3, loops := List.replicate n l }
     (l.last < (e 1).pos + 2 ∧ ¬ (l.last < (e 1).pos + 1)) ∧ 4 ≤ (e 4).loops.length ∧ (e 3).loops.length < 4 ∧
     (l ∈ (e 1).loops ∧ 1 < l.left) ∧ ∀ m, m ∈ (e 0).loops → m.left ≤ 1) := by
  refine ⟨by decide, by decide, by decide, ⟨ready_storing _, ready_empty rfl rfl, stuck_sticking _, rfl, rfl, rfl, by decide +kernel⟩,
    ⟨⟨rfl, rfl, rfl⟩, noBuffer_of rfl rfl, by decide⟩, ?_⟩
  decide

theorem witness_IllegalElementTypeStopsTheVectorStream :
    fmtBase ((one (vAt 2 {})).me.fmtAt (one (vAt 2 {})).me.v.fmtIndex.toNat) ≠ 1 := by
  decide


/-- A command in flight whose work is done. -/
def ended (i : Instr) (cs : Codes) (tok : Option Tok) : Flight := { cmd := i, st := .done, codes := cs, tok := tok }

/-- A core whose matrix engine runs a ring of `size` words at 0x1000 and holds a command. -/
def mAt (f : Option Flight) (ls : List Loop) : Core :=
  { sc (xs 0 0) with m := { eng := { st := .running, base := 0x1000, size := 8, wp := 4, loops := ls, pos := 3 }, flight := f } }

/-- A core whose M ring holds MZERO.RL acc1 in its first two words. -/
def mzeroRing (f : Option Flight) : Core :=
  { sc (xs 0 0) with
    m := { eng := { st := .running, base := 0x1000, size := 8, wp := 2 }, flight := f }
    spad := { bytes := [(0x1001, 0x50), (0x1003, 0x18)] } }

/-- A core whose M ring holds MDRAIN.FX of acc1 by format entry 0, which is no FX format. -/
def mdrainRing : Core := { mzeroRing none with
  m := { eng := { st := .running, base := 0x1000, size := 8, wp := 4 } }
  spad := { bytes := Sparse.putList 0 [] 0x1000 (encodeBytes (.mdrain 0 0 true 1 .fx .rne false false 0x3C00 0 0)) } }

/-- Two cores in one panel, the second with idle engines. -/
def besideIdle (c : Core) : State :=
  { cores := [(0, { c with panel := { size := 2 } }), (1, { panel := { rank := 1, size := 2 } })] }

/-- A template that fills a slot of ring 5 with one row of 512 bytes. -/
def fillTemplate : List Byte := List.replicate 9 0 ++ [2, 0, 0, 1, 0, 1, 0] ++ List.replicate 16 0 ++ [0x41, 5] ++ List.replicate 14 0

/-- A core with an aperture copy on channel 2. -/
def aperture (st : FlightSt) : Core :=
  { staged (conf 0 1 0 0) 0 with c := { chans := [(2, [{ cmd := .copyt 0 0 false 0 0 0, st := st, tmpl := fillTemplate }])] } }

theorem witness_EngineCommandsIssueAndComplete :
    let mz : Instr := .mzero 3 5 false 1
    (IsCommand .m mz ∧ (one (counted 0 [])).curN = (0 : CoreId).toNat ∧ (semsOf mz).1 ≠ 0#6 ∧
      (let s := one (counted 0 [])
       s.me.flight .m = none ∧ (s.me.sem 3).count.toNat ≤ s.me.ahead 3 (agentOfEngine .m) ∧ 0 < s.budget)) ∧
    (let f := ended mz {} none
     let s := one (mAt (some f) [])
     IsCommand .m mz ∧ s.held s.curN = false ∧ 0 < s.budget ∧ NoBuffer s s.curN ∧ s.me.flight .m = some f ∧ f.cmd = mz ∧
     f.st = .done ∧ f.slot = none ∧ f.dscVa = none ∧ f.codes.illegal = false ∧ f.tok = none ∧ syncOf mz = none) ∧
    (let f := ended (.msync 0 0 true) { denied := true } none
     let s := one (mAt (some f) [])
     IsCommand .m f.cmd ∧ s.me.flight .m = some f ∧ syncOf f.cmd = some true ∧ f.codes.first ≠ 0 ∧
     0x100 ≤ (s.me.engine .m).base ∧ (s.me.engine .m).base - 0x100 + 4 * 63 + 4 ≤ 0x2FF000) ∧
    (let f := ended mz {} (some tok0)
     let s := one { mAt (some f) [] with mtes := [(0, { live0 with refs := 2 })] }
     s.me.flight .m = some f ∧ f.codes.illegal = false ∧ f.tok = some tok0 ∧ (s.me.mte tok0.idx.toNat).refs = 0 + 2) ∧
    (let f := ended mz { illegal := true } none
     (one (mAt (some f) [])).me.flight .m = some f ∧ f.codes.illegal = true) ∧
    (let i : Instr := .mzero 0 0 true 1
     IsCommand .m i ∧ isDovetail i = false ∧ syncOf i = none ∧ (semsOf i).1 = 0#6 ∧
     (let s := one (mzeroRing none)
      s.held s.curN = false ∧ s.me.flight .m = none ∧ s.takenFrom s.curN .m = none ∧ s.engineWaits s.curN .m = false ∧
      s.fetchCmd s.curN .m = .cmd i ∧ s.me.takenOf .m = [] ∧ s.chanHeld s.curN i = false ∧
      ((s.setCore s.curN (s.core s.curN)).issueCmd s.curN { cmd := i, addr := 0x1000 }).isSome = true) ∧
     (let s := besideIdle { mzeroRing none with m := { (mzeroRing none).m with taken := [{ cmd := i, taker := some 1 }] } }
      s.me.flight .m = none ∧ s.me.takenOf .m ≠ [] ∧ s.fetchCmd s.curN .m = .cmd i) ∧
     (let s := besideIdle (mzeroRing (some { cmd := .mfmt 0 0 0 0, st := .issued }))
      s.engineIdle 1 .m = true ∧ s.held 1 = false ∧ s.stalled 1 = false ∧ 0 ≠ 1 ∧
      ((s.core 1).panelCores 1).findSome? (fun j => if j = 1 then none else (s.takeable j .m).map (fun i => (j, i))) =
        some (0, i) ∧
      (∀ n, n ∈ (s.core 1).panelCores 1 → n < 1 → n ≠ 0 → s.engineIdle n .m = false) ∧
      ((s.setCore 0 (s.core 0)).issueCmd 0 { cmd := i, addr := 0x1000, taker := some 1 }).isSome = true)) ∧
    (let i : Instr := .mdrain 0 0 true 1 .fx .rne false false 0x3C00 0 0
     (let s := one mdrainRing
      s.held s.curN = false ∧ s.me.flight .m = none ∧ s.takenFrom s.curN .m = none ∧ s.engineWaits s.curN .m = false ∧
      s.fetchCmd s.curN .m = .cmd i ∧ s.me.takenOf .m = [] ∧ s.chanHeld s.curN i = false ∧
      ((s.setCore s.curN (s.core s.curN)).issueCmd s.curN { cmd := i, addr := 0x1000 }).isNone = true) ∧
     (let s := besideIdle { mdrainRing with m := { mdrainRing.m with flight := some { cmd := .mfmt 0 0 0 0, st := .issued } } }
      ((s.core 1).panelCores 1).findSome? (fun j => if j = 1 then none else (s.takeable j .m).map (fun i => (j, i))) =
        some (0, i) ∧
      ((s.setCore 0 (s.core 0)).issueCmd 0 { cmd := i, addr := 0x1000, taker := some 1 }).isNone = true)) ∧
    (let l : Loop := ⟨1, 4, 2, 1⟩
     let e (n : Nat) : Engine := ((one (mAt none (List.replicate n l))).me.engine .m)
     ((e 1).loops = [l] ∧ l.last < (e 1).pos + 2 ∧ ¬ (l.last < (e 1).pos + 1)) ∧ 4 ≤ (e 4).loops.length ∧ (e 3).loops.length < 4) ∧
    (let s := one (aperture .decoded)
     let h : Flight := { cmd := .copyt 0 0 false 0 0 0, st := .decoded, tmpl := fillTemplate }
     s.held 0 = false ∧ Sparse.get [] (s.core 0).c.chans 2 = [h] ∧
     ((s.core 0).ring (templateOf h.tmpl).gring).takesCopies = true) ∧
    (let s := one (aperture .issued)
     let h : Flight := { cmd := .copyt 0 0 false 0 0 0, st := .issued, tmpl := fillTemplate }
     Sparse.get [] (s.core 0).c.chans 2 = [h] ∧ (State.apertureUnits s.budget s 0 h).2.2 = true ∧
     (State.apertureUnits s.budget s 0 h).2.1.slot = some (5, 0)) := by
  have hz (ws ss : SemId) (rl : Bool) (b : BitVec 2) : IsCommand .m (.mzero ws ss rl b) := ⟨rfl, nofun, nofun⟩
  refine ⟨⟨hz .., by decide⟩, ⟨hz .., rfl, by decide, ⟨rfl, nofun⟩, by decide⟩, ⟨⟨rfl, nofun, nofun⟩, by decide⟩, by decide, by decide,
    ⟨hz .., by decide, by decide, by decide, ?_, by decide +kernel, ?_⟩, ?_, by decide +kernel⟩
  all_goals decide +kernel

/-- A scratchpad without poison and with every check value right is clean below its descriptors. -/
theorem spClean_of {c : Core} (hp : c.spad.pois = []) (hk : c.spad.chk = []) {a n : Nat} (h : a + n ≤ 0x2FF000) :
    c.spClean a n := ⟨h, by simp [Store.bad, hk], by simp [hp]⟩

/-- Each byte of `live0` is reached where memory has no migration, discarded unit, poison or wrong check value. -/
theorem live0_reachesEach {s : State} {b : MaskBit} {r w : Bool} {off n : Nat} (hm : s.mem.mig = []) (hc : s.mem.clamp = [])
    (hp : s.mem.dev.pois = []) (hk : s.mem.dev.chk = []) (ht : s.mem.dev.tags = []) (ha : s.mem.dev.areas = [])
    (hb : off + n ≤ 65536) : ReachesEach s live0 b r w off n (fun j => 0x100000 + (off + j)) := by
  intro j hj
  exact ⟨live0_reaches hm hc ht ha (by decide) (by omega), fun _ => cleanAt_of hp hk _ _⟩

/-- The configuration word of a store-filled ring of two slots of 16 KiB at a block address, with the slot next to be awaited. -/
def conf16K (base head : Nat) : Word := BitVec.ofNat 64 (2 ^ 62 + 2 * 2 ^ 55 + head * 2 ^ 49 + 32 * 2 ^ 30 + base * 2 ^ 17)

/-- An MMA in flight over rings 2 and 3, with the slot of each that is next to be awaited and the tags of both. -/
def mmaCore (f : Flight) (head : Nat) (tags : BitVec 128) : Core :=
  { sc (xs 0 0) with
    m := { flight := some f }
    rings := [(2, { conf := conf16K 0 head, tags := tags }), (3, { conf := conf16K 64 head, tags := tags })] }

/-- The same as a state whose engine has one unit to do. -/
def mmaState (f : Flight) (head : Nat) (tags : BitVec 128) : State := { one (mmaCore f head tags) with budget := 1 }

theorem mmaState_atUnit (f : Flight) (head : Nat) (tags : BitVec 128) (h : f.st = .issued) (hd : f.codes.denied = false) :
    AtUnit .m (mmaState f head tags) f := ⟨rfl, rfl, h, hd, noBuffer_of rfl rfl, noTwin_of rfl rfl⟩

/-- One MMA of SI8 operands over two slabs, the last of 17 products. -/
def mma2 : Instr := .mma 0 0 false 0 true 2 3 false 2 17 0 0 .si8 false false false

/-- The same for a panel of four, of SI4 operands. -/
def mmap2 : Instr := .mmap 0 0 0 true 2 3 true 2 17 0 0 .si4 false false false

/-- Four cores of a panel, the first with an MMAP in flight over rings 2 and 3 whose slots 1 are DRAINING. -/
def mmapState (f : Flight) : State :=
  let lent (r : Nat) : Core := { m := { mmapOf := some 0 }, panel := { rank := BitVec.ofNat 4 r, size := 4 } }
  { cores := [(0, { mmaCore f 0 12 with panel := { size := 4 } }), (1, lent 1), (2, lent 2), (3, lent 3)], budget := 1 }

theorem witness_MatrixCommandResults :
    (∀ i, i ∈ [Instr.mzero 0 0 false 1, .mfmt 0 0 3 0x2FEFF8, .mdrain 0 0 false 1 .fp32 .rne false false 0x3C00 0xBBC 0,
      .mldacc 0 0 false 1 .fp32 0xBBC 0, .mchk 0 0 1 0x2FEFF0, .msync 0 0 true] → Takes i .m (one (sc (xs 0 0)))) ∧
    (let s := one (sc (xs 0 0))
     (s.me.spClean 0x2FEFF8 8 ∧ fmtValid (BitVec.ofNat 64 (leNat (s.me.spBytes 0x2FEFF8 8))) = true) ∧
     (typeWith (s.me.fmtAt 0) .fp32 = some (.flt .fp32) ∧ Sparse.get 0 s.me.m.rowMarks 1 = 0#128 ∧
       Sparse.get 0 s.me.m.colMarks 1 = 0#128 ∧ 1024 * 0xBBC + 2048 * (ElType.flt .fp32).cont ≤ 0x2FF000) ∧
     s.me.spClean (1024 * 0xBBC) (2048 * (ElType.flt .fp32).cont) ∧
     (0x2FEFF0 + 16 ≤ 0x2FF000 ∧ ∀ j, j < 128 → lineCheck (s.me.m.chkOf 1).valid [] 0 0 ≠ some false) ∧ s.me.m.taken = []) ∧
    (let k : Chk := { valid := true, pr := [(5, 0x3F800000)] }
     lineCheck k.valid ((List.range 128).map (fun _ => (0 : Word32))) (Sparse.get 0 k.pr 5) (Sparse.get 0 k.mr 5) = some false) ∧
    (let f : Flight := { cmd := mma2, st := .issued }
     AtUnit .m (mmaState f 1 8) f ∧ f.prog = 0) ∧
    (∀ sl, let f : Flight := { cmd := mma2, st := .issued, prog := 1, slotA := sl }
     let s (tags : BitVec 128) := mmaState f 1 tags
     let r (tags : BitVec 128) (n : Nat) := (s tags).me.ring n
     f.prog ≠ 0 ∧ f.slotA = sl ∧ f.slotB = none ∧
     (∀ tags, AtUnit .m (s tags) f ∧ ∀ n, (∀ w, (s tags).me.s.st = .waiting w → w ≠ .slotFull n) ∧
       (s tags).me.v.wait ≠ some (.slotFull n)) ∧
     ∀ n, n ∈ [2, 3] → (r 8 n).count ≠ 0 ∧ (r 8 n).tag (r 8 n).head = 2 ∧ (r 0 n).tag (r 0 n).head ≠ 2) ∧
    (let f : Flight := { cmd := mma2, st := .issued, prog := 2, slotA := some 1, slotB := some 1 }
     let s := mmaState f 0 12
     let ra := s.me.ring 2
     let rb := s.me.ring 3
     AtUnit .m s f ∧ confValid ra.conf = true ∧ confValid rb.conf = true ∧ ra.draining = [1] ∧ rb.draining = [1] ∧
     operandType f.fmtA .si8 false = some (.int true 8) ∧ operandEnd f.fmtA (.int true 8) 16384 = ra.slotBytes ∧
     planeOf f.fmtA 16384 = (0, 0) ∧ s.me.spClean (ra.slotAddr 1) 16384 ∧ s.me.spClean (rb.slotAddr 1) 16384 ∧
     s.me.spClean (ra.slotAddr 1 + 0) 0 ∧ s.me.spClean (rb.slotAddr 1 + 0) 0) ∧
    (let f : Flight := { cmd := mmap2, st := .issued, prog := 2, slotA := some 1, slotB := some 1 }
     let s := mmapState f
     let ra := s.me.ring 2
     AtUnit .m s f ∧ (s.me.panel.size = 4#5 ∧ s.me.panel.base.toNat = s.curN ∧
       ∀ r, r = 1 ∨ r = 2 ∨ r = 3 → (s.core (s.curN + r)).m.mmapOf = some s.curN) ∧
     ra.draining = [1] ∧ (s.me.ring 3).draining = [1] ∧ operandType f.fmtA .si4 false = some (.int true 4) ∧
     operandEnd f.fmtA (.int true 4) 32768 = ra.slotBytes ∧ s.me.spClean (ra.slotAddr 1) 16384) := by
  refine ⟨?_, ⟨⟨spClean_of rfl rfl (by decide), by decide⟩, by decide, spClean_of rfl rfl (by decide), by decide, rfl⟩,
    by decide +kernel, ⟨mmaState_atUnit _ _ _ rfl rfl, rfl⟩, fun sl => ?_, ?_, ?_⟩
  · intro i h
    fin_cases h <;> exact ⟨rfl, by decide, noBuffer_of rfl rfl, noTwin_of rfl rfl, .inl rfl⟩
  · refine ⟨Nat.one_ne_zero, rfl, rfl, fun tags => ⟨mmaState_atUnit _ _ _ rfl rfl, fun n => ⟨nofun, nofun⟩⟩, fun n hn => ?_⟩
    exact (by decide : ∀ n, n ∈ [2, 3] → ((mmaCore { cmd := mma2 } 1 8).ring n).count ≠ 0 ∧
      ((mmaCore { cmd := mma2 } 1 8).ring n).tag ((mmaCore { cmd := mma2 } 1 8).ring n).head = 2 ∧
      ((mmaCore { cmd := mma2 } 1 0).ring n).tag ((mmaCore { cmd := mma2 } 1 0).ring n).head ≠ 2) n hn
  · exact ⟨mmaState_atUnit _ _ _ rfl rfl, by decide, by decide, by decide, by decide, by decide, by decide, by decide,
      spClean_of rfl rfl (by decide), spClean_of rfl rfl (by decide), spClean_of rfl rfl (by decide), spClean_of rfl rfl (by decide)⟩
  · exact ⟨⟨rfl, rfl, rfl, rfl, noBuffer_of rfl rfl, noTwin_of rfl rfl⟩, ⟨rfl, rfl, by rintro r (rfl | rfl | rfl) <;> rfl⟩,
      by decide, by decide, by decide, by decide, spClean_of rfl rfl (by decide)⟩

/-- A copy-engine command in flight, at unit `q`. -/
def flying (i : Instr) (q : Nat) : Flight := { cmd := i, st := .issued, prog := q, tok := some tok0 }

/-- A core that runs it for one unit, holding `live0` in t1 and a copy-filled ring 5 of one slot, FILLING. -/
def copying (f : Flight) : State :=
  let c := withMte (sc (xs 0 0)) live0
  { one { c with c := { flight := some f }, rings := [(5, { conf := conf 0 1 0 0, tags := 1 })] } with budget := 1 }

theorem copying_atUnit (f : Flight) (h : f.st = .issued) (hd : f.codes.denied = false) : AtUnit .c (copying f) f :=
  ⟨rfl, rfl, h, hd, noBuffer_of rfl rfl, noTwin_of rfl rfl⟩

/-- A template of three rows of one byte. -/
def threeRows (out : Bool) : List Byte :=
  List.replicate 8 0 ++ [1, 0, 0, 0, 3, 0, 1, 0, 2, 0, 0, 0, 5, 0, 0, 0] ++ List.replicate 8 0 ++ [if out then 0x81 else 1] ++
    List.replicate 15 0

theorem witness_CopyCommandsMoveBytes :
    let last (f : Flight) (b : MaskBit) (r w : Bool) (o n : Nat) : Prop := AtUnit .c (copying f) f ∧
      (copying f).me.mteOf f.tok = live0 ∧ ReachesEach (copying f) live0 b r w o n (fun j => 0x100000 + (o + j))
    last (flying (.copy 0 0 false false 1 false 0 0xFC00 0x17F6 2 false) 1) .cRead true false (0xFC00 + 512) 512 ∧
    512 * 0x17F6 + 512 + 512 ≤ 0x2FF000 ∧
    (last (flying (.copy 0 0 false true 1 false 0 0xFC00 0x17F6 2 false) 1) .cWrite false true (0xFC00 + 512) 512 ∧
      (copying (flying (.copy 0 0 false true 1 false 0 0xFC00 0x17F6 2 false) 1)).me.spClean (512 * 0x17F6 + 512) 512) ∧
    (let f : Flight := { flying (.copy 0 0 false false 1 true 5 0 0 1 false) 0 with slot := some (5, 0) }
     let r := (copying f).me.ring 5
     last f .cRead true false 0 512 ∧ confValid r.conf = true ∧ 0 < r.count ∧ 0 + 512 ≤ r.slotBytes ∧ (r.slot 0).bytes + 512 ≤ r.expect) ∧
    (let f := flying (.copy 0 0 false false 1 true 5 0 0 1 false) 0
     AtUnit .c (copying f) f ∧ f.slot = none ∧ 0 < (1 : BitVec 13).toNat ∧ ((copying f).me.ring 5).tag ((copying f).me.ring 5).tail ≠ 0) ∧
    (∀ out, let f : Flight := { flying (.copyt 0 0 false 0 0 0) 0 with tmpl := threeRows out }
     let t0 := templateOf f.tmpl
     AtUnit .c (copying f) f ∧ f.slot = none ∧
     (∀ x, x < 3 → Reaches (copying f) live0 (if out then .cWrite else .cRead) (!out) out (2 * x) 1 (0x100000 + 2 * x) ∧
       CleanAt (copying f) (0x100000 + 2 * x) 1 ∧ (copying f).me.spClean (5 * x) 1) ∧
     t0.g = false ∧ t0.gz = false ∧ t0.d = out ∧ templateValid f.tmpl = true ∧
     t0.n2 * t0.n1 * t0.rowb = 3 ∧ t0.es1 = 2 ∧ t0.ss1 = 5 ∧ t0.eoff = 0 ∧ t0.saddr = 0) ∧
    (let f := flying (.imwin 0 0 false 1 0xFFFFFFE0 0 3 1 1 0) 2
     last f .cRead true false 96 32 ∧ ((0xFFFFFFE0 : BitVec 32).toInt + (2 * 2 ^ 1 * (32 * 2 ^ 0) : Nat)) = 96) ∧
    (let f : Flight := { flying (.gather 0 0 false 1 0x3FF 0 0 1) 1023 with idx := List.replicate 1024 (0xFFC0, false) }
     last f .cRead true false 0xFFC0 64 ∧ f.idx[1023]? = some (0xFFC0, false)) ∧
    (let f : Flight := { flying (.scatter 0 0 false 1 0 0 0x17F7 8) 0 with idx := [(0xFE00, false)] }
     last f .cWrite false true 0xFE00 512 ∧ f.idx[0]? = some (0xFE00, false) ∧ (copying f).me.spClean (512 * 0x17F7) 512) ∧
    (let f := flying (.fill 0 0 false 2 0x01020304 0x17F7 1 false 0) 0
     AtUnit .c (copying f) f ∧ 512 * 0x17F7 + 512 ≤ 0x2FF000) ∧
    (let f := flying (.pcopy 0 0 true 1 0x17F7 1 0) 0
     let s := { besideIdle (copying f).me with budget := 1 }
     AtUnit .c s f ∧ (1 : BitVec 4).toNat < s.me.panel.size.toNat ∧ 512 * 0x17F7 + 512 ≤ 0x2FF000 ∧ (s.core 0).spClean 0 512) ∧
    (∀ inv, let f := flying (.cflush 0 0 1 inv 0 1) 0
     let s : State := { hosting 0 0 with
       budget := 1
       cores := [(0, { (hosting 0 0).me with c := { flight := some f } })] }
     AtUnit .c s f ∧ s.access s.curN f.tok (if inv then .cWrite else .cRead) (!inv) inv [(0, 0, 1)] = .live [⟨.at .host 0x100000, 0, 0, 1, none⟩] ∧
     anyOut [⟨.at .host 0x100000, 0, 0, 1, none⟩] = false ∧ s.mem.host.chk = [] ∧
     ∀ l, s.mem.hcopy.bad (128 * l) 128 = [] ∧ ∀ z, z < 128 → Sparse.get false s.mem.hcopy.pois (128 * l + z) = false) ∧
    (let u := one (sc (xs 0 0))
     Takes (.csync 0 0 true) .c u ∧ u.me.c.taken = [] ∧ Takes (.sketch 0 0 false .si4 0xBEC 15 0x17) .c u ∧
     typeWith 0 .si4 = some (.int true 4) ∧ u.me.spClean (1024 * 0xBEC) (2 ^ 15 * 4 / 8)) := by
  have la (f : Flight) (h : f.st = .issued) (hd : f.codes.denied = false) (ht : f.tok = some tok0) (b : MaskBit) (r w : Bool)
      (o n : Nat) (hb : o + n ≤ 65536) : AtUnit .c (copying f) f ∧ (copying f).me.mteOf f.tok = live0 ∧
        ReachesEach (copying f) live0 b r w o n (fun j => 0x100000 + (o + j)) := by
    refine ⟨copying_atUnit f h hd, ?_, live0_reachesEach rfl rfl rfl rfl rfl rfl hb⟩
    rw [ht]
    rfl
  have ta : ∀ i, i = Instr.csync 0 0 true ∨ i = .sketch 0 0 false .si4 0xBEC 15 0x17 → Takes i .c (one (sc (xs 0 0))) := by
    rintro i (rfl | rfl) <;> exact ⟨rfl, by decide, noBuffer_of rfl rfl, noTwin_of rfl rfl, .inl rfl⟩
  refine ⟨la _ rfl rfl rfl _ _ _ _ _ (by decide), by decide, ⟨la _ rfl rfl rfl _ _ _ _ _ (by decide), spClean_of rfl rfl (by decide)⟩,
    ⟨la _ rfl rfl rfl _ _ _ _ _ (by decide), by decide⟩, ⟨copying_atUnit _ rfl rfl, by decide⟩, fun out => ⟨copying_atUnit _ rfl rfl, rfl, fun x hx => ?_, by cases out <;> decide⟩,
    ⟨la _ rfl rfl rfl _ _ _ _ _ (by decide), by decide⟩, ⟨la _ rfl rfl rfl _ _ _ _ _ (by decide), by decide +kernel⟩,
    ⟨la _ rfl rfl rfl _ _ _ _ _ (by decide), by decide, spClean_of rfl rfl (by decide)⟩, ⟨copying_atUnit _ rfl rfl, by decide⟩,
    ⟨⟨rfl, rfl, rfl, rfl, noBuffer_of rfl rfl, noTwin_of rfl rfl⟩, by decide, by decide, spClean_of rfl rfl (by decide)⟩, fun inv => ?_,
    ⟨ta _ (.inl rfl), rfl, ta _ (.inr rfl), rfl, spClean_of rfl rfl (by decide)⟩⟩
  · exact ⟨live0_reaches rfl rfl rfl rfl (by decide) (by omega), cleanAt_of rfl rfl _ _, spClean_of rfl rfl (by omega)⟩
  · refine ⟨⟨rfl, rfl, rfl, rfl, noBuffer_of rfl rfl, noTwin_of rfl rfl⟩, by cases inv <;> decide +kernel, by decide, rfl,
      fun l => ⟨rfl, fun _ _ => rfl⟩⟩

/-- A translation of core 0 that waits for the reply to fault record 5. -/
def stalled (q : Bool) : Walk := { q := q, td := 3, base := 0, len := 1, wantW := true, phase := .stall 5 }

/-- Fault record 5. -/
def fault5 (o : FaultFor) : FaultRec := { ix := 5, va := 0, kind := 1, level := 2, core := 0, gang := 0, entryPa := 0, owner := o }

/-- A core that waits for the Bench on an extent whose page is valid by now. -/
def faulted (q noframe : Bool) : State :=
  let s := paged true (sc { xs 0 0 with st := .waiting .bench, walk := some (stalled q) })
  { s with bench := { s.bench with faults := [{ fault5 .xlat with noframe := noframe }] }, panels := [(0, { stall := [5] })] }

/-- A state whose core 0 holds entry 0 as given, over an extent with a leaf with or without W. -/
def stalePaged (w : Bool) (m : Mte) : State := paged w (withMte (sc (xs 0 0)) m)

/-- A request over one unit. -/
def unitReq (old new leaf : BitVec 64) (pad : BitVec 88) : RevokeReq := ⟨9, old, new, leaf, 1, pad⟩

/-- A state whose core 0 has pinned unit 16 for `live0`. -/
def pinned (revs : List Revoc) : State :=
  { holding 0 0 with mem := { clamp := [(16, { pins := 1, cores := [(0, 1)] })] }, bench := { revocs := revs } }

/-- A migration of one unit with the given lines missing. -/
def moving (ls : List Nat) : MigPair := { ix := 9, oldUnit := 16, newUnit := 17, units := 1, leafPa := 0, settled := true, missing := ls }

/-- The walk of core 0 after its fault record is gone, with `u` and `x` for what the reply has done to the page it names. -/
def goesOn (u : State) (x : Walk) : State × Walk × Option (Nat × WalkEnd) := State.walkOn (x.len / 65536 + 3) u 0 x

/-- A walk that waits because its one page, found before, is not pinned. -/
def unpinnedWalk : Walk := { stalled false with pages := [{ va := 0, leaf := ⟨0x200000, 2, 0x0FC3⟩, unit := 0, n := 1 }] }

/-- What RESOLVED leaves of a walk whose page `va` was found before. -/
def rewalked (r : State) (w : Walk) (l : Leaf) (va : Nat) : State × Walk :=
  let p := (r.walk false 0 va).1.pinPage 0 (l.page va (w.base + w.len))
  (p.1, { w with pages := w.pages.map (fun q => if q.va = va then p.2 else q) })

/-- A walk has ended with every page pinned. -/
abbrev endsWell (r : State × Walk × Option (Nat × WalkEnd)) : Prop :=
  r.2.2 = none ∧ pagesFault true r.2.1.pages = none ∧ (∀ p, p ∈ r.2.1.pages → p.pinned = true) ∧
  XlatEnd.ofPages r.2.1.pages = .good 0x3F 0 [⟨0, false, false, 1, 0⟩]

theorem pinned_noTwin (revs : List Revoc) (n : Nat) : NoTwin (pinned revs) n := by
  have h (j : Nat) : ((pinned revs).core j).step = none := by
    simp only [pinned, holding, one, withMte, sc, State.core, Sparse.get]
    split <;> rfl
  exact noTwin_of (h n) (h _)

theorem witness_FaultRepliesRevocationAndMigration :
    (∀ q nf, (faulted q nf).dv.held = [] ∧ (faulted q nf).dv.errFlags = [] ∧
      (faulted q nf).bench.faults.find? (fun g => g.ix == (5 : BitVec 64).toNat) = some { fault5 .xlat with noframe := nf } ∧
      ((faulted q nf).core 0).s.walk = some (stalled q) ∧ ((faulted q nf).core 0).s.inHandler = false ∧
      (stalled q).td ≠ 0#5 ∧ ((faulted q nf).core 0).tr 3 = none ∧ ((faulted q nf).core 0).freeMtes ≠ [] ∧
      (∀ p, p ∈ (stalled q).pages → p.va ≠ 0)) ∧
    (∀ q nf, endsWell (goesOn ((((faulted q nf).freeStall 0 5).dropFault 5).uncache (fault5 .xlat).entryPa) (stalled q))) ∧
    (let r := (((faulted false true).freeStall 0 5).dropFault 5).uncache (fault5 .xlat).entryPa
     let x := rewalked r unpinnedWalk ⟨0x200000, 2, 0x0FC3⟩ 0
     (∃ p, p ∈ unpinnedWalk.pages ∧ p.va = 0) ∧ (r.walk false 0 0).2 = .leaf ⟨0x200000, 2, 0x0FC3⟩ ∧ endsWell (goesOn x.1 x.2)) ∧
    (let s : State := { stalePaged true { live0 with st := .stale } with bench := { faults := [fault5 (.rewalk 0)] } }
     s.bench.faults.find? (fun g => g.ix == (5 : BitVec 64).toNat) = some (fault5 (.rewalk 0))) ∧
    (let m : Mte := { live0 with st := .stale }
     let unused (s : State) : Prop := ((s.core 0).mte 0).fresh = true ∧ (s.core 0).usesMte 0 = false
     (∀ w, ((stalePaged w m).core 0).mte 0 = m ∧ (stalePaged w m).bench.faults = [] ∧ ¬ unused (stalePaged w m)) ∧
     unused (stalePaged true { m with fresh := true }) ∧
     ((stalePaged true m).translate false 0 [] 0 65536 true).2 = .good 0x3F 0 [⟨0, false, false, 1, 0⟩] ∧
     ((stalePaged false m).translate false 0 [] 0 65536 true).2 = .cause 5 0 ∧
     ((holdingAs .stale 0 0).translate false 0 [] 0 65536 true).2 = .invalid 0 0 3 1) ∧
    (let w : Walk := { stalled true with phase := .predicted tok0 none }
     let s := paged true (withMte (sc { xs 0 0 with st := .waiting .predicted, walk := some w }) { live0 with pred := true })
     (s.core 0).s.walk = some w ∧ (s.core 0).s.st = .waiting .predicted ∧ endsWell (goesOn s w)) := by
  refine ⟨?_, ?_, by decide +kernel, by decide +kernel, ⟨?_, by decide +kernel⟩, by decide +kernel⟩
  · intro q nf; cases q <;> cases nf <;> decide +kernel
  · intro q nf; cases q <;> cases nf <;> decide +kernel
  · intro w; cases w <;> decide +kernel

theorem witness_FaultRepliesRevocationAndMigration_requests :
    (∀ p, p ∈ [1, 2, 3, 4] → requestValid p (unitReq 0x100000 0 0 1) = false ∧ requestValid p (unitReq 0x100001 0 0 0) = false) ∧
    (∀ p, p ∈ [1, 3, 4] → requestValid p (unitReq 0x100000 0 0 0) = true ∧
      (pinned []).requestWaits p (unitReq 0x100000 0 0 0) = false ∧
      (pinned (List.replicate 16 ⟨1, 1, [16], []⟩)).requestWaits p (unitReq 0x100000 0 0 0) = true) ∧
    (requestValid 2 (unitReq 0x100000 0x5FFFFF0000 0x7FFF8 0) = true ∧
      (pinned []).requestWaits 2 (unitReq 0x100000 0x5FFFFF0000 0x7FFF8 0) = false) ∧
    (16 ∈ (unitsOf (unitReq 0x100000 0 0 0)).take 32 ∧ Sparse.get 0 ((pinned []).clampAt false 16).cores 0 ≠ 0 ∧
      ((pinned []).core 0).mte 0 = live0 ∧ ∀ r, r ∈ live0.runs → r.covers (unitsOf (unitReq 0x100000 0 0 0)) = true) ∧
    (∀ p, p ∈ [1, 2, 3, 4] → ∀ rest, rest ∈ [[], [17]] → let s := pinned [⟨9, p, 16 :: rest, rest⟩]
      s.bench.requests = [] ∧ s.dv.held = [] ∧ s.dv.errFlags = [] ∧
      s.bench.revocs.find? (fun q => q.ix == (9 : BitVec 64).toNat) = some ⟨9, p, 16 :: rest, rest⟩) ∧
    (∀ revs n, NoTwin (pinned revs) n) ∧
    (∀ ls, ls ∈ [[0, 511], [511]] → let s : State := { holding 0 0 with mem := { mig := [moving ls] } }
     s.bench.requests = [] ∧ s.mem.mig[(0 : BitVec 7).toNat]? = some (moving ls) ∧ (moving ls).settled = true) := by
  refine ⟨?_, ?_, ?_, ?_, ?_, pinned_noTwin, ?_⟩ <;> decide +kernel

/-- Bytes of memory given in any order. -/
def disk (l : List (Nat × Byte)) : Sparse Byte := l.foldl (fun m c => Sparse.put 0 m c.1 c.2) []

/-- A machine that runs, with slot 0 as given, core 0 without a step, and bytes in gang 0's address space, where the first
1 GiB of virtual addresses lies at the same physical addresses. -/
def served (x : QSlot) (bs : List (Nat × Byte)) : State :=
  let s := paged true {}
  { s with
    plinth := { ready := 0xFFF }
    disp := { s.disp with slots := [(0, x)] }
    mem := { dev := { bytes := disk (s.mem.dev.bytes ++ bs) } } }

/-- A mapped slot whose ring of 64 packets lies at 0x10000 and holds one. -/
def slotAt : QSlot := { mapped := true, qbase := 0x10000, qconf := 6, qheadva := 0x18000, tail := 1 }

/-- The first 64 bytes of a packet of a type with its first two doublewords, each below 2^24. -/
def packetBytes (ty flags : Byte) (a b : Nat) (more : List (Nat × Byte)) : List (Nat × Byte) :=
  let d (o v : Nat) : List (Nat × Byte) := [(o, BitVec.ofNat 8 v), (o + 1, BitVec.ofNat 8 (v / 256)), (o + 2, BitVec.ofNat 8 (v / 65536))]
  [(8, ty), (9, flags)] ++ d 16 a ++ d 24 b ++ more

/-- Those bytes at an address. -/
def at_ (a : Nat) (l : List (Nat × Byte)) : List (Nat × Byte) := l.map (fun c => (a + c.1, c.2))

/-- The 64 bytes of a packet. -/
def packetOf (l : List (Nat × Byte)) : List Byte := (List.range 64).map (fun i => Sparse.get 0 (disk l) i)

/-- A packet on the doubleword at virtual address 2^30, which no leaf maps. -/
def farWait : List Byte := packetOf [(8, 5), (19, 0x40)]

/-- A slot that has halted on a WAIT of the given packet, which it has read again, and one that has halted on a SIGNAL, over one
doubleword of memory at 0x20000. -/
def haltedWait (d : List Byte) (v : Byte) : State := served { slotAt with xlf := true, wait := some (0, d) } [(0x20000, v)]
def haltedSignal (d : List Byte) : State := served { slotAt with xlf := true, signals := [(0, d, [])], open_ := [0] } [(0x20000, 7)]

/-- The slot halted on a WAIT after a tail of 64, and after one beyond its ring. -/
def tailAt64 (d : List Byte) : State := (haltedWait d 7).onSlot 0 (fun y => { y with tail := 64 })
def tailOver (d : List Byte) : State := ((haltedWait d 7).onSlot 0 (fun y => { y with ovr := true })).slotMessage 0

/-- Its slot after XLF is cleared. -/
def resumed (s : State) : State := s.onSlot 0 (fun y => { y with xlf := false, signalFailed := false, waitFailed := false })

/-- A WAIT until the doubleword at an address equals 7. -/
def wait7 (a : Nat) : List (Nat × Byte) := packetBytes 5 0 a 7 []

theorem witness_QueuesRegistersAndGangs :
    (let x : QSlot := { slotAt with head := 1 }
     x.head.toNat + 2 ^ x.logsize < (66 : Word).toNat ∧ (65 : Word).toNat ≤ x.head.toNat + 2 ^ x.logsize) ∧
    (let s := served { slotAt with mal := true, wait := some (0, []) } []
     (s.slot 0).wait.isSome = true) ∧
    (let s := served { slotAt with mal := true, tail := 0 } []
     ((s.onSlot 0 (fun y => { y with mal := false })).headPacket 0).2 = none) ∧
    (let s := served { slotAt with mal := true } (at_ 0x10000 (packetBytes 9 0 0 0 []))
     let u := s.onSlot 0 (fun y => { y with mal := false })
     (s.slot 0).wait = none ∧ u.slotRuns 0 = true ∧ (u.headPacket 0).2 = some (0, packetOf (packetBytes 9 0 0 0 []))) ∧
    ((served { slotAt with xlf := true } []).slot 0).wait = none ∧
    (∀ d, d ∈ [packetOf (wait7 0x20000), farWait] → let x := (haltedSignal d).slot 0
     x.wait = none ∧ x.signals = [(0, d, [])] ∧ (haltedSignal d).slotLives 0 = true ∧ ∀ j, j ∈ x.open_ → 0 ≤ j) ∧
    (let d := packetOf (wait7 0x20000)
     (resumed (haltedSignal farWait)).signalWord 0 farWait = none ∧ ((resumed (haltedSignal d)).signalWord 0 d).isSome = true) ∧
    (∀ v, v ∈ [(7 : Byte), 8] → let d := packetOf (wait7 0x20000)
     let s := haltedWait d v
     (s.slot 0).signals = [] ∧ (s.slot 0).wait = some (0, d) ∧ (s.slot 0).waitFailed = false ∧ s.slotLives 0 = true ∧
     s.disp.graphs = [] ∧ s.integ.units = [] ∧ ((resumed s).gangWord 0 (field d 16 8)).2 = some v.toNat ∧
     (s.gangWord 0 (field d 16 8)).2 = some v.toNat ∧ compareWord (field d 32 1) v.toNat (field d 24 8) = decide (v = 7)) ∧
    (((haltedWait farWait 7).slot 0).wait = some (0, farWait) ∧ (haltedWait farWait 7).slotLives 0 = true ∧
     ((resumed (haltedWait farWait 7)).gangWord 0 (field farWait 16 8)).2 = none) ∧
    (let x := (haltedWait farWait 7).slot 0
     x.waitFailed = false ∧ ¬ (x.head.toNat + 2 ^ x.logsize < (64 : Word).toNat) ∧ max x.tail.toNat (64 : Word).toNat = 64 ∧
     x.head.toNat + 2 ^ x.logsize < (65 : Word).toNat ∧
     ((tailAt64 farWait).gangWord 0 (field farWait 16 8)).2 = none ∧ ((tailOver farWait).gangWord 0 (field farWait 16 8)).2 = none ∧
     ((tailAt64 (packetOf (wait7 0x20000))).gangWord 0 0x20000).2 = some 7 ∧
     ((tailOver (packetOf (wait7 0x20000))).gangWord 0 0x20000).2 = some 7) ∧
    (let s := served slotAt []
     s.power.on = true ∧ s.gateRuns = false ∧ (0x10000 + 64 * 127 + 0x38 : BitVec 24).toNat = 0x10000 + 64 * (127 : SlotId).toNat + 0x38 ∧
     (0x30000 + 64 * 255 + 0x18 : BitVec 24).toNat = 0x30000 + 64 * 255 + 0x18 ∧ 0x18 ∈ [0x00, 0x08, 0x10, 0x18] ∧
     (0x800000 ≤ (0xBFFFF8 : BitVec 24).toNat ∧ (0xBFFFF8 : BitVec 24).toNat + 8 ≤ 0xC00000)) ∧
    (let s := served slotAt []
     let size := 384 / s.disp.parts * 2 ^ 30
     s.disp.parts ≤ (1 : BitVec 3).toNat ∧ { s with plinth := { gate := .hold } }.gateRuns = true ∧
     s.dramReady (192 * 2 ^ 30 - 8) = true ∧ s.dramReady (384 * 2 ^ 30 - 8) = true ∧ s.mem.mig = [] ∧
     s.inJournal (192 * 2 ^ 30 - 8) 8 = false ∧ s.inJournal (384 * 2 ^ 30 - 8) 8 = false ∧
     (384 * 2 ^ 30 - 8) + 8 ≤ size ∧ (192 * 2 ^ 30 - 8) + 8 ≤ 192 * 2 ^ 30 ∧ 192 * 2 ^ 30 ≤ 384 * 2 ^ 30 - 8) ∧
    (∀ a, CleanAt (served slotAt []) a 8 ∧ Keyed (served slotAt []) (some (Sparse.get 0 (served slotAt []).disp.barKeys 0)) a 8) ∧
    ((served slotAt []).plinth.ready.getLsbD 11 = true ∧ (2 ^ 20 - 8) + 8 ≤ 2 ^ 20 / (served slotAt []).disp.parts) ∧
    CleanAt (served slotAt []) (0x7FFFFFFF00000 + (2 ^ 20 - 8)) 8 ∧
    ((∀ e, e ∈ (one {}).disp.gangs → e.2.mapped = false) ∧ 8#4 ∈ [1#4, 2#4, 4#4, 8#4]) ∧
    ((∃ e, e ∈ (served slotAt []).disp.gangs ∧ e.2.mapped = true) ∧ 3#4 ∉ [1#4, 2#4, 4#4, 8#4]) ∧
    (let s := served { qconf := 6 } []
     (s.slot 0).mapped = false ∧ 6 ≤ (s.slot 0).logsize ∧ (s.slot 0).logsize ≤ 20 ∧ (s.slot 0).qdbva.toNat % 8 = 0 ∧
     (s.slot 0).qheadva.toNat % 8 = 0 ∧ s.slotPart 0 = (0 : BitVec 3).toNat ∧ (s.gang 1).mapped = false ∧
     (0 : BitVec 3).toNat < s.disp.parts ∧ 0x100000 % 2 ^ 20 = 0 ∧ 0x20000 % 65536 = 0 ∧ (s.gang 0).mapped = true ∧
     s.victims 0 = [] ∧
     s.partOf (0x20000 / 65536) = some 0 ∧ s.partOf ((overlayBase 0x20000 64 - 1) / 65536) = some 0) ∧
    (let image : List Byte := List.replicate 30 0 ++ [1] ++ List.replicate 33 0
     descValid image = true ∧ ((one {}).desc 3).bound = false ∧ (one {}).descBusy 3 = false ∧ descValid [] = false ∧ ((skipping 0 0).desc 3).bound = true) := by
  have hk : ∀ a, CleanAt (served slotAt []) a 8 := fun a => cleanAt_of rfl rfl a 8
  refine ⟨?_, ?_, ?_, ?_, ?_, ?_, ?rest⟩
  case rest =>
    refine ⟨?_, ?_, ?_, ?_, ?_, ?_, fun a => ⟨hk a, keyed_of rfl rfl _ _ _⟩, ?_, hk _, ?_,
      ⟨⟨_, List.mem_cons_self, rfl⟩, by decide⟩, ?_, ?_⟩
    all_goals decide +kernel
  all_goals decide +kernel

/-- A jig record of two steps over one level, on panels of one core, with one word of code at 0. -/
def recordBytes : List (Nat × Byte) := [(139, 1), (156, 4), (168, 2)]

/-- The 512 bytes of a record. -/
def recordOf (l : List (Nat × Byte)) : List Byte := (List.range 512).map (fun i => Sparse.get 0 (disk l) i)

/-- A jig of that record, from packet 0 of slot 0. -/
def jig0 : Jig :=
  { id := 0, origin := .packet 0 0, gang := 0, slot := 0, depth := 0, crec := 0x30000, record := recordOf recordBytes, e0 := 2, total := 2 }

/-- Whether a record reads as a jig that can run now. -/
def jigReads (u : State) (g : GangId) (va : Nat) : Bool :=
  match u.readJig g va with
  | (u', .good r _) => !recSkip r && u'.canRun (u'.gang g.toNat).part.toNat (recSize r) (recTwin r)
  | _ => false

/-- The conditions of an unhalted, mapped slot that takes the packet at its head. -/
def takesAt (s : State) (ty : Nat) : Bool :=
  s.slotRuns 0 && (s.slot 0).wait.isNone && !s.journalFull && (s.slot 0).launched.isEmpty &&
    (match (s.headPacket 0).2 with
      | some (0, d) => packetValid (s.slotPart 0) d && packetType d == ty && !packetMulti d && !packetBar d
      | _ => false)

/-- The state after the packet at the head of slot 0 has been read. -/
def afterHead (s : State) : State :=
  match s.headPacket 0 with
  | (v, some (i, d)) => (v.advanceHead 0 i).journal (.packet v.disp.nextUnit d)
  | _ => s

/-- A node of a graph. -/
def nodeAt (ty : Byte) (st : NodeSt) (succ : List (BitVec 16)) (body : List (Nat × Byte)) : Node :=
  { ty := ty, npred := 0, succ := succ, body := packetOf body, st := st }

/-- A graph of gang 0 with entry 0. -/
def graph0 (ns : List Node) : Graph :=
  { id := 0, origin := .packet 0 0, gang := 0, slot := 0, depth := 0, crec := 0x30000, entry := 0, nodes := ns }

/-- A state with that graph, host ring 3 of 16 entries at 0x40000, and the doubleword 7 at 0x20000. -/
def graphed (ns : List Node) : State :=
  let s := served slotAt [(0x20000, 7)]
  { s with disp := { s.disp with
      graphs := [(0, some (graph0 ns))]
      hostRings := [(3, { hrbase := 0x40000, hrconf := 4, hrheadva := 0x48000, hrseasva := 0x48008 })] } }

theorem witness_PacketsGraphsAndLaunches_taken :
    (served { slotAt with mapped := false } []).slotRuns 0 = false ∧
    (∃ l, l ∈ ((served { slotAt with launched := [⟨0, [], 1, 0, none⟩] } []).slot 0).launched ∧ l.unit = none) ∧
    (let s := served slotAt (at_ 0x10000 (packetBytes 9 0 0 0 []))
     s.slotRuns 0 = true ∧ s.journalFull = false ∧ (s.headPacket 0).2 = some (0, packetOf (packetBytes 9 0 0 0 [])) ∧
     packetValid (s.slotPart 0) (packetOf (packetBytes 9 0 0 0 [])) = false) ∧
    (let s := served slotAt (at_ 0x10000 (packetBytes 1 0 0x20000 0x30000 []) ++ at_ 0x20000 recordBytes)
     takesAt s 1 = true ∧ (s.headPacket 0).1.chooses 0 = true ∧ (afterHead s).freeWalker = some 0 ∧
     jigReads (afterHead s) 0 0x20000 = true) ∧
    (let p := packetOf (packetBytes 1 0 0x20000 0x30000 [])
     let s := served { slotAt with launched := [⟨0, p, 1, 0, none⟩] } (at_ 0x20000 recordBytes)
     let u := (s.onSlot 0 (fun y => { y with launched := y.launched.map (fun z => if z.id = 0 then { z with unit := some 0 } else z) })).journal
       (.packet 0 p)
     (s.slot 0).launched.find? (fun l => l.unit.isNone) = some ⟨0, p, 1, 0, none⟩ ∧ (s.slot 0).mapped = true ∧
     s.dispatching (halfOfSlot 0) = true ∧ s.journalFull = false ∧ s.chooses 0 = true ∧ packetBar p = false ∧ packetMulti p = false ∧ packetType p = 1 ∧
     s.disp.nextUnit = 0 ∧ u.freeWalker = some 0 ∧ jigReads u 0 0x20000 = true) ∧
    (let s := served slotAt (at_ 0x10000 (packetBytes 2 0 0x20000 0x30000 []) ++ [(0x20000, 1), (0x20040, 4)] ++
       (List.range 8).map (fun i => (0x20042 + i, (0xFF : Byte))))
     let u := ((afterHead s).markRunning 0 0x30000).newUnit
       (fun id => { id := id, gang := 0, slot := 0, kind := .graph, crec := some 0x30000, deps := [] })
     let h := u.1.gangRead 0 0x20000 64
     let d := h.1.gangRead 0 0x20040 64
     takesAt s 2 = true ∧ (s.headPacket 0).1.chooses 0 = true ∧
     (s.headPacket 0).1.packetDeps 0 (packetOf (packetBytes 2 0 0x20000 0x30000 [])) = [] ∧
     h.2.map (fun x => field (plain x) 0 2) = some 1 ∧
     (graphOf (plain (h.2.getD [])) (plain (d.2.getD [])) s.partRings).isSome = true) ∧
    takesAt (served slotAt (at_ 0x10000 (packetBytes 3 0 0x20000 0x30000 [(32, 1)]))) 3 = true ∧
    (let d := packetOf (packetBytes 3 0 0x20000 0x30000 [(32, 1)])
     let y : WorkUnit := { id := 0, gang := 0, slot := 0, kind := .copy 0x20000 0x30000 1, crec := none }
     let s := served { slotAt with copies := [(0, 0, d)] } [(0x20000, 7)]
     let s : State := { s with integ := { units := [y] } }
     s.disp.graphs = [] ∧ s.frozen = false ∧ (s.slot 0).copies = [(0, 0, d)] ∧ (s.copyRun 0 0x20000 0x30000 1).2 = (false, true)) ∧
    (let s := served slotAt (at_ 0x10000 (packetBytes 4 0 0x20000 7 []))
     let d := packetOf (packetBytes 4 0 0x20000 7 [])
     takesAt s 4 = true ∧ (s.slot 0).signalFailed = false ∧ (s.slot 0).signals = [] ∧ (∀ j, j ∈ (s.slot 0).open_ → 0 ≤ j) ∧
     (((afterHead s).onSlot 0 (fun y => { y with signals := [(0, d, [])] })).signalWord 0 d).isSome = true) ∧
    (let s := served slotAt (at_ 0x10000 (packetBytes 4 0 0 7 [(19, 0x40)]))
     let d := packetOf (packetBytes 4 0 0 7 [(19, 0x40)])
     takesAt s 4 = true ∧ ((afterHead s).onSlot 0 (fun y => { y with signals := [(0, d, [])] })).signalWord 0 d = none) ∧
    (let s := served slotAt (at_ 0x10000 (wait7 0x20000) ++ [(0x20000, 7)])
     takesAt s 5 = true ∧ (s.slot 0).waitFailed = false ∧
     (((afterHead s).onSlot 0 (fun y => { y with wait := some (0, packetOf (wait7 0x20000)) })).gangWord 0 0x20000).2 = some 7) ∧
    (let s : State := { served { slotAt with open_ := [0] } [] with disp := { jigs := [(4, some jig0)] } }
     s.disp.graphs = [] ∧ s.walkers (fun j => j.origin == .packet 0 (0 : BitVec 64).toNat && !j.again) = [4] ∧
     s.jig 4 = some jig0 ∧ jig0.again = false) := by
  refine ⟨?_, ⟨_, List.mem_cons_self, rfl⟩, ?_, ?_, ?_, ?_, ?rest⟩
  case rest => refine ⟨?_, ?_, ?_, ?_, ?_, ?_⟩ <;> decide +kernel
  all_goals decide +kernel

theorem witness_PacketsGraphsAndLaunches_nodes :
    (let n := nodeAt 4 .pending [1, 2, 0xFFFF, 0xFFFF] []
     let s := graphed [n]
     s.graph 0 = some (graph0 [n]) ∧ s.graphRuns (graph0 [n]) = true ∧ n.ready = true ∧ n.poisonIn = false ∧ n.npred = 0#8 ∧
     s.freeWalker ≠ none ∧ s.integ.units = []) ∧
    (∀ p, let n := { nodeAt 3 .pending [] [] with npred := 1, gotSkip := if p then 0 else 1, poisonIn := p }
     let ns := [n, nodeAt 6 .started [] []]
     (graphed ns).graph 0 = some (graph0 ns) ∧ (graphed ns).graphRuns (graph0 ns) = true ∧ n.ready = true ∧
     ((n.npred ≠ 0#8 ∧ n.gotSkip = n.npred.toNat) ∨ n.poisonIn = true) ∧ n.ty ≠ 1#8) ∧
    (let c := nodeAt 4 .started [2, 3, 0xFFFF, 0xFFFF] (packetBytes 0 0 0x20000 7 [])
     let ns := [nodeAt 4 .settled [] [], c, nodeAt 4 .pending [] [], nodeAt 4 .pending [] [], nodeAt 6 .started [] []]
     let s := graphed ns
     s.graphRuns (graph0 ns) = true ∧ (graph0 ns).node 1 = c ∧ (s.gangWord 0 (c.fld 16 8)).2 = some 7 ∧
     ((graph0 ns).node 2).st = .pending ∧ ((graph0 ns).node 3).st = .pending ∧ 4 < (graph0 ns).nodes.length ∧
     (∀ m, m < 6 → ((graph0 ns).node m).poisonIn = false) ∧
     ((graph0 ns).node 4).st = .started) ∧
    (let c := nodeAt 3 .started [] (packetBytes 0 0 3 0x20000 [])
     let ns := [c, nodeAt 6 .started [] []]
     let s := graphed ns
     let room (s : State) : Option State := match s.ringRoom 3 0 with
       | .done y => some y
       | _ => none
     let full : State := { s with disp := { s.disp with hostRings := s.disp.hostRings.map (fun e => (e.1, { e.2 with hrtail := 16 })) } }
     let y := (room s).getD s
     let v := (y.gangWord 0 (c.fld 24 8)).1
     s.graphRuns (graph0 ns) = true ∧ s.slotPart 0 * s.partRings + c.fld 16 2 = 3 ∧ (room s).isSome = true ∧
     (match full.ringRoom 3 0 with
       | .waits => true
       | _ => false) = true ∧ (s.hostRing 3).retract = none ∧ (y.gangWord 0 (c.fld 24 8)).2 = some 7 ∧
     (match (v.newUnit (fun id => { id := id, gang := 0, slot := 0, kind := .ring 3 (c.fld 20 4) 7, crec := none, deps := c.deps })).1.writeEntry
         3 0 1 (c.fld 20 4) 7 (some v.disp.nextUnit) with
       | .done _ => true
       | _ => false) = true) ∧
    (let r : HostRing := { hrconf := 0x0001000000000004, uncovered := 1 }
     r.time ≠ 0 ∧ r.uncovered ≠ 0 ∧ ({} : HostRing).time = 0) ∧
    (let m : BitVec 32 × Byte := (5, 1)
     let j := { jig0 with multi := some m }
     let s : State := { served slotAt [] with disp := { jigs := [(4, some j)] } }
     s.disp.graphs = [] ∧ s.walkers (fun j => j.multi == some m) = [4] ∧ s.jig 4 = some j ∧
     let part : BitVec 32 × Byte := (5, 3)
     let u : State := { s with disp := { s.disp with jigs := [(4, some { j with multi := some part })] } }
     (s.multis 5).find? (fun m => s.allReserved m) = some m ∧
     (u.multis 5).find? (fun m => !u.allReserved m) = some part ∧ j.running = [] ∧ j.waits = false ∧ j.origin = .packet 0 0 ∧ j.again = false) := by
  decide +kernel


/-- A state that serves gang 0 with a jig in walker 0 and core 0 as given. -/
def jigged (j : Jig) (c : Core) : State :=
  let s := served slotAt []
  { s with cores := [(0, c)], disp := { s.disp with jigs := [(0, some j)] } }

/-- A jig on panels of 16 cores. -/
def jig16 : Jig := { jig0 with record := recordOf ((138, 4) :: recordBytes) }

/-- Eight partitions, the second group of 16 cores of the first without a sound core: `retired`, and a step on core 0. -/
def crowded (c : Core) : State :=
  let s := jigged jig16 c
  { s with disp := { s.disp with parts := 8 }, integ := { retired := [(16, true)] } }

/-- A jig of steps run twice on panels of 16 cores. -/
def jigTwin : Jig := { jig0 with record := recordOf ((137, 1) :: (138, 4) :: recordBytes) }

/-- A state with that jig whose first `n` groups of 16 cores each hold a step. -/
def twinCrowded (n : Nat) : State :=
  { jigged jigTwin {} with cores := (List.range n).map (fun b => (16 * b, { s := { st := .running }, step := some step0 })) }

theorem witness_StepsPreemptionAndRestore_reserved :
    (∀ n, n ∈ [8, 16] → let s := twinCrowded n
     s.jig 0 = some jigTwin ∧ s.mayGo jigTwin = true ∧ jigTwin.rerun = [] ∧ jigTwin.next < jigTwin.total ∧ jigTwin.skip = none ∧
     s.canRun 0 (recSize jigTwin.record) (recTwin jigTwin.record) = true ∧ s.choosePanels 0 jigTwin [] = none ∧
     recTwin jigTwin.record = true ∧ jigTwin.reserved = [] ∧ s.disp.jigs = [(0, some jigTwin)] ∧
     s.soundGroups 0 (recSize jigTwin.record) = (List.range 16).map (fun b => 16 * b) ∧
     s.freePanels 0 0 (recSize jigTwin.record) = (List.range (16 - n)).map (fun b => 16 * (n + b))) := by
  decide +kernel

/-- The step of core 0 in gang 0. -/
def held0 : Core := { s := { st := .running }, step := some { step0 with jigId := 0, depth := 0 } }

/-- A jig whose next steps may be skipped by descriptor 3. -/
def jigSkip : Jig :=
  { jig0 with skip := some (3, 1), desc := { mapva := 0x20000, tsva := 0x30000, nt := 2, ns := 2, bound := true } }

/-- A gang being pre-empted with core 0, or with its context saved. -/
def ganged (pre : Bool) (saved : List (GangId × List Saved)) (c : Core) : State :=
  let s := jigged { jig0 with running := [⟨0, [0]⟩, ⟨1, [2]⟩] } c
  { s with disp := { s.disp with gangs := [(0, { mapped := true, root := 0x100000, preempting := pre })] }, saved := saved }

/-- A state with a second jig, in walker 1, that was taken with a higher effective priority. -/
def rivals : State :=
  let s := jigged jig0 {}
  { s with disp := { s.disp with jigs := [(0, some jig0), (1, some { jig0 with id := 1, prio := 7 })] } }

/-- A jig whose steps hold a token over an extent that reaches beyond the address space, or whose page is not valid. -/
def declaring (beyond : Bool) : Jig :=
  let base := if beyond then (List.range 7).map (fun i => (384 + i, (0xFF : Byte))) else [(387, 0x40)]
  { jig0 with record := recordOf (recordBytes ++ base ++ [(392, 2), (397, 1)]) }

/-- Core 0 with its step, waiting at a semaphore of the given count. -/
def waitsSem (n : BitVec 16) : Core := { held0 with s := { st := .waiting (.sem 3) }, sems := [(3, { count := n })] }

/-- No jig but one is in flight, so none goes first. -/
theorem first_of_alone (j : Jig) (c : Core) : ∀ w i, (w, some i) ∈ (jigged j c).disp.jigs → w = 0 := by
  intro w i h
  simp only [jigged, List.mem_singleton, Prod.mk.injEq] at h
  exact h.1

theorem witness_StepsPreemptionAndRestore :
    ((rivals.jig 0 = some jig0 ∧ (1, some { jig0 with id := 1, prio := 7 }) ∈ rivals.disp.jigs) ∧
     rivals.couldGo 1 { jig0 with id := 1, prio := 7 } = true ∧ jig0.prio < 7) ∧
    (∀ w i, (w, some i) ∈ (jigged jig0 {}).disp.jigs → w = 0) ∧
    (let s := crowded held0
     s.jig 0 = some jig16 ∧ s.mayGo jig16 = true ∧ jig16.rerun = [] ∧ jig16.next < jig16.total ∧ jig16.skip = none ∧
     s.canRun 0 (recSize jig16.record) (recTwin jig16.record) = true ∧ s.choosePanels 0 jig16 [] = none ∧
     jig16.reserved = [] ∧ s.freePanels 0 0 (recSize jig16.record) = [] ∧ s.soundGroups 0 (recSize jig16.record) = [0]) ∧
    (let s := jigged jig0 {}
     s.mayGo jig0 = true ∧ s.canRun 0 (recSize jig0.record) (recTwin jig0.record) = true ∧ recTwin jig0.record = false ∧
     s.choosePanels 0 jig0 [] = some [0] ∧ s.mtesFor jig0 [0] = true ∧ (s.cutCheck 0 [0] jig0).2 = .good ∧
     (((s.cutCheck 0 [0] jig0).1.dropCut 0).codeFor jig0 [0]).2 = some [0, 0, 0, 0]) ∧
    (∀ e, e ∈ [CutEnd.fails, .waits] → let j := declaring (e == .fails)
     let s := jigged j {}
     s.mayGo j = true ∧ s.canRun 0 (recSize j.record) (recTwin j.record) = true ∧ s.choosePanels 0 j [] = some [0] ∧
     s.mtesFor j [0] = true ∧ (s.cutCheck 0 [0] j).2 = e ∧ j.next + 1 < j.total) ∧
    (let j := declaring true
     let s := jigged j (full 0 0)
     s.mayGo j = true ∧ s.canRun 0 (recSize j.record) (recTwin j.record) = true ∧ s.choosePanels 0 j [] = some [0] ∧
     s.mtesFor j [0] = false) ∧
    (let s := jigged jigSkip {}
     let x := jigSkip.desc
     let u := s.mapEntry 0 x [0, 1, 2] true 1 0
     let p := u.1.vaPieces 0 true 2 (x.tsva + 256 * 0) 256
     s.jig 0 = some jigSkip ∧ jigSkip.decided = false ∧ jigSkip.next + 1 < jigSkip.total ∧ s.mayGo jigSkip = true ∧
     u.2 = some [(0, false), (0, false), (0, false)] ∧ s.recordedDecision 0 0 = none ∧ p.2.2 = true ∧
     (p.1.gangRead 0 (x.tsva + 256 * 0) 256).2.isSome = true) ∧
    (let y : StepInfo := { step0 with jigId := 0, depth := 0 }
     let s := ganged false [] { held0 with s := { st := .halted } }
     let j : Jig := { jig0 with running := [⟨0, [0]⟩, ⟨1, [2]⟩] }
     s.disp.graphs = [] ∧ s.integ.units = [] ∧ (s.core 0).step = some y ∧ (s.gang 0).preempting = false ∧ (s.gang 0).restoring = false ∧
     (s.core ((s.core 0).panelBase 0)).step = some y ∧ y.twin = .none ∧ s.jig y.walker = some j ∧ y.ended = none ∧
     (∃ r, r ∈ j.running ∧ r.ordinal ≠ y.ordinal) ∧ ∀ r, r < (s.core 0).panelSize → (s.core (0 + r)).s.st = .halted ∧ (s.core (0 + r)).s.loads = [] ∧
       (s.core (0 + r)).v.loads = []) ∧
    (let y : StepInfo := { step0 with jigId := 0, depth := 0, ended := some (0x201, 0, true) }
     ((ganged false [] { held0 with step := some y }).core 0).step = some y ∧ y.ended = some (0x201, 0, true)) ∧
    (let j := { jig0 with record := recordOf ((124, 1) :: recordBytes) }
     let s := jigged j held0
     s.jigOf 0 = some j ∧ recTlimit j.record ≠ 0 ∧ (s.panel ((s.core 0).panelBase 0)).stall = [] ∧ recTlimit jig0.record = 0 ∧
     (jigged jig0 held0).jigOf 0 = some jig0) ∧
    (jigged jig0 {}).victims 0 = [] ∧
    (∀ c, c ∈ [held0, waitsSem 0, waitsSem 1] → let s := jigged jig0 c
     (s.gang 0).restoring = false ∧ s.victims 0 = [0] ∧ (s.core 0).m.flight = none ∧ (s.core 0).c.flight = none ∧
     (s.core 0).m.taken = [] ∧ (s.core 0).c.taken = [] ∧ (s.core 0).v.curTok = none ∧
     (s.core ((s.core 0).panelBase 0)).step = some { step0 with jigId := 0, depth := 0 } ∧ 0 < (s.core 0).panelSize ∧
     (s.core ((s.core 0).panelBase 0 + 0)).s.st ≠ .halted ∧ (s.core 0).s.loads = [] ∧ (s.core 0).v.loads = [] ∧
     (s.core 0).s.walk = none) ∧
    (∀ c, c ∈ [held0, waitsSem 0, waitsSem 1] → NoTwin (jigged jig0 c) 0 ∧ Ready (jigged jig0 c) 0 false ∧ Ready (jigged jig0 c) 0 true) ∧
    (let s := ganged true [] (waitsSem 1)
     0 ∈ s.victims 0 ∧ s.finishing 0 = true) ∧
    (let s := ganged true [] held0
     let u := (s.victims 0).foldl (fun u k => u.haltCore k) s
     (s.gang 0).preempting = true ∧ s.victims 0 = [0] ∧ s.finishing 0 = false ∧ u.victims 0 = s.victims 0 ∧
     (u.core ((u.core 0).panelBase 0)).step = (u.core 0).step ∧ (u.core 0).step = some { step0 with jigId := 0, depth := 0 } ∧
     0 < (u.core ((u.core 0).panelBase 0)).panelSize ∧ (u.core ((u.core 0).panelBase 0 + 0)).s.st ≠ .halted) ∧
    (let e : Saved := { core := withMte held0 { live0 with st := .stale }, walker := 0, ordinal := 0, rank := 0, size := 1, oldCore := 7 }
     let s := ganged false [(0, [e])] {}
     s.saved.find? (fun x => x.1 == 0) = some (0, [e]) ∧ (s.gang 0).preempting = false ∧ s.frozen = false ∧
     (s.soundGroups 0 1).find? (fun b => s.restorable b) = some 0 ∧ e.core.mtes.length ≤ (s.core 0).freeMtes.length ∧
     (∀ y, y ∈ e.core.mtes → y.2.st = .stale) ∧ e.core.tr 1 = some tok0 ∧ (e.core.mte tok0.idx.toNat).st = .stale) := by
  have hq (c : Core) (hc : c ∈ [held0, waitsSem 0, waitsSem 1]) :
      NoTwin (jigged jig0 c) 0 ∧ Ready (jigged jig0 c) 0 false ∧ Ready (jigged jig0 c) 0 true := by
    have h0 : (jigged jig0 c).core 0 = c := by simp [jigged, State.core, Sparse.get]
    have hp : c.panelBase 0 = 0 := by revert c; decide
    have ht : ∀ w, c.step = some w → w.twin = .none := by
      have h : c.step.all (fun w => w.twin == .none) = true := by revert c; decide
      intro w hw
      rw [hw] at h
      exact eq_of_beq h
    have hl (v : Bool) : c.loadsOf v = [] ∧ c.storesOf v = [] := by revert c v; decide
    have hr (v : Bool) : Ready (jigged jig0 c) 0 v := ready_empty (by rw [h0]; exact (hl v).1) (by rw [h0]; exact (hl v).2)
    refine ⟨fun j hj w hw => ?_, hr false, hr true⟩
    rw [h0, hp, or_self] at hj
    rw [hj, h0] at hw
    exact ht w hw
  refine ⟨⟨⟨rfl, List.mem_cons_of_mem _ (List.mem_singleton.mpr rfl)⟩, by decide +kernel, by decide⟩, first_of_alone jig0 {},
    ?_, ?_, ?_, ?_, ?_, ?rest⟩
  case rest => refine ⟨?_, ?_, ?_, ?_, ?_, hq, ?_⟩ <;> decide +kernel
  all_goals decide +kernel

/-- A packet from device 3 for slot 4, as its type asks. -/
def from3 (ty : DvType) (count : BitVec 32) (data : List Byte) : DvPacket :=
  { ty := ty, epoch := 0, gen := 0, slot := 4, dst := Config.deviceId, src := 3, win := 6, off := 0, count := count, value := 0, data := data,
    poisoned := [], intact := true }

/-- Packets without data that have come from device 3. -/
def come : List DvPacket :=
  [from3 .openAck 0x1400 [], from3 .openAck 0x1401 [], from3 .shutAck 0 [], from3 .fault 2 [], from3 .fault 3 [], from3 .busy 0 [],
    from3 .gap 0 [], from3 .openReq 0 [], from3 .shut 0 [], from3 .faultAck 0 []]

/-- Core 0 with a copy-engine command in flight on channel 5 of gang 0, with packets come. -/
def sending (c : Channel) (f : Option Flight) : State :=
  { one { sc (xs 0 0) with c := { flight := f } } with budget := 1, dv := { chans := [(5, c)], arrived := come } }

theorem sending_atUnit (c : Channel) (f : Flight) (h : f.st = .issued) (hd : f.codes.denied = false) :
    AtUnit .c (sending c (some f)) f := ⟨rfl, rfl, h, hd, noBuffer_of rfl rfl, noTwin_of rfl rfl⟩

/-- A channel that is open, its open epoch with `n` descriptors logged and `k` packets counted. -/
def openChan (n k : Nat) : Channel :=
  { st := .opened, openEpoch := 2, epochs := [{ num := 2, count := k, log := List.replicate n ⟨0, 0, 0, 0, 0, 1, 0, 1⟩ }] }

/-- An epoch that a DVREL has ended, all or none of its one packet sent. -/
def ending (num : BitVec 2) (sent copies : Nat) (busy : Bool) : Epoch :=
  { num := num, count := 1, sent := sent, log := [⟨0, 0, 0, 0, 0, 1, 0, 1⟩], released := true, copies := copies, busy := busy }

/-- A channel to device 3 with slot 4. -/
def to3 (st : ChanSt) (es : List Epoch) : Channel := { st := st, dev := 3, slot := 4, win := 6, epochs := es }

/-- A machine with channel 5 of gang 0. -/
def channelled (c : Channel) : State := sending c none

/-- No packet of this device waits to be looked at again, and no epoch of channel 5 is being replayed. -/
def CalmWith (c : Channel) : Prop :=
  let s := channelled c
  s.dv.held = [] ∧ s.dv.errFlags = [] ∧ ∀ e, e ∈ s.dv.chans → ∀ z, z ∈ e.2.epochs → z.replay = false

/-- The same of its epochs alone. -/
theorem calm_of {c : Channel} (h : ∀ z, z ∈ c.epochs → z.replay = false) : CalmWith c := by
  refine ⟨rfl, rfl, fun e he => ?_⟩
  rw [List.mem_singleton.mp he]
  exact h

theorem witness_DovetailSenderFollowsItsChannel_issue :
    let fresh (c : Channel) : State := sending c none
    let still (c : Channel) : Prop := ∀ z, z ∈ c.epochs → z.ripe = false
    let once (c : Channel) (b : BitVec 2) : Prop := (c.epochs.filter (fun z => z.num == b)).length ≤ 1
    let opening (e : Epoch) : Epoch := { e with released := true }
    (∀ c, (fresh c).me.flight .c = none ∧ (fresh c).budget = 1 ∧ NoTwin (fresh c) (fresh c).curN ∧
      (fresh c).chan (chanKey (fresh c).me.gangOf 5) = c) ∧
    ({ to3 .opened [] with pend := some (0, .shut) } : Channel).pend ≠ none ∧
    (({} : Channel).pend = none ∧ ({} : Channel).st ≠ .opened) ∧
    ((openChan 255 (2 ^ 31 - 2)).st = .opened ∧ ((openChan 255 (2 ^ 31 - 2)).epoch 2).log.length < 256 ∧
     ((openChan 255 (2 ^ 31 - 2)).epoch 2).count + packetsOf 9 ≤ 2 ^ 31) ∧
    (256 ≤ ((openChan 256 0).epoch 2).log.length ∧ 2 ^ 31 < ((openChan 0 (2 ^ 31 - 1)).epoch 2).count + packetsOf 9) ∧
    (let c := to3 .opened [ending 0 0 1 false, ending 1 0 1 false]
     still c ∧ 2 ≤ c.unsettled.length) ∧
    (∀ n, n ∈ [0, 1] → let e : Epoch := { num := 1, count := 1, sent := n }
     let c : Channel := { to3 .opened [ending 0 0 1 false, e] with openEpoch := 1 }
     still c ∧ once c 1 ∧ c.unsettled.length < 2 ∧ (opening (c.epoch 1)).ripe = decide (n = 1)) ∧
    ((to3 .opened []).unsettled = [] ∧ ((to3 .opened []).epoch 0).sent = ((to3 .opened []).epoch 0).count) ∧
    (let c := to3 .opened [{ num := 0, count := 1 }]
     still c ∧ (c.epoch 0).sent ≠ (c.epoch 0).count) ∧
    (∀ st, st ∈ [ChanSt.closed, .faulted] → (to3 st []).pend = none ∧ (to3 st []).st = st) := by
  have hg (c : Channel) : (sending c none).me.gangOf = 0 := rfl
  have hk : chanKey 0 5 = 5 := by decide
  refine ⟨fun c => ⟨rfl, rfl, noTwin_of rfl rfl, by rw [hg, hk]; rfl⟩, ?_⟩
  decide +kernel

theorem witness_DovetailSenderFollowsItsChannel_units :
    let dvw : Instr := .dvw 0 0 5 0 0x17EF 9
    let fl (i : Instr) (p : Nat) (e : Option (BitVec 2)) (m : Option Nat) : Flight := { cmd := i, st := .issued, prog := p, dv := e, ser := m }
    (∀ sent, sent ∈ [0, 1] → let f := fl dvw 1 (some 2) (some 0)
     let e : Epoch := { num := 2, count := 2, sent := sent, released := true }
     let c := to3 .opened [e]
     c.st = .opened ∧ f.ser = some c.life ∧ 1 < packetsOf 9 ∧ c.pend = none ∧ (∀ z, z ∈ c.epochs → z.ripe = false) ∧
     (c.epochs.filter (fun z => z.num == 2#2)).length ≤ 1 ∧ ({ c.epoch 2 with sent := sent + 1 } : Epoch).ripe = decide (sent = 1)) ∧
    (∀ c, AtUnit .c (sending c (some (fl dvw 1 (some 2) (some 0)))) (fl dvw 1 (some 2) (some 0)) ∧
     (sending c (some (fl dvw 1 (some 2) (some 0)))).me.spClean (512 * 0x17EF + 4096 * 1) (512 * 9 - 4096 * 1)) ∧
    (∀ c, AtUnit .c (sending c (some (fl dvw 0 none none))) (fl dvw 0 none none)) ∧
    (({} : Channel).st ≠ .opened ∧ (fl dvw 0 (some 2) (some 1)).ser ≠ some (to3 .opened []).life) ∧
    (∀ c m i, i ∈ [Instr.dvopen 0 0 5 3 6, .dvrel 0 0 5 8 1, .dvshut 0 0 5] →
      AtUnit .c (sending c (some (fl i 0 none m))) (fl i 0 none m)) ∧
    (∀ n, n ∈ [0, 7, 8] → ({ to3 .opened [] with ended := [(0, n)] } : Channel).ended.find? (fun z => z.1 == 0) = some (0, n)) ∧
    (to3 .opened []).ended.find? (fun z => z.1 == 0) = none := by
  refine ⟨by decide, fun c => ⟨sending_atUnit _ _ rfl rfl, spClean_of rfl rfl (by decide)⟩, fun c => sending_atUnit _ _ rfl rfl,
    by decide, fun c m i _ => sending_atUnit _ _ rfl rfl, by decide, by decide⟩

theorem witness_DovetailSenderFollowsItsChannel_packets :
    (∀ ty n d, (from3 ty n d).dst = Config.deviceId) ∧ (∀ c pk, pk ∈ come → pk ∈ (channelled c).dv.arrived) ∧
    (packetIntact (from3 .openAck 0x1400 []) = true ∧ packetIntact (from3 .openAck 0x1401 []) = true ∧ CalmWith (to3 .opening []) ∧
     let open_ (c : Channel) := (channelled c).dv.chans.filter (fun e => e.2.st == .opening && e.2.dev == 3 && e.2.win == 6)
     open_ (to3 .opening []) = [(5, to3 .opening [])] ∧ open_ (to3 .opened []) = []) ∧
    (packetIntact (from3 .shutAck 0 []) = true ∧ CalmWith (to3 .shutting []) ∧
     (channelled (to3 .shutting [])).channelOf 3 4 .shutting = some 5) ∧
    (packetIntact (from3 .fault 2 []) = true ∧ packetIntact (from3 .fault 3 []) = true ∧
     ∀ p, p ∈ [none, some (0, ChanPend.rel 0 0), some (0, .shut)] → ∀ st, st ∈ [ChanSt.opened, .shutting] →
       let s := channelled { to3 st [] with pend := p }
       (s.channelOf 3 4 .opened).or (s.channelOf 3 4 .shutting) = some 5) ∧
    (let c := to3 .opened [ending 0 1 1 false]
     let s := channelled c
     packetIntact (from3 .busy 0 []) = true ∧ packetIntact (from3 .gap 0 []) = true ∧ CalmWith c ∧ s.channelOf 3 4 .opened = some 5 ∧
     (s.chan 5).named (from3 .gap 0 []) = some (ending 0 1 1 false) ∧ (s.gang (5 / 4096)).preempting = false ∧
     (s.gang (5 / 4096)).restoring = false ∧ (c.epochs.filter (fun z => z.num == 0#2)).length ≤ 1 ∧ s.saved = [] ∧
     (∀ d, d ∈ (ending 0 1 1 false).log → s.cores.find? (fun e => d.task e.2) = none) ∧
     NoBuffer s 0 ∧ NoTwin s 0 ∧ (s.core 0).spClean 0 (payload 1 0)) ∧
    (let c := to3 .opened [ending 0 1 1 false]
     let s : State := { channelled c with disp := { gangs := [(0, { preempting := true })] } }
     (s.gang (5 / 4096)).preempting = true ∧ s.channelOf 3 4 .opened = some 5) ∧
    (let c := to3 .opened [ending 0 1 1 true]
     (∃ e, e ∈ c.epochs ∧ e.busy = true) ∧ c.st = .opened) ∧
    (∃ e, e ∈ (to3 .opened [ending 0 1 3 false]).unsettled ∧ 1 ≤ e.copies ∧ e.copies < 4 ∧ e.busy = false) ∧
    (∀ p, p ∈ [none, some (0, ChanPend.rel 0 0), some (0, .shut)] →
     let x : Channel := { to3 .opened [ending 0 1 4 false] with openEpoch := 1, pend := p }
     let w : Channel := { x with epochs := x.epochs.filter (fun e => e.num != (ending 0 1 4 false).num) }
     (∃ e, e ∈ x.unsettled ∧ e.copies = 4 ∧ e.busy = false) ∧ x.unsettled = [ending 0 1 4 false] ∧ (∀ z, z ∈ x.epochs → z.ripe = false) ∧
     x.pend = p ∧ w.unsettled = [] ∧ (w.epoch w.openEpoch).sent = (w.epoch w.openEpoch).count) ∧
    (({ to3 .opening [] with sends := 4 } : Channel).sends < 5 ∧ 5 ≤ ({ to3 .shutting [] with sends := 5 } : Channel).sends) := by
  have hc (c : Channel) (h : c.epochs.all (fun z => !z.replay) = true) : CalmWith c := calm_of (by simpa using h)
  refine ⟨fun _ _ _ => rfl, fun _ _ h => h, ⟨by decide, by decide, hc _ rfl, by decide⟩, ⟨by decide, hc _ rfl, by decide⟩, by decide,
    ⟨by decide, by decide, hc _ rfl, by decide, by decide, rfl, rfl, by decide, rfl, by decide, noBuffer_of rfl rfl,
      noTwin_of rfl rfl, spClean_of rfl rfl (by decide)⟩, ?_⟩
  decide +kernel

/-- The value at a key of a table over a run of keys. -/
theorem get_range {α : Type} (d : α) (f : Nat → α) (n lo k : Nat) (h : lo ≤ k) (h' : k < lo + n) :
    Sparse.get d ((List.range' lo n).map (fun i => (i, f i))) k = f k := by
  induction n generalizing lo with
  | zero => omega
  | succ n ih =>
    simp only [List.range'_succ, List.map_cons, Sparse.get]
    split
    · next e => rw [e]
    · exact ih (lo + 1) (by omega) (by omega)

/-- A WRITE of 512 bytes at the end of window 6, in an epoch. -/
def write3 (e : BitVec 2) (off : BitVec 64) : DvPacket := { from3 .write 0 (List.replicate 512 7) with epoch := e, off := off }

/-- A RELEASE in an epoch, of a count, with its flag at an offset. -/
def release3 (e : BitVec 2) (n : BitVec 32) (off : BitVec 64) : DvPacket := { from3 .release n [] with epoch := e, off := off, value := 9 }

/-- WRITEs and RELEASEs that have come. -/
def comeTo4 : List DvPacket :=
  [write3 1 65024, write3 0 65025, write3 0 0, write3 0 65024, write3 0 8, write3 0 65536, { write3 0 0 with intact := false },
    release3 0 2 65528, release3 0 2 65536, release3 0 1 0, release3 0 3 0]

/-- Slot 4 open to device 3, with an epoch as given, window 6 exported with an entry, and packets come. -/
def receiving (e : BitVec 2) (r : RecvEpoch) (m : Mte) : State :=
  { one {} with dv := {
      arrived := come ++ comeTo4
      recv := [(4, { used := true, src := 3, win := 6, eps := Sparse.put {} [] e.toNat r })]
      windows := [(6, { exported := true, mte := m, srcDev := 3 })] } }

/-- A release held for a count. -/
def heldRel (n : Nat) : RelInfo := { count := n, win := 6, off := 0, value := 9 }

/-- Every byte of `live0` lies under key slot 0. -/
theorem live0_keyAt {o : Nat} (h : o < 65536) : live0.keyAt o = some 0 := by
  have hv : (0 + o) / 65536 - 0 / 65536 = 0 := by omega
  simp only [Mte.keyAt, show live0.vbase = 0 from rfl, hv]
  rfl

/-- Where nothing migrates, is discarded, poisoned or encrypted, a window over `live0` admits an access within it. -/
theorem live0_admits {s : State} {off n : Nat} (hm : s.mem.mig = []) (hc : s.mem.clamp = []) (hp : s.mem.dev.pois = [])
    (hk : s.mem.dev.chk = []) (ht : s.mem.dev.tags = []) (ha : s.mem.dev.areas = []) (hb : off + n ≤ 65536) :
    ReachesEach s live0 .fabric false true off n (fun j => 0x100000 + (off + j)) ∧
    ∀ j, j < n → Keyed s (live0.keyAt (off + j)) (0x100000 + (off + j)) 1 ∧
      ∀ h, h < n → s.keyIn (live0.keyAt (off + h)) = s.keyIn (live0.keyAt (off + j)) := by
  refine ⟨live0_reachesEach hm hc hp hk ht ha hb, fun j hj => ⟨keyed_of ht ha _ _ _, fun h hh => ?_⟩⟩
  rw [live0_keyAt (by omega), live0_keyAt (by omega)]

/-- What every packet must meet to be counted at slot 4. -/
def countedAt (s : State) (pk : DvPacket) : Bool :=
  let x := s.arrival pk.slot.toNat
  s.dv.held.isEmpty && s.dv.errFlags.isEmpty && s.dv.chans.isEmpty && packetIntact pk && x.used && x.src == pk.src && x.fault.isNone &&
    (pk.epoch == x.last + 1#2 || pk.epoch == x.last + 2#2) && (x.ep pk.epoch).gen == pk.gen.toNat

/-- The release of an epoch at slot 4 is not complete. -/
def waitsAt (s : State) (f : BitVec 2) : Bool :=
  match ((s.arrival 4).ep f).rel with
  | some i => ((s.arrival 4).ep f).arr != i.count
  | none => true

/-- Slot 4 with its release of epoch 0 complete but for one packet. -/
def nearly : State := receiving 0 { arr := 1, rel := some (heldRel 2) } live0

/-- A window that any device may write to, over a STALE entry whose re-walk waits for the Bench. -/
def staleWindow : State :=
  let s : State := { receiving 0 {} live0 with bench := { faults := [fault5 (.window 6)] } }
  { s with dv := { s.dv with windows := [(6, { exported := true, mte := { live0 with st := .stale }, srcAny := true })] } }

theorem witness_DovetailReceiverCountsReleasesAndFaults_writes :
    (∀ ty n d, (from3 ty n d).dst = Config.deviceId) ∧ (∀ d, { from3 .write 0 [] with dst := d + 1#22 }.dst ≠ d) ∧
    (let s := receiving 1 { rel := some (heldRel 1) } live0
     countedAt s (write3 1 65024) = true ∧ (0 ≠ (1 : BitVec 2)) ∧ waitsAt s 0 = true ∧ ((s.arrival 4).ep 1).rel = some (heldRel 1) ∧
     ((s.arrival 4).ep 1).arr + 1 = (heldRel 1).count ∧ (1 : BitVec 2) ≠ (s.arrival 4).last + 1#2 ∧
     (s.window 6).exported = true ∧ (s.window 6).srcDev = 3 ∧ (s.window 6).mte = live0) ∧
    (∀ e r off n, off + n ≤ 65536 → ReachesEach (receiving e r live0) live0 .fabric false true off n (fun j => 0x100000 + (off + j)) ∧
      ∀ j, j < n → Keyed (receiving e r live0) (live0.keyAt (off + j)) (0x100000 + (off + j)) 1 ∧
        ∀ h, h < n → (receiving e r live0).keyIn (live0.keyAt (off + h)) = (receiving e r live0).keyIn (live0.keyAt (off + j))) ∧
    (let s := receiving 0 { arr := 3 } live0
     countedAt s (write3 0 65025) = true ∧ (s.window 6).mte.len < 65025 + 512 ∧ countedAt s (write3 0 0) = true) ∧
    (countedAt staleWindow (write3 0 65024) = true ∧ (staleWindow.window 6).exported = true ∧ (staleWindow.window 6).srcAny = true ∧
     65024 + (write3 0 65024).data.length ≤ (staleWindow.window 6).mte.len ∧ (staleWindow.window 6).mte.st = .stale ∧
     ∃ f, f ∈ staleWindow.bench.faults ∧ f.owner = .window 6) ∧
    (countedAt nearly (write3 0 8) = true ∧ ((nearly.arrival 4).ep 0).arr + 1 = (heldRel 2).count ∧ waitsAt nearly 1 = true) ∧
    (∀ j h, j < 512 → h < 8 → nearly.keyIn (live0.keyAt (8 + j)) = nearly.keyIn (live0.keyAt ((heldRel 2).off + h))) ∧
    (let s := receiving 0 { arr := 2, rel := some (heldRel 2) } live0
     countedAt s (write3 0 65536) = true ∧ (heldRel 2).count < ((s.arrival 4).ep 0).arr + 1 ∧ (s.window 6).mte.len < 65536 + 512) ∧
    (packetIntact { write3 0 0 with intact := false } = false ∧
      ((one {}).arrival 4).used = false) ∧
    (∀ e r s pk, s ∈ [receiving e r live0, staleWindow, nearly] → pk ∈ come ++ comeTo4 → pk ∈ s.dv.arrived) ∧
    (let s : State := { nearly with dv := { nearly.dv with inbound := [⟨4, 0, (vis1 0x101000 5 .c).segs⟩] } }
     let pending : List VisStore := (s.dv.inbound.filter (fun z => z.slot == 4 && z.epoch == 0#2)).map (fun z => ⟨z.segs, .c⟩)
     pending ≠ [] ∧ s.mem.mig = [] ∧ OneKey s pending ∧ ∀ q, q ∈ pending → ∀ h, h ∈ q.segs → ∀ j, j < 512 →
       h.addr / 16 ≤ (0x100000 + (8 + j)) / 16 → ¬ 16 * ((0x100000 + (8 + j)) / 16) < h.addr + h.data.length) := by
  refine ⟨fun _ _ _ => rfl, fun d => ?_, by decide +kernel, fun e r off n h => live0_admits rfl rfl rfl rfl rfl rfl h, by decide +kernel,
    ⟨by decide +kernel, rfl, rfl, by decide +kernel, rfl, _, List.mem_cons_self, rfl⟩, by decide +kernel, fun j h hj hh => ?_, by decide +kernel,
    by decide +kernel, fun e r s pk h hp => ?_, by decide, rfl, oneKey_vis1 rfl rfl _ _ _, fun q hq h hh j hj ha => ?_⟩
  rotate_left 2
  · fin_cases h <;> exact hp
  · obtain rfl : q = vis1 0x101000 5 .c := List.mem_singleton.mp hq
    obtain rfl : h = ⟨.dev, 0x101000, 0x101000, 0, [(5, false)], [], none⟩ := List.mem_singleton.mp hh
    simp only [List.length_singleton] at *
    omega
  · show d + 1#22 ≠ d
    bv_omega
  · rw [live0_keyAt (by omega), live0_keyAt (by simp only [heldRel]; omega)]

/-- 4,096 slots in use. -/
def fullSlots : State := { one {} with dv := { arrived := come, recv := (List.range' 0 4096).map (fun i => (i, { used := true, src := 9, last := 0 })) } }

theorem fullSlots_used (j : Nat) (h : j < 4096) : (fullSlots.arrival j).used = true := by
  have e : fullSlots.dv.recv = (List.range' 0 4096).map (fun i => (i, { used := true, src := 9, last := 0 })) := rfl
  simp only [State.arrival, e]
  rw [get_range _ _ 4096 0 j (by omega) (by omega)]

/-- The same, with slot 7 opened by the sender of an OPEN. -/
def fullSlots7 : State :=
  { one {} with dv := { arrived := come, recv := (List.range' 0 4096).map (fun i =>
      (i, if i = 7 then { used := true, src := 3, win := 6 } else { used := true, src := 9 })) } }

theorem fullSlots7_used (j : Nat) (h : j < 4096) : (fullSlots7.arrival j).used = true := by
  have e : fullSlots7.dv.recv = (List.range' 0 4096).map (fun i =>
      (i, if i = 7 then { used := true, src := 3, win := 6 } else { used := true, src := 9 })) := rfl
  simp only [State.arrival, e]
  rw [get_range _ _ 4096 0 j (by omega) (by omega)]
  split <;> rfl

theorem witness_DovetailReceiverCountsReleasesAndFaults_releases :
    (let s := receiving 0 { arr := 2 } live0
     countedAt s (release3 0 2 65528) = true ∧ ((s.arrival 4).ep 0).rel = none ∧ ((s.arrival 4).ep 0).arr = 2 ∧ waitsAt s 1 = true ∧
     65528 + 8 = (s.window 6).mte.len ∧
     countedAt s (release3 0 2 65536) = true ∧ (s.window 6).mte.len < 65536 + 8 ∧
     countedAt s (release3 0 1 0) = true ∧ countedAt s (release3 0 3 0) = true ∧ s.relHeld < 256) ∧
    (let s := receiving 0 {} live0
     let t : State := { s with dv := { s.dv with recv := s.dv.recv ++
       [(9, { eps := (List.range 256).map (fun i => (i, { rel := some (heldRel 1) })) })] } }
     countedAt t (release3 0 3 0) = true ∧ 256 ≤ t.relHeld) ∧
    (let s := receiving 0 {} live0
     packetIntact (from3 .openReq 0 []) = true ∧ (∀ e, e ∈ (one {}).dv.recv → e.2.openedBy (from3 .openReq 0 []) = false) ∧
     ((one {}).arrival 0).used = false ∧ packetIntact (from3 .shut 0 []) = true ∧ packetIntact (from3 .faultAck 0 []) = true ∧
     s.dv.held = []) ∧
    (fullSlots.dv.recv.all (fun e => !e.2.openedBy (from3 .openReq 0 [])) = true ∧ ∀ j, j < 4096 → (fullSlots.arrival j).used = true) ∧
    (fullSlots7.dv.recv.filter (fun e => e.2.openedBy (from3 .openReq 0 [])) = [(7, { used := true, src := 3, win := 6 })] ∧
     fullSlots7.arrival 7 = { used := true, src := 3, win := 6 } ∧ ∀ j, j < 4096 → (fullSlots7.arrival j).used = true) ∧
    (∀ g, g ∈ [0, 4] → let y := (receiving 1 { gen := g, rel := some (heldRel 2), relSeen := true } live0).arrival 4
     y.used = true ∧ y.fault = none ∧ (y.ep 1).rel.isSome = true ∧ 1 = y.last + 2#2) ∧
    (let y := (receiving 0 { gen := 1, gapping := some (0, 2) } live0).arrival 4
     y.used = true ∧ y.fault = none ∧ 0 = y.last + 1#2 ∧ (1 ≤ (y.ep 0).gen ∧ (y.ep 0).relSeen = false) ∧
     (y.ep 0).gapping = some (0, 2)) ∧
    (({ fault := some 2, sends := 4 } : RecvSlot).sends < 5 ∧ 5 ≤ ({ fault := some 2, sends := 5 } : RecvSlot).sends) ∧
    (((paged true {}).window 6).exported = false ∧
      ((paged true {}).translate false 0 [] 0 1 true).2 = .good 0x3F 0 [⟨0, false, false, 1, 0⟩] ∧
      ((paged false {}).translate false 0 [] 0 1 true).2 = .cause 5 0 ∧ ((receiving 0 {} live0).window 6).exported = true) := by
  refine ⟨?_, ?_, ?_, ⟨?_, fullSlots_used⟩, ⟨?_, ?_, fullSlots7_used⟩, ?_, ?_, ?_, ?_⟩
  all_goals decide +kernel

/-- A machine whose port 1 is up and is as given. -/
def linked (p : Port) : State := { one {} with plinth := { ready := 0xF000000 }, dv := { ports := [(1, p)] } }

/-- The header of a FAULT_ACK to a device. -/
def ackTo (d : BitVec 22) : List (Byte × Bool) := clean (headerBytes { from3 .faultAck 0 [] with dst := d })

/-- Its four bytes of DST read as they were written. -/
theorem ackTo_reads (d : BitVec 22) : ∃ m, readPacket (ackTo d) true = some m ∧ m.dst = d := by
  have hd : hdrField (ackTo d) 4 4 = d.toNat := by
    have h4 : ((ackTo d).drop 4).take 4 = clean (leBytes 4 d.toNat) := rfl
    rw [hdrField, h4]
    have := d.isLt
    simp [plain, clean, leBytes, leNat]
    omega
  have h0 : hdrField (ackTo d) 0 1 = dvCode .faultAck := rfl
  have h1 : hdrField (ackTo d) 1 1 = 0 := rfl
  have h2 : hdrField (ackTo d) 2 2 = 4 := by
    rw [hdrField, show ((ackTo d).drop 2).take 2 = clean (leBytes 2 (4 : BitVec 12).toNat) from rfl]
    decide
  have h8 : hdrField (ackTo d) 8 4 = 3 := by
    rw [hdrField, show ((ackTo d).drop 8).take 4 = clean (leBytes 4 (3 : BitVec 22).toNat) from rfl]
    decide
  have ht : dvType (dvCode .faultAck) = some .faultAck := by decide
  have hlt : d.toNat < 2 ^ 22 := d.isLt
  simp only [readPacket, h0, ht, h1, h2, h8, hd]
  rw [if_neg (by omega)]
  exact ⟨_, rfl, by simp⟩

theorem witness_DovetailReceiverCountsReleasesAndFaults_links :
    let up (p : Nat) : Bool := (linked {}).plinth.ready.getLsbD (24 + p)
    let fl (seq : BitVec 12) (again : Option (BitVec 12)) (ack : Option (BitVec 12)) (b : List (Byte × Bool)) : LinkFlit := ⟨seq, ack, again, b, true⟩
    let asked (n : Nat) : Port := { asked := n, retry := [⟨5, [], from3 .faultAck 0 []⟩] }
    (up 1 = true ∧ up 4 = false ∧ ∀ p, (linked p).port 1 = p) ∧
    (({ failed := 15 } : Port).failed < 16 ∧ 16 ≤ ({ failed := 16 } : Port).failed) ∧
    ((fl 9 (some 5) none []).again = some 5 ∧ (∃ z, z ∈ (asked 16).retry ∧ z.num = 5) ∧ 16 ≤ (asked 16).asked ∧ (asked 15).asked < 16 ∧
     (fl 9 (some 5) none []).seq ≠ (asked 15).want) ∧
    ((fl 9 none (some 5) []).ack = some 5 ∧ (asked 0).retry.findIdx? (fun z => z.num == 5) = some 0 ∧ (asked 0).queue = [] ∧
     (fl 9 none (some 5) []).seq ≠ (asked 0).want) ∧
    (let y : Port := {}
     let b := y.bytes ++ (fl 0 none none (List.replicate 31 (0, false))).body
     (fl 0 none none []).seq = y.want ∧ ¬ (32 + hdrField b 12 2 ≤ b.length)) ∧
    (let b := List.replicate 240 ((0xFF : Byte), false)
     readPacket b true = none ∧ 32 + hdrField (List.replicate 240 ((0 : Byte), false)) 12 2 ≤ 240) ∧
    (let p := from3 .faultAck 0 []
     (one {}).dv.sent[(0 : BitVec 32).toNat]? = none ∧ (∀ q, let s : State := { linked { queue := q } with dv := { (linked { queue := q }).dv with sent := [p] } }
       s.dv.sent[(0 : BitVec 32).toNat]? = some p ∧ (s.port 1).queue = q) ∧
     (flitsOf p).length = 1 ∧ (([(ackTo 3, p)] : List (List (Byte × Bool) × DvPacket)).filter (fun z => z.2 == p)).length = 1) ∧
    (∀ d, ∃ m, readPacket (ackTo d) true = some m ∧ m.dst = d) ∧ (∀ d, 32 + hdrField (ackTo d) 12 2 ≤ (ackTo d).length) := by
  refine ⟨⟨by decide, by decide, fun p => rfl⟩, by decide, ⟨rfl, ⟨_, List.mem_cons_self, rfl⟩, by decide⟩, by decide, by decide, by decide +kernel,
    ⟨rfl, fun q => ⟨rfl, rfl⟩, by decide +kernel, by simp⟩, ackTo_reads, fun d => ?_⟩
  have h : hdrField (ackTo d) 12 2 = 0 := by
    rw [hdrField, show ((ackTo d).drop 12).take 2 = clean (leBytes 2 0) from rfl]
    decide
  rw [h]
  exact Nat.le_of_eq rfl

/-- A unit whose jig starts as `jig0`, stamped, that has run on core 0. -/
def unit0 : WorkUnit := { id := 0, gang := 0, slot := 0, kind := .jig jig0, crec := none, ran := [0], stamp := some 0 }

/-- A machine whose integrity state is as given. -/
def tested (g : Integrity) (c : Core) : State := { jigged jig0 c with integ := g, disp := { parts := 1 } }

/-- A machine in whose half A 786,432 sectors, from address 0 on, are poisoned. -/
def fullRecord : State := { one {} with mem := { dev := { pois := (List.range' 0 786432).map (fun i => (32 * i, true)) } } }

theorem sectorCount_run (n lo : Nat) (q : Option Nat) (h : q ≠ some lo) :
    sectorCount q ((List.range' lo n).map (fun i => (32 * i, true))) = n := by
  induction n generalizing lo q with
  | zero => rfl
  | succ n ih =>
    have hd : 32 * lo / 32 = lo := by omega
    simp only [List.range'_succ, List.map_cons, sectorCount, hd, beq_eq_false_iff_ne.mpr h, Bool.false_eq_true, if_false]
    rw [ih (lo + 1) (some lo) (by simp)]

theorem recordFull_fullRecord : fullRecord.recordFull false = true := by
  have h : fullRecord.poisonRecord false = (List.range' 0 786432).map (fun i => (32 * i, true)) := by
    refine List.filter_eq_self.mpr fun e he => ?_
    obtain ⟨i, hi, rfl⟩ := List.mem_map.mp he
    have := List.mem_range'_1.mp hi
    have hb : ¬ 3145728 ≤ 32 * i / 65536 := by omega
    have hu : halfOfUnit (32 * i / 65536) = false := by simp only [halfOfUnit, decide_eq_false hb, Bool.false_and]
    simp only [hu, Bool.and_eq_true, decide_eq_true_eq, beq_self_eq_true, and_true]
    omega
  simp only [State.recordFull, h, sectorCount_run _ _ _ (by simp : (none : Option Nat) ≠ some 0)]
  exact decide_eq_true (Nat.le_refl _)

theorem witness_RotationErrorsAndThePowerGovernor :
    ((one {}).recordFull false = false ∧ (one {}).recordFull true = false) ∧ fullRecord.recordFull false = true ∧ 0 < jig0.total ∧
    (let s := tested { rotNext := 255, skipped := [3] } {}
     s.integ.rotActive = false ∧ s.isRetired 255 = false ∧ (s.core 255).step = none ∧ (255 + 256 - s.integ.rotNext) % 256 = 0 ∧
     3 ∈ s.integ.skipped ∧ (s.core 3).step = none) ∧
    (let s := tested { rotNext := 255 } held0
     (0 + 256 - s.integ.rotNext) % 256 = 1 ∧ s.isRetired 255 = false ∧ (s.core 255).step = none ∧ 0 ∉ s.integ.ahead ∧
     0 ∉ s.integ.skipped ∧ (s.core 0).step ≠ none) ∧
    (let s := tested { rotActive := true, rotCore := 7 } {}
     s.integ.rotActive = true ∧ s.integ.rotCore = 7 ∧ s.disp.hostRings = [] ∧ s.integ.units = []) ∧
    (let s := tested { rotActive := true, rotCore := 0, units := [unit0] } {}
     s.disp.graphs = [] ∧ s.disp.hostRings = [] ∧ s.integ.journal = [] ∧ s.disp.jigs = [] ∧ s.integ.units = [unit0] ∧
     unit0.kind = .jig jig0 ∧ unit0.deps = [] ∧ unit0.crec = none ∧ unit0.stamp ≠ none ∧ 0 ∈ unit0.ran ∧ recTwin jig0.record = false ∧
     1 ∈ s.soundGroups (s.gang 0).part.toNat (recSize jig0.record)) ∧
    ((tested {} {}).core 0).step = none ∧
    (let s : State := { jigged jig0 held0 with disp := { gangs := [(0, { mapped := true, restoring := true })] } }
     (s.core 0).step = some { step0 with jigId := 0, depth := 0 } ∧ (s.gang 0).restoring = true) ∧
    (let s := jigged jig0 held0
     (s.gang 0).restoring = false ∧ s.victims 0 = [0] ∧ (s.core 0).m.flight = none ∧ (s.core 0).c.flight = none ∧
     (s.core 0).panelBase 0 = 0 ∧ 0 < (s.core 0).panelSize ∧ (s.core (0 + 0)).s.st ≠ .halted) ∧
    (384 * 2 ^ 30 ≤ (0x6000000000 : BitVec 51).toNat ∧ (0x5FFFFFFFFF : BitVec 51).toNat < 384 * 2 ^ 30 ∧
      (98303 : BitVec 17).toNat < 98304) ∧
    (let u := { unit0 with stamp := none }
     let s : State := { jigged jig0 held0 with integ := { units := [u] } }
     s.disp.graphs = [] ∧ s.disp.hostRings = [] ∧ s.integ.journal = [] ∧ s.disp.jigs = [(0, some jig0)] ∧ s.integ.units = [u] ∧
     u.kind = .jig jig0 ∧ u.deps = [] ∧ u.crec = none ∧ u.id = jig0.id ∧ jig0.running = [] ∧ halfOfSlot jig0.slot = false ∧
     (s.core 0).step = some { step0 with jigId := 0, depth := 0 } ∧ jig0.id = 0) := by
  refine ⟨by decide, recordFull_fullRecord, by decide, by decide +kernel, by decide +kernel, by decide +kernel, ?_, by decide +kernel,
    by decide +kernel, by decide +kernel, by decide, ?_⟩
  · exact ⟨rfl, rfl, rfl, rfl, rfl, rfl, rfl, rfl, by decide, by decide, by decide +kernel, by decide +kernel⟩
  · exact ⟨rfl, rfl, rfl, rfl, rfl, rfl, rfl, rfl, rfl, rfl, by decide, rfl, rfl⟩

/-- The header of an image with a body of four bytes. -/
def header : List Byte :=
  let h := leBytes 4 0x4C4D5842 ++ leBytes 4 4 ++ List.replicate 8 0
  h ++ leBytes 4 (crc32c h).toNat ++ List.replicate 44 0

/-- A Plinth in a state of the lease gate, with that image staged or nothing. -/
def gated (g : GateSt) (ready : Word) (image : Bool) (b : Bench) : State :=
  { one {} with
    plinth := { gate := g, ready := ready, staging := if image then Sparse.putList 0 [] 0 header else [] }
    bench := b }

/-- A connection at a stage. -/
def connected (st : SpdmSt) : State := { one {} with plinth := { gate := .running, ready := 0x8, spdm1 := { st := st } } }

/-- The clauses of GET_CERTIFICATE and CHALLENGE that depend on the length of the certificate chain are met where the
configured chain, which the model leaves open, reaches the offset asked for. -/
theorem witness_LeaseGateMeasurementAndAttestation :
    (∀ g, g ∈ [GateSt.clean, .running, .benchless, .failed] → ¬ ((gated g 0 false {}).plinth.gate = .hold ∨
      (gated g 0 false {}).plinth.gate = .scrub) ∧ (gated g 0 false {}).power.on = true) ∧
    ((gated .hold 0 false {}).plinth.gate = .hold ∧ (gated .scrub 0 false {}).plinth.gate = .scrub) ∧
    (gated .clean 0 false {}).bench.reloading = false ∧ (gated .loading 0x709 false {}).plinth.gate = .loading ∧
    (let f : ScrubResult := ⟨[0, 0, 1], false, []⟩
     f.absorbed = false ∧ ∃ x, x ∈ f.failures.drop 2 ∧ x ≠ 0) ∧
    (let f : ScrubResult := ⟨[1, 1, 0], false, []⟩
     ¬ (f.absorbed = false ∧ ∃ x, x ∈ f.failures.drop 2 ∧ x ≠ 0)) ∧
    (let s := gated .clean 0x709 false {}
     s.plinth.gate = .clean ∧ imageError (s.staged 0 64) ≠ 0) ∧
    (let s := gated .clean 0x709 true {}
     s.plinth.gate = .clean ∧ s.power.on = true ∧ imageError (s.staged 0 64) = 0) ∧
    (let s := gated .running 0xFFF false { runA := true, runB := true }
     let image := header ++ [1, 2, 3, 4]
     s.plinth.gate = .running ∧ imageError (image.take 64) = 0 ∧ image.length = 64 + field image 4 4 ∧
     ¬ (header.length = 64 + field header 4 4)) ∧
    ((4 : BitVec 4).toNat < 5 ∧ 5 ≤ (5 : BitVec 4).toNat) ∧
    (let s := gated .running 0xFFF false { runA := true }
     s.plinth.gate = .running ∧ s.bench.reloading = false ∧ (if s.bench.activeB then s.bench.runA else s.bench.runB) = false) ∧
    (let s := gated .running 0xFFF false { runA := true, runB := true }
     (if s.bench.activeB then s.bench.runA else s.bench.runB) = true) ∧
    { one {} with power := { on := false } }.power.on = false ∧
    (gated .running 0 false {}).plinth.ready.getLsbD 3 = false ∧
    (∀ st, st ∈ [SpdmSt.start, .version, .capabilities, .negotiated] → let s := connected st
      s.power.on = true ∧ ¬ (s.plinth.gate = .hold ∨ s.plinth.gate = .scrub) ∧ s.plinth.ready.getLsbD 3 = true ∧
      (s.conn true).st = st) ∧
    (let x : List Byte := [0, 0, 0, 0, 0x80, 0, 0, 0, 0, 0, 0, 0]
     (field x 2 1).testBit 0 = false ∧ (field x 4 4).testBit 7 = true ∧ (field ([] : List Byte) 8 4).testBit 1 = false) ∧
    ((0x11 : Byte).toNat % 16 ≠ 0 ∧ (0x10 : Byte).toNat % 16 = 0 ∧ (0xFF : Byte) ∈ ([0, 1, 0xFF] : List Byte) ∧ (2 : Byte) ∉ ([0, 1, 0xFF] : List Byte)) ∧
    (let bad (k : Nat) : Prop := 16 < k ∧ k ≠ 0xFF
     bad 17 ∧ ¬ bad 16 ∧ ¬ bad 0xFF) := by
  refine ⟨by decide, by decide, by decide, by decide, ⟨rfl, 1, by decide, by decide⟩, ?_, by decide +kernel, by decide +kernel, by decide +kernel, ?_⟩
  · rintro f ⟨-, x, hm, hx⟩
    exact hx (List.mem_singleton.mp hm)
  · exact ⟨by decide, by decide, by decide, by decide, by decide, by decide, by decide⟩

/-- A core whose instruction memory holds a word at `pc`. -/
def running (pc : BitVec 16) (w : Nat) (t : SCore) : Core :=
  { s := { t with pc := pc, st := .running }
    imem := Sparse.putList 0 [] pc.toNat ((List.range 4).map (fun i => BitVec.ofNat 8 (w / 256 ^ i))) }

/-- A state whose core 0 is `c` and whose next turn is an agent's. -/
def turnOf (g : Agent) (c : Core) : State := { one c with turn := g }

/-- A core whose V ring at 0 holds a word. -/
def vRing (w : Nat) : Core :=
  { s := { st := .running }
    v := { eng := { st := .running, size := 4, wp := 1 } }
    spad := { bytes := Sparse.putList 0 [] 0 ((List.range 4).map (fun i => BitVec.ofNat 8 (w / 256 ^ i))) } }

/-- The state in which an agent's turn finds itself. -/
def inTurn (g : Agent) (s : State) : State := { s with lazy := false, turn := agentAfter g }

/-- The conditions of a turn of the S-stream over which no wire, test or cause stands, and the word it fetches. -/
def sTurn (c : Core) : State := inTurn .s (turnOf .s c)

/-- What the word at the program counter decodes to. -/
def fetched (s : State) : Option (Instr × List Byte) := (decode .s (Sparse.getList 0 s.me.imem s.me.s.pc.toNat 4)).toOption

/-- A load of x2 that is still to perform. -/
def pending2 : QLoad := { op := .load 2 8 }

/-- The same of the V-stream, with a word of its ring. -/
def vTurn (c : Core) : State := inTurn .v (turnOf .v c)

theorem witness_StepRunsTheDecodedInstruction :
    (∀ i, ({ one {} with agenda := [.event i] } : State).agenda = .event i :: []) ∧
    (∀ c, (turnOf .s c).agenda = [] ∧ (turnOf .s c).turn = .s ∧
      ({ one c with agenda := [.run 0 .s 5] } : State).agenda = .run 0 .s 5 :: [] ∧
      ({ one c with agenda := [.lazy 0 .s] } : State).agenda = .lazy 0 .s :: [] ∧
      ({ one c with agenda := [.hostReg 8] } : State).agenda = .hostReg 8 :: [] ∧
      ({ one c with agenda := [.perform 0 true] } : State).agenda = .perform 0 true :: []) ∧
    (∀ w, w ∈ [0x00061820, 0xFFFFFFFF] → let u := sTurn (running 0xFFFC w {})
     u.stalled u.curN = false ∧ u.held u.curN = false ∧ u.me.s.st = .running ∧ u.me.s.pendLost = false ∧ u.me.s.pendEng = false ∧
     fetched u = if w = 0x00061820 then some (.add 0 3 3 1, []) else none) ∧
    (let u := sTurn (running 0 0x00061820 { schk := true, haz := [⟨.x 3, 2⟩], inHandler := true, pendLost := true })
     u.me.s.inHandler = true ∧ u.me.s.schk = true ∧ fetched u = some (.add 0 3 3 1, []) ∧
     hazardHit false u.me.s.haz (.add 0 3 3 1) = true ∧ hazardHit false u.me.s.haz (.add 0 3 2 1) = false) ∧
    (let u := sTurn (running 0 0x00061820 { loads := [pending2] })
     pendingHit false u.me.s.loads (.add 0 3 2 1) = true ∧ pendingHit false u.me.s.loads (.add 0 3 3 1) = false) ∧
    (∀ x, x ∈ [WaitOn.sem 3, .chanRoom 1] → let c := running 0 0x00061820 {}
     let u := sTurn { c with s := { c.s with st := .waiting x } }
     u.me.s.st = .waiting x ∧ (x.abandonable = true ∨ x = .chanRoom 1) ∧ fetched u = some (.add 0 3 3 1, [])) ∧
    (let u := sTurn { counted 1 [] with s := { st := .waiting (.sem 3), pendEng := true } }
     (WaitOn.sem 3).holds u u.curN .s = true) ∧
    (let u := sTurn { counted 0 [] with s := { st := .waiting (.sem 3), pendEng := true } }
     u.me.s.inHandler = false ∧ (WaitOn.sem 3).abandonable = true ∧ (WaitOn.sem 3).holds u u.curN .s = false) ∧
    (let u : State := { sTurn {} with
       cores := [(260, { s := { st := .running } })], cur := 260
       bench := { runB := true, sramB := Sparse.putList 0 [] 0 (leBytes 4 0x680C2001) } }
     u.stalled u.curN = false ∧ u.held u.curN = false ∧ u.me.s.st = .running ∧ u.me.s.pendLost = false ∧ u.me.s.pendEng = false ∧
     (decode .s (Sparse.getList 0 u.bench.sramB 0 4)).toOption = some (.std 0 6 2 0 1, []) ∧ u.keepsOff u.curN (.std 0 6 2 0 1) = true) ∧
    (let u := sTurn (running 0 0x00061820 { pendEng := true })
     u.me.s.inHandler = false ∧ u.me.s.pendEng = true ∧ u.me.s.st = .running) ∧
    (∀ w, w ∈ [0xA2000044, 0xF4000000] → let u := vTurn (vRing w)
     u.stalled u.curN = false ∧ u.held u.curN = false ∧ u.me.v.eng.st = .running ∧ u.me.v.eng.laid ≠ 0 ∧ u.me.v.cur = none ∧
     u.me.v.wait = none ∧ u.me.v.eng.skip = 0 ∧
     (decodeV (u.ringWord u.curN .v u.me.v.eng.rp)).toOption =
       if w = 0xA2000044 then some (.vld .fp32 0 0 0 1 1 false false) else none) ∧
    (let i : Instr := .vld .fp32 0 0 0 1 1 false false
     let r := vRing 0xA2000044
     let u (v : VCore) : State := vTurn { r with v := { v with eng := r.v.eng } }
     (u {}).me.wordIllegal i = false ∧ (u {}).me.v.schk = false ∧
     hazardHit false [⟨.a 1, 1⟩] i = true ∧
     pendingHit (u {}).me.fx4 (u {}).me.v.loads i = false ∧ pendingHit false [{ op := .vlds .fp32 0 0 [] false }] i = true ∧
     (u { cur := some i }).me.v.cur = some i) ∧
    (let f : Flight := { cmd := .mzero 0 0 false 1 }
     let u := inTurn .m (turnOf .m (mzeroRing (some f)))
     u.held u.curN = false ∧ u.engineWaits u.curN .m = false ∧ u.me.flight .m = some f) ∧
    (let u := inTurn .m (turnOf .m (mzeroRing none))
     u.me.flight .m = none ∧ u.takenFrom u.curN .m = none ∧ u.engineWaits u.curN .m = false ∧
     u.fetchCmd u.curN .m = .cmd (.mzero 0 0 true 1) ∧ u.me.takenOf .m = [] ∧ syncOf (.mzero 0 0 true 1) = none) ∧
    (let c := mzeroRing none
     let u := inTurn .m { besideIdle { c with m := { c.m with taken := [{ cmd := .mzero 0 0 true 1, taker := some 1 }] } } with turn := .m }
     u.held u.curN = false ∧ u.me.flight .m = none ∧ u.takenFrom u.curN .m = none ∧ u.engineWaits u.curN .m = false ∧
     u.fetchCmd u.curN .m = .cmd (.mzero 0 0 true 1) ∧ u.me.takenOf .m ≠ []) ∧
    (let c := mzeroRing none
     let u := inTurn .m { besideIdle { c with m := { c.m with taken := [{ cmd := .mzero 0 0 true 1, taker := some 1 }] } } with cur := 1 }
     u.held u.curN = false ∧ u.me.flight .m = none ∧ u.takenFrom u.curN .m = some 0) := by
  refine ⟨fun i => rfl, fun c => ⟨rfl, rfl, rfl, rfl, rfl, rfl⟩, ?_, ?_, ?_, ?_, ?_, ?rest⟩
  case rest => refine ⟨?_, ?_, ?_, ?_, ?_, ?_, ?_, ?_, ?_⟩ <;> decide +kernel
  all_goals decide +kernel

theorem witness_DecodeInvertsEncode :
    (Instr.xlat 7 31 63 62 true false).stream = some .s ∧ (Instr.xlat 7 31 63 62 true false).wellFormed = true ∧
    (Instr.vnar .fp32 3 23 31 30 .bf16 .raz true).stream = some .v ∧
    (Instr.vnar .fp32 3 23 31 30 .bf16 .raz true).wellFormed = true ∧
    (Instr.mchk 63 62 3 0x3FFFF0).stream = some .m ∧ (Instr.mchk 63 62 3 0x3FFFF0).wellFormed = true ∧
    (Instr.dvrel 63 62 0xFFF 0xFFFFFFF8 1).stream = some .c ∧ (Instr.dvrel 63 62 0xFFF 0xFFFFFFF8 1).wellFormed = true := by
  decide

/-- Core 0 stands at an aligned program counter, and its step goes on. -/
theorem witness_ProgramCountersStayAligned :
    (turnOf .s (running 0xFFFC 0x00061820 {})).PcAligned ∧ ∃ t, step (turnOf .s (running 0xFFFC 0x00061820 {})) = .next t := by
  refine ⟨⟨?_, by simp [turnOf, one]⟩, ?_⟩
  · intro k
    simp only [turnOf, one, State.core, Sparse.get]
    split <;> decide
  · exact ⟨_, rfl⟩


end Sys2Proof.Tests
end

section
/-! PROOF. Every step keeps every program counter a multiple of four (R14, R53). One lemma for each operation that answers a
state, a core or an outcome says that it keeps the program counters aligned; it stands under the operation's name, so that the
proof about a sequence of operations is the sequence of their names. -/

namespace Sys2Proof.Machine

open Sys2Proof

/-! What it means, and the ways in which states, cores and outcomes are put together. -/

/-- The program counter of a core is a multiple of four (R14, R53). -/
def Core.PcAligned (c : Core) : Prop := c.s.pc &&& 3#16 = 0#16

/-- What a meaning answers has its program counters aligned, where it answers a state. -/
def Out.PcAligned : Out → Prop
  | .next t => t.PcAligned
  | _ => True

/-- What an operation that may fail answers has a property, where it answers anything. -/
def OptKeeps {α : Type} (P : α → Prop) : Option α → Prop
  | none => True
  | some a => P a

/-- The end of an access of a load queue leaves the program counters aligned. -/
def Performed.PcAligned : Performed → Prop
  | .waits => True
  | .done s => s.PcAligned
  | .trapped s => s.PcAligned

/-- The end of a unit of a command's work leaves the program counters aligned. -/
def Work.PcAligned : Work → Prop
  | .hold s _ => s.PcAligned
  | .more s _ => s.PcAligned
  | .fin s _ => s.PcAligned

/-- The end of an append to a host ring leaves the program counters aligned. -/
def Append.PcAligned : Append → Prop
  | .done s => s.PcAligned
  | _ => True

/-- A core whose program counter is that of an aligned one is aligned. -/
theorem Core.PcAligned.frame {c d : Core} (h : c.PcAligned) (hp : d.s.pc = c.s.pc) : d.PcAligned := by
  unfold Core.PcAligned at *
  rw [hp]; exact h

theorem Core.PcAligned.of_zero {c : Core} (h : c.s.pc = 0#16) : c.PcAligned := by
  unfold Core.PcAligned
  rw [h]; rfl

theorem Core.PcAligned.ite {p : Prop} [Decidable p] {c d : Core} (hc : c.PcAligned) (hd : d.PcAligned) :
    (if p then c else d).PcAligned := by
  split
  · exact hc
  · exact hd

/-- Program counters stand in the cores and in the saved contexts, so nothing else of a state matters. -/
theorem State.PcAligned.frame {s t : State} (h : s.PcAligned) (e : (t.cores, t.saved) = (s.cores, s.saved)) :
    t.PcAligned := by
  obtain ⟨hc, hs⟩ := Prod.mk.inj e
  unfold State.PcAligned State.core at *
  rw [hc, hs]; exact h

theorem State.PcAligned.ite {p : Prop} [Decidable p] {s t : State} (hs : s.PcAligned) (ht : t.PcAligned) :
    (if p then s else t).PcAligned := by
  split
  · exact hs
  · exact ht

theorem State.PcAligned.foldl {β : Type} {f : State → β → State} {l : List β} {s : State} (h : s.PcAligned)
    (hf : ∀ t b, t.PcAligned → (f t b).PcAligned) : (l.foldl f s).PcAligned := foldl_keeps hf l s h

theorem State.PcAligned.foldl_mem {β : Type} {f : State → β → State} {l : List β} {s : State} (h : s.PcAligned)
    (hf : ∀ b ∈ l, ∀ t : State, t.PcAligned → (f t b).PcAligned) : (l.foldl f s).PcAligned := by
  induction l generalizing s with
  | nil => exact h
  | cons b l ih =>
    exact ih (hf b List.mem_cons_self s h) fun c hc => hf c (List.mem_cons_of_mem b hc)

theorem State.PcAligned.foldl_fst {α β : Type} {f : State × α → β → State × α} {l : List β} {a : State × α}
    (h : a.1.PcAligned) (hf : ∀ x b, x.1.PcAligned → (f x b).1.PcAligned) : (l.foldl f a).1.PcAligned :=
  foldl_keeps (P := fun x : State × α => x.1.PcAligned) hf l a h

theorem Core.PcAligned.foldl {β : Type} {f : Core → β → Core} {l : List β} {c : Core} (h : c.PcAligned)
    (hf : ∀ t b, t.PcAligned → (f t b).PcAligned) : (l.foldl f c).PcAligned := foldl_keeps hf l c h

theorem State.PcAligned.core {s : State} (h : s.PcAligned) {k : Nat} : (s.core k).PcAligned := h.1 k

/-- The saved contexts of a gang have their program counters aligned. -/
theorem State.PcAligned.of_saved {s : State} (h : s.PcAligned) {g : GangId × List Saved} (hg : g ∈ s.saved)
    {e : Saved} (he : e ∈ g.2) : e.core.PcAligned := h.2 g hg e he

/-- Contexts are saved, moved or dropped: the new ones have to be aligned. -/
theorem State.PcAligned.withSaved {s t : State} (h : s.PcAligned) (hc : t.cores = s.cores)
    (hs : ∀ g ∈ t.saved, ∀ e ∈ g.2, Core.PcAligned e.core) : t.PcAligned := by
  refine ⟨fun k => ?_, hs⟩
  have hk := h.1 k
  unfold State.core at *
  rw [hc]; exact hk

theorem State.PcAligned.me {s : State} (h : s.PcAligned) : s.me.PcAligned := h.1 _

theorem State.PcAligned.fst {α : Type} {p : State × α} (h : p.1.PcAligned) {s : State} {a : α} (e : p = (s, a)) :
    s.PcAligned := by
  rw [e] at h; exact h

theorem OptKeeps.get {α : Type} {P : α → Prop} {o : Option α} (h : OptKeeps P o) {a : α} (e : o = some a) : P a := by
  rw [e] at h; exact h

theorem OptKeeps.getD {α : Type} {P : α → Prop} {o : Option α} (h : OptKeeps P o) {a : α} (ha : P a) :
    P (o.getD a) := by
  cases o with
  | none => exact ha
  | some b => exact h

theorem OptKeeps.map {α β : Type} {P : α → Prop} {Q : β → Prop} {o : Option α} {f : α → β} (h : OptKeeps P o)
    (hf : ∀ a, P a → Q (f a)) : OptKeeps Q (o.map f) := by
  cases o with
  | none => trivial
  | some a => exact hf a h

theorem OptKeeps.some {α : Type} {P : α → Prop} {a : α} (h : P a) : OptKeeps P (some a) := h

theorem OptKeeps.pair {α : Type} {s : State} {a : α} (h : s.PcAligned) :
    OptKeeps (·.1.PcAligned) (Option.some (s, a)) := h

theorem Out.PcAligned.next {s : State} (h : s.PcAligned) : Out.PcAligned (.next s) := h

theorem Performed.PcAligned.done {s : State} (h : s.PcAligned) : (Performed.done s).PcAligned := h

theorem Performed.PcAligned.trapped {s : State} (h : s.PcAligned) : (Performed.trapped s).PcAligned := h

theorem Performed.PcAligned.of_done {p : Performed} (h : p.PcAligned) {s : State} (e : p = .done s) :
    s.PcAligned := by
  rw [e] at h; exact h

theorem Performed.PcAligned.of_trapped {p : Performed} (h : p.PcAligned) {s : State} (e : p = .trapped s) :
    s.PcAligned := by
  rw [e] at h; exact h

theorem Work.PcAligned.hold {s : State} {f : Flight} (h : s.PcAligned) : (Work.hold s f).PcAligned := h

theorem Work.PcAligned.more {s : State} {f : Flight} (h : s.PcAligned) : (Work.more s f).PcAligned := h

theorem Work.PcAligned.fin {s : State} {f : Flight} (h : s.PcAligned) : (Work.fin s f).PcAligned := h

theorem Work.PcAligned.of_hold {w : Work} (h : w.PcAligned) {s : State} {f : Flight} (e : w = .hold s f) :
    s.PcAligned := by
  rw [e] at h; exact h

theorem Work.PcAligned.of_more {w : Work} (h : w.PcAligned) {s : State} {f : Flight} (e : w = .more s f) :
    s.PcAligned := by
  rw [e] at h; exact h

theorem Work.PcAligned.of_fin {w : Work} (h : w.PcAligned) {s : State} {f : Flight} (e : w = .fin s f) :
    s.PcAligned := by
  rw [e] at h; exact h

theorem Append.PcAligned.done {s : State} (h : s.PcAligned) : (Append.done s).PcAligned := h

theorem Append.PcAligned.of_done {p : Append} (h : p.PcAligned) {s : State} (e : p = .done s) : s.PcAligned := by
  rw [e] at h; exact h

theorem Out.PcAligned.ite {p : Prop} [Decidable p] {a b : Out} (ha : Out.PcAligned a) (hb : Out.PcAligned b) :
    Out.PcAligned (if p then a else b) := by
  split
  · exact ha
  · exact hb

theorem Performed.PcAligned.ite {p : Prop} [Decidable p] {a b : Performed} (ha : Performed.PcAligned a)
    (hb : Performed.PcAligned b) : Performed.PcAligned (if p then a else b) := by
  split
  · exact ha
  · exact hb

theorem Work.PcAligned.ite {p : Prop} [Decidable p] {a b : Work} (ha : Work.PcAligned a) (hb : Work.PcAligned b) :
    Work.PcAligned (if p then a else b) := by
  split
  · exact ha
  · exact hb

theorem Append.PcAligned.ite {p : Prop} [Decidable p] {a b : Append} (ha : Append.PcAligned a)
    (hb : Append.PcAligned b) : Append.PcAligned (if p then a else b) := by
  split
  · exact ha
  · exact hb

theorem OptKeeps.ite {α : Type} {P : α → Prop} {p : Prop} [Decidable p] {a b : Option α} (ha : OptKeeps P a)
    (hb : OptKeeps P b) : OptKeeps P (if p then a else b) := by
  split
  · exact ha
  · exact hb

theorem State.PcAligned.setCore {s : State} (h : s.PcAligned) {k : Nat} {c : Core} (hc : c.PcAligned) :
    (s.setCore k c).PcAligned := by
  refine ⟨fun j => ?_, h.2⟩
  rw [State.core_setCore]
  split
  · exact hc
  · exact h.1 j

theorem State.PcAligned.setMe {s : State} (h : s.PcAligned) {c : Core} (hc : c.PcAligned) : (s.setMe c).PcAligned :=
  h.setCore hc

theorem State.PcAligned.onCore {s : State} (h : s.PcAligned) {k : Nat} {f : Core → Core}
    (hf : ∀ c, c.PcAligned → (f c).PcAligned) : (s.onCore k f).PcAligned := h.setCore (hf _ h.core)

theorem aligned_iff_mod_four (a : BitVec 16) : a &&& 3#16 = 0#16 ↔ a.toNat % 4 = 0 := by
  rw [← BitVec.toNat_inj, BitVec.toNat_and]
  exact iff_of_eq (congrArg (· = 0) (Nat.and_two_pow_sub_one_eq_mod a.toNat 2))

/-- The next word of an aligned one is aligned (R53). -/
theorem Core.PcAligned.advance {c : Core} (h : c.PcAligned) : c.advance.PcAligned := by
  have hm := (aligned_iff_mod_four _).1 h
  refine (aligned_iff_mod_four _).2 ?_
  show (c.s.pc.toNat + 4) % 65536 % 4 = 0
  omega

/-- Bits [15:2] of an address name a word (R53). -/
theorem pc_of_mask (a : BitVec 16) : (a &&& 0xFFFC#16) &&& 3#16 = 0#16 := by
  rw [BitVec.and_assoc]
  simp

/-- Jumps, traps and returns from them go to a word (R86, R209, R210). -/
theorem Core.PcAligned.jumpTo {c : Core} {a : BitVec 16} : (c.jumpTo a).PcAligned := pc_of_mask a

theorem Core.PcAligned.enterTrap {c : Core} {cause : Nat} {tval : Word} {epc : BitVec 16} :
    (c.enterTrap cause tval epc).PcAligned := pc_of_mask _

theorem Core.PcAligned.leaveTrap {c : Core} : c.leaveTrap.PcAligned := pc_of_mask _

section
/-! The operations of Sys2Proof/Machine/Ops.lean. -/

variable {s : State} {c : Core} {k : Nat}

theorem Core.PcAligned.setX (h : c.PcAligned) {n : XReg} {v : Word} : (c.setX n v).PcAligned :=
  h.ite (h.frame (by rfl))

theorem Core.PcAligned.setT (h : c.PcAligned) {n : TReg} {t : Option Tok} : (c.setT n t).PcAligned :=
  h.ite (h.frame (by rfl))

theorem Core.PcAligned.setP (h : c.PcAligned) {n : PReg} {v : PWord} {p : Bool} : (c.setP n v p).PcAligned :=
  h.ite (h.frame (by rfl))

theorem Core.PcAligned.setA (h : c.PcAligned) {n : AReg} {v : Word} {p : Bool} : (c.setA n v p).PcAligned :=
  h.ite (h.frame (by rfl))

theorem Core.PcAligned.orSst (h : c.PcAligned) {w : Word} : (c.orSst w).PcAligned := h.frame (by rfl)

theorem Core.PcAligned.oox (h : c.PcAligned) {b : Bool} : (c.oox b).PcAligned := (h.frame (by rfl)).ite h

theorem Core.PcAligned.dscw (h : c.PcAligned) {b : Bool} : (c.dscw b).PcAligned := (h.frame (by rfl)).ite h

theorem Core.PcAligned.waitS (h : c.PcAligned) {w : WaitOn} : (c.waitS w).PcAligned := h.frame (by rfl)

theorem State.PcAligned.retireX (h : s.PcAligned) {d : XReg} {v : Word} : (s.retireX d v).PcAligned :=
  h.setMe h.me.setX.advance

theorem State.PcAligned.retire (h : s.PcAligned) : s.retire.PcAligned := h.setMe h.me.advance

theorem State.PcAligned.setPanel (h : s.PcAligned) {b : Nat} {p : Panel} : (s.setPanel b p).PcAligned :=
  h.frame (by rfl)

theorem State.PcAligned.tell (h : s.PcAligned) {e : BenchEvent} : (s.tell e).PcAligned := h.frame (by rfl)

theorem State.PcAligned.draw (h : s.PcAligned) : s.draw.2.PcAligned := h.frame (by rfl)

theorem Core.PcAligned.pendEngTrap (h : c.PcAligned) : c.pendEngTrap.PcAligned := h.frame (by rfl)

theorem Core.PcAligned.setLatch (h : c.PcAligned) : c.setLatch.PcAligned := h.frame (by rfl)

theorem State.PcAligned.endPanelStep (h : s.PcAligned) {cause : Nat} {err : Bool} :
    (s.endPanelStep k cause err).PcAligned := h.foldl fun _ _ h1 => h1.onCore fun _ h2 => h2.frame (by rfl)

theorem State.PcAligned.doubleTrap (h : s.PcAligned) : (s.doubleTrap k).PcAligned :=
  ((h.setCore (h.core.frame (by rfl))).endPanelStep).ite (h.setCore (h.core.frame (by rfl)))

theorem State.PcAligned.trapAt (h : s.PcAligned) {epc : BitVec 16} {cause : Nat} {tval : Word} :
    (s.trapAt k epc cause tval).PcAligned := h.doubleTrap.ite (h.setCore Core.PcAligned.enterTrap)

theorem State.PcAligned.syncTrap (h : s.PcAligned) {cause : Nat} {tval : Word} :
    (s.syncTrap k cause tval).PcAligned := h.trapAt

theorem State.PcAligned.trapMe (h : s.PcAligned) {cause : Nat} {tval : Word} : (s.trapMe cause tval).PcAligned :=
  h.syncTrap

theorem Core.PcAligned.raise (h : c.PcAligned) {n : SemId} {err : Bool} : (c.raise n err).PcAligned :=
  h.ite (h.frame (by rfl))

theorem Core.PcAligned.beginWait (h : c.PcAligned) {n : SemId} {g : Agent} : (c.beginWait n g).PcAligned :=
  h.ite (h.frame (by rfl))

theorem Core.PcAligned.await (h : c.PcAligned) {n : SemId} {g : Agent} {byCommand : Bool} :
    (c.await n g byCommand).1.PcAligned := h.frame (by rfl)

theorem State.PcAligned.withdrawBar (h : s.PcAligned) : (s.withdrawBar k).PcAligned := h.setPanel

theorem State.PcAligned.abandonS (h : s.PcAligned) : (s.abandonS k).PcAligned := by
  unfold State.abandonS
  extract_lets s1
  have h1 : s1.PcAligned := by
    unfold s1
    split
    · exact h.withdrawBar
    · exact h
  exact h1.onCore fun _ h2 => h2.frame (by rfl)

end

section
/-! The operations of Sys2Proof/Machine/Memory.lean. -/

variable {s : State} {c : Core} {k : Nat}

theorem State.PcAligned.setStoreOf (h : s.PcAligned) {e : Site} {m : Store} : (s.setStoreOf e m).PcAligned := by
  unfold State.setStoreOf
  extract_lets
  split
  · exact h.frame (by rfl)
  · exact h.frame (by rfl)
  · exact h.frame (by rfl)
  · exact h.onCore fun _ h1 => h1.frame (by rfl)
  · exact h.onCore fun _ h1 => h1.frame (by rfl)
  · exact h.onCore fun _ h1 => h1.frame (by rfl)

theorem State.PcAligned.verify (h : s.PcAligned) {e : Site} {a n : Nat} : (s.verify e a n).PcAligned :=
  h.foldl fun _ _ h1 => h1.setStoreOf.tell

theorem State.PcAligned.rawGet (h : s.PcAligned) {e : Site} {a n : Nat} : (s.rawGet e a n).1.PcAligned := h.verify

theorem State.PcAligned.noteWindow (h : s.PcAligned) {a z : Nat} : (s.noteWindow a z).PcAligned := h.frame (by rfl)

theorem State.PcAligned.rawPut (h : s.PcAligned) {e : Site} {a : Nat} {d : List PByte} {bytewise : Bool} :
    (s.rawPut e a d bytewise).PcAligned := by
  unfold State.rawPut
  extract_lets _ s1 s2 s3
  have h1 : s1.PcAligned := h.ite h.verify
  have h2 : s2.PcAligned := h1.ite h1.verify
  have h3 : s3.PcAligned := h2.setStoreOf
  split
  · exact h
  · split
    · exact h3.noteWindow.ite h3
    · exact h3

theorem State.PcAligned.finishMig (h : s.PcAligned) {p : MigPair} : (s.finishMig p).PcAligned :=
  (h.rawGet.rawPut.frame (by rfl)).foldl fun _ _ h1 => h1.tell

theorem State.PcAligned.pullLine (h : s.PcAligned) {p : MigPair} {l : Nat} : (s.pullLine p l).PcAligned :=
  h.ite ((h.frame (by rfl)).finishMig.ite (h.frame (by rfl)))

theorem State.PcAligned.touchLine (h : s.PcAligned) {a : Nat} : (s.touchLine a).PcAligned := by
  unfold State.touchLine
  split
  · exact h
  · exact h.pullLine.ite h

theorem State.PcAligned.keyGet (h : s.PcAligned) {a n : Nat} {key : Option (BitVec 13)} :
    (s.keyGet a n key).1.PcAligned := h.rawGet

theorem State.PcAligned.keyPut (h : s.PcAligned) {a : Nat} {d : List PByte} {key : Option (BitVec 13)}
    {bytewise : Bool} : (s.keyPut a d key bytewise).PcAligned := h.rawPut.ite (h.frame (by rfl)).rawPut

theorem State.PcAligned.devGet (h : s.PcAligned) {a n : Nat} {key : Option (BitVec 13)} :
    (s.devGet a n key).1.PcAligned := by
  unfold State.devGet
  split
  · exact h.keyGet
  · refine h.foldl_fst fun t b h1 => ?_
    split
    split
    extract_lets s2
    have h2 : s2.PcAligned := h1.touchLine
    split
    rename_i s3 _ hx1
    have h3 : s3.PcAligned := h2.keyGet.fst hx1
    exact h3

theorem State.PcAligned.devPut (h : s.PcAligned) {a : Nat} {d : List PByte} {key : Option (BitVec 13)}
    {bytewise : Bool} : (s.devPut a d key bytewise).PcAligned :=
  h.keyPut.ite (h.foldl fun _ _ h1 => h1.touchLine.keyPut)

theorem State.PcAligned.fetchLine (h : s.PcAligned) {l : Nat} : (s.fetchLine l).PcAligned := h.ite (h.frame (by rfl))

theorem State.PcAligned.hostGet (h : s.PcAligned) {a n : Nat} : (s.hostGet a n).1.PcAligned :=
  h.foldl_fst fun _ _ h1 => h1.fetchLine.rawGet

theorem State.PcAligned.markStored (h : s.PcAligned) {a n : Nat} : (s.markStored a n).PcAligned := h.frame (by rfl)

theorem State.PcAligned.hostPut (h : s.PcAligned) {a : Nat} {d : List PByte} : (s.hostPut a d).PcAligned :=
  h.foldl fun _ _ h1 => h1.fetchLine.rawPut.markStored

theorem State.PcAligned.noteStored (h : s.PcAligned) {a n : Nat} : (s.noteStored k a n).PcAligned := h.frame (by rfl)

theorem State.PcAligned.freeBytes (h : s.PcAligned) {n : Nat} : (s.freeBytes n).1.PcAligned := by
  induction n generalizing s with
  | zero => exact h
  | succ n ih => exact ih h.draw

theorem State.PcAligned.cleanLine (h : s.PcAligned) {l : Nat} : (s.cleanLine l).PcAligned := h.frame (by rfl)

theorem State.PcAligned.writeBackSector (h : s.PcAligned) {a : Nat} : (s.writeBackSector a).PcAligned := by
  unfold State.writeBackSector
  extract_lets
  split
  · split
    next t _ hx =>
      exact (h.freeBytes.fst hx).rawPut.tell
  · refine h.foldl fun t b ht => ?_
    split
    exact ht.rawPut.ite ht

theorem State.PcAligned.writeBackLine (h : s.PcAligned) {l : Nat} : (s.writeBackLine l).PcAligned :=
  ((h.verify.foldl fun _ _ h1 => h1.writeBackSector).cleanLine).ite h

theorem State.PcAligned.dropLine (h : s.PcAligned) {l : Nat} : (s.dropLine l).PcAligned := by
  unfold State.dropLine
  extract_lets s1 _
  have h1 : s1.PcAligned := h.cleanLine
  exact h1.frame (by rfl)

theorem State.PcAligned.readAt (h : s.PcAligned) {e : Site} {a n : Nat} {key : Option (BitVec 13)} :
    (s.readAt e a n key).1.PcAligned := by
  unfold State.readAt
  split
  · exact h.devGet
  · exact h.hostGet
  · exact h.rawGet

theorem State.PcAligned.writeAt (h : s.PcAligned) {e : Site} {a : Nat} {d : List PByte} {key : Option (BitVec 13)} :
    (s.writeAt e a d key).PcAligned := by
  unfold State.writeAt
  split
  · exact h.devPut
  · exact h.hostPut
  · exact h.rawPut

theorem State.PcAligned.noteBlocked (h : s.PcAligned) {a n : Nat} : (s.noteBlocked a n).PcAligned :=
  (h.frame (by rfl)).ite h

theorem State.PcAligned.physGet (h : s.PcAligned) {a n : Nat} {key : Option (BitVec 13)} :
    (s.physGet a n key).1.PcAligned := h.noteBlocked.devGet

theorem State.PcAligned.physPut (h : s.PcAligned) {a : Nat} {d : List PByte} {key : Option (BitVec 13)}
    {bytewise : Bool} : (s.physPut a d key bytewise).PcAligned := h.noteBlocked.devPut

theorem State.PcAligned.devWord (h : s.PcAligned) {a : Nat} : (s.devWord a).1.PcAligned := h.physGet

end

section
/-! The operations of Sys2Proof/Machine/Tokens.lean. -/

variable {s : State} {c : Core} {k : Nat}

theorem State.PcAligned.reoffer (h : s.PcAligned) {part : Option Nat} : (s.reoffer part).PcAligned := h.frame (by rfl)

theorem State.PcAligned.setClamp (h : s.PcAligned) {host : Bool} {u : Nat} {e : Clamp} :
    (s.setClamp host u e).PcAligned := (h.frame (by rfl)).ite (h.frame (by rfl))

theorem State.PcAligned.pinRun (h : s.PcAligned) {r : Run} : (s.pinRun k r).PcAligned :=
  h.foldl fun _ _ h1 => h1.setClamp

theorem State.PcAligned.unpinRun (h : s.PcAligned) {g : GangId} {r : Run} : (s.unpinRun k g r).PcAligned :=
  h.foldl fun _ _ h1 => h1.setClamp.reoffer.ite h1.setClamp

theorem State.PcAligned.pinRuns (h : s.PcAligned) {rs : List Run} : (s.pinRuns k rs).PcAligned :=
  h.foldl fun _ _ h1 => h1.pinRun

theorem State.PcAligned.unpinRuns (h : s.PcAligned) {g : GangId} {rs : List Run} : (s.unpinRuns k g rs).PcAligned :=
  h.foldl fun _ _ h1 => h1.unpinRun

theorem State.PcAligned.setMte (h : s.PcAligned) {i : Nat} {m : Mte} : (s.setMte k i m).PcAligned :=
  h.onCore fun _ h1 => h1.frame (by rfl)

theorem State.PcAligned.hold (h : s.PcAligned) {t : Option Tok} : (s.hold k t).PcAligned := by
  unfold State.hold
  split
  · exact h
  · exact h.onCore fun _ h1 => h1.frame (by rfl)

theorem State.PcAligned.release (h : s.PcAligned) {t : Option Tok} : (s.release k t).PcAligned := by
  unfold State.release
  split
  · exact h
  · exact ((h.setMte.frame (by rfl)).ite (h.setMte.frame (by rfl)).unpinRuns).ite h.setMte

theorem State.PcAligned.putTok (h : s.PcAligned) {n : TReg} {t : Option Tok} : (s.putTok k n t).PcAligned :=
  h.release.ite ((h.onCore fun _ h1 => h1.setT).release)

theorem State.PcAligned.takeMte (h : s.PcAligned) {m : Mte} : OptKeeps (·.1.PcAligned) (s.takeMte k m) := by
  unfold State.takeMte
  split
  · exact trivial
  · exact .pair h.draw.setMte

theorem State.PcAligned.newMte (h : s.PcAligned) {m : Mte} : OptKeeps (·.1.PcAligned) (s.newMte k m) :=
  h.takeMte.map fun _ h1 => h1.pinRuns

theorem State.PcAligned.onStep (h : s.PcAligned) {f : StepInfo → StepInfo} : (s.onStep k f).PcAligned :=
  h.onCore fun _ h1 => h1.frame (by rfl)

theorem State.PcAligned.segData (h : s.PcAligned) {g : Seg} : (s.segData k g).1.PcAligned := by
  unfold State.segData
  extract_lets r
  have h1 : r.1.PcAligned := h.readAt
  split
  · exact h
  · exact h1

theorem State.PcAligned.storeSeg (h : s.PcAligned) {g : Seg} {d : List PByte} : (s.storeSeg k g d).PcAligned :=
  h.writeAt.noteStored.ite h.writeAt

theorem State.PcAligned.putSeg (h : s.PcAligned) {g : Seg} : (s.putSeg k g).PcAligned := by
  unfold State.putSeg
  extract_lets r s1 _ _ _
  have h1 : r.1.PcAligned := h.segData
  have h2 : s1.PcAligned := h1
  split
  · exact h2.writeAt
  · split
    · exact h2.storeSeg
    · extract_lets s2 s3 s4 s5
      have h3 : s2.PcAligned := h2.ite h2.onStep
      have h4 : s3.PcAligned := h3.onStep.ite h3
      have h5 : s4.PcAligned := h4.onStep
      have h6 : s5.PcAligned := h3.storeSeg
      split
      · split
        · exact h5.endPanelStep.ite h5
        · exact h5
      · exact h6.onStep.ite h6

theorem State.PcAligned.perform (h : s.PcAligned) {q : VisStore} : (s.perform k q).PcAligned :=
  h.foldl fun _ _ h1 => h1.putSeg

theorem State.PcAligned.toPanel (h : s.PcAligned) : (s.toPanel k).PcAligned :=
  h.ite (h.setPanel.onCore fun _ h1 => h1.frame (by rfl))

theorem State.PcAligned.flush (h : s.PcAligned) : (s.flush k).PcAligned := by
  unfold State.flush
  extract_lets s1 _ _ _ s2 _
  have h1 : s1.PcAligned := h.toPanel
  have h2 : s2.PcAligned := h1.foldl fun _ _ h2 => h2.perform
  exact (h2.onCore fun _ h3 => h3.frame (by rfl)).ite h2.setPanel

theorem State.PcAligned.widen (h : s.PcAligned) {sc : Scope} : (s.widen k sc).PcAligned := by
  unfold State.widen
  split
  · exact h
  · exact h.toPanel
  · exact h.flush

theorem State.PcAligned.showAt (h : s.PcAligned) {sc : Scope} {w : VisStore} : (s.showAt k sc w).PcAligned := by
  unfold State.showAt
  extract_lets _ _ _ s1 _ _ _ _ _
  have h1 : s1.PcAligned := h.onCore fun _ h1 => h1.frame (by rfl)
  exact (h.onCore fun _ h2 => h2.frame (by rfl)).ite ((h1.foldl fun _ _ h2 => h2.perform).ite (h1.setPanel.ite
      (h1.setPanel.foldl fun _ _ h2 => h2.perform)))

theorem State.PcAligned.seen (h : s.PcAligned) {e : Site} {a v n : Nat} {key : Option (BitVec 13)} :
    (s.seen k e a v n key).1.PcAligned := h.readAt

theorem State.PcAligned.pieceBytes (h : s.PcAligned) {vb : Nat} {p : Piece} : (s.pieceBytes k vb p).1.PcAligned := by
  unfold State.pieceBytes
  split
  · exact h.seen
  · exact h

theorem State.PcAligned.readPieces (h : s.PcAligned) {t : Option Tok} {n : Nat} {ps : List Piece} :
    (s.readPieces k t n ps).1.PcAligned := h.foldl_fst fun _ _ h1 => h1.pieceBytes

theorem State.PcAligned.dropped (h : s.PcAligned) {vb : Nat} {ps : List Piece} : (s.dropped k vb ps).PcAligned := by
  unfold State.dropped
  split
  · exact h
  · exact (h.onCore fun _ h1 => h1.dscw).tell

theorem State.PcAligned.dropWord (h : s.PcAligned) : (s.dropWord k).PcAligned :=
  (h.onCore fun _ h1 => h1.frame (by rfl)).release

theorem Core.PcAligned.setStores (h : c.PcAligned) {v : Bool} {q : List QStore} : (c.setStores v q).PcAligned :=
  (h.frame (by rfl)).ite (h.frame (by rfl))

theorem Core.PcAligned.setLoads (h : c.PcAligned) {v : Bool} {l : List QLoad} : (c.setLoads v l).PcAligned :=
  (h.frame (by rfl)).ite (h.frame (by rfl))

theorem Core.PcAligned.bump (h : c.PcAligned) {v : Bool} : (c.bump v).PcAligned :=
  (h.frame (by rfl)).ite (h.frame (by rfl))

theorem State.PcAligned.pushStore (h : s.PcAligned) {v : Bool} {q : QStore} : (s.pushStore k v q).PcAligned :=
  ((h.setCore h.core.setStores.bump).hold).ite (h.setCore h.core.setStores.bump)

theorem State.PcAligned.pushLoad (h : s.PcAligned) {v : Bool} {l : QLoad} : (s.pushLoad k v l).PcAligned :=
  ((h.setCore h.core.setLoads.bump).hold).ite (h.setCore h.core.setLoads.bump)

theorem State.PcAligned.twinStop (h : s.PcAligned) : OptKeeps State.PcAligned (s.twinStop k) := by
  unfold State.twinStop
  split
  · exact OptKeeps.ite trivial (.some (h.endPanelStep.onCore fun _ h1 => h1.frame (by rfl)))
  · exact trivial

theorem State.PcAligned.putSegs (h : s.PcAligned) {gs : List Seg} : (s.putSegs gs).PcAligned :=
  h.foldl fun _ _ h1 => h1.writeAt

theorem State.PcAligned.landAll {n : Nat} (h : s.PcAligned) {l : List Inbound} : (State.landAll n s l).PcAligned := by
  induction n generalizing s l with
  | zero => exact h
  | succ n ih => exact h.ite (ih h.draw.putSegs)

theorem State.PcAligned.landWrites (h : s.PcAligned) {f : Inbound → Bool} : (s.landWrites f).PcAligned :=
  (h.frame (by rfl)).landAll

end

section
/-! The operations of Sys2Proof/Machine/Slots.lean. -/

variable {s : State} {c : Core} {k : Nat}

theorem State.PcAligned.spPieceBytes (h : s.PcAligned) {p : SpPiece} : (s.spPieceBytes k p).1.PcAligned := by
  unfold State.spPieceBytes
  split
  · exact h.seen
  · exact h
  · exact h.rawGet
  · exact h

theorem State.PcAligned.spRead (h : s.PcAligned) {v : Bool} {a n : Nat} : (s.spRead k v a n).1.PcAligned :=
  h.foldl_fst fun _ _ h1 => h1.spPieceBytes

end

section
/-! The operations of Sys2Proof/Machine/Sync.lean. -/

variable {s : State} {c : Core} {k : Nat}

theorem Core.PcAligned.setEngine (h : c.PcAligned) {r : RingSel} {e : Engine} : (c.setEngine r e).PcAligned := by
  unfold Core.setEngine
  split
  · exact h.frame (by rfl)
  · exact h.frame (by rfl)
  · exact h.frame (by rfl)

theorem Core.PcAligned.endEngine (h : c.PcAligned) {r : RingSel} {t : EngSt} : (c.endEngine r t).PcAligned :=
  h.setEngine.setLatch

theorem Core.PcAligned.stopV (h : c.PcAligned) {code : Byte} : (c.stopV code).PcAligned :=
  (h.frame (by rfl)).endEngine.pendEngTrap

theorem Core.PcAligned.stopEngine (h : c.PcAligned) {r : RingSel} : (c.stopEngine r).PcAligned :=
  h.endEngine.pendEngTrap

end

section
/-! The operations of Sys2Proof/Machine/VOps.lean. -/

variable {s : State} {c : Core} {k : Nat}

theorem Core.PcAligned.putEls (h : c.PcAligned) {t : ElType} {d : VReg} {all : Bool} {es : List (Option El)} :
    (c.putEls t d all es).PcAligned := h.frame (by rfl)

theorem Core.PcAligned.putActive (h : c.PcAligned) {t : ElType} {g : PReg} {d : VReg} {es : List El} :
    (c.putActive t g d es).PcAligned := h.frame (by rfl)

theorem Core.PcAligned.waitV (h : c.PcAligned) {w : WaitOn} : (c.waitV w).PcAligned := h.frame (by rfl)

theorem State.PcAligned.retireV (h : s.PcAligned) : s.retireV.PcAligned := h.setMe (h.me.frame (by rfl))

theorem State.PcAligned.illegalV (h : s.PcAligned) : s.illegalV.PcAligned := h.setMe h.me.stopV

theorem State.PcAligned.typedV (h : s.PcAligned) {et : ETy} {f : ElType → Core → Core}
    (hf : ∀ t d, d.PcAligned → (f t d).PcAligned) : Out.PcAligned (s.typedV et f) := by
  unfold State.typedV
  split
  · exact .next h.illegalV
  · exact .next ((h.setMe (hf _ _ h.me)).retireV)

end

section
/-! The operations of Sys2Proof/Machine/LoadQueue.lean. -/

variable {s : State} {c : Core} {k : Nat}

theorem State.PcAligned.land (h : s.PcAligned) {g : Agent} {gs : List Seg} : (s.land k g gs).PcAligned := by
  unfold State.land
  extract_lets _ s1 _
  have h1 : s1.PcAligned := h.foldl fun _ _ h1 => h1.putSeg
  exact h1.ite (h1.onCore fun _ h2 => h2.frame (by rfl))

theorem State.PcAligned.findStore (h : s.PcAligned) {v : Bool} {q : QStore} :
    OptKeeps (·.1.PcAligned) (s.findStore k v q) := by
  unfold State.findStore
  extract_lets
  split
  · exact trivial
  · exact .pair h
  · exact .pair ((h.onCore fun _ h1 => h1.oox).dropped)

theorem State.PcAligned.popStore (h : s.PcAligned) {v : Bool} : OptKeeps State.PcAligned (s.popStore k v) := by
  unfold State.popStore
  extract_lets
  split
  · exact trivial
  · extract_lets
    split
    · exact trivial
    · split
      · exact OptKeeps.ite (.some ((h.onCore fun _ h1 => h1.setStores).widen)) trivial
      · exact .some ((h.onCore fun _ h1 => h1.setStores).land)
      · exact .some ((h.onCore fun _ h1 => h1.setStores).onCore fun _ h1 => h1.frame (by rfl))
      · split
        · exact trivial
        next s1 _ hx5 =>
          have h1 : s1.PcAligned := h.findStore.get hx5
          extract_lets s2
          have h2 : s2.PcAligned := (h1.onCore fun _ h2 => h2.setStores).land
          exact OptKeeps.ite trivial (.some (h2.release.ite h2))

theorem State.PcAligned.readV (h : s.PcAligned) {tok : Option Tok} {n : Nat} {rs : List (Nat × Nat × Nat)} :
    OptKeeps (·.1.PcAligned) (s.readV k tok n rs) := by
  unfold State.readV
  split
  · exact trivial
  · exact .pair h
  · exact .pair (h.readPieces.onCore fun _ h1 => h1.oox)

theorem State.PcAligned.vldEls (h : s.PcAligned) {tok : Option Tok} {off : Nat} {t : ElType} {act : List Bool}
    {pat : Option (List Byte)} {raw : Bool} : OptKeeps (·.1.PcAligned) (s.vldEls k tok off t act pat raw) :=
  h.readV.map fun _ h1 => h1

theorem State.PcAligned.vldsEls (h : s.PcAligned) {a : Nat} {t : ElType} {act : List Bool} :
    (s.vldsEls k a t act).1.PcAligned := by
  unfold State.vldsEls
  extract_lets r _
  have hr : r.1.PcAligned := by
    refine h.foldl_fst fun _ _ h1 => ?_
    dsimp only
    exact h1.spRead
  dsimp only
  exact hr.onCore fun _ hc => hc.oox

theorem State.PcAligned.vgathEls (h : s.PcAligned) {tok : Option Tok} {t : ElType} {act : List Bool} {offs : List Nat}
    {elems : Bool} : OptKeeps (·.1.PcAligned) (s.vgathEls k tok t act offs elems) := h.readV.map fun _ h1 => h1

theorem State.PcAligned.loadTrap (h : s.PcAligned) {pc : BitVec 16} : (s.loadTrap k pc).PcAligned := by
  unfold State.loadTrap
  split
  · exact .trapped h.trapAt
  · exact Performed.PcAligned.ite (.trapped h.abandonS.trapAt) trivial
  · exact trivial

theorem State.PcAligned.rmw (h : s.PcAligned) {l : QLoad} {older : List QStore} {d : XReg} {n : Nat} {sc : Scope}
    {f : Nat → Option Nat} {done : State → State} (hdone : ∀ t, t.PcAligned → (done t).PcAligned) :
    (s.rmw k l older d n sc f done).PcAligned := by
  unfold State.rmw
  extract_lets
  split
  · exact trivial
  · exact .done (hdone _ (h.onCore fun _ h1 => h1.setX))
  · extract_lets r _
    have h1 : r.1.PcAligned := h.readPieces
    split
    · exact .done (hdone _ ((h.onCore fun _ h2 => h2.oox).onCore fun _ h2 => h2.setX))
    · split
      · exact .done (hdone _ (h.dropped.onCore fun _ h2 => h2.setX))
      · split
        · exact (hdone _ h1).loadTrap
        · split
          · exact .done (hdone _ (h1.onCore fun _ h2 => h2.setX))
          · exact Performed.PcAligned.ite trivial (.done (hdone _ (h1.showAt.onCore fun _ h2 => h2.setX)))

theorem State.PcAligned.performLoad (h : s.PcAligned) {v : Bool} : (s.performLoad k v).PcAligned := by
  unfold State.performLoad
  extract_lets setX put
  have hset : ∀ {t : State} {d : XReg} {b : List PByte}, t.PcAligned → (setX t d b).PcAligned := fun ht =>
    ht.onCore fun _ hc => hc.setX
  have hput : ∀ {t : State} {ty : ElType} {d : VReg} {p : Bool} {es : List (Option El)}, t.PcAligned →
      (put t ty d p es).PcAligned := fun ht => ht.onCore fun _ hc => hc.putEls
  clear_value setX put
  split
  · trivial
  next l ls _ =>
    extract_lets older done r
    have hdone : ∀ t, t.PcAligned → (done t).PcAligned := fun t ht => by
      have hq : (t.onCore k (fun c => c.setLoads v ls)).PcAligned := ht.onCore fun _ hc => hc.setLoads
      exact hq.release.ite hq
    have hr : r.1.PcAligned := h.spRead
    clear_value done r
    refine .ite trivial ?_
    split
    · exact .done (hdone _ h)
    · extract_lets t
      have ht : t.PcAligned := (hdone _ h).widen
      exact .ite trivial (.ite (.done ht) trivial)
    · split
      · trivial
      · exact .done (hdone _ (hset h))
      · extract_lets q
        have hq : q.1.PcAligned := h.readPieces
        exact .ite (hdone _ hq).loadTrap (.done (hdone _ (hset (hq.onCore fun _ hc => hc.oox))))
    · exact .ite (hdone _ hr).loadTrap (.done (hdone _ (hset (hr.onCore fun _ hc => hc.oox))))
    · exact h.rmw hdone
    · exact h.rmw hdone
    · split
      · exact .done (hdone _ h)
      · split
        · trivial
        next q hq => exact .done (hdone _ (hput (h.vldEls.get hq)))
    · split
      · exact .done (hdone _ h)
      · exact .done (hdone _ (hput h.vldsEls))
    · split
      · exact .done (hdone _ h)
      · split
        · trivial
        next q hq => exact .done (hdone _ (hput (h.vgathEls.get hq)))

theorem State.PcAligned.runQueues {n : Nat} (h : s.PcAligned) {v : Bool} {g : Goal} :
    (State.runQueues n s k v g).1.PcAligned := by
  induction n generalizing s with
  | zero => exact h
  | succ n ih =>
    unfold State.runQueues
    split
    · exact h
    · split
      next t ht =>
        split at ht
        · exact ih (h.popStore.get ht)
        · cases ht
      · split
        next t ht => exact ih (h.performLoad.of_done ht)
        next t ht => exact h.performLoad.of_trapped ht
        · split
          next ht => exact ih (h.popStore.get ht)
          · exact h

theorem State.PcAligned.runAll (h : s.PcAligned) {v : Bool} {g : Goal} : (s.runAll k v g).1.PcAligned := h.runQueues

theorem State.PcAligned.settleFor (h : s.PcAligned) {v : Bool} {g : Goal} {sc : Scope} :
    (s.settleFor k v g sc).1.PcAligned := by
  unfold State.settleFor
  extract_lets r
  have h1 : r.1.PcAligned := h.runAll
  split
  · exact h1
  · split
    · exact h1.ite h1.widen
    · exact h1

theorem State.PcAligned.settle (h : s.PcAligned) {v : Bool} {sc : Scope} : (s.settle k v sc).1.PcAligned :=
  h.settleFor

theorem State.PcAligned.settleStores (h : s.PcAligned) {v : Bool} {sc : Scope} :
    (s.settleStores k v sc).1.PcAligned := h.settleFor

theorem State.PcAligned.onceS (h : s.PcAligned) {g : Goal} {sc : Scope} {w : WaitOn} {f : State → State}
    (hf : ∀ t, t.PcAligned → (f t).PcAligned) : (s.onceS g sc w f).PcAligned := by
  unfold State.onceS
  split
  next s1 hx =>
    have h1 : s1.PcAligned := h.settleFor.fst hx
    exact hf _ h1
  next s1 hx =>
    have h1 : s1.PcAligned := h.settleFor.fst hx
    exact h1.setMe (h1.me.frame (by rfl))
  next s1 hx =>
    have h1 : s1.PcAligned := h.settleFor.fst hx
    exact h1

theorem State.PcAligned.releaseS (h : s.PcAligned) {sc : Scope} {f : State → State}
    (hf : ∀ t, t.PcAligned → (f t).PcAligned) : (s.releaseS sc f).PcAligned := h.onceS hf

theorem State.PcAligned.storesS (h : s.PcAligned) {sc : Scope} {f : State → State}
    (hf : ∀ t, t.PcAligned → (f t).PcAligned) : (s.storesS sc f).PcAligned := h.onceS hf

theorem State.PcAligned.releaseV (h : s.PcAligned) {sc : Scope} {f : State → State}
    (hf : ∀ t, t.PcAligned → (f t).PcAligned) : (s.releaseV sc f).PcAligned := by
  unfold State.releaseV
  split
  next s1 hx =>
    have h1 : s1.PcAligned := h.settle.fst hx
    exact hf _ h1
  next s1 _ _ hx1 =>
    have h1 : s1.PcAligned := h.settle.fst hx1
    exact h1.setMe (h1.me.frame (by rfl))

theorem State.PcAligned.runReads {m : Nat} (h : s.PcAligned) {v : Bool} {a n : Nat} :
    (State.runReads m s k v a n).1.PcAligned := by
  induction m generalizing s with
  | zero => exact h.runAll
  | succ m ih =>
    unfold State.runReads
    extract_lets r
    have hr : r.1.PcAligned := h.runAll
    split
    · exact hr
    · split
      next ht => exact ih (hr.popStore.get ht)
      · exact hr

theorem State.PcAligned.afterReads (h : s.PcAligned) {a n : Nat} {f : State → State}
    (hf : ∀ t, t.PcAligned → (f t).PcAligned) : (s.afterReads a n f).PcAligned :=
  h.runReads.ite ((hf _ h.runReads).ite (h.runReads.setMe (h.runReads.me.frame (by rfl))))

theorem State.PcAligned.afterReadsV (h : s.PcAligned) {a n : Nat} {f : State → State}
    (hf : ∀ t, t.PcAligned → (f t).PcAligned) : (s.afterReadsV a n f).PcAligned :=
  (hf _ h.runReads).ite (h.runReads.setMe (h.runReads.me.frame (by rfl)))

theorem State.PcAligned.runUses {m : Nat} (h : s.PcAligned) {t : Option Tok} :
    (State.runUses m s k t).1.PcAligned := by
  induction m generalizing s with
  | zero => exact h
  | succ m ih =>
    have hp : (if (s.core k).s.loads.any (fun l => l.tok == t) then s.performLoad k false else .waits).PcAligned := by
      split
      · exact h.performLoad
      · trivial
    unfold State.runUses
    split
    · exact h
    · split
      next u hu => exact ih (hp.of_done hu)
      next u hu => exact hp.of_trapped hu
      · split
        next u hu => exact ih (h.popStore.get hu)
        · split
          next u hu => exact ih (h.performLoad.of_done hu)
          next hu => exact h.performLoad.of_trapped hu
          · exact h

theorem State.PcAligned.afterUses (h : s.PcAligned) {t : Option Tok} {f : State → State}
    (hf : ∀ t, t.PcAligned → (f t).PcAligned) : (s.afterUses t f).PcAligned :=
  h.runUses.ite ((hf _ h.runUses).ite (h.runUses.setMe (h.runUses.me.frame (by rfl))))

theorem State.PcAligned.eager (h : s.PcAligned) {v : Bool} : (s.eager v).PcAligned := h.ite h.runAll

theorem State.PcAligned.loadS (h : s.PcAligned) {l : QLoad} : (s.loadS l).PcAligned := h.pushLoad.retire.eager

theorem State.PcAligned.loadV (h : s.PcAligned) {l : QLoad} : (s.loadV l).PcAligned := h.pushLoad.retireV.eager

theorem State.PcAligned.drain (h : s.PcAligned) : (s.drain k).PcAligned := h.runAll.runAll.flush

end

section
/-! The operations of Sys2Proof/Machine/Csr.lean. -/

variable {s : State} {c : Core} {k : Nat}

theorem Core.PcAligned.setCsr (h : c.PcAligned) {n : Nat} {v : Word} : (c.setCsr n v).PcAligned := by
  unfold Core.setCsr Core.onS
  split <;> exact h.frame (by rfl)

theorem State.PcAligned.afterFlags (h : s.PcAligned) {n : Nat} {f : State → State}
    (hf : ∀ t, t.PcAligned → (f t).PcAligned) : (s.afterFlags n f).PcAligned := (h.releaseS hf).ite (hf _ h)

theorem State.PcAligned.csrOp (h : s.PcAligned) {d : XReg} {c : BitVec 11} {f : Option (Word → Word)} :
    (s.csrOp d c f).PcAligned := by
  unfold State.csrOp
  extract_lets
  split
  · exact h.trapMe
  · exact h.afterFlags fun _ h1 => h1.retireX
  · exact h.trapMe
  · exact h.trapMe.ite (h.afterFlags fun _ h1 => h1.setMe h1.me.setCsr.setX.advance)

theorem execCsrr_pcAligned {_st : SStall} {d : XReg} {c : BitVec 11} (h : s.PcAligned) :
    Out.PcAligned (execCsrr _st d c s) := .next h.csrOp

theorem execCsrw_pcAligned {_st : SStall} {d a : XReg} {c : BitVec 11} (h : s.PcAligned) :
    Out.PcAligned (execCsrw _st d a c s) := .next h.csrOp

theorem execCsrs_pcAligned {_st : SStall} {d a : XReg} {c : BitVec 11} (h : s.PcAligned) :
    Out.PcAligned (execCsrs _st d a c s) := .next h.csrOp

theorem execCsrc_pcAligned {_st : SStall} {d a : XReg} {c : BitVec 11} (h : s.PcAligned) :
    Out.PcAligned (execCsrc _st d a c s) := .next h.csrOp

theorem execTrap_pcAligned {_st : SStall} {code : BitVec 8} (h : s.PcAligned) : Out.PcAligned (execTrap _st code s) :=
  .next h.trapMe

theorem execBkpt_pcAligned {_st : SStall} (h : s.PcAligned) : Out.PcAligned (execBkpt _st s) := .next h.trapMe

theorem execEret_pcAligned {_st : SStall} (h : s.PcAligned) : Out.PcAligned (execEret _st s) :=
  Out.PcAligned.ite (.next h.trapMe) (.next (h.setMe Core.PcAligned.leaveTrap))

theorem State.PcAligned.joinAll (h : s.PcAligned) {f : State → State} (hf : ∀ t, t.PcAligned → (f t).PcAligned) :
    (s.joinAll f).PcAligned := by
  unfold State.joinAll
  extract_lets r
  have h1 : r.1.PcAligned := h.settleStores
  exact (h.setMe (h.me.frame (by rfl))).ite ((h1.onceS hf).ite (h1.setMe (h1.me.frame (by rfl))))

theorem execHalt_pcAligned {_st : SStall} (h : s.PcAligned) : Out.PcAligned (execHalt _st s) :=
  .next (h.joinAll fun _ h1 => h1.onCore fun _ h2 => h2.frame (by rfl))

theorem execWfi_pcAligned {_st : SStall} (h : s.PcAligned) : Out.PcAligned (execWfi _st s) :=
  Out.PcAligned.ite (.next (h.setMe (h.me.frame (by rfl)).advance)) (.next (h.setMe (h.me.frame (by rfl))))

theorem State.PcAligned.asyncTrap (h : s.PcAligned) : (s.asyncTrap k).PcAligned := by
  have ht : ∀ (c : Core) (cause : Nat), ((c.enterTrap cause 0 c.s.pc).onS fun t => { t with pendLost := false }).PcAligned :=
    fun c cause => pc_of_mask (c.s.tvec.setWidth 16)
  have he : ∀ (c : Core) (cause : Nat), ((c.enterTrap cause 0 c.s.pc).onS fun t => { t with pendEng := false }).PcAligned :=
    fun c cause => pc_of_mask (c.s.tvec.setWidth 16)
  exact h.ite ((h.abandonS.onCore fun c _ => ht c _).ite (h.abandonS.onCore fun c _ => he c _))

theorem execTakeAsyncTrap_pcAligned {core : CoreId} (h : s.PcAligned) : Out.PcAligned (execTakeAsyncTrap core s) :=
  .next h.asyncTrap

theorem execStreamWake_pcAligned {core : CoreId} {ag : Agent} (h : s.PcAligned) :
    Out.PcAligned (execStreamWake core ag s) := by
  unfold execStreamWake
  extract_lets
  split
  · split
    · exact Out.PcAligned.ite (.next h) (.next (h.frame (by rfl)))
    · exact .next h
  · split
    · exact Out.PcAligned.ite (.next (h.setCore (h.core.frame (by rfl)))) (.next h)
    · exact .next h
  · exact .next h

end

section
/-! The operations of Sys2Proof/Machine/Template.lean. -/

variable {s : State} {c : Core} {k : Nat}

theorem State.PcAligned.apertureStore (h : s.PcAligned) {o : Nat} {v : Word} :
    OptKeeps State.PcAligned (s.apertureStore k o v) := by
  unfold State.apertureStore
  extract_lets
  exact OptKeeps.ite (.some h.pushStore) (OptKeeps.ite (.some (h.setCore h.core.oox)) (OptKeeps.ite (.some (h.setCore
      h.core.oox)) (OptKeeps.ite trivial (.some h.pushStore.hold))))

end

section
/-! The operations of Sys2Proof/Machine/TokenMem.lean. -/

variable {s : State} {c : Core} {k : Nat}

theorem State.PcAligned.loadTok (h : s.PcAligned) {d : XReg} {t : TReg} {off size : Nat} :
    (s.loadTok d t off size).PcAligned := h.loadS

theorem State.PcAligned.storeTok (h : s.PcAligned) {d : XReg} {t : TReg} {off size : Nat} :
    (s.storeTok d t off size).PcAligned := h.pushStore.retire

theorem execLdb_pcAligned {_st : SStall} {d : XReg} {t : TReg} {o : XReg} {imm : BitVec 6} (h : s.PcAligned) :
    Out.PcAligned (execLdb _st d t o imm s) := .next h.loadTok

theorem execLdh_pcAligned {_st : SStall} {d : XReg} {t : TReg} {o : XReg} {imm : BitVec 6} (h : s.PcAligned) :
    Out.PcAligned (execLdh _st d t o imm s) := .next h.loadTok

theorem execLdw_pcAligned {_st : SStall} {d : XReg} {t : TReg} {o : XReg} {imm : BitVec 6} (h : s.PcAligned) :
    Out.PcAligned (execLdw _st d t o imm s) := .next h.loadTok

theorem execLdd_pcAligned {_st : SStall} {d : XReg} {t : TReg} {o : XReg} {imm : BitVec 6} (h : s.PcAligned) :
    Out.PcAligned (execLdd _st d t o imm s) := .next h.loadTok

theorem execStb_pcAligned {_st : SStall} {d : XReg} {t : TReg} {o : XReg} {imm : BitVec 6} (h : s.PcAligned) :
    Out.PcAligned (execStb _st d t o imm s) := .next h.storeTok

theorem execSth_pcAligned {_st : SStall} {d : XReg} {t : TReg} {o : XReg} {imm : BitVec 6} (h : s.PcAligned) :
    Out.PcAligned (execSth _st d t o imm s) := .next h.storeTok

theorem execStw_pcAligned {_st : SStall} {d : XReg} {t : TReg} {o : XReg} {imm : BitVec 6} (h : s.PcAligned) :
    Out.PcAligned (execStw _st d t o imm s) := .next h.storeTok

theorem execStd_pcAligned {_st : SStall} {d : XReg} {t : TReg} {o : XReg} {imm : BitVec 6} (h : s.PcAligned) :
    Out.PcAligned (execStd _st d t o imm s) := .next h.storeTok

theorem State.PcAligned.atomic (h : s.PcAligned) {l : QLoad} : (s.atomic l).PcAligned := by
  unfold State.atomic
  split
  next s1 hx =>
    have h1 : s1.PcAligned := h.twinStop.get hx
    exact h1
  · exact h.loadS

theorem execAmo_pcAligned {_st : SStall} {d : XReg} {t : TReg} {o : XReg} {f : AmoOp} {dw : Bool} {sc : Scope}
    (h : s.PcAligned) : Out.PcAligned (execAmo _st d t o f dw sc s) := .next h.atomic

theorem execCas_pcAligned {_st : SStall} {d : XReg} {t : TReg} {o : XReg} {imm : BitVec 6} (h : s.PcAligned) :
    Out.PcAligned (execCas _st d t o imm s) := .next h.atomic

theorem execLds_pcAligned {_st : SStall} {d a : XReg} {imm : BitVec 11} (h : s.PcAligned) :
    Out.PcAligned (execLds _st d a imm s) := .next h.loadS

theorem State.PcAligned.storeSp (h : s.PcAligned) {a : Nat} {v : Word} : (s.storeSp a v).PcAligned := by
  unfold State.storeSp
  extract_lets ps _ s1
  have h1 : s1.PcAligned := h.onCore fun _ h1 => h1.oox
  clear_value ps
  split
  · split
    next s2 hx =>
      have h2 : s2.PcAligned := h.apertureStore.get hx
      exact h2.retire
    · exact h.setMe (h.me.frame (by rfl))
  · exact h1.retire.ite h1.pushStore.retire

theorem execSts_pcAligned {_st : SStall} {d a : XReg} {imm : BitVec 11} (h : s.PcAligned) :
    Out.PcAligned (execSts _st d a imm s) := .next h.storeSp

theorem execSps_pcAligned {_st : SStall} {d : XReg} {slot : BitVec 10} (h : s.PcAligned) :
    Out.PcAligned (execSps _st d slot s) := .next (h.setMe (h.me.frame (by rfl)).advance)

theorem execSpl_pcAligned {_st : SStall} {d : XReg} {slot : BitVec 10} (h : s.PcAligned) :
    Out.PcAligned (execSpl _st d slot s) := .next h.retireX

end

section
/-! The operations of Sys2Proof/Machine/VMem.lean. -/

variable {s : State} {c : Core} {k : Nat}

theorem State.PcAligned.storeTokV (h : s.PcAligned) {tok : Option Tok} {w : VStore} :
    (s.storeTokV tok w).PcAligned := by
  unfold State.storeTokV
  split
  · exact h.setMe (h.me.frame (by rfl))
  · exact h.pushStore.retireV

theorem State.PcAligned.loadTokV (h : s.PcAligned) {l : QLoad} : (s.loadTokV l).PcAligned := by
  unfold State.loadTokV
  split
  · exact h.setMe (h.me.frame (by rfl))
  · exact h.loadV

theorem execVld_pcAligned {et : ETy} {_st : VStall} {g : PReg} {d : VReg} {t : TReg} {o : AReg} {gauge raw : Bool}
    (h : s.PcAligned) : Out.PcAligned (execVld et _st g d t o gauge raw s) := by
  unfold execVld
  extract_lets
  split
  · exact .next h.illegalV
  · exact .next h.loadTokV

theorem State.PcAligned.storeV (h : s.PcAligned) {et : ETy} {t : ElType} {g : PReg} {d : VReg} {tr : TReg} {o : AReg}
    {raw : Bool} : (s.storeV et t g d tr o raw).PcAligned := h.storeTokV

theorem execVst_pcAligned {et : ETy} {_st : VStall} {g : PReg} {d : VReg} {t : TReg} {o : AReg} {raw : Bool}
    (h : s.PcAligned) : Out.PcAligned (execVst et _st g d t o raw s) := by
  unfold execVst
  split
  · exact .next h.illegalV
  · exact .next h.storeV

theorem execVlds_pcAligned {et : ETy} {_st : VStall} {g : PReg} {d : VReg} {b : AReg} {imm : BitVec 7}
    (h : s.PcAligned) : Out.PcAligned (execVlds et _st g d b imm s) := by
  unfold execVlds
  extract_lets
  split
  · exact .next h.illegalV
  · exact .next h.loadV

theorem State.PcAligned.storeSpV (h : s.PcAligned) {a : Nat} {d : List PByte} {mask : List Byte}
    {runs : List (Nat × Nat)} : (s.storeSpV a d mask runs).PcAligned :=
  (h.onCore fun _ h1 => h1.oox).ite ((h.onCore fun _ h1 => h1.oox).pushStore)

theorem execVsts_pcAligned {et : ETy} {_st : VStall} {g : PReg} {d : VReg} {b : AReg} {imm : BitVec 7}
    (h : s.PcAligned) : Out.PcAligned (execVsts et _st g d b imm s) := by
  unfold execVsts
  extract_lets
  split
  · exact .next h.illegalV
  · exact .next h.storeSpV.retireV

theorem execVgath_pcAligned {et : ETy} {_st : VStall} {g : PReg} {d : VReg} {t : TReg} {b : VReg} {elems : Bool}
    (h : s.PcAligned) : Out.PcAligned (execVgath et _st g d t b elems s) := by
  unfold execVgath
  extract_lets
  split
  · exact .next h.illegalV
  · exact .next h.loadTokV

theorem State.PcAligned.scatterV (h : s.PcAligned) {et : ETy} {t : ElType} {g : PReg} {d : VReg} {tr : TReg}
    {b : VReg} {elems : Bool} : (s.scatterV et t g d tr b elems).PcAligned := h.storeTokV

theorem execVscat_pcAligned {et : ETy} {_st : VStall} {g : PReg} {d : VReg} {t : TReg} {b : VReg} {elems : Bool}
    (h : s.PcAligned) : Out.PcAligned (execVscat et _st g d t b elems s) := by
  unfold execVscat
  split
  · exact .next h.illegalV
  · exact .next h.scatterV

end

section
/-! The operations of Sys2Proof/Machine/VSync.lean. -/

variable {s : State} {c : Core} {k : Nat}

theorem execVslotAcq_pcAligned {_st : VStall} {d : AReg} {n : RingId} (h : s.PcAligned) :
    Out.PcAligned (execVslotAcq _st d n s) := by
  unfold execVslotAcq
  extract_lets
  exact Out.PcAligned.ite (.next h.illegalV) (Out.PcAligned.ite (.next (h.setMe (h.me.frame (by rfl)))) (.next ((h.setMe
      (h.me.frame (by rfl)).setA).retireV)))

theorem execVslotCommit_pcAligned {_st : VStall} {n : RingId} (h : s.PcAligned) :
    Out.PcAligned (execVslotCommit _st n s) :=
  Out.PcAligned.ite (.next h.illegalV) (.next (h.releaseV fun _ h1 => (h1.setMe (h1.me.frame (by rfl))).retireV))

theorem execVslotAwait_pcAligned {_st : VStall} {d : AReg} {n : RingId} (h : s.PcAligned) :
    Out.PcAligned (execVslotAwait _st d n s) := by
  unfold execVslotAwait
  extract_lets
  exact Out.PcAligned.ite (.next h.illegalV) (Out.PcAligned.ite (.next (h.setMe (h.me.frame (by rfl)))) (.next ((h.setMe
      (h.me.frame (by rfl)).setA).retireV)))

theorem execVslotRel_pcAligned {_st : VStall} {n : RingId} (h : s.PcAligned) : Out.PcAligned (execVslotRel _st n s) :=
  Out.PcAligned.ite (.next h.illegalV) (.next (h.releaseV fun _ h1 => (h1.setMe (h1.me.frame (by rfl))).retireV))

theorem execVsetfSetfmt_pcAligned {_st : VStall} {k : BitVec 4} (h : s.PcAligned) :
    Out.PcAligned (execVsetfSetfmt _st k s) := .next ((h.setMe (h.me.frame (by rfl))).retireV)

theorem execVsetfSelpat_pcAligned {_st : VStall} {en : Bool} {k : BitVec 3} (h : s.PcAligned) :
    Out.PcAligned (execVsetfSelpat _st en k s) := .next ((h.setMe (h.me.frame (by rfl))).retireV)

theorem execVsetfLdpat_pcAligned {_st : VStall} {reg : AReg} {k : BitVec 3} (h : s.PcAligned) :
    Out.PcAligned (execVsetfLdpat _st reg k s) := by
  unfold execVsetfLdpat
  refine Out.PcAligned.next ?_
  refine State.PcAligned.afterReadsV h (fun _ h1 => h1.spRead.illegalV.ite ((h1.spRead.setMe
      (h1.spRead.me.oox.frame (by rfl))).retireV))

theorem State.PcAligned.predV (h : s.PcAligned) {d : PReg} {v : PWord} {p : Bool} : (s.predV d v p).PcAligned :=
  (h.setMe h.me.setP).retireV

theorem execPand_pcAligned {_st : VStall} {d a b : PReg} (h : s.PcAligned) : Out.PcAligned (execPand _st d a b s) :=
  .next h.predV

theorem execPor_pcAligned {_st : VStall} {d a b : PReg} (h : s.PcAligned) : Out.PcAligned (execPor _st d a b s) :=
  .next h.predV

theorem execPxor_pcAligned {_st : VStall} {d a b : PReg} (h : s.PcAligned) : Out.PcAligned (execPxor _st d a b s) :=
  .next h.predV

theorem execPnot_pcAligned {_st : VStall} {d a : PReg} (h : s.PcAligned) : Out.PcAligned (execPnot _st d a s) :=
  .next h.predV

theorem execPcnt_pcAligned {et : ETy} {_st : VStall} {d : AReg} {a : PReg} (h : s.PcAligned) :
    Out.PcAligned (execPcnt et _st d a s) := h.typedV fun _ _ h1 => h1.setA

theorem execPfirst_pcAligned {et : ETy} {_st : VStall} {d : AReg} {a : PReg} (h : s.PcAligned) :
    Out.PcAligned (execPfirst et _st d a s) := h.typedV fun _ _ h1 => h1.setA

theorem execArecv_pcAligned {_st : VStall} {d : AReg} {m : BitVec 4} (h : s.PcAligned) :
    Out.PcAligned (execArecv _st d m s) := by
  unfold execArecv
  extract_lets
  split
  · exact .next (h.setMe (h.me.frame (by rfl)))
  · exact .next ((h.setMe (h.me.frame (by rfl)).setA.setA).retireV)

theorem execAopImm_pcAligned {f : AopFn} {_st : VStall} {d a : AReg} {imm : BitVec 12} (h : s.PcAligned) :
    Out.PcAligned (execAopImm f _st d a imm s) := .next ((h.setMe h.me.setA).retireV)

theorem execAopReg_pcAligned {f : AopFn} {_st : VStall} {d a b : AReg} (h : s.PcAligned) :
    Out.PcAligned (execAopReg f _st d a b s) := .next ((h.setMe h.me.setA).retireV)

theorem execVpost_pcAligned {_st : VStall} {n : SemId} (h : s.PcAligned) : Out.PcAligned (execVpost _st n s) :=
  .next (h.releaseV fun _ h1 => (h1.setMe h1.me.raise).retireV)

theorem execVwait_pcAligned {_st : VStall} {n : SemId} (h : s.PcAligned) : Out.PcAligned (execVwait _st n s) :=
  Out.PcAligned.ite (.next ((h.setMe h.me.await).retireV)) (.next (h.setMe h.me.beginWait.waitV))

theorem execVmark_pcAligned {_st : VStall} {sc : Scope} (h : s.PcAligned) : Out.PcAligned (execVmark _st sc s) :=
  .next h.loadV

theorem execVloop_pcAligned {_st : VStall} {len : BitVec 5} {count : BitVec 16} (h : s.PcAligned) :
    Out.PcAligned (execVloop _st len count s) := by
  unfold execVloop
  split
  · exact .next h.illegalV
  · exact .next (h.setMe (h.me.frame (by rfl)))

theorem execVend_pcAligned (h : s.PcAligned) : Out.PcAligned (execVend s) :=
  Out.PcAligned.ite (.next h.retireV) (.next (h.setMe (h.me.frame (by rfl)).endEngine))

end

section
/-! The operations of Sys2Proof/Machine/EngineOps.lean. -/

variable {s : State} {c : Core} {k : Nat}

theorem State.PcAligned.engGet (h : s.PcAligned) {a n : Nat} : (s.engGet k a n).1.PcAligned :=
  h.foldl_fst fun _ _ h1 => h1.spPieceBytes

theorem State.PcAligned.engStore (h : s.PcAligned) {gs : List Seg} : (s.engStore k gs).PcAligned :=
  h.ite (h.onCore fun _ h1 => h1.frame (by rfl))

theorem State.PcAligned.engPut (h : s.PcAligned) {a : Nat} {d : List PByte} : (s.engPut k a d).1.PcAligned :=
  h.engStore

theorem State.PcAligned.extGet (h : s.PcAligned) {t : Option Tok} {n : Nat} {rs : List (Nat × Nat × Nat)} :
    OptKeeps (·.1.PcAligned) (s.extGet k t n rs) := by
  unfold State.extGet
  extract_lets
  split
  · exact trivial
  · exact .pair h
  · exact OptKeeps.ite (.pair h) (.pair h.readPieces)

theorem State.PcAligned.extPut (h : s.PcAligned) {t : Option Tok} {d : List PByte} {rs : List (Nat × Nat × Nat)} :
    OptKeeps (·.1.PcAligned) (s.extPut k t d rs) := by
  unfold State.extPut
  extract_lets
  split
  · exact trivial
  · exact .pair h
  · exact OptKeeps.ite (.pair h) (.pair h.engStore)

theorem State.PcAligned.takeSlot (h : s.PcAligned) {n : RingId} {join : Bool} {f : Flight} :
    OptKeeps (·.1.PcAligned) (s.takeSlot k n join f) := by
  unfold State.takeSlot
  extract_lets
  split
  · exact .pair h
  · split
    · exact trivial
    · exact .pair (h.onCore fun _ h1 => h1.frame (by rfl))

theorem State.PcAligned.fillSlot (h : s.PcAligned) {o : Nat} {d : List PByte} {f : Flight} :
    (s.fillSlot k o d f).1.PcAligned := by
  unfold State.fillSlot
  split
  · exact h
  · exact (h.onCore fun _ h1 => h1.frame (by rfl)).engPut

theorem State.PcAligned.deliver (h : s.PcAligned) {g : Bool} {a : Nat} {d : List PByte} {f : Flight} :
    (s.deliver k g a d f).1.PcAligned := by
  unfold State.deliver
  extract_lets w
  have h1 : w.1.PcAligned := h.engPut
  split
  · exact h
  · split
    · exact h.fillSlot
    · exact h1

theorem unitDone_pcAligned (h : s.PcAligned) {f : Flight} {n : Nat} : (unitDone s f n).PcAligned :=
  Work.PcAligned.ite (.fin h) (Work.PcAligned.ite (.more h) (.fin h))

end

section
/-! The operations of Sys2Proof/Machine/DvLink.lean. -/

variable {s : State} {c : Core} {k : Nat}

theorem State.PcAligned.onPort (h : s.PcAligned) {p : Nat} {f : Port → Port} : (s.onPort p f).PcAligned :=
  h.frame (by rfl)

theorem State.PcAligned.losePacket (h : s.PcAligned) {p : DvPacket} : (s.losePacket p).PcAligned := h.frame (by rfl)

theorem State.PcAligned.route (h : s.PcAligned) {p : DvPacket} : (s.route p).PcAligned :=
  h.draw.onPort.ite h.draw.losePacket

theorem State.PcAligned.inject (h : s.PcAligned) {p : DvPacket} : (s.inject p).PcAligned := (h.frame (by rfl)).route

theorem State.PcAligned.loseSome {ps : List DvPacket} (h : s.PcAligned) : (State.loseSome ps s).PcAligned := by
  induction ps generalizing s with
  | nil => exact h
  | cons p ps ih => exact ih (h.draw.losePacket.ite h.draw)

theorem State.PcAligned.portDown (h : s.PcAligned) {p : BitVec 4} : (s.portDown p).PcAligned := by
  unfold State.portDown
  extract_lets _ _ _ s1 x _ s2
  have h1 : s1.PcAligned := h.loseSome
  have h2 : x.PcAligned := h1.onPort
  have h3 : s2.PcAligned := h2.frame (by rfl)
  exact h.ite (h3.foldl fun _ _ h4 => h4.losePacket)

theorem State.PcAligned.expire (h : s.PcAligned) {p : DvPacket} : (s.expire p).PcAligned := by
  unfold State.expire
  extract_lets t
  have h1 : t.PcAligned := h.losePacket
  split
  · exact h1.onPort
  · exact h1

theorem execLinkDown_pcAligned {port : BitVec 4} (h : s.PcAligned) : Out.PcAligned (execLinkDown port s) :=
  .next h.portDown

theorem execPortTrained_pcAligned {port : BitVec 4} (h : s.PcAligned) : Out.PcAligned (execPortTrained port s) :=
  .next (h.frame (by rfl))

theorem State.PcAligned.packetIn (h : s.PcAligned) {b : List PByte} {sound : Bool} :
    (s.packetIn b sound).PcAligned := by
  unfold State.packetIn
  extract_lets
  split
  · exact h
  · exact h.ite ((h.frame (by rfl)).ite h.inject)

theorem State.PcAligned.flitIn (h : s.PcAligned) {p : Nat} {f : LinkFlit} : (s.flitIn p f).PcAligned :=
  h.onPort.ite h.onPort.packetIn

theorem execFlitReceive_pcAligned {port : BitVec 4} {f : LinkFlit} {ok : Bool} (h : s.PcAligned) :
    Out.PcAligned (execFlitReceive port f ok s) := by
  unfold execFlitReceive
  extract_lets
  exact Out.PcAligned.ite (.next h) (Out.PcAligned.ite (.next (h.portDown.ite h.onPort)) (Out.PcAligned.ite (.next
      h.portDown) (Out.PcAligned.ite (.next h.onPort.flitIn) (.next h.onPort))))

end

section
/-! The operations of Sys2Proof/Machine/DvSend.lean. -/

variable {s : State} {c : Core} {k : Nat}

theorem State.PcAligned.setChan (h : s.PcAligned) {key : Nat} {c : Channel} : (s.setChan key c).PcAligned :=
  h.frame (by rfl)

theorem State.PcAligned.onChan (h : s.PcAligned) {key : Nat} {f : Channel → Channel} : (s.onChan key f).PcAligned :=
  h.setChan

theorem State.PcAligned.firstCopy (h : s.PcAligned) {key : Nat} {e : Epoch} : (s.firstCopy key e).PcAligned :=
  h.inject.onChan

theorem State.PcAligned.releaseRipe (h : s.PcAligned) {key : Nat} : (s.releaseRipe key).PcAligned :=
  (h.foldl fun _ _ h1 => h1.firstCopy).ite h

theorem State.PcAligned.chanPending (h : s.PcAligned) {key : Nat} : (s.chanPending key).PcAligned := by
  unfold State.chanPending
  extract_lets
  split
  · exact h
  · exact h.ite h.setChan
  · exact h.ite h.setChan.inject

theorem State.PcAligned.chanStep (h : s.PcAligned) {key : Nat} : (s.chanStep key).PcAligned :=
  h.chanPending.releaseRipe

theorem State.PcAligned.dvwIssue (h : s.PcAligned) {ch : BitVec 12} {woff : BitVec 32} {spa len : BitVec 13}
    {f : Flight} : OptKeeps (·.1.PcAligned) (s.dvwIssue k ch woff spa len f) :=
  OptKeeps.ite (.pair h) (OptKeeps.ite trivial (.pair h.setChan))

theorem State.PcAligned.dvwUnit (h : s.PcAligned) {ch : BitVec 12} {woff : BitVec 32} {spa len : BitVec 13}
    {f : Flight} : (s.dvwUnit k ch woff spa len f).PcAligned := by
  unfold State.dvwUnit
  extract_lets _ _ r
  have h1 : r.1.PcAligned := h.engGet
  split
  · exact .fin h
  · exact Work.PcAligned.ite (.fin h) (unitDone_pcAligned h1.inject.setChan.chanStep)

theorem State.PcAligned.pendIssue (h : s.PcAligned) {ch : BitVec 12} {p : ChanPend} {f : Flight} :
    (s.pendIssue k ch p f).1.PcAligned := by
  unfold State.pendIssue
  extract_lets
  split
  · exact h
  · exact h.setChan.chanStep

theorem State.PcAligned.dvopenIssue (h : s.PcAligned) {ch : BitVec 12} {dev : BitVec 22} {win : BitVec 16}
    {f : Flight} : (s.dvopenIssue k ch dev win f).1.PcAligned := by
  unfold State.dvopenIssue
  extract_lets
  split
  · exact h.setChan.inject
  · exact h

theorem State.PcAligned.chanWait (h : s.PcAligned) {ch : BitVec 12} {f : Flight} : (s.chanWait k ch f).PcAligned := by
  unfold State.chanWait
  extract_lets
  split
  · exact .fin h
  · split
    · exact .hold h
    · exact .fin h.setChan

theorem State.PcAligned.dvwSource (h : s.PcAligned) {d : DvDesc} {a n : Nat} : (s.dvwSource d a n).1.PcAligned := by
  unfold State.dvwSource
  extract_lets _ r
  have h1 : r.1.PcAligned := h.engGet
  split
  · exact h.engGet
  · split
    · exact h.physGet
    · exact h1

theorem State.PcAligned.replayLog (h : s.PcAligned) {key : Nat} {x : Epoch} : (s.replayLog key x).PcAligned :=
  h.foldl fun _ _ h1 => h1.foldl fun _ _ h2 => h2.dvwSource.inject

theorem State.PcAligned.replayDue (h : s.PcAligned) {key : Nat} : (s.replayDue key).PcAligned :=
  h.ite (h.foldl fun _ _ h1 => h1.replayLog.firstCopy)

theorem State.PcAligned.pumpReplays (h : s.PcAligned) : s.pumpReplays.PcAligned := h.foldl fun _ _ h1 => h1.replayDue

end

section
/-! The operations of Sys2Proof/Machine/SyncS.lean. -/

variable {s : State} {c : Core} {k : Nat}

theorem Core.PcAligned.forkOne (h : c.PcAligned) {r : RingSel} {e : TabEntry} : (c.forkOne r e).PcAligned := by
  unfold Core.forkOne
  extract_lets
  split
  · exact h.setEngine
  · split
    · exact h.setEngine
    · exact h.setEngine
    · exact h

theorem State.PcAligned.forkWith (h : s.PcAligned) {d : List Byte} : (s.forkWith d).PcAligned := by
  unfold State.forkWith
  extract_lets _ _ _ u
  have hu : u.PcAligned := by
    refine h.releaseS fun t ht => ?_
    extract_lets _ c2
    have hc : c2.PcAligned := ht.me.frame (by rfl)
    exact ht.setMe ((hc.foldl fun _ _ h1 => h1.forkOne).advance.frame (by rfl))
  clear_value u
  refine .ite (h.setMe (h.me.frame (by rfl))) ?_
  split
  · exact hu.setMe (hu.me.frame (by rfl))
  · exact hu

theorem execFork_pcAligned {_st : SStall} {a : XReg} (h : s.PcAligned) : Out.PcAligned (execFork _st a s) := by
  unfold execFork
  extract_lets
  split
  · exact .next h.forkWith
  · refine Out.PcAligned.next ?_
    exact h.afterReads fun _ h1 => h1.trapMe.ite ((h1.spRead.setMe h1.spRead.me.oox).forkWith)

theorem execRdv_pcAligned {_st : SStall} (h : s.PcAligned) : Out.PcAligned (execRdv _st s) :=
  .next (h.joinAll fun _ h1 => h1.retire)

theorem execVfence_pcAligned {_st : SStall} (h : s.PcAligned) : Out.PcAligned (execVfence _st s) :=
  Out.PcAligned.ite (.next (h.settle.setMe (h.settle.me.frame (by rfl)))) (.next h.settle.retire)

theorem execSend_pcAligned {_st : SStall} {a b : XReg} {m : BitVec 4} (h : s.PcAligned) :
    Out.PcAligned (execSend _st a b m s) :=
  Out.PcAligned.ite (.next (h.setMe (h.me.frame (by rfl)))) (.next (h.setMe (h.me.frame (by rfl)).advance))

theorem Core.PcAligned.layWord (h : c.PcAligned) {r : RingSel} {w : Word} : (c.layWord k r w).PcAligned :=
  (h.frame (by rfl)).setEngine

theorem State.PcAligned.append (h : s.PcAligned) {r : RingSel} {ws : List Word} : (s.append r ws).PcAligned := by
  unfold State.append
  extract_lets
  exact h.trapMe.ite ((h.setMe (h.me.frame (by rfl))).ite (h.releaseS fun _ h1 => h1.setMe ((h1.me.foldl fun _ _ h2 =>
      h2.layWord).advance)))

theorem execRapp_pcAligned {_st : SStall} {a : XReg} {r : RingSel} (h : s.PcAligned) :
    Out.PcAligned (execRapp _st a r s) := .next h.append

theorem execRappPair_pcAligned {_st : SStall} {a b : XReg} {r : RingSel} (h : s.PcAligned) :
    Out.PcAligned (execRappPair _st a b r s) := .next h.append

theorem execPost_pcAligned {_st : SStall} {n : SemId} (h : s.PcAligned) : Out.PcAligned (execPost _st n s) :=
  .next (h.releaseS fun _ h1 => h1.setMe h1.me.raise.advance)

theorem execWaits_pcAligned {_st : SStall} {n : SemId} (h : s.PcAligned) : Out.PcAligned (execWaits _st n s) :=
  Out.PcAligned.ite (.next (h.setMe h.me.await.advance)) (.next (h.setMe h.me.beginWait.waitS))

theorem execMark_pcAligned {_st : SStall} {sc : Scope} (h : s.PcAligned) : Out.PcAligned (execMark _st sc s) :=
  .next h.loadS

theorem State.PcAligned.fence (h : s.PcAligned) {k : FenceKind} {sc : Scope} : (s.fence k sc).PcAligned := by
  unfold State.fence
  extract_lets
  split
  · exact h.loadS
  · exact h.pushStore.retire
  · exact h.pushStore.loadS

theorem execFence_pcAligned {_st : SStall} {k : FenceKind} {sc : Scope} (h : s.PcAligned) :
    Out.PcAligned (execFence _st k sc s) := .next h.fence

theorem State.PcAligned.setBar (h : s.PcAligned) {b n : Nat} {r : Barrier} : (s.setBar b n r).PcAligned := h.setPanel

theorem execBar_pcAligned {_st : SStall} {n : BarId} (h : s.PcAligned) : Out.PcAligned (execBar _st n s) := by
  unfold execBar
  extract_lets
  split
  · exact .next h.fence
  · split
    · exact Out.PcAligned.ite (.next h.retire) (.next h)
    · exact .next (h.releaseS fun _ h1 => h1.setBar.retire.ite (h1.setBar.setMe (h1.setBar.me.frame (by rfl))))

theorem execSacq_pcAligned {_st : SStall} {d : XReg} {n : RingId} (h : s.PcAligned) :
    Out.PcAligned (execSacq _st d n s) := by
  unfold execSacq
  extract_lets
  exact Out.PcAligned.ite (.next h.trapMe) (Out.PcAligned.ite (.next (h.setMe (h.me.frame (by rfl)))) (.next ((h.setMe
      (h.me.frame (by rfl))).retireX)))

theorem execScommit_pcAligned {_st : SStall} {n : RingId} (h : s.PcAligned) : Out.PcAligned (execScommit _st n s) :=
  Out.PcAligned.ite (.next h.trapMe) (.next (h.releaseS fun _ h1 => (h1.setMe (h1.me.frame (by rfl))).retire))

theorem execSawait_pcAligned {_st : SStall} {d : XReg} {n : RingId} (h : s.PcAligned) :
    Out.PcAligned (execSawait _st d n s) := by
  unfold execSawait
  extract_lets
  exact Out.PcAligned.ite (.next h.trapMe) (Out.PcAligned.ite (.next (h.setMe (h.me.frame (by rfl)))) (.next ((h.setMe
      (h.me.frame (by rfl))).retireX)))

theorem execSrel_pcAligned {_st : SStall} {n : RingId} (h : s.PcAligned) : Out.PcAligned (execSrel _st n s) :=
  Out.PcAligned.ite (.next h.trapMe) (.next (h.releaseS fun _ h1 => (h1.setMe (h1.me.frame (by rfl))).retire))

theorem State.PcAligned.hostFlush (h : s.PcAligned) {t : TReg} {a b : XReg} {inv : Bool} :
    (s.hostFlush t a b inv).PcAligned := by
  unfold State.hostFlush
  extract_lets
  split
  next s1 hx =>
    have h1 : s1.PcAligned := h.twinStop.get hx
    exact h1
  · split
    · exact h.retire
    · split
      · exact h.setMe (h.me.frame (by rfl))
      · exact h.retire
      · refine State.PcAligned.storesS h (fun _ h1 => ((h1.setMe h1.me.oox).foldl fun _ _ h2 => h2.dropLine.ite
          h2.writeBackLine).retire)

theorem execFlushh_pcAligned {_st : SStall} {t : TReg} {a b : XReg} (h : s.PcAligned) :
    Out.PcAligned (execFlushh _st t a b s) := .next h.hostFlush

theorem execInvh_pcAligned {_st : SStall} {t : TReg} {a b : XReg} (h : s.PcAligned) :
    Out.PcAligned (execInvh _st t a b s) := .next h.hostFlush

end

section
/-! The operations of Sys2Proof/Machine/CopyCmd.lean. -/

variable {s : State} {c : Core} {k : Nat}

theorem State.PcAligned.copyUnit (h : s.PcAligned) {out g : Bool} {ring : RingId} {off : BitVec 32}
    {spa len : BitVec 13} {j : Bool} {f : Flight} : (s.copyUnit k out g ring off spa len j f).PcAligned := by
  unfold State.copyUnit
  extract_lets _ _ r
  have h1 : r.1.PcAligned := h.engGet
  split
  · split
    · exact .hold h
    next s1 _ hx1 =>
      have h2 : s1.PcAligned := h1.extPut.get hx1
      exact unitDone_pcAligned h2
  · split
    · exact .hold h
    next s1 _ hx1 =>
      have h2 : s1.PcAligned := (OptKeeps.ite h.takeSlot (.pair h)).get hx1
      split
      · exact .hold h2
      next s2 _ _ hx2 =>
        have h3 : s2.PcAligned := h2.extGet.get hx2
        exact unitDone_pcAligned h3.deliver

theorem State.PcAligned.partUnit (h : s.PcAligned) {t : Template} {pat : List Byte} {ed sd : Nat} {f : Flight}
    {p : Nat × Nat × Nat} : OptKeeps (·.1.PcAligned) (s.partUnit k t pat ed sd f p) := by
  unfold State.partUnit
  extract_lets _ _ _ _ r _ _ _ _
  have h1 : r.1.PcAligned := h.engGet
  split
  · exact .pair h
  · split
    · split
      · exact trivial
      next s1 _ hx2 =>
        have h2 : s1.PcAligned := h1.extPut.get hx2
        exact .pair h2
    · split
      · split
        · exact trivial
        next s1 _ _ hx3 =>
          have h2 : s1.PcAligned := h.extGet.get hx3
          exact .some h2.deliver
      · split
        · exact trivial
        next s1 _ _ hx3 =>
          have h2 : s1.PcAligned := h.extGet.get hx3
          exact .some h2.deliver

theorem State.PcAligned.foldl_partUnit {u : State} (h : u.PcAligned) {t : Template} {pat : List Byte} {ed sd : Nat}
    {f : Flight} {l : List (Nat × Nat × Nat)} :
    OptKeeps (α := State × Flight) (·.1.PcAligned) (l.foldl (fun (x : Option (State × Flight)) p =>
      x.bind (fun x => x.1.partUnit k t pat ed sd x.2 p)) (some (u, f))) := by
  refine foldl_keeps (P := OptKeeps (α := State × Flight) (·.1.PcAligned)) (fun o b ho => ?_) l _ (.pair h)
  cases o with
  | none => trivial
  | some a => exact State.PcAligned.partUnit ho

theorem State.PcAligned.copytUnit (h : s.PcAligned) {ed : BitVec 19} {sd : BitVec 13} {f : Flight} :
    (s.copytUnit k ed sd f).PcAligned := by
  unfold State.copytUnit
  extract_lets t ring
  have h1 : OptKeeps (α := State × Flight) (·.1.PcAligned) (if t.g then s.takeSlot k ring t.join f else some (s, f)) :=
    .ite h.takeSlot (.pair h)
  split
  · exact .hold h
  next u _ hx =>
    extract_lets
    have hu : u.PcAligned := h1.get hx
    split
    · exact .hold hu
    next hy => exact unitDone_pcAligned (hu.foldl_partUnit.get hy)

theorem State.PcAligned.imwinUnit (h : s.PcAligned) {off : BitVec 32} {spa : BitVec 13} {p : BitVec 10}
    {kw : BitVec 4} {sx : BitVec 2} {cg : BitVec 3} {f : Flight} :
    (s.imwinUnit k off spa p kw sx cg f).PcAligned := by
  unfold State.imwinUnit
  extract_lets
  split
  · exact .hold h
  next s1 _ _ hx =>
    have h1 : s1.PcAligned := h.extGet.get hx
    exact unitDone_pcAligned h1.deliver

theorem State.PcAligned.gatherUnit (h : s.PcAligned) {count : BitVec 10} {spa row : BitVec 13} {f : Flight} :
    (s.gatherUnit k count spa row f).PcAligned := by
  unfold State.gatherUnit
  extract_lets
  split
  · exact .hold h
  next s1 _ _ hx =>
    have h1 : s1.PcAligned := h.extGet.get hx
    exact unitDone_pcAligned h1.deliver

theorem State.PcAligned.scatterUnit (h : s.PcAligned) {count : BitVec 10} {spa row : BitVec 13} {f : Flight} :
    (s.scatterUnit k count spa row f).PcAligned := by
  unfold State.scatterUnit
  extract_lets _ _ r
  have h1 : r.1.PcAligned := h.engGet
  split
  · exact .hold h
  next s1 _ hx =>
    have h2 : s1.PcAligned := h1.extPut.get hx
    exact unitDone_pcAligned h2

theorem State.PcAligned.fillUnit (h : s.PcAligned) {w : BitVec 2} {v : BitVec 32} {spa len : BitVec 13} {g : Bool}
    {ring : RingId} {f : Flight} : (s.fillUnit k w v spa len g ring f).PcAligned := by
  unfold State.fillUnit
  split
  · exact .hold h
  next s1 _ hx =>
    have h1 : s1.PcAligned := (OptKeeps.ite h.takeSlot (.pair h)).get hx
    exact unitDone_pcAligned h1.deliver

theorem State.PcAligned.sketchUnit (h : s.PcAligned) {et : ETy} {src : BitVec 12} {logn : BitVec 4} {dst : BitVec 16}
    {f : Flight} : (s.sketchUnit k et src logn dst f).PcAligned := by
  unfold State.sketchUnit
  extract_lets
  split
  · exact .fin h
  · exact .fin h.engGet.engPut

theorem State.PcAligned.pcopyUnit (h : s.PcAligned) {out : Bool} {rank : BitVec 4} {sib len own : BitVec 13}
    {f : Flight} : (s.pcopyUnit k out rank sib len own f).PcAligned :=
  unitDone_pcAligned (h.engGet.engPut.ite h.engGet.engPut.toPanel)

theorem State.PcAligned.cflushUnit (h : s.PcAligned) {inv : Bool} {off len : BitVec 32} {f : Flight} :
    (s.cflushUnit k inv off len f).PcAligned := by
  unfold State.cflushUnit
  extract_lets _ _ _ _ s1
  have h1 : s1.PcAligned := h.flush
  split
  · exact .fin h
  · split
    · exact .hold h
    · exact unitDone_pcAligned h
    · extract_lets s2
      have h2 : s2.PcAligned := h1.foldl fun _ _ h2 => h2.dropLine.ite h2.writeBackLine
      exact Work.PcAligned.ite (.fin h) (unitDone_pcAligned h2)

end

section
/-! The operations of Sys2Proof/Machine/MatrixCmd.lean. -/

variable {s : State} {c : Core} {k : Nat}

theorem State.PcAligned.readOperand (h : s.PcAligned) {e : Word} {t : ElType} {n a size : Nat} :
    (s.readOperand k e t n a size).1.PcAligned := h.engGet.engGet

theorem State.PcAligned.mmapJoin (h : s.PcAligned) : (s.mmapJoin k).PcAligned :=
  h.foldl fun _ _ h1 => (h1.onCore fun _ h2 => h2.frame (by rfl)).ite h1

theorem State.PcAligned.mmapLeave (h : s.PcAligned) : (s.mmapLeave k).PcAligned :=
  h.foldl fun _ _ h1 => h1.onCore fun _ h2 => h2.frame (by rfl)

theorem State.PcAligned.slabAwait (h : s.PcAligned) {n : RingId} {f : Flight} :
    OptKeeps (·.1.PcAligned) (s.slabAwait k n f) :=
  OptKeeps.ite trivial (.pair (h.onCore fun _ h1 => h1.frame (by rfl)))

theorem State.PcAligned.mmaUnit (h : s.PcAligned) {part : Bool} {bank : BitVec 2} {z : Bool} {ar br : RingId}
    {t : Bool} {nslab : BitVec 8} {klast : BitVec 7} {et : ETy} {ua ub ck : Bool} {f : Flight} :
    (s.mmaUnit k part bank z ar br t nslab klast et ua ub ck f).PcAligned := by
  unfold State.mmaUnit
  extract_lets s1 _ _ _ _ _ _
  have h1 : s1.PcAligned := h.mmapJoin.ite h
  split
  · exact .hold h1
  · split
    · exact .more (h1.foldl fun _ _ h2 => h2.onCore fun _ h3 => h3.frame (by rfl))
    · split
      · split
        · exact .hold h1
        next s2 _ _ hx3 =>
          have h2 : s2.PcAligned := h1.slabAwait.get hx3
          exact .more h2
      · split
        · exact .hold h1
        next s2 _ _ hx4 =>
          have h2 : s2.PcAligned := h1.slabAwait.get hx4
          exact .more h2
      · split
        · extract_lets xa xb s2 s3 _ _
          have h2 : xa.1.PcAligned := h1.readOperand
          have h3 : xb.1.PcAligned := h2.readOperand
          have h4 : s2.PcAligned := h3.foldl fun _ _ h4 => h4.onCore fun _ h5 => h5.frame (by rfl)
          have h5 : s3.PcAligned := h4.onCore fun _ h5 => h5.frame (by rfl)
          exact Work.PcAligned.ite (.more h5) (.fin (h5.mmapLeave.ite h5))
        · exact .fin h1

theorem State.PcAligned.mzeroUnit (h : s.PcAligned) {bank : BitVec 2} {f : Flight} :
    (s.mzeroUnit k bank f).PcAligned := .fin (h.onCore fun _ h1 => h1.frame (by rfl))

theorem State.PcAligned.mdrainUnit (h : s.PcAligned) {bank : BitVec 2} {ot : ETy} {r : Round} {sk sat : Bool}
    {scale : BitVec 16} {dest : BitVec 12} {f : Flight} :
    (s.mdrainUnit k bank ot r sk sat scale dest f).PcAligned := by
  unfold State.mdrainUnit
  extract_lets
  split
  · exact .fin h
  · exact .fin h.engPut

theorem State.PcAligned.mldaccUnit (h : s.PcAligned) {bank : BitVec 2} {it : ETy} {src : BitVec 12} {f : Flight} :
    (s.mldaccUnit k bank it src f).PcAligned := by
  unfold State.mldaccUnit
  split
  · exact .fin h
  · exact .fin (h.engGet.onCore fun _ h1 => h1.frame (by rfl))

theorem State.PcAligned.mfmtUnit (h : s.PcAligned) {entry : BitVec 4} {f : Flight} :
    (s.mfmtUnit k entry f).PcAligned := Work.PcAligned.ite (.fin h) (.fin (h.onCore fun _ h1 => h1.frame (by rfl)))

theorem State.PcAligned.mchkUnit (h : s.PcAligned) {bank : BitVec 2} {rep : BitVec 22} {f : Flight} :
    (s.mchkUnit k bank rep f).PcAligned := by
  unfold State.mchkUnit
  extract_lets _ _ _ _ _ _ _ _ _ w f t
  have hw : w.1.PcAligned := h.engPut
  clear_value w f
  have ht : t.PcAligned := hw.tell
  clear_value t
  exact .ite (.fin hw) (.fin (ht.frame (by rfl)))

end

section
/-! The operations of Sys2Proof/Machine/Engine.lean. -/

variable {s : State} {c : Core} {k : Nat}

theorem Core.PcAligned.setFlight (h : c.PcAligned) {e : EngineSel} {f : Option Flight} :
    (c.setFlight e f).PcAligned := by
  unfold Core.setFlight
  split
  · exact h.frame (by rfl)
  · exact h.frame (by rfl)

theorem Core.PcAligned.setTaken (h : c.PcAligned) {e : EngineSel} {l : List Flight} : (c.setTaken e l).PcAligned := by
  unfold Core.setTaken
  split
  · exact h.frame (by rfl)
  · exact h.frame (by rfl)

theorem State.PcAligned.report (h : s.PcAligned) {e : EngineSel} {code op : Nat} {reloc : Bool} {addr : Nat}
    {ss : SemId} : (s.report k e code op reloc addr ss).PcAligned := (h.onCore fun _ h1 => h1.oox).ite h.engPut

theorem State.PcAligned.illegalCmd (h : s.PcAligned) {e : EngineSel} {op : Nat} {ss : SemId} :
    (s.illegalCmd k e op ss).PcAligned := h.report.onCore fun _ h1 => h1.raise.stopEngine

theorem State.PcAligned.readIdx (h : s.PcAligned) {count : BitVec 10} {idxa : BitVec 22} {f : Flight} :
    (s.readIdx k count idxa f).1.PcAligned := h.engGet

theorem State.PcAligned.issueCmd (h : s.PcAligned) {f : Flight} : OptKeeps (·.1.PcAligned) (s.issueCmd k f) := by
  unfold State.issueCmd
  extract_lets
  split
  · exact OptKeeps.ite (.pair h) trivial
  · exact OptKeeps.ite (.pair h) trivial
  · exact OptKeeps.ite (.pair h) trivial
  · exact OptKeeps.ite (.pair h) trivial
  · exact OptKeeps.ite (.pair h.engGet) trivial
  · exact OptKeeps.ite trivial (.pair h)
  · exact OptKeeps.ite trivial (.pair h)
  · exact OptKeeps.ite trivial (.pair h)
  · exact .some h.readIdx
  · exact .some h.readIdx
  · exact .some h.dvopenIssue
  · exact h.dvwIssue
  · exact .some h.pendIssue
  · exact .some h.pendIssue
  · exact .pair h

theorem State.PcAligned.readTok (h : s.PcAligned) {f : Flight} : (s.readTok k f).1.PcAligned := by
  unfold State.readTok
  extract_lets
  split
  · exact h
  · exact h.hold

theorem State.PcAligned.syncUnit (h : s.PcAligned) {e : EngineSel} {f : Flight} : (s.syncUnit k e f).PcAligned :=
  Work.PcAligned.ite (.fin h) (.hold h)

theorem State.PcAligned.performCmd (h : s.PcAligned) {f : Flight} : (s.performCmd k f).PcAligned := by
  unfold State.performCmd
  split
  · exact h.syncUnit
  · exact h.mmaUnit
  · exact h.mmaUnit
  · exact h.mzeroUnit
  · exact h.mdrainUnit
  · exact h.mldaccUnit
  · exact h.mfmtUnit
  · exact h.mchkUnit
  · exact h.syncUnit
  · exact h.copyUnit
  · exact h.copytUnit
  · exact h.imwinUnit
  · exact h.gatherUnit
  · exact h.scatterUnit
  · exact h.fillUnit
  · exact h.sketchUnit
  · exact h.pcopyUnit
  · exact h.chanWait
  · exact h.dvwUnit
  · exact h.chanWait
  · exact h.chanWait
  · exact h.cflushUnit
  · exact .fin h

theorem State.PcAligned.leaveCmd (h : s.PcAligned) {f : Flight} : (s.leaveCmd k f).PcAligned := by
  unfold State.leaveCmd
  extract_lets _ _ s1 s2 s3
  have h1 : s1.PcAligned := h.release
  have h2 : s2.PcAligned := h1.onCore fun _ h2 => h2.oox.dscw
  have h3 : s3.PcAligned := by
    unfold s3
    split
    · exact h2.tell
    · exact h2
  split
  · exact h3
  · exact h3.onCore fun _ h4 => h4.frame (by rfl)

theorem Core.PcAligned.passCmd (h : c.PcAligned) {e : EngineSel} {i : Instr} : (c.passCmd e i).PcAligned :=
  h.setEngine

theorem Core.PcAligned.passSync (h : c.PcAligned) {e : EngineSel} {i : Instr} : (c.passSync e i).PcAligned := by
  unfold Core.passSync
  extract_lets
  split
  · exact h
  · exact h.passCmd.endEngine.ite h.passCmd

theorem State.PcAligned.completeCmd (h : s.PcAligned) {e : EngineSel} {f : Flight} :
    (s.completeCmd k e f).PcAligned := (h.leaveCmd.ite h.leaveCmd.report).onCore fun _ h1 => h1.raise.passSync

theorem State.PcAligned.beginCmd (h : s.PcAligned) {e : EngineSel} {f : Flight} : (s.beginCmd k e f).PcAligned := by
  have ht : OptKeeps State.PcAligned (if isDovetail f.cmd then s.twinStop k else none) := .ite h.twinStop trivial
  unfold State.beginCmd
  extract_lets _ _ a t _
  have ha : t.PcAligned := h.setCore (by unfold a; split; exacts [h.core, h.core.await])
  clear_value t
  refine .ite (.hold (h.onCore fun _ hc => hc.beginWait)) (.ite (.hold h) ?_)
  split
  next u hu => exact .hold (ht.get hu)
  · split
    · exact .more ha
    next hu =>
      extract_lets r v
      have hr : r.1.PcAligned := (ha.issueCmd.get hu).readTok
      have hv : v.PcAligned := hr.ite (hr.onCore fun _ hc => hc.passCmd)
      exact .more hv

theorem State.PcAligned.phaseCmd (h : s.PcAligned) {e : EngineSel} {f : Flight} : (s.phaseCmd k e f).PcAligned := by
  unfold State.phaseCmd
  split
  · exact h.beginCmd
  · split
    next s1 _ hx1 =>
      have h1 : s1.PcAligned := h.performCmd.of_hold hx1
      exact .hold h1
    next s1 _ hx1 =>
      have h1 : s1.PcAligned := h.performCmd.of_more hx1
      exact .more h1
    next s1 _ hx1 =>
      have h1 : s1.PcAligned := h.performCmd.of_fin hx1
      exact .more h1
  · exact Work.PcAligned.ite (.fin h.illegalCmd) (.fin h.completeCmd)

theorem State.PcAligned.runCmd {n : Nat} (h : s.PcAligned) {e : EngineSel} {f : Flight} :
    (State.runCmd n s k e f).1.PcAligned := by
  induction n generalizing s f with
  | zero => exact h
  | succ n ih =>
    unfold State.runCmd
    split
    next t f ht => exact h.phaseCmd.of_hold ht
    next t f ht => exact ih (h.phaseCmd.of_more ht)
    next ht => exact h.phaseCmd.of_fin ht

theorem State.PcAligned.command (h : s.PcAligned) {e : EngineSel} {i : Instr} : (s.command e i).PcAligned :=
  ((h.setMe h.me.setFlight).runCmd).onCore fun _ h1 => h1.setFlight

theorem State.PcAligned.loopCommand (h : s.PcAligned) {e : EngineSel} {i : Instr} {len count : Nat} :
    (s.loopCommand e i len count).PcAligned := by
  unfold State.loopCommand
  split
  · exact h.illegalCmd
  · exact h.setMe h.me.setEngine

theorem execMsync_pcAligned {ws ss : SemId} {e : Bool} (h : s.PcAligned) : Out.PcAligned (execMsync ws ss e s) :=
  .next h.command

theorem execMma_pcAligned {ws ss : SemId} {rl : Bool} {bank : BitVec 2} {z : Bool} {ar br : RingId} {t : Bool}
    {nslab : BitVec 8} {klast : BitVec 7} {afmt bfmt : BitVec 4} {et : ETy} {ua ub ck : Bool} (h : s.PcAligned) :
    Out.PcAligned (execMma ws ss rl bank z ar br t nslab klast afmt bfmt et ua ub ck s) := .next h.command

theorem execMmap_pcAligned {ws ss : SemId} {bank : BitVec 2} {z : Bool} {ar br : RingId} {t : Bool} {nslab : BitVec 8}
    {klast : BitVec 7} {afmt bfmt : BitVec 4} {et : ETy} {ua ub ck : Bool} (h : s.PcAligned) :
    Out.PcAligned (execMmap ws ss bank z ar br t nslab klast afmt bfmt et ua ub ck s) := .next h.command

theorem execMzero_pcAligned {ws ss : SemId} {rl : Bool} {bank : BitVec 2} (h : s.PcAligned) :
    Out.PcAligned (execMzero ws ss rl bank s) := .next h.command

theorem execMdrain_pcAligned {ws ss : SemId} {rl : Bool} {bank : BitVec 2} {ot : ETy} {r : Round} {sk sat : Bool}
    {scale : BitVec 16} {dest : BitVec 12} {xf : BitVec 4} (h : s.PcAligned) :
    Out.PcAligned (execMdrain ws ss rl bank ot r sk sat scale dest xf s) := .next h.command

theorem execMldacc_pcAligned {ws ss : SemId} {rl : Bool} {bank : BitVec 2} {it : ETy} {src : BitVec 12}
    {xf : BitVec 4} (h : s.PcAligned) : Out.PcAligned (execMldacc ws ss rl bank it src xf s) := .next h.command

theorem execMfmt_pcAligned {ws ss : SemId} {entry : BitVec 4} {src : BitVec 22} (h : s.PcAligned) :
    Out.PcAligned (execMfmt ws ss entry src s) := .next h.command

theorem execMchk_pcAligned {ws ss : SemId} {bank : BitVec 2} {rep : BitVec 22} (h : s.PcAligned) :
    Out.PcAligned (execMchk ws ss bank rep s) := .next h.command

theorem execCsync_pcAligned {ws ss : SemId} {e : Bool} (h : s.PcAligned) : Out.PcAligned (execCsync ws ss e s) :=
  .next h.command

theorem execCopy_pcAligned {ws ss : SemId} {rl out : Bool} {t : TReg} {g : Bool} {ring : RingId} {off : BitVec 32}
    {spa len : BitVec 13} {j : Bool} (h : s.PcAligned) :
    Out.PcAligned (execCopy ws ss rl out t g ring off spa len j s) := .next h.command

theorem execCopyt_pcAligned {ws ss : SemId} {rl : Bool} {tm : BitVec 6} {ed : BitVec 19} {sd : BitVec 13}
    (h : s.PcAligned) : Out.PcAligned (execCopyt ws ss rl tm ed sd s) := .next h.command

theorem execImwin_pcAligned {ws ss : SemId} {rl : Bool} {t : TReg} {off : BitVec 32} {spa : BitVec 13} {p : BitVec 10}
    {kw : BitVec 4} {sx : BitVec 2} {cg : BitVec 3} (h : s.PcAligned) :
    Out.PcAligned (execImwin ws ss rl t off spa p kw sx cg s) := .next h.command

theorem execGather_pcAligned {ws ss : SemId} {rl : Bool} {t : TReg} {count : BitVec 10} {idxa : BitVec 22}
    {spa row : BitVec 13} (h : s.PcAligned) : Out.PcAligned (execGather ws ss rl t count idxa spa row s) :=
  .next h.command

theorem execScatter_pcAligned {ws ss : SemId} {rl : Bool} {t : TReg} {count : BitVec 10} {idxa : BitVec 22}
    {spa row : BitVec 13} (h : s.PcAligned) : Out.PcAligned (execScatter ws ss rl t count idxa spa row s) :=
  .next h.command

theorem execFill_pcAligned {ws ss : SemId} {rl : Bool} {w : BitVec 2} {value : BitVec 32} {spa len : BitVec 13}
    {g : Bool} {ring : RingId} (h : s.PcAligned) : Out.PcAligned (execFill ws ss rl w value spa len g ring s) :=
  .next h.command

theorem execSketch_pcAligned {ws ss : SemId} {rl : Bool} {et : ETy} {src : BitVec 12} {logn : BitVec 4}
    {dst : BitVec 16} (h : s.PcAligned) : Out.PcAligned (execSketch ws ss rl et src logn dst s) := .next h.command

theorem execPcopy_pcAligned {ws ss : SemId} {out : Bool} {rank : BitVec 4} {sib len own : BitVec 13} (h : s.PcAligned) :
    Out.PcAligned (execPcopy ws ss out rank sib len own s) := .next h.command

theorem execDvopen_pcAligned {ws ss : SemId} {ch : BitVec 12} {dev : BitVec 22} {win : BitVec 16} (h : s.PcAligned) :
    Out.PcAligned (execDvopen ws ss ch dev win s) := .next h.command

theorem execDvw_pcAligned {ws ss : SemId} {ch : BitVec 12} {woff : BitVec 32} {spa len : BitVec 13} (h : s.PcAligned) :
    Out.PcAligned (execDvw ws ss ch woff spa len s) := .next h.command

theorem execDvrel_pcAligned {ws ss : SemId} {ch : BitVec 12} {woff flag : BitVec 32} (h : s.PcAligned) :
    Out.PcAligned (execDvrel ws ss ch woff flag s) := .next h.command

theorem execDvshut_pcAligned {ws ss : SemId} {ch : BitVec 12} (h : s.PcAligned) :
    Out.PcAligned (execDvshut ws ss ch s) := .next h.command

theorem execCflush_pcAligned {ws ss : SemId} {t : TReg} {inv : Bool} {off len : BitVec 32} (h : s.PcAligned) :
    Out.PcAligned (execCflush ws ss t inv off len s) := .next h.command

theorem execMloop_pcAligned {len : BitVec 6} {count : BitVec 16} (h : s.PcAligned) :
    Out.PcAligned (execMloop len count s) := .next h.loopCommand

theorem execCloop_pcAligned {len : BitVec 6} {count : BitVec 16} (h : s.PcAligned) :
    Out.PcAligned (execCloop len count s) := .next h.loopCommand

end

section
/-! The operations of Sys2Proof/Machine/EngineEvents.lean. -/

variable {s : State} {c : Core} {k : Nat}

theorem State.PcAligned.runTaken (h : s.PcAligned) {j : Nat} {e : EngineSel} : (s.runTaken k j e).PcAligned := by
  unfold State.runTaken
  split
  · exact h
  · exact h.runCmd.onCore fun _ h1 => h1.setTaken

theorem State.PcAligned.runFlight (h : s.PcAligned) {e : EngineSel} : (s.runFlight k e).PcAligned := by
  unfold State.runFlight
  split
  · exact h.runCmd.onCore fun _ h1 => h1.setFlight
  · split
    · exact h.runTaken
    · exact h

theorem State.PcAligned.goOn (h : s.PcAligned) {eng : EngineSel} {f : Flight} :
    State.PcAligned (match s.beginCmd k eng f with
    | .hold s f => s.onCore k (fun c => c.setFlight eng (some f))
    | .more s f => s.onCore k (fun c => c.setFlight eng (some f))
    | .fin s _ => s) := by
  split
  next t f ht => exact (h.beginCmd.of_hold ht).onCore fun _ hc => hc.setFlight
  next t f ht => exact (h.beginCmd.of_more ht).onCore fun _ hc => hc.setFlight
  next ht => exact h.beginCmd.of_fin ht

theorem execEngineCommandIssue_pcAligned {core : CoreId} {eng : EngineSel} (h : s.PcAligned) :
    Out.PcAligned (execEngineCommandIssue core eng s) := by
  unfold execEngineCommandIssue
  extract_lets _ go
  have hgo : ∀ f, (go s f).PcAligned := fun f => h.goOn
  clear_value go
  refine .ite (.next h) ?_
  split
  · split
    · exact .next (hgo _)
    · exact .next h
  · refine .ite (.next h) ?_
    split
    · exact .next h
    · exact .next (h.onCore fun _ hc => hc.setEngine)
    · exact .next h.illegalCmd
    · split
      · exact .next (State.PcAligned.loopCommand (h.frame (by rfl)))
      · exact .next (State.PcAligned.loopCommand (h.frame (by rfl)))
      · exact .next (hgo _)

theorem execEngineCommandComplete_pcAligned {core : CoreId} {eng : EngineSel} (h : s.PcAligned) :
    Out.PcAligned (execEngineCommandComplete core eng s) := by
  unfold execEngineCommandComplete
  extract_lets
  split
  · exact .next h
  · split
    · exact Out.PcAligned.ite (.next h) (.next h.runFlight)
    · exact .next h.runFlight

theorem execRelocateTake_pcAligned {core : CoreId} {eng : EngineSel} (h : s.PcAligned) :
    Out.PcAligned (execRelocateTake core eng s) := by
  unfold execRelocateTake
  extract_lets
  refine .ite (.next h) ?_
  split
  · exact .next h
  · refine .ite (.next h) ?_
    extract_lets f
    split
    next t _ ht =>
      have hu : t.PcAligned := h.beginCmd.of_more ht
      exact .ite (.next (hu.onCore fun _ hc => hc.setTaken)) (.next h)
    · exact .next h

theorem Core.PcAligned.setChanHead (h : c.PcAligned) {ch : Nat} {f : Option Flight} :
    (c.setChanHead ch f).PcAligned := h.frame (by rfl)

theorem State.PcAligned.startAperture (h : s.PcAligned) {ch : Nat} : (s.startAperture k ch).PcAligned := by
  unfold State.startAperture
  extract_lets
  split
  · exact h
  · extract_lets
    exact h.ite ((h.release.onCore fun _ h1 => h1.oox.setChanHead).ite (h.onCore fun _ h1 => h1.frame (by rfl)))

theorem State.PcAligned.apertureUnits {n : Nat} (h : s.PcAligned) {f : Flight} :
    (State.apertureUnits n s k f).1.PcAligned := by
  induction n generalizing s f with
  | zero => exact h
  | succ n ih =>
    unfold State.apertureUnits
    split
    next t f ht => exact h.performCmd.of_hold ht
    next t f ht => exact ih (h.performCmd.of_more ht)
    next ht => exact h.performCmd.of_fin ht

theorem State.PcAligned.finishAperture (h : s.PcAligned) {ch : Nat} : (s.finishAperture k ch).PcAligned := by
  unfold State.finishAperture
  split
  · exact h
  · extract_lets r
    have h1 : r.1.PcAligned := h.apertureUnits
    exact h.ite ((h1.leaveCmd.onCore fun _ h2 => h2.frame (by rfl)).ite (h1.onCore fun _ h2 => h2.frame (by rfl)))

theorem execApertureCopyStart_pcAligned {core : CoreId} {chan : BitVec 2} (h : s.PcAligned) :
    Out.PcAligned (execApertureCopyStart core chan s) := .next (h.ite h.startAperture)

theorem execApertureCopyDone_pcAligned {core : CoreId} {chan : BitVec 2} (h : s.PcAligned) :
    Out.PcAligned (execApertureCopyDone core chan s) := .next (h.ite h.finishAperture)

theorem State.PcAligned.runApertures (h : s.PcAligned) : (s.runApertures k).PcAligned :=
  h.foldl fun _ _ h1 => h1.startAperture.finishAperture

end

section
/-! The operations of Sys2Proof/Machine/Xlat.lean. -/

variable {s : State} {c : Core} {k : Nat}

theorem State.PcAligned.entryAt (h : s.PcAligned) {half : Bool} {a : Nat} : (s.entryAt half a).1.PcAligned := by
  unfold State.entryAt
  split
  · exact h
  · exact h.devWord

theorem State.PcAligned.cache (h : s.PcAligned) {half : Bool} {a : Nat} {w : Option Word} :
    (s.cache half a w).PcAligned := h.frame (by rfl)

theorem State.PcAligned.walkFrom (h : s.PcAligned) {b : Bool} {v level table : Nat} :
    (s.walkFrom b v level table).1.PcAligned := by
  induction level generalizing s table with
  | zero =>
    unfold State.walkFrom
    extract_lets a
    split
    next t bits ht =>
      have h1 : t.PcAligned := h.entryAt.fst ht
      split
      · exact h1
      · split
        · split <;> exact h1
        · split
          · exact h1
          · extract_lets l
            split
            · exact h1.cache
            · exact h1
  | succ n ih =>
    unfold State.walkFrom
    extract_lets
    split
    next t _ ht =>
      have h1 : t.PcAligned := h.entryAt.fst ht
      split
      · exact h1
      · split
        · split
          · exact h1
          · exact ih h1.cache
        · split
          · exact h1
          · extract_lets
            split
            · exact h1.cache
            · exact h1

theorem State.PcAligned.walk (h : s.PcAligned) {half : Bool} {g v : Nat} : (s.walk half g v).1.PcAligned := h.walkFrom

theorem State.PcAligned.pagesFrom (h : s.PcAligned) {b : Bool} {g f v hi : Nat} :
    (s.pagesFrom b g f v hi).1.PcAligned := by
  induction f generalizing s v with
  | zero => exact h
  | succ f ih =>
    unfold State.pagesFrom
    split
    · exact h
    · split
      next t _ _ _ ht => exact h.walk.fst ht
      next ht => exact ih (h.walk.fst ht)

theorem State.PcAligned.pagesOf (h : s.PcAligned) {half : Bool} {g base len : Nat} :
    (s.pagesOf half g base len).1.PcAligned := h.pagesFrom

theorem State.PcAligned.translate (h : s.PcAligned) {half : Bool} {g : Nat} {before : List Nat} {base len : Nat}
    {wantW : Bool} : (s.translate half g before base len wantW).1.PcAligned := by
  unfold State.translate
  split
  next s1 _ _ _ _ _ hx =>
    have h1 : s1.PcAligned := h.pagesOf.fst hx
    exact h1
  next s1 _ _ _ hx1 =>
    have h1 : s1.PcAligned := h.pagesOf.fst hx1
    split
    · exact h1
    · split
      · exact h1
      · exact h1

theorem State.PcAligned.faultRecord (h : s.PcAligned) {g va entry level kind : Nat} {o : FaultFor} :
    (s.faultRecord k g va entry level kind o).1.PcAligned := h.frame (by rfl)

theorem State.PcAligned.dropFault (h : s.PcAligned) {ix : Nat} : (s.dropFault ix).PcAligned := h.frame (by rfl)

theorem State.PcAligned.driveStall (h : s.PcAligned) {ix : Nat} : (s.driveStall k ix).PcAligned := h.setPanel

theorem State.PcAligned.freeStall (h : s.PcAligned) {ix : Nat} : (s.freeStall k ix).PcAligned := h.setPanel

theorem Core.PcAligned.setWalk (h : c.PcAligned) {w : Walk} {on : WaitOn} : (c.setWalk w on).PcAligned :=
  h.frame (by rfl)

theorem Core.PcAligned.mapFlights (h : c.PcAligned) {f : Flight → Flight} : (c.mapFlights f).PcAligned :=
  h.frame (by rfl)

theorem Core.PcAligned.mapToks (h : c.PcAligned) {f : Option Tok → Option Tok} : (c.mapToks f).PcAligned :=
  h.frame (by rfl)

theorem State.PcAligned.unpredict (h : s.PcAligned) {w : Walk} : (s.unpredict k w).PcAligned := by
  unfold State.unpredict
  split
  · extract_lets s1 _ s2 s3 _ _
    have h1 : s1.PcAligned := h.onCore fun _ h1 => h1.setT
    have h2 : s2.PcAligned := h1.foldl fun _ _ h2 => h2.hold.release
    have h3 : s3.PcAligned := (h2.onCore fun _ h3 => h3.frame (by rfl)).release
    exact h3.setMte
  · exact h

theorem State.PcAligned.pinPage (h : s.PcAligned) {p : Page} : (s.pinPage k p).1.PcAligned := by
  unfold State.pinPage
  split
  · exact h
  · exact h.pinRun

theorem State.PcAligned.unpinPages (h : s.PcAligned) {ps : List Page} : (s.unpinPages k ps).PcAligned :=
  h.foldl fun _ _ h1 => h1.unpinRun.ite h1

theorem State.PcAligned.xlatFail (h : s.PcAligned) {w : Walk} {cause tval : Nat} :
    (s.xlatFail k w cause tval).PcAligned := by
  unfold State.xlatFail
  extract_lets s1
  have h1 : s1.PcAligned := ((h.onCore fun _ h1 => h1.frame (by rfl)).unpinPages).unpredict
  exact (h1.putTok.onCore fun _ h2 => (h2.frame (by rfl)).advance).ite h1.syncTrap

theorem State.PcAligned.xlatEnd (h : s.PcAligned) {w : Walk} : (s.xlatEnd k w).PcAligned :=
  h.onCore fun _ h1 => ((h1.frame (by rfl)).ite h1).advance

theorem State.PcAligned.xlatGood (h : s.PcAligned) {w : Walk} {mask : BitVec 6} {fsel : BitVec 4} {runs : List Run} :
    (s.xlatGood k w mask fsel runs).PcAligned := by
  unfold State.xlatGood
  extract_lets
  split
  · exact ((h.setMte.onCore fun _ h1 => h1.frame (by rfl)).release).xlatEnd
  · split
    next s1 _ hx1 =>
      have h1 : s1.PcAligned := h.takeMte.get hx1
      exact ((h1.onCore fun _ h2 => h2.frame (by rfl)).putTok).xlatEnd
    · exact h.xlatFail

theorem State.PcAligned.xlatFault (h : s.PcAligned) {w : Walk} {va entry level kind : Nat} :
    (s.xlatFault k w va entry level kind).PcAligned := h.faultRecord.driveStall.onCore fun _ h1 => h1.frame (by rfl)

theorem State.PcAligned.walkOn {f : Nat} (h : s.PcAligned) {w : Walk} : (State.walkOn f s k w).1.PcAligned := by
  induction f generalizing s w with
  | zero => exact h
  | succ f ih =>
    unfold State.walkOn
    extract_lets
    split
    · exact h
    · split
      next t _ _ _ ht => exact h.walk.fst ht
      next ht => exact ih (h.walk.fst ht).pinPage

theorem State.PcAligned.xlatWalk (h : s.PcAligned) {w : Walk} : (s.xlatWalk k w).PcAligned := by
  unfold State.xlatWalk
  split
  next s1 _ _ _ _ _ hx =>
    have h1 : s1.PcAligned := h.walkOn.fst hx
    exact h1.xlatFault
  next s1 _ _ _ hx1 =>
    have h1 : s1.PcAligned := h.walkOn.fst hx1
    split
    · exact h1.xlatFail
    · split
      · exact h1.xlatFault
      · split
        · exact h1.xlatGood
        · exact h1

theorem State.PcAligned.uncache (h : s.PcAligned) {pa : Nat} : (s.uncache pa).PcAligned := h.frame (by rfl)

theorem State.PcAligned.xlatRetry (h : s.PcAligned) {w : Walk} {va : Nat} : (s.xlatRetry k w va).PcAligned := by
  unfold State.xlatRetry
  split
  · exact h.xlatWalk
  · split
    next s1 _ _ _ hx1 =>
      have h1 : s1.PcAligned := h.walk.fst hx1
      exact h1.xlatFault
    next s1 _ hx1 =>
      have h1 : s1.PcAligned := h.walk.fst hx1
      exact h1.pinPage.xlatWalk

theorem State.PcAligned.xlat (h : s.PcAligned) {q : Bool} {td : TReg} {a b : XReg} {wantW : Bool} :
    (s.xlat q td a b wantW).PcAligned := by
  unfold State.xlat
  extract_lets
  split
  · exact h
  · refine State.PcAligned.afterUses h ?_
    intro t h1
    split
    · exact h1.putTok.xlatEnd
    · split
      · exact h1.xlatFail
      · split
        · exact h1.xlatFail
        · split
          · extract_lets
            split
            · exact h1.xlatWalk
            · split
              next s1 _ hx6 =>
                have h2 : s1.PcAligned := h1.takeMte.get hx6
                exact h2.onCore fun _ h3 => h3.setT.setWalk
              · exact h1.xlatFail
          · exact h1.xlatWalk

theorem execXlat_pcAligned {_st : SStall} {t : TReg} {a b : XReg} {_r w : Bool} (h : s.PcAligned) :
    Out.PcAligned (execXlat _st t a b _r w s) := .next h.xlat

theorem execXlatq_pcAligned {_st : SStall} {t : TReg} {a b : XReg} {_r w : Bool} (h : s.PcAligned) :
    Out.PcAligned (execXlatq _st t a b _r w s) := .next h.xlat

theorem execPredictedFrameConfirmed_pcAligned {core : CoreId} (h : s.PcAligned) :
    Out.PcAligned (execPredictedFrameConfirmed core s) := by
  unfold execPredictedFrameConfirmed
  split
  · split
    · exact Out.PcAligned.ite (.next h.xlatWalk) (.next h)
    · exact .next h
  · exact .next h

theorem State.PcAligned.killMte (h : s.PcAligned) {i : Nat} : (s.killMte k i).PcAligned :=
  h.setMte.onCore fun _ h1 => h1.frame (by rfl)

theorem State.PcAligned.rewalk (h : s.PcAligned) {i : Nat} : (s.rewalk k i).PcAligned := by
  unfold State.rewalk
  extract_lets
  split
  · exact h
  · split
    · exact h
    · split
      next s1 _ _ _ _ hx2 =>
        have h1 : s1.PcAligned := h.translate.fst hx2
        exact h1.faultRecord
      next s1 _ _ hx2 =>
        have h1 : s1.PcAligned := h.translate.fst hx2
        exact h1.killMte
      next s1 _ _ _ hx2 =>
        have h1 : s1.PcAligned := h.translate.fst hx2
        exact h1.pinRuns.unpinRuns.setMte

theorem execRewalkComplete_pcAligned {core : CoreId} {mte : BitVec 6} (h : s.PcAligned) :
    Out.PcAligned (execRewalkComplete core mte s) := .next h.rewalk

theorem State.PcAligned.replyXlat (h : s.PcAligned) {f : FaultRec} {r : Reply} : (s.replyXlat f r).PcAligned := by
  unfold State.replyXlat
  extract_lets _ s1
  have h1 : s1.PcAligned := h.freeStall
  split
  · exact h1.dropFault
  · extract_lets
    split
    · exact h1.dropFault.uncache.xlatRetry
    · exact h1.dropFault.xlatFail
    · exact h1.dropFault.xlatFail.ite (h1.onCore fun _ h2 => h2.frame (by rfl))
    · exact h1.dropFault.xlatFail

theorem State.PcAligned.replyRewalk (h : s.PcAligned) {f : FaultRec} {i : BitVec 6} {r : Reply} :
    (s.replyRewalk f i r).PcAligned := by
  unfold State.replyRewalk
  split
  · exact h.dropFault.uncache
  · exact h
  · exact h.dropFault.killMte

theorem State.PcAligned.setWindow (h : s.PcAligned) {w : Nat} {x : Window} : (s.setWindow w x).PcAligned :=
  h.frame (by rfl)

theorem State.PcAligned.killWindow (h : s.PcAligned) {w : Nat} : (s.killWindow w).PcAligned := h.setWindow

theorem State.PcAligned.rewalkWindow (h : s.PcAligned) {w : Nat} : (s.rewalkWindow w).PcAligned := by
  unfold State.rewalkWindow
  extract_lets
  split
  · exact h
  · split
    next s1 _ _ _ _ hx1 =>
      have h1 : s1.PcAligned := h.translate.fst hx1
      exact h1.faultRecord
    next s1 _ _ hx1 =>
      have h1 : s1.PcAligned := h.translate.fst hx1
      exact h1.killWindow
    next s1 _ _ _ hx1 =>
      have h1 : s1.PcAligned := h.translate.fst hx1
      exact h1.pinRuns.unpinRuns.setWindow

theorem State.PcAligned.replyWindow (h : s.PcAligned) {f : FaultRec} {w : Nat} {r : Reply} :
    (s.replyWindow f w r).PcAligned := by
  unfold State.replyWindow
  split
  · exact h.dropFault.uncache.rewalkWindow
  · exact h
  · exact h.dropFault.killWindow

theorem State.PcAligned.setPinwait (h : s.PcAligned) {ms : Nat} : (s.setPinwait ms).PcAligned :=
  (h.frame (by rfl)).ite h

theorem State.PcAligned.answer (h : s.PcAligned) {ix : Nat} {r : Reply} : (s.answer ix r).PcAligned := by
  unfold State.answer
  extract_lets
  split
  · exact h
  · extract_lets _ _ s1
    have h1 : s1.PcAligned := h.frame (by rfl)
    split
    · exact h
    · split
      · exact h1.replyXlat
      · exact h1.replyRewalk
      · exact h1.uncache.ite h1
      · exact h1.replyWindow

end

section
/-! The operations of Sys2Proof/Machine/GangMem.lean. -/

variable {s : State} {c : Core} {k : Nat}

theorem State.PcAligned.vaPieces (h : s.PcAligned) {g : Nat} {w : Bool} {f v n : Nat} :
    (s.vaPieces g w f v n).1.PcAligned := by
  induction f generalizing s v n with
  | zero => exact h
  | succ f ih =>
    unfold State.vaPieces
    split
    · exact h
    · split
      · exact h
      · split
        next t _ _ _ ht => exact h.walk.fst ht
        next t _ ht =>
          have h1 : t.PcAligned := h.walk.fst ht
          split
          · exact h1
          · exact ih h1

theorem State.PcAligned.pieceRead (h : s.PcAligned) {e : Site} {a n : Nat} {key : Option (BitVec 13)} :
    (s.pieceRead e a n key).1.PcAligned := by
  unfold State.pieceRead
  split
  · exact h
  · split
    · exact h.physGet
    · exact h.rawGet

theorem State.PcAligned.pieceWrite (h : s.PcAligned) {e : Site} {a : Nat} {d : List PByte} {key : Option (BitVec 13)}
    {bytewise : Bool} : (s.pieceWrite e a d key bytewise).PcAligned := by
  unfold State.pieceWrite
  split
  · exact h
  · split
    · exact h.physPut
    · exact h.rawPut

theorem State.PcAligned.readPieces_foldl {x : State × List PByte} (h : x.1.PcAligned)
    {l : List (Site × Nat × Nat × Option (BitVec 13))} :
    (l.foldl (fun (s, d) p =>
      let (s, e) := s.pieceRead p.1 p.2.1 p.2.2.1 p.2.2.2
      (s, d ++ e)) x).1.PcAligned :=
  h.foldl_fst fun x p hx => by
    obtain ⟨t, d⟩ := x
    exact State.PcAligned.pieceRead hx

theorem State.PcAligned.gangRead (h : s.PcAligned) {g : GangId} {v n : Nat} : (s.gangRead g v n).1.PcAligned := by
  unfold State.gangRead
  extract_lets r q
  have hr : r.1.PcAligned := h.vaPieces
  have hq : q.1.PcAligned := State.PcAligned.readPieces_foldl hr
  clear_value q r
  split
  · exact hr
  · exact hq

theorem State.PcAligned.writePieces_foldl {x : State × List PByte} (h : x.1.PcAligned) {bytewise : Bool}
    {l : List (Site × Nat × Nat × Option (BitVec 13))} :
    (l.foldl (fun (s, d) p =>
      (s.pieceWrite p.1 p.2.1 (d.take p.2.2.1) p.2.2.2 bytewise, d.drop p.2.2.1)) x).1.PcAligned :=
  h.foldl_fst fun x p hx => by
    obtain ⟨t, d⟩ := x
    exact State.PcAligned.pieceWrite hx

theorem State.PcAligned.gangWrite (h : s.PcAligned) {g : GangId} {v : Nat} {d : List PByte} {bytewise : Bool} :
    OptKeeps State.PcAligned (s.gangWrite g v d bytewise) := by
  unfold State.gangWrite
  extract_lets r
  have hr : r.1.PcAligned := h.vaPieces
  clear_value r
  exact .ite trivial (.some (State.PcAligned.writePieces_foldl hr))

theorem State.PcAligned.gangStore (h : s.PcAligned) {g : GangId} {v : Nat} {d : List PByte} :
    (s.gangStore g v d).PcAligned := h.gangWrite.getD h

theorem State.PcAligned.gangWord (h : s.PcAligned) {g : GangId} {v : Nat} : (s.gangWord g v).1.PcAligned := h.gangRead

theorem State.PcAligned.gangPut (h : s.PcAligned) {g : GangId} {v n : Nat} : (s.gangPut g v n).PcAligned :=
  h.gangStore

theorem State.PcAligned.message (h : s.PcAligned) {v : Nat} : (s.message v).PcAligned :=
  (h.frame (by rfl)).ite (h.frame (by rfl))

theorem execMsixVectorUnmask_pcAligned {vec : BitVec 11} (h : s.PcAligned) :
    Out.PcAligned (execMsixVectorUnmask vec s) := .next ((h.frame (by rfl)).message.ite (h.frame (by rfl)))

end

section
/-! The operations of Sys2Proof/Machine/Units.lean. -/

variable {s : State} {c : Core} {k : Nat}

theorem State.PcAligned.markRunning (h : s.PcAligned) {g : GangId} {crec : Nat} : (s.markRunning g crec).PcAligned :=
  h.gangPut

theorem State.PcAligned.newUnit (h : s.PcAligned) {u : Nat → WorkUnit} : (s.newUnit u).1.PcAligned := h.frame (by rfl)

theorem State.PcAligned.onUnit (h : s.PcAligned) {id : Nat} {f : WorkUnit → WorkUnit} : (s.onUnit id f).PcAligned :=
  h.frame (by rfl)

theorem State.PcAligned.journal (h : s.PcAligned) {r : JrnRec} : (s.journal r).PcAligned := h.frame (by rfl)

theorem State.PcAligned.seasonUnit (h : s.PcAligned) {u : WorkUnit} : (s.seasonUnit u).PcAligned := by
  unfold State.seasonUnit
  extract_lets s1 _ _ _ _ _
  have h1 : s1.PcAligned := by
    unfold s1
    split
    · exact h.gangPut
    · exact h
  exact h1.frame (by rfl)

theorem State.PcAligned.seasonUnits {n : Nat} (h : s.PcAligned) : (State.seasonUnits n s).PcAligned := by
  induction n generalizing s with
  | zero => exact h
  | succ n ih =>
    unfold State.seasonUnits
    split
    · exact h
    · exact ih h.seasonUnit

theorem State.PcAligned.seasonRings (h : s.PcAligned) : s.seasonRings.PcAligned := by
  unfold State.seasonRings
  refine h.foldl fun t b h1 => ?_
  split
  · exact h1
  · exact h1.ite h1.gangPut

theorem State.PcAligned.noteLevels (h : s.PcAligned) : s.noteLevels.PcAligned := by
  unfold State.noteLevels
  refine h.foldl fun t b h1 => ?_
  extract_lets
  split
  · exact h1
  · exact h1.frame (by rfl)

theorem State.PcAligned.season (h : s.PcAligned) : s.season.PcAligned := h.seasonRings.noteLevels.seasonUnits

theorem State.PcAligned.stampUnit (h : s.PcAligned) {id : Nat} {img : List Byte} :
    (s.stampUnit id img).PcAligned := by
  unfold State.stampUnit
  split
  · exact h
  · extract_lets s1
    have h1 : s1.PcAligned := by
      unfold s1
      split
      · exact h.gangStore
      · exact h
    exact h1.onUnit

theorem State.PcAligned.setSlotQ (h : s.PcAligned) {q : SlotId} {t : QSlot} : (s.setSlotQ q t).PcAligned :=
  h.frame (by rfl)

theorem State.PcAligned.onSlot (h : s.PcAligned) {q : SlotId} {f : QSlot → QSlot} : (s.onSlot q f).PcAligned :=
  h.setSlotQ

theorem State.PcAligned.closeOrigin (h : s.PcAligned) {x : Origin} : (s.closeOrigin x).PcAligned := by
  unfold State.closeOrigin
  split
  · exact h.onSlot
  · extract_lets s1 _
    have h1 : s1.PcAligned := h.onSlot
    exact h1.frame (by rfl)
  · exact h

end

section
/-! The operations of Sys2Proof/Machine/Graphs.lean. -/

variable {s : State} {c : Core} {k : Nat}

theorem State.PcAligned.setGraph (h : s.PcAligned) {g : Nat} {x : Option Graph} : (s.setGraph g x).PcAligned :=
  h.frame (by rfl)

theorem State.PcAligned.restate (h : s.PcAligned) {id : Nat} {img : List Byte} : (s.restate id img).PcAligned :=
  h.frame (by rfl)

theorem State.PcAligned.settleGraph (h : s.PcAligned) : (s.settleGraph k).PcAligned := by
  unfold State.settleGraph
  split
  · exact h
  · exact h.ite (h.setGraph.ite h.setGraph.onUnit.stampUnit.closeOrigin)

theorem State.PcAligned.unstarted (h : s.PcAligned) {g : Graph} {n : Node} {status : Nat} :
    (s.unstarted g n status).PcAligned := h.ite h.newUnit.onUnit.stampUnit

theorem State.PcAligned.settleNode (h : s.PcAligned) {i : Nat} {g : Graph} : (s.settleNode k i g).PcAligned :=
  h.unstarted.setGraph.ite h.unstarted.setGraph

theorem State.PcAligned.settlePoisoned {f : Nat} (h : s.PcAligned) : (State.settlePoisoned f s k).PcAligned := by
  induction f generalizing s with
  | zero => exact h
  | succ f ih =>
    unfold State.settlePoisoned
    split
    · exact h
    · split
      · exact h
      · split
        · exact h
        · exact ih h.settleNode

theorem State.PcAligned.spread (h : s.PcAligned) : (s.spread k).PcAligned := by
  unfold State.spread
  split
  · exact h
  · exact h.settlePoisoned.settleGraph

theorem State.PcAligned.nodeEnd (h : s.PcAligned) {i status : Nat} {pois : Bool} {f : FInfo} {cond : Option Bool}
    {deps : List Nat} : (s.nodeEnd k i status pois f cond deps).PcAligned := by
  unfold State.nodeEnd
  split
  · exact h
  · exact h.setGraph.spread

theorem State.PcAligned.nodeSettle (h : s.PcAligned) {i : Nat} : OptKeeps State.PcAligned (s.nodeSettle k i) := by
  unfold State.nodeSettle
  split
  · exact .some h
  · exact OptKeeps.ite (.some h) (OptKeeps.ite (.some h.settleNode.spread) trivial)

theorem State.PcAligned.nodeStart (h : s.PcAligned) {i : Nat} : (s.nodeStart k i).PcAligned := by
  unfold State.nodeStart
  split
  · exact h
  · exact h.setGraph

theorem State.PcAligned.joinGraph (h : s.PcAligned) {id : Nat} : (s.joinGraph k id).PcAligned := by
  unfold State.joinGraph
  split
  · exact h
  · exact h.onUnit

end

section
/-! The operations of Sys2Proof/Machine/Launch.lean. -/

variable {s : State} {c : Core} {k : Nat}

theorem State.PcAligned.setJig (h : s.PcAligned) {w : Nat} {j : Option Jig} : (s.setJig w j).PcAligned :=
  h.frame (by rfl)

theorem State.PcAligned.onJig (h : s.PcAligned) {w : Nat} {f : Jig → Jig} : (s.onJig w f).PcAligned := h.setJig

theorem State.PcAligned.setDesc (h : s.PcAligned) {d : Nat} {x : SkipDesc} : (s.setDesc d x).PcAligned :=
  h.frame (by rfl)

theorem State.PcAligned.failUnit (h : s.PcAligned) {id : Nat} {o : Origin} {cause : Nat} :
    (s.failUnit id o cause).PcAligned := by
  unfold State.failUnit
  extract_lets s1
  have h1 : s1.PcAligned := h.stampUnit
  split
  · exact h1.nodeEnd
  · exact h1.closeOrigin

theorem State.PcAligned.endJig (h : s.PcAligned) {w : Nat} : (s.endJig w).PcAligned := by
  unfold State.endJig
  extract_lets s1
  have h1 : s1.PcAligned := h.setJig
  split
  · exact h
  · extract_lets s2 s3
    have h2 : s2.PcAligned := by
      unfold s2
      split
      · exact (h1.ite h1.setDesc).ite (h1.setDesc.ite h1.setDesc)
      · exact h1
    have h3 : s3.PcAligned := h2.stampUnit
    split
    · exact h3.restate
    · split
      · exact h3.nodeEnd
      · exact h3.closeOrigin

theorem State.PcAligned.tryEndJig (h : s.PcAligned) {w : Nat} : (s.tryEndJig w).PcAligned := by
  unfold State.tryEndJig
  split
  · exact h.endJig.ite h
  · exact h

theorem State.PcAligned.readJig (h : s.PcAligned) {g : GangId} {va : Nat} : (s.readJig g va).1.PcAligned := by
  unfold State.readJig
  split
  next s1 hx =>
    have h1 : s1.PcAligned := h.gangRead.fst hx
    exact h1
  next s1 _ hx =>
    have h1 : s1.PcAligned := h.gangRead.fst hx
    extract_lets _ c1
    have h2 : c1.1.PcAligned := by
      unfold c1
      split
      · exact h1
      · split
        · exact h1
        · split
          next s2 hx3 =>
            have h2 : s2.PcAligned := h1.gangRead.fst hx3
            exact h2
          next s2 _ hx3 =>
            have h2 : s2.PcAligned := h1.gangRead.fst hx3
            exact h2.journal
    split
    · exact h1
    · clear_value c1
      split
      · exact h2
      · exact h2
      · split
        · exact h2
        · split
          · exact h2
          · split
            next s3 hx4 =>
              have h3 : s3.PcAligned := h2.gangRead.fst hx4
              exact h3
            next s3 _ hx4 =>
              have h3 : s3.PcAligned := h2.gangRead.fst hx4
              exact h3

theorem State.PcAligned.journalInplace (h : s.PcAligned) {id : Nat} {g : GangId} {r : List Byte} :
    (s.journalInplace id g r).PcAligned := by
  unfold State.journalInplace
  refine h.foldl fun t b h1 => ?_
  split
  · exact h1
  · split
    next s1 _ hx1 =>
      have h2 : s1.PcAligned := h1.gangRead.fst hx1
      exact h2.journal
    next s1 hx1 =>
      have h2 : s1.PcAligned := h1.gangRead.fst hx1
      exact h2

theorem State.PcAligned.nextPlace (h : s.PcAligned) : s.nextPlace.2.PcAligned := h.frame (by rfl)

theorem State.PcAligned.takeJig (h : s.PcAligned) {t : Take} {va : Nat} :
    OptKeeps (·.1.PcAligned) (s.takeJig t va) := by
  unfold State.takeJig
  split
  · trivial
  next =>
    extract_lets _ rd new _ _ fail _ u _ v
    have hrd : rd.1.PcAligned := h.readJig
    have hnew : ∀ {x : State} {kd : UnitKind}, x.PcAligned → (new x kd).1.PcAligned := fun hx => hx.newUnit
    have hfail : ∀ c, (fail c).1.PcAligned := fun c => (hnew hrd.markRunning).failUnit
    have hu : u.PcAligned := (hnew hrd.markRunning).stampUnit
    have hv : v.PcAligned := hrd.nextPlace.markRunning
    clear_value fail u v
    split
    · exact hfail _
    · refine OptKeeps.pair ?_
      split
      · exact hu.nodeEnd
      · exact hu.closeOrigin
    · extract_lets _ _ _ _ _ _ y z
      have hy : y.PcAligned := (hnew hv).setJig
      have hz : z.PcAligned := hy.setDesc.ite hy
      exact .ite trivial (.ite (hfail _) (.ite (hfail _) (.ite trivial (.pair hz.journalInplace))))

theorem State.PcAligned.takeGraph (h : s.PcAligned) {t : Take} {va : Nat} :
    OptKeeps (·.1.PcAligned) (s.takeGraph t va) := by
  unfold State.takeGraph
  extract_lets s1 q
  have h1 : s1.PcAligned := h.markRunning
  have h2 : q.1.PcAligned := h1.newUnit
  split
  · exact trivial
  · split
    next s2 hx1 =>
      have h3 : s2.PcAligned := h2.gangRead.fst hx1
      exact .pair h3.failUnit
    next s2 _ hx1 =>
      have h3 : s2.PcAligned := h2.gangRead.fst hx1
      extract_lets
      split
      next s3 hx2 =>
        have h4 : s3.PcAligned := h3.gangRead.fst hx2
        exact .pair h4.failUnit
      next s3 _ hx2 =>
        have h4 : s3.PcAligned := h3.gangRead.fst hx2
        split
        · exact .pair h4.failUnit
        · exact OptKeeps.ite trivial (.pair h4.setGraph)

end

section
/-! The operations of Sys2Proof/Machine/Sequencer.lean. -/

variable {s : State} {c : Core} {k : Nat}

theorem execBindDescriptor_pcAligned {n : BitVec 6} {gang : GangId} {image : List Byte} (h : s.PcAligned) :
    Out.PcAligned (execBindDescriptor n gang image s) := Out.PcAligned.ite (.next h) (.next h.setDesc)

theorem State.PcAligned.freeDesc (h : s.PcAligned) {n : Nat} : (s.freeDesc n).PcAligned := h.setDesc

theorem execFreeDescriptor_pcAligned {n : BitVec 6} (h : s.PcAligned) : Out.PcAligned (execFreeDescriptor n s) :=
  .next h.freeDesc

theorem State.PcAligned.mapEntry (h : s.PcAligned) {g : GangId} {x : SkipDesc} {planes : List Nat} {w : Bool}
    {st t : Nat} : (s.mapEntry g x planes w st t).1.PcAligned := by
  unfold State.mapEntry
  refine h.foldl_fst fun t1 b h1 => ?_
  extract_lets
  split
  extract_lets q
  have h2 : q.1.PcAligned := h1.vaPieces
  split
  · exact h1
  · split
    · exact h2
    · split
      next s2 _ hx1 =>
        have h3 : s2.PcAligned := h2.gangRead.fst hx1
        exact h3
      next s2 hx1 =>
        have h3 : s2.PcAligned := h2.gangRead.fst hx1
        exact h3

theorem execSkipr_pcAligned {_st : SStall} {d a b : XReg} (h : s.PcAligned) :
    Out.PcAligned (execSkipr _st d a b s) := by
  unfold execSkipr
  refine Out.PcAligned.next ?_
  refine State.PcAligned.releaseS h ?_
  intro t h1
  split
  · exact h1.retireX
  · split
    next s1 _ _ _ hx1 =>
      have h2 : s1.PcAligned := h1.mapEntry.fst hx1
      exact h2.retireX
    next s1 _ _ hx2 =>
      have h2 : s1.PcAligned := h1.mapEntry.fst hx2
      exact h2.retireX

theorem execSkipw_pcAligned {_st : SStall} {d a b : XReg} (h : s.PcAligned) :
    Out.PcAligned (execSkipw _st d a b s) := by
  unfold execSkipw
  split
  next s1 hx =>
    have h1 : s1.PcAligned := h.twinStop.get hx
    exact .next h1
  · refine Out.PcAligned.next ?_
    refine State.PcAligned.releaseS h ?_
    intro t h1
    extract_lets
    split
    · exact (h1.setMe h1.me.oox).retire
    · split
      next s1 _ _ hx2 =>
        have h2 : s1.PcAligned := h1.mapEntry.fst hx2
        exact h2.gangStore.gangStore.retire
      next s1 _ _ hx3 =>
        have h2 : s1.PcAligned := h1.mapEntry.fst hx3
        exact (h2.setMe h2.me.oox).retire

theorem State.PcAligned.carryOut (h : s.PcAligned) {w : Nat} {j : Jig} {x : SkipDesc} {st t : Nat} {k c : PByte}
    {skip : Bool} {run : Nat} {sk : List PByte} : (s.carryOut w j x st t k c skip run sk).PcAligned :=
  h.gangStore.gangStore.gangStore.onJig.tryEndJig.ite h.gangStore.gangStore.onJig

theorem execSkipDecision_pcAligned {wk : WalkerId} (h : s.PcAligned) : Out.PcAligned (execSkipDecision wk s) := by
  unfold execSkipDecision
  extract_lets
  split
  · exact .next h
  · extract_lets
    split
    · exact .next h
    next =>
      split
      · exact .next h
      · split
        · exact .next h.carryOut
        · split
          next s1 _ _ _ hx4 =>
            have h1 : s1.PcAligned := h.mapEntry.fst hx4
            extract_lets q
            have h2 : q.1.PcAligned := h1.vaPieces
            split
            · exact .next h2.onJig.tryEndJig
            · split
              next s2 _ hx6 =>
                have h3 : s2.PcAligned := h2.gangRead.fst hx6
                exact .next h3.journal.carryOut
              next s2 hx6 =>
                have h3 : s2.PcAligned := h2.gangRead.fst hx6
                exact .next h3.onJig.tryEndJig
          next s1 _ _ hx5 =>
            have h1 : s1.PcAligned := h.mapEntry.fst hx5
            exact .next h1.onJig.tryEndJig

theorem State.PcAligned.writeAnchor (h : s.PcAligned) {j : Jig} {t : Nat} : (s.writeAnchor j t).PcAligned := by
  unfold State.writeAnchor
  extract_lets
  split
  · exact h.gangStore.gangStore
  · exact h

end

section
/-! The operations of Sys2Proof/Machine/Stops.lean. -/

variable {s : State} {c : Core} {k : Nat}

theorem State.PcAligned.abandonWalk (h : s.PcAligned) : (s.abandonWalk k).PcAligned := by
  unfold State.abandonWalk
  extract_lets _ s1
  have h1 : s1.PcAligned := h.foldl fun _ _ h1 => h1.freeStall.dropFault
  split
  · exact h
  · exact h1.unpinPages.unpredict.onCore fun _ h2 => h2.frame (by rfl)

theorem State.PcAligned.stopCmd (h : s.PcAligned) {e : EngineSel} : (s.stopCmd k e).PcAligned := by
  unfold State.stopCmd
  split
  · exact h
  · exact (h.onCore fun _ h1 => h1.setFlight).ite ((h.runCmd.onCore fun _ h1 => h1.setFlight).ite h)

theorem State.PcAligned.stopTaken (h : s.PcAligned) {e : EngineSel} : (s.stopTaken k e).PcAligned := by
  unfold State.stopTaken
  extract_lets r
  have h1 : r.1.PcAligned := by
    unfold r
    refine h.foldl_fst fun t b h1 => ?_
    extract_lets y
    have h2 : y.1.PcAligned := h1.runCmd
    split
    · exact h2
    · exact h1
  exact h1.onCore fun _ h2 => h2.setTaken

theorem State.PcAligned.stopEngines (h : s.PcAligned) : (s.stopEngines k).PcAligned :=
  h.stopCmd.stopTaken.stopCmd.stopTaken

theorem State.PcAligned.haltQueues {n : Nat} (h : s.PcAligned) {v : Bool} : (State.haltQueues n s k v).PcAligned := by
  induction n generalizing s with
  | zero => exact h
  | succ n ih =>
    unfold State.haltQueues
    extract_lets
    split
    · exact h
    · split
      next t ht => exact ih (h.popStore.get ht)
      · split
        next t ht => exact ih (h.performLoad.of_done ht)
        next ht => exact ih (h.performLoad.of_trapped ht)
        · exact h

theorem Core.PcAligned.rewindV (h : c.PcAligned) {n : Nat} : (c.rewindV n).1.PcAligned := by
  induction n generalizing c with
  | zero => exact h
  | succ n ih =>
    unfold Core.rewindV
    split
    · exact h
    · split
      · exact h
      · extract_lets
        split
        · exact ih (h.frame (by rfl))
        · exact h

theorem State.PcAligned.abandonV (h : s.PcAligned) : (s.abandonV k).PcAligned :=
  (h.setCore h.core.rewindV).foldl fun _ _ h1 => h1.release

theorem State.PcAligned.haltCore (h : s.PcAligned) : (s.haltCore k).PcAligned := by
  unfold State.haltCore
  extract_lets s1 s2 s3 s4 s5
  have h1 : s1.PcAligned := h.abandonWalk
  have h2 : s2.PcAligned := by
    unfold s2
    split
    · exact h1.ite h1.abandonS
    · exact h1
  have h3 : s3.PcAligned := h2.stopEngines.dropWord
  have h4 : s4.PcAligned := h3.onCore fun _ h4 => h4.frame (by rfl)
  have h5 : s5.PcAligned := h4.haltQueues
  exact h5.haltQueues.abandonV.flush

end

section
/-! The operations of Sys2Proof/Machine/Steps.lean. -/

variable {s : State} {c : Core} {k : Nat}

theorem State.PcAligned.cutCheck (h : s.PcAligned) {w : Nat} {bases : List Nat} {j : Jig} :
    (s.cutCheck w bases j).1.PcAligned := by
  unfold State.cutCheck
  extract_lets _ r
  have h1 : r.1.PcAligned := by
    unfold r
    refine h.foldl_fst fun t b h1 => ?_
    extract_lets s1 _ _
    have h2 : s1.PcAligned := h1
    split
    · split
      · exact h2
      · split
        next s2 _ _ _ hx2 =>
          have h3 : s2.PcAligned := h2.translate.fst hx2
          exact h3
        next s2 _ _ hx2 =>
          have h3 : s2.PcAligned := h2.translate.fst hx2
          exact h3
        next s2 _ _ _ _ hx2 =>
          have h3 : s2.PcAligned := h2.translate.fst hx2
          split
          · exact h3.faultRecord
          · split
            · exact h3
            · exact h3
            · exact h3.dropFault.faultRecord
            · exact h3.dropFault
    · exact h2
  exact h1

theorem State.PcAligned.markDirty (h : s.PcAligned) {g : GangId} : (s.markDirty g k).PcAligned := by
  unfold State.markDirty
  extract_lets
  split
  · exact h
  · exact h.frame (by rfl)

/-- A step begins at address 0 of its code (R277). -/
theorem State.PcAligned.prepare (h : s.PcAligned) {w : Nat} {j : Jig} {base rank n : Nat} {twin : TwinSide}
    {code : List Byte} : (s.prepare w j base rank n twin code).PcAligned := by
  unfold State.prepare
  extract_lets _ d _ _ _ _ _ c3 u _ _
  have hd : d.2.PcAligned := h.flush.draw
  have hc : c3.PcAligned := .of_zero rfl
  have hu : u.PcAligned := hd.setCore hc
  clear_value u
  exact hu.rawPut.markDirty.onUnit

theorem State.PcAligned.cutTokens (h : s.PcAligned) {j : Jig} : (s.cutTokens k j).PcAligned := by
  unfold State.cutTokens
  refine h.foldl fun t b h1 => ?_
  extract_lets
  split
  next s1 _ _ _ hx =>
    have h2 : s1.PcAligned := h1.translate.fst hx
    split
    next s2 _ hx1 =>
      have h3 : s2.PcAligned := h2.newMte.get hx1
      exact h3.putTok
    · exact h2
  next s1 _ _ hx1 =>
    have h2 : s1.PcAligned := h1.translate.fst hx1
    exact h2

theorem State.PcAligned.startStep (h : s.PcAligned) {w : Nat} {j : Jig} {n : Nat} {bases : List Nat}
    {code : List Byte} : (s.startStep w j n bases code).PcAligned :=
  h.foldl fun _ _ h1 => h1.setPanel.foldl fun _ _ h2 => h2.prepare.cutTokens

theorem State.PcAligned.dropCut (h : s.PcAligned) {w : Nat} : (s.dropCut w).PcAligned := h.frame (by rfl)

theorem State.PcAligned.failStep (h : s.PcAligned) {w n : Nat} {again : Bool} {f : FInfo} :
    (s.failStep w n again f).PcAligned := h.onJig.tryEndJig

theorem State.PcAligned.codeFor (h : s.PcAligned) {j : Jig} {bases : List Nat} : (s.codeFor j bases).1.PcAligned := by
  unfold State.codeFor
  extract_lets r
  have h1 : r.1.PcAligned := h.gangRead
  split
  · exact h
  · exact h1

theorem State.PcAligned.handOut (h : s.PcAligned) {w : Nat} : (s.handOut w).PcAligned := by
  unfold State.handOut
  split
  · exact h
  · extract_lets
    split
    · exact h
    · split
      · exact h.onJig.tryEndJig
      · split
        · exact h
        · extract_lets
          split
          · exact h
          · split
            next s1 hx5 =>
              have h1 : s1.PcAligned := h.cutCheck.fst hx5
              exact h1
            next s1 hx5 =>
              have h1 : s1.PcAligned := h.cutCheck.fst hx5
              exact h1.dropCut.failStep
            next s1 hx5 =>
              have h1 : s1.PcAligned := h.cutCheck.fst hx5
              split
              next s2 hx6 =>
                have h2 : s2.PcAligned := h1.dropCut.codeFor.fst hx6
                exact h2.failStep
              next s2 _ hx6 =>
                have h2 : s2.PcAligned := h1.dropCut.codeFor.fst hx6
                exact h2.startStep.nextPlace.onJig.season

theorem execStepHandout_pcAligned {wk : WalkerId} (h : s.PcAligned) : Out.PcAligned (execStepHandout wk s) := by
  unfold execStepHandout
  extract_lets
  split
  · exact .next h
  · exact .next (h.handOut.ite h)

theorem execPanelReserve_pcAligned {wk : WalkerId} (h : s.PcAligned) : Out.PcAligned (execPanelReserve wk s) := by
  unfold execPanelReserve
  extract_lets
  split
  · exact .next h
  · exact Out.PcAligned.ite (.next h) (.next (h.ite h.onJig))

theorem State.PcAligned.returnCore (h : s.PcAligned) {stop : Bool} : (s.returnCore k stop).PcAligned := by
  unfold State.returnCore
  extract_lets s1 _ _ s2 s3
  have h1 : s1.PcAligned := h.abandonWalk.drain
  have h2 : s2.PcAligned := h1.foldl fun _ _ h2 => h2.release
  have h3 : s3.PcAligned := h2.foldl fun _ _ h3 => h3.putTok
  exact h3.onCore fun _ h4 => h4.frame (by rfl)

theorem State.PcAligned.returnPanel (h : s.PcAligned) {b n : Nat} {stop : Bool} :
    (s.returnPanel b n stop).PcAligned := by
  unfold State.returnPanel
  extract_lets s1 s2
  have h1 : s1.PcAligned := (h.foldl fun _ _ h1 => h1.stopEngines).ite h
  have h2 : s2.PcAligned := h1.foldl fun _ _ h2 => h2.drain
  exact (h2.foldl fun _ _ h3 => h3.returnCore).setPanel

theorem State.PcAligned.stepDone (h : s.PcAligned) {w n : Nat} {err : Option FInfo} {pois : Bool} :
    (s.stepDone w n err pois).PcAligned := by
  unfold State.stepDone
  split
  · exact h
  · exact ((h.writeAnchor.ite h).onJig).tryEndJig

theorem State.PcAligned.twinDone (h : s.PcAligned) {w n : Nat} {a b : TwinEnd} {pois : Bool} :
    (s.twinDone w n a b pois).PcAligned := by
  unfold State.twinDone
  extract_lets s1 _
  have h1 : s1.PcAligned := h.onJig
  split
  · exact h
  · extract_lets _ _ _ _ s2
    have h2 : s2.PcAligned := h1.frame (by rfl)
    split
    · exact h1.stepDone
    · exact h1.stepDone.ite (h2.stepDone.ite h2.onJig)

theorem State.PcAligned.endStep (h : s.PcAligned) : (s.endStep k).PcAligned := by
  unfold State.endStep
  extract_lets
  split
  · exact h
  · extract_lets _ s1 s2 _ _ _ s3 _ _
    have h1 : s1.PcAligned := (h.foldl fun _ _ h1 => h1.stopEngines).ite h
    have h2 : s2.PcAligned := h1.foldl fun _ _ h2 => h2.drain
    have h3 : s3.PcAligned := h2.returnPanel
    split
    · exact h
    · split
      · exact h3.stepDone
      · split
        · exact h3
        · split
          · exact h3.twinDone
          · exact h3.onJig

theorem State.PcAligned.stopSteps (h : s.PcAligned) {w : Nat} : (s.stopSteps w).PcAligned := by
  unfold State.stopSteps
  split
  · exact h
  · extract_lets _ r
    have h1 : r.1.PcAligned := by
      unfold r
      refine h.foldl_fst fun t b h1 => ?_
      extract_lets s1 _
      have h2 : s1.PcAligned := h1.foldl fun _ _ h2 => h2.stopEngines.drain
      split
      · split
        · exact h1
        · exact h2.returnPanel
      · exact h1
    exact h1.onJig

theorem State.PcAligned.dropSaved (h : s.PcAligned) {p : Saved → Bool} :
    State.PcAligned { s with saved := s.saved.map (fun g => (g.1, g.2.filter p)) } := by
  refine h.withSaved (by rfl) fun g hg e he => ?_
  obtain ⟨g', hg', rfl⟩ := List.mem_map.1 hg
  exact h.of_saved hg' (List.mem_filter.1 he).1

theorem State.PcAligned.cancelJig (h : s.PcAligned) {w : Nat} : (s.cancelJig w).PcAligned := by
  unfold State.cancelJig
  exact h.stopSteps.dropSaved.dropCut.onJig.tryEndJig

theorem execTlimitExpiry_pcAligned {core : CoreId} (h : s.PcAligned) : Out.PcAligned (execTlimitExpiry core s) := by
  unfold execTlimitExpiry
  extract_lets
  split
  · exact .next h
  · exact Out.PcAligned.ite (.next h) (.next h.endPanelStep)

end

section
/-! The operations of Sys2Proof/Machine/HostRings.lean. -/

variable {s : State} {c : Core} {k : Nat}

theorem State.PcAligned.setHostRing (h : s.PcAligned) {r : Nat} {x : HostRing} : (s.setHostRing r x).PcAligned :=
  h.frame (by rfl)

theorem State.PcAligned.messageOf (h : s.PcAligned) {part v : Nat} : (s.messageOf part v).PcAligned := h.message

theorem State.PcAligned.ringMessage (h : s.PcAligned) {r : Nat} : (s.ringMessage r).PcAligned :=
  h.setHostRing.messageOf

theorem State.PcAligned.ringRoom (h : s.PcAligned) {r : Nat} {g : GangId} : (s.ringRoom r g).PcAligned := by
  unfold State.ringRoom
  extract_lets
  split
  · exact trivial
  · split
    next hx1 =>
      exact trivial
    next s1 _ hx1 =>
      have h1 : s1.PcAligned := h.gangWord.fst hx1
      exact Append.PcAligned.ite trivial (.done h1)

theorem State.PcAligned.writeEntry (h : s.PcAligned) {r : Nat} {g : GangId} {ty tag payload : Nat} {unit : Option Nat} :
    (s.writeEntry r g ty tag payload unit).PcAligned := by
  unfold State.writeEntry
  extract_lets
  split
  · exact trivial
  next s1 hx =>
    have h1 : s1.PcAligned := h.gangWrite.get hx
    exact .done (h1.gangPut.setHostRing.ringMessage.ite h1.gangPut.setHostRing)

theorem State.PcAligned.appendEntry (h : s.PcAligned) {r : Nat} {g : GangId} {ty tag payload : Nat}
    {unit : Option Nat} : (s.appendEntry r g ty tag payload unit).PcAligned := by
  unfold State.appendEntry
  split
  next s1 hx =>
    have h1 : s1.PcAligned := h.ringRoom.of_done hx
    exact h1.writeEntry
  · exact h.ringRoom

theorem execHostringTimeExpiry_pcAligned {ring : BitVec 8} (h : s.PcAligned) :
    Out.PcAligned (execHostringTimeExpiry ring s) := .next (h.ringMessage.ite h)

theorem State.PcAligned.copyBytes {g : GangId} {f : Nat} (h : s.PcAligned) {a b n : Nat} :
    (State.copyBytes g f s a b n).1.PcAligned := by
  induction f generalizing s a b n with
  | zero => exact h
  | succ f ih =>
    unfold State.copyBytes
    split
    · exact h
    · extract_lets
      split
      next t ht => exact h.gangRead.fst ht
      next t _ ht =>
        have h1 : t.PcAligned := h.gangRead.fst ht
        split
        · exact h1
        next hu => exact ih (h1.gangWrite.get hu)

theorem State.PcAligned.copyRun (h : s.PcAligned) {g : GangId} {a b n : Nat} : (s.copyRun g a b n).1.PcAligned :=
  h.copyBytes

theorem State.PcAligned.pumpRetract (h : s.PcAligned) {r : Nat} : (s.pumpRetract r).PcAligned := by
  unfold State.pumpRetract
  extract_lets
  split
  · split
    next s1 hx2 =>
      have h1 : s1.PcAligned := h.appendEntry.of_done hx2
      exact h1.setHostRing
    · exact h
    · exact h.setHostRing
  · exact h

theorem State.PcAligned.pumpUnit (h : s.PcAligned) {id : Nat} : (s.pumpUnit id).PcAligned := by
  unfold State.pumpUnit
  split
  · exact h
  · split
    · exact h
    · split
      · extract_lets
        split
        · exact h.ite h.onJig.tryEndJig
        · split
          · exact h
          · exact h.ite h.setJig
      · exact h.stampUnit
      · exact h.copyRun.stampUnit.restate
      · split
        · exact h
        · split
          next s1 hx4 =>
            have h1 : s1.PcAligned := h.appendEntry.of_done hx4
            exact h1.stampUnit
          · exact h
          · exact h.stampUnit

theorem State.PcAligned.pump {n : Nat} (h : s.PcAligned) : (State.pump n s).PcAligned := by
  induction n generalizing s with
  | zero => exact h
  | succ n ih =>
    unfold State.pump
    split
    · exact h
    · exact ih ((h.foldl fun _ _ h1 => h1.pumpRetract).foldl fun _ _ h1 => h1.pumpUnit)

theorem State.PcAligned.proceed (h : s.PcAligned) : s.proceed.PcAligned :=
  (((h.foldl fun _ _ h1 => h1.pumpRetract).pump).foldl fun _ _ h1 => h1.settleGraph).season

theorem State.PcAligned.retractFrom (h : s.PcAligned) {ids : List Nat} : (s.retractFrom ids).PcAligned :=
  h.frame (by rfl)

theorem State.PcAligned.mapCores (h : s.PcAligned) {f : Core → Core} (hf : ∀ c, c.PcAligned → (f c).PcAligned)
    (hd : f {} = {}) : State.PcAligned { s with cores := Sparse.mapVals {} f s.cores } := by
  refine ⟨fun k => ?_, h.2⟩
  have hk : (Sparse.get {} (Sparse.mapVals {} f s.cores) k).PcAligned := by
    rw [Sparse.get_mapVals f hd]
    exact hf _ (h.1 k)
  exact hk

theorem State.PcAligned.replay (h : s.PcAligned) {ids : List Nat} : (s.replay ids).PcAligned := by
  unfold State.replay
  extract_lets _ _ s1 s2 s3 s4 s5
  have h1 : s1.PcAligned := h.foldl fun t u ht => by
    split
    · exact ht.markRunning
    · exact ht
  clear_value s1
  have h2 : s2.PcAligned := h1.foldl fun t u ht => by
    split
    · exact ht.dropSaved.stopSteps.onJig
    · exact ht
  clear_value s2
  have h3 : s3.PcAligned := h2.foldl fun t r ht => by
    split
    · exact ht.gangStore.ite ht
    · exact ht
  clear_value s3
  have h4 : s4.PcAligned := h3.mapCores (fun c hc => .ite (hc.frame (by rfl)) hc) rfl
  clear_value s4
  have h5 : s5.PcAligned := h4.foldl fun t u ht => ht.onUnit
  exact h5.retractFrom.proceed

theorem execStepEnd_pcAligned {core : CoreId} (h : s.PcAligned) : Out.PcAligned (execStepEnd core s) :=
  Out.PcAligned.ite (.next h) (.next h.endStep.proceed)

end

section
/-! The operations of Sys2Proof/Machine/Queues.lean. -/

variable {s : State} {c : Core} {k : Nat}

theorem State.PcAligned.slotMessage (h : s.PcAligned) {q : SlotId} : (s.slotMessage q).PcAligned := h.messageOf

theorem State.PcAligned.headPacket (h : s.PcAligned) {q : SlotId} : (s.headPacket q).1.PcAligned := by
  unfold State.headPacket
  extract_lets
  split
  · exact h
  · split
    next s1 _ hx1 =>
      have h1 : s1.PcAligned := h.gangWord.fst hx1
      split
      · exact h1
      · split
        next s2 _ hx3 =>
          have h2 : s2.PcAligned := h1.gangRead.fst hx3
          exact h2
        next s2 hx3 =>
          have h2 : s2.PcAligned := h1.gangRead.fst hx3
          exact h2
    next s1 hx1 =>
      have h1 : s1.PcAligned := h.gangWord.fst hx1
      exact h1

theorem State.PcAligned.readHead (h : s.PcAligned) {q : SlotId} : (s.readHead q).1.PcAligned := by
  unfold State.readHead
  extract_lets
  split
  · exact h
  · split
    next s1 hx1 =>
      have h1 : s1.PcAligned := h.headPacket.fst hx1
      exact h1
    next s1 _ _ hx1 =>
      have h1 : s1.PcAligned := h.headPacket.fst hx1
      split
      · exact h1
      · split
        · exact h1
        · exact h1

theorem State.PcAligned.noteHead (h : s.PcAligned) {q : SlotId} : (s.noteHead q).PcAligned := h.frame (by rfl)

theorem State.PcAligned.nextHead (h : s.PcAligned) {q : SlotId} : (s.nextHead q).PcAligned :=
  (h.frame (by rfl)).noteHead

theorem State.PcAligned.advanceHead (h : s.PcAligned) {q : SlotId} {i : Nat} : (s.advanceHead q i).PcAligned :=
  h.onSlot.gangPut

theorem State.PcAligned.malformed (h : s.PcAligned) {q : SlotId} : (s.malformed q).PcAligned :=
  h.onSlot.slotMessage.noteHead

theorem State.PcAligned.nextHead_getD (h : s.PcAligned) {o : Option State} (ho : OptKeeps State.PcAligned o)
    {q : SlotId} : ((o.map (fun t => t.nextHead q)).getD s).PcAligned :=
  (ho.map fun _ h1 => State.PcAligned.nextHead h1 : OptKeeps State.PcAligned _).getD h

theorem State.PcAligned.takeHead (h : s.PcAligned) {q : SlotId} {ty : Nat}
    {f : State → Nat → List Byte → Option State} (hf : ∀ t i d, t.PcAligned → OptKeeps State.PcAligned (f t i d)) :
    (s.takeHead q ty f).PcAligned := by
  unfold State.takeHead
  split
  next t ht => exact h.readHead.fst ht
  next t ht => exact (h.readHead.fst ht).malformed
  next t i d ht =>
    have h1 : t.PcAligned := h.readHead.fst ht
    exact (h1.nextHead_getD (hf t i d h1)).ite h1

theorem State.PcAligned.takeWork (h : s.PcAligned) {t : Take} {d : List Byte} :
    OptKeeps (·.1.PcAligned) (s.takeWork t d) := by
  unfold State.takeWork
  extract_lets s1 q
  have h1 : s1.PcAligned := h.markRunning
  have h2 : q.1.PcAligned := h1.newUnit
  split
  · exact OptKeeps.ite (.pair h2.failUnit) (OptKeeps.ite h.takeJig h.takeGraph)
  · exact OptKeeps.ite h.takeJig h.takeGraph

theorem State.PcAligned.takePacket (h : s.PcAligned) {q : SlotId} {i : Nat} {d : List Byte} :
    OptKeeps State.PcAligned (s.takePacket q i d) := h.advanceHead.journal.takeWork.map fun _ h1 => h1.season

theorem State.PcAligned.takeLaunched (h : s.PcAligned) {q : SlotId} {l : Launch} :
    OptKeeps State.PcAligned (s.takeLaunched q l) := h.onSlot.journal.takeWork.map fun _ h1 => h1.season

theorem State.PcAligned.packetWork (h : s.PcAligned) {q : SlotId} {ty : Nat} : (s.packetWork q ty).PcAligned :=
  h.takeHead fun _ _ _ h1 => OptKeeps.ite h1.takePacket trivial

theorem execPacketJig_pcAligned {slot : SlotId} (h : s.PcAligned) : Out.PcAligned (execPacketJig slot s) :=
  .next h.packetWork

theorem execPacketGraph_pcAligned {slot : SlotId} (h : s.PcAligned) : Out.PcAligned (execPacketGraph slot s) :=
  .next h.packetWork

theorem execPacketCopy_pcAligned {slot : SlotId} (h : s.PcAligned) : Out.PcAligned (execPacketCopy slot s) :=
  .next (h.takeHead fun _ _ _ h1 => .some h1.advanceHead.markRunning.newUnit.journal.onSlot)

theorem execPacketCopyDone_pcAligned {slot : SlotId} (h : s.PcAligned) :
    Out.PcAligned (execPacketCopyDone slot s) := by
  unfold execPacketCopyDone
  split
  · exact .next h
  · exact Out.PcAligned.ite (.next h) (.next h.copyRun.onSlot.stampUnit.closeOrigin.proceed)

theorem State.PcAligned.signalWord (h : s.PcAligned) {g : GangId} {d : List Byte} :
    OptKeeps State.PcAligned (s.signalWord g d) := by
  unfold State.signalWord
  extract_lets
  split
  next s1 hx =>
    exact trivial
  next s1 _ hx =>
    have h1 : s1.PcAligned := h.gangRead.fst hx
    exact OptKeeps.ite h1.gangWrite h1.gangWrite

theorem State.PcAligned.unreachable (h : s.PcAligned) {q : SlotId} {signal : Bool} :
    (s.unreachable q signal).PcAligned := h.onSlot.slotMessage.noteHead

theorem State.PcAligned.trySignals {n : Nat} (h : s.PcAligned) {q : SlotId} : (State.trySignals n s q).PcAligned := by
  induction n generalizing s with
  | zero => exact h
  | succ n ih =>
    unfold State.trySignals
    extract_lets
    split
    · exact h
    · split
      · exact h
      · split
        · exact h.unreachable
        next hu =>
          extract_lets v w
          have hv : v.PcAligned := (h.signalWord.get hu).onSlot.closeOrigin
          have hw : w.PcAligned := hv.messageOf.ite hv
          exact ih hw

theorem State.PcAligned.signals (h : s.PcAligned) {q : SlotId} : (s.signals q).PcAligned := h.trySignals

theorem execPacketSignal_pcAligned {slot : SlotId} (h : s.PcAligned) : Out.PcAligned (execPacketSignal slot s) :=
  .next ((h.takeHead fun _ _ _ h1 => .some h1.advanceHead.journal.onSlot).signals)

theorem State.PcAligned.tryWait (h : s.PcAligned) {q : SlotId} : (s.tryWait q).PcAligned := by
  unfold State.tryWait
  extract_lets
  split
  · exact h
  · split
    · exact h
    · split
      next fst hx2 =>
        have h1 : fst.PcAligned := h.gangWord.fst hx2
        exact h1.unreachable
      next s1 _ hx2 =>
        have h1 : s1.PcAligned := h.gangWord.fst hx2
        exact h1.journal.onSlot.closeOrigin.ite h1.journal

theorem State.PcAligned.tailWrite (h : s.PcAligned) {q : SlotId} {w : Nat} : (s.tailWrite q w).PcAligned :=
  ((h.setSlotQ.slotMessage.ite h.setSlotQ).tryWait).noteHead

theorem execTailWrite_pcAligned {slot : SlotId} {w : BitVec 64} (h : s.PcAligned) :
    Out.PcAligned (execTailWrite slot w s) := .next h.tailWrite

theorem State.PcAligned.observe (h : s.PcAligned) : s.observe.PcAligned :=
  h.ite ((h.frame (by rfl)).foldl fun _ _ h1 => h1.foldl fun _ _ h2 => h2.tailWrite.ite h2)

theorem execPacketWait_pcAligned {slot : SlotId} (h : s.PcAligned) : Out.PcAligned (execPacketWait slot s) :=
  .next ((h.takeHead fun _ _ _ h1 => .some h1.advanceHead.journal.onSlot).tryWait)

theorem execDispatcherReread_pcAligned {slot : SlotId} (h : s.PcAligned) :
    Out.PcAligned (execDispatcherReread slot s) := .next h.tryWait.signals.noteHead.proceed

theorem State.PcAligned.clearOvr (h : s.PcAligned) {q : SlotId} : (s.clearOvr q).PcAligned := h.onSlot.noteHead

theorem State.PcAligned.clearMal (h : s.PcAligned) {q : SlotId} : (s.clearMal q).PcAligned := by
  unfold State.clearMal
  extract_lets s1 s2
  have h1 : s1.PcAligned := h.onSlot
  have h2 : s2.PcAligned := h1.noteHead
  split
  · exact h2
  · split
    next s3 _ _ hx1 =>
      have h3 : s3.PcAligned := h2.headPacket.fst hx1
      exact h3.ite h3.malformed
    next s3 hx1 =>
      have h3 : s3.PcAligned := h2.headPacket.fst hx1
      exact h3

theorem State.PcAligned.clearXlf (h : s.PcAligned) {q : SlotId} : (s.clearXlf q).PcAligned :=
  h.onSlot.tryWait.signals.noteHead

theorem execClearOvr_pcAligned {slot : SlotId} (h : s.PcAligned) : Out.PcAligned (execClearOvr slot s) :=
  .next h.clearOvr

theorem execClearMal_pcAligned {slot : SlotId} (h : s.PcAligned) : Out.PcAligned (execClearMal slot s) :=
  .next h.clearMal

theorem execClearXlf_pcAligned {slot : SlotId} (h : s.PcAligned) : Out.PcAligned (execClearXlf slot s) :=
  .next h.clearXlf

theorem State.PcAligned.cancelGraph (h : s.PcAligned) : (s.cancelGraph k).PcAligned := by
  unfold State.cancelGraph
  split
  · exact h
  · exact (h.setGraph.foldl fun _ _ h1 => h1.cancelJig).settleGraph

theorem State.PcAligned.cancelPacket (h : s.PcAligned) {q : SlotId} {i : Nat} : (s.cancelPacket q i).PcAligned :=
  (h.foldl fun _ _ h1 => h1.cancelJig).foldl fun _ _ h1 => h1.cancelGraph

theorem execQcanWrite_pcAligned {slot : SlotId} {w : BitVec 64} (h : s.PcAligned) :
    Out.PcAligned (execQcanWrite slot w s) := .next h.cancelPacket.proceed

theorem State.PcAligned.enqueue (h : s.PcAligned) {d : List Byte} : (s.enqueue d).PcAligned := by
  unfold State.enqueue
  extract_lets _ _ _ _ s1 _ s2
  have h1 : s1.PcAligned := h.setSlotQ
  have h2 : s2.PcAligned := h1.frame (by rfl)
  exact h2.nextHead.ite h2.noteHead

theorem execJlaunch_pcAligned {_st : SStall} {d a : XReg} (h : s.PcAligned) :
    Out.PcAligned (execJlaunch _st d a s) := by
  unfold execJlaunch
  extract_lets
  split
  next s1 hx =>
    have h1 : s1.PcAligned := h.twinStop.get hx
    exact .next h1
  · refine Out.PcAligned.next ?_
    refine State.PcAligned.releaseS h ?_
    intro t h1
    extract_lets _ r s1 _ _ _
    have h2 : r.1.PcAligned := h1.spRead
    have h3 : s1.PcAligned := (h2.setMe h2.me.oox).ite h1
    split
    · exact (h3.enqueue.ite h3).retireX
    · extract_lets s2 _ s3
      have h4 : s2.PcAligned := h3.setMe (h3.me.frame (by rfl))
      have h5 : s3.PcAligned := h4.enqueue.ite h4
      split
      · exact h4.retireX
      · exact h5.journal.retireX

theorem execLaunchedTake_pcAligned {slot : SlotId} (h : s.PcAligned) : Out.PcAligned (execLaunchedTake slot s) := by
  unfold execLaunchedTake
  split
  · exact .next h
  · exact .next ((h.nextHead_getD h.takeLaunched).ite h)

end

section
/-! The operations of Sys2Proof/Machine/NodeEvents.lean. -/

variable {s : State} {c : Core} {k : Nat}

theorem State.PcAligned.startJigNode (h : s.PcAligned) {i : Nat} {g : Graph} {n : Node} :
    (s.startJigNode k i g n).PcAligned := by
  unfold State.startJigNode
  extract_lets
  split
  · exact h
  next r hx =>
    have h1 : r.1.PcAligned := h.nodeStart.joinGraph.takeJig.get hx
    exact h1.season

theorem State.PcAligned.runCopyNode (h : s.PcAligned) {i : Nat} {g : Graph} {n : Node} :
    (s.runCopyNode k i g n).PcAligned := h.nodeStart.newUnit.joinGraph.copyRun.stampUnit.nodeEnd

theorem State.PcAligned.runSignalNode (h : s.PcAligned) {i : Nat} {g : Graph} {n : Node} :
    (s.runSignalNode k i g n).PcAligned := by
  unfold State.runSignalNode
  extract_lets s1
  have h1 : s1.PcAligned := h.nodeStart
  split
  next s2 hx =>
    have h2 : s2.PcAligned := h1.signalWord.get hx
    exact h2.nodeEnd
  · exact h1.nodeEnd

theorem State.PcAligned.runWaitNode (h : s.PcAligned) {i : Nat} {g : Graph} {n : Node} :
    (s.runWaitNode k i g n).PcAligned := by
  unfold State.runWaitNode
  split
  next fst hx =>
    have h1 : fst.PcAligned := h.gangWord.fst hx
    exact h1.nodeEnd
  next s1 _ hx =>
    have h1 : s1.PcAligned := h.gangWord.fst hx
    exact h1.journal.nodeEnd.ite h1.journal

theorem State.PcAligned.nodeReady (h : s.PcAligned) {i : Nat} : (s.nodeReady k i).PcAligned := by
  unfold State.nodeReady
  split
  · exact h
  · extract_lets
    split
    · exact h
    · split
      · exact h.runWaitNode.ite h
      · split
        next s1 hx3 =>
          have h1 : s1.PcAligned := h.nodeSettle.get hx3
          exact h1
        · split
          · exact h
          · split
            · exact h.startJigNode
            · exact h.runCopyNode
            · exact h.runSignalNode
            · exact h.nodeStart.runWaitNode
            · exact h.nodeStart

theorem execNodeReady_pcAligned {gr : BitVec 16} {node : BitVec 10} (h : s.PcAligned) :
    Out.PcAligned (execNodeReady gr node s) := .next h.nodeReady.proceed

theorem execNodeCond_pcAligned {gr : BitVec 16} {node : BitVec 10} (h : s.PcAligned) :
    Out.PcAligned (execNodeCond gr node s) := by
  unfold execNodeCond
  extract_lets
  split
  · exact .next h
  · extract_lets
    split
    · exact .next h
    · split
      next fst hx2 =>
        have h1 : fst.PcAligned := h.gangWord.fst hx2
        exact .next h1.nodeEnd.season
      next s1 _ hx2 =>
        have h1 : s1.PcAligned := h.gangWord.fst hx2
        exact .next h1.journal.nodeEnd.season

theorem execNodeHostring_pcAligned {gr : BitVec 16} {node : BitVec 10} (h : s.PcAligned) :
    Out.PcAligned (execNodeHostring gr node s) := by
  unfold execNodeHostring
  extract_lets
  split
  · exact .next h
  · extract_lets
    split
    · exact .next h
    · split
      · exact .next h
      · exact .next h.nodeEnd.season
      next t hx2 =>
        have h1 : t.PcAligned := h.ringRoom.of_done hx2
        split
        · exact .next h1
        · split
          next fst hx4 =>
            have h2 : fst.PcAligned := h1.gangWord.fst hx4
            exact .next h2.nodeEnd.season
          next s1 _ hx4 =>
            have h2 : s1.PcAligned := h1.gangWord.fst hx4
            extract_lets u
            have h3 : u.1.PcAligned := h2.newUnit
            split
            · exact .next h2
            · exact .next h2.nodeEnd.season
            next t1 hx5 =>
              have h4 : t1.PcAligned := h3.writeEntry.of_done hx5
              exact .next h4.journal.joinGraph.stampUnit.nodeEnd.season

theorem State.PcAligned.commit (h : s.PcAligned) {m : BitVec 32 × Byte} : (s.commit m).PcAligned := by
  unfold State.commit
  extract_lets _ _ s1
  have h1 : s1.PcAligned := h.foldl fun _ _ h1 => h1.onJig.handOut
  refine h1.foldl fun t b h2 => ?_
  split
  · exact h2.setGraph.nodeReady.foldl fun _ _ h3 => h3.onJig
  · exact h2

theorem execMultiCommit_pcAligned {gid : BitVec 32} (h : s.PcAligned) : Out.PcAligned (execMultiCommit gid s) := by
  unfold execMultiCommit
  split
  · exact .next h
  · exact .next h.commit

theorem execMultiTimeout_pcAligned {gid : BitVec 32} (h : s.PcAligned) : Out.PcAligned (execMultiTimeout gid s) := by
  unfold execMultiTimeout
  split
  · exact .next h
  · extract_lets _ _ s1 s2 _
    have h1 : s1.PcAligned := h.foldl fun _ _ h1 => h1.onJig.tryEndJig
    have h2 : s2.PcAligned := by
      unfold s2
      refine h1.foldl fun t b h2 => ?_
      split
      · exact h2.setGraph.failUnit
      · exact h2
    exact .next (h2.frame (by rfl)).season

end

section
/-! The operations of Sys2Proof/Machine/Preempt.lean. -/

variable {s : State} {c : Core} {k : Nat}

theorem State.PcAligned.setGang (h : s.PcAligned) {g : Nat} {x : Gang} : (s.setGang g x).PcAligned := h.frame (by rfl)

theorem State.PcAligned.preempt (h : s.PcAligned) {g : GangId} : (s.preempt g).PcAligned := by
  unfold State.preempt
  extract_lets _ s1 _ _
  have h1 : s1.PcAligned := h.foldl fun _ _ h1 => h1.endStep
  exact h.ite (h1.ite ((h1.foldl fun _ _ h2 => h2.haltCore).setGang))

theorem execPreemptRequest_pcAligned {gang : GangId} (h : s.PcAligned) : Out.PcAligned (execPreemptRequest gang s) :=
  .next h.preempt

theorem State.PcAligned.layStore (h : s.PcAligned) {a n : Nat} {d : Store} : (s.layStore a n d).PcAligned :=
  (h.frame (by rfl)).ite (h.physPut.foldl fun _ _ h1 => h1.frame (by rfl))

theorem State.PcAligned.layImage (h : s.PcAligned) {a n : Nat} {d : Sparse Byte} : (s.layImage a n d).PcAligned :=
  h.layStore

theorem State.PcAligned.layFree (h : s.PcAligned) {a n : Nat} : (s.layFree a n).PcAligned := h.freeBytes.layImage

theorem State.PcAligned.writeRecord (h : s.PcAligned) {a : Nat} : (s.writeRecord a c).PcAligned := by
  unfold State.writeRecord
  extract_lets _ _ s1 s2 s3 s4 s5 s6 s7 s8 s9 s10 _ s11 s12 s13 s14 s15
  have h1 : s1.PcAligned := h.layFree
  have h2 : s2.PcAligned := h1.layImage
  have h3 : s3.PcAligned := h2.layImage
  have h4 : s4.PcAligned := h3.layImage
  have h5 : s5.PcAligned := h4.layImage
  have h6 : s6.PcAligned := h5.layFree
  have h7 : s7.PcAligned := h6.layImage
  have h8 : s8.PcAligned := h7.layFree
  have h9 : s9.PcAligned := h8.layImage
  have h10 : s10.PcAligned := h9.layImage
  have h11 : s11.PcAligned := h10.layStore
  have h12 : s12.PcAligned := h11.layImage
  have h13 : s13.PcAligned := h12.layImage
  have h14 : s14.PcAligned := h13.foldl fun _ _ h14 => h14.layImage
  have h15 : s15.PcAligned := h14.layImage
  exact h15.layStore

theorem Core.PcAligned.context (h : c.PcAligned) : c.context.PcAligned := h.frame (by rfl)

theorem State.PcAligned.emptyCore (h : s.PcAligned) : (s.emptyCore k).PcAligned := by
  unfold State.emptyCore
  extract_lets _ s1 s2
  have h1 : s1.PcAligned := h.foldl fun _ _ h1 => h1.release
  have h2 : s2.PcAligned := h1.foldl fun _ _ h2 => h2.putTok
  exact h2.onCore fun _ h3 => h3.frame (by rfl)

theorem State.PcAligned.markArea (h : s.PcAligned) {a n : Nat} {key : BitVec 13} : (s.markArea a n key).PcAligned :=
  h.frame (by rfl)

theorem State.PcAligned.saveContext (h : s.PcAligned) {g : GangId} {old : List Saved} {e : Saved}
    (ho : ∀ e ∈ old, e.core.PcAligned) (he : e.core.PcAligned) :
    State.PcAligned { s with saved := s.saved.filter (fun x => x.1 != g) ++ [(g, old ++ [e])] } := by
  refine h.withSaved (by rfl) fun x hx d hd => ?_
  rcases List.mem_append.1 hx with hx | hx
  · exact h.of_saved (List.mem_filter.1 hx).1 hd
  · obtain rfl := List.mem_singleton.1 hx
    rcases List.mem_append.1 hd with hd | hd
    · exact ho d hd
    · obtain rfl := List.mem_singleton.1 hd
      exact he

theorem State.PcAligned.saved_find (h : s.PcAligned) {p : GangId × List Saved → Bool} :
    ∀ e ∈ ((s.saved.find? p).map (fun x => x.2)).getD [], e.core.PcAligned := by
  intro e he
  cases hf : s.saved.find? p with
  | none => rw [hf] at he; cases he
  | some x =>
    rw [hf] at he
    exact h.of_saved (List.mem_of_find?_eq_some hf) he

theorem State.PcAligned.saveCore (h : s.PcAligned) {g : GangId} {n : Nat} : (s.saveCore g n k).PcAligned := by
  unfold State.saveCore
  extract_lets
  split
  · exact h
  · extract_lets _ u v old _ lays w e x
    have hu : u.PcAligned := h.layImage.markArea
    have hv : v.PcAligned := hu.writeRecord.markArea
    have hold : ∀ e ∈ old, e.core.PcAligned := hv.saved_find
    have hw : w.PcAligned := hv.layFree.markArea.ite hv
    have he : e.core.PcAligned := h.core.context
    clear_value w old e lays
    have hx : x.PcAligned := hw.saveContext hold he
    exact hx.emptyCore

theorem execPreemptSaveDone_pcAligned {gang : GangId} (h : s.PcAligned) :
    Out.PcAligned (execPreemptSaveDone gang s) := by
  unfold execPreemptSaveDone
  extract_lets s1 s2 _ _ _ _ s3 s4 _
  have h1 : s1.PcAligned := h.foldl fun _ _ h1 => h1.haltCore
  have h2 : s2.PcAligned := h1.foldl fun _ _ h2 => h2.endStep
  have h3 : s3.PcAligned := h2.foldl fun _ _ h3 => h3.saveCore
  have h4 : s4.PcAligned := h3.foldl fun _ _ h4 => h4.setPanel
  exact Out.PcAligned.ite (.next h) (.next h4.setGang.pumpReplays)

theorem State.PcAligned.cutGroups (h : s.PcAligned) : (s.cutGroups k c).1.PcAligned := by
  unfold State.cutGroups
  refine h.foldl_fst fun t b h1 => ?_
  extract_lets
  split
  · exact h1
  · split
    · exact h1
    next s1 _ hx1 =>
      have h2 : s1.PcAligned := h1.takeMte.get hx1
      exact h2.setMte

theorem State.PcAligned.restoreCore (h : s.PcAligned) {b d : Nat} {e : Saved} (he : e.core.PcAligned) :
    (s.restoreCore b d e).PcAligned := by
  unfold State.restoreCore
  extract_lets _ c _ _ _ _ _ _ r x _ u
  have hr : r.PcAligned := he.frame (by rfl)
  have hx : x.1.PcAligned := (h.setCore hr.mapFlights).cutGroups
  clear_value x
  have hu : u.PcAligned := hx.onCore fun c hc => hc.mapToks.frame (by rfl)
  clear_value u
  split
  · exact hu.markDirty.onUnit
  · exact hu

theorem State.PcAligned.restorePanels {ps : List (List Saved)} (h : s.PcAligned) {g : GangId}
    (hps : ∀ p ∈ ps, ∀ e ∈ p, Core.PcAligned e.core) : OptKeeps (·.1.PcAligned) (State.restorePanels ps s g) := by
  induction ps generalizing s with
  | nil => exact h
  | cons p ps ih =>
    have hp : ∀ e ∈ p, Core.PcAligned e.core := hps p List.mem_cons_self
    have hrest : ∀ q ∈ ps, ∀ e ∈ q, Core.PcAligned e.core := fun q hq => hps q (List.mem_cons_of_mem p hq)
    unfold State.restorePanels
    split
    · exact ih h hrest
    · extract_lets
      split
      · trivial
      · extract_lets u
        have hu : u.PcAligned := h.setPanel.foldl_mem fun e he t ht => ht.restoreCore (hp e he)
        exact (ih hu hrest).map fun a ha => ha

theorem mem_of_mem_savedPanels {es p : List Saved} (hp : p ∈ savedPanels es) {e : Saved} (he : e ∈ p) : e ∈ es := by
  obtain ⟨x, _, rfl⟩ := List.mem_map.1 hp
  exact (List.mem_filter.1 he).1

theorem execRestoreRequest_pcAligned {gang : GangId} (h : s.PcAligned) :
    Out.PcAligned (execRestoreRequest gang s) := by
  unfold execRestoreRequest
  split
  · exact .next h
  next x hx =>
    refine .ite (.next h) ?_
    have hps : ∀ p ∈ savedPanels x.2, ∀ e ∈ p, Core.PcAligned e.core :=
      fun p hp e he => h.of_saved (List.mem_of_find?_eq_some hx) (mem_of_mem_savedPanels hp he)
    split
    · exact .next h
    next ht =>
      extract_lets u
      have hu : u.PcAligned := ((h.restorePanels hps).get ht).foldl fun _ _ h1 => h1.onJig
      clear_value u
      exact .next (hu.withSaved (by rfl) fun y hy e he => hu.of_saved (List.mem_filter.1 hy).1 he)

theorem State.PcAligned.unbindGang (h : s.PcAligned) {g : GangId} : (s.unbindGang g).PcAligned :=
  h.foldl fun _ _ h1 => h1.freeDesc.ite h1

theorem execMapGang_pcAligned {gang : GangId} {slots : List SlotId} {root : BitVec 64} {part : BitVec 3}
    {save : BitVec 64} (h : s.PcAligned) : Out.PcAligned (execMapGang gang slots root part save s) := by
  unfold execMapGang
  extract_lets _ _ s1 d s2 _ _
  have h1 : s1.PcAligned := h.ite h.unbindGang
  have h2 : d.2.PcAligned := h1.draw
  have h3 : s2.PcAligned := h2
  exact Out.PcAligned.ite (.next h) (.next (h3.setGang.foldl fun _ _ h4 => h4.onSlot))

theorem execUnmapGang_pcAligned {gang : GangId} (h : s.PcAligned) : Out.PcAligned (execUnmapGang gang s) :=
  .next (h.frame (by rfl)).setGang.preempt

theorem execSetPartitions_pcAligned {n : BitVec 4} (h : s.PcAligned) : Out.PcAligned (execSetPartitions n s) :=
  Out.PcAligned.ite (.next h) (.next (h.frame (by rfl)))

end

section
/-! The operations of Sys2Proof/Machine/Revoke.lean. -/

variable {s : State} {c : Core} {k : Nat}

theorem State.PcAligned.markCore (h : s.PcAligned) {us : List Nat} : (s.markCore us k).PcAligned :=
  (h.onCore fun _ h1 => h1.frame (by rfl)).foldl fun _ _ h1 => (h1.frame (by rfl)).setMte.ite h1

theorem State.PcAligned.markUnits (h : s.PcAligned) {us : List Nat} : (s.markUnits us).PcAligned :=
  (h.foldl fun _ _ h1 => h1.markCore).frame (by rfl)

theorem State.PcAligned.enterPair (h : s.PcAligned) {rq : RevokeReq} : (s.enterPair rq).PcAligned := h.frame (by rfl)

theorem State.PcAligned.setDsc (h : s.PcAligned) {d : Bool} {u : Nat} : (s.setDsc d u).PcAligned := h.setClamp

theorem State.PcAligned.markPiece (h : s.PcAligned) {reason : Nat} {us : List Nat} :
    (s.markPiece reason us).PcAligned := ((h.foldl fun _ _ h1 => h1.setDsc).ite h).markUnits

theorem State.PcAligned.accept (h : s.PcAligned) {reason : Nat} {rq : RevokeReq} : (s.accept reason rq).PcAligned :=
  ((h.enterPair.ite h).markPiece).frame (by rfl)

theorem State.PcAligned.pumpRequests {n : Nat} (h : s.PcAligned) : (State.pumpRequests n s).PcAligned := by
  induction n generalizing s with
  | zero => exact h
  | succ n ih =>
    unfold State.pumpRequests
    split
    · exact h
    · extract_lets _ u
      have hu : u.PcAligned := h.frame (by rfl)
      exact ih hu.accept

theorem State.PcAligned.request (h : s.PcAligned) {reason : Nat} {rq : RevokeReq} : (s.request reason rq).PcAligned :=
  h.tell.ite ((h.frame (by rfl)).ite h.accept)

theorem execRevokeUnmap_pcAligned {rq : RevokeReq} (h : s.PcAligned) : Out.PcAligned (execRevokeUnmap rq s) :=
  .next h.request

theorem execRevokeMigrate_pcAligned {rq : RevokeReq} (h : s.PcAligned) : Out.PcAligned (execRevokeMigrate rq s) :=
  .next h.request

theorem execRevokeDiscard_pcAligned {rq : RevokeReq} (h : s.PcAligned) : Out.PcAligned (execRevokeDiscard rq s) :=
  .next h.request

theorem execRevokeAttribute_pcAligned {rq : RevokeReq} (h : s.PcAligned) : Out.PcAligned (execRevokeAttribute rq s) :=
  .next h.request

theorem execRevocationSettled_pcAligned {ix : BitVec 64} (h : s.PcAligned) :
    Out.PcAligned (execRevocationSettled ix s) := by
  unfold execRevocationSettled
  extract_lets s1
  have h1 : s1.PcAligned := (h.foldl fun _ _ h1 => h1.flush).landWrites
  split
  · exact .next h
  · extract_lets s2 _ _ s3 _ _ s4 s5
    have h2 : s2.PcAligned := h1.markPiece
    have h3 : s3.PcAligned := (h1.foldl fun _ _ h3 => h3.setDsc).ite h1
    have h4 : s4.PcAligned := h3.frame (by rfl)
    have h5 : s5.PcAligned := h4.tell
    exact Out.PcAligned.ite (.next (h2.frame (by rfl))) (.next h5.pumpRequests)

theorem execMigrationLinePull_pcAligned {pair : BitVec 7} (h : s.PcAligned) :
    Out.PcAligned (execMigrationLinePull pair s) := by
  unfold execMigrationLinePull
  split
  · exact .next h
  · split
    · exact .next h
    · exact Out.PcAligned.ite (.next h) (.next h.pullLine.pumpRequests)

theorem State.PcAligned.pickPlace (h : s.PcAligned) {is : List Nat} : (s.pickPlace is).2.PcAligned := h.draw

theorem State.PcAligned.oneToPanel (h : s.PcAligned) : (s.oneToPanel k).PcAligned := by
  unfold State.oneToPanel
  extract_lets _ r s1 _ _
  have h1 : r.2.PcAligned := h.pickPlace
  have h2 : s1.PcAligned := h1.onCore fun _ h2 => h2.frame (by rfl)
  split
  · exact h
  · exact h2.perform.ite h2.setPanel

theorem State.PcAligned.oneToDevice (h : s.PcAligned) : (s.oneToDevice k).PcAligned := by
  unfold State.oneToDevice
  extract_lets _ _ r _
  have h1 : r.2.PcAligned := h.pickPlace
  split
  · exact h
  · exact h1.setPanel.perform

theorem execStoreVisible_pcAligned {core : CoreId} {ag : Agent} (h : s.PcAligned) :
    Out.PcAligned (execStoreVisible core ag s) := by
  unfold execStoreVisible
  extract_lets
  split
  · exact .next (h.popStore.getD h)
  · exact .next (h.popStore.getD h)
  · exact .next h.oneToPanel
  · exact .next h.oneToDevice

end

section
/-! The operations of Sys2Proof/Machine/DvRecv.lean. -/

variable {s : State} {c : Core} {k : Nat}

theorem State.PcAligned.windowCheck (h : s.PcAligned) {win off n : Nat} {src : BitVec 22} :
    (s.windowCheck win off n src).1.PcAligned := by
  unfold State.windowCheck
  extract_lets _ s1 _
  have h1 : s1.PcAligned := h.rewalkWindow
  split
  · exact h
  · split
    · exact h1
    · split
      · exact h1
      · split
        · exact h1
        · exact h1

theorem State.PcAligned.windowSegs (h : s.PcAligned) {win off : Nat} {d : List PByte} :
    (s.windowSegs win off d).1.PcAligned := by
  unfold State.windowSegs
  extract_lets
  dsimp only
  split
  · exact h.tell
  · exact h

theorem State.PcAligned.windowWrite (h : s.PcAligned) {sl : Nat} {e : BitVec 2} {win off : Nat} {d : List PByte} :
    (s.windowWrite sl e win off d).PcAligned := h.windowSegs.draw.putSegs.ite (h.windowSegs.draw.frame (by rfl))

theorem State.PcAligned.setArrival (h : s.PcAligned) {sl : Nat} {x : RecvSlot} : (s.setArrival sl x).PcAligned :=
  h.frame (by rfl)

theorem State.PcAligned.setEp (h : s.PcAligned) {sl : Nat} {e : BitVec 2} {r : RecvEpoch} :
    (s.setEp sl e r).PcAligned := h.setArrival

theorem State.PcAligned.answerPacket (h : s.PcAligned) {sl : Nat} {ty : DvType} {e : BitVec 2} {g n : Nat} :
    (s.answerPacket sl ty e g n).PcAligned := h.inject

theorem State.PcAligned.putFlag (h : s.PcAligned) {sl : Nat} {e : Option (BitVec 2)} {win off v : Nat} :
    (s.putFlag sl e win off v).PcAligned := h.landWrites.windowSegs.putSegs.journal

theorem State.PcAligned.errFlag (h : s.PcAligned) {f : ErrFlag} : (s.errFlag f).PcAligned := by
  unfold State.errFlag
  extract_lets
  split
  · exact h.frame (by rfl)
  · split
    next s1 hx1 =>
      have h1 : s1.PcAligned := h.windowCheck.fst hx1
      exact h1.putFlag
    next s1 hx1 =>
      have h1 : s1.PcAligned := h.windowCheck.fst hx1
      exact h1.tell
    next s1 hx1 =>
      have h1 : s1.PcAligned := h.windowCheck.fst hx1
      exact h1.frame (by rfl)

theorem State.PcAligned.faultSlot (h : s.PcAligned) {sl reason : Nat} : (s.faultSlot sl reason).PcAligned := by
  unfold State.faultSlot
  extract_lets _ s1 s2
  have h1 : s1.PcAligned := by
    unfold s1
    refine h.foldl fun t b h1 => ?_
    extract_lets
    split
    · exact h1.errFlag
    · exact h1.tell
  have h2 : s2.PcAligned := h1.setArrival
  exact h2.answerPacket

theorem State.PcAligned.writeFlags {n : Nat} (h : s.PcAligned) {sl : Nat} : (State.writeFlags n s sl).PcAligned := by
  induction n generalizing s with
  | zero => exact h
  | succ n ih =>
    unfold State.writeFlags
    extract_lets
    split
    · exact h
    · split
      · exact h
      · split
        next t ht => exact h.windowCheck.fst ht
        next t ht => exact (h.windowCheck.fst ht).tell.faultSlot
        next ht => exact ih (h.windowCheck.fst ht).putFlag.setArrival

theorem State.PcAligned.keepPacket (h : s.PcAligned) {p : DvPacket} : (s.keepPacket p).PcAligned := h.frame (by rfl)

theorem State.PcAligned.recvWrite (h : s.PcAligned) {p : DvPacket} : (s.recvWrite p).PcAligned := by
  unfold State.recvWrite
  extract_lets _ c1 s1 _ _ s2
  have h1 : c1.1.PcAligned := h.windowCheck
  have h2 : s1.PcAligned := h1.windowWrite.ite h1.tell
  have h3 : s2.PcAligned := h2.setEp
  exact h.ite (h1.keepPacket.ite (h3.faultSlot.ite h3.writeFlags))

theorem State.PcAligned.recvRelease (h : s.PcAligned) {p : DvPacket} : (s.recvRelease p).PcAligned :=
  h.ite (h.setEp.writeFlags.ite (h.setEp.answerPacket.ite (h.setEp.faultSlot.ite h.setEp)))

theorem State.PcAligned.withhold (h : s.PcAligned) {sl : Nat} {e : BitVec 2} : (s.withhold sl e).PcAligned :=
  h.faultSlot.ite h.setEp.answerPacket

theorem State.PcAligned.recvGap (h : s.PcAligned) {p : DvPacket} : (s.recvGap p).PcAligned := by
  unfold State.recvGap
  split
  · exact h
  · split
    · exact h
    · split
      · exact h
      · exact h.onChan.replayDue

theorem State.PcAligned.pumpArrivals (h : s.PcAligned) : s.pumpArrivals.PcAligned := by
  unfold State.pumpArrivals
  extract_lets s1 _ _ _ s2 s3 s4
  have h1 : s1.PcAligned := h.pumpReplays
  have h2 : s2.PcAligned := h1.frame (by rfl)
  have h3 : s3.PcAligned := h2.foldl fun _ _ h3 => h3.recvWrite
  have h4 : s4.PcAligned := h3.foldl fun _ _ h4 => h4.errFlag
  exact h1.ite (h4.foldl fun _ _ h5 => h5.ite h5.writeFlags)

theorem State.PcAligned.pickOf {x : Type} (h : s.PcAligned) {l : List x} : (s.pickOf l).1.PcAligned := by
  unfold State.pickOf
  extract_lets d
  have h1 : d.2.PcAligned := h.draw
  split
  · exact h
  · exact h
  · exact h1

theorem State.PcAligned.delivered (h : s.PcAligned) {p : DvPacket} : (s.delivered p).PcAligned :=
  (h.frame (by rfl)).pumpArrivals

theorem execDvRecvWrite_pcAligned {pk : DvPacket} (h : s.PcAligned) : Out.PcAligned (execDvRecvWrite pk s) :=
  .next (h.delivered.recvWrite.ite h)

theorem execDvRecvRelease_pcAligned {pk : DvPacket} (h : s.PcAligned) : Out.PcAligned (execDvRecvRelease pk s) :=
  .next (h.delivered.recvRelease.ite h)

theorem execDvRecvGap_pcAligned {pk : DvPacket} (h : s.PcAligned) : Out.PcAligned (execDvRecvGap pk s) :=
  .next (h.delivered.recvGap.ite h)

theorem execDvRecvBusy_pcAligned {pk : DvPacket} (h : s.PcAligned) : Out.PcAligned (execDvRecvBusy pk s) := by
  unfold execDvRecvBusy
  extract_lets s1
  have h1 : s1.PcAligned := h.delivered
  split
  · exact .next h
  · split
    · exact .next h1
    · split
      · exact .next h1
      · exact .next (h1.onChan.ite h1)

theorem execDvBusyRestart_pcAligned {gang : GangId} {ch : BitVec 12} (h : s.PcAligned) :
    Out.PcAligned (execDvBusyRestart gang ch s) := by
  unfold execDvBusyRestart
  extract_lets
  split
  next s1 _ hx =>
    have h1 : s1.PcAligned := h.pickOf.fst hx
    exact .next (h1.firstCopy.ite h1)
  next s1 hx =>
    have h1 : s1.PcAligned := h.pickOf.fst hx
    exact .next h1

theorem State.PcAligned.openedBefore (h : s.PcAligned) {p : DvPacket} : (s.openedBefore p).1.PcAligned := by
  unfold State.openedBefore
  extract_lets _ d
  have h1 : d.2.PcAligned := h.draw
  split
  · exact h
  · exact h1

theorem execDvRecvOpen_pcAligned {pk : DvPacket} (h : s.PcAligned) : Out.PcAligned (execDvRecvOpen pk s) := by
  unfold execDvRecvOpen
  extract_lets s1 o s2 _
  have h1 : s1.PcAligned := h.delivered
  have h2 : o.1.PcAligned := h1.openedBefore
  have h3 : s2.PcAligned := h2
  split
  · exact .next h
  · split
    · exact .next h1
    · split
      · exact .next ((h3.ite h3.setArrival).answerPacket)
      · exact .next h3.inject

theorem State.PcAligned.openingFor (h : s.PcAligned) {p : DvPacket} : (s.openingFor p).1.PcAligned := by
  unfold State.openingFor
  extract_lets d
  have h1 : d.2.PcAligned := h.draw
  split
  · exact h
  · exact h
  · exact h1

theorem execDvRecvOpenack_pcAligned {pk : DvPacket} (h : s.PcAligned) : Out.PcAligned (execDvRecvOpenack pk s) := by
  unfold execDvRecvOpenack
  extract_lets s1 o s2
  have h1 : s1.PcAligned := h.delivered
  have h2 : o.1.PcAligned := h1.openingFor
  have h3 : s2.PcAligned := h2
  split
  · exact .next h
  · split
    · exact .next h1
    · split
      · exact .next h3
      · exact Out.PcAligned.ite (.next h3.setChan) (.next h3.setChan)

theorem execDvRecvShut_pcAligned {pk : DvPacket} (h : s.PcAligned) : Out.PcAligned (execDvRecvShut pk s) := by
  unfold execDvRecvShut
  extract_lets s1 _ s2
  have h1 : s1.PcAligned := h.delivered
  have h2 : s2.PcAligned := h1.setArrival.ite h1
  exact Out.PcAligned.ite (.next h) (Out.PcAligned.ite (.next h1) (.next h2.inject))

theorem execDvRecvShutack_pcAligned {pk : DvPacket} (h : s.PcAligned) : Out.PcAligned (execDvRecvShutack pk s) := by
  unfold execDvRecvShutack
  extract_lets s1
  have h1 : s1.PcAligned := h.delivered
  split
  · exact .next h
  · split
    · exact .next h1
    · exact .next (h1.onChan.ite h1)

theorem execDvRecvFault_pcAligned {pk : DvPacket} (h : s.PcAligned) : Out.PcAligned (execDvRecvFault pk s) := by
  unfold execDvRecvFault
  extract_lets s1 _ s2
  have h1 : s1.PcAligned := h.delivered
  have h2 : s2.PcAligned := by
    unfold s2
    split
    · exact h1.onChan
    · exact h1
  exact Out.PcAligned.ite (.next h) (Out.PcAligned.ite (.next h1) (.next h2.inject))

theorem execDvRecvFaultack_pcAligned {pk : DvPacket} (h : s.PcAligned) : Out.PcAligned (execDvRecvFaultack pk s) :=
  Out.PcAligned.ite (.next h) (.next (h.delivered.setArrival.ite h.delivered))

theorem execDvReleaseCopy_pcAligned {gang : GangId} {ch : BitVec 12} (h : s.PcAligned) :
    Out.PcAligned (execDvReleaseCopy gang ch s) := by
  unfold execDvReleaseCopy
  extract_lets
  split
  next s1 _ hx =>
    have h1 : s1.PcAligned := h.pickOf.fst hx
    exact .next h1.inject.onChan
  next s1 hx =>
    have h1 : s1.PcAligned := h.pickOf.fst hx
    exact .next h1

theorem execDvTgapExpiry_pcAligned {x : ArrivalEpoch} (h : s.PcAligned) : Out.PcAligned (execDvTgapExpiry x s) :=
  .next (h.withhold.ite h)

theorem execDvGapRepeat_pcAligned {x : ArrivalEpoch} (h : s.PcAligned) : Out.PcAligned (execDvGapRepeat x s) := by
  unfold execDvGapRepeat
  extract_lets
  split
  · exact .next (h.answerPacket.ite h)
  · exact .next h

theorem execDvReplayTimeout_pcAligned {x : ArrivalEpoch} (h : s.PcAligned) :
    Out.PcAligned (execDvReplayTimeout x s) := .next (h.withhold.ite h)

theorem execDvSettle_pcAligned {gang : GangId} {ch : BitVec 12} (h : s.PcAligned) :
    Out.PcAligned (execDvSettle gang ch s) := by
  unfold execDvSettle
  extract_lets
  split
  next s1 _ hx =>
    have h1 : s1.PcAligned := h.pickOf.fst hx
    exact .next h1.setChan.chanStep
  next s1 hx =>
    have h1 : s1.PcAligned := h.pickOf.fst hx
    exact .next h1

theorem execDvControlResend_pcAligned {own : ControlOwner} (h : s.PcAligned) :
    Out.PcAligned (execDvControlResend own s) := by
  unfold execDvControlResend
  split
  · exact Out.PcAligned.ite (.next h) (Out.PcAligned.ite (.next h.setChan.inject) (.next h.setChan))
  · extract_lets
    split
    · exact .next h
    · exact Out.PcAligned.ite (.next h.setArrival.answerPacket) (.next h.setArrival)

theorem execPacketExpiry_pcAligned {ix : BitVec 32} (h : s.PcAligned) : Out.PcAligned (execPacketExpiry ix s) := by
  unfold execPacketExpiry
  refine Out.PcAligned.next ?_
  split
  · exact h.expire
  · exact h

theorem State.PcAligned.setTgap (h : s.PcAligned) {us : Nat} : (s.setTgap us).PcAligned := (h.frame (by rfl)).ite h

theorem execExportWindow_pcAligned {win : BitVec 16} {gang : GangId} {base len : BitVec 64} {src : BitVec 22}
    {anySrc : Bool} (h : s.PcAligned) : Out.PcAligned (execExportWindow win gang base len src anySrc s) := by
  unfold execExportWindow
  extract_lets
  split
  · exact .next h
  · split
    · exact .next h.setWindow
    · split
      next s1 _ _ _ hx2 =>
        have h1 : s1.PcAligned := h.translate.fst hx2
        exact .next h1.pinRuns.setWindow
      next s1 _ _ hx3 =>
        have h1 : s1.PcAligned := h.translate.fst hx3
        exact .next h1

theorem execReplyResolved_pcAligned {ix : BitVec 64} (h : s.PcAligned) : Out.PcAligned (execReplyResolved ix s) :=
  .next h.answer.pumpArrivals

theorem execReplyDeclined_pcAligned {ix : BitVec 64} (h : s.PcAligned) : Out.PcAligned (execReplyDeclined ix s) :=
  .next h.answer.pumpArrivals

theorem execReplyNoframe_pcAligned {ix : BitVec 64} (h : s.PcAligned) : Out.PcAligned (execReplyNoframe ix s) :=
  .next h.answer.pumpArrivals

theorem execReplyNoframeOwn_pcAligned {ix : BitVec 64} (h : s.PcAligned) : Out.PcAligned (execReplyNoframeOwn ix s) :=
  .next h.answer.pumpArrivals

theorem execPinwaitExpiry_pcAligned {ix : BitVec 64} (h : s.PcAligned) : Out.PcAligned (execPinwaitExpiry ix s) :=
  .next h.answer.pumpArrivals

end

section
/-! The operations of Sys2Proof/Machine/Power.lean. -/

variable {s : State} {c : Core} {k : Nat}

theorem State.PcAligned.clampLevel (h : s.PcAligned) : (s.clampLevel k).PcAligned := h.setCore (h.core.frame (by rfl))

theorem State.PcAligned.setCeiling (h : s.PcAligned) {half : Bool} {v : Byte} : (s.setCeiling half v).PcAligned :=
  (h.frame (by rfl)).foldl fun _ _ h1 => h1.clampLevel.ite h1

theorem execGovceilWrite_pcAligned {half : Bool} {val : BitVec 8} (h : s.PcAligned) :
    Out.PcAligned (execGovceilWrite half val s) := .next h.setCeiling

theorem State.PcAligned.lowerCeiling (h : s.PcAligned) {half : Bool} : (s.lowerCeiling half).PcAligned :=
  h.setCeiling.frame (by rfl)

theorem State.PcAligned.coolDown (h : s.PcAligned) {half : Bool} : (s.coolDown half).PcAligned := by
  unfold State.coolDown
  split
  · exact h
  · exact h.lowerCeiling.ite h

theorem execGovRampUp_pcAligned {core : CoreId} (h : s.PcAligned) : Out.PcAligned (execGovRampUp core s) :=
  .next (h.onCore fun _ h1 => h1.frame (by rfl))

theorem execGovRampDown_pcAligned {core : CoreId} (h : s.PcAligned) : Out.PcAligned (execGovRampDown core s) :=
  .next (h.onCore fun _ h1 => h1.frame (by rfl))

theorem State.PcAligned.overheat (h : s.PcAligned) {half : Bool} : (s.overheat half).PcAligned := by
  unfold State.overheat
  extract_lets s1 _
  have h1 : s1.PcAligned := h.tell
  exact h1.ite (h1.lowerCeiling.ite (h1.frame (by rfl)))

theorem execDramTempThreshold_pcAligned {half : Bool} {temp : BitVec 16} (h : s.PcAligned) :
    Out.PcAligned (execDramTempThreshold half temp s) :=
  .next ((h.frame (by rfl)).ite ((h.frame (by rfl)).overheat.ite (h.frame (by rfl))))

/-- What a reset leaves has no core and no saved context. -/
theorem outside_pcAligned : s.outside.PcAligned :=
  ⟨fun _ => Core.PcAligned.of_zero (c := {}) rfl, fun _ hg => absurd hg List.not_mem_nil⟩

theorem execPowerLoss_pcAligned : Out.PcAligned (execPowerLoss s) := by
  unfold execPowerLoss
  extract_lets s1 _
  have h1 : s1.PcAligned := outside_pcAligned
  exact .next (h1.frame (by rfl))

end

section
/-! The operations of Sys2Proof/Machine/Lease.lean. -/

variable {s : State} {c : Core} {k : Nat}

theorem State.PcAligned.extendMeas (h : s.PcAligned) {n : Nat} {d : List Byte} : (s.extendMeas n d).PcAligned :=
  h.frame (by rfl)

theorem State.PcAligned.measureSelf (h : s.PcAligned) : s.measureSelf.PcAligned := h.frame (by rfl)

theorem State.PcAligned.startGate (h : s.PcAligned) {trig : BitVec 4} : (s.startGate trig).PcAligned :=
  h.ite (h.draw.frame (by rfl))

theorem execPowerOn_pcAligned : Out.PcAligned (execPowerOn s) := by
  unfold execPowerOn
  extract_lets s1 _ s2
  have h1 : s1.PcAligned := outside_pcAligned
  have h2 : s2.PcAligned := h1.frame (by rfl)
  exact .next h2.measureSelf.startGate

theorem execLeaseN_pcAligned (h : s.PcAligned) : Out.PcAligned (execLeaseN s) := .next h.startGate

theorem State.PcAligned.sideAnswer (h : s.PcAligned) {a : SideAnswer} : (s.sideAnswer a).PcAligned :=
  (h.frame (by rfl)).ite h

theorem execGate_pcAligned (h : s.PcAligned) : Out.PcAligned (execGate s) := .next (h.sideAnswer.ite h.startGate)

theorem execSetNonce_pcAligned {nonce : BitVec 256} {time : BitVec 64} (h : s.PcAligned) :
    Out.PcAligned (execSetNonce nonce time s) := .next ((h.frame (by rfl)).ite h)

/-- The cores of a Bench start at address 0 (R424). -/
theorem State.PcAligned.startBench (h : s.PcAligned) {b : Bool} {body : List Byte} :
    (s.startBench b body).PcAligned := by
  unfold State.startBench
  extract_lets _ _ u
  have hu : u.PcAligned := h.frame (by rfl)
  exact hu.foldl fun t i ht => ht.setCore (.of_zero rfl)

theorem State.PcAligned.setStandby (h : s.PcAligned) {b : Bool} : (s.setStandby b).PcAligned := h.frame (by rfl)

theorem State.PcAligned.mirrorTable (h : s.PcAligned) : s.mirrorTable.PcAligned := h.frame (by rfl)

theorem State.PcAligned.loadStandby (h : s.PcAligned) {body : List Byte} : (s.loadStandby body).PcAligned :=
  h.setStandby.startBench.mirrorTable

theorem State.PcAligned.writeTable (h : s.PcAligned) {version : Nat} {bytes : List Byte} :
    (s.writeTable version bytes).PcAligned := (h.frame (by rfl)).mirrorTable.ite (h.frame (by rfl))

theorem State.PcAligned.reloadMaybe (h : s.PcAligned) : s.reloadMaybe.PcAligned :=
  h.ite (h.draw.loadStandby.ite h.draw)

theorem State.PcAligned.scrubMaybe (h : s.PcAligned) : s.scrubMaybe.PcAligned :=
  h.ite ((h.draw.frame (by rfl)).ite h.draw)

theorem execReadStatus_pcAligned (h : s.PcAligned) : Out.PcAligned (execReadStatus s) :=
  .next h.scrubMaybe.reloadMaybe.sideAnswer

theorem execReadRecord_pcAligned (h : s.PcAligned) : Out.PcAligned (execReadRecord s) := .next h.sideAnswer

theorem State.PcAligned.regionEntries {fs : List (BitVec 32)} {ids : List Nat} (h : s.PcAligned) :
    (State.regionEntries fs ids s).1.PcAligned := by
  induction ids generalizing s with
  | nil => exact h
  | cons id ids ih => exact ih h.draw

theorem State.PcAligned.formRecord (h : s.PcAligned) {r : ScrubResult} {old : State} :
    (s.formRecord r old).1.PcAligned := h.regionEntries.draw

theorem scrubbed_pcAligned : s.scrubbed.PcAligned := by
  unfold State.scrubbed
  extract_lets t _ _
  have h1 : t.PcAligned := outside_pcAligned
  exact h1.frame (by rfl)

theorem State.PcAligned.replaceWords (h : s.PcAligned) {ws : List (BitVec 51)} : (s.replaceWords ws).PcAligned :=
  h.foldl fun _ _ h1 => h1.draw.frame (by rfl)

theorem execScrubComplete_pcAligned {res : ScrubResult} (h : s.PcAligned) :
    Out.PcAligned (execScrubComplete res s) := by
  unfold execScrubComplete
  extract_lets r t _
  have h1 : r.1.PcAligned := (scrubbed_pcAligned (s := s)).measureSelf.replaceWords.formRecord
  have h2 : t.PcAligned := h1.extendMeas
  exact Out.PcAligned.ite (.next h) (.next (h2.frame (by rfl)))

theorem State.PcAligned.measureImage (h : s.PcAligned) {im : List Byte} : (s.measureImage im).PcAligned :=
  h.extendMeas.extendMeas

theorem State.PcAligned.load (h : s.PcAligned) : s.load.PcAligned := by
  unfold State.load
  extract_lets _ u hd e _ im v
  have hu : u.PcAligned := h.frame (by rfl)
  have hv : v.PcAligned := hu.measureImage
  clear_value e im v
  clear_value hd u
  exact h.ite (.ite (hu.frame (by rfl)) (hv.frame (by rfl)))

theorem State.PcAligned.loaded (h : s.PcAligned) : s.loaded.PcAligned := h.startBench.startBench.frame (by rfl)

theorem State.PcAligned.loadMaybe (h : s.PcAligned) : s.loadMaybe.PcAligned := h.ite (h.draw.loaded.ite h.draw)

theorem execLdctlGo_pcAligned (h : s.PcAligned) : Out.PcAligned (execLdctlGo s) := .next h.load

theorem State.PcAligned.noteTakeover (h : s.PcAligned) {cause : Nat} : (s.noteTakeover cause).PcAligned :=
  h.extendMeas

theorem State.PcAligned.switchBench (h : s.PcAligned) : s.switchBench.PcAligned := h.frame (by rfl)

theorem execLiveLoad_pcAligned {image : List Byte} {versionOk : Bool} (h : s.PcAligned) :
    Out.PcAligned (execLiveLoad image versionOk s) := by
  unfold execLiveLoad
  extract_lets s1 s2 _
  have h1 : s1.PcAligned := h.measureImage
  have h2 : s2.PcAligned := h1.loadStandby.switchBench.loadStandby
  exact Out.PcAligned.ite (.next h) (Out.PcAligned.ite (.next (h2.frame (by rfl))) (.next
      h1.loadStandby.setStandby.noteTakeover))

theorem execExtend_pcAligned {n : BitVec 4} {digest : BitVec 384} (h : s.PcAligned) :
    Out.PcAligned (execExtend n digest s) := .next (h.ite h.extendMeas)

theorem State.PcAligned.goBenchless (h : s.PcAligned) : s.goBenchless.PcAligned := h.frame (by rfl)

theorem State.PcAligned.offerAgain (h : s.PcAligned) : s.offerAgain.PcAligned :=
  (h.frame (by rfl)).foldl fun _ _ h1 => h1.tell

theorem State.PcAligned.takeover (h : s.PcAligned) {cause : Nat} : (s.takeover cause).PcAligned := by
  unfold State.takeover
  extract_lets s1 s2 _
  have h1 : s1.PcAligned := h.reloadMaybe
  have h2 : s2.PcAligned := h1.switchBench.setStandby.noteTakeover
  exact h.ite (h1.goBenchless.ite (h2.frame (by rfl)).offerAgain)

theorem State.PcAligned.benchFail (h : s.PcAligned) : s.benchFail.PcAligned := (h.frame (by rfl)).takeover.ite h

theorem execBenchHeartbeatTimeout_pcAligned (h : s.PcAligned) : Out.PcAligned (execBenchHeartbeatTimeout s) :=
  .next h.takeover

theorem execBenchSramUncorrectable_pcAligned (h : s.PcAligned) : Out.PcAligned (execBenchSramUncorrectable s) :=
  .next h.takeover

end

section
/-! The operations of Sys2Proof/Machine/Spdm.lean. -/

variable {s : State} {c : Core} {k : Nat}

theorem State.PcAligned.setConn (h : s.PcAligned) {tr : Bool} {c : SpdmConn} : (s.setConn tr c).PcAligned :=
  h.frame (by rfl)

theorem State.PcAligned.respond (h : s.PcAligned) {tr : Bool} {d : List Byte} : (s.respond tr d).PcAligned :=
  h.frame (by rfl)

theorem State.PcAligned.spdmAnswer (h : s.PcAligned) {tr : Bool} {q : SpdmReq} {st : SpdmSt} {d : List Byte} :
    (s.spdmAnswer tr q st d).PcAligned := h.setConn.respond

theorem State.PcAligned.spdm (h : s.PcAligned) {tr : Bool} {q : SpdmReq} {version : Byte} {order : SpdmSt → Bool}
    {f : State → State} (hf : ∀ t, t.PcAligned → (f t).PcAligned) : (s.spdm tr q version order f).PcAligned :=
  h.ite (h.respond.ite (h.ite (h.respond.ite (h.respond.ite (hf _ h)))))

theorem execGetVersion_pcAligned {tr : Bool} {rq : SpdmReq} (h : s.PcAligned) :
    Out.PcAligned (execGetVersion tr rq s) := .next (h.spdm fun _ h1 => h1.setConn.spdmAnswer)

theorem execGetCapabilities_pcAligned {tr : Bool} {rq : SpdmReq} (h : s.PcAligned) :
    Out.PcAligned (execGetCapabilities tr rq s) := .next (h.spdm fun _ h1 => h1.draw.draw.spdmAnswer)

theorem execNegotiateAlgorithms_pcAligned {tr : Bool} {rq : SpdmReq} (h : s.PcAligned) :
    Out.PcAligned (execNegotiateAlgorithms tr rq s) := .next (h.spdm fun _ h1 => h1.respond.ite h1.spdmAnswer)

theorem execGetDigests_pcAligned {tr : Bool} {rq : SpdmReq} (h : s.PcAligned) :
    Out.PcAligned (execGetDigests tr rq s) := .next (h.spdm fun _ h1 => h1.spdmAnswer)

theorem execGetCertificate_pcAligned {tr : Bool} {rq : SpdmReq} (h : s.PcAligned) :
    Out.PcAligned (execGetCertificate tr rq s) := .next (h.spdm fun _ h1 => h1.respond.ite h1.spdmAnswer)

theorem State.PcAligned.measBlocks {ids : List Nat} (h : s.PcAligned) : (State.measBlocks ids s).1.PcAligned := by
  induction ids generalizing s with
  | nil => exact h
  | cons i ids ih => exact ih h.draw

theorem execChallenge_pcAligned {tr : Bool} {rq : SpdmReq} (h : s.PcAligned) :
    Out.PcAligned (execChallenge tr rq s) :=
  .next (h.spdm fun _ h1 => h1.respond.ite h1.freeBytes.measBlocks.spdmAnswer)

theorem execGetMeasurements_pcAligned {tr : Bool} {rq : SpdmReq} (h : s.PcAligned) :
    Out.PcAligned (execGetMeasurements tr rq s) :=
  .next (h.spdm fun _ h1 => h1.respond.ite h1.measBlocks.freeBytes.spdmAnswer)

theorem execSpdmUnsupportedRequest_pcAligned {tr : Bool} {rq : SpdmReq} (h : s.PcAligned) :
    Out.PcAligned (execSpdmUnsupportedRequest tr rq s) := .next (h.spdm fun _ h1 => h1.respond)

end

section
/-! The operations of Sys2Proof/Machine/HostAccess.lean. -/

variable {s : State} {c : Core} {k : Nat}

theorem State.PcAligned.hostRead (h : s.PcAligned) {d : List PByte} : (s.hostRead d).PcAligned := h.frame (by rfl)

theorem State.PcAligned.writeSlotReg (h : s.PcAligned) {q : SlotId} {r : Nat} {v : Word} :
    (s.writeSlotReg q r v).PcAligned := by
  unfold State.writeSlotReg
  extract_lets _ s1 s2
  have h1 : s1.PcAligned := h.clearOvr.ite h
  have h2 : s2.PcAligned := h1.clearMal.ite h1
  split
  · exact h.ite h.setSlotQ
  · exact h.ite h.setSlotQ
  · exact h.ite h.setSlotQ
  · exact h.ite h.setSlotQ
  · exact h.tailWrite
  · exact h.cancelPacket.proceed
  · exact h2.clearXlf.ite h2
  · exact h

theorem State.PcAligned.writeRingReg (h : s.PcAligned) {n r : Nat} {v : Word} : (s.writeRingReg n r v).PcAligned := by
  unfold State.writeRingReg
  extract_lets
  split
  · exact h.setHostRing
  · exact h.setHostRing
  · exact h.setHostRing
  · exact h.setHostRing
  · exact h

theorem State.PcAligned.writeBar0 (h : s.PcAligned) {a : Nat} {v : Word} : (s.writeBar0 a v).PcAligned := by
  unfold State.writeBar0
  extract_lets
  exact h.ite ((h.load.ite h).ite (h.ite (h.writeSlotReg.ite (h.writeRingReg.ite ((h.frame (by rfl)).ite h)))))

theorem State.PcAligned.measured (h : s.PcAligned) : s.measured.PcAligned := h.draw.draw.frame (by rfl)

theorem State.PcAligned.readRegister (h : s.PcAligned) {a : Nat} : (s.readRegister a).PcAligned :=
  h.ite ((h.measured.ite (h.scrubMaybe.reloadMaybe.ite h)).hostRead)

theorem execRegisterWrite_pcAligned {off : BitVec 24} {val : BitVec 64} (h : s.PcAligned) :
    Out.PcAligned (execRegisterWrite off val s) := .next h.writeBar0

theorem State.PcAligned.barGet (h : s.PcAligned) {a n : Nat} {key : Option (BitVec 13)} :
    (s.barGet a n key).1.PcAligned := by
  unfold State.barGet
  extract_lets r
  have h1 : r.1.PcAligned := h.freeBytes
  split
  · exact h1
  · exact h.physGet

theorem execHostBar2Access_pcAligned {part : BitVec 3} {off : BitVec 64} {acc : HostAccess} (h : s.PcAligned) :
    Out.PcAligned (execHostBar2Access part off acc s) := by
  unfold execHostBar2Access
  extract_lets
  split
  · extract_lets _ r
    have h1 : r.1.PcAligned := by
      unfold r
      refine h.foldl_fst fun t b h1 => ?_
      extract_lets y
      have h2 : y.1.PcAligned := h1.barGet
      split
      · exact h2
      · exact h1
    exact Out.PcAligned.ite (.next h.hostRead) (.next h1.hostRead)
  · exact Out.PcAligned.ite (.next h) (.next (h.foldl fun _ _ h1 => h1.physPut.ite h1))

theorem execCxlMemAccess_pcAligned {part : BitVec 3} {off : BitVec 64} {acc : HostAccess} (h : s.PcAligned) :
    Out.PcAligned (execCxlMemAccess part off acc s) := by
  unfold execCxlMemAccess
  extract_lets _ _ _ _ v
  have h1 : v.2.PcAligned := h.draw
  split
  · exact Out.PcAligned.ite (.next h.freeBytes.hostRead) (.next h.physGet.hostRead)
  · extract_lets
    exact Out.PcAligned.ite (.next h) (Out.PcAligned.ite (.next (h1.physPut.journal.ite h1)) (.next
        h.physPut.journal))

theorem State.PcAligned.setBarKey (h : s.PcAligned) {part : BitVec 3} {slot : BitVec 13} :
    (s.setBarKey part slot).PcAligned := h.frame (by rfl)

theorem State.PcAligned.setJournalArea (h : s.PcAligned) {base : BitVec 51} {key : BitVec 13} :
    (s.setJournalArea base key).PcAligned := h.frame (by rfl)

theorem execLoadKey_pcAligned {slot : BitVec 13} {key : BitVec 512} (h : s.PcAligned) :
    Out.PcAligned (execLoadKey slot key s) := .next (h.frame (by rfl))

end

section
/-! The operations of Sys2Proof/Machine/Rotation.lean. -/

variable {s : State} {c : Core} {k : Nat}

theorem State.PcAligned.comeTo (h : s.PcAligned) : (s.comeTo k).PcAligned := h.frame (by rfl)

theorem execRotationTestStart_pcAligned {core : CoreId} (h : s.PcAligned) :
    Out.PcAligned (execRotationTestStart core s) := by
  unfold execRotationTestStart
  extract_lets _ _ _ s1 s2 _
  have h1 : s1.PcAligned := h.comeTo.ite (h.ite (h.frame (by rfl)))
  have h2 : s2.PcAligned := h1.onCore fun _ h2 => h2.frame (by rfl)
  exact Out.PcAligned.ite (.next h) (Out.PcAligned.ite (.next h.comeTo) (.next (h2.frame (by rfl))))

theorem State.PcAligned.endTest (h : s.PcAligned) : (s.endTest k).PcAligned := by
  unfold State.endTest
  extract_lets u
  have hu : u.PcAligned := h.onCore fun c hc => hc.frame (by rfl)
  clear_value u
  exact hu.frame (by rfl)

theorem execRotationTestPass_pcAligned {core : CoreId} (h : s.PcAligned) :
    Out.PcAligned (execRotationTestPass core s) := by
  unfold execRotationTestPass
  extract_lets _ u g
  have hu : u.PcAligned := h.endTest.onCore fun c hc => hc.frame (by rfl)
  clear_value g u
  exact .ite (.next h) (.next (State.PcAligned.season (hu.frame (by rfl))))

theorem State.PcAligned.failPanels (h : s.PcAligned) : s.failPanels.PcAligned :=
  h.foldl fun _ _ h1 => h1.onJig.tryEndJig

theorem State.PcAligned.dropReserved (h : s.PcAligned) : (s.dropReserved k).PcAligned :=
  h.foldl fun _ _ h1 => h1.onJig

theorem State.PcAligned.retireCore (h : s.PcAligned) : (s.retireCore k).PcAligned := by
  unfold State.retireCore
  extract_lets _ _ s1 s2 s3
  have h1 : s1.PcAligned := h.frame (by rfl)
  have h2 : s2.PcAligned := h1.tell.dropReserved
  have h3 : s3.PcAligned := h2.frame (by rfl)
  exact h3.replay.failPanels

theorem execRotationTestFail_pcAligned {core : CoreId} (h : s.PcAligned) :
    Out.PcAligned (execRotationTestFail core s) := Out.PcAligned.ite (.next h) (.next h.endTest.retireCore)

theorem execRotationDeadline_pcAligned {core : CoreId} (h : s.PcAligned) :
    Out.PcAligned (execRotationDeadline core s) := by
  unfold execRotationDeadline
  extract_lets _ _ _ s1
  have h1 : s1.PcAligned := h.frame (by rfl)
  split
  · exact .next h
  · exact .next h1.preempt

theorem execDramUncorrectable_pcAligned {addr : BitVec 51} (h : s.PcAligned) :
    Out.PcAligned (execDramUncorrectable addr s) := Out.PcAligned.ite (.next (h.frame (by rfl))) (.next h)

theorem execDramRowRemap_pcAligned {addr : BitVec 51} (h : s.PcAligned) : Out.PcAligned (execDramRowRemap addr s) :=
  Out.PcAligned.ite (.next h) (.next ((h.draw.frame (by rfl)).verify.ite (h.draw.frame (by rfl)).tell))

theorem State.PcAligned.retireFrames (h : s.PcAligned) {fs : List Nat} : (s.retireFrames fs).PcAligned :=
  (h.frame (by rfl)).tell

theorem execPoisonRecordThreshold_pcAligned (h : s.PcAligned) : Out.PcAligned (execPoisonRecordThreshold s) :=
  .next (h.foldl fun _ _ h1 => h1.retireFrames.ite h1)

theorem State.PcAligned.controlError (h : s.PcAligned) : (s.controlError k).PcAligned := by
  unfold State.controlError
  extract_lets _ _ s1
  have h1 : s1.PcAligned := h.frame (by rfl)
  split
  · exact h1.onCore fun _ h2 => h2.frame (by rfl)
  · exact h1.replay

theorem execSramUncorrectable_pcAligned {core : CoreId} {site : SramSite} (h : s.PcAligned) :
    Out.PcAligned (execSramUncorrectable core site s) := by
  unfold execSramUncorrectable
  extract_lets
  split
  · exact .next ((h.onCore fun _ h1 => h1.frame (by rfl)).ite h)
  · exact .next (h.onCore fun _ h1 => h1.frame (by rfl))
  · exact .next (h.onCore fun _ h1 => h1.frame (by rfl))
  · exact .next h.controlError

theorem execDispatcherMemError_pcAligned {half : Bool} (h : s.PcAligned) :
    Out.PcAligned (execDispatcherMemError half s) := .next h.replay

theorem State.PcAligned.containedStop (h : s.PcAligned) : s.containedStop.PcAligned := by
  unfold State.containedStop
  extract_lets _ _ s1 s2 s3 _
  have h1 : s1.PcAligned := h.frame (by rfl)
  have h2 : s2.PcAligned := h1.foldl fun _ _ h2 => h2.stopSteps
  have h3 : s3.PcAligned := h2.verify
  exact (h3.frame (by rfl)).replay

theorem execStructureCompare_pcAligned {res : CompareResult} (h : s.PcAligned) :
    Out.PcAligned (execStructureCompare res s) := by
  unfold execStructureCompare
  split
  · exact .next h
  · exact .next h
  · exact .next h.containedStop

end

section
/-! The operations of Sys2Proof/Machine/Scalar.lean. -/

variable {s : State} {c : Core} {k : Nat}

theorem State.PcAligned.branch (h : s.PcAligned) {c : Bool} {off : BitVec 11} : (s.branch c off).PcAligned :=
  h.setMe (Core.PcAligned.jumpTo.ite h.me.advance)

theorem execAdd_pcAligned {_st : SStall} {d a b : XReg} (h : s.PcAligned) : Out.PcAligned (execAdd _st d a b s) :=
  .next h.retireX

theorem execSub_pcAligned {_st : SStall} {d a b : XReg} (h : s.PcAligned) : Out.PcAligned (execSub _st d a b s) :=
  .next h.retireX

theorem execAnd_pcAligned {_st : SStall} {d a b : XReg} (h : s.PcAligned) : Out.PcAligned (execAnd _st d a b s) :=
  .next h.retireX

theorem execOr_pcAligned {_st : SStall} {d a b : XReg} (h : s.PcAligned) : Out.PcAligned (execOr _st d a b s) :=
  .next h.retireX

theorem execXor_pcAligned {_st : SStall} {d a b : XReg} (h : s.PcAligned) : Out.PcAligned (execXor _st d a b s) :=
  .next h.retireX

theorem execSll_pcAligned {_st : SStall} {d a b : XReg} (h : s.PcAligned) : Out.PcAligned (execSll _st d a b s) :=
  .next h.retireX

theorem execSrl_pcAligned {_st : SStall} {d a b : XReg} (h : s.PcAligned) : Out.PcAligned (execSrl _st d a b s) :=
  .next h.retireX

theorem execSra_pcAligned {_st : SStall} {d a b : XReg} (h : s.PcAligned) : Out.PcAligned (execSra _st d a b s) :=
  .next h.retireX

theorem execSlt_pcAligned {_st : SStall} {d a b : XReg} (h : s.PcAligned) : Out.PcAligned (execSlt _st d a b s) :=
  .next h.retireX

theorem execSltu_pcAligned {_st : SStall} {d a b : XReg} (h : s.PcAligned) : Out.PcAligned (execSltu _st d a b s) :=
  .next h.retireX

theorem execSeq_pcAligned {_st : SStall} {d a b : XReg} (h : s.PcAligned) : Out.PcAligned (execSeq _st d a b s) :=
  .next h.retireX

theorem execMin_pcAligned {_st : SStall} {d a b : XReg} (h : s.PcAligned) : Out.PcAligned (execMin _st d a b s) :=
  .next h.retireX

theorem execMax_pcAligned {_st : SStall} {d a b : XReg} (h : s.PcAligned) : Out.PcAligned (execMax _st d a b s) :=
  .next h.retireX

theorem execMinu_pcAligned {_st : SStall} {d a b : XReg} (h : s.PcAligned) : Out.PcAligned (execMinu _st d a b s) :=
  .next h.retireX

theorem execMaxu_pcAligned {_st : SStall} {d a b : XReg} (h : s.PcAligned) : Out.PcAligned (execMaxu _st d a b s) :=
  .next h.retireX

theorem execMul_pcAligned {_st : SStall} {d a b : XReg} (h : s.PcAligned) : Out.PcAligned (execMul _st d a b s) :=
  .next h.retireX

theorem execMulh_pcAligned {_st : SStall} {d a b : XReg} (h : s.PcAligned) : Out.PcAligned (execMulh _st d a b s) :=
  .next h.retireX

theorem execMulhu_pcAligned {_st : SStall} {d a b : XReg} (h : s.PcAligned) : Out.PcAligned (execMulhu _st d a b s) :=
  .next h.retireX

theorem execDiv_pcAligned {_st : SStall} {d a b : XReg} (h : s.PcAligned) : Out.PcAligned (execDiv _st d a b s) :=
  .next h.retireX

theorem execDivu_pcAligned {_st : SStall} {d a b : XReg} (h : s.PcAligned) : Out.PcAligned (execDivu _st d a b s) :=
  .next h.retireX

theorem execRem_pcAligned {_st : SStall} {d a b : XReg} (h : s.PcAligned) : Out.PcAligned (execRem _st d a b s) :=
  .next h.retireX

theorem execRemu_pcAligned {_st : SStall} {d a b : XReg} (h : s.PcAligned) : Out.PcAligned (execRemu _st d a b s) :=
  .next h.retireX

theorem execClz_pcAligned {_st : SStall} {d a : XReg} (h : s.PcAligned) : Out.PcAligned (execClz _st d a s) :=
  .next h.retireX

theorem execPopc_pcAligned {_st : SStall} {d a : XReg} (h : s.PcAligned) : Out.PcAligned (execPopc _st d a s) :=
  .next h.retireX

theorem execAddi_pcAligned {_st : SStall} {d a : XReg} {imm : BitVec 11} (h : s.PcAligned) :
    Out.PcAligned (execAddi _st d a imm s) := .next h.retireX

theorem execAndi_pcAligned {_st : SStall} {d a : XReg} {imm : BitVec 11} (h : s.PcAligned) :
    Out.PcAligned (execAndi _st d a imm s) := .next h.retireX

theorem execOri_pcAligned {_st : SStall} {d a : XReg} {imm : BitVec 11} (h : s.PcAligned) :
    Out.PcAligned (execOri _st d a imm s) := .next h.retireX

theorem execXori_pcAligned {_st : SStall} {d a : XReg} {imm : BitVec 11} (h : s.PcAligned) :
    Out.PcAligned (execXori _st d a imm s) := .next h.retireX

theorem execSlti_pcAligned {_st : SStall} {d a : XReg} {imm : BitVec 11} (h : s.PcAligned) :
    Out.PcAligned (execSlti _st d a imm s) := .next h.retireX

theorem execSlli_pcAligned {_st : SStall} {d a : XReg} {sh : BitVec 6} (h : s.PcAligned) :
    Out.PcAligned (execSlli _st d a sh s) := .next h.retireX

theorem execSrli_pcAligned {_st : SStall} {d a : XReg} {sh : BitVec 6} (h : s.PcAligned) :
    Out.PcAligned (execSrli _st d a sh s) := .next h.retireX

theorem execSrai_pcAligned {_st : SStall} {d a : XReg} {sh : BitVec 6} (h : s.PcAligned) :
    Out.PcAligned (execSrai _st d a sh s) := .next h.retireX

theorem execLi_pcAligned {_st : SStall} {d : XReg} {imm : BitVec 17} (h : s.PcAligned) :
    Out.PcAligned (execLi _st d imm s) := .next h.retireX

theorem execLis_pcAligned {_st : SStall} {d : XReg} {imm : BitVec 16} (h : s.PcAligned) :
    Out.PcAligned (execLis _st d imm s) := .next h.retireX

theorem execBeq_pcAligned {_st : SStall} {a b : XReg} {off : BitVec 11} (h : s.PcAligned) :
    Out.PcAligned (execBeq _st a b off s) := .next h.branch

theorem execBne_pcAligned {_st : SStall} {a b : XReg} {off : BitVec 11} (h : s.PcAligned) :
    Out.PcAligned (execBne _st a b off s) := .next h.branch

theorem execBlt_pcAligned {_st : SStall} {a b : XReg} {off : BitVec 11} (h : s.PcAligned) :
    Out.PcAligned (execBlt _st a b off s) := .next h.branch

theorem execBge_pcAligned {_st : SStall} {a b : XReg} {off : BitVec 11} (h : s.PcAligned) :
    Out.PcAligned (execBge _st a b off s) := .next h.branch

theorem execBltu_pcAligned {_st : SStall} {a b : XReg} {off : BitVec 11} (h : s.PcAligned) :
    Out.PcAligned (execBltu _st a b off s) := .next h.branch

theorem execBgeu_pcAligned {_st : SStall} {a b : XReg} {off : BitVec 11} (h : s.PcAligned) :
    Out.PcAligned (execBgeu _st a b off s) := .next h.branch

theorem execJal_pcAligned {_st : SStall} {d : XReg} {off : BitVec 17} (h : s.PcAligned) :
    Out.PcAligned (execJal _st d off s) := .next (h.setMe Core.PcAligned.jumpTo)

theorem execJalr_pcAligned {_st : SStall} {d a : XReg} {imm : BitVec 11} (h : s.PcAligned) :
    Out.PcAligned (execJalr _st d a imm s) := .next (h.setMe Core.PcAligned.jumpTo)

end

section
/-! The operations of Sys2Proof/Machine/Flags.lean. -/

variable {s : State} {c : Core} {k : Nat}

theorem State.PcAligned.retireFp (h : s.PcAligned) {d : XReg} {r : FpResult} : (s.retireFp d r).PcAligned :=
  h.setMe h.me.setX.orSst.advance

end

section
/-! The operations of Sys2Proof/Machine/ScalarFp.lean. -/

variable {s : State} {c : Core} {k : Nat}

theorem execFadd_pcAligned {_st : SStall} {d a b : XReg} (h : s.PcAligned) : Out.PcAligned (execFadd _st d a b s) :=
  .next h.retireFp

theorem execFsub_pcAligned {_st : SStall} {d a b : XReg} (h : s.PcAligned) : Out.PcAligned (execFsub _st d a b s) :=
  .next h.retireFp

theorem execFmul_pcAligned {_st : SStall} {d a b : XReg} (h : s.PcAligned) : Out.PcAligned (execFmul _st d a b s) :=
  .next h.retireFp

theorem execFdiv_pcAligned {_st : SStall} {d a b : XReg} (h : s.PcAligned) : Out.PcAligned (execFdiv _st d a b s) :=
  .next h.retireFp

theorem execFmin_pcAligned {_st : SStall} {d a b : XReg} (h : s.PcAligned) : Out.PcAligned (execFmin _st d a b s) :=
  .next h.retireFp

theorem execFmax_pcAligned {_st : SStall} {d a b : XReg} (h : s.PcAligned) : Out.PcAligned (execFmax _st d a b s) :=
  .next h.retireFp

theorem execFsqrt_pcAligned {_st : SStall} {d a : XReg} (h : s.PcAligned) : Out.PcAligned (execFsqrt _st d a s) :=
  .next h.retireFp

theorem execFeq_pcAligned {_st : SStall} {d a b : XReg} (h : s.PcAligned) : Out.PcAligned (execFeq _st d a b s) :=
  .next h.retireFp

theorem execFlt_pcAligned {_st : SStall} {d a b : XReg} (h : s.PcAligned) : Out.PcAligned (execFlt _st d a b s) :=
  .next h.retireFp

theorem execFle_pcAligned {_st : SStall} {d a b : XReg} (h : s.PcAligned) : Out.PcAligned (execFle _st d a b s) :=
  .next h.retireFp

theorem execFcvtsw_pcAligned {_st : SStall} {d a : XReg} (h : s.PcAligned) : Out.PcAligned (execFcvtsw _st d a s) :=
  .next h.retireFp

theorem execFcvtws_pcAligned {_st : SStall} {d a : XReg} (h : s.PcAligned) : Out.PcAligned (execFcvtws _st d a s) :=
  .next h.retireFp

theorem execFcvtbs_pcAligned {_st : SStall} {d a : XReg} (h : s.PcAligned) : Out.PcAligned (execFcvtbs _st d a s) :=
  .next h.retireFp

theorem execFcvtsb_pcAligned {_st : SStall} {d a : XReg} (h : s.PcAligned) : Out.PcAligned (execFcvtsb _st d a s) :=
  .next h.retireFp

theorem execFma_pcAligned {_st : SStall} {d a b : XReg} (h : s.PcAligned) : Out.PcAligned (execFma _st d a b s) :=
  .next h.retireFp

theorem execFms_pcAligned {_st : SStall} {d a b : XReg} (h : s.PcAligned) : Out.PcAligned (execFms _st d a b s) :=
  .next h.retireFp

theorem execFnma_pcAligned {_st : SStall} {d a b : XReg} (h : s.PcAligned) : Out.PcAligned (execFnma _st d a b s) :=
  .next h.retireFp

end

section
/-! The operations of Sys2Proof/Machine/TokenInstrs.lean. -/

variable {s : State} {c : Core} {k : Nat}

theorem execTrel_pcAligned {_st : SStall} {t : TReg} (h : s.PcAligned) : Out.PcAligned (execTrel _st t s) :=
  .next (h.afterUses fun _ h1 => h1.putTok.retire)

theorem execTmov_pcAligned {_st : SStall} {t u : TReg} (h : s.PcAligned) : Out.PcAligned (execTmov _st t u s) :=
  Out.PcAligned.ite (.next h.retire) (.next (h.afterUses fun _ h1 => h1.hold.putTok.retire))

theorem execTsub_pcAligned {_st : SStall} {t u : TReg} {a : XReg} (h : s.PcAligned) :
    Out.PcAligned (execTsub _st t u a s) := by
  unfold execTsub
  extract_lets
  split
  · exact .next (h.setMe (h.me.frame (by rfl)))
  · refine Out.PcAligned.next ?_
    refine State.PcAligned.afterUses h ?_
    intro t1 h1
    split
    · exact h1.putTok.retire
    · split
      · exact h1.trapMe
      next s1 _ hx2 =>
        have h2 : s1.PcAligned := h1.newMte.get hx2
        exact h2.putTok.retire

theorem execTinfo_pcAligned {_st : SStall} {u : TReg} {a : XReg} (h : s.PcAligned) :
    Out.PcAligned (execTinfo _st u a s) := .next h.retireX

theorem execTchk_pcAligned {_st : SStall} {u : TReg} {a : XReg} (h : s.PcAligned) :
    Out.PcAligned (execTchk _st u a s) := by
  unfold execTchk
  extract_lets
  split
  · exact .next (h.setMe (h.me.frame (by rfl)))
  · split
    · exact .next h.retireX
    · exact .next h.retireX
    · exact .next h.retireX

theorem execLook_pcAligned {_st : SStall} {d a : XReg} (h : s.PcAligned) : Out.PcAligned (execLook _st d a s) :=
  .next h.retireX

theorem execDtag_pcAligned {_st : SStall} {a b : XReg} (h : s.PcAligned) : Out.PcAligned (execDtag _st a b s) := by
  unfold execDtag
  extract_lets
  exact Out.PcAligned.ite (.next ((h.setMe h.me.oox).retire)) (.next ((h.setMe (h.me.frame (by rfl))).retire))

end

section
/-! The operations of Sys2Proof/Machine/VArith.lean. -/

variable {s : State} {c : Core} {k : Nat}

theorem execVadd_pcAligned {et : ETy} {_st : VStall} {g : PReg} {d a b : VReg} {sat : Bool} (h : s.PcAligned) :
    Out.PcAligned (execVadd et _st g d a b sat s) := h.typedV fun _ _ h1 => h1.frame (by rfl)

theorem execVsub_pcAligned {et : ETy} {_st : VStall} {g : PReg} {d a b : VReg} {sat : Bool} (h : s.PcAligned) :
    Out.PcAligned (execVsub et _st g d a b sat s) := h.typedV fun _ _ h1 => h1.frame (by rfl)

theorem execVmul_pcAligned {et : ETy} {_st : VStall} {g : PReg} {d a b : VReg} {sat : Bool} (h : s.PcAligned) :
    Out.PcAligned (execVmul et _st g d a b sat s) := h.typedV fun _ _ h1 => h1.frame (by rfl)

theorem execVfma_pcAligned {et : ETy} {_st : VStall} {g : PReg} {d a b : VReg} {sat : Bool} (h : s.PcAligned) :
    Out.PcAligned (execVfma et _st g d a b sat s) := h.typedV fun _ _ h1 => h1.frame (by rfl)

theorem execVmin_pcAligned {et : ETy} {_st : VStall} {g : PReg} {d a b : VReg} {uns : Bool} (h : s.PcAligned) :
    Out.PcAligned (execVmin et _st g d a b uns s) := h.typedV fun _ _ h1 => h1.frame (by rfl)

theorem execVmax_pcAligned {et : ETy} {_st : VStall} {g : PReg} {d a b : VReg} {uns : Bool} (h : s.PcAligned) :
    Out.PcAligned (execVmax et _st g d a b uns s) := h.typedV fun _ _ h1 => h1.frame (by rfl)

theorem execVabs_pcAligned {et : ETy} {_st : VStall} {g : PReg} {d a : VReg} {sat : Bool} (h : s.PcAligned) :
    Out.PcAligned (execVabs et _st g d a sat s) := h.typedV fun _ _ h1 => h1.frame (by rfl)

theorem execVneg_pcAligned {et : ETy} {_st : VStall} {g : PReg} {d a : VReg} {sat : Bool} (h : s.PcAligned) :
    Out.PcAligned (execVneg et _st g d a sat s) := h.typedV fun _ _ h1 => h1.frame (by rfl)

theorem execVand_pcAligned {et : ETy} {_st : VStall} {g : PReg} {d a b : VReg} (h : s.PcAligned) :
    Out.PcAligned (execVand et _st g d a b s) := h.typedV fun _ _ h1 => h1.frame (by rfl)

theorem execVor_pcAligned {et : ETy} {_st : VStall} {g : PReg} {d a b : VReg} (h : s.PcAligned) :
    Out.PcAligned (execVor et _st g d a b s) := h.typedV fun _ _ h1 => h1.frame (by rfl)

theorem execVxor_pcAligned {et : ETy} {_st : VStall} {g : PReg} {d a b : VReg} (h : s.PcAligned) :
    Out.PcAligned (execVxor et _st g d a b s) := h.typedV fun _ _ h1 => h1.frame (by rfl)

theorem execVshl_pcAligned {et : ETy} {_st : VStall} {g : PReg} {d a b : VReg} (h : s.PcAligned) :
    Out.PcAligned (execVshl et _st g d a b s) := h.typedV fun _ _ h1 => h1.frame (by rfl)

theorem execVshr_pcAligned {et : ETy} {_st : VStall} {g : PReg} {d a b : VReg} {uns : Bool} (h : s.PcAligned) :
    Out.PcAligned (execVshr et _st g d a b uns s) := h.typedV fun _ _ h1 => h1.frame (by rfl)

theorem execVcmp_pcAligned {et : ETy} {_st : VStall} {p : PReg} {k : CmpKind} {a b : VReg} {uns : Bool}
    (h : s.PcAligned) : Out.PcAligned (execVcmp et _st p k a b uns s) := h.typedV fun _ _ h1 => h1.setP

theorem execVsel_pcAligned {et : ETy} {_st : VStall} {p : PReg} {d a b : VReg} (h : s.PcAligned) :
    Out.PcAligned (execVsel et _st p d a b s) := h.typedV fun _ _ h1 => h1.frame (by rfl)

theorem execVmov_pcAligned {et : ETy} {_st : VStall} {g : PReg} {d a : VReg} (h : s.PcAligned) :
    Out.PcAligned (execVmov et _st g d a s) := h.typedV fun _ _ h1 => h1.frame (by rfl)

theorem execVexp2_pcAligned {et : ETy} {_st : VStall} {g : PReg} {d a : VReg} (h : s.PcAligned) :
    Out.PcAligned (execVexp2 et _st g d a s) := h.typedV fun _ _ h1 => h1.frame (by rfl)

theorem execVlog2_pcAligned {et : ETy} {_st : VStall} {g : PReg} {d a : VReg} (h : s.PcAligned) :
    Out.PcAligned (execVlog2 et _st g d a s) := h.typedV fun _ _ h1 => h1.frame (by rfl)

theorem execVrcp_pcAligned {et : ETy} {_st : VStall} {g : PReg} {d a : VReg} (h : s.PcAligned) :
    Out.PcAligned (execVrcp et _st g d a s) := h.typedV fun _ _ h1 => h1.frame (by rfl)

theorem execVrsq_pcAligned {et : ETy} {_st : VStall} {g : PReg} {d a : VReg} (h : s.PcAligned) :
    Out.PcAligned (execVrsq et _st g d a s) := h.typedV fun _ _ h1 => h1.frame (by rfl)

theorem execVtanh_pcAligned {et : ETy} {_st : VStall} {g : PReg} {d a : VReg} (h : s.PcAligned) :
    Out.PcAligned (execVtanh et _st g d a s) := h.typedV fun _ _ h1 => h1.frame (by rfl)

theorem execVerf_pcAligned {et : ETy} {_st : VStall} {g : PReg} {d a : VReg} (h : s.PcAligned) :
    Out.PcAligned (execVerf et _st g d a s) := h.typedV fun _ _ h1 => h1.frame (by rfl)

theorem execVaddi_pcAligned {et : ETy} {_st : VStall} {d : VReg} {imm : BitVec 16} (h : s.PcAligned) :
    Out.PcAligned (execVaddi et _st d imm s) := h.typedV fun _ _ h1 => h1.frame (by rfl)

theorem execVmuli_pcAligned {et : ETy} {_st : VStall} {d : VReg} {imm : BitVec 16} (h : s.PcAligned) :
    Out.PcAligned (execVmuli et _st d imm s) := h.typedV fun _ _ h1 => h1.frame (by rfl)

theorem execVmaxi_pcAligned {et : ETy} {_st : VStall} {d : VReg} {imm : BitVec 16} (h : s.PcAligned) :
    Out.PcAligned (execVmaxi et _st d imm s) := h.typedV fun _ _ h1 => h1.frame (by rfl)

theorem execVmini_pcAligned {et : ETy} {_st : VStall} {d : VReg} {imm : BitVec 16} (h : s.PcAligned) :
    Out.PcAligned (execVmini et _st d imm s) := h.typedV fun _ _ h1 => h1.frame (by rfl)

theorem execVmovi_pcAligned {et : ETy} {_st : VStall} {d : VReg} {imm : BitVec 16} (h : s.PcAligned) :
    Out.PcAligned (execVmovi et _st d imm s) := h.typedV fun _ _ h1 => h1.frame (by rfl)

theorem execVandi_pcAligned {et : ETy} {_st : VStall} {d : VReg} {imm : BitVec 16} (h : s.PcAligned) :
    Out.PcAligned (execVandi et _st d imm s) := h.typedV fun _ _ h1 => h1.frame (by rfl)

theorem execVshli_pcAligned {et : ETy} {_st : VStall} {d : VReg} {imm : BitVec 16} (h : s.PcAligned) :
    Out.PcAligned (execVshli et _st d imm s) := h.typedV fun _ _ h1 => h1.frame (by rfl)

theorem execVsubi_pcAligned {et : ETy} {_st : VStall} {d : VReg} {imm : BitVec 16} (h : s.PcAligned) :
    Out.PcAligned (execVsubi et _st d imm s) := h.typedV fun _ _ h1 => h1.frame (by rfl)

end

section
/-! The operations of Sys2Proof/Machine/VMove.lean. -/

variable {s : State} {c : Core} {k : Nat}

theorem State.PcAligned.pairV (h : s.PcAligned) {x y : ETy} {f : ElType → ElType → Option (Core → Core)}
    (hf : ∀ tx ty, OptKeeps (fun g => ∀ c : Core, c.PcAligned → (g c).PcAligned) (f tx ty)) :
    Out.PcAligned (s.pairV x y f) := by
  unfold State.pairV
  split
  next tx ty _ _ =>
    split
    next hg => exact .next (h.setMe ((hf tx ty).get hg _ h.me)).retireV
    · exact .next h.illegalV
  · exact .next h.illegalV

theorem execVcvt_pcAligned {et : ETy} {st : VStall} {g : PReg} {d a : VReg} {y : ETy} {r : Round} {sat : Bool}
    (h : s.PcAligned) : Out.PcAligned (execVcvt et st g d a y r sat s) :=
  h.pairV fun _ _ => .ite (OptKeeps.some fun _ hc => hc.putActive) trivial

theorem widened_pcAligned (h : c.PcAligned) {tx ty : ElType} {n : Nat} {g : PReg} {d a : VReg} {uns : Bool} :
    (widened c tx ty n g d a uns).PcAligned := h.foldl fun _ _ h1 => h1.frame (by rfl)

theorem execVwid_pcAligned {et : ETy} {st : VStall} {g : PReg} {d a : VReg} {y : ETy} {uns : Bool} (h : s.PcAligned) :
    Out.PcAligned (execVwid et st g d a y uns s) :=
  h.pairV fun _ _ => .ite trivial (OptKeeps.some fun _ hc => widened_pcAligned hc)

theorem narrowed_pcAligned (h : c.PcAligned) {tx ty : ElType} {n : Nat} {g : PReg} {d a : VReg} {r : Round}
    {sat : Bool} : (narrowed c tx ty n g d a r sat).PcAligned := h.frame (by rfl)

theorem execVnar_pcAligned {et : ETy} {st : VStall} {g : PReg} {d a : VReg} {y : ETy} {r : Round} {sat : Bool}
    (h : s.PcAligned) : Out.PcAligned (execVnar et st g d a y r sat s) :=
  h.pairV fun _ _ => .ite trivial (OptKeeps.some fun _ hc => narrowed_pcAligned hc)

theorem execVperm_pcAligned {et : ETy} {_st : VStall} {g : PReg} {d a b : VReg} (h : s.PcAligned) :
    Out.PcAligned (execVperm et _st g d a b s) := h.typedV fun _ _ h1 => h1.frame (by rfl)

theorem execVzip_pcAligned {et : ETy} {_st : VStall} {g : PReg} {d a b : VReg} (h : s.PcAligned) :
    Out.PcAligned (execVzip et _st g d a b s) := h.typedV fun _ _ h1 => h1.frame (by rfl)

theorem execVunz_pcAligned {et : ETy} {_st : VStall} {g : PReg} {d a b : VReg} (h : s.PcAligned) :
    Out.PcAligned (execVunz et _st g d a b s) := h.typedV fun _ _ h1 => h1.frame (by rfl)

theorem execVred_pcAligned {et : ETy} {_st : VStall} {g : PReg} {d a : VReg} {f : RedFn} {uns : Bool}
    (h : s.PcAligned) : Out.PcAligned (execVred et _st g d a f uns s) := h.typedV fun _ _ h1 => h1.frame (by rfl)

theorem execVscan_pcAligned {et : ETy} {_st : VStall} {g : PReg} {d a : VReg} {f : RedFn} {uns : Bool}
    (h : s.PcAligned) : Out.PcAligned (execVscan et _st g d a f uns s) := h.typedV fun _ _ h1 => h1.frame (by rfl)

theorem execViota_pcAligned {et : ETy} {_st : VStall} {g : PReg} {d : VReg} (h : s.PcAligned) :
    Out.PcAligned (execViota et _st g d s) := h.typedV fun _ _ h1 => h1.frame (by rfl)

theorem execVbcast_pcAligned {et : ETy} {_st : VStall} {g : PReg} {d : VReg} {b : AReg} (h : s.PcAligned) :
    Out.PcAligned (execVbcast et _st g d b s) := h.typedV fun _ _ h1 => h1.frame (by rfl)

end

section
/-! The operations of Sys2Proof/Machine/Dispatch.lean. -/

variable {s : State} {c : Core} {k : Nat}

/-- Every meaning keeps the program counters aligned. -/
theorem exec_pcAligned {i : Instr} (h : s.PcAligned) : Out.PcAligned (exec i s) := by
  unfold exec
  split
  · exact execAdd_pcAligned h
  · exact execSub_pcAligned h
  · exact execAnd_pcAligned h
  · exact execOr_pcAligned h
  · exact execXor_pcAligned h
  · exact execSll_pcAligned h
  · exact execSrl_pcAligned h
  · exact execSra_pcAligned h
  · exact execSlt_pcAligned h
  · exact execSltu_pcAligned h
  · exact execSeq_pcAligned h
  · exact execMin_pcAligned h
  · exact execMax_pcAligned h
  · exact execMinu_pcAligned h
  · exact execMaxu_pcAligned h
  · exact execMul_pcAligned h
  · exact execMulh_pcAligned h
  · exact execMulhu_pcAligned h
  · exact execDiv_pcAligned h
  · exact execDivu_pcAligned h
  · exact execRem_pcAligned h
  · exact execRemu_pcAligned h
  · exact execClz_pcAligned h
  · exact execPopc_pcAligned h
  · exact execAddi_pcAligned h
  · exact execAndi_pcAligned h
  · exact execOri_pcAligned h
  · exact execXori_pcAligned h
  · exact execSlli_pcAligned h
  · exact execSrli_pcAligned h
  · exact execSrai_pcAligned h
  · exact execSlti_pcAligned h
  · exact execLi_pcAligned h
  · exact execLis_pcAligned h
  · exact execFadd_pcAligned h
  · exact execFsub_pcAligned h
  · exact execFmul_pcAligned h
  · exact execFdiv_pcAligned h
  · exact execFmin_pcAligned h
  · exact execFmax_pcAligned h
  · exact execFsqrt_pcAligned h
  · exact execFeq_pcAligned h
  · exact execFlt_pcAligned h
  · exact execFle_pcAligned h
  · exact execFcvtsw_pcAligned h
  · exact execFcvtws_pcAligned h
  · exact execFcvtbs_pcAligned h
  · exact execFcvtsb_pcAligned h
  · exact execFma_pcAligned h
  · exact execFms_pcAligned h
  · exact execFnma_pcAligned h
  · exact execBeq_pcAligned h
  · exact execBne_pcAligned h
  · exact execBlt_pcAligned h
  · exact execBge_pcAligned h
  · exact execBltu_pcAligned h
  · exact execBgeu_pcAligned h
  · exact execJal_pcAligned h
  · exact execJalr_pcAligned h
  · exact execLdb_pcAligned h
  · exact execLdh_pcAligned h
  · exact execLdw_pcAligned h
  · exact execLdd_pcAligned h
  · exact execStb_pcAligned h
  · exact execSth_pcAligned h
  · exact execStw_pcAligned h
  · exact execStd_pcAligned h
  · exact execAmo_pcAligned h
  · exact execCas_pcAligned h
  · exact execLds_pcAligned h
  · exact execSts_pcAligned h
  · exact execSps_pcAligned h
  · exact execSpl_pcAligned h
  · exact execXlat_pcAligned h
  · exact execXlatq_pcAligned h
  · exact execTrel_pcAligned h
  · exact execTmov_pcAligned h
  · exact execTsub_pcAligned h
  · exact execTinfo_pcAligned h
  · exact execTchk_pcAligned h
  · exact execLook_pcAligned h
  · exact execDtag_pcAligned h
  · exact execFork_pcAligned h
  · exact execRdv_pcAligned h
  · exact execSend_pcAligned h
  · exact execVfence_pcAligned h
  · exact execRapp_pcAligned h
  · exact execRappPair_pcAligned h
  · exact execPost_pcAligned h
  · exact execWaits_pcAligned h
  · exact execMark_pcAligned h
  · exact execFence_pcAligned h
  · exact execBar_pcAligned h
  · exact execSacq_pcAligned h
  · exact execScommit_pcAligned h
  · exact execSawait_pcAligned h
  · exact execSrel_pcAligned h
  · exact execJlaunch_pcAligned h
  · exact execFlushh_pcAligned h
  · exact execInvh_pcAligned h
  · exact execSkipr_pcAligned h
  · exact execSkipw_pcAligned h
  · exact execCsrr_pcAligned h
  · exact execCsrw_pcAligned h
  · exact execCsrs_pcAligned h
  · exact execCsrc_pcAligned h
  · exact execTrap_pcAligned h
  · exact execEret_pcAligned h
  · exact execHalt_pcAligned h
  · exact execWfi_pcAligned h
  · exact execBkpt_pcAligned h
  · exact execVadd_pcAligned h
  · exact execVsub_pcAligned h
  · exact execVmul_pcAligned h
  · exact execVfma_pcAligned h
  · exact execVmin_pcAligned h
  · exact execVmax_pcAligned h
  · exact execVabs_pcAligned h
  · exact execVneg_pcAligned h
  · exact execVand_pcAligned h
  · exact execVor_pcAligned h
  · exact execVxor_pcAligned h
  · exact execVshl_pcAligned h
  · exact execVshr_pcAligned h
  · exact execVcmp_pcAligned h
  · exact execVsel_pcAligned h
  · exact execVmov_pcAligned h
  · exact execVexp2_pcAligned h
  · exact execVlog2_pcAligned h
  · exact execVrcp_pcAligned h
  · exact execVrsq_pcAligned h
  · exact execVtanh_pcAligned h
  · exact execVerf_pcAligned h
  · exact execVcvt_pcAligned h
  · exact execVwid_pcAligned h
  · exact execVnar_pcAligned h
  · exact execVperm_pcAligned h
  · exact execVzip_pcAligned h
  · exact execVunz_pcAligned h
  · exact execVred_pcAligned h
  · exact execVscan_pcAligned h
  · exact execViota_pcAligned h
  · exact execVbcast_pcAligned h
  · exact execVaddi_pcAligned h
  · exact execVmuli_pcAligned h
  · exact execVmaxi_pcAligned h
  · exact execVmini_pcAligned h
  · exact execVmovi_pcAligned h
  · exact execVandi_pcAligned h
  · exact execVshli_pcAligned h
  · exact execVsubi_pcAligned h
  · exact execVld_pcAligned h
  · exact execVst_pcAligned h
  · exact execVlds_pcAligned h
  · exact execVsts_pcAligned h
  · exact execVgath_pcAligned h
  · exact execVscat_pcAligned h
  · exact execVslotAcq_pcAligned h
  · exact execVslotCommit_pcAligned h
  · exact execVslotAwait_pcAligned h
  · exact execVslotRel_pcAligned h
  · exact execVsetfSetfmt_pcAligned h
  · exact execVsetfSelpat_pcAligned h
  · exact execVsetfLdpat_pcAligned h
  · exact execPand_pcAligned h
  · exact execPor_pcAligned h
  · exact execPxor_pcAligned h
  · exact execPnot_pcAligned h
  · exact execPcnt_pcAligned h
  · exact execPfirst_pcAligned h
  · exact execArecv_pcAligned h
  · exact execAopImm_pcAligned h
  · exact execAopReg_pcAligned h
  · exact execVpost_pcAligned h
  · exact execVwait_pcAligned h
  · exact execVmark_pcAligned h
  · exact execVloop_pcAligned h
  · exact execVend_pcAligned h
  · exact execMsync_pcAligned h
  · exact execMma_pcAligned h
  · exact execMmap_pcAligned h
  · exact execMzero_pcAligned h
  · exact execMdrain_pcAligned h
  · exact execMldacc_pcAligned h
  · exact execMfmt_pcAligned h
  · exact execMloop_pcAligned h
  · exact execMchk_pcAligned h
  · exact execCsync_pcAligned h
  · exact execCopy_pcAligned h
  · exact execCopyt_pcAligned h
  · exact execImwin_pcAligned h
  · exact execGather_pcAligned h
  · exact execScatter_pcAligned h
  · exact execFill_pcAligned h
  · exact execSketch_pcAligned h
  · exact execPcopy_pcAligned h
  · exact execDvopen_pcAligned h
  · exact execDvw_pcAligned h
  · exact execDvrel_pcAligned h
  · exact execDvshut_pcAligned h
  · exact execCloop_pcAligned h
  · exact execCflush_pcAligned h
  · exact execEngineCommandIssue_pcAligned h
  · exact execEngineCommandComplete_pcAligned h
  · exact execRelocateTake_pcAligned h
  · exact execApertureCopyStart_pcAligned h
  · exact execStreamWake_pcAligned h
  · exact execTakeAsyncTrap_pcAligned h
  · exact execReplyResolved_pcAligned h
  · exact execReplyDeclined_pcAligned h
  · exact execReplyNoframe_pcAligned h
  · exact execReplyNoframeOwn_pcAligned h
  · exact execPinwaitExpiry_pcAligned h
  · exact execRevokeUnmap_pcAligned h
  · exact execRevokeMigrate_pcAligned h
  · exact execRevokeDiscard_pcAligned h
  · exact execRevokeAttribute_pcAligned h
  · exact execRevocationSettled_pcAligned h
  · exact execRewalkComplete_pcAligned h
  · exact execMigrationLinePull_pcAligned h
  · exact execTailWrite_pcAligned h
  · exact execQcanWrite_pcAligned h
  · exact execClearOvr_pcAligned h
  · exact execClearMal_pcAligned h
  · exact execClearXlf_pcAligned h
  · exact execRegisterWrite_pcAligned h
  · exact execHostBar2Access_pcAligned h
  · exact execCxlMemAccess_pcAligned h
  · exact execPacketJig_pcAligned h
  · exact execPacketGraph_pcAligned h
  · exact execPacketCopy_pcAligned h
  · exact execPacketCopyDone_pcAligned h
  · exact execPacketSignal_pcAligned h
  · exact execPacketWait_pcAligned h
  · exact execDispatcherReread_pcAligned h
  · exact execLaunchedTake_pcAligned h
  · exact execStepHandout_pcAligned h
  · exact execSkipDecision_pcAligned h
  · exact execStepEnd_pcAligned h
  · exact execTlimitExpiry_pcAligned h
  · exact execPanelReserve_pcAligned h
  · exact execNodeReady_pcAligned h
  · exact execNodeCond_pcAligned h
  · exact execNodeHostring_pcAligned h
  · exact execHostringTimeExpiry_pcAligned h
  · exact execMultiCommit_pcAligned h
  · exact execMultiTimeout_pcAligned h
  · exact execPreemptRequest_pcAligned h
  · exact execPreemptSaveDone_pcAligned h
  · exact execRestoreRequest_pcAligned h
  · exact execMapGang_pcAligned h
  · exact execUnmapGang_pcAligned h
  · exact execSetPartitions_pcAligned h
  · exact execBindDescriptor_pcAligned h
  · exact execFreeDescriptor_pcAligned h
  · exact execExportWindow_pcAligned h
  · exact execLoadKey_pcAligned h
  · exact execGovceilWrite_pcAligned h
  · exact execGovRampUp_pcAligned h
  · exact execGovRampDown_pcAligned h
  · exact execRotationTestStart_pcAligned h
  · exact execRotationTestPass_pcAligned h
  · exact execRotationTestFail_pcAligned h
  · exact execRotationDeadline_pcAligned h
  · exact execDramUncorrectable_pcAligned h
  · exact execDramRowRemap_pcAligned h
  · exact execPoisonRecordThreshold_pcAligned h
  · exact execSramUncorrectable_pcAligned h
  · exact execDispatcherMemError_pcAligned h
  · exact execStructureCompare_pcAligned h
  · exact execDvRecvWrite_pcAligned h
  · exact execDvRecvRelease_pcAligned h
  · exact execDvRecvGap_pcAligned h
  · exact execDvRecvBusy_pcAligned h
  · exact execDvBusyRestart_pcAligned h
  · exact execDvRecvOpen_pcAligned h
  · exact execDvRecvOpenack_pcAligned h
  · exact execDvRecvShut_pcAligned h
  · exact execDvRecvShutack_pcAligned h
  · exact execDvRecvFault_pcAligned h
  · exact execDvRecvFaultack_pcAligned h
  · exact execDvReleaseCopy_pcAligned h
  · exact execDvTgapExpiry_pcAligned h
  · exact execDvGapRepeat_pcAligned h
  · exact execDvReplayTimeout_pcAligned h
  · exact execDvSettle_pcAligned h
  · exact execDvControlResend_pcAligned h
  · exact execPacketExpiry_pcAligned h
  · exact execFlitReceive_pcAligned h
  · exact execLinkDown_pcAligned h
  · exact execPortTrained_pcAligned h
  · exact execPowerOn_pcAligned
  · exact execLeaseN_pcAligned h
  · exact execGate_pcAligned h
  · exact execSetNonce_pcAligned h
  · exact execReadStatus_pcAligned h
  · exact execReadRecord_pcAligned h
  · exact execScrubComplete_pcAligned h
  · exact execLdctlGo_pcAligned h
  · exact execLiveLoad_pcAligned h
  · exact execExtend_pcAligned h
  · exact execBenchHeartbeatTimeout_pcAligned h
  · exact execGetVersion_pcAligned h
  · exact execGetCapabilities_pcAligned h
  · exact execNegotiateAlgorithms_pcAligned h
  · exact execGetDigests_pcAligned h
  · exact execGetCertificate_pcAligned h
  · exact execChallenge_pcAligned h
  · exact execGetMeasurements_pcAligned h
  · exact execSpdmUnsupportedRequest_pcAligned h
  · exact execDramTempThreshold_pcAligned h
  · exact execPowerLoss_pcAligned
  · exact execBenchSramUncorrectable_pcAligned h
  · exact execApertureCopyDone_pcAligned h
  · exact execPredictedFrameConfirmed_pcAligned h
  · exact execStoreVisible_pcAligned h
  · exact execMsixVectorUnmask_pcAligned h

end

section
/-! The operations of Sys2Proof/Machine/Issue.lean. -/

variable {s : State} {c : Core} {k : Nat}

theorem State.PcAligned.issueAt (h : s.PcAligned) {ready : Nat} : (s.issueAt ready).2.PcAligned :=
  h.draw.frame (by rfl)

theorem State.PcAligned.issueS (h : s.PcAligned) {i : Instr} : (s.issueS i).PcAligned := by
  unfold State.issueS
  extract_lets r s1
  have h1 : r.2.PcAligned := h.issueAt
  have h2 : s1.PcAligned := h1
  split
  · exact h2
  · exact h2.setMe (h2.me.frame (by rfl))

theorem State.PcAligned.issueV (h : s.PcAligned) {i : Instr} : (s.issueV i).PcAligned :=
  h.issueAt.ite (h.issueAt.setMe (h.issueAt.me.frame (by rfl)))

end

section
/-! The operations of Sys2Proof/Machine/Turn.lean. -/

variable {s : State} {c : Core} {k : Nat}

theorem State.PcAligned.turnS (h : s.PcAligned) : Out.PcAligned s.turnS := by
  unfold State.turnS
  split
  · exact .next h
  · exact .next h.runAll
  · exact .next h.asyncTrap
  · exact .next h.trapMe
  · exact .next h.trapMe
  · exact exec_pcAligned h.issueS

theorem State.PcAligned.keepWord (h : s.PcAligned) {i : Instr} : (s.keepWord i).PcAligned := by
  unfold State.keepWord
  extract_lets
  split
  · exact h
  · exact (h.setMe (h.me.frame (by rfl))).hold
  · exact h.dropWord
  · exact h

theorem Out.PcAligned.keepAfter {o : Out} (h : Out.PcAligned o) {i : Instr} : Out.PcAligned (keepAfter i o) := by
  cases o with
  | next t => exact .next (State.PcAligned.keepWord h)
  | fault f => trivial
  | refused r => trivial

theorem State.PcAligned.turnV (h : s.PcAligned) : Out.PcAligned s.turnV := by
  unfold State.turnV
  split
  · exact .next h
  · exact .next h.runAll
  · exact .next (h.setMe (h.me.frame (by rfl)))
  · exact .next h.illegalV
  · exact .next (h.setMe h.me.stopV)
  · exact (exec_pcAligned h.issueV).keepAfter

theorem State.PcAligned.turnE (h : s.PcAligned) {e : EngineSel} : Out.PcAligned (s.turnE e) := by
  unfold State.turnE
  split
  · exact .next (h.runApertures.ite h)
  · exact exec_pcAligned h
  · exact .next h.runTaken
  · exact .next (h.setMe h.me.setEngine)
  · exact .next h.illegalCmd
  · exact exec_pcAligned h

theorem State.PcAligned.turnOf (h : s.PcAligned) {g : Agent} : Out.PcAligned (s.turnOf g) := by
  unfold State.turnOf
  extract_lets s1
  have h1 : s1.PcAligned := h.frame (by rfl)
  split
  · exact h1.turnS
  · exact h1.turnV
  · exact h1.turnE
  · exact h1.turnE

theorem State.PcAligned.passed (h : s.PcAligned) : s.passed.PcAligned := h.frame (by rfl)

/-- What follows a step keeps the program counters aligned; one that did not happen leaves those before it. -/
theorem afterStep_pcAligned {before : State} (hb : before.PcAligned) {o : Out} (ho : Out.PcAligned o) :
    Out.PcAligned (afterStep before o) := by
  cases o with
  | next t =>
    have h1 : t.observe.PcAligned := State.PcAligned.observe ho
    exact .next (hb.passed.ite h1.pumpRequests.benchFail.coolDown.coolDown)
  | fault f => trivial
  | refused r => trivial

theorem State.PcAligned.performNext (h : s.PcAligned) {v : Bool} : (s.performNext k v).PcAligned := by
  unfold State.performNext
  split
  next s1 hx =>
    have h1 : s1.PcAligned := h.performLoad.of_done hx
    exact h1
  next s1 hx =>
    have h1 : s1.PcAligned := h.performLoad.of_trapped hx
    exact h1
  · exact h

theorem State.PcAligned.move (h : s.PcAligned) : Out.PcAligned s.move := by
  unfold State.move
  split
  · exact (h.frame (by rfl)).turnOf
  · exact Out.PcAligned.ite (exec_pcAligned (h.frame (by rfl))) (.next (h.frame (by rfl)))
  · exact (h.frame (by rfl)).turnOf
  · exact (h.frame (by rfl)).turnOf
  · exact .next (h.frame (by rfl)).performNext
  · exact .next (h.frame (by rfl)).cache
  · exact .next (h.frame (by rfl)).readRegister
  · exact .next ((h.frame (by rfl)).setBarKey.ite (h.frame (by rfl)))
  · exact .next ((h.frame (by rfl)).setPinwait.ite (h.frame (by rfl)))
  · exact .next ((h.frame (by rfl)).setJournalArea.ite (h.frame (by rfl)))
  · exact .next ((h.frame (by rfl)).writeTable.ite (h.frame (by rfl)))
  · exact .next ((h.frame (by rfl)).setTgap.ite (h.frame (by rfl)))

theorem State.PcAligned.moveNext (h : s.PcAligned) : Out.PcAligned s.moveNext := h.loadMaybe.move

end

section
/-! The operations of Sys2Proof/Machine/Step.lean. -/

variable {s : State} {c : Core} {k : Nat}

/-- A step is a move and what follows it. -/
theorem step_pcAligned (h : s.PcAligned) : Out.PcAligned (step s) := afterStep_pcAligned h h.moveNext

end

end Sys2Proof.Machine

open Sys2Proof Sys2Proof.Machine

/-- Settles O59: a step that answers a state answers an aligned one. -/
theorem programCountersStayAligned : Obligations.ProgramCountersStayAligned := by
  intro s t h ht
  have hs : Out.PcAligned (step s) := step_pcAligned h
  rw [ht] at hs
  exact hs

end

section
/-! PROOF. A step runs the event that its agenda names, or gives a turn to the agent whose turn it is (R52-R57, R65, R72-R77, R154,
R185, R197, R211, R218, R344). -/

namespace Sys2Proof.Machine

open Sys2Proof

/-- Decoding one S word from its four bytes is decoding the number they form (R52, R53). -/
theorem decode_s_of_length_four {bs : List Byte} (h : bs.length = 4) :
    decode .s bs = (decodeS (leNat bs)).map (fun i => (i, [])) := by
  match bs, h with
  | [a, b, c, d], _ =>
    unfold decode
    simp only [wordsOfBytes, decodeWords, wordsOf]
    cases decodeS (leNat [a, b, c, d]) <;> rfl

/-- The bytes that the S word at an address of a core's instruction memory is read from (R22, R420). -/
def State.instrBytes (s : State) (k a : Nat) : List Byte :=
  Sparse.getList 0 (if k < 256 then (s.core k).imem else if benchB k then s.bench.sramB else s.bench.sramA) a 4

theorem State.decode_instrBytes (s : State) (k a : Nat) :
    decode .s (s.instrBytes k a) = (decodeS (s.instrWord k a)).map (fun i => (i, [])) := by
  have hw : leNat (s.instrBytes k a) = s.instrWord k a := by
    unfold State.instrBytes State.instrWord Core.imemWord
    split <;> rfl
  rw [decode_s_of_length_four (by simp [State.instrBytes]), hw]

theorem State.decodeS_instrWord_ok {s : State} {k a : Nat} {i : Instr} (h : decode .s (s.instrBytes k a) = .ok (i, [])) :
    decodeS (s.instrWord k a) = .ok i := by
  rw [State.decode_instrBytes] at h
  cases hd : decodeS (s.instrWord k a) with
  | error d => rw [hd] at h; cases h
  | ok j => rw [hd] at h; cases h; rfl

theorem State.decodeS_instrWord_error {s : State} {k a : Nat} {d : DecodeError}
    (h : decode .s (s.instrBytes k a) = .error d) : decodeS (s.instrWord k a) = .error d := by
  rw [State.decode_instrBytes] at h
  cases hd : decodeS (s.instrWord k a) with
  | error e => rw [hd] at h; cases h; rfl
  | ok j => rw [hd] at h; cases h

/-- A state from which nothing follows a step: no doorbell word was stored to, no request waits, no line holds the step up, no Bench
was lost and no half is hot. -/
def State.Settled (t : State) : Prop :=
  t.mem.rung = [] ∧ t.bench.requests = [] ∧ t.mem.blocked = false ∧ t.bench.lost = false ∧ t.power.hotA = none ∧ t.power.hotB = none

theorem State.Settled.afterStep {s t : State} (h : t.Settled) : afterStep s (.next t) = .next t := by
  obtain ⟨hr, hq, hb, hl, ha, hb'⟩ := h
  exact afterStep_next hr hq hb hl ha hb'

/-- The step of `s` is what follows the move `o`. -/
def Moves (s : State) (o : Out) : Prop :=
  step s = afterStep s o ∧ ∀ t, o = .next t → t.Settled → step s = .next t

theorem moves_of_moveNext {s : State} {o : Out} (h : s.moveNext = o) : Moves s o := by
  have hs : step s = afterStep s o := by rw [← h]; rfl
  refine ⟨hs, fun t ht hst => ?_⟩
  rw [hs, ht]
  exact hst.afterStep

@[simp] theorem State.turn_loadMaybe (s : State) : s.loadMaybe.turn = s.turn := by
  unfold State.loadMaybe State.loaded
  split
  · rfl
  · dsimp only; split <;> rfl

@[simp] theorem State.power_loadMaybe (s : State) : s.loadMaybe.power = s.power := by
  unfold State.loadMaybe State.loaded
  split
  · rfl
  · dsimp only; split <;> rfl

/-- That LOADING ends is not the start of a gate. -/
@[simp] theorem State.gateRuns_loadMaybe (s : State) : s.loadMaybe.gateRuns = s.gateRuns := by
  unfold State.loadMaybe
  split
  · rfl
  next h =>
    have hg : s.plinth.gate = .loading := not_not.1 h
    have h0 : s.gateRuns = false := by unfold State.gateRuns; rw [hg]; rfl
    dsimp only
    split
    · rw [h0]; rfl
    · exact rfl

theorem State.gateRuns_iff (s : State) : s.gateRuns = true ↔ s.plinth.gate = .hold ∨ s.plinth.gate = .scrub := by
  simp [State.gateRuns]

/-- Where the part of the device that an event belongs to is in service (R420, R427, R433). -/
theorem State.serves_loadMaybe_iff (s : State) (i : Instr) :
    s.loadMaybe.serves i = true ↔
      if s.power.on = false then needsNoPower i = true
      else if s.plinth.gate = .hold ∨ s.plinth.gate = .scrub then inGate i = true
      else benchActs i = true → s.loadMaybe.plinth.gate = .running ∧ s.power.thermtrip = false := by
  unfold State.serves
  rw [State.power_loadMaybe, State.gateRuns_loadMaybe]
  by_cases hp : s.power.on = false
  · simp [hp]
  · by_cases hg : s.gateRuns = true
    · have hg' := (s.gateRuns_iff).1 hg
      simp [hp, hg, hg']
    · have hg' := mt (s.gateRuns_iff).2 hg
      simp only [Bool.not_eq_true] at hp hg
      simp only [Bool.not_eq_false] at hp
      simp only [hp, hg, hg', State.benchRuns, State.power_loadMaybe]
      cases benchActs i <;> simp

/-- A turn of an agent of the current core. -/
def State.turnBy (u : State) : Agent → Out
  | .s => u.turnS
  | .v => u.turnV
  | .m => u.turnE .m
  | .c => u.turnE .c

theorem State.turnBy_agentOfEngine (u : State) (e : EngineSel) : u.turnBy (agentOfEngine e) = u.turnE e := by
  cases e <;> rfl

theorem State.turnOf_eq (s : State) (g : Agent) : s.turnOf g = State.turnBy { s with turn := agentAfter g } g := by
  cases g <;> rfl

/-- The state in which an agent has its turn: the next in the order of the agents, or one that the agenda names. -/
def State.Turn (s : State) (g : Agent) (u : State) : Prop :=
  (s.agenda = [] ∧ s.turn = g ∧ u = { s.loadMaybe with lazy := false, turn := agentAfter g }) ∨
  (∃ j n rest, s.agenda = .run j g n :: rest ∧
    u = { s.loadMaybe with agenda := rest, cur := j, budget := n, lazy := false, turn := agentAfter g }) ∨
  (∃ j rest, s.agenda = .lazy j g :: rest ∧
    u = { s.loadMaybe with agenda := rest, cur := j, lazy := true, turn := agentAfter g })

theorem State.Turn.moves {s u : State} {g : Agent} (h : s.Turn g u) {o : Out} (ho : u.turnBy g = o) : Moves s o := by
  refine moves_of_moveNext (Eq.trans ?_ ho)
  unfold State.moveNext State.move
  obtain ⟨ha, hg, rfl⟩ | ⟨j, n, rest, ha, rfl⟩ | ⟨j, rest, ha, rfl⟩ := h
  · simp only [State.agenda_loadMaybe, ha, State.turnOf_eq, State.turn_loadMaybe, hg]
  · simp only [State.agenda_loadMaybe, ha, State.turnOf_eq]
  · simp only [State.agenda_loadMaybe, ha, State.turnOf_eq]


/-- An asynchronous trap is pending and may be taken (R211). -/
def SCore.TrapPends (c : SCore) : Prop := c.inHandler = false ∧ (c.pendLost = true ∨ c.pendEng = true)

theorem SCore.trapPends_iff (c : SCore) : c.TrapPends ↔ (!c.inHandler && (c.pendLost || c.pendEng)) = true := by
  simp [SCore.TrapPends]

/-- What the S-stream of core `k` does next where it may fetch (R57, R75, R77). -/
def State.fetchS (s : State) (k : Nat) : SNext :=
  let c := s.core k
  match decodeS (s.instrWord k c.s.pc.toNat) with
  | .error _ => .illegal
  | .ok i =>
    if s.keepsOff k i then .nothing
    else if pendingHit false c.s.loads i then .loads
    else if c.s.schk && c.s.st == .running && hazardHit false c.s.haz i then .short
    else .run i

/-- What the S-stream of core `k` does next: nothing, the trap that is pending, or what it fetches. -/
theorem State.nextS_eq (s : State) (k : Nat) : s.nextS k =
    if s.stalled k || (s.held k && !s.finishing k) then .nothing
    else
      match (s.core k).s.st with
      | .running => if !(s.core k).s.inHandler && ((s.core k).s.pendLost || (s.core k).s.pendEng) then .async else s.fetchS k
      | .waiting w =>
        if !w.abandonable && (match w with
          | .chanRoom _ => false
          | _ => true) then .nothing
        else if !(s.core k).s.inHandler && ((s.core k).s.pendLost || (s.core k).s.pendEng) && w.abandonable && !w.holds s k .s
          then .async
        else s.fetchS k
      | _ => .nothing := rfl

theorem State.fetchS_illegal {s : State} {k : Nat} {d : DecodeError}
    (h : decodeS (s.instrWord k (s.core k).s.pc.toNat) = .error d) : s.fetchS k = .illegal := by
  simp only [State.fetchS, h]

section
variable {s : State} {k : Nat} {i : Instr} (h : decodeS (s.instrWord k (s.core k).s.pc.toNat) = .ok i)
include h

theorem State.fetchS_off (ho : s.keepsOff k i = true) : s.fetchS k = .nothing := by
  simp only [State.fetchS, h, ho, if_true]

theorem State.fetchS_loads (ho : ¬ s.keepsOff k i = true) (hl : ¬ pendingHit false (s.core k).s.loads i = false) :
    s.fetchS k = .loads := by
  simp [State.fetchS, h, ho, hl]

theorem State.fetchS_short (ho : ¬ s.keepsOff k i = true) (hl : pendingHit false (s.core k).s.loads i = false)
    (hr : (s.core k).s.st = .running) (hs : (s.core k).s.schk = true ∧ hazardHit false (s.core k).s.haz i = true) :
    s.fetchS k = .short := by
  simp [State.fetchS, h, ho, hl, hr, hs]

theorem State.fetchS_run (ho : ¬ s.keepsOff k i = true) (hl : pendingHit false (s.core k).s.loads i = false)
    (hs : ¬ ((s.core k).s.st = .running ∧ (s.core k).s.schk = true ∧ hazardHit false (s.core k).s.haz i = true)) :
    s.fetchS k = .run i := by
  have hs' : ((s.core k).s.schk && (s.core k).s.st == .running && hazardHit false (s.core k).s.haz i) = false := by
    by_contra hc
    simp only [Bool.not_eq_false, Bool.and_eq_true, beq_iff_eq] at hc
    exact hs ⟨hc.1.2, hc.1.1, hc.2⟩
  simp [State.fetchS, h, ho, hl, hs']

end

section
variable {s : State} {k : Nat} (hs : s.stalled k = false)
include hs

/-- A running stream fetches, where no trap is pending (R211). -/
theorem State.nextS_running (hh : s.held k = false) (hr : (s.core k).s.st = .running) (hp : ¬ (s.core k).s.TrapPends) :
    s.nextS k = s.fetchS k := by
  have hp' := Bool.eq_false_of_not_eq_true (mt (SCore.trapPends_iff _).2 hp)
  rw [State.nextS_eq]
  simp only [hs, hh, hr, hp', Bool.false_and, Bool.or_self, Bool.false_eq_true, if_false]

theorem State.nextS_async (hh : s.held k = false) (hr : (s.core k).s.st = .running) (hp : (s.core k).s.TrapPends) :
    s.nextS k = .async := by
  have hp' := (SCore.trapPends_iff _).1 hp
  rw [State.nextS_eq]
  simp only [hs, hh, hr, hp', Bool.false_and, Bool.or_self, Bool.false_eq_true, if_false, if_true]

variable (hh : s.held k = false ∨ s.finishing k = true) {x : WaitOn} (hw : (s.core k).s.st = .waiting x)
include hh hw

/-- A pending trap is taken where the wait may be given up and is not over (R197, R211). -/
theorem State.nextS_abandons (hp : (s.core k).s.TrapPends) (hx : x.abandonable = true) (hn : ¬ x.holds s k .s = true) :
    s.nextS k = .async := by
  have hp' := (SCore.trapPends_iff _).1 hp
  have hh' : (s.held k && !s.finishing k) = false := by rcases hh with hh | hh <;> simp [hh]
  rw [State.nextS_eq]
  simp [hs, hh', hw, hp', hx, hn]

/-- Otherwise the instruction that waits is fetched again (R211). -/
theorem State.nextS_retries (hx : x.abandonable = true ∨ ∃ h, x = .chanRoom h)
    (he : ¬ (s.core k).s.TrapPends ∨ x.abandonable = false ∨ x.holds s k .s = true) : s.nextS k = s.fetchS k := by
  have hh' : (s.held k && !s.finishing k) = false := by rcases hh with hh | hh <;> simp [hh]
  have hn : ((!(s.core k).s.inHandler && ((s.core k).s.pendLost || (s.core k).s.pendEng)) && x.abandonable &&
      !x.holds s k .s) = false := by
    rw [SCore.trapPends_iff] at he
    rcases he with he | he | he
    · simp [Bool.eq_false_of_not_eq_true he]
    · simp [he]
    · simp [he]
  rw [State.nextS_eq]
  rcases hx with hx | ⟨g, rfl⟩
  · rw [hx] at hn
    simp only [hs, hh', hw, hn, hx, Bool.or_self, Bool.not_true, Bool.false_and, Bool.false_eq_true, if_false]
  · simp only [hs, hh', hw, hn, Bool.or_self, Bool.and_false, Bool.false_eq_true, if_false]

end

/-- A state in which a later cycle has come, and nothing else but a free value drawn (R72). -/
def State.Later (s w : State) : Prop := w = { s with free := s.free + 1, clock := w.clock } ∧ s.clock ≤ w.clock

theorem State.later_issueAt (s : State) (ready : Nat) : s.Later (s.issueAt ready).2 := by
  refine ⟨rfl, ?_⟩
  show s.clock ≤ max (s.clock + _) ready
  omega

theorem State.ready_le_issueAt (s : State) (ready : Nat) : ready ≤ (s.issueAt ready).2.clock := Nat.le_max_right _ _

theorem State.issueAt_fst (s : State) (ready : Nat) : (s.issueAt ready).1 = (s.issueAt ready).2.clock := rfl

/-- A stream that waits has issued its instruction before (R72). -/
theorem State.later_issueS {s : State} {x : WaitOn} (hw : s.me.s.st = .waiting x) (i : Instr) : s.Later (s.issueS i) := by
  have he : s.issueS i = (s.issueAt s.me.s.ready).2 := by
    unfold State.issueS
    have hm : (s.issueAt s.me.s.ready).2.me.s.st = .waiting x := hw
    simp only [hm]
  rw [he]
  exact s.later_issueAt _

theorem State.issued_issueS {s : State} (hr : s.me.s.st = .running) (i : Instr) : Issued i false s (s.issueS i) := by
  have hm : (s.issueAt s.me.s.ready).2.me.s.st = .running := hr
  have he : s.issueS i = (s.issueAt s.me.s.ready).2.setMe (s.me.onS (fun t => { t with
      haz := nextHazards false true t.haz i, ready := (s.issueAt s.me.s.ready).1 + 1 + stallOf i })) := by
    unfold State.issueS
    extract_lets r t
    split
    next x hx => rw [hm] at hx; cases hx
    · rfl
  obtain ⟨-, hl⟩ := s.later_issueAt s.me.s.ready
  rw [he]
  refine ⟨rfl, fun j hj => ?_, hl, s.ready_le_issueAt _, ?_⟩
  · exact (State.core_setCore _ _ _ _).trans (if_neg hj)
  · exact State.me_setMe _ _

theorem State.later_issueV {s : State} {j : Instr} (hc : s.me.v.cur = some j) (i : Instr) : s.Later (s.issueV i) := by
  have he : s.issueV i = (s.issueAt s.me.v.ready).2 := by
    unfold State.issueV
    have hm : (s.issueAt s.me.v.ready).2.me.v.cur = some j := hc
    simp only [hm, Option.isSome_some, Bool.or_true, if_true]
  rw [he]
  exact s.later_issueAt _

theorem State.issued_issueV {s : State} (hc : s.me.v.cur = none) (hw : s.me.v.wait = none) (i : Instr) :
    Issued i true s (s.issueV i) := by
  have hm : (s.issueAt s.me.v.ready).2.me.v.cur = none := hc
  have hm' : (s.issueAt s.me.v.ready).2.me.v.wait = none := hw
  have he : s.issueV i = (s.issueAt s.me.v.ready).2.setMe (s.me.onV (fun v => { v with
      haz := nextHazards s.me.fx4 (s.me.writesAll i) v.haz i, ready := (s.issueAt s.me.v.ready).1 + 1 + stallOf i })) := by
    unfold State.issueV
    exact if_neg (by simp [hm, hm'])
  obtain ⟨-, hl⟩ := s.later_issueAt s.me.v.ready
  rw [he]
  refine ⟨rfl, fun j hj => ?_, hl, s.ready_le_issueAt _, ?_⟩
  · exact (State.core_setCore _ _ _ _).trans (if_neg hj)
  · exact State.me_setMe _ _

section
variable {s : State} {i : Instr}

theorem State.turnS_loads (h : s.nextS s.curN = .loads) : s.turnS = .next (s.runAll s.curN false .loads).1 := by
  simp only [State.turnS, h]

theorem State.turnS_nothing (h : s.nextS s.curN = .nothing) : s.turnS = .next s := by
  simp only [State.turnS, h]

theorem State.turnS_async (h : s.nextS s.curN = .async) : s.turnS = .next (s.asyncTrap s.curN) := by
  simp only [State.turnS, h]

theorem State.turnS_illegal (h : s.nextS s.curN = .illegal) : s.turnS = .next (s.trapMe causeIllegal 0) := by
  simp only [State.turnS, h]

theorem State.turnS_short (h : s.nextS s.curN = .short) : s.turnS = .next (s.trapMe causeStallShort 0) := by
  simp only [State.turnS, h]

theorem State.turnS_run (h : s.nextS s.curN = .run i) : s.turnS = exec i (s.issueS i) := by
  simp only [State.turnS, h]

end

section
variable {s : State} {i : Instr}

theorem State.turnV_loads (h : s.nextV s.curN = .loads) : s.turnV = .next (s.runAll s.curN true .loads).1 := by
  simp only [State.turnV, h]

theorem State.turnV_illegal (h : s.nextV s.curN = .illegal) : s.turnV = .next s.illegalV := by
  simp only [State.turnV, h]

theorem State.turnV_short (h : s.nextV s.curN = .short) : s.turnV = .next (s.setMe (s.me.stopV 3#8)) := by
  simp only [State.turnV, h]

theorem State.turnV_run (h : s.nextV s.curN = .run i) : s.turnV = keepAfter i (exec i (s.issueV i)) := by
  simp only [State.turnV, h]

end

section
variable {s : State} {k : Nat} (hs : s.stalled k = false) (hh : s.held k = false) (hr : (s.core k).v.eng.st = .running)
  (hl : (s.core k).v.eng.laid ≠ 0)
include hs hh hr hl

/-- A word that waits is the one decoded (R218). -/
theorem State.nextV_kept {i : Instr} (hc : (s.core k).v.cur = some i) : s.nextV k = .run i := by
  simp [State.nextV, hs, hh, hr, hl, hc]

variable (hc : (s.core k).v.cur = none) (hk : (s.core k).v.eng.skip = 0)
include hc hk

theorem State.nextV_illegal {d : DecodeError} (hd : decodeV (s.ringWord k .v (s.core k).v.eng.rp) = .error d) :
    s.nextV k = .illegal := by
  simp [State.nextV, hs, hh, hr, hl, hc, hk, hd]

variable {i : Instr} (hd : decodeV (s.ringWord k .v (s.core k).v.eng.rp) = .ok i)
include hd

/-- An illegal word is met before any hazard is looked at (R65). -/
theorem State.nextV_run (h : (s.core k).wordIllegal i = true ∨ (pendingHit (s.core k).fx4 (s.core k).v.loads i = false ∧
    ¬ ((s.core k).v.schk = true ∧ hazardHit (s.core k).fx4 (s.core k).v.haz i = true))) : s.nextV k = .run i := by
  rcases h with h | ⟨hp, hz⟩
  · simp [State.nextV, hs, hh, hr, hl, hc, hk, hd, h]
  · have hz' : ((s.core k).v.schk && hazardHit (s.core k).fx4 (s.core k).v.haz i) = false := by simpa using hz
    simp [State.nextV, hs, hh, hr, hl, hc, hk, hd, hp, hz']

theorem State.nextV_short (hi : (s.core k).wordIllegal i = false) (hp : pendingHit (s.core k).fx4 (s.core k).v.loads i = false)
    (hz : (s.core k).v.schk = true ∧ hazardHit (s.core k).fx4 (s.core k).v.haz i = true) : s.nextV k = .short := by
  simp [State.nextV, hs, hh, hr, hl, hc, hk, hd, hi, hp, hz]

theorem State.nextV_loads (hi : (s.core k).wordIllegal i = false) (hp : ¬ pendingHit (s.core k).fx4 (s.core k).v.loads i = false) :
    s.nextV k = .loads := by
  simp [State.nextV, hs, hh, hr, hl, hc, hk, hd, hi, hp]

end

/-- A word that is done leaves the state as its meaning left it. -/
theorem keepAfter_done {i : Instr} {o : Out} {t : State} (h : o = .next t) (hw : t.me.v.wait = none) (hc : t.me.v.cur = none) :
    keepAfter i o = .next t := by
  subst h
  simp [keepAfter, State.keepWord, hw, hc]

section
variable {s : State} {k : Nat} {e : EngineSel} (hh : s.held k = false)
include hh

/-- An engine goes on with its command in flight (R154). -/
theorem State.nextE_flight {f : Flight} (hf : (s.core k).flight e = some f) (hw : f.st = .decoded → s.engineWaits k e = false) :
    s.nextE k e = .flight f.cmd := by
  have hw' : (f.st == .decoded && s.engineWaits k e) = false := by
    by_cases hd : f.st = .decoded
    · simp [hw hd]
    · simp [hd]
  simp [State.nextE, hh, hf, hw']

variable (hf : (s.core k).flight e = none)
include hf

/-- An engine runs the command it has taken from a sibling (R185). -/
theorem State.nextE_taken {j : Nat} (ht : s.takenFrom k e = some j) : s.nextE k e = .taken j := by
  simp [State.nextE, hh, hf, ht]

variable (ht : s.takenFrom k e = none) (hw : s.engineWaits k e = false) {i : Instr} (hi : s.fetchCmd k e = .cmd i)
include ht hw hi

/-- An engine begins the command at its read pointer, where no relocated one is incomplete or the command is a synchronization
(R154, R185). -/
theorem State.nextE_run (hr : (s.core k).takenOf e = [] ∨ (syncOf i).isSome = true) : s.nextE k e = .run i := by
  have hx : s.startsCmd k e = .cmd i := by
    rcases hr with hr | hr <;> simp [State.startsCmd, hi, hr]
  simp [State.nextE, hh, hf, ht, hw, hx]

theorem State.nextE_nothing (hr : (s.core k).takenOf e ≠ []) (hy : (syncOf i).isSome = false) : s.nextE k e = .nothing := by
  have hx : s.startsCmd k e = .nothing := by simp [State.startsCmd, hi, hr, hy]
  simp [State.nextE, hh, hf, ht, hw, hx]

end

section
variable {s : State} {i : Instr} {e : EngineSel} {j : Nat}

theorem State.turnE_flight (h : s.nextE s.curN e = .flight i) : s.turnE e = exec i s := by
  simp only [State.turnE, h]

theorem State.turnE_taken (h : s.nextE s.curN e = .taken j) : s.turnE e = .next (s.runTaken s.curN j e) := by
  simp only [State.turnE, h]

theorem State.turnE_run (h : s.nextE s.curN e = .run i) : s.turnE e = exec i s := by
  simp only [State.turnE, h]

theorem State.turnE_nothing (h : s.nextE s.curN .m = .nothing) : s.turnE .m = .next s := by
  simp only [State.turnE, h]
  rfl

end

end Sys2Proof.Machine

open Sys2Proof Sys2Proof.Machine

/-- Settles O56: what moves is read off the agenda and the turn, and each clause is one case of what the stream or the engine does
next. -/
theorem stepRunsTheDecodedInstruction : Obligations.StepRunsTheDecodedInstruction := by
  unfold Obligations.StepRunsTheDecodedInstruction
  intro i e s u k c sram at_ r settled moves goes later free pend sTurn off waits ended vTurn vWord word eTurn clear short clearV
    shortV
  have hm : ∀ {g : Agent} {o : Out}, goes g → u.turnBy g = o → moves o := fun hg ho => State.Turn.moves hg ho
  have hme : ∀ {o : Out}, goes (agentOfEngine e) → u.turnE e = o → moves o := fun hg ho =>
    hm hg ((u.turnBy_agentOfEngine e).trans ho)
  have hat : at_ = u.instrBytes k c.s.pc.toNat := by
    show Sparse.getList 0 (if k < 256 then c.imem else sram) _ 4 = _
    rfl
  have hok : decode .s at_ = .ok (i, []) → decodeS (u.instrWord k c.s.pc.toNat) = .ok i := fun h =>
    State.decodeS_instrWord_ok (hat ▸ h)
  refine ⟨fun rest ha => ?event, ?sRun, ?sShort, ?sLoads, ?sOff, ?off, ?sIllegal, ?sRetry, ?sAbandon, ?sAsync, ?vRun, ?vShort,
    ?vLoads, ?vIllegal, ?vKept, ?eFlight, ?eRun, ?eTaken, ?hostReg, ?perform⟩
  case event =>
    have hi := s.serves_loadMaybe_iff i
    refine ⟨fun hs => moves_of_moveNext ?_, fun hs => moves_of_moveNext ?_⟩
    · have hv : s.loadMaybe.serves i = true := hi.2 hs
      simp only [State.moveNext, State.move, State.agenda_loadMaybe, ha, hv, if_true]
      rfl
    · have hv : ¬ s.loadMaybe.serves i = true := fun h => hs (hi.1 h)
      simp only [State.moveNext, State.move, State.agenda_loadMaybe, ha, hv]
      rfl
  case sRun =>
    rintro ⟨hg, ⟨hs, hh⟩, hr, hp⟩ hd ho hl hz
    have hn : u.nextS k = .run i := (State.nextS_running hs hh hr hp).trans (State.fetchS_run (hok hd) ho hl fun h => hz h.2)
    exact ⟨_, State.issued_issueS hr i, hm hg (State.turnS_run hn)⟩
  case sShort =>
    rintro ⟨hg, ⟨hs, hh⟩, hr, hp⟩ hd ho hl hz
    exact hm hg (State.turnS_short ((State.nextS_running hs hh hr hp).trans (State.fetchS_short (hok hd) ho hl hr hz)))
  case sLoads =>
    rintro ⟨hg, ⟨hs, hh⟩, hr, hp⟩ hd ho hl
    exact hm hg (State.turnS_loads ((State.nextS_running hs hh hr hp).trans (State.fetchS_loads (hok hd) ho hl)))
  case sOff =>
    rintro ⟨hg, ⟨hs, hh⟩, hr, hp⟩ hd ho
    exact hm hg (State.turnS_nothing ((State.nextS_running hs hh hr hp).trans (State.fetchS_off (hok hd) ho)))
  case off =>
    intro ho
    have ho' : u.keepsOff k i = true := ho
    simp only [State.keepsOff, Bool.and_eq_true, decide_eq_true_eq, bne_iff_ne, ne_eq] at ho'
    exact ⟨ho'.1.1, ho'.1.2⟩
  case sIllegal =>
    rintro d ⟨hg, ⟨hs, hh⟩, hr, hp⟩ hd
    have hd' : decodeS (u.instrWord k c.s.pc.toNat) = .error d := State.decodeS_instrWord_error (hat ▸ hd)
    exact hm hg (State.turnS_illegal ((State.nextS_running hs hh hr hp).trans (State.fetchS_illegal hd')))
  case sRetry =>
    rintro x ⟨hg, hs, hh, hw, hx⟩ he hd ho hl
    have hz : ¬ (c.s.st = .running ∧ c.s.schk = true ∧ hazardHit false c.s.haz i = true) := by
      rintro ⟨hr, -⟩
      rw [hw] at hr
      cases hr
    have hn : u.nextS k = .run i := (State.nextS_retries hs hh hw hx he).trans (State.fetchS_run (hok hd) ho hl hz)
    exact ⟨_, State.later_issueS hw i, hm hg (State.turnS_run hn)⟩
  case sAbandon =>
    rintro x ⟨hg, hs, hh, hw, -⟩ he
    have hp : pend := not_not.1 fun h => he (.inl h)
    have ha : x.abandonable = true := Bool.not_eq_false _ ▸ fun h => he (.inr (.inl h))
    exact hm hg (State.turnS_async (State.nextS_abandons hs hh hw hp ha fun h => he (.inr (.inr h))))
  case sAsync =>
    rintro hg ⟨hs, hh⟩ hp hr
    exact hm hg (State.turnS_async (State.nextS_async hs hh hr hp))
  case vRun =>
    rintro ⟨⟨hg, ⟨hs, hh⟩, hr, hl⟩, hc, hw, hk⟩ hd hi
    have hn : u.nextV k = .run i := State.nextV_run hs hh hr hl hc hk hd hi
    have hmv : moves (keepAfter i (exec i (u.issueV i))) := hm hg (State.turnV_run hn)
    refine ⟨_, State.issued_issueV hc hw i, hmv, fun t ht hwt hct hst => hmv.2 t (keepAfter_done ht hwt hct) hst⟩
  case vShort =>
    rintro ⟨⟨hg, ⟨hs, hh⟩, hr, hl⟩, hc, -, hk⟩ hd hi hp hz
    exact hm hg (State.turnV_short (State.nextV_short hs hh hr hl hc hk hd hi hp hz))
  case vLoads =>
    rintro ⟨⟨hg, ⟨hs, hh⟩, hr, hl⟩, hc, -, hk⟩ hd hi hp
    exact hm hg (State.turnV_loads (State.nextV_loads hs hh hr hl hc hk hd hi hp))
  case vIllegal =>
    rintro d ⟨⟨hg, ⟨hs, hh⟩, hr, hl⟩, hc, -, hk⟩ hd
    exact hm hg (State.turnV_illegal (State.nextV_illegal hs hh hr hl hc hk hd))
  case vKept =>
    rintro ⟨hg, ⟨hs, hh⟩, hr, hl⟩ hc
    exact ⟨_, State.later_issueV hc i, hm hg (State.turnV_run (State.nextV_kept hs hh hr hl hc))⟩
  case eFlight =>
    rintro f ⟨hg, hh⟩ hf rfl hw
    exact hme hg (State.turnE_flight (State.nextE_flight hh hf hw))
  case eRun =>
    rintro ⟨hg, hh⟩ hf ht hw hi
    refine ⟨fun hr => hme hg (State.turnE_run (State.nextE_run hh hf ht hw hi hr)), fun hr hy he => ?_⟩
    have hn : u.nextE k e = .nothing := State.nextE_nothing hh hf ht hw hi hr hy
    rw [he] at hn
    have hg' : goes (agentOfEngine .m) := he ▸ hg
    exact hm hg' (State.turnE_nothing hn)
  case eTaken =>
    rintro j ⟨hg, hh⟩ hf ht
    exact hme hg (State.turnE_taken (State.nextE_taken hh hf ht))
  case hostReg =>
    intro a rest ha
    refine moves_of_moveNext ?_
    simp only [State.moveNext, State.move, State.agenda_loadMaybe, ha]
    rfl
  case perform =>
    intro j v rest ha
    refine moves_of_moveNext ?_
    simp only [State.moveNext, State.move, State.agenda_loadMaybe, ha]
    rfl

end

section
/-! PROOF. The machine after reset (R14), and the V words over predicates, the mailbox and a-registers (R147-R149). -/

namespace Sys2Proof.Machine

open Sys2Proof

variable (s : State) (c : Core)

/-! What the writes of a V word leave alone. -/

/-- The poison of an a-register after a write; a0 goes on reading clean (R17). -/
theorem Core.apois_setA (d : AReg) (v : Word) (p : Bool) (n : AReg) :
    (c.setA d v p).apois n = if n = d ∧ d ≠ 0#4 then p else c.apois n := by
  unfold Core.setA Core.apois
  by_cases hd : d = 0#4
  · simp [hd]
  · by_cases hn : n = 0#4
    · subst hn; simp [hd, Ne.symm hd]
    · simp only [hd, hn, if_false, Core.onV, Sparse.get_put, ne_eq, not_false_eq_true, and_true, BitVec.toNat_inj]

/-- The poison of a predicate register after a write; p0 goes on reading clean (R17). -/
theorem Core.ppois_setP (d : PReg) (v : PWord) (p : Bool) (n : PReg) :
    (c.setP d v p).ppois n = if n = d ∧ d ≠ 0#5 then p else c.ppois n := by
  unfold Core.setP Core.ppois
  by_cases hd : d = 0#5
  · simp [hd]
  · by_cases hn : n = 0#5
    · subst hn; simp [hd, Ne.symm hd]
    · simp only [hd, hn, if_false, Core.onV, Sparse.get_put, ne_eq, not_false_eq_true, and_true, BitVec.toNat_inj]

/-- A write of an a-register changes nothing else. -/
theorem Core.setA_eq (d : AReg) (v : Word) (p : Bool) :
    c.setA d v p = { c with v := { c.v with a := (c.setA d v p).v.a, ap := (c.setA d v p).v.ap } } := by
  unfold Core.setA; split <;> rfl

/-- A write of a predicate register changes nothing else. -/
theorem Core.setP_eq (d : PReg) (v : PWord) (p : Bool) :
    c.setP d v p = { c with v := { c.v with p := (c.setP d v p).v.p, pp := (c.setP d v p).v.pp } } := by
  unfold Core.setP; split <;> rfl

/-- A V word that leaves `d` in place of the current core and goes on. -/
theorem me_setMe_retireV (d : Core) : (s.setMe d).retireV.me = d.advanceV := by simp [State.retireV]

/-- Such a word touches no other core and nothing else. -/
theorem onlyCore_setMe_retireV (d : Core) : OnlyCore s.curN s (s.setMe d).retireV :=
  onlyCore_trans (onlyCore_setMe s d) (onlyCore_setMe _ _)

/-- What a V word leaves alone that writes no v register and goes on at the next word. -/
def StepsV (s u : State) : Prop :=
  OnlyCore s.curN s u ∧ (∀ x, u.me.vr x = s.me.vr x) ∧ u.me.s = s.me.s ∧ u.me.v.eng = s.me.v.eng.advance 1

/-- A V word that writes one a-register, with its poison. -/
theorem does_setA {i : Instr} {s : State} {d : AReg} {v : Word} {p : Bool}
    (h : exec i s = .next (s.setMe (s.me.setA d v p)).retireV) :
    Does i s (fun u => StepsV s u ∧ (∀ x, u.me.pr x = s.me.pr x) ∧
      (∀ x, u.me.ar x = if x = d ∧ d ≠ 0#4 then v else s.me.ar x) ∧
      (∀ x, u.me.apois x = if x = d ∧ d ≠ 0#4 then p else s.me.apois x)) := by
  refine ⟨_, h, ⟨onlyCore_setMe_retireV s _, ?_, ?_, ?_⟩, ?_, fun x => ?_, fun x => ?_⟩ <;> rw [me_setMe_retireV]
  · rw [Core.setA_eq]; exact fun _ => rfl
  · rw [Core.setA_eq]; rfl
  · rw [Core.setA_eq]; rfl
  · rw [Core.setA_eq]; exact fun _ => rfl
  · exact Core.ar_setA s.me d v p x
  · exact Core.apois_setA s.me d v p x

/-- A V word that writes one predicate register, with its poison. -/
theorem does_predV {i : Instr} {s : State} {d : PReg} {v : PWord} {p : Bool} (h : exec i s = .next (s.predV d v p)) :
    Does i s (fun u => StepsV s u ∧ (∀ x, u.me.ar x = s.me.ar x) ∧
      (∀ x, u.me.pr x = if x = d ∧ d ≠ 0#5 then v else s.me.pr x) ∧
      (∀ x, u.me.ppois x = if x = d ∧ d ≠ 0#5 then p else s.me.ppois x)) := by
  refine ⟨_, h, ⟨onlyCore_setMe_retireV s _, ?_, ?_, ?_⟩, ?_, fun x => ?_, fun x => ?_⟩ <;> rw [State.predV, me_setMe_retireV]
  · rw [Core.setP_eq]; exact fun _ => rfl
  · rw [Core.setP_eq]; rfl
  · rw [Core.setP_eq]; rfl
  · rw [Core.setP_eq]; exact fun _ => rfl
  · exact Core.pr_setP s.me d v p x
  · exact Core.ppois_setP s.me d v p x

/-- A V word with a legal element type. -/
theorem State.typedV_of {s : State} {et : ETy} {t : ElType} (h : s.me.etype et = some t) (f : ElType → Core → Core) :
    s.typedV et f = .next (s.setMe (f t s.me)).retireV := by simp only [State.typedV, h]

/-! Which elements of a predicate PCNT and PFIRST see (R117, R147). -/

/-- A v register holds at most as many elements as a predicate has bits. -/
theorem ElType.count_le (t : ElType) : t.count ≤ 1024 := by
  have h : 4 ≤ t.cont := by unfold ElType.cont; split <;> omega
  calc 4096 / t.cont ≤ 4096 / 4 := Nat.div_le_div_left h (by decide)
    _ = 1024 := by decide

/-- The bits set among the elements of a type. -/
theorem active_filter_length (t : ElType) (g : PReg) :
    ((c.active t g).filter (fun b => b)).length =
      (List.range 1024).countP (fun j => decide (j < t.count) && (c.pr g).getLsbD j) := by
  obtain ⟨r, hr⟩ := Nat.exists_eq_add_of_le t.count_le
  have hl : (List.range t.count).countP (fun j => decide (j < t.count) && (c.pr g).getLsbD j) =
      (List.range t.count).countP (fun j => (c.pr g).getLsbD j) :=
    List.countP_congr fun j hj => by simp [List.mem_range.1 hj]
  have hh : ((List.range r).map (t.count + ·)).countP (fun j => decide (j < t.count) && (c.pr g).getLsbD j) = 0 := by
    simp [List.countP_eq_zero]
  have hs : List.range 1024 = List.range t.count ++ (List.range r).map (t.count + ·) := by rw [← List.range_add, ← hr]
  rw [hs, List.countP_append, hl, hh, Nat.add_zero, ← List.countP_eq_length_filter, Core.active, List.countP_map]
  rfl

/-- The first bit set among the elements of a type. -/
theorem active_findIdx {t : ElType} {g : PReg} {j : Nat} (hj : j < t.count ∧ (c.pr g).getLsbD j = true)
    (hi : ∀ i, i < j → ¬ (i < t.count ∧ (c.pr g).getLsbD i = true)) : (c.active t g).findIdx? (fun b => b) = some j := by
  rw [List.findIdx?_eq_some_iff_getElem]
  refine ⟨by simpa [Core.active] using hj.1, by simpa [Core.active] using hj.2, fun i h => ?_⟩
  have := hi i h
  simp only [Core.active, List.getElem_map, List.getElem_range]
  exact fun hb => this ⟨by omega, hb⟩

/-- No bit set among the elements of a type. -/
theorem active_findIdx_none {t : ElType} {g : PReg} (h : ∀ j, ¬ (j < t.count ∧ (c.pr g).getLsbD j = true)) :
    (c.active t g).findIdx? (fun b => b) = none := by
  rw [List.findIdx?_eq_none_iff]
  intro b hb
  obtain ⟨j, hj, rfl⟩ := List.mem_map.1 hb
  exact Bool.eq_false_iff.2 fun ht => h j ⟨List.mem_range.1 hj, ht⟩

/-! The obligations. -/

/-- ARECV of a full mailbox (R148). -/
theorem does_arecv (st : VStall) (d : AReg) (m : BitVec 4) {s : State} {x y : Word}
    (h : Sparse.get none s.me.v.mailbox m.toNat = some (x, y)) : Does (.arecv st d m) s (fun u => StepsV s u ∧
      (∀ j : BitVec 4, Sparse.get none u.me.v.mailbox j.toNat = if j = m then none else Sparse.get none s.me.v.mailbox j.toNat) ∧
      (∀ r, u.me.ar r = if r = d + 1#4 ∧ r ≠ 0#4 then y else if r = d ∧ r ≠ 0#4 then x else s.me.ar r) ∧
      (∀ r, u.me.apois r = if (r = d + 1#4 ∨ r = d) ∧ r ≠ 0#4 then false else s.me.apois r) ∧
      (∀ r, u.me.pr r = s.me.pr r)) := by
  let c := s.me.onV (fun v => { v with mailbox := Sparse.put none v.mailbox m.toNat none })
  have he : exec (.arecv st d m) s = .next (s.setMe ((c.setA d x false).setA (d + 1#4) y false)).retireV := by
    change execArecv st d m s = _
    unfold execArecv
    rw [h]
  refine ⟨_, he, ⟨onlyCore_setMe_retireV s _, ?_, ?_, ?_⟩, fun j => ?_, fun r => ?_, fun r => ?_, ?_⟩ <;> rw [me_setMe_retireV]
  · rw [Core.setA_eq, Core.setA_eq]; exact fun _ => rfl
  · rw [Core.setA_eq, Core.setA_eq]; rfl
  · rw [Core.setA_eq, Core.setA_eq]; rfl
  · rw [Core.setA_eq, Core.setA_eq]
    change Sparse.get none (Sparse.put none s.me.v.mailbox m.toNat none) j.toNat = _
    rw [Sparse.get_put]
    exact if_congr BitVec.toNat_inj rfl rfl
  · change ((c.setA d x false).setA (d + 1#4) y false).ar r = _
    rw [Core.ar_setA, Core.ar_setA]
    change (if r = d + 1#4 ∧ d + 1#4 ≠ 0#4 then y else if r = d ∧ d ≠ 0#4 then x else s.me.ar r) = _
    by_cases h1 : r = d + 1#4 <;> by_cases h2 : r = d <;> simp_all
  · change ((c.setA d x false).setA (d + 1#4) y false).apois r = _
    rw [Core.apois_setA, Core.apois_setA]
    change (if r = d + 1#4 ∧ d + 1#4 ≠ 0#4 then false else if r = d ∧ d ≠ 0#4 then false else s.me.apois r) = _
    by_cases h1 : r = d + 1#4 <;> by_cases h2 : r = d <;> simp_all
  · rw [Core.setA_eq, Core.setA_eq]; exact fun _ => rfl

/-- Settles O42, word by word: each writes one register with its poison, or ARECV two. -/
theorem predicatesAndArguments : Obligations.PredicatesAndArguments := by
  intro et st pd pa pb d a b mb f imm s t ht rest pIs aIs fn set box
  have hf (x y : Word) : aopFn f x y = fn x y := by cases f <;> simp [aopFn, fn, BitVec.toNat_setWidth]
  have hp : execPfirst et st d pa s = .next (s.setMe (s.me.setA d (match (s.me.active t pa).findIdx? (fun b => b) with
      | some i => word i
      | none => BitVec.allOnes 64) (s.me.ppois pa))).retireV := by
    unfold execPfirst
    exact State.typedV_of ht _
  refine ⟨does_predV rfl, does_predV rfl, does_predV rfl, does_predV rfl, ?_, fun h => ?_, fun j hj hi => ?_, ?_, ?_, fun h => ?_,
    fun x y => does_arecv st d mb⟩
  · have hc : (List.range 1024).countP set = _ := (active_filter_length s.me t pa).symm
    rw [hc]
    refine does_setA ?_
    change execPcnt et st d pa s = _
    unfold execPcnt
    exact State.typedV_of ht _
  · rw [active_findIdx_none s.me (t := t) (g := pa) fun j hj => by simpa [set, hj] using h j] at hp
    exact does_setA hp
  · rw [active_findIdx s.me (t := t) (g := pa) (j := j) (by simpa [set] using hj)
      fun i hl hb => by simpa [set, hb] using hi i hl] at hp
    exact does_setA hp
  · rw [← hf]
    exact does_setA rfl
  · rw [← hf]
    exact does_setA rfl
  · refine waitsV_of ?_
    change execArecv st d mb s = _
    unfold execArecv
    rw [show Sparse.get none s.me.v.mailbox mb.toNat = none from h]
    rfl

/-- Settles O60: at reset every core is in its initial state, and no context is saved. -/
theorem resetIsAligned : Obligations.ResetIsAligned := by
  unfold Obligations.ResetIsAligned
  refine ⟨fun k => ?_, fun g hg => absurd hg List.not_mem_nil⟩
  have hk : State.reset.core k = {} := rfl
  rw [hk]
  rfl

end Sys2Proof.Machine
end

section
/-! PROOF. What the queues of a stream leave as they empty (R75, R249, R250, R252). -/

namespace Sys2Proof.Machine

open Sys2Proof

/-! States that differ in one core. -/

/-- Nothing differs but core `k`, which is `c`. -/
def CoreIs (k : Nat) (c : Core) (s t : State) : Prop := OnlyCore k s t ∧ t.core k = c

theorem CoreIs.refl (k : Nat) (s : State) : CoreIs k (s.core k) s s := ⟨onlyCore_refl k s, rfl⟩

theorem CoreIs.mem {k : Nat} {c : Core} {s t : State} (h : CoreIs k c s t) : t.mem = s.mem := by rw [h.1.1]

theorem CoreIs.trans {k : Nat} {c d : Core} {s t u : State} (h : CoreIs k c s t) (h' : CoreIs k d t u) : CoreIs k d s u :=
  ⟨onlyCore_trans h.1 h'.1, h'.2⟩

theorem CoreIs.onCore {k : Nat} {c : Core} {s t : State} (h : CoreIs k c s t) (f : Core → Core) :
    CoreIs k (f c) s (t.onCore k f) :=
  ⟨onlyCore_trans h.1 (onlyCore_onCore t k f), by rw [State.core_onCore_self, h.2]⟩

theorem CoreIs.setCore {k : Nat} {c : Core} {s t : State} (h : CoreIs k c s t) (d : Core) : CoreIs k d s (t.setCore k d) :=
  ⟨onlyCore_trans h.1 (onlyCore_setCore t k d), State.core_setCore_self t k d⟩

theorem OnlyCore.curN {k : Nat} {s t : State} (h : OnlyCore k s t) : t.curN = s.curN := by rw [h.1]; rfl

/-! What decides where an access through a token leads: the mortise table but for the references, and the formats. -/

/-- Two cores whose accesses lead to the same bytes. -/
def Core.SameReach (c d : Core) : Prop := d.fmt = c.fmt ∧ ∀ i, d.mte i = { c.mte i with refs := (d.mte i).refs }

theorem Core.SameReach.refl (c : Core) : c.SameReach c := ⟨rfl, fun _ => rfl⟩

theorem Core.SameReach.mteOf {c d : Core} (h : c.SameReach d) (t : Option Tok) :
    d.mteOf t = { c.mteOf t with refs := (d.mteOf t).refs } := by
  cases t with
  | none => rfl
  | some t =>
    have hg : (d.mte t.idx.toNat).gen = (c.mte t.idx.toNat).gen := by rw [h.2]
    simp only [Core.mteOf, hg]
    split
    · exact h.2 _
    · rfl

theorem State.locate_congr {s t : State} (hm : t.mem = s.mem) {m n : Mte} (hr : n.runs = m.runs)
    (hv : n.vbase = m.vbase) (o : Nat) : t.locate n o = s.locate m o := by
  unfold State.locate State.clampAt
  rw [hr, hv, hm]

theorem Mte.keyAt_congr {m n : Mte} (hr : n.runs = m.runs) (hv : n.vbase = m.vbase) (o : Nat) : n.keyAt o = m.keyAt o := by
  unfold Mte.keyAt
  rw [hr, hv]

theorem State.piecesFrom_congr {s t : State} (hm : t.mem = s.mem) {m n : Mte} (hr : n.runs = m.runs) (hv : n.vbase = m.vbase)
    (hl : n.len = m.len) (ok : Bool) (f pos o len : Nat) : t.piecesFrom n ok f pos o len = s.piecesFrom m ok f pos o len := by
  induction f generalizing pos o len with
  | zero => rfl
  | succ f ih => simp only [State.piecesFrom, ih, State.locate_congr hm hr hv, Mte.keyAt_congr hr hv, hv, hl]

theorem State.pieces_congr {s t : State} (hm : t.mem = s.mem) {m n : Mte} (hr : n.runs = m.runs) (hv : n.vbase = m.vbase)
    (hl : n.len = m.len) (ok : Bool) (pos o len : Nat) : t.pieces n ok pos o len = s.pieces m ok pos o len := by
  simp only [State.pieces, State.piecesFrom_congr hm hr hv hl]

/-- An access meets the same in two states with the same memory, whose cores reach the same bytes. -/
theorem State.access_congr {s t : State} {k : Nat} (hm : t.mem = s.mem) (h : (s.core k).SameReach (t.core k)) (tok : Option Tok)
    (b : MaskBit) (r w : Bool) (bs : List (Nat × Nat × Nat)) : t.access k tok b r w bs = s.access k tok b r w bs := by
  have he := h.mteOf tok
  have hs : ((t.core k).mteOf tok).st = ((s.core k).mteOf tok).st := by rw [he]
  have hp : ((t.core k).mteOf tok).pred = ((s.core k).mteOf tok).pred := by rw [he]
  have hw : ((t.core k).mteOf tok).may b r w = ((s.core k).mteOf tok).may b r w := by rw [he]; rfl
  have hx := State.pieces_congr hm (m := (s.core k).mteOf tok) (n := (t.core k).mteOf tok) (by rw [he]) (by rw [he]) (by rw [he])
  have hl : (fun p => t.missingLine p) = fun p => s.missingLine p := by funext p; simp only [State.missingLine, hm]
  simp only [State.access, hs, hp, hw, hx, hl]

theorem Core.SameReach.storeBytes {c d : Core} (h : c.SameReach d) (q : QStore) : d.storeBytes q = c.storeBytes q := by
  have hs : (d.mteOf q.via).fsel = (c.mteOf q.via).fsel := by rw [h.mteOf q.via]
  have hf (t : ElType) (raw : Bool) : d.pageFmt t q.via raw = c.pageFmt t q.via raw := by
    simp only [Core.pageFmt, Core.fmtAt, h.1, hs]
  simp only [Core.storeBytes, Core.vecStore, hf]

theorem State.partsOf_congr {s t : State} {k : Nat} (hm : t.mem = s.mem) (h : (s.core k).SameReach (t.core k)) (v : Bool)
    (q : QStore) : t.partsOf k v q = s.partsOf k v q := by
  have hb : ((t.core k).mteOf q.via).vbase = ((s.core k).mteOf q.via).vbase := by rw [h.mteOf q.via]
  simp only [State.partsOf, State.access_congr hm h, h.storeBytes, hb]

theorem State.shown_congr {s t : State} {k : Nat} (hm : t.mem = s.mem) (h : (s.core k).SameReach (t.core k)) (v : Bool)
    (q : QStore) : t.shown k v q = s.shown k v q := by simp only [State.shown, State.partsOf_congr hm h]

theorem Leaves.congr {s t : State} {k : Nat} {v : Bool} {q : QStore} (hm : t.mem = s.mem) (h : (s.core k).SameReach (t.core k))
    (hq : Leaves s k v q) : Leaves t k v q := by
  simpa only [Leaves, State.partsOf_congr hm h, State.access_congr hm h, h.storeBytes] using hq

/-! A store leaves its queue. -/

/-- Parts in memory or scratchpad stand at core scope. -/
theorem State.land_of_plain {s : State} {k : Nat} {g : Agent} {gs : List Seg} (hn : gs ≠ [])
    (h : ∀ x, x ∈ gs → (∀ j, x.site ≠ .spill j) ∧ ∀ j, x.site ≠ .tmpl j) :
    s.land k g gs = s.onCore k (fun c => c.pushBuffer ⟨gs, g⟩) := by
  let own (x : Seg) : Bool := match x.site with
    | .spill _ => true
    | .tmpl _ => true
    | _ => false
  have ho : ∀ x, x ∈ gs → own x = false := fun x hx => by
    obtain ⟨h1, h2⟩ := h x hx
    cases hs : x.site with
    | spill j => exact absurd hs (h1 j)
    | tmpl j => exact absurd hs (h2 j)
    | _ => simp [own, hs]
  have h1 : gs.filter own = [] := List.filter_eq_nil_iff.2 fun x hx => by simp [ho x hx]
  have h2 : gs.filter (fun x => !own x) = gs := List.filter_eq_self.2 fun x hx => by simp [ho x hx]
  change (if (gs.filter (fun x => !own x)).isEmpty then (gs.filter own).foldl (fun s g => s.putSeg k g) s else
    ((gs.filter own).foldl (fun s g => s.putSeg k g) s).onCore k (fun c => c.pushBuffer ⟨gs.filter (fun x => !own x), g⟩)) = _
  rw [h1, h2, if_neg (by simpa using hn)]
  rfl

/-- A holder of an entry that has others gives its reference up. -/
def Core.giveUp (c : Core) (t : Option Tok) : Core :=
  match t with
  | none => c
  | some t => c.setMte t.idx.toNat { c.mte t.idx.toNat with refs := (c.mte t.idx.toNat).refs - 1 }

theorem Core.mte_setMte (c : Core) (i : Nat) (m : Mte) (j : Nat) : (c.setMte i m).mte j = if j = i then m else c.mte j :=
  Sparse.get_put _ _ _ _

theorem Core.mte_giveUp (c : Core) (t : Option Tok) (j : Nat) : (c.giveUp t).mte j =
    { c.mte j with refs := (c.mte j).refs - (if t.map (fun x => x.idx.toNat) = some j then 1 else 0) } := by
  cases t with
  | none => rfl
  | some t =>
    simp only [Core.giveUp, Core.mte_setMte, Option.map_some, Option.some.injEq]
    by_cases hj : j = t.idx.toNat
    · rw [if_pos hj, hj, if_pos rfl]
    · rw [if_neg hj, if_neg (Ne.symm hj)]
      rfl

theorem Core.sameReach_giveUp (c : Core) (t : Option Tok) : c.SameReach (c.giveUp t) := by
  refine ⟨by cases t <;> rfl, fun i => ?_⟩
  rw [Core.mte_giveUp]

theorem State.release_of_others {s : State} {k : Nat} {t : Option Tok}
    (h : ∀ x, t = some x → 1 < ((s.core k).mte x.idx.toNat).refs) : CoreIs k ((s.core k).giveUp t) s (s.release k t) := by
  cases t with
  | none => exact CoreIs.refl k s
  | some x =>
    simp only [State.release, if_neg (Nat.not_le.2 (h x rfl))]
    exact (CoreIs.refl k s).onCore _

/-- What a core holds once the oldest store of a stream, which was `w` at core scope, has left its queue. -/
def Core.popped (c : Core) (v : Bool) (qs : List QStore) (via : Option Tok) (w : VisStore) : Core :=
  if v then ((c.setStores v qs).pushBuffer w).giveUp via else (c.setStores v qs).pushBuffer w

theorem Core.sameReach_popped (c : Core) (v : Bool) (qs : List QStore) (via : Option Tok) (w : VisStore) :
    c.SameReach (c.popped v qs via w) := by
  unfold Core.popped
  split
  · have h := ((c.setStores v qs).pushBuffer w).sameReach_giveUp via
    cases v <;> exact h
  · cases v <;> exact ⟨rfl, fun _ => rfl⟩

/-- The parts of a store through a token are found where its access leads. -/
theorem State.partsOf_of_live {s : State} {k : Nat} {v : Bool} {q : QStore} {ps : List Piece} (ht : q.op.tokened = true)
    (h : s.access k q.via (if v then .v else .s) false true ((s.core k).storeBytes q).2.2 = .live ps) :
    s.partsOf k v q =
      maskedSegs ((s.core k).mteOf q.via).vbase ((s.core k).storeBytes q).1 ((s.core k).storeBytes q).2.1 ps := by
  unfold State.partsOf
  cases hop : q.op with
  | bytes off d => simp only [h]; rfl
  | vec w => simp only [h]; rfl
  | segs gs => rw [hop] at ht; cases ht
  | start c f => rw [hop] at ht; cases ht
  | fence sc => rw [hop] at ht; cases ht

/-- A store through a token that loses no byte is found without a flag. -/
theorem State.findStore_of_live {s : State} {k : Nat} {v : Bool} {q : QStore} {ps : List Piece} (ht : q.op.tokened = true)
    (h : s.access k q.via (if v then .v else .s) false true ((s.core k).storeBytes q).2.2 = .live ps) (ho : anyOut ps = false)
    (hd : ∀ p, p ∈ ps → p.loc ≠ .dsc) :
    s.findStore k v q = some (s.onCore k (fun c => c.oox false), s.partsOf k v q) := by
  have hf : firstDsc ps = none := List.find?_eq_none.2 fun p hp => by simpa using hd p hp
  rw [State.partsOf_of_live ht h]
  simp only [State.findStore, h, ho, State.dropped, hf]

/-- The oldest store leaves its queue as it stands at core scope. -/
theorem State.popStore_of_leaves {s : State} {k : Nat} {v : Bool} {q : QStore} {qs : List QStore} (hl : (s.core k).loadsOf v = [])
    (hq : (s.core k).storesOf v = q :: qs) (h : Leaves s k v q)
    (hr : v = true → ∀ x, q.via = some x → 1 < ((s.core k).mte x.idx.toNat).refs) :
    ∃ t, s.popStore k v = some t ∧ CoreIs k ((s.core k).popped v qs q.via (s.shown k v q)) s t := by
  obtain ⟨hn, hp, hx⟩ := h
  have hb : (s.core k).loadsBefore v q = [] := by simp [Core.loadsBefore, hl]
  have hk : (s.core k).keptBack v q = false := by simp [Core.keptBack, hb]
  have hland (r : State) (hr : CoreIs k (s.core k) s r) : CoreIs k (((s.core k).setStores v qs).pushBuffer (s.shown k v q)) s
      ((r.onCore k (fun c => c.setStores v qs)).land k (streamOf v) (s.partsOf k v q)) := by
    rw [State.land_of_plain hn hp]
    exact (hr.onCore _).onCore _
  by_cases hv : q.via = none
  · rw [if_pos hv] at hx
    obtain ⟨gs, hg⟩ := hx
    have hgs : s.partsOf k v q = gs := by simp only [State.partsOf, hg]
    refine ⟨(s.onCore k (fun c => c.setStores v qs)).land k (streamOf v) (s.partsOf k v q), ?_, ?_⟩
    · simp only [State.popStore, hq, hk, hg, hgs]
      rfl
    · have h1 := hland s (CoreIs.refl k s)
      cases v
      · exact h1
      · rw [Core.popped, if_pos rfl, hv]
        exact h1
  · rw [if_neg hv] at hx
    obtain ⟨ht, ps, hps, ho, hd⟩ := hx
    have hf := State.findStore_of_live ht hps ho hd
    let u := ((s.onCore k (fun c => c.oox false)).onCore k (fun c => c.setStores v qs)).land k (streamOf v) (s.partsOf k v q)
    have hu : CoreIs k (((s.core k).setStores v qs).pushBuffer (s.shown k v q)) s u := hland _ ((CoreIs.refl k s).onCore _)
    refine ⟨if v then u.release k q.via else u, ?_, ?_⟩
    · cases hop : q.op with
      | bytes off d => simp only [State.popStore, hq, hk, hop, hf, hb]; simp [u]
      | vec w => simp only [State.popStore, hq, hk, hop, hf, hb]; simp [u]
      | segs gs => rw [hop] at ht; cases ht
      | start c f => rw [hop] at ht; cases ht
      | fence sc => rw [hop] at ht; cases ht
    · cases v
      · exact hu
      · have h2 := State.release_of_others (s := u) (k := k) (t := q.via) fun x hx => by
          rw [hu.2]
          exact hr rfl x hx
        rw [hu.2] at h2
        exact hu.trans h2

/-! A stream whose stores may all leave. -/

/-- What a core holds once every store of a stream has left its queue; the mortise table `ms` apart. -/
def Core.emptied (c : Core) (v : Bool) (ws : List VisStore) (ms : Sparse Mte) : Core :=
  { c.setStores v [] with buffer := c.buffer ++ ws, mtes := ms }

/-- The mortise table once the stores `qs` of a stream have left its queue: those of the V-stream gave their references up. -/
def GaveUp (c : Core) (v : Bool) (qs : List QStore) (ms : Sparse Mte) : Prop :=
  (v = false → ms = c.mtes) ∧ (v = true → ∀ j, Sparse.get {} ms j =
    { c.mte j with refs := (c.mte j).refs - qs.countP (fun q => q.via.map (fun x => x.idx.toNat) == some j) })

/-- Every store of a queue may leave, and the tokens of those of the V-stream have other holders. -/
def MayLeave (s : State) (k : Nat) (v : Bool) (qs : List QStore) : Prop :=
  (∀ q, q ∈ qs → Leaves s k v q) ∧ (v = true → ∀ q, q ∈ qs → ∀ x, q.via = some x →
    qs.countP (fun p => p.via.map (fun y => y.idx.toNat) == some x.idx.toNat) < ((s.core k).mte x.idx.toNat).refs)

theorem Core.emptied_nil {c : Core} {v : Bool} (h : c.storesOf v = []) : c.emptied v [] c.mtes = c := by
  have hs : c.setStores v [] = c := by
    rw [← h]
    cases v <;> rfl
  rw [Core.emptied, hs, List.append_nil]

theorem Core.emptied_popped (c : Core) (v : Bool) (qs : List QStore) (via : Option Tok) (w : VisStore) (ws : List VisStore)
    (ms : Sparse Mte) : (c.popped v qs via w).emptied v ws ms = c.emptied v (w :: ws) ms := by
  have hb : (c.popped v qs via w).buffer ++ ws = c.buffer ++ w :: ws := by
    have : (c.popped v qs via w).buffer = c.buffer ++ [w] := by cases v <;> cases via <;> rfl
    rw [this, List.append_assoc]
    rfl
  rw [Core.emptied, Core.emptied, hb]
  cases v <;> cases via <;> rfl

theorem GaveUp.cons {c : Core} {v : Bool} {q : QStore} {qs : List QStore} {w : VisStore} {ms : Sparse Mte}
    (h : GaveUp (c.popped v qs q.via w) v qs ms) : GaveUp c v (q :: qs) ms := by
  refine ⟨fun hv => ?_, fun hv j => ?_⟩
  · rw [h.1 hv, hv]
    rfl
  · rw [h.2 hv, hv, Core.popped, if_pos rfl, Core.mte_giveUp, List.countP_cons]
    simp only [beq_iff_eq, Nat.sub_sub]
    rw [Nat.add_comm]
    rfl

theorem Ready.mayLeave {s : State} {k : Nat} {v : Bool} (h : Ready s k v) : MayLeave s k v ((s.core k).storesOf v) := by
  refine ⟨fun q hq => (h.2 q hq).2.1, fun hv q hq x hx => ?_⟩
  subst hv
  have hc := (h.2 q hq).2.2 rfl x hx
  have hi (p : QStore) : (p.via.map (fun y => y.idx.toNat) == some x.idx.toNat) = (p.via.map (fun y => y.idx) == some x.idx) := by
    cases p.via <;> simp [BitVec.toNat_inj]
  have hg : (s.core k).mteOf q.via = (s.core k).mte x.idx.toNat := by
    by_contra hne
    have h0 : (s.core k).mteOf q.via = {} := by
      rw [hx] at hne ⊢
      simp only [Core.mteOf] at hne ⊢
      split <;> simp_all
    rw [h0] at hc
    exact absurd hc (Nat.not_lt_zero _)
  rw [hg] at hc
  simp only [hi]
  exact hc

theorem MayLeave.tail {s t : State} {k : Nat} {v : Bool} {q : QStore} {qs : List QStore} (h : MayLeave s k v (q :: qs))
    {w : VisStore} (ht : CoreIs k ((s.core k).popped v qs q.via w) s t) : MayLeave t k v qs := by
  have hs : (s.core k).SameReach (t.core k) := ht.2 ▸ (s.core k).sameReach_popped v qs q.via w
  refine ⟨fun p hp => (h.1 p (List.mem_cons_of_mem _ hp)).congr ht.mem hs, fun hv p hp x hx => ?_⟩
  have hc := h.2 hv p (List.mem_cons_of_mem _ hp) x hx
  subst hv
  have hm : ((t.core k).mte x.idx.toNat).refs = ((s.core k).mte x.idx.toNat).refs -
      (if q.via.map (fun x => x.idx.toNat) = some x.idx.toNat then 1 else 0) := by
    rw [ht.2, Core.popped, if_pos rfl, Core.mte_giveUp]
    rfl
  rw [hm]
  rw [List.countP_cons] at hc
  by_cases hx : q.via.map (fun x => x.idx.toNat) = some x.idx.toNat
  · simp only [hx, beq_self_eq_true, if_true] at hc ⊢
    omega
  · have : (q.via.map (fun x => x.idx.toNat) == some x.idx.toNat) = false := by simpa using hx
    simp only [this, hx, if_false] at hc ⊢
    simpa using hc

theorem Leaves.stores {s : State} {k : Nat} {v : Bool} {q : QStore} (h : Leaves s k v q) : q.op.stores = true := by
  obtain ⟨-, -, hx⟩ := h
  split at hx
  · obtain ⟨gs, hg⟩ := hx
    rw [hg]
    rfl
  · obtain ⟨ht, -⟩ := hx
    cases hop : q.op <;> rw [hop] at ht <;> first | rfl | cases ht

theorem Core.loadsOf_popped (c : Core) (v : Bool) (qs : List QStore) (via : Option Tok) (w : VisStore) :
    (c.popped v qs via w).loadsOf v = c.loadsOf v := by
  cases v <;> cases via <;> rfl

theorem Core.storesOf_popped (c : Core) (v : Bool) (qs : List QStore) (via : Option Tok) (w : VisStore) :
    (c.popped v qs via w).storesOf v = qs := by
  cases v <;> cases via <;> rfl

/-- The stores of a stream leave its queue one by one, each as it stood at core scope before. -/
theorem State.runQueues_of_mayLeave {k : Nat} {v : Bool} {g : Goal} (hg : g ≠ .loads) : ∀ (qs : List QStore) (s : State),
    (s.core k).loadsOf v = [] → (s.core k).storesOf v = qs → MayLeave s k v qs →
    ∃ t ms, State.runQueues qs.length s k v g = (t, false) ∧ GaveUp (s.core k) v qs ms ∧
      CoreIs k ((s.core k).emptied v (qs.map (fun q => s.shown k v q)) ms) s t
  | [], s, _, hq, _ => ⟨s, (s.core k).mtes, rfl, ⟨fun _ => rfl, fun _ _ => rfl⟩, onlyCore_refl k s, (Core.emptied_nil hq).symm⟩
  | q :: qs, s, hl, hq, hm => by
    have hv := hm.1 q List.mem_cons_self
    obtain ⟨u, hu, hc⟩ := State.popStore_of_leaves hl hq hv fun hv x hx => by
      have := hm.2 hv q List.mem_cons_self x hx
      rw [List.countP_cons, hx] at this
      simp only [Option.map_some, beq_self_eq_true, if_true] at this
      omega
    obtain ⟨t, ms, ht, hms, hct⟩ := State.runQueues_of_mayLeave hg qs u (by rw [hc.2, Core.loadsOf_popped, hl])
      (by rw [hc.2, Core.storesOf_popped]) (hm.tail hc)
    have hgoal : (s.core k).meetsGoal v g = false := by simp [Core.meetsGoal, hl, hq, hv.stores, hg]
    have hw : s.performLoad k v = .waits := by simp [State.performLoad, hl]
    refine ⟨t, ms, ?_, ?_, ?_⟩
    · rw [List.length_cons, State.runQueues, hgoal, if_neg Bool.false_ne_true]
      by_cases hgs : g = .stores
      · simp only [if_pos hgs, hu, ht]
      · simp only [if_neg hgs, hw, hu, ht]
    · exact (hc.2 ▸ hms).cons
    · have hs : (s.core k).SameReach (u.core k) := hc.2 ▸ (s.core k).sameReach_popped v qs q.via _
      simp only [State.shown_congr hc.mem hs, hc.2, Core.emptied_popped] at hct
      exact hc.trans hct

/-- A release finds its stream's queues empty once every store there has left. -/
theorem State.settleFor_of_mayLeave {s : State} {k : Nat} {v : Bool} {g : Goal} (hg : g ≠ .loads) (sc : Scope)
    (hl : (s.core k).loadsOf v = []) (hm : MayLeave s k v ((s.core k).storesOf v)) :
    ∃ t ms, s.settleFor k v g sc = (t.widen k sc, .done) ∧ GaveUp (s.core k) v ((s.core k).storesOf v) ms ∧
      CoreIs k ((s.core k).emptied v (((s.core k).storesOf v).map (fun q => s.shown k v q)) ms) s t := by
  obtain ⟨t, ms, ht, hms, hct⟩ := State.runQueues_of_mayLeave hg _ s hl rfl hm
  refine ⟨t, ms, ?_, hms, hct⟩
  have hq : s.runAll k v g = (t, false) := by
    rw [State.runAll, Core.queued, hl, List.length_nil, Nat.zero_add, ht]
  have he : (t.core k).meetsGoal v g = true := by
    rw [hct.2, Core.meetsGoal]
    cases v
    · have hl' : (s.core k).s.loads = [] := hl
      simp [Core.emptied, Core.setStores, Core.onS, Core.loadsOf, Core.storesOf, hl']
    · have hl' : (s.core k).v.loads = [] := hl
      simp [Core.emptied, Core.setStores, Core.onV, Core.loadsOf, Core.storesOf, hl']
  simp only [State.settleFor, hq, he, if_neg hg]
  rfl

/-- A release of a stream that may leave its queues empty. -/
theorem State.settle_of_ready {s : State} {k : Nat} {v : Bool} (h : Ready s k v) (sc : Scope) :
    ∃ t ms, s.settle k v sc = (t.widen k sc, .done) ∧ GaveUp (s.core k) v ((s.core k).storesOf v) ms ∧
      CoreIs k ((s.core k).emptied v (((s.core k).storesOf v).map (fun q => s.shown k v q)) ms) s t :=
  State.settleFor_of_mayLeave (by decide) sc h.1 h.mayLeave

end Sys2Proof.Machine
end

section
/-! PROOF. The control and status registers (R24-R27, R206). -/

namespace Sys2Proof.Machine

open Sys2Proof

/-! Which numbers name a register, and what it reads as. -/

/-- The CSRs that are written in either mode, those that supervisor mode writes, and those that no instruction writes (R24). -/
theorem csrAccess_eq (n : Nat) : csrAccess n =
    if n ∈ [0, 2] then some .rw else if n ∈ [16, 17, 18, 19] then some .sRw
    else if n ∈ [1, 3, 32, 33, 34, 35, 36] then some .ro else none := by
  unfold csrAccess
  split
  case h_14 => simp_all
  all_goals rfl

/-- Two fields side by side. -/
theorem toNat_append_eq_add {m n : Nat} (x : BitVec m) (y : BitVec n) : (x ++ y).toNat = 2 ^ n * x.toNat + y.toNat := by
  rw [BitVec.toNat_append, Nat.shiftLeft_eq, Nat.mul_comm, Nat.two_pow_add_eq_or_of_lt y.isLt]

/-- VST as its fields lie (R26). -/
theorem vst_value (stop : Bool) (code : Byte) :
    word ((if stop then 256 else 0) + code.toNat) = 0#55 ++ BitVec.ofBool stop ++ code := by
  apply BitVec.eq_of_toNat_eq
  have hc := code.isLt
  have he : (0#55 ++ BitVec.ofBool stop ++ code).toNat = (if stop then 256 else 0) + code.toNat := by
    rw [toNat_append_eq_add, toNat_append_eq_add]
    cases stop <;> simp
  refine Eq.trans ?_ he.symm
  rw [word, BitVec.toNat_ofNat, Nat.mod_eq_of_lt]
  split <;> omega

/-- COREID as its fields lie (R26). -/
theorem coreid_value (k : Nat) :
    word (k % 256 + (if halfOf k then 256 else 0)) = BitVec.ofNat 64 (k % 256) ||| (if 128 ≤ k then 256#64 else 0#64) := by
  apply BitVec.eq_of_toNat_eq
  have h : k % 256 < 2 ^ 8 := Nat.mod_lt _ (by decide)
  by_cases hk : 128 ≤ k
  · have ho := Nat.two_pow_add_eq_or_of_lt h 1
    have e1 : (word (k % 256 + 256)).toNat = 256 + k % 256 := by
      rw [word, BitVec.toNat_ofNat]
      omega
    have e2 : (BitVec.ofNat 64 (k % 256)).toNat = k % 256 := by
      rw [BitVec.toNat_ofNat]
      omega
    rw [if_pos hk, halfOf, decide_eq_true hk, if_pos rfl, BitVec.toNat_or, e1, e2, Nat.or_comm]
    exact ho
  · simp [word, halfOf, hk]

/-- PANEL as its fields lie (R26, R277). -/
theorem PanelReg.value_eq (p : PanelReg) : p.value =
    if p.size = 0 then 0 else 0#40 ++ p.base ++ 0#4 ++ p.rank ++ 0#3 ++ p.size := by
  unfold PanelReg.value
  refine ite_congr rfl (fun _ => rfl) fun _ => BitVec.eq_of_toNat_eq ?_
  have hb := p.base.isLt
  have hr := p.rank.isLt
  have hs := p.size.isLt
  have he : (0#40 ++ p.base ++ 0#4 ++ p.rank ++ 0#3 ++ p.size).toNat =
      p.base.toNat * 65536 + p.rank.toNat * 256 + p.size.toNat := by
    simp only [toNat_append_eq_add, BitVec.toNat_ofNat, Nat.zero_mod]
    omega
  refine Eq.trans ?_ he.symm
  rw [word, BitVec.toNat_ofNat, Nat.mod_eq_of_lt (by omega)]

/-! What a read, a write and a refused access of a register do. -/

/-- An instruction that reads or writes SST takes effect on the state that a release at core scope leaves; of another register, on
the state as it is (R75). -/
theorem State.afterFlags_of {s : State} {n : Nat} (h : n = 0 → Ready s s.curN false) :
    ∃ u, u = (if n = 0 then (s.settle s.curN false .core).1 else s) ∧ u.curN = s.curN ∧
      u.me.s.x = s.me.s.x ∧ u.me.s.pc = s.me.s.pc ∧ u.csr u.curN n = s.csr s.curN n ∧ ∀ f, s.afterFlags n f = f u := by
  by_cases hn : n = 0
  · obtain ⟨u, ms, hu, -, hc⟩ := State.settle_of_ready (h hn) .core
    have hk : u.me = u.core s.curN := by rw [State.me, hc.1.curN]
    have hs : u.me.s = { s.me.s with queue := u.me.s.queue } := by
      rw [hk, hc.2]
      rfl
    refine ⟨u, by rw [if_pos hn, hu]; rfl, hc.1.curN, by rw [hs], by rw [hs], ?_, fun f => ?_⟩
    · subst hn
      change u.me.s.sst = s.me.s.sst
      rw [hs]
    · have hf : s.settleFor s.curN false .all .core = (u, .done) := hu
      simp only [State.afterFlags, if_pos hn, State.releaseS, State.onceS, hf]
  · exact ⟨s, by rw [if_neg hn], rfl, rfl, rfl, rfl, fun f => by rw [State.afterFlags, if_neg hn]⟩

/-- A write of a register changes its writable bits. -/
theorem Core.setCsr_eq (c : Core) (n : Nat) (v : Word) : c.setCsr n v = { c with s :=
    if n = 0 then { c.s with sst := v &&& 0xC01F#64 } else if n = 2 then { c.s with schk := v.getLsbD 0 }
    else if n = 16 then { c.s with tvec := v &&& ~~~3#64 } else if n = 17 then { c.s with tepc := v }
    else if n = 18 then { c.s with tcause := v &&& 0xFF#64 } else if n = 19 then { c.s with tval := v } else c.s } := by
  unfold Core.setCsr Core.onS
  refine congrArg (fun x => { c with s := x }) ?_
  split
  case h_7 h0 h2 h16 h17 h18 h19 => simp_all
  all_goals rfl

/-- A write of a register keeps the x registers and the program counter. -/
theorem Core.setCsr_keeps (c : Core) (n : Nat) (v : Word) : (c.setCsr n v).s.x = c.s.x ∧ (c.setCsr n v).s.pc = c.s.pc := by
  rw [Core.setCsr_eq]
  dsimp only
  split_ifs <;> exact ⟨rfl, rfl⟩

/-- The numbers that name a register. -/
theorem csrAccess_isSome {n : Nat} : csrAccess n ≠ none ↔ n ∈ [0, 1, 2, 3, 16, 17, 18, 19, 32, 33, 34, 35, 36] := by
  rw [csrAccess_eq]
  split_ifs <;> simp_all
  all_goals omega

theorem State.csrOp_read {s : State} {d : XReg} {c : BitVec 11} (h : csrAccess c.toNat ≠ none) :
    s.csrOp d c none = s.afterFlags c.toNat (fun s => s.retireX d (s.csr s.curN c.toNat)) := by
  obtain ⟨a, ha⟩ := Option.ne_none_iff_exists'.1 h
  simp only [State.csrOp, ha]

theorem State.csrOp_unassigned {s : State} {d : XReg} {c : BitVec 11} (h : csrAccess c.toNat = none) (f : Option (Word → Word)) :
    s.csrOp d c f = s.trapMe causeIllegal 0 := by simp only [State.csrOp, h]

theorem State.csrOp_readOnly {s : State} {d : XReg} {c : BitVec 11} (h : csrAccess c.toNat = some .ro) (f : Word → Word) :
    s.csrOp d c (some f) = s.trapMe causeIllegal 0 := by simp only [State.csrOp, h]

theorem State.csrOp_privileged {s : State} {d : XReg} {c : BitVec 11} (h : csrAccess c.toNat = some .sRw)
    (hu : s.me.s.mode = .user) (f : Word → Word) : s.csrOp d c (some f) = s.trapMe causePriv 0 := by
  simp only [State.csrOp, h, hu, and_self, if_true]

theorem State.csrOp_write {s : State} {d : XReg} {c : BitVec 11} (h : csrAccess c.toNat = some .rw ∨
    csrAccess c.toNat = some .sRw ∧ s.me.s.mode ≠ .user) (f : Word → Word) :
    s.csrOp d c (some f) = s.afterFlags c.toNat (fun s => s.setMe (((s.me.setCsr c.toNat (f (s.csr s.curN c.toNat))).setX d
      (s.csr s.curN c.toNat)).advance)) := by
  rcases h with h | ⟨h, hu⟩
  · simp only [State.csrOp, h, reduceCtorEq, false_and, if_false]
  · simp only [State.csrOp, h, hu, and_false, if_false]

/-- The result of an instruction that only writes a register. -/
theorem State.retireX_spec (s : State) (d : XReg) (v : Word) :
    XIs d v s (s.retireX d v) ∧ NextWord s (s.retireX d v) ∧ OnlyX s (s.retireX d v) := by
  refine ⟨fun n => ?_, ⟨?_, ?_⟩, onlyCore_setMe _ _, ?_⟩ <;> simp only [State.retireX, State.me_setMe]
  · rw [Core.xr_advance, Core.xr_setX]
  · rw [Core.setX_eq]; rfl
  · rfl
  · rw [Core.setX_eq]; rfl

/-- Settles O29: the numbers of R24 decide which of the four outcomes an access has. -/
theorem controlRegisterAccess : Obligations.ControlRegisterAccess := by
  intro st d a c s n k t known readOnly super old after u writes
  have hold : known → s.csr k n = old := by
    intro hk
    change c.toNat ∈ _ at hk
    change s.csr s.curN c.toNat = old
    simp only [List.mem_cons, List.not_mem_nil, or_false] at hk
    rcases hk with h | h | h | h | h | h | h | h | h | h | h | h | h <;> simp only [old, n, h, State.csr]
    exacts [rfl, rfl, rfl, vst_value _ _, rfl, rfl, rfl, rfl, coreid_value _, PanelReg.value_eq _, rfl, BitVec.ofNat_toNat _ _, rfl]
  have hunk : ¬ known → csrAccess n = none := fun h => not_not.1 fun h' => h (csrAccess_isSome.1 h')
  have hwrites (i : Instr) (f : Word → Word) (he : exec i s = .next (s.csrOp d c (some f))) : writes i (f old) := by
    refine ⟨fun h hh => ?_, fun h hu hh => ?_, fun hk hr hs h0 => ?_⟩
    · refine traps_of hh (he.trans (congrArg _ ?_))
      rcases h with h | h
      · exact State.csrOp_unassigned (hunk h) f
      · refine State.csrOp_readOnly ?_ f
        change n ∈ _ at h
        rw [csrAccess_eq, if_neg, if_neg, if_pos h] <;> simp_all <;> omega
    · refine traps_of hh (he.trans (congrArg _ (State.csrOp_privileged ?_ hu f)))
      change n ∈ _ at h
      rw [csrAccess_eq, if_neg, if_pos h]
      simp_all
      omega
    · obtain ⟨v, hv, hc, hvx, hvp, hvc, hf⟩ := State.afterFlags_of (s := s) h0
      have hn : n ∈ [0, 2] ∨ n ∈ [16, 17, 18, 19] := by
        simp only [known, readOnly, List.mem_cons, List.not_mem_nil, or_false] at hk hr ⊢
        omega
      have hrw : csrAccess c.toNat = some .rw ∨ csrAccess c.toNat = some .sRw ∧ s.me.s.mode ≠ .user := by
        by_cases h2 : n ∈ [0, 2]
        · exact .inl ((csrAccess_eq n).trans (if_pos h2))
        · have h4 := hn.resolve_left h2
          exact .inr ⟨(csrAccess_eq n).trans ((if_neg h2).trans (if_pos h4)), fun hu => hs ⟨h4, hu⟩⟩
      rw [State.csrOp_write hrw, hf, hvc] at he
      change exec i s = .next (v.setMe (((v.me.setCsr n (f (s.csr k n))).setX d (s.csr k n)).advance)) at he
      rw [hold hk] at he
      have hset : v.me.setCsr n (f old) = { v.me with s := after v.me.s (f old) } := by
        rw [Core.setCsr_eq]
        refine congrArg (fun x => { v.me with s := x }) ?_
        simp only [after]
        split_ifs with h0 h2 h16 h17 h18 h19
        all_goals first | rfl | (simp only [List.mem_cons, List.not_mem_nil, or_false] at hn; omega)
      have hkeep := v.me.setCsr_keeps n (f old)
      refine ⟨_, he, fun r => ?_, ⟨?_, ?_⟩, ?_, ?_⟩
      · rw [State.me_setMe, Core.xr_advance, Core.xr_setX]
        simp only [Core.xr, hkeep.1, hvx]
      · rw [State.me_setMe, Core.setX_eq, ← hvp, ← hkeep.2]
        rfl
      · rw [State.me_setMe]
        rfl
      · have ho := onlyCore_setMe v (((v.me.setCsr n (f old)).setX d old).advance)
        rw [hc, hv] at ho
        rw [hv]
        exact ho
      · rw [show (if n = 0 then u else s) = v from hv.symm, State.me_setMe, Core.setX_eq, hset]
        rfl
  refine ⟨fun hk h0 => ?_, fun h0 hr => ?_, fun hk hh => ?_, hwrites _ (fun _ => s.me.xr a) rfl, hwrites _ (· ||| s.me.xr a) rfl,
    hwrites _ (· &&& ~~~(s.me.xr a)) rfl⟩
  · have he : s.csrOp d c none = s.retireX d old := by
      rw [State.csrOp_read (csrAccess_isSome.2 hk), State.afterFlags, if_neg h0]
      exact congrArg _ (hold hk)
    exact writesX_of (congrArg Host.Outcome.next he)
  · obtain ⟨v, hv, hc, hvx, hvp, hvc, hf⟩ := State.afterFlags_of (s := s) (n := n) fun _ => hr
    have hk : known := by simp [known, h0]
    have hv' : v = u := by rw [hv, if_pos h0]
    have he : s.csrOp d c none = u.retireX d old := by
      rw [State.csrOp_read (csrAccess_isSome.2 hk), hf]
      change v.retireX d (v.csr v.curN n) = _
      rw [hvc, hv']
      exact congrArg _ (hold hk)
    rw [hv'] at hvx hvp
    obtain ⟨hx, hn, ho⟩ := u.retireX_spec d old
    refine ⟨_, congrArg Host.Outcome.next he, fun r => ?_, ⟨by rw [hn.1, hvp], hn.2⟩, ho⟩
    rw [hx r]
    simp only [Core.xr, hvx]
  · exact traps_of hh (congrArg _ (State.csrOp_unassigned (hunk hk) none))

end Sys2Proof.Machine
end

section
/-! PROOF. The scratchpad address space of the S-stream and its spill store (R20, R21, R101, R102). -/

namespace Sys2Proof.Machine

open Sys2Proof

/-! An aligned doubleword of the scratchpad address space is one piece. -/

theorem spOwn_room (j : Nat) {a : Nat} (h : a % 8 = 0) (ha : a < 0x300000) : 8 ≤ (spOwn j a).2 := by
  unfold spOwn
  by_cases h1 : a < 0x2FF000
  · rw [if_pos h1]
    dsimp only
    omega
  · by_cases h2 : a < 0x2FFC00
    · rw [if_neg h1, if_pos h2]
      dsimp only
      omega
    · rw [if_neg h1, if_neg h2]
      dsimp only
      omega

/-- An address past the own scratchpad leads to the copy aperture, to a sibling, or outside (R20, R21). -/
theorem Core.spRange_cases (c : Core) (k : Nat) {p : Nat} (h : 0x300000 ≤ p) :
    (p < 0x801000 ∧ c.spRange k false p = (.aperture (p - 0x800000), 0x801000 - p)) ∨
    ((p - 0x1000000) % 0x400000 < 0x300000 ∧
      c.spRange k false p = spOwn (c.sibling k ((p - 0x1000000) / 0x400000)) ((p - 0x1000000) % 0x400000)) ∨
    c.spRange k false p = (.out, 512 - p % 512) := by
  unfold Core.spRange
  rw [if_neg (by omega), if_neg (c := false = true ∧ _) (by simp)]
  by_cases ha : 0x800000 ≤ p ∧ p < 0x801000
  · rw [if_pos ha]
    exact .inl ⟨ha.2, rfl⟩
  · rw [if_neg ha]
    by_cases hw : 0x1000000 ≤ p ∧ p < 0x5000000
    · rw [if_pos hw]
      by_cases hs : (p - 0x1000000) % 0x400000 < 0x300000 ∧ (p - 0x1000000) / 0x400000 < c.panel.size.toNat
      · exact .inr (.inl ⟨hs.1, if_pos hs⟩)
      · exact .inr (.inr (if_neg hs))
    · rw [if_neg hw]
      exact .inr (.inr rfl)

/-- Where each range ends, a doubleword ends (R20, R21). -/
theorem Core.spRange_room (c : Core) (k : Nat) {p : Nat} (h : p % 8 = 0) : 8 ≤ (c.spRange k false p).2 := by
  by_cases hp : p < 0x300000
  · rw [show c.spRange k false p = spOwn k p by simp [Core.spRange, hp]]
    exact spOwn_room k h hp
  · obtain ⟨ha, hr⟩ | ⟨ho, hr⟩ | hr := c.spRange_cases k (Nat.not_lt.1 hp) <;> rw [hr]
    · dsimp only
      omega
    · exact spOwn_room _ (by omega) ho
    · dsimp only
      omega

theorem Core.spPieces_of_aligned (c : Core) (k : Nat) {p : Nat} (h : p % 8 = 0) (hp : p < 2 ^ 64) (f : Nat) :
    c.spPieces k false (f + 2) 0 p 8 = [⟨(c.spRange k false p).1, 0, p, 8⟩] := by
  have hr := c.spRange_room k h
  simp only [Core.spPieces, Nat.mod_eq_of_lt hp, Nat.min_eq_left hr]
  simp

theorem State.spRead_of_aligned (s : State) (k : Nat) {p : Nat} (h : p % 8 = 0) (hp : p < 2 ^ 64) :
    s.spRead k false p 8 =
      ((s.spPieceBytes k ⟨((s.core k).spRange k false p).1, 0, p, 8⟩).1,
        (s.spPieceBytes k ⟨((s.core k).spRange k false p).1, 0, p, 8⟩).2, ((s.core k).spRange k false p).1 == .out) := by
  simp [State.spRead, Core.spPieces_of_aligned _ k h hp]

/-! What a range is (R20, R21). -/

section
variable (c : Core) (k p : Nat)

theorem Core.spRange_own (h : p < 0x300000) : c.spRange k false p = spOwn k p := by simp [Core.spRange, h]

theorem Core.spRange_aperture (h : 0x800000 ≤ p) (h' : p < 0x801000) :
    (c.spRange k false p).1 = .aperture (p - 0x800000) := by
  unfold Core.spRange
  rw [if_neg (by omega), if_pos ⟨h, h'⟩]
  rfl

theorem Core.spRange_sibling (h : 0x1000000 ≤ p) (h' : p < 0x5000000) (ho : (p - 0x1000000) % 0x400000 < 0x300000)
    (hr : (p - 0x1000000) / 0x400000 < c.panel.size.toNat) :
    c.spRange k false p = spOwn (c.sibling k ((p - 0x1000000) / 0x400000)) ((p - 0x1000000) % 0x400000) := by
  unfold Core.spRange
  rw [if_neg (by omega), if_neg (by omega), if_neg (by simp), if_pos ⟨h, h'⟩]
  exact if_pos ⟨ho, hr⟩

theorem Core.spRange_out (h : (0x300000 ≤ p ∧ p < 0x800000) ∨ (0x801000 ≤ p ∧ p < 0x1000000) ∨ 0x5000000 ≤ p ∨
    ((0x1000000 ≤ p ∧ p < 0x5000000) ∧ ¬ ((p - 0x1000000) % 0x400000 < 0x300000 ∧
      (p - 0x1000000) / 0x400000 < c.panel.size.toNat))) : c.spRange k false p = (.out, 512 - p % 512) := by
  have h1 : ¬ p < 0x300000 := by
    omega
  have h2 : ¬ (0x800000 ≤ p ∧ p < 0x801000) := by
    omega
  unfold Core.spRange
  rw [if_neg h1, if_neg h2, if_neg (by simp)]
  by_cases hw : 0x1000000 ≤ p ∧ p < 0x5000000
  · rw [if_pos hw]
    obtain h | h | h | ⟨-, h⟩ := h
    · exact absurd hw (by omega)
    · exact absurd hw (by omega)
    · exact absurd hw (by omega)
    · exact if_neg h
  · rw [if_neg hw]

theorem spOwn_ne_spill (a o : Nat) : (spOwn k a).1 ≠ .spill o := by
  unfold spOwn
  split
  · simp
  · split <;> simp

/-- The S-stream does not reach the V part of the spill store (R20). -/
theorem Core.spRange_ne_spill (o : Nat) : (c.spRange k false p).1 ≠ .spill o := by
  by_cases hp : p < 0x300000
  · rw [c.spRange_own k p hp]
    exact spOwn_ne_spill k p o
  · obtain ⟨-, hr⟩ | ⟨-, hr⟩ | hr := c.spRange_cases k (Nat.not_lt.1 hp) <;> rw [hr]
    · simp
    · exact spOwn_ne_spill _ _ o
    · simp

theorem spOwn_mem {x : Nat} (h : x < 0x2FF000) : (spOwn k x).1 = .mem k x := by simp [spOwn, h]

theorem spOwn_reserved {x : Nat} (h : 0x2FF000 ≤ x) (h' : x < 0x2FFC00) : (spOwn k x).1 = .out := by
  unfold spOwn
  rw [if_neg (by omega), if_pos h']

theorem spOwn_desc {x : Nat} (h : 0x2FFC00 ≤ x) : (spOwn k x).1 = .desc k (x - 0x2FFC00) := by
  unfold spOwn
  rw [if_neg (by omega), if_neg (by omega)]

end

/-! The state that a read starts from differs from the one before the instruction in the S-stream alone. -/

/-- Nothing differs but the S-stream of core `k`, which is `x`. -/
def SameButS (k : Nat) (x : SCore) (s u : State) : Prop := CoreIs k { s.core k with s := x } s u

theorem SameButS.core {k : Nat} {x : SCore} {s u : State} (h : SameButS k x s u) (j : Nat) :
    u.core j = { s.core j with s := (u.core j).s } := by
  by_cases hj : j = k
  · subst hj
    rw [h.2]
  · rw [h.1.2 j hj]

theorem SameButS.panels {k : Nat} {x : SCore} {s u : State} (h : SameButS k x s u) : u.panels = s.panels := by rw [h.1.1]

/-- A change of one core that heeds no S-stream, and an event, go the same way. -/
theorem SameButS.onCore_tell {k : Nat} {x : SCore} {s u : State} (h : SameButS k x s u) (j : Nat) (m : Store) (e : BenchEvent) :
    SameButS k x ((s.onCore j (fun c => { c with spad := m })).tell e) ((u.onCore j (fun c => { c with spad := m })).tell e) := by
  have hc (v : State) (i : Nat) : ((v.onCore j (fun c => { c with spad := m })).tell e).core i =
      if i = j then { v.core j with spad := m } else v.core i := State.core_onCore v j (fun c => { c with spad := m }) i
  refine ⟨⟨by rw [h.1.1]; rfl, fun i hi => ?_⟩, ?_⟩
  · rw [hc, hc]
    by_cases hj : i = j
    · rw [if_pos hj, if_pos hj, h.1.2 j (hj ▸ hi)]
    · rw [if_neg hj, if_neg hj, h.1.2 i hi]
  · rw [hc, hc]
    by_cases hj : k = j
    · subst hj
      rw [if_pos rfl, if_pos rfl, h.2]
    · rw [if_neg hj, if_neg hj, h.2]

/-- A check of scratchpad goes the same way. -/
theorem SameButS.verify {k : Nat} {x : SCore} {s u : State} (h : SameButS k x s u) (j a n : Nat) :
    SameButS k x (s.verify (.sp j) a n) (u.verify (.sp j) a n) := by
  have spad {s u : State} (h : SameButS k x s u) : u.storeOf (.sp j) = s.storeOf (.sp j) := by
    change (u.core j).spad = _
    rw [h.core j]
    rfl
  have go (qs : List Nat) : ∀ {s u : State}, SameButS k x s u → SameButS k x
      (qs.foldl (fun s q => (s.setStoreOf (.sp j) ((s.storeOf (.sp j)).poisonSector q)).tell (.poisoned (32 * q))) s)
      (qs.foldl (fun s q => (s.setStoreOf (.sp j) ((s.storeOf (.sp j)).poisonSector q)).tell (.poisoned (32 * q))) u) := by
    induction qs with
    | nil => exact fun h => h
    | cons q qs ih =>
      intro s u h
      rw [List.foldl_cons, List.foldl_cons]
      refine ih ?_
      rw [spad h]
      exact h.onCore_tell j _ _
  unfold State.verify
  rw [spad h]
  exact go _ h

/-- The stores that the agents of a core see over what lies in storage (R249). -/
def State.storesSeen (s : State) (k : Nat) : List VisStore :=
  (if (s.core k).panel.size = 0#5 then [] else (s.panel ((s.core k).panelBase k)).buffer.map (fun x => x.2)) ++ (s.core k).buffer

theorem State.seen_sp (s : State) (k j a n : Nat) : s.seen k (.sp j) a 0 n = (s.verify (.sp j) a n,
    overlaid (.sp j) a (((s.verify (.sp j) a n).core j).spad.get a n) ((s.verify (.sp j) a n).storesSeen k)) := rfl

theorem SameButS.storesSeen {k : Nat} {x : SCore} {s u : State} (h : SameButS k x s u) : u.storesSeen k = s.storesSeen k := by
  have hp : u.panel = s.panel := by
    funext b
    exact congrArg (fun ps => Sparse.get {} ps b) h.panels
  unfold State.storesSeen
  rw [hp, h.2]
  rfl

/-- What a core sees of scratchpad is the same. -/
theorem SameButS.seen {k : Nat} {x : SCore} {s u : State} (h : SameButS k x s u) (j a n : Nat) :
    SameButS k x (s.seen k (.sp j) a 0 n).1 (u.seen k (.sp j) a 0 n).1 ∧
      (u.seen k (.sp j) a 0 n).2 = (s.seen k (.sp j) a 0 n).2 := by
  have hv := h.verify j a n
  refine ⟨hv, ?_⟩
  have hj : ((u.verify (.sp j) a n).core j).spad = ((s.verify (.sp j) a n).core j).spad := by rw [hv.core j]
  rw [State.seen_sp, State.seen_sp, hj, hv.storesSeen]

/-- An aligned doubleword of the scratchpad address space reads the same. -/
theorem SameButS.spRead {k : Nat} {x : SCore} {s u : State} (h : SameButS k x s u) {p : Nat} (h8 : p % 8 = 0) (hp : p < 2 ^ 64) :
    SameButS k x (s.spRead k false p 8).1 (u.spRead k false p 8).1 ∧
      (u.spRead k false p 8).2 = (s.spRead k false p 8).2 := by
  have hr : ((u.core k).spRange k false p) = (s.core k).spRange k false p := by rw [h.2]; rfl
  rw [State.spRead_of_aligned s k h8 hp, State.spRead_of_aligned u k h8 hp, hr]
  cases hl : ((s.core k).spRange k false p).1 with
  | mem j a =>
    obtain ⟨h1, h2⟩ := h.seen j a 8
    exact ⟨h1, Prod.ext h2 rfl⟩
  | desc j o =>
    refine ⟨h, ?_⟩
    have hg (n : Nat) : (u.core j).ring n = (s.core j).ring n := by rw [h.core j]; rfl
    simp only [State.spPieceBytes, hg]
  | spill o =>
    exact absurd hl ((s.core k).spRange_ne_spill k p o)
  | aperture o => exact ⟨h, rfl⟩
  | out => exact ⟨h, rfl⟩

theorem CoreIs.me {c : Core} {s t : State} (h : CoreIs s.curN c s t) : t.me = c := by
  rw [← h.2, State.me, h.1.curN]

/-- A check of scratchpad changes the scratchpad alone, of a core, and no panel. -/
theorem State.verify_sp_frame (s : State) (j a n : Nat) : (s.verify (.sp j) a n).curN = s.curN ∧
    (s.verify (.sp j) a n).panels = s.panels ∧ ∀ i, ∃ m, (s.verify (.sp j) a n).core i = { s.core i with spad := m } := by
  refine foldl_keeps (P := fun t : State => t.curN = s.curN ∧ t.panels = s.panels ∧
    ∀ i, ∃ m, t.core i = { s.core i with spad := m }) ?_ _ _ ⟨rfl, rfl, fun i => ⟨_, rfl⟩⟩
  intro t q ⟨h1, h2, h3⟩
  refine ⟨h1, h2, fun i => ?_⟩
  obtain ⟨m, hm⟩ := h3 i
  have hc := State.core_onCore t j (fun c => { c with spad := (t.storeOf (.sp j)).poisonSector q }) i
  by_cases hj : i = j
  · subst hj
    rw [if_pos rfl, hm] at hc
    exact ⟨_, hc⟩
  · rw [if_neg hj, hm] at hc
    exact ⟨m, hc⟩

/-- A read of an aligned doubleword changes scratchpads alone, of a core. -/
theorem State.spRead_frame (s : State) (k : Nat) {p : Nat} (h8 : p % 8 = 0) (hp : p < 2 ^ 64) :
    (s.spRead k false p 8).1.curN = s.curN ∧ ∃ m, (s.spRead k false p 8).1.core k = { s.core k with spad := m } := by
  rw [State.spRead_of_aligned s k h8 hp]
  cases hl : ((s.core k).spRange k false p).1 with
  | mem j a =>
    obtain ⟨hc, -, hf⟩ := s.verify_sp_frame j a 8
    exact ⟨hc, hf k⟩
  | spill o => exact absurd hl ((s.core k).spRange_ne_spill k p o)
  | desc j o => exact ⟨rfl, _, rfl⟩
  | aperture o => exact ⟨rfl, _, rfl⟩
  | out => exact ⟨rfl, _, rfl⟩

/-! A scratchpad load issues and performs (R75, R101). -/

/-- The S-stream once a load has entered its queue. -/
def SCore.issued (x : SCore) (l : QLoad) : SCore :=
  { x with pc := x.pc + 4#16, st := .running, loads := x.loads ++ [{ l with pc := x.pc, seq := x.seq }], seq := x.seq + 1 }

theorem State.sameButS_issued (s : State) (l : QLoad) :
    SameButS s.curN (s.me.s.issued l) s (s.pushLoad s.curN false l).retire := by
  have h := (CoreIs.refl s.curN s).setCore
    ((s.me.setLoads false (s.me.s.loads ++ [{ l with seq := s.me.s.seq, pc := s.me.s.pc }])).bump false)
  have ht := h.onCore Core.advance
  exact ht

theorem State.loadS_of_lazy {s : State} (h : s.lazy = true) (l : QLoad) : s.loadS l = (s.pushLoad s.curN false l).retire :=
  if_pos h

/-- The state in which an access of a load queue ends; `u` where it stands where it is. -/
def Performed.ending (u : State) : Performed → State
  | .waits => u
  | .done t => t
  | .trapped t => t

/-- A load that is the first of its queue performs as it issues. -/
theorem State.loadS_of_prompt {s : State} (h : Prompt s s.curN false) (l : QLoad) :
    s.loadS l = ((s.pushLoad s.curN false l).retire.performLoad s.curN false).ending (s.pushLoad s.curN false l).retire := by
  obtain ⟨hz, hl, hq⟩ := h
  have hu := s.sameButS_issued l
  generalize hw : (s.pushLoad s.curN false l).retire = u at hu ⊢
  have hul : (u.core s.curN).loadsOf false = s.me.s.loads ++ [{ l with pc := s.me.s.pc, seq := s.me.s.seq }] := by
    rw [hu.2]
    rfl
  have huq : (u.core s.curN).storesOf false = [] := by
    rw [hu.2]
    exact hq
  have hn : s.me.s.loads = [] := hl
  have hg : (u.core s.curN).meetsGoal false .loads = false := by simp [Core.meetsGoal, hul]
  have hp : u.popStore s.curN false = none := by simp [State.popStore, huq]
  have hs : s.loadS l = (State.runQueues 1 u s.curN false .loads).1 := by
    have hlz : u.lazy = false := by rw [hu.1.1]; exact hz
    have hc : u.curN = s.curN := hu.1.curN
    rw [State.loadS, hw, State.eager, hlz, if_neg Bool.false_ne_true, State.runAll, Core.queued, hc, hul, huq, hn]
    rfl
  rw [hs]
  simp only [State.runQueues, hg, if_neg Bool.false_ne_true]
  cases u.performLoad s.curN false with
  | done t => rfl
  | trapped t => rfl
  | waits => simp [hp, Performed.ending]

/-- A scratchpad load with nothing before it (R95, R101). -/
theorem State.performLoad_sp {u : State} {k : Nat} {l : QLoad} {d : XReg} (hl : (u.core k).loadsOf false = [l])
    (hq : (u.core k).storesOf false = []) (ho : l.op = .sp d) :
    u.performLoad k false =
      if anyPois (u.spRead k false l.off 8).2.1 then
        ((u.spRead k false l.off 8).1.onCore k (fun c => c.setLoads false [])).loadTrap k l.pc
      else .done ((((u.spRead k false l.off 8).1.onCore k (fun c => c.oox (u.spRead k false l.off 8).2.2)).onCore k (fun c =>
        c.setX d (word (leNat (plain (u.spRead k false l.off 8).2.1))))).onCore k (fun c => c.setLoads false [])) := by
  simp [State.performLoad, hl, hq, ho]

theorem spAddr_lt (a : Word) (imm : BitVec 11) : spAddr a imm < 2 ^ 64 := BitVec.isLt _

/-- The low three bits of a scratchpad address are ignored (R101). -/
theorem spAddr_aligned (a : Word) (imm : BitVec 11) : spAddr a imm % 8 = 0 := by
  have h : (a + 8#64 * sextW imm) &&& 0xFFFFFFFFFFFFFFF8#64 &&& 7#64 = 0#64 := by
    rw [BitVec.and_assoc]
    exact BitVec.and_zero
  have hn := congrArg BitVec.toNat h
  rw [BitVec.toNat_and] at hn
  exact (Nat.and_two_pow_sub_one_eq_mod _ 3).symm.trans hn

theorem plain_clean (bs : List Byte) : plain (clean bs) = bs := by simp [plain, clean, Function.comp_def]

theorem anyPois_clean (bs : List Byte) : anyPois (clean bs) = false := by simp [anyPois, clean]

section
variable {st : SStall} {d a : XReg} {imm : BitVec 11} {s : State}

/-- The state in which an LDS with nothing before it performs: the load is at the head of its queue. -/
theorem exec_lds (h : Prompt s s.curN false) : ∃ u v,
    SameButS s.curN (s.me.s.issued { op := .sp d, off := spAddr (s.me.xr a) imm })
      (s.spRead s.curN false (spAddr (s.me.xr a) imm) 8).1 v ∧
    exec (.lds st d a imm) s = .next ((
      if anyPois (s.spRead s.curN false (spAddr (s.me.xr a) imm) 8).2.1 then
        (v.onCore s.curN (fun c => c.setLoads false [])).loadTrap s.curN s.me.s.pc
      else .done (((v.onCore s.curN (fun c => c.oox (s.spRead s.curN false (spAddr (s.me.xr a) imm) 8).2.2)).onCore s.curN (fun c =>
        c.setX d (word (leNat (plain (s.spRead s.curN false (spAddr (s.me.xr a) imm) 8).2.1))))).onCore s.curN (fun c =>
          c.setLoads false []))).ending u) := by
  have hu := s.sameButS_issued { op := .sp d, off := spAddr (s.me.xr a) imm }
  obtain ⟨hv, he⟩ := hu.spRead (spAddr_aligned _ _) (spAddr_lt _ _)
  refine ⟨(s.pushLoad s.curN false { op := .sp d, off := spAddr (s.me.xr a) imm }).retire, _, hv, congrArg Host.Outcome.next ?_⟩
  rw [State.loadS_of_prompt h, State.performLoad_sp (d := d)
    (l := { op := .sp d, off := spAddr (s.me.xr a) imm, pc := s.me.s.pc, seq := s.me.s.seq })]
  · dsimp only
    rw [he]
  · rw [hu.2]
    change s.me.s.loads ++ _ = _
    rw [show s.me.s.loads = [] from h.2.1]
    rfl
  · rw [hu.2]
    exact h.2.2
  · rfl

/-- An LDS whose bytes are clean (R101). -/
theorem loadsX_lds {bs : List Byte} {o : Bool} (h : Prompt s s.curN false)
    (hr : s.spRead s.curN false (spAddr (s.me.xr a) imm) 8 = (s, clean bs, o)) :
    LoadsX (.lds st d a imm) s d (BitVec.ofNat 64 (leNat bs)) (if o then 0x4000#64 else 0) := by
  obtain ⟨u, v, hv, he⟩ := exec_lds (st := st) (d := d) (a := a) (imm := imm) h
  rw [hr] at hv he
  rw [anyPois_clean, if_neg Bool.false_ne_true, plain_clean] at he
  have hl : [] = s.me.s.loads := h.2.1.symm
  rw [hl] at he
  have hc := ((CoreIs.onCore hv (fun c => c.oox o)).onCore (fun c => c.setX d (word (leNat bs)))).onCore
    (fun c => c.setLoads false s.me.s.loads)
  obtain ⟨t, ht, hc⟩ : ∃ t, exec (.lds st d a imm) s = .next t ∧ CoreIs s.curN _ s t := ⟨_, he, hc⟩
  refine ⟨t, ht, ?_⟩
  refine ⟨fun n => ?_, ⟨?_, ?_⟩, ?_, ?_, hc.1, ?_⟩ <;> rw [hc.me]
  · cases o <;> exact Core.xr_setX _ _ _ _
  · rw [Core.setX_eq]
    cases o <;> rfl
  · rw [Core.setX_eq]
    cases o <;> rfl
  · rw [Core.setX_eq]
    cases o
    · exact BitVec.or_zero.symm
    · rfl
  · rw [Core.setX_eq]
    cases o <;> rfl
  · rw [Core.setX_eq]
    cases o <;> rfl

/-- An LDS that meets a poisoned byte (R95). -/
theorem trapsPoison_lds (h : Prompt s s.curN false) (hi : s.me.s.inHandler = false)
    (hp : anyPois (s.spRead s.curN false (spAddr (s.me.xr a) imm) 8).2.1 = true) :
    TrapsPoison (.lds st d a imm) s (s.spRead s.curN false (spAddr (s.me.xr a) imm) 8).1 := by
  obtain ⟨u, v, hv, he⟩ := exec_lds (st := st) (d := d) (a := a) (imm := imm) h
  obtain ⟨hn, m, hm⟩ := s.spRead_frame s.curN (spAddr_aligned (s.me.xr a) imm) (spAddr_lt _ _)
  rw [if_pos hp] at he
  generalize (s.spRead s.curN false (spAddr (s.me.xr a) imm) 8).1 = r at hv hn hm ⊢
  have hw := CoreIs.onCore hv (fun c => c.setLoads false [])
  have hs : ((v.onCore s.curN (fun c => c.setLoads false [])).core s.curN).s.st = .running := by
    rw [hw.2]
    rfl
  have hh : ((v.onCore s.curN (fun c => c.setLoads false [])).core s.curN).s.inHandler = false := by
    rw [hw.2]
    exact hi
  simp only [State.loadTrap, hs, State.trapAt, hh, if_neg Bool.false_ne_true] at he
  have hc := hw.setCore (((v.onCore s.curN (fun c => c.setLoads false [])).core s.curN).enterTrap causePoison 0 s.me.s.pc)
  rw [hw.2, hm] at he hc
  obtain ⟨t, ht, hc⟩ : ∃ t, exec (.lds st d a imm) s = .next t ∧ CoreIs s.curN _ r t := ⟨_, he, hc⟩
  have hme := hc.2
  rw [show t.core s.curN = t.me by rw [State.me, hc.1.curN, hn]] at hme
  refine ⟨t, ht, ?_⟩
  refine ⟨fun n => ?_, ?_, ?_, ?_, ?_, ?_, ?_, ?_, ?_, ?_, ?_, ?_, ?_, hc.1⟩ <;> rw [hme] <;> rfl

/-- An LDS that is to perform later stands in the load queue (R75). -/
theorem entersLoad_lds (h : s.lazy = true) :
    EntersLoad (.lds st d a imm) s { op := .sp d, off := spAddr (s.me.xr a) imm } := by
  have hu := s.sameButS_issued { op := .sp d, off := spAddr (s.me.xr a) imm }
  rw [← State.loadS_of_lazy h] at hu
  exact ⟨_, rfl, hu.1, hu.me⟩

end

/-! What an aligned doubleword reads as (R20, R21, R223). -/

section
variable {s : State} {k p : Nat}

/-- What no store hides is seen as it lies. -/
theorem State.seen_of_noBuffer (h : NoBuffer s k) {j a n : Nat} (hb : (s.core j).spad.bad a n = []) :
    s.seen k (.sp j) a 0 n = (s, (s.core j).spad.get a n) := by
  have hv : s.verify (.sp j) a n = s := verify_of_good _ _ _ hb
  have hp : s.storesSeen k = [] := by
    unfold State.storesSeen
    rw [h.1]
    split
    · rfl
    · next hs => rw [h.2 hs]; rfl
  rw [State.seen_sp, hv, hp]
  rfl

/-- Clean storage reads as its bytes. -/
theorem Store.get_of_clean {m : Store} {a n : Nat} (h : ∀ j, j < n → Sparse.get false m.pois (a + j) = false) :
    m.get a n = clean ((List.range n).map (fun j => Sparse.get 0 m.bytes (a + j))) := by
  rw [Store.get, Sparse.getList_eq, Sparse.getList_eq]
  refine zip_clean ?_
  rw [List.eq_replicate_iff]
  refine ⟨by simp, fun x hx => ?_⟩
  obtain ⟨i, hi, rfl⟩ := List.mem_map.1 hx
  exact h i (List.mem_range.1 hi)

theorem StageRing.length_image (r : StageRing) : r.image.length = 32 := by
  simp [StageRing.image, leBytes]

/-- A piece of one of equal parts of a list. -/
theorem drop_take_flatMap {α β : Type} {f : α → List β} {z : Nat} (hf : ∀ x, (f x).length = z) :
    ∀ (l : List α) (n : Nat) (x : α), l[n]? = some x → ∀ r m, r + m ≤ z →
      ((l.flatMap f).drop (z * n + r)).take m = ((f x).drop r).take m
  | [], n, x, h, r, m, _ => by simp at h
  | y :: l, 0, x, h, r, m, hr => by
    obtain rfl : y = x := by simpa using h
    rw [List.flatMap_cons, Nat.mul_zero, Nat.zero_add, List.drop_append_of_le_length (by rw [hf]; omega),
      List.take_append_of_le_length (by rw [List.length_drop, hf]; omega)]
  | y :: l, n + 1, x, h, r, m, hr => by
    have := drop_take_flatMap hf l n x (by simpa using h) r m hr
    rw [List.flatMap_cons, Nat.mul_succ, Nat.add_right_comm, List.drop_append, List.drop_of_length_le (by rw [hf]; omega), hf,
      List.nil_append, Nat.add_sub_cancel, this]

variable (h8 : p % 8 = 0) (hp : p < 2 ^ 64)
include h8 hp

theorem spRead_mem (h : NoBuffer s k) {j x : Nat} (hl : ((s.core k).spRange k false p).1 = .mem j x)
    (hb : (s.core j).spad.bad x 8 = []) (hc : ∀ i, i < 8 → Sparse.get false (s.core j).spad.pois (x + i) = false) :
    s.spRead k false p 8 = (s, clean ((List.range 8).map (fun i => Sparse.get 0 (s.core j).spad.bytes (x + i))), false) := by
  rw [State.spRead_of_aligned s k h8 hp, hl]
  change ((s.seen k (.sp j) x 0 8).1, (s.seen k (.sp j) x 0 8).2, false) = _
  rw [State.seen_of_noBuffer h hb, Store.get_of_clean hc]

theorem spRead_desc {j n i : Nat} (hn : n < 32) (hi : i < 4) (hl : ((s.core k).spRange k false p).1 = .desc j (32 * n + 8 * i)) :
    s.spRead k false p 8 = (s, clean ((((s.core j).ring n).image.drop (8 * i)).take 8), false) := by
  rw [State.spRead_of_aligned s k h8 hp, hl]
  have := drop_take_flatMap (f := fun n => ((s.core j).ring n).image) (fun n => StageRing.length_image _) (List.range 32) n n
    (List.getElem?_range hn) (8 * i) 8 (by omega)
  simp only [State.spPieceBytes, this]
  rfl

theorem spRead_aperture {o : Nat} (hl : ((s.core k).spRange k false p).1 = .aperture o) :
    s.spRead k false p 8 = (s, clean (List.replicate 8 0), false) := by
  rw [State.spRead_of_aligned s k h8 hp, hl]
  rfl

theorem spRead_out (hl : ((s.core k).spRange k false p).1 = .out) :
    s.spRead k false p 8 = (s, clean (List.replicate 8 0), true) := by
  rw [State.spRead_of_aligned s k h8 hp, hl]
  rfl

end

/-! A scratchpad store (R20, R21, R101). -/

theorem clean_leBytes (v : Word) : clean (leBytes 8 v.toNat) = (List.range 8).map (fun j => (v.extractLsb' (8 * j) 8, false)) := by
  have h (j : Nat) : v.extractLsb' (8 * j) 8 = BitVec.ofNat 8 (v.toNat / 2 ^ (8 * j)) := by
    apply BitVec.eq_of_toNat_eq
    simp [BitVec.extractLsb'_toNat, Nat.shiftRight_eq_div_pow]
  simp only [h]
  simp [clean, leBytes, List.range_succ, Nat.div_div_eq_div_mul]

section
variable {st : SStall} {d a : XReg} {imm : BitVec 11} {s : State}

/-- A store enters its queue, and its instruction is complete. -/
theorem State.coreIs_pushStore_retire (s : State) (q : QStore) :
    CoreIs s.curN ((s.me.setStores false (s.me.s.queue ++ [{ q with seq := s.me.s.seq }])).bump false).advance s
      (s.pushStore s.curN false q).retire := by
  have h := (CoreIs.refl s.curN s).setCore ((s.me.setStores false (s.me.s.queue ++ [{ q with seq := s.me.s.seq }])).bump false)
  have ht := h.onCore Core.advance
  exact ht

/-- An STS to a scratchpad stands in the store queue. -/
theorem entersStore_sts {j x : Nat} (hl : (s.me.spRange s.curN false (spAddr (s.me.xr a) imm)).1 = .mem j x) :
    EntersStore (.sts st d a imm) s
      { op := .segs [⟨.sp j, x, spAddr (s.me.xr a) imm, spAddr (s.me.xr a) imm,
        (List.range 8).map (fun j => ((s.me.xr d).extractLsb' (8 * j) 8, false)), [], none⟩] } 0 := by
  have hs := Core.spPieces_of_aligned s.me s.curN (spAddr_aligned (s.me.xr a) imm) (spAddr_lt _ _) 1
  rw [hl] at hs
  have he : s.storeSp (spAddr (s.me.xr a) imm) (s.me.xr d) =
      ((s.onCore s.curN (fun c => c.oox false)).pushStore s.curN false
        { op := .segs [⟨.sp j, x, spAddr (s.me.xr a) imm, spAddr (s.me.xr a) imm, clean (leBytes 8 (s.me.xr d).toNat), [],
          none⟩] }).retire := by
    unfold State.storeSp
    rw [hs]
    rfl
  rw [clean_leBytes] at he
  have h0 : CoreIs s.curN s.me s (s.onCore s.curN (fun c => c.oox false)) := (CoreIs.refl s.curN s).onCore (fun c => c.oox false)
  have hc := h0.trans ((s.onCore s.curN (fun c => c.oox false)).coreIs_pushStore_retire { op := .segs [⟨.sp j, x,
    spAddr (s.me.xr a) imm, spAddr (s.me.xr a) imm,
    (List.range 8).map (fun j => ((s.me.xr d).extractLsb' (8 * j) 8, false)), [], none⟩] })
  rw [h0.me] at hc
  rw [show (s.onCore s.curN (fun c => c.oox false)).curN = s.curN from rfl, ← he] at hc
  refine ⟨_, rfl, hc.1, hc.me.trans ?_⟩
  rw [show s.me.s.sst ||| 0 = s.me.s.sst from BitVec.or_zero]
  rfl

/-- An STS that leads nowhere, or to the descriptors, is dropped. -/
theorem retires_sts {o : SpLoc} (hl : (s.me.spRange s.curN false (spAddr (s.me.xr a) imm)).1 = o)
    (ho : o = .out ∨ ∃ j x, o = .desc j x) :
    Retires (.sts st d a imm) s (fun c => { c with s := { c.s with sst := c.s.sst ||| 0x4000#64 } }) := by
  have hs := Core.spPieces_of_aligned s.me s.curN (spAddr_aligned (s.me.xr a) imm) (spAddr_lt _ _) 1
  rw [hl] at hs
  have he : s.storeSp (spAddr (s.me.xr a) imm) (s.me.xr d) = (s.onCore s.curN (fun c => c.oox true)).retire := by
    unfold State.storeSp
    rw [hs]
    obtain rfl | ⟨j, x, rfl⟩ := ho <;> rfl
  have hc : CoreIs s.curN _ s (s.onCore s.curN (fun c => c.oox true)).retire :=
    ((CoreIs.refl s.curN s).onCore (fun c => c.oox true)).onCore Core.advance
  rw [← he] at hc
  exact ⟨_, rfl, hc.1, hc.me⟩

/-- SPS (R102). -/
theorem does_sps (slot : BitVec 10) : Does (.sps st d slot) s (fun t =>
    (∀ j : BitVec 10, Sparse.get 0 t.me.s.spill j.toNat = if j = slot then s.me.xr d else Sparse.get 0 s.me.s.spill j.toNat) ∧
    NextWord s t ∧ OnlyCore s.curN s t ∧
    t.me = { s.me with s := { s.me.s with spill := t.me.s.spill, pc := t.me.s.pc, st := t.me.s.st } }) := by
  refine ⟨_, rfl, fun j => ?_, ⟨?_, ?_⟩, onlyCore_setMe _ _, ?_⟩ <;> rw [State.me_setMe]
  · exact (Sparse.get_put _ _ _ _).trans (if_congr BitVec.toNat_inj rfl rfl)
  all_goals rfl

end

/-- Settles O14: an aligned doubleword is one piece, whose range says what it reads as and where it is stored. -/
theorem scratchpadAndSpillAccess : Obligations.ScratchpadAndSpillAccess := by
  intro st d a imm slot s p lds sts window o rank sib there outside plainAt readsAt storesAt drops
  have h8 : p % 8 = 0 := spAddr_aligned (s.me.xr a) imm
  have hp : p < 2 ^ 64 := spAddr_lt (s.me.xr a) imm
  have hown : p < 0x300000 → s.me.spRange s.curN false p = spOwn s.curN p := s.me.spRange_own s.curN p
  have hsib : there → s.me.spRange s.curN false p = spOwn sib o := fun ⟨⟨h1, h2⟩, ho, hr⟩ =>
    s.me.spRange_sibling s.curN p h1 h2 ho hr
  have hout : outside → s.me.spRange s.curN false p = (.out, 512 - p % 512) := s.me.spRange_out s.curN p
  have hreads (hq : Prompt s s.curN false) (hb : NoBuffer s s.curN) (k x : Nat)
      (hk : x < 0x300000 → s.me.spRange s.curN false p = spOwn k x) : readsAt k x := by
    refine ⟨fun hx hbad hpois => ?_, fun h1 h2 => ?_, fun n j hn hj hx => ?_⟩
    · have hl : (s.me.spRange s.curN false p).1 = .mem k x := by rw [hk (by omega), spOwn_mem k hx]
      exact loadsX_lds hq (spRead_mem h8 hp hb hl hbad hpois)
    · have hl : (s.me.spRange s.curN false p).1 = .out := by rw [hk (by omega), spOwn_reserved k h1 h2]
      exact loadsX_lds hq (spRead_out h8 hp hl)
    · have hl : (s.me.spRange s.curN false p).1 = .desc k (32 * n + 8 * j) := by
        rw [hk (by omega), spOwn_desc k (by omega), hx, Nat.add_assoc, Nat.add_sub_cancel_left]
      exact loadsX_lds hq (spRead_desc h8 hp hn hj hl)
  have hstores (k x : Nat) (hk : x < 0x300000 → s.me.spRange s.curN false p = spOwn k x) : storesAt k x := fun hx =>
    entersStore_sts (by rw [show spAddr (s.me.xr a) imm = p from rfl, hk (by omega), spOwn_mem k hx])
  have hdrops (k x : Nat) (h1 : 0x2FF000 ≤ x) (hk : s.me.spRange s.curN false p = spOwn k x) : drops := by
    by_cases h2 : x < 0x2FFC00
    · exact retires_sts (hk ▸ spOwn_reserved k h1 h2) (.inl rfl)
    · exact retires_sts (hk ▸ spOwn_desc k (Nat.not_lt.1 h2)) (.inr ⟨_, _, rfl⟩)
  refine ⟨fun hq hb => ⟨hreads hq hb _ _ hown, fun h => hreads hq hb _ _ fun _ => hsib h, fun h1 h2 => ?_, fun h => ?_, ?_⟩,
    fun h => entersLoad_lds h, hstores _ _ hown, fun h => hstores _ _ fun _ => hsib h, ?_, writesX_of rfl, does_sps slot⟩
  · exact loadsX_lds hq (spRead_aperture h8 hp (s.me.spRange_aperture s.curN p h1 h2))
  · exact loadsX_lds hq (spRead_out h8 hp (congrArg Prod.fst (hout h)))
  · exact fun ha hi => trapsPoison_lds hq hi ha
  · rintro (⟨h1, h2⟩ | h | ⟨h, h1⟩)
    · exact hdrops _ _ h1 (hown h2)
    · exact retires_sts (congrArg Prod.fst (hout h)) (.inl rfl)
    · exact hdrops _ _ h1 (hsib h)

end Sys2Proof.Machine
end

section
/-! PROOF. What the engines' shared operations leave alone: reads, channels, references, reports (R154-R158, R220, R221). -/

namespace Sys2Proof.Machine

open Sys2Proof

/-! Reading changes no core but its storage. -/

/-- No core differs but in its scratchpad and the V part of its spill store. -/
def CoresRead (s u : State) : Prop :=
  u.cur = s.cur ∧ ∀ i, ∃ m n, u.core i = { s.core i with spad := m, v := { (s.core i).v with spill := n } }

theorem CoresRead.refl (s : State) : CoresRead s s := ⟨rfl, fun _ => ⟨_, _, rfl⟩⟩

theorem CoresRead.trans {s t u : State} (h : CoresRead s t) (h' : CoresRead t u) : CoresRead s u := by
  refine ⟨h'.1.trans h.1, fun i => ?_⟩
  obtain ⟨m, n, h1⟩ := h.2 i
  obtain ⟨p, q, h2⟩ := h'.2 i
  rw [h1] at h2
  exact ⟨p, q, h2⟩

/-- A change outside the cores. -/
theorem CoresRead.of_cores {s u : State} (hc : u.cores = s.cores) (h : u.cur = s.cur) : CoresRead s u := by
  refine ⟨h, fun i => ?_⟩
  have hi : u.core i = s.core i := by
    unfold State.core
    rw [hc]
  exact ⟨_, _, hi⟩

theorem CoresRead.curN {s u : State} (h : CoresRead s u) : u.curN = s.curN := congrArg BitVec.toNat h.1

theorem CoresRead.setSpad (s : State) (j : Nat) (m : Store) : CoresRead s (s.setStoreOf (.sp j) m) := by
  refine ⟨rfl, fun i => ?_⟩
  change ∃ p q, (s.onCore j (fun c => { c with spad := m })).core i = _
  rw [State.core_onCore]
  split
  · next h => subst h; exact ⟨_, _, rfl⟩
  · exact ⟨_, _, rfl⟩

theorem CoresRead.setSpill (s : State) (j : Nat) (m : Store) : CoresRead s (s.setStoreOf (.spill j) m) := by
  refine ⟨rfl, fun i => ?_⟩
  change ∃ p q, (s.onCore j (fun c => c.onV (fun v => { v with spill := m }))).core i = _
  rw [State.core_onCore]
  split
  · next h => subst h; exact ⟨_, _, rfl⟩
  · exact ⟨_, _, rfl⟩

theorem CoresRead.verify_sp (s : State) (j a n : Nat) : CoresRead s (s.verify (.sp j) a n) := by
  refine foldl_keeps (P := fun t => CoresRead s t) ?_ _ _ (CoresRead.refl s)
  intro t q h
  exact (h.trans (CoresRead.setSpad t j _)).trans (CoresRead.of_cores rfl rfl)

theorem CoresRead.verify_spill (s : State) (j a n : Nat) : CoresRead s (s.verify (.spill j) a n) := by
  refine foldl_keeps (P := fun t => CoresRead s t) ?_ _ _ (CoresRead.refl s)
  intro t q h
  exact (h.trans (CoresRead.setSpill t j _)).trans (CoresRead.of_cores rfl rfl)

theorem CoresRead.spPieceBytes (s : State) (k : Nat) (p : SpPiece) : CoresRead s (s.spPieceBytes k p).1 := by
  obtain ⟨loc, pos, addr, n⟩ := p
  cases loc with
  | mem j a => exact CoresRead.verify_sp s j a n
  | spill o => exact CoresRead.verify_spill s k o n
  | desc j o => exact CoresRead.refl s
  | aperture o => exact CoresRead.refl s
  | out => exact CoresRead.refl s

/-- An engine's read of scratchpad. -/
theorem CoresRead.engGet (s : State) (k a n : Nat) : CoresRead s (s.engGet k a n).1 := by
  refine foldl_keeps (P := fun x : State × List PByte => CoresRead s x.1) ?_ _ (s, []) (CoresRead.refl s)
  intro x p h
  exact h.trans (CoresRead.spPieceBytes x.1 k p)

/-! Channels touch no core. -/

theorem CoresRead.inject (s : State) (p : DvPacket) : CoresRead s (s.inject p) := by
  unfold State.inject State.route
  dsimp only
  split
  · exact CoresRead.of_cores rfl rfl
  · exact CoresRead.of_cores rfl rfl

theorem CoresRead.chanPending (s : State) (key : Nat) : CoresRead s (s.chanPending key) := by
  unfold State.chanPending
  extract_lets
  split
  · exact CoresRead.refl s
  · split
    · exact CoresRead.refl s
    · exact CoresRead.of_cores rfl rfl
  · split
    · exact CoresRead.refl s
    · exact CoresRead.trans (CoresRead.of_cores rfl rfl) (CoresRead.inject _ _)

theorem CoresRead.firstCopy (s : State) (key : Nat) (e : Epoch) : CoresRead s (s.firstCopy key e) :=
  (CoresRead.inject s _).trans (CoresRead.of_cores rfl rfl)

theorem CoresRead.releaseRipe (s : State) (key : Nat) : CoresRead s (s.releaseRipe key) := by
  unfold State.releaseRipe
  split
  · exact foldl_keeps (P := fun t => CoresRead s t) (fun t e h => h.trans (CoresRead.firstCopy t key e)) _ _ (CoresRead.refl s)
  · exact CoresRead.refl s

theorem CoresRead.chanStep (s : State) (key : Nat) : CoresRead s (s.chanStep key) :=
  (CoresRead.chanPending s key).trans (CoresRead.releaseRipe _ key)

/-! The issue of a command. -/

section
variable {s u : State} {k : Nat} {f h : Flight}

theorem Flight.cmd_note (f : Flight) (m : Met) : (f.note m).cmd = f.cmd := rfl

/-- What a command leaves as it issues: it stays the command it is, and no core changes but by reads. -/
def IssueKeeps (s : State) (f : Flight) (x : State × Flight) : Prop := CoresRead s x.1 ∧ x.2.cmd = f.cmd

theorem State.dvopenIssue_keeps {ch : BitVec 12} {dev : BitVec 22} {win : BitVec 16} :
    IssueKeeps s f (s.dvopenIssue k ch dev win f) := by
  unfold State.dvopenIssue
  extract_lets
  split
  · exact ⟨CoresRead.trans (CoresRead.of_cores rfl rfl) (CoresRead.inject _ _), rfl⟩
  · exact ⟨CoresRead.refl s, rfl⟩

theorem State.dvwIssue_keeps {ch : BitVec 12} {woff : BitVec 32} {spa len : BitVec 13} :
    OptKeeps (IssueKeeps s f) (s.dvwIssue k ch woff spa len f) := by
  unfold State.dvwIssue
  extract_lets
  split
  · exact OptKeeps.some ⟨CoresRead.refl s, rfl⟩
  · exact OptKeeps.ite trivial (OptKeeps.some ⟨CoresRead.of_cores rfl rfl, rfl⟩)

theorem State.pendIssue_keeps {ch : BitVec 12} {p : ChanPend} : IssueKeeps s f (s.pendIssue k ch p f) := by
  unfold State.pendIssue
  extract_lets
  split
  · exact ⟨CoresRead.refl s, rfl⟩
  · exact ⟨CoresRead.trans (CoresRead.of_cores rfl rfl) (CoresRead.chanStep _ _), rfl⟩

theorem State.issueCmd_keeps : OptKeeps (IssueKeeps s f) (s.issueCmd k f) := by
  have plain : ∀ {g : Flight}, g.cmd = f.cmd → IssueKeeps s f (s, g) := fun hg => ⟨CoresRead.refl s, hg⟩
  unfold State.issueCmd
  extract_lets
  split
  · exact OptKeeps.ite (plain rfl) trivial
  · exact OptKeeps.ite (plain rfl) trivial
  · exact OptKeeps.ite (plain rfl) trivial
  · exact OptKeeps.ite (plain rfl) trivial
  · exact OptKeeps.ite (OptKeeps.some ⟨CoresRead.engGet s k _ _, rfl⟩) trivial
  · exact OptKeeps.ite trivial (plain rfl)
  · exact OptKeeps.ite trivial (plain rfl)
  · exact OptKeeps.ite trivial (plain rfl)
  · exact OptKeeps.some ⟨CoresRead.engGet s k _ _, rfl⟩
  · exact OptKeeps.some ⟨CoresRead.engGet s k _ _, rfl⟩
  · exact State.dvopenIssue_keeps
  · exact State.dvwIssue_keeps
  · exact State.pendIssue_keeps
  · exact State.pendIssue_keeps
  · exact plain rfl

end

/-! Semaphores (R220, R221). -/

section
variable (c : Core) (ss ws j : SemId) (err : Bool) (g : Agent)

theorem Core.sem_raise : (c.raise ss err).sem j.toNat = c.semRaised ss err j := by
  unfold Core.raise Core.semRaised
  by_cases hs : ss = 0#6
  · rw [if_pos hs, if_neg (fun h => h.2 hs)]
  · rw [if_neg hs]
    have hput (m : Sem) : Sparse.get {} (Sparse.put {} c.sems ss.toNat m) j.toNat = if j = ss then m else c.sem j.toNat :=
      (Sparse.get_put _ _ _ _).trans (if_congr BitVec.toNat_inj rfl rfl)
    refine (hput _).trans ?_
    by_cases hj : j = ss
    · subst hj
      rw [if_pos (rfl : j = j), if_pos (And.intro (rfl : j = j) hs), Sem.raised]
      by_cases hf : (c.sem j.toNat).count = 0xFFFF#16
      · simp [hf]
      · simp [hf, beq_eq_false_iff_ne.2 hf]
    · rw [if_neg hj, if_neg (fun h => hj h.1)]

/-- A raise sets the event latch, and changes no more than that and the semaphore. -/
theorem Core.raise_eq : c.raise ss err =
    { c with sems := (c.raise ss err).sems, s := { c.s with latch := (c.raise ss err).s.latch } } := by
  unfold Core.raise
  split <;> rfl

/-- A core once a command has consumed its WS, where it names one. -/
def Core.consumed : Core := if ws = 0#6 then c else (c.await ws g true).1

theorem Core.consumed_eq : c.consumed ws g = { c with sems := (c.consumed ws g).sems, waiters := (c.consumed ws g).waiters } := by
  unfold Core.consumed
  split <;> rfl

theorem Core.sem_consumed : (c.consumed ws g).sem j.toNat = c.semAfter ws 0#6 j := by
  have ha : c.semAfter ws 0#6 j =
      if j = ws ∧ ws ≠ 0#6 then { count := (c.sem j.toNat).count - 1#16, err := false } else c.sem j.toNat :=
    if_neg (fun h => h.2 rfl)
  rw [ha]
  by_cases hw : ws = 0#6
  · rw [Core.consumed, if_pos hw, if_neg (fun h => h.2 hw)]
  · rw [Core.consumed, if_neg hw]
    refine (Sparse.get_put _ _ _ _).trans ?_
    by_cases hj : j = ws
    · subst hj
      rw [if_pos rfl, if_pos (And.intro (rfl : j = j) hw)]
      simp
    · rw [if_neg (fun h => hj (BitVec.toNat_inj.1 h)), if_neg (fun h => hj h.1)]
      rfl

end

/-! Engines and what they hold. -/

section
variable (c : Core) (e : EngineSel) (f : Option Flight) (g : Engine) (l : List Flight)

theorem Core.flight_setFlight : (c.setFlight e f).flight e = f := by cases e <;> rfl

theorem Core.engine_setFlight (r : RingSel) : (c.setFlight e f).engine r = c.engine r := by cases e <;> cases r <;> rfl

theorem Core.setFlight_eq : c.setFlight e f = { c with m := (c.setFlight e f).m, c := (c.setFlight e f).c } := by cases e <;> rfl

theorem Core.setFlight_same (h : c.flight e = f) : c.setFlight e f = c := by
  subst h
  cases e <;> rfl

theorem Core.engine_setEngine (r : RingSel) : (c.setEngine r g).engine r = g := by cases r <;> rfl

theorem Core.setEngine_eq :
    c.setEngine (ringOf e) g = { c with m := (c.setEngine (ringOf e) g).m, c := (c.setEngine (ringOf e) g).c } := by cases e <;> rfl

theorem Core.flight_setEngine : (c.setEngine (ringOf e) g).flight e = c.flight e := by cases e <;> rfl

theorem Core.takenOf_setTaken : (c.setTaken e l).takenOf e = l := by cases e <;> rfl

theorem Core.engine_setTaken : (c.setTaken e l).engine (ringOf e) = c.engine (ringOf e) := by cases e <;> rfl

theorem Core.setTaken_eq : c.setTaken e l = { c with m := (c.setTaken e l).m, c := (c.setTaken e l).c } := by cases e <;> rfl

theorem Core.takenOf_setEngine : (c.setEngine (ringOf e) g).takenOf e = c.takenOf e := by cases e <;> rfl

end

/-! A command that synchronises (R173). -/

theorem Engine.inner_eq_false (g : Engine) : g.inner = false ↔ ∀ l, l ∈ g.loops → l.left ≤ 1 := by
  simp [Engine.inner]

theorem cmdWords_of_sync {e : EngineSel} {i : Instr} (h : IsCommand e i) {x : Bool} (hx : syncOf i = some x) :
    cmdWords e i = 2 := by
  obtain ⟨hs, -, -⟩ := h
  cases i with
  | msync ws ss y => cases e <;> rfl
  | csync ws ss y => cases e <;> rfl
  | _ => cases hx

section
variable (c : Core) (e : EngineSel) (i : Instr)

theorem Core.passSync_of_none (h : syncOf i = none) : c.passSync e i = c := by
  unfold Core.passSync
  rw [h]

/-- A synchronising command is passed, and ends its program with E unless an iteration is to follow. -/
theorem Core.engine_passSync (h : IsCommand e i) {x : Bool} (hx : syncOf i = some x) :
    (c.passSync e i).engine (ringOf e) =
      if x = true ∧ ∀ l, l ∈ (c.engine (ringOf e)).loops → l.left ≤ 1 then
        { (c.engine (ringOf e)).advance 2 with st := .ended }
      else (c.engine (ringOf e)).advance 2 := by
  have hp : (c.passCmd e i).engine (ringOf e) = (c.engine (ringOf e)).advance 2 := by
    rw [Core.passCmd, Core.engine_setEngine, cmdWords_of_sync h hx]
  unfold Core.passSync
  rw [hx]
  dsimp only
  by_cases hc : x = true ∧ ∀ l, l ∈ (c.engine (ringOf e)).loops → l.left ≤ 1
  · have hi := (Engine.inner_eq_false _).2 hc.2
    rw [if_pos hc, if_pos (by rw [hc.1, hi]; rfl), Core.endEngine, hp]
    exact (c.passCmd e i).engine_setEngine _ (ringOf e)
  · have hi : ¬ (x && !(c.engine (ringOf e)).inner) = true := fun h => by
      rw [Bool.and_eq_true, Bool.not_eq_true'] at h
      exact hc ⟨h.1, (Engine.inner_eq_false _).1 h.2⟩
    rw [if_neg hc, if_neg hi, hp]

theorem Core.passSync_eq : c.passSync e i = { c with
    m := (c.passSync e i).m, c := (c.passSync e i).c, s := { c.s with latch := (c.passSync e i).s.latch } } := by
  unfold Core.passSync
  split
  · rfl
  · dsimp only
    split
    · cases e <;> rfl
    · cases e <;> rfl

theorem Core.flight_passSync : (c.passSync e i).flight e = c.flight e := by
  unfold Core.passSync
  split
  · rfl
  · dsimp only
    split
    · cases e <;> rfl
    · cases e <;> rfl

end

/-! The completion word (R157). -/

theorem leNat_leBytes_four (w : Nat) : leNat (leBytes 4 w) = w % 2 ^ 32 := by
  simp only [leBytes, leNat, BitVec.toNat_ofNat]
  omega

theorem length_leBytes (n w : Nat) : (leBytes n w).length = n := by
  induction n generalizing w with
  | zero => rfl
  | succ n ih => rw [leBytes, List.length_cons, ih]

/-- A store of four bytes to the own scratchpad by an engine. -/
def wordStore (k a w : Nat) : VisStore := ⟨[⟨.sp k, a, a, a, clean (leBytes 4 w), [], none⟩], .c⟩

theorem Core.engPieces_word (c : Core) (k : Nat) {a : Nat} (h : a + 4 ≤ 0x2FF000) :
    c.engPieces k a 4 = [⟨.mem k a, 0, a, 4⟩] := by
  have hr : c.spRange k false a = (.mem k a, 0x2FF000 - a) := by
    rw [c.spRange_own k a (by omega), spOwn, if_pos (by omega)]
  have ha : a % 2 ^ 64 = a := Nat.mod_eq_of_lt (by omega)
  have hn : min 4 (0x2FF000 - a) = 4 := by omega
  have hp : c.spPieces k false 3 0 a 4 = [⟨.mem k a, 0, a, 4⟩] := by
    simp only [Core.spPieces, ha, hr, hn]
    rfl
  rw [Core.engPieces, hp]
  rfl

theorem State.engPut_word (s : State) (k w : Nat) {a : Nat} (h : a + 4 ≤ 0x2FF000) :
    (s.engPut k a (clean (leBytes 4 w))).1 = s.onCore k (fun c => c.pushBuffer (wordStore k a w)) := by
  have hl : (clean (leBytes 4 w)).length = 4 := by rw [clean, List.length_map, length_leBytes]
  have ht : (clean (leBytes 4 w)).take 4 = clean (leBytes 4 w) := List.take_of_length_le (Nat.le_of_eq hl)
  simp only [State.engPut, hl, Core.engPieces_word _ k h, spSegs, List.filterMap_cons, List.filterMap_nil, List.drop_zero, ht]
  rfl

theorem State.engPut_coreIs (s : State) (k a : Nat) (d : List PByte) :
    ∃ b, CoreIs k { s.core k with buffer := b } s (s.engPut k a d).1 := by
  unfold State.engPut State.engStore
  dsimp only
  split
  · exact ⟨_, CoreIs.refl k s⟩
  · exact ⟨_, (CoreIs.refl k s).onCore _⟩

/-- A report changes SST and what stands at core scope alone; above the descriptors' base it is a store of the completion word. -/
theorem State.report_spec (s : State) (k : Nat) (e : EngineSel) (code op : Nat) (reloc : Bool) (addr : Nat) (ss : SemId) :
    let base := ((s.core k).engine (ringOf e)).base
    ∃ x b, CoreIs k { s.core k with s := { (s.core k).s with sst := x }, buffer := b } s (s.report k e code op reloc addr ss) ∧
      (0x100 ≤ base → base - 0x100 + 4 * ss.toNat + 4 ≤ 0x2FF000 →
        b = (s.core k).buffer ++ [wordStore k (base - 0x100 + 4 * ss.toNat) (code * 2 ^ 28 + op % 32 * 2 ^ 23 +
          (if reloc then 2 ^ 22 else 0) + addr % 2 ^ 22)]) := by
  intro base
  unfold State.report
  dsimp only
  by_cases hb : base < 0x100
  · rw [if_pos hb]
    exact ⟨_, _, (CoreIs.refl k s).onCore _, fun h => absurd h (Nat.not_le.2 hb)⟩
  · rw [if_neg hb]
    by_cases ha : base - 0x100 + 4 * ss.toNat + 4 ≤ 0x2FF000
    · rw [State.engPut_word s k _ ha]
      exact ⟨_, _, (CoreIs.refl k s).onCore _, fun _ _ => rfl⟩
    · obtain ⟨b, h⟩ := s.engPut_coreIs k (base - 0x100 + 4 * ss.toNat)
        (clean (leBytes 4 (code * 2 ^ 28 + op % 32 * 2 ^ 23 + (if reloc then 2 ^ 22 else 0) + addr % 2 ^ 22)))
      exact ⟨_, b, h, fun _ h => absurd h ha⟩

/-- The bytes of a word that an engine has stored, where no other store stands in a buffer. -/
theorem spSeen_word {s t : State} {c : Core} {a w : Nat} (h : CoreIs s.curN c s t) (hn : NoBuffer s s.curN)
    (hp : c.panel = s.me.panel) (hb : c.buffer = s.me.buffer ++ [wordStore s.curN a w]) :
    leNat (t.spSeen a 4) = w % 2 ^ 32 := by
  have hs : (if c.panel.size = 0#5 then [] else (t.panel (c.panelBase s.curN)).buffer.map (fun x => x.2)) = [] := by
    split
    · rfl
    · next hz =>
      have hpan : t.panel (c.panelBase s.curN) = s.panel (s.me.panelBase s.curN) := by
        rw [h.1.1]
        simp only [Core.panelBase, hp]
        rfl
      have hbuf : (s.panel (s.me.panelBase s.curN)).buffer = [] := hn.2 (by rwa [hp] at hz)
      rw [hpan, hbuf]
      rfl
  have hsee (i : Nat) : t.sees s.curN (.sp s.curN) (a + i) =
      siteAfter (.sp s.curN) [wordStore s.curN a w] (fun x => Sparse.get 0 (t.storeOf (.sp s.curN)).bytes x) (a + i) := by
    simp only [State.sees, h.2, hs, hb, show s.me.buffer = [] from hn.1, List.nil_append]
  have hbyte (i : Nat) (hi : i < 4) : t.sees s.curN (.sp s.curN) (a + i) = (leBytes 4 w).getD i 0 := by
    rw [hsee]
    have hl : (clean (leBytes 4 w)).length = 4 := by rw [clean, List.length_map, length_leBytes]
    simp only [siteAfter, wordStore, List.flatMap_cons, List.flatMap_nil, List.append_nil, List.foldl_cons, List.foldl_nil, hl]
    rw [if_pos ⟨trivial, Nat.le_add_right _ _, by omega⟩, Nat.add_sub_cancel_left]
    simp only [clean, List.getD_eq_getElem?_getD, List.getElem?_map]
    cases (leBytes 4 w)[i]? <;> rfl
  have : t.spSeen a 4 = leBytes 4 w := by
    rw [State.spSeen, h.1.curN]
    have h4 : (List.range 4).map (fun i => t.sees s.curN (.sp s.curN) (a + i)) =
        (List.range 4).map (fun i => (leBytes 4 w).getD i 0) :=
      List.map_congr_left fun i hi => hbyte i (List.mem_range.1 hi)
    exact h4
  rw [this, leNat_leBytes_four]

end Sys2Proof.Machine
end

section
/-! PROOF. How engine commands begin and end, and the loops and aperture copies (R154-R158, R172, R177, R185). -/

namespace Sys2Proof.Machine

open Sys2Proof

/-! A command goes on. -/

/-- A command of an engine goes on in its engine. -/
theorem exec_command {e : EngineSel} {i : Instr} (h : IsCommand e i) (s : State) : exec i s = .next (s.command e i) := by
  obtain ⟨hs, hm, hc⟩ := h
  cases e with
  | m =>
    cases i with
    | msync => rfl
    | mma => rfl
    | mmap => rfl
    | mzero => rfl
    | mdrain => rfl
    | mldacc => rfl
    | mfmt => rfl
    | mchk => rfl
    | mloop n k => exact absurd rfl (hm n k)
    | _ => cases hs
  | c =>
    cases i with
    | csync => rfl
    | copy => rfl
    | copyt => rfl
    | imwin => rfl
    | gather => rfl
    | scatter => rfl
    | fill => rfl
    | sketch => rfl
    | pcopy => rfl
    | dvopen => rfl
    | dvw => rfl
    | dvrel => rfl
    | dvshut => rfl
    | cflush => rfl
    | cloop n k => exact absurd rfl (hc n k)
    | _ => cases hs

theorem opOf_lt (i : Instr) : opOf i < 32 := by
  unfold opOf
  split <;> decide

theorem Codes.first_lt (c : Codes) : c.first < 16 := by
  unfold Codes.first
  split_ifs <;> decide

section
variable {s u : State} {k n : Nat} {e : EngineSel} {f g : Flight}

theorem State.runCmd_of_hold (hn : 0 < n) (h : s.phaseCmd k e f = .hold u g) : State.runCmd n s k e f = (u, some g) := by
  obtain ⟨m, rfl⟩ := Nat.exists_eq_succ_of_ne_zero (Nat.ne_of_gt hn)
  simp only [State.runCmd, h]

theorem State.runCmd_of_fin (hn : 0 < n) (h : s.phaseCmd k e f = .fin u g) : State.runCmd n s k e f = (u, none) := by
  obtain ⟨m, rfl⟩ := Nat.exists_eq_succ_of_ne_zero (Nat.ne_of_gt hn)
  simp only [State.runCmd, h]

/-- What ends a command whose work is done. -/
def State.endCmd (s : State) (k : Nat) (e : EngineSel) (f : Flight) : State :=
  if f.codes.illegal then s.illegalCmd k e (opOf f.cmd) (semsOf f.cmd).2 else s.completeCmd k e f

/-- A command whose work is done ends. -/
theorem State.runCmd_of_done (hn : 0 < n) (h : f.st = .done) : State.runCmd n s k e f = (s.endCmd k e f, none) := by
  refine State.runCmd_of_fin (g := f) hn ?_
  unfold State.phaseCmd State.endCmd
  rw [h]
  dsimp only
  split <;> rfl

end

/-! A command ends (R155-R157, R220, R221). -/

section
variable {s : State} {k : Nat} {e : EngineSel} {f : Flight}

/-- A command with no slot and no discarded store leaves; its token has other holders. -/
theorem State.leaveCmd_spec (hs : f.slot = none) (hd : f.dscVa = none)
    (ht : ∀ x, f.tok = some x → 1 < ((s.core k).mte x.idx.toNat).refs) :
    CoreIs k ((((s.core k).giveUp f.tok).oox f.oox).dscw f.dscw) s (s.leaveCmd k f) := by
  have hr := State.release_of_others ht
  unfold State.leaveCmd
  rw [hs, hd]
  exact hr.onCore _

/-- The flags that a leaving command sets are all that changes with its token's reference. -/
theorem Core.left_eq (c : Core) (t : Option Tok) (x y : Bool) :
    ((c.giveUp t).oox x).dscw y =
      { c with mtes := (c.giveUp t).mtes, s := { c.s with sst := (((c.giveUp t).oox x).dscw y).s.sst } } := by
  cases t <;> cases x <;> cases y <;> rfl

/-- A core once a command has left it: `x` in SST, the stores `b` at core scope, the mortise table `ms`, SS raised. -/
def Core.ended (c : Core) (x : Word) (b : List VisStore) (ms : Sparse Mte) (ss : SemId) (err : Bool) : Core :=
  { c with mtes := ms, buffer := b, s := { c.s with sst := x } }.raise ss err

theorem Core.sem_ended (c : Core) (x : Word) (b : List VisStore) (ms : Sparse Mte) (ss : SemId) (err : Bool) (j : SemId) :
    (c.ended x b ms ss err).sem j.toNat = c.semRaised ss err j := Core.sem_raise _ ss j err

theorem Core.ended_eq (c : Core) (x : Word) (b : List VisStore) (ms : Sparse Mte) (ss : SemId) (err : Bool) :
    c.ended x b ms ss err = { c with
      mtes := ms, buffer := b, sems := (c.ended x b ms ss err).sems
      s := { c.s with sst := x, latch := (c.ended x b ms ss err).s.latch } } := by
  unfold Core.ended
  exact Core.raise_eq _ ss err

theorem Core.engine_ended (c : Core) (x : Word) (b : List VisStore) (ms : Sparse Mte) (ss : SemId) (err : Bool) (e : EngineSel) :
    (c.ended x b ms ss err).engine (ringOf e) = c.engine (ringOf e) := by
  rw [Core.ended_eq]
  cases e <;> rfl

/-- The completion word of a command (R157). -/
def completionWord (code : Nat) (f : Flight) : Nat :=
  code * 2 ^ 28 + opOf f.cmd % 32 * 2 ^ 23 + (if f.taker.isSome then 2 ^ 22 else 0) + f.addr % 2 ^ 22

theorem completionWord_lt (c : Codes) (f : Flight) : completionWord c.first f < 2 ^ 32 := by
  have h1 := c.first_lt
  have h2 := opOf_lt f.cmd
  have h3 : f.addr % 2 ^ 22 < 2 ^ 22 := Nat.mod_lt _ (by decide)
  unfold completionWord
  split <;> omega

/-- Where an engine's completion word for a semaphore lies (R157). -/
def Engine.wordAt (g : Engine) (ss : SemId) : Nat := g.base - 0x100 + 4 * ss.toNat

/-- A command completes: it gives its token's reference up, writes its completion word where it has a code, raises SS, and is passed
where it synchronises. -/
theorem State.completeCmd_spec (hs : f.slot = none) (hd : f.dscVa = none)
    (ht : ∀ x, f.tok = some x → 1 < ((s.core k).mte x.idx.toNat).refs) :
    ∃ x b, CoreIs k ((((s.core k).ended x b ((s.core k).giveUp f.tok).mtes (semsOf f.cmd).2
        (decide (f.codes.first ≠ 0) || f.err))).passSync e f.cmd) s (s.completeCmd k e f) ∧
      (f.codes.first ≠ 0 → 0x100 ≤ ((s.core k).engine (ringOf e)).base →
        ((s.core k).engine (ringOf e)).wordAt (semsOf f.cmd).2 + 4 ≤ 0x2FF000 →
        b = (s.core k).buffer ++ [wordStore k (((s.core k).engine (ringOf e)).wordAt (semsOf f.cmd).2)
          (completionWord f.codes.first f)]) := by
  have hl := State.leaveCmd_spec hs hd ht
  rw [Core.left_eq] at hl
  have he : (f.codes.first != 0 || f.err) = (decide (f.codes.first ≠ 0) || f.err) := by
    by_cases h : f.codes.first = 0 <;> simp [h]
  unfold State.completeCmd
  dsimp only
  rw [he]
  by_cases h0 : f.codes.first = 0
  · rw [if_pos h0]
    exact ⟨_, (s.core k).buffer, hl.onCore _, fun h => absurd h0 h⟩
  · rw [if_neg h0]
    obtain ⟨x, b, hr, hb⟩ := (s.leaveCmd k f).report_spec k e f.codes.first (opOf f.cmd) f.taker.isSome f.addr (semsOf f.cmd).2
    rw [hl.2] at hr hb
    have hg : Core.engine { s.core k with
        mtes := ((s.core k).giveUp f.tok).mtes
        s := { (s.core k).s with sst := ((((s.core k).giveUp f.tok).oox f.oox).dscw f.dscw).s.sst } } (ringOf e) =
      (s.core k).engine (ringOf e) := by cases e <;> rfl
    rw [hg] at hb
    exact ⟨x, b, (hl.trans hr).onCore _, fun _ => hb⟩

/-- An illegal command ends: its completion word, SS with the error flag, the engine stopped. -/
theorem State.illegalCmd_spec (op : Nat) (ss : SemId) :
    let g := (s.core k).engine (ringOf e)
    ∃ x b, CoreIs k (((s.core k).ended x b (s.core k).mtes ss true).stopEngine (ringOf e)) s (s.illegalCmd k e op ss) ∧
      (0x100 ≤ g.base → g.wordAt ss + 4 ≤ 0x2FF000 → b = (s.core k).buffer ++ [wordStore k (g.wordAt ss)
        (1 * 2 ^ 28 + op % 32 * 2 ^ 23 + 0 + (g.addrOf g.rp) % 2 ^ 22)]) := by
  intro g
  obtain ⟨x, b, hr, hb⟩ := s.report_spec k e 1 op false (g.addrOf g.rp) ss
  exact ⟨x, b, hr.onCore (fun c => (c.raise ss true).stopEngine (ringOf e)), hb⟩

end

theorem Core.stopEngine_eq (c : Core) (e : EngineSel) : c.stopEngine (ringOf e) = { c with
    m := (c.stopEngine (ringOf e)).m, c := (c.stopEngine (ringOf e)).c
    s := { c.s with pendEng := true, latch := true } } := by
  cases e <;> rfl

theorem Core.engine_stopEngine (c : Core) (e : EngineSel) :
    (c.stopEngine (ringOf e)).engine (ringOf e) = { c.engine (ringOf e) with st := .stopped } := by
  cases e <;> rfl

/-! ENGINE_COMMAND_COMPLETE, and a command that goes on in its engine, once its work is done. -/

section
variable {s : State} {core : CoreId} {e : EngineSel} {i q : Instr} {f : Flight}

theorem exec_of_done (hc : s.curN = core.toNat) (hq : q = i ∨ (q = .engineCommandComplete core e ∧ s.held s.curN = false))
    (hi : IsCommand e i) (hb : 0 < s.budget) (hf : s.me.flight e = some f) (hd : f.st = .done) :
    ∃ s', CoreIs s.curN s.me s s' ∧
      exec q s = .next ((s'.endCmd s.curN e f).onCore s.curN (fun c => c.setFlight e none)) := by
  obtain rfl | ⟨rfl, hh⟩ := hq
  · refine ⟨s.setMe (s.me.setFlight e (some f)), ?_, ?_⟩
    · have h := (CoreIs.refl s.curN s).setCore (s.me.setFlight e (some f))
      rw [Core.setFlight_same _ _ _ hf] at h ⊢
      exact h
    · rw [exec_command hi]
      simp only [State.command, hf, Option.getD_some, State.runCmd_of_done hb hd]
  · refine ⟨s, CoreIs.refl _ s, ?_⟩
    have hf' : (s.core s.curN).flight e = some f := hf
    change execEngineCommandComplete core e s = _
    unfold execEngineCommandComplete State.runFlight
    dsimp only
    rw [← hc, hh, hf']
    simp [hd, State.runCmd_of_done hb hd]

/-- The outcome of such a step: the engine holds no command, and else the core is `c`. -/
theorem exec_of_done_of {x : Core → Prop} (hc : s.curN = core.toNat)
    (hq : q = i ∨ (q = .engineCommandComplete core e ∧ s.held s.curN = false)) (hi : IsCommand e i) (hb : 0 < s.budget)
    (hf : s.me.flight e = some f) (hd : f.st = .done)
    (hend : ∀ s', CoreIs s.curN s.me s s' → ∃ c, CoreIs s.curN c s (s'.endCmd s.curN e f) ∧ x c) :
    Does q s (fun t => ∃ c, CoreIs s.curN (c.setFlight e none) s t ∧ x c) := by
  obtain ⟨s', hs, he⟩ := exec_of_done hc hq hi hb hf hd
  obtain ⟨c, h, hx⟩ := hend s' hs
  exact ⟨_, he, c, h.onCore _, hx⟩

/-- A command that is done, is not illegal, fills no slot and has dropped no store, ends: SS is raised with its error flag, the read
pointer passes one that synchronises, and a code is reported (R157, R173, R220, R221). -/
theorem does_complete (hc : s.curN = core.toNat) (hq : q = i ∨ (q = .engineCommandComplete core e ∧ s.held s.curN = false))
    (hi : IsCommand e i) (hb : 0 < s.budget) (hn : NoBuffer s s.curN) (hf : s.me.flight e = some f) (hcmd : f.cmd = i)
    (hd : f.st = .done) (hs : f.slot = none) (hv : f.dscVa = none) (hl : f.codes.illegal = false)
    (ht : ∀ x, f.tok = some x → 1 < (s.me.mte x.idx.toNat).refs) :
    let g := s.me.engine (ringOf e)
    let ss := (semsOf i).2
    Does q s (fun t => t.me.flight e = none ∧
      (∀ j : SemId, t.me.sem j.toNat = s.me.semRaised ss (decide (f.codes.first ≠ 0) || f.err) j) ∧
      (syncOf i = none → t.me.engine (ringOf e) = g) ∧
      (∀ x, syncOf i = some x → t.me.engine (ringOf e) =
        if x = true ∧ ∀ l, l ∈ g.loops → l.left ≤ 1 then { g.advance 2 with st := .ended } else g.advance 2) ∧
      (∀ j, t.me.mte j = (s.me.giveUp f.tok).mte j) ∧
      (f.codes.first ≠ 0 → 0x100 ≤ g.base → g.wordAt ss + 4 ≤ 0x2FF000 →
        leNat (t.spSeen (g.wordAt ss) 4) = completionWord f.codes.first f)) := by
  intro g ss
  obtain ⟨t, he, c, ht, x, b, rfl, hw⟩ := exec_of_done_of (x := fun c => ∃ x b,
      c = (s.me.ended x b (s.me.giveUp f.tok).mtes ss (decide (f.codes.first ≠ 0) || f.err)).passSync e i ∧
      (f.codes.first ≠ 0 → 0x100 ≤ g.base → g.wordAt ss + 4 ≤ 0x2FF000 →
        b = s.me.buffer ++ [wordStore s.curN (g.wordAt ss) (completionWord f.codes.first f)])) hc hq hi hb hf hd
    fun s' h => by
      obtain ⟨x, b, h1, h2⟩ := State.completeCmd_spec (s := s') (k := s.curN) (e := e) hs hv (by rw [h.2]; exact ht)
      rw [h.2, hcmd] at h1 h2
      refine ⟨_, h.trans ?_, x, b, rfl, h2⟩
      rw [State.endCmd, hl, if_neg Bool.false_ne_true]
      exact h1
  have hm := ht.me
  refine ⟨t, he, ?_, fun j => ?_, fun hx => ?_, fun y hy => ?_, fun j => ?_, fun h1 h2 h3 => ?_⟩
  · rw [hm, Core.flight_setFlight]
  · rw [hm, Core.setFlight_eq, Core.passSync_eq]
    exact Core.sem_ended _ _ _ _ _ _ j
  · rw [hm, Core.engine_setFlight, Core.passSync_of_none _ _ _ hx, Core.engine_ended]
  · rw [hm, Core.engine_setFlight, Core.engine_passSync _ _ _ hi hy, Core.engine_ended]
  · rw [hm, Core.setFlight_eq, Core.passSync_eq, Core.ended_eq]
    rfl
  · rw [spSeen_word ht hn ?_ ?_]
    · exact Nat.mod_eq_of_lt (completionWord_lt f.codes f)
    · rw [Core.setFlight_eq, Core.passSync_eq, Core.ended_eq]
    · rw [Core.setFlight_eq, Core.passSync_eq, Core.ended_eq]
      exact hw h1 h2 h3

/-- An illegal command ends: SS is raised with the error flag, the engine stops, and code 1 is reported (R70, R157). -/
theorem does_illegal (hc : s.curN = core.toNat) (hq : q = i ∨ (q = .engineCommandComplete core e ∧ s.held s.curN = false))
    (hi : IsCommand e i) (hb : 0 < s.budget) (hn : NoBuffer s s.curN) (hf : s.me.flight e = some f) (hcmd : f.cmd = i)
    (hd : f.st = .done) (hl : f.codes.illegal = true) :
    let g := s.me.engine (ringOf e)
    let ss := (semsOf i).2
    Does q s (fun t => t.me.flight e = none ∧ (∀ j : SemId, t.me.sem j.toNat = s.me.semRaised ss true j) ∧
      t.me.engine (ringOf e) = { g with st := .stopped } ∧ t.me.s.pendEng = true ∧ t.me.s.latch = true ∧
      (0x100 ≤ g.base → g.wordAt ss + 4 ≤ 0x2FF000 →
        leNat (t.spSeen (g.wordAt ss) 4) = 2 ^ 28 + opOf i * 2 ^ 23 + (g.base + 4 * g.rp) % 2 ^ 22)) := by
  intro g ss
  obtain ⟨t, he, c, ht, x, b, rfl, hw⟩ := exec_of_done_of (x := fun c => ∃ x b,
      c = (s.me.ended x b s.me.mtes ss true).stopEngine (ringOf e) ∧
      (0x100 ≤ g.base → g.wordAt ss + 4 ≤ 0x2FF000 → b = s.me.buffer ++ [wordStore s.curN (g.wordAt ss)
        (1 * 2 ^ 28 + opOf i % 32 * 2 ^ 23 + 0 + (g.addrOf g.rp) % 2 ^ 22)])) hc hq hi hb hf hd
    fun s' h => by
      obtain ⟨x, b, h1, h2⟩ := State.illegalCmd_spec (s := s') (k := s.curN) (e := e) (opOf i) ss
      rw [h.2] at h1 h2
      refine ⟨_, h.trans ?_, x, b, rfl, h2⟩
      rw [State.endCmd, hl, if_pos rfl, hcmd]
      exact h1
  have hm := ht.me
  refine ⟨t, he, ?_, fun j => ?_, ?_, ?_, ?_, fun h2 h3 => ?_⟩
  · rw [hm, Core.flight_setFlight]
  · rw [hm, Core.setFlight_eq, Core.stopEngine_eq]
    exact Core.sem_ended _ _ _ _ _ _ j
  · rw [hm, Core.engine_setFlight, Core.engine_stopEngine, Core.engine_ended]
  · rw [hm, Core.setFlight_eq]
    rfl
  · rw [hm, Core.setFlight_eq]
    rfl
  · rw [spSeen_word (w := 1 * 2 ^ 28 + opOf i % 32 * 2 ^ 23 + 0 + g.addrOf g.rp % 2 ^ 22) ht hn ?_ ?_]
    · have h5 := opOf_lt i
      have h6 : g.addrOf g.rp % 2 ^ 22 < 2 ^ 22 := Nat.mod_lt _ (by decide)
      change _ = 2 ^ 28 + opOf i * 2 ^ 23 + g.addrOf g.rp % 2 ^ 22
      omega
    · rw [Core.setFlight_eq, Core.stopEngine_eq, Core.ended_eq]
    · rw [Core.setFlight_eq, Core.stopEngine_eq, Core.ended_eq]
      exact hw h2 h3

end

/-! A command begins (R154, R198, R220, R221). -/

section
variable {s u : State} {k : Nat} {e : EngineSel} {i : Instr} {f h : Flight}

/-- A command whose WS lacks a count for it is held, and waits. -/
theorem State.beginCmd_of_waiting (h0 : (semsOf f.cmd).1 ≠ 0#6)
    (hw : ((s.core k).sem (semsOf f.cmd).1.toNat).count.toNat ≤ (s.core k).ahead (semsOf f.cmd).1 (agentOfEngine e)) :
    s.beginCmd k e f = .hold (s.onCore k (fun c => c.beginWait (semsOf f.cmd).1 (agentOfEngine e))) f := by
  have hm : (s.core k).mayAwait (semsOf f.cmd).1 (agentOfEngine e) = false := decide_eq_false (Nat.not_lt.2 hw)
  unfold State.beginCmd
  dsimp only
  rw [hm, if_pos ⟨h0, rfl⟩]

/-- A state in which core `k` has consumed the WS of a command. -/
def State.consumed (s : State) (k : Nat) (e : EngineSel) (i : Instr) : State :=
  s.setCore k ((s.core k).consumed (semsOf i).1 (agentOfEngine e))

/-- A command that has consumed its WS, with the error flag that it took. -/
def Flight.awaited (c : Core) (f : Flight) : Flight :=
  { f with err := decide ((semsOf f.cmd).1 ≠ 0#6) && (c.sem (semsOf f.cmd).1.toNat).err }

/-- Nothing keeps a command from beginning. -/
def Begins (s : State) (k : Nat) (e : EngineSel) (i : Instr) : Prop :=
  ¬ ((semsOf i).1 ≠ 0#6 ∧
    ((s.core k).sem (semsOf i).1.toNat).count.toNat ≤ (s.core k).ahead (semsOf i).1 (agentOfEngine e)) ∧
  s.chanHeld k i = false ∧ (isDovetail i = true → s.twinStop k = none)

/-- A command that has issued, with its token. -/
def State.issued (s : State) (k : Nat) (e : EngineSel) (f : Flight) : Work :=
  let r := s.readTok k f
  .more (if (syncOf f.cmd).isSome then r.1 else r.1.onCore k (fun c => c.passCmd e f.cmd)) { r.2 with st := .issued }

/-- A command that begins is issued, or done where its check refuses it. -/
theorem State.beginCmd_of_begins (hb : Begins s k e f.cmd) :
    ((s.consumed k e f.cmd).issueCmd k (f.awaited (s.core k)) = none → s.beginCmd k e f = .more (s.consumed k e f.cmd)
      { f.awaited (s.core k) with st := .done, codes := { f.codes with illegal := true } }) ∧
    (∀ u h, (s.consumed k e f.cmd).issueCmd k (f.awaited (s.core k)) = some (u, h) → s.beginCmd k e f = u.issued k e h) := by
  obtain ⟨hw, hc, ht⟩ := hb
  have hm : ¬ ((semsOf f.cmd).1 ≠ 0#6 ∧ (!(s.core k).mayAwait (semsOf f.cmd).1 (agentOfEngine e)) = true) := fun h =>
    hw ⟨h.1, by simpa [Core.mayAwait] using h.2⟩
  have htw : (if isDovetail f.cmd then s.twinStop k else none) = none := by
    split
    · exact ht ‹_›
    · rfl
  have ha : (if (semsOf f.cmd).1 = 0#6 then (s.core k, false) else (s.core k).await (semsOf f.cmd).1 (agentOfEngine e) true) =
      ((s.core k).consumed (semsOf f.cmd).1 (agentOfEngine e), (f.awaited (s.core k)).err) := by
    by_cases h0 : (semsOf f.cmd).1 = 0#6
    · simp [h0, Core.consumed, Flight.awaited]
    · simp [h0, Core.consumed, Flight.awaited, Core.await]
  unfold State.beginCmd
  dsimp only
  rw [if_neg hm, hc, if_neg Bool.false_ne_true, htw]
  dsimp only
  rw [ha]
  dsimp only
  have hx : (s.setCore k ((s.core k).consumed (semsOf f.cmd).1 (agentOfEngine e))).issueCmd k
      { f with err := (f.awaited (s.core k)).err } = (s.consumed k e f.cmd).issueCmd k (f.awaited (s.core k)) := rfl
  refine ⟨fun hi => ?_, fun u h hi => ?_⟩
  · rw [hx, hi]
    rfl
  · rw [hx, hi]
    rfl

/-- Another holder of a token's entry (R241). -/
def Core.holdTok (c : Core) (t : Option Tok) : Core :=
  match t with
  | none => c
  | some t => c.setMte t.idx.toNat { c.mte t.idx.toNat with refs := (c.mte t.idx.toNat).refs + 1 }

theorem Core.holdTok_eq (c : Core) (t : Option Tok) : c.holdTok t = { c with mtes := (c.holdTok t).mtes } := by
  cases t <;> rfl

theorem Core.mte_holdTok (c : Core) (t : Option Tok) (n : Nat) : (c.holdTok t).mte n =
    if t.map (fun x => x.idx.toNat) = some n then { c.mte n with refs := (c.mte n).refs + 1 } else c.mte n := by
  cases t with
  | none => rfl
  | some t =>
    simp only [Core.holdTok, Core.mte_setMte, Option.map_some, Option.some.injEq]
    by_cases hn : n = t.idx.toNat
    · subst hn
      simp
    · rw [if_neg hn, if_neg (Ne.symm hn)]

theorem State.coreIs_hold (s : State) (k : Nat) (t : Option Tok) : CoreIs k ((s.core k).holdTok t) s (s.hold k t) := by
  cases t with
  | none => exact CoreIs.refl k s
  | some t =>
    exact (CoreIs.refl k s).onCore (fun c => c.setMte t.idx.toNat { c.mte t.idx.toNat with refs := (c.mte t.idx.toNat).refs + 1 })

/-- A command that has issued reads its token and holds it; one that names none is as it was (R18, R158). -/
def ReadsToken (u t : State) (k : Nat) (i : Instr) (h f : Flight) : Prop :=
  (tokenOf h.tmpl i = none → f = { h with st := .issued } ∧ ∀ n, (t.core k).mte n = (u.core k).mte n) ∧
  ∀ r, tokenOf h.tmpl i = some r → f = { h with
      st := .issued
      tok := (u.core k).tr r
      codes := { h.codes with dead := h.codes.dead || ((u.core k).mteOf ((u.core k).tr r)).st == .dead } } ∧
    ∀ n, (t.core k).mte n = if ((u.core k).tr r).map (fun x => x.idx.toNat) = some n
      then { (u.core k).mte n with refs := ((u.core k).mte n).refs + 1 } else (u.core k).mte n

/-- The core of a command that has issued: a holder more of its token, and passed unless it synchronises. -/
theorem State.issued_spec (u : State) (k : Nat) (e : EngineSel) {h : Flight} (hi : h.cmd = i) :
    ∃ t f ms, u.issued k e h = .more t f ∧ f.cmd = i ∧
      CoreIs k (if syncOf i = none then { u.core k with mtes := ms }.passCmd e i else { u.core k with mtes := ms }) u t ∧
      ReadsToken u t k i h f := by
  subst hi
  have hpass {t : State} {ms : Sparse Mte} (ht : CoreIs k { u.core k with mtes := ms } u t) :
      CoreIs k (if syncOf h.cmd = none then { u.core k with mtes := ms }.passCmd e h.cmd else { u.core k with mtes := ms }) u
        (if (syncOf h.cmd).isSome then t else t.onCore k (fun c => c.passCmd e h.cmd)) := by
    cases hs : syncOf h.cmd with
    | none => exact ht.onCore (fun c => c.passCmd e h.cmd)
    | some x => exact ht
  have hmte {ms : Sparse Mte} {t : State} (ht : CoreIs k (if syncOf h.cmd = none then { u.core k with mtes := ms }.passCmd e h.cmd
      else { u.core k with mtes := ms }) u t) (n : Nat) : (t.core k).mte n = Sparse.get {} ms n := by
    rw [ht.2]
    split
    · rw [Core.passCmd, Core.setEngine_eq]
      rfl
    · rfl
  cases hT : tokenOf h.tmpl h.cmd with
  | none =>
    have hc := hpass (ms := (u.core k).mtes) (CoreIs.refl k u)
    refine ⟨_, { h with st := .issued }, (u.core k).mtes, ?_, rfl, hc, fun _ => ⟨rfl, fun n => hmte hc n⟩, fun r hr => ?_⟩
    · simp only [State.issued, State.readTok, hT]
    · rw [hT] at hr
      cases hr
  | some r =>
    have hh := u.coreIs_hold k ((u.core k).tr r)
    rw [Core.holdTok_eq] at hh
    have hc := hpass hh
    refine ⟨_, { h with
      st := .issued
      tok := (u.core k).tr r
      codes := { h.codes with dead := h.codes.dead || ((u.core k).mteOf ((u.core k).tr r)).st == .dead } },
      ((u.core k).holdTok ((u.core k).tr r)).mtes, ?_, rfl, hc, fun hn => ?_, fun r' hr => ?_⟩
    · simp only [State.issued, State.readTok, hT]
    · rw [hT] at hn
      cases hn
    · rw [hT] at hr
      cases hr
      exact ⟨rfl, fun n => (hmte hc n).trans (Core.mte_holdTok _ _ n)⟩

theorem ReadsToken.of_mte {u t t' : State} {h f : Flight} (hr : ReadsToken u t k i h f)
    (hm : ∀ n, (t'.core k).mte n = (t.core k).mte n) : ReadsToken u t' k i h f :=
  ⟨fun hn => ⟨(hr.1 hn).1, fun n => (hm n).trans ((hr.1 hn).2 n)⟩,
    fun r hs => ⟨(hr.2 r hs).1, fun n => (hm n).trans ((hr.2 r hs).2 n)⟩⟩

theorem ReadsToken.st {u t : State} {h f : Flight} (hr : ReadsToken u t k i h f) : f.st = .issued := by
  cases hT : tokenOf h.tmpl i with
  | none => rw [(hr.1 hT).1]
  | some r => rw [(hr.2 r hT).1]

/-- A command that its check admits begins: it issues on core `k`, which has consumed its WS, and is passed unless it
synchronises. -/
theorem State.beginCmd_issues (hi : f.cmd = i) (hb : Begins s k e i)
    (hu : (s.consumed k e i).issueCmd k (f.awaited (s.core k)) = some (u, h)) :
    u.curN = s.curN ∧ ∃ t f' c, s.beginCmd k e f = .more t f' ∧ f'.cmd = i ∧ CoreIs k c u t ∧ ReadsToken u t k i h f' ∧
      (∀ j : SemId, c.sem j.toNat = (s.core k).semAfter (semsOf i).1 0#6 j) ∧ c.takenOf e = (s.core k).takenOf e ∧
      c.engine (ringOf e) = if syncOf i = none then ((s.core k).engine (ringOf e)).advance (cmdWords e i)
        else (s.core k).engine (ringOf e) := by
  subst hi
  obtain ⟨⟨hcur, hcores⟩, hcmd⟩ : IssueKeeps (s.consumed k e f.cmd) (f.awaited (s.core k)) (u, h) :=
    State.issueCmd_keeps.get hu
  obtain ⟨m, n, hm⟩ := hcores k
  rw [State.consumed, State.core_setCore_self] at hm
  obtain ⟨t, f', ms, ht, hf', hc, hr⟩ := u.issued_spec k e (h := h) (i := f.cmd) hcmd
  have hsem (j : SemId) : (u.core k).sem j.toNat = (s.core k).semAfter (semsOf f.cmd).1 0#6 j := by
    rw [hm]
    exact Core.sem_consumed _ _ j _
  have heng : (u.core k).engine (ringOf e) = (s.core k).engine (ringOf e) := by
    rw [hm, Core.consumed_eq]
    cases e <;> rfl
  have htk : (u.core k).takenOf e = (s.core k).takenOf e := by
    rw [hm, Core.consumed_eq]
    cases e <;> rfl
  refine ⟨congrArg BitVec.toNat hcur, t, f', _, ((State.beginCmd_of_begins hb).2 u h hu).trans ht, hf', hc, hr,
    fun j => ?_, ?_, ?_⟩
  · rw [← hsem j]
    split
    · rw [Core.passCmd, Core.setEngine_eq]
      rfl
    · rfl
  · rw [← htk]
    split
    · exact Core.takenOf_setEngine _ _ _
    · cases e <;> rfl
  · rw [← heng]
    split
    · refine (Core.engine_setEngine _ _ _).trans ?_
      cases e <;> rfl
    · cases e <;> rfl

end

/-! ENGINE_COMMAND_ISSUE and RELOCATE_TAKE. -/

section
variable {s u : State} {core : CoreId} {e : EngineSel} {i : Instr} {f h : Flight}

/-- A command that awaits its WS waits in flight (R154, R198). -/
theorem does_wait (hi : IsCommand e i) (hf : s.me.flight e = none) (h0 : (semsOf i).1 ≠ 0#6)
    (hw : (s.me.sem (semsOf i).1.toNat).count.toNat ≤ s.me.ahead (semsOf i).1 (agentOfEngine e)) (hb : 0 < s.budget) :
    Does i s (fun t => (∃ f', t.me.flight e = some f' ∧ f'.st = .decoded ∧ f'.cmd = i) ∧
      ((semsOf i).1, agentOfEngine e) ∈ t.me.waiters ∧ t.me.engine (ringOf e) = s.me.engine (ringOf e) ∧
      (∀ j : SemId, t.me.sem j.toNat = s.me.sem j.toNat) ∧ t.mem = s.mem ∧ OnlyCore s.curN s t) := by
  let f := s.me.newFlight e i
  let v := s.setMe (s.me.setFlight e (some f))
  have hv : CoreIs s.curN (s.me.setFlight e (some f)) s v := (CoreIs.refl s.curN s).setCore _
  have hp : v.phaseCmd s.curN e f = .hold (v.onCore s.curN (fun c => c.beginWait (semsOf i).1 (agentOfEngine e))) f := by
    refine State.beginCmd_of_waiting (f := f) h0 ?_
    rw [hv.2, Core.setFlight_eq]
    exact hw
  have he : exec i s = .next ((v.onCore s.curN (fun c => c.beginWait (semsOf i).1 (agentOfEngine e))).onCore s.curN
      (fun c => c.setFlight e (some f))) := by
    rw [exec_command hi]
    simp only [State.command, hf, Option.getD_none]
    rw [State.runCmd_of_hold hb hp]
  have ht := (hv.onCore (fun c => c.beginWait (semsOf i).1 (agentOfEngine e))).onCore (fun c => c.setFlight e (some f))
  have hwait (c : Core) : c.beginWait (semsOf i).1 (agentOfEngine e) =
      { c with waiters := (c.beginWait (semsOf i).1 (agentOfEngine e)).waiters } := by
    unfold Core.beginWait
    split <;> rfl
  have hmem (c : Core) : ((semsOf i).1, agentOfEngine e) ∈ (c.beginWait (semsOf i).1 (agentOfEngine e)).waiters := by
    unfold Core.beginWait
    split
    · next h => simpa using h
    · simp
  have hm := ht.me
  refine ⟨_, he, ⟨f, ?_, rfl, rfl⟩, ?_, ?_, fun j => ?_, ht.mem, ht.1⟩
  · rw [hm, Core.flight_setFlight]
  · rw [hm, Core.setFlight_eq]
    exact hmem _
  · rw [hm, Core.engine_setFlight, hwait]
    cases e <;> rfl
  · rw [hm, Core.setFlight_eq, hwait]
    cases e <;> rfl

/-- The step of ENGINE_COMMAND_ISSUE at a command at the read pointer that begins. -/
theorem exec_engineCommandIssue (hc : s.curN = core.toNat) (hi : IsCommand e i) (hh : s.held s.curN = false)
    (hf : s.me.flight e = none) (ht : s.takenFrom s.curN e = none) (hw : s.engineWaits s.curN e = false)
    (hx : s.fetchCmd s.curN e = .cmd i) (hs : s.me.takenOf e = [] ∨ syncOf i ≠ none)
    (hb : s.beginCmd s.curN e (s.me.newFlight e i) = .more u f) :
    exec (.engineCommandIssue core e) s = .next (u.onCore s.curN (fun c => c.setFlight e (some f))) := by
  have hst : s.startsCmd s.curN e = .cmd i := by
    simp only [State.startsCmd, hx]
    split
    · rfl
    · next he =>
      have hsync : (syncOf i).isSome = true := by
        obtain h | h := hs
        · exact absurd (List.isEmpty_iff.2 h) he
        · exact Option.isSome_iff_ne_none.2 h
      rw [if_pos hsync]
  have hf' : (s.core s.curN).flight e = none := hf
  have hb' : s.beginCmd s.curN e ((s.core s.curN).newFlight e i) = .more u f := hb
  change execEngineCommandIssue core e s = _
  unfold execEngineCommandIssue
  dsimp only
  rw [← hc, hh, hw, hf', ht, hst]
  obtain ⟨-, hm, hcl⟩ := hi
  simp only [Bool.or_self, Bool.false_eq_true, if_false, Option.isSome_none]
  rw [hb']

theorem does_issue_refused (hc : s.curN = core.toNat) (hi : IsCommand e i) (hh : s.held s.curN = false)
    (hf : s.me.flight e = none) (ht : s.takenFrom s.curN e = none) (hw : s.engineWaits s.curN e = false)
    (hx : s.fetchCmd s.curN e = .cmd i) (hs : s.me.takenOf e = [] ∨ syncOf i ≠ none) (hb : Begins s s.curN e i)
    (hr : (s.consumed s.curN e i).issueCmd s.curN ((s.me.newFlight e i).awaited s.me) = none) :
    Does (.engineCommandIssue core e) s (fun t =>
      (∃ f', t.me.flight e = some f' ∧ f'.cmd = i ∧ f'.st = .done ∧ f'.codes.illegal = true) ∧ OnlyCore s.curN s t ∧
      t.me.engine (ringOf e) = s.me.engine (ringOf e) ∧ ∀ j : SemId, t.me.sem j.toNat = s.me.semAfter (semsOf i).1 0#6 j) := by
  have hbegin := (State.beginCmd_of_begins (f := s.me.newFlight e i) hb).1 hr
  have hcore := ((CoreIs.refl s.curN s).setCore (s.me.consumed (semsOf i).1 (agentOfEngine e))).onCore (fun c => c.setFlight e (some
    { (s.me.newFlight e i).awaited s.me with st := .done, codes := { (s.me.newFlight e i).codes with illegal := true } }))
  obtain ⟨t, ht, hcore⟩ : ∃ t, exec (.engineCommandIssue core e) s = .next t ∧ CoreIs s.curN _ s t :=
    ⟨_, exec_engineCommandIssue hc hi hh hf ht hw hx hs hbegin, hcore⟩
  have hm := hcore.me
  refine ⟨t, ht, ⟨{ (s.me.newFlight e i).awaited s.me with
    st := .done, codes := { (s.me.newFlight e i).codes with illegal := true } }, ?_, rfl, rfl, rfl⟩, hcore.1, ?_, fun j => ?_⟩
  · rw [hm, Core.flight_setFlight]
  · rw [hm, Core.engine_setFlight, Core.consumed_eq]
    cases e <;> rfl
  · rw [hm, Core.setFlight_eq]
    exact Core.sem_consumed _ _ j _

theorem does_issue (hc : s.curN = core.toNat) (hi : IsCommand e i) (hh : s.held s.curN = false)
    (hf : s.me.flight e = none) (ht : s.takenFrom s.curN e = none) (hw : s.engineWaits s.curN e = false)
    (hx : s.fetchCmd s.curN e = .cmd i) (hs : s.me.takenOf e = [] ∨ syncOf i ≠ none) (hb : Begins s s.curN e i)
    (hr : (s.consumed s.curN e i).issueCmd s.curN ((s.me.newFlight e i).awaited s.me) = some (u, h)) :
    Does (.engineCommandIssue core e) s (fun t => OnlyCore s.curN u t ∧
      (∃ f', t.me.flight e = some f' ∧ ReadsToken u t s.curN i h f') ∧
      (∀ j : SemId, t.me.sem j.toNat = s.me.semAfter (semsOf i).1 0#6 j) ∧
      t.me.engine (ringOf e) = if syncOf i = none then (s.me.engine (ringOf e)).advance (cmdWords e i)
        else s.me.engine (ringOf e)) := by
  obtain ⟨hcur, t, f', c, hbegin, -, hcore, hread, hsem, -, heng⟩ :=
    State.beginCmd_issues (f := s.me.newFlight e i) (i := i) rfl hb hr
  have ht' := hcore.onCore (fun c => c.setFlight e (some f'))
  have hm : (t.onCore s.curN (fun c => c.setFlight e (some f'))).me = c.setFlight e (some f') := by
    rw [← ht'.2, State.me, ht'.1.curN, hcur]
  refine ⟨_, exec_engineCommandIssue hc hi hh hf ht hw hx hs hbegin, ht'.1, ⟨f', ?_, hread.of_mte fun n => ?_⟩,
    fun j => ?_, ?_⟩
  · rw [hm, Core.flight_setFlight]
  · rw [ht'.2, hcore.2, Core.setFlight_eq]
    rfl
  · rw [hm, Core.setFlight_eq]
    exact hsem j
  · rw [hm, Core.engine_setFlight, heng]
    rfl

/-- No relocatable command synchronises or goes to a channel (R66, R185). -/
theorem relocatable_plain (h : relocatable i = true) : dvChan i = none ∧ syncOf i = none := by
  revert h
  unfold relocatable
  split
  case h_12 => exact fun h => absurd h Bool.false_ne_true
  all_goals exact fun _ => ⟨rfl, rfl⟩

/-- A command that may be taken may begin (R185). -/
theorem begins_of_takeable {j : Nat} (h : s.takeable j e = some i) : Begins s j e i ∧ syncOf i = none := by
  revert h
  unfold State.takeable
  split
  · exact fun h => nomatch h
  · split
    · exact fun h => nomatch h
    · split
      · next i' hx =>
        dsimp only
        split
        · next hc =>
          intro h
          obtain rfl : i' = i := by simpa using h
          simp only [Bool.and_eq_true, Bool.or_eq_true, beq_iff_eq] at hc
          obtain ⟨⟨hr, hw⟩, -⟩ := hc
          obtain ⟨hd, hs⟩ := relocatable_plain hr
          refine ⟨⟨fun hn => ?_, ?_, fun hv => ?_⟩, hs⟩
          · obtain h0 | hm := hw
            · exact hn.1 h0
            · exact absurd hn.2 (Nat.not_le.2 (of_decide_eq_true hm))
          · rw [State.chanHeld, hd]
          · rw [isDovetail, hd] at hv
            cases hv
        · exact fun h => nomatch h
      · exact fun h => nomatch h

/-- The step of RELOCATE_TAKE at a command that may be taken from core `j`. -/
theorem exec_relocateTake {k : CoreId} {j : Nat} (hi : s.engineIdle k.toNat e = true) (hh : s.held k.toNat = false)
    (hs : s.stalled k.toNat = false)
    (hx : ((s.core k.toNat).panelCores k.toNat).findSome? (fun j => if j = k.toNat then none else
      (s.takeable j e).map (fun i => (j, i))) = some (j, i))
    (hl : ∀ n, n ∈ (s.core k.toNat).panelCores k.toNat → n < k.toNat → n ≠ j → s.engineIdle n e = false)
    (hb : s.beginCmd j e { (s.core j).newFlight e i with taker := some k.toNat } = .more u f) :
    exec (.relocateTake k e) s =
      .next (if f.st = .issued then u.onCore j (fun c => c.setTaken e (c.takenOf e ++ [f])) else s) := by
  have hany : ((s.core k.toNat).panelCores k.toNat).any (fun n => decide (n < k.toNat) && n != j && s.engineIdle n e) = false := by
    rw [List.any_eq_false]
    intro n hn hc
    simp only [Bool.and_eq_true, decide_eq_true_eq, bne_iff_ne, ne_eq] at hc
    obtain ⟨⟨hlt, hne⟩, hidle⟩ := hc
    rw [hl n hn hlt hne] at hidle
    cases hidle
  change execRelocateTake k e s = _
  unfold execRelocateTake
  dsimp only
  rw [hi, hh, hs, hx]
  dsimp only
  rw [hany, hb]
  simp only [Bool.not_true, Bool.or_self, Bool.false_eq_true, if_false]
  split <;> rfl

theorem takeable_of_find {k j : Nat} {l : List Nat}
    (h : l.findSome? (fun j => if j = k then none else (s.takeable j e).map (fun i => (j, i))) = some (j, i)) :
    s.takeable j e = some i := by
  obtain ⟨a, -, ha⟩ := List.exists_of_findSome?_eq_some h
  split at ha
  · cases ha
  · obtain ⟨i', hi', he⟩ := Option.map_eq_some_iff.1 ha
    cases he
    exact hi'

/-- RELOCATE_TAKE of a command that its check refuses does nothing; of another it gives the sibling the command (R185). -/
theorem does_relocate {k : CoreId} {j : Nat} (hi : s.engineIdle k.toNat e = true) (hh : s.held k.toNat = false)
    (hs : s.stalled k.toNat = false)
    (hx : ((s.core k.toNat).panelCores k.toNat).findSome? (fun j => if j = k.toNat then none else
      (s.takeable j e).map (fun i => (j, i))) = some (j, i))
    (hl : ∀ n, n ∈ (s.core k.toNat).panelCores k.toNat → n < k.toNat → n ≠ j → s.engineIdle n e = false) :
    let f : Flight := { (s.core j).newFlight e i with taker := some k.toNat }
    ((s.consumed j e i).issueCmd j (f.awaited (s.core j)) = none → Does (.relocateTake k e) s (fun t => t = s)) ∧
    (∀ u h, (s.consumed j e i).issueCmd j (f.awaited (s.core j)) = some (u, h) →
      Does (.relocateTake k e) s (fun t => OnlyCore j u t ∧
        (∃ f', (t.core j).takenOf e = (s.core j).takenOf e ++ [f'] ∧ ReadsToken u t j i h f') ∧
        (t.core j).engine (ringOf e) = ((s.core j).engine (ringOf e)).advance (cmdWords e i))) := by
  intro f
  obtain ⟨hb, hsync⟩ := begins_of_takeable (takeable_of_find hx)
  refine ⟨fun hr => ?_, fun u h hr => ?_⟩
  · have hbegin := (State.beginCmd_of_begins (f := f) hb).1 hr
    exact ⟨_, (exec_relocateTake hi hh hs hx hl hbegin).trans (congrArg Host.Outcome.next (if_neg (by simp))), rfl⟩
  · obtain ⟨-, t, f', c, hbegin, -, hcore, hread, -, htk, heng⟩ := State.beginCmd_issues (f := f) (i := i) rfl hb hr
    have ht := hcore.onCore (fun c => c.setTaken e (c.takenOf e ++ [f']))
    refine ⟨_, (exec_relocateTake hi hh hs hx hl hbegin).trans (congrArg Host.Outcome.next (if_pos hread.st)), ht.1,
      ⟨f', ?_, hread.of_mte fun n => ?_⟩, ?_⟩
    · rw [ht.2, Core.takenOf_setTaken, htk]
    · rw [ht.2, hcore.2, Core.setTaken_eq]
      rfl
    · rw [ht.2, Core.engine_setTaken, heng, if_pos hsync]

/-- Behind a command that a sibling has taken no other begins but one that synchronises (R185). -/
theorem exec_issue_behind_taken (hf : (s.core core.toNat).flight e = none) (ht : (s.core core.toNat).takenOf e ≠ [])
    (hx : s.fetchCmd core.toNat e = .cmd i) (hs : syncOf i = none) : exec (.engineCommandIssue core e) s = .next s := by
  have hst : s.startsCmd core.toNat e = .nothing := by
    simp only [State.startsCmd, hx, hs]
    rw [if_neg (fun h => ht (List.isEmpty_iff.1 h))]
    rfl
  change execEngineCommandIssue core e s = _
  unfold execEngineCommandIssue
  dsimp only
  rw [hf, hst]
  dsimp only
  split
  · rfl
  · split <;> rfl

end

/-! MLOOP and CLOOP (R151, R172). -/

section
variable {s : State} {e : EngineSel} {i : Instr} {len count : Nat}

/-- A loop that does not end within the innermost one, or is one too many, is refused. -/
theorem does_loop_refused (he : exec i s = .next (s.loopCommand e i len count))
    (h : (s.me.engine (ringOf e)).beginLoop 2 len count = none) :
    Does i s (fun t => (t.me.engine (ringOf e)).st = .stopped ∧ t.me.s.pendEng = true) := by
  obtain ⟨x, b, hc, -⟩ := State.illegalCmd_spec (s := s) (k := s.curN) (e := e) (opOf i) 0#6
  have hl : s.loopCommand e i len count = s.illegalCmd s.curN e (opOf i) 0#6 := by
    unfold State.loopCommand
    rw [h]
  rw [hl] at he
  refine ⟨_, he, ?_, ?_⟩
  · rw [hc.me, Core.engine_stopEngine]
  · rw [hc.me, Core.stopEngine_eq]

/-- A loop that is begun or skipped changes its engine alone. -/
theorem does_loop {g : Engine} (he : exec i s = .next (s.loopCommand e i len count))
    (h : (s.me.engine (ringOf e)).beginLoop 2 len count = some g) :
    Does i s (fun t => OnlyCore s.curN s t ∧ t.mem = s.mem ∧ t.me.engine (ringOf e) = g) := by
  have hl : s.loopCommand e i len count = s.setMe (s.me.setEngine (ringOf e) g) := by
    unfold State.loopCommand
    rw [h]
  rw [hl] at he
  refine ⟨_, he, onlyCore_setMe _ _, rfl, ?_⟩
  rw [State.me_setMe, Core.engine_setEngine]

variable {g : Engine}

/-- Whether a loop of `len` bodies reaches past the innermost one. -/
def Engine.past (g : Engine) (len : Nat) : Prop := ∃ l ls, g.loops = l :: ls ∧ l.last < g.pos + len

theorem Engine.beginLoop_refused (h : g.past len ∨ (count ≠ 0 ∧ 4 ≤ g.loops.length)) : g.beginLoop 2 len count = none := by
  unfold Engine.beginLoop
  dsimp only
  obtain ⟨l, ls, hl, hp⟩ | ⟨hc, h4⟩ := h
  · rw [hl]
    simp [hp]
  · rw [if_neg hc, if_pos h4, ite_self]

theorem Engine.beginLoop_of_inside (h : ¬ g.past len) : g.beginLoop 2 len count =
    if count = 0 then some { g.advance 2 with skip := len }
    else if 4 ≤ g.loops.length then none
    else some { g with
      loops := ⟨g.pos + 1, g.pos + len, count, g.after g.rp 2⟩ :: g.loops, pos := g.pos + 1, rp := g.after g.rp 2 } := by
  unfold Engine.beginLoop
  dsimp only
  cases hl : g.loops with
  | nil => rfl
  | cons l ls =>
    have hp : ¬ l.last < g.pos + len := fun hp => h ⟨l, ls, hl, hp⟩
    simp only [hp, decide_false, Bool.false_eq_true, if_false]

end

/-! Aperture copies (R177, R226). -/

theorem State.cores_setClamp (s : State) (host : Bool) (u : Nat) (e : Clamp) : (s.setClamp host u e).cores = s.cores := by
  unfold State.setClamp
  split <;> rfl

theorem State.cores_unpinRuns (s : State) (k : Nat) (g : GangId) (rs : List Run) : (s.unpinRuns k g rs).cores = s.cores := by
  refine foldl_keeps (P := fun t => t.cores = s.cores) (fun t r h => ?_) rs s rfl
  refine foldl_keeps (P := fun u => u.cores = s.cores) ?_ _ t h
  intro u i hu
  dsimp only
  split
  · exact (State.cores_setClamp _ _ _ _).trans hu
  · exact (State.cores_setClamp _ _ _ _).trans hu

/-- A reference given up changes the mortise table of its core alone, of the cores. -/
theorem State.core_release (s : State) (k : Nat) (t : Option Tok) :
    ∃ ms, (s.release k t).core k = { s.core k with mtes := ms } := by
  cases t with
  | none => exact ⟨_, rfl⟩
  | some t =>
    unfold State.release
    dsimp only
    have hset (m : Mte) : (s.setMte k t.idx.toNat m).core k = { s.core k with mtes := ((s.core k).setMte t.idx.toNat m).mtes } := by
      rw [State.setMte, State.core_onCore_self]
      rfl
    split
    · split
      · exact ⟨_, hset { gen := ((s.core k).mte t.idx.toNat).gen }⟩
      · refine ⟨_, Eq.trans ?_ (hset { gen := ((s.core k).mte t.idx.toNat).gen })⟩
        unfold State.core
        rw [State.cores_unpinRuns]
    · exact ⟨_, hset _⟩

theorem StageRing.attached_detach (r : StageRing) (m n : Nat) (err : Bool) :
    ((r.detach m n err).slot m).attached = (r.slot m).attached - 1 := by
  have hs (q : StageRing) : (q.evaluate m).slots = q.slots := by
    unfold StageRing.evaluate
    split <;> rfl
  have hd : (r.detach m n err).slots =
      (r.setSlot m { r.slot m with attached := (r.slot m).attached - 1, bytes := min r.expect ((r.slot m).bytes + n) }).slots := by
    unfold StageRing.detach
    dsimp only
    rw [hs]
    split <;> rfl
  rw [StageRing.slot, hd]
  refine congrArg SlotSt.attached ((Sparse.get_put _ _ _ _).trans (if_pos rfl))

section
variable {s : State} {k ch : Nat} {f : Flight} {r : List Flight}

theorem Core.chan_setChanHead (c : Core) (ch : Nat) (f : Option Flight) :
    Sparse.get [] (c.setChanHead ch f).c.chans ch = f.toList ++ (Sparse.get [] c.c.chans ch).drop 1 := by
  refine (Sparse.get_put _ _ _ _).trans ((if_pos rfl).trans ?_)
  cases f <;> rfl

/-- A copy of a channel that is decoded starts on a ring that takes copies. -/
theorem State.startAperture_spec (hq : Sparse.get [] (s.core k).c.chans ch = f :: r) (hd : f.st = .decoded)
    (ht : ((s.core k).ring (templateOf f.tmpl).gring).takesCopies = true) :
    ∃ f', Sparse.get [] ((s.startAperture k ch).core k).c.chans ch = f' :: r ∧
      f'.st = .issued ∧ f'.tok = f.tok ∧ f'.tmpl = f.tmpl := by
  unfold State.startAperture
  simp only [hq, hd, ht]
  refine ⟨{ f with
    st := .issued
    pat := (s.core k).gauge (templateOf f.tmpl).pat
    codes := { f.codes with dead := ((s.core k).mteOf f.tok).st == .dead } }, ?_, rfl, rfl, rfl⟩
  simp only [ne_eq, not_true_eq_false, if_false, Bool.not_true, Bool.false_eq_true]
  rw [State.core_onCore_self, Core.chan_setChanHead, hq]
  rfl

/-- A command that fills a slot leaves it (R226). -/
theorem State.leaveCmd_slot (u : State) (k : Nat) {g : Flight} {n : RingId} {m : Nat} (hs : g.slot = some (n, m)) :
    ∃ (c : Core) (d : Nat) (err : Bool), c.rings = (u.core k).rings ∧ c.c = (u.core k).c ∧
      (u.leaveCmd k g).core k = c.onRing n.toNat (fun r => r.detach m d err) := by
  obtain ⟨ms, hr⟩ := u.core_release k g.tok
  have hflags (c : Core) : ((c.oox g.oox).dscw g.dscw).rings = c.rings ∧ ((c.oox g.oox).dscw g.dscw).c = c.c := by
    cases g.oox <;> cases g.dscw <;> exact ⟨rfl, rfl⟩
  have hc := State.core_onCore_self (u.release k g.tok) k (fun c => (c.oox g.oox).dscw g.dscw)
  obtain ⟨h1, h2⟩ := hflags ((u.release k g.tok).core k)
  rw [← hc] at h1 h2
  unfold State.leaveCmd
  rw [hs]
  dsimp only
  refine ⟨_, g.lost + (if g.codes.denied then g.bytes - 512 * g.prog else 0), g.codes.first != 0 || g.err, h1.trans (by rw [hr]),
    h2.trans (by rw [hr]), ?_⟩
  cases g.dscVa with
  | none => exact State.core_onCore_self _ _ _
  | some va => exact State.core_onCore_self _ _ _

/-- A copy of a channel that has ended leaves its place and its slot. -/
theorem State.finishAperture_spec {u : State} {g : Flight} {n : RingId} {m : Nat}
    (hq : Sparse.get [] (s.core k).c.chans ch = f :: r) (hd : f.st = .issued)
    (hu : State.apertureUnits s.budget s k f = (u, g, true)) (hs : g.slot = some (n, m)) :
    Sparse.get [] ((s.finishAperture k ch).core k).c.chans ch = (Sparse.get [] (u.core k).c.chans ch).drop 1 ∧
      ((((s.finishAperture k ch).core k).ring n.toNat).slot m).attached = (((u.core k).ring n.toNat).slot m).attached - 1 := by
  obtain ⟨c, d, err, hrings, hchan, hc⟩ := u.leaveCmd_slot k hs
  have he : (s.finishAperture k ch).core k = (c.onRing n.toNat (fun r => r.detach m d err)).setChanHead ch none := by
    unfold State.finishAperture
    simp only [hq, hd, hu, ne_eq, not_true_eq_false, if_false, if_true]
    rw [State.core_onCore_self, hc]
  rw [he]
  refine ⟨?_, ?_⟩
  · rw [Core.chan_setChanHead, ← hchan]
    rfl
  · have hring : ((c.onRing n.toNat (fun r => r.detach m d err)).setChanHead ch none).ring n.toNat =
        ((u.core k).ring n.toNat).detach m d err := by
      refine (Sparse.get_put _ _ _ _).trans ((if_pos rfl).trans ?_)
      rw [Core.ring, hrings]
      rfl
    rw [hring, StageRing.attached_detach]

end

/-- Settles O45, clause by clause: each is one of the steps above. -/
theorem engineCommandsIssueAndComplete : Obligations.EngineCommandsIssueAndComplete := by
  intro e i core s f hcur ws ss g waiting
  refine ⟨fun hi hf hw hb => does_wait hi hf hw.1 hw.2 hb, fun q hq hi hb hn hf hcmd hd hs hv => ?_, ?_, ?_, ?_⟩
  · intro a err word
    have hword : completionWord f.codes.first f = word := by
      rw [completionWord, hcmd, Nat.mod_eq_of_lt (opOf_lt i)]
    refine ⟨fun hl ht => ?_, fun tk n hl ht hr => ?_, fun hl => ?_⟩
    · obtain ⟨t, he, h1, h2, h3, h4, -, h5⟩ := does_complete hcur hq hi hb hn hf hcmd hd hs hv hl (by
        rw [ht]
        exact fun _ h => nomatch h)
      exact ⟨t, he, h1, h2, h3, h4, fun hc hb ha => (h5 hc hb ha).trans hword⟩
    · obtain ⟨t, he, h1, -, -, -, h2, -⟩ := does_complete hcur hq hi hb hn hf hcmd hd hs hv hl (by
        rw [ht]
        rintro x ⟨⟩
        omega)
      refine ⟨t, he, h1, ?_⟩
      rw [h2, ht, Core.mte_giveUp]
      simp [hr]
    · exact does_illegal hcur hq hi hb hn hf hcmd hd hl
  · intro taken awaited holds
    have hholds {u t : State} {j : Nat} {h f' : Flight} (hr : ReadsToken u t j i h f') : holds u t j h f' := by
      simp only [holds]
      cases hT : tokenOf h.tmpl i with
      | none => exact hr.1 hT
      | some r => exact hr.2 r hT
    refine ⟨fun hi hh hf ht hw hx hs hnw hc hd => ⟨fun hr => ?_, fun u h hr => ?_⟩, fun hf ht hx hs => ?_, ?_⟩
    · exact does_issue_refused hcur hi hh hf ht hw hx hs ⟨hnw, hc, hd⟩ hr
    · obtain ⟨t, he, h1, ⟨f', h2, h3⟩, h4⟩ := does_issue hcur hi hh hf ht hw hx hs ⟨hnw, hc, hd⟩ hr
      exact ⟨t, he, h1, ⟨f', h2, hholds h3⟩, h4⟩
    · rw [hcur] at hx
      rw [State.me, hcur] at hf ht
      exact ⟨s, exec_issue_behind_taken hf ht hx hs, rfl⟩
    · intro k j hi hh hs hjk hx hl
      obtain ⟨h1, h2⟩ := does_relocate hi hh hs hx hl
      refine ⟨h1, fun u h hr => ?_⟩
      obtain ⟨t, he, ht, ⟨f', h3, h4⟩, h5⟩ := h2 u h hr
      exact ⟨t, he, ht, ⟨f', h3, hholds h4⟩, h5⟩
  · intro len count q hq outside rp
    have he : exec q s = .next (s.loopCommand e q len.toNat count.toNat) := by
      obtain ⟨rfl, rfl⟩ | ⟨rfl, rfl⟩ := hq <;> rfl
    have h0 : count ≠ 0 ↔ count.toNat ≠ 0 := not_congr (by rw [← BitVec.toNat_inj]; rfl)
    refine ⟨fun h => ?_, fun ho hc => ?_, fun ho hc h4 => ?_⟩
    · exact does_loop_refused he (Engine.beginLoop_refused (h.imp id fun h => ⟨h0.1 h.1, h.2⟩))
    · refine does_loop he ((Engine.beginLoop_of_inside ho).trans (if_pos ?_))
      rw [hc]
      rfl
    · exact does_loop he ((Engine.beginLoop_of_inside ho).trans ((if_neg (h0.1 hc)).trans (if_neg (Nat.not_le.2 h4))))
  · intro k ch h r hh hq
    refine ⟨fun hd ht => ⟨s.startAperture k.toNat ch.toNat, ?_, State.startAperture_spec hq hd ht⟩,
      fun u h' n m hd hu hs => ⟨s.finishAperture k.toNat ch.toNat, ?_, State.finishAperture_spec hq hd hu hs⟩⟩
    · exact congrArg Host.Outcome.next (if_neg (by rw [hh]; exact Bool.false_ne_true))
    · exact congrArg Host.Outcome.next (if_neg (by rw [hh]; exact Bool.false_ne_true))

end Sys2Proof.Machine
end

section
/-! PROOF. O51 fails: a step that halted well can end ERROR. The statement asks of the panel whose step ends only that its own step
is no copy of a twin run. As the panel drains (R274), the stores that stand visible in it become visible to the device, also one
that a core outside the panel has left there; where that core runs a shadow copy, and the panel's first core has kept more sectors
than R283 allows, the store ends the panel's step with the cause 0x202. -/

namespace Sys2Proof.Machine

open Sys2Proof

/-! How the end of a step goes on a panel of one core. -/

theorem State.drain_of_idle {s : State} {k : Nat} (hs : (s.core k).queued false = 0) (hv : (s.core k).queued true = 0) :
    s.drain k = s.flush k := by
  unfold State.drain State.runAll
  rw [hs]
  change (State.runQueues ((s.core k).queued true) s k true .stores).1.flush k = _
  rw [hv]
  rfl

theorem State.flush_in_panel {s u : State} {k b : Nat} {qs : List (Nat × VisStore)} (hu : s.toPanel k = u)
    (hs : (u.core k).panel.size ≠ 0#5) (hb : (u.core k).panelBase k = b) (hq : (u.panel b).buffer = qs) :
    s.flush k = (let t := qs.foldl (fun s e => s.perform e.1 e.2) u; t.setPanel b { t.panel b with buffer := [] }) := by
  unfold State.flush
  simp only [hu, hb, hq, if_neg hs]

theorem State.endStep_alone {s u : State} {k : Nat} {z t : StepInfo} (hb : (s.core k).panelBase k = k)
    (hn : (s.core k).panelSize = 1) (hz : (s.core k).step = some z) (he : z.ended = none) (hh : (s.core k).s.st = .halted)
    (hu : s.drain k = u) (ht : (u.core k).step = some t) (tw : t.twin = .none) {c i : Nat} (hc : t.ended = some (c, i, true)) :
    s.endStep k = (u.returnPanel k 1 false).stepDone t.walker t.ordinal (some (coreCause c i)) t.poisoned := by
  unfold State.endStep
  simp [hb, hn, hz, he, hh, hu, ht, tw, hc]

theorem State.returnPanel_alone {s u v : State} {b : Nat} (hd : s.drain b = u) (hr : u.returnCore b false = v) :
    s.returnPanel b 1 false = v.setPanel b {} := by
  unfold State.returnPanel
  simp [List.range_succ, hd, hr]

/-! The counterexample. Core 0, alone in its panel, has halted without ERROR; core 1 runs a shadow copy, and its panel field names
core 0's panel, where one of its stores stands. The statement speaks of every state, so also of this one, though no launch sets it
up. -/

/-- The step of core 0: the sectors it has kept, and how it was ended. -/
def strayStep (m : Sparse Bool) (e : Option (Nat × Nat × Bool)) : StepInfo :=
  { walker := 0, jigId := 0, ordinal := 0, depth := 0, gang := 0, slot := 0, rank := 0, ended := e, sectors := m }

/-- Its jig, of which another step runs. -/
def strayJig : Jig :=
  { id := 0, origin := .packet 0 0, gang := 0, slot := 0, depth := 0, crec := 0, record := [], e0 := 0, total := 2, next := 2,
    running := [⟨0, [0]⟩, ⟨1, [2]⟩] }

/-- The jig with its step ended ERROR. -/
def strayJigFailed : Jig := { strayJig with ended := 1, err := some (0, coreCause 0x202 1), running := [⟨1, [2]⟩] }

/-- The store of core 1. -/
def strayStore : VisStore := ⟨[⟨.dev, 0, 0, 0, [], [], none⟩], .s⟩

/-- Core 1. -/
def strayCore : Core :=
  { panel := { base := 0, rank := 0, size := 1 }, step := some { strayStep [] none with twin := .shadow } }

/-- The machine, with the stores that stand visible in core 0's panel. -/
def strayState (m : Sparse Bool) (e : Option (Nat × Nat × Bool)) (qs : List (Nat × VisStore)) : State :=
  { cores := [(0, { s := { st := .halted }, panel := { base := 0, rank := 0, size := 1 }, step := some (strayStep m e) }),
      (1, strayCore)]
    panels := if qs = [] then [] else [(0, { buffer := qs })]
    disp := { jigs := [(0, some strayJig)] } }

/-- The machine with core 0 returned. -/
def strayReturned (j : Jig) : State := { cores := [(1, strayCore)], disp := { jigs := [(0, some j)] } }

/-- The machine before the step ends. -/
abbrev strayStart (m : Sparse Bool) : State := strayState m none [(1, strayStore)]

/-- The machine once core 0 has drained: its step has been ended by core 1. -/
abbrev strayDrained (m : Sparse Bool) : State := strayState m (some (0x202, 1, true)) []

theorem perform_strayStore (m : Sparse Bool) : (strayStart m).perform 1 strayStore =
    if m.length * 32 > 4194304 then (strayStart m).endPanelStep 1 0x202 true else strayStart m := rfl

theorem toPanel_strayStart (m : Sparse Bool) : (strayStart m).toPanel 0 = strayStart m := rfl

theorem toPanel_strayDrained (m : Sparse Bool) : (strayDrained m).toPanel 0 = strayDrained m := rfl

theorem drain_strayStart {m : Sparse Bool} (h : 4194304 < m.length * 32) : (strayStart m).drain 0 = strayDrained m := by
  have hs : (1#5) ≠ 0#5 := by decide
  rw [State.drain_of_idle rfl rfl, State.flush_in_panel (toPanel_strayStart m) hs rfl (qs := [(1, strayStore)]) rfl,
    List.foldl_cons, perform_strayStore, if_pos h]
  rfl

theorem drain_strayDrained (m : Sparse Bool) : (strayDrained m).drain 0 = strayDrained m := by
  have hs : (1#5) ≠ 0#5 := by decide
  rw [State.drain_of_idle rfl rfl, State.flush_in_panel (qs := []) (toPanel_strayDrained m) hs rfl rfl]
  rfl

theorem bare_strayDrained (m : Sparse Bool) : (strayDrained m).onCore 0 (fun c => c.bare false) = strayReturned strayJig := rfl

theorem returnCore_strayDrained (m : Sparse Bool) : (strayDrained m).returnCore 0 false = strayReturned strayJig := by
  have hw : (strayDrained m).abandonWalk 0 = strayDrained m := rfl
  unfold State.returnCore
  rw [hw, drain_strayDrained, ← bare_strayDrained m]
  rfl

theorem stepDone_strayReturned :
    (strayReturned strayJig).stepDone 0 0 (some (coreCause 0x202 1)) false = strayReturned strayJigFailed := rfl

theorem endStep_strayStart {m : Sparse Bool} (h : 4194304 < m.length * 32) :
    (strayStart m).endStep 0 = strayReturned strayJigFailed := by
  rw [State.endStep_alone rfl rfl rfl rfl rfl (drain_strayStart h) rfl rfl rfl,
    State.returnPanel_alone (drain_strayDrained m) (returnCore_strayDrained m)]
  exact stepDone_strayReturned

theorem proceed_strayReturned : (strayReturned strayJigFailed).proceed = strayReturned strayJigFailed := rfl

theorem exec_stepEnd_strayStart {m : Sparse Bool} (h : 4194304 < m.length * 32) :
    exec (.stepEnd 0) (strayStart m) = .next (strayReturned strayJigFailed) := by
  change execStepEnd 0 (strayStart m) = _
  change Host.Outcome.next ((strayStart m).endStep 0).proceed = _
  rw [endStep_strayStart h, proceed_strayReturned]

/-- Refutes O51: STEP_END of a step that has halted without ERROR, and that no rule has ended, need not end well, since the store of
a shadow copy that stands visible in its panel ends it as the panel drains. -/
theorem not_stepsPreemptionAndRestore : ¬ Obligations.StepsPreemptionAndRestore := by
  unfold Obligations.StepsPreemptionAndRestore
  intro h
  obtain ⟨m, hm⟩ : ∃ m : Sparse Bool, 4194304 < m.length * 32 :=
    ⟨List.replicate 131073 (0, true), by rw [List.length_replicate]; decide⟩
  obtain ⟨-, -, -, -, -, -, hend, -⟩ := h 0 0 0 (strayStart m) strayJig
  have still : (strayStart m).disp.graphs = [] ∧ ∀ y, y ∈ (strayStart m).integ.units → y.replay = false :=
    ⟨rfl, fun y hy => absurd hy List.not_mem_nil⟩
  have other : ∃ r : Running, r ∈ strayJig.running ∧ r.ordinal ≠ 0 := ⟨⟨1, [2]⟩, by simp [strayJig], by simp⟩
  have halted : ∀ r, r < 1 → ((strayStart m).core (0 + r)).s.st = .halted ∧ ((strayStart m).core (0 + r)).s.loads = [] ∧
      ((strayStart m).core (0 + r)).v.loads = [] := by
    intro r hr
    obtain rfl : r = 0 := by omega
    exact ⟨rfl, rfl, rfl⟩
  obtain ⟨t, he, -, j, hj, -, hgood, -⟩ :=
    (hend (strayStep m none) (strayStep m none) still rfl rfl rfl rfl rfl rfl other).1 rfl halted
  obtain rfl := Host.Outcome.next.inj (he.symm.trans (exec_stepEnd_strayStart hm))
  obtain rfl := Option.some.inj (hj.symm.trans (rfl : _ = some strayJigFailed))
  exact absurd hgood (by decide)

end Sys2Proof.Machine
end

section
/-! PROOF. V words whose element type is FX where the entry that VFMT.INDEX names is not FX (R39, R65, R127). -/

namespace Sys2Proof.Machine

open Sys2Proof

/-- FX names no element type where the entry is not FX (R39). -/
theorem Core.etype_fx_none {c : Core} (h : fmtBase (c.fmtAt c.v.fmtIndex.toNat) ≠ 1) : c.etype .fx = none := if_neg h

section
variable {s : State} {i : Instr} {o : Out}

/-- A V word whose element type names none is illegal. -/
theorem illegalV_of_typedV {et : ETy} {f : ElType → Core → Core} (hx : s.me.etype et = none) (he : exec i s = o)
    (ho : o = s.typedV et f) : IllegalV i s := by
  refine illegalV_of (he.trans (ho.trans ?_))
  simp only [State.typedV, hx]

/-- A conversion either of whose types names none is illegal. -/
theorem illegalV_of_pairV {x y : ETy} {f : ElType → ElType → Option (Core → Core)} (he : exec i s = o) (ho : o = s.pairV x y f)
    (hn : s.me.etype x = none ∨ s.me.etype y = none) : IllegalV i s := by
  refine illegalV_of (he.trans (ho.trans ?_))
  unfold State.pairV
  split
  · next hx hy =>
    rw [hx, hy] at hn
    simp at hn
  · rfl

end

/-- Settles O44, word by word: each asks for the element types it names before it does anything else. -/
theorem illegalElementTypeStopsTheVectorStream : Obligations.IllegalElementTypeStopsTheVectorStream := by
  intro st g p d a b tk o sat uns raw gauge elems k fr im imm y rm s hb
  have hx := Core.etype_fx_none hb
  have typed {i : Instr} {o : Out} {f : ElType → Core → Core} := illegalV_of_typedV (i := i) (o := o) (f := f) hx
  have mem {i : Instr} {o : Out} (he : exec i s = o) (ho : o = .next s.illegalV) : IllegalV i s := illegalV_of (he.trans ho)
  simp only [List.forall_mem_cons]
  exact ⟨typed (o := execVadd .fx st g d a b sat s) rfl rfl,
    typed (o := execVsub .fx st g d a b sat s) rfl rfl,
    typed (o := execVmul .fx st g d a b sat s) rfl rfl,
    typed (o := execVfma .fx st g d a b sat s) rfl rfl,
    typed (o := execVmin .fx st g d a b uns s) rfl rfl,
    typed (o := execVmax .fx st g d a b uns s) rfl rfl,
    typed (o := execVabs .fx st g d a sat s) rfl rfl,
    typed (o := execVneg .fx st g d a sat s) rfl rfl,
    typed (o := execVand .fx st g d a b s) rfl rfl,
    typed (o := execVor .fx st g d a b s) rfl rfl,
    typed (o := execVxor .fx st g d a b s) rfl rfl,
    typed (o := execVshl .fx st g d a b s) rfl rfl,
    typed (o := execVshr .fx st g d a b uns s) rfl rfl,
    typed (o := execVexp2 .fx st g d a s) rfl rfl,
    typed (o := execVlog2 .fx st g d a s) rfl rfl,
    typed (o := execVrcp .fx st g d a s) rfl rfl,
    typed (o := execVrsq .fx st g d a s) rfl rfl,
    typed (o := execVtanh .fx st g d a s) rfl rfl,
    typed (o := execVerf .fx st g d a s) rfl rfl,
    illegalV_of_pairV (o := execVcvt .fx st g d a y rm sat s) rfl rfl (.inl hx),
    illegalV_of_pairV (o := execVcvt y st g d a .fx rm sat s) rfl rfl (.inr hx),
    illegalV_of_pairV (o := execVwid .fx st g d a y uns s) rfl rfl (.inl hx),
    illegalV_of_pairV (o := execVwid y st g d a .fx uns s) rfl rfl (.inr hx),
    illegalV_of_pairV (o := execVnar .fx st g d a y rm sat s) rfl rfl (.inl hx),
    illegalV_of_pairV (o := execVnar y st g d a .fx rm sat s) rfl rfl (.inr hx),
    typed (o := execViota .fx st g d s) rfl rfl,
    typed (o := execVcmp .fx st p k a b uns s) rfl rfl,
    typed (o := execVsel .fx st p d a b s) rfl rfl,
    typed (o := execVmov .fx st g d a s) rfl rfl,
    typed (o := execVperm .fx st g d a b s) rfl rfl,
    typed (o := execVzip .fx st g d a b s) rfl rfl,
    typed (o := execVunz .fx st g d a b s) rfl rfl,
    typed (o := execVred .fx st g d a fr uns s) rfl rfl,
    typed (o := execVscan .fx st g d a fr uns s) rfl rfl,
    typed (o := execVbcast .fx st g d o s) rfl rfl,
    typed (o := execVaddi .fx st d imm s) rfl rfl,
    typed (o := execVsubi .fx st d imm s) rfl rfl,
    typed (o := execVmuli .fx st d imm s) rfl rfl,
    typed (o := execVmaxi .fx st d imm s) rfl rfl,
    typed (o := execVmini .fx st d imm s) rfl rfl,
    typed (o := execVmovi .fx st d imm s) rfl rfl,
    typed (o := execVandi .fx st d imm s) rfl rfl,
    typed (o := execVshli .fx st d imm s) rfl rfl,
    mem (o := execVld .fx st g d tk o gauge raw s) rfl (by rw [execVld, hx]),
    mem (o := execVst .fx st g d tk o raw s) rfl (by rw [execVst, hx]),
    mem (o := execVlds .fx st g d o im s) rfl (by rw [execVlds, hx]),
    mem (o := execVsts .fx st g d o im s) rfl (by rw [execVsts, hx]),
    mem (o := execVgath .fx st g d tk b elems s) rfl (by rw [execVgath, hx]),
    mem (o := execVscat .fx st g d tk b elems s) rfl (by rw [execVscat, hx]),
    typed (o := execPcnt .fx st o p s) rfl rfl,
    typed (o := execPfirst .fx st o p s) rfl rfl,
    fun _ h => absurd h List.not_mem_nil⟩

end Sys2Proof.Machine
end

section
/-! PROOF. Rounding to nearest, ties to even (R43, R44): where a magnitude lies between the values of two consecutive encodings,
and which of them RNE takes. -/

namespace Sys2Proof.Machine

open Sys2Proof

section
variable {K : Type*} [Field K] [LinearOrder K] [IsStrictOrderedRing K]

/-! The grid of a quantum. -/

/-- A value lies on or above the multiple `g.1` of a unit and below the next, and `g.2` says how the rest compares with half a
unit, as `onGrid` writes it. -/
structure GridPos (z u : K) (g : Nat × Nat) : Prop where
  lower : g.1 * u ≤ z
  upper : z < (g.1 + 1) * u
  none_iff : g.2 = 0 ↔ z = g.1 * u
  half_iff : g.2 = 2 ↔ 2 * z = (2 * g.1 + 1) * u
  above_iff : g.2 = 3 ↔ (2 * g.1 + 1) * u < 2 * z

/-- The same of natural numbers. -/
theorem gridPos_div {u : K} (hu : 0 < u) {m d : Nat} (hd : 0 < d) :
    GridPos (m * u) (d * u)
      (m / d, if m % d == 0 then 0 else if 2 * (m % d) < d then 1 else if 2 * (m % d) == d then 2 else 3) := by
  have hm : d * (m / d) + m % d = m := Nat.div_add_mod m d
  have hr : m % d < d := Nat.mod_lt m hd
  generalize m / d = a at hm ⊢
  generalize m % d = r at hm hr ⊢
  subst hm
  have hd' : a * d = d * a := Nat.mul_comm a d
  constructor <;> simp only [beq_iff_eq]
  · rw [← mul_assoc, mul_le_mul_iff_left₀ hu]
    exact_mod_cast (by omega : a * d ≤ d * a + r)
  · rw [← mul_assoc, mul_lt_mul_iff_left₀ hu]
    exact_mod_cast (by rw [Nat.add_mul]; omega : d * a + r < (a + 1) * d)
  · rw [← mul_assoc, mul_left_inj' hu.ne']
    norm_cast
    grind
  · rw [← mul_assoc, ← mul_assoc, mul_left_inj' hu.ne']
    norm_cast
    rw [Nat.add_mul, Nat.mul_assoc]
    grind
  · rw [← mul_assoc, ← mul_assoc, mul_lt_mul_iff_left₀ hu]
    norm_cast
    rw [Nat.add_mul, Nat.mul_assoc]
    grind

theorem two_zpow_pos (q : Int) : (0 : K) < 2 ^ q := zpow_pos two_pos q

/-- A power of two as a multiple of a smaller one. -/
theorem two_zpow_eq_mul {e q : Int} (h : q ≤ e) : (2 : K) ^ e = (2 ^ (e - q).toNat : Nat) * 2 ^ q := by
  rw [Nat.cast_pow, Nat.cast_two, ← zpow_natCast, ← zpow_add₀ two_ne_zero]
  congr 1
  omega

/-- `onGrid` finds the place of `m * 2^e` on the grid of quantum `2^q`. -/
theorem onGrid_gridPos (m : Nat) (e q : Int) : GridPos ((m : K) * 2 ^ e) (2 ^ q) (onGrid m e q) := by
  unfold onGrid
  split
  · next h =>
    have hz : (m : K) * 2 ^ e = (m * 2 ^ (e - q).toNat : Nat) * 2 ^ q := by
      rw [two_zpow_eq_mul h, Nat.cast_mul, mul_assoc]
    have hu := two_zpow_pos (K := K) q
    rw [hz]
    generalize m * 2 ^ (e - q).toNat = n
    have hn := mul_nonneg (Nat.cast_nonneg' (α := K) n) hu.le
    constructor <;> dsimp only <;> grind
  · next h =>
    rw [two_zpow_eq_mul (K := K) (Int.le_of_not_le h)]
    exact gridPos_div (two_zpow_pos e) (Nat.two_pow_pos _)

/-- The leading bit of a magnitude. -/
theorem topExp_bounds {m : Nat} (hm : m ≠ 0) (e : Int) :
    (2 : K) ^ topExp m e ≤ m * 2 ^ e ∧ (m : K) * 2 ^ e < 2 ^ (topExp m e + 1) := by
  have hu := two_zpow_pos (K := K) e
  have hlo : 2 ^ Nat.log2 m ≤ m := Nat.log2_self_le hm
  have hhi : m < 2 ^ (Nat.log2 m + 1) := Nat.lt_log2_self
  rw [topExp, zpow_add₀ two_ne_zero, add_right_comm, zpow_add₀ two_ne_zero, mul_le_mul_iff_left₀ hu, mul_lt_mul_iff_left₀ hu]
  exact ⟨by rw [zpow_natCast]; exact_mod_cast hlo, by exact_mod_cast hhi⟩

/-! The values of the encodings of magnitudes. -/

variable (K) in
/-- The value of an encoding of a magnitude, were the exponent field without an upper end (R31). -/
def Fmt.mag (f : Fmt) (n : Nat) : K :=
  ((if n / 2 ^ f.mb = 0 then n else 2 ^ f.mb + n % 2 ^ f.mb : Nat) : K) * 2 ^ ((max (n / 2 ^ f.mb) 1 : Nat) - f.bias - f.mb)

variable (f : Fmt)

/-- The encoding of the multiple `Q` of the quantum at exponent field `E`. -/
theorem Fmt.mag_grid {E Q : Nat} (hE : 1 ≤ E) (hQ : Q ≤ 2 ^ (f.mb + 1)) (h : E = 1 ∨ 2 ^ f.mb ≤ Q) :
    f.mag K ((E - 1) * 2 ^ f.mb + Q) = Q * 2 ^ ((E : Int) - f.bias - f.mb) := by
  have hp : 0 < 2 ^ f.mb := Nat.two_pow_pos _
  rw [Nat.pow_succ] at hQ
  unfold Fmt.mag
  rcases Nat.lt_or_ge Q (2 ^ f.mb) with hlt | hge
  · obtain rfl : E = 1 := by omega
    simp [Nat.div_eq_of_lt hlt]
  · obtain ⟨R, rfl⟩ := Nat.exists_eq_add_of_le hge
    have hn : (E - 1) * 2 ^ f.mb + (2 ^ f.mb + R) = E * 2 ^ f.mb + R := by
      rw [← Nat.add_assoc, ← Nat.succ_mul, Nat.succ_eq_add_one, Nat.sub_add_cancel hE]
    rw [hn]
    rcases Nat.lt_or_ge R (2 ^ f.mb) with hR | hR
    · have hdiv : (E * 2 ^ f.mb + R) / 2 ^ f.mb = E := by
        rw [Nat.mul_comm, Nat.mul_add_div hp, Nat.div_eq_of_lt hR, Nat.add_zero]
      rw [hdiv, if_neg (by omega), Nat.mul_comm, Nat.mul_add_mod, Nat.mod_eq_of_lt hR, Nat.max_eq_left hE]
    · obtain rfl : R = 2 ^ f.mb := by omega
      rw [← Nat.succ_mul, Nat.mul_div_cancel _ hp, if_neg (Nat.succ_ne_zero E), Nat.mul_mod_left, Nat.add_zero,
        Nat.max_eq_left (Nat.succ_pos E), ← Nat.two_mul, Nat.cast_mul, mul_comm ((2 : Nat) : K), mul_assoc, Nat.cast_two,
        ← zpow_one_add₀ two_ne_zero]
      congr 2
      push_cast
      omega

theorem Fmt.mag_lt_succ (n : Nat) : f.mag K n < f.mag K (n + 1) := by
  have hp : 0 < 2 ^ f.mb := Nat.two_pow_pos _
  have hn := Nat.div_add_mod n (2 ^ f.mb)
  have hr := Nat.mod_lt n hp
  obtain ⟨E, Q, hE, hQ, h, rfl⟩ : ∃ E Q, 1 ≤ E ∧ Q < 2 ^ (f.mb + 1) ∧ (E = 1 ∨ 2 ^ f.mb ≤ Q) ∧
      n = (E - 1) * 2 ^ f.mb + Q := by
    by_cases h0 : n / 2 ^ f.mb = 0
    · rw [h0] at hn
      exact ⟨1, n, Nat.le_refl 1, by rw [Nat.pow_succ]; omega, .inl rfl, by simp⟩
    · refine ⟨n / 2 ^ f.mb, 2 ^ f.mb + n % 2 ^ f.mb, Nat.pos_of_ne_zero h0, by rw [Nat.pow_succ]; omega,
        .inr (Nat.le_add_right _ _), ?_⟩
      rw [← Nat.add_assoc, ← Nat.succ_mul, Nat.succ_eq_add_one, Nat.sub_add_cancel (Nat.pos_of_ne_zero h0), Nat.mul_comm, hn]
  rw [Nat.add_assoc, f.mag_grid hE hQ.le h, f.mag_grid hE hQ (h.imp_right fun h => Nat.le_succ_of_le h)]
  refine mul_lt_mul_of_pos_right ?_ (two_zpow_pos _)
  exact_mod_cast Nat.lt_succ_self Q

theorem Fmt.mag_strictMono : StrictMono (f.mag K) := strictMono_nat_of_lt_succ f.mag_lt_succ

theorem Fmt.mag_zero : f.mag K 0 = 0 := by simp [Fmt.mag]

/-! What RNE takes. -/

/-- What RNE takes of the multiples `Q` and `Q + 1` of a unit, whose encodings are `lo` and `lo + 1`. -/
def TakesEven (y u : K) (Q lo n : Nat) : Prop :=
  (n = lo ∧ 2 * y < (2 * Q + 1) * u) ∨ (n = lo + 1 ∧ (2 * Q + 1) * u < 2 * y) ∨
    ((n = lo ∨ n = lo + 1) ∧ n % 2 = 0 ∧ 2 * y = (2 * Q + 1) * u)

omit [IsStrictOrderedRing K] in
theorem takesEven_pickUp {z u : K} {g : Nat × Nat} (h : GridPos z u g) (lo : Nat) :
    TakesEven z u g.1 lo (if pickUp .rne lo g.2 then lo + 1 else lo) := by
  have hh := h.half_iff
  have ha := h.above_iff
  unfold TakesEven pickUp
  rcases lt_trichotomy (2 * z) ((2 * g.1 + 1) * u) with hl | he | hg
  · have h2 : g.2 ≠ 2 := fun h => hl.ne (hh.1 h)
    have h3 : g.2 ≠ 3 := fun h => lt_asymm hl (ha.1 h)
    exact .inl ⟨by simp [h2, h3], hl⟩
  · have h2 := hh.2 he
    refine .inr (.inr ⟨?_, ?_, he⟩)
    · split_ifs
      · exact .inr rfl
      · exact .inl rfl
    · by_cases hp : lo % 2 = 1 <;> simp [h2, hp] <;> omega
  · exact .inr (.inl ⟨by simp [ha.2 hg], hg⟩)

/-- A rounded magnitude: the exponent field `E` and the multiple `Q` of its quantum below the value, and what RNE takes. -/
structure RoundsAt (f : Fmt) (z : K) (E Q : Nat) (n : Nat) (nx : Bool) : Prop where
  pos : 1 ≤ E
  small : Q < 2 ^ (f.mb + 1)
  normal : E = 1 ∨ 2 ^ f.mb ≤ Q
  lower : Q * 2 ^ ((E : Int) - f.bias - f.mb) ≤ z
  upper : z < (Q + 1) * 2 ^ ((E : Int) - f.bias - f.mb)
  exact_iff : nx = false ↔ z = Q * 2 ^ ((E : Int) - f.bias - f.mb)
  takes : TakesEven z (2 ^ ((E : Int) - f.bias - f.mb)) Q ((E - 1) * 2 ^ f.mb + Q) n

/-- The exponent field of a magnitude before rounding. -/
def Fmt.field (f : Fmt) (m : Nat) (e : Int) : Nat := (max (topExp m e + f.bias) 1).toNat

theorem Fmt.field_eq (m : Nat) (e : Int) : (f.field m e : Int) = max (topExp m e + f.bias) 1 :=
  Int.toNat_of_nonneg (Int.le_trans (by decide) (Int.le_max_right _ _))

/-- Rounding with RNE. -/
theorem Fmt.roundMag_roundsAt {m : Nat} (hm : m ≠ 0) (e : Int) :
    ∃ Q, RoundsAt f ((m : K) * 2 ^ e) (f.field m e) Q (f.roundMag .rne m e).1 (f.roundMag .rne m e).2 := by
  have hfe := f.field_eq m e
  have hpos : 1 ≤ f.field m e := by omega
  have hr : f.roundMag .rne m e =
      (if pickUp .rne ((f.field m e - 1) * 2 ^ f.mb + (onGrid m e (f.field m e - f.bias - f.mb)).1)
          (onGrid m e (f.field m e - f.bias - f.mb)).2
        then (f.field m e - 1) * 2 ^ f.mb + (onGrid m e (f.field m e - f.bias - f.mb)).1 + 1
        else (f.field m e - 1) * 2 ^ f.mb + (onGrid m e (f.field m e - f.bias - f.mb)).1,
        (onGrid m e (f.field m e - f.bias - f.mb)).2 != 0) := by
    have ht : ((f.field m e : Int) - 1).toNat = f.field m e - 1 := by omega
    rw [Fmt.roundMag, if_neg (by simpa using hm)]
    dsimp only
    rw [← hfe, ht]
  have hg := onGrid_gridPos (K := K) m e (f.field m e - f.bias - f.mb)
  rw [hr]
  generalize onGrid m e (f.field m e - f.bias - f.mb) = g at hg ⊢
  have hu := two_zpow_pos (K := K) ((f.field m e : Int) - f.bias - f.mb)
  obtain ⟨hlo, hhi⟩ := topExp_bounds (K := K) hm e
  refine ⟨g.1, hpos, ?_, ?_, hg.lower, hg.upper, ?_, takesEven_pickUp hg _⟩
  · have h1 : (2 : K) ^ (topExp m e + 1) ≤ 2 ^ ((f.mb + 1 : Nat) + ((f.field m e : Int) - f.bias - f.mb)) :=
      zpow_le_zpow_right₀ one_le_two (by push_cast; omega)
    rw [zpow_add₀ two_ne_zero ((f.mb + 1 : Nat) : Int), zpow_natCast] at h1
    have h2 := lt_of_mul_lt_mul_right (hg.lower.trans_lt (hhi.trans_le h1)) hu.le
    exact_mod_cast h2
  · by_cases h1 : f.field m e = 1
    · exact .inl h1
    · right
      have h2 : topExp m e = f.mb + ((f.field m e : Int) - f.bias - f.mb) := by omega
      rw [h2, zpow_add₀ two_ne_zero, zpow_natCast] at hlo
      have h3 := lt_of_mul_lt_mul_right (hlo.trans_lt hg.upper) hu.le
      have h4 : 2 ^ f.mb < g.1 + 1 := by exact_mod_cast h3
      omega
  · rw [← hg.none_iff]
    simp

end

/-! The IEEE formats, and the encodings of their values. -/

/-- A format with infinities and NaN and the bias of IEEE 754, small enough for FP32 to hold (R31). -/
structure Fmt.Ieee (f : Fmt) : Prop where
  sb : f.sb = 1
  rule : f.rule = .ieee
  eb : 2 ≤ f.eb
  mb : 1 ≤ f.mb
  mb_le : f.mb ≤ 23
  bias : f.bias = 2 ^ (f.eb - 1) - 1
  bias_le : 2 ^ (f.eb - 1) ≤ 128
  bias_mb : 2 ^ (f.eb - 1) ≤ 2 ^ f.mb

theorem Fmt.ieee_fp32 : Fmt.Ieee .fp32 := by constructor <;> decide
theorem Fmt.ieee_fp16 : Fmt.Ieee .fp16 := by constructor <;> decide
theorem Fmt.ieee_bf16 : Fmt.Ieee .bf16 := by constructor <;> decide

namespace Fmt.Ieee
variable {f : Fmt} (h : f.Ieee)
include h

/-- The encoding of infinity is the one next above the largest finite value (R34). -/
theorem maxMag_succ : f.maxMag + 1 = (2 ^ f.eb - 1) * 2 ^ f.mb := by
  have h1 : 2 ^ 2 ≤ 2 ^ f.eb := Nat.pow_le_pow_right (by decide) h.eb
  have h2 : 0 < (2 ^ f.eb - 1) * 2 ^ f.mb := Nat.mul_pos (by omega) (Nat.two_pow_pos _)
  rw [Fmt.maxMag, h.rule]
  exact Nat.sub_add_cancel h2

theorem maxMag_lt : f.maxMag + 1 < 2 ^ (f.eb + f.mb) := by
  have h1 : 2 ^ 2 ≤ 2 ^ f.eb := Nat.pow_le_pow_right (by decide) h.eb
  rw [h.maxMag_succ, Nat.pow_add]
  exact Nat.mul_lt_mul_of_pos_right (by omega) (Nat.two_pow_pos _)

theorem signed_eq (s : Bool) (n : Nat) : f.signed s n = 2 ^ (f.eb + f.mb) * s.toNat + n := by
  cases s <;> simp [Fmt.signed, h.sb]

/-- The value of an encoding by its sign and magnitude. -/
theorem decode_signed (s : Bool) {n : Nat} (hn : n < 2 ^ (f.eb + f.mb)) :
    f.decode (f.signed s n) =
      if n / 2 ^ f.mb = 2 ^ f.eb - 1 then (if n % 2 ^ f.mb = 0 then .inf s else .nan)
      else .fin s (if n / 2 ^ f.mb = 0 then n else 2 ^ f.mb + n % 2 ^ f.mb) ((max (n / 2 ^ f.mb) 1 : Nat) - f.bias - f.mb) := by
  have hs : (2 ^ (f.eb + f.mb) * s.toNat + n) / 2 ^ (f.eb + f.mb) = s.toNat := by
    rw [Nat.mul_add_div (Nat.two_pow_pos _), Nat.div_eq_of_lt hn, Nat.add_zero]
  have hm : (2 ^ (f.eb + f.mb) * s.toNat + n) % 2 ^ (f.eb + f.mb) = n := by rw [Nat.mul_add_mod, Nat.mod_eq_of_lt hn]
  have hb : (s.toNat % 2 == 1) = s := by cases s <;> rfl
  have hz (h0 : n / 2 ^ f.mb = 0) : n % 2 ^ f.mb = n := by
    have := Nat.div_add_mod n (2 ^ f.mb)
    rwa [h0, Nat.mul_zero, Nat.zero_add] at this
  rw [h.signed_eq]
  simp only [Fmt.decode, h.sb, h.rule, hs, hm, hb, beq_self_eq_true, Bool.true_and, beq_iff_eq]
  have hfn : (FxRule.ieee == FxRule.fn && n == 2 ^ (f.eb + f.mb) - 1) = false := rfl
  rw [hfn, if_neg Bool.false_ne_true]
  by_cases h0 : n / 2 ^ f.mb = 0
  · simp only [h0, if_true, hz h0]
    rfl
  · rw [if_neg h0, if_neg h0, Nat.max_eq_left (Nat.pos_of_ne_zero h0)]

/-- A finite encoding denotes the value that its magnitude has. -/
theorem decode_finite (K : Type*) [Field K] (s : Bool) {n : Nat} (hn : n ≤ f.maxMag) :
    ∃ m e, f.decode (f.signed s n) = .fin s m e ∧ (m : K) * 2 ^ e = f.mag K n := by
  have hlt : n < (2 ^ f.eb - 1) * 2 ^ f.mb := by have := h.maxMag_succ; omega
  have hdiv : n / 2 ^ f.mb < 2 ^ f.eb - 1 := Nat.div_lt_of_lt_mul (by rwa [Nat.mul_comm])
  refine ⟨_, _, ?_, rfl⟩
  rw [h.decode_signed s (by have := h.maxMag_lt; omega), if_neg hdiv.ne]

end Fmt.Ieee

/-! The rounding of a finite value to FP32. -/

/-- A multiple of the quantum that RNE takes: within half a quantum, to the even one at a tie. -/
theorem TakesEven.near {K : Type*} [Field K] [LinearOrder K] [IsStrictOrderedRing K] {z u : K} {Q lo n : Nat}
    (hl : Q * u ≤ z) (hr : z < (Q + 1) * u) (ht : TakesEven z u Q lo n) :
    ∃ k : Nat, k + lo = n + Q ∧ (k = Q ∨ k = Q + 1) ∧ 2 * |z - k * u| ≤ u ∧ (2 * |z - k * u| = u → n % 2 = 0) ∧
      (z = Q * u ↔ z = k * u) := by
  have hdown : |z - Q * u| = z - Q * u := abs_of_nonneg (sub_nonneg.2 hl)
  have hup : |z - (Q + 1 : Nat) * u| = (Q + 1) * u - z := by
    rw [abs_sub_comm, abs_of_nonneg (sub_nonneg.2 (by push_cast; exact hr.le))]
    push_cast
    ring
  rcases ht with ⟨hn, h⟩ | ⟨hn, h⟩ | ⟨hn | hn, he, h⟩
  · refine ⟨Q, by omega, .inl rfl, ?_, fun h' => ?_, Iff.rfl⟩ <;> rw [hdown] at * <;> linarith
  · refine ⟨Q + 1, by omega, .inr rfl, ?_, fun h' => ?_, ?_⟩
    · rw [hup]; linarith
    · rw [hup] at h'; linarith
    · push_cast
      constructor <;> intro h' <;> linarith
  · exact ⟨Q, by omega, .inl rfl, by rw [hdown]; linarith, fun _ => he, Iff.rfl⟩
  · refine ⟨Q + 1, by omega, .inr rfl, by rw [hup]; linarith, fun _ => he, ?_⟩
    push_cast
    constructor <;> intro h' <;> linarith

/-- The multiple of the quantum that RNE takes has the rounded encoding. -/
theorem RoundsAt.near {K : Type*} [Field K] [LinearOrder K] [IsStrictOrderedRing K] {f : Fmt} {z : K} {E Q n : Nat} {nx : Bool}
    (h : RoundsAt f z E Q n nx) : let u : K := 2 ^ ((E : Int) - f.bias - f.mb)
    ∃ k : Nat, n = (E - 1) * 2 ^ f.mb + k ∧ f.mag K n = k * u ∧ 2 * |z - k * u| ≤ u ∧ (2 * |z - k * u| = u → n % 2 = 0) ∧
      (nx = false ↔ z = k * u) := by
  intro u
  obtain ⟨k, hk, hQ, hle, htie, hex⟩ := h.takes.near h.lower h.upper
  have hn : n = (E - 1) * 2 ^ f.mb + k := by omega
  have hs := h.small
  refine ⟨k, hn, ?_, hle, htie, h.exact_iff.trans hex⟩
  rw [hn]
  exact f.mag_grid h.pos (by omega) (h.normal.imp_right fun h => by omega)

namespace Fmt.Ieee
variable {f : Fmt} (h : f.Ieee)
include h

/-- Rounding of a finite value; an overflow gives infinity (R44). -/
theorem round_fin (s : Bool) (m : Nat) (e : Int) : f.round .rne false (.fin s m e) =
    if f.maxMag < (f.roundMag .rne m e).1 then ⟨f.signed s (f.maxMag + 1), true, true, false⟩
    else ⟨f.signed s (f.roundMag .rne m e).1, (f.roundMag .rne m e).2, false,
      (f.roundMag .rne m e).2 && f.tinyAfter .rne m e⟩ := by
  have hs : (f.sb == 0) = false := by rw [h.sb]; rfl
  simp only [Fmt.round, Fmt.overflowBits, h.rule, hs, Bool.and_false, Bool.false_eq_true, if_false, gt_iff_lt]

end Fmt.Ieee

/-- Settles O6: the multiple of the quantum that RNE takes has the encoding of the rounded magnitude. -/
theorem roundingIsNearestEven : Obligations.RoundingIsNearestEven := by
  intro neg m e hm r hover q v
  obtain ⟨Q, hQ⟩ := Fmt.fp32.roundMag_roundsAt (K := ℚ) hm e
  obtain ⟨k, hk, hmag, hle, htie, hex⟩ := hQ.near
  have hq : ((Fmt.fp32.field m e : Nat) : Int) - Fmt.fp32.bias - Fmt.fp32.mb = q := by rw [Fmt.field_eq]; rfl
  rw [hq] at hmag hle htie hex
  have hround := Fmt.ieee_fp32.round_fin neg m e
  have hmax : ¬ Fmt.fp32.maxMag < (Fmt.fp32.roundMag .rne m e).1 := fun hlt => by
    rw [if_pos hlt] at hround
    exact Bool.false_ne_true (hover.symm.trans (congrArg Rounded.overflow hround))
  rw [if_neg hmax] at hround
  have hnx : r.nx = (Fmt.fp32.roundMag .rne m e).2 := congrArg Rounded.nx hround
  have hbits : r.bits = Fmt.fp32.signed neg (Fmt.fp32.roundMag .rne m e).1 := congrArg Rounded.bits hround
  obtain ⟨m', e', hdec, hval⟩ := Fmt.ieee_fp32.decode_finite ℚ neg (Nat.le_of_not_lt hmax)
  refine ⟨k, hle, fun ht => ?_, hnx ▸ hex, m', e', hbits ▸ hdec, hval.trans hmag⟩
  have hev := htie ht
  have h23 : Fmt.fp32.mb = 23 := rfl
  rw [hk, h23] at hev
  omega

end Sys2Proof.Machine
end

section
/-! PROOF. What a V word leaves that writes elements of one register (R117-R119): each element, its poison, and nothing else. -/

namespace Sys2Proof.Machine

open Sys2Proof

/-! Numbers made of digits. -/

theorem ofDigits_digit {p : Nat} (hp : 0 < p) {l : List Nat} (h : ∀ x ∈ l, x < p) (i : Nat) :
    Nat.ofDigits p l / p ^ i % p = l.getD i 0 := by
  rw [Nat.ofDigits_div_pow_eq_ofDigits_drop i hp l h]
  rcases Nat.lt_or_ge i l.length with hi | hi
  · rw [List.drop_eq_getElem_cons hi, Nat.ofDigits_cons, Nat.add_mul_mod_self_left, List.getD_eq_getElem _ _ hi]
    exact Nat.mod_eq_of_lt (h _ (List.getElem_mem hi))
  · rw [List.drop_of_length_le hi, List.getD_eq_default _ _ hi]
    exact Nat.zero_mod p

theorem ofNat_ofDigits_el {w c : Nat} (hc : 0 < c) {l : List Nat} (h : ∀ x ∈ l, x < 2 ^ c) (hl : c * l.length ≤ w) (i : Nat) :
    ((BitVec.ofNat w (Nat.ofDigits (2 ^ c) l)).extractLsb' (c * i) c).toNat = l.getD i 0 := by
  have hlt : Nat.ofDigits (2 ^ c) l < 2 ^ w := calc
    _ < (2 ^ c) ^ l.length := Nat.ofDigits_lt_base_pow_length (Nat.one_lt_two_pow hc.ne') h
    _ = 2 ^ (c * l.length) := (Nat.pow_mul _ _ _).symm
    _ ≤ 2 ^ w := Nat.pow_le_pow_right Nat.two_pos hl
  rw [BitVec.extractLsb'_toNat, BitVec.toNat_ofNat, Nat.mod_eq_of_lt hlt, Nat.shiftRight_eq_div_pow, Nat.pow_mul,
    ofDigits_digit (Nat.two_pow_pos c) h]

/-- A container of a register that is packed from containers. -/
theorem packEls_el {c : Nat} (hc : 0 < c) {es : List Nat} (hl : c * es.length ≤ 4096) {i : Nat} (hi : i < es.length) :
    ((packEls c es).extractLsb' (c * i) c).toNat = es[i] % 2 ^ c := by
  have hd : ∀ x ∈ es.map (· % 2 ^ c), x < 2 ^ c := by
    intro x hx
    obtain ⟨y, -, rfl⟩ := List.mem_map.1 hx
    exact Nat.mod_lt y (Nat.two_pow_pos c)
  have hv : es.foldr (fun e a => (a <<< c) + e % 2 ^ c) 0 = Nat.ofDigits (2 ^ c) (es.map (· % 2 ^ c)) := by
    rw [Nat.ofDigits_eq_foldr, List.foldr_map]
    congr 1
    funext e a
    rw [Nat.shiftLeft_eq, Nat.add_comm, Nat.mul_comm]
    rfl
  rw [packEls, hv, ofNat_ofDigits_el hc hd (by simpa using hl), List.getD_eq_getElem _ _ (by simpa using hi), List.getElem_map]

theorem ofBits_getLsbD {w : Nat} {bs : List Bool} (i : Nat) : (ofBits w bs).getLsbD i = (decide (i < w) && bs.getD i false) := by
  have hv : bs.foldr (fun b n => 2 * n + b.toNat) 0 = Nat.ofDigits 2 (bs.map Bool.toNat) := by
    rw [Nat.ofDigits_eq_foldr, List.foldr_map]
    congr 1
    funext b n
    exact Nat.add_comm _ _
  have hd : ∀ x ∈ bs.map Bool.toNat, x < 2 := by
    intro x hx
    obtain ⟨b, -, rfl⟩ := List.mem_map.1 hx
    exact Bool.toNat_lt b
  rw [ofBits, BitVec.getLsbD_ofNat, hv, Nat.testBit_eq_decide_div_mod_eq, ofDigits_digit Nat.two_pos hd,
    show (0 : Nat) = Bool.toNat false from rfl, List.getD_map]
  cases bs.getD i false <;> rfl

/-! The elements of a register, before and after. -/

variable (c : Core) (t : ElType) (r d : VReg)

theorem ElType.cont_pos : 0 < t.cont := by unfold ElType.cont; split <;> omega

theorem ElType.cont_mul_count : t.cont * t.count ≤ 4096 := Nat.mul_div_le 4096 t.cont

/-- The elements of a register are those that `elAt` and `elPois` name. -/
theorem Core.els_eq : c.els t r = (List.range t.count).map (fun j => (c.elAt t r j, c.elPois t r j)) := by
  refine List.ext_getElem (by simp [Core.els, unpack]) fun i h _ => ?_
  simp [Core.els, unpack, Core.elAt, Core.elPois, BitVec.extractLsb'_toNat]

theorem Core.active_eq (g : PReg) : c.active t g = (List.range t.count).map (fun j => (c.pr g).getLsbD j) := rfl

theorem zipWith_map_range {α β γ : Type} (n : Nat) (f : α → β → γ) (a : Nat → α) (b : Nat → β) :
    List.zipWith f ((List.range n).map a) ((List.range n).map b) = (List.range n).map (fun j => f (a j) (b j)) := by
  rw [List.zipWith_map, List.zipWith_self]

/-- An element of the register that `putEls` writes. -/
theorem Core.elAt_putEls (all : Bool) (o : Nat → Option El) {j : Nat} (hj : j < t.count) :
    (c.putEls t d all ((List.range t.count).map o)).elAt t d j =
      match o j with
      | some x => x.1 % 2 ^ t.cont
      | none => c.elAt t d j := by
  have hu : unpack t.cont t.count (c.vr d) = (List.range t.count).map (c.elAt t d) :=
    List.map_congr_left fun i _ => (BitVec.extractLsb'_toNat _ _ _).symm
  rw [Core.elAt, Core.putEls, Core.vr_setV, if_pos rfl, hu, zipWith_map_range,
    packEls_el t.cont_pos (by simpa using t.cont_mul_count) (by simpa using hj), List.getElem_map, List.getElem_range]
  cases o j with
  | some x => rfl
  | none => exact Nat.mod_eq_of_lt (BitVec.isLt _)

/-! The marks of sectors (R119). -/

/-- The mark of a sector after a write of those of its `k` elements that `act` names. -/
theorem sectorMark_spec (old all : Bool) (k : Nat) (act : Nat → Prop) [DecidablePred act] (val : Nat → Nat) (pois : Nat → Bool) :
    let m := sectorMark old all ((List.range k).map (fun i => if act i then some (val i, pois i) else none))
    ((∃ i, i < k ∧ act i ∧ (all || pois i) = true) → m = true) ∧
    (¬ (∃ i, i < k ∧ act i ∧ (all || pois i) = true) →
      ((∀ i, i < k → act i) → m = false) ∧ (¬ (∀ i, i < k → act i) → m = old)) := by
  intro m
  have hany : ((List.range k).map (fun i => if act i then some (val i, pois i) else none)).any (fun e => match e with
      | some x => all || x.2
      | none => false) = true ↔ ∃ i, i < k ∧ act i ∧ (all || pois i) = true := by
    simp only [List.any_map, List.any_eq_true, List.mem_range, Function.comp]
    refine exists_congr fun i => and_congr_right fun _ => ?_
    by_cases h : act i <;> simp [h]
  have hall : ((List.range k).map (fun i => if act i then some (val i, pois i) else none)).all (fun e => e.isSome) = true ↔
      ∀ i, i < k → act i := by
    simp only [List.all_map, List.all_eq_true, List.mem_range, Function.comp]
    refine forall_congr' fun i => imp_congr_right fun _ => ?_
    by_cases h : act i <;> simp [h]
  refine ⟨fun h => if_pos (hany.2 h), fun h => ?_⟩
  have hm : m = _ := if_neg (mt hany.1 h)
  exact ⟨fun ha => hm.trans (if_pos (hall.2 ha)), fun ha => hm.trans (if_neg (mt hall.1 ha))⟩

variable {t}

/-- The elements of sector `q` are `256 / cont` in a row. -/
theorem ElType.sector_iff (hc : t.cont ∣ 256) {q : Nat} (hq : q < 16) (j : Nat) :
    (j < t.count ∧ j * t.cont / 256 = q) ↔ ∃ i, i < 256 / t.cont ∧ j = 256 / t.cont * q + i := by
  obtain ⟨k, hk⟩ := hc
  have hp := t.cont_pos
  have hk0 : 0 < k := Nat.pos_of_ne_zero fun h => by simp [h] at hk
  have hn : t.count = 16 * k := by
    rw [ElType.count, show 4096 = t.cont * (16 * k) by rw [Nat.mul_left_comm, ← hk], Nat.mul_div_cancel_left _ hp]
  rw [hn, hk, Nat.mul_comm j, Nat.mul_div_mul_left _ _ hp, Nat.mul_div_cancel_left _ hp]
  constructor
  · rintro ⟨-, rfl⟩
    exact ⟨j % k, Nat.mod_lt j hk0, (Nat.div_add_mod j k).symm⟩
  · rintro ⟨i, hi, rfl⟩
    refine ⟨?_, by rw [Nat.mul_add_div hk0, Nat.div_eq_of_lt hi, Nat.add_zero]⟩
    have : k * q + k ≤ k * 16 := by rw [← Nat.mul_succ]; exact Nat.mul_le_mul_left k hq
    omega

/-- The elements that `putEls` is given for sector `q`. -/
theorem ElType.sector_els (hc : t.cont ∣ 256) {q : Nat} (hq : q < 16) (o : Nat → Option El) :
    ((((List.range t.count).map o).drop (256 / t.cont * q)).take (256 / t.cont)) =
      (List.range (256 / t.cont)).map (fun i => o (256 / t.cont * q + i)) := by
  refine List.ext_getElem ?_ fun i h h' => ?_
  · obtain ⟨k, hk⟩ : ∃ k, 256 / t.cont = k := ⟨_, rfl⟩
    have hlast : ∀ i, i < k → k * q + i < t.count := fun i hi =>
      ((ElType.sector_iff hc hq _).2 ⟨i, by rwa [hk], by rw [hk]⟩).1
    simp only [hk, List.length_take, List.length_drop, List.length_map, List.length_range]
    rcases k.eq_zero_or_pos with h0 | h0
    · simp [h0]
    · have := hlast (k - 1) (by omega)
      omega
  · simp

/-- What `putEls` leaves of its register. -/
theorem elementsAre_putEls {s u : State} (hc : t.cont ∣ 256) {d : VReg} {all : Bool} {act : Nat → Prop} [DecidablePred act]
    {val : Nat → Nat} {pois : Nat → Bool}
    (hv : u.me.vr d = (s.me.putEls t d all ((List.range t.count).map (fun j => if act j then some (val j, pois j) else none))).vr d)
    (hp : u.me.vpois d =
      (s.me.putEls t d all ((List.range t.count).map (fun j => if act j then some (val j, pois j) else none))).vpois d) :
    ElementsAre s u t d act val (fun j => all || pois j) := by
  have hel {j : Nat} (hj : j < t.count) := s.me.elAt_putEls t d all (fun j => if act j then some (val j, pois j) else none) hj
  have hu (j : Nat) : u.me.elAt t d j = _ := congrArg (fun v => (v.extractLsb' (t.cont * j) t.cont).toNat) hv
  refine ⟨fun j hj ha => ?_, fun j hj ha => ?_, fun q hq => ?_⟩
  · rw [hu]
    refine (hel hj).trans ?_
    rw [if_pos ha]
  · rw [hu]
    refine (hel hj).trans ?_
    rw [if_neg ha]
  · have hm : (u.me.vpois d).getLsbD q = sectorMark ((s.me.vpois d).getLsbD q) all
        ((List.range (256 / t.cont)).map (fun i => if act (256 / t.cont * q + i) then
          some (val (256 / t.cont * q + i), pois (256 / t.cont * q + i)) else none)) := by
      rw [hp, Core.putEls, Core.vpois_setV, if_pos rfl, ofBits_getLsbD, decide_eq_true hq, Bool.true_and,
        List.getD_eq_getElem _ _ (by simpa using hq), List.getElem_map, List.getElem_range, ElType.sector_els hc hq]
    have hs := sectorMark_spec ((s.me.vpois d).getLsbD q) all (256 / t.cont) (fun i => act (256 / t.cont * q + i))
      (fun i => val (256 / t.cont * q + i)) (fun i => pois (256 / t.cont * q + i))
    rw [← hm] at hs
    have hex : (∃ j, j < t.count ∧ j * t.cont / 256 = q ∧ act j ∧ (all || pois j) = true) ↔
        ∃ i, i < 256 / t.cont ∧ act (256 / t.cont * q + i) ∧ (all || pois (256 / t.cont * q + i)) = true := by
      constructor
      · rintro ⟨j, hj, hjq, h⟩
        obtain ⟨i, hi, rfl⟩ := (ElType.sector_iff hc hq j).1 ⟨hj, hjq⟩
        exact ⟨i, hi, h⟩
      · rintro ⟨i, hi, h⟩
        obtain ⟨hj, hjq⟩ := (ElType.sector_iff hc hq _).2 ⟨i, hi, rfl⟩
        exact ⟨_, hj, hjq, h⟩
    have hfa : (∀ j, j < t.count → j * t.cont / 256 = q → act j) ↔
        ∀ i, i < 256 / t.cont → act (256 / t.cont * q + i) := by
      constructor
      · intro h i hi
        obtain ⟨hj, hjq⟩ := (ElType.sector_iff hc hq _).2 ⟨i, hi, rfl⟩
        exact h _ hj hjq
      · intro h j hj hjq
        obtain ⟨i, hi, rfl⟩ := (ElType.sector_iff hc hq j).1 ⟨hj, hjq⟩
        exact h i hi
    rw [hex, hfa]
    exact hs

/-- `putEls` changes one v register and no more. -/
theorem Core.putEls_eq (d : VReg) (all : Bool) (es : List (Option El)) : c.putEls t d all es =
    { c with v := { c.v with v := (c.putEls t d all es).v.v, vp := (c.putEls t d all es).v.vp } } := rfl

theorem Core.putEls_ne {d r : VReg} (h : r ≠ d) (all : Bool) (es : List (Option El)) :
    (c.putEls t d all es).vr r = c.vr r ∧ (c.putEls t d all es).vpois r = c.vpois r := by
  rw [Core.putEls, Core.vr_setV, Core.vpois_setV, if_neg h, if_neg h]
  exact ⟨rfl, rfl⟩

/-- A V word that writes the elements of one register that its predicate makes active. -/
theorem writesEls_of_putEls {i : Instr} {s : State} (hc : t.cont ∣ 256) {g : PReg} {d : VReg} {val : Nat → Nat} {pois : Nat → Bool}
    (h : exec i s = .next (s.setMe (s.me.putEls t d (s.me.ppois g) ((List.range t.count).map (fun j =>
      if (s.me.pr g).getLsbD j = true then some (val j, pois j) else none)))).retireV) : WritesEls i s t g d val pois := by
  refine ⟨_, h, ⟨onlyCore_setMe_retireV s _, fun r hr => ?_, ?_⟩, elementsAre_putEls hc ?_ ?_⟩ <;> rw [me_setMe_retireV]
  · exact Core.putEls_ne s.me (by simpa using hr) _ _
  · rfl
  · rfl
  · rfl

/-- A V word that maps a function over the elements of one register (R118). -/
theorem writesEls_of_map1 {i : Instr} {s : State} {et : ETy} (ht : s.me.etype et = some t) (hc : t.cont ∣ 256) {g : PReg} {d a : VReg}
    {fn : ElType → Nat → Nat} (h : exec i s = s.typedV et (fun t c => c.map1 t g d a (fn t))) :
    WritesEls i s t g d (fun j => fn t (s.me.elAt t a j)) (s.me.elPois t a) := by
  refine writesEls_of_putEls hc (h.trans ?_)
  rw [State.typedV_of ht, Core.map1, Core.putActive, Core.els_eq, List.map_map, Core.active_eq, gated, zipWith_map_range]
  rfl

end Sys2Proof.Machine
end

section
/-! PROOF. VRCP and VRSQ give the exact value rounded once (R43, R44, R126): their quotients and square roots, cut off with a last odd
bit for the rest, lie on the same side of every value of a format, and of every middle between two, as the exact ones. -/

namespace Sys2Proof.Machine

open Sys2Proof

section
variable {K : Type*} [Field K] [LinearOrder K] [IsStrictOrderedRing K]

/-! Values that every cut at a multiple of a unit leaves on the same side. -/

/-- Two values compare alike with every multiple of a unit. -/
def CutsAlike (y z u : K) : Prop := ∀ c : Nat, (y < c * u ↔ z < c * u) ∧ (c * u < y ↔ c * u < z)

omit [IsStrictOrderedRing K] in
theorem CutsAlike.refl (y u : K) : CutsAlike y y u := fun _ => ⟨Iff.rfl, Iff.rfl⟩

theorem CutsAlike.coarser {y z : K} {g q : Int} (h : CutsAlike y z (2 ^ g)) (hq : g ≤ q) : CutsAlike y z (2 ^ q) := by
  intro c
  rw [two_zpow_eq_mul hq, ← mul_assoc, ← Nat.cast_mul]
  exact h _

/-- A value cut off to `Q` units, with a last odd bit where something is left. -/
theorem cutsAlike_sticky {y : K} {Q b : Nat} {g : Int} (hl : Q * 2 ^ g ≤ y) (hr : y < (Q + 1) * 2 ^ g)
    (hb : b = 0 ∧ y = Q * 2 ^ g ∨ b = 1 ∧ Q * 2 ^ g < y) : CutsAlike y ((2 * Q + b : Nat) * 2 ^ (g - 1)) (2 ^ g) := by
  have hu : (2 : K) ^ g = 2 * 2 ^ (g - 1) := by rw [mul_comm, ← zpow_add_one₀ two_ne_zero, sub_add_cancel]
  have hp := two_zpow_pos (K := K) (g - 1)
  intro c
  rw [hu] at hl hr hb ⊢
  generalize (2 : K) ^ (g - 1) = v at hl hr hb hp ⊢
  rcases hb with ⟨rfl, hy⟩ | ⟨rfl, hy⟩
  · have hz : ((2 * Q + 0 : Nat) : K) * v = y := by rw [hy]; push_cast; ring
    rw [hz]
    exact ⟨Iff.rfl, Iff.rfl⟩
  · have hz : ((2 * Q + 1 : Nat) : K) * v = Q * (2 * v) + v := by push_cast; ring
    rw [hz]
    rcases Nat.lt_or_ge Q c with hc | hc
    · have h1 : ((Q : K) + 1) * (2 * v) ≤ c * (2 * v) := mul_le_mul_of_nonneg_right (by exact_mod_cast hc) (by linarith)
      exact ⟨iff_of_true (by linarith) (by linarith), iff_of_false (by linarith) (by linarith)⟩
    · have h1 : (c : K) * (2 * v) ≤ Q * (2 * v) := mul_le_mul_of_nonneg_right (by exact_mod_cast hc) (by linarith)
      exact ⟨iff_of_false (by linarith) (by linarith), iff_of_true (by linarith) (by linarith)⟩

/-! Nearest, ties to even. -/

/-- The encoding of a magnitude nearest to a value, the even one of two, were the exponent field without an upper end. -/
def NearEven (f : Fmt) (y : K) (n : Nat) : Prop :=
  ∃ lo, f.mag K lo ≤ y ∧ y < f.mag K (lo + 1) ∧
    ((n = lo ∧ 2 * y < f.mag K lo + f.mag K (lo + 1)) ∨ (n = lo + 1 ∧ f.mag K lo + f.mag K (lo + 1) < 2 * y) ∨
      ((n = lo ∨ n = lo + 1) ∧ n % 2 = 0 ∧ 2 * y = f.mag K lo + f.mag K (lo + 1)))

/-- The rounding of a value is that of every value that cuts below its quantum leave on the same side. -/
theorem RoundsAt.nearEven {f : Fmt} {y z : K} {E Q n : Nat} {nx : Bool} (h : RoundsAt f z E Q n nx) {g : Int}
    (hg : g < (E : Int) - f.bias - f.mb) (hc : CutsAlike y z (2 ^ g)) : NearEven f y n := by
  have hs := h.small
  have hu : (2 : K) ^ ((E : Int) - f.bias - f.mb) = 2 * 2 ^ ((E : Int) - f.bias - f.mb - 1) := by
    rw [mul_comm, ← zpow_add_one₀ two_ne_zero, sub_add_cancel]
  have hlo := f.mag_grid (K := K) h.pos hs.le h.normal
  have hhi := f.mag_grid (K := K) h.pos (Nat.succ_le_of_lt hs) (h.normal.imp_right Nat.le_succ_of_le)
  obtain ⟨hl, hr, ht⟩ : _ ∧ _ ∧ _ := ⟨h.lower, h.upper, h.takes⟩
  have cut := hc.coarser (Int.le_sub_one_of_lt hg)
  rw [hu] at *
  generalize (2 : K) ^ ((E : Int) - f.bias - f.mb - 1) = v at *
  have c0 := cut (2 * Q)
  have c1 := cut (2 * Q + 1)
  have c2 := cut (2 * Q + 2)
  push_cast at c0 c1 c2 hhi
  have hy0 : Q * (2 * v) ≤ y := le_of_not_gt fun h => by have := c0.1.1 (by linarith); linarith
  have hy2 : y < (Q + 1) * (2 * v) := by have := c2.1.2 (by linarith); linarith
  refine ⟨(E - 1) * 2 ^ f.mb + Q, by rw [hlo]; exact hy0, by rw [Nat.add_assoc, hhi]; exact hy2, ?_⟩
  rw [Nat.add_assoc ((E - 1) * 2 ^ f.mb) Q 1, hlo, hhi]
  rcases ht with ⟨hn, h⟩ | ⟨hn, h⟩ | ⟨hn, he, h⟩
  · exact .inl ⟨hn, by have := c1.1.2 (by linarith); linarith⟩
  · exact .inr (.inl ⟨hn, by have := c1.2.2 (by linarith); linarith⟩)
  · refine .inr (.inr ⟨hn, he, le_antisymm (le_of_not_gt fun h' => ?_) (le_of_not_gt fun h' => ?_)⟩)
    · have := c1.2.1 (by linarith); linarith
    · have := c1.1.1 (by linarith); linarith

variable {f : Fmt} {y : K} {n : Nat}

/-- No other encoding is nearer, and an odd one has no equally near beside it. -/
theorem NearEven.nearest (h : NearEven f y n) (k : Nat) :
    |f.mag K n - y| ≤ |f.mag K k - y| ∧ (|f.mag K n - y| = |f.mag K k - y| → f.mag K n ≠ f.mag K k → n % 2 = 0) := by
  obtain ⟨lo, hlo, hhi, h⟩ := h
  have hmono := (f.mag_strictMono (K := K)).monotone
  have hl : |f.mag K lo - y| = y - f.mag K lo := by rw [abs_sub_comm]; exact abs_of_nonneg (by linarith)
  have hh : |f.mag K (lo + 1) - y| = f.mag K (lo + 1) - y := abs_of_nonneg (by linarith)
  have hk : (f.mag K k ≤ f.mag K lo ∧ |f.mag K k - y| = y - f.mag K k) ∨
      (f.mag K (lo + 1) ≤ f.mag K k ∧ |f.mag K k - y| = f.mag K k - y) := by
    rcases Nat.lt_or_ge lo k with hk | hk
    · have := hmono (Nat.succ_le_of_lt hk)
      exact .inr ⟨this, abs_of_nonneg (by linarith [show f.mag K (lo + 1) ≤ f.mag K k from this])⟩
    · have := hmono hk
      exact .inl ⟨this, by rw [abs_sub_comm]; exact abs_of_nonneg (by linarith)⟩
  rcases h with ⟨rfl, h⟩ | ⟨rfl, h⟩ | ⟨rfl | rfl, he, h⟩
  · rw [hl]
    rcases hk with ⟨hk, h'⟩ | ⟨hk, h'⟩ <;> rw [h']
    · exact ⟨by linarith, fun e ne => absurd (by linarith) ne⟩
    · exact ⟨by linarith, fun e ne => by linarith⟩
  · rw [hh]
    rcases hk with ⟨hk, h'⟩ | ⟨hk, h'⟩ <;> rw [h']
    · exact ⟨by linarith, fun e ne => by linarith⟩
    · exact ⟨by linarith, fun e ne => absurd (by linarith) ne⟩
  · rw [hl]
    rcases hk with ⟨hk, h'⟩ | ⟨hk, h'⟩ <;> rw [h'] <;> exact ⟨by linarith, fun _ _ => he⟩
  · rw [hh]
    rcases hk with ⟨hk, h'⟩ | ⟨hk, h'⟩ <;> rw [h'] <;> exact ⟨by linarith, fun _ _ => he⟩

/-- A value of the format is its own rounding. -/
theorem NearEven.eq_of_mag {N : Nat} (h : NearEven f (f.mag K N) n) : n = N := by
  have hz := (h.nearest N).1
  rw [sub_self, abs_zero] at hz
  exact (f.mag_strictMono (K := K)).injective (sub_eq_zero.1 (abs_nonpos_iff.1 hz))

/-- The rounding of a magnitude. -/
theorem Fmt.roundMag_nearEven (f : Fmt) {m : Nat} (hm : m ≠ 0) {e g : Int} (hg : g < topExp m e - f.mb)
    (hc : CutsAlike y ((m : K) * 2 ^ e) (2 ^ g)) : NearEven f y (f.roundMag .rne m e).1 := by
  obtain ⟨Q, hQ⟩ := f.roundMag_roundsAt (K := K) hm e
  refine hQ.nearEven ?_ hc
  have := f.field_eq m e
  omega

end

/-- The encodings up to infinity: the nearest of all is infinity for a value that rounds beyond it. -/
theorem NearEven.nearest_min {f : Fmt} {y : ℝ} {n : Nat} (hy : NearEven f y n) {k : Nat} (hk : k ≤ f.maxMag + 1) :
    let N := min n (f.maxMag + 1)
    |f.mag ℝ N - y| ≤ |f.mag ℝ k - y| ∧ (|f.mag ℝ N - y| = |f.mag ℝ k - y| → f.mag ℝ N ≠ f.mag ℝ k → N % 2 = 0) := by
  intro N
  rcases Nat.le_total n (f.maxMag + 1) with hn | hn
  · rw [show N = n from Nat.min_eq_left hn]
    exact hy.nearest k
  · rcases hn.eq_or_lt with he | hlt
    · rw [show N = n from by omega]
      exact hy.nearest k
    · rw [show N = f.maxMag + 1 from Nat.min_eq_right hn]
      obtain ⟨lo, hlo, -, hc⟩ := hy
      have hmono := (f.mag_strictMono (K := ℝ)).monotone
      have h1 : f.mag ℝ (f.maxMag + 1) ≤ f.mag ℝ lo := hmono (by rcases hc with ⟨h, -⟩ | ⟨h, -⟩ | ⟨h | h, -, -⟩ <;> omega)
      have h2 : f.mag ℝ k ≤ f.mag ℝ (f.maxMag + 1) := hmono hk
      rw [abs_of_nonpos (by linarith), abs_of_nonpos (by linarith)]
      exact ⟨by linarith, fun e ne => absurd (by linarith) ne⟩

/-! The reals that the encodings of an IEEE format denote. -/

/-- The sign of a value. -/
noncomputable def sgn (s : Bool) : ℝ := if s then -1 else 1

/-- The real that an encoding denotes, with an infinity as the power of two next above the largest finite value (R44). -/
noncomputable def Fmt.real (f : Fmt) (b : Nat) : Option ℝ :=
  match f.decode b with
  | .fin s m e => some (sgn s * m * 2 ^ e)
  | .inf s => some (sgn s * 2 ^ (f.bias + 1))
  | .nan => none

/-- An encoding whose real no other is nearer to `y` than, the even one of two. -/
def Fmt.NearestBits (f : Fmt) (y : ℝ) (b : Nat) : Prop :=
  b < 2 ^ f.width ∧ ∃ v, f.real b = some v ∧ ∀ b' w, b' < 2 ^ f.width → f.real b' = some w →
    |v - y| ≤ |w - y| ∧ (|v - y| = |w - y| → v ≠ w → b % 2 = 0)

namespace Fmt.Ieee
variable {f : Fmt} (h : f.Ieee)
include h

theorem two_pow_eb : 2 ^ f.eb = 2 * 2 ^ (f.eb - 1) := by
  have := h.eb
  rw [← Nat.pow_succ', Nat.succ_eq_add_one, Nat.sub_add_cancel (by omega)]

theorem mag_maxMag_succ : f.mag ℝ (f.maxMag + 1) = 2 ^ (f.bias + 1) := by
  have hb := h.bias
  have hp : (2 : Int) ^ f.eb = 2 * 2 ^ (f.eb - 1) := by exact_mod_cast h.two_pow_eb
  have hz : ((2 ^ f.eb - 1 : Nat) : Int) = 2 ^ f.eb - 1 := by push_cast [Nat.one_le_two_pow]; rfl
  have h1 : 0 < (2 : Int) ^ (f.eb - 1) := by positivity
  rw [h.maxMag_succ, Fmt.mag, Nat.mul_div_cancel _ (Nat.two_pow_pos _), if_neg (by omega), Nat.mul_mod_left, Nat.add_zero,
    Nat.cast_pow, Nat.cast_two, ← zpow_natCast, ← zpow_add₀ two_ne_zero]
  congr 1
  omega

/-- The real of an encoding by its sign and magnitude. -/
theorem real_signed (s : Bool) {n : Nat} (hn : n ≤ f.maxMag + 1) : f.real (f.signed s n) = some (sgn s * f.mag ℝ n) := by
  rcases Nat.lt_or_ge f.maxMag n with hlt | hle
  · obtain rfl : n = f.maxMag + 1 := by omega
    have hd : f.decode (f.signed s (f.maxMag + 1)) = .inf s := by
      rw [h.decode_signed s h.maxMag_lt, h.maxMag_succ, Nat.mul_div_cancel _ (Nat.two_pow_pos _), if_pos rfl, Nat.mul_mod_left,
        if_pos rfl]
    rw [Fmt.real, hd, h.mag_maxMag_succ]
  · obtain ⟨m, e, hd, hv⟩ := h.decode_finite ℝ s hle
    rw [Fmt.real, hd, ← hv]
    exact congrArg some (mul_assoc _ _ _)

/-- Every encoding that denotes a real has a sign and a magnitude up to infinity. -/
theorem real_eq_some {b : Nat} (hb : b < 2 ^ f.width) {w : ℝ} (hw : f.real b = some w) :
    ∃ s n, b = f.signed s n ∧ n ≤ f.maxMag + 1 ∧ w = sgn s * f.mag ℝ n := by
  have hwd : f.width = f.eb + f.mb + 1 := by rw [Fmt.width, h.sb]; omega
  rw [hwd, Nat.pow_succ] at hb
  have hn : b % 2 ^ (f.eb + f.mb) < 2 ^ (f.eb + f.mb) := Nat.mod_lt _ (Nat.two_pow_pos _)
  obtain ⟨s, hs⟩ : ∃ s : Bool, b / 2 ^ (f.eb + f.mb) = s.toNat := by
    have : b / 2 ^ (f.eb + f.mb) < 2 := Nat.div_lt_of_lt_mul hb
    rcases Nat.lt_or_ge (b / 2 ^ (f.eb + f.mb)) 1 with h1 | h1
    · exact ⟨false, Nat.lt_one_iff.1 h1⟩
    · exact ⟨true, Nat.le_antisymm (Nat.le_of_lt_succ this) h1⟩
  have hbs : b = f.signed s (b % 2 ^ (f.eb + f.mb)) := by
    rw [h.signed_eq, ← hs, Nat.div_add_mod]
  generalize b % 2 ^ (f.eb + f.mb) = n at *
  subst hbs
  by_cases hle : n ≤ f.maxMag + 1
  · exact ⟨s, n, rfl, hle, Option.some.inj (hw.symm.trans (h.real_signed s hle))⟩
  · exfalso
    rw [h.maxMag_succ] at hle
    rw [Nat.pow_add] at hn
    have hp : 0 < 2 ^ f.mb := Nat.two_pow_pos _
    have hd1 : n / 2 ^ f.mb < 2 ^ f.eb := Nat.div_lt_of_lt_mul (by rwa [Nat.mul_comm])
    have hd2 : 2 ^ f.eb - 1 ≤ n / 2 ^ f.mb := (Nat.le_div_iff_mul_le hp).2 (by omega)
    have hdiv : n / 2 ^ f.mb = 2 ^ f.eb - 1 := by omega
    have hmod : n % 2 ^ f.mb ≠ 0 := fun h0 => by
      have := Nat.div_add_mod n (2 ^ f.mb)
      rw [hdiv, h0, Nat.mul_comm] at this
      omega
    rw [Fmt.real, h.decode_signed s (by rwa [Nat.pow_add]), if_pos hdiv, if_neg hmod] at hw
    exact absurd hw (by simp)

theorem signed_lt (s : Bool) {n : Nat} (hn : n ≤ f.maxMag + 1) : f.signed s n < 2 ^ f.width := by
  have h1 := h.maxMag_lt
  have hwd : f.width = f.eb + f.mb + 1 := by rw [Fmt.width, h.sb]; omega
  rw [h.signed_eq, hwd, Nat.pow_succ]
  cases s <;> simp only [Bool.toNat_true, Bool.toNat_false] <;> omega

theorem signed_mod_two (s : Bool) (n : Nat) : f.signed s n % 2 = n % 2 := by
  have : 2 ^ (f.eb + f.mb) = 2 * 2 ^ (f.eb + f.mb - 1) := by
    have := h.mb
    rw [← Nat.pow_succ', Nat.succ_eq_add_one, Nat.sub_add_cancel (by omega)]
  rw [h.signed_eq, this, Nat.mul_assoc, Nat.mul_add_mod]

/-- What a value rounds to, with its sign. -/
theorem nearestBits_signed {y : ℝ} (hy0 : 0 < y) {n : Nat} (hy : NearEven f y n) (s : Bool) :
    f.NearestBits (sgn s * y) (f.signed s (min n (f.maxMag + 1))) := by
  have hN : min n (f.maxMag + 1) ≤ f.maxMag + 1 := Nat.min_le_right _ _
  refine ⟨h.signed_lt s hN, _, h.real_signed s hN, fun b w hb hw => ?_⟩
  obtain ⟨t, k, -, hk, rfl⟩ := h.real_eq_some hb hw
  obtain ⟨hle, heq⟩ := hy.nearest_min hk
  rw [h.signed_mod_two]
  generalize min n (f.maxMag + 1) = N at *
  have hpos (k : Nat) : 0 ≤ f.mag ℝ k := by
    rw [← f.mag_zero (K := ℝ)]
    exact (f.mag_strictMono (K := ℝ)).monotone (Nat.zero_le k)
  have habs (x : ℝ) : |sgn s * x - sgn s * y| = |x - y| := by
    rw [← mul_sub, abs_mul]
    cases s <;> simp [sgn]
  rw [habs]
  by_cases hts : t = s
  · subst hts
    rw [habs]
    exact ⟨hle, fun e ne => heq e fun h' => ne (congrArg _ h')⟩
  · have hw : sgn t * f.mag ℝ k = sgn s * -f.mag ℝ k := by
      cases s <;> cases t <;> simp [sgn] at hts ⊢
    have hfar : |-f.mag ℝ k - y| = f.mag ℝ k + y := by
      rw [← abs_neg, neg_sub, sub_neg_eq_add, add_comm]
      exact abs_of_nonneg (by linarith [hpos k])
    have hnear : |f.mag ℝ k - y| ≤ f.mag ℝ k + y := abs_le.2 ⟨by linarith [hpos k], by linarith⟩
    rw [hw, habs, hfar]
    refine ⟨hle.trans hnear, fun e ne => heq (le_antisymm hle (hnear.trans_eq e.symm)) fun h' => ?_⟩
    rw [← h', abs_sub_comm] at e
    have := hpos N
    rcases abs_cases (y - f.mag ℝ N) with ⟨h1, -⟩ | ⟨h1, -⟩
    · have hz : f.mag ℝ N = 0 := by linarith
      exact ne (by rw [← h', hz]; simp)
    · linarith

theorem roundBits_fin (s : Bool) (m : Nat) (e : Int) :
    f.roundBits .rne false (.fin s m e) = f.signed s (min (f.roundMag .rne m e).1 (f.maxMag + 1)) := by
  rw [Fmt.roundBits, h.round_fin]
  split
  · rw [Nat.min_eq_right (by omega)]
  · rw [Nat.min_eq_left (by omega)]

/-- The rounding of a value that is cut off far below its leading bit, with a last odd bit where something is left. -/
theorem nearestBits_sticky {y : ℝ} {Q b : Nat} {g e : Int} (hQ : 2 ^ 30 ≤ Q) (he : e = g - 1) (hl : Q * 2 ^ g ≤ y)
    (hr : y < (Q + 1) * 2 ^ g) (hb : b = 0 ∧ y = Q * 2 ^ g ∨ b = 1 ∧ Q * 2 ^ g < y) (s : Bool) :
    f.NearestBits (sgn s * y) (f.roundBits .rne false (.fin s (2 * Q + b) e)) := by
  subst he
  have hm : 2 * Q + b ≠ 0 := by omega
  have hlog : 30 ≤ Nat.log2 (2 * Q + b) := (Nat.le_log2 hm).2 (by omega)
  have h0 : (0 : ℝ) < Q * 2 ^ g := mul_pos (by exact_mod_cast (by omega : 0 < Q)) (two_zpow_pos g)
  rw [h.roundBits_fin]
  refine h.nearestBits_signed (h0.trans_le hl) (f.roundMag_nearEven hm ?_ (cutsAlike_sticky hl hr hb)) s
  have := h.mb_le
  rw [topExp]
  omega

end Fmt.Ieee

end Sys2Proof.Machine
end

section
/-! PROOF. The special functions (R126): the reciprocal and the reciprocal square root rounded once, and exact powers of two. -/

namespace Sys2Proof.Machine

open Sys2Proof

/-! The integer square root. -/

theorem isqrtFrom_spec (b n r : Nat) (hl : r * r ≤ n) (hr : n < (r + 2 ^ (b + 1)) * (r + 2 ^ (b + 1))) :
    isqrtFrom b n r * isqrtFrom b n r ≤ n ∧ n < (isqrtFrom b n r + 1) * (isqrtFrom b n r + 1) := by
  induction b generalizing r with
  | zero =>
    unfold isqrtFrom
    split
    · next h => exact ⟨h, hr⟩
    · next h => exact ⟨hl, Nat.lt_of_not_le h⟩
  | succ b ih =>
    unfold isqrtFrom
    dsimp only
    split
    · next h => exact ih _ h (by rwa [Nat.add_assoc, ← Nat.mul_two, ← Nat.pow_succ])
    · next h => exact ih _ hl (Nat.lt_of_not_le h)

theorem isqrt_spec (n : Nat) : isqrt n * isqrt n ≤ n ∧ n < (isqrt n + 1) * (isqrt n + 1) := by
  refine isqrtFrom_spec _ n 0 (Nat.zero_le n) ?_
  rw [Nat.zero_add, ← Nat.pow_add]
  exact Nat.lt_log2_self.trans_le (Nat.pow_le_pow_right Nat.two_pos (by omega))

/-! What VRCP and VRSQ cut off. -/

theorem pow_log2_bounds {m : Nat} (hm : m ≠ 0) : 2 ^ Nat.log2 m ≤ m ∧ m < 2 * 2 ^ Nat.log2 m :=
  ⟨Nat.log2_self_le hm, by rw [← Nat.pow_succ']; exact Nat.lt_log2_self⟩

/-- The reciprocal, cut off to 79 bits or more. -/
theorem reciprocal_bounds {m : Nat} (hm : m ≠ 0) (e : Int) :
    let k := Nat.log2 m + 80
    let g : Int := -e - k
    let Q := 2 ^ k / m
    2 ^ 30 ≤ Q ∧ (Q : ℝ) * 2 ^ g ≤ 1 / (m * 2 ^ e) ∧ (1 : ℝ) / (m * 2 ^ e) < (Q + 1) * 2 ^ g ∧
      (2 ^ k % m = 0 → (1 : ℝ) / (m * 2 ^ e) = Q * 2 ^ g) ∧ (2 ^ k % m ≠ 0 → (Q : ℝ) * 2 ^ g < 1 / (m * 2 ^ e)) := by
  intro k g Q
  have hm0 : 0 < m := Nat.pos_of_ne_zero hm
  have hm' : (0 : ℝ) < m := by exact_mod_cast hm0
  have hg := two_zpow_pos (K := ℝ) g
  have hdm : m * Q + 2 ^ k % m = 2 ^ k := Nat.div_add_mod _ _
  have hmod : 2 ^ k % m < m := Nat.mod_lt _ hm0
  have hy : (1 : ℝ) / (m * 2 ^ e) = (2 ^ k : Nat) / m * 2 ^ g := by
    have : (2 : ℝ) ^ g = (2 ^ e)⁻¹ * ((2 ^ k : Nat) : ℝ)⁻¹ := by
      rw [show g = -e + -(k : Int) from rfl, zpow_add₀ two_ne_zero, zpow_neg, zpow_neg, zpow_natCast, Nat.cast_pow, Nat.cast_two]
    have h2 : ((2 ^ k : Nat) : ℝ) ≠ 0 := by positivity
    rw [this]
    field_simp
  rw [hy, mul_le_mul_iff_left₀ hg, mul_lt_mul_iff_left₀ hg, mul_lt_mul_iff_left₀ hg, mul_left_inj' hg.ne', le_div_iff₀ hm',
    div_lt_iff₀ hm', lt_div_iff₀ hm', div_eq_iff hm'.ne']
  refine ⟨?_, ?_, ?_, fun h => ?_, fun h => ?_⟩
  · refine (Nat.le_div_iff_mul_le hm0).2 ?_
    have := (pow_log2_bounds hm).2
    calc 2 ^ 30 * m ≤ 2 ^ 30 * (2 * 2 ^ Nat.log2 m) := Nat.mul_le_mul_left _ this.le
      _ = 2 ^ (Nat.log2 m + 31) := by rw [Nat.pow_add]; omega
      _ ≤ 2 ^ k := Nat.pow_le_pow_right Nat.two_pos (by omega)
  · exact_mod_cast (by rw [Nat.mul_comm]; omega : Q * m ≤ 2 ^ k)
  · exact_mod_cast (by rw [Nat.add_mul, Nat.mul_comm Q]; omega : 2 ^ k < (Q + 1) * m)
  · exact_mod_cast (by rw [Nat.mul_comm Q]; omega : 2 ^ k = Q * m)
  · exact_mod_cast (by rw [Nat.mul_comm]; omega : Q * m < 2 ^ k)

/-- What `rsqrtVal` makes of `m * 2^(2 * e)`. -/
def rsqrtEven (m : Nat) (e : Int) : FVal :=
  let k := Nat.log2 m + 160
  let r := isqrt (2 ^ (2 * k) / m)
  .fin false (2 * r + (if r * r * m == 2 ^ (2 * k) then 0 else 1)) (-e - k - 1)

/-- Every magnitude has an even exponent, with its significand doubled where it must be. -/
theorem rsqrtVal_eq {m : Nat} (hm : m ≠ 0) (e : Int) :
    ∃ (n : Nat) (q : Int), n ≠ 0 ∧ (m : ℝ) * 2 ^ e = n * 2 ^ (2 * q) ∧ rsqrtVal m e = rsqrtEven n q := by
  by_cases he : e % 2 = 0
  · refine ⟨m, e / 2, hm, by rw [Int.mul_ediv_cancel' (Int.dvd_of_emod_eq_zero he)], ?_⟩
    simp only [rsqrtVal, rsqrtEven, he, beq_self_eq_true, if_true]
  · refine ⟨2 * m, (e - 1) / 2, by omega, ?_, ?_⟩
    · rw [Int.mul_ediv_cancel' (by omega), zpow_sub_one₀ two_ne_zero]
      push_cast
      ring
    · simp only [rsqrtVal, rsqrtEven, he, beq_iff_eq, if_false]

/-- The reciprocal square root of `m * 2^(2 * e)`, cut off to 159 bits or more. -/
theorem rsqrt_bounds {m : Nat} (hm : m ≠ 0) (e : Int) :
    let k := Nat.log2 m + 160
    let g : Int := -e - k
    let r := isqrt (2 ^ (2 * k) / m)
    let y := 1 / Real.sqrt (m * 2 ^ (2 * e))
    2 ^ 30 ≤ r ∧ (r : ℝ) * 2 ^ g ≤ y ∧ y < (r + 1) * 2 ^ g ∧
      (r * r * m = 2 ^ (2 * k) → y = r * 2 ^ g) ∧ (r * r * m ≠ 2 ^ (2 * k) → (r : ℝ) * 2 ^ g < y) := by
  intro k g r y
  have hk : k = Nat.log2 m + 160 := rfl
  clear_value k
  have hm0 : 0 < m := Nat.pos_of_ne_zero hm
  have hm' : (0 : ℝ) < m := by exact_mod_cast hm0
  have hg := two_zpow_pos (K := ℝ) g
  obtain ⟨hl, hr⟩ := isqrt_spec (2 ^ (2 * k) / m)
  change r * r ≤ _ at hl
  change _ < (r + 1) * (r + 1) at hr
  have hl' : r * r * m ≤ 2 ^ (2 * k) := (Nat.le_div_iff_mul_le hm0).1 hl
  have hr' : 2 ^ (2 * k) < (r + 1) * (r + 1) * m := (Nat.div_lt_iff_lt_mul hm0).1 hr
  have hy0 : 0 < y := by positivity
  have hy : y ^ 2 * m = 2 ^ (2 * k) * (2 ^ g) ^ 2 := by
    have h2 : (2 : ℝ) ^ (2 * k) * (2 ^ g) ^ 2 = (2 ^ (2 * e))⁻¹ := by
      rw [← zpow_natCast, ← zpow_natCast, ← zpow_mul, ← zpow_add₀ two_ne_zero, ← zpow_neg]
      congr 1
      push_cast
      omega
    rw [h2, div_pow, Real.sq_sqrt (by positivity)]
    field_simp
  have hle (c : Nat) : (c : ℝ) * 2 ^ g ≤ y ↔ c * c * m ≤ 2 ^ (2 * k) := by
    rw [← pow_le_pow_iff_left₀ (by positivity) hy0.le two_ne_zero, ← mul_le_mul_iff_left₀ hm', hy, mul_pow, mul_right_comm,
      mul_le_mul_iff_left₀ (by positivity)]
    norm_cast
    rw [Nat.pow_two]
  have hlt (c : Nat) : y < (c : ℝ) * 2 ^ g ↔ 2 ^ (2 * k) < c * c * m := by
    rw [← not_le, hle, not_le]
  have hge (c : Nat) : y ≤ (c : ℝ) * 2 ^ g ↔ 2 ^ (2 * k) ≤ c * c * m := by
    rw [← pow_le_pow_iff_left₀ hy0.le (by positivity) two_ne_zero, ← mul_le_mul_iff_left₀ hm', hy, mul_pow,
      mul_right_comm _ _ (m : ℝ), mul_le_mul_iff_left₀ (by positivity)]
    norm_cast
    rw [Nat.pow_two]
  refine ⟨?_, (hle r).2 hl', ?_, fun h => le_antisymm ((hge r).2 h.ge) ((hle r).2 hl'), fun h => ?_⟩
  · by_contra hlt
    have hr30 : r + 1 ≤ 2 ^ 30 := Nat.lt_of_not_le hlt
    have : 2 ^ (2 * k) < 2 ^ (2 * k) := calc
      2 ^ (2 * k) < (r + 1) * (r + 1) * m := hr'
      _ ≤ 2 ^ 30 * 2 ^ 30 * (2 * 2 ^ Nat.log2 m) := Nat.mul_le_mul (Nat.mul_le_mul hr30 hr30) (pow_log2_bounds hm).2.le
      _ = 2 ^ (Nat.log2 m + 61) := by rw [Nat.pow_add]; omega
      _ ≤ 2 ^ (2 * k) := Nat.pow_le_pow_right Nat.two_pos (by omega)
    exact lt_irrefl _ this
  · exact_mod_cast (hlt (r + 1)).2 hr'
  · refine lt_of_not_ge fun h' => h (Nat.le_antisymm hl' ((hge r).1 h'))

namespace Fmt.Ieee
variable {f : Fmt} (h : f.Ieee)
include h

/-- VRCP rounds the exact reciprocal once (R126). -/
theorem rcpFn_nearest (s : Bool) {m : Nat} (hm : m ≠ 0) (e : Int) :
    f.NearestBits (sgn s * (1 / (m * 2 ^ e))) (rcpFn f (.fin s m e)) := by
  obtain ⟨hQ, hl, hr, h0, h1⟩ := reciprocal_bounds hm e
  have hb : rcpFn f (.fin s m e) = f.roundBits .rne false (quotient s 1 0 m e) := if_neg (by simpa using hm)
  rw [hb, quotient, Nat.one_mul]
  refine h.nearestBits_sticky hQ (by omega) hl hr ?_ s
  by_cases hm : 2 ^ (Nat.log2 m + 80) % m = 0
  · exact .inl ⟨by simp [hm], h0 hm⟩
  · exact .inr ⟨by simp [hm], h1 hm⟩

/-- VRSQ rounds the exact reciprocal of the square root once (R126). -/
theorem rsqFn_nearest {m : Nat} (hm : m ≠ 0) (e : Int) :
    f.NearestBits (1 / Real.sqrt (m * 2 ^ e)) (rsqFn f (.fin false m e)) := by
  have hb : rsqFn f (.fin false m e) = f.roundBits .rne false (rsqrtVal m e) := if_neg (by simpa using hm)
  obtain ⟨n, q, hn, hv, heven⟩ := rsqrtVal_eq hm e
  obtain ⟨hQ, hl, hr, h0, h1⟩ := rsqrt_bounds hn q
  rw [hb, heven, hv, rsqrtEven]
  have hsgn (y : ℝ) : sgn false * y = y := one_mul y
  rw [← hsgn (1 / Real.sqrt _)]
  refine h.nearestBits_sticky hQ rfl hl hr ?_ false
  split
  · next he => exact .inl ⟨rfl, h0 (beq_iff_eq.1 he)⟩
  · next he => exact .inr ⟨rfl, h1 fun h => he (beq_iff_eq.2 h)⟩

/-! Powers of two and small integers. -/

/-- A value of the format is the one that is nearest to it. -/
theorem eq_of_nearestBits {N b : Nat} (hN : N ≤ f.maxMag + 1) (h0 : 0 < f.mag ℝ N) (hb : f.NearestBits (f.mag ℝ N) b) : b = N := by
  obtain ⟨hlt, v, hv, hnear⟩ := hb
  have hN' : f.real N = some (f.mag ℝ N) := by simpa [Fmt.signed, sgn] using h.real_signed false hN
  have hNw : N < 2 ^ f.width := by simpa [Fmt.signed] using h.signed_lt false hN
  have hz := (hnear N _ hNw hN').1
  rw [sub_self, abs_zero, abs_nonpos_iff, sub_eq_zero] at hz
  obtain ⟨s, n, rfl, -, hw⟩ := h.real_eq_some hlt hv
  have hpos : 0 ≤ f.mag ℝ n := by
    rw [← f.mag_zero (K := ℝ)]
    exact (f.mag_strictMono (K := ℝ)).monotone (Nat.zero_le n)
  cases s with
  | false =>
    rw [sgn, if_neg Bool.false_ne_true, one_mul, hz] at hw
    rw [(f.mag_strictMono (K := ℝ)).injective hw]
    simp [Fmt.signed]
  | true =>
    rw [sgn, if_pos rfl, hz] at hw
    linarith

/-- A value of the format keeps its encoding (R43). -/
theorem roundBits_of_mag {m N : Nat} {e : Int} (hm : m ≠ 0) (hv : (m : ℝ) * 2 ^ e = f.mag ℝ N) (hN : N ≤ f.maxMag + 1)
    (s : Bool) : f.roundBits .rne false (.fin s m e) = f.signed s N := by
  have hne := f.roundMag_nearEven (K := ℝ) hm (Int.sub_lt_self (topExp m e - f.mb) Int.one_pos) (CutsAlike.refl _ _)
  rw [hv] at hne
  rw [h.roundBits_fin, hne.eq_of_mag, Nat.min_eq_left hN]

end Fmt.Ieee

/-- The encoding of `2^k`. -/
def Fmt.pow (f : Fmt) (k : Int) : Nat := (k + f.bias).toNat * 2 ^ f.mb

/-- The encoding of the integer `k`. -/
def Fmt.int (f : Fmt) (k : Int) : Nat := (f.round .rne false (.fin (decide (k < 0)) k.natAbs 0)).bits

namespace Fmt.Ieee
variable {f : Fmt} (h : f.Ieee) {k : Int}
include h

theorem mag_pow (hk : 1 - f.bias ≤ k) : f.mag ℝ (f.pow k) = 2 ^ k := by
  have hb := h.bias
  obtain ⟨E, hE⟩ : ∃ E : Nat, k + f.bias = E := Int.eq_ofNat_of_zero_le (by omega)
  have h1 : 1 ≤ E := by omega
  have hp : f.pow k = (E - 1) * 2 ^ f.mb + 2 ^ f.mb := by
    rw [Fmt.pow, hE, Int.toNat_natCast, ← Nat.succ_mul, Nat.succ_eq_add_one, Nat.sub_add_cancel h1]
  rw [hp, f.mag_grid h1 (Nat.pow_le_pow_right Nat.two_pos (Nat.le_succ _)) (.inr (Nat.le_refl _)), Nat.cast_pow, Nat.cast_two,
    ← zpow_natCast, ← zpow_add₀ two_ne_zero]
  congr 1
  omega

theorem bias_toNat : ((2 ^ (f.eb - 1) - 1 : Nat) : Int) = f.bias := by
  rw [h.bias]
  push_cast [Nat.one_le_two_pow]
  rfl

theorem pow_le (hk : k ≤ f.bias) : f.pow k ≤ f.maxMag := by
  have hb := h.bias_toNat
  have h2 := h.two_pow_eb
  have hm := h.maxMag_succ
  have hp : 0 < 2 ^ f.mb := Nat.two_pow_pos _
  have h3 : 0 < 2 ^ (f.eb - 1) := Nat.two_pow_pos _
  have hE : (k + f.bias).toNat + 1 ≤ 2 ^ f.eb - 1 := by omega
  have := Nat.mul_le_mul_right (2 ^ f.mb) hE
  rw [← hm, Nat.add_mul] at this
  rw [Fmt.pow]
  omega

theorem decode_pow (hk : 1 - f.bias ≤ k) (hk' : k ≤ f.bias) : f.decode (f.pow k) = .fin false (2 ^ f.mb) (k - f.mb) := by
  have hb := h.bias_toNat
  have h2 := h.two_pow_eb
  have h3 : 0 < 2 ^ (f.eb - 1) := Nat.two_pow_pos _
  have hle := h.pow_le hk'
  have hlt := h.maxMag_lt
  obtain ⟨E, hE⟩ : ∃ E : Nat, k + f.bias = E := Int.eq_ofNat_of_zero_le (by omega)
  have hp : f.pow k = E * 2 ^ f.mb := by rw [Fmt.pow, hE, Int.toNat_natCast]
  have hd := h.decode_signed false (n := f.pow k) (by omega)
  rw [hp, Nat.mul_div_cancel _ (Nat.two_pow_pos _), if_neg (by omega), if_neg (by omega), Nat.mul_mod_left, Nat.max_eq_left (by omega),
    ← hp, show (E : Int) - f.bias - f.mb = k - f.mb by omega] at hd
  simpa [Fmt.signed] using hd

/-- VRCP of a power of two (R126). -/
theorem rcpFn_pow (hk : 1 - f.bias ≤ k) (hk' : k ≤ f.bias - 1) : rcpFn f (f.decode (f.pow k)) = f.pow (-k) := by
  have hv := h.mag_pow (k := -k) (by omega)
  refine h.eq_of_nearestBits ((h.pow_le (by omega)).trans (Nat.le_succ _)) (by rw [hv]; exact two_zpow_pos _) ?_
  have hn := h.rcpFn_nearest false (Nat.two_pow_pos f.mb).ne' (k - f.mb)
  rw [h.decode_pow hk (by omega)]
  rw [Nat.cast_pow, Nat.cast_two, ← zpow_natCast, ← zpow_add₀ two_ne_zero, add_sub_cancel, one_div, ← zpow_neg, ← hv] at hn
  simpa [sgn] using hn

/-- VLOG2 of a power of two (R126). -/
theorem log2Fn_pow (hk : 1 - f.bias ≤ k) (hk' : k ≤ f.bias) : log2Fn f (f.decode (f.pow k)) = f.int k := by
  have hlog : Nat.log2 (2 ^ f.mb) = f.mb := Nat.log2_two_pow
  have ht : topExp (2 ^ f.mb) (k - f.mb) = k := by rw [topExp, hlog]; omega
  have h0 : ((2 : Nat) ^ f.mb == 0) = false := beq_false_of_ne (Nat.two_pow_pos _).ne'
  rw [h.decode_pow hk hk']
  simp only [log2Fn, h0, hlog, ht, beq_self_eq_true, if_true, Bool.false_eq_true, if_false]
  rfl

/-- A small integer is a value of the format. -/
theorem exists_mag_nat {n : Nat} (h0 : n ≠ 0) (hn : n < 2 ^ (f.eb - 1)) : ∃ N, f.mag ℝ N = n ∧ N ≤ f.maxMag := by
  have hb := h.bias_toNat
  have hL : Nat.log2 n < f.mb := (Nat.log2_lt h0).2 (hn.trans_le h.bias_mb)
  obtain ⟨hlo, hhi⟩ := pow_log2_bounds h0
  have hexp : (Nat.log2 n : Int) - f.mb + (f.mb - Nat.log2 n : Nat) = 0 := by omega
  have hmag := f.mag_grid (K := ℝ) (E := Nat.log2 n + (2 ^ (f.eb - 1) - 1)) (Q := n * 2 ^ (f.mb - Nat.log2 n)) (by omega)
    (by
      calc n * 2 ^ (f.mb - Nat.log2 n) ≤ 2 * 2 ^ Nat.log2 n * 2 ^ (f.mb - Nat.log2 n) := Nat.mul_le_mul_right _ hhi.le
        _ = 2 ^ (f.mb + 1) := by rw [Nat.mul_assoc, ← Nat.pow_add, Nat.add_sub_cancel' hL.le, ← Nat.pow_succ'])
    (.inr (by
      calc 2 ^ f.mb = 2 ^ Nat.log2 n * 2 ^ (f.mb - Nat.log2 n) := by rw [← Nat.pow_add, Nat.add_sub_cancel' hL.le]
        _ ≤ n * 2 ^ (f.mb - Nat.log2 n) := Nat.mul_le_mul_right _ hlo))
  rw [show ((Nat.log2 n + (2 ^ (f.eb - 1) - 1) : Nat) : Int) - f.bias - f.mb = Nat.log2 n - f.mb by omega, Nat.cast_mul, mul_assoc,
    mul_comm _ ((2 : ℝ) ^ _), Nat.cast_pow, Nat.cast_two, ← zpow_natCast, ← zpow_add₀ two_ne_zero, hexp, zpow_zero, mul_one] at hmag
  refine ⟨_, hmag, Nat.le_of_lt_succ ((f.mag_strictMono (K := ℝ)).lt_iff_lt.1 ?_)⟩
  rw [hmag, h.mag_maxMag_succ]
  have hexp : f.bias + 1 = (2 ^ (f.eb - 1) : Nat) := by omega
  rw [hexp, zpow_natCast]
  exact_mod_cast hn.trans Nat.lt_two_pow_self

/-- VEXP2 of an integer (R126). -/
theorem exp2Fn_int (h0 : k ≠ 0) (hk : 1 - f.bias ≤ k) (hk' : k ≤ f.bias - 1) : exp2Fn f (f.decode (f.int k)) = f.pow k := by
  have hb := h.bias_toNat
  have hn0 : k.natAbs ≠ 0 := by omega
  have hn : k.natAbs < 2 ^ (f.eb - 1) := by omega
  obtain ⟨N, hN, hle⟩ := h.exists_mag_nat hn0 hn
  have hint : f.int k = f.signed (decide (k < 0)) N :=
    h.roundBits_of_mag hn0 (by rw [hN, zpow_zero, mul_one]) (Nat.le_succ_of_le hle) _
  obtain ⟨m, e, hd, hv⟩ := h.decode_finite ℝ (decide (k < 0)) hle
  rw [hN] at hv
  have hm : m ≠ 0 := by
    rintro rfl
    rw [Nat.cast_zero, zero_mul] at hv
    exact hn0 (by exact_mod_cast hv.symm)
  have ht : topExp m e < 9 := by
    have h1 := (topExp_bounds (K := ℝ) hm e).1
    rw [hv] at h1
    have h2 : (k.natAbs : ℝ) < 2 ^ (9 : Int) := by
      have := h.bias_le
      exact_mod_cast (by omega : k.natAbs < 512)
    exact (zpow_lt_zpow_iff_right₀ one_lt_two).1 (h1.trans_lt h2)
  have hg := onGrid_gridPos (K := ℝ) m e 0
  rw [hv, zpow_zero] at hg
  have hg1 : (onGrid m e 0).1 = k.natAbs := by
    have h1 := hg.lower
    have h2 := hg.upper
    rw [mul_one] at h1 h2
    have h3 : (onGrid m e 0).1 ≤ k.natAbs := by exact_mod_cast h1
    have h4 : k.natAbs < (onGrid m e 0).1 + 1 := by exact_mod_cast h2
    omega
  have hg2 : (onGrid m e 0).2 = 0 := hg.none_iff.2 (by rw [hg1, mul_one])
  have hsign : (if decide (k < 0) = true then -((onGrid m e 0).1 : Int) else (onGrid m e 0).1) = k := by
    rw [hg1]
    by_cases hneg : k < 0 <;> simp only [hneg, decide_true, decide_false, if_true, if_false, Bool.false_eq_true] <;> omega
  rw [hint, hd, exp2Fn, if_neg (by simpa using hm), if_neg (by omega)]
  simp only [hg2, beq_self_eq_true, if_true, hsign]
  rw [h.roundBits_of_mag (N := f.pow k) Nat.one_ne_zero (by rw [h.mag_pow hk, Nat.cast_one, one_mul])
    ((h.pow_le (by omega)).trans (Nat.le_succ _))]
  simp [Fmt.signed]

end Fmt.Ieee

/-- FP32, FP16 and BF16. -/
theorem Fmt.ieee_of_mem {f : Fmt} (hf : f ∈ [Fmt.fp32, Fmt.fp16, Fmt.bf16]) : f.Ieee ∧ (ElType.flt f).cont ∣ 256 := by
  simp only [List.mem_cons, List.not_mem_nil, or_false] at hf
  rcases hf with rfl | rfl | rfl
  · exact ⟨Fmt.ieee_fp32, by decide⟩
  · exact ⟨Fmt.ieee_fp16, by decide⟩
  · exact ⟨Fmt.ieee_bf16, by decide⟩

/-- VEXP2 of zero is 1 (R126). -/
theorem Fmt.exp2Fn_int_zero {f : Fmt} (hf : f ∈ [Fmt.fp32, Fmt.fp16, Fmt.bf16]) : exp2Fn f (f.decode (f.int 0)) = f.pow 0 := by
  revert f
  decide +kernel

/-- Settles O35: each word maps its function over the elements; the table of R126 by evaluation, the rest by the lemmas above. -/
theorem vectorSpecialFunctions : Obligations.VectorSpecialFunctions := by
  intro et st g d a s f ht hf x px e l c q t r sign inf nan bias one pow int value rounded
  obtain ⟨h, hc⟩ := Fmt.ieee_of_mem hf
  have hbias : bias = f.bias := h.bias.symm
  have hvalue (b : Nat) : value b = f.real b := by
    simp only [value, Fmt.real, hbias]
    cases f.decode b <;> rfl
  have hnear {y : ℝ} {b : Nat} (hy : f.NearestBits y b) : rounded y b := by
    simp only [rounded, hvalue]
    exact hy
  have hnan : f.nanBits = nan := by rw [Fmt.nanBits, h.rule]
  have table : (e (sign + inf) = 0 ∧ l (sign + inf) = nan ∧ c (sign + inf) = sign ∧ q (sign + inf) = nan ∧
      t (sign + inf) = sign + one ∧ r (sign + inf) = sign + one) ∧
      (e inf = inf ∧ l inf = inf ∧ c inf = 0 ∧ q inf = 0 ∧ t inf = one ∧ r inf = one) ∧
      (e sign = one ∧ l sign = sign + inf ∧ c sign = sign + inf ∧ q sign = sign + inf ∧ t sign = sign ∧ r sign = sign) ∧
      (e 0 = one ∧ l 0 = sign + inf ∧ c 0 = inf ∧ q 0 = inf ∧ t 0 = 0 ∧ r 0 = 0) := by
    simp only [List.mem_cons, List.not_mem_nil, or_false] at hf
    rcases hf with rfl | rfl | rfl <;> decide +kernel
  have map (i : Instr) (fn : Fmt → FVal → Nat)
      (hi : exec i s = s.typedV et (fun t c => c.map1 t g d a (specialEl t fn))) :
      WritesEls i s (.flt f) g d (fun j => fn f (f.decode (x j))) px :=
    writesEls_of_map1 (fn := fun t => specialEl t fn) ht hc hi
  refine ⟨map _ exp2Fn rfl, map _ log2Fn rfl, map _ rcpFn rfl, map _ rsqFn rfl, map _ tanhFn rfl, map _ erfFn rfl,
    fun b hb => ?_, ?_, ?_, ?_, ?_, fun b m k hb hm => ?_, fun b m k hb hm => ?_, fun b m k hb hm => ⟨?_, ?_⟩, fun k => ?_⟩
  · simp only [e, l, c, q, t, r, hb, exp2Fn, log2Fn, rcpFn, rsqFn, tanhFn, erfFn, hnan, and_self]
  · exact table.1
  · exact table.2.1
  · exact table.2.2.1
  · exact table.2.2.2
  · simp only [l, q, hb, log2Fn, rsqFn, hnan, beq_false_of_ne hm, Bool.false_eq_true, if_false, if_true, and_self]
  · simp only [c, hb]
    exact hnear (by simpa [sgn, neg_div] using h.rcpFn_nearest true hm k)
  · simp only [c, hb]
    exact hnear (by simpa [sgn] using h.rcpFn_nearest false hm k)
  · simp only [q, hb]
    exact hnear (h.rsqFn_nearest hm k)
  · have hpow (k : Int) : pow k = f.pow k := by simp only [pow, hbias, Fmt.pow]
    rw [hbias]
    intro hk hk'
    simp only [c, l, e, hpow]
    refine ⟨h.rcpFn_pow hk hk', h.log2Fn_pow hk (by omega), ?_⟩
    rcases eq_or_ne k 0 with rfl | h0
    · exact Fmt.exp2Fn_int_zero hf
    · exact h.exp2Fn_int h0 hk hk'

end Sys2Proof.Machine
end

section
/-! PROOF. O38 fails: a minimum over the values of a format that has no encoding of infinity. The statement asks of the format entry
that FX names no more than that its BASE is FX, not that it is valid (R38). With no exponent bits and the IEEE rule the one value
that is no NaN is the infinity of encoding 0, and its rounding, the encoding next above the largest finite value, is a NaN. VRED
carries its result so far as an element, where the statement carries the exact value: after an infinity the one goes on with the
NaN, which the next element replaces, the other with the infinity. The statement speaks of every
state, so also of this one, though no MFMT loads such an entry
(R171). -/

namespace Sys2Proof.Machine

open Sys2Proof

/-- A format entry of BASE FX with two mantissa bits, no exponent bits and no sign. -/
def noExpEntry : Word := 0x200001

/-- A state whose v1 holds an infinity of that format and then a NaN, with predicate 1 over the two. -/
def noExpState : State :=
  { cores := [(0, { fmt := [(0, noExpEntry)], v := { v := [(1, 0x0200#4096)], p := [(1, 3#1024)] } })] }

/-- The element type that FX names there. -/
abbrev noExpType : ElType := .flt (fxOf noExpEntry)

theorem etype_noExpState : noExpState.me.etype .fx = some noExpType := by decide

/-- The state after VRED with MIN of v1 to v2. -/
def noExpReduced : State :=
  let c := noExpState.me
  let r := (((c.active noExpType 1).zip (c.els noExpType 1)).filter (fun x => x.1)).foldl
    (fun (r : RedAcc) x => r.step noExpType .min false x.2) {}
  (noExpState.setMe (c.putEls noExpType 2 (c.ppois 1)
    (some (r.value noExpType .min false, r.pois) :: List.replicate (noExpType.count - 1) none))).retireV

theorem exec_vred_noExpState : exec (.vred .fx 0 1 2 1 .min false) noExpState = .next noExpReduced := by
  change execVred .fx 0 1 2 1 .min false noExpState = _
  exact State.typedV_of etype_noExpState _

/-- Refutes O38: the least of an infinity and a NaN is the infinity, whose rounding is 1; VRED gives 2. -/
theorem not_vectorPermutationsAndReductions : ¬ Obligations.VectorPermutationsAndReductions := by
  intro h
  obtain ⟨-, -, -, hred, -⟩ := h .fx 0 1 2 1 0 0 false noExpState noExpType etype_noExpState (by decide)
  obtain ⟨⟨u, hu, -, hel, -⟩, -⟩ := hred .min
  obtain rfl := Host.Outcome.next.inj (hu.symm.trans exec_vred_noExpState)
  have model : noExpReduced.me.elAt noExpType 2 0 = 2 := by decide +kernel
  have stated := model.symm.trans (hel 0 (by decide) rfl)
  exact absurd stated (by decide +kernel)

end Sys2Proof.Machine
end

section
/-! PROOF. O46 fails: MLDACC of elements of nine bits. The statement asks of the format entry that FX names no more than that its
BASE is FX, not that it is valid, which bounds the width to eight bits (R38), and has the elements lie in containers as wide as the
type (R30); the engine reads every container of more than eight bits as two whole bytes. The statement speaks of every state, so
also of this one, though no MFMT loads such an entry (R171). -/

namespace Sys2Proof.Machine

open Sys2Proof

/-! An engine reads its own scratchpad (R20, R154). -/

section
variable {s : State} {k a n : Nat}

theorem Core.engPieces_own (c : Core) (h0 : 0 < n) (h : a + n ≤ 0x2FF000) : c.engPieces k a n = [⟨.mem k a, 0, a, n⟩] := by
  have hr : c.spRange k false a = (.mem k a, 0x2FF000 - a) := by
    rw [c.spRange_own k a (by omega), spOwn, if_pos (by omega)]
  have ha : a % 2 ^ 64 = a := Nat.mod_eq_of_lt (by omega)
  have hn : min n (0x2FF000 - a) = n := by omega
  have hp : c.spPieces k false (n / 512 + 2 + 1) 0 a n = [⟨.mem k a, 0, a, n⟩] := by
    rw [Core.spPieces, if_neg (by omega)]
    simp only [ha, hr, hn, Nat.sub_self]
    rw [show n / 512 + 2 = n / 512 + 1 + 1 from rfl, Core.spPieces, if_pos rfl]
  rw [Core.engPieces, hp]
  rfl

/-- A read of clean bytes that no store stands before: the bytes as they lie, and no code. -/
theorem State.engGet_clean (hb : NoBuffer s k) (hc : (s.core k).spClean a n) (h0 : 0 < n) :
    s.engGet k a n = (s, clean ((s.core k).spBytes a n), {}) := by
  obtain ⟨hn, hbad, hpois⟩ := hc
  have hs : s.storesSeen k = [] := by
    unfold State.storesSeen
    rw [hb.1]
    split
    · rfl
    · next hz => rw [hb.2 hz]; rfl
  have hv : s.verify (.sp k) a n = s := by
    unfold State.verify
    rw [show s.storeOf (.sp k) = (s.core k).spad from rfl, hbad]
    rfl
  have hget : (s.core k).spad.get a n = clean ((s.core k).spBytes a n) := by
    refine List.ext_getElem (by simp [Store.get, clean, Core.spBytes]) fun i hi _ => ?_
    have hin : i < n := by simpa [Store.get] using hi
    simp [Store.get, clean, Core.spBytes, Sparse.getList_eq, hpois i hin]
  have hseen : s.seen k (.sp k) a 0 n = (s, clean ((s.core k).spBytes a n)) := by
    rw [State.seen_sp, hv, hs, hget]
    rfl
  have hany : anyPois (clean ((s.core k).spBytes a n)) = false := by simp [anyPois, clean]
  have hbadAt : s.badAt (.sp k) a n = false := by simp [State.badAt, hbad]
  simp only [State.engGet, Core.engPieces_own _ h0 hn, List.foldl_cons, List.foldl_nil, List.nil_append, State.spPieceBytes, hseen, hany,
    List.any_cons, List.any_nil, hbadAt, Bool.or_false]
  rfl

end

/-! MLDACC of clean bytes (R170). -/

/-- The accumulator that MLDACC makes of element `n` of the bytes it has read. -/
def mldaccEl (t : ElType) (it : ETy) (bs : Array PByte) (n : Nat) : Word32 :=
  let e : El := if t.cont = 32 then (leNat ((List.range 4).map (fun b => (bs.getD (4 * n + b) (0, false)).1)), false)
    else slotEl t.cont bs n
  BitVec.ofNat 32 (if it = .fp32 then e.1 else convert t (.flt .fp32) .rne false e.1)

/-- A bank as MLDACC leaves it. -/
def MCore.loaded (m : MCore) (b : Nat) (es : List Word32) (marks : List Bool) : MCore :=
  (((m.setBank b es).unmark b).mark b marks []).setChk b {}

theorem State.mldaccUnit_of_clean {s : State} {k : Nat} {bank : BitVec 2} {it : ETy} {src : BitVec 12} {f : Flight} {t : ElType}
    {bs : List Byte} {b : Nat} (hb : bank.toNat = b) (ht : typeWith f.fmtA it = some t)
    (hg : s.engGet k (1024 * src.toNat) (2048 * t.cont) = (s, clean bs, {})) :
    ∃ marks, s.mldaccUnit k bank it src f =
      .fin (s.onCore k (fun c => c.onM (fun m =>
        m.loaded b ((List.range 16384).map (mldaccEl t it (clean bs).toArray)) marks))) (f.note {}).next := by
  subst hb
  unfold State.mldaccUnit
  rw [ht]
  dsimp only
  rw [hg]
  exact ⟨_, rfl⟩

theorem MCore.acc_loaded (m : MCore) (b : Nat) (es : List Word32) (marks : List Bool) {n : Nat} (hn : n < es.length) :
    Sparse.get 0 (m.loaded b es marks).acc (16384 * b + n) = es[n] := by
  have ha : (m.loaded b es marks).acc = Sparse.putList 0 m.acc (16384 * b) es := rfl
  rw [ha, Sparse.get_putList, if_pos ⟨Nat.le_add_right _ _, Nat.add_lt_add_left hn _⟩, Nat.add_sub_cancel_left,
    List.getD_eq_getElem _ _ hn]

theorem Core.acc_setFlight (c : Core) (f : Option Flight) : (c.setFlight .m f).m.acc = c.m.acc := rfl

/-- A command of the matrix engine that does not synchronise leaves the accumulators as they are as it completes. -/
theorem State.completeCmd_acc {s : State} {k : Nat} {f : Flight} (hs : f.slot = none) (hd : f.dscVa = none) (ht : f.tok = none)
    (hy : syncOf f.cmd = none) : ((s.completeCmd k .m f).core k).m = (s.core k).m := by
  obtain ⟨x, b, hc, -⟩ := State.completeCmd_spec (s := s) (k := k) (e := .m) hs hd (by simp [ht])
  rw [hc.2, Core.passSync_of_none _ _ _ hy, Core.ended_eq]

/-- The accumulators after a command that begins, does its one unit and completes. -/
theorem State.command_acc {s t u : State} {i : Instr} {f g : Flight} {k : Nat} (hk : s.curN = k) (hb : 3 ≤ s.budget)
    (h0 : (s.setMe (s.me.setFlight .m (some ((s.me.flight .m).getD (s.me.newFlight .m i))))).phaseCmd k .m
      ((s.me.flight .m).getD (s.me.newFlight .m i)) = .more t f)
    (hf : f.st = .issued) (h1 : t.performCmd k f = .fin u g) (hi : g.codes.illegal = false) (hs : g.slot = none)
    (hd : g.dscVa = none) (ht : g.tok = none) (hy : syncOf g.cmd = none) :
    ((s.command .m i).core k).m.acc = (u.core k).m.acc := by
  subst hk
  obtain ⟨n, hn⟩ := Nat.exists_eq_add_of_le' hb
  have h2 : t.phaseCmd s.curN .m f = .more u { g with st := .done } := by simp only [State.phaseCmd, hf, h1]
  have h3 : State.runCmd s.budget (s.setMe (s.me.setFlight .m (some ((s.me.flight .m).getD (s.me.newFlight .m i))))) s.curN .m
      ((s.me.flight .m).getD (s.me.newFlight .m i)) = (u.completeCmd s.curN .m { g with st := .done }, none) := by
    have he : State.endCmd u s.curN .m { g with st := .done } = u.completeCmd s.curN .m { g with st := .done } :=
      if_neg (by simp [hi])
    rw [hn, State.runCmd, h0]
    dsimp only
    rw [State.runCmd, h2]
    dsimp only
    rw [State.runCmd_of_done (Nat.succ_pos n) rfl, he]
  have hc := State.completeCmd_acc (s := u) (k := s.curN) (f := { g with st := .done }) hs hd ht hy
  unfold State.command
  dsimp only
  rw [h3, State.core_onCore_self]
  exact (Core.acc_setFlight _ none).trans (congrArg MCore.acc hc)

/-! The counterexample. -/

/-- A format entry of BASE FX of nine bits: a sign, two exponent bits and six mantissa bits. -/
def nineEntry : Word := 0x621001

/-- The element type that FX names there. -/
def nineType : ElType := .flt (fxOf nineEntry)

/-- MLDACC of bank 0 from address 0 by format entry 0. -/
def nineLoad : Instr := .mldacc 0 0 false 0 .fx 0 0

/-- A core whose scratchpad holds 2 in byte 1, by its matrix engine. -/
def nineCore (m : MCore) : Core := { fmt := [(0, nineEntry)], spad := { bytes := [(1, 2)] }, m := m }

/-- The machine, by the matrix engine of core 0. -/
def nineState (m : MCore) : State := { cores := [(0, nineCore m)] }

/-- The command as it issues. -/
def nineIssued : Flight := { cmd := nineLoad, addr := 0, fmtA := nineEntry, st := .issued }

/-- The matrix engine as the command issues. -/
def nineEngine : MCore :=
  { flight := some { nineIssued with fmtA := 0, st := .decoded }, eng := ({} : MCore).eng.advance 2 }

theorem noBuffer_nineState (m : MCore) : NoBuffer (nineState m) 0 := ⟨rfl, fun _ => rfl⟩

theorem spClean_nineCore (m : MCore) : (nineCore m).spClean 0 18432 := ⟨by decide, by simp [nineCore, Store.bad], by simp [nineCore]⟩

theorem phaseCmd_nineState : ((nineState {}).setMe ((nineState {}).me.setFlight .m (some { cmd := nineLoad, addr := 0 }))).phaseCmd 0 .m
    { cmd := nineLoad, addr := 0 } = .more (nineState nineEngine) nineIssued := rfl

theorem performCmd_nineIssued (s : State) : s.performCmd 0 nineIssued = s.mldaccUnit 0 0 .fx 0 nineIssued := rfl

theorem noTwin_nineState : NoTwin (nineState {}) 0 := by
  intro j hj w hw
  have hj0 : j = 0 := hj.elim id id
  rw [hj0] at hw
  cases hw

/-- The bytes that MLDACC reads. -/
def nineBytes : List Byte := (List.range 18432).map (fun i => Sparse.get 0 [(1, 2)] (0 + i))

theorem spBytes_nineCore (m : MCore) : (nineCore m).spBytes 0 18432 = nineBytes := rfl

/-- An accumulator of bank 0 after the command. -/
theorem acc_nineState {n : Nat} (hn : n < 16384) :
    Sparse.get 0 (((nineState {}).command .m nineLoad).core 0).m.acc (16384 * 0 + n) =
      mldaccEl nineType .fx (clean nineBytes).toArray n := by
  have hg := State.engGet_clean (noBuffer_nineState nineEngine) (spClean_nineCore nineEngine) (by decide)
  rw [show (nineState nineEngine).core 0 = nineCore nineEngine from rfl, spBytes_nineCore] at hg
  have ht : typeWith nineIssued.fmtA .fx = some nineType := by decide
  obtain ⟨marks, hunit⟩ := State.mldaccUnit_of_clean (bank := 0) (b := 0) (src := 0) rfl ht hg
  have hacc := State.command_acc (s := nineState {}) (i := nineLoad) (k := 0) rfl (by decide) phaseCmd_nineState rfl
    ((performCmd_nineIssued _).trans hunit) rfl rfl rfl rfl rfl
  rw [State.core_onCore_self] at hacc
  have hes : n < ((List.range 16384).map (mldaccEl nineType .fx (clean nineBytes).toArray)).length := by simpa using hn
  have hel : ((List.range 16384).map (mldaccEl nineType .fx (clean nineBytes).toArray))[n] =
      mldaccEl nineType .fx (clean nineBytes).toArray n := by
    rw [List.getElem_map, List.getElem_range]
  rw [← hel]
  generalize (List.range 16384).map (mldaccEl nineType .fx (clean nineBytes).toArray) = es at hacc hes ⊢
  rw [← nineEngine.acc_loaded 0 es marks hes, ← show _ = (nineEngine.loaded 0 es marks).acc from hacc]

/-- The bytes begin with 0, 2, 0, 0. -/
theorem nineBytes_eq : ∃ l, nineBytes = 0 :: 2 :: 0 :: 0 :: l := by
  rw [nineBytes, show 18432 = 4 + 18428 from rfl, List.range_add, List.map_append]
  exact ⟨_, rfl⟩

theorem exec_nineLoad : exec nineLoad (nineState {}) = .next ((nineState {}).command .m nineLoad) := rfl

/-- Element 1 of nine bits is bits 9 to 17 of the bytes (R30). -/
theorem contOf_nineBytes : contOf 9 nineBytes 1 = 1 := by
  obtain ⟨l, hl⟩ := nineBytes_eq
  have h0 : (0 : Byte).toNat = 0 := rfl
  have h2 : (2 : Byte).toNat = 2 := rfl
  rw [hl, contOf]
  simp only [leNat, h0, h2]
  omega

/-- MLDACC reads the bytes 2 and 3 as element 1. -/
theorem mldaccEl_nineBytes : mldaccEl nineType .fx (clean nineBytes).toArray 1 = 0 := by
  obtain ⟨l, hl⟩ := nineBytes_eq
  have hc : nineType.cont = 9 := by decide
  have hs : slotEl 9 (clean (0 :: 2 :: 0 :: 0 :: l)).toArray 1 = (0, false) := rfl
  rw [mldaccEl, hl, hc, if_neg (show ¬ 9 = 32 by decide), hs]
  decide

/-- Refutes O46: MLDACC makes 0 of an element of nine bits that holds 1. -/
theorem not_matrixCommandResults : ¬ Obligations.MatrixCommandResults := by
  intro h
  obtain ⟨-, -, -, hload, -⟩ :=
    h 0 0 false false false false false false false false false 0 0 0 0 0 0 0 0 0 .fx .rne 0 0 0 0 (nineState {})
  obtain ⟨t, hx, ⟨⟨-, -, -, -, -, honly⟩, -⟩, -, hacc, -⟩ := hload .fx nineType
    ⟨rfl, by decide, noBuffer_nineState {}, noTwin_nineState, .inl rfl⟩ (by decide) (spClean_nineCore {})
  have hme : t.me = t.core 0 := by rw [State.me, honly.curN]; rfl
  have hspec : Sparse.get 0 t.me.m.acc (16384 * 0 + 1) =
      BitVec.ofNat 32 (Fmt.fp32.roundBits .rne false (nineType.decode (contOf 9 nineBytes 1))) := hacc 1 (by decide)
  obtain rfl := Host.Outcome.next.inj (hx.symm.trans exec_nineLoad)
  rw [hme, acc_nineState (by decide), mldaccEl_nineBytes, contOf_nineBytes] at hspec
  exact absurd hspec (by decide)

end Sys2Proof.Machine
end

section
/-! PROOF. Decoding gives back what has been encoded (R52-R68): a word is a list of fields, a decoder reads the fields of its format, and
the bytes of a stream are its words. -/

namespace Sys2Proof

/-! The codes of operands that are names (R43, R55, R60, R62, R124), in the bits of their fields. -/

def ETy.bits (x : ETy) : BitVec 3 := BitVec.ofNat 3 x.code

def Round.bits (x : Round) : BitVec 2 := BitVec.ofNat 2 x.code

def Scope.bits (x : Scope) : BitVec 2 := BitVec.ofNat 2 x.code

def AmoOp.bits (x : AmoOp) : BitVec 3 := BitVec.ofNat 3 x.code

def FenceKind.bits (x : FenceKind) : BitVec 2 := BitVec.ofNat 2 x.code

def RingSel.bits (x : RingSel) : BitVec 2 := BitVec.ofNat 2 x.code

def CmpKind.bits (x : CmpKind) : BitVec 5 := BitVec.ofNat 5 x.code

def RedFn.bits (x : RedFn) : BitVec 5 := BitVec.ofNat 5 x.code

def AopFn.bits (x : AopFn) : BitVec 3 := BitVec.ofNat 3 x.code

@[simp] theorem ETy.toNat_bits (x : ETy) : x.bits.toNat = x.code := by cases x <;> rfl

@[simp] theorem Round.toNat_bits (x : Round) : x.bits.toNat = x.code := by cases x <;> rfl

@[simp] theorem Scope.toNat_bits (x : Scope) : x.bits.toNat = x.code := by cases x <;> rfl

@[simp] theorem AmoOp.toNat_bits (x : AmoOp) : x.bits.toNat = x.code := by cases x <;> rfl

@[simp] theorem FenceKind.toNat_bits (x : FenceKind) : x.bits.toNat = x.code := by cases x <;> rfl

@[simp] theorem RingSel.toNat_bits (x : RingSel) : x.bits.toNat = x.code := by cases x <;> rfl

@[simp] theorem CmpKind.toNat_bits (x : CmpKind) : x.bits.toNat = x.code := by cases x <;> rfl

@[simp] theorem RedFn.toNat_bits (x : RedFn) : x.bits.toNat = x.code := by cases x <;> rfl

@[simp] theorem AopFn.toNat_bits (x : AopFn) : x.bits.toNat = x.code := by cases x <;> rfl

@[simp] theorem ETy.ofCode_code (x : ETy) : ETy.ofCode x.code = x := by cases x <;> rfl

@[simp] theorem Round.ofCode_code (x : Round) : Round.ofCode x.code = x := by cases x <;> rfl

@[simp] theorem Scope.ofCode_code (x : Scope) : Scope.ofCode x.code = x := by cases x <;> rfl

@[simp] theorem AmoOp.ofCode_code (x : AmoOp) : AmoOp.ofCode x.code = x := by cases x <;> rfl

@[simp] theorem FenceKind.ofCode_code (x : FenceKind) : FenceKind.ofCode x.code = some x := by cases x <;> rfl

@[simp] theorem RingSel.ofCode_code (x : RingSel) : RingSel.ofCode x.code = some x := by cases x <;> rfl

@[simp] theorem CmpKind.ofCode_code (x : CmpKind) : CmpKind.ofCode x.code = some x := by cases x <;> rfl

@[simp] theorem RedFn.ofCode_code (x : RedFn) : RedFn.ofCode x.code = some x := by cases x <;> rfl

@[simp] theorem AopFn.ofCode_code (x : AopFn) : AopFn.ofCode x.code = x := by cases x <;> rfl

end Sys2Proof

namespace Sys2Proof.Encoding

open Sys2Proof

set_option Elab.async false

@[simp] theorem toNat_beq_one (b : Bool) : (b.toNat == 1) = b := by cases b <;> rfl

/-! Words and their fields. -/

/-- A field of a word: its width and its bits. -/
abbrev Field := Σ n : Nat, BitVec n

/-- The number whose fields are given, the first at bit `lo`, each above the one before it. -/
@[simp] def wordFrom : Nat → List Field → Nat
  | _, [] => 0
  | lo, ⟨n, v⟩ :: fs => wordFrom (lo + n) fs + v.toNat * 2 ^ lo

/-- The word whose fields are given, the first in the low bits. -/
@[simp] def word (fs : List Field) : Nat := wordFrom 0 fs

/-- The bits that fields take together. -/
def width : List Field → Nat
  | [] => 0
  | ⟨n, _⟩ :: fs => n + width fs

/-- A word holds fields from a bit on, as its decoder reads them. -/
@[simp] def Holds (w : Nat) : Nat → List Field → Prop
  | _, [] => True
  | lo, ⟨n, v⟩ :: fs => fld w lo n = v.toNat ∧ Holds w (lo + n) fs

theorem wordFrom_add (lo n : Nat) (fs : List Field) : wordFrom (lo + n) fs = 2 ^ n * wordFrom lo fs := by
  induction fs generalizing lo with
  | nil => rfl
  | cons f fs ih => rw [wordFrom, wordFrom, Nat.add_right_comm, ih, Nat.mul_add, Nat.add_comm lo n, Nat.pow_add, Nat.mul_left_comm]

theorem word_cons (n : Nat) (v : BitVec n) (fs : List Field) : word (⟨n, v⟩ :: fs) = v.toNat + 2 ^ n * word fs := by
  rw [word, wordFrom, wordFrom_add, Nat.pow_zero, Nat.mul_one, Nat.add_comm, word]

theorem word_lt (fs : List Field) : word fs < 2 ^ width fs := by
  induction fs with
  | nil => decide
  | cons f fs ih =>
    obtain ⟨n, v⟩ := f
    calc word (⟨n, v⟩ :: fs)
      _ < 2 ^ n * 1 + 2 ^ n * word fs := by have := v.isLt; rw [word_cons]; omega
      _ = 2 ^ n * (word fs + 1) := by ring
      _ ≤ 2 ^ n * 2 ^ width fs := Nat.mul_le_mul_left _ ih
      _ = 2 ^ (n + width fs) := (Nat.pow_add ..).symm

theorem holds_of_shifted {w lo : Nat} {fs : List Field} (h : w / 2 ^ lo = word fs) : Holds w lo fs := by
  induction fs generalizing lo with
  | nil => trivial
  | cons f fs ih =>
    obtain ⟨n, v⟩ := f
    rw [word_cons] at h
    refine ⟨?_, ih ?_⟩
    · rw [fld, h, Nat.add_mul_mod_self_left, Nat.mod_eq_of_lt v.isLt]
    · rw [Nat.pow_add, ← Nat.div_div_eq_div_mul, h, Nat.add_mul_div_left _ _ (Nat.two_pow_pos n), Nat.div_eq_of_lt v.isLt,
        Nat.zero_add]

/-- What a word of 32 bits with given fields is. -/
structure Lays (w : Nat) (fs : List Field) : Prop where
  holds : Holds w 0 fs
  lt : w < 2 ^ 32

theorem lays_of_eq {w : Nat} {fs : List Field} (h : w = word fs) (hn : width fs = 32) : Lays w fs :=
  ⟨holds_of_shifted (by rw [h, Nat.pow_zero, Nat.div_one]), by have := word_lt fs; rwa [hn, ← h] at this⟩

/-- A word of the S-stream: 23 bits of its format, ST, OP (R55). -/
@[simp] def sWord (op : BitVec 6) (st : SStall) (low : List Field) : List Field := low ++ [⟨3, st⟩, ⟨6, op⟩]

/-- A word of the V-stream: 21 bits of its format, ST, three bits of a type or a function, OP (R62). -/
@[simp] def vWord (op : BitVec 6) (ty : BitVec 3) (st : VStall) (low : List Field) : List Field :=
  low ++ [⟨2, st⟩, ⟨3, ty⟩, ⟨6, op⟩]

/-- Word 0 of a command: 15 bits of its format, SS, WS, OP (R66). -/
@[simp] def cmdWord (op : BitVec 5) (ws ss : SemId) (low : List Field) : List Field := low ++ [⟨6, ss⟩, ⟨6, ws⟩, ⟨5, op⟩]

/-! Words as bytes. -/

theorem wordsOfBytes_leBytes {w : Nat} (h : w < 2 ^ 32) (bs : List Byte) :
    wordsOfBytes (leBytes 4 w ++ bs) = w :: wordsOfBytes bs := by
  show leNat (leBytes 4 w) :: wordsOfBytes bs = _
  rw [Machine.leNat_leBytes_four, Nat.mod_eq_of_lt h]

theorem wordsOfBytes_flatMap {ws : List Nat} (h : ∀ w ∈ ws, w < 2 ^ 32) (bs : List Byte) :
    wordsOfBytes (ws.flatMap (leBytes 4) ++ bs) = ws ++ wordsOfBytes bs := by
  induction ws with
  | nil => rfl
  | cons w ws ih =>
    obtain ⟨hw, hws⟩ := List.forall_mem_cons.1 h
    rw [List.flatMap_cons, List.append_assoc, wordsOfBytes_leBytes hw, ih hws, List.cons_append]

theorem length_leBytes (n v : Nat) : (leBytes n v).length = n := by
  induction n generalizing v with
  | zero => rfl
  | succ n ih => rw [leBytes, List.length_cons, ih]

theorem drop_flatMap_leBytes (ws : List Nat) (bs : List Byte) :
    (ws.flatMap (leBytes 4) ++ bs).drop (4 * ws.length) = bs := by
  refine List.drop_left' ?_
  simp [List.length_flatMap, length_leBytes, Nat.mul_comm]

/-- An instruction is decoded from its bytes, whatever follows them, if it is decoded from its words. -/
theorem decode_encodeBytes {k : StreamKind} {i : Instr} {u : Nat} {ws : List Nat} (hi : encode i = u :: ws)
    (hlt : ∀ w ∈ u :: ws, w < 2 ^ 32) (hd : ∀ more, decodeWords k (u :: ws ++ more) = .ok i)
    (hn : wordsOf k u = some (u :: ws).length) (rest : List Byte) : decode k (encodeBytes i ++ rest) = .ok (i, rest) := by
  have hfirst : leNat ((encodeBytes i ++ rest).take 4) = u := by
    rw [encodeBytes, hi, List.flatMap_cons, List.append_assoc, List.take_left' (length_leBytes 4 u),
      Machine.leNat_leBytes_four, Nat.mod_eq_of_lt (hlt u List.mem_cons_self)]
  have hwords : decodeWords k (wordsOfBytes (encodeBytes i ++ rest)) = .ok i := by
    rw [encodeBytes, hi, wordsOfBytes_flatMap hlt, hd]
  have hrest : (encodeBytes i ++ rest).drop (4 * (u :: ws).length) = rest := by
    rw [encodeBytes, hi, drop_flatMap_leBytes]
  simp only [decode, hwords, hfirst, hn, hrest]

/-! Instructions. -/

/-- Whatever follows its bytes, an instruction whose fields lie in their limits is decoded back. -/
structure Decodes (k : StreamKind) (i : Instr) : Prop where
  decode_append : i.wellFormed = true → ∀ rest, decode k (encodeBytes i ++ rest) = .ok (i, rest)

theorem check_of_wellFormed {i : Instr} (h : i.wellFormed = true) : check i = .ok i := if_pos h

section
variable {i : Instr} {u v w : Nat}

theorem Decodes.ofS (fs : List Field) (hi : encode i = [u]) (hd : ∀ u, Holds u 0 fs → decodeS u = check i)
    (hu : u = word fs := by simp) (hn : width fs = 32 := by rfl) : Decodes .s i := by
  refine ⟨fun hw => ?_⟩
  have hl := lays_of_eq hu hn
  exact decode_encodeBytes hi (by simpa using hl.lt) (fun _ => (hd _ hl.holds).trans (check_of_wellFormed hw)) rfl

theorem Decodes.ofV (fs : List Field) (hi : encode i = [u]) (hd : ∀ u, Holds u 0 fs → decodeV u = check i)
    (hu : u = word fs := by simp) (hn : width fs = 32 := by rfl) : Decodes .v i := by
  refine ⟨fun hw => ?_⟩
  have hl := lays_of_eq hu hn
  exact decode_encodeBytes hi (by simpa using hl.lt) (fun _ => (hd _ hl.holds).trans (check_of_wellFormed hw)) rfl

theorem Decodes.ofM (fs gs : List Field) (hi : encode i = [u, v]) (hd : ∀ u v, Holds u 0 fs → Holds v 0 gs → decodeM u v 0 = check i)
    (hc : ∀ u, Holds u 0 fs → cmdWordsM (fld u 27 5) = some 2 := by simp +contextual [cmdWordsM])
    (hu : u = word fs := by simp) (hv : v = word gs := by simp)
    (hn : width fs = 32 := by rfl) (hm : width gs = 32 := by rfl) : Decodes .m i := by
  refine ⟨fun hw => ?_⟩
  have hl := lays_of_eq hu hn
  have hl' := lays_of_eq hv hm
  exact decode_encodeBytes hi (by simpa using ⟨hl.lt, hl'.lt⟩)
    (fun _ => (hd _ _ hl.holds hl'.holds).trans (check_of_wellFormed hw)) (hc _ hl.holds)

theorem Decodes.ofC2 (fs gs : List Field) (hi : encode i = [u, v]) (hd : ∀ u v, Holds u 0 fs → Holds v 0 gs → decodeC u v 0 = check i)
    (hc : ∀ u, Holds u 0 fs → cmdWordsC (fld u 27 5) = some 2 := by simp +contextual [cmdWordsC])
    (hu : u = word fs := by simp) (hv : v = word gs := by simp)
    (hn : width fs = 32 := by rfl) (hm : width gs = 32 := by rfl) : Decodes .c i := by
  refine ⟨fun hw => ?_⟩
  have hl := lays_of_eq hu hn
  have hl' := lays_of_eq hv hm
  refine decode_encodeBytes hi (by simpa using ⟨hl.lt, hl'.lt⟩) (fun more => ?_) (hc _ hl.holds)
  simp only [decodeWords, List.cons_append, List.nil_append, hc _ hl.holds]
  exact (hd _ _ hl.holds hl'.holds).trans (check_of_wellFormed hw)

theorem Decodes.ofC3 (fs gs hs : List Field) (hi : encode i = [u, v, w])
    (hd : ∀ u v w, Holds u 0 fs → Holds v 0 gs → Holds w 0 hs → decodeC u v w = check i)
    (hc : ∀ u, Holds u 0 fs → cmdWordsC (fld u 27 5) = some 3 := by simp +contextual [cmdWordsC])
    (hu : u = word fs := by simp) (hv : v = word gs := by simp) (hx : w = word hs := by simp)
    (hn : width fs = 32 := by rfl) (hm : width gs = 32 := by rfl) (ho : width hs = 32 := by rfl) : Decodes .c i := by
  refine ⟨fun hw => ?_⟩
  have hl := lays_of_eq hu hn
  have hl' := lays_of_eq hv hm
  have hl'' := lays_of_eq hx ho
  refine decode_encodeBytes hi (by simpa using ⟨hl.lt, hl'.lt, hl''.lt⟩) (fun more => ?_) (hc _ hl.holds)
  simp only [decodeWords, List.cons_append, List.nil_append, hc _ hl.holds]
  exact (hd _ _ _ hl.holds hl'.holds hl''.holds).trans (check_of_wellFormed hw)

end

/-! The instructions of the S-stream (R55, R56). -/

theorem Decodes.add (st : SStall) (d a b : XReg) : Decodes .s (.add st d a b) :=
  .ofS (sWord 0 st [⟨5, 0⟩, ⟨6, b⟩, ⟨6, a⟩, ⟨6, d⟩]) rfl (by simp +contextual [decodeS, decAdd])

theorem Decodes.sub (st : SStall) (d a b : XReg) : Decodes .s (.sub st d a b) :=
  .ofS (sWord 0 st [⟨5, 1⟩, ⟨6, b⟩, ⟨6, a⟩, ⟨6, d⟩]) rfl (by simp +contextual [decodeS, decSub])

theorem Decodes.and (st : SStall) (d a b : XReg) : Decodes .s (.and st d a b) :=
  .ofS (sWord 0 st [⟨5, 2⟩, ⟨6, b⟩, ⟨6, a⟩, ⟨6, d⟩]) rfl (by simp +contextual [decodeS, decAnd])

theorem Decodes.or (st : SStall) (d a b : XReg) : Decodes .s (.or st d a b) :=
  .ofS (sWord 0 st [⟨5, 3⟩, ⟨6, b⟩, ⟨6, a⟩, ⟨6, d⟩]) rfl (by simp +contextual [decodeS, decOr])

theorem Decodes.xor (st : SStall) (d a b : XReg) : Decodes .s (.xor st d a b) :=
  .ofS (sWord 0 st [⟨5, 4⟩, ⟨6, b⟩, ⟨6, a⟩, ⟨6, d⟩]) rfl (by simp +contextual [decodeS, decXor])

theorem Decodes.sll (st : SStall) (d a b : XReg) : Decodes .s (.sll st d a b) :=
  .ofS (sWord 0 st [⟨5, 5⟩, ⟨6, b⟩, ⟨6, a⟩, ⟨6, d⟩]) rfl (by simp +contextual [decodeS, decSll])

theorem Decodes.srl (st : SStall) (d a b : XReg) : Decodes .s (.srl st d a b) :=
  .ofS (sWord 0 st [⟨5, 6⟩, ⟨6, b⟩, ⟨6, a⟩, ⟨6, d⟩]) rfl (by simp +contextual [decodeS, decSrl])

theorem Decodes.sra (st : SStall) (d a b : XReg) : Decodes .s (.sra st d a b) :=
  .ofS (sWord 0 st [⟨5, 7⟩, ⟨6, b⟩, ⟨6, a⟩, ⟨6, d⟩]) rfl (by simp +contextual [decodeS, decSra])

theorem Decodes.slt (st : SStall) (d a b : XReg) : Decodes .s (.slt st d a b) :=
  .ofS (sWord 0 st [⟨5, 8⟩, ⟨6, b⟩, ⟨6, a⟩, ⟨6, d⟩]) rfl (by simp +contextual [decodeS, decSlt])

theorem Decodes.sltu (st : SStall) (d a b : XReg) : Decodes .s (.sltu st d a b) :=
  .ofS (sWord 0 st [⟨5, 9⟩, ⟨6, b⟩, ⟨6, a⟩, ⟨6, d⟩]) rfl (by simp +contextual [decodeS, decSltu])

theorem Decodes.seq (st : SStall) (d a b : XReg) : Decodes .s (.seq st d a b) :=
  .ofS (sWord 0 st [⟨5, 10⟩, ⟨6, b⟩, ⟨6, a⟩, ⟨6, d⟩]) rfl (by simp +contextual [decodeS, decSeq])

theorem Decodes.min (st : SStall) (d a b : XReg) : Decodes .s (.min st d a b) :=
  .ofS (sWord 0 st [⟨5, 11⟩, ⟨6, b⟩, ⟨6, a⟩, ⟨6, d⟩]) rfl (by simp +contextual [decodeS, decMin])

theorem Decodes.max (st : SStall) (d a b : XReg) : Decodes .s (.max st d a b) :=
  .ofS (sWord 0 st [⟨5, 12⟩, ⟨6, b⟩, ⟨6, a⟩, ⟨6, d⟩]) rfl (by simp +contextual [decodeS, decMax])

theorem Decodes.minu (st : SStall) (d a b : XReg) : Decodes .s (.minu st d a b) :=
  .ofS (sWord 0 st [⟨5, 13⟩, ⟨6, b⟩, ⟨6, a⟩, ⟨6, d⟩]) rfl (by simp +contextual [decodeS, decMinu])

theorem Decodes.maxu (st : SStall) (d a b : XReg) : Decodes .s (.maxu st d a b) :=
  .ofS (sWord 0 st [⟨5, 14⟩, ⟨6, b⟩, ⟨6, a⟩, ⟨6, d⟩]) rfl (by simp +contextual [decodeS, decMaxu])

theorem Decodes.mul (st : SStall) (d a b : XReg) : Decodes .s (.mul st d a b) :=
  .ofS (sWord 0 st [⟨5, 15⟩, ⟨6, b⟩, ⟨6, a⟩, ⟨6, d⟩]) rfl (by simp +contextual [decodeS, decMul])

theorem Decodes.mulh (st : SStall) (d a b : XReg) : Decodes .s (.mulh st d a b) :=
  .ofS (sWord 0 st [⟨5, 16⟩, ⟨6, b⟩, ⟨6, a⟩, ⟨6, d⟩]) rfl (by simp +contextual [decodeS, decMulh])

theorem Decodes.mulhu (st : SStall) (d a b : XReg) : Decodes .s (.mulhu st d a b) :=
  .ofS (sWord 0 st [⟨5, 17⟩, ⟨6, b⟩, ⟨6, a⟩, ⟨6, d⟩]) rfl (by simp +contextual [decodeS, decMulhu])

theorem Decodes.div (st : SStall) (d a b : XReg) : Decodes .s (.div st d a b) :=
  .ofS (sWord 0 st [⟨5, 18⟩, ⟨6, b⟩, ⟨6, a⟩, ⟨6, d⟩]) rfl (by simp +contextual [decodeS, decDiv])

theorem Decodes.divu (st : SStall) (d a b : XReg) : Decodes .s (.divu st d a b) :=
  .ofS (sWord 0 st [⟨5, 19⟩, ⟨6, b⟩, ⟨6, a⟩, ⟨6, d⟩]) rfl (by simp +contextual [decodeS, decDivu])

theorem Decodes.rem (st : SStall) (d a b : XReg) : Decodes .s (.rem st d a b) :=
  .ofS (sWord 0 st [⟨5, 20⟩, ⟨6, b⟩, ⟨6, a⟩, ⟨6, d⟩]) rfl (by simp +contextual [decodeS, decRem])

theorem Decodes.remu (st : SStall) (d a b : XReg) : Decodes .s (.remu st d a b) :=
  .ofS (sWord 0 st [⟨5, 21⟩, ⟨6, b⟩, ⟨6, a⟩, ⟨6, d⟩]) rfl (by simp +contextual [decodeS, decRemu])

theorem Decodes.clz (st : SStall) (d a : XReg) : Decodes .s (.clz st d a) :=
  .ofS (sWord 0 st [⟨5, 22⟩, ⟨6, 0⟩, ⟨6, a⟩, ⟨6, d⟩]) rfl (by simp +contextual [decodeS, decClz])

theorem Decodes.popc (st : SStall) (d a : XReg) : Decodes .s (.popc st d a) :=
  .ofS (sWord 0 st [⟨5, 23⟩, ⟨6, 0⟩, ⟨6, a⟩, ⟨6, d⟩]) rfl (by simp +contextual [decodeS, decPopc])

theorem Decodes.addi (st : SStall) (d a : XReg) (imm : BitVec 11) : Decodes .s (.addi st d a imm) :=
  .ofS (sWord 1 st [⟨11, imm⟩, ⟨6, a⟩, ⟨6, d⟩]) rfl (by simp +contextual [decodeS, decAddi])

theorem Decodes.andi (st : SStall) (d a : XReg) (imm : BitVec 11) : Decodes .s (.andi st d a imm) :=
  .ofS (sWord 2 st [⟨11, imm⟩, ⟨6, a⟩, ⟨6, d⟩]) rfl (by simp +contextual [decodeS, decAndi])

theorem Decodes.ori (st : SStall) (d a : XReg) (imm : BitVec 11) : Decodes .s (.ori st d a imm) :=
  .ofS (sWord 3 st [⟨11, imm⟩, ⟨6, a⟩, ⟨6, d⟩]) rfl (by simp +contextual [decodeS, decOri])

theorem Decodes.xori (st : SStall) (d a : XReg) (imm : BitVec 11) : Decodes .s (.xori st d a imm) :=
  .ofS (sWord 4 st [⟨11, imm⟩, ⟨6, a⟩, ⟨6, d⟩]) rfl (by simp +contextual [decodeS, decXori])

theorem Decodes.slli (st : SStall) (d a : XReg) (sh : BitVec 6) : Decodes .s (.slli st d a sh) :=
  .ofS (sWord 5 st [⟨6, sh⟩, ⟨3, 0⟩, ⟨2, 0⟩, ⟨6, a⟩, ⟨6, d⟩]) rfl (by simp +contextual [decodeS, decSlli])

theorem Decodes.srli (st : SStall) (d a : XReg) (sh : BitVec 6) : Decodes .s (.srli st d a sh) :=
  .ofS (sWord 5 st [⟨6, sh⟩, ⟨3, 0⟩, ⟨2, 1⟩, ⟨6, a⟩, ⟨6, d⟩]) rfl (by simp +contextual [decodeS, decSrli])

theorem Decodes.srai (st : SStall) (d a : XReg) (sh : BitVec 6) : Decodes .s (.srai st d a sh) :=
  .ofS (sWord 5 st [⟨6, sh⟩, ⟨3, 0⟩, ⟨2, 2⟩, ⟨6, a⟩, ⟨6, d⟩]) rfl (by simp +contextual [decodeS, decSrai])

theorem Decodes.slti (st : SStall) (d a : XReg) (imm : BitVec 11) : Decodes .s (.slti st d a imm) :=
  .ofS (sWord 6 st [⟨11, imm⟩, ⟨6, a⟩, ⟨6, d⟩]) rfl (by simp +contextual [decodeS, decSlti])

theorem Decodes.li (st : SStall) (d : XReg) (imm : BitVec 17) : Decodes .s (.li st d imm) :=
  .ofS (sWord 7 st [⟨17, imm⟩, ⟨6, d⟩]) rfl (by simp +contextual [decodeS, decLi])

theorem Decodes.lis (st : SStall) (d : XReg) (imm : BitVec 16) : Decodes .s (.lis st d imm) :=
  .ofS (sWord 8 st [⟨16, imm⟩, ⟨1, 0⟩, ⟨6, d⟩]) rfl (by simp +contextual [decodeS, decLis])

theorem Decodes.fadd (st : SStall) (d a b : XReg) : Decodes .s (.fadd st d a b) :=
  .ofS (sWord 9 st [⟨5, 0⟩, ⟨6, b⟩, ⟨6, a⟩, ⟨6, d⟩]) rfl (by simp +contextual [decodeS, decFadd])

theorem Decodes.fsub (st : SStall) (d a b : XReg) : Decodes .s (.fsub st d a b) :=
  .ofS (sWord 9 st [⟨5, 1⟩, ⟨6, b⟩, ⟨6, a⟩, ⟨6, d⟩]) rfl (by simp +contextual [decodeS, decFsub])

theorem Decodes.fmul (st : SStall) (d a b : XReg) : Decodes .s (.fmul st d a b) :=
  .ofS (sWord 9 st [⟨5, 2⟩, ⟨6, b⟩, ⟨6, a⟩, ⟨6, d⟩]) rfl (by simp +contextual [decodeS, decFmul])

theorem Decodes.fdiv (st : SStall) (d a b : XReg) : Decodes .s (.fdiv st d a b) :=
  .ofS (sWord 9 st [⟨5, 3⟩, ⟨6, b⟩, ⟨6, a⟩, ⟨6, d⟩]) rfl (by simp +contextual [decodeS, decFdiv])

theorem Decodes.fmin (st : SStall) (d a b : XReg) : Decodes .s (.fmin st d a b) :=
  .ofS (sWord 9 st [⟨5, 4⟩, ⟨6, b⟩, ⟨6, a⟩, ⟨6, d⟩]) rfl (by simp +contextual [decodeS, decFmin])

theorem Decodes.fmax (st : SStall) (d a b : XReg) : Decodes .s (.fmax st d a b) :=
  .ofS (sWord 9 st [⟨5, 5⟩, ⟨6, b⟩, ⟨6, a⟩, ⟨6, d⟩]) rfl (by simp +contextual [decodeS, decFmax])

theorem Decodes.fsqrt (st : SStall) (d a : XReg) : Decodes .s (.fsqrt st d a) :=
  .ofS (sWord 9 st [⟨5, 6⟩, ⟨6, 0⟩, ⟨6, a⟩, ⟨6, d⟩]) rfl (by simp +contextual [decodeS, decFsqrt])

theorem Decodes.feq (st : SStall) (d a b : XReg) : Decodes .s (.feq st d a b) :=
  .ofS (sWord 9 st [⟨5, 7⟩, ⟨6, b⟩, ⟨6, a⟩, ⟨6, d⟩]) rfl (by simp +contextual [decodeS, decFeq])

theorem Decodes.flt (st : SStall) (d a b : XReg) : Decodes .s (.flt st d a b) :=
  .ofS (sWord 9 st [⟨5, 8⟩, ⟨6, b⟩, ⟨6, a⟩, ⟨6, d⟩]) rfl (by simp +contextual [decodeS, decFlt])

theorem Decodes.fle (st : SStall) (d a b : XReg) : Decodes .s (.fle st d a b) :=
  .ofS (sWord 9 st [⟨5, 9⟩, ⟨6, b⟩, ⟨6, a⟩, ⟨6, d⟩]) rfl (by simp +contextual [decodeS, decFle])

theorem Decodes.fcvtsw (st : SStall) (d a : XReg) : Decodes .s (.fcvtsw st d a) :=
  .ofS (sWord 9 st [⟨5, 10⟩, ⟨6, 0⟩, ⟨6, a⟩, ⟨6, d⟩]) rfl (by simp +contextual [decodeS, decFcvtsw])

theorem Decodes.fcvtws (st : SStall) (d a : XReg) : Decodes .s (.fcvtws st d a) :=
  .ofS (sWord 9 st [⟨5, 11⟩, ⟨6, 0⟩, ⟨6, a⟩, ⟨6, d⟩]) rfl (by simp +contextual [decodeS, decFcvtws])

theorem Decodes.fcvtbs (st : SStall) (d a : XReg) : Decodes .s (.fcvtbs st d a) :=
  .ofS (sWord 9 st [⟨5, 12⟩, ⟨6, 0⟩, ⟨6, a⟩, ⟨6, d⟩]) rfl (by simp +contextual [decodeS, decFcvtbs])

theorem Decodes.fcvtsb (st : SStall) (d a : XReg) : Decodes .s (.fcvtsb st d a) :=
  .ofS (sWord 9 st [⟨5, 13⟩, ⟨6, 0⟩, ⟨6, a⟩, ⟨6, d⟩]) rfl (by simp +contextual [decodeS, decFcvtsb])

theorem Decodes.fma (st : SStall) (d a b : XReg) : Decodes .s (.fma st d a b) :=
  .ofS (sWord 10 st [⟨5, 0⟩, ⟨6, b⟩, ⟨6, a⟩, ⟨6, d⟩]) rfl (by simp +contextual [decodeS, decFma])

theorem Decodes.fms (st : SStall) (d a b : XReg) : Decodes .s (.fms st d a b) :=
  .ofS (sWord 10 st [⟨5, 1⟩, ⟨6, b⟩, ⟨6, a⟩, ⟨6, d⟩]) rfl (by simp +contextual [decodeS, decFms])

theorem Decodes.fnma (st : SStall) (d a b : XReg) : Decodes .s (.fnma st d a b) :=
  .ofS (sWord 10 st [⟨5, 2⟩, ⟨6, b⟩, ⟨6, a⟩, ⟨6, d⟩]) rfl (by simp +contextual [decodeS, decFnma])

theorem Decodes.beq (st : SStall) (a b : XReg) (off : BitVec 11) : Decodes .s (.beq st a b off) :=
  .ofS (sWord 11 st [⟨11, off⟩, ⟨6, b⟩, ⟨6, a⟩]) rfl (by simp +contextual [decodeS, decBeq])

theorem Decodes.bne (st : SStall) (a b : XReg) (off : BitVec 11) : Decodes .s (.bne st a b off) :=
  .ofS (sWord 12 st [⟨11, off⟩, ⟨6, b⟩, ⟨6, a⟩]) rfl (by simp +contextual [decodeS, decBne])

theorem Decodes.blt (st : SStall) (a b : XReg) (off : BitVec 11) : Decodes .s (.blt st a b off) :=
  .ofS (sWord 13 st [⟨11, off⟩, ⟨6, b⟩, ⟨6, a⟩]) rfl (by simp +contextual [decodeS, decBlt])

theorem Decodes.bge (st : SStall) (a b : XReg) (off : BitVec 11) : Decodes .s (.bge st a b off) :=
  .ofS (sWord 14 st [⟨11, off⟩, ⟨6, b⟩, ⟨6, a⟩]) rfl (by simp +contextual [decodeS, decBge])

theorem Decodes.bltu (st : SStall) (a b : XReg) (off : BitVec 11) : Decodes .s (.bltu st a b off) :=
  .ofS (sWord 15 st [⟨11, off⟩, ⟨6, b⟩, ⟨6, a⟩]) rfl (by simp +contextual [decodeS, decBltu])

theorem Decodes.bgeu (st : SStall) (a b : XReg) (off : BitVec 11) : Decodes .s (.bgeu st a b off) :=
  .ofS (sWord 16 st [⟨11, off⟩, ⟨6, b⟩, ⟨6, a⟩]) rfl (by simp +contextual [decodeS, decBgeu])

theorem Decodes.jal (st : SStall) (d : XReg) (off : BitVec 17) : Decodes .s (.jal st d off) :=
  .ofS (sWord 17 st [⟨17, off⟩, ⟨6, d⟩]) rfl (by simp +contextual [decodeS, decJal])

theorem Decodes.jalr (st : SStall) (d a : XReg) (imm : BitVec 11) : Decodes .s (.jalr st d a imm) :=
  .ofS (sWord 18 st [⟨11, imm⟩, ⟨6, a⟩, ⟨6, d⟩]) rfl (by simp +contextual [decodeS, decJalr])

theorem Decodes.ldb (st : SStall) (d : XReg) (t : TReg) (o : XReg) (imm : BitVec 6) : Decodes .s (.ldb st d t o imm) :=
  .ofS (sWord 19 st [⟨6, imm⟩, ⟨6, o⟩, ⟨5, t⟩, ⟨6, d⟩]) rfl (by simp +contextual [decodeS, decLdb])

theorem Decodes.ldh (st : SStall) (d : XReg) (t : TReg) (o : XReg) (imm : BitVec 6) : Decodes .s (.ldh st d t o imm) :=
  .ofS (sWord 20 st [⟨6, imm⟩, ⟨6, o⟩, ⟨5, t⟩, ⟨6, d⟩]) rfl (by simp +contextual [decodeS, decLdh])

theorem Decodes.ldw (st : SStall) (d : XReg) (t : TReg) (o : XReg) (imm : BitVec 6) : Decodes .s (.ldw st d t o imm) :=
  .ofS (sWord 21 st [⟨6, imm⟩, ⟨6, o⟩, ⟨5, t⟩, ⟨6, d⟩]) rfl (by simp +contextual [decodeS, decLdw])

theorem Decodes.ldd (st : SStall) (d : XReg) (t : TReg) (o : XReg) (imm : BitVec 6) : Decodes .s (.ldd st d t o imm) :=
  .ofS (sWord 22 st [⟨6, imm⟩, ⟨6, o⟩, ⟨5, t⟩, ⟨6, d⟩]) rfl (by simp +contextual [decodeS, decLdd])

theorem Decodes.stb (st : SStall) (d : XReg) (t : TReg) (o : XReg) (imm : BitVec 6) : Decodes .s (.stb st d t o imm) :=
  .ofS (sWord 23 st [⟨6, imm⟩, ⟨6, o⟩, ⟨5, t⟩, ⟨6, d⟩]) rfl (by simp +contextual [decodeS, decStb])

theorem Decodes.sth (st : SStall) (d : XReg) (t : TReg) (o : XReg) (imm : BitVec 6) : Decodes .s (.sth st d t o imm) :=
  .ofS (sWord 24 st [⟨6, imm⟩, ⟨6, o⟩, ⟨5, t⟩, ⟨6, d⟩]) rfl (by simp +contextual [decodeS, decSth])

theorem Decodes.stw (st : SStall) (d : XReg) (t : TReg) (o : XReg) (imm : BitVec 6) : Decodes .s (.stw st d t o imm) :=
  .ofS (sWord 25 st [⟨6, imm⟩, ⟨6, o⟩, ⟨5, t⟩, ⟨6, d⟩]) rfl (by simp +contextual [decodeS, decStw])

theorem Decodes.std (st : SStall) (d : XReg) (t : TReg) (o : XReg) (imm : BitVec 6) : Decodes .s (.std st d t o imm) :=
  .ofS (sWord 26 st [⟨6, imm⟩, ⟨6, o⟩, ⟨5, t⟩, ⟨6, d⟩]) rfl (by simp +contextual [decodeS, decStd])

theorem Decodes.amo (st : SStall) (d : XReg) (t : TReg) (o : XReg) (f : AmoOp) (dw : Bool) (sc : Scope) :
    Decodes .s (.amo st d t o f dw sc) :=
  .ofS (sWord 27 st [⟨2, sc.bits⟩, ⟨1, .ofBool dw⟩, ⟨3, f.bits⟩, ⟨6, o⟩, ⟨5, t⟩, ⟨6, d⟩])
    rfl (by simp +contextual [decodeS, decAmo])

theorem Decodes.cas (st : SStall) (d : XReg) (t : TReg) (o : XReg) (imm : BitVec 6) : Decodes .s (.cas st d t o imm) :=
  .ofS (sWord 28 st [⟨6, imm⟩, ⟨6, o⟩, ⟨5, t⟩, ⟨6, d⟩]) rfl (by simp +contextual [decodeS, decCas])

theorem Decodes.lds (st : SStall) (d a : XReg) (imm : BitVec 11) : Decodes .s (.lds st d a imm) :=
  .ofS (sWord 29 st [⟨11, imm⟩, ⟨6, a⟩, ⟨6, d⟩]) rfl (by simp +contextual [decodeS, decLds])

theorem Decodes.sts (st : SStall) (d a : XReg) (imm : BitVec 11) : Decodes .s (.sts st d a imm) :=
  .ofS (sWord 30 st [⟨11, imm⟩, ⟨6, a⟩, ⟨6, d⟩]) rfl (by simp +contextual [decodeS, decSts])

theorem Decodes.sps (st : SStall) (d : XReg) (slot : BitVec 10) : Decodes .s (.sps st d slot) :=
  .ofS (sWord 31 st [⟨10, slot⟩, ⟨7, 0⟩, ⟨6, d⟩]) rfl (by simp +contextual [decodeS, decSps])

theorem Decodes.spl (st : SStall) (d : XReg) (slot : BitVec 10) : Decodes .s (.spl st d slot) :=
  .ofS (sWord 32 st [⟨10, slot⟩, ⟨7, 0⟩, ⟨6, d⟩]) rfl (by simp +contextual [decodeS, decSpl])

theorem Decodes.xlat (st : SStall) (t : TReg) (a b : XReg) (r w : Bool) : Decodes .s (.xlat st t a b r w) :=
  .ofS (sWord 33 st [⟨1, .ofBool r⟩, ⟨1, .ofBool w⟩, ⟨4, 0⟩, ⟨6, b⟩, ⟨6, a⟩, ⟨5, t⟩])
    rfl (by simp +contextual [decodeS, decXlat]) (hu := by simp; omega)

theorem Decodes.xlatq (st : SStall) (t : TReg) (a b : XReg) (r w : Bool) : Decodes .s (.xlatq st t a b r w) :=
  .ofS (sWord 34 st [⟨1, .ofBool r⟩, ⟨1, .ofBool w⟩, ⟨4, 0⟩, ⟨6, b⟩, ⟨6, a⟩, ⟨5, t⟩])
    rfl (by simp +contextual [decodeS, decXlatq]) (hu := by simp; omega)

theorem Decodes.trel (st : SStall) (t : TReg) : Decodes .s (.trel st t) :=
  .ofS (sWord 35 st [⟨7, 0⟩, ⟨11, 0⟩, ⟨5, t⟩]) rfl (by simp +contextual [decodeS, decTrel])

theorem Decodes.tmov (st : SStall) (t u : TReg) : Decodes .s (.tmov st t u) :=
  .ofS (sWord 35 st [⟨7, 1⟩, ⟨6, 0⟩, ⟨5, u⟩, ⟨5, t⟩]) rfl (by simp +contextual [decodeS, decTmov])

theorem Decodes.tsub (st : SStall) (t u : TReg) (a : XReg) : Decodes .s (.tsub st t u a) :=
  .ofS (sWord 35 st [⟨7, 2⟩, ⟨6, a⟩, ⟨5, u⟩, ⟨5, t⟩]) rfl (by simp +contextual [decodeS, decTsub])

theorem Decodes.tinfo (st : SStall) (u : TReg) (a : XReg) : Decodes .s (.tinfo st u a) :=
  .ofS (sWord 35 st [⟨7, 3⟩, ⟨6, a⟩, ⟨5, u⟩, ⟨5, 0⟩]) rfl (by simp +contextual [decodeS, decTinfo])

theorem Decodes.tchk (st : SStall) (u : TReg) (a : XReg) : Decodes .s (.tchk st u a) :=
  .ofS (sWord 35 st [⟨7, 4⟩, ⟨6, a⟩, ⟨5, u⟩, ⟨5, 0⟩]) rfl (by simp +contextual [decodeS, decTchk])

theorem Decodes.look (st : SStall) (d a : XReg) : Decodes .s (.look st d a) :=
  .ofS (sWord 36 st [⟨11, 0⟩, ⟨6, a⟩, ⟨6, d⟩]) rfl (by simp +contextual [decodeS, decLook])

theorem Decodes.dtag (st : SStall) (a b : XReg) : Decodes .s (.dtag st a b) :=
  .ofS (sWord 37 st [⟨5, 0⟩, ⟨6, b⟩, ⟨6, a⟩, ⟨6, 0⟩]) rfl (by simp +contextual [decodeS, decDtag])

theorem Decodes.fork (st : SStall) (a : XReg) : Decodes .s (.fork st a) :=
  .ofS (sWord 38 st [⟨11, 0⟩, ⟨6, a⟩, ⟨6, 0⟩]) rfl (by simp +contextual [decodeS, decFork])

theorem Decodes.rdv (st : SStall) : Decodes .s (.rdv st) :=
  .ofS (sWord 39 st [⟨23, 0⟩]) rfl (by simp +contextual [decodeS, decRdv])

theorem Decodes.send (st : SStall) (a b : XReg) (m : BitVec 4) : Decodes .s (.send st a b m) :=
  .ofS (sWord 40 st [⟨4, m⟩, ⟨1, 0⟩, ⟨6, b⟩, ⟨6, a⟩, ⟨6, 0⟩]) rfl (by simp +contextual [decodeS, decSend])

theorem Decodes.vfence (st : SStall) : Decodes .s (.vfence st) :=
  .ofS (sWord 41 st [⟨23, 0⟩]) rfl (by simp +contextual [decodeS, decVfence])

theorem Decodes.rapp (st : SStall) (a : XReg) (r : RingSel) : Decodes .s (.rapp st a r) :=
  .ofS (sWord 42 st [⟨2, r.bits⟩, ⟨1, 0⟩, ⟨8, 0⟩, ⟨6, a⟩, ⟨6, 0⟩]) rfl (by simp +contextual [decodeS, decRapp])

theorem Decodes.rappPair (st : SStall) (a b : XReg) (r : RingSel) : Decodes .s (.rappPair st a b r) :=
  .ofS (sWord 42 st [⟨2, r.bits⟩, ⟨1, 1⟩, ⟨2, 0⟩, ⟨6, b⟩, ⟨6, a⟩, ⟨6, 0⟩])
    rfl (by simp +contextual [decodeS, decRappPair]) (hu := by simp; omega)

theorem Decodes.post (st : SStall) (n : SemId) : Decodes .s (.post st n) :=
  .ofS (sWord 43 st [⟨6, n⟩, ⟨17, 0⟩]) rfl (by simp +contextual [decodeS, decPost])

theorem Decodes.waits (st : SStall) (n : SemId) : Decodes .s (.waits st n) :=
  .ofS (sWord 44 st [⟨6, n⟩, ⟨17, 0⟩]) rfl (by simp +contextual [decodeS, decWaits])

theorem Decodes.mark (st : SStall) (sc : Scope) : Decodes .s (.mark st sc) :=
  .ofS (sWord 45 st [⟨2, sc.bits⟩, ⟨21, 0⟩]) rfl (by simp +contextual [decodeS, decMark])

theorem Decodes.fence (st : SStall) (k : FenceKind) (sc : Scope) : Decodes .s (.fence st k sc) :=
  .ofS (sWord 46 st [⟨2, sc.bits⟩, ⟨2, k.bits⟩, ⟨19, 0⟩]) rfl (by simp +contextual [decodeS, decFence])

theorem Decodes.bar (st : SStall) (n : BarId) : Decodes .s (.bar st n) :=
  .ofS (sWord 47 st [⟨5, n⟩, ⟨18, 0⟩]) rfl (by simp +contextual [decodeS, decBar])

theorem Decodes.sacq (st : SStall) (d : XReg) (n : RingId) : Decodes .s (.sacq st d n) :=
  .ofS (sWord 48 st [⟨5, 0⟩, ⟨6, 0⟩, ⟨5, n⟩, ⟨1, 0⟩, ⟨6, d⟩]) rfl (by simp +contextual [decodeS, decSacq])

theorem Decodes.scommit (st : SStall) (n : RingId) : Decodes .s (.scommit st n) :=
  .ofS (sWord 48 st [⟨5, 1⟩, ⟨6, 0⟩, ⟨5, n⟩, ⟨7, 0⟩]) rfl (by simp +contextual [decodeS, decScommit])

theorem Decodes.sawait (st : SStall) (d : XReg) (n : RingId) : Decodes .s (.sawait st d n) :=
  .ofS (sWord 48 st [⟨5, 2⟩, ⟨6, 0⟩, ⟨5, n⟩, ⟨1, 0⟩, ⟨6, d⟩]) rfl (by simp +contextual [decodeS, decSawait])

theorem Decodes.srel (st : SStall) (n : RingId) : Decodes .s (.srel st n) :=
  .ofS (sWord 48 st [⟨5, 3⟩, ⟨6, 0⟩, ⟨5, n⟩, ⟨7, 0⟩]) rfl (by simp +contextual [decodeS, decSrel])

theorem Decodes.jlaunch (st : SStall) (d a : XReg) : Decodes .s (.jlaunch st d a) :=
  .ofS (sWord 49 st [⟨11, 0⟩, ⟨6, a⟩, ⟨6, d⟩]) rfl (by simp +contextual [decodeS, decJlaunch])

theorem Decodes.flushh (st : SStall) (t : TReg) (a b : XReg) : Decodes .s (.flushh st t a b) :=
  .ofS (sWord 50 st [⟨6, 0⟩, ⟨6, b⟩, ⟨6, a⟩, ⟨5, t⟩]) rfl (by simp +contextual [decodeS, decFlushh])

theorem Decodes.invh (st : SStall) (t : TReg) (a b : XReg) : Decodes .s (.invh st t a b) :=
  .ofS (sWord 51 st [⟨6, 0⟩, ⟨6, b⟩, ⟨6, a⟩, ⟨5, t⟩]) rfl (by simp +contextual [decodeS, decInvh])

theorem Decodes.skipr (st : SStall) (d a b : XReg) : Decodes .s (.skipr st d a b) :=
  .ofS (sWord 52 st [⟨5, 0⟩, ⟨6, b⟩, ⟨6, a⟩, ⟨6, d⟩]) rfl (by simp +contextual [decodeS, decSkipr])

theorem Decodes.skipw (st : SStall) (d a b : XReg) : Decodes .s (.skipw st d a b) :=
  .ofS (sWord 52 st [⟨5, 1⟩, ⟨6, b⟩, ⟨6, a⟩, ⟨6, d⟩]) rfl (by simp +contextual [decodeS, decSkipw])

theorem Decodes.csrr (st : SStall) (d : XReg) (c : BitVec 11) : Decodes .s (.csrr st d c) :=
  .ofS (sWord 53 st [⟨11, c⟩, ⟨6, 0⟩, ⟨6, d⟩]) rfl (by simp +contextual [decodeS, decCsrr])

theorem Decodes.csrw (st : SStall) (d a : XReg) (c : BitVec 11) : Decodes .s (.csrw st d a c) :=
  .ofS (sWord 54 st [⟨11, c⟩, ⟨6, a⟩, ⟨6, d⟩]) rfl (by simp +contextual [decodeS, decCsrw])

theorem Decodes.csrs (st : SStall) (d a : XReg) (c : BitVec 11) : Decodes .s (.csrs st d a c) :=
  .ofS (sWord 55 st [⟨11, c⟩, ⟨6, a⟩, ⟨6, d⟩]) rfl (by simp +contextual [decodeS, decCsrs])

theorem Decodes.csrc (st : SStall) (d a : XReg) (c : BitVec 11) : Decodes .s (.csrc st d a c) :=
  .ofS (sWord 56 st [⟨11, c⟩, ⟨6, a⟩, ⟨6, d⟩]) rfl (by simp +contextual [decodeS, decCsrc])

theorem Decodes.trap (st : SStall) (code : BitVec 8) : Decodes .s (.trap st code) :=
  .ofS (sWord 57 st [⟨3, 1⟩, ⟨8, code⟩, ⟨12, 0⟩]) rfl (by simp +contextual [decodeS, decTrap])

theorem Decodes.eret (st : SStall) : Decodes .s (.eret st) :=
  .ofS (sWord 57 st [⟨3, 2⟩, ⟨20, 0⟩]) rfl (by simp +contextual [decodeS, decEret])

theorem Decodes.halt (st : SStall) : Decodes .s (.halt st) :=
  .ofS (sWord 57 st [⟨3, 3⟩, ⟨20, 0⟩]) rfl (by simp +contextual [decodeS, decHalt])

theorem Decodes.wfi (st : SStall) : Decodes .s (.wfi st) :=
  .ofS (sWord 57 st [⟨3, 4⟩, ⟨20, 0⟩]) rfl (by simp +contextual [decodeS, decWfi])

theorem Decodes.bkpt (st : SStall) : Decodes .s (.bkpt st) :=
  .ofS (sWord 57 st [⟨3, 5⟩, ⟨20, 0⟩]) rfl (by simp +contextual [decodeS, decBkpt])

/-! The instructions of the V-stream (R60-R62). -/

theorem Decodes.vadd (et : ETy) (st : VStall) (g : PReg) (d a b : VReg) (sat : Bool) : Decodes .v (.vadd et st g d a b sat) :=
  .ofV (vWord 0 et.bits st [⟨1, .ofBool sat⟩, ⟨5, b⟩, ⟨5, a⟩, ⟨5, d⟩, ⟨5, g⟩]) rfl (by simp +contextual [decodeV, decVadd])

theorem Decodes.vsub (et : ETy) (st : VStall) (g : PReg) (d a b : VReg) (sat : Bool) : Decodes .v (.vsub et st g d a b sat) :=
  .ofV (vWord 1 et.bits st [⟨1, .ofBool sat⟩, ⟨5, b⟩, ⟨5, a⟩, ⟨5, d⟩, ⟨5, g⟩]) rfl (by simp +contextual [decodeV, decVsub])

theorem Decodes.vmul (et : ETy) (st : VStall) (g : PReg) (d a b : VReg) (sat : Bool) : Decodes .v (.vmul et st g d a b sat) :=
  .ofV (vWord 2 et.bits st [⟨1, .ofBool sat⟩, ⟨5, b⟩, ⟨5, a⟩, ⟨5, d⟩, ⟨5, g⟩]) rfl (by simp +contextual [decodeV, decVmul])

theorem Decodes.vfma (et : ETy) (st : VStall) (g : PReg) (d a b : VReg) (sat : Bool) : Decodes .v (.vfma et st g d a b sat) :=
  .ofV (vWord 3 et.bits st [⟨1, .ofBool sat⟩, ⟨5, b⟩, ⟨5, a⟩, ⟨5, d⟩, ⟨5, g⟩]) rfl (by simp +contextual [decodeV, decVfma])

theorem Decodes.vmin (et : ETy) (st : VStall) (g : PReg) (d a b : VReg) (uns : Bool) : Decodes .v (.vmin et st g d a b uns) :=
  .ofV (vWord 4 et.bits st [⟨1, .ofBool uns⟩, ⟨5, b⟩, ⟨5, a⟩, ⟨5, d⟩, ⟨5, g⟩]) rfl (by simp +contextual [decodeV, decVmin])

theorem Decodes.vmax (et : ETy) (st : VStall) (g : PReg) (d a b : VReg) (uns : Bool) : Decodes .v (.vmax et st g d a b uns) :=
  .ofV (vWord 5 et.bits st [⟨1, .ofBool uns⟩, ⟨5, b⟩, ⟨5, a⟩, ⟨5, d⟩, ⟨5, g⟩]) rfl (by simp +contextual [decodeV, decVmax])

theorem Decodes.vabs (et : ETy) (st : VStall) (g : PReg) (d a : VReg) (sat : Bool) : Decodes .v (.vabs et st g d a sat) :=
  .ofV (vWord 6 et.bits st [⟨1, .ofBool sat⟩, ⟨5, 0⟩, ⟨5, a⟩, ⟨5, d⟩, ⟨5, g⟩]) rfl (by simp +contextual [decodeV, decVabs])

theorem Decodes.vneg (et : ETy) (st : VStall) (g : PReg) (d a : VReg) (sat : Bool) : Decodes .v (.vneg et st g d a sat) :=
  .ofV (vWord 7 et.bits st [⟨1, .ofBool sat⟩, ⟨5, 0⟩, ⟨5, a⟩, ⟨5, d⟩, ⟨5, g⟩]) rfl (by simp +contextual [decodeV, decVneg])

theorem Decodes.vand (et : ETy) (st : VStall) (g : PReg) (d a b : VReg) : Decodes .v (.vand et st g d a b) :=
  .ofV (vWord 8 et.bits st [⟨1, 0⟩, ⟨5, b⟩, ⟨5, a⟩, ⟨5, d⟩, ⟨5, g⟩]) rfl (by simp +contextual [decodeV, decVand])

theorem Decodes.vor (et : ETy) (st : VStall) (g : PReg) (d a b : VReg) : Decodes .v (.vor et st g d a b) :=
  .ofV (vWord 9 et.bits st [⟨1, 0⟩, ⟨5, b⟩, ⟨5, a⟩, ⟨5, d⟩, ⟨5, g⟩]) rfl (by simp +contextual [decodeV, decVor])

theorem Decodes.vxor (et : ETy) (st : VStall) (g : PReg) (d a b : VReg) : Decodes .v (.vxor et st g d a b) :=
  .ofV (vWord 10 et.bits st [⟨1, 0⟩, ⟨5, b⟩, ⟨5, a⟩, ⟨5, d⟩, ⟨5, g⟩]) rfl (by simp +contextual [decodeV, decVxor])

theorem Decodes.vshl (et : ETy) (st : VStall) (g : PReg) (d a b : VReg) : Decodes .v (.vshl et st g d a b) :=
  .ofV (vWord 11 et.bits st [⟨1, 0⟩, ⟨5, b⟩, ⟨5, a⟩, ⟨5, d⟩, ⟨5, g⟩]) rfl (by simp +contextual [decodeV, decVshl])

theorem Decodes.vshr (et : ETy) (st : VStall) (g : PReg) (d a b : VReg) (uns : Bool) : Decodes .v (.vshr et st g d a b uns) :=
  .ofV (vWord 12 et.bits st [⟨1, .ofBool uns⟩, ⟨5, b⟩, ⟨5, a⟩, ⟨5, d⟩, ⟨5, g⟩]) rfl (by simp +contextual [decodeV, decVshr])

theorem Decodes.vcmp (et : ETy) (st : VStall) (p : PReg) (k : CmpKind) (a b : VReg) (uns : Bool) :
    Decodes .v (.vcmp et st p k a b uns) :=
  .ofV (vWord 13 et.bits st [⟨1, .ofBool uns⟩, ⟨5, b⟩, ⟨5, a⟩, ⟨5, k.bits⟩, ⟨5, p⟩]) rfl (by simp +contextual [decodeV, decVcmp])

theorem Decodes.vsel (et : ETy) (st : VStall) (p : PReg) (d a b : VReg) : Decodes .v (.vsel et st p d a b) :=
  .ofV (vWord 14 et.bits st [⟨1, 0⟩, ⟨5, b⟩, ⟨5, a⟩, ⟨5, d⟩, ⟨5, p⟩]) rfl (by simp +contextual [decodeV, decVsel])

theorem Decodes.vmov (et : ETy) (st : VStall) (g : PReg) (d a : VReg) : Decodes .v (.vmov et st g d a) :=
  .ofV (vWord 15 et.bits st [⟨1, 0⟩, ⟨5, 0⟩, ⟨5, a⟩, ⟨5, d⟩, ⟨5, g⟩]) rfl (by simp +contextual [decodeV, decVmov])

theorem Decodes.vexp2 (et : ETy) (st : VStall) (g : PReg) (d a : VReg) : Decodes .v (.vexp2 et st g d a) :=
  .ofV (vWord 16 et.bits st [⟨1, 0⟩, ⟨5, 0⟩, ⟨5, a⟩, ⟨5, d⟩, ⟨5, g⟩]) rfl (by simp +contextual [decodeV, decVexp2])

theorem Decodes.vlog2 (et : ETy) (st : VStall) (g : PReg) (d a : VReg) : Decodes .v (.vlog2 et st g d a) :=
  .ofV (vWord 17 et.bits st [⟨1, 0⟩, ⟨5, 0⟩, ⟨5, a⟩, ⟨5, d⟩, ⟨5, g⟩]) rfl (by simp +contextual [decodeV, decVlog2])

theorem Decodes.vrcp (et : ETy) (st : VStall) (g : PReg) (d a : VReg) : Decodes .v (.vrcp et st g d a) :=
  .ofV (vWord 18 et.bits st [⟨1, 0⟩, ⟨5, 0⟩, ⟨5, a⟩, ⟨5, d⟩, ⟨5, g⟩]) rfl (by simp +contextual [decodeV, decVrcp])

theorem Decodes.vrsq (et : ETy) (st : VStall) (g : PReg) (d a : VReg) : Decodes .v (.vrsq et st g d a) :=
  .ofV (vWord 19 et.bits st [⟨1, 0⟩, ⟨5, 0⟩, ⟨5, a⟩, ⟨5, d⟩, ⟨5, g⟩]) rfl (by simp +contextual [decodeV, decVrsq])

theorem Decodes.vtanh (et : ETy) (st : VStall) (g : PReg) (d a : VReg) : Decodes .v (.vtanh et st g d a) :=
  .ofV (vWord 20 et.bits st [⟨1, 0⟩, ⟨5, 0⟩, ⟨5, a⟩, ⟨5, d⟩, ⟨5, g⟩]) rfl (by simp +contextual [decodeV, decVtanh])

theorem Decodes.verf (et : ETy) (st : VStall) (g : PReg) (d a : VReg) : Decodes .v (.verf et st g d a) :=
  .ofV (vWord 21 et.bits st [⟨1, 0⟩, ⟨5, 0⟩, ⟨5, a⟩, ⟨5, d⟩, ⟨5, g⟩]) rfl (by simp +contextual [decodeV, decVerf])

theorem Decodes.vcvt (et : ETy) (st : VStall) (g : PReg) (d a : VReg) (y : ETy) (r : Round) (sat : Bool) :
    Decodes .v (.vcvt et st g d a y r sat) :=
  .ofV (vWord 22 et.bits st [⟨1, .ofBool sat⟩, ⟨2, r.bits⟩, ⟨3, y.bits⟩, ⟨5, a⟩, ⟨5, d⟩, ⟨5, g⟩])
    rfl (by simp +contextual [decodeV, decVcvt])

theorem Decodes.vwid (et : ETy) (st : VStall) (g : PReg) (d a : VReg) (y : ETy) (uns : Bool) :
    Decodes .v (.vwid et st g d a y uns) :=
  .ofV (vWord 23 et.bits st [⟨1, .ofBool uns⟩, ⟨2, 0⟩, ⟨3, y.bits⟩, ⟨5, a⟩, ⟨5, d⟩, ⟨5, g⟩])
    rfl (by simp +contextual [decodeV, decVwid])

theorem Decodes.vnar (et : ETy) (st : VStall) (g : PReg) (d a : VReg) (y : ETy) (r : Round) (sat : Bool) :
    Decodes .v (.vnar et st g d a y r sat) :=
  .ofV (vWord 24 et.bits st [⟨1, .ofBool sat⟩, ⟨2, r.bits⟩, ⟨3, y.bits⟩, ⟨5, a⟩, ⟨5, d⟩, ⟨5, g⟩])
    rfl (by simp +contextual [decodeV, decVnar])

theorem Decodes.vperm (et : ETy) (st : VStall) (g : PReg) (d a b : VReg) : Decodes .v (.vperm et st g d a b) :=
  .ofV (vWord 25 et.bits st [⟨1, 0⟩, ⟨5, b⟩, ⟨5, a⟩, ⟨5, d⟩, ⟨5, g⟩]) rfl (by simp +contextual [decodeV, decVperm])

theorem Decodes.vzip (et : ETy) (st : VStall) (g : PReg) (d a b : VReg) : Decodes .v (.vzip et st g d a b) :=
  .ofV (vWord 26 et.bits st [⟨1, 0⟩, ⟨5, b⟩, ⟨5, a⟩, ⟨5, d⟩, ⟨5, g⟩]) rfl (by simp +contextual [decodeV, decVzip])

theorem Decodes.vunz (et : ETy) (st : VStall) (g : PReg) (d a b : VReg) : Decodes .v (.vunz et st g d a b) :=
  .ofV (vWord 27 et.bits st [⟨1, 0⟩, ⟨5, b⟩, ⟨5, a⟩, ⟨5, d⟩, ⟨5, g⟩]) rfl (by simp +contextual [decodeV, decVunz])

theorem Decodes.vred (et : ETy) (st : VStall) (g : PReg) (d a : VReg) (f : RedFn) (uns : Bool) :
    Decodes .v (.vred et st g d a f uns) :=
  .ofV (vWord 28 et.bits st [⟨1, .ofBool uns⟩, ⟨5, f.bits⟩, ⟨5, a⟩, ⟨5, d⟩, ⟨5, g⟩]) rfl (by simp +contextual [decodeV, decVred])

theorem Decodes.vscan (et : ETy) (st : VStall) (g : PReg) (d a : VReg) (f : RedFn) (uns : Bool) :
    Decodes .v (.vscan et st g d a f uns) :=
  .ofV (vWord 29 et.bits st [⟨1, .ofBool uns⟩, ⟨5, f.bits⟩, ⟨5, a⟩, ⟨5, d⟩, ⟨5, g⟩]) rfl (by simp +contextual [decodeV, decVscan])

theorem Decodes.viota (et : ETy) (st : VStall) (g : PReg) (d : VReg) : Decodes .v (.viota et st g d) :=
  .ofV (vWord 30 et.bits st [⟨11, 0⟩, ⟨5, d⟩, ⟨5, g⟩]) rfl (by simp +contextual [decodeV, decViota])

theorem Decodes.vbcast (et : ETy) (st : VStall) (g : PReg) (d : VReg) (b : AReg) : Decodes .v (.vbcast et st g d b) :=
  .ofV (vWord 31 et.bits st [⟨1, 0⟩, ⟨4, b⟩, ⟨6, 0⟩, ⟨5, d⟩, ⟨5, g⟩]) rfl (by simp +contextual [decodeV, decVbcast])

theorem Decodes.vaddi (et : ETy) (st : VStall) (d : VReg) (imm : BitVec 16) : Decodes .v (.vaddi et st d imm) :=
  .ofV (vWord 32 et.bits st [⟨16, imm⟩, ⟨5, d⟩]) rfl (by simp +contextual [decodeV, decVaddi])

theorem Decodes.vmuli (et : ETy) (st : VStall) (d : VReg) (imm : BitVec 16) : Decodes .v (.vmuli et st d imm) :=
  .ofV (vWord 33 et.bits st [⟨16, imm⟩, ⟨5, d⟩]) rfl (by simp +contextual [decodeV, decVmuli])

theorem Decodes.vmaxi (et : ETy) (st : VStall) (d : VReg) (imm : BitVec 16) : Decodes .v (.vmaxi et st d imm) :=
  .ofV (vWord 34 et.bits st [⟨16, imm⟩, ⟨5, d⟩]) rfl (by simp +contextual [decodeV, decVmaxi])

theorem Decodes.vmini (et : ETy) (st : VStall) (d : VReg) (imm : BitVec 16) : Decodes .v (.vmini et st d imm) :=
  .ofV (vWord 35 et.bits st [⟨16, imm⟩, ⟨5, d⟩]) rfl (by simp +contextual [decodeV, decVmini])

theorem Decodes.vmovi (et : ETy) (st : VStall) (d : VReg) (imm : BitVec 16) : Decodes .v (.vmovi et st d imm) :=
  .ofV (vWord 36 et.bits st [⟨16, imm⟩, ⟨5, d⟩]) rfl (by simp +contextual [decodeV, decVmovi])

theorem Decodes.vandi (et : ETy) (st : VStall) (d : VReg) (imm : BitVec 16) : Decodes .v (.vandi et st d imm) :=
  .ofV (vWord 37 et.bits st [⟨16, imm⟩, ⟨5, d⟩]) rfl (by simp +contextual [decodeV, decVandi])

theorem Decodes.vshli (et : ETy) (st : VStall) (d : VReg) (imm : BitVec 16) : Decodes .v (.vshli et st d imm) :=
  .ofV (vWord 38 et.bits st [⟨16, imm⟩, ⟨5, d⟩]) rfl (by simp +contextual [decodeV, decVshli])

theorem Decodes.vsubi (et : ETy) (st : VStall) (d : VReg) (imm : BitVec 16) : Decodes .v (.vsubi et st d imm) :=
  .ofV (vWord 39 et.bits st [⟨16, imm⟩, ⟨5, d⟩]) rfl (by simp +contextual [decodeV, decVsubi])

theorem Decodes.vld (et : ETy) (st : VStall) (g : PReg) (d : VReg) (t : TReg) (o : AReg) (gauge raw : Bool) :
    Decodes .v (.vld et st g d t o gauge raw) :=
  .ofV (vWord 40 et.bits st [⟨1, .ofBool raw⟩, ⟨1, .ofBool gauge⟩, ⟨4, o⟩, ⟨5, t⟩, ⟨5, d⟩, ⟨5, g⟩])
    rfl (by simp +contextual [decodeV, decVld])

theorem Decodes.vst (et : ETy) (st : VStall) (g : PReg) (d : VReg) (t : TReg) (o : AReg) (raw : Bool) :
    Decodes .v (.vst et st g d t o raw) :=
  .ofV (vWord 41 et.bits st [⟨1, .ofBool raw⟩, ⟨1, 0⟩, ⟨4, o⟩, ⟨5, t⟩, ⟨5, d⟩, ⟨5, g⟩])
    rfl (by simp +contextual [decodeV, decVst])

theorem Decodes.vlds (et : ETy) (st : VStall) (g : PReg) (d : VReg) (b : AReg) (imm : BitVec 7) :
    Decodes .v (.vlds et st g d b imm) :=
  .ofV (vWord 42 et.bits st [⟨7, imm⟩, ⟨4, b⟩, ⟨5, d⟩, ⟨5, g⟩]) rfl (by simp +contextual [decodeV, decVlds])

theorem Decodes.vsts (et : ETy) (st : VStall) (g : PReg) (d : VReg) (b : AReg) (imm : BitVec 7) :
    Decodes .v (.vsts et st g d b imm) :=
  .ofV (vWord 43 et.bits st [⟨7, imm⟩, ⟨4, b⟩, ⟨5, d⟩, ⟨5, g⟩]) rfl (by simp +contextual [decodeV, decVsts])

theorem Decodes.vgath (et : ETy) (st : VStall) (g : PReg) (d : VReg) (t : TReg) (b : VReg) (elems : Bool) :
    Decodes .v (.vgath et st g d t b elems) :=
  .ofV (vWord 44 et.bits st [⟨1, .ofBool elems⟩, ⟨5, b⟩, ⟨5, t⟩, ⟨5, d⟩, ⟨5, g⟩]) rfl (by simp +contextual [decodeV, decVgath])

theorem Decodes.vscat (et : ETy) (st : VStall) (g : PReg) (d : VReg) (t : TReg) (b : VReg) (elems : Bool) :
    Decodes .v (.vscat et st g d t b elems) :=
  .ofV (vWord 45 et.bits st [⟨1, .ofBool elems⟩, ⟨5, b⟩, ⟨5, t⟩, ⟨5, d⟩, ⟨5, g⟩]) rfl (by simp +contextual [decodeV, decVscat])

theorem Decodes.vslotAcq (st : VStall) (d : AReg) (n : RingId) : Decodes .v (.vslotAcq st d n) :=
  .ofV (vWord 46 0 st [⟨1, 0⟩, ⟨5, 0⟩, ⟨5, n⟩, ⟨4, d⟩, ⟨6, 0⟩]) rfl (by simp +contextual [decodeV, decVslotAcq])

theorem Decodes.vslotCommit (st : VStall) (n : RingId) : Decodes .v (.vslotCommit st n) :=
  .ofV (vWord 46 0 st [⟨1, 0⟩, ⟨5, 1⟩, ⟨5, n⟩, ⟨10, 0⟩]) rfl (by simp +contextual [decodeV, decVslotCommit])

theorem Decodes.vslotAwait (st : VStall) (d : AReg) (n : RingId) : Decodes .v (.vslotAwait st d n) :=
  .ofV (vWord 46 0 st [⟨1, 0⟩, ⟨5, 2⟩, ⟨5, n⟩, ⟨4, d⟩, ⟨6, 0⟩]) rfl (by simp +contextual [decodeV, decVslotAwait])

theorem Decodes.vslotRel (st : VStall) (n : RingId) : Decodes .v (.vslotRel st n) :=
  .ofV (vWord 46 0 st [⟨1, 0⟩, ⟨5, 3⟩, ⟨5, n⟩, ⟨10, 0⟩]) rfl (by simp +contextual [decodeV, decVslotRel])

theorem Decodes.vsetfSetfmt (st : VStall) (k : BitVec 4) : Decodes .v (.vsetfSetfmt st k) :=
  .ofV (vWord 47 0 st [⟨4, k⟩, ⟨12, 0⟩, ⟨5, 0⟩]) rfl (by simp +contextual [decodeV, decVsetfSetfmt])

theorem Decodes.vsetfSelpat (st : VStall) (en : Bool) (k : BitVec 3) : Decodes .v (.vsetfSelpat st en k) :=
  .ofV (vWord 47 0 st [⟨3, k⟩, ⟨1, .ofBool en⟩, ⟨12, 0⟩, ⟨5, 1⟩]) rfl (by simp +contextual [decodeV, decVsetfSelpat])

theorem Decodes.vsetfLdpat (st : VStall) (h : AReg) (k : BitVec 3) : Decodes .v (.vsetfLdpat st h k) :=
  .ofV (vWord 47 0 st [⟨3, k⟩, ⟨5, 0⟩, ⟨4, h⟩, ⟨4, 0⟩, ⟨5, 2⟩]) rfl (by simp +contextual [decodeV, decVsetfLdpat])

theorem Decodes.pand (st : VStall) (d a b : PReg) : Decodes .v (.pand st d a b) :=
  .ofV (vWord 48 0 st [⟨1, 0⟩, ⟨5, b⟩, ⟨5, a⟩, ⟨5, d⟩, ⟨5, 0⟩]) rfl (by simp +contextual [decodeV, decPand])

theorem Decodes.por (st : VStall) (d a b : PReg) : Decodes .v (.por st d a b) :=
  .ofV (vWord 49 0 st [⟨1, 0⟩, ⟨5, b⟩, ⟨5, a⟩, ⟨5, d⟩, ⟨5, 0⟩]) rfl (by simp +contextual [decodeV, decPor])

theorem Decodes.pxor (st : VStall) (d a b : PReg) : Decodes .v (.pxor st d a b) :=
  .ofV (vWord 50 0 st [⟨1, 0⟩, ⟨5, b⟩, ⟨5, a⟩, ⟨5, d⟩, ⟨5, 0⟩]) rfl (by simp +contextual [decodeV, decPxor])

theorem Decodes.pnot (st : VStall) (d a : PReg) : Decodes .v (.pnot st d a) :=
  .ofV (vWord 51 0 st [⟨6, 0⟩, ⟨5, a⟩, ⟨5, d⟩, ⟨5, 0⟩]) rfl (by simp +contextual [decodeV, decPnot])

theorem Decodes.pcnt (et : ETy) (st : VStall) (d : AReg) (a : PReg) : Decodes .v (.pcnt et st d a) :=
  .ofV (vWord 52 et.bits st [⟨6, 0⟩, ⟨5, a⟩, ⟨4, d⟩, ⟨6, 0⟩]) rfl (by simp +contextual [decodeV, decPcnt])

theorem Decodes.pfirst (et : ETy) (st : VStall) (d : AReg) (a : PReg) : Decodes .v (.pfirst et st d a) :=
  .ofV (vWord 53 et.bits st [⟨6, 0⟩, ⟨5, a⟩, ⟨4, d⟩, ⟨6, 0⟩]) rfl (by simp +contextual [decodeV, decPfirst])

theorem Decodes.arecv (st : VStall) (d : AReg) (m : BitVec 4) : Decodes .v (.arecv st d m) :=
  .ofV (vWord 54 0 st [⟨4, m⟩, ⟨12, 0⟩, ⟨4, d⟩, ⟨1, 0⟩]) rfl (by simp +contextual [decodeV, decArecv])

theorem Decodes.aopImm (f : AopFn) (st : VStall) (d a : AReg) (imm : BitVec 12) : Decodes .v (.aopImm f st d a imm) :=
  .ofV (vWord 55 f.bits st [⟨12, imm⟩, ⟨4, a⟩, ⟨4, d⟩, ⟨1, 0⟩]) rfl (by simp +contextual [decodeV, decAopImm])

theorem Decodes.aopReg (f : AopFn) (st : VStall) (d a b : AReg) : Decodes .v (.aopReg f st d a b) :=
  .ofV (vWord 55 f.bits st [⟨8, 0⟩, ⟨4, b⟩, ⟨4, a⟩, ⟨4, d⟩, ⟨1, 1⟩]) rfl (by simp +contextual [decodeV, decAopReg])

theorem Decodes.vpost (st : VStall) (n : SemId) : Decodes .v (.vpost st n) :=
  .ofV (vWord 56 0 st [⟨6, n⟩, ⟨15, 0⟩]) rfl (by simp +contextual [decodeV, decVpost])

theorem Decodes.vwait (st : VStall) (n : SemId) : Decodes .v (.vwait st n) :=
  .ofV (vWord 57 0 st [⟨6, n⟩, ⟨15, 0⟩]) rfl (by simp +contextual [decodeV, decVwait])

theorem Decodes.vmark (st : VStall) (sc : Scope) : Decodes .v (.vmark st sc) :=
  .ofV (vWord 58 0 st [⟨2, sc.bits⟩, ⟨19, 0⟩]) rfl (by simp +contextual [decodeV, decVmark])

theorem Decodes.vloop (st : VStall) (len : BitVec 5) (count : BitVec 16) : Decodes .v (.vloop st len count) :=
  .ofV (vWord 59 0 st [⟨16, count⟩, ⟨5, len⟩]) rfl (by simp +contextual [decodeV, decVloop])

theorem Decodes.vend : Decodes .v (.vend) :=
  .ofV [⟨26, 0⟩, ⟨6, 60⟩] rfl (by simp +contextual [decodeV, decVend])

/-! The commands of the M-stream (R66, R67). -/

theorem Decodes.msync (ws ss : SemId) (e : Bool) : Decodes .m (.msync ws ss e) :=
  .ofM (cmdWord 0 ws ss [⟨13, 0⟩, ⟨1, .ofBool e⟩, ⟨1, 0⟩]) [⟨32, 0⟩] rfl (by simp +contextual [decodeM, decMsync])

theorem Decodes.mma (ws ss : SemId) (rl : Bool) (bank : BitVec 2) (z : Bool) (ar br : RingId) (t : Bool) (nslab : BitVec 8) (klast
    : BitVec 7) (afmt bfmt : BitVec 4) (et : ETy) (ua ub ck : Bool) : Decodes .m (.mma ws ss rl bank z ar br t nslab klast afmt
    bfmt et ua ub ck) :=
  .ofM (cmdWord 1 ws ss [⟨1, .ofBool t⟩, ⟨5, br⟩, ⟨5, ar⟩, ⟨1, .ofBool z⟩, ⟨2, bank⟩, ⟨1, .ofBool rl⟩])
    [⟨1, .ofBool ck⟩, ⟨3, 0⟩, ⟨1, .ofBool ub⟩, ⟨1, .ofBool ua⟩, ⟨3, et.bits⟩, ⟨4, bfmt⟩, ⟨4, afmt⟩, ⟨7, klast⟩, ⟨8, nslab⟩]
    rfl (by simp +contextual [decodeM, decMma])

theorem Decodes.mmap (ws ss : SemId) (bank : BitVec 2) (z : Bool) (ar br : RingId) (t : Bool) (nslab : BitVec 8) (klast : BitVec
    7) (afmt bfmt : BitVec 4) (et : ETy) (ua ub ck : Bool) : Decodes .m (.mmap ws ss bank z ar br t nslab klast afmt bfmt et ua ub
    ck) :=
  .ofM (cmdWord 2 ws ss [⟨1, .ofBool t⟩, ⟨5, br⟩, ⟨5, ar⟩, ⟨1, .ofBool z⟩, ⟨2, bank⟩, ⟨1, 0⟩])
    [⟨1, .ofBool ck⟩, ⟨3, 0⟩, ⟨1, .ofBool ub⟩, ⟨1, .ofBool ua⟩, ⟨3, et.bits⟩, ⟨4, bfmt⟩, ⟨4, afmt⟩, ⟨7, klast⟩, ⟨8, nslab⟩]
    rfl (by simp +contextual [decodeM, decMmap])

theorem Decodes.mzero (ws ss : SemId) (rl : Bool) (bank : BitVec 2) : Decodes .m (.mzero ws ss rl bank) :=
  .ofM (cmdWord 3 ws ss [⟨12, 0⟩, ⟨2, bank⟩, ⟨1, .ofBool rl⟩]) [⟨32, 0⟩] rfl (by simp +contextual [decodeM, decMzero])

theorem Decodes.mdrain (ws ss : SemId) (rl : Bool) (bank : BitVec 2) (ot : ETy) (r : Round) (sk sat : Bool) (scale : BitVec 16)
    (dest : BitVec 12) (xf : BitVec 4) : Decodes .m (.mdrain ws ss rl bank ot r sk sat scale dest xf) :=
  .ofM (cmdWord 4 ws ss [⟨5, 0⟩, ⟨1, .ofBool sat⟩, ⟨1, .ofBool sk⟩, ⟨2, r.bits⟩, ⟨3, ot.bits⟩, ⟨2, bank⟩, ⟨1, .ofBool rl⟩])
    [⟨4, xf⟩, ⟨12, dest⟩, ⟨16, scale⟩]
    rfl (by simp +contextual [decodeM, decMdrain])

theorem Decodes.mldacc (ws ss : SemId) (rl : Bool) (bank : BitVec 2) (it : ETy) (src : BitVec 12) (xf : BitVec 4) :
    Decodes .m (.mldacc ws ss rl bank it src xf) :=
  .ofM (cmdWord 5 ws ss [⟨9, 0⟩, ⟨3, it.bits⟩, ⟨2, bank⟩, ⟨1, .ofBool rl⟩]) [⟨4, xf⟩, ⟨16, 0⟩, ⟨12, src⟩]
    rfl (by simp +contextual [decodeM, decMldacc])

theorem Decodes.mfmt (ws ss : SemId) (entry : BitVec 4) (src : BitVec 22) : Decodes .m (.mfmt ws ss entry src) :=
  .ofM (cmdWord 6 ws ss [⟨10, 0⟩, ⟨4, entry⟩, ⟨1, 0⟩]) [⟨22, src⟩, ⟨10, 0⟩] rfl (by simp +contextual [decodeM, decMfmt])

theorem Decodes.mloop (len : BitVec 6) (count : BitVec 16) : Decodes .m (.mloop len count) :=
  .ofM [⟨8, 0⟩, ⟨6, len⟩, ⟨13, 0⟩, ⟨5, 7⟩] [⟨16, count⟩, ⟨16, 0⟩] rfl (by simp +contextual [decodeM, decMloop])

theorem Decodes.mchk (ws ss : SemId) (bank : BitVec 2) (rep : BitVec 22) : Decodes .m (.mchk ws ss bank rep) :=
  .ofM (cmdWord 8 ws ss [⟨12, 0⟩, ⟨2, bank⟩, ⟨1, 0⟩]) [⟨22, rep⟩, ⟨10, 0⟩] rfl (by simp +contextual [decodeM, decMchk])

/-! The commands of the C-stream (R66, R68). -/

theorem Decodes.csync (ws ss : SemId) (e : Bool) : Decodes .c (.csync ws ss e) :=
  .ofC2 (cmdWord 0 ws ss [⟨13, 0⟩, ⟨1, .ofBool e⟩, ⟨1, 0⟩]) [⟨32, 0⟩] rfl (by simp +contextual [decodeC, decCsync])

theorem Decodes.copy (ws ss : SemId) (rl out : Bool) (t : TReg) (g : Bool) (ring : RingId) (off : BitVec 32) (spa len : BitVec 13)
    (j : Bool) : Decodes .c (.copy ws ss rl out t g ring off spa len j) :=
  .ofC3 (cmdWord 1 ws ss [⟨2, 0⟩, ⟨5, ring⟩, ⟨1, .ofBool g⟩, ⟨5, t⟩, ⟨1, .ofBool out⟩, ⟨1, .ofBool rl⟩])
    [⟨32, off⟩]
    [⟨1, .ofBool j⟩, ⟨5, 0⟩, ⟨13, len⟩, ⟨13, spa⟩]
    rfl (by simp +contextual [decodeC, decCopy])

theorem Decodes.copyt (ws ss : SemId) (rl : Bool) (tm : BitVec 6) (ed : BitVec 19) (sd : BitVec 13) :
    Decodes .c (.copyt ws ss rl tm ed sd) :=
  .ofC2 (cmdWord 2 ws ss [⟨8, 0⟩, ⟨6, tm⟩, ⟨1, .ofBool rl⟩]) [⟨13, sd⟩, ⟨19, ed⟩] rfl (by simp +contextual [decodeC, decCopyt])

theorem Decodes.imwin (ws ss : SemId) (rl : Bool) (t : TReg) (off : BitVec 32) (spa : BitVec 13) (p : BitVec 10) (kw : BitVec 4)
    (sx : BitVec 2) (cg : BitVec 3) : Decodes .c (.imwin ws ss rl t off spa p kw sx cg) :=
  .ofC3 (cmdWord 3 ws ss [⟨9, 0⟩, ⟨5, t⟩, ⟨1, .ofBool rl⟩]) [⟨32, off⟩] [⟨3, cg⟩, ⟨2, sx⟩, ⟨4, kw⟩, ⟨10, p⟩, ⟨13, spa⟩]
    rfl (by simp +contextual [decodeC, decImwin])

theorem Decodes.gather (ws ss : SemId) (rl : Bool) (t : TReg) (count : BitVec 10) (idxa : BitVec 22) (spa row : BitVec 13) :
    Decodes .c (.gather ws ss rl t count idxa spa row) :=
  .ofC3 (cmdWord 4 ws ss [⟨9, 0⟩, ⟨5, t⟩, ⟨1, .ofBool rl⟩]) [⟨22, idxa⟩, ⟨10, count⟩] [⟨6, 0⟩, ⟨13, row⟩, ⟨13, spa⟩]
    rfl (by simp +contextual [decodeC, decGather])

theorem Decodes.scatter (ws ss : SemId) (rl : Bool) (t : TReg) (count : BitVec 10) (idxa : BitVec 22) (spa row : BitVec 13) :
    Decodes .c (.scatter ws ss rl t count idxa spa row) :=
  .ofC3 (cmdWord 5 ws ss [⟨9, 0⟩, ⟨5, t⟩, ⟨1, .ofBool rl⟩]) [⟨22, idxa⟩, ⟨10, count⟩] [⟨6, 0⟩, ⟨13, row⟩, ⟨13, spa⟩]
    rfl (by simp +contextual [decodeC, decScatter])

theorem Decodes.fill (ws ss : SemId) (rl : Bool) (w : BitVec 2) (value : BitVec 32) (spa len : BitVec 13) (g : Bool) (ring :
    RingId) : Decodes .c (.fill ws ss rl w value spa len g ring) :=
  .ofC3 (cmdWord 6 ws ss [⟨12, 0⟩, ⟨2, w⟩, ⟨1, .ofBool rl⟩]) [⟨32, value⟩] [⟨5, ring⟩, ⟨1, .ofBool g⟩, ⟨13, len⟩, ⟨13, spa⟩]
    rfl (by simp +contextual [decodeC, decFill])

theorem Decodes.sketch (ws ss : SemId) (rl : Bool) (et : ETy) (src : BitVec 12) (logn : BitVec 4) (dst : BitVec 16) :
    Decodes .c (.sketch ws ss rl et src logn dst) :=
  .ofC2 (cmdWord 7 ws ss [⟨11, 0⟩, ⟨3, et.bits⟩, ⟨1, .ofBool rl⟩]) [⟨16, dst⟩, ⟨4, logn⟩, ⟨12, src⟩]
    rfl (by simp +contextual [decodeC, decSketch])

theorem Decodes.pcopy (ws ss : SemId) (out : Bool) (rank : BitVec 4) (sib len own : BitVec 13) :
    Decodes .c (.pcopy ws ss out rank sib len own) :=
  .ofC3 (cmdWord 8 ws ss [⟨9, 0⟩, ⟨4, rank⟩, ⟨1, .ofBool out⟩, ⟨1, 0⟩]) [⟨6, 0⟩, ⟨13, len⟩, ⟨13, sib⟩] [⟨19, 0⟩, ⟨13, own⟩]
    rfl (by simp +contextual [decodeC, decPcopy])

theorem Decodes.dvopen (ws ss : SemId) (ch : BitVec 12) (dev : BitVec 22) (win : BitVec 16) :
    Decodes .c (.dvopen ws ss ch dev win) :=
  .ofC3 (cmdWord 11 ws ss [⟨12, ch⟩, ⟨3, 0⟩]) [⟨22, dev⟩, ⟨10, 0⟩] [⟨16, win⟩, ⟨16, 0⟩]
    rfl (by simp +contextual [decodeC, decDvopen])

theorem Decodes.dvw (ws ss : SemId) (ch : BitVec 12) (woff : BitVec 32) (spa len : BitVec 13) :
    Decodes .c (.dvw ws ss ch woff spa len) :=
  .ofC3 (cmdWord 9 ws ss [⟨12, ch⟩, ⟨3, 0⟩]) [⟨32, woff⟩] [⟨6, 0⟩, ⟨13, len⟩, ⟨13, spa⟩]
    rfl (by simp +contextual [decodeC, decDvw])

theorem Decodes.dvrel (ws ss : SemId) (ch : BitVec 12) (woff flag : BitVec 32) : Decodes .c (.dvrel ws ss ch woff flag) :=
  .ofC3 (cmdWord 10 ws ss [⟨12, ch⟩, ⟨3, 0⟩]) [⟨32, woff⟩] [⟨32, flag⟩] rfl (by simp +contextual [decodeC, decDvrel])

theorem Decodes.dvshut (ws ss : SemId) (ch : BitVec 12) : Decodes .c (.dvshut ws ss ch) :=
  .ofC2 (cmdWord 12 ws ss [⟨12, ch⟩, ⟨3, 0⟩]) [⟨32, 0⟩] rfl (by simp +contextual [decodeC, decDvshut])

theorem Decodes.cloop (len : BitVec 6) (count : BitVec 16) : Decodes .c (.cloop len count) :=
  .ofC2 [⟨8, 0⟩, ⟨6, len⟩, ⟨13, 0⟩, ⟨5, 13⟩] [⟨16, count⟩, ⟨16, 0⟩] rfl (by simp +contextual [decodeC, decCloop])

theorem Decodes.cflush (ws ss : SemId) (t : TReg) (inv : Bool) (off len : BitVec 32) : Decodes .c (.cflush ws ss t inv off len) :=
  .ofC3 (cmdWord 14 ws ss [⟨8, 0⟩, ⟨1, .ofBool inv⟩, ⟨5, t⟩, ⟨1, 0⟩]) [⟨32, off⟩] [⟨32, len⟩]
    rfl (by simp +contextual [decodeC, decCflush])

/-! All of them. -/

theorem Decodes.of_stream_s {i : Instr} (h : i.stream = some .s) : Decodes .s i := by
  cases i with
  | add => exact .add .. | sub => exact .sub .. | and => exact .and .. | or => exact .or .. | xor => exact .xor ..
  | sll => exact .sll .. | srl => exact .srl .. | sra => exact .sra .. | slt => exact .slt .. | sltu => exact .sltu ..
  | seq => exact .seq .. | min => exact .min .. | max => exact .max .. | minu => exact .minu .. | maxu => exact .maxu ..
  | mul => exact .mul .. | mulh => exact .mulh .. | mulhu => exact .mulhu .. | div => exact .div .. | divu => exact .divu ..
  | rem => exact .rem .. | remu => exact .remu .. | clz => exact .clz .. | popc => exact .popc .. | addi => exact .addi ..
  | andi => exact .andi .. | ori => exact .ori .. | xori => exact .xori .. | slli => exact .slli .. | srli => exact .srli ..
  | srai => exact .srai .. | slti => exact .slti .. | li => exact .li .. | lis => exact .lis .. | fadd => exact .fadd ..
  | fsub => exact .fsub .. | fmul => exact .fmul .. | fdiv => exact .fdiv .. | fmin => exact .fmin .. | fmax => exact .fmax ..
  | fsqrt => exact .fsqrt .. | feq => exact .feq .. | flt => exact .flt .. | fle => exact .fle .. | fcvtsw => exact .fcvtsw ..
  | fcvtws => exact .fcvtws .. | fcvtbs => exact .fcvtbs .. | fcvtsb => exact .fcvtsb .. | fma => exact .fma ..
  | fms => exact .fms .. | fnma => exact .fnma .. | beq => exact .beq .. | bne => exact .bne .. | blt => exact .blt ..
  | bge => exact .bge .. | bltu => exact .bltu .. | bgeu => exact .bgeu .. | jal => exact .jal .. | jalr => exact .jalr ..
  | ldb => exact .ldb .. | ldh => exact .ldh .. | ldw => exact .ldw .. | ldd => exact .ldd .. | stb => exact .stb ..
  | sth => exact .sth .. | stw => exact .stw .. | std => exact .std .. | amo => exact .amo .. | cas => exact .cas ..
  | lds => exact .lds .. | sts => exact .sts .. | sps => exact .sps .. | spl => exact .spl .. | xlat => exact .xlat ..
  | xlatq => exact .xlatq .. | trel => exact .trel .. | tmov => exact .tmov .. | tsub => exact .tsub .. | tinfo => exact .tinfo ..
  | tchk => exact .tchk .. | look => exact .look .. | dtag => exact .dtag .. | fork => exact .fork .. | rdv => exact .rdv ..
  | send => exact .send .. | vfence => exact .vfence .. | rapp => exact .rapp .. | rappPair => exact .rappPair ..
  | post => exact .post .. | waits => exact .waits .. | mark => exact .mark .. | fence => exact .fence .. | bar => exact .bar ..
  | sacq => exact .sacq .. | scommit => exact .scommit .. | sawait => exact .sawait .. | srel => exact .srel ..
  | jlaunch => exact .jlaunch .. | flushh => exact .flushh .. | invh => exact .invh .. | skipr => exact .skipr ..
  | skipw => exact .skipw .. | csrr => exact .csrr .. | csrw => exact .csrw .. | csrs => exact .csrs .. | csrc => exact .csrc ..
  | trap => exact .trap .. | eret => exact .eret .. | halt => exact .halt .. | wfi => exact .wfi .. | bkpt => exact .bkpt ..
  | _ => cases h

theorem Decodes.of_stream_v {i : Instr} (h : i.stream = some .v) : Decodes .v i := by
  cases i with
  | vadd => exact .vadd .. | vsub => exact .vsub .. | vmul => exact .vmul .. | vfma => exact .vfma .. | vmin => exact .vmin ..
  | vmax => exact .vmax .. | vabs => exact .vabs .. | vneg => exact .vneg .. | vand => exact .vand .. | vor => exact .vor ..
  | vxor => exact .vxor .. | vshl => exact .vshl .. | vshr => exact .vshr .. | vcmp => exact .vcmp .. | vsel => exact .vsel ..
  | vmov => exact .vmov .. | vexp2 => exact .vexp2 .. | vlog2 => exact .vlog2 .. | vrcp => exact .vrcp .. | vrsq => exact .vrsq ..
  | vtanh => exact .vtanh .. | verf => exact .verf .. | vcvt => exact .vcvt .. | vwid => exact .vwid .. | vnar => exact .vnar ..
  | vperm => exact .vperm .. | vzip => exact .vzip .. | vunz => exact .vunz .. | vred => exact .vred .. | vscan => exact .vscan ..
  | viota => exact .viota .. | vbcast => exact .vbcast .. | vaddi => exact .vaddi .. | vmuli => exact .vmuli ..
  | vmaxi => exact .vmaxi .. | vmini => exact .vmini .. | vmovi => exact .vmovi .. | vandi => exact .vandi ..
  | vshli => exact .vshli .. | vsubi => exact .vsubi .. | vld => exact .vld .. | vst => exact .vst .. | vlds => exact .vlds ..
  | vsts => exact .vsts .. | vgath => exact .vgath .. | vscat => exact .vscat .. | vslotAcq => exact .vslotAcq ..
  | vslotCommit => exact .vslotCommit .. | vslotAwait => exact .vslotAwait .. | vslotRel => exact .vslotRel ..
  | vsetfSetfmt => exact .vsetfSetfmt .. | vsetfSelpat => exact .vsetfSelpat .. | vsetfLdpat => exact .vsetfLdpat ..
  | pand => exact .pand .. | por => exact .por .. | pxor => exact .pxor .. | pnot => exact .pnot .. | pcnt => exact .pcnt ..
  | pfirst => exact .pfirst .. | arecv => exact .arecv .. | aopImm => exact .aopImm .. | aopReg => exact .aopReg ..
  | vpost => exact .vpost .. | vwait => exact .vwait .. | vmark => exact .vmark .. | vloop => exact .vloop ..
  | vend => exact .vend ..
  | _ => cases h

theorem Decodes.of_stream_m {i : Instr} (h : i.stream = some .m) : Decodes .m i := by
  cases i with
  | msync => exact .msync .. | mma => exact .mma .. | mmap => exact .mmap .. | mzero => exact .mzero ..
  | mdrain => exact .mdrain .. | mldacc => exact .mldacc .. | mfmt => exact .mfmt .. | mloop => exact .mloop ..
  | mchk => exact .mchk ..
  | _ => cases h

theorem Decodes.of_stream_c {i : Instr} (h : i.stream = some .c) : Decodes .c i := by
  cases i with
  | csync => exact .csync .. | copy => exact .copy .. | copyt => exact .copyt .. | imwin => exact .imwin ..
  | gather => exact .gather .. | scatter => exact .scatter .. | fill => exact .fill .. | sketch => exact .sketch ..
  | pcopy => exact .pcopy .. | dvopen => exact .dvopen .. | dvw => exact .dvw .. | dvrel => exact .dvrel ..
  | dvshut => exact .dvshut .. | cloop => exact .cloop .. | cflush => exact .cflush ..
  | _ => cases h

theorem Decodes.of_stream {k : StreamKind} {i : Instr} (h : i.stream = some k) : Decodes k i := by
  cases k with
  | s => exact of_stream_s h
  | v => exact of_stream_v h
  | m => exact of_stream_m h
  | c => exact of_stream_c h

/-- Settles O58: each instruction's word or words have the fields that its decoder reads. -/
theorem decodeInvertsEncode : Obligations.DecodeInvertsEncode :=
  fun _ _ rest hk hw => (Decodes.of_stream hk).decode_append hw rest

/-! Words of the spec, bit by bit. -/

/-- Settles O57: each decoder is evaluated on the words given. -/
theorem wordsOfTheSpecDecode : Obligations.WordsOfTheSpecDecode := by
  unfold Obligations.WordsOfTheSpecDecode
  and_intros <;> rfl

end Sys2Proof.Encoding
end

section
/-! PROOF. TRAP, BKPT and ERET, and double traps (R208-R214, R421). -/

namespace Sys2Proof.Machine

open Sys2Proof

/-! A change that is made of every core of a list. -/

section

variable {f : Core → Core}

theorem State.foldl_onCore_frame (js : List Nat) (s : State) :
    js.foldl (fun s j => s.onCore j f) s = { s with cores := (js.foldl (fun s j => s.onCore j f) s).cores } := by
  induction js generalizing s with
  | nil => rfl
  | cons j js ih => rw [List.foldl_cons, ih (s.onCore j f)]; rfl

/-- A change that another one of the same core does not undo. -/
theorem State.core_foldl_onCore (hf : ∀ c, f (f c) = f c) (js : List Nat) (s : State) (j : Nat) :
    (js.foldl (fun s j => s.onCore j f) s).core j = if j ∈ js then f (s.core j) else s.core j := by
  induction js generalizing s with
  | nil => simp
  | cons i js ih =>
    rw [List.foldl_cons, ih, State.core_onCore]
    by_cases hi : j = i
    · subst hi; simp [hf]
    · simp [hi]

end

/-! A double trap (R212). -/

/-- The step of a core is over, if it has one and that is not over already. -/
def Core.stepOver (cause k : Nat) (err : Bool) (c : Core) : Core :=
  { c with step := c.step.map (fun w => { w with ended := w.ended.or (some (cause, k, err)) }) }

theorem Core.stepOver_stepOver (cause k : Nat) (err : Bool) (c : Core) : (c.stepOver cause k err).stepOver cause k err = c.stepOver cause k err := by
  cases h : c.step <;> simp [Core.stepOver, h]

theorem State.endPanelStep_frame (s : State) (k cause : Nat) (err : Bool) :
    s.endPanelStep k cause err = { s with cores := (s.endPanelStep k cause err).cores } :=
  State.foldl_onCore_frame (f := Core.stepOver cause k err) ((s.core k).panelCores k) s

theorem State.core_endPanelStep (s : State) (k cause : Nat) (err : Bool) (j : Nat) :
    (s.endPanelStep k cause err).core j = if j ∈ (s.core k).panelCores k then (s.core j).stepOver cause k err else s.core j :=
  State.core_foldl_onCore (Core.stepOver_stepOver cause k err) _ s j

/-- The core as a double trap leaves it. -/
def Core.stopS (c : Core) : Core := { c with s := { c.s with st := .stopped } }

variable {s : State}

theorem State.trapMe_of_inHandler (h : s.me.s.inHandler = true) (cause : Nat) (tval : Word) :
    s.trapMe cause tval = s.doubleTrap s.curN := if_pos h

theorem State.doubleTrap_tile (h : s.curN < 256) :
    s.doubleTrap s.curN = (s.setMe s.me.stopS).endPanelStep s.curN s.me.s.tcause.toNat true := if_pos h

theorem State.doubleTrap_bench (h : 256 ≤ s.curN) : s.doubleTrap s.curN =
    { s.setMe s.me.stopS with bench := { s.bench with lost := s.bench.lost || benchB s.curN == s.bench.activeB } } :=
  if_neg (Nat.not_lt.2 h)

/-- Within a handler TRAP, BKPT and, in user mode, ERET are double traps. -/
theorem exec_doubleTrap (h : s.me.s.inHandler = true) (st : SStall) (code : BitVec 8) :
    exec (.trap st code) s = .next (s.doubleTrap s.curN) ∧ exec (.bkpt st) s = .next (s.doubleTrap s.curN) ∧
    (s.me.s.mode = .user → exec (.eret st) s = .next (s.doubleTrap s.curN)) := by
  refine ⟨?_, ?_, fun hu => ?_⟩
  · exact congrArg _ (State.trapMe_of_inHandler h ..)
  · exact congrArg _ (State.trapMe_of_inHandler h ..)
  · exact (if_pos hu).trans (congrArg _ (State.trapMe_of_inHandler h ..))

/-- Settles O30: outside a handler by what taking a trap and returning do, within one by what a double trap leaves. -/
theorem trapsAndReturns : Obligations.TrapsAndReturns := by
  unfold Obligations.TrapsAndReturns
  intro st code s k double stopped
  have hdouble {P : State → Prop} (h : s.me.s.inHandler = true) (hP : P (s.doubleTrap k)) : double (fun i => Does i s P) := by
    obtain ⟨ht, hb, he⟩ := exec_doubleTrap h st code
    exact ⟨⟨_, ht, hP⟩, ⟨_, hb, hP⟩, fun hu => ⟨_, he hu, hP⟩⟩
  refine ⟨fun h => ⟨traps_of h rfl, traps_of h rfl⟩, fun h hu => traps_of h (if_pos hu), fun hm => ?_, fun h hk => ?_, fun h hk => ?_⟩
  · have hu : ¬ s.me.s.mode = .user := by rw [hm]; decide
    exact does_of (if_neg hu) ⟨onlyCore_setMe _ _, State.me_setMe _ _⟩
  · refine hdouble h ⟨?_, fun j => ?_⟩
    · rw [State.doubleTrap_tile hk, State.endPanelStep_frame]; rfl
    · have hcore : (s.setMe s.me.stopS).core j = if j = k then stopped else s.core j := State.core_setMe s s.me.stopS j
      have hpanel : ((s.setMe s.me.stopS).core k).panelCores k = s.me.panelCores k := by
        rw [show (s.setMe s.me.stopS).core k = s.me.stopS from State.me_setMe s _]; rfl
      rw [State.doubleTrap_tile hk, State.core_endPanelStep, hcore, hpanel]
      rfl
  · refine hdouble h ⟨?_, ?_, fun j hj => ?_⟩
    · rw [State.doubleTrap_bench hk]; rfl
    · rw [State.doubleTrap_bench hk]; exact State.me_setMe _ _
    · rw [State.doubleTrap_bench hk]; exact (onlyCore_setMe s s.me.stopS).2 j hj

end Sys2Proof.Machine
end

section
/-! PROOF. The immediate forms of the V-stream (R61, R137). -/

namespace Sys2Proof.Machine

open Sys2Proof

/-! The integers of an element. -/

theorem sextNat_eq_signedOf (w b : Nat) : sextNat w b = signedOf w b := by
  rw [signedOf, BitVec.toInt_eq_toNat_cond, BitVec.toNat_ofNat, sextNat]
  split
  · next h => rw [if_neg (by omega)]
  · next h => rw [if_pos (by omega)]

theorem wrapInt_eq_toNat_ofInt (w : Nat) (i : Int) : wrapInt w i = (BitVec.ofInt w i).toNat := (BitVec.toNat_ofInt i).symm

theorem signedOf_wrapInt (w : Nat) (i : Int) : signedOf w (wrapInt w i) = i.bmod (2 ^ w) := by
  rw [signedOf, wrapInt_eq_toNat_ofInt, BitVec.ofNat_toNat, BitVec.setWidth_eq, BitVec.toInt_ofInt]

/-- An element that fills its width is the low bits of its signed reading. -/
theorem wrapInt_signedOf {w b : Nat} (hb : b < 2 ^ w) : wrapInt w (signedOf w b) = b := by
  rw [wrapInt_eq_toNat_ofInt, signedOf, BitVec.ofInt_toInt, BitVec.toNat_ofNat, Nat.mod_eq_of_lt hb]

theorem intResult_false (w : Nat) (i : Int) : intResult w false i = wrapInt w i := by
  simp [intResult, wrapInt]

theorem intEl_false (w : Nat) (i : Int) : intEl w false i = intResult w false i := (intResult_false w i).symm

/-- The immediate of R61, saturated to an integer type. -/
def immInt (w : Nat) (imm : BitVec 16) : Int := max (-2 ^ (w - 1)) (min (2 ^ (w - 1) - 1) imm.toInt)

theorem sextNat_imm (imm : BitVec 16) : sextNat 16 imm.toNat = imm.toInt := by
  rw [sextNat_eq_signedOf, signedOf, BitVec.ofNat_toNat, BitVec.setWidth_eq]

theorem immEl_int (sg : Bool) (w : Nat) (imm : BitVec 16) (j : Nat) : immEl (.int sg w) imm j = wrapInt w (immInt w imm) := by
  simp [immEl, intEl, intRange, clampInt, immInt, sextNat_imm]

/-- The saturated immediate lies in the range of its type. -/
theorem signedOf_immEl {w : Nat} (hw : 0 < w) (sg : Bool) (imm : BitVec 16) (j : Nat) :
    signedOf w (immEl (.int sg w) imm j) = immInt w imm := by
  obtain ⟨v, rfl⟩ : ∃ v, w = v + 1 := ⟨w - 1, by omega⟩
  have hp : (0 : Int) < 2 ^ v := by positivity
  have hs : ((2 ^ (v + 1) : Nat) : Int) = 2 * 2 ^ v := by push_cast; ring
  have hlo : -2 ^ v ≤ immInt (v + 1) imm := le_max_left _ _
  have hhi : immInt (v + 1) imm ≤ 2 ^ v - 1 := max_le (by rw [Nat.add_sub_cancel]; omega) (min_le_left _ _)
  rw [immEl_int, signedOf_wrapInt]
  exact Int.bmod_eq_of_le (by omega) (by omega)

/-! The operations with an immediate, on integers. -/

section
variable {w : Nat} (hw : 0 < w) (sg : Bool) (imm : BitVec 16) (z j : Nat)
include hw

theorem arith2_immEl_int (fi : Int → Int → Int) (ff : FVal → FVal → FVal) :
    arith2 (.int sg w) false fi ff z (immEl (.int sg w) imm j) = intResult w false (fi (signedOf w z) (immInt w imm)) := by
  simp only [arith2, signedEl, sextNat_eq_signedOf, signedOf_immEl hw, intEl_false]

theorem maxEl_immEl_int (hz : z < 2 ^ w) :
    maxEl (.int sg w) false z (immEl (.int sg w) imm j) = intResult w false (max (signedOf w z) (immInt w imm)) := by
  simp only [maxEl, signedEl, sextNat_eq_signedOf, signedOf_immEl hw, intResult_false, Bool.false_eq_true, if_false]
  split
  · next h => rw [max_eq_right h.le, immEl_int]
  · next h => rw [max_eq_left (not_lt.1 h), wrapInt_signedOf hz]

theorem minEl_immEl_int (hz : z < 2 ^ w) :
    minEl (.int sg w) false z (immEl (.int sg w) imm j) = intResult w false (min (signedOf w z) (immInt w imm)) := by
  simp only [minEl, signedEl, sextNat_eq_signedOf, signedOf_immEl hw, intResult_false, Bool.false_eq_true, if_false]
  split
  · next h => rw [min_eq_right h.le, immEl_int]
  · next h => rw [min_eq_left (not_lt.1 h), wrapInt_signedOf hz]

end

/-! The types that an ET code names (R39, R60). -/

variable {s : State} {et : ETy} {t : ElType}

/-- An integer element fills its container. -/
theorem etype_int {sg : Bool} {w : Nat} (h : s.me.etype et = some (.int sg w)) : 0 < w ∧ (ElType.int sg w).cont = w := by
  cases et <;> simp [Core.etype, typeWith] at h <;> obtain ⟨-, rfl⟩ := h <;> exact ⟨by decide, rfl⟩

theorem fxOf_width_lt (e : Word) : (fxOf e).width < 16 := by
  simp only [Fmt.width, fxOf, fld]
  omega

/-- A floating type whose containers fill a sector has 32, 16 or at most 8 bits. -/
theorem etype_flt {f : Fmt} (h : s.me.etype et = some (.flt f)) (hc : (ElType.flt f).cont ∣ 256) :
    f.width = 32 ∨ f.width = 16 ∨ f.width ≤ 8 := by
  cases et <;> simp [Core.etype, typeWith] at h
  case fx =>
    obtain ⟨-, rfl⟩ := h
    have hl := fxOf_width_lt (s.me.fmtAt s.me.v.fmtIndex.toNat)
    revert hc
    rw [ElType.cont, ElType.width]
    generalize (fxOf (s.me.fmtAt s.me.v.fmtIndex.toNat)).width = n at hl ⊢
    interval_cases n <;> decide
  all_goals subst h; decide

/-- The immediate of R61 for a floating type. -/
theorem immEl_flt {f : Fmt} (hf : f.width = 32 ∨ f.width = 16 ∨ f.width ≤ 8) (imm : BitVec 16) (j : Nat) :
    immEl (.flt f) imm j = if f.width = 32 then imm.toNat * 2 ^ 16 else if f.width = 16 then imm.toNat
      else (if j % 2 = 0 then imm.toNat % 2 ^ 8 else imm.toNat / 2 ^ 8) % 2 ^ f.width := by
  rw [immEl]
  refine if_ctx_congr Iff.rfl (fun _ => rfl) fun h32 => if_ctx_congr Iff.rfl (fun _ => rfl) fun h16 => ?_
  split
  · rw [Nat.mod_mod_of_dvd _ (pow_dvd_pow 2 (by omega))]
  · rfl

/-! What the words do. -/

/-- A V word that writes every element of a register (R137). -/
theorem writesAll_of_putAll {i : Instr} (hc : t.cont ∣ 256) {d : VReg} {val : Nat → Nat} {pois : Nat → Bool}
    (h : exec i s = .next (s.setMe (s.me.putAll t d false ((List.range t.count).map (fun j => (val j, pois j))))).retireV) :
    WritesAll i s t d val pois := by
  have hm : ((List.range t.count).map (fun j => (val j, pois j))).map some =
      (List.range t.count).map (fun j => if True then some (val j, pois j) else none) := by
    rw [List.map_map]
    exact List.map_congr_left fun j _ => (if_pos trivial).symm
  rw [Core.putAll, hm] at h
  refine ⟨_, h, ⟨onlyCore_setMe_retireV s _, fun r hr => ?_, ?_⟩,
    elementsAre_putEls (all := false) (act := fun _ => True) (pois := pois) hc ?_ ?_⟩ <;> rw [me_setMe_retireV]
  · exact Core.putEls_ne s.me (by simpa using hr) _ _
  · rfl
  · rfl
  · rfl

theorem zipIdx_map_range {α : Type} (n : Nat) (f : Nat → α) :
    ((List.range n).map f).zipIdx = (List.range n).map (fun j => (f j, j)) := by
  refine List.ext_getElem (by simp) fun i h _ => ?_
  simp

/-- An immediate form, with what it gives element by element. -/
theorem writesAll_of_mapImm {i : Instr} (ht : s.me.etype et = some t) (hc : t.cont ∣ 256) {d : VReg} {im : ElType → Nat → Nat}
    {fn : ElType → Nat → Nat → Nat} {val : Nat → Nat} (h : exec i s = s.typedV et (fun t c => c.mapImm t d (im t) (fn t)))
    (hv : ∀ j, fn t (s.me.elAt t d j) (im t j) = val j) : WritesAll i s t d val (s.me.elPois t d) := by
  refine writesAll_of_putAll hc (h.trans ?_)
  rw [State.typedV_of ht, Core.mapImm, Core.els_eq, zipIdx_map_range, List.map_map]
  simp only [Function.comp_def, hv]

/-- VMOVI writes the immediates as they are. -/
theorem writesAll_vmovi (ht : s.me.etype et = some t) (hc : t.cont ∣ 256) {st : VStall} {d : VReg} {imm : BitVec 16}
    {val : Nat → Nat} (hv : ∀ j, immEl t imm j = val j) : WritesAll (.vmovi et st d imm) s t d val (fun _ => false) := by
  refine writesAll_of_putAll hc ?_
  change execVmovi et st d imm s = _
  rw [execVmovi, State.typedV_of ht]
  simp only [hv]

/-- Settles O36, form by form: each maps one operation over the elements of its register, with the immediate of its type. -/
theorem vectorImmediateForms : Obligations.VectorImmediateForms := by
  intro et st d imm s t ht hc z pz
  refine ⟨writesAll_of_mapImm ht hc (im := fun t _ => wrapInt t.width (sextNat 16 imm.toNat)) (fn := fun _ => (· &&& ·)) rfl fun j => ?_,
    writesAll_of_mapImm ht hc (im := fun _ _ => imm.toNat) (fn := fun t => shlEl t.width) rfl fun j => rfl,
    fun sg w hi => ?_, fun f hf => ?_⟩
  · simp [wrapInt, sextNat_imm, z]
  · subst hi
    obtain ⟨hw, hcont⟩ := etype_int ht
    have hz (j : Nat) : z j < 2 ^ w := hcont ▸ BitVec.isLt _
    intro k n
    exact ⟨writesAll_of_mapImm ht hc rfl fun j => arith2_immEl_int hw sg imm (z j) j _ _,
      writesAll_of_mapImm ht hc rfl fun j => arith2_immEl_int hw sg imm (z j) j _ _,
      writesAll_of_mapImm ht hc rfl fun j => arith2_immEl_int hw sg imm (z j) j _ _,
      writesAll_of_mapImm ht hc rfl fun j => maxEl_immEl_int hw sg imm (z j) j (hz j),
      writesAll_of_mapImm ht hc rfl fun j => minEl_immEl_int hw sg imm (z j) j (hz j),
      writesAll_vmovi ht hc fun j => (immEl_int sg w imm j).trans (intResult_false w _).symm⟩
  · subst hf
    intro k r v
    have hk (j : Nat) : immEl (.flt f) imm j = k j := immEl_flt (etype_flt ht hc) imm j
    have hfn {fn : Nat → Nat → Nat} (j : Nat) : fn (z j) (immEl (.flt f) imm j) = fn (z j) (k j) := by rw [hk]
    exact ⟨writesAll_of_mapImm ht hc rfl hfn, writesAll_of_mapImm ht hc rfl hfn, writesAll_of_mapImm ht hc rfl hfn,
      writesAll_of_mapImm ht hc rfl hfn, writesAll_of_mapImm ht hc rfl hfn, writesAll_vmovi ht hc hk⟩

end Sys2Proof.Machine
end

section
/-! PROOF. What stores leave as they are performed (R249, R252, R283). -/

namespace Sys2Proof.Machine

open Sys2Proof

/-- No core differs but in its storage and its step; where `h` holds, no host line has newly been stored to. -/
def StoresOnly (h : Prop) (s u : State) : Prop :=
  u.cur = s.cur ∧ u.panels = s.panels ∧ (h → u.mem.hstored = s.mem.hstored) ∧ ∀ i, ∃ m n t w,
    u.core i = { s.core i with
      spad := m
      v := { (s.core i).v with spill := n }
      c := { (s.core i).c with templates := t }
      step := w }

namespace StoresOnly

variable {h : Prop} {s t u : State}

theorem refl (s : State) : StoresOnly h s s := ⟨rfl, rfl, fun _ => rfl, fun _ => ⟨_, _, _, _, rfl⟩⟩

theorem trans (h1 : StoresOnly h s t) (h2 : StoresOnly h t u) : StoresOnly h s u := by
  obtain ⟨hc, hp, hm, hi⟩ := h1
  obtain ⟨hc', hp', hm', hi'⟩ := h2
  refine ⟨hc'.trans hc, hp'.trans hp, fun hh => (hm' hh).trans (hm hh), fun i => ?_⟩
  obtain ⟨m, n, t, w, h1⟩ := hi i
  obtain ⟨m', n', t', w', h2⟩ := hi' i
  rw [h1] at h2
  exact ⟨m', n', t', w', h2⟩

theorem curN (h1 : StoresOnly h s u) : u.curN = s.curN := congrArg BitVec.toNat h1.1

/-- A change outside the cores and panels. -/
theorem of_cores (hc : u.cores = s.cores) (hk : u.cur = s.cur) (hp : u.panels = s.panels)
    (hm : h → u.mem.hstored = s.mem.hstored) : StoresOnly h s u := by
  refine ⟨hk, hp, hm, fun i => ?_⟩
  have hi : u.core i = s.core i := by
    unfold State.core
    rw [hc]
  exact ⟨_, _, _, _, hi⟩

/-- A change of one core in its storage or its step. -/
theorem onCore (k : Nat) (f : Core → Core) (hf : ∀ c, ∃ m n t w, f c = { c with
      spad := m, v := { c.v with spill := n }, c := { c.c with templates := t }, step := w }) : StoresOnly h s (s.onCore k f) := by
  refine ⟨rfl, rfl, fun _ => rfl, fun i => ?_⟩
  rw [State.core_onCore]
  split
  · next hi => subst hi; exact hf _
  · exact ⟨_, _, _, _, rfl⟩

theorem foldl {β : Type} {f : State → β → State} (hf : ∀ t b, StoresOnly h t (f t b)) (l : List β) :
    StoresOnly h s (l.foldl f s) :=
  foldl_keeps (P := fun t => StoresOnly h s t) (fun t b ht => ht.trans (hf t b)) l s (refl s)

/-- The same for a fold that collects something as well. -/
theorem foldl_fst {β γ : Type} {f : State × γ → β → State × γ} (hf : ∀ x b, StoresOnly h x.1 (f x b).1) (l : List β) (c : γ) :
    StoresOnly h s (l.foldl f (s, c)).1 :=
  foldl_keeps (P := fun x : State × γ => StoresOnly h s x.1) (fun x b hx => hx.trans (hf x b)) l (s, c) (refl s)

theorem ite {p : Prop} [Decidable p] (h1 : StoresOnly h s t) (h2 : StoresOnly h s u) : StoresOnly h s (if p then t else u) := by
  split
  · exact h1
  · exact h2

/-! Reads and writes of a site. -/

variable (s)

theorem setStoreOf (e : Site) (m : Store) : StoresOnly h s (s.setStoreOf e m) := by
  cases e with
  | dev => exact of_cores rfl rfl rfl fun _ => rfl
  | host => exact of_cores rfl rfl rfl fun _ => rfl
  | copy => exact of_cores rfl rfl rfl fun _ => rfl
  | sp k => exact onCore k _ fun c => ⟨_, _, _, _, rfl⟩
  | spill k => exact onCore k _ fun c => ⟨_, _, _, _, rfl⟩
  | tmpl k => exact onCore k _ fun c => ⟨_, _, _, _, rfl⟩

theorem tell (e : BenchEvent) : StoresOnly h s (s.tell e) := of_cores rfl rfl rfl fun _ => rfl

theorem verify (e : Site) (a n : Nat) : StoresOnly h s (s.verify e a n) :=
  foldl (fun t _ => (setStoreOf t e _).trans (tell _ _)) _

theorem rawPut (e : Site) (a : Nat) (d : List PByte) (bytewise : Bool) : StoresOnly h s (s.rawPut e a d bytewise) := by
  unfold State.rawPut
  extract_lets _ s1 s2 s3
  have h1 : StoresOnly h s s1 := ite (refl s) (verify s e a 1)
  have h2 : StoresOnly h s s2 := h1.trans (ite (refl s1) (verify s1 e _ 1))
  have h3 : StoresOnly h s s3 := h2.trans (setStoreOf s2 e _)
  split
  · exact refl s
  · split
    · exact ite (h3.trans (of_cores rfl rfl rfl fun _ => rfl)) h3
    · exact h3

theorem finishMig (p : MigPair) : StoresOnly h s (s.finishMig p) := by
  unfold State.finishMig
  dsimp only
  refine trans ?_ (foldl (fun t u => tell t _) _)
  refine trans (trans (verify s .dev _ 1) (rawPut _ .dev _ _ false)) (of_cores rfl rfl rfl fun _ => ?_)
  refine foldl_keeps (P := fun x : Mem => x.hstored = _) (fun x u hx => ?_) _ _ rfl
  exact foldl_keeps (P := fun x : Mem => x.hstored = _) (f := fun m i => m.setMig (u + i) false false 0) (fun _ _ hy => hy) _ x hx

theorem pullLine (p : MigPair) (l : Nat) : StoresOnly h s (s.pullLine p l) := by
  unfold State.pullLine
  refine ite (refl s) (ite (trans ?_ (finishMig _ _)) ?_)
  · exact of_cores rfl rfl rfl fun _ => rfl
  · exact of_cores rfl rfl rfl fun _ => rfl

theorem touchLine (a : Nat) : StoresOnly h s (s.touchLine a) := by
  unfold State.touchLine
  split
  · exact refl s
  · exact ite (pullLine s _ _) (refl s)

theorem keyPut (a : Nat) (d : List PByte) (key : Option (BitVec 13)) (bytewise : Bool) :
    StoresOnly h s (s.keyPut a d key bytewise) := by
  unfold State.keyPut
  split
  · exact rawPut s .dev a d bytewise
  · exact trans (of_cores rfl rfl rfl fun _ => rfl) (rawPut _ .dev a d bytewise)

theorem devGet (a n : Nat) (key : Option (BitVec 13)) : StoresOnly h s (s.devGet a n key).1 := by
  unfold State.devGet
  split
  · exact verify s .dev a n
  · refine foldl_fst ?_ _ _
    rintro ⟨t, d⟩ ⟨b, k⟩
    exact (touchLine t b).trans (verify _ .dev _ k)

theorem devPut (a : Nat) (d : List PByte) (key : Option (BitVec 13)) (bytewise : Bool) :
    StoresOnly h s (s.devPut a d key bytewise) := by
  unfold State.devPut
  split
  · exact keyPut s a d key bytewise
  · refine foldl ?_ _
    rintro t ⟨b, k⟩
    exact (touchLine t b).trans (keyPut _ _ _ key bytewise)

theorem fetchLine (l : Nat) : StoresOnly h s (s.fetchLine l) := ite (refl s) (of_cores rfl rfl rfl fun _ => rfl)

theorem hostGet (a n : Nat) : StoresOnly h s (s.hostGet a n).1 := by
  refine foldl_fst ?_ _ _
  rintro ⟨t, d⟩ ⟨b, k⟩
  exact (fetchLine t (b / 128)).trans (verify _ .copy b k)

theorem hostPut (a : Nat) (d : List PByte) : StoresOnly h s (s.hostPut a d) := by
  refine foldl ?_ _
  rintro t ⟨b, k⟩
  exact ((fetchLine t (b / 128)).trans (rawPut _ .copy b _ false)).trans (of_cores rfl rfl rfl fun _ => rfl)

theorem readAt (e : Site) (a n : Nat) (key : Option (BitVec 13)) : StoresOnly h s (s.readAt e a n key).1 := by
  cases e with
  | dev => exact devGet s a n key
  | host => exact hostGet s a n
  | copy => exact verify s .copy a n
  | sp k => exact verify s (.sp k) a n
  | spill k => exact verify s (.spill k) a n
  | tmpl k => exact verify s (.tmpl k) a n

theorem writeAt (e : Site) (a : Nat) (d : List PByte) (key : Option (BitVec 13)) : StoresOnly h s (s.writeAt e a d key) := by
  cases e with
  | dev => exact devPut s a d key false
  | host => exact hostPut s a d
  | copy => exact rawPut s .copy a d false
  | sp k => exact rawPut s (.sp k) a d false
  | spill k => exact rawPut s (.spill k) a d false
  | tmpl k => exact rawPut s (.tmpl k) a d false

/-! Stores. -/

theorem onStep (k : Nat) (f : StepInfo → StepInfo) : StoresOnly h s (s.onStep k f) := onCore _ _ fun _ => ⟨_, _, _, _, rfl⟩

theorem endPanelStep (k cause : Nat) (err : Bool) : StoresOnly h s (s.endPanelStep k cause err) :=
  foldl (fun _ j => onCore j _ fun _ => ⟨_, _, _, _, rfl⟩) _

theorem segData (k : Nat) (g : Seg) : StoresOnly h s (s.segData k g).1 := by
  unfold State.segData
  split
  · exact refl s
  · exact readAt s g.site g.addr _ g.key

theorem storeSeg (k : Nat) {g : Seg} (hg : h → g.site ≠ .host) (d : List PByte) : StoresOnly h s (s.storeSeg k g d) := by
  have h1 : StoresOnly h s (s.writeAt g.site g.addr d g.key) := writeAt s g.site g.addr d g.key
  unfold State.storeSeg
  extract_lets s1
  split
  · next hs => exact h1.trans (of_cores rfl rfl rfl fun hh => absurd hs (hg hh))
  · exact h1

theorem putSeg (k : Nat) {g : Seg} (hg : h → g.site ≠ .host) : StoresOnly h s (s.putSeg k g) := by
  unfold State.putSeg
  extract_lets r s1 d ws hit
  have h1 : StoresOnly h s s1 := segData s k g
  split
  · exact h1.trans (writeAt s1 g.site g.addr d none)
  · split
    · exact h1.trans (storeSeg s1 k hg d)
    · extract_lets s2 s3 s4 s5
      have h2 : StoresOnly h s s2 := h1.trans (ite (refl s1) (onStep s1 k _))
      have h3 : StoresOnly h s s3 := h2.trans (ite (onStep s2 k _) (refl s2))
      have h4 : StoresOnly h s s4 := h3.trans (onStep s3 k _)
      have h5 : StoresOnly h s s5 := h2.trans (storeSeg s2 k hg d)
      split
      · split
        · exact ite (h4.trans (endPanelStep s4 k _ _)) h4
        · exact h4
      · exact ite (h5.trans (onStep s5 k _)) h5

end StoresOnly

/-- Stores that are performed one after another, each part with its core. -/
def State.putAll (s : State) (gs : List (Nat × Seg)) : State := gs.foldl (fun s g => s.putSeg g.1 g.2) s

/-- The parts of stores with their cores. -/
def partsIn (es : List (Nat × VisStore)) : List (Nat × Seg) := es.flatMap (fun e => e.2.segs.map (fun g => (e.1, g)))

theorem State.perform_all (s : State) (es : List (Nat × VisStore)) :
    es.foldl (fun s e => s.perform e.1 e.2) s = s.putAll (partsIn es) := by
  rw [State.putAll, partsIn, List.foldl_flatMap]
  simp only [List.foldl_map]
  rfl

theorem StoresOnly.putAll {h : Prop} (s : State) {gs : List (Nat × Seg)} (hg : ∀ g, g ∈ gs → h → g.2.site ≠ .host) :
    StoresOnly h s (s.putAll gs) := by
  induction gs generalizing s with
  | nil => exact refl s
  | cons g gs ih =>
    exact (putSeg s g.1 (hg g List.mem_cons_self)).trans (ih _ fun x hx => hg x (List.mem_cons_of_mem _ hx))

end Sys2Proof.Machine
end

section
/-! PROOF. Device memory as stores are performed while nothing migrates (R249, R339). -/

namespace Sys2Proof.Machine

open Sys2Proof

/-- Device memory holds the bytes `f`; its tags, the keys, the migration table and every core's step are as before. -/
structure DevBy (f : Nat → Byte) (s u : State) : Prop where
  byte : ∀ x, u.dev x = f x
  tag : ∀ q, u.mem.dev.tag q = s.mem.dev.tag q
  mig : u.mem.mig = s.mem.mig
  keys : u.bench.keys = s.bench.keys
  step : ∀ j, (u.core j).step = (s.core j).step

namespace DevBy

variable {f g : Nat → Byte} {s t u : State}

theorem refl (s : State) : DevBy s.dev s s := ⟨fun _ => rfl, fun _ => rfl, rfl, rfl, fun _ => rfl⟩

theorem after (h1 : DevBy g s t) (h2 : DevBy f t u) : DevBy f s u :=
  ⟨h2.byte, fun q => (h2.tag q).trans (h1.tag q), h2.mig.trans h1.mig, h2.keys.trans h1.keys, fun j => (h2.step j).trans (h1.step j)⟩

theorem trans (h1 : DevBy f s t) (h2 : DevBy t.dev t u) : DevBy f s u :=
  ⟨fun x => (h2.byte x).trans (h1.byte x), (h1.after h2).tag, (h1.after h2).mig, (h1.after h2).keys, (h1.after h2).step⟩

/-- A change outside device memory, the keys and the cores. -/
theorem of_dev (hd : u.mem.dev = s.mem.dev) (hm : u.mem.mig = s.mem.mig) (hk : u.bench.keys = s.bench.keys)
    (hc : u.cores = s.cores) : DevBy s.dev s u := by
  refine ⟨fun x => ?_, fun q => ?_, hm, hk, fun j => ?_⟩
  · simp only [State.dev, hd]
  · rw [hd]
  · simp only [State.core, hc]

theorem onCore (s : State) (k : Nat) {f : Core → Core} (hf : ∀ c, (f c).step = c.step) : DevBy s.dev s (s.onCore k f) := by
  refine ⟨fun _ => rfl, fun _ => rfl, rfl, rfl, fun j => ?_⟩
  rw [State.core_onCore]
  split
  · next hj => subst hj; exact hf _
  · rfl

/-- New storage of a site that is not device memory, or that keeps its bytes and tags. -/
theorem setStoreOf (s : State) {e : Site} {m : Store} (h : e = .dev → (∀ x, Sparse.get 0 m.bytes x = s.dev x) ∧
    ∀ q, m.tag q = s.mem.dev.tag q) : DevBy s.dev s (s.setStoreOf e m) := by
  cases e with
  | dev => exact ⟨(h rfl).1, (h rfl).2, rfl, rfl, fun _ => rfl⟩
  | host => exact of_dev rfl rfl rfl rfl
  | copy => exact of_dev rfl rfl rfl rfl
  | sp k => exact onCore s k (f := fun c => { c with spad := m }) fun _ => rfl
  | spill k => exact onCore s k (f := fun c => c.onV (fun v => { v with spill := m })) fun _ => rfl
  | tmpl k => exact onCore s k (f := fun c => c.onC (fun e => { e with templates := m.bytes })) fun _ => rfl

theorem verify (s : State) (e : Site) (a n : Nat) : DevBy s.dev s (s.verify e a n) := by
  refine foldl_keeps (P := fun t => DevBy s.dev s t) (fun t q ht => 
    (ht.trans (setStoreOf t (e := e) (m := (t.storeOf e).poisonSector q) fun he => ?_)).trans ?_) _ _ (refl s)
  · subst he
    exact ⟨fun _ => rfl, fun _ => rfl⟩
  · exact of_dev rfl rfl rfl rfl

end DevBy

/-- The edges of a write of `n` bytes checked (R396). -/
def State.edges (s : State) (e : Site) (a n : Nat) : State :=
  let u := if a % 32 = 0 then s else s.verify e a 1
  if (a + n) % 32 = 0 then u else u.verify e (a + n - 1) 1

theorem DevBy.edges (s : State) (e : Site) (a n : Nat) : DevBy s.dev s (s.edges e a n) := by
  have h1 : DevBy s.dev s (if a % 32 = 0 then s else s.verify e a 1) := by
    split
    · exact refl s
    · exact verify s e a 1
  unfold State.edges
  dsimp only
  split
  · exact h1
  · exact h1.trans (verify _ e _ 1)

/-- The storage of a site written, its edges checked first. -/
def State.written (s : State) (e : Site) (a : Nat) (d : List PByte) : State :=
  (s.edges e a d.length).setStoreOf e (((s.edges e a d.length).storeOf e).write e.masked a d)

theorem State.rawPut_ne {s : State} {e : Site} (he : e ≠ .dev) (a : Nat) {d : List PByte} (hd : d.isEmpty = false) :
    s.rawPut e a d = s.written e a d := by
  unfold State.rawPut
  rw [if_neg (by simp [hd])]
  cases e with
  | dev => exact absurd rfl he
  | _ => rfl

theorem State.rawPut_dev (s : State) (a : Nat) {d : List PByte} (hd : d.isEmpty = false) :
    s.rawPut .dev a d = if windowBase < a + d.length then (s.written .dev a d).noteWindow a (a + d.length) else s.written .dev a d := by
  unfold State.rawPut
  rw [if_neg (by simp [hd])]
  rfl

namespace DevBy

variable (s : State)

theorem rawPut {e : Site} (he : e ≠ .dev) (a : Nat) (d : List PByte) : DevBy s.dev s (s.rawPut e a d) := by
  cases hd : d.isEmpty with
  | true => rw [State.rawPut, if_pos hd]; exact refl s
  | false =>
    rw [State.rawPut_ne he a hd]
    exact (edges s e a d.length).trans (setStoreOf _ fun h => absurd h he)

/-- A write of a site that is reached without translation. -/
theorem writeAt {e : Site} (he : e.translated = false) (a : Nat) (d : List PByte) : DevBy s.dev s (s.writeAt e a d) := by
  cases e with
  | dev => cases he
  | host => cases he
  | copy => exact rawPut s (e := .copy) (by decide) a d
  | sp k => exact rawPut s (e := .sp k) (by simp) a d
  | spill k => exact rawPut s (e := .spill k) (by simp) a d
  | tmpl k => exact rawPut s (e := .tmpl k) (by simp) a d

theorem hostPut (a : Nat) (d : List PByte) : DevBy s.dev s (s.hostPut a d) := by
  refine foldl_keeps (P := fun t => DevBy s.dev s t) ?_ _ _ (refl s)
  rintro t ⟨b, k⟩ ht
  have h1 : DevBy t.dev t (t.fetchLine (b / 128)) := by
    unfold State.fetchLine
    split
    · exact refl t
    · exact of_dev rfl rfl rfl rfl
  exact ht.trans ((h1.trans (rawPut _ (by decide) b _)).trans (of_dev rfl rfl rfl rfl))

theorem noteStored (k a n : Nat) : DevBy s.dev s (s.noteStored k a n) := of_dev rfl rfl rfl rfl

end DevBy

/-- The bytes of device memory once one part of a store has been performed. -/
def Seg.onDev (g : Seg) (f : Nat → Byte) (a : Nat) : Byte :=
  if g.site = .dev ∧ g.addr ≤ a ∧ a < g.addr + g.data.length then (g.data.getD (a - g.addr) (0, false)).1 else f a

theorem devAfter_eq (qs : List VisStore) (f : Nat → Byte) :
    devAfter qs f = (qs.flatMap (fun q => q.segs)).foldl (fun f g => g.onDev f) f := rfl

/-- A write of device memory as it lies. -/
theorem DevBy.rawPut_dev (s : State) (a : Nat) (d : List PByte) : DevBy
    (fun x => if a ≤ x ∧ x < a + d.length then (d.getD (x - a) (0, false)).1 else s.dev x) s (s.rawPut .dev a d) := by
  cases hd : d.isEmpty with
  | true =>
    obtain rfl := List.isEmpty_iff.1 hd
    have h0 : (fun x => if a ≤ x ∧ x < a + ([] : List PByte).length then (([] : List PByte).getD (x - a) (0, false)).1 else s.dev x) =
        s.dev := by
      funext x
      rw [if_neg (by simp)]
    rw [h0]
    exact DevBy.refl s
  | false =>
    have he := DevBy.edges s .dev a d.length
    have hw : DevBy (fun x => if a ≤ x ∧ x < a + d.length then (d.getD (x - a) (0, false)).1 else s.dev x) s (s.written .dev a d) := by
      refine he.after ⟨fun x => ?_, fun q => rfl, rfl, rfl, fun j => rfl⟩
      refine (Store.byte_write _ _ a d x).trans ?_
      split
      · simp only [List.getD_eq_getElem?_getD, List.getElem?_map]
        cases d[x - a]? <;> rfl
      · exact he.byte x
    rw [State.rawPut_dev s a hd]
    split
    · exact hw.trans (DevBy.of_dev rfl rfl rfl rfl)
    · exact hw

/-! Writes through a key. -/

/-- Blocks under a key, or under none, keep their bytes as they come under it. -/
theorem Store.byte_turn {m : Store} {k : BitVec 512} {a n : Nat} (hn : 0 < n)
    (hk : ∀ q, a / 16 ≤ q → 16 * q < a + n → m.tag q = none ∨ m.tag q = some k) (x : Nat) :
    Sparse.get 0 (m.turn (some k) a n).bytes x = Sparse.get 0 m.bytes x := by
  let P (u : Store) : Prop := (∀ x, Sparse.get 0 u.bytes x = Sparse.get 0 m.bytes x) ∧ ∀ q, u.tag q = m.tag q
  have hP : P ((partBlocks a n).foldl (fun m q => m.rekey k q) m) := by
    refine List.foldlRecOn _ _ ⟨fun _ => rfl, fun _ => rfl⟩ fun u ⟨hb, ht⟩ q hq => ⟨fun x => ?_, ht⟩
    have hq' : a / 16 ≤ q ∧ 16 * q < a + n := by
      simp only [partBlocks, List.mem_eraseDups, List.mem_append] at hq
      rcases hq with hq | hq <;> split at hq <;> simp at hq <;> omega
    have ht' : u.tag q = none ∨ u.tag q = some k := by
      rw [ht]
      exact hk q hq'.1 hq'.2
    rw [Store.rekey, blockUnder_of_tag ht', Sparse.getList_eq, Sparse.get_putList]
    split
    · next hx =>
      simp only [List.length_map, List.length_range] at hx
      rw [List.getD_eq_getElem _ _ (by simp; omega), List.getElem_map, List.getElem_range, hb]
      congr 1
      omega
    · exact hb x
  exact hP.1 x

theorem Store.tag_turn (m : Store) (k : BitVec 512) (a n q : Nat) :
    (m.turn (some k) a n).tag q = if a / 16 ≤ q ∧ 16 * q < a + n then some k else m.tag q := by
  let P (u : Store) : Prop := u.tags = m.tags ∧ u.areas = m.areas
  obtain ⟨ht, ha⟩ : P ((partBlocks a n).foldl (fun m q => m.rekey k q) m) :=
    foldl_keeps (P := P) (f := fun m q => m.rekey k q) (fun _ _ h => h) _ _ ⟨rfl, rfl⟩
  have hq : a / 16 ≤ q ∧ q < a / 16 + ((a + n + 15) / 16 - a / 16) ↔ a / 16 ≤ q ∧ 16 * q < a + n := by omega
  simp only [Store.turn, Store.tag, ha, Sparse.get_putList, List.length_replicate, hq]
  split
  · next h =>
    rw [List.getD_eq_getElem _ _ (by simp; omega), List.getElem_replicate]
    rfl
  · rfl

/-- A write of device memory, under its key: each block it meets is then under that key, or as before. -/
theorem State.devPut_spec {s : State} (hm : s.mem.mig = []) {a : Nat} {d : List PByte} {key : Option (BitVec 13)}
    (hk : Keyed s key a d.length) :
    ∃ v, DevBy (fun x => if a ≤ x ∧ x < a + d.length then (d.getD (x - a) (0, false)).1 else s.dev x) v (s.devPut a d key) ∧
      v.mem.mig = [] ∧ v.bench = s.bench ∧ v.cores = s.cores ∧ ∀ q, v.mem.dev.tag q = s.mem.dev.tag q ∨
        a / 16 ≤ q ∧ 16 * q < a + d.length ∧ v.mem.dev.tag q = s.keyIn key := by
  have hp : s.devPut a d key = s.keyPut a d key := by simp [State.devPut, hm]
  rw [hp]
  by_cases hd : (key.isNone || d.isEmpty) = true
  · rw [State.keyPut, if_pos hd]
    exact ⟨s, DevBy.rawPut_dev s a d, hm, rfl, rfl, fun _ => Or.inl rfl⟩
  · rw [State.keyPut, if_neg hd]
    obtain ⟨i, rfl⟩ : ∃ i, key = some i := by cases key <;> simp at hd ⊢
    have hn : 0 < d.length := by cases d <;> simp at hd ⊢
    obtain ⟨k, hkey⟩ : ∃ k, s.keyIn (some i) = some k := ⟨_, rfl⟩
    unfold Keyed at hk
    rw [hkey] at hk ⊢
    have hb := Store.byte_turn hn hk
    refine ⟨{ s with mem := { s.mem with dev := s.mem.dev.turn (some k) a d.length } }, ?_, hm, rfl, rfl, fun q => ?_⟩
    · have h1 := DevBy.rawPut_dev { s with mem := { s.mem with dev := s.mem.dev.turn (some k) a d.length } } a d
      refine ⟨fun x => (h1.byte x).trans ?_, h1.tag, h1.mig, h1.keys, h1.step⟩
      exact if_congr Iff.rfl rfl (hb x)
    · by_cases hq : a / 16 ≤ q ∧ 16 * q < a + d.length
      · exact Or.inr ⟨hq.1, hq.2, (Store.tag_turn _ _ _ _ _).trans (if_pos hq)⟩
      · exact Or.inl ((Store.tag_turn _ _ _ _ _).trans (if_neg hq))

/-! Parts of stores. -/

/-- A core runs no copy of a step that is run twice. -/
def State.Untwinned (s : State) (k : Nat) : Prop := ∀ w, (s.core k).step = some w → w.twin = .none

/-- One part of a store, performed by a core without a twin. -/
structure PartStored (g : Seg) (s u : State) : Prop where
  byte : ∀ x, u.dev x = g.onDev s.dev x
  tag : ∀ q, u.mem.dev.tag q = s.mem.dev.tag q ∨ g.site = .dev ∧ g.addr / 16 ≤ q ∧ 16 * q < g.addr + g.data.length ∧
    u.mem.dev.tag q = s.keyIn g.key
  mig : u.mem.mig = []
  keys : u.bench.keys = s.bench.keys
  twin : ∀ j, s.Untwinned j → u.Untwinned j

theorem Seg.onDev_ne {g : Seg} (h : g.site ≠ .dev) (f : Nat → Byte) : g.onDev f = f := by
  funext x
  rw [Seg.onDev, if_neg (fun hx => h hx.1)]

theorem PartStored.of_devBy {g : Seg} {s u : State} (hm : s.mem.mig = []) (h : DevBy (g.onDev s.dev) s u) : PartStored g s u :=
  ⟨h.byte, fun q => Or.inl (h.tag q), h.mig.trans hm, h.keys, fun j hj w hw => hj w ((h.step j).symm.trans hw)⟩

/-- What PartStored says outlives a change of steps that makes no twin. -/
theorem PartStored.onStep {g : Seg} {s u : State} (h : PartStored g s u) (k : Nat) {f : StepInfo → StepInfo}
    (hf : ∀ w, (f w).twin = w.twin) : PartStored g s (u.onStep k f) := by
  refine ⟨h.byte, h.tag, h.mig, h.keys, fun j hj w hw => ?_⟩
  rw [State.onStep, State.core_onCore] at hw
  split at hw
  · next hk =>
    subst hk
    obtain ⟨x, hx, rfl⟩ := Option.map_eq_some_iff.1 hw
    rw [hf]
    exact h.twin _ hj x hx
  · exact h.twin j hj w hw

theorem PartStored.storeSeg {s : State} (hm : s.mem.mig = []) (k : Nat) {g : Seg}
    (hk : g.site = .dev → Keyed s g.key g.addr g.data.length) (ht : g.site.translated = true) :
    PartStored g s (s.storeSeg k g g.data) := by
  cases hs : g.site with
  | dev =>
    have hst : s.storeSeg k g g.data = s.devPut g.addr g.data g.key := by
      simp only [State.storeSeg, hs]
      rfl
    obtain ⟨v, hv, hvm, hvb, hvc, hvt⟩ := State.devPut_spec hm (hk hs)
    rw [hst]
    refine ⟨fun x => (hv.byte x).trans ?_, fun q => ?_, hv.mig.trans hvm, hv.keys.trans (by rw [hvb]), fun j hj w hw => ?_⟩
    · simp only [Seg.onDev, hs, true_and]
    · rw [hv.tag]
      exact (hvt q).imp_right fun h => ⟨hs, h⟩
    · refine hj w ?_
      rw [hv.step, State.core, hvc] at hw
      exact hw
  | host =>
    refine .of_devBy hm ?_
    have hst : s.storeSeg k g g.data = (s.hostPut g.addr g.data).noteStored k g.addr g.data.length := by
      simp only [State.storeSeg, hs]
      rfl
    rw [hst, Seg.onDev_ne (by simp [hs])]
    exact (DevBy.hostPut s _ _).trans (DevBy.noteStored _ k _ _)
  | _ => rw [hs] at ht; cases ht

/-- A part of a store is performed where it lies by a core without a twin. -/
theorem PartStored.putSeg {s : State} (hm : s.mem.mig = []) {k : Nat} (hu : s.Untwinned k) {g : Seg} (hg : g.mask = [])
    (hk : g.site = .dev → Keyed s g.key g.addr g.data.length) : PartStored g s (s.putSeg k g) := by
  have hd : s.segData k g = (s, g.data) := by simp [State.segData, hg]
  unfold State.putSeg
  simp only [hd]
  cases ht : g.site.translated with
  | false =>
    have hne : g.site ≠ .dev := fun h => by rw [h] at ht; cases ht
    refine .of_devBy hm ?_
    rw [Seg.onDev_ne hne]
    exact DevBy.writeAt s ht _ _
  | true =>
    have h1 := PartStored.storeSeg hm k hk ht
    cases hw : (s.core k).step with
    | none => exact h1
    | some w =>
      simp only [hu w hw, if_true, Bool.not_true, Bool.false_eq_true, if_false, reduceCtorEq]
      split
      · exact h1.onStep k fun _ => rfl
      · exact h1

/-- OneKey of the parts of stores. -/
def OneKeyParts (s : State) (gs : List Seg) : Prop :=
  ∀ g, g ∈ gs → g.mask = [] ∧ (g.site = .dev → Keyed s g.key g.addr g.data.length ∧
    ∀ h, h ∈ gs → h.site = .dev → ∀ q, g.addr / 16 ≤ q → 16 * q < g.addr + g.data.length →
      h.addr / 16 ≤ q → 16 * q < h.addr + h.data.length → s.keyIn h.key = s.keyIn g.key)

theorem oneKey_iff (s : State) (qs : List VisStore) : OneKey s qs ↔ OneKeyParts s (qs.flatMap (fun q => q.segs)) := Iff.rfl

theorem PartStored.keyIn {g : Seg} {s u : State} (h : PartStored g s u) (key : Option (BitVec 13)) : u.keyIn key = s.keyIn key := by
  simp only [State.keyIn, h.keys]

/-- What is left to store meets no block under another key once one part has been stored. -/
theorem OneKeyParts.tail {g : Seg} {gs : List Seg} {s u : State} (h : OneKeyParts s (g :: gs)) (hu : PartStored g s u) :
    OneKeyParts u gs := by
  intro x hx
  obtain ⟨hm, hd⟩ := h x (List.mem_cons_of_mem _ hx)
  refine ⟨hm, fun hs => ⟨fun q h1 h2 => ?_, fun y hy hys q h1 h2 h3 h4 => ?_⟩⟩
  · obtain ⟨hk, ho⟩ := hd hs
    rw [hu.keyIn]
    rcases hu.tag q with ht | ⟨hgs, h3, h4, ht⟩
    · rw [ht]
      exact hk q h1 h2
    · exact Or.inr (ht.trans (ho g List.mem_cons_self hgs q h1 h2 h3 h4))
  · rw [hu.keyIn, hu.keyIn]
    exact (hd hs).2 y (List.mem_cons_of_mem _ hy) hys q h1 h2 h3 h4

/-- Stores performed in order, by cores without twins. -/
theorem State.dev_putAll {gs : List (Nat × Seg)} {s : State} (hm : s.mem.mig = []) (hu : ∀ g, g ∈ gs → s.Untwinned g.1)
    (hk : OneKeyParts s (gs.map (fun g => g.2))) (a : Nat) :
    (s.putAll gs).dev a = (gs.map (fun g => g.2)).foldl (fun f g => g.onDev f) s.dev a := by
  induction gs generalizing s with
  | nil => rfl
  | cons g gs ih =>
    obtain ⟨hg, hd⟩ := hk g.2 List.mem_cons_self
    have h1 : PartStored g.2 s (s.putSeg g.1 g.2) :=
      .putSeg hm (hu g List.mem_cons_self) hg fun hs => (hd hs).1
    have hb : (s.putSeg g.1 g.2).dev = g.2.onDev s.dev := funext h1.byte
    rw [List.map_cons, List.foldl_cons, ← hb]
    exact ih h1.mig (fun x hx => h1.twin _ (hu x (List.mem_cons_of_mem _ hx))) (hk.tail h1)

end Sys2Proof.Machine
end

section
/-! PROOF. Where the stores of a core stand after a release (R249, R252). -/

namespace Sys2Proof.Machine

open Sys2Proof

variable {s : State} {k : Nat}

/-- The stores that a release at device scope performs, each with its core: those visible in the panel, then the core's own. -/
def State.toShow (s : State) (k : Nat) : List (Nat × VisStore) :=
  (if (s.core k).panel.size = 0#5 then [] else (s.panel ((s.core k).panelBase k)).buffer) ++ (s.core k).buffer.map (fun q => (k, q))

/-- The core whose stores leave its buffer. -/
def Core.unbuffered (c : Core) : Core := { c with buffer := [] }

theorem State.toPanel_alone (h : (s.core k).panel.size = 0#5) : s.toPanel k = s := if_pos h

theorem State.toPanel_in (h : (s.core k).panel.size ≠ 0#5) : s.toPanel k =
    (s.setPanel ((s.core k).panelBase k) { s.panel ((s.core k).panelBase k) with buffer := s.toShow k }).onCore k Core.unbuffered := by
  unfold State.toPanel State.toShow
  simp only [if_neg h]
  rfl

theorem State.flush_alone (h : (s.core k).panel.size = 0#5) :
    s.flush k = (s.putAll (partsIn (s.toShow k))).onCore k Core.unbuffered := by
  unfold State.flush State.toShow
  simp only [State.toPanel_alone h, if_pos h, State.perform_all, List.nil_append]
  rfl

theorem State.flush_in (h : (s.core k).panel.size ≠ 0#5) : ∃ p : Panel, s.flush k =
    ((s.toPanel k).putAll (partsIn (s.toShow k))).setPanel ((s.core k).panelBase k) { p with buffer := [] } := by
  have hc : (s.toPanel k).core k = (s.core k).unbuffered := by rw [State.toPanel_in h, State.core_onCore_self]; rfl
  have hp : ((s.toPanel k).panel ((s.core k).panelBase k)).buffer = s.toShow k := by
    rw [State.toPanel_in h]
    refine (congrArg Panel.buffer (State.panel_setPanel s _ _ _)).trans ?_
    rw [if_pos rfl]
  have hs : ((s.core k).unbuffered).panel.size ≠ 0#5 := h
  have hb : ((s.core k).unbuffered).panelBase k = (s.core k).panelBase k := rfl
  unfold State.flush
  simp only [hc, if_neg hs, hb, hp, State.perform_all]
  exact ⟨_, rfl⟩

/-- What a release at device scope leaves; `h` says that no store it performs goes to a host page. -/
structure Flushed (h : Prop) (k : Nat) (s t : State) : Prop where
  cur : t.cur = s.cur
  core : ∃ m n x w, t.core k = { s.core k with
    buffer := [], spad := m, v := { (s.core k).v with spill := n }, c := { (s.core k).c with templates := x }, step := w }
  panel : (s.core k).panel.size ≠ 0#5 → (t.panel ((s.core k).panelBase k)).buffer = []
  stored : h → t.mem.hstored = s.mem.hstored
  dev : s.mem.mig = [] → (∀ e, e ∈ s.toShow k → s.Untwinned e.1) → OneKey s ((s.toShow k).map (fun e => e.2)) →
    ∀ a, t.dev a = devAfter ((s.toShow k).map (fun e => e.2)) s.dev a

theorem partsIn_map_snd (es : List (Nat × VisStore)) :
    (partsIn es).map (fun g => g.2) = (es.map (fun e => e.2)).flatMap (fun q => q.segs) := by
  simp only [partsIn, List.map_flatMap, List.flatMap_map, List.map_map, Function.comp_def, List.map_id']

theorem mem_partsIn {es : List (Nat × VisStore)} {g : Nat × Seg} (hg : g ∈ partsIn es) : ∃ e, e ∈ es ∧ g.1 = e.1 ∧ g.2 ∈ e.2.segs := by
  obtain ⟨e, he, hge⟩ := List.mem_flatMap.1 hg
  obtain ⟨x, hx, rfl⟩ := List.mem_map.1 hge
  exact ⟨e, he, rfl, hx⟩

theorem State.flushed {h : Prop} (s : State) (k : Nat) (hh : ∀ e, e ∈ s.toShow k → ∀ g, g ∈ e.2.segs → h → g.site ≠ .host) :
    Flushed h k s (s.flush k) := by
  have hst (u : State) : StoresOnly h u (u.putAll (partsIn (s.toShow k))) := .putAll u fun g hg => by
    obtain ⟨e, he, -, hx⟩ := mem_partsIn hg
    exact hh e he g.2 hx
  have hdev (u : State) (hu : u.mem = s.mem) (hb : u.bench = s.bench) (hc : ∀ j, (u.core j).step = (s.core j).step)
      (hm : s.mem.mig = []) (ht : ∀ e, e ∈ s.toShow k → s.Untwinned e.1) (hk : OneKey s ((s.toShow k).map (fun e => e.2))) (a : Nat) :
      (u.putAll (partsIn (s.toShow k))).dev a = devAfter ((s.toShow k).map (fun e => e.2)) s.dev a := by
    rw [devAfter_eq, ← partsIn_map_snd, ← show u.dev = s.dev by funext x; rw [State.dev, State.dev, hu]]
    refine State.dev_putAll (by rw [hu, hm]) (fun g hg w hw => ?_) ?_ a
    · obtain ⟨e, he, h1, -⟩ := mem_partsIn hg
      rw [h1, hc] at hw
      exact ht e he w hw
    · rw [partsIn_map_snd]
      simpa only [OneKeyParts, Keyed, State.keyIn, hu, hb] using (oneKey_iff s _).1 hk
  by_cases h0 : (s.core k).panel.size = 0#5
  · obtain ⟨hcur, hpan, hstored, hcore⟩ := hst s
    rw [State.flush_alone h0]
    refine ⟨hcur, ?_, fun hn => absurd h0 hn, hstored, hdev s rfl rfl fun _ => rfl⟩
    obtain ⟨m, n, x, w, hk⟩ := hcore k
    exact ⟨m, n, x, w, by rw [State.core_onCore_self, hk]; rfl⟩
  · obtain ⟨hcur, hpan, hstored, hcore⟩ := hst (s.toPanel k)
    obtain ⟨p, hp⟩ := State.flush_in h0
    have hc : (s.toPanel k).core k = (s.core k).unbuffered := by rw [State.toPanel_in h0, State.core_onCore_self]; rfl
    rw [hp]
    refine ⟨hcur.trans (by rw [State.toPanel_in h0]; rfl), ?_, fun _ => ?_, fun hx => (hstored hx).trans (by rw [State.toPanel_in h0]; rfl), ?_⟩
    · obtain ⟨m, n, x, w, hk⟩ := hcore k
      exact ⟨m, n, x, w, by rw [State.setPanel_core, hk, hc]; rfl⟩
    · rw [State.panel_setPanel, if_pos rfl]
    · refine hdev (s.toPanel k) (by rw [State.toPanel_in h0]; rfl) (by rw [State.toPanel_in h0]; rfl) fun j => ?_
      rw [State.toPanel_in h0, State.core_onCore]
      split
      · next hj => subst hj; rfl
      · rfl

/-! A release at any scope. -/

/-- A release changes no register and no queue of its core. -/
theorem State.widen_core (s : State) (k : Nat) (sc : Scope) : (s.widen k sc).curN = s.curN ∧ ∃ b m n x w, (s.widen k sc).core k =
    { s.core k with
      buffer := b, spad := m, v := { (s.core k).v with spill := n }, c := { (s.core k).c with templates := x }, step := w } := by
  have hf : (s.flush k).curN = s.curN ∧ ∃ b m n x w, (s.flush k).core k = { s.core k with
      buffer := b, spad := m, v := { (s.core k).v with spill := n }, c := { (s.core k).c with templates := x }, step := w } := by
    have h := State.flushed (h := False) s k fun _ _ _ _ => False.elim
    exact ⟨congrArg BitVec.toNat h.cur, [], h.core⟩
  cases sc with
  | core => exact ⟨rfl, _, _, _, _, _, rfl⟩
  | panel =>
    change (s.toPanel k).curN = s.curN ∧ ∃ b m n x w, (s.toPanel k).core k = _
    by_cases h0 : (s.core k).panel.size = 0#5
    · rw [State.toPanel_alone h0]
      exact ⟨rfl, _, _, _, _, _, rfl⟩
    · rw [State.toPanel_in h0, State.core_onCore_self]
      exact ⟨rfl, _, _, _, _, _, rfl⟩
  | device => exact hf
  | system => exact hf

/-- The stores that a release finds at core scope stand at its scope. -/
theorem widened_of_buffer {r : State} {ws : List VisStore} (hr : OnlyCore s.curN s r) (hb : r.me.buffer = s.me.buffer ++ ws)
    (hp : r.me.panel = s.me.panel) (hs : r.me.step = s.me.step) (sc : Scope) : Widened s (r.widen s.curN sc) sc ws := by
  have hcur := hr.curN
  have hme : r.core s.curN = r.me := by rw [State.me, hcur]
  have hsz : (r.core s.curN).panel.size = s.me.panel.size := by rw [hme, hp]
  have hbase : (r.core s.curN).panelBase s.curN = s.me.panelBase s.curN := by rw [hme]; unfold Core.panelBase; rw [hp]
  have hmem : r.mem = s.mem := by rw [hr.1]
  have hpan (b : Nat) : r.panel b = s.panel b := by rw [hr.1]; rfl
  have hshow : r.toShow s.curN = (if s.me.panel.size = 0#5 then [] else (s.panel (s.me.panelBase s.curN)).buffer) ++
      (s.me.buffer ++ ws).map (fun q => (s.curN, q)) := by
    rw [State.toShow, hsz, hbase, hpan, hme, hb]
  unfold Widened
  dsimp only
  split
  · next hsc =>
    have hw : r.widen s.curN sc = r := by
      rcases hsc with rfl | ⟨rfl, h0⟩
      · rfl
      · exact State.toPanel_alone (hsz.trans h0)
    rw [hw]
    exact ⟨hmem, by rw [hr.1], hb⟩
  · next hsc =>
    split
    · next hpsc =>
      subst hpsc
      have h0 : s.me.panel.size ≠ 0#5 := fun h => hsc (Or.inr ⟨rfl, h⟩)
      have hw : r.widen s.curN .panel = _ := State.toPanel_in (by rw [hsz]; exact h0)
      rw [hw, hbase, hshow, hpan, if_neg h0]
      refine ⟨hmem, ?_, fun j => ?_⟩
      · rw [State.me, State.onCore_curN]
        change (State.core _ r.curN).buffer = []
        rw [hcur, State.core_onCore_self]
        rfl
      · refine (State.panel_setPanel r _ _ j).trans ?_
        split
        · rfl
        · exact hpan j
    · next hpsc =>
      have hw : r.widen s.curN sc = r.flush s.curN := by
        cases sc with
        | core => exact absurd (Or.inl rfl) hsc
        | panel => exact absurd rfl hpsc
        | device => rfl
        | system => rfl
      rw [hw]
      have hf := State.flushed (h := False) r s.curN fun _ _ _ _ => False.elim
      obtain ⟨m, n, x, w, hc⟩ := hf.core
      refine ⟨?_, fun h0 => ?_, fun hm ht hsh hk a => ?_⟩
      · have : (r.flush s.curN).curN = s.curN := (congrArg BitVec.toNat hf.cur).trans hcur
        rw [State.me, this, hc]
      · rw [← hbase]
        exact hf.panel (by rw [hsz]; exact h0)
      · have hmap : (r.toShow s.curN).map (fun e => e.2) =
            (if s.me.panel.size = 0#5 then [] else (s.panel (s.me.panelBase s.curN)).buffer).map (fun e => e.2) ++
              (s.me.buffer ++ ws) := by
          rw [hshow, List.map_append, List.map_map]
          simp [Function.comp_def]
        have hstep (j : Nat) : (r.core j).step = (s.core j).step := by
          by_cases hj : j = s.curN
          · rw [hj, hme, hs]; rfl
          · rw [hr.2 j hj]
        have hdev : r.dev = s.dev := by funext x; rw [State.dev, hmem]; rfl
        rw [← hmap, ← hdev]
        refine hf.dev (by rw [hmem, hm]) (fun e he w hw => ?_) ?_ a
        · rw [hstep] at hw
          rw [hshow, List.mem_append] at he
          rcases he with he | he
          · exact hsh e he e.1 (Or.inl rfl) w hw
          · obtain ⟨q, -, rfl⟩ := List.mem_map.1 he
            exact ht _ (Or.inl rfl) w hw
        · rw [hmap]
          have hben : r.bench = s.bench := by rw [hr.1]
          simpa only [OneKey, Keyed, State.keyIn, hmem, hben] using hk

/-- A release has reached its scope, unless a device-side copy of a host line holds a store of the core. -/
theorem reached_of_noHost {r : State} {ws : List VisStore} (hr : OnlyCore s.curN s r) (hb : r.me.buffer = s.me.buffer ++ ws)
    (hp : r.me.panel = s.me.panel) {sc : Scope} (hn : sc = .system → NoHost s ws) : (r.widen s.curN sc).reached s.curN sc = true := by
  cases sc with
  | system =>
    obtain ⟨hu, hq⟩ := hn rfl
    have hme : r.core s.curN = r.me := by rw [State.me, hr.curN]
    have hsz : (r.core s.curN).panel.size = s.me.panel.size := by rw [hme, hp]
    have hbase : (r.core s.curN).panelBase s.curN = s.me.panelBase s.curN := by rw [hme]; unfold Core.panelBase; rw [hp]
    have hpan (b : Nat) : r.panel b = s.panel b := by rw [hr.1]; rfl
    have hf := State.flushed (h := True) r s.curN fun e he g hg _ => hq e.2 (by
      rw [State.toShow, hsz, hbase, hpan, hme, hb, List.mem_append] at he
      rw [List.append_assoc, List.mem_append]
      rcases he with he | he
      · left
        split at he
        · cases he
        · next h0 => rw [if_neg h0]; exact List.mem_map_of_mem he
      · right
        obtain ⟨q, hq, rfl⟩ := List.mem_map.1 he
        exact hq) g hg
    have hst : (r.flush s.curN).mem.hstored = s.mem.hstored := (hf.stored trivial).trans (by rw [hr.1])
    change (Scope.system != .system || !(r.flush s.curN).unwritten s.curN) = true
    rw [State.unwritten, hst]
    simpa [State.unwritten] using hu
  | _ => rfl

end Sys2Proof.Machine
end

section
/-! PROOF. Synchronisation and loops of the V-stream (R78, R150, R151). -/

namespace Sys2Proof.Machine

open Sys2Proof

/-! A store leaves its queue past a load that comes after it. -/

theorem StoreOp.tokened_cases {o : StoreOp} (h : o.tokened = true) : (∃ off d, o = .bytes off d) ∨ ∃ w, o = .vec w := by
  cases o with
  | bytes off d => exact Or.inl ⟨off, d, rfl⟩
  | vec w => exact Or.inr ⟨w, rfl⟩
  | segs gs => cases h
  | start c f => cases h
  | fence sc => cases h

section
variable {s : State} {k : Nat} {v : Bool} {q : QStore} {qs : List QStore}

theorem Core.keptBack_of_none {c : Core} (h : c.loadsBefore v q = []) : c.keptBack v q = false := by simp [Core.keptBack, h]

/-- A store through a token that is held stays where it is. -/
theorem State.popStore_of_held {w : WaitOn} (hq : (s.core k).storesOf v = q :: qs) (ht : q.op.tokened = true)
    (h : s.access k q.via (if v then .v else .s) false true ((s.core k).storeBytes q).2.2 = .hold w) : s.popStore k v = none := by
  have hf : s.findStore k v q = none := by simp only [State.findStore, h]
  cases hk : (s.core k).keptBack v q with
  | true => simp only [State.popStore, hq, hk, if_true]
  | false => rcases StoreOp.tokened_cases ht with ⟨off, d, hop⟩ | ⟨w, hop⟩ <;> simp only [State.popStore, hq, hk, hop, hf] <;> rfl

/-- A store through a token, found whole, leaves its queue. -/
theorem State.popStore_of_found {r : State} {gs : List Seg} (hq : (s.core k).storesOf v = q :: qs) (ht : q.op.tokened = true)
    (hb : (s.core k).loadsBefore v q = []) (h : s.findStore k v q = some (r, gs)) :
    s.popStore k v = some (let u := (r.onCore k (fun c => c.setStores v qs)).land k (streamOf v) gs; if v then u.release k q.via else u) := by
  have hk := Core.keptBack_of_none hb
  rcases StoreOp.tokened_cases ht with ⟨off, d, hop⟩ | ⟨w, hop⟩ <;>
    simp [State.popStore, hq, hk, hop, h, hb]

/-- The oldest store leaves its queue as it stands at core scope, where no load comes before it. -/
theorem State.popStore_past (hb : (s.core k).loadsBefore v q = []) (hq : (s.core k).storesOf v = q :: qs) (h : Leaves s k v q)
    (hr : v = true → ∀ x, q.via = some x → 1 < ((s.core k).mte x.idx.toNat).refs) :
    ∃ t, s.popStore k v = some t ∧ CoreIs k ((s.core k).popped v qs q.via (s.shown k v q)) s t := by
  obtain ⟨hn, hp, hx⟩ := h
  let u (r : State) : State := (r.onCore k (fun c => c.setStores v qs)).land k (streamOf v) (s.partsOf k v q)
  have hu {r : State} (h : CoreIs k (s.core k) s r) : CoreIs k (((s.core k).setStores v qs).pushBuffer (s.shown k v q)) s (u r) := by
    change CoreIs k _ s (State.land _ k (streamOf v) (s.partsOf k v q))
    rw [State.land_of_plain hn hp]
    exact (h.onCore _).onCore _
  by_cases hv : q.via = none
  · rw [if_pos hv] at hx
    obtain ⟨gs, hg⟩ := hx
    have hgs : s.partsOf k v q = gs := by simp only [State.partsOf, hg]
    refine ⟨u s, ?_, ?_⟩
    · simp only [State.popStore, hq, Core.keptBack_of_none hb, hg, u, hgs]
      rfl
    · have h1 := hu (CoreIs.refl k s)
      cases v
      · exact h1
      · rw [Core.popped, if_pos rfl, hv]
        exact h1
  · rw [if_neg hv] at hx
    obtain ⟨ht, ps, hps, ho, hd⟩ := hx
    refine ⟨_, State.popStore_of_found hq ht hb (State.findStore_of_live ht hps ho hd), ?_⟩
    have h1 := hu ((CoreIs.refl k s).onCore (fun c => c.oox false))
    cases v
    · exact h1
    · have h2 := State.release_of_others (s := u (s.onCore k (fun c => c.oox false))) (k := k) (t := q.via) fun x hx => by
        rw [h1.2]
        exact hr rfl x hx
      rw [h1.2] at h2
      exact h1.trans h2

/-! A MARK in a load queue (R199, R252). -/

variable {l : QLoad} {sc : Scope}

/-- A MARK waits while an earlier store stands in its queue. -/
theorem State.performLoad_mark_waits (hl : (s.core k).loadsOf v = [l]) (ho : l.op = .mark sc) (hq : (s.core k).storesOf v = q :: qs)
    (hs : q.seq < l.seq) : s.performLoad k v = .waits := by
  have hc (p : QStore) : (s.core k).clash l p = false := by simp [Core.clash, Core.loadRuns, ho]
  simp [State.performLoad, hl, ho, hq, hs, hc]

/-- A MARK performs once no store stands before it, where its scope can be reached. -/
theorem State.performLoad_mark (hl : (s.core k).loadsOf v = [l]) (ho : l.op = .mark sc) (ht : l.tok = none)
    (hq : (s.core k).storesOf v = []) : s.performLoad k v =
      (let u := (s.onCore k (fun c => c.setLoads v [])).widen k sc; if u.reached k sc then .done u else .waits) := by
  simp [State.performLoad, hl, ho, hq, ht, State.release]

theorem loadsBefore_of_lt {c : Core} (hl : c.loadsOf v = [l]) (hs : q.seq < l.seq) : c.loadsBefore v q = [] := by
  simp [Core.loadsBefore, hl, hs.le]

/-- The loads of a stream are awaited as long as one stands. -/
theorem Core.meetsGoal_loads {c : Core} (hl : c.loadsOf v = [l]) : c.meetsGoal v .loads = false := by
  simp [Core.meetsGoal, hl]

theorem Core.loadsOf_emptied (c : Core) (v : Bool) (ws : List VisStore) (ms : Sparse Mte) :
    (c.emptied v ws ms).loadsOf v = c.loadsOf v := by
  cases v <;> rfl

theorem Core.storesOf_emptied (c : Core) (v : Bool) (ws : List VisStore) (ms : Sparse Mte) :
    (c.emptied v ws ms).storesOf v = [] := by
  cases v <;> rfl

/-- The stores before a MARK leave their queue one by one, each as it stood at core scope before. -/
theorem State.runQueues_before_mark (ho : l.op = .mark sc) : ∀ (qs : List QStore) (s : State), (s.core k).loadsOf v = [l] →
    (s.core k).storesOf v = qs → (∀ q, q ∈ qs → q.seq < l.seq) → MayLeave s k v qs →
    ∃ r ms, State.runQueues (qs.length + 1) s k v .loads = State.runQueues 1 r k v .loads ∧ GaveUp (s.core k) v qs ms ∧
      CoreIs k ((s.core k).emptied v (qs.map (fun q => s.shown k v q)) ms) s r
  | [], s, _, hq, _, _ => ⟨s, (s.core k).mtes, rfl, ⟨fun _ => rfl, fun _ _ => rfl⟩, onlyCore_refl k s, (Core.emptied_nil hq).symm⟩
  | q :: qs, s, hl, hq, hs, hm => by
    have hv := hm.1 q List.mem_cons_self
    have hlt := hs q List.mem_cons_self
    obtain ⟨u, hu, hc⟩ := State.popStore_past (loadsBefore_of_lt hl hlt) hq hv fun hv x hx => by
      have := hm.2 hv q List.mem_cons_self x hx
      rw [List.countP_cons, hx] at this
      simp only [Option.map_some, beq_self_eq_true, if_true] at this
      omega
    obtain ⟨r, ms, hr, hms, hcr⟩ := State.runQueues_before_mark ho qs u (by rw [hc.2, Core.loadsOf_popped, hl])
      (by rw [hc.2, Core.storesOf_popped]) (fun p hp => hs p (List.mem_cons_of_mem _ hp)) (hm.tail hc)
    refine ⟨r, ms, ?_, (hc.2 ▸ hms).cons, ?_⟩
    · rw [List.length_cons, State.runQueues, Core.meetsGoal_loads hl, State.performLoad_mark_waits hl ho hq hlt, hu]
      exact hr
    · have hsr : (s.core k).SameReach (u.core k) := hc.2 ▸ (s.core k).sameReach_popped v qs q.via _
      simp only [State.shown_congr hc.mem hsr, hc.2, Core.emptied_popped] at hcr
      exact hc.trans hcr

/-- A MARK performs once the stores before it have left, where its scope can be reached. -/
theorem State.runAll_mark (hl : (s.core k).loadsOf v = [l]) (ho : l.op = .mark sc) (ht : l.tok = none)
    (hs : ∀ q, q ∈ (s.core k).storesOf v → q.seq < l.seq) (hm : MayLeave s k v ((s.core k).storesOf v)) :
    ∃ r ms, GaveUp (s.core k) v ((s.core k).storesOf v) ms ∧
      CoreIs k ((s.core k).emptied v (((s.core k).storesOf v).map (fun q => s.shown k v q)) ms) s r ∧
      (((r.onCore k (fun c => c.setLoads v [])).widen k sc).reached k sc = true →
        (s.runAll k v .loads).1 = (r.onCore k (fun c => c.setLoads v [])).widen k sc) := by
  obtain ⟨r, ms, hr, hms, hc⟩ := State.runQueues_before_mark ho _ s hl rfl hs hm
  refine ⟨r, ms, hms, hc, fun hre => ?_⟩
  have hl' : (r.core k).loadsOf v = [l] := by rw [hc.2, Core.loadsOf_emptied, hl]
  have hq' : (r.core k).storesOf v = [] := by rw [hc.2, Core.storesOf_emptied]
  have hn : (s.core k).queued v = ((s.core k).storesOf v).length + 1 := by
    rw [Core.queued, hl, List.length_singleton, Nat.add_comm]
  rw [State.runAll, hn, hr, State.runQueues, Core.meetsGoal_loads hl', State.performLoad_mark hl' ho ht hq']
  simp only [hre, if_true, Bool.false_eq_true, if_false, reduceCtorEq]
  rfl

/-- A stream whose oldest load waits and whose oldest store cannot leave goes no further. -/
theorem State.runAll_stuck {g : Goal} (hg : (s.core k).meetsGoal v g = false) (hl : s.performLoad k v = .waits)
    (hq : s.popStore k v = none) : s.runAll k v g = (s, false) := by
  unfold State.runAll
  cases (s.core k).queued v with
  | zero => rfl
  | succ n =>
    rw [State.runQueues, hg, hl, hq]
    simp

/-- Queues that are run for their loads alone stay as they are where no load stands. -/
theorem State.runQueues_idle (h : (s.core k).loadsOf v = []) (n : Nat) : State.runQueues n s k v .loads = (s, false) := by
  cases n with
  | zero => rfl
  | succ n => exact if_pos (by simp [Core.meetsGoal, h])

end

/-- An access through a STALE token is held (R93). -/
theorem State.access_stale {s : State} {k : Nat} {t : Option Tok} (h : ((s.core k).mteOf t).st = .stale) (b : MaskBit) (r w : Bool)
    (bs : List (Nat × Nat × Nat)) : ∃ x, s.access k t b r w bs = .hold x := by
  simp only [State.access, h]
  exact ⟨_, rfl⟩

/-- The oldest store of a stream that is held stays where it is. -/
theorem Stuck.popStore {s : State} {k : Nat} {v : Bool} (h : Stuck s k v) : s.popStore k v = none := by
  obtain ⟨-, q, qs, hq, ht, -, hst⟩ := h
  obtain ⟨x, hx⟩ := State.access_stale hst (if v then .v else .s) false true ((s.core k).storeBytes q).2.2
  exact State.popStore_of_held hq ht hx

/-- A release waits for a store that is held (R252). -/
theorem Stuck.settle {s : State} {k : Nat} {v : Bool} (h : Stuck s k v) (sc : Scope) : s.settle k v sc = (s, .waits) := by
  have hp := h.popStore
  obtain ⟨hl, q, qs, hq, ht, -⟩ := h
  have hst : q.op.stores = true := by rcases StoreOp.tokened_cases ht with ⟨off, d, hop⟩ | ⟨w, hop⟩ <;> rw [hop] <;> rfl
  have hg : (s.core k).meetsGoal v .all = false := by simp [Core.meetsGoal, hq, hst]
  have hw : s.performLoad k v = .waits := by simp only [State.performLoad, hl]
  rw [State.settle, State.settleFor, State.runAll_stuck hg hw hp, hg]
  rfl

end Sys2Proof.Machine
end

section
/-! PROOF. O43: the synchronisation words and the loops of the V-stream (R78, R150, R151). -/

namespace Sys2Proof.Machine

open Sys2Proof

variable {s : State}

/-- The x, v, p and a-registers of the current core are as before. -/
def RegsKept (s u : State) : Prop :=
  (∀ x, u.me.xr x = s.me.xr x) ∧ (∀ x, u.me.vr x = s.me.vr x) ∧ (∀ x, u.me.pr x = s.me.pr x) ∧ ∀ x, u.me.ar x = s.me.ar x

/-- Two cores with the same registers. -/
theorem RegsKept.of_me {u : State} {c : Core} (hc : u.me = c) (hs : c.s.x = s.me.s.x) (hv : c.v.v = s.me.v.v) (hp : c.v.p = s.me.v.p)
    (ha : c.v.a = s.me.v.a) : RegsKept s u := by
  subst hc
  refine ⟨fun x => ?_, fun x => ?_, fun x => ?_, fun x => ?_⟩
  · simp only [Core.xr, hs]
  · simp only [Core.vr, hv]
  · simp only [Core.pr, hp]
  · simp only [Core.ar, ha]

/-- A V word that leaves what `f` makes of the current core goes on. -/
theorem CoreIs.retireV {c : Core} {t : State} (h : CoreIs s.curN c s t) (f : Core → Core) :
    CoreIs s.curN (f c).advanceV s (t.setMe (f t.me)).retireV := by
  have h1 := (h.setCore (f c)).onCore Core.advanceV
  have e : t.setMe (f t.me) = t.setCore s.curN (f c) := by rw [State.setMe_eq_setCore, h.1.curN, h.me]
  rw [e]
  change CoreIs s.curN _ s (State.onCore _ (t.setCore s.curN (f c)).curN Core.advanceV)
  rw [State.setCore_curN, h.1.curN]
  exact h1

/-! VPOST and VWAIT (R150, R198, R220). -/

theorem GaveUp.givenUp {ms : Sparse Mte} {u : State} (h : GaveUp s.me true s.me.v.queue ms) (hu : u.me.mtes = ms) :
    GivenUp s u s.me.v.queue := by
  intro j
  rw [Core.mte, hu]
  exact h.2 rfl j

/-- A VPOST that its stream's stores keep back (R150). -/
theorem waitsV_vpost (st : VStall) (n : SemId) (h : Stuck s s.curN true) : WaitsV (.vpost st n) s .queues := by
  refine waitsV_of ?_
  change execVpost st n s = _
  rw [execVpost, State.releaseV, h.settle]
  rfl

/-- What VPOST leaves of its semaphore. -/
theorem Sem.raised_count_of_lt {m : Sem} (h : m.count.toNat < 65535) :
    (m.raised false).count.toNat = m.count.toNat + 1 ∧ (m.raised false).err = m.err := by
  have hne : m.count ≠ 0xFFFF#16 := fun he => by rw [he] at h; exact absurd h (by decide)
  rw [Sem.raised, if_neg hne]
  refine ⟨?_, Bool.or_false _⟩
  rw [BitVec.toNat_add_of_lt (by simpa using by omega)]
  rfl

theorem Sem.raised_of_full {m : Sem} (h : m.count.toNat = 65535) : m.raised false = { count := 65535, err := true } :=
  if_pos (BitVec.eq_of_toNat_eq h)

theorem does_vpost (st : VStall) (n : SemId) (h : Ready s s.curN true) : Does (.vpost st n) s (fun u =>
    (RegsKept s u ∧ (∀ j : SemId, j ≠ n → u.me.sem j.toNat = s.me.sem j.toNat) ∧ u.mem = s.mem ∧ OnlyCore s.curN s u) ∧
    u.me.v.eng = s.me.v.eng.advance 1 ∧ u.me.v.queue = [] ∧ u.me.buffer = s.me.buffer ++ s.queueShown true ∧
    GivenUp s u s.me.v.queue ∧ u.me.sem n.toNat = s.me.semRaised n false n ∧ (n ≠ 0 → u.me.s.latch = true)) := by
  obtain ⟨t, ms, ht, hms, hc⟩ := State.settle_of_ready h .core
  have he : exec (.vpost st n) s = .next (t.setMe (t.me.raise n false)).retireV := by
    change execVpost st n s = _
    rw [execVpost, State.releaseV, ht]
    rfl
  have hu := hc.retireV (fun c => c.raise n false)
  obtain ⟨c, hce⟩ : ∃ c, c = s.me.emptied true (s.queueShown true) ms := ⟨_, rfl⟩
  have hr : (t.setMe (t.me.raise n false)).retireV.me = (c.raise n false).advanceV := hce ▸ hu.me
  have hsem (j : SemId) : (t.setMe (t.me.raise n false)).retireV.me.sem j.toNat = s.me.semRaised n false j := by
    rw [hr]
    exact (c.sem_raise n j false).trans (by rw [hce]; rfl)
  have hme := hr.trans (congrArg Core.advanceV (c.raise_eq n false))
  subst hce
  refine ⟨_, he, ⟨.of_me hme rfl rfl rfl rfl, fun j hj => ?_, hu.mem, hu.1⟩, by rw [hme]; rfl, by rw [hme]; rfl, by rw [hme]; rfl,
    hms.givenUp (by rw [hme]; rfl), hsem n, fun hn => ?_⟩
  · rw [hsem, Core.semRaised, if_neg fun h => hj h.1]
  · rw [hr, Core.raise, if_neg (show ¬ n = 0#6 from hn)]
    rfl

/-- VWAIT whose count suffices. -/
theorem does_vwait (st : VStall) (n : SemId) (h : s.me.ahead n .v < (s.me.sem n.toNat).count.toNat) : Does (.vwait st n) s (fun u =>
    (RegsKept s u ∧ (∀ j : SemId, j ≠ n → u.me.sem j.toNat = s.me.sem j.toNat) ∧ u.mem = s.mem ∧ OnlyCore s.curN s u) ∧
    u.me.v.eng = s.me.v.eng.advance 1 ∧ (u.me.sem n.toNat).count.toNat = (s.me.sem n.toNat).count.toNat - 1) := by
  have he : exec (.vwait st n) s = .next (s.setMe (s.me.await n .v false).1).retireV := by
    change execVwait st n s = _
    rw [execVwait, if_pos (show s.me.mayAwait n .v = true from decide_eq_true h)]
  have hu := (CoreIs.refl s.curN s).retireV (fun c => (c.await n .v false).1)
  have hme := hu.me
  have hsem (j : SemId) : (s.setMe (s.me.await n .v false).1).retireV.me.sem j.toNat =
      if j = n then { (s.me.sem n.toNat) with count := (s.me.sem n.toNat).count - 1#16 } else s.me.sem j.toNat := by
    rw [hme]
    refine (Sparse.get_put _ _ _ _).trans (if_congr BitVec.toNat_inj ?_ rfl)
    exact congrArg (Sem.mk _) (Bool.and_true _)
  refine ⟨_, he, ⟨.of_me hme rfl rfl rfl rfl, fun j hj => by rw [hsem, if_neg hj], hu.mem, hu.1⟩, by rw [hme]; rfl, ?_⟩
  rw [hsem, if_pos rfl]
  exact BitVec.toNat_sub_of_le (BitVec.le_def.2 (by simpa using by omega))

/-- VWAIT whose count does not suffice. -/
theorem does_vwait_waits (st : VStall) (n : SemId) (h : (s.me.sem n.toNat).count.toNat ≤ s.me.ahead n .v) :
    Does (.vwait st n) s (fun u =>
    (RegsKept s u ∧ (∀ j : SemId, j ≠ n → u.me.sem j.toNat = s.me.sem j.toNat) ∧ u.mem = s.mem ∧ OnlyCore s.curN s u) ∧
    u.me.v.eng = s.me.v.eng ∧ u.me.v.wait = some (.sem n) ∧ u.me.sem n.toNat = s.me.sem n.toNat ∧ (n, .v) ∈ u.me.waiters) := by
  have he : exec (.vwait st n) s = .next (s.setMe ((s.me.beginWait n .v).waitV (.sem n))) := by
    change execVwait st n s = _
    rw [execVwait, if_neg (show ¬ s.me.mayAwait n .v = true from fun hm => absurd (of_decide_eq_true hm) (by omega))]
  have hb : s.me.beginWait n .v = { s.me with waiters := (s.me.beginWait n .v).waiters } := by
    unfold Core.beginWait
    split <;> rfl
  have hme := (State.me_setMe s ((s.me.beginWait n .v).waitV (.sem n))).trans (congrArg (fun c => Core.waitV c (.sem n)) hb)
  refine ⟨_, he, ⟨.of_me hme rfl rfl rfl rfl, fun j _ => by rw [hme]; rfl, rfl, onlyCore_setMe _ _⟩, by rw [hme]; rfl,
    by rw [hme]; rfl, by rw [hme]; rfl, ?_⟩
  rw [State.me_setMe]
  change (n, Agent.v) ∈ (s.me.beginWait n .v).waiters
  unfold Core.beginWait
  split
  · next hc => exact List.contains_iff_mem.1 hc
  · exact List.mem_append_right _ (List.mem_singleton_self _)

/-! VMARK (R150, R252). -/

/-- The core once a V word stands in its load queue. -/
def Core.enteredV (c : Core) (l : QLoad) : Core :=
  { c with v := { c.v with
    eng := c.v.eng.advance 1
    wait := none
    loads := c.v.loads ++ [{ l with pc := c.s.pc, seq := c.v.seq, word := some c.v.eng }]
    seq := c.v.seq + 1 } }

/-- The state once a V word without a token stands in its load queue. -/
theorem State.coreIs_enteredV (l : QLoad) (h : l.tok = none) :
    CoreIs s.curN (s.me.enteredV l) s (s.pushLoad s.curN true { l with word := some s.me.v.eng }).retireV := by
  have h1 := ((CoreIs.refl s.curN s).setCore
    ((s.me.setLoads true (s.me.v.loads ++ [{ l with pc := s.me.s.pc, seq := s.me.v.seq, word := some s.me.v.eng }])).bump true)).onCore
      Core.advanceV
  have hp : s.pushLoad s.curN true { l with word := some s.me.v.eng } = s.setCore s.curN
      ((s.me.setLoads true (s.me.v.loads ++ [{ l with pc := s.me.s.pc, seq := s.me.v.seq, word := some s.me.v.eng }])).bump true) := by
    rw [State.pushLoad, if_pos rfl]
    simp only [h]
    rfl
  rw [hp]
  exact h1

/-- A V word without a token that stays in its load queue. -/
theorem entersLoadV_of {i : Instr} {l : QLoad} (ht : l.tok = none) (h : exec i s = .next (s.loadV l))
    (he : ∀ u, CoreIs s.curN (s.me.enteredV l) s u → u.eager true = u) : EntersLoadV i s l := by
  have hu := State.coreIs_enteredV (s := s) l ht
  have hl : s.loadV l = _ := he _ hu
  rw [hl] at h
  refine ⟨_, h, hu.1, fun j => ?_, ?_⟩
  · rw [hu.me, ht]
    rfl
  · rw [hu.me]
    rfl

theorem State.eager_of_lazy {u : State} (h : u.lazy = true) (v : Bool) : u.eager v = u := if_pos h

theorem State.eager_of_stuck {u : State} {v : Bool} (hg : (u.core u.curN).meetsGoal v .loads = false)
    (hl : u.performLoad u.curN v = .waits) (hq : u.popStore u.curN v = none) : u.eager v = u := by
  unfold State.eager
  rw [State.runAll_stuck hg hl hq]
  exact ite_self _

section
variable {sc : Scope} (st : VStall)

/-- The MARK of a VMARK in its load queue. -/
def vmarkLoad (s : State) (sc : Scope) : QLoad :=
  { op := .mark sc, pc := s.me.s.pc, seq := s.me.v.seq, word := some s.me.v.eng }

theorem CoreIs.loadsOf_vmark {u : State} (hu : CoreIs s.curN (s.me.enteredV { op := .mark sc }) s u) (hl : s.me.v.loads = []) :
    (u.core s.curN).loadsOf true = [vmarkLoad s sc] := by
  rw [hu.2]
  change s.me.v.loads ++ _ = _
  rw [hl]
  rfl

theorem entersLoadV_vmark_lazy (h : s.lazy = true) : EntersLoadV (.vmark st sc) s { op := .mark sc } :=
  entersLoadV_of rfl rfl fun u hu => State.eager_of_lazy (by rw [hu.1.1]; exact h) true

theorem entersLoadV_vmark_stuck (h : Stuck s s.curN true) : EntersLoadV (.vmark st sc) s { op := .mark sc } := by
  refine entersLoadV_of rfl rfl fun u hu => ?_
  have hcur := hu.1.curN
  obtain ⟨hl, q, qs, hq, ht, hlt, hst⟩ := h
  have hl' := hu.loadsOf_vmark hl
  have hq' : (u.core s.curN).storesOf true = q :: qs := by rw [hu.2]; exact hq
  have hst' : ((u.core s.curN).mteOf q.via).st = .stale := by rw [hu.2]; exact hst
  obtain ⟨x, hx⟩ := State.access_stale hst' .v false true ((u.core s.curN).storeBytes q).2.2
  refine State.eager_of_stuck ?_ ?_ ?_ <;> rw [hcur]
  · exact Core.meetsGoal_loads hl'
  · exact State.performLoad_mark_waits hl' rfl hq' hlt
  · exact State.popStore_of_held hq' ht hx

theorem entersLoadV_vmark_unwritten (hp : Prompt s s.curN true) (hb : NoBuffer s s.curN) (hw : s.unwritten s.curN = true) :
    EntersLoadV (.vmark st .system) s { op := .mark .system } := by
  refine entersLoadV_of rfl rfl fun u hu => ?_
  have hcur := hu.1.curN
  obtain ⟨-, hl, hq⟩ := hp
  have hl' := hu.loadsOf_vmark hl
  have hq' : (u.core s.curN).storesOf true = [] := by rw [hu.2]; exact hq
  refine State.eager_of_stuck ?_ ?_ ?_ <;> rw [hcur]
  · exact Core.meetsGoal_loads hl'
  · let r := u.onCore s.curN (fun c => c.setLoads true [])
    have hr : CoreIs s.curN ((s.me.enteredV { op := .mark .system }).setLoads true []) s r := hu.onCore _
    have hnone : r.toShow s.curN = [] := by
      have hpan (b : Nat) : r.panel b = s.panel b := by rw [hr.1.1]; rfl
      have hshow : r.toShow s.curN = (if s.me.panel.size = 0#5 then [] else (s.panel (s.me.panelBase s.curN)).buffer) ++
          s.me.buffer.map (fun q => (s.curN, q)) := by
        rw [State.toShow, hr.2, hpan]
        rfl
      rw [hshow, show s.me.buffer = [] from hb.1, List.map_nil, List.append_nil]
      split
      · rfl
      · next h0 => exact hb.2 h0
    have hf := State.flushed (h := True) r s.curN fun e he => absurd he (by rw [hnone]; exact List.not_mem_nil)
    have hst : (r.flush s.curN).unwritten s.curN = true := by
      rw [State.unwritten, hf.stored trivial, hr.mem]
      exact hw
    have hre : (r.widen s.curN .system).reached s.curN .system = false := by
      change (Scope.system != .system || !(r.flush s.curN).unwritten s.curN) = false
      rw [hst]
      rfl
    rw [State.performLoad_mark hl' rfl rfl hq']
    exact if_neg (by rw [hre]; exact Bool.false_ne_true)
  · simp only [State.popStore, hq']

theorem does_vmark (hz : s.lazy = false) (h : Ready s s.curN true) (hn : sc = .system → NoHost s (s.queueShown true)) :
    Does (.vmark st sc) s (fun u => RegsKept s u ∧ u.me.v.eng = s.me.v.eng.advance 1 ∧
      u.me.v.queue = [] ∧ u.me.v.loads = [] ∧ GivenUp s u s.me.v.queue ∧ Widened s u sc (s.queueShown true)) := by
  have hu := State.coreIs_enteredV (s := s) { op := .mark sc } rfl
  obtain ⟨u, hue⟩ : ∃ u, u = (s.pushLoad s.curN true { op := .mark sc, word := some s.me.v.eng }).retireV := ⟨_, rfl⟩
  rw [← hue] at hu
  have hcur := hu.1.curN
  have hl' := hu.loadsOf_vmark h.1
  have hq' : (u.core s.curN).storesOf true = s.me.v.queue := by rw [hu.2]; rfl
  have hsr : (s.core s.curN).SameReach (u.core s.curN) := by rw [hu.2]; exact Core.SameReach.refl s.me
  have hm : MayLeave u s.curN true ((u.core s.curN).storesOf true) := by
    obtain ⟨h1, h2⟩ := h.mayLeave
    rw [hq']
    refine ⟨fun q hq => (h1 q hq).congr hu.mem hsr, fun hv q hq x hx => ?_⟩
    rw [hu.2]
    exact h2 hv q hq x hx
  obtain ⟨r, ms, hms, hr, hdone⟩ := State.runAll_mark (sc := sc) hl' rfl rfl (fun q hq => by rw [hq'] at hq; exact (h.2 q hq).1) hm
  rw [hq'] at hms hr
  have hws : s.me.v.queue.map (fun q => u.shown s.curN true q) = s.queueShown true :=
    List.map_congr_left fun q _ => State.shown_congr hu.mem hsr true q
  rw [hws, hu.2] at hr
  rw [hu.2] at hms
  have hr' := hu.trans (hr.onCore (fun c => c.setLoads true []))
  obtain ⟨w, hw⟩ : ∃ w, w = r.onCore s.curN (fun c => c.setLoads true []) := ⟨_, rfl⟩
  rw [← hw] at hdone hr'
  have hre := reached_of_noHost hr'.1 (by rw [hr'.me]; rfl) (by rw [hr'.me]; rfl) hn
  have hx : exec (.vmark st sc) s = .next (w.widen s.curN sc) := by
    have hl : s.loadV { op := .mark sc } = (u.runAll u.curN true .loads).1 := by
      rw [hue]
      exact if_neg (by rw [← hue, hu.1.1]; simp [hz])
    rw [hcur, hdone hre] at hl
    exact congrArg _ hl
  obtain ⟨hwc, b, m, n, x, y, hk⟩ := State.widen_core w s.curN sc
  rw [hr'.2] at hk
  have hme : (w.widen s.curN sc).me = _ := (by rw [State.me, hwc, hr'.1.curN] : _ = (w.widen s.curN sc).core s.curN).trans hk
  refine ⟨_, hx, .of_me hme rfl rfl rfl rfl, by rw [hme]; rfl, by rw [hme]; rfl, by rw [hme]; rfl, ?_,
    widened_of_buffer hr'.1 (by rw [hr'.me]; rfl) (by rw [hr'.me]; rfl) (by rw [hr'.me]; rfl) sc⟩
  exact GaveUp.givenUp (ms := ms) hms (by rw [hme]; rfl)

end

/-! VLOOP and VEND (R78, R151). -/

/-- A loop that does not reach past the innermost one. -/
theorem Engine.beginLoop_inside {g : Engine} {n len count : Nat} (h : ¬ g.past len) : g.beginLoop n len count =
    if count = 0 then some { g.advance n with skip := len }
    else if 4 ≤ g.loops.length then none
    else some { g with
      loops := ⟨g.pos + 1, g.pos + len, count, g.after g.rp n⟩ :: g.loops, pos := g.pos + 1, rp := g.after g.rp n } := by
  unfold Engine.beginLoop
  dsimp only
  cases hl : g.loops with
  | nil => rfl
  | cons l ls =>
    have hp : ¬ l.last < g.pos + len := fun hp => h ⟨l, ls, hl, hp⟩
    simp only [hp, decide_false, Bool.false_eq_true, if_false]

theorem Engine.beginLoop_past {g : Engine} {n len count : Nat} (h : g.past len) : g.beginLoop n len count = none := by
  obtain ⟨l, ls, hl, hp⟩ := h
  simp [Engine.beginLoop, hl, hp]

section
variable {st : VStall} {len : BitVec 5} {count : BitVec 16}

theorem illegalV_vloop (h : s.me.v.eng.beginLoop 1 len.toNat count.toNat = none) : IllegalV (.vloop st len count) s := by
  refine illegalV_of ?_
  change execVloop st len count s = _
  rw [execVloop, h]

theorem does_vloop {e : Engine} (h : s.me.v.eng.beginLoop 1 len.toNat count.toNat = some e) :
    Does (.vloop st len count) s (fun u => OnlyCore s.curN s u ∧ RegsKept s u ∧ u.me.v.eng = e) := by
  have hx : exec (.vloop st len count) s = .next (s.setMe (s.me.onV (fun v => { v with eng := e, wait := none }))) := by
    change execVloop st len count s = _
    rw [execVloop, h]
  exact ⟨_, hx, onlyCore_setMe _ _, .of_me (State.me_setMe _ _) rfl rfl rfl rfl, by rw [State.me_setMe]; rfl⟩

end

theorem Engine.inner_iff (e : Engine) : e.inner = true ↔ ∃ l, l ∈ e.loops ∧ 1 < l.left := by
  simp [Engine.inner]

theorem retiresV_vend (h : s.me.v.eng.inner = true) : RetiresV .vend s (fun c => c) := by
  have hx : exec .vend s = .next s.retireV := by
    change execVend s = _
    rw [execVend, if_pos h]
  exact ⟨_, hx, onlyCore_setMe _ _, (State.me_setMe _ _).trans rfl⟩

theorem does_vend (h : ¬ s.me.v.eng.inner = true) : Does .vend s (fun u => OnlyCore s.curN s u ∧ RegsKept s u ∧
    u.me.v.eng.st = .ended ∧ u.me.v.eng.pos = (s.me.v.eng.advance 1).pos ∧ u.me.s.latch = true) := by
  have hx : exec .vend s = .next (s.setMe ((s.me.advanceV).endEngine .v .ended)) := by
    change execVend s = _
    rw [execVend, if_neg h]
  have hme := State.me_setMe s ((s.me.advanceV).endEngine .v .ended)
  exact ⟨_, hx, onlyCore_setMe _ _, .of_me hme rfl rfl rfl rfl, by rw [hme]; rfl, by rw [hme]; rfl, by rw [hme]; rfl⟩

/-- Settles O43, word by word: VPOST and VMARK are releases, VWAIT an await, VLOOP and VEND act on the loops of the engine. -/
theorem vectorSynchronisationAndLoops : Obligations.VectorSynchronisationAndLoops := by
  intro st n sc len count s e old regs others
  refine ⟨waitsV_vpost st n, fun h => ?_, does_vwait st n, does_vwait_waits st n,
    fun h => h.elim (entersLoadV_vmark_lazy st) (entersLoadV_vmark_stuck st), entersLoadV_vmark_unwritten st, does_vmark st, ?_,
    fun h => retiresV_vend ((Engine.inner_iff _).2 h), fun h => does_vend fun hi => ?_⟩
  · obtain ⟨u, hx, ho, he, hq, hb, hg, hs, hl⟩ := does_vpost st n h
    refine ⟨u, hx, ho, he, hq, hb, hg, fun h0 => ?_, fun h0 => ⟨hl h0, fun hc => ?_, fun hc => ?_⟩⟩
    · subst h0
      exact hs.trans (if_neg fun h => h.2 rfl)
    all_goals rw [hs, Core.semRaised, if_pos ⟨rfl, h0⟩]
    · exact Sem.raised_count_of_lt hc
    · exact Sem.raised_of_full hc
  · have hz : count.toNat = 0 ↔ count = 0 := by rw [← BitVec.toNat_inj]; rfl
    refine ⟨fun h => illegalV_vloop (Engine.beginLoop_past h), fun h hc => does_vloop ?_, fun h hc h4 => illegalV_vloop ?_,
      fun h hc h4 => does_vloop ?_⟩ <;> rw [Engine.beginLoop_inside h]
    · rw [if_pos (hz.2 hc)]
    · rw [if_neg (mt hz.1 hc), if_pos h4]
    · rw [if_neg (mt hz.1 hc), if_neg (Nat.not_le.2 h4)]
      rfl
  · obtain ⟨l, hl, h1⟩ := (Engine.inner_iff _).1 hi
    exact absurd (h l hl) (Nat.not_le.2 h1)

end Sys2Proof.Machine
end

section
/-! PROOF. FORK (R77, R189, R191, R192). -/

namespace Sys2Proof.Machine

open Sys2Proof

/-! A read of scratchpad changes no byte and nothing outside the cores' storage. -/

/-- No more has changed than marks of scratchpads and spill stores, and events of the Bench. -/
structure SpOnlyRead (s u : State) : Prop where
  cores : CoresRead s u
  mem : u.mem = s.mem
  bytes : ∀ j b, Sparse.get 0 (u.core j).spad.bytes b = Sparse.get 0 (s.core j).spad.bytes b

namespace SpOnlyRead

variable {s t u : State}

theorem refl (s : State) : SpOnlyRead s s := ⟨.refl s, rfl, fun _ _ => rfl⟩

theorem trans (h : SpOnlyRead s t) (h' : SpOnlyRead t u) : SpOnlyRead s u :=
  ⟨h.cores.trans h'.cores, h'.mem.trans h.mem, fun j b => (h'.bytes j b).trans (h.bytes j b)⟩

theorem mem_verify {e : Site} (he : ∀ u : State, ∀ m, (u.setStoreOf e m).mem = u.mem) (s : State) (a n : Nat) :
    (s.verify e a n).mem = s.mem :=
  foldl_keeps (P := fun t : State => t.mem = s.mem)
    (f := fun t q => (t.setStoreOf e ((t.storeOf e).poisonSector q)).tell (.poisoned (32 * q))) (fun t q ht => (he t ((t.storeOf e).poisonSector q)).trans ht) _ _ rfl

theorem verify_sp (s : State) (j a n : Nat) : SpOnlyRead s (s.verify (.sp j) a n) :=
  ⟨.verify_sp s j a n, mem_verify (fun _ _ => rfl) s a n,
    fun i b => congrArg (fun m => Sparse.get 0 m b) (bytes_verify s (.sp j) (.sp i) a n)⟩

theorem verify_spill (s : State) (j a n : Nat) : SpOnlyRead s (s.verify (.spill j) a n) :=
  ⟨.verify_spill s j a n, mem_verify (fun _ _ => rfl) s a n,
    fun i b => congrArg (fun m => Sparse.get 0 m b) (bytes_verify s (.spill j) (.sp i) a n)⟩

theorem spPieceBytes (s : State) (k : Nat) (p : SpPiece) : SpOnlyRead s (s.spPieceBytes k p).1 := by
  obtain ⟨loc, pos, addr, n⟩ := p
  cases loc with
  | mem j a => exact verify_sp s j a n
  | spill o => exact verify_spill s k o n
  | desc j o => exact refl s
  | aperture o => exact refl s
  | out => exact refl s

theorem spRead (s : State) (k : Nat) (v : Bool) (a n : Nat) : SpOnlyRead s (s.spRead k v a n).1 := by
  refine foldl_keeps (P := fun x : State × List PByte => SpOnlyRead s x.1) ?_ _ (s, []) (refl s)
  rintro ⟨t, d⟩ p h
  exact h.trans (spPieceBytes t k p)

end SpOnlyRead

/-! The ring table (R189). -/

/-- Where the entry of an engine's ring stands in a ring table. -/
def entryAt : RingSel → Nat
  | .v => 0
  | .m => 8
  | .c => 16

/-- The doubleword of an engine's entry. -/
def tabWord (d : List Byte) (j : RingSel) : Nat := field d (entryAt j) 8

/-- What R189 asks of an entry that is enabled. -/
def EntryOk (w : Nat) : Prop :=
  w / 2 ^ 56 % 2 ^ 7 = 0 ∧ w / 2 ^ 22 % 4 = 0 ∧ w % 2 ^ 22 % 4 = 0 ∧ 4 ≤ w / 2 ^ 24 % 2 ^ 16 ∧
    w / 2 ^ 40 % 2 ^ 16 < w / 2 ^ 24 % 2 ^ 16 ∧ w % 2 ^ 22 + 4 * (w / 2 ^ 24 % 2 ^ 16) ≤ 0x2FF000

theorem tabOf_eq (d : List Byte) : tabOf d = ringOrder.map (fun j => (j, tabEntry (tabWord d j))) := rfl

theorem tabEntry_en (w : Nat) : (tabEntry w).en = w.testBit 63 := by
  rw [Nat.testBit_eq_decide_div_mod_eq]
  rfl

theorem tabEntry_valid (w : Nat) : (tabEntry w).valid = true ↔ EntryOk w := by
  simp only [tabEntry, EntryOk, fld, Bool.and_eq_true, beq_iff_eq, and_assoc, pow_zero, Nat.div_one]
  exact and_congr_right fun _ => and_congr_right fun _ => and_congr_right fun _ =>
    and_congr decide_eq_true_iff (and_congr decide_eq_true_iff decide_eq_true_iff)

theorem tabEntry_base (w : Nat) : (tabEntry w).base = w % 2 ^ 22 := by simp [tabEntry, fld]

theorem mem_ringOrder (j : RingSel) : j ∈ ringOrder := by cases j <;> decide

theorem mem_tabOf {d : List Byte} {e : RingSel × TabEntry} (he : e ∈ tabOf d) : e = (e.1, tabEntry (tabWord d e.1)) := by
  rw [tabOf_eq] at he
  obtain ⟨j, -, rfl⟩ := List.mem_map.1 he
  rfl

theorem tabOf_invalid (d : List Byte) : (tabOf d).any (fun e => e.2.en && !e.2.valid) = true ↔
    ∃ j, (tabWord d j).testBit 63 = true ∧ ¬ EntryOk (tabWord d j) := by
  simp only [tabOf_eq, List.any_map, List.any_eq_true, Function.comp_apply, Bool.and_eq_true, Bool.not_eq_true', tabEntry_en,
    ← Bool.not_eq_true, tabEntry_valid]
  exact ⟨fun ⟨j, _, h⟩ => ⟨j, h⟩, fun ⟨j, h⟩ => ⟨j, mem_ringOrder j, h⟩⟩

/-- The running engines that a table starts. -/
def Core.busyOf (c : Core) (d : List Byte) : List RingSel :=
  ((tabOf d).filter (fun e => e.2.en && c.running e.1)).map (fun e => e.1)

theorem Core.mem_busyOf (c : Core) (d : List Byte) (j : RingSel) :
    j ∈ c.busyOf d ↔ (tabWord d j).testBit 63 = true ∧ c.running j = true := by
  simp only [Core.busyOf, List.mem_map, List.mem_filter, Bool.and_eq_true]
  constructor
  · rintro ⟨e, ⟨he, h1, h2⟩, rfl⟩
    rw [mem_tabOf he, tabEntry_en] at h1
    exact ⟨h1, h2⟩
  · rintro ⟨h1, h2⟩
    refine ⟨(j, tabEntry (tabWord d j)), ⟨?_, by rw [tabEntry_en]; exact h1, h2⟩, rfl⟩
    rw [tabOf_eq]
    exact List.mem_map_of_mem (mem_ringOrder j)

/-! What FORK makes of an engine (R192). -/

/-- An engine once FORK has acted on it. -/
def Engine.forked (g : Engine) (e : TabEntry) : Engine :=
  if e.en then { st := .running, base := e.base, size := e.size, rp := 0, wp := e.laid }
  else if g.st = .ended ∨ g.st = .stopped then { g with st := .idle }
  else g

theorem Core.setEngine_same (c : Core) (r : RingSel) : c.setEngine r (c.engine r) = c := by cases r <;> rfl

theorem Core.forkOne_eq (c : Core) (r : RingSel) (e : TabEntry) : c.forkOne r e = c.setEngine r ((c.engine r).forked e) := by
  unfold Core.forkOne Engine.forked
  split
  · rfl
  · cases h : (c.engine r).st <;> simp [Core.setEngine_same]

/-- The engines once FORK has acted on all three. -/
theorem Core.forkAll_eq (c : Core) (d : List Byte) : (tabOf d).foldl (fun c e => c.forkOne e.1 e.2) c = { c with
    v := { c.v with eng := c.v.eng.forked (tabEntry (tabWord d .v)) }
    m := { c.m with eng := c.m.eng.forked (tabEntry (tabWord d .m)) }
    c := { c.c with eng := c.c.eng.forked (tabEntry (tabWord d .c)) } } := by
  rw [tabOf_eq]
  simp only [ringOrder, List.map_cons, List.map_nil, List.foldl_cons, List.foldl_nil, Core.forkOne_eq]
  rfl

/-- The core once FORK has started its engines. -/
def Core.forked (c : Core) (d : List Byte) : Core :=
  ((tabOf d).foldl (fun c e => c.forkOne e.1 e.2) (c.onV (fun v => { v with
    vstStop := false, vstCode := 0, schk := c.s.schk
    wait := if (tabOf d).any (fun e => e.1 == .v && e.2.en) then none else v.wait }))).advance.onS (fun t => { t with forkTab := none })

theorem Core.forked_eq (c : Core) (d : List Byte) : ∃ w, c.forked d = { c with
    s := { c.s with pc := c.s.pc + 4#16, st := .running, forkTab := none }
    v := { c.v with
      eng := c.v.eng.forked (tabEntry (tabWord d .v)), vstStop := false, vstCode := 0, schk := c.s.schk, wait := w }
    m := { c.m with eng := c.m.eng.forked (tabEntry (tabWord d .m)) }
    c := { c.c with eng := c.c.eng.forked (tabEntry (tabWord d .c)) } } := by
  refine ⟨if (tabOf d).any (fun e => e.1 == .v && e.2.en) then none else c.v.wait, ?_⟩
  rw [Core.forked, Core.forkAll_eq]
  rfl

/-! FORK with its table (R192). -/

section
variable {s u : State} {d : List Byte}

theorem State.forkWith_busy (h : s.me.busyOf d ≠ []) : s.forkWith d =
    s.setMe ((s.me.waitS (.engines (s.me.busyOf d))).onS (fun t => { t with forkTab := some d })) := by
  refine if_pos ?_
  change (!(s.me.busyOf d).isEmpty) = true
  simpa using h

theorem State.forkWith_free {t : State} (h : s.me.busyOf d = []) (ht : s.settle s.curN false .core = (t, .done)) :
    s.forkWith d = t.setMe (t.me.forked d) := by
  have hr : s.releaseS .core (fun s => s.setMe (s.me.forked d)) = t.setMe (t.me.forked d) := by
    have hf : s.settleFor s.curN false .all .core = (t, .done) := ht
    rw [State.releaseS, State.onceS, hf]
  have hb : ¬ (!(s.me.busyOf d).isEmpty) = true := by simp [h]
  have hx : s.forkWith d = (match (s.releaseS .core (fun s => s.setMe (s.me.forked d))).me.s.st with
      | .waiting .queues => (s.releaseS .core (fun s => s.setMe (s.me.forked d))).setMe
        ((s.releaseS .core (fun s => s.setMe (s.me.forked d))).me.onS (fun t => { t with forkTab := some d }))
      | _ => s.releaseS .core (fun s => s.setMe (s.me.forked d))) := if_neg hb
  rw [hx, hr, State.me_setMe]
  rfl

/-- A state in which FORK goes on with its table: scratchpad has been read and SST may show it. -/
structure ForkFrom (s u : State) : Prop where
  cur : u.curN = s.curN
  mem : u.mem = s.mem
  me : ∃ m n f, u.me = { s.me with spad := m, v := { s.me.v with spill := n }, s := { s.me.s with sst := f } }
  bytes : ∀ b, Sparse.get 0 u.me.spad.bytes b = Sparse.get 0 s.me.spad.bytes b

theorem ForkFrom.refl (s : State) : ForkFrom s s := ⟨rfl, rfl, ⟨_, _, _, rfl⟩, fun _ => rfl⟩

theorem ForkFrom.of_read {r : State} (h : SpOnlyRead s r) (b : Bool) : ForkFrom s (r.setMe (r.me.oox b)) := by
  have hcur := h.cores.curN
  obtain ⟨m, n, hm⟩ := h.cores.2 s.curN
  have hme : r.me = { s.me with spad := m, v := { s.me.v with spill := n } } := by
    rw [State.me, hcur, hm]
    rfl
  refine ⟨hcur, h.mem, ?_, fun x => ?_⟩
  · rw [State.me_setMe, Core.oox]
    split
    · exact ⟨m, n, _, by rw [hme]; rfl⟩
    · exact ⟨m, n, _, hme⟩
  · rw [State.me_setMe, Core.oox_spad]
    have hb := h.bytes s.curN x
    rw [← hcur] at hb
    exact hb.trans (by rw [hcur]; rfl)

theorem ForkFrom.running (h : ForkFrom s u) (j : RingSel) : u.me.running j = s.me.running j := by
  obtain ⟨m, n, f, hme⟩ := h.me
  rw [hme]
  cases j <;> rfl

theorem ForkFrom.core (h : ForkFrom s u) : u.core s.curN = u.me := by rw [State.me, h.cur]

theorem ForkFrom.sameReach (h : ForkFrom s u) : (s.core s.curN).SameReach (u.core s.curN) := by
  obtain ⟨m, n, f, hme⟩ := h.me
  rw [h.core, hme]
  exact Core.SameReach.refl s.me

theorem ForkFrom.ready (h : ForkFrom s u) (hr : Ready s s.curN false) : Ready u s.curN false := by
  obtain ⟨m, n, f, hme⟩ := h.me
  obtain ⟨hl, hq⟩ := hr
  unfold Ready
  rw [h.core, hme]
  exact ⟨hl, fun q hm => ⟨(hq q hm).1, (hq q hm).2.1.congr h.mem h.sameReach, fun hf => absurd hf Bool.false_ne_true⟩⟩

/-- FORK waits for the engines that run and that it is to start. -/
theorem ForkFrom.waits (h : ForkFrom s u) (hb : ∃ j, (tabWord d j).testBit 63 = true ∧ s.me.running j = true) :
    OnlyCore s.curN u (u.forkWith d) ∧ (u.forkWith d).me.s.pc = s.me.s.pc ∧ (u.forkWith d).me.s.forkTab = some d ∧
      ∃ es, (u.forkWith d).me.s.st = .waiting (.engines es) ∧
        ∀ j, j ∈ es ↔ (tabWord d j).testBit 63 = true ∧ s.me.running j = true := by
  have hj (j : RingSel) : j ∈ u.me.busyOf d ↔ (tabWord d j).testBit 63 = true ∧ s.me.running j = true := by
    rw [Core.mem_busyOf, h.running]
  have hne : u.me.busyOf d ≠ [] := by
    obtain ⟨j, hb⟩ := hb
    exact List.ne_nil_of_mem ((hj j).2 hb)
  obtain ⟨m, n, f, hme⟩ := h.me
  rw [State.forkWith_busy hne, State.me_setMe]
  refine ⟨h.cur ▸ onlyCore_setMe u _, ?_, rfl, u.me.busyOf d, rfl, hj⟩
  change u.me.s.pc = _
  rw [hme]

/-- FORK starts the engines, which do not run. -/
theorem ForkFrom.starts (h : ForkFrom s u) (hb : ∀ j, (tabWord d j).testBit 63 = true → s.me.running j = false)
    (hr : Ready s s.curN false) :
    (∀ j, (u.forkWith d).me.engine j = (s.me.engine j).forked (tabEntry (tabWord d j))) ∧
    (u.forkWith d).me.v.schk = s.me.s.schk ∧ (u.forkWith d).me.v.vstStop = false ∧ (u.forkWith d).me.v.vstCode = 0 ∧
    (u.forkWith d).me.s.forkTab = none ∧ (u.forkWith d).me.s.queue = [] ∧
    (u.forkWith d).me.buffer = s.me.buffer ++ s.queueShown false ∧ (∀ n, (u.forkWith d).me.xr n = s.me.xr n) ∧
    (u.forkWith d).me.t = s.me.t ∧ NextWord s (u.forkWith d) ∧ (∀ b, (u.forkWith d).dev b = s.dev b) ∧
    ∀ b, Sparse.get 0 (u.forkWith d).me.spad.bytes b = Sparse.get 0 s.me.spad.bytes b := by
  have hbusy : u.me.busyOf d = [] := List.eq_nil_iff_forall_not_mem.2 fun j hj => by
    obtain ⟨h1, h2⟩ := (Core.mem_busyOf _ _ _).1 hj
    rw [h.running, hb j h1] at h2
    exact absurd h2 Bool.false_ne_true
  obtain ⟨t, ms, ht, hms, hc⟩ := State.settle_of_ready (h.ready hr) .core
  rw [← h.cur] at ht hms hc
  have hshown : ((u.core u.curN).storesOf false).map (fun q => u.shown u.curN false q) = s.queueShown false := by
    obtain ⟨m, n, f, hme⟩ := h.me
    have hq : (u.core u.curN).storesOf false = s.me.storesOf false := by
      change u.me.storesOf false = _
      rw [hme]
      rfl
    rw [hq, h.cur]
    exact List.map_congr_left fun q _ => State.shown_congr h.mem h.sameReach false q
  rw [hshown] at hc
  obtain ⟨w, hw⟩ := Core.forked_eq t.me d
  have htme : t.me = u.me.emptied false (s.queueShown false) ms := hc.me
  have hbytes := h.bytes
  have hmem := h.mem
  have hfork : u.forkWith d = t.setMe (t.me.forked d) := State.forkWith_free hbusy ht
  obtain ⟨m, n, f, hme⟩ := h.me
  rw [hme] at htme
  have hfin : (u.forkWith d).me = _ := (by rw [hfork, State.me_setMe] : _ = t.me.forked d).trans (hw.trans (by rw [htme]))
  refine ⟨fun j => ?_, by rw [hfin]; rfl, by rw [hfin], by rw [hfin], by rw [hfin], by rw [hfin]; rfl, by rw [hfin]; rfl,
    fun x => by rw [hfin]; rfl, by rw [hfin]; rfl, ⟨by rw [hfin]; rfl, by rw [hfin]⟩, fun b => ?_, fun b => ?_⟩
  · rw [hfin]
    cases j <;> rfl
  · rw [hfork, State.dev, State.setMe_mem, hc.mem, hmem]
    rfl
  · rw [hfin, ← hbytes b, hme]
    rfl

/-! FORK (R192). -/

/-- A FORK that has its table already. -/
theorem exec_fork_kept (st : SStall) (a : XReg) (h : s.me.s.forkTab = some d) : exec (.fork st a) s = .next (s.forkWith d) := by
  change execFork st a s = _
  rw [execFork, h]

/-- A FORK reads its table once no load and no store to its bytes stands before it. -/
theorem State.afterReads_of {a n : Nat} {f : State → State} (hl : s.me.s.loads = []) (hq : NoSpStore s false a n) :
    s.afterReads a n f = f s := by
  have hrun : s.runAll s.curN false .loads = (s, false) := State.runQueues_idle (show (s.core s.curN).loadsOf false = [] from hl) _
  have hover : WaitOn.over s s.curN .s (.reads a n) = true := by
    have hl' : (s.core s.curN).s.loads = [] := hl
    have hany : ((s.core s.curN).storesOf false).any
        (fun q => q.via.isNone && ((s.core s.curN).storeRuns q).any (fun r => runsMeet (a, n) r)) = false := by
      rw [List.any_eq_false]
      intro q hm
      cases hv : q.via with
      | none =>
        simp only [Option.isNone_none, Bool.true_and]
        exact Bool.eq_false_iff.1 (hq q hm hv)
      | some x => simp
    simp only [WaitOn.over, show (Agent.s == Agent.v) = false from rfl, hany, Core.loadsOf, hl']
    rfl
  have hreads (m : Nat) : State.runReads m s s.curN false a n = (s, false) := by
    cases m with
    | zero => exact hrun
    | succ m =>
      rw [State.runReads, hrun]
      exact if_pos (by rw [Bool.false_or]; exact hover)
  rw [State.afterReads, hreads]
  exact if_pos hover

/-- The table of a FORK that reads it. -/
def State.forkTable (s : State) (a : XReg) : State × List PByte × Bool := s.spRead s.curN false (s.me.xr a &&& ~~~7#64).toNat 24

theorem exec_fork_read (st : SStall) (a : XReg) (h : s.me.s.forkTab = none) (hl : s.me.s.loads = [])
    (hq : NoSpStore s false (s.me.xr a &&& ~~~7#64).toNat 24) : exec (.fork st a) s = .next (
      if (tabOf (plain (s.forkTable a).2.1)).any (fun e => e.2.en && !e.2.valid) then s.trapMe causeIllegal 0
      else ((s.forkTable a).1.setMe ((s.forkTable a).1.me.oox (s.forkTable a).2.2)).forkWith (plain (s.forkTable a).2.1)) := by
  change execFork st a s = _
  rw [execFork, h]
  exact congrArg _ (State.afterReads_of hl hq)

end

/-- Settles O21: the table is the one kept or the one read; what FORK then does to an engine is read off its entry. -/
theorem forkStartsEngines : Obligations.ForkStartsEngines := by
  intro st a s hl hsp read kept tab w en base size laid ok
  have hw (j : RingSel) : w j = tabWord tab j := rfl
  have hen (j : RingSel) : en j = (tabWord tab j).testBit 63 := rfl
  have hok (j : RingSel) : ok j ↔ EntryOk (tabWord tab j) := Iff.rfl
  have hfrom : (∀ j, kept = none → en j = true → ok j) → ∃ u, exec (.fork st a) s = .next (u.forkWith tab) ∧ ForkFrom s u ∧
      ∀ t, OnlyCore s.curN u t → OnlyCore s.curN (if kept = none then read.1 else s) t := by
    intro hv
    cases hk : kept with
    | some d =>
      have ht : tab = d := by simp only [tab, hk]; rfl
      refine ⟨s, ?_, .refl s, fun t h => by rw [if_neg (by simp)]; exact h⟩
      rw [ht]
      exact exec_fork_kept st a hk
    | none =>
      have ht : tab = plain read.2.1 := by simp only [tab, hk]; rfl
      have hread := SpOnlyRead.spRead s s.curN false (s.me.xr a &&& ~~~7#64).toNat 24
      refine ⟨read.1.setMe (read.1.me.oox read.2.2), ?_, .of_read hread _, fun t h => ?_⟩
      · rw [exec_fork_read st a hk hl (hsp hk), if_neg, ht]
        · rfl
        · intro hi
          obtain ⟨j, h1, h2⟩ := (tabOf_invalid _).1 hi
          refine h2 ?_
          change EntryOk (tabWord (plain read.2.1) j)
          rw [← ht]
          exact hv j hk (by rw [hen, ht]; exact h1)
      · rw [if_pos rfl]
        have hcur : read.1.curN = s.curN := hread.cores.curN
        exact onlyCore_trans (hcur ▸ onlyCore_setMe _ _) h
  refine ⟨fun j hk he hn hh => ?_, fun hv hb => ?_, fun hv hb hr => ?_⟩
  · have ht : tab = plain read.2.1 := by simp only [tab, hk]; rfl
    refine traps_of hh ?_
    rw [exec_fork_read st a hk hl (hsp hk), if_pos ((tabOf_invalid _).2 ⟨j, ?_⟩)]
    · rfl
    · change (tabWord (plain read.2.1) j).testBit 63 = true ∧ ¬ EntryOk (tabWord (plain read.2.1) j)
      rw [← ht]
      exact ⟨he, hn⟩
  · obtain ⟨u, hx, hu, ho⟩ := hfrom hv
    obtain ⟨h1, h2, h3, h4⟩ := hu.waits (d := tab) hb
    exact ⟨_, hx, ho _ h1, h2, h3, h4⟩
  · obtain ⟨u, hx, hu, -⟩ := hfrom hv
    obtain ⟨he, h⟩ := hu.starts (d := tab) hb hr
    refine ⟨_, hx, fun j => (he j).trans ?_, h⟩
    rw [Engine.forked, tabEntry_en, tabEntry_base]
    rfl

end Sys2Proof.Machine
end

section
/-! PROOF. Reads of memory through a token heed no S-stream and change memory and the events of the Bench alone (R93, R256, R339,
R356, R397). -/

namespace Sys2Proof.Machine

open Sys2Proof

/-- Two runs, from `s` and from `u`, stand at `t` and `v`: the same memory and Bench, and otherwise as they began. -/
structure Alike (s u t v : State) : Prop where
  left : t = { s with mem := t.mem, bench := t.bench }
  right : v = { u with mem := t.mem, bench := t.bench }

namespace Alike

variable {s u t v : State}

theorem mem (h : Alike s u t v) : v.mem = t.mem := by rw [h.right]

theorem bench (h : Alike s u t v) : v.bench = t.bench := by rw [h.right]

theorem refl (hm : u.mem = s.mem) (hb : u.bench = s.bench) : Alike s u s u := ⟨rfl, by rw [← hm, ← hb]⟩

/-- The same change of memory and Bench in both. -/
theorem change (h : Alike s u t v) (f : Mem → Mem) (g : Bench → Bench) :
    Alike s u { t with mem := f t.mem, bench := g t.bench } { v with mem := f v.mem, bench := g v.bench } := by
  refine ⟨?_, ?_⟩
  · have hl := h.left
    generalize t.mem = m at hl ⊢
    generalize t.bench = b at hl ⊢
    rw [hl]
  · rw [h.mem, h.bench, h.right]

theorem foldl {β : Type} {f : State → β → State} (hf : ∀ {t v}, ∀ b, Alike s u t v → Alike s u (f t b) (f v b)) (l : List β)
    (h : Alike s u t v) : Alike s u (l.foldl f t) (l.foldl f v) := by
  induction l generalizing t v with
  | nil => exact h
  | cons b l ih => exact ih (hf b h)

/-- Both runs give the same as well. -/
def Same {α : Type} (s u : State) (x y : State × α) : Prop := Alike s u x.1 y.1 ∧ y.2 = x.2

theorem foldl_same {β α : Type} {f : State × α → β → State × α}
    (hf : ∀ {x y}, ∀ b, Same s u x y → Same s u (f x b) (f y b)) (l : List β) {x y : State × α} (h : Same s u x y) :
    Same s u (l.foldl f x) (l.foldl f y) := by
  induction l generalizing x y with
  | nil => exact h
  | cons b l ih => exact ih (hf b h)

/-! Storage that is not a core's own. -/

theorem storeOf (h : Alike s u t v) {e : Site} (he : e = .dev ∨ e = .copy) : v.storeOf e = t.storeOf e := by
  rcases he with rfl | rfl <;> simp only [State.storeOf, h.mem]

theorem verify (h : Alike s u t v) {e : Site} (he : e = .dev ∨ e = .copy) (a n : Nat) : Alike s u (t.verify e a n) (v.verify e a n) := by
  unfold State.verify
  rw [h.storeOf he]
  refine foldl (fun q h => ?_) _ h
  rcases he with rfl | rfl
  · exact h.change (fun m => { m with dev := m.dev.poisonSector q }) (fun b => { b with events := b.events ++ [.poisoned (32 * q)] })
  · exact h.change (fun m => { m with hcopy := m.hcopy.poisonSector q })
      (fun b => { b with events := b.events ++ [.poisoned (32 * q)] })

theorem rawGet (h : Alike s u t v) {e : Site} (he : e = .dev ∨ e = .copy) (a n : Nat) :
    Same s u (t.rawGet e a n) (v.rawGet e a n) :=
  ⟨h.verify he a n, congrArg (fun m => m.get a n) ((h.verify he a n).storeOf he)⟩

theorem rawPut (h : Alike s u t v) (a : Nat) (d : List PByte) : Alike s u (t.rawPut .dev a d) (v.rawPut .dev a d) := by
  have hv {t v : State} (p : Prop) [Decidable p] (z : Nat) (h : Alike s u t v) :
      Alike s u (if p then t else t.verify .dev z 1) (if p then v else v.verify .dev z 1) := by
    split
    · exact h
    · exact h.verify (Or.inl rfl) z 1
  have hw {t v : State} (h : Alike s u t v) : Alike s u (t.setStoreOf .dev (t.mem.dev.write true a d))
      (v.setStoreOf .dev (v.mem.dev.write true a d)) := h.change (fun m => { m with dev := m.dev.write true a d }) id
  have hn {t v : State} (h : Alike s u t v) : Alike s u (t.noteWindow a (a + d.length)) (v.noteWindow a (a + d.length)) := by
    have hc := h.change (fun m => { m with rung := m.rung ++ (List.range ((a + d.length + 7) / 8 - max a windowBase / 8)).map (fun i =>
      (8 * (max a windowBase / 8 + i), leNat (Sparse.getList 0 m.dev.bytes (8 * (max a windowBase / 8 + i)) 8))) }) id
    exact hc
  unfold State.rawPut
  split
  · exact h
  · have h3 := hw (hv ((a + d.length) % 32 = 0) (a + d.length - 1) (hv (a % 32 = 0) a h))
    dsimp only
    split
    · exact hn h3
    · exact h3

/-! Migration (R356-R358). -/

theorem migPair (h : Alike s u t v) (a : Nat) : v.migPair a = t.migPair a := by simp only [State.migPair, h.mem]

theorem home (h : Alike s u t v) (a : Nat) : v.home a = t.home a := by simp only [State.home, h.migPair]

theorem tell (h : Alike s u t v) (e : BenchEvent) : Alike s u (t.tell e) (v.tell e) :=
  h.change id (fun b => { b with events := b.events ++ [e] })

theorem finishMig (h : Alike s u t v) (p : MigPair) : Alike s u (t.finishMig p) (v.finishMig p) := by
  unfold State.finishMig
  rw [h.home]
  obtain ⟨h1, h2⟩ := h.rawGet (Or.inl rfl) (t.home p.leafPa) 1
  dsimp only
  rw [h2]
  refine foldl (f := fun s q => s.tell (.unitFree q)) (fun q h => h.tell _) _ ?_
  exact (h1.rawPut _ _).change (fun m => (
    let n := (p.newUnit :: p.oldUnit :: p.olds).foldl (fun m u => (List.range p.units).foldl (fun m i =>
      m.setMig (u + i) false false 0) m) m
    { n with
      mig := n.mig.filter (fun q => q.ix != p.ix)
      walkCache := Sparse.put none (Sparse.put none n.walkCache (2 * p.leafPa) none) (2 * p.leafPa + 1) none })) id

theorem pullLine (h : Alike s u t v) (p : MigPair) (l : Nat) : Alike s u (t.pullLine p l) (v.pullLine p l) := by
  unfold State.pullLine
  have h1 := h.change (fun m => { m with
    dev := m.dev.copyLine (p.source l * 65536 + 128 * l) (p.newUnit * 65536 + 128 * l)
    mig := m.mig.map (fun q => if q.ix = p.ix then { p with missing := p.missing.filter (fun j => j != l) } else q) }) id
  split
  · exact h
  · dsimp only
    split
    · exact h1.finishMig _
    · exact h1

theorem touchLine (h : Alike s u t v) (a : Nat) : Alike s u (t.touchLine a) (v.touchLine a) := by
  unfold State.touchLine
  rw [h.migPair]
  split
  · exact h
  · split
    · exact h.pullLine _ _
    · exact h

/-! Reads of device and host memory. -/

theorem keyGet (h : Alike s u t v) (a n : Nat) (key : Option (BitVec 13)) : Same s u (t.keyGet a n key) (v.keyGet a n key) := by
  obtain ⟨h1, h2⟩ := h.rawGet (Or.inl rfl) a n
  refine ⟨h1, ?_⟩
  simp only [State.keyGet, State.keyIn, h1.mem, h1.bench, h2]

theorem devGet (h : Alike s u t v) (a n : Nat) (key : Option (BitVec 13)) : Same s u (t.devGet a n key) (v.devGet a n key) := by
  unfold State.devGet
  rw [h.mem]
  split
  · exact h.keyGet a n key
  · refine foldl_same (fun {x y} l hx => ?_) _ ⟨h, rfl⟩
    obtain ⟨t, d⟩ := x
    obtain ⟨v, d'⟩ := y
    obtain ⟨h, rfl⟩ : Alike s u t v ∧ d' = d := hx
    obtain ⟨h1, h2⟩ := (h.touchLine l.1).keyGet ((t.touchLine l.1).home l.1) l.2 key
    dsimp only
    rw [(h.touchLine l.1).home]
    exact ⟨h1, congrArg (d' ++ ·) h2⟩

theorem fetchLine (h : Alike s u t v) (l : Nat) : Alike s u (t.fetchLine l) (v.fetchLine l) := by
  unfold State.fetchLine
  rw [h.mem]
  split
  · exact h
  · have h1 := h.change (fun m => { m with
      hcopy := m.hcopy.put (128 * l) (m.host.get (128 * l) 128), hheld := Sparse.put false m.hheld l true }) id
    rw [h.mem] at h1
    exact h1

theorem hostGet (h : Alike s u t v) (a n : Nat) : Same s u (t.hostGet a n) (v.hostGet a n) := by
  refine foldl_same (fun {x y} l hx => ?_) _ ⟨h, rfl⟩
  obtain ⟨t, d⟩ := x
  obtain ⟨v, d'⟩ := y
  obtain ⟨h, rfl⟩ : Alike s u t v ∧ d' = d := hx
  obtain ⟨h1, h2⟩ := (h.fetchLine (l.1 / 128)).rawGet (Or.inr rfl) l.1 l.2
  exact ⟨h1, congrArg (d' ++ ·) h2⟩

theorem readAt (h : Alike s u t v) {e : Site} (he : e = .dev ∨ e = .host) (a n : Nat) (key : Option (BitVec 13)) :
    Same s u (t.readAt e a n key) (v.readAt e a n key) := by
  rcases he with rfl | rfl
  · exact h.devGet a n key
  · exact h.hostGet a n

end Alike

end Sys2Proof.Machine
end

section
/-! PROOF. What an access through a token reads (R93, R249). -/

namespace Sys2Proof.Machine

open Sys2Proof

/-! Pieces lie in device or host memory. -/

/-- A piece that reaches a byte reaches one of device or host memory. -/
def Piece.InMemory (p : Piece) : Prop := ∀ e a, p.loc = .at e a → e = .dev ∨ e = .host

section
variable (s : State) (m : Mte) (ok : Bool)

theorem State.locate_inMemory (o : Nat) {e : Site} {a : Nat} (h : s.locate m o = .at e a) : e = .dev ∨ e = .host := by
  unfold State.locate at h
  dsimp only at h
  split at h
  · cases h
  · split at h
    · cases h
    · obtain ⟨rfl, -⟩ := Loc.at.inj h
      split
      · exact Or.inr rfl
      · exact Or.inl rfl

theorem State.piecesFrom_inMemory (f pos o n : Nat) : ∀ p, p ∈ s.piecesFrom m ok f pos o n → p.InMemory := by
  induction f generalizing pos o n with
  | zero => exact fun p hp => absurd hp List.not_mem_nil
  | succ f ih =>
    intro p hp
    unfold State.piecesFrom at hp
    split at hp
    · exact absurd hp List.not_mem_nil
    · split at hp
      · obtain rfl := List.mem_singleton.1 hp
        exact fun e a h => Loc.noConfusion h
      · rcases List.mem_cons.1 hp with rfl | hp
        · exact fun e a h => s.locate_inMemory m o h
        · exact ih _ _ _ p hp

end

/-- The outcome of an access that is not held and whose entry is not DEAD. -/
theorem State.access_live {s : State} {k : Nat} {t : Option Tok} {b : MaskBit} {r w : Bool} {bs : List (Nat × Nat × Nat)}
    {ps : List Piece} (h : s.access k t b r w bs = .live ps) :
    ps = bs.flatMap (fun c => s.pieces ((s.core k).mteOf t) (((s.core k).mteOf t).may b r w) c.1 c.2.1 c.2.2) := by
  unfold State.access at h
  dsimp only at h
  split at h
  · cases h
  · cases h
  · split at h
    · cases h
    · split at h
      · cases h
      · exact (Access.live.inj h).symm

theorem State.access_inMemory {s : State} {k : Nat} {t : Option Tok} {b : MaskBit} {r w : Bool} {bs : List (Nat × Nat × Nat)}
    {ps : List Piece} (h : s.access k t b r w bs = .live ps) : ∀ p, p ∈ ps → p.InMemory := by
  intro p hp
  rw [State.access_live h] at hp
  obtain ⟨c, -, hc⟩ := List.mem_flatMap.1 hp
  rcases List.mem_append.1 hc with hc | hc
  · exact State.piecesFrom_inMemory _ _ _ _ _ _ _ p hc
  · exact State.piecesFrom_inMemory _ _ _ _ _ _ _ p hc

/-! Reading the pieces of an access heeds no S-stream. -/

/-- Two states whose cores differ in S-streams alone. -/
def SameButStreams (s u : State) : Prop := u.panels = s.panels ∧ ∀ j, u.core j = { s.core j with s := (u.core j).s }

section
variable {s u t v : State}

theorem SameButS.streams {k : Nat} {x : SCore} (h : SameButS k x s u) : SameButStreams s u := ⟨h.panels, h.core⟩

theorem Alike.streams (h : Alike s u t v) (hs : SameButStreams s u) : SameButStreams t v := by
  have ht (j : Nat) : t.core j = s.core j := by rw [h.left]; rfl
  have hv (j : Nat) : v.core j = u.core j := by rw [h.right]; rfl
  refine ⟨?_, fun j => ?_⟩
  · rw [h.right, h.left]
    exact hs.1
  · rw [hv, ht]
    exact hs.2 j

/-- What the agents of a core see over a read does not depend on S-streams. -/
theorem SameButStreams.over (h : SameButStreams s u) (k x : Nat) (d : List PByte) :
    u.shadowed k x d = s.shadowed k x d ∧ u.storesSeen k = s.storesSeen k := by
  obtain ⟨hp, hc⟩ := h
  have hpan : u.panel = s.panel := by
    funext b
    exact congrArg (fun ps => Sparse.get {} ps b) hp
  have hbase : (u.core k).panelBase k = (s.core k).panelBase k := by rw [hc]; rfl
  have hstep : (u.core ((s.core k).panelBase k)).step = (s.core ((s.core k).panelBase k)).step := by rw [hc]
  refine ⟨?_, ?_⟩
  · simp only [State.shadowed, hbase, hstep]
  · have hbuf : (u.core k).buffer = (s.core k).buffer := by rw [hc]
    have hsz : (u.core k).panel.size = (s.core k).panel.size := by rw [hc]
    simp only [State.storesSeen, hsz, hpan, hbase, hbuf]

theorem Alike.seen (h : Alike s u t v) (hs : SameButStreams s u) (k : Nat) {e : Site} (he : e = .dev ∨ e = .host) (a x n : Nat)
    (key : Option (BitVec 13)) : Same s u (t.seen k e a x n key) (v.seen k e a x n key) := by
  obtain ⟨h1, h2⟩ := h.readAt he a n key
  obtain ⟨h3, h4⟩ := (h1.streams hs).over k x (t.readAt e a n key).2
  refine ⟨h1, ?_⟩
  change overlaid e a (if e.translated then _ else _) ((v.readAt e a n key).1.storesSeen k) =
    overlaid e a (if e.translated then _ else _) ((t.readAt e a n key).1.storesSeen k)
  rw [h2, h3, h4]

theorem Alike.pieceBytes (h : Alike s u t v) (hs : SameButStreams s u) (k vb : Nat) {p : Piece} (hp : p.InMemory) :
    Same s u (t.pieceBytes k vb p) (v.pieceBytes k vb p) := by
  unfold State.pieceBytes
  split
  · next e a hl => exact h.seen hs k (hp e a hl) a _ _ _
  · exact ⟨h, rfl⟩

/-- The bytes of pieces are gathered one piece after another. -/
def State.gather (s : State) (k vb : Nat) (ps : List Piece) : State × Sparse PByte :=
  ps.foldl (fun x p => ((x.1.pieceBytes k vb p).1, Sparse.putList ((0 : Byte), false) x.2 p.pos (x.1.pieceBytes k vb p).2)) (s, [])

theorem State.readPieces_eq (s : State) (k : Nat) (t : Option Tok) (n : Nat) (ps : List Piece) :
    s.readPieces k t n ps = ((s.gather k ((s.core k).mteOf t).vbase ps).1,
      Sparse.getList (0, false) (s.gather k ((s.core k).mteOf t).vbase ps).2 0 n) := rfl

/-- Reading pieces changes memory and the events of the Bench alone, and goes the same way whatever the S-streams. -/
theorem Alike.readPieces (hm : u.mem = s.mem) (hb : u.bench = s.bench) (hs : SameButStreams s u) (k : Nat) (tok : Option Tok) (n : Nat)
    {ps : List Piece} (hp : ∀ p, p ∈ ps → p.InMemory) : Same s u (s.readPieces k tok n ps) (u.readPieces k tok n ps) := by
  have hv : ((u.core k).mteOf tok).vbase = ((s.core k).mteOf tok).vbase := by rw [hs.2 k]; rfl
  have hg (vb : Nat) : Same s u (s.gather k vb ps) (u.gather k vb ps) := by
    have hx : ∀ (ps : List Piece) (x y : State × Sparse PByte), (∀ p, p ∈ ps → p.InMemory) → Same s u x y →
        Same s u
          (ps.foldl (fun x p => ((x.1.pieceBytes k vb p).1, Sparse.putList ((0 : Byte), false) x.2 p.pos (x.1.pieceBytes k vb p).2)) x)
          (ps.foldl (fun x p => ((x.1.pieceBytes k vb p).1, Sparse.putList ((0 : Byte), false) x.2 p.pos (x.1.pieceBytes k vb p).2)) y) := by
      intro ps
      induction ps with
      | nil => exact fun _ _ _ h => h
      | cons p ps ih =>
        intro x y hp h
        obtain ⟨h1, h2⟩ := h.1.pieceBytes hs k vb (hp p List.mem_cons_self)
        refine ih _ _ (fun q hq => hp q (List.mem_cons_of_mem _ hq)) ⟨h1, ?_⟩
        change Sparse.putList _ y.2 _ _ = Sparse.putList _ x.2 _ _
        rw [h.2, h2]
    exact hx ps _ _ hp ⟨Alike.refl hm hb, rfl⟩
  rw [State.readPieces_eq, State.readPieces_eq, hv]
  obtain ⟨h1, h2⟩ := hg ((s.core k).mteOf tok).vbase
  exact ⟨h1, congrArg (fun m => Sparse.getList (0, false) m 0 n) h2⟩

end

/-! Reads change no byte of memory while nothing migrates. -/

/-- Device and host memory hold the same bytes, and nothing migrates. -/
def BytesKept (s t : State) : Prop :=
  t.mem.mig = [] ∧ t.mem.dev.bytes = s.mem.dev.bytes ∧ t.mem.host.bytes = s.mem.host.bytes

section
variable {s t : State}

theorem mig_verify (s : State) (e : Site) (a n : Nat) : (s.verify e a n).mem.mig = s.mem.mig := by
  refine foldl_keeps (P := fun t : State => t.mem.mig = s.mem.mig) (f := fun t q =>
    (t.setStoreOf e ((t.storeOf e).poisonSector q)).tell (.poisoned (32 * q))) (fun t q ht => ?_) _ _ rfl
  cases e <;> exact ht

theorem BytesKept.verify (h : BytesKept s t) (e : Site) (a n : Nat) : BytesKept s (t.verify e a n) :=
  ⟨(mig_verify t e a n).trans h.1, (bytes_verify t e .dev a n).trans h.2.1, (bytes_verify t e .host a n).trans h.2.2⟩

theorem BytesKept.readAt (h : BytesKept s t) {e : Site} (he : e = .dev ∨ e = .host) (a n : Nat) (key : Option (BitVec 13)) :
    BytesKept s (t.readAt e a n key).1 := by
  rcases he with rfl | rfl
  · change BytesKept s (t.devGet a n key).1
    rw [State.devGet, h.1]
    exact h.verify .dev a n
  · refine foldl_keeps (P := fun x : State × List PByte => BytesKept s x.1) ?_ _ (t, []) h
    rintro ⟨t, d⟩ ⟨b, k⟩ ht
    refine BytesKept.verify ?_ .copy b k
    change BytesKept s (if _ then _ else _)
    split
    · exact ht
    · exact ht

theorem BytesKept.readPieces (hm : s.mem.mig = []) (k : Nat) (tok : Option Tok) (n : Nat) {ps : List Piece}
    (hp : ∀ p, p ∈ ps → p.InMemory) : BytesKept s (s.readPieces k tok n ps).1 := by
  rw [State.readPieces_eq]
  refine List.foldlRecOn (motive := fun x : State × Sparse PByte => BytesKept s x.1) ps _ ⟨hm, rfl, rfl⟩ fun x hx p hps => ?_
  change BytesKept s (x.1.pieceBytes k _ p).1
  unfold State.pieceBytes
  split
  · next e a hl => exact hx.readAt (hp p hps e a hl) a _ _
  · exact hx

end

end Sys2Proof.Machine
end

section
/-! PROOF. Loads through a token of the S-stream (R75, R93, R95, R249, R250). -/

namespace Sys2Proof.Machine

open Sys2Proof

variable {s : State}

/-! A load that is the first of its queue issues and performs. -/

theorem OnlyCore.bench {k : Nat} {t : State} (h : OnlyCore k s t) : t.bench = s.bench := by rw [h.1]

/-- The state in which a load has entered its queue. -/
abbrev State.entered (s : State) (l : QLoad) : State := (s.pushLoad s.curN false l).retire

theorem State.loadS_eq {l : QLoad} (hz : s.lazy = false) (hl : s.me.s.loads = []) :
    s.loadS l = (State.runQueues (s.me.s.queue.length + 1) (s.entered l) s.curN false .loads).1 := by
  have hu := s.sameButS_issued l
  have hn : ((s.entered l).core s.curN).queued false = s.me.s.queue.length + 1 := by
    rw [hu.2, Core.queued]
    change (s.me.s.loads ++ _).length + s.me.s.queue.length = _
    rw [hl, Nat.add_comm]
    rfl
  have hzu : (s.entered l).lazy = false := (congrArg State.lazy hu.1.1).trans hz
  rw [State.loadS, State.eager, hzu, if_neg Bool.false_ne_true, State.runAll, hu.1.curN, hn]

section
variable {l : QLoad}

theorem State.loadsOf_entered (hl : s.me.s.loads = []) :
    ((s.entered l).core s.curN).loadsOf false = [{ l with pc := s.me.s.pc, seq := s.me.s.seq }] := by
  rw [(s.sameButS_issued l).2]
  change s.me.s.loads ++ _ = _
  rw [hl]
  rfl

theorem State.storesOf_entered : ((s.entered l).core s.curN).storesOf false = s.me.s.queue := by
  rw [(s.sameButS_issued l).2]
  rfl

theorem State.loadS_done {t : State} (hz : s.lazy = false) (hl : s.me.s.loads = [])
    (hp : (s.entered l).performLoad s.curN false = .done t) (ht : (t.core s.curN).loadsOf false = []) : s.loadS l = t := by
  rw [State.loadS_eq hz hl, State.runQueues, Core.meetsGoal_loads (State.loadsOf_entered hl), hp]
  exact congrArg Prod.fst (State.runQueues_idle ht _)

theorem State.loadS_trapped {t : State} (hz : s.lazy = false) (hl : s.me.s.loads = [])
    (hp : (s.entered l).performLoad s.curN false = .trapped t) : s.loadS l = t := by
  rw [State.loadS_eq hz hl, State.runQueues, Core.meetsGoal_loads (State.loadsOf_entered hl), hp]
  rfl

end

/-! How a load through a token ends (R93, R95). -/

section
variable {u : State} {k n : Nat} {l : QLoad} {d : XReg}

/-- A load has performed with a result for x(d), the last of its queue. -/
def State.gaveX (u : State) (k : Nat) (d : XReg) (v : Word) : State :=
  (u.onCore k (fun c => c.setX d v)).onCore k (fun c => c.setLoads false [])

/-- No earlier store meets the bytes of a load. -/
theorem Core.older_clear {c : Core} (hc : ∀ q, q ∈ c.storesOf false → c.clash l q = false) :
    ((c.storesOf false).filter (fun q => decide (q.seq < l.seq))).any (fun q => c.clash l q) = false := by
  rw [List.any_eq_false]
  exact fun q hq => Bool.eq_false_iff.1 (hc q (List.mem_filter.1 hq).1)

variable (hl : (u.core k).loadsOf false = [l]) (ho : l.op = .load d n)
  (hc : ∀ q, q ∈ (u.core k).storesOf false → (u.core k).clash l q = false)
include hl ho hc

theorem State.performLoad_held {w : WaitOn} (ha : u.access k l.tok .s true false [(0, l.off, n)] = .hold w) :
    u.performLoad k false = .waits := by
  simp only [State.performLoad, hl, ho, Core.older_clear hc, ha]
  rfl

theorem State.performLoad_dead (ha : u.access k l.tok .s true false [(0, l.off, n)] = .dead) :
    u.performLoad k false = .done (u.gaveX k d 0) := by
  simp only [State.performLoad, hl, ho, Core.older_clear hc, ha]
  rfl

theorem State.performLoad_live {ps : List Piece} (ha : u.access k l.tok .s true false [(0, l.off, n)] = .live ps)
    (hp : anyPois (u.readPieces k l.tok n ps).2 = false) : u.performLoad k false =
      .done (((u.readPieces k l.tok n ps).1.onCore k (fun c => c.oox (anyOut ps))).gaveX k d
        (word (leNat (plain (u.readPieces k l.tok n ps).2)))) := by
  simp only [State.performLoad, hl, ho, Core.older_clear hc, ha, hp]
  rfl

theorem State.performLoad_poisoned {ps : List Piece} (ha : u.access k l.tok .s true false [(0, l.off, n)] = .live ps)
    (hp : anyPois (u.readPieces k l.tok n ps).2 = true) : u.performLoad k false =
      ((u.readPieces k l.tok n ps).1.onCore k (fun c => c.setLoads false [])).loadTrap k l.pc := by
  simp only [State.performLoad, hl, ho, Core.older_clear hc, ha, hp]
  rfl

end

/-! What a load that has performed leaves. -/

/-- The core once a load that found an empty load queue has performed. -/
def Core.loaded (c : Core) (l : QLoad) (d : XReg) (o : Bool) (v : Word) : Core :=
  ((({ c with s := c.s.issued l } : Core).oox o).setX d v).setLoads false c.s.loads

theorem CoreIs.loaded {t : State} {l : QLoad} (h : CoreIs s.curN { s.me with s := s.me.s.issued l } s t) (hl : s.me.s.loads = [])
    (d : XReg) (v : Word) (o : Bool) :
    CoreIs s.curN (s.me.loaded l d o v) s ((t.onCore s.curN (fun c => c.oox o)).gaveX s.curN d v) := by
  rw [Core.loaded, hl]
  exact ((h.onCore (fun c => c.oox o)).onCore (fun c => c.setX d v)).onCore (fun c => c.setLoads false [])

/-- The same memory and Bench in the state before and after. -/
theorem CoreIs.withMem {k : Nat} {c : Core} {t : State} (h : CoreIs k c s t) (m : Mem) (b : Bench) :
    CoreIs k c { s with mem := m, bench := b } { t with mem := m, bench := b } :=
  ⟨⟨by rw [h.1.1], h.1.2⟩, h.2⟩

/-- What is left of a load that has performed, `r` being the state with the memory it has read. -/
def LoadDone (s r : State) (d : XReg) (o : Bool) (v : Word) (t : State) : Prop :=
  XIs d v s t ∧ NextWord s t ∧ t.me.s.sst = s.me.s.sst ||| (if o then 0x4000#64 else 0#64) ∧ t.me.buffer = s.me.buffer ∧
    OnlyAccess r t

theorem loadDone_of {t : State} {m : Mem} {b : Bench} {l : QLoad} {d : XReg} {o : Bool} {v : Word}
    (h : CoreIs s.curN (s.me.loaded l d o v) { s with mem := m, bench := b } t) :
    LoadDone s { s with mem := m, bench := b } d o v t := by
  have hme : t.me = s.me.loaded l d o v := CoreIs.me (s := { s with mem := m, bench := b }) h
  refine ⟨fun n => ?_, ⟨?_, ?_⟩, ?_, ?_, h.1, ?_⟩ <;> rw [hme]
  · cases o <;> exact Core.xr_setX _ _ _ _
  · rw [Core.loaded, Core.setX_eq]
    cases o <;> rfl
  · rw [Core.loaded, Core.setX_eq]
    cases o <;> rfl
  · rw [Core.loaded, Core.setX_eq]
    cases o
    · exact BitVec.or_zero.symm
    · rfl
  · rw [Core.loaded, Core.setX_eq]
    cases o <;> rfl
  · rw [Core.loaded, Core.setX_eq]
    cases o <;> rfl

/-- The core once a load has met a poisoned byte (R95). -/
def Core.poisonTrapped (c : Core) (l : QLoad) : Core :=
  (({ c with s := c.s.issued l } : Core).setLoads false []).enterTrap causePoison 0 c.s.pc

theorem State.loadTrap_running {t : State} {k : Nat} {pc : BitVec 16} (hs : (t.core k).s.st = .running)
    (hh : (t.core k).s.inHandler = false) : t.loadTrap k pc = .trapped (t.setCore k ((t.core k).enterTrap causePoison 0 pc)) := by
  simp only [State.loadTrap, hs, State.trapAt, hh, if_neg Bool.false_ne_true]

theorem trapsPoison_of {i : Instr} {r t : State} {l : QLoad} {m : Mem} {b : Bench} (hr : r = { s with mem := m, bench := b })
    (he : exec i s = .next t) (h : CoreIs s.curN (s.me.poisonTrapped l) r t) : TrapsPoison i s r := by
  subst hr
  have hme : t.me = s.me.poisonTrapped l := CoreIs.me (s := { s with mem := m, bench := b }) h
  refine ⟨t, he, fun n => ?_, ?_, ?_, ?_, ?_, ?_, ?_, ?_, ?_, ?_, ?_, ?_, ?_, h.1⟩ <;> rw [hme] <;> rfl

/-! The outcomes of R93, for an instruction that issues a load. -/

section
variable {i : Instr} {d : XReg} {tok : Option Tok} {off n : Nat}

/-- The load of an instruction. -/
abbrev tokLoad (d : XReg) (tok : Option Tok) (off n : Nat) : QLoad := { op := .load d n, tok := tok, off := off }

variable (hx : exec i s = .next (s.loadS (tokLoad d tok off n)))
include hx

theorem entersLoad_of {t : State} (ht : s.loadS (tokLoad d tok off n) = t)
    (he : t = s.entered (tokLoad d tok off n)) : EntersLoad i s (tokLoad d tok off n) := by
  have hu := s.sameButS_issued (tokLoad d tok off n)
  rw [ht, he] at hx
  exact ⟨_, hx, hu.1, hu.me⟩

theorem entersLoad_lazy (h : s.lazy = true) : EntersLoad i s (tokLoad d tok off n) :=
  entersLoad_of hx (State.loadS_of_lazy h _) rfl

omit hx in
theorem State.access_entered (b : MaskBit) (r w : Bool) (bs : List (Nat × Nat × Nat)) :
    (s.entered (tokLoad d tok off n)).access s.curN tok b r w bs = s.access s.curN tok b r w bs := by
  have hu := s.sameButS_issued (tokLoad d tok off n)
  exact State.access_congr hu.mem (by rw [hu.2]; exact Core.SameReach.refl s.me) tok b r w bs

theorem entersLoad_stale (hp : Prompt s s.curN false) (hs : (s.me.mteOf tok).st = .stale) :
    EntersLoad i s (tokLoad d tok off n) := by
  obtain ⟨hz, hl, hq⟩ := hp
  obtain ⟨w, hw⟩ := State.access_stale (s := s) (k := s.curN) hs .s true false [(0, off, n)]
  have hq' : ((s.entered (tokLoad d tok off n)).core s.curN).storesOf false = [] := State.storesOf_entered.trans hq
  have hwait := State.performLoad_held (State.loadsOf_entered hl) rfl (fun q h => by rw [hq'] at h; cases h)
    ((State.access_entered .s true false [(0, off, n)]).trans hw)
  refine entersLoad_of hx (State.loadS_eq hz hl) ?_
  have hpop : (s.entered (tokLoad d tok off n)).popStore s.curN false = none := by simp only [State.popStore, hq']
  rw [State.runQueues, Core.meetsGoal_loads (State.loadsOf_entered hl), hwait, hpop]
  simp

variable (hz : s.lazy = false) (hl : s.me.s.loads = []) (hc : ∀ q, q ∈ s.me.s.queue → s.me.clash (tokLoad d tok off n) q = false)
include hl hc

omit hx hl in
theorem clash_entered (q : QStore) (hq : q ∈ ((s.entered (tokLoad d tok off n)).core s.curN).storesOf false) :
    ((s.entered (tokLoad d tok off n)).core s.curN).clash { tokLoad d tok off n with pc := s.me.s.pc, seq := s.me.s.seq } q = false := by
  rw [State.storesOf_entered] at hq
  rw [(s.sameButS_issued (tokLoad d tok off n)).2]
  exact hc q hq

include hz

theorem loadsX_dead (hs : (s.me.mteOf tok).st = .dead) : LoadsX i s d 0 0 := by
  have ha : s.access s.curN tok .s true false [(0, off, n)] = .dead := by
    simp only [State.access, show ((s.core s.curN).mteOf tok).st = .dead from hs]
  have hp := State.performLoad_dead (State.loadsOf_entered hl) rfl (clash_entered hc)
    ((State.access_entered .s true false [(0, off, n)]).trans ha)
  have hi : CoreIs s.curN (s.me.loaded (tokLoad d tok off n) d false 0) s ((s.entered (tokLoad d tok off n)).gaveX s.curN d 0) := by
    have h := (s.sameButS_issued (tokLoad d tok off n))
    rw [Core.loaded, hl]
    exact (h.onCore (fun c => c.setX d 0)).onCore (fun c => c.setLoads false [])
  have hld := State.loadS_done hz hl hp (by rw [hi.2, Core.loaded, hl]; rfl)
  rw [hld] at hx
  exact ⟨_, hx, loadDone_of (m := s.mem) (b := s.bench) hi⟩

theorem does_load_live {ps : List Piece} (ha : s.access s.curN tok .s true false [(0, off, n)] = .live ps)
    (hp : anyPois (s.readPieces s.curN tok n ps).2 = false) : Does i s (LoadDone s
      { s with mem := (s.readPieces s.curN tok n ps).1.mem, bench := (s.readPieces s.curN tok n ps).1.bench } d (anyOut ps)
      (word (leNat (plain (s.readPieces s.curN tok n ps).2)))) := by
  have hu := s.sameButS_issued (tokLoad d tok off n)
  obtain ⟨hr, hr2⟩ := Alike.readPieces (s := s) (u := s.entered (tokLoad d tok off n)) hu.mem hu.1.bench hu.streams
    s.curN tok n (State.access_inMemory ha)
  have hperf := State.performLoad_live (State.loadsOf_entered hl) rfl (clash_entered hc)
    ((State.access_entered .s true false [(0, off, n)]).trans ha) (by rw [hr2]; exact hp)
  rw [hr2, hr.right] at hperf
  have hi := CoreIs.loaded (s := { s with
    mem := (s.readPieces s.curN tok n ps).1.mem, bench := (s.readPieces s.curN tok n ps).1.bench }) (hu.withMem _ _) hl d
      (word (leNat (plain (s.readPieces s.curN tok n ps).2))) (anyOut ps)
  have hld := State.loadS_done hz hl hperf (hi.2 ▸ hl)
  rw [hld] at hx
  exact ⟨_, hx, loadDone_of hi⟩

theorem trapsPoison_load {ps : List Piece} (ha : s.access s.curN tok .s true false [(0, off, n)] = .live ps)
    (hp : anyPois (s.readPieces s.curN tok n ps).2 = true) (hh : s.me.s.inHandler = false) :
    TrapsPoison i s (s.readPieces s.curN tok n ps).1 := by
  have hu := s.sameButS_issued (tokLoad d tok off n)
  obtain ⟨hr, hr2⟩ := Alike.readPieces (s := s) (u := s.entered (tokLoad d tok off n)) hu.mem hu.1.bench hu.streams
    s.curN tok n (State.access_inMemory ha)
  have hperf := State.performLoad_poisoned (State.loadsOf_entered hl) rfl (clash_entered hc)
    ((State.access_entered .s true false [(0, off, n)]).trans ha) (by rw [hr2]; exact hp)
  have hi := (hu.withMem (s.readPieces s.curN tok n ps).1.mem (s.readPieces s.curN tok n ps).1.bench).onCore
    (fun c => c.setLoads false [])
  rw [← hr.left, ← hr.right] at hi
  rw [State.loadTrap_running (by rw [hi.2]; rfl) (by rw [hi.2]; exact hh)] at hperf
  have ht := State.loadS_trapped hz hl hperf
  rw [ht] at hx
  refine trapsPoison_of (l := tokLoad d tok off n) hr.left hx ?_
  rw [hi.2]
  exact hi.setCore _

end

end Sys2Proof.Machine
end

section
/-! PROOF. O10: the outcomes of a load through a token (R75, R93, R95, R249, R250). -/

namespace Sys2Proof.Machine

open Sys2Proof

variable {s : State}

/-! Through the null token (R93). -/

theorem leNat_zeros (n : Nat) : leNat (List.replicate n 0#8) = 0 := by
  induction n with
  | zero => rfl
  | succ n ih =>
    rw [List.replicate_succ, leNat, ih]
    rfl

theorem State.piecesFrom_refused (s : State) (m : Mte) (f pos o n : Nat) :
    s.piecesFrom m false (f + 1) pos o n = if n = 0 then [] else [⟨.out, pos, o, n, none⟩] := by
  simp [State.piecesFrom]

/-- The null token reaches nothing. -/
theorem State.access_null (s : State) (k : Nat) {off n : Nat} (hn : 0 < n) (ho : off < 2 ^ 64) :
    ∃ ps, s.access k none .s true false [(0, off, n)] = .live ps ∧ anyOut ps = true ∧ ∀ p, p ∈ ps → p.loc = .out := by
  obtain ⟨ps, hps⟩ : ∃ ps, ps = s.pieces {} false 0 off n := ⟨_, rfl⟩
  have hp : ps = (if min n (2 ^ 64 - off) = 0 then [] else [⟨.out, 0, off, min n (2 ^ 64 - off), none⟩]) ++
      (if n - min n (2 ^ 64 - off) = 0 then [] else [⟨.out, 0 + min n (2 ^ 64 - off), 0, n - min n (2 ^ 64 - off), none⟩]) := by
    rw [hps, State.pieces]
    rw [Nat.mod_eq_of_lt ho, State.piecesFrom_refused, State.piecesFrom_refused]
  have hout : ∀ p, p ∈ ps → p.loc = .out := by
    intro p h
    rw [hp] at h
    rcases List.mem_append.1 h with h | h <;> split at h <;> simp at h <;> rw [h]
  have hline : ps.findSome? (fun p => s.missingLine p) = none :=
    List.findSome?_eq_none_iff.2 fun p h => by simp only [State.missingLine, hout p h]
  refine ⟨ps, ?_, ?_, hout⟩
  · have ha : s.access k none .s true false [(0, off, n)] =
        (match (s.pieces {} false 0 off n ++ []).findSome? (fun p => s.missingLine p) with
        | some q => .hold (.line q)
        | none => .live (s.pieces {} false 0 off n ++ [])) := rfl
    rw [ha, List.append_nil, ← hps, hline]
  · rw [hp, if_neg (by omega)]
    rfl

theorem State.readPieces_out (s : State) (k : Nat) (tok : Option Tok) (n : Nat) {ps : List Piece} (h : ∀ p, p ∈ ps → p.loc = .out) :
    s.readPieces k tok n ps = (s, List.replicate n (0, false)) := by
  let P (x : State × Sparse PByte) : Prop := x.1 = s ∧ ∀ i, Sparse.get (0, false) x.2 i = (0, false)
  obtain ⟨h1, h2⟩ : P (s.gather k ((s.core k).mteOf tok).vbase ps) := by
    refine List.foldlRecOn (motive := P) ps _ ⟨rfl, fun _ => rfl⟩ fun x hx p hp => ?_
    have hb : x.1.pieceBytes k ((s.core k).mteOf tok).vbase p = (x.1, List.replicate p.n (0, false)) := by
      simp only [State.pieceBytes, h p hp]
    rw [hb]
    refine ⟨hx.1, fun i => (Sparse.get_putList _ _ _ _).trans ?_⟩
    split
    · next hi =>
      rw [List.length_replicate] at hi
      rw [List.getD_eq_getElem _ _ (by rw [List.length_replicate]; omega), List.getElem_replicate]
    · exact hx.2 i
  rw [State.readPieces_eq, h1, Sparse.getList_eq]
  refine congrArg (Prod.mk s) (List.eq_replicate_iff.2 ⟨by simp, fun x hx => ?_⟩)
  obtain ⟨i, -, rfl⟩ := List.mem_map.1 hx
  exact h2 _

/-! An earlier store to the bytes of a load (R249, R250). -/

theorem length_clean (bs : List Byte) : (clean bs).length = bs.length := List.length_map _

theorem Reaches.may {m : Mte} {off n pa : Nat} (h : Reaches s m .s true true off n pa) (r w : Bool) : Reaches s m .s r w off n pa := by
  obtain ⟨h1, h2, h3, h4, h5, h6, h7, h8, h9, h10, h11⟩ := h
  refine ⟨h1, h2, ?_, h4, h5, h6, h7, h8, h9, h10, fun _ => h11 rfl⟩
  simp only [Mte.may, Bool.not_true, Bool.false_or, Bool.and_eq_true] at h3 ⊢
  simp [h3]

theorem runsMeet_self {a n : Nat} (hn : 0 < n) : runsMeet (a, n) (a, n) = true := by
  have h0 : (a + 2 ^ 64 - a % 2 ^ 64) % 2 ^ 64 = 0 := by omega
  simp only [runsMeet, h0]
  simp [hn]

/-- Bytes laid over as many at the same address hide them. -/
theorem patch_whole {a : Nat} {d e : List PByte} (h : d.length = e.length) (hn : 0 < e.length) : patch a d a e [] = e := by
  have hc : ¬ (a + e.length ≤ a ∨ a + d.length ≤ a) := by omega
  rw [patch, if_neg hc]
  have h1 : a + d.length - max a a = e.length := by omega
  have h2 : a + e.length - a = d.length := by omega
  rw [h1, h2]
  simp

theorem getList_putList (d : List PByte) : Sparse.getList (0, false) (Sparse.putList ((0 : Byte), false) [] 0 d) 0 d.length = d := by
  rw [Sparse.getList_eq]
  refine List.ext_getElem (by simp) fun i h1 h2 => ?_
  rw [List.getElem_map, List.getElem_range, Sparse.get_putList, if_pos (by omega), List.getD_eq_getElem _ _ (by omega)]
  simp

/-- An access that is one piece reads what its core sees there. -/
theorem State.readPieces_one {k pa off n : Nat} {tok : Option Tok} {key : Option (BitVec 13)} {d : List PByte}
    (h : s.seen k .dev pa (((s.core k).mteOf tok).vbase + off) n key = (s, d)) (hd : d.length = n) :
    s.readPieces k tok n [⟨.at .dev pa, 0, off, n, key⟩] = (s, d) := by
  have hb : s.pieceBytes k ((s.core k).mteOf tok).vbase ⟨.at .dev pa, 0, off, n, key⟩ = (s, d) := h
  rw [State.readPieces_eq, State.gather, List.foldl_cons, List.foldl_nil, hb]
  subst hd
  exact congrArg (Prod.mk s) (getList_putList d)

section
variable {tok : Option Tok} {bs : List Byte} {off m pa : Nat}

/-- An earlier store to the bytes of a load. -/
abbrev tokStore (tok : Option Tok) (off : Nat) (bs : List Byte) (m : Nat) : QStore := { op := .bytes off bs, via := tok, seq := m }

/-- The store as it stands at core scope. -/
def tokSeg (c : Mte) (off pa : Nat) (bs : List Byte) : Seg := ⟨.dev, pa, c.vbase + off, off, clean bs, [], c.keyAt off⟩

variable (hr : Reaches s (s.me.mteOf tok) .s true true off bs.length pa)
include hr

theorem Reaches.tok_ne_none : tok ≠ none := by
  rintro rfl
  cases hr.1

theorem Reaches.access (r w : Bool) :
    s.access s.curN tok .s r w [(0, off, bs.length)] = .live [⟨.at .dev pa, 0, off, bs.length, (s.me.mteOf tok).keyAt off⟩] :=
  access_of_reaches (k := s.curN) (hr.may r w) 0

theorem partsOf_tokStore : s.partsOf s.curN false (tokStore tok off bs m) = [tokSeg (s.me.mteOf tok) off pa bs] := by
  have ha : s.access s.curN tok .s false true ((s.core s.curN).storeBytes (tokStore tok off bs m)).2.2 = _ := Reaches.access hr false true
  refine (State.partsOf_of_live (v := false) (q := tokStore tok off bs m) rfl ha).trans ?_
  change [(⟨.dev, pa, _, off, ((clean bs).drop 0).take bs.length, (([] : List Byte).drop 0).take bs.length, _⟩ : Seg)] = _
  rw [List.drop_zero, List.take_of_length_le (length_clean bs).le, List.drop_nil, List.take_nil]
  rfl

theorem leaves_tokStore : Leaves s s.curN false (tokStore tok off bs m) := by
  unfold Leaves
  rw [partsOf_tokStore hr, if_neg (Reaches.tok_ne_none hr)]
  refine ⟨List.cons_ne_nil _ _, fun g hg => ?_, rfl, _, Reaches.access hr false true, rfl, fun p hp => ?_⟩
  · obtain rfl := List.mem_singleton.1 hg
    exact ⟨fun _ => Site.noConfusion, fun _ => Site.noConfusion⟩
  · obtain rfl := List.mem_singleton.1 hp
    exact Loc.noConfusion

/-- A core that has the store at core scope, and no other, sees its bytes. -/
theorem State.seen_tokStore {t : State} (hm : t.mem = s.mem) (hb : t.bench = s.bench) (hc : CleanAt s pa bs.length)
    (hs : t.storesSeen s.curN = [⟨[tokSeg (s.me.mteOf tok) off pa bs], .s⟩])
    (ht : ∀ w, (t.core ((t.core s.curN).panelBase s.curN)).step = some w → w.twin = .none) (x : Nat) :
    t.seen s.curN .dev pa x bs.length ((s.me.mteOf tok).keyAt off) = (t, clean bs) := by
  obtain ⟨-, -, -, h0, -, -, -, hmig, -, -, hk⟩ := hr
  have hget : t.devGet pa bs.length ((s.me.mteOf tok).keyAt off) = (t, clean (t.devBytes pa bs.length)) :=
    devGet_of_clean (by rw [hm]; exact hmig) (by simpa only [Keyed, State.keyIn, hm, hb] using hk rfl)
      (by simpa only [CleanAt, hm] using hc)
  have hsh : t.shadowed s.curN x (clean (t.devBytes pa bs.length)) = clean (t.devBytes pa bs.length) := by
    unfold State.shadowed
    split
    · rfl
    · next w hw => rw [ht w hw]; rfl
  have hlen : (t.devBytes pa bs.length).length = bs.length := by simp [State.devBytes]
  have hseen : t.seen s.curN .dev pa x bs.length ((s.me.mteOf tok).keyAt off) =
      ((t.devGet pa bs.length ((s.me.mteOf tok).keyAt off)).1, overlaid .dev pa
        ((t.devGet pa bs.length ((s.me.mteOf tok).keyAt off)).1.shadowed s.curN x (t.devGet pa bs.length ((s.me.mteOf tok).keyAt off)).2)
        ((t.devGet pa bs.length ((s.me.mteOf tok).keyAt off)).1.storesSeen s.curN)) := rfl
  rw [hseen, hget, hsh, hs]
  have hw := patch_whole (a := pa) (d := clean (t.devBytes pa bs.length)) (e := clean bs)
    (by rw [length_clean, length_clean, hlen]) (by rw [length_clean]; exact h0)
  exact congrArg (Prod.mk t) hw

end

end Sys2Proof.Machine
end

section
/-! PROOF. O10: the outcomes of a load through a token (R75, R93, R95, R249, R250), settled. -/

namespace Sys2Proof.Machine

open Sys2Proof

variable {s : State}

/-! A load after a store to its bytes (R249, R250). -/

section
variable {i : Instr} {d : XReg} {tok : Option Tok} {bs : List Byte} {off m pa : Nat}

/-- The load of the same bytes through the same token waits for the store. -/
theorem clash_tokStore (c : Core) (hn : tok ≠ none) (h0 : 0 < bs.length) (pc : BitVec 16) (seq : Nat) :
    c.clash { tokLoad d tok off bs.length with pc := pc, seq := seq } (tokStore tok off bs m) = true := by
  obtain ⟨t, rfl⟩ := Option.ne_none_iff_exists'.1 hn
  have hr : runsMeet (off, bs.length) (off, bs.length) = true := runsMeet_self h0
  simp [Core.clash, Core.loadRuns, Core.storeRuns, Core.storeBytes, hr]

theorem State.performLoad_clash {u : State} {k : Nat} {l : QLoad} {q : QStore} (hl : (u.core k).loadsOf false = [l])
    (hq : (u.core k).storesOf false = [q]) (hs : q.seq < l.seq) (hc : (u.core k).clash l q = true) :
    u.performLoad k false = .waits := by
  simp [State.performLoad, hl, hq, hs, hc]

/-- The load queue and the store before it: the store becomes visible at core scope, then the load performs. -/
theorem State.loadS_behind {l : QLoad} {q : QStore} {t r : State} (hz : s.lazy = false) (hl : s.me.s.loads = [])
    (hq : s.me.s.queue = [q]) (hw : (s.entered l).performLoad s.curN false = .waits)
    (hp : (s.entered l).popStore s.curN false = some t) (ht : (t.core s.curN).loadsOf false = [{ l with pc := s.me.s.pc, seq := s.me.s.seq }])
    (hr : t.performLoad s.curN false = .done r) : s.loadS l = r := by
  rw [State.loadS_eq hz hl, hq, List.length_singleton, State.runQueues, Core.meetsGoal_loads (State.loadsOf_entered hl), hw, hp]
  simp only [Bool.false_eq_true, if_false, reduceCtorEq]
  rw [State.runQueues, Core.meetsGoal_loads ht, hr]
  rfl

/-- The core once the store stands at core scope. -/
abbrev Core.behind (c : Core) (l : QLoad) (w : VisStore) : Core := ({ c with s := c.s.issued l } : Core).popped false [] l.tok w

theorem CoreIs.storesSeen {k : Nat} {c : Core} {t : State} {w : VisStore} (hb : NoBuffer s k) (h : CoreIs k c s t)
    (hc : c.buffer = (s.core k).buffer ++ [w]) (hp : c.panel = (s.core k).panel) : t.storesSeen k = [w] := by
  have hpn : t.panel = s.panel := by
    rw [h.1.1]
    rfl
  obtain ⟨hb1, hb2⟩ := hb
  have hbase : c.panelBase k = (s.core k).panelBase k := by rw [Core.panelBase, Core.panelBase, hp]
  rw [State.storesSeen, h.2, hpn, hc, hb1, hp, hbase]
  split
  · rfl
  · next hz => rw [hb2 hz]; rfl

theorem CoreIs.noTwin {k : Nat} {c : Core} {t : State} (hb : NoTwin s k) (h : CoreIs k c s t) (hs : c.step = (s.core k).step)
    (hp : c.panel = (s.core k).panel) : ∀ w, (t.core ((t.core k).panelBase k)).step = some w → w.twin = .none := by
  have hbase : (t.core k).panelBase k = (s.core k).panelBase k := by rw [h.2, Core.panelBase, Core.panelBase, hp]
  rw [hbase]
  intro w hw
  by_cases hk : (s.core k).panelBase k = k
  · rw [hk, h.2, hs] at hw
    exact hb k (Or.inl rfl) w hw
  · rw [h.1.2 _ hk] at hw
    exact hb _ (Or.inr rfl) w hw

/-- What the load leaves: the store at core scope, and its bytes in the register. -/
def Behind (s : State) (d : XReg) (bs : List Byte) (w : VisStore) (t : State) : Prop :=
  XIs d (word (leNat bs)) s t ∧ NextWord s t ∧ t.me.s.sst = s.me.s.sst ∧ t.me.s.queue = [] ∧ t.me.s.loads = [] ∧ t.mem = s.mem ∧
    OnlyCore s.curN s t ∧ t.me.buffer = [w]

theorem behind_of {t : State} {l : QLoad} {w : VisStore} (hb : s.me.buffer = [])
    (h : CoreIs s.curN (((s.me.behind l w).setX d (word (leNat bs))).setLoads false []) s t) : Behind s d bs w t := by
  refine ⟨fun n => ?_, ⟨?_, ?_⟩, ?_, ?_, ?_, h.mem, h.1, ?_⟩ <;> rw [h.me]
  · exact Core.xr_setX _ _ _ _
  · rw [Core.setX_eq]; rfl
  · rw [Core.setX_eq]; rfl
  · rw [Core.setX_eq]; rfl
  · rw [Core.setX_eq]; rfl
  · rw [Core.setX_eq]; rfl
  · rw [Core.setX_eq]
    exact congrArg (fun b => b ++ [w]) hb

variable (hx : exec i s = .next (s.loadS (tokLoad d tok off bs.length)))
include hx

theorem does_load_behind (hz : s.lazy = false) (hl : s.me.s.loads = []) (hq : s.me.s.queue = [tokStore tok off bs m])
    (hm : m < s.me.s.seq) (hb : NoBuffer s s.curN) (hw : NoTwin s s.curN) (hr : Reaches s (s.me.mteOf tok) .s true true off bs.length pa)
    (hc : CleanAt s pa bs.length) : Does i s (Behind s d bs ⟨[tokSeg (s.me.mteOf tok) off pa bs], .s⟩) := by
  have hu : CoreIs s.curN _ s (s.entered (tokLoad d tok off bs.length)) := s.sameButS_issued _
  have hreach : (s.core s.curN).SameReach ((s.entered (tokLoad d tok off bs.length)).core s.curN) := by
    rw [hu.2]
    exact Core.SameReach.refl s.me
  have hlo := State.loadsOf_entered (l := tokLoad d tok off bs.length) hl
  have hst := (State.storesOf_entered (l := tokLoad d tok off bs.length)).trans hq
  have hwait := State.performLoad_clash hlo hst hm (clash_tokStore _ (Reaches.tok_ne_none hr) hr.2.2.2.1 _ _)
  obtain ⟨t, hpop, ht⟩ := State.popStore_past (loadsBefore_of_lt hlo hm) hst ((leaves_tokStore hr).congr hu.mem hreach) Bool.noConfusion
  rw [State.shown_congr hu.mem hreach, State.shown, partsOf_tokStore hr, hu.2] at ht
  have hts : CoreIs s.curN (s.me.behind (tokLoad d tok off bs.length) ⟨[tokSeg (s.me.mteOf tok) off pa bs], .s⟩) s t := hu.trans ht
  have htl : (t.core s.curN).loadsOf false = [{ tokLoad d tok off bs.length with pc := s.me.s.pc, seq := s.me.s.seq }] := by
    rw [hts.2]
    change s.me.s.loads ++ _ = _
    rw [hl]
    rfl
  have hreach' : (s.core s.curN).SameReach (t.core s.curN) := by
    rw [hts.2]
    exact Core.sameReach_popped _ _ _ _ _
  have hread : t.readPieces s.curN tok bs.length [⟨.at .dev pa, 0, off, bs.length, (s.me.mteOf tok).keyAt off⟩] = (t, clean bs) :=
    State.readPieces_one (State.seen_tokStore hr hts.mem hts.1.bench hc
      (hts.storesSeen hb rfl rfl) (hts.noTwin hw rfl rfl) _) (length_clean bs)
  have hperf := State.performLoad_live htl rfl (fun q h => by rw [hts.2] at h; cases h)
    ((State.access_congr hts.mem hreach' _ _ _ _ _).trans (Reaches.access hr true false)) (by rw [hread]; exact anyPois_clean bs)
  rw [hread, plain_clean] at hperf
  have hld := State.loadS_behind hz hl hq hwait hpop htl hperf
  rw [hld] at hx
  exact ⟨_, hx, behind_of (l := tokLoad d tok off bs.length) hb.1
    (((hts.onCore (fun c => c.oox false)).onCore (fun c => c.setX d (word (leNat bs)))).onCore (fun c => c.setLoads false []))⟩

end

/-! The outcomes of a load. -/

section
variable {i : Instr} {d : XReg} {off n : Nat}

/-- A load through the null token. -/
theorem loadsX_null (hx : exec i s = .next (s.loadS (tokLoad d none off n))) (hz : s.lazy = false) (hl : s.me.s.loads = [])
    (hc : ∀ q, q ∈ s.me.s.queue → s.me.clash (tokLoad d none off n) q = false) (hn : 0 < n) (ho : off < 2 ^ 64) :
    LoadsX i s d 0 0x4000#64 := by
  obtain ⟨ps, ha, hout, hloc⟩ := State.access_null s s.curN hn ho
  have hrd := State.readPieces_out s s.curN none n hloc
  have hz8 : plain (List.replicate n ((0 : Byte), false)) = List.replicate n 0#8 := by simp [plain]
  have h := does_load_live hx hz hl hc ha (by rw [hrd]; simp [anyPois])
  rw [hrd, hout, hz8, leNat_zeros] at h
  exact h

end

/-- Settles O10: each outcome is that of the load's turn in its queue. It issues and performs where no earlier store meets it; a
held load stays; and where a store meets it, the store leaves its queue first and the load reads it at core scope. -/
theorem tokenLoadOtherOutcomes : Obligations.TokenLoadOtherOutcomes := by
  unfold Obligations.TokenLoadOtherOutcomes
  intro st d tk o imm s tok m at_ outcomes
  have main (i : Instr) (size : Nat) (hn : 0 < size) (hx : exec i s = .next (s.loadS (tokLoad d tok (at_ size) size))) :
      outcomes i size := by
    refine ⟨?_, fun hz hl hc => ⟨loadsX_dead hx hz hl hc, ?_, fun ps ha => ⟨does_load_live hx hz hl hc ha,
      trapsPoison_load hx hz hl hc ha, fun hm => ?_⟩⟩, ?_⟩
    · rintro (h | ⟨hs, hp⟩)
      · exact entersLoad_lazy hx h
      · exact entersLoad_stale hx hp hs
    · intro ht
      rw [ht] at hx hc
      exact loadsX_null hx hz hl hc hn (BitVec.isLt _)
    · exact (BytesKept.readPieces hm s.curN tok size (State.access_inMemory ha)).2
    · rintro bs pa k hz hl hq hk rfl hb hw hr hc
      exact does_load_behind hx hz hl hq hk hb hw hr hc
  exact ⟨main _ 1 (by decide) rfl, main _ 2 (by decide) rfl, main _ 4 (by decide) rfl, main _ 8 (by decide) rfl⟩

end Sys2Proof.Machine
end

section
/-! PROOF. Integer register operations, immediate forms, branches and jumps of the S-stream (R81-R86). -/

namespace Sys2Proof.Machine

open Sys2Proof

/-! The functions of R81, as bit vectors. -/

section
variable (a b : Word)

theorem shAmt_eq : shAmt b = (b.extractLsb' 0 6).toNat := by simp [shAmt]

theorem boolWord_eq (c : Bool) : boolWord c = if c then 1 else 0 := rfl

theorem sltW_eq : sltW a b = a.slt b := (BitVec.slt_eq_decide ..).symm

theorem sltuW_eq : sltuW a b = a.ult b := (BitVec.ult_eq_decide ..).symm

theorem min_toInt : (if sltW b a then b else a) = BitVec.ofInt 64 (min a.toInt b.toInt) := by
  by_cases h : b.toInt < a.toInt
  · rw [sltW, decide_eq_true h, if_pos rfl, min_eq_right h.le, BitVec.ofInt_toInt]
  · rw [sltW, decide_eq_false h, if_neg Bool.false_ne_true, min_eq_left (not_lt.1 h), BitVec.ofInt_toInt]

theorem max_toInt : (if sltW a b then b else a) = BitVec.ofInt 64 (max a.toInt b.toInt) := by
  by_cases h : a.toInt < b.toInt
  · rw [sltW, decide_eq_true h, if_pos rfl, max_eq_right h.le, BitVec.ofInt_toInt]
  · rw [sltW, decide_eq_false h, if_neg Bool.false_ne_true, max_eq_left (not_lt.1 h), BitVec.ofInt_toInt]

theorem min_toNat : (if sltuW b a then b else a) = BitVec.ofNat 64 (min a.toNat b.toNat) := by
  by_cases h : b.toNat < a.toNat
  · rw [sltuW, decide_eq_true h, if_pos rfl, min_eq_right h.le, BitVec.ofNat_toNat, BitVec.setWidth_eq]
  · rw [sltuW, decide_eq_false h, if_neg Bool.false_ne_true, min_eq_left (not_lt.1 h), BitVec.ofNat_toNat, BitVec.setWidth_eq]

theorem max_toNat : (if sltuW a b then b else a) = BitVec.ofNat 64 (max a.toNat b.toNat) := by
  by_cases h : a.toNat < b.toNat
  · rw [sltuW, decide_eq_true h, if_pos rfl, max_eq_right h.le, BitVec.ofNat_toNat, BitVec.setWidth_eq]
  · rw [sltuW, decide_eq_false h, if_neg Bool.false_ne_true, max_eq_left (not_lt.1 h), BitVec.ofNat_toNat, BitVec.setWidth_eq]

theorem mulhuW_eq : mulhuW a b = (a.setWidth 128 * b.setWidth 128).extractLsb' 64 64 := by
  have h : a.toNat * b.toNat < 2 ^ 128 := by
    calc a.toNat * b.toNat < 2 ^ 64 * 2 ^ 64 := Nat.mul_lt_mul'' a.isLt b.isLt
      _ = 2 ^ 128 := by norm_num
  apply BitVec.eq_of_toNat_eq
  have ha : a.toNat % 2 ^ 128 = a.toNat := Nat.mod_eq_of_lt (a.isLt.trans (by norm_num))
  have hb : b.toNat % 2 ^ 128 = b.toNat := Nat.mod_eq_of_lt (b.isLt.trans (by norm_num))
  rw [mulhuW, BitVec.extractLsb'_toNat, BitVec.toNat_mul, BitVec.toNat_setWidth, BitVec.toNat_setWidth, ha, hb,
    Nat.mod_eq_of_lt h, Nat.shiftRight_eq_div_pow, BitVec.toNat_ofNat]

/-- The upper half of a product of 128 bits. -/
theorem extract_upper_toInt (p : BitVec 128) : p.extractLsb' 64 64 = BitVec.ofInt 64 (p.toInt / (2 ^ 64 : Nat)) := by
  apply BitVec.eq_of_toNat_eq
  rw [BitVec.extractLsb'_toNat, BitVec.toNat_ofInt, Nat.shiftRight_eq_div_pow, BitVec.toInt_eq_toNat_cond]
  have := p.isLt
  split <;> omega

theorem mulhW_eq : mulhW a b = (a.signExtend 128 * b.signExtend 128).extractLsb' 64 64 := by
  have hs (x : Word) : (x.signExtend 128).toInt = x.toInt := BitVec.toInt_signExtend_of_le (by norm_num)
  have hb (x : Word) : -2 ^ 63 ≤ x.toInt ∧ x.toInt < 2 ^ 63 := ⟨BitVec.le_toInt x, BitVec.toInt_lt⟩
  have hp : |a.toInt * b.toInt| ≤ 2 ^ 63 * 2 ^ 63 := by
    rw [abs_mul]
    exact mul_le_mul (abs_le.2 ⟨(hb a).1, (hb a).2.le⟩) (abs_le.2 ⟨(hb b).1, (hb b).2.le⟩) (abs_nonneg _) (by norm_num)
  obtain ⟨h1, h2⟩ := abs_le.1 hp
  rw [extract_upper_toInt, BitVec.toInt_mul, hs, hs, Int.bmod_eq_of_le (by omega) (by omega)]
  rfl

end

/-! Counting bits. -/

/-- The zeros above the highest one of the low bits of a word. -/
theorem clzFrom_spec (x : Word) (n : Nat) : clzFrom x n ≤ n ∧ (∀ i, n - clzFrom x n ≤ i → i < n → x.getLsbD i = false) ∧
    (clzFrom x n < n → x.getLsbD (n - 1 - clzFrom x n) = true) := by
  induction n with
  | zero => exact ⟨le_rfl, fun i _ hi => absurd hi (Nat.not_lt_zero i), fun h => absurd h (Nat.not_lt_zero _)⟩
  | succ n ih =>
    rw [clzFrom]
    split
    · next hn => exact ⟨Nat.zero_le _, fun i h1 h2 => absurd h2 (by omega), fun _ => hn⟩
    · next hn =>
      obtain ⟨h1, h2, h3⟩ := ih
      refine ⟨by omega, fun i hi hi' => ?_, fun h => ?_⟩
      · rcases Nat.lt_succ_iff_lt_or_eq.1 hi' with hlt | rfl
        · exact h2 i (by omega) hlt
        · exact Bool.eq_false_iff.2 hn
      · have e : n + 1 - 1 - (1 + clzFrom x n) = n - 1 - clzFrom x n := by omega
        rw [e]
        exact h3 (by omega)

theorem popcFrom_eq_countP (x : Word) (n : Nat) : popcFrom x n = (List.range n).countP (fun i => x.getLsbD i) := by
  induction n with
  | zero => rfl
  | succ n ih =>
    rw [popcFrom, List.range_succ, List.countP_append, List.countP_singleton, ih, Nat.add_comm]

theorem WritesX.of_eq {i : Instr} {s : State} {d : XReg} {v w : Word} (hi : exec i s = .next (s.retireX d v)) (hv : v = w) :
    WritesX i s d w := hv ▸ writesX_of hi

/-- Settles O1: each function of R81 as the table gives it. -/
theorem integerRegisterResults : Obligations.IntegerRegisterResults := by
  unfold Obligations.IntegerRegisterResults
  intro st d a b s
  refine ⟨writesX_of rfl, writesX_of rfl, writesX_of rfl, writesX_of rfl, writesX_of rfl, ?_, ?_, ?_, ?_, ?_, ?_, ?_, ?_, ?_, ?_,
    writesX_of rfl, ?_, ?_, ?_, ?_⟩
  · exact .of_eq rfl (by rw [shAmt_eq])
  · exact .of_eq rfl (by rw [shAmt_eq])
  · exact .of_eq rfl (by rw [shAmt_eq, sraW])
  · exact .of_eq rfl (by rw [sltW_eq, boolWord_eq])
  · exact .of_eq rfl (by rw [sltuW_eq, boolWord_eq])
  · exact .of_eq rfl (by rw [boolWord_eq]; simp only [beq_iff_eq])
  · exact .of_eq rfl (min_toInt _ _)
  · exact .of_eq rfl (max_toInt _ _)
  · exact .of_eq rfl (min_toNat _ _)
  · exact .of_eq rfl (max_toNat _ _)
  · exact .of_eq rfl (mulhW_eq _ _)
  · exact .of_eq rfl (mulhuW_eq _ _)
  · obtain ⟨h1, h2, h3⟩ := clzFrom_spec (s.me.xr a) 64
    exact ⟨_, h1, h2, h3, writesX_of rfl⟩
  · exact .of_eq rfl (congrArg (BitVec.ofNat 64) (popcFrom_eq_countP _ _))

/-! Division (R82). -/

theorem divW_of_ne {a b : Word} (h : b ≠ 0) : divW a b = BitVec.ofInt 64 (a.toInt.tdiv b.toInt) := if_neg h
theorem remW_of_ne {a b : Word} (h : b ≠ 0) : remW a b = BitVec.ofInt 64 (a.toInt.tmod b.toInt) := if_neg h
theorem divuW_of_ne {a b : Word} (h : b ≠ 0) : divuW a b = BitVec.ofNat 64 (a.toNat / b.toNat) := if_neg h
theorem remuW_of_ne {a b : Word} (h : b ≠ 0) : remuW a b = BitVec.ofNat 64 (a.toNat % b.toNat) := if_neg h

/-- A remainder that is not zero has the sign of the dividend. -/
theorem sign_tmod_of_ne {a b : Int} (h : a.tmod b ≠ 0) : (a.tmod b).sign = a.sign := by
  rcases lt_trichotomy a 0 with ha | rfl | ha
  · have hn : a.tmod b ≤ 0 := by
      have := Int.tmod_nonneg b (a := -a) (by omega)
      rw [Int.neg_tmod] at this
      omega
    rw [Int.sign_eq_neg_one_of_neg ha, Int.sign_eq_neg_one_of_neg (by omega)]
  · exact absurd (Int.zero_tmod b) h
  · have hp := Int.tmod_nonneg b ha.le
    rw [Int.sign_eq_one_of_pos ha, Int.sign_eq_one_of_pos (by omega)]

/-- Settles O2: the quotient towards zero and its remainder, and the two cases that R82 fixes. -/
theorem divisionResults : Obligations.DivisionResults := by
  unfold Obligations.DivisionResults
  intro st d a b s
  refine ⟨fun hb _ => ?_, fun hb => ?_, fun hb => ?_, fun ha hb => ?_⟩
  · have hi : (s.me.xr b).toInt ≠ 0 := fun h => hb (BitVec.eq_of_toInt_eq h)
    refine ⟨_, _, ?_, ?_, sign_tmod_of_ne, .of_eq rfl (divW_of_ne hb), .of_eq rfl (remW_of_ne hb)⟩
    · rw [Int.mul_comm, Int.mul_tdiv_add_tmod]
    · rw [Int.natAbs_tmod]
      exact Nat.mod_lt _ (Int.natAbs_pos.2 hi)
  · have hn : 0 < (s.me.xr b).toNat := Nat.pos_of_ne_zero fun h => hb (BitVec.eq_of_toNat_eq h)
    exact ⟨_, _, (Nat.div_add_mod' _ _).symm, Nat.mod_lt _ hn, .of_eq rfl (divuW_of_ne hb), .of_eq rfl (remuW_of_ne hb)⟩
  · exact ⟨.of_eq rfl (if_pos hb), .of_eq rfl (if_pos hb), .of_eq rfl (if_pos hb), .of_eq rfl (if_pos hb)⟩
  · exact ⟨.of_eq rfl (by rw [ha, hb]; decide), .of_eq rfl (by rw [ha, hb]; decide)⟩

/-! Immediates (R83, R84). -/

theorem shiftLeft_or_setWidth (x : Word) (lo : BitVec 16) : x <<< 16 ||| lo.setWidth 64 = x.extractLsb' 0 48 ++ lo := by
  refine BitVec.eq_of_getLsbD_eq fun i hi => ?_
  rw [BitVec.getLsbD_append, BitVec.getLsbD_or, BitVec.getLsbD_shiftLeft, BitVec.getLsbD_setWidth, BitVec.getLsbD_extractLsb']
  by_cases h : i < 16
  · simp [h, hi]
  · simp [h, hi, show i - 16 < 48 by omega, BitVec.getLsbD_of_ge lo i (by omega)]

/-- Settles O3: each form applies its operation to the immediate, sign-extended, or to the six bits of its shift. -/
theorem immediateResults : Obligations.ImmediateResults := by
  unfold Obligations.ImmediateResults
  intro st d a imm sh li lo s
  refine ⟨writesX_of rfl, writesX_of rfl, writesX_of rfl, writesX_of rfl, ?_, writesX_of rfl, writesX_of rfl, writesX_of rfl,
    writesX_of rfl, ?_⟩
  · exact .of_eq rfl (by rw [sltW_eq, boolWord_eq]; rfl)
  · exact .of_eq rfl (shiftLeft_or_setWidth _ _)

/-! Branches and jumps (R85, R86). -/

theorem setWidth_16_ofInt (i : Int) : (BitVec.ofInt 64 i).setWidth 16 = BitVec.ofInt 16 i := by
  apply BitVec.eq_of_toNat_eq
  rw [BitVec.toNat_setWidth, BitVec.toNat_ofInt, BitVec.toNat_ofInt]
  omega

theorem four_mul_sextW {w : Nat} (off : BitVec w) : 4#64 * sextW off = BitVec.ofInt 64 (4 * off.toInt) := by
  rw [BitVec.ofInt_mul]
  rfl

theorem branchTo_eq (pc : BitVec 16) {w : Nat} (off : BitVec w) : branchTo pc off = BitVec.ofInt 16 (pc.toNat + 4 * off.toInt) := by
  rw [branchTo, four_mul_sextW, setWidth_16_ofInt, BitVec.ofInt_add, BitVec.ofInt_natCast, BitVec.ofNat_toNat, BitVec.setWidth_eq]

/-- Bits [15:2] of an aligned address are all of it. -/
theorem and_mask_of_aligned {a : BitVec 16} (h : a &&& 3#16 = 0#16) : a &&& 0xFFFC#16 = a := by
  have hs : a &&& 3#16 ||| a &&& 0xFFFC#16 = a := by
    rw [← BitVec.and_or_distrib_left]
    exact BitVec.and_allOnes
  rwa [h, BitVec.zero_or] at hs

/-- A branch target is aligned where the program counter is. -/
theorem branchTo_aligned {pc : BitVec 16} (h : pc &&& 3#16 = 0#16) {w : Nat} (off : BitVec w) :
    branchTo pc off &&& 0xFFFC#16 = BitVec.ofInt 16 (pc.toNat + 4 * off.toInt) := by
  have hz : (4#64 * sextW off).setWidth 16 = 4#16 * (sextW off).setWidth 16 := BitVec.setWidth_mul _ _ (by norm_num)
  rw [← branchTo_eq, and_mask_of_aligned]
  rw [aligned_iff_mod_four] at h ⊢
  rw [branchTo, hz, BitVec.toNat_add, BitVec.toNat_mul, BitVec.toNat_ofNat]
  omega

section
variable {i : Instr} {s : State} {off : BitVec 11}

/-- A taken branch goes to its target, another to the next word; neither writes a register. -/
theorem jumpsTo_branch (hp : s.me.s.pc &&& 3#16 = 0#16) {c : Bool} {p : Prop} [Decidable p] (hc : c = true ↔ p)
    (hx : exec i s = .next (s.branch c off)) :
    JumpsTo i s 0 0 (if p then BitVec.ofInt 16 (s.me.s.pc.toNat + 4 * off.toInt) else s.me.s.pc + 4#16) := by
  by_cases h : p
  · rw [if_pos h, ← branchTo_aligned hp]
    refine jumpsTo_of (hx.trans ?_)
    rw [State.branch, hc.2 h]
    rfl
  · rw [if_neg h]
    obtain ⟨t, ht, hxr, ⟨hpc, hst⟩, ho⟩ := writesX_of (d := 0) (v := 0) (hx.trans (by
      rw [State.branch, Bool.eq_false_iff.2 (mt hc.1 h)]
      rfl))
    exact ⟨t, ht, hxr, hpc, hst, ho⟩

end

/-- Settles O4: a taken branch and a jump go to the target of their offset, which is aligned. -/
theorem branchesAndJumps : Obligations.BranchesAndJumps := by
  unfold Obligations.BranchesAndJumps
  intro st d a b off far s hp next target x y
  refine ⟨jumpsTo_branch hp beq_iff_eq rfl, jumpsTo_branch hp bne_iff_ne rfl, jumpsTo_branch hp decide_eq_true_iff rfl, ?_,
    jumpsTo_branch hp decide_eq_true_iff rfl, ?_, ?_, ?_⟩
  · exact jumpsTo_branch hp (by simp [sltW, x, y]) rfl
  · exact jumpsTo_branch hp (by simp [sltuW, x, y]) rfl
  · rw [← branchTo_aligned hp]
    exact jumpsTo_of rfl
  · have h : (x + 4#64 * sextW off).setWidth 16 = BitVec.ofInt 16 (x.toNat + 4 * off.toInt) := by
      rw [four_mul_sextW, BitVec.setWidth_add _ _ (by norm_num), setWidth_16_ofInt, BitVec.ofInt_add, BitVec.ofInt_natCast, BitVec.ofNat_toNat]
    rw [← h]
    exact jumpsTo_of rfl

end Sys2Proof.Machine
end

section
/-! PROOF. Scalar floating point of the S-stream (R87-R91). -/

namespace Sys2Proof.Machine

open Sys2Proof

/-! What a floating-point instruction leaves. -/

section
variable {i : Instr} {s : State} {d : XReg}

theorem writesXSst_of {r : FpResult} (h : exec i s = .next (s.retireFp d r)) : WritesXSst i s d (word r.value) r.flags.bits := by
  refine ⟨_, h, fun n => ?_, ⟨?_, ?_⟩, ?_, onlyCore_setMe _ _, ?_⟩ <;> simp only [State.retireFp, State.me_setMe]
  · rw [Core.xr_advance, Core.xr_orSst, Core.xr_setX]
  · rw [Core.setX_eq]; rfl
  · rfl
  · rw [Core.setX_eq]; rfl
  · rw [Core.setX_eq]; rfl

theorem WritesXSst.of_eq {r : FpResult} {v flags : Word} (h : exec i s = .next (s.retireFp d r)) (hv : word r.value = v)
    (hf : r.flags.bits = flags) : WritesXSst i s d v flags := hv ▸ hf ▸ writesXSst_of h

/-- Where NV is the one flag that may be raised (R89, R90). -/
theorem bits_nv (c : Bool) : FpFlags.bits { nv := c } = if c then 16#64 else 0#64 := by cases c <;> rfl

end

/-- Settles O5: each operation is rounded once, and NV of a fused form is that of its product or of its sum. -/
theorem scalarFloatArithmetic : Obligations.ScalarFloatArithmetic := by
  unfold Obligations.ScalarFloatArithmetic
  intro st d a b s x y z sig flagsOf rounded two fused
  have hfused (i : Instr) (negP negC : Bool) (p c : FVal) (hp : (if negP then (x.mul y).neg else x.mul y) = p)
      (hc : (if negC then z.neg else z) = c)
      (hi : exec i s = .next (s.retireFp d (fusedResult (s.me.xr a) (s.me.xr b) (s.me.xr d) negP negC))) : fused i p c := by
    have hr : fusedResult (s.me.xr a) (s.me.xr b) (s.me.xr d) negP negC = fpResult .fp32
        (sig a || sig b || sig d || (p.isNan && !(x.isNan || y.isNan))) (x.isNan || y.isNan || z.isNan) (p.add c) := by
      subst hp hc
      rw [Bool.not_or, ← Bool.and_assoc]
      rfl
    rw [hr] at hi
    exact writesXSst_of hi
  have htwo (i : Instr) (f : FVal → FVal → FVal) (hi : exec i s = .next (s.retireFp d (fp2 f (s.me.xr a) (s.me.xr b)))) :
      two i (f x y) false := writesXSst_of hi
  have hdiv : exec (.fdiv st d a b) s = .next (s.retireFp d (fdivResult (s.me.xr a) (s.me.xr b))) := rfl
  have hsqrt : exec (.fsqrt st d a) s = .next (s.retireFp d (fpResult .fp32 (sig a) x.isNan x.sqrt)) := rfl
  exact ⟨htwo _ FVal.add rfl, htwo _ FVal.sub rfl, htwo _ FVal.mul rfl, writesXSst_of hdiv, writesXSst_of hsqrt,
    hfused _ false false _ _ rfl rfl rfl, hfused _ false true _ _ rfl rfl rfl, hfused _ true false _ _ rfl rfl rfl⟩

/-! An encoding is the rounding of what it denotes (R43, R44). -/

theorem Fmt.roundMag_of_mag (f : Fmt) {m N : Nat} {e : Int} (hv : (m : ℚ) * 2 ^ e = f.mag ℚ N) : f.roundMag .rne m e = (N, false) := by
  rcases eq_or_ne m 0 with rfl | hm
  · rw [Nat.cast_zero, zero_mul, ← f.mag_zero (K := ℚ)] at hv
    rw [← (f.mag_strictMono (K := ℚ)).injective hv]
    rfl
  obtain ⟨Q, hQ⟩ := f.roundMag_roundsAt (K := ℚ) hm e
  have hlo := f.mag_grid (K := ℚ) hQ.pos hQ.small.le hQ.normal
  have hhi := f.mag_grid (K := ℚ) (Q := Q + 1) hQ.pos hQ.small (hQ.normal.imp_right Nat.le_succ_of_le)
  have h1 := hQ.lower
  have h2 := hQ.upper
  rw [← hlo, hv, (f.mag_strictMono (K := ℚ)).le_iff_le] at h1
  rw [← Nat.cast_succ, ← hhi, hv, (f.mag_strictMono (K := ℚ)).lt_iff_lt] at h2
  obtain rfl : N = (f.field m e - 1) * 2 ^ f.mb + Q := by omega
  have hz := hv.trans hlo
  have hu := two_zpow_pos (K := ℚ) ((f.field m e : Int) - f.bias - f.mb)
  refine Prod.ext ?_ (hQ.exact_iff.2 hz)
  have ht := hQ.takes
  rw [hz] at ht
  rcases ht with ⟨h, -⟩ | ⟨-, h⟩ | ⟨-, -, h⟩
  · exact h
  · nlinarith
  · nlinarith

namespace Fmt.Ieee
variable {f : Fmt} (h : f.Ieee)
include h

/-- Every encoding has a sign and a magnitude. -/
theorem exists_signed {b : Nat} (hb : b < 2 ^ (f.eb + f.mb + 1)) : ∃ s n, n < 2 ^ (f.eb + f.mb) ∧ b = f.signed s n := by
  rw [Nat.pow_succ] at hb
  refine ⟨decide (2 ^ (f.eb + f.mb) ≤ b), b % 2 ^ (f.eb + f.mb), Nat.mod_lt _ (Nat.two_pow_pos _), ?_⟩
  rw [h.signed_eq]
  by_cases hs : 2 ^ (f.eb + f.mb) ≤ b
  · rw [decide_eq_true hs, Nat.mod_eq_sub_mod hs, Nat.mod_eq_of_lt (by omega), Bool.toNat_true]
    omega
  · rw [decide_eq_false hs, Nat.mod_eq_of_lt (by omega), Bool.toNat_false]
    omega

/-- Whether a magnitude is finite, infinite or NaN. -/
theorem decode_cases (s : Bool) {n : Nat} (hn : n < 2 ^ (f.eb + f.mb)) : n ≤ f.maxMag ∨
    (n = f.maxMag + 1 ∧ f.decode (f.signed s n) = .inf s) ∨ f.decode (f.signed s n) = .nan := by
  have hd := h.decode_signed s hn
  have hm := h.maxMag_succ
  have hp : 0 < 2 ^ f.mb := Nat.two_pow_pos _
  by_cases he : n / 2 ^ f.mb = 2 ^ f.eb - 1
  · rw [if_pos he] at hd
    by_cases h0 : n % 2 ^ f.mb = 0
    · rw [if_pos h0] at hd
      refine .inr (.inl ⟨?_, hd⟩)
      rw [hm, ← he, Nat.div_mul_cancel (Nat.dvd_of_mod_eq_zero h0)]
    · rw [if_neg h0] at hd
      exact .inr (.inr hd)
  · left
    have hlt : n / 2 ^ f.mb < 2 ^ f.eb := Nat.div_lt_of_lt_mul (by rwa [← Nat.pow_add, Nat.add_comm])
    have := (Nat.div_lt_iff_lt_mul hp).1 (show n / 2 ^ f.mb < 2 ^ f.eb - 1 by omega)
    omega

/-- An exact value of a format keeps its encoding, and no flag is raised. -/
theorem round_of_mag (s : Bool) {m N : Nat} {e : Int} (hv : (m : ℚ) * 2 ^ e = f.mag ℚ N) (hN : N ≤ f.maxMag) :
    f.round .rne false (.fin s m e) = ⟨f.signed s N, false, false, false⟩ := by
  rw [h.round_fin, f.roundMag_of_mag hv, if_neg (Nat.not_lt.2 hN)]
  rfl

theorem round_inf (s : Bool) : f.round .rne false (.inf s) = ⟨f.signed s (f.maxMag + 1), false, false, false⟩ := by
  simp [Fmt.round, h.sb, h.rule]

theorem round_decode {b : Nat} (hb : b < 2 ^ (f.eb + f.mb + 1)) (hn : (f.decode b).isNan = false) :
    f.round .rne false (f.decode b) = ⟨b, false, false, false⟩ := by
  obtain ⟨s, n, hlt, rfl⟩ := h.exists_signed hb
  rcases h.decode_cases s hlt with hle | ⟨rfl, hd⟩ | hd
  · obtain ⟨m, e, hd, hv⟩ := h.decode_finite ℚ s hle
    rw [hd, h.round_of_mag s hv hle]
  · rw [hd, h.round_inf]
  · rw [hd] at hn
    cases hn

end Fmt.Ieee

/-! Minima, maxima and comparisons (R89, R90). -/

theorem FVal.cmp_none {u v : FVal} (h : u.isNan ∨ v.isNan) : u.cmp v = none := by
  cases u <;> cases v <;> simp [FVal.isNan, FVal.cmp] at h ⊢

theorem FVal.ltz_eq (u v : FVal) : u.ltz v = (u.cmp v = some .lt || (u.cmp v = some .eq && u.sign && !v.sign)) := by
  unfold FVal.ltz
  rcases u.cmp v with _ | _ | _ | _ <;> simp

/-- Two significands at one exponent, as integers, compare as the values do. -/
theorem signedAt_lt_iff (m n : Nat) (e f : Int) : signedAt false m e (min e f) < signedAt false n f (min e f) ↔
    (m : ℚ) * 2 ^ e < (n : ℚ) * 2 ^ f := by
  have hs (k : Nat) (g : Int) (hg : min e f ≤ g) : (k : ℚ) * 2 ^ g = (signedAt false k g (min e f) : ℚ) * 2 ^ min e f := by
    rw [two_zpow_eq_mul hg, ← mul_assoc]
    simp [signedAt]
  rw [hs m e (min_le_left _ _), hs n f (min_le_right _ _), mul_lt_mul_iff_left₀ (two_zpow_pos _), Int.cast_lt]

/-- An FP32 operand that is no NaN, rounded to FP32, is itself. -/
theorem word_roundBits_fv {x : Word} (h : (fv x).isNan = false) :
    word (Fmt.fp32.roundBits .rne false (fv x)) = (x.setWidth 32).setWidth 64 := by
  have hb : f32 x < 2 ^ 32 := Nat.mod_lt _ (by norm_num)
  rw [Fmt.roundBits, fv, Fmt.ieee_fp32.round_decode hb h]
  apply BitVec.eq_of_toNat_eq
  rw [word, BitVec.toNat_ofNat, BitVec.toNat_setWidth, BitVec.toNat_setWidth]
  rfl

theorem FVal.eq_nan {u : FVal} (h : u.isNan = true) : u = .nan := by
  cases u <;> first | rfl | cases h

section
variable {i : Instr} {s : State} {d a b : XReg}

theorem writesXSst_fpick {f : FVal → FVal → FVal} {v : Word}
    (hi : exec i s = .next (s.retireFp d (fpick f (s.me.xr a) (s.me.xr b))))
    (hv : word (Fmt.fp32.roundBits .rne false (f (fv (s.me.xr a)) (fv (s.me.xr b)))) = v) :
    WritesXSst i s d v (if fsig (s.me.xr a) || fsig (s.me.xr b) then 16#64 else 0#64) := .of_eq hi hv (bits_nv _)

end

section
variable {i : Instr} {s : State} {d a b : XReg}

theorem writesXSst_fcompare {quiet : Bool} {p : Ordering → Bool} {c : Prop} [Decidable c]
    (hi : exec i s = .next (s.retireFp d (fcompare quiet p (s.me.xr a) (s.me.xr b))))
    (hc : ((fv (s.me.xr a)).cmp (fv (s.me.xr b))).any p = true ↔ c) : WritesXSst i s d (if c then 1 else 0)
      (if fsig (s.me.xr a) || fsig (s.me.xr b) || (!quiet && ((fv (s.me.xr a)).isNan || (fv (s.me.xr b)).isNan)) then 16#64 else 0#64) := by
  refine .of_eq hi ?_ (bits_nv _)
  have hm : (fcompare quiet p (s.me.xr a) (s.me.xr b)).value = (((fv (s.me.xr a)).cmp (fv (s.me.xr b))).any p).toNat := by
    unfold fcompare
    cases (fv (s.me.xr a)).cmp (fv (s.me.xr b)) <;> rfl
  rw [hm]
  by_cases h : c
  · rw [if_pos h, hc.2 h]; rfl
  · rw [if_neg h, Bool.eq_false_iff.2 (mt hc.1 h)]; rfl

end

/-- Settles O7: a result that is an operand keeps its encoding, and the order of R89 is that of the model. -/
theorem scalarFloatCompareAndMinMax : Obligations.ScalarFloatCompareAndMinMax := by
  unfold Obligations.ScalarFloatCompareAndMinMax
  intro st d a b s x y sig nan nv ba bb below
  have hx : fv (s.me.xr a) = x := rfl
  have hy : fv (s.me.xr b) = y := rfl
  have hmin (v : Word) (hv : word (Fmt.fp32.roundBits .rne false (x.minv y)) = v) :
      WritesXSst (.fmin st d a b) s d v (nv sig) := writesXSst_fpick rfl hv
  have hmax (v : Word) (hv : word (Fmt.fp32.roundBits .rne false (x.maxv y)) = v) :
      WritesXSst (.fmax st d a b) s d v (nv sig) := writesXSst_fpick rfl hv
  have ha (h : ¬ x.isNan) : word (Fmt.fp32.roundBits .rne false x) = ba := word_roundBits_fv (Bool.eq_false_iff.2 h)
  have hb (h : ¬ y.isNan) : word (Fmt.fp32.roundBits .rne false y) = bb := word_roundBits_fv (Bool.eq_false_iff.2 h)
  have hbelow (u v : FVal) : u.ltz v = below u v := FVal.ltz_eq u v
  refine ⟨fun h1 h2 => ?_, fun h1 h2 => ?_, fun h1 h2 => ?_, fun h1 h2 => ?_, ?_, ?_, ?_, fun u v => FVal.cmp_none, fun m n e f =>
    ⟨?_, ?_⟩⟩
  · have hm : x.minv y = .nan ∧ x.maxv y = .nan := by simp [FVal.minv, FVal.maxv, h1, FVal.eq_nan h2]
    exact ⟨hmin _ (by rw [hm.1]; rfl), hmax _ (by rw [hm.2]; rfl)⟩
  · have hm : x.minv y = y ∧ x.maxv y = y := by simp [FVal.minv, FVal.maxv, h1]
    exact ⟨hmin _ (by rw [hm.1, hb h2]), hmax _ (by rw [hm.2, hb h2])⟩
  · have hm : x.minv y = x ∧ x.maxv y = x := by simp [FVal.minv, FVal.maxv, h1, h2]
    exact ⟨hmin _ (by rw [hm.1, ha h1]), hmax _ (by rw [hm.2, ha h1])⟩
  · have hm : x.minv y = (if below y x then y else x) ∧ x.maxv y = (if below x y then y else x) := by
      simp [FVal.minv, FVal.maxv, h1, h2, hbelow]
    refine ⟨hmin _ ?_, hmax _ ?_⟩
    · rw [hm.1]; split
      · exact hb h2
      · exact ha h1
    · rw [hm.2]; split
      · exact hb h2
      · exact ha h1
  · have h := writesXSst_fcompare (i := .feq st d a b) (s := s) (d := d) (a := a) (b := b) (c := x.cmp y = some .eq) rfl
      (by rw [hx, hy]; rcases x.cmp y with _ | _ | _ | _ <;> simp)
    rwa [Bool.not_true, Bool.false_and, Bool.or_false] at h
  · exact writesXSst_fcompare (i := .flt st d a b) (s := s) (d := d) (a := a) (b := b) (c := x.cmp y = some .lt) rfl
      (by rw [hx, hy]; rcases x.cmp y with _ | _ | _ | _ <;> simp)
  · exact writesXSst_fcompare (i := .fle st d a b) (s := s) (d := d) (a := a) (b := b)
      (c := x.cmp y = some .lt ∨ x.cmp y = some .eq) rfl (by rw [hx, hy]; rcases x.cmp y with _ | _ | _ | _ <;> simp)
  · simp [FVal.cmp, signedAt]
  · rw [← signedAt_lt_iff, FVal.cmp, Option.some_inj, compare_lt_iff_lt]

/-! Conversions (R45, R88). -/

theorem word_wrapInt (i : Int) : word (wrapInt 64 i) = BitVec.ofInt 64 i := by
  rw [wrapInt_eq_toNat_ofInt, word, BitVec.ofNat_toNat, BitVec.setWidth_eq]

theorem maxMag_fp32 : Fmt.fp32.maxMag + 1 = 255 * 2 ^ 23 := by norm_num [Fmt.maxMag, Fmt.fp32]

/-- An integer of 32 bits is far from overflow and from underflow. -/
theorem round_int32 (neg : Bool) {m : Nat} (hm : m ≤ 2 ^ 31) :
    (Fmt.fp32.round .rne false (.fin neg m 0)).overflow = false ∧ (Fmt.fp32.round .rne false (.fin neg m 0)).uf = false := by
  rcases eq_or_ne m 0 with rfl | h0
  · rw [Fmt.ieee_fp32.round_of_mag neg (N := 0) (by rw [Fmt.mag_zero, Nat.cast_zero, zero_mul]) (Nat.zero_le _)]
    exact ⟨rfl, rfl⟩
  have ht : topExp m 0 ≤ 31 ∧ 0 ≤ topExp m 0 := by
    have hl : Nat.log2 m < 32 := (Nat.log2_lt h0).2 (by omega)
    unfold topExp
    omega
  obtain ⟨Q, hQ⟩ := Fmt.fp32.roundMag_roundsAt (K := ℚ) h0 0
  have hn : (Fmt.fp32.roundMag .rne m 0).1 ≤ (Fmt.fp32.field m 0 - 1) * 2 ^ 23 + Q + 1 := by
    have hmb : Fmt.fp32.mb = 23 := rfl
    rcases hQ.takes with ⟨h, -⟩ | ⟨h, -⟩ | ⟨h | h, -⟩ <;> rw [h, hmb] <;> omega
  have hE := Fmt.fp32.field_eq m 0
  have hb : Fmt.fp32.bias = 127 := rfl
  have hs : Q < 2 ^ 24 := hQ.small
  have hmax := maxMag_fp32
  have htiny : Fmt.fp32.tinyAfter .rne m 0 = false := by
    simp only [Fmt.tinyAfter, beq_iff_eq, h0, if_false, hb]
    rw [if_pos (by omega)]
  rw [Fmt.ieee_fp32.round_fin, if_neg (by omega), htiny]
  exact ⟨rfl, Bool.and_false _⟩

/-- A signalling encoding is a NaN (R32). -/
theorem Fmt.Ieee.isNan_of_signalling {f : Fmt} (h : f.Ieee) {b : Nat} (hb : f.signalling b = true) : (f.decode b).isNan = true := by
  simp only [Fmt.signalling, Bool.and_eq_true, beq_iff_eq, bne_iff_ne] at hb
  obtain ⟨⟨he, hm⟩, -⟩ := hb
  have hdiv : b % 2 ^ (f.eb + f.mb) / 2 ^ f.mb = b / 2 ^ f.mb % 2 ^ f.eb := by
    rw [Nat.pow_add, Nat.mul_comm, Nat.mod_mul_right_div_self]
  have hmod : b % 2 ^ (f.eb + f.mb) % 2 ^ f.mb = b % 2 ^ f.mb := Nat.mod_mod_of_dvd _ (Nat.pow_dvd_pow 2 (Nat.le_add_left _ _))
  simp only [Fmt.decode, h.rule, hdiv, hmod, he, beq_self_eq_true, Bool.and_self, if_true, beq_iff_eq, hm, if_false]
  rfl

/-- Every BF16 magnitude is the upper half of an FP32 magnitude of the same value (R31). -/
theorem mag_bf16 (n : Nat) : Fmt.bf16.mag ℚ n = Fmt.fp32.mag ℚ (n * 2 ^ 16) := by
  have hb : Fmt.bf16.bias = 127 ∧ Fmt.bf16.mb = 7 := ⟨rfl, rfl⟩
  have hf : Fmt.fp32.bias = 127 ∧ Fmt.fp32.mb = 23 := ⟨rfl, rfl⟩
  have hd : n * 2 ^ 16 / 2 ^ 23 = n / 2 ^ 7 := by omega
  have hm : n * 2 ^ 16 % 2 ^ 23 = n % 2 ^ 7 * 2 ^ 16 := by omega
  have hz : (2 : ℚ) ^ (((max (n / 2 ^ 7) 1 : Nat) : Int) - 127 - (7 : Nat)) =
      2 ^ 16 * 2 ^ (((max (n / 2 ^ 7) 1 : Nat) : Int) - 127 - (23 : Nat)) := by
    rw [← zpow_natCast, ← zpow_add₀ two_ne_zero]
    congr 1
    omega
  rw [Fmt.mag, Fmt.mag, hb.1, hb.2, hf.1, hf.2, hd, hm, hz, ← mul_assoc]
  congr 1
  split <;> push_cast <;> ring

/-- FCVTSB gives the upper half of an FP32 encoding. -/
theorem round_fp32_bf16 {b : Nat} (hb : b < 2 ^ 16) (hn : (Fmt.bf16.decode b).isNan = false) :
    Fmt.fp32.round .rne false (Fmt.bf16.decode b) = ⟨b * 2 ^ 16, false, false, false⟩ := by
  obtain ⟨s, n, hlt, rfl⟩ := Fmt.ieee_bf16.exists_signed hb
  have hs : Fmt.bf16.signed s n * 2 ^ 16 = Fmt.fp32.signed s (n * 2 ^ 16) := by
    rw [Fmt.ieee_bf16.signed_eq, Fmt.ieee_fp32.signed_eq, Nat.add_mul, Nat.mul_right_comm, show Fmt.bf16.eb + Fmt.bf16.mb = 15 from rfl,
      ← Nat.pow_add]
    rfl
  have hm : (Fmt.bf16.maxMag + 1) * 2 ^ 16 = Fmt.fp32.maxMag + 1 := by
    rw [maxMag_fp32]
    norm_num [Fmt.maxMag, Fmt.bf16]
  rw [hs]
  rcases Fmt.ieee_bf16.decode_cases s hlt with hle | ⟨rfl, hd⟩ | hd
  · obtain ⟨m, e, hd, hv⟩ := Fmt.ieee_bf16.decode_finite ℚ s hle
    rw [hd, Fmt.ieee_fp32.round_of_mag s (hv.trans (mag_bf16 n)) (by omega)]
  · rw [hd, Fmt.ieee_fp32.round_inf, hm]
  · rw [hd] at hn
    cases hn

section
variable {i : Instr} {s : State} {d : XReg} {x : Word}

theorem fcvtws_nan (h : fv x = .nan) : fcvtws x = ⟨0, { nv := true }⟩ := by
  simp [fcvtws, h, FVal.toInt, wrapInt]

theorem fcvtws_inf {n : Bool} (h : fv x = .inf n) : fcvtws x = ⟨wrapInt 64 (if n then -2147483648 else 2147483647), { nv := true }⟩ := by
  simp [fcvtws, h, FVal.toInt, intRange]

/-- What FCVTWS gives of a finite operand. -/
theorem fcvtws_fin {n : Bool} {m : Nat} {e : Int} (h : fv x = .fin n m e) :
    let j := roundToInt .rne n m e
    fcvtws x = if j.1 < -2147483648 then ⟨wrapInt 64 (-2147483648), { nv := true }⟩
      else if 2147483647 < j.1 then ⟨wrapInt 64 2147483647, { nv := true }⟩ else ⟨wrapInt 64 j.1, { nx := j.2 }⟩ := by
  intro j
  have hsig : fsig x = false := Bool.eq_false_iff.2 fun hs => by
    have hn : (fv x).isNan = true := Fmt.ieee_fp32.isNan_of_signalling hs
    rw [h] at hn
    cases hn
  have hf (c : Int) (hc : clampInt (-2147483648) 2147483647 j.1 = c) : fcvtws x =
      if c = j.1 then ⟨wrapInt 64 c, { nx := j.2 }⟩ else ⟨wrapInt 64 c, { nv := true }⟩ := by
    have ht : (fv x).toInt .rne (intRange true 32).1 (intRange true 32).2 = if c = j.1 then (c, false, j.2) else (c, true, false) := by
      rw [h, ← hc]
      simp only [← beq_iff_eq (b := j.1)]
      rfl
    rw [fcvtws, ht, hsig]
    split
    · rfl
    · rfl
  unfold clampInt at hf
  by_cases h1 : j.1 < -2147483648
  · rw [if_pos h1, hf (-2147483648) (by omega), if_neg (by omega)]
  · by_cases h2 : 2147483647 < j.1
    · rw [if_neg h1, if_pos h2, hf 2147483647 (by omega), if_neg (by omega)]
    · rw [if_neg h1, if_neg h2, hf j.1 (by omega), if_pos rfl]

end

/-- The flags of an integer that is in range. -/
theorem bits_nx (c : Bool) : FpFlags.bits { nx := c } = if c then 1#64 else 0#64 := by cases c <;> rfl

/-- The flags of a conversion, which never divides (R46). -/
theorem bits_no_dz : ∀ nv o u nx : Bool, FpFlags.bits ⟨nv, false, o, u, nx⟩ =
    (if nv then 16#64 else 0#64) ||| (if o then 4#64 else 0#64) ||| (if u then 2#64 else 0#64) ||| (if nx then 1#64 else 0#64) := by
  decide

/-- Settles O8: integers of 32 bits and BF16 values are FP32 values or round once, and a rounding to an integer is clamped. -/
theorem scalarFloatConversions : Obligations.ScalarFloatConversions := by
  unfold Obligations.ScalarFloatConversions
  intro st d a s w x i r nv nx
  have hx : fv (s.me.xr a) = x := rfl
  have hi : FVal.ofInt (sextNat 32 (f32 (s.me.xr a))) = .fin (decide (i < 0)) i.natAbs 0 := by
    have he : sextNat 32 (f32 (s.me.xr a)) = i := by
      rw [sextNat_eq_signedOf, signedOf, f32]
      exact congrArg BitVec.toInt (BitVec.eq_of_toNat_eq (by simp [w]))
    rw [he]
    rfl
  have hr : r.overflow = false ∧ r.uf = false := round_int32 _ (by
    have h1 : -2 ^ 31 ≤ i := BitVec.le_toInt _
    have h2 : i < 2 ^ 31 := BitVec.toInt_lt
    omega)
  have hws : exec (.fcvtws st d a) s = .next (s.retireFp d (fcvtws (s.me.xr a))) := rfl
  refine ⟨⟨?_, hr⟩, fun h => ?_, fun n h => ?_, fun n m e h => ?_, ?_, ?_⟩
  · refine .of_eq (r := ⟨r.bits, { nx := r.nx }⟩) ?_ rfl (bits_nx _)
    have he : fpResult .fp32 false false (.fin (decide (i < 0)) i.natAbs 0) = ⟨r.bits, { nx := r.nx }⟩ := by
      have hf : fpResult .fp32 false false (.fin (decide (i < 0)) i.natAbs 0) =
          ⟨r.bits, ⟨false, false, r.overflow, r.uf, r.nx || r.overflow⟩⟩ := rfl
      rw [hf, hr.1, hr.2, Bool.or_false]
    rw [← he, ← hi]
    rfl
  · rw [fcvtws_nan (hx.trans (FVal.eq_nan h))] at hws
    exact .of_eq hws rfl (bits_nv true)
  · rw [fcvtws_inf (hx.trans h)] at hws
    exact .of_eq hws (by cases n <;> rfl) (bits_nv true)
  · intro j
    rw [fcvtws_fin (hx.trans h)] at hws
    by_cases h1 : j < -2147483648
    · rw [if_pos h1] at hws ⊢
      exact .of_eq hws rfl rfl
    · by_cases h2 : 2147483647 < j
      · rw [if_neg h1, if_pos h2] at hws ⊢
        exact .of_eq hws rfl rfl
      · rw [if_neg h1, if_neg h2] at hws ⊢
        exact .of_eq hws (word_wrapInt j) (bits_nx _)
  · intro b
    refine .of_eq (r := fpResult .bf16 (fsig (s.me.xr a)) x.isNan x) rfl rfl ?_
    have hf : (fpResult .bf16 (fsig (s.me.xr a)) x.isNan x).flags =
        ⟨fsig (s.me.xr a) || (x.isNan && !x.isNan), false, b.overflow, b.uf, b.nx || b.overflow⟩ := rfl
    rw [hf, Bool.and_not_self, Bool.or_false]
    exact bits_no_dz _ _ _ _
  · intro y
    have hsb : exec (.fcvtsb st d a) s = .next (s.retireFp d (fpResult .fp32 (Fmt.bf16.signalling (w % 2 ^ 16)) y.isNan y)) := rfl
    cases hy : y.isNan with
    | true =>
      rw [FVal.eq_nan hy] at hsb
      rw [if_pos rfl]
      refine .of_eq hsb rfl ?_
      exact (congrArg (fun c => FpFlags.bits { nv := c }) (Bool.or_false _)).trans (bits_nv _)
    | false =>
      rw [if_neg Bool.false_ne_true]
      have he : fpResult .fp32 (Fmt.bf16.signalling (w % 2 ^ 16)) y.isNan y =
          ⟨w % 2 ^ 16 * 2 ^ 16, { nv := Fmt.bf16.signalling (w % 2 ^ 16) }⟩ := by
        rw [fpResult, round_fp32_bf16 (Nat.mod_lt _ (by norm_num)) hy, hy]
        simp [Rounded.flags]
      rw [he] at hsb
      exact .of_eq hsb rfl (bits_nv _)

end Sys2Proof.Machine
end

section
/-! PROOF. The information of a token, and the drawer tag table (R110, R111, R114, R115). -/

namespace Sys2Proof.Machine

open Sys2Proof

/-! TINFO and TCHK (R110, R111). -/

theorem Core.mteOf_some {c : Core} {u : Tok} (h : (c.mte u.idx.toNat).gen = u.gen) : c.mteOf (some u) = c.mte u.idx.toNat := if_pos h

theorem toNat_word_of_lt {n : Nat} (h : n < 2 ^ 64) : (word n).toNat = n := by
  rw [word, BitVec.toNat_ofNat, Nat.mod_eq_of_lt h]

/-- The fields of the information word, from the top. -/
theorem infoWord_eq (u : Tok) (m : Mte) {code : BitVec 2} (hc : code.toNat = m.st.code) : infoWord (some u) m =
    code ++ BitVec.ofBool m.w ++ BitVec.ofBool m.r ++ m.mask ++ m.fsel ++ u.idx ++ u.gen.setWidth 11 ++ BitVec.ofNat 33 m.len := by
  apply BitVec.eq_of_toNat_eq
  simp only [toNat_append_eq_add, hc, BitVec.toNat_ofBool, BitVec.toNat_setWidth, BitVec.toNat_ofNat]
  have h1 : m.st.code < 4 := by cases m.st <;> decide
  have h2 := Bool.toNat_lt m.w
  have h3 := Bool.toNat_lt m.r
  have h4 := m.mask.isLt
  have h5 := m.fsel.isLt
  have h6 := u.idx.isLt
  rw [infoWord, toNat_word_of_lt (by omega)]
  omega

/-- An address of 56 bits below a byte. -/
theorem word_tagged (t : BitVec 8) {n : Nat} (h : n < 2 ^ 56) : word (2 ^ 56 * t.toNat + n) = t ++ BitVec.ofNat 56 n := by
  have ht := t.isLt
  apply BitVec.eq_of_toNat_eq
  rw [toNat_append_eq_add, BitVec.toNat_ofNat, Nat.mod_eq_of_lt h, toNat_word_of_lt (by omega)]

theorem exec_tchk (st : SStall) (tk : TReg) (a : XReg) {s : State} {m : Mte} (hm : s.me.mteOf (s.me.tr tk) = m) (hh : m.holds = false) :
    exec (.tchk st tk a) s = .next (s.retireX a (match m.st with | .null => 0 | .dead => word (2 ^ 63 + m.vbase) | _ => word m.vbase)) := by
  change execTchk st tk a s = _
  simp only [execTchk, hm, hh, Bool.false_eq_true, if_false]
  cases m.st <;> rfl

theorem exec_tchk_held (st : SStall) (tk : TReg) (a : XReg) {s : State} (hh : (s.me.mteOf (s.me.tr tk)).holds = true) :
    exec (.tchk st tk a) s = .next (s.setMe (s.me.waitS (.stale (((s.me.tr tk).map (fun t => t.idx)).getD 0)))) := if_pos hh

theorem Mte.holds_of_ne {m : Mte} (h : m.st ≠ .stale) (hp : m.pred = false) : m.holds = false := by
  rw [Mte.holds, hp, Bool.or_false, beq_eq_false_iff_ne]
  exact h

/-- Settles O18: the word's fields lie where R110 puts them, and TCHK heeds the state of the entry. -/
theorem tokenInformation : Obligations.TokenInformation := by
  unfold Obligations.TokenInformation
  intro st tk a s u hu hg m code
  have hm : s.me.mteOf (s.me.tr tk) = m := by rw [hu]; exact Core.mteOf_some hg
  refine ⟨?_, fun hs hp hv => ?_, fun hs hp hv => ?_, fun hs => ?_, fun s hn => ?_⟩
  · have hi : exec (.tinfo st tk a) s = .next (s.retireX a (infoWord (s.me.tr tk) (s.me.mteOf (s.me.tr tk)))) := rfl
    rw [hm, hu] at hi
    exact .of_eq hi (infoWord_eq u m (by simp only [code]; cases m.st <;> rfl))
  · refine .of_eq (exec_tchk st tk a hm (Mte.holds_of_ne (by rw [hs]; decide) hp)) ?_
    rw [hs, ← word_tagged 0#8 hv]
    exact congrArg word (Nat.zero_add _).symm
  · refine .of_eq (exec_tchk st tk a hm (Mte.holds_of_ne (by rw [hs]; decide) hp)) ?_
    rw [hs, ← word_tagged 0x80#8 hv]
    rfl
  · refine waits_of ?_
    rw [exec_tchk_held st tk a (show (s.me.mteOf (s.me.tr tk)).holds = true by rw [hm, Mte.holds, hs]; rfl), hu]
    rfl
  · have hm0 : s.me.mteOf (s.me.tr tk) = {} := by rw [hn]; rfl
    refine ⟨.of_eq (v := infoWord (s.me.tr tk) (s.me.mteOf (s.me.tr tk))) rfl (by rw [hn]; rfl), .of_eq (exec_tchk st tk a hm0 rfl) rfl⟩

/-! LOOK and DTAG (R114, R115). -/

/-- What a table reads that is not its default stands in it. -/
theorem Sparse.mem_of_get {α : Type} {d : α} {m : Sparse α} {k : Nat} (h : Sparse.get d m k ≠ d) : (k, Sparse.get d m k) ∈ m := by
  induction m with
  | nil => exact absurd rfl h
  | cons c m ih =>
    obtain ⟨j, w⟩ := c
    rw [Sparse.get_cons] at h ⊢
    split
    · next hj => rw [hj]; exact List.mem_cons_self
    · next hj =>
      rw [if_neg hj] at h
      exact List.mem_cons_of_mem _ (ih h)

theorem Core.mem_hits {c : Core} {tag : BitVec 63} (n : Nat) :
    n ∈ ((c.s.tags.filter (fun e => e.2 == some tag)).map (fun e => e.1)).filter (fun n => Sparse.get none c.s.tags n == some tag) ↔
      Sparse.get none c.s.tags n = some tag := by
  rw [List.mem_filter, beq_iff_eq]
  refine ⟨fun h => h.2, fun h => ⟨?_, h⟩⟩
  have hm := Sparse.mem_of_get (d := none) (m := c.s.tags) (k := n) (by rw [h]; exact Option.some_ne_none _)
  rw [h] at hm
  exact List.mem_map.2 ⟨_, List.mem_filter.2 ⟨hm, beq_self_eq_true _⟩, rfl⟩

theorem Core.lookTag_eq_some {c : Core} {tag : BitVec 63} {k : Nat} (h : Sparse.get none c.s.tags k = some tag)
    (hk : ∀ j, j < k → Sparse.get none c.s.tags j ≠ some tag) : c.lookTag tag = some k :=
  List.min?_eq_some_iff.2 ⟨(Core.mem_hits k).2 h, fun j hj => Nat.le_of_not_lt fun hlt => hk j hlt ((Core.mem_hits j).1 hj)⟩

theorem Core.lookTag_eq_none {c : Core} {tag : BitVec 63} (h : ∀ k, Sparse.get none c.s.tags k ≠ some tag) : c.lookTag tag = none :=
  List.min?_eq_none_iff.2 (List.eq_nil_iff_forall_not_mem.2 fun k hk => h k ((Core.mem_hits k).1 hk))

theorem exec_look (st : SStall) (d a : XReg) {s : State} {r : Option Nat}
    (hr : (if (s.me.xr a).getLsbD 63 then none else s.me.lookTag ((s.me.xr a).setWidth 63)) = r) :
    exec (.look st d a) s = .next (s.retireX d ((r.map word).getD (BitVec.allOnes 64))) := hr ▸ rfl

/-- A change of the current core, and on at the next word. -/
theorem State.coreIs_setMe_retire (s : State) (c : Core) : CoreIs s.curN c.advance s (s.setMe c).retire :=
  ((CoreIs.refl s.curN s).setCore c).onCore Core.advance

/-- Settles O19: the hits of LOOK are the drawers that read as valid with the tag. -/
theorem drawerTags : Obligations.DrawerTags := by
  unfold Obligations.DrawerTags
  intro st d a b s tag want n
  refine ⟨fun k h63 hk hlow => ?_, fun h => ?_, fun hn => ?_, fun hn => ?_⟩
  · exact writesX_of (exec_look st d a (r := some k) (by rw [h63]; exact Core.lookTag_eq_some hk hlow))
  · refine writesX_of (exec_look st d a (r := none) ?_)
    rcases h with h | h
    · rw [if_pos h]
    · split
      · rfl
      · exact Core.lookTag_eq_none h
  · obtain ⟨hc, hme⟩ := s.coreIs_setMe_retire (s.me.onS (fun t => { t with
      tags := Sparse.put none t.tags n (if (s.me.xr b).getLsbD 63 then none else some ((s.me.xr b).setWidth 63)) }))
    have hme' := CoreIs.me ⟨hc, hme⟩
    refine ⟨_, if_neg (Nat.not_le.2 hn), fun k => ?_, ⟨?_, ?_⟩, hc, ?_⟩ <;> rw [hme']
    · exact Sparse.get_put _ _ _ _
    all_goals rfl
  · obtain ⟨hc, hme⟩ := s.coreIs_setMe_retire (s.me.oox true)
    exact ⟨_, if_pos hn, hc, CoreIs.me ⟨hc, hme⟩⟩

end Sys2Proof.Machine
end

section
/-! PROOF. Loads and stores through a token of the S-stream (R92-R95, R249, R353). -/

namespace Sys2Proof.Machine

open Sys2Proof

variable {s : State}

/-! A load of clean bytes (R93). -/

theorem NoBuffer.storesSeen {k : Nat} (h : NoBuffer s k) : s.storesSeen k = [] := by
  unfold State.storesSeen
  rw [h.1]
  split
  · rfl
  · next hs => rw [h.2 hs]; rfl

theorem State.shadowed_of_noTwin {k : Nat} (h : NoTwin s k) (x : Nat) (d : List PByte) : s.shadowed k x d = d := by
  unfold State.shadowed
  split
  · rfl
  · next w hw => rw [h _ (Or.inr rfl) w hw]; rfl

theorem length_devBytes (pa n : Nat) : (s.devBytes pa n).length = n := by simp [State.devBytes]

/-- What no store and no overlay hides is seen as it lies. -/
theorem State.seen_dev {k pa n : Nat} {key : Option (BitVec 13)} (hm : s.mem.mig = []) (hk : Keyed s key pa n) (hc : CleanAt s pa n)
    (hb : NoBuffer s k) (ht : NoTwin s k) (x : Nat) : s.seen k .dev pa x n key = (s, clean (s.devBytes pa n)) := by
  have hs : s.seen k .dev pa x n key = ((s.devGet pa n key).1,
      overlaid .dev pa ((s.devGet pa n key).1.shadowed k x (s.devGet pa n key).2) ((s.devGet pa n key).1.storesSeen k)) := rfl
  rw [hs, devGet_of_clean hm hk hc, hb.storesSeen, State.shadowed_of_noTwin ht]
  rfl

/-- An access that is one piece of clean bytes reads them. -/
theorem State.readPieces_reaches {k off n pa : Nat} {tok : Option Tok} {w : Bool}
    (hr : Reaches s ((s.core k).mteOf tok) .s true w off n pa) (hc : CleanAt s pa n) (hb : NoBuffer s k) (ht : NoTwin s k) :
    s.readPieces k tok n [⟨.at .dev pa, 0, off, n, ((s.core k).mteOf tok).keyAt off⟩] = (s, clean (s.devBytes pa n)) := by
  obtain ⟨-, -, -, -, -, -, -, hm, -, -, hk⟩ := hr
  exact State.readPieces_one (State.seen_dev hm (hk rfl) hc hb ht _) ((length_clean _).trans (length_devBytes pa n))

/-- Settles O9: a load that meets no store performs as it issues, and its one piece is read as it lies. -/
theorem tokenLoadReadsMemory : Obligations.TokenLoadReadsMemory := by
  unfold Obligations.TokenLoadReadsMemory
  rintro st d tk o imm s pa ⟨⟨hz, hl, hq⟩, -, hb, ht⟩ at_ loads
  have main (i : Instr) (size : Nat) (hx : exec i s = .next (s.loadS (tokLoad d (s.me.tr tk) (at_ size) size))) : loads i size := by
    intro hr hc
    have hread := State.readPieces_reaches (k := s.curN) hr hc hb ht
    have h := does_load_live hx hz hl (fun q h => by rw [show s.me.s.queue = [] from hq] at h; cases h) (access_of_reaches hr 0)
      (by rw [hread]; exact anyPois_clean _)
    rw [hread, plain_clean] at h
    exact h
  exact ⟨main _ 1 rfl, main _ 2 rfl, main _ 4 rfl, main _ 8 rfl⟩

/-! Accesses that reach nothing (R93). -/

section
variable {k off n : Nat} {tok : Option Tok} {b : MaskBit} {r w : Bool}

/-- An access of one run of bytes whose lines have all arrived. -/
theorem State.access_one (h : ((s.core k).mteOf tok).st ≠ .stale) (hd : ((s.core k).mteOf tok).st ≠ .dead)
    (hp : ((s.core k).mteOf tok).pred = false)
    (hl : ∀ p, p ∈ s.pieces ((s.core k).mteOf tok) (((s.core k).mteOf tok).may b r w) 0 off n → s.missingLine p = none) :
    s.access k tok b r w [(0, off, n)] = .live (s.pieces ((s.core k).mteOf tok) (((s.core k).mteOf tok).may b r w) 0 off n) := by
  have hn := List.findSome?_eq_none_iff.2 hl
  simp only [State.access, hp, List.flatMap_cons, List.flatMap_nil, List.append_nil, hn]
  cases hs : ((s.core k).mteOf tok).st with
  | stale => exact absurd hs h
  | dead => exact absurd hs hd
  | null => rfl
  | live => rfl

theorem anyOut_append (ps qs : List Piece) : anyOut (ps ++ qs) = (anyOut ps || anyOut qs) := List.any_append

/-- The first piece of a run that the entry does not grant, or that begins beyond its end, is unreachable. -/
theorem State.anyOut_pieces (m : Mte) {ok : Bool} (h : ok = false ∨ m.len ≤ off % 2 ^ 64) (hn : 0 < n) :
    anyOut (s.pieces m ok 0 off n) = true := by
  have hk : ¬ min n (2 ^ 64 - off % 2 ^ 64) = 0 := by omega
  have hc : (!ok || decide (m.len ≤ off % 2 ^ 64)) = true := by
    rcases h with h | h
    · rw [h]; rfl
    · rw [decide_eq_true h, Bool.or_true]
  rw [State.pieces, anyOut_append, State.piecesFrom, if_neg hk, if_pos hc]
  rfl

theorem State.out_of_pieces_refused (m : Mte) : ∀ p, p ∈ s.pieces m false 0 off n → p.loc = .out := by
  intro p hp
  rcases List.mem_append.1 hp with h | h <;>
    (rw [State.piecesFrom_refused] at h
     split at h
     · cases h
     · rw [List.mem_singleton.1 h])

theorem State.missingLine_out {p : Piece} (h : p.loc = .out) : s.missingLine p = none := by simp only [State.missingLine, h]

theorem State.missingLine_still (h : Still s) (p : Piece) : s.missingLine p = none := by
  unfold State.missingLine
  split
  · refine List.findSome?_eq_none_iff.2 fun q hq => ?_
    rw [h q hq]
    rfl
  · rfl

/-- The pieces of the null token, whatever the access. -/
theorem State.access_null_out (hn : 0 < n) :
    ∃ ps, s.access k none b r w [(0, off, n)] = .live ps ∧ anyOut ps = true ∧ ∀ p, p ∈ ps → p.loc = .out := by
  have hm : (({} : Mte).may b r w) = false := by
    rw [Mte.may, show ({} : Mte).mask = 0#6 from rfl, BitVec.getLsbD_zero, Bool.and_false]
  have hout := s.out_of_pieces_refused (off := off) (n := n) ({} : Mte)
  have hl : s.access k none b r w [(0, off, n)] = .live (s.pieces {} (({} : Mte).may b r w) 0 off n) :=
    State.access_one (tok := none) (fun h => MteSt.noConfusion h) (fun h => MteSt.noConfusion h) rfl fun p hp => by
      have hp' : p ∈ s.pieces {} (({} : Mte).may b r w) 0 off n := hp
      rw [hm] at hp'
      exact State.missingLine_out (hout p hp')
  rw [hm] at hl
  exact ⟨_, hl, s.anyOut_pieces _ (.inl rfl) hn, hout⟩

end

/-! A store enters its queue, and leaves it (R93, R94, R249). -/

theorem leBytes_eq (n v : Nat) : leBytes n v = (List.range n).map (fun j => BitVec.ofNat 8 (v / 2 ^ (8 * j))) := by
  induction n generalizing v with
  | zero => rfl
  | succ n ih =>
    rw [leBytes, ih, List.range_succ_eq_map, List.map_cons, List.map_map, Nat.mul_zero, Nat.pow_zero, Nat.div_one]
    refine congrArg _ (List.map_congr_left fun j _ => ?_)
    rw [Function.comp_apply, Nat.div_div_eq_div_mul, Nat.mul_succ, Nat.add_comm (8 * j), Nat.pow_add]

theorem leBytes_toNat (n : Nat) (v : Word) : leBytes n v.toNat = (List.range n).map (fun j => v.extractLsb' (8 * j) 8) := by
  rw [leBytes_eq]
  refine List.map_congr_left fun j _ => BitVec.eq_of_toNat_eq ?_
  rw [BitVec.extractLsb'_toNat, Nat.shiftRight_eq_div_pow, BitVec.toNat_ofNat]

section
variable {off n pa : Nat} {bs : List Byte} {tok : Option Tok}

theorem maskedSegs_nil (vb : Nat) (d : List PByte) (ps : List Piece) : maskedSegs vb d [] ps =
    ps.filterMap (fun p => match p.loc with
      | .at e a => some (⟨e, a, vb + p.off, p.off, (d.drop p.pos).take p.n, [], p.key⟩ : Seg)
      | _ => none) := by
  simp only [maskedSegs, List.drop_nil, List.take_nil] <;> rfl

/-- The parts of a store that reach memory stand at core scope. -/
theorem State.coreIs_land {k : Nat} {g : Agent} {vb : Nat} {d : List PByte} {ps : List Piece} (hp : ∀ p, p ∈ ps → p.InMemory) :
    CoreIs k { s.core k with
      buffer := (s.core k).buffer ++ if maskedSegs vb d [] ps = [] then [] else [⟨maskedSegs vb d [] ps, g⟩] } s
      (s.land k g (maskedSegs vb d [] ps)) := by
  by_cases hn : maskedSegs vb d [] ps = []
  · rw [hn, if_pos rfl, List.append_nil]
    exact CoreIs.refl k s
  · rw [if_neg hn, State.land_of_plain hn fun x hx => ?_]
    · exact (CoreIs.refl k s).onCore _
    · rw [maskedSegs_nil] at hx
      obtain ⟨p, hm, hs⟩ := List.mem_filterMap.1 hx
      split at hs
      · next e a hl =>
        obtain rfl := Option.some.inj hs
        rcases hp p hm e a hl with rfl | rfl <;> exact ⟨fun _ => Site.noConfusion, fun _ => Site.noConfusion⟩
      · cases hs

end

/-! What an access reports of bytes that it drops (R93, R353). -/

/-- The flags of bytes that cannot be reached or lie on a discarded unit. -/
def lossFlags (ps : List Piece) : Word := (if anyOut ps then 0x4000#64 else 0) ||| (if (firstDsc ps).isSome then 0x8000#64 else 0)

/-- The Bench after it has been told of bytes on a discarded unit. -/
def State.lossBench (s : State) (k vb : Nat) (ps : List Piece) : Bench :=
  match firstDsc ps with
  | none => s.bench
  | some p => (s.tell (.discardedStore (s.core k).gangOf k (vb + p.off))).bench

theorem Core.oox_eq (c : Core) (b : Bool) : c.oox b = c.orSst (if b then 0x4000#64 else 0) := by
  cases b
  · exact congrArg (fun w => c.onS (fun s => { s with sst := w })) BitVec.or_zero.symm
  · rfl

theorem Core.orSst_orSst (c : Core) (v w : Word) : (c.orSst v).orSst w = c.orSst (v ||| w) :=
  congrArg (fun x => c.onS (fun s => { s with sst := x })) (BitVec.or_assoc _ _ _)

theorem Core.orSst_zero (c : Core) : c.orSst 0 = c := congrArg (fun x => c.onS (fun s => { s with sst := x })) BitVec.or_zero

theorem State.coreIs_dropped (k vb : Nat) (ps : List Piece) : CoreIs k ((s.core k).orSst (lossFlags ps))
    { s with bench := s.lossBench k vb ps } ((s.onCore k (fun c => c.oox (anyOut ps))).dropped k vb ps) := by
  have h (b : Bench) : CoreIs k ((s.core k).orSst (if anyOut ps then 0x4000#64 else 0)) { s with bench := b }
      { s.onCore k (fun c => c.oox (anyOut ps)) with bench := b } := by
    rw [← Core.oox_eq]
    exact (CoreIs.refl k { s with bench := b }).onCore _
  cases hf : firstDsc ps with
  | none =>
    simp only [State.lossBench, State.dropped, lossFlags, hf, Option.isSome_none, Bool.false_eq_true, if_false]
    rw [← Core.orSst_orSst, Core.orSst_zero]
    exact h s.bench
  | some p =>
    have hg : ((s.onCore k (fun c => c.oox (anyOut ps))).core k).gangOf = (s.core k).gangOf := by
      rw [State.core_onCore_self, Core.oox_eq]
      rfl
    simp only [State.lossBench, State.dropped, lossFlags, hf, hg, Option.isSome_some, if_true]
    rw [← Core.orSst_orSst]
    exact (h (s.tell (.discardedStore (s.core k).gangOf k (vb + p.off))).bench).onCore (fun c => c.dscw true)

/-! STORE_VISIBLE of the only access of the S-stream. -/

/-- What is left of a queued store: its parts at core scope, flags, and what the Bench has heard. -/
def StoreLeft (s : State) (flags : Word) (gs : List Seg) (b : Bench) (t : State) : Prop :=
  OnlyCore s.curN { s with bench := b } t ∧
  t.me = { s.me with
    buffer := s.me.buffer ++ (if gs = [] then [] else [⟨gs, .s⟩])
    s := { s.me.s with queue := [], sst := s.me.s.sst ||| flags } }

theorem storeLeft_of {t : State} {c : Core} {flags : Word} {gs : List Seg} {b : Bench} (h : CoreIs s.curN c { s with bench := b } t)
    (hc : c = { (s.me.setStores false []).orSst flags with buffer := s.me.buffer ++ if gs = [] then [] else [⟨gs, .s⟩] }) :
    StoreLeft s flags gs b t := by
  subst hc
  exact ⟨h.1, CoreIs.me (s := { s with bench := b }) h⟩

section
variable {core : CoreId} {tok : Option Tok} {off n : Nat} {bs : List Byte} (hk : core.toNat = s.curN) (hl : s.me.s.loads = [])
  (hq : s.me.s.queue = [tokStore tok off bs n])
include hk hl hq

theorem exec_storeVisible {r : State} {gs : List Seg} (h : s.findStore s.curN false (tokStore tok off bs n) = some (r, gs)) :
    exec (.storeVisible core .s) s = .next ((r.onCore s.curN (fun c => c.setStores false [])).land s.curN .s gs) := by
  have hb : (s.core s.curN).loadsBefore false (tokStore tok off bs n) = [] := by
    rw [Core.loadsBefore, show (s.core s.curN).loadsOf false = [] from hl]
    rfl
  have hp := State.popStore_of_found (s := s) (k := s.curN) (v := false) (q := tokStore tok off bs n) (qs := []) hq rfl hb h
  change Host.Outcome.next ((s.popStore core.toNat false).getD s) = _
  rw [hk, hp]
  rfl

theorem does_storeVisible_dead (hd : (s.me.mteOf tok).st = .dead) :
    Does (.storeVisible core .s) s (StoreLeft s 0 [] s.bench) := by
  have hf : s.findStore s.curN false (tokStore tok off bs n) = some (s, []) := by
    have ha (rs) : s.access s.curN tok .s false true rs = .dead := by simp only [State.access, show ((s.core s.curN).mteOf tok).st = .dead from hd]
    simp only [State.findStore, Bool.false_eq_true, if_false, ha]
  have hc : CoreIs s.curN (s.me.setStores false []) s (s.onCore s.curN (fun c => c.setStores false [])) := (CoreIs.refl _ s).onCore _
  exact ⟨_, exec_storeVisible hk hl hq hf, storeLeft_of (b := s.bench) (gs := []) hc (by rw [if_pos rfl, List.append_nil, Core.orSst_zero]; rfl)⟩

omit hl in
theorem does_storeVisible_stale (hd : (s.me.mteOf tok).st = .stale) : Does (.storeVisible core .s) s (fun t => t = s) := by
  obtain ⟨w, hw⟩ := State.access_stale (s := s) (k := s.curN) hd .s false true ((s.core s.curN).storeBytes (tokStore tok off bs n)).2.2
  have hp := State.popStore_of_held (v := false) (q := tokStore tok off bs n) (qs := []) hq rfl hw
  refine ⟨s, ?_, rfl⟩
  change Host.Outcome.next ((s.popStore core.toNat false).getD s) = _
  rw [hk, hp]
  rfl

theorem does_storeVisible_live {ps : List Piece} (ha : s.access s.curN tok .s false true [(0, off, bs.length)] = .live ps) :
    Does (.storeVisible core .s) s (StoreLeft s (lossFlags ps) (maskedSegs (s.me.mteOf tok).vbase (clean bs) [] ps)
      (s.lossBench s.curN (s.me.mteOf tok).vbase ps)) := by
  have hf : s.findStore s.curN false (tokStore tok off bs n) = some ((s.onCore s.curN (fun c => c.oox (anyOut ps))).dropped s.curN
      (s.me.mteOf tok).vbase ps, maskedSegs (s.me.mteOf tok).vbase (clean bs) [] ps) := by
    simp only [State.findStore, Bool.false_eq_true, if_false, Core.storeBytes, ha]
    rfl
  have hr := (s.coreIs_dropped s.curN (s.me.mteOf tok).vbase ps).onCore (fun c => c.setStores false [])
  have hc := hr.trans (State.coreIs_land (g := .s) (vb := (s.me.mteOf tok).vbase) (d := clean bs) (State.access_inMemory ha))
  refine ⟨_, exec_storeVisible hk hl hq hf, storeLeft_of hc ?_⟩
  rw [hr.2]
  rfl

end

theorem entersStore_tok {i : Instr} {tok : Option Tok} {off : Nat} {bs : List Byte}
    (h : exec i s = .next (s.pushStore s.curN false { op := .bytes off bs, via := tok }).retire) :
    EntersStore i s { op := .bytes off bs, via := tok } 0 := by
  have hc := s.coreIs_pushStore_retire { op := .bytes off bs, via := tok }
  refine ⟨_, h, hc.1, hc.me.trans ?_⟩
  rw [show s.me.s.sst ||| 0 = s.me.s.sst from BitVec.or_zero]
  rfl

/-- The one part of a store to a run of device memory. -/
theorem maskedSegs_one (d : List PByte) (vb off : Nat) (key : Option (BitVec 13)) (pa : Nat) :
    maskedSegs vb d [] [⟨.at .dev pa, 0, off, d.length, key⟩] = [⟨.dev, pa, vb + off, off, d, [], key⟩] := by
  rw [maskedSegs_nil]
  simp

theorem lossFlags_at (pa off n : Nat) (key : Option (BitVec 13)) : lossFlags [⟨.at .dev pa, 0, off, n, key⟩] = 0 := by
  simp [lossFlags, anyOut, firstDsc]

/-- Settles O11: the store enters its queue whatever its token, and leaves it as the one piece of its access. -/
theorem tokenStoreQueuesItsBytes : Obligations.TokenStoreQueuesItsBytes := by
  unfold Obligations.TokenStoreQueuesItsBytes
  intro st d tk o imm s tok m at_ bytes stores
  have main (i : Instr) (size : Nat) (h : exec i s = .next (s.storeTok d tk (at_ size) size)) : stores i size := by
    have hb : leBytes size (s.me.xr d).toNat = bytes size := leBytes_toNat size _
    have hlen : (bytes size).length = size := by simp [bytes]
    rw [State.storeTok, hb] at h
    refine ⟨entersStore_tok h, fun core pa n hk hl hq hr => ?_⟩
    have ha : s.access s.curN tok .s false true [(0, at_ size, (bytes size).length)] =
        .live [⟨.at .dev pa, 0, at_ size, (bytes size).length, m.keyAt (at_ size)⟩] := by
      rw [hlen]
      exact access_of_reaches (k := s.curN) hr 0
    have hs := maskedSegs_one (clean (bytes size)) m.vbase (at_ size) (m.keyAt (at_ size)) pa
    rw [length_clean] at hs
    obtain ⟨t, ht, hc, hme⟩ := does_storeVisible_live hk hl hq ha
    rw [hs, lossFlags_at, show s.me.s.sst ||| 0 = s.me.s.sst from BitVec.or_zero] at hme
    exact ⟨t, ht, hc, hme⟩
  exact ⟨main _ 1 rfl, main _ 2 rfl, main _ 4 rfl, main _ 8 rfl⟩

/-- Settles O12: a store that is the only access of its stream leaves its queue as its access goes, unless that is held. -/
theorem tokenStoreOtherOutcomes : Obligations.TokenStoreOtherOutcomes := by
  unfold Obligations.TokenStoreOtherOutcomes
  intro core s tok off n bs hk hl hq m left
  refine ⟨does_storeVisible_dead hk hl hq, fun ht hb => ?_, does_storeVisible_stale hk hq, fun ps ha => ?_⟩
  · subst ht
    obtain ⟨ps, ha, hout, hall⟩ := State.access_null_out (s := s) (k := s.curN) (b := .s) (r := false) (w := true) (off := off)
      (List.length_pos_iff.2 hb)
    have hd : firstDsc ps = none := List.find?_eq_none.2 fun p hp => by rw [hall p hp]; decide
    have hm : maskedSegs (s.me.mteOf none).vbase (clean bs) [] ps = [] := by
      rw [maskedSegs_nil, List.filterMap_eq_nil_iff]
      intro p hp
      rw [hall p hp]
    have h := does_storeVisible_live hk hl hq ha
    rw [hm, lossFlags, hout, hd, State.lossBench, hd] at h
    exact h
  · have h := does_storeVisible_live hk hl hq ha
    rw [maskedSegs_nil] at h
    refine ⟨fun hd => ?_, fun p hp => ?_⟩
    · have hf : firstDsc ps = none := List.find?_eq_none.2 fun p hp => by simpa using hd p hp
      rw [lossFlags, hf, State.lossBench, hf, show (if (none : Option Piece).isSome then 0x8000#64 else 0) = 0#64 from rfl,
        BitVec.or_zero] at h
      exact h
    · have hf : firstDsc ps = some p := hp
      rw [lossFlags, hf, State.lossBench, hf] at h
      exact h

end Sys2Proof.Machine
end

section
/-! PROOF. The references of tokens, and the instructions that move and cut them (R104, R108, R109, R240, R241). -/

namespace Sys2Proof.Machine

open Sys2Proof

/-! States whose memory and Bench may differ: what they do to the cores. -/

/-- The same core acts, core `k` is `c`, and no other core differs; what is not a core may. -/
structure CoreAt (k : Nat) (c : Core) (s t : State) : Prop where
  cur : t.cur = s.cur
  others : ∀ j, j ≠ k → t.core j = s.core j
  core : t.core k = c

theorem CoreAt.refl (k : Nat) (s : State) : CoreAt k (s.core k) s s := ⟨rfl, fun _ _ => rfl, rfl⟩

theorem CoreAt.trans {k : Nat} {c d : Core} {s t u : State} (h : CoreAt k c s t) (h' : CoreAt k d t u) : CoreAt k d s u :=
  ⟨h'.cur.trans h.cur, fun j hj => (h'.others j hj).trans (h.others j hj), h'.core⟩

theorem CoreIs.coreAt {k : Nat} {c : Core} {s t : State} (h : CoreIs k c s t) : CoreAt k c s t := by
  obtain ⟨⟨ht, ho⟩, hc⟩ := h
  exact ⟨by rw [ht], ho, hc⟩

theorem CoreAt.onCore {k : Nat} {c : Core} {s t : State} (h : CoreAt k c s t) (f : Core → Core) : CoreAt k (f c) s (t.onCore k f) := by
  obtain ⟨hcur, ho, rfl⟩ := h
  exact ⟨hcur, fun j hj => ((State.core_onCore t k f j).trans (if_neg hj)).trans (ho j hj), State.core_onCore_self t k f⟩

/-- Memory, the Bench and the free values change no core. -/
theorem CoreAt.of_cores {k : Nat} {c : Core} {s t u : State} (h : CoreAt k c s t) (hcur : u.cur = t.cur) (hc : u.cores = t.cores) :
    CoreAt k c s u := by
  have hu (j : Nat) : u.core j = t.core j := by unfold State.core; rw [hc]
  exact ⟨hcur.trans h.cur, fun j hj => (hu j).trans (h.others j hj), (hu k).trans h.core⟩

theorem CoreAt.curN {k : Nat} {c : Core} {s t : State} (h : CoreAt k c s t) : t.curN = s.curN := congrArg BitVec.toNat h.cur

theorem CoreAt.me {c : Core} {s t : State} (h : CoreAt s.curN c s t) : t.me = c := by
  rw [State.me, h.curN, h.core]

theorem CoreAt.retire {c : Core} {s t : State} (h : CoreAt s.curN c s t) : CoreAt s.curN c.advance s t.retire := by
  have ht : t.retire = t.onCore s.curN Core.advance := by rw [← h.curN]; rfl
  rw [ht]
  exact h.onCore _

/-! References (R240, R241). -/

theorem State.cur_setClamp (s : State) (host : Bool) (u : Nat) (e : Clamp) : (s.setClamp host u e).cur = s.cur := by
  unfold State.setClamp
  split <;> rfl

theorem State.cur_unpinRuns (s : State) (k : Nat) (g : GangId) (rs : List Run) : (s.unpinRuns k g rs).cur = s.cur := by
  refine foldl_keeps (P := fun t => t.cur = s.cur) (fun t r h => ?_) rs s rfl
  refine foldl_keeps (P := fun u => u.cur = s.cur) (fun u i hu => ?_) _ t h
  dsimp only
  split <;> exact (State.cur_setClamp _ _ _ _).trans hu

theorem State.cores_pinRun (s : State) (k : Nat) (r : Run) : (s.pinRun k r).cur = s.cur ∧ (s.pinRun k r).cores = s.cores :=
  foldl_keeps (P := fun u => u.cur = s.cur ∧ u.cores = s.cores)
    (fun _ _ hu => ⟨(State.cur_setClamp _ _ _ _).trans hu.1, (State.cores_setClamp _ _ _ _).trans hu.2⟩) _ s ⟨rfl, rfl⟩

theorem State.cores_pinRuns (s : State) (k : Nat) (rs : List Run) :
    (s.pinRuns k rs).cur = s.cur ∧ (s.pinRuns k rs).cores = s.cores := by
  refine foldl_keeps (P := fun t => t.cur = s.cur ∧ t.cores = s.cores) (fun t r h => ?_) rs s ⟨rfl, rfl⟩
  obtain ⟨h1, h2⟩ := t.cores_pinRun k r
  exact ⟨h1.trans h.1, h2.trans h.2⟩

/-- An entry after a holder has given its reference up: NULL with the last one, its generation kept (R108, R240). -/
def Mte.drop (m : Mte) : Mte := if m.refs ≤ 1 then { gen := m.gen } else { m with refs := m.refs - 1 }

/-- A core after a holder of a token has given its reference up. -/
def Core.dropTok (c : Core) (t : Option Tok) : Core :=
  match t with
  | none => c
  | some t => c.setMte t.idx.toNat (c.mte t.idx.toNat).drop

theorem State.coreAt_release (s : State) (k : Nat) (t : Option Tok) : CoreAt k ((s.core k).dropTok t) s (s.release k t) := by
  cases t with
  | none => exact CoreAt.refl k s
  | some t =>
    have hset (m : Mte) := (CoreAt.refl k s).onCore (fun c => c.setMte t.idx.toNat m)
    simp only [State.release, Core.dropTok, Mte.drop]
    split
    · split
      · exact (hset _).of_cores rfl rfl
      · exact (hset _).of_cores (State.cur_unpinRuns _ _ _ _) (State.cores_unpinRuns _ _ _ _)
    · exact hset _

theorem Core.dropTok_eq (c : Core) (t : Option Tok) : c.dropTok t = { c with mtes := (c.dropTok t).mtes } := by
  cases t <;> rfl

theorem Core.mte_dropTok (c : Core) (t : Option Tok) (j : Nat) :
    (c.dropTok t).mte j = if t.map (fun x => x.idx.toNat) = some j then (c.mte j).drop else c.mte j := by
  cases t with
  | none => rfl
  | some t =>
    simp only [Core.dropTok, Core.mte_setMte, Option.map_some, Option.some.injEq]
    by_cases hj : j = t.idx.toNat
    · rw [if_pos hj, if_pos hj.symm, hj]
    · rw [if_neg hj, if_neg (Ne.symm hj)]

/-- A core after a token has been written to a register (R105, R108, R17). -/
def Core.giveTok (c : Core) (n : TReg) (t : Option Tok) : Core :=
  if n = 0#5 then c.dropTok t else (c.setT n t).dropTok (c.tr n)

theorem CoreAt.putTok {k : Nat} {c : Core} {s t : State} (h : CoreAt k c s t) (n : TReg) (x : Option Tok) :
    CoreAt k (c.giveTok n x) s (t.putTok k n x) := by
  obtain ⟨hcur, ho, rfl⟩ := h
  refine CoreAt.trans ⟨hcur, ho, rfl⟩ ?_
  unfold State.putTok Core.giveTok
  split
  · exact t.coreAt_release k x
  · have h1 := (CoreAt.refl k t).onCore (fun c => c.setT n x)
    have h2 := (t.onCore k (fun c => c.setT n x)).coreAt_release k ((t.core k).tr n)
    rw [h1.core] at h2
    exact h1.trans h2

/-- Nothing of a core but the mortise registers and the mortise table changes as a token is written. -/
theorem Core.giveTok_eq (c : Core) (n : TReg) (t : Option Tok) :
    c.giveTok n t = { c with t := (c.setT n t).t, mtes := (c.giveTok n t).mtes } := by
  have hs : c.setT n t = { c with t := (c.setT n t).t } := by unfold Core.setT; split <;> rfl
  unfold Core.giveTok
  split
  · next hn =>
    rw [Core.dropTok_eq]
    simp only [Core.setT, if_pos hn]
  · rw [Core.dropTok_eq, hs]

theorem Core.tr_giveTok (c : Core) (n : TReg) (t : Option Tok) (j : TReg) :
    (c.giveTok n t).tr j = if j = n ∧ n ≠ 0#5 then t else c.tr j := by
  rw [← Core.tr_setT, Core.giveTok_eq]
  rfl

theorem Core.mte_giveTok (c : Core) {n : TReg} (hn : n ≠ 0#5) (t : Option Tok) (j : Nat) :
    (c.giveTok n t).mte j = if (c.tr n).map (fun x => x.idx.toNat) = some j then (c.mte j).drop else c.mte j := by
  have hs (j : Nat) : (c.setT n t).mte j = c.mte j := by unfold Core.setT; split <;> rfl
  rw [Core.giveTok, if_neg hn, Core.mte_dropTok, hs]

/-! Free entries (R104, log entry 3). -/

theorem Core.mem_freeMtes {c : Core} {e : Nat} : e ∈ c.freeMtes ↔ e < 64 ∧ (c.mte e).st = .null := by
  simp [Core.freeMtes]

/-- The entry a taker leaves: one reference, the next generation, its gang (R104). -/
def Core.cutMte (c : Core) (e : Nat) (m : Mte) : Core :=
  c.setMte e { m with gen := (c.mte e).gen + 1#16, refs := 1, gang := c.gangOf }

theorem State.takeMte_of_free {s : State} {k : Nat} (h : (s.core k).freeMtes ≠ []) (m : Mte) : ∃ e, e ∈ (s.core k).freeMtes ∧
    s.takeMte k m = some (({ s with free := s.free + 1 } : State).setCore k ((s.core k).cutMte e m),
      ⟨BitVec.ofNat 6 e, ((s.core k).mte e).gen + 1#16⟩) := by
  unfold State.takeMte
  match hf : (s.core k).freeMtes with
  | [] => exact absurd hf h
  | f :: fs =>
    have hlt : (Config.freeValue s.free).toNat % (fs.length + 1) < (f :: fs).length := Nat.mod_lt _ (Nat.succ_pos _)
    refine ⟨_, ?_, rfl⟩
    simp only [List.getD_eq_getElem _ _ hlt]
    exact List.getElem_mem hlt

theorem State.takeMte_none {s : State} {k : Nat} (h : (s.core k).freeMtes = []) (m : Mte) : s.takeMte k m = none := by
  unfold State.takeMte
  rw [h]

/-! An instruction that gives a token up waits for the accesses through it (log entry 36). -/

theorem Unused.over {s : State} {t : Option Tok} (h : Unused s t) : WaitOn.over s s.curN .s (.uses t) = true := by
  rcases h with rfl | ⟨hl, hq⟩
  · rfl
  · have h1 : s.me.s.loads.any (fun l => l.tok == t) = false := List.any_eq_false.2 fun l hm => by simpa using hl l hm
    have h2 : s.me.s.queue.any (fun q => q.via == t) = false := List.any_eq_false.2 fun q hm => by simpa using hq q hm
    change (t.isNone || (!s.me.s.loads.any _ && !s.me.s.queue.any _)) = true
    rw [h1, h2]
    exact Bool.or_true _

theorem Unused.afterUses {s : State} {t : Option Tok} (h : Unused s t) (f : State → State) : s.afterUses t f = f s := by
  have hr : ∀ n, State.runUses n s s.curN t = (s, false)
    | 0 => rfl
    | n + 1 => if_pos h.over
  unfold State.afterUses
  simp only [hr, h.over, Bool.false_eq_true, if_false, if_true]

/-- A stream whose oldest store is held goes no further for a token that its queue goes through. -/
theorem Stuck.afterUses {s : State} {t : Option Tok} (h : Stuck s s.curN false) (hu : ∃ q, q ∈ s.me.s.queue ∧ q.via = t ∧ q.via ≠ none)
    (f : State → State) : s.afterUses t f = s.setMe (s.me.waitS (.uses t)) := by
  obtain ⟨q, hq, rfl, hn⟩ := hu
  have hl : s.me.s.loads = [] := h.1
  have ho : WaitOn.over s s.curN .s (.uses q.via) = false := by
    change (q.via.isNone || (!s.me.s.loads.any _ && !s.me.s.queue.any _)) = false
    rw [Option.isNone_eq_false_iff.2 (Option.isSome_iff_ne_none.2 hn), 
      show s.me.s.queue.any (fun p => p.via == q.via) = true from List.any_eq_true.2 ⟨q, hq, beq_self_eq_true _⟩]
    simp
  have hp : s.performLoad s.curN false = .waits := by
    have hl' : (s.core s.curN).loadsOf false = [] := hl
    simp only [State.performLoad, hl']
  have hr : ∀ n, State.runUses n s s.curN q.via = (s, false)
    | 0 => rfl
    | n + 1 => by
      rw [State.runUses, ho, h.popStore, hp]
      simp
  unfold State.afterUses
  simp only [hr, ho, Bool.false_eq_true, if_false]

/-! TREL, TMOV and TSUB (R108, R109). -/

/-- The S-stream is at the next word with its flags, and of the x and mortise registers only `td` has changed. -/
def KeepsRegs (td : TReg) (s t : State) : Prop :=
  (∀ n, n ≠ td → t.me.tr n = s.me.tr n) ∧ (∀ n, t.me.xr n = s.me.xr n) ∧ NextWord s t ∧ t.me.s.sst = s.me.s.sst

theorem KeepsRegs.of_me {td : TReg} {s t : State} {c : Core} (hm : t.me = c.advance) (hs : c.s = s.me.s)
    (ht : ∀ n, n ≠ td → c.tr n = s.me.tr n) : KeepsRegs td s t := by
  refine ⟨fun n hn => ?_, fun n => ?_, ⟨?_, ?_⟩, ?_⟩ <;> rw [hm]
  · exact ht n hn
  · rw [Core.xr_advance, Core.xr, Core.xr, hs]
  · exact congrArg (fun x => x.pc + 4#16) hs
  · rfl
  · change c.s.sst = _
    rw [hs]

/-- A register takes a token whose reference is counted, in a core whose registers are those of `s`. -/
theorem KeepsRegs.of_giveTok {td : TReg} {s t : State} {c : Core} {x : Option Tok} (hm : t.me = (c.giveTok td x).advance)
    (hs : c.s = s.me.s) (ht : c.t = s.me.t) : KeepsRegs td s t := by
  refine .of_me hm ?_ fun n hn => ?_
  · rw [Core.giveTok_eq]
    exact hs
  · rw [Core.tr_giveTok, if_neg fun h => hn h.1, Core.tr, Core.tr, ht]

/-- A mortise register has been made null, and its reference given up (R108). -/
def MadeNull (td : TReg) (s t : State) : Prop :=
  t.me.tr td = none ∧ KeepsRegs td s t ∧
  (∀ o, s.me.tr td = some o → t.me.mte o.idx.toNat = (s.me.mte o.idx.toNat).drop) ∧
  (s.me.tr td = none → t.me.mtes = s.me.mtes)

theorem State.madeNull (s : State) (td : TReg) : MadeNull td s (s.putTok s.curN td none).retire := by
  have hm := ((CoreAt.refl s.curN s).putTok td none).retire.me
  refine ⟨?_, .of_giveTok hm rfl rfl, fun o ho => ?_, fun hn => ?_⟩ <;> rw [hm]
  · change (s.me.giveTok td none).tr td = none
    rw [Core.tr_giveTok]
    split
    · rfl
    · next h =>
      rw [not_and_or, not_ne_iff] at h
      obtain h | rfl := h
      · exact absurd rfl h
      · exact Core.tr_zero _
  · have h0 : td ≠ 0#5 := by
      rintro rfl
      rw [Core.tr_zero] at ho
      cases ho
    change (s.me.giveTok td none).mte o.idx.toNat = _
    rw [Core.mte_giveTok _ h0, ho]
    exact if_pos rfl
  · change (s.me.giveTok td none).mtes = _
    unfold Core.giveTok
    split
    · rfl
    · rw [hn, Core.dropTok, Core.setT]
      split <;> rfl

theorem exec_trel (st : SStall) {td : TReg} {s : State} (h : Unused s (s.me.tr td)) :
    exec (.trel st td) s = .next (s.putTok s.curN td none).retire :=
  congrArg Host.Outcome.next (h.afterUses _)

theorem exec_tmov (st : SStall) {td ta : TReg} {s : State} (ht : td ≠ ta) (h : Unused s (s.me.tr td)) :
    exec (.tmov st td ta) s = .next ((s.hold s.curN (s.me.tr ta)).putTok s.curN td (s.me.tr ta)).retire :=
  (if_neg ht).trans (congrArg Host.Outcome.next (h.afterUses _))

/-- What TSUB does once no access of its stream goes through the token it gives up. -/
def State.tsub (s : State) (td : TReg) (m : Mte) (o n : Nat) : State :=
  if m.st ≠ .live ∨ m.len ≤ o ∨ n = 0 then (s.putTok s.curN td none).retire
  else
    match s.newMte s.curN (m.sub o (min n (m.len - o))) with
    | none => s.trapMe causeMte (word (m.vbase + o))
    | some (u, new) => (u.putTok s.curN td (some new)).retire

theorem exec_tsub (st : SStall) {td ta : TReg} {a : XReg} {s : State} {m : Mte} (hm : s.me.mteOf (s.me.tr ta) = m)
    (hh : m.holds = false) (h : Unused s (s.me.tr td)) : exec (.tsub st td ta a) s =
      .next (s.tsub td m (s.me.xr a).toNat (s.me.xr (a + 1#6)).toNat) := by
  subst hm
  change execTsub st td ta a s = _
  unfold execTsub
  dsimp only
  rw [hh, if_neg Bool.false_ne_true, h.afterUses]
  rfl

theorem exec_tsub_held (st : SStall) {td ta : TReg} {a : XReg} {s : State} (hh : (s.me.mteOf (s.me.tr ta)).holds = true) :
    exec (.tsub st td ta a) s = .next (s.setMe (s.me.waitS (.stale (((s.me.tr ta).map (fun t => t.idx)).getD 0)))) := if_pos hh

theorem State.tsub_null {s : State} {td : TReg} {m : Mte} {o n : Nat} (h : m.st = .dead ∨ m.st = .null ∨ m.len ≤ o ∨ n = 0) :
    s.tsub td m o n = (s.putTok s.curN td none).retire := by
  refine if_pos ?_
  rcases h with h | h | h
  · exact .inl (by rw [h]; decide)
  · exact .inl (by rw [h]; decide)
  · exact .inr h

theorem State.tsub_live {s : State} {td : TReg} {m : Mte} {o n : Nat} (h : m.st = .live) (ho : o < m.len) (hn : 0 < n) :
    s.tsub td m o n =
      match s.newMte s.curN (m.sub o (min n (m.len - o))) with
      | none => s.trapMe causeMte (word (m.vbase + o))
      | some (u, new) => (u.putTok s.curN td (some new)).retire :=
  if_neg (by rintro (h' | h' | h') <;> first | exact h' h | omega)

/-- A new entry, with its runs pinned. -/
theorem State.newMte_of_free {s : State} {k : Nat} (h : (s.core k).freeMtes ≠ []) (m : Mte) : ∃ e u, e ∈ (s.core k).freeMtes ∧
    s.newMte k m = some (u, ⟨BitVec.ofNat 6 e, ((s.core k).mte e).gen + 1#16⟩) ∧ CoreAt k ((s.core k).cutMte e m) s u := by
  obtain ⟨e, he, ht⟩ := s.takeMte_of_free h m
  refine ⟨e, _, he, by rw [State.newMte, ht]; rfl, ?_⟩
  obtain ⟨h1, h2⟩ := State.cores_pinRuns (({ s with free := s.free + 1 } : State).setCore k ((s.core k).cutMte e m)) k m.runs
  exact (((CoreAt.refl k s).of_cores (u := { s with free := s.free + 1 }) rfl rfl).onCore fun _ => (s.core k).cutMte e m).of_cores h1 h2

theorem State.newMte_none {s : State} {k : Nat} (h : (s.core k).freeMtes = []) (m : Mte) : s.newMte k m = none := by
  rw [State.newMte, State.takeMte_none h]
  rfl

/-- An entry that was NULL keeps what its taker wrote as the old token of the register goes. -/
theorem Core.mte_giveTok_cutMte {c : Core} {td : TReg} (h0 : td ≠ 0#5) {e : Nat} (he : (c.mte e).st = .null)
    (hq : ∀ q, c.tr td = some q → (c.mte q.idx.toNat).st ≠ .null) (m : Mte) (x : Option Tok) :
    ((c.cutMte e m).giveTok td x).mte e = { m with gen := (c.mte e).gen + 1#16, refs := 1, gang := c.gangOf } := by
  rw [Core.mte_giveTok _ h0, if_neg, Core.cutMte, Core.mte_setMte, if_pos rfl]
  change ¬ (c.tr td).map _ = _
  cases hr : c.tr td with
  | none => simp
  | some q =>
    rw [Option.map_some, Option.some.injEq]
    rintro rfl
    exact hq q hr he

/-- A reference more and then one less leaves an entry that had one as it was. -/
theorem Core.mte_dropTok_holdTok {c : Core} {t : Option Tok} (h : ∀ u, t = some u → 0 < (c.mte u.idx.toNat).refs) (j : Nat) :
    ((c.holdTok t).dropTok t).mte j = c.mte j := by
  rw [Core.mte_dropTok, Core.mte_holdTok]
  split
  · next hj =>
    obtain ⟨u, rfl, rfl⟩ := Option.map_eq_some_iff.1 hj
    have hu := h u rfl
    rw [Mte.drop, if_neg (by simpa using Nat.ne_of_gt hu)]
    simp
  · rfl

theorem Core.holdTok_s (c : Core) (t : Option Tok) : (c.holdTok t).s = c.s := by cases t <;> rfl

theorem Core.holdTok_t (c : Core) (t : Option Tok) : (c.holdTok t).t = c.t := by cases t <;> rfl

/-- A register takes the token of another: the old one's reference goes, the new one's entry has one more (R108). -/
def TookTok (td ta : TReg) (s t : State) : Prop :=
  t.me.tr td = s.me.tr ta ∧ KeepsRegs td s t ∧
  (∀ o u, s.me.tr td = some o → s.me.tr ta = some u → o.idx ≠ u.idx →
    t.me.mte o.idx.toNat = (s.me.mte o.idx.toNat).drop ∧
    t.me.mte u.idx.toNat = { s.me.mte u.idx.toNat with refs := (s.me.mte u.idx.toNat).refs + 1 }) ∧
  ∀ o, s.me.tr td = some o → s.me.tr ta = none → t.me.mte o.idx.toNat = (s.me.mte o.idx.toNat).drop

theorem State.tookTok (s : State) {td : TReg} (ta : TReg) (h0 : td ≠ 0#5) :
    TookTok td ta s ((s.hold s.curN (s.me.tr ta)).putTok s.curN td (s.me.tr ta)).retire := by
  have hm := ((s.coreIs_hold s.curN (s.me.tr ta)).coreAt.putTok td (s.me.tr ta)).retire.me
  have htr : (s.me.holdTok (s.me.tr ta)).tr td = s.me.tr td := by rw [Core.tr, Core.holdTok_t]; rfl
  have hmte (j : Nat) : ((s.me.holdTok (s.me.tr ta)).giveTok td (s.me.tr ta)).mte j = _ := Core.mte_giveTok _ h0 _ j
  have hne {o u : Tok} (h : o.idx ≠ u.idx) : o.idx.toNat ≠ u.idx.toNat := fun e => h (BitVec.eq_of_toNat_eq e)
  simp only [htr, Core.mte_holdTok] at hmte
  refine ⟨?_, .of_giveTok hm (Core.holdTok_s _ _) (Core.holdTok_t _ _), fun o u ho hu h => ⟨?_, ?_⟩, fun o ho hn => ?_⟩ <;> rw [hm]
  · exact (Core.tr_giveTok _ _ _ _).trans (if_pos ⟨rfl, h0⟩)
  · refine (hmte _).trans ?_
    rw [ho, hu, Option.map_some, Option.map_some, if_pos rfl, if_neg fun e => hne h (Option.some.inj e).symm]
  · refine (hmte _).trans ?_
    rw [ho, hu, Option.map_some, Option.map_some, if_neg fun e => hne h (Option.some.inj e), if_pos rfl]
  · refine (hmte _).trans ?_
    rw [ho, hn, Option.map_some, if_pos rfl]
    rfl

/-- A TMOV to t0 takes a reference and gives it back (R17, R108). -/
theorem does_tmov_zero (st : SStall) {ta : TReg} {s : State} (ha : ta ≠ 0#5)
    (hr : ∀ u, s.me.tr ta = some u → 0 < (s.me.mte u.idx.toNat).refs) :
    Does (.tmov st 0#5 ta) s (fun t => (∀ n, t.me.tr n = s.me.tr n) ∧ (∀ j, t.me.mte j = s.me.mte j) ∧
      (∀ n, t.me.xr n = s.me.xr n) ∧ NextWord s t ∧ t.me.s.sst = s.me.s.sst) := by
  have hm := ((s.coreIs_hold s.curN (s.me.tr ta)).coreAt.putTok 0#5 (s.me.tr ta)).retire.me
  obtain ⟨htr, hx, hnext, hsst⟩ : KeepsRegs 0#5 s _ := .of_giveTok hm (Core.holdTok_s _ _) (Core.holdTok_t _ _)
  refine ⟨_, exec_tmov st (Ne.symm ha) (.inl (Core.tr_zero _)), fun n => ?_, fun j => ?_, hx, hnext, hsst⟩
  · by_cases hn : n = 0#5
    · rw [hn, Core.tr_zero, Core.tr_zero]
    · exact htr n hn
  · rw [hm]
    exact Core.mte_dropTok_holdTok hr j

/-- A TSUB of a LIVE token, within its length, takes a free entry for the sub-extent (R109). -/
theorem does_tsub (st : SStall) {td ta : TReg} {a : XReg} {s : State} {m : Mte} {o n : Nat}
    (he : exec (.tsub st td ta a) s = .next (s.tsub td m o n)) (hl : m.st = .live) (ho : o < m.len) (hn : 0 < n)
    (hf : s.me.freeMtes ≠ []) (h0 : td ≠ 0#5) (hq : ∀ q, s.me.tr td = some q → (s.me.mte q.idx.toNat).st ≠ .null) :
    Does (.tsub st td ta a) s (fun t => KeepsRegs td s t ∧ ∃ e, e < 64 ∧ (s.me.mte e).st = .null ∧
      t.me.tr td = some ⟨BitVec.ofNat 6 e, (s.me.mte e).gen + 1⟩ ∧
      t.me.mte e = { m.sub o (min n (m.len - o)) with gen := (s.me.mte e).gen + 1#16, refs := 1, gang := s.me.gangOf }) := by
  obtain ⟨e, u, hfe, hnew, hc⟩ := State.newMte_of_free (k := s.curN) hf (m.sub o (min n (m.len - o)))
  obtain ⟨he64, hnull⟩ := Core.mem_freeMtes.1 hfe
  rw [State.tsub_live hl ho hn, hnew] at he
  dsimp only at he
  have hm := (hc.putTok td (some ⟨BitVec.ofNat 6 e, ((s.core s.curN).mte e).gen + 1#16⟩)).retire.me
  refine ⟨_, he, .of_giveTok hm rfl rfl, e, he64, hnull, ?_⟩
  rw [hm]
  exact ⟨(Core.tr_giveTok _ _ _ _).trans (if_pos ⟨rfl, h0⟩), Core.mte_giveTok_cutMte h0 hnull hq _ _⟩

/-- Settles O17: each instruction waits or comes to the same writes of a register, whose old token is released. -/
theorem tokenReferences : Obligations.TokenReferences := by
  unfold Obligations.TokenReferences
  intro st td ta a s after keeps waits given
  have hgiven {i : Instr} (h : exec i s = .next (s.putTok s.curN td none).retire) : Does i s given := ⟨_, h, s.madeNull td⟩
  refine ⟨fun hu => hgiven (exec_trel st hu), fun hw => ?_, retires_of (f := fun c => c) (if_pos rfl) rfl, fun ht hw => ?_,
    fun ht h0 hu => ⟨_, exec_tmov st ht hu, s.tookTok ta h0⟩, does_tmov_zero st, fun ha hu => ?_, fun u hta hg => ?_⟩
  · exact waits_of (congrArg Host.Outcome.next (hw.1.afterUses hw.2 _))
  · exact waits_of ((if_neg ht).trans (congrArg Host.Outcome.next (hw.1.afterUses hw.2 _)))
  · exact hgiven ((exec_tsub st (m := {}) (by rw [ha]; rfl) rfl hu).trans (by rw [State.tsub_null (.inr (.inl rfl))]))
  · have hmo : s.me.mteOf (s.me.tr ta) = s.me.mte u.idx.toNat := by rw [hta]; exact Core.mteOf_some hg
    intro m o n
    refine ⟨fun hh => waits_of ?_, fun hs hp hu => ?_⟩
    · rw [exec_tsub_held st, hta]
      · rfl
      · rw [hmo, Mte.holds, Bool.or_eq_true, beq_iff_eq]
        exact hh
    have he := exec_tsub st (a := a) hmo (Mte.holds_of_ne hs hp) hu
    refine ⟨fun h => hgiven (he.trans (by rw [State.tsub_null h])), fun hl ho hn hf hh => traps_of hh (he.trans ?_),
      fun hl ho hn hf h0 hq => ?_⟩
    · rw [State.tsub_live hl ho hn, State.newMte_none hf]
      rfl
    · obtain ⟨t, ht, hk, e, he64, hnull, hreg, hmte⟩ := does_tsub st he hl ho hn hf h0 hq
      refine ⟨t, ht, hk, e, he64, hnull, hreg, ?_⟩
      rw [hmte]
      exact ⟨hl, rfl, rfl, rfl, rfl, rfl, rfl, rfl⟩

end Sys2Proof.Machine
end

section
/-! PROOF. A store of clean bytes over clean sectors of device memory, performed by a core without a twin (R339, R396, R397). -/

namespace Sys2Proof.Machine

open Sys2Proof

/-! Check values (R397). -/

theorem Store.bad_eq_nil_iff {m : Store} {a n : Nat} : m.bad a n = [] ↔ ∀ c, c ∈ m.chk → a / 32 ≤ c.1 → c.1 * 32 < a + n →
    ∀ v, c.2 = some v → v = crc16 (Sparse.getList 0 m.bytes (32 * c.1) 32) := by
  rw [Store.bad, List.map_eq_nil_iff, List.filter_eq_nil_iff]
  refine forall_congr' fun c => forall_congr' fun _ => ?_
  obtain ⟨q, v⟩ := c
  cases v <;> simp

/-- Fewer check values over bytes that read the same: no sector that carried the right one carries a wrong one. -/
theorem Store.bad_eq_nil_of {m u : Store} {a n b k : Nat} (h : m.bad a n = [])
    (hc : ∀ c, c ∈ u.chk → b / 32 ≤ c.1 → c.1 * 32 < b + k → c ∈ m.chk ∧ a / 32 ≤ c.1 ∧ c.1 * 32 < a + n ∧
      ∀ x, Sparse.get 0 u.bytes x = Sparse.get 0 m.bytes x) : u.bad b k = [] := by
  rw [Store.bad_eq_nil_iff] at h ⊢
  intro c hm h1 h2 v hv
  obtain ⟨hm', h3, h4, hb⟩ := hc c hm h1 h2
  rw [h c hm' h3 h4 v hv, Sparse.getList_eq, Sparse.getList_eq]
  simp only [hb]

/-! The poison and the check values that a write leaves (R396, R399). -/

theorem get_putList_clean {p : Sparse Bool} {x : Nat} (h : Sparse.get false p x = false) (a n : Nat) :
    Sparse.get false (Sparse.putList false p a (List.replicate n false)) x = false := by
  rw [Sparse.get_putList]
  split
  · next hx =>
    rw [List.length_replicate] at hx
    rw [List.getD_eq_getElem _ _ (by rw [List.length_replicate]; omega), List.getElem_replicate]
  · exact h

theorem sectorMarks_clean {p : Sparse Bool} {x : Nat} (h : Sparse.get false p x = false) (q a : Nat) (bs : List Byte) :
    Sparse.get false (sectorMarks true false p q a (clean bs)) x = false := by
  have hw (i j : Nat) : (((clean bs).drop i).take j).any (fun c => c.2) = false := by
    refine List.any_eq_false.2 fun c hc => ?_
    obtain ⟨b, -, rfl⟩ := List.mem_map.1 (List.mem_of_mem_drop (List.mem_of_mem_take hc))
    exact Bool.false_ne_true
  unfold sectorMarks
  simp only [hw, Bool.and_false, Bool.false_eq_true, if_false, Bool.true_or, if_true]
  exact get_putList_clean h _ _

theorem Store.pois_write_clean {m : Store} {x : Nat} (h : Sparse.get false m.pois x = false) (a : Nat) (bs : List Byte) :
    Sparse.get false (m.write true a (clean bs)).pois x = false := by
  unfold Store.write
  dsimp only
  split
  · exact h
  · exact foldl_keeps (P := fun p => Sparse.get false p x = false) (fun p i hp => sectorMarks_clean hp _ _ _) _ _ h

/-- A sector that has been written carries no stale check value. -/
theorem Store.bad_write (m : Store) {mask : Bool} {a q : Nat} {d : List PByte} (h1 : a / 32 ≤ q) (h2 : 32 * q < a + d.length) :
    (m.write mask a d).bad (32 * q) 32 = [] := by
  rw [Store.bad_eq_nil_iff]
  intro c hc h3 h4
  have hf := (List.mem_filter.1 hc).2
  rw [Bool.or_eq_true, decide_eq_true_iff, decide_eq_true_iff] at hf
  omega

/-! A write through the key of a slot (R339). -/

/-- Every sector that a run of bytes meets is clean. -/
def CleanSectors (s : State) (pa n : Nat) : Prop := CleanAt s (pa / 32 * 32) ((pa + n + 31) / 32 * 32 - pa / 32 * 32)

theorem CleanSectors.pois {s : State} {pa n : Nat} (h : CleanSectors s pa n) {x : Nat} (h1 : pa / 32 ≤ x / 32) (h2 : x / 32 * 32 < pa + n) :
    Sparse.get false s.mem.dev.pois x = false := by
  obtain ⟨y, rfl⟩ : ∃ y, x = pa / 32 * 32 + y := ⟨x - pa / 32 * 32, by omega⟩
  exact h.2 y (by omega)

/-- A run of clean sectors is clean. -/
theorem CleanSectors.cleanAt {s : State} {pa n : Nat} (h : CleanSectors s pa n) : CleanAt s pa n :=
  ⟨Store.bad_eq_nil_of h.1 fun c hc h1 h2 => ⟨hc, by omega, by omega, fun _ => rfl⟩, fun i hi => h.pois (by omega) (by omega)⟩

/-- Device memory before a write through a key: the blocks it meets are under the key. -/
def State.devTurned (s : State) (pa n : Nat) (key : Option (BitVec 13)) : Store :=
  if key.isNone then s.mem.dev else s.mem.dev.turn (s.keyIn key) pa n

theorem State.devTurned_pois (s : State) (pa n : Nat) (key : Option (BitVec 13)) :
    (s.devTurned pa n key).pois = s.mem.dev.pois ∧ (s.devTurned pa n key).chk = s.mem.dev.chk := by
  unfold State.devTurned
  split
  · exact ⟨rfl, rfl⟩
  · unfold Store.turn
    split
    · exact ⟨rfl, rfl⟩
    · exact foldl_keeps (P := fun u : Store => u.pois = s.mem.dev.pois ∧ u.chk = s.mem.dev.chk) (f := fun m q => m.rekey _ q)
        (fun _ _ h => h) _ _ ⟨rfl, rfl⟩

theorem State.byte_devTurned {s : State} {pa n : Nat} {key : Option (BitVec 13)} (hn : 0 < n) (hk : Keyed s key pa n) (x : Nat) :
    Sparse.get 0 (s.devTurned pa n key).bytes x = Sparse.get 0 s.mem.dev.bytes x := by
  unfold State.devTurned
  split
  · rfl
  · obtain ⟨i, rfl⟩ : ∃ i, key = some i := Option.ne_none_iff_exists'.1 fun h => by subst h; simp_all
    exact Store.byte_turn hn hk x

/-- Edges whose sectors carry the right check values. -/
theorem State.edges_of_good {s : State} {e : Site} {a n : Nat} (h1 : s.verify e a 1 = s) (h2 : s.verify e (a + n - 1) 1 = s) :
    s.edges e a n = s := by
  simp only [State.edges, h1, ite_self, h2]

/-- A write of clean bytes over clean sectors changes device memory alone, and leaves the sectors clean. -/
theorem State.devPut_clean {s : State} {pa : Nat} {bs : List Byte} {key : Option (BitVec 13)} (hm : s.mem.mig = [])
    (hk : Keyed s key pa bs.length) (hc : CleanSectors s pa bs.length) (hn : 0 < bs.length) : ∃ m : Mem,
      s.devPut pa (clean bs) key = { s with mem := m } ∧ m.host = s.mem.host ∧ m.mig = [] ∧
      ∀ q, pa / 32 ≤ q → 32 * q < pa + bs.length → CleanAt { s with mem := m } (32 * q) 32 := by
  have hd : (clean bs).isEmpty = false := by cases bs <;> simp_all [clean]
  obtain ⟨hp, hch⟩ := s.devTurned_pois pa bs.length key
  have hput : s.devPut pa (clean bs) key = { s with mem := { s.mem with dev := s.devTurned pa bs.length key } }.rawPut .dev pa (clean bs) := by
    rw [State.devPut, hm, List.isEmpty_nil, if_pos rfl, State.keyPut, State.devTurned, hd, Bool.or_false, length_clean]
    split <;> rfl
  have hb (b k : Nat) (h1 : pa / 32 ≤ b / 32) (h2 : b + k ≤ pa + bs.length) : (s.devTurned pa bs.length key).bad b k = [] :=
    Store.bad_eq_nil_of hc.1 fun c hcm h3 h4 => ⟨hch ▸ hcm, by omega, by omega, State.byte_devTurned hn hk⟩
  have he : ({ s with mem := { s.mem with dev := s.devTurned pa bs.length key } } : State).edges .dev pa bs.length =
      { s with mem := { s.mem with dev := s.devTurned pa bs.length key } } :=
    State.edges_of_good (verify_of_good .dev _ _ (hb pa 1 (le_refl _) (by omega))) (verify_of_good .dev _ _ (hb _ 1 (by omega) (by omega)))
  have hq (q : Nat) (h1 : pa / 32 ≤ q) (h2 : 32 * q < pa + bs.length) (u : State)
      (hu : u.mem.dev = (s.devTurned pa bs.length key).write true pa (clean bs)) : CleanAt u (32 * q) 32 := by
    rw [CleanAt, hu]
    refine ⟨Store.bad_write _ h1 (by rw [length_clean]; exact h2), fun i hi => Store.pois_write_clean ?_ _ _⟩
    rw [hp]
    exact hc.pois (by omega) (by omega)
  rw [hput, State.rawPut_dev _ _ hd, State.written, length_clean, he]
  split
  · exact ⟨_, rfl, rfl, hm, fun q h1 h2 => hq q h1 h2 _ rfl⟩
  · exact ⟨_, rfl, rfl, hm, fun q h1 h2 => hq q h1 h2 _ rfl⟩

/-- A clean sector is found without poison (R290). -/
theorem State.sectorPois_clean {s : State} {q : Nat} (hm : s.mem.mig = []) (h : CleanAt s (32 * q) 32) :
    s.sectorPois .dev (32 * q) 32 = false := by
  have h1 : 32 * q / 32 * 32 = 32 * q := by omega
  have h2 : (32 * q + 32 + 31) / 32 * 32 - 32 * q = 32 := by omega
  have hv : s.verify .dev (32 * q) 32 = s := verify_of_good .dev _ _ h.1
  rw [State.sectorPois, h1, h2]
  change anyPois (s.devGet (32 * q) 32 none).2 = false
  rw [State.devGet, hm, List.isEmpty_nil, if_pos rfl, State.keyGet, State.rawGet, hv]
  change anyPois (s.mem.dev.get (32 * q) 32) = false
  refine List.any_eq_false.2 fun c hc => ?_
  have hp := List.of_mem_zip hc
  rw [Sparse.getList_eq, Sparse.getList_eq] at hp
  obtain ⟨i, hi, hci⟩ := List.mem_map.1 hp.2
  rw [← hci, h.2 i (List.mem_range.1 hi)]
  exact Bool.false_ne_true

/-- A part of a store of clean bytes over clean sectors of device memory. -/
abbrev devSeg (pa va off : Nat) (bs : List Byte) (key : Option (BitVec 13)) : Seg := ⟨.dev, pa, va, off, clean bs, [], key⟩

/-- It is performed in device memory, and no step of a core takes note of poison. -/
theorem State.putSeg_clean {s : State} {k pa va off : Nat} {bs : List Byte} {key : Option (BitVec 13)} (hm : s.mem.mig = [])
    (hk : Keyed s key pa bs.length) (hc : CleanSectors s pa bs.length) (hn : 0 < bs.length) (ht : s.Untwinned k) : ∃ m : Mem,
      s.putSeg k (devSeg pa va off bs key) = { s with mem := m } ∧ m.host = s.mem.host := by
  obtain ⟨m, hput, hh, hmig, hq⟩ := State.devPut_clean hm hk hc hn
  have hs : s.storeSeg k (devSeg pa va off bs key) (clean bs) = { s with mem := m } := hput
  have hd : s.segData k (devSeg pa va off bs key) = (s, clean bs) := if_pos rfl
  unfold State.putSeg
  simp only [hd]
  refine ⟨m, ?_, hh⟩
  rw [if_neg (by decide)]
  cases hw : (s.core k).step with
  | none => exact hs
  | some w =>
    simp only [ht w hw, if_true, reduceCtorEq, if_false, hs]
    refine if_neg (Bool.eq_false_iff.1 (List.any_eq_false.2 fun q hqm => Bool.eq_false_iff.1 ?_))
    obtain ⟨i, hi, rfl⟩ := List.mem_map.1 (List.mem_eraseDups.1 hqm)
    have hi' := List.mem_range.1 (List.mem_of_mem_filter hi)
    rw [length_clean] at hi'
    exact State.sectorPois_clean hmig (hq _ (by omega) (by omega))

/-- Device memory after a store of bytes: they lie where they were stored, and no other byte has changed. -/
def HoldsBytes (s : State) (m : Mem) (pa : Nat) (bs : List Byte) : Prop :=
  ({ s with mem := m } : State).devBytes pa bs.length = bs ∧ m.host = s.mem.host ∧
  ∀ a, ¬ (pa ≤ a ∧ a < pa + bs.length) → Sparse.get 0 m.dev.bytes a = Sparse.get 0 s.mem.dev.bytes a

/-- A store of clean bytes over clean sectors, performed in a state whose memory and keys are those of `s`. -/
theorem State.perform_clean {s z : State} {k pa va off : Nat} {bs : List Byte} {key : Option (BitVec 13)} {g : Agent} (hz : z.mem = s.mem)
    (hzb : z.bench = s.bench) (ht : z.Untwinned k) (hm : s.mem.mig = []) (hk : Keyed s key pa bs.length)
    (hc : CleanSectors s pa bs.length) (hn : 0 < bs.length) :
    ∃ m : Mem, z.perform k ⟨[devSeg pa va off bs key], g⟩ = { z with mem := m } ∧ HoldsBytes s m pa bs := by
  have hkz : Keyed z key pa bs.length := by simpa only [Keyed, State.keyIn, hz, hzb] using hk
  have hcz : CleanSectors z pa bs.length := by simpa only [CleanSectors, CleanAt, hz] using hc
  have hmz : z.mem.mig = [] := by rw [hz]; exact hm
  obtain ⟨m, hput, hh⟩ := State.putSeg_clean (va := va) (off := off) hmz hkz hcz hn ht
  have hst := PartStored.putSeg (g := devSeg pa va off bs key) hmz ht rfl fun _ => by rw [length_clean]; exact hkz
  have hbyte (x : Nat) : Sparse.get 0 m.dev.bytes x = (devSeg pa va off bs key).onDev z.dev x := by
    rw [← hst.byte x, hput]
    rfl
  refine ⟨m, hput, List.ext_getElem (by simp [State.devBytes]) fun i h1 h2 => ?_, hh.trans (by rw [hz]), fun a ha => ?_⟩
  · simp only [State.devBytes, List.getElem_map, List.getElem_range]
    rw [hbyte, Seg.onDev, if_pos ⟨rfl, Nat.le_add_right _ _, by rw [length_clean]; exact Nat.add_lt_add_left h2 pa⟩, Nat.add_sub_cancel_left,
      List.getD_eq_getElem _ _ (by rw [length_clean]; exact h2)]
    simp [clean]
  · rw [hbyte, Seg.onDev, if_neg fun h => ha ⟨h.2.1, by have := h.2.2; rwa [length_clean] at this⟩, State.dev, hz]

end Sys2Proof.Machine
end

section
/-! PROOF. The atomics of the S-stream (R93, R95, R97-R100, R248, R249, R353). -/

namespace Sys2Proof.Machine

open Sys2Proof

variable {s : State}

/-! A load or atomic that has performed. -/

/-- The same memory and panels in the state before and after. -/
theorem CoreIs.withPanels {k : Nat} {c : Core} {t : State} (h : CoreIs k c s t) (m : Mem) (ps : Sparse Panel) :
    CoreIs k c { s with mem := m, panels := ps } { t with mem := m, panels := ps } :=
  ⟨⟨by rw [h.1.1], h.1.2⟩, h.2⟩

/-- The core once an access that found an empty load queue has performed, with `buf` its stores at core scope. -/
def Core.accessed (c : Core) (l : QLoad) (d : XReg) (flags v : Word) (buf : List VisStore) : Core :=
  (({ ({ c with s := c.s.issued l } : Core).orSst flags with buffer := buf } : Core).setX d v).setLoads false c.s.loads

/-- What is left of an access that has performed, `r` being the state with the memory, the Bench and the panels it has left. -/
def AccessDone (s r : State) (d : XReg) (flags v : Word) (buf : List VisStore) (t : State) : Prop :=
  XIs d v s t ∧ NextWord s t ∧ t.me.s.sst = s.me.s.sst ||| flags ∧ t.me.buffer = buf ∧ OnlyAccess r t

theorem accessDone_of {t : State} {m : Mem} {b : Bench} {ps : Sparse Panel} {l : QLoad} {d : XReg} {flags v : Word} {buf : List VisStore}
    (h : CoreIs s.curN (s.me.accessed l d flags v buf) { s with mem := m, bench := b, panels := ps } t) :
    AccessDone s { s with mem := m, bench := b, panels := ps } d flags v buf t := by
  have hme : t.me = s.me.accessed l d flags v buf := CoreIs.me (s := { s with mem := m, bench := b, panels := ps }) h
  refine ⟨fun n => ?_, ⟨?_, ?_⟩, ?_, ?_, h.1, ?_⟩ <;> rw [hme]
  · exact Core.xr_setX _ _ _ _
  · rw [Core.accessed, Core.setX_eq]
    rfl
  · rw [Core.accessed, Core.setX_eq]
    rfl
  · rw [Core.accessed, Core.setX_eq]
    rfl
  · rw [Core.accessed, Core.setX_eq]
    rfl
  · rw [Core.accessed, Core.setX_eq]
    rfl

/-! An atomic at the head of its queue reads, modifies and writes (R97-R100). -/

/-- A read-modify-write of `n` bytes at a scope, with what it writes over an old value. -/
def RmwOp (op : LoadOp) (d : XReg) (n : Nat) (sc : Scope) (f : Nat → Option Nat) : Prop :=
  (∃ g x, op = .amo d g n x sc ∧ f = fun old => some (amoFn g n old x)) ∨
  ∃ o x, op = .cas d o x ∧ n = 8 ∧ sc = .device ∧ f = fun old => if old = o then some x else none

section
variable {u : State} {k n : Nat} {l : QLoad} {d : XReg} {sc : Scope} {f : Nat → Option Nat}

theorem State.performLoad_rmw (ho : RmwOp l.op d n sc f) (hl : (u.core k).loadsOf false = [l]) (hq : (u.core k).storesOf false = []) :
    u.performLoad k false = u.rmw k l [] d n sc f (fun s => s.onCore k (fun c => c.setLoads false [])) := by
  rcases ho with ⟨g, x, ho, rfl⟩ | ⟨o, x, ho, rfl, rfl, rfl⟩ <;>
    simp only [State.performLoad, hl, hq, ho, List.filter_nil, List.any_nil, Bool.false_eq_true, if_false]

theorem State.rmw_held {w : WaitOn} (ha : u.access k l.tok .s true true [(0, l.off, n)] = .hold w) (g : State → State) :
    u.rmw k l [] d n sc f g = .waits := by
  simp only [State.rmw, ha]

theorem State.rmw_dead (ha : u.access k l.tok .s true true [(0, l.off, n)] = .dead) :
    u.rmw k l [] d n sc f (fun s => s.onCore k (fun c => c.setLoads false [])) = .done (u.gaveX k d 0) := by
  simp only [State.rmw, ha]
  rfl

section
variable {ps : List Piece} (ha : u.access k l.tok .s true true [(0, l.off, n)] = .live ps)
include ha

theorem State.rmw_oox (h : l.off % n ≠ 0 ∨ anyOut ps = true) :
    u.rmw k l [] d n sc f (fun s => s.onCore k (fun c => c.setLoads false [])) = .done ((u.onCore k (fun c => c.oox true)).gaveX k d 0) := by
  simp only [State.rmw, ha]
  exact if_pos (by rw [Bool.or_eq_true, decide_eq_true_iff]; exact h)

variable (hz : l.off % n = 0) (ho : anyOut ps = false)
include hz ho

theorem State.rmw_dsc {p : Piece} (hp : firstDsc ps = some p) :
    u.rmw k l [] d n sc f (fun s => s.onCore k (fun c => c.setLoads false [])) =
      .done ((u.dropped k ((u.core k).mteOf l.tok).vbase ps).gaveX k d 0) := by
  simp only [State.rmw, ha, hz, ho, hp]
  rfl

variable (hd : firstDsc ps = none)
include hd

theorem State.rmw_poisoned (hp : anyPois (u.readPieces k l.tok n ps).2 = true) :
    u.rmw k l [] d n sc f (fun s => s.onCore k (fun c => c.setLoads false [])) =
      ((u.readPieces k l.tok n ps).1.onCore k (fun c => c.setLoads false [])).loadTrap k l.pc := by
  simp only [State.rmw, ha, hz, ho, hd, hp]
  rfl

variable {r : State} {bs : List Byte} (hr : u.readPieces k l.tok n ps = (r, clean bs))
include hr

theorem State.rmw_kept (hf : f (leNat bs) = none) :
    u.rmw k l [] d n sc f (fun s => s.onCore k (fun c => c.setLoads false [])) = .done (r.gaveX k d (word (leNat bs))) := by
  simp only [State.rmw, ha, hz, ho, hd, hr, anyPois_clean, plain_clean, hf]
  rfl

theorem State.rmw_written {v : Nat} (hf : f (leNat bs) = some v) :
    u.rmw k l [] d n sc f (fun s => s.onCore k (fun c => c.setLoads false [])) =
      .done ((r.showAt k sc ⟨plainSegs ((u.core k).mteOf l.tok).vbase (clean (leBytes n v)) ps, .s⟩).gaveX k d (word (leNat bs))) := by
  simp only [State.rmw, ha, hz, ho, hd, hr, anyPois_clean, plain_clean, hf]
  rfl

end

end

/-! Where the write of an atomic stands (R99, R249; log entry 107). -/

/-- The memory, the stores at core scope of the current core and the panels after a store `w` of `bs` at `pa` at a scope, no earlier
store being visible to fewer than the device. -/
def ShownAt (s : State) (sc : Scope) (pa : Nat) (bs : List Byte) (w : VisStore) (m : Mem) (buf : List VisStore) (ps : Sparse Panel) : Prop :=
  if sc = .core ∨ (sc = .panel ∧ s.me.panel.size = 0#5) then m = s.mem ∧ buf = [w] ∧ ∀ b, Sparse.get {} ps b = s.panel b
  else if sc = .panel then m = s.mem ∧ buf = [] ∧ ∀ b, Sparse.get {} ps b =
    if b = s.me.panelBase s.curN then { s.panel b with buffer := [(s.curN, w)] } else s.panel b
  else HoldsBytes s m pa bs ∧ buf = [] ∧ ∀ b, Sparse.get {} ps b = s.panel b

theorem State.showAt_core {u : State} {k : Nat} {sc : Scope} (h : sc = .core ∨ (sc = .panel ∧ (u.core k).panel.size = 0#5)) (w : VisStore) :
    u.showAt k sc w = u.onCore k (fun c => c.pushBuffer w) := if_pos h

/-- A store that is to be visible beyond its core, where no earlier one stands at core scope. -/
theorem State.showAt_wider {u : State} {k : Nat} {sc : Scope} (h : ¬ (sc = .core ∨ (sc = .panel ∧ (u.core k).panel.size = 0#5)))
    (hb : (u.core k).buffer = []) (w : VisStore) : u.showAt k sc w =
      if (u.core k).panel.size = 0#5 then (u.onCore k (fun c => { c with buffer := [] })).perform k w
      else if sc = .panel then (u.onCore k (fun c => { c with buffer := [] })).setPanel ((u.core k).panelBase k)
        { u.panel ((u.core k).panelBase k) with buffer := (u.panel ((u.core k).panelBase k)).buffer ++ [(k, w)] }
      else ((pickFor panelBefore [(k, w)] (u.panel ((u.core k).panelBase k)).buffer).1 ++ [(k, w)]).foldl (fun s e => s.perform e.1 e.2)
        ((u.onCore k (fun c => { c with buffer := [] })).setPanel ((u.core k).panelBase k) { u.panel ((u.core k).panelBase k) with
          buffer := (pickFor panelBefore [(k, w)] (u.panel ((u.core k).panelBase k)).buffer).2 }) := by
  rw [State.showAt, if_neg h, hb]
  rfl

theorem State.panel_put (s : State) {ps : Sparse Panel} (hp : ps = s.panels) (base : Nat) (p : Panel) (b : Nat) :
    Sparse.get {} (Sparse.put {} ps base p) b = if b = base then p else s.panel b := by
  rw [hp]
  exact Sparse.get_put _ _ _ _

theorem State.showAt_spec {u : State} {c : Core} {sc : Scope} {pa va off : Nat} {bs : List Byte} {key : Option (BitVec 13)} {g : Agent}
    (h : CoreIs s.curN c s u) (hb : NoBuffer s s.curN) (hcb : c.buffer = s.me.buffer) (hcp : c.panel = s.me.panel)
    (hcs : c.step = s.me.step) (ht : NoTwin s s.curN) (hm : s.mem.mig = []) (hk : Keyed s key pa bs.length)
    (hc : CleanSectors s pa bs.length) (hn : 0 < bs.length) : ∃ m buf ps,
      CoreIs s.curN { c with buffer := buf } { s with mem := m, panels := ps } (u.showAt s.curN sc ⟨[devSeg pa va off bs key], g⟩) ∧
      ShownAt s sc pa bs ⟨[devSeg pa va off bs key], g⟩ m buf ps := by
  obtain ⟨hb1, hb2⟩ := hb
  have hub : (u.core s.curN).buffer = [] := by rw [h.2, hcb]; exact hb1
  have hup : (u.core s.curN).panel = s.me.panel := by rw [h.2, hcp]
  have hbase : (u.core s.curN).panelBase s.curN = s.me.panelBase s.curN := by rw [Core.panelBase, hup]; rfl
  have hpn : u.panels = s.panels := by rw [h.1.1]
  by_cases hcore : sc = .core ∨ (sc = .panel ∧ s.me.panel.size = 0#5)
  · rw [State.showAt_core (by rw [hup]; exact hcore)]
    simp only [ShownAt, if_pos hcore]
    refine ⟨s.mem, _, s.panels, h.onCore _, rfl, ?_, fun b => rfl⟩
    rw [hcb, show s.me.buffer = [] from hb1]
    rfl
  · rw [State.showAt_wider (by rw [hup]; exact hcore) hub, hup, hbase]
    simp only [ShownAt, if_neg hcore]
    have hz : CoreIs s.curN { c with buffer := [] } s (u.onCore s.curN (fun c => { c with buffer := [] })) := h.onCore _
    generalize u.onCore s.curN (fun c => { c with buffer := [] }) = z at hz ⊢
    have hpan (b : Nat) : u.panel b = s.panel b := by rw [State.panel, hpn]; rfl
    have hzp : z.panels = s.panels := by rw [hz.1.1]
    have hdev (ps : Sparse Panel) (hps : ∀ b, Sparse.get {} ps b = s.panel b) : ∃ m buf ps',
        CoreIs s.curN { c with buffer := buf } { s with mem := m, panels := ps' }
          (({ z with panels := ps } : State).perform s.curN ⟨[devSeg pa va off bs key], g⟩) ∧
        HoldsBytes s m pa bs ∧ buf = [] ∧ ∀ b, Sparse.get {} ps' b = s.panel b := by
      obtain ⟨m, hput, hmem⟩ := State.perform_clean (s := s) (z := { z with panels := ps }) (k := s.curN) (va := va) (off := off) (g := g)
        hz.mem hz.1.bench (fun w hw => ht s.curN (.inl rfl) w (hcs.symm.trans (by rw [← hw]; exact (congrArg Core.step hz.2).symm)))
        hm hk hc hn
      rw [hput]
      exact ⟨m, [], ps, hz.withPanels m ps, hmem, rfl, hps⟩
    by_cases hsz : s.me.panel.size = 0#5
    · simp only [if_pos hsz, if_neg fun hs => hcore (.inr ⟨hs, hsz⟩)]
      exact hdev z.panels fun b => by rw [hzp]; rfl
    · rw [if_neg hsz, hpan, show (s.panel (s.me.panelBase s.curN)).buffer = [] from hb2 hsz]
      by_cases hs : sc = .panel
      · simp only [if_pos hs]
        have hr := hz.withPanels z.mem (Sparse.put {} z.panels (s.me.panelBase s.curN)
          { s.panel (s.me.panelBase s.curN) with buffer := [] ++ [(s.curN, ⟨[devSeg pa va off bs key], g⟩)] })
        refine ⟨z.mem, [], _, hr, hz.mem, rfl, fun b => ?_⟩
        rw [State.panel_put s hzp]
        split
        · next hb => rw [hb]; rfl
        · rfl
      · simp only [if_neg hs]
        refine hdev (Sparse.put {} z.panels (s.me.panelBase s.curN) { s.panel (s.me.panelBase s.curN) with buffer := [] }) fun b => ?_
        rw [State.panel_put s hzp]
        split
        · next hb =>
          rw [hb, ← hb2 hsz]
          rfl
        · rfl

end Sys2Proof.Machine
end

section
/-! PROOF. O13: what an atomic of the S-stream does as it issues (R93, R95, R97-R100, R248, R249, R353). -/

namespace Sys2Proof.Machine

open Sys2Proof

variable {s : State}

/-! An atomic issues, and performs at once where it may. -/

theorem State.atomic_of_noTwin (h : NoTwin s s.curN) (l : QLoad) : s.atomic l = s.loadS l := by
  unfold State.atomic State.twinStop
  cases hs : (s.core s.curN).step with
  | none => rfl
  | some w => simp only [h s.curN (.inl rfl) w hs, if_true]

/-- The entry of the load queue that an issued load is. -/
abbrev State.asIssued (s : State) (l : QLoad) : QLoad := { l with pc := s.me.s.pc, seq := s.me.s.seq }

theorem State.access_issued (l : QLoad) (k : Nat) (t : Option Tok) (b : MaskBit) (r w : Bool) (bs : List (Nat × Nat × Nat)) :
    (s.entered l).access k t b r w bs = s.access k t b r w bs := by
  have hu := s.sameButS_issued l
  refine State.access_congr hu.mem ?_ t b r w bs
  rw [hu.core]
  exact Core.SameReach.refl _

section
variable {i : Instr} {l : QLoad} {d : XReg} {n : Nat} {sc : Scope} {f : Nat → Option Nat} (hx : exec i s = .next (s.loadS l))
include hx

theorem entersLoad_issued (h : s.loadS l = s.entered l) : EntersLoad i s l := by
  rw [h] at hx
  have hu := s.sameButS_issued l
  exact ⟨_, hx, hu.1, hu.me⟩

variable (ho : RmwOp l.op d n sc f) (hp : Prompt s s.curN false)
include ho hp

omit hx in
/-- An atomic that finds both queues empty performs where it stands. -/
theorem State.performLoad_issued : (s.entered l).performLoad s.curN false =
    (s.entered l).rmw s.curN (s.asIssued l) [] d n sc f (fun s' => s'.onCore s.curN (fun c => c.setLoads false [])) :=
  State.performLoad_rmw ho (State.loadsOf_entered hp.2.1) (State.storesOf_entered.trans hp.2.2)

omit ho in
theorem does_rmw {t : State} {m : Mem} {b : Bench} {ps : Sparse Panel} {flags v : Word} {buf : List VisStore}
    (ht : (s.entered l).performLoad s.curN false = .done t)
    (h : CoreIs s.curN (s.me.accessed l d flags v buf) { s with mem := m, bench := b, panels := ps } t) :
    Does i s (AccessDone s { s with mem := m, bench := b, panels := ps } d flags v buf) := by
  have hld := State.loadS_done hp.1 hp.2.1 ht (by rw [h.2]; exact hp.2.1)
  rw [hld] at hx
  exact ⟨t, hx, accessDone_of h⟩

omit hx ho in
/-- A result is given in a state in which the atomic stands alone in its queue. -/
theorem CoreIs.gaveX {r u : State} {flags v : Word} {buf : List VisStore}
    (h : CoreIs s.curN { ({ s.me with s := s.me.s.issued l } : Core).orSst flags with buffer := buf } r u) :
    CoreIs s.curN (s.me.accessed l d flags v buf) r (u.gaveX s.curN d v) := by
  have hc := (h.onCore (fun c => c.setX d v)).onCore (fun c => c.setLoads false [])
  have hl : s.me.s.loads = [] := hp.2.1
  rw [Core.accessed, hl]
  exact hc

omit ho hp in
theorem entersLoad_atomic_lazy (h : s.lazy = true) : EntersLoad i s l := entersLoad_issued hx (State.loadS_of_lazy h l)

/-- An atomic through a STALE token stands in its queue (R93). -/
theorem entersLoad_atomic_stale (hs : (s.me.mteOf l.tok).st = .stale) : EntersLoad i s l := by
  obtain ⟨w, hw⟩ := State.access_stale (s := s) (k := s.curN) hs .s true true [(0, l.off, n)]
  have hwait := (State.performLoad_issued ho hp).trans (State.rmw_held (l := s.asIssued l) ((s.access_issued l s.curN l.tok .s true true [(0, l.off, n)]).trans hw) _)
  refine entersLoad_issued hx ?_
  rw [State.loadS_of_prompt hp, show (s.pushLoad s.curN false l).retire = s.entered l from rfl, hwait]
  rfl

theorem loadsX_atomic_dead (hs : (s.me.mteOf l.tok).st = .dead) : LoadsX i s d 0 0 := by
  have ha : s.access s.curN l.tok .s true true [(0, l.off, n)] = .dead := by
    simp only [State.access, show ((s.core s.curN).mteOf l.tok).st = .dead from hs]
  have ht := (State.performLoad_issued ho hp).trans (State.rmw_dead (l := s.asIssued l) ((s.access_issued l _ _ _ _ _ _).trans ha))
  have hu := s.sameButS_issued l
  exact does_rmw (m := s.mem) (b := s.bench) (ps := s.panels) hx hp ht (CoreIs.gaveX hp (by rw [Core.orSst_zero]; exact hu))

section
variable {ps : List Piece} (ha : s.access s.curN l.tok .s true true [(0, l.off, n)] = .live ps)
include ha

theorem loadsX_atomic_oox (h : l.off % n ≠ 0 ∨ anyOut ps = true) : LoadsX i s d 0 0x4000#64 := by
  have ht := (State.performLoad_issued ho hp).trans (State.rmw_oox (l := s.asIssued l) ((s.access_issued l _ _ _ _ _ _).trans ha) h)
  have hu : CoreIs s.curN _ s _ := (s.sameButS_issued l).onCore (fun c => c.oox true)
  exact does_rmw (m := s.mem) (b := s.bench) (ps := s.panels) hx hp ht (CoreIs.gaveX hp hu)

variable (hz : l.off % n = 0) (hout : anyOut ps = false)
include hz hout

omit hx ho hp ha hz hout in
theorem CoreIs.tell {k : Nat} {c : Core} {t : State} (h : CoreIs k c s t) (e : BenchEvent) :
    CoreIs k c { s with bench := (s.tell e).bench } (t.tell e) := by
  obtain ⟨⟨ht, ho⟩, hc⟩ := h
  generalize t.cores = cs at ht
  subst ht
  exact ⟨⟨rfl, ho⟩, hc⟩

/-- An atomic of a discarded page gives 0, and the Bench is told (R353). -/
theorem does_atomic_dsc {p : Piece} (hd : firstDsc ps = some p) : Does i s (AccessDone s
    { s with bench := (s.tell (.discardedStore s.me.gangOf s.curN ((s.me.mteOf l.tok).vbase + p.off))).bench } d 0x8000#64 0 s.me.buffer) := by
  have ht := (State.performLoad_issued ho hp).trans (State.rmw_dsc (l := s.asIssued l) ((s.access_issued l _ _ _ _ _ _).trans ha) hz hout hd)
  have hi := s.sameButS_issued l
  have hc := (CoreIs.onCore (s := s) hi (fun c => c.dscw true)).tell (.discardedStore s.me.gangOf s.curN ((s.me.mteOf l.tok).vbase + p.off))
  have hdr : (s.entered l).dropped s.curN (((s.entered l).core s.curN).mteOf l.tok).vbase ps =
      ((s.entered l).onCore s.curN (fun c => c.dscw true)).tell (.discardedStore s.me.gangOf s.curN ((s.me.mteOf l.tok).vbase + p.off)) := by
    rw [State.dropped, hd, hi.2]
    rfl
  rw [hdr] at ht
  exact does_rmw (m := s.mem) (b := (s.tell _).bench) (ps := s.panels) hx hp ht (CoreIs.gaveX hp hc)

variable (hd : firstDsc ps = none)
include hd

/-- An atomic that reads poison traps (R95). -/
theorem trapsPoison_atomic (hpo : anyPois (s.readPieces s.curN l.tok n ps).2 = true) (hh : s.me.s.inHandler = false) :
    TrapsPoison i s (s.readPieces s.curN l.tok n ps).1 := by
  have hu := s.sameButS_issued l
  obtain ⟨hr, hr2⟩ := Alike.readPieces (s := s) (u := s.entered l) hu.mem hu.1.bench hu.streams s.curN l.tok n (State.access_inMemory ha)
  have hperf := (State.performLoad_issued ho hp).trans
    (State.rmw_poisoned (l := s.asIssued l) ((s.access_issued l _ _ _ _ _ _).trans ha) hz hout hd (by rw [hr2]; exact hpo))
  have hi := (hu.withMem (s.readPieces s.curN l.tok n ps).1.mem (s.readPieces s.curN l.tok n ps).1.bench).onCore
    (fun c => c.setLoads false [])
  rw [← hr.left, ← hr.right] at hi
  rw [State.loadTrap_running (by rw [hi.2]; rfl) (by rw [hi.2]; exact hh)] at hperf
  have ht := State.loadS_trapped hp.1 hp.2.1 hperf
  rw [ht] at hx
  refine trapsPoison_of (l := l) hr.left hx ?_
  rw [hi.2]
  exact hi.setCore _

end

/-! An atomic on plain memory (R97-R99). -/

section
variable {pa : Nat} (hq : NoBuffer s s.curN) (ht : NoTwin s s.curN) (hz : l.off % n = 0)
  (hr : Reaches s (s.me.mteOf l.tok) .s true true l.off n pa) (hc : CleanSectors s pa n)
include hq ht hz hr hc

omit hx ho hp hz in
theorem State.readPieces_issued :
    (s.entered l).readPieces s.curN (s.asIssued l).tok n [⟨.at .dev pa, 0, l.off, n, (s.me.mteOf l.tok).keyAt l.off⟩] =
      (s.entered l, clean (s.devBytes pa n)) := by
  have hu := s.sameButS_issued l
  have hread := State.readPieces_reaches (k := s.curN) hr hc.cleanAt hq ht
  obtain ⟨hr1, hr2⟩ := Alike.readPieces (s := s) (u := s.entered l) hu.mem hu.1.bench hu.streams s.curN l.tok n
    (State.access_inMemory (access_of_reaches (k := s.curN) hr 0))
  have h1 := hr1.right
  rw [show (s.readPieces s.curN l.tok n _) = _ from hread] at h1 hr2
  rw [← hu.mem, ← hu.1.bench] at h1
  exact Prod.ext h1 hr2

/-- A compare-and-swap that finds another value than it expects writes nothing. -/
theorem does_atomic_kept (hf : f (leNat (s.devBytes pa n)) = none) :
    Does i s (AccessDone s s d 0 (word (leNat (s.devBytes pa n))) s.me.buffer) := by
  have ha := access_of_reaches (k := s.curN) hr 0
  have hperf := (State.performLoad_issued ho hp).trans (State.rmw_kept (l := s.asIssued l) ((s.access_issued l _ _ _ _ _ _).trans ha) hz rfl rfl
    (State.readPieces_issued hq ht hr hc) hf)
  have hu := s.sameButS_issued l
  exact does_rmw (m := s.mem) (b := s.bench) (ps := s.panels) hx hp hperf (CoreIs.gaveX hp (by rw [Core.orSst_zero]; exact hu))

/-- An atomic writes the new value where its scope sees it. -/
theorem does_atomic_written {v : Nat} (hf : f (leNat (s.devBytes pa n)) = some v) : ∃ m buf ps,
    Does i s (AccessDone s { s with mem := m, panels := ps } d 0 (word (leNat (s.devBytes pa n))) buf) ∧
    ShownAt s sc pa (leBytes n v) ⟨[devSeg pa ((s.me.mteOf l.tok).vbase + l.off) l.off (leBytes n v) ((s.me.mteOf l.tok).keyAt l.off)], .s⟩
      m buf ps := by
  have ha := access_of_reaches (k := s.curN) hr 0
  have hlen : (leBytes n v).length = n := length_leBytes n v
  have hperf := (State.performLoad_issued ho hp).trans (State.rmw_written (l := s.asIssued l) ((s.access_issued l _ _ _ _ _ _).trans ha) hz rfl rfl
    (State.readPieces_issued hq ht hr hc) hf)
  have hu := s.sameButS_issued l
  have hseg := maskedSegs_one (clean (leBytes n v)) (s.me.mteOf l.tok).vbase l.off ((s.me.mteOf l.tok).keyAt l.off) pa
  rw [length_clean, hlen] at hseg
  obtain ⟨-, -, -, hn, -, -, -, hm, -, -, hk⟩ := hr
  obtain ⟨m, buf, ps, hsh, hat⟩ := State.showAt_spec (sc := sc) (va := (s.me.mteOf l.tok).vbase + l.off) (off := l.off) (g := .s)
    (bs := leBytes n v) (key := (s.me.mteOf l.tok).keyAt l.off) (pa := pa) hu hq rfl rfl rfl ht hm
    (by rw [hlen]; exact hk rfl) (by rw [hlen]; exact hc) (by rw [hlen]; exact hn)
  refine ⟨m, buf, ps, ?_, hat⟩
  refine does_rmw (m := m) (b := s.bench) (ps := ps) hx hp ?_ (CoreIs.gaveX hp (by rw [Core.orSst_zero]; exact hsh))
  rw [hperf, plainSegs, hu.2]
  exact congrArg (fun g : List Seg => Performed.done (((s.entered l).showAt s.curN sc ⟨g, .s⟩).gaveX s.curN d (word (leNat (s.devBytes pa n))))) hseg

end

/-- Bytes that the entry does not grant, that begin beyond its end, or that are misaligned. -/
theorem loadsX_atomic_refused (hs : (s.me.mteOf l.tok).st = .live) (hpr : (s.me.mteOf l.tok).pred = false) (hst : Still s)
    (hn : 0 < n) (hoff : l.off < 2 ^ 64)
    (h : l.off % n ≠ 0 ∨ (s.me.mteOf l.tok).len ≤ l.off ∨ (s.me.mteOf l.tok).may .s true true = false) : LoadsX i s d 0 0x4000#64 := by
  have hs' : ((s.core s.curN).mteOf l.tok).st = .live := hs
  have ha : s.access s.curN l.tok .s true true [(0, l.off, n)] = _ :=
    State.access_one (by rw [hs']; decide) (by rw [hs']; decide) hpr fun p _ => State.missingLine_still hst p
  refine loadsX_atomic_oox hx ho hp ha (h.imp_right fun h => State.anyOut_pieces _ ?_ hn)
  rw [Nat.mod_eq_of_lt hoff]
  exact h.symm

theorem loadsX_atomic_null (ht : l.tok = none) (hn : 0 < n) : LoadsX i s d 0 0x4000#64 := by
  obtain ⟨ps, ha, hout, -⟩ := State.access_null_out (s := s) (k := s.curN) (b := .s) (r := true) (w := true) (off := l.off) hn
  rw [← ht] at ha
  exact loadsX_atomic_oox hx ho hp ha (.inr hout)

end

/-! The functions of an AMO (R97). -/

theorem leNat_leBytes (n v : Nat) : leNat (leBytes n v) = v % 2 ^ (8 * n) := by
  induction n generalizing v with
  | zero => simp [leBytes, leNat, Nat.mod_one]
  | succ n ih =>
    have h8 : (2 : Nat) ^ (8 * (n + 1)) = 256 * 2 ^ (8 * n) := by rw [Nat.mul_succ, Nat.pow_add, Nat.mul_comm]
    rw [leBytes, leNat, ih, h8, Nat.mod_mul, BitVec.toNat_ofNat]

theorem leNat_lt (bs : List Byte) : leNat bs < 2 ^ (8 * bs.length) := by
  induction bs with
  | nil => exact Nat.one_pos
  | cons b bs ih =>
    have h8 : (2 : Nat) ^ (8 * (bs.length + 1)) = 256 * 2 ^ (8 * bs.length) := by rw [Nat.mul_succ, Nat.pow_add, Nat.mul_comm]
    have hb := b.isLt
    rw [leNat, List.length_cons, h8]
    omega

/-- The functions on operands of `n` bytes, with the order of their signed values (R97). -/
def amoResult (f : AmoOp) (n b old : Nat) : Nat :=
  let so := (BitVec.ofNat (8 * n) old).toInt
  let sb := (BitVec.ofNat (8 * n) b).toInt
  match f with
  | .add => (old + b) % 2 ^ (8 * n)
  | .min => if so ≤ sb then old else b
  | .max => if sb ≤ so then old else b
  | .minu => min old b
  | .maxu => max old b
  | .and => old &&& b
  | .or => old ||| b
  | .xchg => b

theorem amoFn_eq (f : AmoOp) (n old b : Nat) : amoFn f n old b = amoResult f n b old := by
  have hs (x : Nat) : sextNat (8 * n) x = (BitVec.ofNat (8 * n) x).toInt := sextNat_eq_signedOf _ _
  have hlt (x y : Int) (a c : Nat) : (if x < y then a else c) = if y ≤ x then c else a := by
    by_cases h : y ≤ x
    · rw [if_pos h, if_neg (not_lt.2 h)]
    · rw [if_neg h, if_pos (not_le.1 h)]
  cases f with
  | min => exact (hlt _ _ _ _).trans (by rw [hs, hs]; rfl)
  | max => exact (hlt _ _ _ _).trans (by rw [hs, hs]; rfl)
  | minu =>
    change (if b < old then b else old) = min old b
    split <;> omega
  | maxu =>
    change (if old < b then b else old) = max old b
    split <;> omega
  | _ => rfl

theorem amoResult_lt (f : AmoOp) {n b old : Nat} (ho : old < 2 ^ (8 * n)) (hb : b < 2 ^ (8 * n)) : amoResult f n b old < 2 ^ (8 * n) := by
  cases f with
  | add => exact Nat.mod_lt _ (Nat.two_pow_pos _)
  | min => unfold amoResult; dsimp only; split <;> assumption
  | max => unfold amoResult; dsimp only; split <;> assumption
  | minu => exact lt_of_le_of_lt (Nat.min_le_left _ _) ho
  | maxu => exact max_lt ho hb
  | and => exact Nat.and_lt_two_pow _ hb
  | or => exact Nat.or_lt_two_pow ho hb
  | xchg => exact hb

/-! What the statement asks of an atomic on plain memory. -/

/-- What is left of an atomic on plain memory, as the statement writes it. -/
def Atomic (s : State) (d : XReg) (sc : Scope) (pa len old : Nat) (new : Option Nat) (store : Nat → VisStore) (t : State) : Prop :=
  XIs d (BitVec.ofNat 64 old) s t ∧ NextWord s t ∧ t.me.s.sst = s.me.s.sst ∧
  OnlyAccess { s with mem := t.mem, panels := t.panels } t ∧
  match new with
  | none => t.mem = s.mem ∧ t.me.buffer = [] ∧ ∀ b, t.panel b = s.panel b
  | some v =>
    if sc = .core ∨ (sc = .panel ∧ s.me.panel.size = 0#5) then
      t.mem = s.mem ∧ t.me.buffer = [store v] ∧ ∀ b, t.panel b = s.panel b
    else if sc = .panel then t.mem = s.mem ∧ t.me.buffer = [] ∧
      ∀ b, t.panel b = if b = s.me.panelBase s.curN then { s.panel b with buffer := [(s.curN, store v)] } else s.panel b
    else leNat (t.devBytes pa len) = v ∧
      (∀ a, ¬ (pa ≤ a ∧ a < pa + len) → Sparse.get 0 t.mem.dev.bytes a = Sparse.get 0 s.mem.dev.bytes a) ∧
      t.mem.host = s.mem.host ∧ t.me.buffer = [] ∧ ∀ b, t.panel b = s.panel b

theorem AccessDone.sst {r t : State} {d : XReg} {v : Word} {buf : List VisStore} (h : AccessDone s r d 0 v buf t) : t.me.s.sst = s.me.s.sst :=
  h.2.2.1.trans BitVec.or_zero

theorem atomic_kept {d : XReg} {sc : Scope} {pa len old : Nat} {store : Nat → VisStore} {t : State} (hb : s.me.buffer = [])
    (h : AccessDone s s d 0 (word old) s.me.buffer t) : Atomic s d sc pa len old none store t := by
  have hsst := h.sst
  obtain ⟨hx, hn, -, hbuf, hacc⟩ := h
  have hm : t.mem = s.mem := by rw [hacc.1.1]
  have hp : t.panels = s.panels := by rw [hacc.1.1]
  refine ⟨hx, hn, hsst, ?_, hm, hbuf.trans hb, fun b => by rw [State.panel, hp]; rfl⟩
  rw [hm, hp]
  exact hacc

theorem atomic_written {d : XReg} {sc : Scope} {pa len old v : Nat} {store : Nat → VisStore} {t : State} {m : Mem} {buf : List VisStore}
    {ps : Sparse Panel} (hv : v < 2 ^ (8 * len)) (h : AccessDone s { s with mem := m, panels := ps } d 0 (word old) buf t)
    (hs : ShownAt s sc pa (leBytes len v) (store v) m buf ps) : Atomic s d sc pa len old (some v) store t := by
  have hsst := h.sst
  obtain ⟨hx, hn, -, hbuf, hacc⟩ := h
  have hm : t.mem = m := by rw [hacc.1.1]
  have hp : t.panels = ps := by rw [hacc.1.1]
  have hpan (b : Nat) : t.panel b = Sparse.get {} ps b := by rw [State.panel, hp]
  have hdev : t.devBytes pa len = ({ s with mem := m } : State).devBytes pa len := by rw [State.devBytes, hm]; rfl
  refine ⟨hx, hn, hsst, by rw [hm, hp]; exact hacc, ?_⟩
  unfold ShownAt at hs
  simp only [hm, hbuf, hpan, hdev]
  split
  · next hc =>
    rw [if_pos hc] at hs
    exact hs
  · next hc =>
    rw [if_neg hc] at hs
    split
    · next hp =>
      rw [if_pos hp] at hs
      exact hs
    · next hp =>
      rw [if_neg hp, HoldsBytes, length_leBytes] at hs
      obtain ⟨⟨hb, hh, ho⟩, hbuf, hpans⟩ := hs
      exact ⟨by rw [hb, leNat_leBytes, Nat.mod_eq_of_lt hv], ho, hh, hbuf, hpans⟩

theorem firstDsc_eq_none {ps : List Piece} (h : ∀ p, p ∈ ps → p.loc ≠ .dsc) : firstDsc ps = none :=
  List.find?_eq_none.2 fun p hp => by simpa using h p hp

/-- The load-queue entry of an AMO. -/
abbrev amoLoad (s : State) (d : XReg) (tok : Option Tok) (f : AmoOp) (n : Nat) (sc : Scope) (off : Nat) : QLoad :=
  { op := .amo d f n ((s.me.xr d).toNat % 2 ^ (8 * n)) sc, tok := tok, off := off }

/-- The load-queue entry of a CAS. -/
abbrev casLoad (s : State) (d : XReg) (tok : Option Tok) (off : Nat) : QLoad :=
  { op := .cas d (s.me.xr d).toNat (s.me.xr (d + 1#6)).toNat, tok := tok, off := off }

section
variable {i : Instr} {d : XReg} {tok : Option Tok} {off pa : Nat}

theorem rmwOp_amoLoad {f : AmoOp} {n : Nat} {sc : Scope} : RmwOp (amoLoad s d tok f n sc off).op d n sc
    (fun old => some (amoFn f n old ((s.me.xr d).toNat % 2 ^ (8 * n)))) := .inl ⟨f, _, rfl, rfl⟩

theorem rmwOp_casLoad : RmwOp (casLoad s d tok off).op d 8 .device
    (fun old => if old = (s.me.xr d).toNat then some (s.me.xr (d + 1#6)).toNat else none) := .inr ⟨_, _, rfl, rfl, rfl, rfl⟩

/-- The one part of the store of an atomic. -/
def atomicStore (c : Mte) (pa off n v : Nat) : VisStore :=
  ⟨[⟨.dev, pa, c.vbase + off, off, (List.range n).map (fun j => (BitVec.ofNat 8 (v / 2 ^ (8 * j)), false)), [], c.keyAt off⟩], .s⟩

theorem atomicStore_eq (c : Mte) (pa off n v : Nat) :
    atomicStore c pa off n v = ⟨[devSeg pa (c.vbase + off) off (leBytes n v) (c.keyAt off)], .s⟩ := by
  rw [atomicStore, devSeg, leBytes_eq, clean, List.map_map]
  rfl

variable (hq : Quiet s s.curN)
include hq

theorem does_amo {f : AmoOp} {n : Nat} {sc : Scope} (hx : exec i s = .next (s.loadS (amoLoad s d tok f n sc off))) (hz : off % n = 0)
    (hr : Reaches s (s.me.mteOf tok) .s true true off n pa) (hc : CleanSectors s pa n) :
    Does i s (Atomic s d sc pa n (leNat (s.devBytes pa n))
      (some (amoResult f n ((s.me.xr d).toNat % 2 ^ (8 * n)) (leNat (s.devBytes pa n)))) (atomicStore (s.me.mteOf tok) pa off n)) := by
  obtain ⟨hp, -, hb, ht⟩ := hq
  obtain ⟨m, buf, ps, ⟨t, he, hd⟩, hs⟩ := does_atomic_written hx rmwOp_amoLoad hp hb ht hz hr hc rfl
  have hlt := leNat_lt (s.devBytes pa n)
  rw [length_devBytes] at hlt
  rw [amoFn_eq, ← atomicStore_eq] at hs
  exact ⟨t, he, atomic_written (amoResult_lt f hlt (Nat.mod_lt _ (Nat.two_pow_pos _))) hd hs⟩

theorem does_cas (hx : exec i s = .next (s.loadS (casLoad s d tok off))) (hz : off % 8 = 0)
    (hr : Reaches s (s.me.mteOf tok) .s true true off 8 pa) (hc : CleanSectors s pa 8) :
    Does i s (Atomic s d .device pa 8 (leNat (s.devBytes pa 8))
      (if leNat (s.devBytes pa 8) = (s.me.xr d).toNat then some (s.me.xr (d + 1#6)).toNat else none)
      (atomicStore (s.me.mteOf tok) pa off 8)) := by
  obtain ⟨hp, -, hb, ht⟩ := hq
  by_cases heq : leNat (s.devBytes pa 8) = (s.me.xr d).toNat
  · obtain ⟨m, buf, ps, ⟨t, he, hd⟩, hs⟩ := does_atomic_written hx rmwOp_casLoad hp hb ht hz hr hc (if_pos heq)
    rw [← atomicStore_eq] at hs
    rw [if_pos heq]
    exact ⟨t, he, atomic_written (s.me.xr (d + 1#6)).isLt hd hs⟩
  · obtain ⟨t, he, hd⟩ := does_atomic_kept hx rmwOp_casLoad hp hb ht hz hr hc (if_neg heq)
    rw [if_neg heq]
    exact ⟨t, he, atomic_kept hb.1 hd⟩

end

/-- Settles O13: an atomic takes its turn at the head of its queue, and its read and its write are one step there. -/
theorem atomicsReadModifyWrite : Obligations.AtomicsReadModifyWrite := by
  unfold Obligations.AtomicsReadModifyWrite
  intro st d tk o f dw sc imm s pa ht tok m n off offC new amo cas sectors result
  have hn0 : 0 < n := by cases dw <;> decide
  have hxa : exec amo s = .next (s.loadS (amoLoad s d tok f n sc off)) := by rw [← State.atomic_of_noTwin ht]; rfl
  have hxc : exec cas s = .next (s.loadS (casLoad s d tok offC)) := by rw [← State.atomic_of_noTwin ht]; rfl
  clear_value n
  have hnew (old : Nat) : new old = amoResult f n ((s.me.xr d).toNat % 2 ^ (8 * n)) old := by
    cases f <;> rfl
  refine ⟨fun hq => ⟨fun hz hr hc => ?_, fun hz hr hc => ?_⟩, fun hp => ⟨fun ps ha hz hout => ⟨fun p hd => ?_, fun hd hpo hh => ?_⟩,
    fun ps ha hz hout => ⟨fun p hd => ?_, fun hd hpo hh => ?_⟩, fun hs => ?_, fun hs hpr hst => ?_, fun hn => ?_⟩, fun h => ?_⟩
  · have h := does_amo hq hxa hz hr hc
    rw [← hnew] at h
    exact h
  · have h := does_cas hq hxc hz hr hc
    change result cas .device offC 8 (leNat (s.devBytes pa 8))
      (if leNat (s.devBytes pa 8) = (s.me.xr d).toNat then some (s.me.xr (d + 1#6)).toNat else none)
    generalize leNat (s.devBytes pa 8) = old at h ⊢
    generalize (if old = (s.me.xr d).toNat then some (s.me.xr (d + 1#6)).toNat else none) = w at h ⊢
    exact h
  · exact does_atomic_dsc hxa rmwOp_amoLoad hp ha hz hout hd
  · exact trapsPoison_atomic hxa rmwOp_amoLoad hp ha hz hout (firstDsc_eq_none hd) hpo hh
  · exact does_atomic_dsc hxc rmwOp_casLoad hp ha hz hout hd
  · exact trapsPoison_atomic hxc rmwOp_casLoad hp ha hz hout (firstDsc_eq_none hd) hpo hh
  · exact ⟨loadsX_atomic_dead hxa rmwOp_amoLoad hp hs, loadsX_atomic_dead hxc rmwOp_casLoad hp hs⟩
  · have ha := loadsX_atomic_refused hxa rmwOp_amoLoad hp hs hpr hst hn0 (s.me.xr o).isLt
    have hc := loadsX_atomic_refused hxc rmwOp_casLoad hp hs hpr hst (by decide) (BitVec.isLt _)
    exact ⟨fun h => ha (.inl h), fun h => hc (.inl h), fun h => ha (.inr (.inl h)), fun h => hc (.inr (.inl h)),
      fun h => ⟨ha (.inr (.inr h)), hc (.inr (.inr h))⟩⟩
  · exact ⟨loadsX_atomic_null hxa rmwOp_amoLoad hp hn hn0, loadsX_atomic_null hxc rmwOp_casLoad hp hn (by decide)⟩
  · rcases h with h | ⟨hs, hp⟩
    · exact ⟨entersLoad_atomic_lazy hxa h, entersLoad_atomic_lazy hxc h⟩
    · exact ⟨entersLoad_atomic_stale hxa rmwOp_amoLoad hp hs, entersLoad_atomic_stale hxc rmwOp_casLoad hp hs⟩

end Sys2Proof.Machine
end

section
/-! PROOF. Walks of page tables: what they leave (R337-R342, R347). -/

namespace Sys2Proof.Machine

open Sys2Proof

variable {s t u : State}

/-! Nothing but memory and the Bench's events changes as a walk goes on. -/

/-- Nothing differs but memory and the Bench. -/
def MemBench (s t : State) : Prop := t = { s with mem := t.mem, bench := t.bench }

theorem MemBench.refl (s : State) : MemBench s s := rfl

theorem MemBench.trans (h : MemBench s t) (h' : MemBench t u) : MemBench s u := by
  unfold MemBench at *
  rw [h', h]

theorem MemBench.of (hm : u = { t with mem := u.mem, bench := u.bench }) (h : MemBench s t) : MemBench s u := h.trans hm

theorem Alike.memBench (h : Alike s s t u) : MemBench s t := h.left

theorem MemBench.devGet (s : State) (a n : Nat) (key : Option (BitVec 13)) : MemBench s (s.devGet a n key).1 :=
  ((Alike.refl (s := s) (u := s) rfl rfl).devGet a n key).1.memBench

theorem MemBench.entryAt (s : State) (h : Bool) (a : Nat) : MemBench s (s.entryAt h a).1 := by
  unfold State.entryAt
  split
  · exact MemBench.refl s
  · have hn : MemBench s (s.noteBlocked a 8) := by
      unfold State.noteBlocked
      split
      · rfl
      · rfl
    exact hn.trans (MemBench.devGet _ a 8 none)

theorem MemBench.cache (s : State) (h : Bool) (a : Nat) (w : Option Word) : MemBench s (s.cache h a w) := rfl

theorem MemBench.walkFrom (s : State) (h : Bool) (v level table : Nat) : MemBench s (s.walkFrom h v level table).1 := by
  induction level generalizing s table with
  | zero =>
    unfold State.walkFrom
    dsimp only
    have he := MemBench.entryAt s h (table + 8 * levelIndex v 0)
    split
    · exact he
    · split
      · split <;> exact he
      · split
        · exact he
        · split
          · exact he.trans (MemBench.cache _ _ _ _)
          · exact he
  | succ n ih =>
    unfold State.walkFrom
    dsimp only
    have he := MemBench.entryAt s h (table + 8 * levelIndex v (n + 1))
    split
    · exact he
    · split
      · split
        · exact he
        · exact (he.trans (MemBench.cache _ _ _ _)).trans (ih _ _)
      · split
        · exact he
        · split
          · exact he.trans (MemBench.cache _ _ _ _)
          · exact he

theorem MemBench.walk (s : State) (h : Bool) (g v : Nat) : MemBench s (s.walk h g v).1 := MemBench.walkFrom s h v 3 _

theorem MemBench.foldl {β : Type} {f : State → β → State} (hf : ∀ t b, MemBench t (f t b)) (l : List β) (s : State) :
    MemBench s (l.foldl f s) :=
  foldl_keeps (P := fun t => MemBench s t) (fun t b h => h.trans (hf t b)) l s (MemBench.refl s)

theorem MemBench.setClamp (s : State) (host : Bool) (x : Nat) (e : Clamp) : MemBench s (s.setClamp host x e) := by
  unfold State.setClamp
  split <;> rfl

theorem MemBench.pinRun (s : State) (k : Nat) (r : Run) : MemBench s (s.pinRun k r) :=
  MemBench.foldl (fun t _ => MemBench.setClamp t _ _ _) _ s

theorem MemBench.unpinRun (s : State) (k : Nat) (g : GangId) (r : Run) : MemBench s (s.unpinRun k g r) := by
  refine MemBench.foldl (fun t i => ?_) _ s
  dsimp only
  split
  · exact (MemBench.setClamp t _ _ _).trans rfl
  · exact MemBench.setClamp t _ _ _

theorem MemBench.pinPage (s : State) (k : Nat) (p : Page) : MemBench s (s.pinPage k p).1 := by
  unfold State.pinPage
  split
  · exact MemBench.refl s
  · exact MemBench.pinRun s k _

theorem MemBench.unpinPages (s : State) (k : Nat) (ps : List Page) : MemBench s (s.unpinPages k ps) := by
  refine MemBench.foldl (fun t p => ?_) _ s
  split
  · exact MemBench.unpinRun t k _ _
  · exact MemBench.refl t

/-- A walk that goes on changes memory and the Bench, and of the walk its pages alone. -/
theorem MemBench.walkOn (f : Nat) (s : State) (k : Nat) (w : Walk) :
    MemBench s (State.walkOn f s k w).1 ∧ (State.walkOn f s k w).2.1 = { w with pages := (State.walkOn f s k w).2.1.pages } := by
  induction f generalizing s w with
  | zero => exact ⟨MemBench.refl s, rfl⟩
  | succ f ih =>
    have hw := MemBench.walk s (halfOf k) (s.core k).gangOf.toNat w.next
    unfold State.walkOn
    dsimp only
    split
    · exact ⟨MemBench.refl s, rfl⟩
    · split
      · next ht =>
        rw [ht] at hw
        exact ⟨hw, rfl⟩
      · next t l ht =>
        rw [ht] at hw
        obtain ⟨h1, h2⟩ := ih (t.pinPage k (l.page w.next (w.base + w.len))).1
          { w with pages := w.pages ++ [(t.pinPage k (l.page w.next (w.base + w.len))).2] }
        exact ⟨(hw.trans (MemBench.pinPage t k _)).trans h1, h2⟩

theorem MemBench.cores (h : MemBench s t) : t.cores = s.cores := by rw [h]

theorem MemBench.coreAt {k : Nat} {c : Core} {r : State} (h : MemBench s t) (hc : CoreAt k c r s) : CoreAt k c r t :=
  hc.of_cores (by rw [h]) h.cores

end Sys2Proof.Machine
end

section
/-! PROOF. XLAT and XLATQ: the cases of R103 in their order, and how a translation ends (R103-R106, R342, R347). -/

namespace Sys2Proof.Machine

open Sys2Proof

variable {s : State}

/-! The cases of an instruction that finds no translation under way (R103). -/

/-- The walk that XLAT or XLATQ begins. -/
def State.newWalk (s : State) (q : Bool) (td : TReg) (a b : XReg) (fw : Bool) : Walk :=
  { q := q, td := td, base := (s.me.xr a).toNat, len := (s.me.xr b).toNat, wantW := fw, phase := .stall 0 }

section
variable {q fw : Bool} {td : TReg} {a b : XReg} (hw : s.me.s.walk = none) (hu : Unused s (s.me.tr td))
include hw hu

theorem State.xlat_empty (h0 : (s.me.xr b).toNat = 0) :
    s.xlat q td a b fw = (s.putTok s.curN td none).xlatEnd s.curN (s.newWalk q td a b fw) := by
  simp only [State.xlat, hw]
  rw [hu.afterUses]
  exact if_pos h0

variable (h0 : 0 < (s.me.xr b).toNat)
include h0

theorem State.xlat_beyond (h : 2 ^ 32 < (s.me.xr b).toNat ∨ 2 ^ 56 < (s.me.xr a).toNat + (s.me.xr b).toNat) :
    s.xlat q td a b fw = s.xlatFail s.curN (s.newWalk q td a b fw) causeUnmapped (s.me.xr a).toNat := by
  simp only [State.xlat, hw]
  rw [hu.afterUses]
  exact (if_neg (Nat.ne_of_gt h0)).trans (if_pos h)

variable (h32 : (s.me.xr b).toNat ≤ 2 ^ 32) (h56 : (s.me.xr a).toNat + (s.me.xr b).toNat ≤ 2 ^ 56)
include h32 h56

theorem State.xlat_full (h : s.me.freeMtes = []) :
    s.xlat q td a b fw = s.xlatFail s.curN (s.newWalk q td a b fw) causeMte (s.me.xr a).toNat := by
  simp only [State.xlat, hw]
  rw [hu.afterUses]
  exact ((if_neg (Nat.ne_of_gt h0)).trans (if_neg (by omega))).trans (if_pos (by rw [h]; rfl))

variable (hf : s.me.freeMtes ≠ [])
include hf

/-- An extent whose first page misses in the walk cache, or goes on to no second page, and one whose token is given up at once. -/
theorem State.xlat_walks (h : ∀ l, s.firstHits (halfOf s.curN) s.me.gangOf.toNat (s.me.xr a).toNat = some l → td = 0#5 ∨
      (s.me.xr a).toNat + (s.me.xr b).toNat ≤ ((s.me.xr a).toNat / (65536 * l.units) + 1) * (65536 * l.units)) :
    s.xlat q td a b fw = s.xlatWalk s.curN (s.newWalk q td a b fw) := by
  simp only [State.xlat, hw]
  rw [hu.afterUses]
  refine ((if_neg (Nat.ne_of_gt h0)).trans (if_neg (by omega))).trans ((if_neg (by simpa using hf)).trans ?_)
  cases hh : s.firstHits (halfOf s.curN) s.me.gangOf.toNat (s.me.xr a).toNat with
  | none => rfl
  | some l => exact if_pos (by rw [Bool.or_eq_true, decide_eq_true_iff, beq_iff_eq]; exact (h l hh).symm)

/-- The entry that stands for a whole extent behind the predicted frame of its first page (R246, R342). -/
def Leaf.predicted (l : Leaf) (base len : Nat) (fw : Bool) : Mte :=
  { st := .live, w := fw, r := true, mask := l.mask, fsel := BitVec.ofNat 4 l.fsel, runs := [
      { key := BitVec.ofNat 13 l.key, host := l.host, tso := l.tso, npg := (base + len - 1) / 65536 + 1 - base / 65536,
        frame := BitVec.ofNat 35 (l.frame + base / 65536 % l.units) }], pred := true, len := len, vbase := base }

/-- An extent of several pages whose first one is in the walk cache. -/
theorem State.xlat_predicts {l : Leaf} (hh : s.firstHits (halfOf s.curN) s.me.gangOf.toNat (s.me.xr a).toNat = some l) (ht : td ≠ 0#5)
    (hp : ((s.me.xr a).toNat / (65536 * l.units) + 1) * (65536 * l.units) < (s.me.xr a).toNat + (s.me.xr b).toNat) :
    s.xlat q td a b fw =
      match s.takeMte s.curN (l.predicted (s.me.xr a).toNat (s.me.xr b).toNat fw) with
      | some (u, t) => u.onCore s.curN (fun c => (c.setT td (some t)).setWalk
          { s.newWalk q td a b fw with phase := .predicted t (u.me.tr td) } .predicted)
      | none => s.xlatFail s.curN (s.newWalk q td a b fw) causeMte (s.me.xr a).toNat := by
  simp only [State.xlat, hw]
  rw [hu.afterUses]
  refine ((if_neg (Nat.ne_of_gt h0)).trans (if_neg (by omega))).trans ((if_neg (by simpa using hf)).trans ?_)
  rw [hh]
  refine (if_neg ?_).trans ?_
  · rw [Bool.or_eq_true, decide_eq_true_iff, beq_iff_eq, not_or, not_le]
    exact ⟨hp, ht⟩
  · rfl

end

theorem exec_xlat (st : SStall) (q : Bool) (td : TReg) (a b : XReg) (fr fw : Bool) (s : State) :
    exec (if q then .xlatq st td a b fr fw else .xlat st td a b fr fw) s = .next (s.xlat q td a b fw) := by
  cases q <;> rfl

/-! How a walk of an extent goes on (R103 cases 4 to 8). -/

section
variable {k : Nat} {w y : Walk} {u : State}

theorem State.xlatWalk_bad {va e l kd : Nat} (h : State.walkOn (w.len / 65536 + 3) s k w = (u, y, some (va, .bad e l kd))) :
    s.xlatWalk k w = u.xlatFault k y va e l kd := by
  rw [State.xlatWalk, h]

variable (h : State.walkOn (w.len / 65536 + 3) s k w = (u, y, none))
include h

theorem State.xlatWalk_faults {c v : Nat} (hf : pagesFault y.wantW y.pages = some (c, v)) : s.xlatWalk k w = u.xlatFail k y c v := by
  rw [State.xlatWalk, h]
  simp only [hf]

variable (hf : pagesFault y.wantW y.pages = none)
include hf

theorem State.xlatWalk_unpinned {p : Page} (hp : y.pages.find? (fun p => !p.pinned) = some p) :
    s.xlatWalk k w = u.xlatFault k y p.va p.leaf.entry p.leaf.level 1 := by
  rw [State.xlatWalk, h]
  simp only [hf, hp]

theorem State.xlatWalk_good {mask : BitVec 6} {fsel : BitVec 4} {runs : List Run} (hp : ∀ p, p ∈ y.pages → p.pinned = true)
    (hg : XlatEnd.ofPages y.pages = .good mask fsel runs) : s.xlatWalk k w = u.xlatGood k y mask fsel runs := by
  have hn : y.pages.find? (fun p => !p.pinned) = none := List.find?_eq_none.2 fun p hm => by rw [hp p hm]; decide
  rw [State.xlatWalk, h]
  simp only [hf, hn, hg]

end

/-! How a translation ends. -/

theorem CoreAt.memBench {k : Nat} {c : Core} {r t u : State} (h : CoreAt k c r t) (hu : MemBench t u) : CoreAt k c r u := hu.coreAt h

/-- The tokens of a core are given and released apart from its S-stream. -/
theorem Core.giveTok_s (c : Core) (n : TReg) (t : Option Tok) : (c.giveTok n t).s = c.s := by rw [Core.giveTok_eq]

section
variable {k : Nat} {w : Walk} {r : State} {c : Core} {cause tval : Nat}

theorem State.unpredict_stall {n : Nat} (hp : w.phase = .stall n) : s.unpredict k w = s := by
  simp only [State.unpredict, hp]

variable (hc : CoreAt k c r s)
include hc

/-- A translation that fails is over, and its pages are unpinned. -/
theorem CoreAt.unwalked {n : Nat} (hp : w.phase = .stall n) :
    CoreAt k c.endWalk r (((s.onCore k Core.endWalk).unpinPages k w.pages).unpredict k w) := by
  rw [State.unpredict_stall hp]
  exact (hc.onCore Core.endWalk).memBench (MemBench.unpinPages _ k w.pages)

/-- XLATQ fails: the null token and the reason (R106). -/
theorem CoreAt.xlatFail_q {n : Nat} (hp : w.phase = .stall n) (hq : w.q = true) : CoreAt k
    (((c.endWalk.giveTok w.td none).onS (fun t => { t with tstat := word cause })).advance) r (s.xlatFail k w cause tval) := by
  unfold State.xlatFail
  dsimp only
  rw [if_pos hq]
  exact ((hc.unwalked hp).putTok w.td none).onCore (fun c => (c.onS (fun t => { t with tstat := word cause })).advance)

/-- XLAT fails: it traps (R105). -/
theorem CoreAt.xlatFail_trap {n : Nat} (hp : w.phase = .stall n) (hq : w.q = false) (hh : c.s.inHandler = false) :
    CoreAt k (c.endWalk.enterTrap cause (word tval) c.s.pc) r (s.xlatFail k w cause tval) := by
  have hu := hc.unwalked (w := w) hp
  unfold State.xlatFail State.syncTrap State.trapAt
  dsimp only
  rw [hq, if_neg Bool.false_ne_true, hu.core, show c.endWalk.s.inHandler = false from hh, if_neg Bool.false_ne_true]
  exact hu.onCore (fun _ => c.endWalk.enterTrap cause (word tval) c.s.pc)

/-- XLAT and XLATQ complete (R105, R106). -/
theorem CoreAt.xlatEnd : CoreAt k ((if w.q then c.onS (fun t => { t with tstat := 0 }) else c).advance) r (s.xlatEnd k w) :=
  hc.onCore (fun c => (if w.q then c.onS (fun t => { t with tstat := 0 }) else c).advance)

/-- The entry that the pages of a walk make (R104). -/
def Walk.mte (w : Walk) (mask : BitVec 6) (fsel : BitVec 4) (runs : List Run) : Mte :=
  { st := if w.stale then .stale else .live, w := w.wantW, r := true, mask := mask, fsel := fsel, runs := runs, len := w.len, vbase := w.base }

/-- The core of a translation that has cut a token of entry `e` (R105, R106). -/
def Core.translated (c : Core) (w : Walk) (e : Nat) (m : Mte) : Core :=
  let d := ((c.cutMte e m).endWalk).giveTok w.td (some ⟨BitVec.ofNat 6 e, (c.mte e).gen + 1#16⟩)
  (if w.q then d.onS (fun t => { t with tstat := 0 }) else d).advance

/-- XLAT succeeds: a free entry and its token (R104). -/
theorem CoreAt.xlatGood {n : Nat} {mask : BitVec 6} {fsel : BitVec 4} {runs : List Run} (hp : w.phase = .stall n) (hf : c.freeMtes ≠ []) :
    ∃ e, e ∈ c.freeMtes ∧ CoreAt k (c.translated w e (w.mte mask fsel runs)) r (s.xlatGood k w mask fsel runs) := by
  have hk := hc.core
  obtain ⟨e, he, ht⟩ := State.takeMte_of_free (s := s) (k := k) (by rw [hk]; exact hf) (w.mte mask fsel runs)
  rw [hk] at he ht
  refine ⟨e, he, ?_⟩
  have hg : s.xlatGood k w mask fsel runs = (((({ s with free := s.free + 1 } : State).setCore k (c.cutMte e (w.mte mask fsel runs))).onCore k
      Core.endWalk).putTok k w.td (some ⟨BitVec.ofNat 6 e, (c.mte e).gen + 1#16⟩)).xlatEnd k w := by
    unfold State.xlatGood Walk.mte
    unfold Walk.mte at ht
    simp only [hp, ht]
  rw [hg]
  have h0 : CoreAt k c r { s with free := s.free + 1 } := hc.of_cores rfl rfl
  exact (((h0.onCore fun _ => c.cutMte e (w.mte mask fsel runs)).onCore Core.endWalk).putTok w.td _).xlatEnd

/-- A fault record of a page, and the wire it drives (R343, R344). -/
def Faulted (t : State) (k b va kind : Nat) : Prop :=
  ∃ f, f ∈ t.bench.faults ∧ f.va = va ∧ f.kind = BitVec.ofNat 8 kind ∧ f.core = k ∧ f.owner = .xlat ∧ f.ix ∈ (t.panel b).stall

/-- A translation waits for the Bench (R343). -/
theorem CoreAt.xlatFault {n va entry level kind : Nat} (hp : w.phase = .stall n) :
    CoreAt k (c.setWalk { w with phase := .stall s.bench.nextFault } .bench) r (s.xlatFault k w va entry level kind) ∧
      Faulted (s.xlatFault k w va entry level kind) k (c.panelBase k) va kind := by
  have hk := hc.core
  unfold State.xlatFault
  simp only [hp]
  have hd : CoreAt k c r ((s.faultRecord k (s.core k).gangOf.toNat va entry level kind .xlat).1.driveStall k s.bench.nextFault) :=
    hc.of_cores rfl rfl
  refine ⟨hd.onCore (fun c => c.setWalk { w with phase := .stall s.bench.nextFault } .bench), _,
    List.mem_append_right _ (List.mem_singleton.2 rfl), rfl, rfl, rfl, rfl, ?_⟩
  have hs : ((s.faultRecord k (s.core k).gangOf.toNat va entry level kind .xlat).1.driveStall k s.bench.nextFault).panel (c.panelBase k) =
      { s.panel (c.panelBase k) with stall := (s.panel (c.panelBase k)).stall ++ [s.bench.nextFault] } := by
    subst hk
    exact (Sparse.get_put _ _ _ _).trans (if_pos rfl)
  exact hs ▸ List.mem_append_right _ (List.mem_singleton.2 rfl)

end

end Sys2Proof.Machine
end

section
/-! PROOF. O15 and O16: what XLAT and XLATQ leave (R103-R106, R246, R342, R347). -/

namespace Sys2Proof.Machine

open Sys2Proof

variable {s t : State}

/-! Ends without a token. -/

/-- A mortise register has been made null, the others and the x registers are as before, and the S-stream is at the next word. -/
def NullTok (td : TReg) (v : Word) (s t : State) : Prop :=
  t.me.tr td = none ∧ (∀ n, n ≠ td → t.me.tr n = s.me.tr n) ∧ (∀ n, t.me.xr n = s.me.xr n) ∧ NextWord s t ∧ t.me.s.tstat = v

theorem nullTok_of {td : TReg} {v : Word} {c : Core} (hm : t.me = ((c.giveTok td none).onS (fun x => { x with tstat := v })).advance)
    (ht : c.t = s.me.t) (hx : c.s.x = s.me.s.x) (hpc : c.s.pc = s.me.s.pc) : NullTok td v s t := by
  have hg (n : TReg) : (c.giveTok td none).tr n = if n = td ∧ td ≠ 0#5 then none else s.me.tr n := by
    rw [Core.tr_giveTok, Core.tr, Core.tr, ht]
  have hs := c.giveTok_s td none
  refine ⟨?_, fun n hn => ?_, fun n => ?_, ⟨?_, ?_⟩, ?_⟩ <;> rw [hm]
  · refine (hg td).trans ?_
    split
    · rfl
    · next h =>
      rw [not_and_or, not_ne_iff] at h
      rw [h.resolve_left fun h => h rfl, Core.tr_zero]
  · exact (hg n).trans (if_neg fun h => hn h.1)
  · rw [Core.xr_advance, Core.xr, Core.xr]
    change (if n = 0#6 then 0 else Sparse.get 0 (c.giveTok td none).s.x n.toNat) = _
    rw [hs, hx]
  · change (c.giveTok td none).s.pc + 4#16 = _
    rw [hs, hpc]
  · rfl
  · rfl

/-- XLATQ fails: the null token, and the reason in TSTAT. -/
theorem nullTok_xlatFail {u : State} {w : Walk} {n cause tval : Nat} (hu : CoreAt s.curN s.me s u) (hp : w.phase = .stall n) (hq : w.q = true) :
    NullTok w.td (BitVec.ofNat 64 cause) s (u.xlatFail s.curN w cause tval) :=
  nullTok_of (hu.xlatFail_q hp hq).me rfl rfl rfl

theorem nullTok_xlatEnd {w : Walk} : NullTok w.td (if w.q then 0 else s.me.s.tstat) s ((s.putTok s.curN w.td none).xlatEnd s.curN w) := by
  have hm := ((CoreAt.refl s.curN s).putTok w.td none).xlatEnd (w := w) |>.me
  refine nullTok_of (c := s.me) (hm.trans (congrArg Core.advance ?_)) rfl rfl rfl
  split
  · rfl
  · have hs := s.me.giveTok_s w.td none
    rw [← hs]
    rfl

/-- XLAT fails with no page walked: it traps, and nothing else changes. -/
theorem traps_xlatFail {i : Instr} {w : Walk} {n cause tval : Nat} (he : exec i s = .next (s.xlatFail s.curN w cause tval))
    (hp : w.phase = .stall n) (hq : w.q = false) (hn : w.pages = []) (hw : s.me.s.walk = none) (hh : s.me.s.inHandler = false) :
    Traps i s cause (BitVec.ofNat 64 tval) := by
  have hc : CoreIs s.curN s.me.endWalk s (s.onCore s.curN Core.endWalk) := (CoreIs.refl s.curN s).onCore _
  have ht : CoreIs s.curN (s.me.endWalk.enterTrap cause (word tval) s.me.s.pc) s (s.xlatFail s.curN w cause tval) := by
    unfold State.xlatFail State.syncTrap State.trapAt
    dsimp only
    rw [State.unpredict_stall hp, hn, hq, if_neg Bool.false_ne_true]
    change CoreIs _ _ _ (if ((s.onCore s.curN Core.endWalk).core s.curN).s.inHandler = true then _ else
      (s.onCore s.curN Core.endWalk).setCore s.curN (((s.onCore s.curN Core.endWalk).core s.curN).enterTrap cause (word tval)
        ((s.onCore s.curN Core.endWalk).core s.curN).s.pc))
    rw [hc.2, show s.me.endWalk.s.inHandler = false from hh, if_neg Bool.false_ne_true]
    exact hc.setCore _
  refine ⟨_, he, ht.1, ht.me.trans ?_⟩
  have hsw : s.me.endWalk = { s.me with s := { s.me.s with st := .running } } := by
    change { s.me with s := { s.me.s with walk := none, st := .running } } = _
    rw [← hw]
  rw [hsw]
  rfl

/-- A translation that waits for the Bench on a page. -/
def XlatHeld (s : State) (va kind : Nat) (t : State) : Prop :=
  t.me.s.st = .waiting .bench ∧ t.me.s.pc = s.me.s.pc ∧ t.me.t = s.me.t ∧ t.me.mtes = s.me.mtes ∧
  Faulted t s.curN (s.me.panelBase s.curN) va kind

theorem xlatHeld_xlatFault {u : State} {w : Walk} {n va entry level kind : Nat} (hu : CoreAt s.curN s.me s u) (hp : w.phase = .stall n) :
    XlatHeld s va kind (u.xlatFault s.curN w va entry level kind) := by
  obtain ⟨hc, hf⟩ := hu.xlatFault (va := va) (entry := entry) (level := level) (kind := kind) hp
  refine ⟨?_, ?_, ?_, ?_, hf⟩ <;> rw [hc.me] <;> rfl

/-! The walk of an extent from the first page on. -/

section
variable {q fw : Bool} {td : TReg} {a b : XReg}

/-- What the walk of a new translation comes to. -/
abbrev State.walked (s : State) (q : Bool) (td : TReg) (a b : XReg) (fw : Bool) : State × Walk × Option (Nat × WalkEnd) :=
  State.walkOn ((s.me.xr b).toNat / 65536 + 3) s s.curN (s.newWalk q td a b fw)

theorem State.walked_eq {o : Option (Nat × WalkEnd)} (h : (s.walked q td a b fw).2.2 = o) :
    State.walkOn ((s.newWalk q td a b fw).len / 65536 + 3) s s.curN (s.newWalk q td a b fw) =
      ((s.walked q td a b fw).1, (s.walked q td a b fw).2.1, o) := by
  rw [← h]
  rfl

theorem State.walked_coreAt : CoreAt s.curN s.me s (s.walked q td a b fw).1 :=
  (CoreAt.refl s.curN s).memBench (MemBench.walkOn _ s s.curN _).1

theorem State.walked_walk : (s.walked q td a b fw).2.1 = { s.newWalk q td a b fw with pages := (s.walked q td a b fw).2.1.pages } :=
  (MemBench.walkOn _ s s.curN _).2

theorem State.walked_phase : (s.walked q td a b fw).2.1.phase = .stall 0 := by rw [State.walked_walk]; rfl
theorem State.walked_q : (s.walked q td a b fw).2.1.q = q := by rw [State.walked_walk]; rfl
theorem State.walked_td : (s.walked q td a b fw).2.1.td = td := by rw [State.walked_walk]; rfl
theorem State.walked_wantW : (s.walked q td a b fw).2.1.wantW = fw := by rw [State.walked_walk]; rfl

end

/-- Settles O16: the cases of R103 in their order, each of them a failure of the walk that has been begun. -/
theorem translationFailures : Obligations.TranslationFailures := by
  unfold Obligations.TranslationFailures
  intro st td a b fr fw s hw hh hu base len nulls walks fits held
  have hx (q : Bool) : exec (if q then .xlatq st td a b fr fw else .xlat st td a b fr fw) s = .next (s.xlat q td a b fw) :=
    exec_xlat st q td a b fr fw s
  have hwalk (q : Bool) (hf : fits) : s.xlat q td a b fw = s.xlatWalk s.curN (s.newWalk q td a b fw) := by
    obtain ⟨h0, h32, h56, hfree, hhit⟩ := hf
    exact State.xlat_walks hw hu h0 h32 h56 hfree fun l hl => by rw [hhit] at hl; cases hl
  refine ⟨fun h0 => ⟨?_, ?_⟩, fun h0 h => ⟨?_, ?_⟩, fun h0 h32 h56 hfree => ⟨?_, ?_⟩, fun c v hf => ⟨fun hn hp => ?_, fun hn hp => ?_⟩,
    fun q va e l kd hf hb => ?_, fun q p hf hn hp hpin => ?_⟩
  · exact ⟨_, (hx true).trans (congrArg _ (State.xlat_empty hw hu h0)), nullTok_xlatEnd (w := s.newWalk true td a b fw)⟩
  · obtain ⟨h1, h2, -, h3, h4⟩ := nullTok_xlatEnd (s := s) (w := s.newWalk false td a b fw)
    exact ⟨_, (hx false).trans (congrArg _ (State.xlat_empty hw hu h0)), h1, h2, h3, h4⟩
  · exact traps_xlatFail ((hx false).trans (congrArg _ (State.xlat_beyond hw hu h0 h))) rfl rfl rfl hw hh
  · exact ⟨_, (hx true).trans (congrArg _ (State.xlat_beyond hw hu h0 h)),
      nullTok_xlatFail (w := s.newWalk true td a b fw) (CoreAt.refl _ s) rfl rfl⟩
  · exact traps_xlatFail ((hx false).trans (congrArg _ (State.xlat_full hw hu h0 h32 h56 hfree))) rfl rfl rfl hw hh
  · exact ⟨_, (hx true).trans (congrArg _ (State.xlat_full hw hu h0 h32 h56 hfree)),
      nullTok_xlatFail (w := s.newWalk true td a b fw) (CoreAt.refl _ s) rfl rfl⟩
  · have he := State.xlatWalk_faults (State.walked_eq hn) (c := c) (v := v) (by rw [State.walked_wantW]; exact hp)
    have hnull := nullTok_xlatFail (u := (s.walked true td a b fw).1) (w := (s.walked true td a b fw).2.1) (cause := c) (tval := v) State.walked_coreAt
      State.walked_phase State.walked_q
    rw [State.walked_td] at hnull
    exact ⟨_, (hx true).trans (congrArg _ ((hwalk true hf).trans he)), hnull⟩
  · have he := State.xlatWalk_faults (State.walked_eq hn) (c := c) (v := v) (by rw [State.walked_wantW]; exact hp)
    have hc := CoreAt.xlatFail_trap (s := (s.walked false td a b fw).1) (w := (s.walked false td a b fw).2.1) (cause := c) (tval := v) State.walked_coreAt
      State.walked_phase State.walked_q hh
    refine ⟨_, (hx false).trans (congrArg _ ((hwalk false hf).trans he)), ?_, ?_, ?_, ?_, ?_, ?_⟩ <;> rw [hc.me] <;> rfl
  · exact ⟨_, (hx q).trans (congrArg _ ((hwalk q hf).trans (State.xlatWalk_bad (State.walked_eq hb)))),
      xlatHeld_xlatFault State.walked_coreAt State.walked_phase⟩
  · exact ⟨_, (hx q).trans (congrArg _ ((hwalk q hf).trans (State.xlatWalk_unpinned (State.walked_eq hn)
      (by rw [State.walked_wantW]; exact hp) hpin))), xlatHeld_xlatFault State.walked_coreAt State.walked_phase⟩

/-! A translation that succeeds (R104). -/

/-- The S-stream's own state changes apart from the tokens. -/
theorem Core.mte_translated (c : Core) (w : Walk) (e : Nat) (m : Mte) (j : Nat) : (c.translated w e m).mte j =
    (((c.cutMte e m).endWalk).giveTok w.td (some ⟨BitVec.ofNat 6 e, (c.mte e).gen + 1#16⟩)).mte j := by
  unfold Core.translated
  dsimp only
  split <;> rfl

theorem Core.tr_translated (c : Core) (w : Walk) (e : Nat) (m : Mte) (n : TReg) : (c.translated w e m).tr n =
    if n = w.td ∧ w.td ≠ 0#5 then some ⟨BitVec.ofNat 6 e, (c.mte e).gen + 1#16⟩ else c.tr n := by
  refine Eq.trans ?_ (Core.tr_giveTok ((c.cutMte e m).endWalk) w.td _ n)
  unfold Core.translated
  dsimp only
  split <;> rfl

theorem Core.translated_s (c : Core) (w : Walk) (e : Nat) (m : Mte) : (c.translated w e m).s =
    { c.s with walk := none, st := .running, pc := c.s.pc + 4#16, tstat := if w.q then 0 else c.s.tstat } := by
  have hs := ((c.cutMte e m).endWalk).giveTok_s w.td (some ⟨BitVec.ofNat 6 e, (c.mte e).gen + 1#16⟩)
  have hadv (d : Core) : d.advance.s = { d.s with pc := d.s.pc + 4#16, st := .running } := rfl
  unfold Core.translated
  dsimp only
  split
  · rw [hadv, show (Core.onS _ _).s = { (((c.cutMte e m).endWalk).giveTok w.td _).s with tstat := 0 } from rfl, hs]
    rfl
  · rw [hadv, hs]
    rfl

/-- The entry of a token that a register keeps. -/
theorem Core.mte_translated_kept {c : Core} {w : Walk} {e : Nat} {m : Mte} (h0 : w.td ≠ 0#5) (he : (c.mte e).st = .null)
    (hq : ∀ q, c.tr w.td = some q → (c.mte q.idx.toNat).st ≠ .null) :
    (c.translated w e m).mte e = { m with gen := (c.mte e).gen + 1#16, refs := 1, gang := c.gangOf } := by
  rw [Core.mte_translated]
  refine Eq.trans ?_ (Core.mte_giveTok_cutMte h0 he hq m (some ⟨BitVec.ofNat 6 e, (c.mte e).gen + 1#16⟩))
  rw [Core.mte_giveTok _ h0, Core.mte_giveTok _ h0]
  rfl

/-- The entry of a token that is given up at once (R17). -/
theorem Core.mte_translated_zero {c : Core} {w : Walk} {e : Nat} {m : Mte} (h0 : w.td = 0#5) (he : e < 64) :
    (c.translated w e m).mte e = { gen := (c.mte e).gen + 1#16 } := by
  have hi : (BitVec.ofNat 6 e).toNat = e := by rw [BitVec.toNat_ofNat]; exact Nat.mod_eq_of_lt he
  rw [Core.mte_translated, Core.giveTok, if_pos h0, Core.mte_dropTok, Option.map_some, if_pos (congrArg some hi)]
  change ((c.cutMte e m).mte e).drop = _
  rw [Core.cutMte, Core.mte_setMte, if_pos rfl]
  rfl

theorem Core.mte_setT (c : Core) (n : TReg) (t : Option Tok) (j : Nat) : (c.setT n t).mte j = c.mte j := by
  rw [Core.mte, Core.setT_mtes]
  rfl

theorem Core.mte_cutMte_self (c : Core) (e : Nat) (m : Mte) :
    (c.cutMte e m).mte e = { m with gen := (c.mte e).gen + 1#16, refs := 1, gang := c.gangOf } :=
  (Core.mte_setMte _ _ _ _).trans (if_pos rfl)

/-- A predicted token stands in its register while the walk goes on (R246, R342). -/
theorem does_predict {i : Instr} {q fw : Bool} {td : TReg} {a b : XReg} {l : Leaf} (hw : s.me.s.walk = none) (hu : Unused s (s.me.tr td))
    (h0 : 0 < (s.me.xr b).toNat) (h32 : (s.me.xr b).toNat ≤ 2 ^ 32) (h56 : (s.me.xr a).toNat + (s.me.xr b).toNat ≤ 2 ^ 56)
    (hf : s.me.freeMtes ≠ []) (hh : s.firstHits (halfOf s.curN) s.me.gangOf.toNat (s.me.xr a).toNat = some l) (ht : td ≠ 0#5)
    (hp : ((s.me.xr a).toNat / (65536 * l.units) + 1) * (65536 * l.units) < (s.me.xr a).toNat + (s.me.xr b).toNat)
    (hx : exec i s = .next (s.xlat q td a b fw)) : Does i s (fun t => ∃ e, (e < 64 ∧ (s.me.mte e).st = .null) ∧
      t.me.tr td = some ⟨BitVec.ofNat 6 e, (s.me.mte e).gen + 1⟩ ∧
      (t.me.mte e).pred = true ∧ (t.me.mte e).len = (s.me.xr b).toNat ∧ (t.me.mte e).vbase = (s.me.xr a).toNat ∧ (t.me.mte e).mask = l.mask ∧
      (∀ n, n ≠ td → t.me.tr n = s.me.tr n) ∧ (∀ n, t.me.xr n = s.me.xr n) ∧ t.me.s.pc = s.me.s.pc ∧
      t.me.s.st = .waiting .predicted ∧ t.mem = s.mem ∧ OnlyCore s.curN { s with free := t.free } t) := by
  obtain ⟨e, he, htk⟩ := State.takeMte_of_free (s := s) (k := s.curN) hf (l.predicted (s.me.xr a).toNat (s.me.xr b).toNat fw)
  obtain ⟨v, hv⟩ : ∃ v : Walk, s.xlat q td a b fw = (({ s with free := s.free + 1 } : State).setCore s.curN
      (s.me.cutMte e (l.predicted (s.me.xr a).toNat (s.me.xr b).toNat fw))).onCore s.curN (fun c => Core.setWalk
        (c.setT td (some ⟨BitVec.ofNat 6 e, (s.me.mte e).gen + 1#16⟩)) v .predicted) := by
    rw [State.xlat_predicts hw hu h0 h32 h56 hf hh ht hp, htk]
    exact ⟨_, rfl⟩
  have hc := ((CoreIs.refl s.curN { s with free := s.free + 1 }).setCore
    (s.me.cutMte e (l.predicted (s.me.xr a).toNat (s.me.xr b).toNat fw))).onCore (fun c => Core.setWalk
      (c.setT td (some ⟨BitVec.ofNat 6 e, (s.me.mte e).gen + 1#16⟩)) v .predicted)
  have hme := CoreIs.me (s := { s with free := s.free + 1 }) hc
  rw [hv] at hx
  have htr (n : TReg) := Core.tr_setT (c := s.me.cutMte e (l.predicted (s.me.xr a).toNat (s.me.xr b).toNat fw)) td
    (some ⟨BitVec.ofNat 6 e, (s.me.mte e).gen + 1#16⟩) n
  have hmte := (Core.mte_setT (s.me.cutMte e (l.predicted (s.me.xr a).toNat (s.me.xr b).toNat fw)) td
    (some ⟨BitVec.ofNat 6 e, (s.me.mte e).gen + 1#16⟩) e).trans (Core.mte_cutMte_self s.me e _)
  have hs := Core.setT_s (s.me.cutMte e (l.predicted (s.me.xr a).toNat (s.me.xr b).toNat fw)) td
    (some ⟨BitVec.ofNat 6 e, (s.me.mte e).gen + 1#16⟩)
  refine ⟨_, hx, e, Core.mem_freeMtes.1 he, ?_, ?_, ?_, ?_, ?_, fun n hn => ?_, fun n => ?_, ?_, ?_, hc.mem, hc.1⟩ <;> rw [hme]
  · exact (htr td).trans (if_pos ⟨rfl, ht⟩)
  · exact congrArg Mte.pred hmte
  · exact congrArg Mte.len hmte
  · exact congrArg Mte.vbase hmte
  · exact congrArg Mte.mask hmte
  · exact (htr n).trans (if_neg fun h => hn h.1)
  · change (if n = 0#6 then 0 else Sparse.get 0 (Core.setT _ td _).s.x n.toNat) = _
    rw [hs]
    rfl
  · change (Core.setT _ td _).s.pc = _
    rw [hs]
    rfl
  · rfl

/-- Settles O15: the walk's pages make the entry, whose token the register takes; behind a predicted frame the token stands at once. -/
theorem translationCutsAToken : Obligations.TranslationCutsAToken := by
  unfold Obligations.TranslationCutsAToken
  intro st td a b fr fw q s base len hit i hw hu h0 h32 h56 hf free
  have hx : exec i s = .next (s.xlat q td a b fw) := exec_xlat st q td a b fr fw s
  refine ⟨fun s' w mask fsel runs hhit hwalk hpf hpin hgood hq => ?_, fun l hl ht hp => does_predict hw hu h0 h32 h56 hf hl ht hp hx⟩
  have hwk : s.walked q td a b fw = (s', w, none) := hwalk
  have hu' : CoreAt s.curN s.me s s' := by
    have h := State.walked_coreAt (s := s) (q := q) (td := td) (a := a) (b := b) (fw := fw)
    rwa [hwk] at h
  have hww : w = { s.newWalk q td a b fw with pages := w.pages } := by
    have h := State.walked_walk (s := s) (q := q) (td := td) (a := a) (b := b) (fw := fw)
    rwa [hwk] at h
  obtain ⟨e, he, hc⟩ := hu'.xlatGood (w := w) (mask := mask) (fsel := fsel) (runs := runs) (n := 0) (by rw [hww]; rfl) hf
  rw [State.xlat_walks hw hu h0 h32 h56 hf hhit, State.xlatWalk_good hwk (by rw [hww]; exact hpf) hpin hgood] at hx
  obtain ⟨he64, hnull⟩ := Core.mem_freeMtes.1 he
  have htd : w.td = td := by rw [hww]; rfl
  have hwq : w.q = q := by rw [hww]; rfl
  have hm : w.mte mask fsel runs = { st := .live, w := fw, r := true, mask := mask, fsel := fsel, runs := runs, len := len, vbase := base } := by
    rw [hww]
    rfl
  have hs := s.me.translated_s w e (w.mte mask fsel runs)
  have htr := s.me.tr_translated w e (w.mte mask fsel runs)
  rw [htd] at htr
  rw [hwq] at hs
  refine ⟨_, hx, e, ⟨he64, hnull⟩, fun ht => ⟨?_, ?_⟩, fun ht => ?_, fun n hn => ?_, fun n => ?_, ⟨?_, ?_⟩, ?_, ?_, ?_⟩ <;> rw [hc.me]
  · exact (htr td).trans (if_pos ⟨rfl, ht⟩)
  · rw [Core.mte_translated_kept (by rw [htd]; exact ht) hnull (by rw [htd]; exact hq), hm]
    rfl
  · exact Core.mte_translated_zero (htd.trans ht) he64
  · exact (htr n).trans (if_neg fun h => hn h.1)
  · rw [Core.xr, hs]
    rfl
  all_goals rw [hs]

end Sys2Proof.Machine
end

section
/-! PROOF. What reads and stores leave of the Bench, the Dovetail agents and the pins (R249, R347, R356, R374). -/

namespace Sys2Proof.Machine

open Sys2Proof

/-- The Bench has been told something at most; what the Dovetail agents hold, the panels and the pins of every core stay. -/
structure Calm (s u : State) : Prop where
  panels : u.panels = s.panels
  bench : u.bench = { s.bench with events := u.bench.events }
  held : u.dv.held = s.dv.held
  flags : u.dv.errFlags = s.dv.errFlags
  inbound : u.dv.inbound = s.dv.inbound
  windows : u.dv.windows = s.dv.windows
  pins : ∀ h x, (u.clampAt h x).cores = (s.clampAt h x).cores

/-- The migration fields of a directory entry are apart from its pins (R347). -/
theorem Mem.cores_setMig (m : Mem) (v : Nat) (mig old : Bool) (peer x : Nat) :
    (Sparse.get {} (m.setMig v mig old peer).clamp x).cores = (Sparse.get {} m.clamp x).cores ∧
      (m.setMig v mig old peer).hclamp = m.hclamp := by
  refine ⟨?_, rfl⟩
  unfold Mem.setMig
  dsimp only
  rw [Sparse.get_put]
  split
  · next h => subst h; rfl
  · rfl

namespace Calm

variable {s t u : State}

theorem refl (s : State) : Calm s s := ⟨rfl, rfl, rfl, rfl, rfl, rfl, fun _ _ => rfl⟩

theorem trans (h : Calm s t) (h' : Calm t u) : Calm s u where
  panels := h'.panels.trans h.panels
  bench := by rw [h'.bench, h.bench]
  held := h'.held.trans h.held
  flags := h'.flags.trans h.flags
  inbound := h'.inbound.trans h.inbound
  windows := h'.windows.trans h.windows
  pins := fun b x => (h'.pins b x).trans (h.pins b x)

/-- A change that meets neither the Dovetail agents nor the clamp directory. -/
theorem of_clamps (hp : u.panels = s.panels) (hb : u.bench = { s.bench with events := u.bench.events }) (hd : u.dv = s.dv)
    (hc : u.mem.clamp = s.mem.clamp) (hh : u.mem.hclamp = s.mem.hclamp) : Calm s u where
  panels := hp
  bench := hb
  held := by rw [hd]
  flags := by rw [hd]
  inbound := by rw [hd]
  windows := by rw [hd]
  pins := fun b x => by unfold State.clampAt; rw [hc, hh]

/-- A change of the cores alone. -/
theorem onCore (s : State) (k : Nat) (f : Core → Core) : Calm s (s.onCore k f) := of_clamps rfl rfl rfl rfl rfl

theorem foldl {β : Type} {f : State → β → State} (hf : ∀ t b, Calm t (f t b)) (l : List β) : Calm s (l.foldl f s) :=
  foldl_keeps (P := fun t => Calm s t) (fun t b ht => ht.trans (hf t b)) l s (refl s)

/-- The same for a fold that collects something as well. -/
theorem foldl_fst {β γ : Type} {f : State × γ → β → State × γ} (hf : ∀ x b, Calm x.1 (f x b).1) (l : List β) (c : γ) :
    Calm s (l.foldl f (s, c)).1 :=
  foldl_keeps (P := fun x : State × γ => Calm s x.1) (fun x b hx => hx.trans (hf x b)) l (s, c) (refl s)

theorem ite {p : Prop} [Decidable p] (h1 : Calm s t) (h2 : Calm s u) : Calm s (if p then t else u) := by
  split
  · exact h1
  · exact h2

/-! Reads and writes of a site. -/

variable (s)

theorem tell (e : BenchEvent) : Calm s (s.tell e) := of_clamps rfl rfl rfl rfl rfl

theorem setStoreOf (e : Site) (m : Store) : Calm s (s.setStoreOf e m) := by
  cases e <;> exact of_clamps rfl rfl rfl rfl rfl

theorem verify (e : Site) (a n : Nat) : Calm s (s.verify e a n) := foldl (fun t _ => (setStoreOf t e _).trans (tell _ _)) _

theorem rawPut (e : Site) (a : Nat) (d : List PByte) (bytewise : Bool) : Calm s (s.rawPut e a d bytewise) := by
  unfold State.rawPut
  extract_lets z s1 s2 s3
  have h1 : Calm s s1 := ite (refl s) (verify s e a 1)
  have h2 : Calm s s2 := h1.trans (ite (refl s1) (verify s1 e _ 1))
  have h3 : Calm s s3 := h2.trans (setStoreOf s2 e _)
  have h4 : Calm s3 (s3.noteWindow a z) := of_clamps rfl rfl rfl rfl rfl
  split
  · exact refl s
  · split
    · exact ite (h3.trans h4) h3
    · exact h3

/-- The migration fields of several units are changed (R355, R358). -/
theorem setMigs {m : Mem} (hm : ∀ x, (Sparse.get {} m.clamp x).cores = (Sparse.get {} s.mem.clamp x).cores ∧ m.hclamp = s.mem.hclamp) :
    Calm s { s with mem := m } where
  panels := rfl
  bench := rfl
  held := rfl
  flags := rfl
  inbound := rfl
  windows := rfl
  pins := fun b x => by
    cases b with
    | true => exact congrArg (fun h => (Sparse.get {} h x).cores) (hm x).2
    | false => exact (hm x).1

theorem finishMig (p : MigPair) : Calm s (s.finishMig p) := by
  unfold State.finishMig
  dsimp only
  refine trans (trans (trans (verify s .dev _ 1) (rawPut _ .dev _ _ false)) (setMigs _ fun x => ?_)) (foldl (fun t u => tell t _) _)
  refine foldl_keeps (P := fun m : Mem => (Sparse.get {} m.clamp x).cores = _ ∧ m.hclamp = _) (fun m u hm => ?_) _ _ ⟨rfl, rfl⟩
  refine foldl_keeps (P := fun m : Mem => (Sparse.get {} m.clamp x).cores = _ ∧ m.hclamp = _)
    (f := fun m i => m.setMig (u + i) false false 0) (fun m i hm => ?_) _ _ hm
  obtain ⟨h1, h2⟩ := m.cores_setMig (u + i) false false 0 x
  exact ⟨h1.trans hm.1, h2.trans hm.2⟩

theorem pullLine (p : MigPair) (l : Nat) : Calm s (s.pullLine p l) := by
  unfold State.pullLine
  refine ite (refl s) (ite (trans ?_ (finishMig _ _)) ?_)
  · exact of_clamps rfl rfl rfl rfl rfl
  · exact of_clamps rfl rfl rfl rfl rfl

theorem touchLine (a : Nat) : Calm s (s.touchLine a) := by
  unfold State.touchLine
  split
  · exact refl s
  · exact ite (pullLine s _ _) (refl s)

theorem keyPut (a : Nat) (d : List PByte) (key : Option (BitVec 13)) (bytewise : Bool) : Calm s (s.keyPut a d key bytewise) := by
  unfold State.keyPut
  split
  · exact rawPut s .dev a d bytewise
  · refine trans ?_ (rawPut _ .dev a d bytewise)
    exact of_clamps rfl rfl rfl rfl rfl

theorem devGet (a n : Nat) (key : Option (BitVec 13)) : Calm s (s.devGet a n key).1 := by
  unfold State.devGet
  split
  · exact verify s .dev a n
  · refine foldl_fst ?_ _ _
    rintro ⟨t, d⟩ ⟨b, k⟩
    exact (touchLine t b).trans (verify _ .dev _ k)

theorem devPut (a : Nat) (d : List PByte) (key : Option (BitVec 13)) (bytewise : Bool) : Calm s (s.devPut a d key bytewise) := by
  unfold State.devPut
  split
  · exact keyPut s a d key bytewise
  · refine foldl ?_ _
    rintro t ⟨b, k⟩
    exact (touchLine t b).trans (keyPut _ _ _ key bytewise)

theorem fetchLine (l : Nat) : Calm s (s.fetchLine l) := ite (refl s) (of_clamps rfl rfl rfl rfl rfl)

theorem hostGet (a n : Nat) : Calm s (s.hostGet a n).1 := by
  refine foldl_fst ?_ _ _
  rintro ⟨t, d⟩ ⟨b, k⟩
  exact (fetchLine t (b / 128)).trans (verify _ .copy b k)

theorem hostPut (a : Nat) (d : List PByte) : Calm s (s.hostPut a d) := by
  refine foldl ?_ _
  rintro t ⟨b, k⟩
  exact ((fetchLine t (b / 128)).trans (rawPut _ .copy b _ false)).trans (of_clamps rfl rfl rfl rfl rfl)

theorem readAt (e : Site) (a n : Nat) (key : Option (BitVec 13)) : Calm s (s.readAt e a n key).1 := by
  cases e with
  | dev => exact devGet s a n key
  | host => exact hostGet s a n
  | copy => exact verify s .copy a n
  | sp k => exact verify s (.sp k) a n
  | spill k => exact verify s (.spill k) a n
  | tmpl k => exact verify s (.tmpl k) a n

theorem writeAt (e : Site) (a : Nat) (d : List PByte) (key : Option (BitVec 13)) : Calm s (s.writeAt e a d key) := by
  cases e with
  | dev => exact devPut s a d key false
  | host => exact hostPut s a d
  | copy => exact rawPut s .copy a d false
  | sp k => exact rawPut s (.sp k) a d false
  | spill k => exact rawPut s (.spill k) a d false
  | tmpl k => exact rawPut s (.tmpl k) a d false

/-! Stores. -/

theorem onStep (k : Nat) (f : StepInfo → StepInfo) : Calm s (s.onStep k f) := onCore s _ _

theorem endPanelStep (k cause : Nat) (err : Bool) : Calm s (s.endPanelStep k cause err) := foldl (fun t j => onCore t j _) _

theorem segData (k : Nat) (g : Seg) : Calm s (s.segData k g).1 := by
  unfold State.segData
  split
  · exact refl s
  · exact readAt s g.site g.addr _ g.key

theorem storeSeg (k : Nat) (g : Seg) (d : List PByte) : Calm s (s.storeSeg k g d) :=
  ite (trans (writeAt s g.site g.addr d g.key) (of_clamps rfl rfl rfl rfl rfl)) (writeAt s g.site g.addr d g.key)

theorem putSeg (k : Nat) (g : Seg) : Calm s (s.putSeg k g) := by
  unfold State.putSeg
  extract_lets r s1 d ws hit
  have h1 : Calm s s1 := segData s k g
  split
  · exact h1.trans (writeAt s1 g.site g.addr d none)
  · split
    · exact h1.trans (storeSeg s1 k g d)
    · extract_lets s2 s3 s4 s5
      have h2 : Calm s s2 := h1.trans (ite (refl s1) (onStep s1 k _))
      have h3 : Calm s s3 := h2.trans (ite (onStep s2 k _) (refl s2))
      have h4 : Calm s s4 := h3.trans (onStep s3 k _)
      have h5 : Calm s s5 := h2.trans (storeSeg s2 k g d)
      split
      · split
        · exact ite (h4.trans (endPanelStep s4 k _ _)) h4
        · exact h4
      · exact ite (h5.trans (onStep s5 k _)) h5

/-! Packets that are sent again (R387). -/

theorem spPieceBytes (k : Nat) (p : SpPiece) : Calm s (s.spPieceBytes k p).1 := by
  obtain ⟨loc, pos, addr, n⟩ := p
  cases loc with
  | mem j a => exact verify s (.sp j) a n
  | spill o => exact verify s (.spill k) o n
  | desc j o => exact refl s
  | aperture o => exact refl s
  | out => exact refl s

theorem engGet (k a n : Nat) : Calm s (s.engGet k a n).1 :=
  foldl_fst (f := fun x p => ((x.1.spPieceBytes k p).1, x.2 ++ (x.1.spPieceBytes k p).2)) (fun x p => spPieceBytes x.1 k p) _ _

theorem inject (p : DvPacket) : Calm s (s.inject p) := by
  unfold State.inject State.route
  dsimp only
  split <;> exact ⟨rfl, rfl, rfl, rfl, rfl, rfl, fun _ _ => rfl⟩

theorem setChan (key : Nat) (c : Channel) : Calm s (s.setChan key c) := ⟨rfl, rfl, rfl, rfl, rfl, rfl, fun _ _ => rfl⟩

end Calm

end Sys2Proof.Machine
end

section
/-! PROOF. The cores, the Bench and the Dovetail agents as stores are performed and packets are sent again (R249, R374, R387). -/

namespace Sys2Proof.Machine

open Sys2Proof

/-- Reads, stores and replays: besides memory and the packets on their way, no core differs but in its storage and its step. -/
structure Served (s u : State) : Prop where
  calm : Calm s u
  cores : ∀ i, ∃ m n t w, u.core i = { s.core i with
    spad := m
    v := { (s.core i).v with spill := n }
    c := { (s.core i).c with templates := t }
    step := w }

theorem StoresOnly.served {h : Prop} {s u : State} (hs : StoresOnly h s u) (hc : Calm s u) : Served s u := by
  obtain ⟨-, -, -, hi⟩ := hs
  exact ⟨hc, hi⟩

theorem CoresRead.served {s u : State} (hs : CoresRead s u) (hc : Calm s u) : Served s u := by
  refine ⟨hc, fun i => ?_⟩
  obtain ⟨m, n, hi⟩ := hs.2 i
  exact ⟨m, n, _, _, hi⟩

namespace Served

variable {s t u : State}

theorem of_cores (hc : u.cores = s.cores) (h : Calm s u) : Served s u := by
  have hi (i : Nat) : u.core i = s.core i := by unfold State.core; rw [hc]
  exact ⟨h, fun i => ⟨_, _, _, _, hi i⟩⟩

theorem refl (s : State) : Served s s := of_cores rfl (Calm.refl s)

theorem trans (h : Served s t) (h' : Served t u) : Served s u := by
  refine ⟨h.calm.trans h'.calm, fun i => ?_⟩
  obtain ⟨m, n, x, w, h1⟩ := h.cores i
  obtain ⟨m', n', x', w', h2⟩ := h'.cores i
  rw [h1] at h2
  exact ⟨m', n', x', w', h2⟩

theorem foldl {β : Type} {f : State → β → State} (hf : ∀ t b, Served t (f t b)) (l : List β) : Served s (l.foldl f s) :=
  foldl_keeps (P := fun t => Served s t) (fun t b ht => ht.trans (hf t b)) l s (refl s)

/-! What a core keeps. -/

theorem core_s (h : Served s u) (i : Nat) : (u.core i).s = (s.core i).s := by
  obtain ⟨_, _, _, _, hi⟩ := h.cores i
  rw [hi]

theorem core_tr (h : Served s u) (i : Nat) (j : TReg) : (u.core i).tr j = (s.core i).tr j := by
  obtain ⟨_, _, _, _, hi⟩ := h.cores i
  rw [hi]
  rfl

theorem core_mte (h : Served s u) (i j : Nat) : (u.core i).mte j = (s.core i).mte j := by
  obtain ⟨_, _, _, _, hi⟩ := h.cores i
  rw [hi]
  rfl

theorem core_buffer (h : Served s u) (i : Nat) : (u.core i).buffer = (s.core i).buffer := by
  obtain ⟨_, _, _, _, hi⟩ := h.cores i
  rw [hi]

theorem core_panel (h : Served s u) (i : Nat) : (u.core i).panel = (s.core i).panel := by
  obtain ⟨_, _, _, _, hi⟩ := h.cores i
  rw [hi]

theorem panel (h : Served s u) (b : Nat) : u.panel b = s.panel b := by
  unfold State.panel
  rw [h.calm.panels]

theorem window (h : Served s u) (w : Nat) : u.window w = s.window w := by
  unfold State.window
  rw [h.calm.windows]

theorem faults (h : Served s u) : u.bench.faults = s.bench.faults := by rw [h.calm.bench]

theorem revocs (h : Served s u) : u.bench.revocs = s.bench.revocs := by rw [h.calm.bench]

theorem requests (h : Served s u) : u.bench.requests = s.bench.requests := by rw [h.calm.bench]

/-! Stores, and packets that are sent again. -/

variable (s)

theorem writeAt (e : Site) (a : Nat) (d : List PByte) (key : Option (BitVec 13)) : Served s (s.writeAt e a d key) :=
  (StoresOnly.writeAt (h := False) s e a d key).served (Calm.writeAt s e a d key)

theorem physGet (a n : Nat) (key : Option (BitVec 13)) : Served s (s.physGet a n key).1 := by
  refine trans (t := s.noteBlocked a n) ?_ ((StoresOnly.devGet (h := False) _ a n key).served (Calm.devGet _ a n key))
  unfold State.noteBlocked
  split
  · exact of_cores rfl (Calm.of_clamps rfl rfl rfl rfl rfl)
  · exact refl s

theorem engGet (k a n : Nat) : Served s (s.engGet k a n).1 := (CoresRead.engGet s k a n).served (Calm.engGet s k a n)

theorem dvwSource (d : DvDesc) (a n : Nat) : Served s (s.dvwSource d a n).1 := by
  unfold State.dvwSource
  split
  · exact engGet s _ a n
  · split
    · exact physGet s _ _ _
    · exact engGet s _ a n

theorem inject (p : DvPacket) : Served s (s.inject p) := (CoresRead.inject s p).served (Calm.inject s p)

theorem firstCopy (key : Nat) (e : Epoch) : Served s (s.firstCopy key e) :=
  (inject s _).trans (of_cores rfl (Calm.setChan _ _ _))

theorem replayLog (key : Nat) (x : Epoch) : Served s (s.replayLog key x) :=
  foldl (fun _ d => foldl (fun t _ => (dvwSource t d _ _).trans (inject _ _)) _) _

theorem replayDue (key : Nat) : Served s (s.replayDue key) := by
  unfold State.replayDue
  dsimp only
  split
  · exact refl s
  · exact foldl (fun t x => (replayLog t key x).trans (firstCopy _ key x)) _

theorem pumpReplays : Served s s.pumpReplays := foldl (fun t key => replayDue t key) _

/-- No arrival and no error-form flag is held: only the replays that are due happen. -/
theorem pumpArrivals (hh : s.dv.held = []) (he : s.dv.errFlags = []) : Served s s.pumpArrivals := by
  have h := pumpReplays s
  unfold State.pumpArrivals
  dsimp only
  rw [h.calm.held, hh, h.calm.flags, he]
  exact h

end Served

end Sys2Proof.Machine
end

section
/-! PROOF. The Bench's replies to fault records (R343, R346, R351). -/

namespace Sys2Proof.Machine

open Sys2Proof

variable {s t u : State}

/-! What a translation that ends leaves of panels and of the Dovetail agents. -/

/-- The panels and the Dovetail agents are as they were. -/
def Aside (s t : State) : Prop := t.panels = s.panels ∧ t.dv = s.dv

theorem Aside.refl (s : State) : Aside s s := ⟨rfl, rfl⟩

theorem Aside.trans (h : Aside s t) (h' : Aside t u) : Aside s u := ⟨h'.1.trans h.1, h'.2.trans h.2⟩

theorem Aside.onCore (s : State) (k : Nat) (f : Core → Core) : Aside s (s.onCore k f) := ⟨rfl, rfl⟩

theorem Aside.panel (h : Aside s t) (b : Nat) : t.panel b = s.panel b := by unfold State.panel; rw [h.1]

theorem MemBench.aside (h : MemBench s t) : Aside s t := ⟨by rw [h], by rw [h]⟩

theorem MemBench.pinRuns (s : State) (k : Nat) (rs : List Run) : MemBench s (s.pinRuns k rs) :=
  MemBench.foldl (fun t r => MemBench.pinRun t k r) rs s

theorem MemBench.unpinRuns (s : State) (k : Nat) (g : GangId) (rs : List Run) : MemBench s (s.unpinRuns k g rs) :=
  MemBench.foldl (fun t r => MemBench.unpinRun t k g r) rs s

theorem Aside.release (s : State) (k : Nat) (x : Option Tok) : Aside s (s.release k x) := by
  cases x with
  | none => exact refl s
  | some x =>
    unfold State.release
    dsimp only
    split
    · split
      · exact ⟨rfl, rfl⟩
      · exact trans ⟨rfl, rfl⟩ (MemBench.unpinRuns _ k _ _).aside
    · exact ⟨rfl, rfl⟩

theorem Aside.putTok (s : State) (k : Nat) (n : TReg) (x : Option Tok) : Aside s (s.putTok k n x) := by
  unfold State.putTok
  split
  · exact release s k x
  · exact (onCore s k _).trans (release _ k _)

theorem Aside.takeMte {k : Nat} {m : Mte} {x : State × Tok} (h : s.takeMte k m = some x) : Aside s x.1 := by
  unfold State.takeMte at h
  split at h
  · cases h
  · cases h
    exact ⟨rfl, rfl⟩

section
variable {k : Nat} {w : Walk}

theorem Aside.xlatFail {n cause tval : Nat} (hp : w.phase = .stall n) (h : w.q = true ∨ (s.core k).s.inHandler = false) :
    Aside s (s.xlatFail k w cause tval) := by
  have hm := MemBench.unpinPages (s.onCore k Core.endWalk) k w.pages
  have hu := (onCore s k Core.endWalk).trans hm.aside
  have hi : (((s.onCore k Core.endWalk).unpinPages k w.pages).core k).s.inHandler = (s.core k).s.inHandler := by
    rw [State.core, hm.cores, ← State.core, State.core_onCore_self]
    rfl
  unfold State.xlatFail
  rw [State.unpredict_stall hp]
  dsimp only
  split
  · exact (hu.trans (putTok _ k w.td none)).trans (onCore _ k _)
  · next hq =>
    unfold State.syncTrap State.trapAt
    dsimp only
    rw [hi, h.resolve_left hq]
    exact hu

theorem Aside.xlatGood {n : Nat} {mask : BitVec 6} {fsel : BitVec 4} {runs : List Run} (hp : w.phase = .stall n)
    (hf : (s.core k).freeMtes ≠ []) : Aside s (s.xlatGood k w mask fsel runs) := by
  unfold State.xlatGood
  simp only [hp]
  split
  · next x tok ht => exact (((takeMte ht).trans (onCore x k _)).trans (putTok _ k w.td _)).trans (onCore _ k _)
  · next ht =>
    obtain ⟨e, -, he⟩ := State.takeMte_of_free hf
      { st := if w.stale then .stale else .live, w := w.wantW, r := true, mask := mask, fsel := fsel, runs := runs, len := w.len, vbase := w.base }
    rw [he] at ht
    cases ht

end

/-! The record that is answered (R343). -/

/-- A fault record with its last reply, given in the cycle `now`. -/
def FaultRec.answered (f : FaultRec) (r : Reply) (now : Nat) : FaultRec :=
  { f with
    reply := some r
    noframe := f.noframe || r == .noframe
    since := if r == .noframe && !f.noframe then now else f.since }

/-- The reply is noted in the records of that number; PINWAIT has passed where it has expired. -/
def State.answering (s : State) (f : FaultRec) (r : Reply) : State := { s with
  clock := if r = .expired then max s.clock (f.since + 2500000 * s.bench.pinwaitMs) else s.clock
  bench := { s.bench with faults := s.bench.faults.map (fun g => if g.ix = f.ix then f.answered r s.clock else g) } }

section
variable {n : Nat} {f : FaultRec} {r : Reply}

theorem faults_find (hf : s.bench.faults.find? (fun g => g.ix == n) = some f) : f.ix = n :=
  beq_iff_eq.1 (List.find?_some (p := fun g : FaultRec => g.ix == n) hf)

/-- PINWAIT expires for a record that a NOFRAME reply was given to. -/
theorem reply_counts (he : r = .expired → f.noframe = true) : ¬ (decide (r = .expired) && !f.noframe) = true := by
  rw [Bool.and_eq_true, decide_eq_true_iff]
  rintro ⟨h, h'⟩
  rw [he h] at h'
  cases h'

variable (hf : s.bench.faults.find? (fun g => g.ix == n) = some f) (he : r = .expired → f.noframe = true)
include hf he

theorem State.answer_xlat (ho : f.owner = .xlat) : s.answer n r = (s.answering f r).replyXlat (f.answered r s.clock) r := by
  have hi := faults_find hf
  obtain ⟨ix, va, kind, level, core, gang, pa, owner, reply, no, since, offers⟩ := f
  subst ho hi
  unfold State.answer
  rw [hf]
  exact (if_neg (reply_counts he)).trans rfl

theorem State.answer_rewalk {i : BitVec 6} (ho : f.owner = .rewalk i) :
    s.answer n r = (s.answering f r).replyRewalk (f.answered r s.clock) i r := by
  have hi := faults_find hf
  obtain ⟨ix, va, kind, level, core, gang, pa, owner, reply, no, since, offers⟩ := f
  subst ho hi
  unfold State.answer
  rw [hf]
  exact (if_neg (reply_counts he)).trans rfl

end

/-- A record that is withdrawn leaves no trace of its answer. -/
theorem State.dropFault_answering (s : State) (f : FaultRec) (k : Nat) :
    ((s.answering f .resolved).freeStall k f.ix).dropFault f.ix = (s.freeStall k f.ix).dropFault f.ix := by
  have hl (l : List FaultRec) : (l.map (fun g => if g.ix = f.ix then f.answered .resolved s.clock else g)).filter (fun g => g.ix != f.ix) =
      l.filter (fun g => g.ix != f.ix) := by
    induction l with
    | nil => rfl
    | cons g l ih =>
      by_cases hg : g.ix = f.ix
      · simpa [hg, FaultRec.answered] using ih
      · simpa [hg] using ih
  have hc : (if Reply.resolved = .expired then max s.clock (f.since + 2500000 * s.bench.pinwaitMs) else s.clock) = s.clock := if_neg nofun
  unfold State.answering
  rw [hc]
  simp only [State.dropFault, State.freeStall, State.setPanel]
  exact congrArg (fun l => ({ s with
    panels := Sparse.put {} s.panels ((s.core k).panelBase k) { s.panel ((s.core k).panelBase k) with
      stall := (s.panel ((s.core k).panelBase k)).stall.filter (fun j => j != f.ix) }
    bench := { s.bench with faults := l } } : State)) (hl s.bench.faults)

/-- The fault drives the stall wire no longer (R345). -/
theorem State.stall_freeStall (s : State) (k x : Nat) : x ∉ ((s.freeStall k x).panel ((s.core k).panelBase k)).stall := by
  have hp : (s.freeStall k x).panel ((s.core k).panelBase k) = { s.panel ((s.core k).panelBase k) with
      stall := (s.panel ((s.core k).panelBase k)).stall.filter (fun j => j != x) } := (Sparse.get_put _ _ _ _).trans (if_pos rfl)
  rw [hp]
  intro h
  have hx := (List.mem_filter.1 h).2
  rw [bne_self_eq_false] at hx
  cases hx

end Sys2Proof.Machine
end

section
/-! PROOF. What a reply to the fault of a translation does (R343, R346). -/

namespace Sys2Proof.Machine

open Sys2Proof

variable {s u : State} {f : FaultRec} {w : Walk}

/-- The state in which a translation goes on or fails once its fault has been answered. -/
def State.answeredXlat (s : State) (f : FaultRec) (r : Reply) : State := ((s.answering f r).freeStall f.core f.ix).dropFault f.ix

/-- The state in which the page of a fault that has been resolved is walked again. -/
def State.mapped (s : State) (f : FaultRec) : State := ((s.freeStall f.core f.ix).dropFault f.ix).uncache f.entryPa

theorem State.coreAt_answeredXlat (s : State) (f : FaultRec) (r : Reply) : CoreAt f.core (s.core f.core) s (s.answeredXlat f r) :=
  (CoreAt.refl f.core s).of_cores rfl rfl

/-- The translation of a core whose fault was answered has failed (R105, R106). -/
def XlatFailed (f : FaultRec) (w : Walk) (cause : Nat) (s t : State) : Prop :=
  (w.q = true ∨ (s.core f.core).s.inHandler = false →
    f.ix ∉ (t.panel ((s.core f.core).panelBase f.core)).stall ∧ (t.core f.core).s.walk = none) ∧
  (w.q = true → (t.core f.core).s.tstat = BitVec.ofNat 64 cause ∧ (t.core f.core).s.pc = (s.core f.core).s.pc + 4#16 ∧
    (t.core f.core).tr w.td = none) ∧
  (w.q = false → (s.core f.core).s.inHandler = false → (t.core f.core).s.tcause = BitVec.ofNat 64 cause ∧
    (t.core f.core).s.tval = BitVec.ofNat 64 f.va ∧ (t.core f.core).s.mode = .supervisor)

theorem Core.advance_s (c : Core) : c.advance.s = { c.s with pc := c.s.pc + 4#16, st := .running } := rfl

/-- A register that the null token is written to holds it; t0 always does (R17). -/
theorem Core.tr_giveTok_none (c : Core) (n : TReg) : (c.giveTok n none).tr n = none := by
  rw [Core.tr_giveTok]
  split
  · rfl
  · next h => exact if_pos (not_not.1 fun hn => h ⟨rfl, hn⟩)

section
variable {n ix : Nat} {r : Reply} (hh : s.dv.held = []) (he : s.dv.errFlags = [])
include hh he

/-- The translation fails, and what is due afterwards happens. -/
theorem xlatFailed_of {cause : Nat} (hp : w.phase = .stall n) :
    XlatFailed f w cause s ((s.answeredXlat f r).xlatFail f.core w cause f.va).pumpArrivals := by
  have hc := s.coreAt_answeredXlat f r
  have hi : ((s.answeredXlat f r).core f.core).s.inHandler = (s.core f.core).s.inHandler := by rw [hc.core]
  have hst := (s.answering f r).stall_freeStall f.core f.ix
  have hsv (h : w.q = true ∨ (s.core f.core).s.inHandler = false) :
      Served ((s.answeredXlat f r).xlatFail f.core w cause f.va) ((s.answeredXlat f r).xlatFail f.core w cause f.va).pumpArrivals ∧
        f.ix ∉ ((((s.answeredXlat f r).xlatFail f.core w cause f.va).pumpArrivals).panel ((s.core f.core).panelBase f.core)).stall := by
    have ha := Aside.xlatFail (s := s.answeredXlat f r) (cause := cause) (tval := f.va) hp (by rw [hi]; exact h)
    have hs := Served.pumpArrivals ((s.answeredXlat f r).xlatFail f.core w cause f.va) (by rw [ha.2]; exact hh) (by rw [ha.2]; exact he)
    refine ⟨hs, ?_⟩
    rw [hs.panel, ha.panel]
    exact hst
  have hq (h : w.q = true) : ((((s.answeredXlat f r).xlatFail f.core w cause f.va).pumpArrivals).core f.core).s = _ :=
    ((hsv (.inl h)).1.core_s f.core).trans (congrArg Core.s (hc.xlatFail_q (tval := f.va) (cause := cause) hp h).core)
  have ht (h : w.q = false) (h' : (s.core f.core).s.inHandler = false) :
      ((((s.answeredXlat f r).xlatFail f.core w cause f.va).pumpArrivals).core f.core).s = _ :=
    ((hsv (.inr h')).1.core_s f.core).trans (congrArg Core.s (hc.xlatFail_trap (tval := f.va) (cause := cause) hp h h').core)
  have hg := ((s.core f.core).endWalk).giveTok_s w.td none
  refine ⟨fun h => ⟨(hsv h).2, ?_⟩, fun h => ⟨?_, ?_, ?_⟩, fun h h' => ⟨?_, ?_, ?_⟩⟩
  · by_cases hw : w.q = true
    · rw [hq hw, Core.advance_s]
      exact congrArg SCore.walk hg
    · rw [ht (Bool.not_eq_true _ ▸ hw) (h.resolve_left hw)]
      rfl
  · rw [hq h]
    rfl
  · rw [hq h]
    change (((s.core f.core).endWalk).giveTok w.td none).s.pc + 4#16 = _
    rw [hg]
    rfl
  · rw [(hsv (.inl h)).1.core_tr, (hc.xlatFail_q hp h).core]
    exact ((s.core f.core).endWalk).tr_giveTok_none w.td
  all_goals
    rw [ht h h']
    rfl

end

section
variable {n ix : Nat} (hf : s.bench.faults.find? (fun g => g.ix == ix) = some f) (ho : f.owner = .xlat)
  (hw : (s.core f.core).s.walk = some w)
include hf ho hw

/-- The cause with which a reply other than RESOLVED fails a translation (R343, R346): with NOFRAME an XLAT waits. -/
def Reply.failCause (w : Walk) : Reply → Option Nat
  | .resolved => none
  | .declined => some causeUnmapped
  | .noframe => if w.q then some causePins else none
  | .noframeOwn => some causePins
  | .expired => some causePins

theorem State.answer_fails {r : Reply} {cause : Nat} (hr : r = .expired → f.noframe = true) (hc : r.failCause w = some cause) :
    s.answer ix r = (s.answeredXlat f r).xlatFail f.core w cause f.va := by
  have hwalk : (((s.answering f r).freeStall (f.answered r s.clock).core (f.answered r s.clock).ix).core
      (f.answered r s.clock).core).s.walk = some w := hw
  rw [State.answer_xlat hf hr ho]
  unfold State.replyXlat
  dsimp only
  rw [hwalk]
  cases r with
  | resolved => cases hc
  | declined => cases hc; rfl
  | noframe =>
    by_cases hq : w.q = true
    · cases (if_pos hq).symm.trans hc
      exact if_pos hq
    · cases (if_neg hq).symm.trans hc
  | noframeOwn => cases hc; rfl
  | expired => cases hc; rfl

/-- With a NOFRAME reply an XLAT waits for a frame, the stall wire free (R346). -/
theorem State.answer_noframe (hq : w.q = false) (hp : w.phase = .stall n) : s.answer ix .noframe =
    ((s.answering f .noframe).freeStall f.core f.ix).onCore f.core (fun c => c.setWalk { w with phase := .pinWait f.ix } .pins) := by
  have hwalk : (((s.answering f .noframe).freeStall (f.answered .noframe s.clock).core (f.answered .noframe s.clock).ix).core
      (f.answered .noframe s.clock).core).s.walk = some w := hw
  rw [State.answer_xlat hf (by rintro ⟨⟩) ho]
  unfold State.replyXlat
  dsimp only
  rw [hwalk]
  simp only [hq, hp]
  rfl

/-- The page that the Bench has mapped is walked again (R343). -/
theorem State.answer_resolved : s.answer ix .resolved = (s.mapped f).xlatRetry f.core w f.va := by
  have hwalk : (((s.answering f .resolved).freeStall (f.answered .resolved s.clock).core (f.answered .resolved s.clock).ix).core
      (f.answered .resolved s.clock).core).s.walk = some w := hw
  rw [State.answer_xlat hf (by rintro ⟨⟩) ho]
  unfold State.replyXlat
  dsimp only
  rw [hwalk]
  exact congrArg (fun u : State => (u.uncache f.entryPa).xlatRetry f.core w f.va) (s.dropFault_answering f f.core)

end

/-! The translation goes on (R343). -/

/-- What the walk of a page finds. -/
def State.walkAt (s : State) (k va : Nat) : State × WalkEnd := s.walk (halfOf k) (s.core k).gangOf.toNat va

/-- The state and the walk after the page at `va` has been found and pinned again. -/
def State.rewalked (s : State) (k : Nat) (w : Walk) (va : Nat) (l : Leaf) : State × Walk :=
  let p := (s.walkAt k va).1.pinPage k (l.page va (w.base + w.len))
  (p.1, { w with pages := w.pages.map (fun q => if q.va = va then p.2 else q) })

theorem MemBench.rewalked (s : State) (k : Nat) (w : Walk) (va : Nat) (l : Leaf) : MemBench s (s.rewalked k w va l).1 :=
  (MemBench.walk s _ _ va).trans (MemBench.pinPage _ k _)

section
variable {k va : Nat}

theorem State.xlatRetry_unreached (h : ∀ p, p ∈ w.pages → p.va ≠ va) : s.xlatRetry k w va = s.xlatWalk k w := by
  have hn : w.pages.any (fun p => p.va == va) = false := List.any_eq_false.2 fun p hp => by simpa using h p hp
  unfold State.xlatRetry
  rw [hn]
  rfl

theorem State.xlatRetry_reached {l : Leaf} (h : ∃ p, p ∈ w.pages ∧ p.va = va)
    (hl : (s.walkAt k va).2 = .leaf l) : s.xlatRetry k w va = (s.rewalked k w va l).1.xlatWalk k (s.rewalked k w va l).2 := by
  obtain ⟨p, hp, hv⟩ := h
  have hy : w.pages.any (fun p => p.va == va) = true := List.any_eq_true.2 ⟨p, hp, by simpa using hv⟩
  unfold State.xlatRetry State.rewalked
  unfold State.walkAt at hl ⊢
  rw [hy]
  generalize s.walk (halfOf k) (s.core k).gangOf.toNat va = x at hl ⊢
  obtain ⟨x, e⟩ := x
  subst hl
  rfl

end

end Sys2Proof.Machine
end

section
/-! PROOF. Translations and re-walks that the Bench has answered (R103, R343, R346, R351). -/

namespace Sys2Proof.Machine

open Sys2Proof

/-! Entries that die (R113, R351). -/

/-- A core of which an entry has become DEAD. -/
def Core.killed (c : Core) (i : Nat) : Core := (c.setMte i { c.mte i with st := .dead }).pendLostTrap

theorem Core.mte_killed (c : Core) (i : Nat) : (c.killed i).mte i = { c.mte i with st := .dead } := by
  have hp (d : Core) (j : Nat) : d.pendLostTrap.mte j = d.mte j := rfl
  rw [Core.killed, hp, Core.mte_setMte, if_pos rfl]

theorem CoreAt.killMte {k i : Nat} {c : Core} {s t : State} (h : CoreAt k c s t) : CoreAt k (c.killed i) s (t.killMte k i) := by
  have hs := (h.onCore (fun d => d.setMte i { (t.core k).mte i with st := .dead })).onCore Core.pendLostTrap
  rw [h.core] at hs
  unfold State.killMte
  rw [h.core]
  exact hs

/-! The replies. -/

section
variable {s : State} {f : FaultRec} {w : Walk} {n : Nat} {ix : BitVec 64} (hh : s.dv.held = []) (he : s.dv.errFlags = [])
  (hf : s.bench.faults.find? (fun g => g.ix == ix.toNat) = some f)
include hh he hf

section
variable (ho : f.owner = .xlat) (hw : (s.core f.core).s.walk = some w) (hp : w.phase = .stall n)
include ho hw hp

theorem does_reply_fails {q : Instr} {r : Reply} {cause : Nat} (hx : exec q s = .next (s.answer ix.toNat r).pumpArrivals)
    (hr : r = .expired → f.noframe = true) (hc : r.failCause w = some cause) : Does q s (XlatFailed f w cause s) := by
  refine ⟨_, hx, ?_⟩
  rw [State.answer_fails hf ho hw hr hc]
  exact xlatFailed_of hh he hp

theorem does_replyNoframe (hq : w.q = false) : Does (.replyNoframe ix) s (fun t =>
    f.ix ∉ (t.panel ((s.core f.core).panelBase f.core)).stall ∧ (t.core f.core).s.st = .waiting .pins ∧
    (t.core f.core).s.walk = some { w with phase := .pinWait f.ix } ∧ ∀ g, g ∈ t.bench.faults → g.ix = f.ix → g.noframe = true) := by
  refine ⟨_, rfl, ?_⟩
  rw [State.answer_noframe hf ho hw hq hp]
  have hs := Served.pumpArrivals (((s.answering f .noframe).freeStall f.core f.ix).onCore f.core
    (fun c => c.setWalk { w with phase := .pinWait f.ix } .pins)) hh he
  refine ⟨?_, ?_, ?_, fun g hg hi => ?_⟩
  · rw [hs.panel]
    exact (s.answering f .noframe).stall_freeStall f.core f.ix
  · rw [hs.core_s, State.core_onCore_self]
    rfl
  · rw [hs.core_s, State.core_onCore_self]
    rfl
  · rw [hs.faults] at hg
    obtain ⟨g', -, rfl⟩ := List.mem_map.1 (show g ∈ s.bench.faults.map (fun g => if g.ix = f.ix then f.answered .noframe s.clock else g) from hg)
    by_cases hn : g'.ix = f.ix
    · rw [if_pos hn]
      exact Bool.or_true _
    · rw [if_neg hn] at hi
      exact absurd hi hn

/-- The page's translation succeeds at the second attempt, and so does that of the extent (R343). -/
theorem does_replyResolved {u v : State} {x y : Walk} {mask : BitVec 6} {fsel : BitVec 4} {runs : List Run} (h0 : w.td ≠ 0#5)
    (ht : (s.core f.core).tr w.td = none) (hfree : (s.core f.core).freeMtes ≠ [])
    (hun : (∀ p, p ∈ w.pages → p.va ≠ f.va) → u = s.mapped f ∧ x = w)
    (hre : (∃ p, p ∈ w.pages ∧ p.va = f.va) → ∃ l, ((s.mapped f).walkAt f.core f.va).2 = .leaf l ∧
      u = ((s.mapped f).rewalked f.core w f.va l).1 ∧ x = ((s.mapped f).rewalked f.core w f.va l).2)
    (hwalk : State.walkOn (w.len / 65536 + 3) u f.core x = (v, y, none)) (hpf : pagesFault w.wantW y.pages = none)
    (hpin : ∀ p, p ∈ y.pages → p.pinned = true) (hgood : XlatEnd.ofPages y.pages = .good mask fsel runs) :
    Does (.replyResolved ix) s (fun t => ∃ tok, (t.core f.core).tr w.td = some tok ∧
      (t.core f.core).mte tok.idx.toNat =
        { st := if w.stale then .stale else .live, w := w.wantW, r := true, mask := mask, fsel := fsel, runs := runs,
          refs := 1, gen := tok.gen, len := w.len, vbase := w.base, gang := (s.core f.core).gangOf } ∧
      (t.core f.core).s.pc = (s.core f.core).s.pc + 4#16 ∧ (t.core f.core).s.st = .running ∧
      f.ix ∉ (t.panel ((s.core f.core).panelBase f.core)).stall) := by
  have hstall : f.ix ∉ ((s.mapped f).panel ((s.core f.core).panelBase f.core)).stall := s.stall_freeStall f.core f.ix
  have hcr : CoreAt f.core (s.core f.core) s (s.mapped f) := (CoreAt.refl f.core s).of_cores rfl rfl
  have hans := State.answer_resolved hf ho hw
  obtain ⟨hru, ps, hx, hret⟩ : MemBench (s.mapped f) u ∧ ∃ ps, x = { w with pages := ps } ∧
      (s.mapped f).xlatRetry f.core w f.va = u.xlatWalk f.core x := by
    by_cases hany : ∃ p, p ∈ w.pages ∧ p.va = f.va
    · obtain ⟨l, hl, rfl, rfl⟩ := hre hany
      exact ⟨MemBench.rewalked _ _ _ _ _, _, rfl, State.xlatRetry_reached hany hl⟩
    · have hno : ∀ p, p ∈ w.pages → p.va ≠ f.va := fun p hm hv => hany ⟨p, hm, hv⟩
      obtain ⟨rfl, rfl⟩ := hun hno
      exact ⟨MemBench.refl _, _, rfl, State.xlatRetry_unreached hno⟩
  subst hx
  obtain ⟨huv, hy⟩ := MemBench.walkOn (w.len / 65536 + 3) u f.core { w with pages := ps }
  rw [hwalk] at huv hy
  dsimp only at hy
  have hcv : CoreAt f.core (s.core f.core) s v := hcr.memBench (hru.trans huv)
  obtain ⟨e, hem, hc⟩ := hcv.xlatGood (w := y) (n := n) (mask := mask) (fsel := fsel) (runs := runs) (by rw [hy]; exact hp) hfree
  rw [hret, State.xlatWalk_good hwalk (by rw [hy]; exact hpf) hpin hgood] at hans
  have ha : Aside (s.mapped f) (v.xlatGood f.core y mask fsel runs) :=
    (hru.trans huv).aside.trans (Aside.xlatGood (n := n) (by rw [hy]; exact hp) (by rw [hcv.core]; exact hfree))
  have hs := Served.pumpArrivals (v.xlatGood f.core y mask fsel runs) (by rw [ha.2]; exact hh) (by rw [ha.2]; exact he)
  obtain ⟨he64, hnull⟩ := Core.mem_freeMtes.1 hem
  have htd : y.td = w.td := by rw [hy]
  have hst := (s.core f.core).translated_s y e (y.mte mask fsel runs)
  rw [← hc.core] at hst
  refine ⟨_, rfl, ⟨BitVec.ofNat 6 e, ((s.core f.core).mte e).gen + 1#16⟩, ?_⟩
  rw [hans]
  refine ⟨?_, ?_, ?_, ?_, ?_⟩
  · rw [hs.core_tr, hc.core, Core.tr_translated, if_pos ⟨htd.symm, by rw [htd]; exact h0⟩]
  · rw [hs.core_mte, hc.core, show (BitVec.ofNat 6 e).toNat = e from (BitVec.toNat_ofNat _ _).trans (Nat.mod_eq_of_lt he64),
      Core.mte_translated_kept (by rw [htd]; exact h0) hnull (by rw [htd, ht]; exact nofun), hy]
    rfl
  · rw [hs.core_s, hst]
  · rw [hs.core_s, hst]
  · rw [hs.panel, ha.panel]
    exact hstall

end

/-- The re-walk of an entry whose page stays unmapped ends the entry (R351). -/
theorem does_replyDeclined_rewalk {i : BitVec 6} (ho : f.owner = .rewalk i) : Does (.replyDeclined ix) s (fun t =>
    (t.core f.core).mte i.toNat = { (s.core f.core).mte i.toNat with st := .dead } ∧ (t.core f.core).s.pendLost = true ∧
      ∀ g, g ∈ t.bench.faults → g.ix ≠ f.ix) := by
  have hans : s.answer ix.toNat .declined = ((s.answering f .declined).dropFault f.ix).killMte f.core i.toNat :=
    State.answer_rewalk hf (by rintro ⟨⟩) ho
  have hs := Served.pumpArrivals (((s.answering f .declined).dropFault f.ix).killMte f.core i.toNat) hh he
  have hd : CoreAt f.core (s.core f.core) s ((s.answering f .declined).dropFault f.ix) := (CoreAt.refl f.core s).of_cores rfl rfl
  have hc := hd.killMte (i := i.toNat)
  refine ⟨_, rfl, ?_⟩
  rw [hans]
  refine ⟨?_, ?_, fun g hg => ?_⟩
  · rw [hs.core_mte, hc.core, Core.mte_killed]
  · rw [hs.core_s, hc.core]
    rfl
  · rw [hs.faults] at hg
    have hg' : g ∈ ((s.answering f .declined).bench.faults.filter (fun g => g.ix != f.ix)) := hg
    simpa using (List.mem_filter.1 hg').2

end

end Sys2Proof.Machine
end

section
/-! PROOF. Re-walks of STALE entries, and the confirmation of predicted frames (R246, R342, R351). -/

namespace Sys2Proof.Machine

open Sys2Proof

/-! Translations of whole extents. -/

theorem MemBench.pagesFrom (h : Bool) (g n : Nat) (s : State) (v hi : Nat) : MemBench s (s.pagesFrom h g n v hi).1 := by
  induction n generalizing s v with
  | zero => exact refl s
  | succ n ih =>
    have hw := MemBench.walk s h g v
    unfold State.pagesFrom
    split
    · exact refl s
    · split
      · next ht =>
        rw [ht] at hw
        exact hw
      · next t l ht =>
        rw [ht] at hw
        exact hw.trans (ih t _)

theorem MemBench.translate (s : State) (h : Bool) (g : Nat) (us : List Nat) (base len : Nat) (fw : Bool) :
    MemBench s (s.translate h g us base len fw).1 := by
  have hp : MemBench s (s.pagesOf h g base len).1 := MemBench.pagesFrom h g _ s base _
  have hrest (t : State) (ps : List Page) (ht : MemBench s t) : MemBench s
      (match pagesFault fw ps with
      | some (c, v) => (t, XlatEnd.cause c v)
      | none =>
        match t.unpinnable us ps with
        | some p => (t, XlatEnd.invalid p.va p.leaf.entry p.leaf.level 1)
        | none => (t, XlatEnd.ofPages ps)).1 := by
    split
    · exact ht
    · split <;> exact ht
  unfold State.translate
  generalize s.pagesOf h g base len = x at hp ⊢
  obtain ⟨t, ps, _ | ⟨v, l | ⟨a, l, kd⟩⟩⟩ := x
  · exact hrest t ps hp
  · exact hrest t ps hp
  · exact hp

/-! The cases of a re-walk that goes on (R351). -/

section
variable {s : State} {k i : Nat}

/-- The re-walk's translation. -/
def State.retranslate (s : State) (k i : Nat) : State × XlatEnd :=
  let m := (s.core k).mte i
  s.translate (halfOf k) m.gang.toNat [] m.vbase m.len m.w

/-- An entry restored from a context has not been used yet (R351). -/
def Restored (s : State) (k i : Nat) : Prop := ((s.core k).mte i).fresh = true ∧ (s.core k).usesMte i = false

theorem State.rewalk_restored (hr : Restored s k i) : s.rewalk k i = s := by
  obtain ⟨hfresh, huse⟩ := hr
  unfold State.rewalk
  dsimp only
  rw [hfresh, huse]
  exact if_pos (Bool.or_true _)

/-- What a re-walk's translation leads to (R351). -/
def State.rewalkEnd (s : State) (k i : Nat) (e : XlatEnd) : State :=
  let m := (s.core k).mte i
  match e with
  | .invalid va a l kd => (s.faultRecord k m.gang.toNat va a l kd (.rewalk (BitVec.ofNat 6 i))).1
  | .cause .. => s.killMte k i
  | .good mask fsel runs =>
    ((s.pinRuns k runs).unpinRuns k m.gang m.runs).setMte k i { m with st := .live, mask := mask, fsel := fsel, runs := runs, fresh := false }

/-- A re-walk that no fault record holds up is that of its translation. -/
theorem State.rewalk_eq (hm : ((s.core k).mte i).st = .stale)
    (hg : ∀ g, g ∈ s.bench.faults → ¬ (g.core = k ∧ g.owner = .rewalk (BitVec.ofNat 6 i))) (hr : ¬ Restored s k i) :
    s.rewalk k i = (s.retranslate k i).1.rewalkEnd k i (s.retranslate k i).2 := by
  have h1 : ¬ (decide (((s.core k).mte i).st ≠ .stale) || (((s.core k).mte i).fresh && !(s.core k).usesMte i)) = true := by
    rw [Bool.or_eq_true, decide_eq_true_iff, Bool.and_eq_true, Bool.not_eq_true']
    rintro (h | h)
    · exact h hm
    · exact hr h
  have h2 : ¬ (s.bench.faults.any (fun f => f.core == k && f.owner == .rewalk (BitVec.ofNat 6 i))) = true := by
    rw [List.any_eq_true]
    rintro ⟨g, hmem, h⟩
    rw [Bool.and_eq_true, beq_iff_eq, beq_iff_eq] at h
    exact hg g hmem h
  have hmb : MemBench s (s.retranslate k i).1 := MemBench.translate s _ _ _ _ _ _
  have hcore : (s.retranslate k i).1.core k = s.core k := by rw [State.core, hmb.cores]; rfl
  have hpin (rs : List Run) (t : State) (ht : t.core k = s.core k) :
      ((t.pinRuns k rs).unpinRuns k ((s.core k).mte i).gang ((s.core k).mte i).runs).core k = s.core k := by
    have hm := (MemBench.pinRuns t k rs).trans (MemBench.unpinRuns _ k ((s.core k).mte i).gang ((s.core k).mte i).runs)
    rw [State.core, hm.cores]
    exact ht
  unfold State.rewalk State.rewalkEnd
  rw [hcore]
  refine (if_neg h1).trans ((if_neg h2).trans ?_)
  unfold State.retranslate at hcore ⊢
  dsimp only at hcore ⊢
  generalize s.translate (halfOf k) ((s.core k).mte i).gang.toNat [] ((s.core k).mte i).vbase ((s.core k).mte i).len ((s.core k).mte i).w = x
    at hcore ⊢
  obtain ⟨t, e⟩ := x
  cases e with
  | invalid va a l kd => rfl
  | cause c v => rfl
  | good mask fsel runs =>
    dsimp only at hcore ⊢
    rw [hpin runs t hcore]

end

/-! REWALK_COMPLETE (R351). -/

section
variable {s : State} {core : CoreId} {i : BitVec 6}

theorem does_rewalk_restored (hr : Restored s core.toNat i.toNat) : Does (.rewalkComplete core i) s (fun t => t = s) :=
  ⟨_, rfl, State.rewalk_restored hr⟩

variable (hm : ((s.core core.toNat).mte i.toNat).st = .stale)
  (hg : ∀ g, g ∈ s.bench.faults → ¬ (g.core = core.toNat ∧ g.owner = .rewalk i)) (hr : ¬ Restored s core.toNat i.toNat)
include hm hg hr

theorem exec_rewalk {v : State} {e : XlatEnd} (ht : s.retranslate core.toNat i.toNat = (v, e)) :
    exec (.rewalkComplete core i) s = .next (v.rewalkEnd core.toNat i.toNat e) ∧ CoreAt core.toNat (s.core core.toNat) s v := by
  have hmb : MemBench s (s.retranslate core.toNat i.toNat).1 := MemBench.translate s _ _ _ _ _ _
  have he := State.rewalk_eq hm (by rw [BitVec.ofNat_toNat, BitVec.setWidth_eq]; exact hg) hr
  rw [ht] at he hmb
  exact ⟨congrArg Host.Outcome.next he, (CoreAt.refl _ s).memBench hmb⟩

theorem does_rewalk_good {v : State} {mask : BitVec 6} {fsel : BitVec 4} {runs : List Run}
    (ht : s.retranslate core.toNat i.toNat = (v, .good mask fsel runs)) : Does (.rewalkComplete core i) s (fun t =>
      (t.core core.toNat).mte i.toNat =
        { (s.core core.toNat).mte i.toNat with st := .live, mask := mask, fsel := fsel, runs := runs, fresh := false }) := by
  obtain ⟨hx, hc⟩ := exec_rewalk hm hg hr ht
  refine ⟨_, hx, ?_⟩
  unfold State.rewalkEnd State.setMte
  dsimp only
  rw [State.core_onCore_self, Core.mte_setMte, if_pos rfl, hc.core]

theorem does_rewalk_cause {v : State} {c va : Nat} (ht : s.retranslate core.toNat i.toNat = (v, .cause c va)) :
    Does (.rewalkComplete core i) s (fun t =>
      (t.core core.toNat).mte i.toNat = { (s.core core.toNat).mte i.toNat with st := .dead } ∧ (t.core core.toNat).s.pendLost = true) := by
  obtain ⟨hx, hc⟩ := exec_rewalk hm hg hr ht
  have hk := (hc.killMte (i := i.toNat)).core
  refine ⟨_, hx, ?_, ?_⟩
  · exact (congrArg (fun d : Core => d.mte i.toNat) hk).trans (Core.mte_killed _ _)
  · exact congrArg (fun d : Core => d.s.pendLost) hk

theorem does_rewalk_invalid {v : State} {va a l kd : Nat} (ht : s.retranslate core.toNat i.toNat = (v, .invalid va a l kd)) :
    Does (.rewalkComplete core i) s (fun t => (t.core core.toNat).mte i.toNat = (s.core core.toNat).mte i.toNat ∧
      ∃ g, g ∈ t.bench.faults ∧ g.owner = .rewalk i ∧ g.core = core.toNat ∧ g.va = va) := by
  obtain ⟨hx, hc⟩ := exec_rewalk hm hg hr ht
  refine ⟨_, hx, congrArg (fun d : Core => d.mte i.toNat) hc.core, _, List.mem_append_right _ (List.mem_singleton.2 rfl), ?_, rfl, rfl⟩
  exact congrArg FaultFor.rewalk ((BitVec.ofNat_toNat _ _).trans (BitVec.setWidth_eq _))

end

/-! The walk behind a predicted token finishes (R246, R342). -/

/-- What a core keeps as a reference to another entry is given up. -/
theorem Core.mte_dropTok_other (c : Core) {o : Option Tok} {i : BitVec 6} (h : ∀ t, o = some t → t.idx ≠ i) :
    (c.dropTok o).mte i.toNat = c.mte i.toNat := by
  rw [Core.mte_dropTok]
  cases o with
  | none => rfl
  | some t => exact if_neg fun ht => h t rfl (BitVec.eq_of_toNat_eq (Option.some.inj ht))

section
variable {s v : State} {k : Nat} {w y : Walk} {new : Tok} {old : Option Tok} {mask : BitVec 6} {fsel : BitVec 4} {runs : List Run}

/-- The entry of a predicted token whose extent has been walked (R104, R246). -/
def Walk.confirmed (w : Walk) (m : Mte) (mask : BitVec 6) (fsel : BitVec 4) (runs : List Run) : Mte :=
  { m with st := if w.stale then .stale else .live, mask := mask, fsel := fsel, runs := runs, pred := false }

theorem CoreAt.xlatGood_predicted {c : Core} (hc : CoreAt k c s v) (hp : w.phase = .predicted new old) :
    CoreAt k ((if w.q then
        (((c.setMte new.idx.toNat (w.confirmed (c.mte new.idx.toNat) mask fsel runs)).endWalk).dropTok old).onS
          (fun t => { t with tstat := 0 })
      else ((c.setMte new.idx.toNat (w.confirmed (c.mte new.idx.toNat) mask fsel runs)).endWalk).dropTok old).advance) s
      (v.xlatGood k w mask fsel runs) := by
  have h1 := (hc.onCore (fun d => d.setMte new.idx.toNat (w.confirmed (c.mte new.idx.toNat) mask fsel runs))).onCore Core.endWalk
  have h2 := h1.trans (State.coreAt_release _ k old)
  rw [h1.core] at h2
  unfold State.xlatGood
  simp only [hp]
  rw [hc.core]
  exact h2.xlatEnd

theorem does_confirmed {core : CoreId} (hw : (s.core core.toNat).s.walk = some w) (hp : w.phase = .predicted new old)
    (ho : ∀ o, old = some o → o.idx ≠ new.idx) (hst : (s.core core.toNat).s.st = .waiting .predicted)
    (hwalk : State.walkOn (w.len / 65536 + 3) s core.toNat w = (v, y, none)) (hpf : pagesFault w.wantW y.pages = none)
    (hpin : ∀ p, p ∈ y.pages → p.pinned = true) (hgood : XlatEnd.ofPages y.pages = .good mask fsel runs) :
    Does (.predictedFrameConfirmed core) s (fun t =>
      (t.core core.toNat).mte new.idx.toNat = { (s.core core.toNat).mte new.idx.toNat with
        st := if w.stale then .stale else .live, mask := mask, fsel := fsel, runs := runs, pred := false } ∧
      (t.core core.toNat).s.st = .running ∧ (t.core core.toNat).s.pc = (s.core core.toNat).s.pc + 4#16 ∧
      (w.q = true → (t.core core.toNat).s.tstat = 0)) := by
  obtain ⟨hmb, hy⟩ := MemBench.walkOn (w.len / 65536 + 3) s core.toNat w
  rw [hwalk] at hmb hy
  dsimp only at hmb hy
  have hc := (CoreAt.refl core.toNat s).memBench hmb
  have hg := hc.xlatGood_predicted (w := y) (new := new) (old := old) (mask := mask) (fsel := fsel) (runs := runs) (by rw [hy]; exact hp)
  have hx : exec (.predictedFrameConfirmed core) s = .next (v.xlatGood core.toNat y mask fsel runs) := by
    have hgo := State.xlatWalk_good hwalk (by rw [hy]; exact hpf) hpin hgood
    rw [← hgo]
    change execPredictedFrameConfirmed core s = _
    unfold execPredictedFrameConfirmed
    simp only [hw, hp, hst, if_true]
  have hyq : y.q = w.q := by rw [hy]
  have hys : y.stale = w.stale := by rw [hy]
  have hd := Core.mte_dropTok_other (((s.core core.toNat).setMte new.idx.toNat
    (y.confirmed ((s.core core.toNat).mte new.idx.toNat) mask fsel runs)).endWalk) ho
  have hs (c : Core) : (c.dropTok old).s = c.s := by rw [Core.dropTok_eq]
  refine ⟨_, hx, ?_, ?_, ?_, fun hq => ?_⟩ <;> rw [hg.core]
  · have ha (c : Core) (j : Nat) : ((if y.q then c.onS (fun t => { t with tstat := 0 }) else c).advance).mte j = c.mte j := by split <;> rfl
    rw [ha, hd]
    refine ((Core.mte_setMte _ _ _ _).trans (if_pos rfl)).trans ?_
    rw [Walk.confirmed, hys]
  · rfl
  · have hpc := congrArg SCore.pc (hs (((s.core core.toNat).setMte new.idx.toNat
      (y.confirmed ((s.core core.toNat).mte new.idx.toNat) mask fsel runs)).endWalk))
    rw [Core.advance_s]
    split <;> exact congrArg (· + 4#16) hpc
  · rw [hyq, if_pos hq]
    rfl

end

end Sys2Proof.Machine
end

section
/-! PROOF. Stage 1 of a revocation: what is marked STALE (R349, R352, R374). -/

namespace Sys2Proof.Machine

open Sys2Proof

/-- Whether a run of a list covers one of the units. -/
def Hit (us : List Nat) (rs : List Run) : Prop := ∃ r, r ∈ rs ∧ r.covers us = true

/-- An entry after stage 1 (R349). -/
def Mte.marked (us : List Nat) (m : Mte) : Mte :=
  if (m.st == .live || m.st == .stale) && !m.pred && m.runs.any (fun r => r.covers us) then { m with st := .stale } else m

/-- A translation after stage 1 (R352). -/
def Walk.marked (us : List Nat) (w : Walk) : Walk :=
  if w.pages.any (fun p => p.pinned && p.run.covers us) then { w with stale := true } else w

/-- A remote token's window after stage 1 (R374). -/
def Window.marked (us : List Nat) (w : Window) : Window :=
  if (w.mte.st == .live || w.mte.st == .stale) && w.mte.runs.any (fun r => r.covers us) then w.staled else w

theorem Mte.marked_live {us : List Nat} {m : Mte} (h : m.st = .live) (hp : m.pred = false) (hr : Hit us m.runs) :
    m.marked us = { m with st := .stale } := by
  have ha : m.runs.any (fun r => r.covers us) = true := List.any_eq_true.2 hr
  exact if_pos (by rw [h, hp, ha]; rfl)

theorem Mte.marked_marked (us : List Nat) (m : Mte) : (m.marked us).marked us = m.marked us := by
  by_cases h : ((m.st == .live || m.st == .stale) && !m.pred && m.runs.any (fun r => r.covers us)) = true
  · have hm : m.marked us = { m with st := .stale } := if_pos h
    rw [hm]
    unfold Mte.marked
    exact ite_self _
  · have hm : m.marked us = m := if_neg h
    rw [hm, hm]

theorem Walk.marked_pinned {us : List Nat} {w : Walk} (h : ∃ p, p ∈ w.pages ∧ p.pinned = true ∧ p.run.covers us = true) :
    w.marked us = { w with stale := true } := by
  obtain ⟨p, hp, hpin, hc⟩ := h
  exact if_pos (List.any_eq_true.2 ⟨p, hp, by rw [hpin, hc]; rfl⟩)

theorem Walk.marked_marked (us : List Nat) (w : Walk) : (w.marked us).marked us = w.marked us := by
  by_cases h : w.pages.any (fun p => p.pinned && p.run.covers us) = true
  · have hw : w.marked us = { w with stale := true } := if_pos h
    rw [hw]
    unfold Walk.marked
    exact ite_self _
  · have hw : w.marked us = w := if_neg h
    rw [hw, hw]

theorem Window.marked_live {us : List Nat} {w : Window} (h : w.mte.st = .live) (hr : Hit us w.mte.runs) :
    w.marked us = { w with mte := { w.mte with st := .stale } } := by
  have ha : w.mte.runs.any (fun r => r.covers us) = true := List.any_eq_true.2 hr
  exact if_pos (by rw [h, ha]; rfl)

/-! One core. -/

/-- Core `d` is `c` after stage 1. -/
structure CoreMarked (us : List Nat) (c d : Core) : Prop where
  core : d = { c with s := { c.s with walk := c.s.walk.map (Walk.marked us) }, mtes := d.mtes }
  mtes : ∀ j : BitVec 6, d.mte j.toNat = (c.mte j.toNat).marked us

theorem CoreMarked.trans {us : List Nat} {c d e : Core} (h : CoreMarked us c d) (h' : CoreMarked us d e) : CoreMarked us c e := by
  refine ⟨?_, fun j => ?_⟩
  · have hw : (c.s.walk.map (Walk.marked us)).map (Walk.marked us) = c.s.walk.map (Walk.marked us) := by
      rw [Option.map_map]
      exact congrArg (fun f => c.s.walk.map f) (funext fun w => Walk.marked_marked us w)
    have he := h'.core
    rw [h.core] at he
    rw [he]
    dsimp only
    rw [hw]
  · rw [h'.mtes, h.mtes, Mte.marked_marked]

/-- Nothing is marked of a core that holds nothing. -/
theorem CoreMarked.empty (us : List Nat) : CoreMarked us {} {} := ⟨rfl, fun _ => rfl⟩

/-- States that differ in cores and fault records alone. -/
def CoresFaults (s t : State) : Prop := t = { s with cores := t.cores, bench := { s.bench with faults := t.bench.faults } }

theorem CoresFaults.trans {s t u : State} (h : CoresFaults s t) (h' : CoresFaults t u) : CoresFaults s u := by
  unfold CoresFaults at *
  rw [h', h]

section
variable {s t : State} {us : List Nat} {k : Nat}

/-- The first `n` entries of a core have been marked. -/
structure MarkedUpTo (us : List Nat) (k n : Nat) (s t : State) : Prop where
  frame : CoresFaults s t
  others : ∀ j, j ≠ k → t.core j = s.core j
  core : t.core k = { s.core k with
    s := { (s.core k).s with walk := (s.core k).s.walk.map (Walk.marked us) }
    mtes := (t.core k).mtes }
  mtes : ∀ j, (t.core k).mte j = if j < n then ((s.core k).mte j).marked us else (s.core k).mte j

/-- Stage 1 for one entry of a core. -/
def State.markEntry (us : List Nat) (k : Nat) (s : State) (i : Nat) : State :=
  let m := (s.core k).mte i
  if (m.st == .live || m.st == .stale) && !m.pred && m.runs.any (fun r => r.covers us) then
    let s : State := { s with bench := { s.bench with
      faults := s.bench.faults.filter (fun f => !(f.core == k && f.owner == .rewalk (BitVec.ofNat 6 i))) } }
    s.setMte k i { m with st := .stale }
  else s

theorem MarkedUpTo.step {n : Nat} (h : MarkedUpTo us k n s t) : MarkedUpTo us k (n + 1) s (State.markEntry us k t n) := by
  have hn : (t.core k).mte n = (s.core k).mte n := (h.mtes n).trans (if_neg (Nat.lt_irrefl n))
  have hval (j : Nat) (x : Mte) (hx : x = ((s.core k).mte n).marked us) : (if j = n then x else (t.core k).mte j) =
      if j < n + 1 then ((s.core k).mte j).marked us else (s.core k).mte j := by
    by_cases hj : j = n
    · subst hj
      rw [if_pos rfl, if_pos (Nat.lt_succ_self j), hx]
    · rw [if_neg hj, h.mtes]
      exact if_congr ⟨fun hl => by omega, fun hl => by omega⟩ rfl rfl
  unfold State.markEntry
  dsimp only
  split
  · next hc =>
    refine ⟨h.frame.trans rfl, fun j hj => ?_, ?_, fun j => ?_⟩
    · exact ((State.core_onCore _ _ _ _).trans (if_neg hj)).trans (h.others j hj)
    · rw [State.setMte, State.core_onCore_self]
      exact congrArg (fun c : Core => c.setMte n _) h.core
    · rw [State.setMte, State.core_onCore_self, Core.mte_setMte]
      exact hval j _ (by rw [← hn]; exact (if_pos hc).symm)
  · next hc =>
    refine ⟨h.frame, h.others, h.core, fun j => ?_⟩
    rw [← hval j ((t.core k).mte n) (by rw [← hn]; exact (if_neg hc).symm)]
    split
    · next hj => rw [hj]
    · rfl

/-- Stage 1 on one core (R349, R352). -/
theorem State.markCore_marked (s : State) (us : List Nat) (k : Nat) : CoresFaults s (s.markCore us k) ∧
    (∀ j, j ≠ k → (s.markCore us k).core j = s.core j) ∧ CoreMarked us (s.core k) ((s.markCore us k).core k) := by
  have h0 : MarkedUpTo us k 0 s (s.onCore k (fun c => c.onS (fun t => { t with walk := t.walk.map (Walk.marked us) }))) := by
    refine ⟨rfl, fun j hj => (State.core_onCore _ _ _ _).trans (if_neg hj), ?_, fun j => ?_⟩
    · rw [State.core_onCore_self]
      rfl
    · rw [State.core_onCore_self]
      rfl
  have hall (n : Nat) : MarkedUpTo us k n s ((List.range n).foldl (State.markEntry us k)
      (s.onCore k (fun c => c.onS (fun t => { t with walk := t.walk.map (Walk.marked us) })))) := by
    induction n with
    | zero => exact h0
    | succ n ih =>
      rw [List.range_succ, List.foldl_append]
      exact ih.step
  have he : s.markCore us k = (List.range 64).foldl (State.markEntry us k)
      (s.onCore k (fun c => c.onS (fun t => { t with walk := t.walk.map (Walk.marked us) }))) := by
    unfold State.markCore
    generalize List.range 64 = l
    rfl
  obtain ⟨hf, ho, hc, hm⟩ := hall 64
  rw [he]
  exact ⟨hf, ho, hc, fun j => by rw [hm j.toNat, if_pos (show j.toNat < 64 from j.isLt)]⟩

/-- Stage 1 on several cores. -/
theorem State.markCores_marked (us ks : List Nat) (s : State) :
    CoresFaults s (ks.foldl (fun s k => s.markCore us k) s) ∧
    (∀ n, n ∉ ks → (ks.foldl (fun s k => s.markCore us k) s).core n = s.core n) ∧
    ∀ n, n ∈ ks → CoreMarked us (s.core n) ((ks.foldl (fun s k => s.markCore us k) s).core n) := by
  induction ks generalizing s with
  | nil => exact ⟨rfl, fun _ _ => rfl, nofun⟩
  | cons k ks ih =>
    obtain ⟨h1, h2, h3⟩ := s.markCore_marked us k
    obtain ⟨i1, i2, i3⟩ := ih (s.markCore us k)
    rw [List.foldl_cons]
    refine ⟨h1.trans i1, fun n hn => ?_, fun n hn => ?_⟩
    · obtain ⟨hk, hks⟩ := not_or.1 (mt List.mem_cons.2 hn)
      exact (i2 n hks).trans (h2 n hk)
    · by_cases hk : n = k
      · subst hk
        by_cases hks : n ∈ ks
        · exact h3.trans (i3 n hks)
        · rw [i2 n hks]
          exact h3
      · rw [← h2 n hk]
        exact i3 n ((List.mem_cons.1 hn).resolve_left hk)

end

/-! Every core, the remote tokens and the walk caches. -/

/-- A core that pins one of the units (R347, R349). -/
def Pins (s : State) (us : List Nat) (n : Nat) : Prop :=
  ∃ u, u ∈ us ∧ (Sparse.get 0 (s.clampAt false u).cores n ≠ 0 ∨ Sparse.get 0 (s.clampAt true u).cores n ≠ 0)

theorem Sparse.get_of_notMem {α : Type} (d : α) {m : Sparse α} {k : Nat} (h : k ∉ m.map (fun e => e.1)) : Sparse.get d m k = d := by
  induction m with
  | nil => rfl
  | cons e m ih =>
    rw [List.map_cons, List.mem_cons, not_or] at h
    exact (if_neg (Ne.symm h.1)).trans (ih h.2)

/-- What stage 1 leaves, and what it marks. -/
structure UnitsMarked (us : List Nat) (s t : State) : Prop where
  panels : t.panels = s.panels
  mem : t.mem = { s.mem with walkCache := [] }
  bench : t.bench = { s.bench with faults := t.bench.faults }
  dv : t.dv = { s.dv with windows := t.dv.windows }
  windows : ∀ w, t.window w = (s.window w).marked us
  cores : ∀ n, t.core n = s.core n ∨ CoreMarked us (s.core n) (t.core n)
  pins : ∀ n, Pins s us n → CoreMarked us (s.core n) (t.core n)

theorem State.markUnits_marked (s : State) (us : List Nat) : UnitsMarked us s (s.markUnits us) := by
  let ks := (s.cores.map (fun e => e.1)).filter (fun k =>
    us.any (fun u => Sparse.get 0 (s.clampAt false u).cores k != 0 || Sparse.get 0 (s.clampAt true u).cores k != 0))
  obtain ⟨hf, ho, hm⟩ := State.markCores_marked us ks s
  have hcore (n : Nat) : (s.markUnits us).core n = (ks.foldl (fun s k => s.markCore us k) s).core n := rfl
  have hdv : (ks.foldl (fun s k => s.markCore us k) s).dv = s.dv := by rw [hf]
  have hmem : (ks.foldl (fun s k => s.markCore us k) s).mem = s.mem := by rw [hf]
  have hpanels : (ks.foldl (fun s k => s.markCore us k) s).panels = s.panels := by rw [hf]
  have hbench : (ks.foldl (fun s k => s.markCore us k) s).bench =
      { s.bench with faults := (ks.foldl (fun s k => s.markCore us k) s).bench.faults } := by rw [hf]
  refine ⟨hpanels, ?_, ?_, ?_, fun w => ?_, fun n => ?_, fun n hn => ?_⟩
  · exact congrArg (fun m : Mem => { m with walkCache := [] }) hmem
  · exact congrArg (fun b : Bench => { b with faults := (s.markUnits us).bench.faults }) hbench
  · exact congrArg (fun d : Dovetail => { d with windows := (s.markUnits us).dv.windows }) hdv
  · refine (Sparse.get_mapVals (d := ({} : Window)) (Window.marked us) rfl _ w).trans ?_
    exact congrArg (fun d => Window.marked us (Sparse.get {} d w)) (congrArg Dovetail.windows hdv)
  · rw [hcore]
    by_cases hn : n ∈ ks
    · exact .inr (hm n hn)
    · exact .inl (ho n hn)
  · rw [hcore]
    by_cases hk : n ∈ s.cores.map (fun e => e.1)
    · obtain ⟨u, hu, hp⟩ := hn
      refine hm n (List.mem_filter.2 ⟨hk, List.any_eq_true.2 ⟨u, hu, ?_⟩⟩)
      rw [Bool.or_eq_true, bne_iff_ne, bne_iff_ne]
      exact hp
    · rw [ho n fun h => hk (List.mem_filter.1 h).1, State.core, Sparse.get_of_notMem _ hk]
      exact CoreMarked.empty us

end Sys2Proof.Machine
end

section
/-! PROOF. Requests of the Bench, and the pieces in which they are marked (R348-R350, R353, R355). -/

namespace Sys2Proof.Machine

open Sys2Proof

variable {s r t u : State}

/-! What stage 1 reads. -/

/-- What stage 1 marks stands in both states alike: translations, entries, remote tokens and pins. -/
structure SameMarks (s t : State) : Prop where
  walks : ∀ n, (t.core n).s.walk = (s.core n).s.walk
  entries : ∀ n j, (t.core n).mte j = (s.core n).mte j
  windows : ∀ w, t.window w = s.window w
  pins : ∀ h x, (t.clampAt h x).cores = (s.clampAt h x).cores

theorem SameMarks.trans (h : SameMarks s t) (h' : SameMarks t u) : SameMarks s u where
  walks n := (h'.walks n).trans (h.walks n)
  entries n j := (h'.entries n j).trans (h.entries n j)
  windows w := (h'.windows w).trans (h.windows w)
  pins b x := (h'.pins b x).trans (h.pins b x)

theorem SameMarks.of_pins (hc : t.cores = s.cores) (hd : t.dv = s.dv) (hp : ∀ h x, (t.clampAt h x).cores = (s.clampAt h x).cores) :
    SameMarks s t where
  walks n := by unfold State.core; rw [hc]
  entries n j := by unfold State.core; rw [hc]
  windows w := by unfold State.window; rw [hd]
  pins := hp

theorem SameMarks.refl (s : State) : SameMarks s s := of_pins rfl rfl fun _ _ => rfl

theorem Served.sameMarks (h : Served s t) : SameMarks s t where
  walks n := congrArg SCore.walk (h.core_s n)
  entries := h.core_mte
  windows := h.window
  pins := h.calm.pins

theorem SameMarks.of_pinned {us : List Nat} {n : Nat} (h : SameMarks s t) (hn : Pins s us n) : Pins t us n := by
  obtain ⟨x, hx, hp⟩ := hn
  refine ⟨x, hx, ?_⟩
  rw [h.pins, h.pins]
  exact hp

/-- Stage 1 has been done for units that the state `s` knows (R349, R352, R374). -/
def MarkedFrom (s : State) (us : List Nat) (t : State) : Prop :=
  t.mem.walkCache = [] ∧
    (∀ n, Pins s us n →
      (∀ j : BitVec 6, ((s.core n).mte j.toNat).st = .live → ((s.core n).mte j.toNat).pred = false →
        Hit us ((s.core n).mte j.toNat).runs → (t.core n).mte j.toNat = { (s.core n).mte j.toNat with st := .stale }) ∧
      (∀ w, (s.core n).s.walk = some w → (∃ p, p ∈ w.pages ∧ p.pinned = true ∧ p.run.covers us = true) →
        (t.core n).s.walk = some { w with stale := true })) ∧
    ∀ w, (s.window w).mte.st = .live → Hit us (s.window w).mte.runs →
      t.window w = { s.window w with mte := { (s.window w).mte with st := .stale } }

theorem UnitsMarked.markedFrom {us : List Nat} (hs : SameMarks s r) (h : UnitsMarked us r t) : MarkedFrom s us t := by
  refine ⟨by rw [h.mem], fun n hn => ?_, fun w hl hr => ?_⟩
  · have hc := h.pins n (hs.of_pinned hn)
    refine ⟨fun j hl hp hr => ?_, fun w hw hp => ?_⟩
    · rw [hc.mtes, hs.entries]
      exact Mte.marked_live hl hp hr
    · rw [hc.core]
      exact (congrArg (Option.map (Walk.marked us)) ((hs.walks n).trans hw)).trans (congrArg some (Walk.marked_pinned hp))
  · rw [h.windows, hs.windows]
    exact Window.marked_live hl hr

/-! The directory entries of discarded units (R347, R353). -/

theorem State.clampAt_setClamp (s : State) (h : Bool) (x : Nat) (e : Clamp) (h' : Bool) (y : Nat) :
    (s.setClamp h x e).clampAt h' y = if h' = h ∧ y = x then e else s.clampAt h' y := by
  cases h <;> cases h' <;>
    simp only [State.setClamp, State.clampAt, if_true, if_false, Bool.false_eq_true, Bool.true_eq_false, false_and, true_and, Sparse.get_put]

theorem State.clampAt_setDsc (s : State) (d : Bool) (x : Nat) (h : Bool) (y : Nat) :
    (s.setDsc d x).clampAt h y = if h = hostOnly x ∧ y = x then { s.clampAt h y with dsc := d } else s.clampAt h y := by
  unfold State.setDsc
  rw [State.clampAt_setClamp]
  split
  · next hxy => rw [hxy.1, hxy.2]
  · rfl

/-- Several units are marked discarded, or are free of the mark. -/
def State.setDscs (s : State) (d : Bool) (us : List Nat) : State := us.foldl (fun (s : State) u => s.setDsc d u) s

theorem MemBench.setDscs (s : State) (d : Bool) (us : List Nat) : MemBench s (s.setDscs d us) :=
  MemBench.foldl (fun t x => MemBench.setClamp t _ x _) us s

/-- Nothing but marks and the clamp directory differs as units are marked discarded. -/
theorem State.setDscs_eq (s : State) (d : Bool) (us : List Nat) :
    s.setDscs d us = { s with mem := { s.mem with clamp := (s.setDscs d us).mem.clamp, hclamp := (s.setDscs d us).mem.hclamp } } := by
  refine foldl_keeps (P := fun t : State => t = { s with mem := { s.mem with clamp := t.mem.clamp, hclamp := t.mem.hclamp } })
    (fun t x ht => ?_) us s rfl
  unfold State.setDsc State.setClamp
  split <;> rw [ht]

theorem State.dsc_setDscs (s : State) (d : Bool) {us : List Nat} {x : Nat} (hx : x ∈ us) :
    ((s.setDscs d us).clampAt (hostOnly x) x).dsc = d := by
  have hkeep (t : State) (y : Nat) (ht : (t.clampAt (hostOnly x) x).dsc = d) : ((t.setDsc d y).clampAt (hostOnly x) x).dsc = d := by
    rw [State.clampAt_setDsc]
    split
    · rfl
    · exact ht
  induction us generalizing s with
  | nil => cases hx
  | cons y us ih =>
    obtain rfl | hx := List.mem_cons.1 hx
    · refine foldl_keeps (P := fun t : State => (t.clampAt (hostOnly x) x).dsc = d) (fun t y => hkeep t y) us (s.setDsc d x) ?_
      rw [State.clampAt_setDsc, if_pos ⟨rfl, rfl⟩]
    · exact ih (s.setDsc d y) hx

theorem SameMarks.setDscs (s : State) (d : Bool) (us : List Nat) : SameMarks s (s.setDscs d us) := by
  refine of_pins (MemBench.setDscs s d us).cores (by rw [MemBench.setDscs s d us]) fun h x => ?_
  refine foldl_keeps (P := fun t : State => (t.clampAt h x).cores = (s.clampAt h x).cores) (fun t y ht => ?_) us s rfl
  rw [State.clampAt_setDsc]
  split
  · exact ht
  · exact ht

/-! The pieces of a request (R350). -/

/-- Before stage 1 the units of a DISCARD are marked discarded (R353). -/
def State.discarding (s : State) (reason : Nat) (us : List Nat) : State := if reason = reasonDiscard then s.setDscs true us else s

theorem SameMarks.discarding (s : State) (reason : Nat) (us : List Nat) : SameMarks s (s.discarding reason us) := by
  unfold State.discarding
  split
  · exact setDscs s true us
  · exact refl s

theorem State.discarding_eq (s : State) (reason : Nat) (us : List Nat) : s.discarding reason us =
    { s with mem := { s.mem with clamp := (s.discarding reason us).mem.clamp, hclamp := (s.discarding reason us).mem.hclamp } } := by
  unfold State.discarding
  split
  · exact s.setDscs_eq true us
  · rfl

theorem State.markPiece_marked (s : State) (reason : Nat) (us : List Nat) :
    UnitsMarked us (s.discarding reason us) (s.markPiece reason us) := State.markUnits_marked _ us

theorem State.dsc_markPiece (s : State) {reason : Nat} {us : List Nat} (hr : reason = 3) {x : Nat} (hx : x ∈ us) :
    ((s.markPiece reason us).clampAt (hostOnly x) x).dsc = true := by
  have hm := (s.markPiece_marked reason us).mem
  have hd : s.discarding reason us = s.setDscs true us := if_pos hr
  unfold State.clampAt
  rw [hm, hd]
  exact s.dsc_setDscs true hx

/-! The migration table (R355). -/

/-- The pair that a MIGRATE request enters. -/
def State.pairOf (s : State) (rq : RevokeReq) : MigPair :=
  let old := s.mem.mig.find? (fun p => p.newUnit == firstUnit rq)
  { ix := rq.ix.toNat
    oldUnit := firstUnit rq
    newUnit := rq.newPa.toNat / 65536
    units := rq.units.toNat
    leafPa := rq.leafPa.toNat
    missing := List.range (512 * rq.units.toNat)
    olds := match old with
      | some p => p.oldUnit :: p.olds
      | none => []
    origin := match old with
      | some p => p.missing.foldl (fun m l => Sparse.put none m l (some (p.source l))) []
      | none => [] }

theorem State.mem_enterPair (s : State) (rq : RevokeReq) : s.pairOf rq ∈ (s.enterPair rq).mem.mig :=
  List.mem_append_right _ (List.mem_singleton.2 rfl)

theorem State.enterPair_eq (s : State) (rq : RevokeReq) : s.enterPair rq = { s with mem := (s.enterPair rq).mem } := rfl

theorem SameMarks.enterPair (s : State) (rq : RevokeReq) : SameMarks s (s.enterPair rq) := by
  have hkeep (x : Nat) (is : List Nat) : (Sparse.get {} (is.foldl (fun (m : Mem) i => (m.setMig (firstUnit rq + i) true true
      (rq.newPa.toNat / 65536 + i)).setMig (rq.newPa.toNat / 65536 + i) true false (firstUnit rq + i)) s.mem).clamp x).cores =
        (Sparse.get {} s.mem.clamp x).cores ∧
      (is.foldl (fun (m : Mem) i => (m.setMig (firstUnit rq + i) true true
      (rq.newPa.toNat / 65536 + i)).setMig (rq.newPa.toNat / 65536 + i) true false (firstUnit rq + i)) s.mem).hclamp = s.mem.hclamp := by
    refine foldl_keeps (P := fun m : Mem => (Sparse.get {} m.clamp x).cores = _ ∧ m.hclamp = _) (fun m i hm => ?_) is s.mem ⟨rfl, rfl⟩
    obtain ⟨h1, h2⟩ := m.cores_setMig (firstUnit rq + i) true true (rq.newPa.toNat / 65536 + i) x
    obtain ⟨h3, h4⟩ := (m.setMig (firstUnit rq + i) true true (rq.newPa.toNat / 65536 + i)).cores_setMig
      (rq.newPa.toNat / 65536 + i) true false (firstUnit rq + i) x
    exact ⟨(h3.trans h1).trans hm.1, (h4.trans h2).trans hm.2⟩
  refine of_pins rfl rfl fun h x => ?_
  obtain ⟨h1, h2⟩ := hkeep x (List.range rq.units.toNat)
  cases h with
  | true => exact congrArg (fun m => (Sparse.get {} m x).cores) h2
  | false => exact h1

end Sys2Proof.Machine
end

section
/-! PROOF. Requests that are refused, kept waiting or accepted (R348-R350, R353, R355). -/

namespace Sys2Proof.Machine

open Sys2Proof

variable {s : State} {reason : Nat} {rq : RevokeReq}

/-! An accepted request. -/

/-- A MIGRATE request enters the migration table as it is accepted (R355). -/
def State.entering (s : State) (reason : Nat) (rq : RevokeReq) : State := if reason = reasonMigrate then s.enterPair rq else s

theorem State.entering_eq (s : State) (reason : Nat) (rq : RevokeReq) :
    s.entering reason rq = { s with mem := (s.entering reason rq).mem } := by
  unfold State.entering
  split
  · exact s.enterPair_eq rq
  · rfl

theorem SameMarks.entering (s : State) (reason : Nat) (rq : RevokeReq) : SameMarks s (s.entering reason rq) := by
  unfold State.entering
  split
  · exact enterPair s rq
  · exact refl s

/-- The revocation that a request becomes (R349, R350). -/
def revocOf (reason : Nat) (rq : RevokeReq) : Revoc := ⟨rq.ix.toNat, reason, unitsOf rq, (unitsOf rq).drop 32⟩

theorem State.markPiece_revocs (s : State) (reason : Nat) (us : List Nat) : (s.markPiece reason us).bench.revocs = s.bench.revocs := by
  rw [(s.markPiece_marked reason us).bench, s.discarding_eq]

theorem State.markPiece_requests (s : State) (reason : Nat) (us : List Nat) : (s.markPiece reason us).bench.requests = s.bench.requests := by
  rw [(s.markPiece_marked reason us).bench, s.discarding_eq]

theorem State.markPiece_mig (s : State) (reason : Nat) (us : List Nat) : (s.markPiece reason us).mem.mig = s.mem.mig := by
  rw [(s.markPiece_marked reason us).mem, s.discarding_eq]

theorem State.markPiece_markedFrom {t : State} (h : SameMarks s t) (us : List Nat) : MarkedFrom s us (t.markPiece reason us) :=
  (t.markPiece_marked reason us).markedFrom (h.trans (SameMarks.discarding t reason us))

theorem State.accept_revocs (s : State) (reason : Nat) (rq : RevokeReq) :
    (s.accept reason rq).bench.revocs = s.bench.revocs ++ [revocOf reason rq] := by
  have hb : (s.entering reason rq).bench = s.bench := by rw [s.entering_eq]
  exact congrArg (fun l => l ++ [revocOf reason rq]) ((State.markPiece_revocs _ reason _).trans (congrArg Bench.revocs hb))

/-- A MIGRATE request's pair is in the table, every line missing (R355). -/
theorem State.mem_accept_mig (s : State) (rq : RevokeReq) : s.pairOf rq ∈ (s.accept 2 rq).mem.mig := by
  have hm : (s.accept 2 rq).mem.mig = (s.enterPair rq).mem.mig := State.markPiece_mig _ 2 _
  rw [hm]
  exact s.mem_enterPair rq

/-! The requests of R348. -/

section
variable {q : Instr} (hx : exec q s = .next (s.request reason rq))
include hx

theorem does_request_malformed (hv : requestValid reason rq = false) : Does q s (fun t =>
    t.bench.events = s.bench.events ++ [.malformedRequest rq.ix.toNat] ∧ t.mem = s.mem ∧ t.cores = s.cores) := by
  unfold State.request at hx
  rw [hv] at hx
  exact ⟨_, hx, rfl, rfl, rfl⟩

theorem does_request_waits (hv : requestValid reason rq = true) (hw : s.requestWaits reason rq = true) : Does q s (fun t =>
    t.bench.requests = s.bench.requests ++ [(reason, rq)] ∧ t.mem = s.mem ∧ t.cores = s.cores) := by
  unfold State.request at hx
  rw [hv, hw] at hx
  exact ⟨_, hx, rfl, rfl, rfl⟩

theorem does_request_accepted (hv : requestValid reason rq = true) (hw : s.requestWaits reason rq = false) : Does q s (fun t =>
    t.bench.revocs = s.bench.revocs ++ [revocOf reason rq] ∧ MarkedFrom s ((unitsOf rq).take 32) t ∧
    (reason = 3 → ∀ u, u ∈ (unitsOf rq).take 32 → (t.clampAt (hostOnly u) u).dsc = true) ∧
    (reason = 2 → ∃ p, p ∈ t.mem.mig ∧ p.ix = rq.ix.toNat ∧ p.oldUnit = rq.oldPa.toNat / 65536 ∧
      p.newUnit = rq.newPa.toNat / 65536 ∧ p.units = rq.units.toNat ∧ p.settled = false ∧
      p.missing = List.range (512 * rq.units.toNat))) := by
  unfold State.request at hx
  rw [hv, hw] at hx
  refine ⟨_, hx, s.accept_revocs reason rq, State.markPiece_markedFrom (SameMarks.entering s reason rq) _,
    fun hr u hu => (s.entering reason rq).dsc_markPiece hr hu, ?_⟩
  rintro rfl
  exact ⟨s.pairOf rq, s.mem_accept_mig rq, rfl, rfl, rfl, rfl, rfl, rfl⟩

end

/-! What stage 1 leaves of stores on their way (R249, R391). -/

/-- No store has come to stand in a buffer, and no WRITE to be visible later. -/
structure Unbuffered (s t : State) : Prop where
  panels : t.panels = s.panels
  inbound : t.dv.inbound = s.dv.inbound
  cores : ∀ n, (t.core n).buffer = (s.core n).buffer ∧ (t.core n).panel = (s.core n).panel

theorem Unbuffered.trans {s t u : State} (h : Unbuffered s t) (h' : Unbuffered t u) : Unbuffered s u where
  panels := h'.panels.trans h.panels
  inbound := h'.inbound.trans h.inbound
  cores n := ⟨(h'.cores n).1.trans (h.cores n).1, (h'.cores n).2.trans (h.cores n).2⟩

theorem Unbuffered.of_cores {s t : State} (hp : t.panels = s.panels) (hd : t.dv = s.dv) (hc : t.cores = s.cores) : Unbuffered s t where
  panels := hp
  inbound := by rw [hd]
  cores n := by unfold State.core; rw [hc]; exact ⟨rfl, rfl⟩

theorem Unbuffered.noBuffer {s t : State} {n : Nat} (h : Unbuffered s t) (hb : NoBuffer s n) : NoBuffer t n := by
  unfold NoBuffer Core.panelBase State.panel at *
  rw [(h.cores n).1, (h.cores n).2, h.panels]
  exact hb

theorem Unbuffered.markPiece (s : State) (reason : Nat) (us : List Nat) : Unbuffered s (s.markPiece reason us) := by
  have h := s.markPiece_marked reason us
  refine trans (of_cores (t := s.discarding reason us) ?_ ?_ ?_) ⟨h.panels, by rw [h.dv], fun n => ?_⟩
  · rw [s.discarding_eq]
  · rw [s.discarding_eq]
  · rw [s.discarding_eq]
  · obtain hc | hc := h.cores n
    · rw [hc]
      exact ⟨rfl, rfl⟩
    · rw [hc.core]
      exact ⟨rfl, rfl⟩

theorem Unbuffered.accept (s : State) (reason : Nat) (rq : RevokeReq) : Unbuffered s (s.accept reason rq) := by
  refine trans (of_cores (t := s.entering reason rq) ?_ ?_ ?_) ((markPiece _ reason ((unitsOf rq).take 32)).trans (of_cores rfl rfl rfl))
  · rw [s.entering_eq]
  · rw [s.entering_eq]
  · rw [s.entering_eq]

theorem Unbuffered.pumpRequests (n : Nat) (s : State) : Unbuffered s (State.pumpRequests n s) := by
  induction n generalizing s with
  | zero => exact of_cores rfl rfl rfl
  | succ n ih =>
    unfold State.pumpRequests
    split
    · exact of_cores rfl rfl rfl
    · refine trans (trans ?_ (accept _ _ _)) (ih _)
      exact of_cores rfl rfl rfl

end Sys2Proof.Machine
end

section
/-! PROOF. The settling of a revocation: every store is visible to the device (R249, R349, R350, R354, R356, R391). -/

namespace Sys2Proof.Machine

open Sys2Proof

variable {s t u : State} {k : Nat}

/-! Stores become visible to the device. -/

/-- Stores have left the cores' buffers: what stage 1 marks and what the Bench holds stay. -/
structure Quieter (s t : State) : Prop where
  marks : SameMarks s t
  bench : t.bench = { s.bench with events := t.bench.events }
  inbound : t.dv.inbound = s.dv.inbound
  panelOf : ∀ n, (t.core n).panel = (s.core n).panel
  buffers : ∀ n, (s.core n).buffer = [] → (t.core n).buffer = []

theorem Quieter.trans (h : Quieter s t) (h' : Quieter t u) : Quieter s u where
  marks := h.marks.trans h'.marks
  bench := by rw [h'.bench, h.bench]
  inbound := h'.inbound.trans h.inbound
  panelOf n := (h'.panelOf n).trans (h.panelOf n)
  buffers n hn := h'.buffers n (h.buffers n hn)

theorem Served.quieter (h : Served s t) : Quieter s t :=
  ⟨h.sameMarks, h.calm.bench, h.calm.inbound, h.core_panel, fun n hn => (h.core_buffer n).trans hn⟩

theorem Quieter.setPanel (s : State) (b : Nat) (p : Panel) : Quieter s (s.setPanel b p) :=
  ⟨SameMarks.of_pins rfl rfl fun _ _ => rfl, rfl, rfl, fun _ => rfl, fun _ h => h⟩

/-- A core that gives its stores up is as it was but for its buffer. -/
theorem unbuffered_core (s : State) (k n : Nat) : ((s.onCore k Core.unbuffered).core n).s = (s.core n).s ∧
    ((s.onCore k Core.unbuffered).core n).mtes = (s.core n).mtes ∧ ((s.onCore k Core.unbuffered).core n).panel = (s.core n).panel := by
  rw [State.core_onCore]
  split
  · next h => subst h; exact ⟨rfl, rfl, rfl⟩
  · exact ⟨rfl, rfl, rfl⟩

theorem Quieter.unbuffered (s : State) (k : Nat) : Quieter s (s.onCore k Core.unbuffered) where
  marks := ⟨fun n => congrArg SCore.walk (unbuffered_core s k n).1,
    fun n j => congrArg (fun m : Sparse Mte => Sparse.get ({} : Mte) m j) (unbuffered_core s k n).2.1, fun _ => rfl, fun _ _ => rfl⟩
  bench := rfl
  inbound := rfl
  panelOf n := (unbuffered_core s k n).2.2
  buffers n hn := by
    rw [State.core_onCore]
    split
    · rfl
    · exact hn

theorem Served.putAll (s : State) (gs : List (Nat × Seg)) : Served s (s.putAll gs) := by
  refine (StoresOnly.putAll (h := False) s fun _ _ h => h.elim).served ?_
  unfold State.putAll
  exact Calm.foldl (fun t g => Calm.putSeg t g.1 g.2) gs

/-- A flush leaves no store of the core, nor of its panel, on the way (R249). -/
theorem State.flush_spec (s : State) (k : Nat) : Quieter s (s.flush k) ∧ NoBuffer (s.flush k) k ∧
    ∀ b, (s.panel b).buffer = [] → ((s.flush k).panel b).buffer = [] := by
  by_cases h : (s.core k).panel.size = 0#5
  · have hsv := Served.putAll s (partsIn (s.toShow k))
    have hq := hsv.quieter.trans (Quieter.unbuffered _ k)
    rw [State.flush_alone h]
    refine ⟨hq, ⟨?_, fun hne => ?_⟩, fun b hb => ?_⟩
    · rw [State.core_onCore_self]
      rfl
    · rw [hq.panelOf] at hne
      exact absurd h hne
    · exact (congrArg Panel.buffer (hsv.panel b)).trans hb
  · obtain ⟨p, hp⟩ := State.flush_in h
    have hsv := Served.putAll (s.toPanel k) (partsIn (s.toShow k))
    have hq0 : Quieter s (s.toPanel k) := by
      rw [State.toPanel_in h]
      exact (Quieter.setPanel s _ _).trans (Quieter.unbuffered _ k)
    have hq := (hq0.trans hsv.quieter).trans (Quieter.setPanel _ ((s.core k).panelBase k) { p with buffer := [] })
    rw [hp]
    refine ⟨hq, ⟨?_, fun _ => ?_⟩, fun b hb => ?_⟩
    · refine (hsv.core_buffer k).trans ?_
      rw [State.toPanel_in h, State.core_onCore_self]
      rfl
    · have hbase := congrArg (fun q : PanelReg => if q.size = 0#5 then k else q.base.toNat) (hq.panelOf k)
      exact (congrArg Panel.buffer (State.panel_setPanel _ _ _ _)).trans (congrArg Panel.buffer (if_pos hbase))
    · rw [State.panel_setPanel]
      split
      · rfl
      · next hne =>
        rw [hsv.panel, State.toPanel_in h]
        exact (congrArg Panel.buffer ((State.panel_setPanel s _ _ b).trans (if_neg hne))).trans hb

theorem Quieter.noBuffer {n : Nat} (h : Quieter s t) (hp : ∀ b, (s.panel b).buffer = [] → (t.panel b).buffer = []) (hb : NoBuffer s n) :
    NoBuffer t n := by
  obtain ⟨h1, h2⟩ := hb
  refine ⟨h.buffers n h1, fun hs => ?_⟩
  unfold Core.panelBase at *
  rw [h.panelOf] at hs ⊢
  exact hp _ (h2 hs)

/-- Every core's stores become visible to the device. -/
theorem State.flushAll_spec (ks : List Nat) (s : State) : Quieter s (ks.foldl (fun (s : State) k => s.flush k) s) ∧
    (∀ b, (s.panel b).buffer = [] → ((ks.foldl (fun (s : State) k => s.flush k) s).panel b).buffer = []) ∧
    ∀ n, n ∈ ks ∨ NoBuffer s n → NoBuffer (ks.foldl (fun (s : State) k => s.flush k) s) n := by
  induction ks generalizing s with
  | nil => exact ⟨(Served.refl s).quieter, fun _ h => h, fun n h => h.resolve_left List.not_mem_nil⟩
  | cons k ks ih =>
    obtain ⟨f1, f2, f3⟩ := s.flush_spec k
    obtain ⟨i1, i2, i3⟩ := ih (s.flush k)
    rw [List.foldl_cons]
    refine ⟨f1.trans i1, fun b hb => i2 b (f3 b hb), fun n hn => i3 n ?_⟩
    by_cases hk : n = k
    · exact .inr (hk ▸ f2)
    · obtain h | h := hn
      · exact .inl ((List.mem_cons.1 h).resolve_left hk)
      · exact .inr (f1.noBuffer f3 h)

theorem Served.putSegs (s : State) (gs : List Seg) : Served s (s.putSegs gs) := foldl (fun t g => writeAt t g.site g.addr g.data g.key) gs

theorem Served.landAll (n : Nat) (s : State) (l : List Inbound) : Served s (State.landAll n s l) := by
  induction n generalizing s l with
  | zero => exact refl s
  | succ n ih =>
    unfold State.landAll
    split
    · exact refl s
    · refine trans (trans (t := s.draw.2) ?_ (putSegs _ _)) (ih _ _)
      exact of_cores rfl (Calm.of_clamps rfl rfl rfl rfl rfl)

/-! What a settling leaves (R349). -/

/-- The state in which a revocation has settled: every store and every WRITE that was admitted is visible to the device. -/
def State.settling (s : State) : State :=
  ((s.cores.map (fun e => e.1)).foldl (fun (s : State) k => s.flush k) s).landWrites (fun _ => true)

/-- What stage 1 marks and what the Bench holds stay, and no store is on its way. -/
structure SettledFrom (s t : State) : Prop where
  marks : SameMarks s t
  bench : t.bench = { s.bench with events := t.bench.events }
  inbound : t.dv.inbound = []
  noBuffer : ∀ n, NoBuffer t n

theorem State.settling_spec (s : State) : SettledFrom s s.settling := by
  obtain ⟨hq, -, hb⟩ := State.flushAll_spec (s.cores.map (fun e => e.1)) s
  have hnone (l : List Inbound) : l.filter (fun _ => !true) = [] := List.filter_eq_nil_iff.2 fun _ _ h => nomatch h
  have hall (n : Nat) : NoBuffer ((s.cores.map (fun e => e.1)).foldl (fun (s : State) k => s.flush k) s) n := by
    refine hb n ?_
    by_cases hn : n ∈ s.cores.map (fun e => e.1)
    · exact .inl hn
    · refine .inr ?_
      unfold NoBuffer
      rw [State.core, Sparse.get_of_notMem _ hn]
      exact ⟨rfl, fun h => absurd rfl h⟩
  unfold State.settling State.landWrites
  generalize (s.cores.map (fun e => e.1)).foldl (fun (s : State) k => s.flush k) s = f at hq hall
  dsimp only
  rw [hnone]
  have hland (l : List Inbound) (n : Nat) := Served.landAll n ({ f with dv := { f.dv with inbound := [] } } : State) l
  have hf : SameMarks f ({ f with dv := { f.dv with inbound := [] } } : State) := ⟨fun _ => rfl, fun _ _ => rfl, fun _ => rfl, fun _ _ => rfl⟩
  exact ⟨(hq.marks.trans hf).trans (hland _ _).sameMarks, (by rw [(hland _ _).calm.bench, hq.bench]), (hland _ _).calm.inbound,
    fun n => (hland _ _).quieter.noBuffer (fun b hb => (congrArg Panel.buffer ((hland _ _).panel b)).trans hb) (hall n)⟩

end Sys2Proof.Machine
end

section
/-! PROOF. Revocations that settle, and the lines of migrating pages (R349, R350, R353-R358). -/

namespace Sys2Proof.Machine

open Sys2Proof

variable {s : State}

/-! REVOCATION_SETTLED. -/

/-- The Bench's entry of a revocation when a piece of it has settled and the next one is marked (R350). -/
def Revoc.nextPiece (r : Revoc) : Revoc := { r with rest := r.rest.drop 32 }

/-- The next piece of a revocation is marked (R350). -/
def State.markNext (s : State) (r : Revoc) : State :=
  let u := s.markPiece r.reason (r.rest.take 32)
  { u with bench := { u.bench with revocs := u.bench.revocs.map (fun q => if q.ix = r.ix then r.nextPiece else q) } }

/-- A pair whose old unit has been revoked everywhere: its lines may be pulled (R356). -/
def MigPair.settle (r : Revoc) (p : MigPair) : MigPair := if p.ix = r.ix ∧ r.reason = reasonMigrate then { p with settled := true } else p

/-- The state in which the last piece of a revocation has settled, before the Bench learns of it (R354, R356). -/
def State.revoked (s : State) (r : Revoc) : State :=
  let u := if r.reason = reasonUnmap then s.setDscs false r.units else s
  { u with
    bench := { u.bench with revocs := u.bench.revocs.filter (fun q => q.ix != r.ix) }
    mem := { u.mem with mig := u.mem.mig.map (MigPair.settle r) } }

theorem State.revoked_bench (s : State) (r : Revoc) : (s.revoked r).bench =
    { s.bench with revocs := s.bench.revocs.filter (fun q => q.ix != r.ix) } := by
  unfold State.revoked
  split
  · rw [s.setDscs_eq]
  · rfl

theorem Unbuffered.revoked (s : State) (r : Revoc) : Unbuffered s (s.revoked r) := by
  unfold State.revoked
  split
  · refine of_cores ?_ ?_ ?_ <;> dsimp only <;> rw [s.setDscs_eq]
  · exact of_cores rfl rfl rfl

theorem State.dsc_revoked (s : State) {r : Revoc} (hr : r.reason = 1) {u : Nat} (hu : u ∈ r.units) :
    ((s.revoked r).clampAt (hostOnly u) u).dsc = false := by
  unfold State.revoked
  rw [show (if r.reason = reasonUnmap then s.setDscs false r.units else s) = s.setDscs false r.units from if_pos hr]
  exact s.dsc_setDscs false hu

theorem State.settled_revoked (s : State) {r : Revoc} (hr : r.reason = 2) {p : MigPair} (hp : p ∈ (s.revoked r).mem.mig) (hi : p.ix = r.ix) :
    p.settled = true := by
  obtain ⟨q, -, rfl⟩ := List.mem_map.1 hp
  by_cases hq : q.ix = r.ix
  · have hset : MigPair.settle r q = { q with settled := true } := if_pos ⟨hq, hr⟩
    rw [hset]
  · have hset : MigPair.settle r q = q := if_neg fun h => hq h.1
    rw [hset] at hi
    exact absurd hi hq

section
variable {ix : BitVec 64} {r : Revoc} (hf : s.bench.revocs.find? (fun q => q.ix == ix.toNat) = some r)
include hf

theorem exec_settled_next (hr : r.rest ≠ []) : exec (.revocationSettled ix) s = .next (s.settling.markNext r) := by
  have hb : (!r.rest.isEmpty) = true := by cases h : r.rest with
    | nil => exact absurd h hr
    | cons => rfl
  change execRevocationSettled ix s = _
  unfold execRevocationSettled
  rw [hf]
  exact if_pos hb

theorem exec_settled_last (hr : r.rest = []) : exec (.revocationSettled ix) s =
    .next (State.pumpRequests ((s.settling.revoked r).tell (.revocationDone r.ix)).bench.requests.length
      ((s.settling.revoked r).tell (.revocationDone r.ix))) := by
  change execRevocationSettled ix s = _
  unfold execRevocationSettled
  rw [hf]
  exact if_neg (by rw [hr]; decide)

/-- Every store is visible to the device, and the next piece is marked, or the Bench learns of the completion (R349, R350). -/
theorem does_revocationSettled : Does (.revocationSettled ix) s (fun t =>
    (r.rest ≠ [] → { r with rest := r.rest.drop 32 } ∈ t.bench.revocs ∧ t.bench.requests = s.bench.requests ∧
      MarkedFrom s (r.rest.take 32) t ∧ (r.reason = 3 → ∀ u, u ∈ r.rest.take 32 → (t.clampAt (hostOnly u) u).dsc = true)) ∧
    (r.rest = [] → s.bench.requests = [] →
      (∀ q, q ∈ t.bench.revocs → q.ix ≠ r.ix) ∧ BenchEvent.revocationDone r.ix ∈ t.bench.events ∧
      (r.reason = 1 → ∀ u, u ∈ r.units → (t.clampAt (hostOnly u) u).dsc = false) ∧
      (r.reason = 2 → ∀ p, p ∈ t.mem.mig → p.ix = r.ix → p.settled = true)) ∧
    t.dv.inbound = [] ∧ ∀ n, NoBuffer t n) := by
  obtain ⟨hmarks, hbench, hin, hnb⟩ := s.settling_spec
  by_cases hr : r.rest = []
  · have hu : Unbuffered s.settling ((s.settling.revoked r).tell (.revocationDone r.ix)) :=
      (Unbuffered.revoked s.settling r).trans (.of_cores rfl rfl rfl)
    have hp := hu.trans (Unbuffered.pumpRequests ((s.settling.revoked r).tell (.revocationDone r.ix)).bench.requests.length _)
    refine ⟨_, exec_settled_last hf hr, fun h => absurd hr h, fun _ hq => ?_, hp.inbound.trans hin, fun n => hp.noBuffer (hnb n)⟩
    have hreq : ((s.settling.revoked r).tell (.revocationDone r.ix)).bench.requests = [] := by
      change (s.settling.revoked r).bench.requests = []
      rw [State.revoked_bench, hbench]
      exact hq
    rw [hreq]
    refine ⟨fun q hmem => ?_, List.mem_append_right _ (List.mem_singleton.2 rfl), fun h1 u hu => s.settling.dsc_revoked h1 hu,
      fun h2 p hp hi => s.settling.settled_revoked h2 hp hi⟩
    have hmem' : q ∈ (s.settling.revoked r).bench.revocs := hmem
    rw [State.revoked_bench] at hmem'
    simpa using (List.mem_filter.1 hmem').2
  · have hu : Unbuffered s.settling (s.settling.markNext r) := (Unbuffered.markPiece _ r.reason (r.rest.take 32)).trans (.of_cores rfl rfl rfl)
    refine ⟨_, exec_settled_next hf hr, fun _ => ⟨?_, ?_, State.markPiece_markedFrom hmarks _, fun h3 u hu => State.dsc_markPiece _ h3 hu⟩,
      fun h => absurd h hr, hu.inbound.trans hin, fun n => hu.noBuffer (hnb n)⟩
    · refine List.mem_map.2 ⟨r, ?_, if_pos rfl⟩
      rw [State.markPiece_revocs, hbench]
      exact List.mem_of_find?_eq_some hf
    · exact (State.markPiece_requests _ _ _).trans (by rw [hbench])

end

/-! MIGRATION_LINE_PULL. -/

/-- The Bench is told that units are free (R358). -/
theorem State.tells_free (s : State) (us : List Nat) : us.foldl (fun (s : State) u => s.tell (.unitFree u)) s =
    { s with bench := { s.bench with events := s.bench.events ++ us.map BenchEvent.unitFree } } := by
  induction us generalizing s with
  | nil => rw [List.map_nil, List.append_nil]; rfl
  | cons u us ih =>
    rw [List.foldl_cons, ih]
    unfold State.tell
    simp only [List.map_cons, List.append_assoc, List.singleton_append]

/-- The end of a migration frees its entry and its old units (R358). -/
theorem State.finishMig_frees (s : State) (p : MigPair) : (∀ q, q ∈ (s.finishMig p).mem.mig → q.ix ≠ p.ix) ∧
    ∀ u, u ∈ p.oldUnit :: p.olds → BenchEvent.unitFree u ∈ (s.finishMig p).bench.events := by
  unfold State.finishMig
  dsimp only
  rw [State.tells_free]
  refine ⟨fun q hq => ?_, fun u hu => List.mem_append_right _ (List.mem_map.2 ⟨u, hu, rfl⟩)⟩
  simpa using (List.mem_filter.1 hq).2

/-- A line is copied whole. -/
theorem Store.bytes_copyLine (m : Store) (o n : Nat) {j : Nat} (hj : j < 128) :
    Sparse.get 0 (m.copyLine o n).bytes (n + j) = Sparse.get 0 m.bytes (o + j) := by
  have hd : (m.get o 128).map (fun c => c.1) = (List.range 128).map (fun i => Sparse.get 0 m.bytes (o + i)) := by
    rw [← Sparse.getList_eq]
    exact List.map_fst_zip (by rw [Sparse.length_getList, Sparse.length_getList])
  change Sparse.get 0 (Sparse.putList 0 m.bytes n ((m.get o 128).map (fun c => c.1))) (n + j) = _
  rw [hd, Sparse.get_putList, List.length_map, List.length_range, if_pos ⟨Nat.le_add_right n j, Nat.add_lt_add_left hj n⟩, Nat.add_sub_cancel_left,
    List.getD_eq_getElem _ _ (by rw [List.length_map, List.length_range]; exact hj), List.getElem_map, List.getElem_range]

section
variable {pair : BitVec 7} {p : MigPair} {l : Nat} {ls : List Nat} (hq : s.bench.requests = []) (hm : s.mem.mig[pair.toNat]? = some p)
  (hl : p.missing = l :: ls) (hs : p.settled = true)

/-- A pair of which a line has arrived. -/
def MigPair.arrived (p : MigPair) (l : Nat) : MigPair := { p with missing := p.missing.filter (fun x => x != l) }

/-- The state in which a line of a pair has arrived (R356). -/
def State.lineArrived (s : State) (p : MigPair) (l : Nat) : State := { s with mem := { s.mem with
  dev := s.mem.dev.copyLine (p.source l * 65536 + 128 * l) (p.newUnit * 65536 + 128 * l)
  mig := s.mem.mig.map (fun q => if q.ix = p.ix then p.arrived l else q) } }

include hl in
theorem State.pullLine_eq : s.pullLine p l =
    if (p.arrived l).missing.isEmpty then (s.lineArrived p l).finishMig (p.arrived l) else s.lineArrived p l := by
  have hc : p.missing.contains l = true := by rw [hl]; exact List.contains_iff_mem.2 List.mem_cons_self
  unfold State.pullLine
  rw [hc]
  rfl

include hq hm hl hs

theorem exec_migrationLinePull : exec (.migrationLinePull pair) s = .next (s.pullLine p l) := by
  have hr : (s.pullLine p l).bench.requests = [] := by rw [(Calm.pullLine s p l).bench]; exact hq
  have hn : State.pumpRequests (s.pullLine p l).bench.requests.length (s.pullLine p l) = s.pullLine p l := by rw [hr]; rfl
  change execMigrationLinePull pair s = _
  unfold execMigrationLinePull
  simp only [hm, hl, hs, hn]
  rfl

theorem does_pull_line (hx : ∃ x, x ∈ ls ∧ x ≠ l) : Does (.migrationLinePull pair) s (fun t =>
    (∀ j, j < 128 → t.dev (p.newUnit * 65536 + 128 * l + j) = s.dev (p.source l * 65536 + 128 * l + j)) ∧
    { p with missing := p.missing.filter (fun x => x != l) } ∈ t.mem.mig) := by
  obtain ⟨x, hxl, hne⟩ := hx
  have hmem : x ∈ (p.arrived l).missing := List.mem_filter.2 ⟨by rw [hl]; exact List.mem_cons_of_mem _ hxl, by simpa using hne⟩
  have hn : ¬ (p.arrived l).missing.isEmpty = true := fun h => by rw [List.isEmpty_iff.1 h] at hmem; cases hmem
  refine ⟨_, exec_migrationLinePull hq hm hl hs, ?_⟩
  rw [State.pullLine_eq hl, if_neg hn]
  exact ⟨fun j hj => Store.bytes_copyLine _ _ _ hj, List.mem_map.2 ⟨p, List.mem_of_getElem? hm, if_pos rfl⟩⟩

theorem does_pull_last (hx : ls = []) : Does (.migrationLinePull pair) s (fun t => (∀ q, q ∈ t.mem.mig → q.ix ≠ p.ix) ∧
    ∀ u, u ∈ p.oldUnit :: p.olds → BenchEvent.unitFree u ∈ t.bench.events) := by
  have he : (p.arrived l).missing.isEmpty = true := by
    unfold MigPair.arrived
    rw [hl, hx]
    simp
  refine ⟨_, exec_migrationLinePull hq hm hl hs, ?_⟩
  rw [State.pullLine_eq hl, if_pos he]
  exact (s.lineArrived p l).finishMig_frees (p.arrived l)

end

/-- Settles O48: each reply, revocation and pull by the lemma about it. -/
theorem faultRepliesRevocationAndMigration : Obligations.FaultRepliesRevocationAndMigration := by
  intro ix rq core i pair f s hh he found k b c entry fails marked
  refine ⟨fun w n hf ho hw hp => ?_, fun hf ho => does_replyDeclined_rewalk hh he hf ho, ?_, ?_, fun p hp => ?_, ?_, ?_⟩
  · refine ⟨does_reply_fails hh he hf ho hw hp rfl (by rintro ⟨⟩) rfl, does_reply_fails hh he hf ho hw hp rfl (by rintro ⟨⟩) rfl,
      fun hn => does_reply_fails hh he hf ho hw hp rfl (fun _ => hn) rfl,
      fun hq => does_reply_fails hh he hf ho hw hp rfl (by rintro ⟨⟩) (if_pos hq), fun hq => does_replyNoframe hh he hf ho hw hp hq,
      ?_⟩
    intro u v x y mask fsel runs h0 ht hfree r hun hre hwalk hpf hpin hgood
    exact does_replyResolved hh he hf ho hw hp h0 ht hfree hun hre hwalk hpf hpin hgood
  · intro m hm hg unused tr
    exact ⟨fun hr => does_rewalk_restored hr, fun v mask fsel runs hr ht => does_rewalk_good hm hg hr ht,
      fun v cause va hr ht => does_rewalk_cause hm hg hr ht, fun v va a l kd hr ht => does_rewalk_invalid hm hg hr ht⟩
  · intro w y new old v mask fsel runs hw hp ho hst hwalk hpf hpin hgood
    exact does_confirmed hw hp ho hst hwalk hpf hpin hgood
  · have hx : exec p.2 s = .next (s.request p.1 rq) := by
      simp only [List.mem_cons, List.not_mem_nil, or_false] at hp
      obtain rfl | rfl | rfl | rfl := hp <;> rfl
    exact ⟨fun hv => does_request_malformed hx hv, fun hv hw => does_request_waits hx hv hw, fun hv hw => does_request_accepted hx hv hw⟩
  · exact fun r hf _ => does_revocationSettled hf
  · exact fun p l ls hq hm hl hs => ⟨fun hx => does_pull_line hq hm hl hs hx, fun hx => does_pull_last hq hm hl hs hx⟩

end Sys2Proof.Machine
end
